-- ==== Sys2Proof/Word.lean ====
section
/-! DEFINITION. The words of the ZV9: the byte and the 64-bit register word (R9, R635). -/

namespace Sys2Proof

/-- One byte of the store. -/
abbrev Byte := BitVec 8

/-- One register of the setup register space, a doorbell word, a bus word (R635). -/
abbrev Word := BitVec 64

/-- Sparse bytes in one canonical form: keys strictly rising, no entry equal to zero (Machine/Ops.lean says so). -/
abbrev Cells := List Host.Cell

end Sys2Proof
end

