-- ==== Sys2Proof/Syntax.lean ====
section
/-! DEFINITION. The commands of the ZV9: one constructor of `Instr` for each row of the table of operations and events,
with the operands that the row's rule reads. A descriptor's step names its descriptor by slice, ring and `SQ_INDEX`;
a received packet, a link block, a drive's answer and a sensor reading come as structures. -/

namespace Sys2Proof.Machine

/-- A Quaril packet (R408, R410): header fields as numbers, the payload as bytes. -/
structure QPkt where
  dest : Nat
  src : Nat
  epoch : Nat
  hops : Nat
  tc : Nat
  dl : Nat
  stream : Nat
  typ : Nat
  ord : Nat
  scope : Nat
  poison : Bool
  addr : Nat
  slice : Nat
  tag : Nat
  aux : Nat
  /-- offset of the first header byte with a non-zero reserved bit, 0 when there is none (R408, R411) -/
  rsvd : Nat
  /-- what a Gleaner's read of a region of another home names: region, `SEL`, `VERSION` (R243); the manual gives that
  message no field for it, and `addr` then is the region offset -/
  rref : Option (Nat × Nat × Nat)
  payload : List Byte
  /-- the lookup that such a read belongs to, by its ring and descriptor at the requester (log 107) -/
  look : Nat × Nat := (0, 0)
  deriving DecidableEq, Repr

/-- A Kellija packet (R455, R456). -/
structure KPkt where
  typ : Nat
  ord : Nat
  scope : Nat
  sync : Nat
  poison : Bool
  stream : Nat
  tc : Nat
  tag : Nat
  addr : Nat
  status : Nat
  detailKind : Nat
  aux : Nat
  detail : Nat
  /-- byte offset in the header of a byte that holds a non-zero reserved field, when there is one (R457) -/
  rsvd : Option Nat
  payload : List Byte
  deriving DecidableEq, Repr

/-- A request as it meets a home bank: from the client of a Kellija port of this ZV9, or in a Quaril packet. -/
inductive Req where
  | client (port : Nat) (p : KPkt)
  | peer (p : QPkt)
  deriving DecidableEq, Repr

/-! ### Drives -/

/-- A namespace as a drive reports it (R296, R299). -/
structure NvmeNs where
  id : Nat
  active : Bool
  /-- of the Zoned Namespace command set -/
  zoned : Bool
  /-- bytes of data and of metadata of an LBA -/
  lba : Nat
  metadata : Nat
  /-- protection information is in use -/
  protection : Bool
  /-- open and active zones at most; none: no limit -/
  maxOpen : Option Nat
  maxActive : Option Nat
  /-- zones: number, `ZCAP` in LBAs, 0 empty, 1 not empty, 2 offline or read-only -/
  zones : List (Nat × Nat × Nat)
  deriving DecidableEq, Repr

/-- What a drive answers of itself to Identify and Get Features at its bring-up (R296, R297). -/
structure NvmeId where
  /-- version (major, minor) of the base specification and of the Zoned Namespace command set -/
  base : Nat × Nat
  zns : Nat × Nat
  /-- `MDTS` and `ZASL` in bytes; none: no limit -/
  mdts : Option Nat
  zasl : Option Nat
  /-- I/O submission and completion queues, MSI-X vectors -/
  sqs : Nat
  cqs : Nat
  vectors : Nat
  deriving DecidableEq, Repr

/-- What a drive's request names (R298): the store buffer of a command, the submission or completion queue of a pair (0: the admin pair),
or nothing that the ZV9 has given it. -/
inductive DmaArea where
  | buffer (cmd : Nat)
  | sq (pair : Nat)
  | cq (pair : Nat)
  | other
  deriving DecidableEq, Repr

/-! ### The Quaril fabric -/

/-- State of a node in the map (R434). -/
inductive NodeSt where
  | live | dead | fenced
  deriving DecidableEq, Repr

structure NodeEnt where
  node : Nat
  dev : Nat
  state : NodeSt
  /-- the epoch that marked it dead or fenced (kind 6 of R93) -/
  since : Nat
  /-- mask of Kellija ports with caching clients -/
  caching : BitVec 4
  keeper : Bool
  deriving DecidableEq, Repr

structure LinkEnt where
  a : Nat
  pa : Nat
  b : Nat
  pb : Nat
  deriving DecidableEq, Repr

/-- A slice entry of the job table (R500). -/
structure JobSlice where
  node : Nat
  slice : Nat
  unord : Bool
  /-- mask of Kellija ports of `node` bound to the slice -/
  ports : BitVec 4
  deriving DecidableEq, Repr

/-- A job of the map's job table (R500): number, mode (0 error-value, 1 teardown), slice entries. -/
structure Job where
  num : Nat
  mode : Nat
  slices : List JobSlice
  deriving DecidableEq, Repr

/-- The map of an epoch (R434). -/
structure FMap where
  epoch : Nat
  term : Nat
  leader : Nat
  keepers : List Nat
  domain : Nat
  baseUs : Nat
  hopUs : Nat
  nodes : List NodeEnt
  links : List LinkEnt
  jobs : List Job
  deriving DecidableEq, Repr

/-- A change the leader may make (R435). -/
inductive Change where
  | admitDev (dev : Nat) (links : List LinkEnt)
  | dead (node : Nat)
  | fence (node : Nat)
  | addLink (l : LinkEnt)
  | dropLink (l : LinkEnt)
  | dropClient (node port : Nat)
  | compose (mode : Nat) (entries : List JobSlice)
  | extend (job : Nat) (entries : List JobSlice)
  | shrink (job : Nat) (entries : List JobSlice)
  | teardown (job : Nat)
  | form (m : FMap)
  deriving DecidableEq, Repr

/-- What a `REPORT` tells the leader (R439). -/
inductive Report where
  /-- eight heartbeats of a neighbour missed, on a Quaril port of the reporter -/
  | suspect (node : Nat) (port : Nat := 8)
  | portUp (l : LinkEnt)
  | portDown (l : LinkEnt)
  | newDevice (dev : Nat) (l : LinkEnt)
  | expiry (job : Nat)
  | recall (node port : Nat)
  | killed (node port : Nat)
  | slices (node : Nat) (mask : BitVec 64)
  /-- Kellija ports of a node that a job may bind: attached, up, not `MGMT`, a caching one of version 3.0 or later -/
  | ports (node : Nat) (mask : BitVec 4) (caching : BitVec 4 := 0#4)
  /-- from the leader: a composition request is refused with a status, and the node that it names -/
  | refused (status node : Nat)
  | compose (node : Nat) (op mode job : Nat) (entries : List JobSlice) (rsvdOk : Bool)
  /-- from the leader: the composition request has become a change, of an epoch and a job -/
  | accepted (epoch job : Nat)
  deriving DecidableEq, Repr

/-- A map-protocol message (R439). The manual gives the fields and no byte layout; a change travels as the map it
makes. -/
inductive MapMsg where
  | voteReq (term newest : Nat)
  /-- to the candidate at place `cand` of the keeper list -/
  | vote (term : Nat) (granted : Bool) (cand : Nat)
  | beat (term epoch : Nat)
  | replicate (m : FMap)
  | replAck (epoch : Nat)
  | prepare (m : FMap)
  | prepareAck (epoch count : Nat)
  | commit (epoch : Nat)
  | report (r : Report)
  | probe
  | probeAnswer
  | fetch (epoch : Nat)
  | mapData (m : FMap)
  | topo (dev : Nat) (links : List (Nat × Nat × Nat))
  deriving DecidableEq, Repr

/-- A packet on a link. -/
inductive Pkt where
  | kl (p : KPkt)
  | qf (p : QPkt)
  /-- a `MAP` packet: source, destination, epoch stamped, message; `HOPS`, `DL` and `TAG` of its header -/
  | map (src dest epoch : Nat) (m : MapMsg) (hops : Nat := 1) (dl : Nat := 0) (tag : Nat := 0)
  deriving DecidableEq, Repr

/-- A link block as its receiver sees it after the FEC (R405, R406). `fec` is 0 for no error, 1 for corrected, 2 for
uncorrectable; `crcOk` is the check of bytes 476 to 479; `pkts` are the packets whose last flit is in its seven slots. -/
structure LinkBlock where
  seq : Nat
  ack : Nat
  fec : Nat
  crcOk : Bool
  pkts : List Pkt
  /-- credits returned: (class, lane, cells) -/
  credits : List (Nat × Nat × Nat)
  /-- the replay that the peer asks for: the first block that it wants again -/
  replay : Option Nat := none
  deriving DecidableEq, Repr

/-- How a port's training ends (R402 to R404, R450): the step that fails, the lanes that lock, the symbols corrected, and
what the peer sends at step 5. -/
structure Training where
  /-- step of R402 that fails, 0 when none does -/
  failStep : Nat
  /-- mask of the lanes that did not lock -/
  lanes : Nat
  /-- the peer's lowest and highest version, [7:4] major, [3:0] minor -/
  verMin : Nat
  verMax : Nat
  /-- the peer's domain identifier -/
  domain : Nat
  peerDev : Nat
  /-- peer's port -/
  peerPort : Nat
  deriving DecidableEq, Repr

/-- An error that a read finds in a line of DRAM or of the central store (R304, R305, R474). -/
inductive DramErr where
  | none | corrected | uncorrectable
  deriving DecidableEq, Repr

/-- An error that the command's reads of memory find: its local address and, of a DRAM line, the pseudo-channel (R305). -/
structure MemErr where
  addr : Nat
  unit : Nat
  err : DramErr
  /-- `addr` is an address of store space, in whatever carve-out (R474, R475) -/
  store : Bool := false
  deriving DecidableEq, Repr

/-- What goes wrong in an array during a pass: its outputs differ from those of the partner that repeats it (R136), or it
reads a word of operand memory with an error (R107). -/
inductive ArrFault where
  | differs | corrected | uncorrectable
  deriving DecidableEq, Repr

/-- An error in an array pass: the pass of the descriptor, 0 first, and the array that ran it (R109). -/
structure ArrErr where
  pass : Nat
  array : Nat
  fault : ArrFault
  deriving DecidableEq, Repr

/-- Owner of a packet-buffer cell (R488): an allotment (input, class, lane), the descriptor pool, or the spare cells. -/
inductive CellOwner where
  | allot (input tc vl : Nat)
  | desc
  | spare
  deriving DecidableEq, Repr

/-- A cell that an audit pass finds neither free nor held, or both (R488): its owner and its generation as the pass sees
them, unchanged while it is examined. -/
structure CellSeen where
  cell : Nat
  owner : CellOwner
  gen : Nat
  free : Bool
  held : Bool
  deriving DecidableEq, Repr

/-- Sensor readings (R627). -/
structure Sensors where
  tLogic : Int
  tStacks : List Int
  vddMv : Nat
  deriving DecidableEq, Repr

/-- Power estimates of a window (R630). -/
structure PowerEst where
  watts : List Nat
  pkg : Nat
  deriving DecidableEq, Repr

end Sys2Proof.Machine

namespace Sys2Proof

open Sys2Proof.Machine

/-- The commands of the ZV9: every row of the table of operations and events. -/
inductive Instr where
  /-- `NOP` (R80): A NOP descriptor completes with OK and changes nothing. -/
  | nop (slice ring idx : Nat)
  /-- `FENCE` (R83): A FENCE completes once every earlier descriptor of its ring has completed, and with STOP_ON_ERROR it judges its window and may halt the ring. -/
  | fence (slice ring idx : Nat)
  /-- `MOVE` (R289): A MOVE descriptor copies LENGTH bytes from SRC to DST in 64 KiB units on the slice's tile movers. `tags`:
  units whose tags differ (R277), each once for each comparison. -/
  | move (slice ring idx : Nat) (tags : List Nat := [])
  /-- `KV_APPEND` (R162): A KV_APPEND descriptor is checked at consumption and queued to append COUNT positions to HEADS streams. -/
  | kvAppend (slice ring idx : Nat)
  /-- `KV_APPEND_EXECUTE` (R161): A queued KV_APPEND begins at the home bank, re-judges steps 5, 7 and 9, then writes and commits its positions in order. -/
  | kvAppendExecute (slice ring idx : Nat)
  /-- `ATTEND` (R176): An ATTEND descriptor selects tiles and computes a layout-bound partial result per query row. -/
  | attend (slice ring idx : Nat) (errs : List ArrErr)
  /-- `ATTEND_MAX` (R182): An ATTEND_MAX descriptor writes each row's maximum score as a kind-1 record. -/
  | attendMax (slice ring idx : Nat) (errs : List ArrErr)
  /-- `ATTEND_SUM` (R183): An ATTEND_SUM descriptor accumulates superaccumulator sums against the given row maxima and writes kind-2 records. -/
  | attendSum (slice ring idx : Nat) (errs : List ArrErr)
  /-- `MERGE` (R187): A MERGE descriptor combines partial-result blocks in canonical shard order into outputs or a new partial. -/
  | merge (slice ring idx : Nat)
  /-- `SEARCH` (R212): A SEARCH descriptor scores product codes by list scan or graph traversal and writes one result block per query. -/
  | search (slice ring idx : Nat)
  /-- `GATHER` (R245): A GATHER descriptor reads rows named by an index list from a table version or from addresses. -/
  | gather (slice ring idx : Nat)
  /-- `SCATTER_UPDATE` (R256): A SCATTER_UPDATE descriptor applies contribution blocks to a shard, ordered or as unordered atomic adds. -/
  | scatterUpdate (slice ring idx : Nat)
  /-- `TABLE_PUBLISH` (R248): A TABLE_PUBLISH makes a new table version and shard vector current at the table home in one step. -/
  | tablePublish (slice ring idx : Nat)
  /-- `CUT` (R55): A REGION_SNAP CUT freezes the working version as a new retained version. -/
  | cut (slice ring idx : Nat)
  /-- `ROLLBACK` (R57): A REGION_SNAP ROLLBACK replaces the working version with a retained version and sweeps cached lines of the region. -/
  | rollback (slice ring idx : Nat)
  /-- `RELEASE` (R58): A REGION_SNAP RELEASE removes a version from the retained set and frees its unshared tiles. -/
  | release (slice ring idx : Nat)
  /-- `REGION_PUBLISH` (R60): A REGION_PUBLISH checks and makes a retained version the published version of a region. -/
  | regionPublish (slice ring idx : Nat)
  /-- `PLACE_CREATE` (R293): A PLACE CREATE fills a free region entry and sets every tile's target tier. -/
  | placeCreate (slice ring idx : Nat)
  /-- `PLACE_DELETE` (R293): A PLACE DELETE marks a region deleting, frees unpinned frames and sweeps its cached lines. -/
  | placeDelete (slice ring idx : Nat)
  /-- `MOVE_TIER` (R294): A PLACE MOVE_TIER moves the named tiles' frames into a new tier in ascending tile order. `tags`: tiles
  whose tags differ. -/
  | moveTier (slice ring idx : Nat) (tags : List Nat := [])
  /-- `WRITEBACK` (R284): A WRITEBACK descriptor writes back dirty tiles of a region or extent and optionally evicts their cache
  frames. `tags`: tiles whose tags differ. -/
  | writeback (slice ring idx : Nat) (tags : List Nat := [])
  /-- `INVAL` (R331): An INVAL removes cached translations of a slice and drains or aborts accesses that used them. -/
  | inval (slice ring idx : Nat)
  /-- `HOME_OP` (R641): A home receives a HOME_OP packet and re-checks and executes the carried home operation. -/
  | homeOp (p : QPkt)
  /-- `DESCRIPTOR_CONSUME` (R87): The ring front end consumes the next descriptor once the producer covers it and CQ room and a pool cell exist, and checks it. -/
  | descriptorConsume (slice ring : Nat) (errs : List MemErr)
  /-- `DESCRIPTOR_START` (R82): A consumed descriptor starts once its WAIT, FENCE or resource waits have ended. -/
  | descriptorStart (slice ring idx : Nat)
  /-- `DESCRIPTOR_COMPLETE` (R91): A descriptor that has finished or been ended receives exactly one completion record. -/
  | descriptorComplete (slice ring idx : Nat)
  /-- `RING_STATUS_BLOCK_WRITE` (R74): The ZV9 rewrites the ring status block no later than 1 µs after a field change. -/
  | ringStatusBlockWrite (slice ring : Nat)
  /-- `COALESCE_TIMER_EXPIRY` (R99): COAL_NS elapses since the oldest uncovered record and one interrupt is sent. -/
  | coalesceTimerExpiry (slice ring : Nat)
  /-- `SQ_DOORBELL` (R70): A store to an SQ doorbell word is judged and, if accepted, advances the producer value. -/
  | sqDoorbell (slice ring : Nat) (word : Word)
  /-- `SQ_DOORBELL_RESUME` (R84): An SQ doorbell write with RESUME set returns a halted ring to running. -/
  | sqDoorbellResume (slice ring : Nat) (word : Word)
  /-- `CQ_DOORBELL` (R71): A store to a CQ doorbell word is judged and, if accepted, advances CQ_CONS. -/
  | cqDoorbell (slice ring : Nat) (word : Word)
  /-- `RING_CREATE` (R66): RING_CMD CREATE reads and checks a ring request and creates a running ring pair. -/
  | ringCreate (addr : Nat)
  /-- `DESTROY_DRAIN` (R67): RING_CMD DESTROY_DRAIN stops consumption and waits for every consumed descriptor to complete. -/
  | destroyDrain (addr : Nat)
  /-- `DESTROY_DRAIN_DONE` (R67): The last consumed descriptor of a draining ring completes and BUSY clears. -/
  | destroyDrainDone (slice ring : Nat)
  /-- `DESTROY_ABORT` (R67): RING_CMD DESTROY_ABORT stops consumption and ends every running descriptor with E_ABORTED cause 3. -/
  | destroyAbort (addr : Nat)
  /-- `CLIENT_READ` (R457): A Kellija client READ is translated and served at the attach ZV9 or forwarded to its home. -/
  | clientRead (port : Nat) (p : KPkt) (errs : List MemErr)
  /-- `CLIENT_WRITE` (R392): A Kellija client WRITE is translated and applied as a posted store at its home or forwarded. -/
  | clientWrite (port : Nat) (p : KPkt) (errs : List MemErr)
  /-- `ATOMIC_ADD` (R393): An ADD atomic is executed by the home bank's Tallyman and returns the prior value. -/
  | atomicAdd (r : Req)
  /-- `ATOMIC_MIN` (R393): A MIN atomic is executed by the Tallyman and returns the prior value. -/
  | atomicMin (r : Req)
  /-- `ATOMIC_MAX` (R393): A MAX atomic is executed by the Tallyman and returns the prior value. -/
  | atomicMax (r : Req)
  /-- `ATOMIC_CAS` (R393): A CAS atomic of 64 or 128 bits is executed by the Tallyman and returns the prior value. -/
  | atomicCas (r : Req)
  /-- `SYNC_ACQUIRE` (R359): A SYNC ACQUIRE orders later accesses after earlier covered reads and is acknowledged. -/
  | syncAcquire (port : Nat) (p : KPkt)
  /-- `SYNC_RELEASE` (R359): A SYNC RELEASE makes covered earlier writes visible at its scope before later writes. -/
  | syncRelease (port : Nat) (p : KPkt)
  /-- `SYNC_FULL` (R363): A SYNC FULL acts as both acquire and release in its scope's total order. -/
  | syncFull (port : Nat) (p : KPkt)
  /-- `RD_S` (R382): A home bank processes a request for a shared copy of a line. -/
  | rdS (r : Req)
  /-- `RD_X` (R382): A home bank processes a request for ownership of a line with data. -/
  | rdX (r : Req)
  /-- `UPG` (R382): A home bank processes a sharer's request to upgrade to ownership. -/
  | upg (r : Req)
  /-- `INV_ACK` (R382): A home bank takes a sharer's answer to an INV and grants ownership after the last expected one. -/
  | invAck (r : Req)
  /-- `RECALL_ACK` (R382): A home bank takes an owner's answer to a recall without data and completes the transaction. -/
  | recallAck (r : Req)
  /-- `RECALL_DATA` (R382): A home bank takes an owner's modified line answering a recall, stores it and completes the transaction. -/
  | recallData (r : Req)
  /-- `WB` (R382): A home bank stores an owner's written-back modified line, answers WB_ACK and frees the way. -/
  | wb (r : Req)
  /-- `PUT` (R382): A home bank takes an owner's release of an unmodified line, answers WB_ACK and frees the way. -/
  | put (r : Req)
  /-- `HOLD_EXPIRY` (R383): A line's hold ends at HOLD_UNTIL and the entry returns to S or X. -/
  | holdExpiry (line : Nat)
  /-- `DIRECTORY_SET_VISIT` (R383): A bank visits each set once per 2 × nb STORE cycles and returns expired holds. -/
  | directorySetVisit (bank set : Nat)
  /-- `RETRY_TICKET_EXPIRY` (R385): A SERVE ticket not presented for 10 µs while the line is stable expires and SERVE advances. -/
  | retryTicketExpiry (bank slot : Nat)
  /-- `RECALL_TIMEOUT` (R387): A client fails to answer an INV or recall within T_dead and is treated as failed. -/
  | recallTimeout (line node port : Nat)
  /-- `QUEUED_ACCESS_APPLY` (R391): Non-caching accesses queued behind a recall are applied once the line becomes free. -/
  | queuedAccessApply (bank : Nat)
  /-- `QF_READ` (R410): A home serves a Quaril READ and answers READ_RSP. -/
  | qfRead (p : QPkt) (errs : List MemErr)
  /-- `QF_WRITE` (R410): A home applies a Quaril WRITE and answers WRITE_ACK. -/
  | qfWrite (p : QPkt)
  /-- `BULK_READ` (R410): A home serves an engine BULK_READ and answers READ_RSP. -/
  | bulkRead (p : QPkt) (errs : List MemErr)
  /-- `BULK_WRITE` (R410): A home applies an engine BULK_WRITE and answers WRITE_ACK. -/
  | bulkWrite (p : QPkt)
  /-- `READ_RSP` (R409): A requester takes a READ_RSP matching an outstanding request. -/
  | readRsp (p : QPkt)
  /-- `WRITE_ACK` (R409): A requester takes a WRITE_ACK matching an outstanding write. -/
  | writeAck (p : QPkt)
  /-- `ATOMIC_RSP` (R423): A requester takes the prior value returned by an atomic. -/
  | atomicRsp (p : QPkt)
  /-- `HOME_RSP` (R410): The issuing ZV9 takes a home operation's status and ends its descriptor. -/
  | homeRsp (p : QPkt)
  /-- `ERR_RESPONSE` (R411): A requester takes an ERR that replaces the response of its request. -/
  | errResponse (p : QPkt)
  /-- `PACKET_FORWARD` (R419): A ZV9 routes a packet not addressed to it by the table of its epoch. -/
  | packetForward (port : Nat) (p : Pkt)
  /-- `REQUEST_TIMER_EXPIRY` (R429): A request's T_dead timer expires before its response and the request ends with E_DEAD_TARGET. -/
  | requestTimerExpiry (tag : Nat)
  /-- `LINK_BLOCK_RECEIVED` (R406): A port receives a 512-byte link block, corrects and checks it, and takes its flits and credits or requests replay. -/
  | linkBlockReceived (port : Nat) (b : LinkBlock)
  /-- `LANE_LOCK_LOSS` (R406): A lane loses lock and its port goes down. -/
  | laneLockLoss (port : Nat)
  /-- `LINK_IDLE_TIMEOUT` (R406): No link block arrives for 10 µs and the port goes down. -/
  | linkIdleTimeout (port : Nat)
  /-- `QF_PORT_TRAIN` (R402): A Quaril port trains through detect, equalise, align, qualify and exchange. -/
  | qfPortTrain (port : Nat) (t : Training)
  /-- `PORT_TRAIN_RETRY` (R402): One second after a training failure the port restarts at step 1. -/
  | portTrainRetry (port : Nat)
  /-- `HEARTBEAT_SEND` (R436): Every 100 µs a ZV9 sends HEARTBEAT on every up port. -/
  | heartbeatSend
  /-- `HEARTBEAT` (R436): A ZV9 takes a neighbour's or client's HEARTBEAT and resets its miss count. -/
  | heartbeat (port : Nat)
  /-- `HEARTBEAT_MISS` (R436): Eight consecutive heartbeats of a neighbour are missed and it is reported as suspect. -/
  | heartbeatMiss (port : Nat)
  /-- `ELECTION_TIMEOUT` (R433): A keeper that has heard no leader beat for 5 ms plus its rank delay asks for votes for a new term. -/
  | electionTimeout
  /-- `VOTE_REQ` (R433): A keeper takes a vote request and grants or refuses its vote for the term. -/
  | voteReq (src term newest : Nat)
  /-- `VOTE` (R433): A candidate takes a vote and becomes leader on a quorum. -/
  | vote (src term : Nat) (granted : Bool) (cand : Option Nat := none)
  /-- `BEAT_SEND` (R437): Every 1 ms the leader floods a BEAT with its term and epoch. -/
  | beatSend
  /-- `BEAT` (R437): A ZV9 takes a leader BEAT and resets its self-fence timer. -/
  | beat (src term epoch : Nat)
  /-- `SELF_FENCE_TIMEOUT` (R437): A ZV9 hears no BEAT for 50 ms and fences itself. -/
  | selfFenceTimeout
  /-- `REPLICATE` (R435): A keeper stores a map change from the leader and acknowledges it. -/
  | replicate (src : Nat) (m : FMap)
  /-- `REPL_ACK` (R435): The leader takes a keeper's acknowledgement and floods PREPARE on a quorum. -/
  | replAck (src epoch : Nat)
  /-- `PREPARE` (R435): A ZV9 drains epoch e − 2 packets, computes tables for the new epoch and acknowledges up the tree. -/
  | prepare (src : Nat) (m : FMap)
  /-- `PREPARE_ACK` (R435): A tree node or the leader takes subtree acknowledgements, and the leader floods COMMIT when all are in. -/
  | prepareAck (src epoch count : Nat)
  /-- `PREPARE_ACK_TIMEOUT` (R435): 2 ms after the flood the leader commits and marks unacknowledging nodes fenced next. -/
  | prepareAckTimeout
  /-- `COMMIT` (R435): A ZV9 makes the prepared epoch current and starts the grace period. -/
  | commit (src epoch : Nat)
  /-- `EPOCH_GRACE_EXPIRY` (R424): 200 µs after a commit the home stops accepting epoch e − 1. -/
  | epochGraceExpiry
  /-- `REPORT` (R435): The leader takes a report of a suspect, port change, expiry or composition request and acts on it. -/
  | report (src : Nat) (r : Report)
  /-- `PROBE` (R436): A suspected ZV9 answers the leader's PROBE, or the leader takes the answer and keeps the node alive. -/
  | probe (src : Nat) (answer : Bool)
  /-- `PROBE_TIMEOUT` (R436): No answer to a PROBE within T_dead makes the verdict dead and starts a new epoch and job aborts. -/
  | probeTimeout (node : Nat)
  /-- `FETCH` (R439): A leader or neighbour answers a FETCH with the whole map. -/
  | fetch (port src epoch : Nat)
  /-- `MAP_DATA` (R439): A ZV9 takes a whole map answering its FETCH. -/
  | mapData (m : FMap)
  /-- `TOPO` (R441): Topology records travel up the spanning tree to the leader during start-up. -/
  | topo (dev : Nat) (links : List (Nat × Nat × Nat))
  /-- `NEIGHBOUR_EXCHANGE` (R441): After link training the ZV9s exchange heartbeats and parameters and compute provisional routes. -/
  | neighbourExchange (port dev : Nat)
  /-- `ABORT` (R536): A member takes a job-abort notice and stops every running descriptor of its slices in the job. -/
  | abort (p : QPkt)
  /-- `SLICE_QUIET` (R538): Every access of a stopped slice's abandoned work is answered or timed out and the slice becomes quiet. -/
  | sliceQuiet (slice : Nat)
  /-- `ALARM` (R531): The leader adds a received alarm delta to the domain alarm table. -/
  | alarm (p : QPkt)
  /-- `DIAG` (R531): The leader writes a forwarded fault record into its own fault log with REMOTE set. -/
  | diag (p : QPkt)
  /-- `ALARM_SEND` (R530): A pending alarm entry whose holdoff has passed is sent to the leader as an ALARM packet. -/
  | alarmSend (entry : Nat)
  /-- `LOG_INTERRUPT_TIMER` (R528): INT_US has passed since the last log message and a message for non-alarm records is sent. -/
  | logInterruptTimer
  /-- `LINK_UP_RECORD` (R452): A ZV9 takes an adapter's link-up record, checks it, and binds or refuses the port. -/
  | linkUpRecord (port : Nat) (bytes : List Byte)
  /-- `KL_PORT_TRAIN` (R450): A Kellija port trains through the physical steps once the ZV9 has formed. -/
  | klPortTrain (port : Nat) (t : Training)
  /-- `C_READ_RSP` (R456): A client answers a ZV9 read of its memory with data. -/
  | cReadRsp (port : Nat) (p : KPkt)
  /-- `C_WRITE_ACK` (R456): A client acknowledges a ZV9 write or INT to its memory. -/
  | cWriteAck (port : Nat) (p : KPkt)
  /-- `KL_REQUEST_TIMEOUT` (R461): A C_READ, C_WRITE or INT goes unanswered for TIMEOUT_US and is treated as undeliverable. -/
  | klRequestTimeout (port tag : Nat)
  /-- `KL_HEARTBEAT_MISS` (R465): Eight consecutive client heartbeats are missed and the port is killed with cause 5. -/
  | klHeartbeatMiss (port : Nat)
  /-- `KL_PORT_KILL` (R642): A write of KL_PORT_CTL.KILL kills the port with cause 3. -/
  | klPortKill (port : Nat)
  /-- `KL_RETRAIN_TIMER` (R467): 100 ms after a kill, with HOLD 0, a killed port may train again. -/
  | klRetrainTimer (port : Nat)
  /-- `NVME_READ_COMPLETE` (R302): An NVMe Read completes and fills the tile, retries it, or makes the tile lost. -/
  | nvmeReadComplete (id status : Nat) (data : List Byte) (tags : Nat := 0)
  /-- `ZONE_APPEND_COMPLETE` (R281): A Zone Append completes and records the new location and tag, or repeats the write-back elsewhere. -/
  | zoneAppendComplete (id status slot : Nat)
  /-- `BACKGROUND_WRITEBACK` (R282): Dirty cache frames above DIRTY_HIGH start background write-back until DIRTY_LOW. `tags`: how many
  comparisons of the tile's tags differ. -/
  | backgroundWriteback (tags : Nat := 0)
  /-- `ZONE_RECLAIM` (R300): A drive short of empty zones reclaims a full zone by copying live tiles and resetting it. -/
  | zoneReclaim (port : Nat)
  /-- `NVME_COMMAND_TIMEOUT` (R301): An NVMe command passes TIMEOUT_MS and the ZV9 issues Abort and ends waiting operations. -/
  | nvmeCommandTimeout (id : Nat)
  /-- `NVME_ABORT_TIMEOUT` (R301): Abort does not complete within TIMEOUT_MS and the ZV9 resets the controller. -/
  | nvmeAbortTimeout (id : Nat)
  /-- `CONTROLLER_RESET_TIMEOUT` (R301): The controller reset does not complete within 10 × TIMEOUT_MS and the drive fails. -/
  | controllerResetTimeout (port : Nat)
  /-- `DRIVE_LINK_DOWN` (R303): A media port's link stays down for 100 ms and the drive fails. -/
  | driveLinkDown (port : Nat)
  /-- `CONTROLLER_FATAL_STATUS` (R303): A drive reports Controller Fatal Status and fails. -/
  | controllerFatalStatus (port : Nat)
  /-- `DRIVE_REMOVED` (R303): A rising MEDIA_PRSNT_N on a port in use counts as removal and the drive fails. -/
  | driveRemoved (port : Nat)
  /-- `AER_MESSAGE` (R295): An AER message from a drive raises a fault record. -/
  | aerMessage (port : Nat)
  /-- `DRIVE_DMA_REQUEST` (R298): A drive's DMA request is served if it lies in named buffers, else refused with Unsupported Request. -/
  | driveDmaRequest (port : Nat) (area : DmaArea) (write : Bool) (range : Nat × Nat)
  /-- `MEDIA_BRINGUP` (R299): At store-ready the ZV9 reports zones, resets non-empty zones and opens zones on each drive. -/
  | mediaBringup (port : Nat) (drive : NvmeId) (spaces : List NvmeNs)
  /-- `PATROL_SCRUB` (R305): The patrol scrub reads DRAM lines once per HOURS and treats errors it finds. -/
  | patrolScrub (addr pc : Nat) (e : DramErr)
  /-- `TIER_RETIRE` (R306): A write to TIER_RETIRE retires the pool frame holding the address. -/
  | tierRetire (word : Word)
  /-- `BORAGE_START` (R307): A BORAGE_CTL START write runs the March C− pass on the selected stacks or is rejected. -/
  | borageStart (word : Word)
  /-- `BORAGE_DONE` (R307): A Borage pass ends, leaving the stacks written with the pattern and recording failures. -/
  | borageDone (fails first : Nat)
  /-- `XL_ROOT_WRITE` (R335): A write to XL_ROOT validates, ignores, or invalidates the slice's page table root. -/
  | xlRootWrite (slice : Nat) (word : Word)
  /-- `COUNTER_DECAY` (R336): Every DECAY_MS every access count is halved. -/
  | counterDecay
  /-- `XL_MIG_RING_WRITE` (R343): A write to XL_MIG_RING sets the ring and zeroes PROD and CONS. -/
  | xlMigRingWrite (word : Word)
  /-- `XL_MIG_IDX_WRITE` (R338): A write of CONS to XL_MIG_IDX frees records, or is ignored out of range. -/
  | xlMigIdxWrite (word : Word)
  /-- `ARR_DISABLE_WRITE` (R109): A write to ARR_DISABLE takes arrays out of service, or is rejected if it would empty a non-zero slice's group. -/
  | arrDisableWrite (word : Word)
  /-- `ARR_AUDIT_CTL_WRITE` (R135): A write to ARR_AUDIT_CTL sets audit parameters, and setting ENABLE restarts every group's pass count. -/
  | arrAuditCtlWrite (word : Word)
  /-- `STORE_AUDIT_PASS` (R488): Every AUDIT_MS the leaked-buffer audit examines every packet-buffer cell. -/
  | storeAuditPass (found : List CellSeen) (diffs : List (Nat × Int))
  /-- `STORE_MIRROR_WRITE` (R486): A write to STORE_MIRROR sets mirroring and zeroes both counts. -/
  | storeMirrorWrite (port : Nat) (word : Word)
  /-- `SLC_CFG_WRITE` (R498): A write to SLC_CFG takes effect whole or is rejected with CFG_REJECT. -/
  | slcCfgWrite (slice : Nat) (word : Word)
  /-- `SLC_MOVERS_WRITE` (R498): A write to SLC_MOVERS takes effect whole or is rejected. -/
  | slcMoversWrite (slice : Nat) (word : Word)
  /-- `SLC_SHARE_WRITE` (R498): A write to SLC_SHARE takes effect whole or is rejected. -/
  | slcShareWrite (slice : Nat) (word : Word)
  /-- `SLC_QOS_WRITE` (R498): A write to SLC_QOS takes effect whole or is rejected. -/
  | slcQosWrite (slice : Nat) (word : Word)
  /-- `SLC_GLOBAL_WRITE` (R521): A write to SLC_GLOBAL sets the fabric party's weight and minimum under the minimum condition. -/
  | slcGlobalWrite (word : Word)
  /-- `SLICE_RESET_DRAIN` (R510): SLC_RESET with MODE 0 stops the slice's rings and lets running descriptors drain. -/
  | sliceResetDrain (word : Word)
  /-- `SLICE_RESET_ABORT` (R510): SLC_RESET with MODE 1 stops the slice's rings and ends running descriptors with cause 2. -/
  | sliceResetAbort (word : Word)
  /-- `DRAIN_TIMEOUT` (R510): DRAIN_MS after a draining slice reset, still running descriptors are ended as in abort. -/
  | drainTimeout (slice : Nat)
  /-- `SLICE_RESET_FINISH` (R510): Once records are written the reset removes translations, clears vectors, rings and operand memory and clears BUSY. -/
  | sliceResetFinish (slice : Nat)
  /-- `SLC_COMPOSE_WRITE` (R502): A write to SLC_COMPOSE reads a composition request and sends it to the leader. -/
  | slcComposeWrite (word : Word)
  /-- `COMPOSE` (R502): The leader checks and commits a COMPOSE request as a new job. -/
  | compose (node mode : Nat) (entries : List JobSlice)
  /-- `EXTEND` (R502): The leader checks and commits slices added to a job. -/
  | extend (node job : Nat) (entries : List JobSlice)
  /-- `SHRINK` (R503): The leader commits slices removed from a job and their descriptors are ended. -/
  | shrink (node job : Nat) (entries : List JobSlice)
  /-- `TEARDOWN` (R503): The leader removes a job from the job table and aborts it. -/
  | teardown (node job : Nat)
  /-- `COMPOSE_TIMEOUT` (R502): No commit within 50 ms ends a composition request with E_TIMEOUT. -/
  | composeTimeout
  /-- `REVOKE_DRAIN` (R514): SLC_REVOKE with MODE 0 revokes an extent and lets accepted requests complete. -/
  | revokeDrain (word : Word)
  /-- `REVOKE_ABORT` (R514): SLC_REVOKE with MODE 1 revokes an extent and ends unapplied requests with cause 7. -/
  | revokeAbort (word : Word)
  /-- `VECTOR_ENTRY_WRITE` (R508): A write to a vector entry, clearing MASK while PENDING, sends the held message. -/
  | vectorEntryWrite (off : Nat) (word : Word)
  /-- `JOB_ABORT` (R535): A write to FLT_JOB_ABORT originates an abort and sends ABORT notices to every member. -/
  | jobAbort (word : Word)
  /-- `FLT_LOG_RING_WRITE` (R549): A write to FLT_LOG_RING sets the fault log and zeroes PROD and CONS. -/
  | fltLogRingWrite (word : Word)
  /-- `FLT_LOG_IDX_WRITE` (R549): A write of CONS to FLT_LOG_IDX frees records, or is ignored out of range. -/
  | fltLogIdxWrite (word : Word)
  /-- `ALARM_ENTRY_CLEAR` (R554): Clearing VALID of an alarm-table entry frees it and zeroes its fields. -/
  | alarmEntryClear (domain : Bool) (entry : Nat)
  /-- `REGISTER_WRITE` (R11): A write to a register with no row of its own updates its fields by access kind and may raise a setup-lock alarm. -/
  | registerWrite (off : Nat) (word : Word)
  /-- `RESET_N_ASSERT` (R555): A RESET_N assertion of 100 ns is recognised, kills are sent and the domains enter reset. -/
  | resetNAssert
  /-- `RESET_N_DEASSERT` (R555): The deassertion of RESET_N, or 10 µs after recognition, begins boot. -/
  | resetNDeassert
  /-- `PWROK_RISE` (R621): PWROK rises and the internal power-on reset releases 2 ms later. -/
  | pwrokRise
  /-- `POWER_ON_RESET_RELEASE` (R621): The internal power-on reset releases, the straps are sampled and boot begins. -/
  | powerOnResetRelease (straps : Nat)
  /-- `PWROK_FALL` (R622): A fall of PWROK is treated as a recognised RESET_N. -/
  | pwrokFall
  /-- `RAIL_OUT_OF_TOLERANCE` (R622): A monitored rail leaves tolerance while PWROK is high and limit 8 is raised. -/
  | railOutOfTolerance (rail : Nat)
  /-- `RAIL_TOLERANCE_TIMER` (R622): A rail out of tolerance for 10 µs is treated as a fall of PWROK. -/
  | railToleranceTimer (rail : Nat)
  /-- `BOOT_STAGE_1` (R556): After reset release AON runs, the boot ROM starts and the MCTP endpoint answers. -/
  | bootStage1
  /-- `BOOT_STAGE_2` (R556): The PLLs lock and the central store is cleared with ECC. -/
  | bootStage2
  /-- `BOOT_STAGE_3` (R570): The PUF is power-cycled and read and the device key is reconstructed or enrolled. -/
  | bootStage3 (puf : List Byte)
  /-- `BOOT_STAGE_4` (R560): The flash is discovered and the images are copied and verified. -/
  | bootStage4
  /-- `BOOT_STAGE_5` (R556): The six DRAM stacks are trained in parallel. -/
  | bootStage5 (failed : Option Nat)
  /-- `BOOT_STAGE_6` (R556): Every DRAM line is written with zeros and its ECC. -/
  | bootStage6
  /-- `BOOT_STAGE_7` (R569): Firmware starts, boot is measured and REG entries are applied. -/
  | bootStage7 (failed : Option Nat)
  /-- `BOOT_STAGE_8` (R569): DATA entries are written, the setup lock is set and the ZV9 becomes store-ready. `present`:
  the media ports with a drive, a bit each. -/
  | bootStage8 (present : Nat := 0)
  /-- `BOOT_STAGE_TIMEOUT` (R558): A boot stage exceeds its maximum and boot fails with FAIL 7. -/
  | bootStageTimeout (stage : Nat)
  /-- `FLASH_OP_TIMEOUT` (R560): A flash erase or program not finished within twice the BFPT maximum ends with E_TIMEOUT. -/
  | flashOpTimeout
  /-- `SET_ENDPOINT_ID` (R575): The MCTP control command Set Endpoint ID assigns the endpoint identifier. -/
  | setEndpointId (eid : Nat)
  /-- `GET_ENDPOINT_ID` (R575): The MCTP control command Get Endpoint ID returns the endpoint identifier. -/
  | getEndpointId
  /-- `GET_MCTP_VERSION_SUPPORT` (R575): The MCTP control command returns supported versions. -/
  | getMctpVersionSupport
  /-- `GET_MESSAGE_TYPE_SUPPORT` (R575): The MCTP control command reports message types 0x00 and 0x7F. -/
  | getMessageTypeSupport
  /-- `GET_ENDPOINT_UUID` (R575): The MCTP control command returns the UUID derived from PK. -/
  | getEndpointUuid
  /-- `UNSUPPORTED_CONTROL_COMMAND` (R575): Any other MCTP control command is answered with the unsupported-command code. -/
  | unsupportedControlCommand (code : Nat)
  /-- `GET_BOOT_STATUS` (R576): The Lanigal command returns BOOT_STATUS. -/
  | getBootStatus
  /-- `GET_IDENTITY` (R576): The Lanigal command returns DEVICE_ID, PK and ZV_IDENT. -/
  | getIdentity
  /-- `GET_REPORT` (R574): The Lanigal command returns a signed attestation report with the given nonce. -/
  | getReport (nonce : List Byte)
  /-- `REG_READ` (R577): The Lanigal command reads a register under R38. -/
  | regRead (addr : Nat)
  /-- `REG_WRITE` (R577): The Lanigal command writes a register under R38. -/
  | regWrite (addr : Nat) (word : Word)
  /-- `FLASH_WRITE` (R577): The Lanigal command erases and programs bytes of a flash slot. -/
  | flashWrite (slot off len rsvd : Nat) (data : List Byte)
  /-- `ENDORSE_WRITE` (R577): The Lanigal command programs the endorsement into the identity record. -/
  | endorseWrite (off len total rsvd : Nat) (data : List Byte)
  /-- `RESET` (R576): The Lanigal command sends its response and then performs a device warm reset. -/
  | reset
  /-- `MCTP_DEFERRED_ANSWER` (R577): A queued Lanigal request is answered once its command becomes available, or with E_TIMEOUT. -/
  | mctpDeferredAnswer
  /-- `CAR_START` (R579): A START write checks a Carter channel and queues it. -/
  | carStart (chan : Nat) (word : Word)
  /-- `CARTER_CHANNEL_RUN` (R578): A queued Carter channel runs when its turn comes and moves bytes in ascending order. -/
  | carterChannelRun (chan : Nat)
  /-- `CARTER_CHANNEL_DONE` (R580): After all writes are applied the channel reads back its last line and completes. -/
  | carterChannelDone (chan : Nat)
  /-- `OBS_SEL_WRITE` (R591): A write to OBS_SEL selects a counter's event and zeroes the counter, or is rejected. -/
  | obsSelWrite (ctr : Nat) (word : Word)
  /-- `OBS_DUMP_CTL_WRITE` (R592): A write to OBS_DUMP_CTL enables dumps and sets the window length. -/
  | obsDumpCtlWrite (word : Word)
  /-- `OBS_DUMP_RING_WRITE` (R611): A write to OBS_DUMP_RING sets the dump ring and zeroes PROD and CONS. -/
  | obsDumpRingWrite (word : Word)
  /-- `DUMP_BOUNDARY` (R592): At each window boundary all 64 counters are snapshotted and a dump record written. -/
  | dumpBoundary
  /-- `SCR_CTL_WRITE` (R596): A write to SCR_CTL sets Scrivener sampling, and setting ENABLE zeroes the count and seeds the LFSR. -/
  | scrCtlWrite (word : Word)
  /-- `SCR_RING_WRITE` (R614): A write to SCR_RING sets the Scrivener ring and zeroes PROD and CONS. -/
  | scrRingWrite (word : Word)
  /-- `FREEZE_N_ASSERT` (R600): FREEZE_N low for 2 ns with PIN_EN set triggers a freeze. -/
  | freezeNAssert
  /-- `FRZ_CTL_FREEZE` (R600): A write of 1 to FRZ_CTL.FREEZE triggers a freeze. -/
  | frzCtlFreeze (word : Word)
  /-- `TAP_RESET` (R605): TRST_N or the state machine resets the TAP. -/
  | tapReset
  /-- `IDCODE` (R605): The TAP instruction captures the 32-bit identification code. -/
  | idcode
  /-- `TAP_FREEZE` (R605): An Update-DR of the TAP FREEZE instruction triggers a freeze. -/
  | tapFreeze (dr : Nat)
  /-- `FSTATUS` (R605): The TAP instruction captures FRZ_STATUS. -/
  | fstatus
  /-- `RADDR` (R606): The TAP instruction sets the readout address. -/
  | raddr (addr : Nat)
  /-- `RDATA` (R607): The TAP instruction reads 8 bytes at the readout address with a status and advances it. -/
  | rdata
  /-- `STREAM` (R608): The TAP instruction starts a readout run on DBG_TX. -/
  | stream (start len run : Nat)
  /-- `BYPASS` (R605): The TAP instruction, or any undefined one, selects the 1-bit bypass register. -/
  | bypass
  /-- `STREAM_FRAME_SEND` (R609): A readout run sends its next 1,064-byte frame, or its end frame and clears BUSY. -/
  | streamFrameSend
  /-- `DILL_START` (R407): A QF_DILL_CTL START write runs the Dill stress pattern on the selected ports. -/
  | dillStart (word : Word)
  /-- `DILL_DONE` (R407): After DURATION_MS the Dill run ends and its error counts are recorded. -/
  | dillDone (errs : List (Nat × Nat))
  /-- `SENSOR_READING` (R627): Every 100 µs the ZV9 reads its temperature and voltage sensors and judges the limits. -/
  | sensorReading (r : Sensors)
  /-- `POWER_WINDOW` (R630): At each 1 µs window power estimates are formed and capped groups and stacks get their admission fraction. -/
  | powerWindow (e : PowerEst)
  /-- `STEP_UP` (R629): Every 100 µs while a throttle limit is in force the step index rises by one. -/
  | stepUp
  /-- `STEP_DOWN` (R629): Every 1 ms after limits clear and the temperature stays low the step index falls by one. -/
  | stepDown
  /-- `LINK_BLOCK_SEND` (R405): Every 4 ns a trained Quaril or Kellija port sends one link block, filling its flit slots from the output arbitration of R485 and R505 and returning credits. -/
  | linkBlockSend (port : Nat)
  /-- `PIN_TIMEOUT` (R243): A PUBLISHED-mode GATHER that has not resolved all its shard references within T_pin of its root read ends with E_TIMEOUT, phase 2, source 3, and PIN_TIMEOUTS is incremented. -/
  | pinTimeout (slice ring idx : Nat)
  /-- `NVME_COMMAND_COMPLETE` (R297): A drive completes an admin, Zone Management Send or Receive, Abort or Asynchronous Event command, for example reporting a zone gone offline so that its tiles become lost under R302. -/
  | nvmeCommandComplete (id status : Nat) (offline : List Nat)
  /-- `MEDIA_LINK_UP` (R295): A media port's PCIe link trains up to its rate and width after MEDIA_PERST_N is released, and the rate and width are reported in MEDIA_PORT. -/
  | mediaLinkUp (port rate width : Nat)
  /-- `FLASH_OPERATION_COMPLETE` (R560): A boot-flash erase or page program finishes, so a FLASH_WRITE or identity enrolment can be answered and reads of the flash window may proceed. -/
  | flashOperationComplete
  /-- `COHERENCE_MESSAGE_TO_CLIENT` (R458): An attach ZV9 takes an INV, RECALL_S, RECALL_I or a DATA_S, DATA_X, DATA_NC, GRANT_X, RETRY or WB_ACK addressed to its caching client's node and passes it on the client's Kellija port. -/
  | coherenceMessageToClient (port : Nat) (p : QPkt)
  deriving DecidableEq, Repr

end Sys2Proof
end

