-- ==== Sys2Proof/Decode.lean ====
section
/-! DEFINITION. The command that a word spells by the bits of the opcode table. The table of this block gives no row any bits, so no
word spells a command; a command comes from outside and waits in `State.pending`. -/

namespace Sys2Proof

/-- The command that the low `nbits` bits of `w` spell: none, as no row of the table has bits. -/
def decodeTableWord (_nbits _w : Nat) : Option Instr := none

end Sys2Proof
end

