-- ==== Sys2Proof/Config.lean ====
section
/-! DEFINITION. What a mask stepping or an implementation fixes, and the model's free values: opaque constants without a
body, so that no proof knows a value of them. -/

namespace Sys2Proof.Config

/-- `ZV_IDENT.STEP_MAJOR` of the stepping (R15). -/
opaque stepMajor : BitVec 4
/-- `ZV_IDENT.STEP_MINOR` of the stepping (R15). -/
opaque stepMinor : BitVec 4
/-- `BOOT_MCTP.IANA`, the Lanigal enterprise number (R15). -/
opaque iana : BitVec 32
/-- Manufacturer code of the TAP `IDCODE` (R15, R605). -/
opaque manufacturer : BitVec 11
/-- The n-th free byte: bytes the spec leaves undefined (an overlapping copy, R289, R580; overlapping areas of a stream, R147; what a
ROLLBACK tears, R190; rows of mixed updates, R262). -/
opaque freeByte : Nat → Byte
/-- The n-th free number: values the spec leaves open and the machine still gives (an internal pointer of R42, the mean
recall round trip RT_bank of R384 in 16 ns units, a load percentage of R526, an order of R259). -/
opaque freeNat : Nat → Nat
/-- Stack on which a DRAM address lies (R307); the spec gives the stacks no addresses. -/
opaque stackOf : Nat → Nat
/-- Byte at an address of the 0 value of Borage pattern 1, 2 or 3 (R314). -/
opaque patternByte : Nat → Nat → Byte
/-- The n-th free choice between two outcomes the spec allows. -/
opaque freeBool : Nat → Bool

/-- The 64 bits that the n-th readout finds at a readout address whose contents the spec does not give (R606). -/
opaque readout : Nat → Nat → BitVec 64

/-- The 64 bits at a byte offset of an operand memory that passes have filled (R106): the manual does not say how a pass lays out its data. -/
opaque arrayWord : Nat → Nat → BitVec 64

/-- Cells of an engine's share of its carve-out for the responses of its requests, by engine code (R483), and the answers that the answer
space of a home bank holds; the manual gives neither size (log 94). -/
opaque rspSpace : Nat → Nat
opaque askSpace : Nat → Nat

/-! ### Functions of the standards that the ZV9 is built on; the spec names them and does not define them. Their outputs have the
lengths that the standards and the spec give. -/

/-- SHAKE256 (FIPS 202), as many bytes as asked for. -/
opaque shakeBytes : List Byte → (n : Nat) → Vector Byte n
/-- SHAKE256 (FIPS 202): the first bytes of the output, as many as asked for. -/
def shake256 (bs : List Byte) (n : Nat) : List Byte := (shakeBytes bs n).toList
/-- `slh_verify` of SLH-DSA-SHAKE-256s with an empty context (R563): public key, message, signature. -/
opaque slhVerify : List Byte → List Byte → List Byte → Bool
/-- The 64 bytes of `slh_keygen_internal`. -/
opaque keygenBytes : List Byte → List Byte → List Byte → Vector Byte 64
/-- `slh_keygen_internal` of SLH-DSA-SHAKE-256f (R570): SK.seed, SK.prf, PK.seed give PK. -/
def slhKeygen (seed prf pkSeed : List Byte) : List Byte := (keygenBytes seed prf pkSeed).toList
/-- The 49,856 bytes of a signature. -/
opaque signBytes : List Byte → List Byte → List Byte → List Byte → Vector Byte 49856
/-- Deterministic `slh_sign` of SLH-DSA-SHAKE-256f with an empty context (R570, R574): SK.seed, SK.prf, PK.seed, message. -/
def slhSign (seed prf pkSeed msg : List Byte) : List Byte := (signBytes seed prf pkSeed msg).toList
/-- The 64 bytes of a root public key. -/
opaque rootKeyBytes : Nat → Vector Byte 64
/-- Lanigal root public key of a slot of the mask ROM. -/
def rootKey (slot : Nat) : List Byte := (rootKeyBytes slot).toList
/-- The 64 bytes of the ROM's digest. -/
opaque romDigestBytes : Vector Byte 64
/-- Mask-fixed digest of the boot ROM (R573). -/
def romDigest : List Byte := romDigestBytes.toList
/-- The 256 bits of an enrolling read. -/
opaque pufKeyBytes : List Byte → Vector Byte 32
/-- The key that an enrolling read of the PUF gives (R572). -/
def pufKey (puf : List Byte) : List Byte := (pufKeyBytes puf).toList
/-- One less than the bytes of helper data that an enrolling read gives, and those bytes. -/
opaque pufHelperLen : List Byte → Fin 16256
opaque pufHelperByte : List Byte → Nat → Byte
/-- The helper data that an enrolling read of the PUF gives, 1 to 16,256 bytes (R571, R572). -/
def pufHelper (puf : List Byte) : List Byte := (List.range ((pufHelperLen puf).val + 1)).map (pufHelperByte puf)
/-- The 256 bits of a reconstruction. -/
opaque pufRebuildBytes : List Byte → List Byte → Vector Byte 32
/-- The key that a read of the PUF and helper data reconstruct (R570). -/
def pufRebuild (puf helper : List Byte) : List Byte := (pufRebuildBytes puf helper).toList

end Sys2Proof.Config
end

