-- ==== Sys2Proof/Machine/State.lean ====
section
/-! DEFINITION. The state of the ZV9 as plain data (R6 to R642): registers, memory, rings and descriptors, tiles and
drives, translation caches, directory, fabric, clients, slices, faults, boot, observability and power; the queue of
waiting commands; and the state after power-on reset. -/

namespace Sys2Proof.Machine

/-! ### Registers -/

/-- Access kinds of register fields (R10). -/
inductive FAcc where
  | ro | rw | w1c | wo | rwl
  deriving DecidableEq, Repr

/-- One named field of a register: bits [lo + width − 1 : lo], access kind, reset value. -/
structure FSpec where
  name : String
  lo : Nat
  width : Nat
  acc : FAcc
  rst : Nat
  deriving DecidableEq, Repr

/-- One register or register array: setup-space offset of instance 0, stride, instances, fields. -/
structure RegSpec where
  name : String
  off : Nat
  stride : Nat
  count : Nat
  fields : List FSpec
  deriving DecidableEq, Repr

/-- A field as the model names it: offset of instance 0, stride, low bit, width. -/
structure Fld where
  off : Nat
  stride : Nat
  lo : Nat
  width : Nat
  deriving DecidableEq, Repr

/-! ### Rings and descriptors -/

/-- `STATE` of a ring (R74). -/
inductive RingSt where
  | running | halted | stopping | faulted
  deriving DecidableEq, Repr

/-- A ring pair (R63 to R74): what the ring request chose, the indices, and what interrupt coalescing keeps. -/
structure Ring where
  slice : Nat
  num : Nat
  log2sq : Nat
  log2cq : Nat
  fmt : Nat
  vector : Nat
  sqAddr : Nat
  cqAddr : Nat
  stAddr : Nat
  loc : Nat
  port : Nat
  coalCount : Nat
  coalNs : Nat
  weight : Nat
  cqNode : Nat
  sqCons : Nat
  sqProd : Nat
  cqProd : Nat
  cqCons : Nat
  state : RingSt
  dbRejects : Nat
  /-- completion records written and not yet covered by an interrupt (R99) -/
  uncovered : Nat
  /-- a descriptor of the window of R84 has ended with a status of 0x10 or above -/
  windowErr : Bool
  /-- `SQ_INDEX` of the `FENCE` with `STOP_ON_ERROR` that is consumed and not complete: consumption waits for it (R83) -/
  stopFence : Option Nat
  /-- a destruction runs: 0 none, 2 `DESTROY_DRAIN`, 3 `DESTROY_ABORT` (R67) -/
  destroying : Nat
  /-- a field of the status block has changed since it was last written (R74) -/
  stDirty : Bool
  /-- `SQ_CONS` when the status block was last written (R74) -/
  stCons : Nat
  /-- units read from client memory ahead of consumption, each with its poison (`LOC` 1) -/
  pre : List (List Byte × Bool)
  /-- units consumed in the present round of the slice's rings, which share consumption by `WEIGHT` (R81) -/
  used : Nat := 0
  /-- an interrupt waits until the records that it covers are acknowledged (R100) -/
  intDue : Bool := false
  /-- frames whose fill the checks of its next descriptor wait for, and the status of such a fill that failed (R301) -/
  waitFills : List Nat := []
  fillFail : Option (Nat × Nat × Nat) := none
  deriving DecidableEq, Repr

/-- Where a descriptor stands: consumed and waiting to start (R81, R86), running, finished and without its record. -/
inductive DPhase where
  | waiting | running | ended
  deriving DecidableEq, Repr

/-- Names a consumed descriptor: slice, ring, `SQ_INDEX`. -/
structure DKey where
  slice : Nat
  ring : Nat
  idx : Nat
  deriving DecidableEq, Repr

/-- A page-table leaf (R321). -/
structure Leaf where
  node : Nat
  loc : Nat
  perm : Nat
  size : Nat
  count : Bool
  deriving DecidableEq, Repr

/-- What a translation-cache entry holds: a leaf, or the table that a table entry of level `level + 1` names (R325). -/
inductive XlHold where
  | leaf (l : Leaf)
  | table (level addr : Nat)
  deriving DecidableEq, Repr

/-- An entry of a translation cache (R325): the cache (0 to 68 the engine caches, 69 the shared cache), the slice, the
first virtual address covered and what it holds. -/
structure XlEntry where
  unit : Nat
  slice : Nat
  va : Nat
  hold : XlHold
  deriving DecidableEq, Repr

/-- A region version that a running operation has resolved (R49): region number, the version (none: working) and, for a
retained version, its tile map. -/
structure Pin where
  region : Nat
  version : Option Nat
  map : List (Nat × Nat)
  deriving DecidableEq, Repr

/-- A version of a region of this home that a lookup of another ZV9 has resolved (R49, R243): its node and slice, its ring and descriptor, the
version. -/
structure Lent where
  node : Nat
  slice : Nat
  look : Nat × Nat
  pin : Pin
  deriving DecidableEq, Repr

/-- What another home answered to a request of a descriptor: the bytes asked for, or a status with its detail. -/
structure Fetched where
  node : Nat
  /-- a region read by reference: region, `SEL`, `VERSION`; `addr` then is the region offset -/
  rref : Option (Nat × Nat × Nat)
  addr : Nat
  len : Nat
  bytes : List Byte
  poison : Bool
  status : Nat
  kind : Nat
  detail : Nat
  deriving DecidableEq, Repr

/-- A consumed descriptor without its completion record (R77, R87, R91). -/
structure Desc where
  key : DKey
  units : Nat
  raw : List Byte
  epoch : Nat
  phase : DPhase
  status : Nat
  kind : Nat
  detail : Nat
  progress : Nat
  started : Bool
  engine : Nat
  det : Nat
  pins : List Pin
  fetched : List Fetched
  /-- virtual ranges (start, length) of the leaves that its accesses waiting at this home were translated through (R331, R332) -/
  pages : List (Nat × Nat)
  /-- an abort has stopped it and this status and cause end it once its requests are answered (R332, R536) -/
  stop : Option (Nat × Nat)
  /-- step counter of an opcode that works in several steps -/
  work : Nat
  /-- the frames that a tile leaves, each with its copy (R294), or the frame under write-back with itself (R284) -/
  moving : List (Nat × Nat)
  /-- bytes of the attention working buffer it holds (R181, R223) -/
  buf : Nat
  /-- the contexts it holds, each by the engine code of its Assayer or Gleaner (R92, R201, R235) -/
  ctx : List Nat
  /-- frames whose fill it waits for, each with the phase of the opcode that waits (R93) -/
  fills : List (Nat × Nat)
  /-- the `HOME_OP` that brought it, when another ZV9 issued it; its key then is (64 + slice, source node, `TAG`) -/
  origin : Option QPkt
  /-- `OBS_NOW` at consumption (R595) -/
  since : Nat
  /-- a `ROLLBACK` ran on a region whose working version it names: the values that it writes are undefined (R190) -/
  torn : Bool := false
  /-- the record that its reference named when it started (R168, R208, R243) -/
  startRecord : List Byte := []
  /-- the positions that code selection has handed to the exact pass, by row (R228) -/
  picked : Option (List (List Nat)) := none
  /-- what it writes in its last phase, once computed: address and bytes by unit -/
  plan : List (Nat × List Byte) := []
  /-- writes that lie on this home and on others, by unit and address, whose part at the other homes has been sent (R96) -/
  halves : List (Nat × Nat) := []
  /-- the translations under which it has issued what it has not yet done with: they serve when it is tried again (R332) -/
  lent : List XlEntry := []
  /-- a `SEARCH`: the Assayers of the parts of the query that it is at, by engine code (R215) -/
  asys : List Nat := []
  /-- the last block that it has sent to another home is not acknowledged yet (R224) -/
  owed : Bool := false
  deriving DecidableEq, Repr

/-! ### Tiles, frames, regions, extents, drives -/

/-- Place of a T2 frame: drive, zone, slot of the zone (R298, R299). -/
structure Slot where
  drive : Nat
  zone : Nat
  slot : Nat
  deriving DecidableEq, Repr

/-- A cache frame (R279): bytes, `VALID` and `DIRTY` masks of the 16 sectors, poisoned 64-byte lines. -/
structure CacheFrame where
  data : Cells
  valid : BitVec 16
  dirty : BitVec 16
  poison : List Nat
  deriving DecidableEq, Repr

/-- A frame (R270, R271). For T0 and T1 `data` is the tile itself; for T2 and TH the bytes lie on the drive or in the
client and the ZV9 keeps the location and the stored tag (R278). -/
structure Frame where
  id : Nat
  tier : Nat
  /-- T0: staging frame; T1: frame number in the pool; TH: frame number in the TH range -/
  num : Nat
  /-- TH: the Kellija port -/
  port : Nat
  owner : Nat
  data : Cells
  poison : List Nat
  /-- T2: the slot, none while only reserved (R280) -/
  slot : Option Slot
  /-- TH: the frame has been written back -/
  stored : Bool
  tag : Nat
  /-- the status a lost tile answers with (R290) -/
  lost : Option Nat
  cache : Option CacheFrame
  deriving DecidableEq, Repr

/-- A retained version: its number and its tile map (tile number, frame identity). -/
structure Version where
  num : Nat
  map : List (Nat × Nat)
  deriving DecidableEq, Repr

/-- A live or deleting region (R40, R42). -/
structure Region where
  num : Nat
  deleting : Bool
  owner : Nat
  writeLost : Bool
  size : Nat
  base : Nat
  published : Nat
  lastCut : Nat
  stamp : Nat
  working : List (Nat × Nat)
  retained : List Version
  /-- target tier and TH port set at creation, and the tiles whose target `PLACE` changed since (R271, R293) -/
  target : Nat × Nat
  targets : List (Nat × (Nat × Nat))
  deriving DecidableEq, Repr

/-- An accepted extent of the copied extent table (R274) with the frames of its extent tiles (R273). -/
structure Extent where
  num : Nat
  base : Nat
  tiles : Nat
  owner : Nat
  map : List (Nat × Nat)
  deriving DecidableEq, Repr

/-- Names a tile: of a region, or an extent tile. -/
inductive TRef where
  | rgn (num tile : Nat)
  | ext (num tile : Nat)
  deriving DecidableEq, Repr

/-- State of a zone as the ZV9 uses it (R299). -/
inductive ZoneSt where
  | empty | opened | full | excluded
  deriving DecidableEq, Repr

/-- A zone of a drive: capacity in slots and the slots written. -/
structure Zone where
  num : Nat
  cap : Nat
  written : Nat
  state : ZoneSt
  deriving DecidableEq, Repr

/-- A drive in use: its zones in use, the zone open for write-backs and the one open for reclamation (R299). -/
structure Drive where
  port : Nat
  zones : List Zone
  openWb : Option Nat
  openRc : Option Nat
  /-- I/O queue pairs beside the admin pair (R298) -/
  queues : Nat
  /-- features set (R297): the Volatile Write Cache is enabled, and asynchronous events are configured -/
  vwc : Bool := true
  events : Bool := true
  deriving DecidableEq, Repr

/-- What an outstanding NVMe command does (R297, R298). -/
inductive NvmeOp where
  | read (frame : Nat)
  | readRc (frame : Nat)
  | append (frame : Nat) (rc : Bool) (zone : Nat) (bytes : Cells) (dirty : BitVec 16) (tag : Nat)
  | finish (zone : Nat)
  | reset (zone : Nat)
  | abort (cmd : Nat)
  | admin (opcode : Nat)
  /-- a command of the drive's bring-up (R297): its opcode, and what it identifies, sets, creates or reports -/
  | setup (opcode arg : Nat)
  | controllerReset
  deriving DecidableEq, Repr

/-- An outstanding NVMe command: identity, port, what it does, whether it was already retried, whether Abort was issued. -/
structure NvmeCmd where
  id : Nat
  port : Nat
  op : NvmeOp
  retried : Bool
  /-- the bytes of its first completion failed the tag (R277, R278) -/
  retagged : Bool
  aborting : Bool
  deriving DecidableEq, Repr

/-! ### Translation -/

/-- An entry of the access-counter cache (R336), least recently incremented last. -/
structure XlCount where
  slice : Nat
  page : Nat
  host : Nat
  dev : Nat
  deriving DecidableEq, Repr

/-! ### Accesses at a home bank, requests on the fabric -/

/-- A client transaction: the client's request and what is still owed to it. A request whose bytes lie on two homes, or in
pages of two homes, has a part for each (R422). -/
structure CTxn where
  id : Nat
  port : Nat
  req : KPkt
  slice : Nat
  left : Nat
  got : List (Nat × List Byte)
  status : Nat
  kind : Nat
  detail : Nat
  poison : Bool
  /-- virtual ranges of the leaves that it was translated through (R331) -/
  pages : List (Nat × Nat)
  deriving DecidableEq, Repr

/-- Who is owed the answer of an access. -/
inductive Org where
  /-- part `off` of a client transaction -/
  | txn (id off : Nat)
  /-- a Quaril request -/
  | peer (p : QPkt)
  /-- a coherent request answered with `DATA_NC` (R373) -/
  | nc (r : Req)
  /-- an engine of this ZV9 under a descriptor -/
  | desc (k : DKey)
  /-- nobody -/
  | none
  deriving DecidableEq, Repr

/-- What an access does at its home. -/
inductive AccOp where
  | read (len : Nat)
  | write (bytes : List Byte) (poison : Bool)
  | atomic (op typ : Nat) (operand : List Byte)
  deriving DecidableEq, Repr

/-- An access at this home: for whom, what, the local address, the requester's slice and node. -/
structure Acc where
  org : Org
  op : AccOp
  addr : Nat
  slice : Nat
  node : Nat
  /-- virtual ranges of the leaves that it was translated through (R331) -/
  pages : List (Nat × Nat) := []
  deriving DecidableEq, Repr

/-- Who issued a request that this ZV9 has outstanding on the fabric. -/
inductive Issuer where
  | txn (id off : Nat)
  /-- a read, write or atomic of a descriptor; `unit` is the progress unit it belongs to -/
  | desc (k : DKey) (unit : Nat)
  /-- a completion record or status block with `LOC` 2 (R90) -/
  | cq (slice ring : Nat)
  /-- a coherent request of a client, forwarded -/
  | coh (port : Nat) (p : KPkt)
  /-- abandoned by a descriptor that was stopped (R536) -/
  | none
  deriving DecidableEq, Repr

/-- A request outstanding on the fabric (R425, R429): the packet as last sent, its issuer, how often it was sent. -/
structure OutReq where
  pkt : QPkt
  who : Issuer
  /-- times it was sent; 0 while it waits for space for its response (R415, R483) -/
  sends : Nat
  /-- `OBS_NOW` at the first sending (R595) -/
  since : Nat
  /-- virtual ranges of the leaves that it was translated through (R331, R332) -/
  pages : List (Nat × Nat) := []
  /-- it was rejected for its epoch, and is sent again behind the earlier requests of its thread to that home (R365, R421) -/
  stale : Bool := false
  deriving DecidableEq, Repr

/-- What a thread carries over (R364, R422): the port and stream, the failed writes (home when known; status, kind and
`DETAIL`) and what its release points made by a `SYNC` end with (R359). -/
structure Thread where
  port : Nat
  stream : Nat
  failed : List (Option Nat × (Nat × Nat × Nat))
  syncFail : Option (Nat × Nat × Nat)
  /-- the slice that was bound to the port when the first of these failed: its abort or reset ends them, bound or not (R364) -/
  slice : Option Nat := none
  deriving DecidableEq, Repr

/-- A request of a stream that waits: a release point for the earlier writes it covers (R359), a later request behind a
re-sent one (R365) or behind an older epoch (R421). -/
structure Held where
  port : Nat
  /-- the slice bound to the port when the request was accepted (R454) -/
  slice : Nat
  req : KPkt
  /-- the check that it failed: a write that ends with it in its turn among the requests of its stream (R364) -/
  fail : Option (Nat × Nat × Nat) := none
  deriving DecidableEq, Repr

/-! ### The Reeve directory -/

/-- `STATE` of a directory entry (R376), `FREE` left out. -/
inductive DState where
  | s | x | sHeld | xHeld | invWait | recallWait | evictWait
  deriving DecidableEq, Repr

/-- Why a line is in a transient state. -/
inductive DCause where
  | none
  /-- a coherent request is served when the answers are in; `upg`: answer `GRANT_X`; `shared`: after `RECALL_S` -/
  | req (r : Req) (node port : Nat) (upg shared : Bool)
  /-- a queued access waits (R391); `shared`: the owner stays as a sharer -/
  | access (shared : Bool)
  | evict
  deriving DecidableEq, Repr

/-- A directory entry (R375): line number, way, state, precise holders as (node, port), the groups of a coarse entry,
the end of the hold, the not-recently-used bit of R388, the answers awaited and the cause of a transient state. -/
structure DirEntry where
  line : Nat
  way : Nat
  state : DState
  coarse : Bool
  ptrs : List (Nat × Nat)
  groups : BitVec 64
  holdUntil : Nat
  nru : Bool
  awaiting : List (Nat × Nat)
  /-- what was sent to the holders of a transient line: 0x13 `INV`, 0x14 `RECALL_S`, 0x15 `RECALL_I` -/
  asked : Nat
  cause : DCause
  deriving DecidableEq, Repr

/-- A retry slot in use (R384): bank, slot number, line, generation, `NEXT`, `SERVE`. -/
structure RetrySlot where
  bank : Nat
  num : Nat
  line : Nat
  gen : Nat
  next : Nat
  serve : Nat
  deriving DecidableEq, Repr

/-- A region sweep (R390): the range, the answers awaited and the operation whose record waits for it. -/
structure Sweep where
  base : Nat
  len : Nat
  awaiting : List (Nat × Nat × Nat)
  who : Org
  deriving DecidableEq, Repr

/-- An access queued at its bank (R391) or waiting for a fill (R279, R394). -/
structure Waiting where
  acc : Acc
  bank : Nat
  deriving DecidableEq, Repr

/-! ### Keepers and links -/

/-- A keeper's and the leader's own state (R433, R435). -/
structure Keeper where
  term : Nat
  /-- term in which this keeper last voted -/
  voted : Nat
  /-- candidate in `term`, with the keepers that granted their vote -/
  votes : List Nat
  candidate : Bool
  /-- newest change stored here: epoch and map it makes -/
  replicated : Option FMap
  /-- keepers that acknowledged the change under way (leader) -/
  acks : List Nat
  /-- change under way at the leader: stage 1 replicating, 2 preparing -/
  stage : Nat
  /-- nodes that acknowledged `PREPARE` (leader), or the subtree count (any node) -/
  prepAcks : Nat
  prepNodes : List Nat
  /-- reports to the leader that this ZV9, leading, has made itself -/
  reports : List (Nat × Report)
  /-- changes waiting at the leader -/
  changes : List Change
  /-- composition requests waiting: requesting node and change -/
  requests : List (Nat × Change)
  /-- probes sent and unanswered: suspect, reporter and its port -/
  probes : List (Nat × Nat × Nat)
  /-- slices configured on each node, as last reported (R499) -/
  reported : List (Nat × BitVec 64)
  /-- Kellija ports of each node that a job may bind, as last reported (R502) -/
  bindable : List (Nat × BitVec 4)
  /-- composition requests that passed the checks and wait for their epoch: requesting node and change -/
  passed : List (Nat × Change)
  /-- topology gathered (R441): device, its up links by device -/
  topo : List (Nat × List (Nat × Nat × Nat))
  /-- highest job number that this ZV9 has seen used or has handed out since the domain formed (R503) -/
  lastJob : Nat
  /-- teardown or abort already started for these jobs -/
  torn : List Nat
  /-- Quaril ports of this ZV9 that went down because their neighbour missed eight heartbeats (R436) -/
  suspects : List Nat := []
  /-- map messages passed on before routes exist, by their sender's place in the keeper list (R441) -/
  relayed : List (Nat × MapMsg) := []
  /-- the Quaril port toward the leader: the one by which the first beat of its term came (R441) -/
  up : Option Nat := none
  /-- Kellija ports of each node with a caching client, as last reported (R378) -/
  clients : List (Nat × BitVec 4) := []
  deriving DecidableEq, Repr

/-- Link side of a port, numbered as in R487 (0 to 3 Kellija, 4 to 11 Quaril). -/
structure Link where
  port : Nat
  /-- training step of R402 under way, 0 when none -/
  step : Nat
  txSeq : Nat
  /-- blocks sent and not acknowledged (R406): sequence number and packets -/
  replay : List (Nat × List Pkt)
  rxSeq : Nat
  /-- consecutive failed replays of the block expected next -/
  fails : Nat
  /-- missed heartbeats in a row (R436, R465) -/
  misses : Nat
  /-- credits held toward the peer: (class, lane, cells) -/
  credits : List (Nat × Nat × Nat)
  /-- credits owed to the peer for cells freed -/
  owed : List (Nat × Nat × Nat)
  /-- peer's device identifier, known after step 5 -/
  peerDev : Nat
  /-- the flits still to be sent of a packet that has begun, and the packet (R405) -/
  txPart : Option (Nat × Pkt) := none
  /-- the block from which this end asks for a replay with its next block (R406) -/
  ask : Option Nat := none
  /-- the next block of the replay that this end sends -/
  again : Option Nat := none
  /-- the block whose replay was asked for last, and its replays that have failed in a row -/
  againSeq : Option Nat := none
  againCount : Nat := 0
  /-- blocks with `KILL` still to be sent, and the packet (R466) -/
  kills : Nat := 0
  killPkt : Option Pkt := none
  deriving DecidableEq, Repr

/-- What the ZV9 answers to a link-up record (R452). -/
structure LinkAnswer where
  node : Nat
  port : Nat
  version : Nat
  epoch : Nat
  dev : Nat
  slice : Nat
  deriving DecidableEq, Repr

/-- What a Kellija port knows of its client beyond its registers, and what it answered the client's link-up record (R452). -/
structure KlClient where
  port : Nat
  dev : Nat
  thBase : Nat
  thLen : Nat
  winBase : Nat
  winLen : Nat
  answer : LinkAnswer
  deriving DecidableEq, Repr

/-- Why the ZV9 sent a request to a client (R456). -/
inductive KlWhy where
  | ringStruct (slice ring : Nat)
  | sqRead (slice ring : Nat)
  /-- `again`: the bytes failed the tag once (R277, R278) -/
  | fill (frame : Nat) (again : Bool)
  | writeback (frame : Nat) (dirty : BitVec 16) (tag : Nat)
  | interrupt (slice vec : Nat)
  /-- a part of a write-back that another part has failed, or a read of slots that a resumed ring reads again (R84) -/
  | late
  deriving DecidableEq, Repr

/-- A `C_READ`, `C_WRITE` or `INT` outstanding at a client: port, tag, why, bytes still owed, bytes
received and the 64-byte lines of them that came poisoned. -/
structure KlOut where
  port : Nat
  tag : Nat
  why : KlWhy
  left : Nat
  got : List Byte
  bad : List Nat
  deriving DecidableEq, Repr

/-- A packet in the switch core waiting for its output (R484): input, output port, packet. -/
structure Queued where
  input : Nat
  out : Nat
  pkt : Pkt
  /-- the lane in which it came, when that is another than its own now: its cells are of that lane's allotment (R478) -/
  lane : Option Nat := none
  deriving DecidableEq, Repr

/-- What an arbitration point keeps (R505): the 1 µs window, the units of each party served in it, the party last taken below its minimum,
the party whose weighted turn runs and the units of that turn; at a link output also the input and lane last taken (R485). -/
structure Share where
  win : Nat := 0
  served : List (Nat × Nat) := []
  minPos : Nat := 64
  pos : Nat := 0
  used : Nat := 0
  lane : Nat := 0
  deriving DecidableEq, Repr

/-- What a link output keeps of its flit slots (R485): the window, the slots of TC6 in it, and the slots since a TC7 packet left. -/
structure OutTurn where
  win : Nat := 0
  mgmt : Nat := 0
  since7 : Nat := 0
  deriving DecidableEq, Repr

/-! ### Central store -/

/-- What the audit keeps of a cell (R488, R489). -/
inductive CellMark where
  /-- found neither free nor held by the last pass, with this generation -/
  | suspect
  /-- found both free and held: off the free list, and quarantined when its holder releases it -/
  | dual
  | quarantined
  deriving DecidableEq, Repr

/-- A cell of the packet buffer that is not plainly free or held, as the audit knows it. -/
structure CellRec where
  cell : Nat
  owner : CellOwner
  gen : Nat
  mark : CellMark
  deriving DecidableEq, Repr

/-- An entry of the mirror ring (R487). -/
structure MirrorEnt where
  port : Nat
  dir : Nat
  tc : Nat
  vl : Nat
  trunc : Bool
  len : Nat
  seq : Nat
  stamp : Nat
  bytes : List Byte
  deriving DecidableEq, Repr

/-! ### Slices, revokes, compositions, aborts -/

/-- A slice reset under way (R510). -/
structure SliceReset where
  slice : Nat
  abort : Bool
  quiet : Bool
  deriving DecidableEq, Repr

/-- A revocation record (R514): the extent, and the former holder as job or slice. -/
structure Revoked where
  extent : Bool
  num : Nat
  base : Nat
  len : Nat
  job : Option Nat
  slice : Nat
  deriving DecidableEq, Repr

/-- A revoke under way (R514): what it names, the new owner, its mode, the descriptors ended so far, lines still recalled. -/
structure Revoking where
  what : Revoked
  newOwner : Nat
  abort : Bool
  ended : Nat
  victims : List DKey
  deriving DecidableEq, Repr

/-- A root invalidation (R335) or a consumed `INVAL` (R331) under way. -/
structure Inval where
  slice : Nat
  abort : Bool
  /-- the `INVAL` descriptor; none for a root invalidation -/
  key : Option DKey
  ended : Nat
  /-- descriptors that hold an access through a covered entry, in abort mode -/
  victims : List DKey
  /-- tags of the requests, and client transactions, translated through a covered entry and not answered -/
  tags : List Nat
  txns : List Nat
  /-- accesses of clients at this home, and descriptors with an access waiting here, translated through a covered entry -/
  accs : List Acc := []
  waits : List DKey := []
  /-- coherent requests of clients of this ZV9 that wait in the directory for holders -/
  cohs : List Req := []
  deriving DecidableEq, Repr

/-- An access of an aborted descriptor still outstanding (R536, R538): the slice and the request's tag. -/
structure Abandoned where
  slice : Nat
  tag : Nat
  deriving DecidableEq, Repr

/-- An abort identifier taken for a job (R539). -/
structure AbortId where
  job : Nat
  origin : Nat
  id : Nat
  deriving DecidableEq, Repr

/-- Details of an alarm entry that its registers do not hold (R530): table entry, `DETAIL`, `CONTEXT`, stamp last sent. -/
structure AlarmExtra where
  entry : Nat
  detail : Nat
  context : List Byte
  deriving DecidableEq, Repr

/-! ### Arrays and engines -/

/-- A row update waiting in a shard's ordered queue, an append waiting at its home bank: the descriptor that holds it. -/
structure Queue where
  what : Nat
  key : DKey
  deriving DecidableEq, Repr

/-! ### Boot, identity, management -/

/-- A Lanigal request (R576). -/
inductive MReq where
  | bootStatus
  | identity
  | report (nonce : List Byte)
  | regRead (addr : Nat)
  | regWrite (addr : Nat) (word : Word)
  | flashWrite (slot off len rsvd : Nat) (data : List Byte)
  | endorse (off len total rsvd : Nat) (data : List Byte)
  | reset
  deriving DecidableEq, Repr

/-- A message that the MCTP endpoint sends (R575, R576): type 0x00 control or 0x7F Lanigal, command, completion code or
`STATUS`, body. -/
structure MRsp where
  typ : Nat
  command : Nat
  status : Nat
  body : List Byte
  deriving DecidableEq, Repr

/-- The boot flash (R559 to R562): the step of R560 that fails (0: none), its bytes (an unlisted byte reads 0xFF), its
density, and whether an erase or program runs. -/
structure Flash where
  failStep : Nat
  density : Nat
  data : List (Nat × Byte)
  busy : Bool
  /-- the operation runs for the front MCTP request (true), or for the identity record of stage 3 (false) -/
  forMctp : Bool
  deriving DecidableEq, Repr

/-- The selected configuration image (R564 to R568), as the ZV9 keeps it. -/
structure Cfg where
  domain : Nat
  keepers : List Nat
  /-- the node plan: node, device identifier -/
  plan : List (Nat × Nat)
  rootMask : Nat
  minFw : Nat
  serial : Nat
  svn : Nat
  generation : Nat
  digest : List Byte
  cert : List Byte
  body : List Byte
  deriving DecidableEq, Repr

/-- The selected firmware image: `SVN`, `GENERATION`, `DIGEST` (R573). -/
structure Fw where
  svn : Nat
  generation : Nat
  digest : List Byte
  deriving DecidableEq, Repr

/-- The device key (R570). -/
structure Ident where
  k : List Byte
  pk : List Byte
  deriving DecidableEq, Repr

/-- A run of `STREAM` (R608): readout address, length, run number, frames sent. -/
structure TapRun where
  start : Nat
  len : Nat
  run : Nat
  sent : Nat
  deriving DecidableEq, Repr

/-- A measurement-log entry (R573). -/
structure Meas where
  kind : Nat
  svn : Nat
  generation : Nat
  digest : List Byte
  deriving DecidableEq, Repr
/-! ### The whole state -/

/-- The state of one ZV9. -/
structure State where
  /-- commands waiting, first in, first out (the model's own) -/
  pending : List Instr
  /-- counter that the model's free values are taken at (the model's own) -/
  fresh : Nat
  /-- the ordering code is ZV9-432-L (R2) -/
  code432 : Bool
  /-- registers that differ from their reset value, by setup-space offset (R635 to R638) -/
  regs : List (Nat × Word)
  /-- scratchpad window and DRAM direct part, by local address (R35, R37) -/
  mem : Cells
  /-- poisoned 64-byte lines of the same, by line address (R304, R474) -/
  poison : List Nat
  /-- ring pairs in use (R63) -/
  rings : List Ring
  /-- the ring command that waits for the bytes of its request: `CMD`, `ADDR` (R67) -/
  ringReq : Option (Nat × Nat)
  /-- consumed descriptors without their record (R77, R91) -/
  descs : List Desc
  /-- the ordered queues at home banks: appends and table updates (R161, R258) -/
  queues : List Queue
  /-- array passes of each group since the write that set `ARR_AUDIT_CTL.ENABLE` (R135) -/
  passes : List (Nat × Nat)
  /-- slice whose data the operand memory of an array may hold, by array; an array not listed is clear (R108) -/
  arrSlice : List (Nat × Nat)
  /-- operand memory of the arrays: array, seed of the words that its passes left; one that is not listed holds zeros (R106 to R108) -/
  arrMem : List (Nat × Nat)
  regions : List Region
  extents : List Extent
  frames : List Frame
  nextFrame : Nat
  /-- tiles without a frame that hold a clean cache frame of zeros (R279) -/
  zeroed : List TRef
  /-- ports whose drive was present at store-ready and is not yet in use or unusable (R303, R557) -/
  mediaWait : List Nat
  /-- stacks and pattern of the Borage pass that runs or ran last (R307) -/
  borage : Nat × Nat
  /-- retired pool frames (R306) -/
  retired : List Nat
  drives : List Drive
  nvme : List NvmeCmd
  nextCmd : Nat
  /-- port after which write-backs look for the next drive (R300) -/
  nextDrive : Nat
  /-- background write-back runs (R282) -/
  background : Bool
  xlCache : List XlEntry
  xlCounts : List XlCount
  invals : List Inval
  dir : List DirEntry
  slots : List RetrySlot
  /-- generations of retry slots that are not 0, by 64 × bank + slot (R384) -/
  slotGens : List (Nat × Nat)
  /-- recalls under way (line, holder, `OBS_NOW` at the sending), and the round trips of each bank's last 16, newest first (R384) -/
  recalls : List (Nat × (Nat × Nat) × Nat)
  trips : List (Nat × List Nat)
  sweeps : List Sweep
  /-- accesses queued at their bank for a recall (R391) -/
  bankQ : List Waiting
  /-- accesses waiting for a fill (R279, R394) -/
  fillQ : List Waiting
  mapPrev : Option FMap
  mapCur : Option FMap
  mapPrep : Option FMap
  /-- the grace period of the current epoch runs (R424) -/
  grace : Bool
  keeper : Keeper
  /-- the fencing epoch that an `E_FENCED` of this ZV9 carries once it is fenced (kind 6 of R93) -/
  fenceEpoch : Nat
  links : List Link
  /-- `INV` and recalls of other homes given to a client and not answered (R381, R466): port, message -/
  cohOwed : List (Nat × QPkt)
  outReqs : List OutReq
  /-- `INV` and recalls that wait for answer space of their home bank (R415, R483): line, type, holder -/
  asks : List (Nat × Nat × (Nat × Nat))
  nextTag : Nat
  txns : List CTxn
  nextTxn : Nat
  threads : List Thread
  held : List Held
  /-- packets in the switch core waiting for an output (R484) -/
  queue : List Queued
  /-- arbitration points (R505): 10 × port + class at a link output, 10 × port + 8 among its classes TC0 to TC5, 1000 the ring front end -/
  shares : List (Nat × Share)
  /-- flit slots of the link outputs, by port (R485) -/
  turns : List (Nat × OutTurn)
  /-- packets taken from link blocks and not yet processed: port, packet -/
  rx : List (Nat × Pkt)
  klClients : List KlClient
  klOuts : List KlOut
  /-- responses that matched nothing: Kellija port, `OBS_NOW` (R465) -/
  klUnmatched : List (Nat × Nat)
  /-- killed ports whose 100 ms have passed (R467) -/
  klMayTrain : List Nat
  /-- Quaril ports that run Dill (R407) -/
  dill : List Nat
  /-- KILL blocks sent on a port: port, cause (R466) -/
  killed : List (Nat × Nat)
  cells : List CellRec
  /-- differences of in-use counts that the last audit pass found: allotment index, difference (R489) -/
  auditDiff : List (Nat × Int)
  /-- counts of the mirror, by 2 × port + direction: packets counted, packets sampled (R486, R487) -/
  mirrorCnt : List (Nat × (Nat × Nat))
  mirror : List MirrorEnt
  resets : List SliceReset
  revoked : List Revoked
  revoking : Option Revoking
  /-- versions held for lookups of other ZV9s (R49, R58) -/
  lent : List Lent
  /-- a composition request is at the leader (R502) -/
  composing : Option Change
  /-- the leader has made that request a change, of an epoch and a job (R502) -/
  granted : Option (Nat × Nat)
  /-- the composition request whose bytes are still to be read: its address (R502) -/
  composeAt : Option Nat
  abortIds : List AbortId
  abandoned : List Abandoned
  /-- an abort merged into one in progress: it starts again when every slice of the job is quiet (R539) -/
  mergedAborts : List (AbortId × Nat)
  alarmExtra : List AlarmExtra
  /-- `ALARM` packets sent: entry, `OBS_NOW` at the sending (R530) -/
  alarmSent : List (Nat × Nat)
  /-- snapshots since `OBS_DUMP_CTL.ENABLE` was set, `OBS_SEL` registers written since the last one, and the count at the
  write that set `ENABLE` or changed `PERIOD_US` (R592, R593) -/
  dumpSeq : Nat
  dumpChanged : Nat
  dumpFrom : Nat
  /-- Scrivener (R596 to R598): occurrences counted, samples written, LFSR, next sample with `JITTER`, time of the last -/
  scrCount : Nat
  scrSeq : Nat
  scrLfsr : BitVec 31
  scrNext : Nat
  scrLast : Option Nat
  flash : Flash
  /-- the selected images (R566) -/
  cfg : Option Cfg
  fw : Option Fw
  /-- the device key, once derived (R570) -/
  ident : Option Ident
  /-- the measurement log (R573) -/
  meas : List Meas
  /-- Lanigal requests held, oldest first (R577); messages sent by the endpoint -/
  mctp : List MReq
  mctpOut : List MRsp
  /-- Carter channels queued, the running one first (R578), and the line it wrote last -/
  carter : List Nat
  carterLast : List Byte
  /-- a message for log records that are not alarms is due (R528) -/
  logIntDue : Bool
  /-- `PWROK` is high; the internal power-on reset holds; `RESET_N` is recognised and held (R555, R604, R621) -/
  pwrok : Bool
  porHeld : Bool
  resetHeld : Bool
  /-- straps `MGMT_ADDR[1:0]` (R575, R619) -/
  straps : Nat
  /-- monitored rails out of tolerance (R622) -/
  railsBad : List Nat
  /-- `THERMTRIP_N` is low (R628) -/
  tripped : Bool
  /-- stack temperatures of the last reading (R627), package estimates of the last 100 windows, newest first (R628), and the
  sixty-fourths that a capped group (0 to 7) or stack (8 to 13) receives (R630) -/
  tStacks : List Int
  pkgHist : List Nat
  admitted : List (Nat × Nat)
  /-- the TAP's instruction, the readout address, the data register captured last, the run of `STREAM` under way, frames sent on `DBG_TX` (R605 to R609) -/
  tapIr : Nat
  tapAddr : Nat
  tapDr : Nat
  tapRun : Option TapRun
  dbgTx : List (List Byte)
  /-- a `FREEZE_N` assertion waits for the end of stage 2 (R604) -/
  freezeDeferred : Bool
  /-- eighteenths of AON cycles since reset release (R594, R616) -/
  aon : Nat
  /-- boot stages that ended in failure, with their `FAIL` code (7: the stage exceeded its maximum) (R558) -/
  stuck : List (Nat × Nat)
  deriving DecidableEq, Repr

/-! ### Stops -/

/-- Faults. No command of the block ends in one: an error of the hardware is a status, a flag or an event in `State`.
The constructor stands for an access that the model could not place; nothing raises it, which is safe. -/
inductive Fault where
  | unplaced
  deriving DecidableEq, Repr

/-- Refusals: `notModelled` is raised by the dispatcher alone, for a command without a meaning; that is safe, since a
refused command changes nothing. -/
inductive Refusal where
  | notModelled (mnemonic : String)
  deriving DecidableEq, Repr

/-- The ZV9 after power-on reset: registers at their reset values (R10), nothing configured, no domain formed, an empty
queue. -/
def State.reset : State := {
  pending := [],
  fresh := 0,
  code432 := false,
  regs := [],
  mem := [],
  poison := [],
  rings := [],
  ringReq := none,
  descs := [],
  queues := [],
  passes := [],
  arrSlice := [],
  arrMem := [],
  regions := [],
  extents := [],
  frames := [],
  nextFrame := 0,
  zeroed := [],
  mediaWait := [],
  borage := (0, 0),
  retired := [],
  drives := [],
  nvme := [],
  nextCmd := 0,
  nextDrive := 0,
  background := false,
  xlCache := [],
  xlCounts := [],
  invals := [],
  dir := [],
  slots := [],
  slotGens := [],
  recalls := [],
  trips := [],
  sweeps := [],
  bankQ := [],
  fillQ := [],
  mapPrev := none,
  mapCur := none,
  mapPrep := none,
  grace := false,
  keeper := { term := 0, voted := 0, votes := [], candidate := false, replicated := none, acks := [], stage := 0, prepAcks := 0, prepNodes := [], reports := [], changes := [], requests := [], probes := [], reported := [], bindable := [], passed := [], topo := [], lastJob := 0, torn := [] },
  fenceEpoch := 0,
  links := [],
  cohOwed := [],
  outReqs := [],
  asks := [],
  nextTag := 0,
  txns := [],
  nextTxn := 0,
  threads := [],
  held := [],
  queue := [],
  shares := [],
  turns := [],
  rx := [],
  klClients := [],
  klOuts := [],
  klUnmatched := [],
  klMayTrain := [],
  dill := [],
  killed := [],
  cells := [],
  auditDiff := [],
  mirrorCnt := [],
  mirror := [],
  resets := [],
  revoked := [],
  revoking := none,
  lent := [],
  composing := none,
  granted := none,
  composeAt := none,
  abortIds := [],
  abandoned := [],
  mergedAborts := [],
  alarmExtra := [],
  alarmSent := [],
  dumpSeq := 0,
  dumpChanged := 0,
  dumpFrom := 0,
  scrCount := 0,
  scrSeq := 0,
  scrLfsr := 0,
  scrNext := 0,
  scrLast := none,
  flash := { failStep := 0, density := 0x4000000, data := [], busy := false, forMctp := false },
  cfg := none,
  fw := none,
  ident := none,
  meas := [],
  mctp := [],
  mctpOut := [],
  carter := [],
  carterLast := [],
  logIntDue := false,
  pwrok := false,
  porHeld := true,
  resetHeld := false,
  straps := 0,
  railsBad := [],
  tripped := false,
  tStacks := [],
  pkgHist := [],
  admitted := [],
  tapIr := 1,
  tapAddr := 0,
  tapDr := 0,
  tapRun := none,
  dbgTx := [],
  freezeDeferred := false,
  aon := 0,
  stuck := [] }

end Sys2Proof.Machine
end

