-- ==== Sys2Proof/Machine/Regs.lean ====
section
/-! DEFINITION. The registers of the ZV9, block by block (R635 to R638): name, setup-space offset of instance 0, stride,
number of instances, and every named field with its bits, its access kind (R10) and its reset value. A bit that no field
names is reserved (R12). Reset values that depend on the instance, on the mask stepping, on the ordering code or on the
straps stand as 0 here and are given by `resetExtra` and `liveBits` (Machine/Ops.lean). After the table: one `Fld` for
each named field. -/

namespace Sys2Proof.Machine

open FAcc

/-- Block ZV (R6, R7, R8). -/
def regsZv : List RegSpec := [
  { name := "ZV_IDENT", off := 0x0, stride := 0x8, count := 1, fields := [
      ⟨"MEMBER", 24, 8, .ro, 9⟩,
      ⟨"STACK_GIB", 16, 8, .ro, 0⟩,
      ⟨"STEP_MAJOR", 12, 4, .ro, 0⟩,
      ⟨"STEP_MINOR", 8, 4, .ro, 0⟩] },
  { name := "ZV_PARAM0", off := 0x8, stride := 0x8, count := 1, fields := [
      ⟨"SLICES", 48, 8, .ro, 0x40⟩,
      ⟨"HOME_BANKS", 40, 8, .ro, 0x30⟩,
      ⟨"TILE_MOVERS", 32, 8, .ro, 0x20⟩,
      ⟨"GLEANERS", 24, 8, .ro, 8⟩,
      ⟨"ASSAYERS", 16, 8, .ro, 0x10⟩,
      ⟨"ARRAY_GROUPS", 8, 8, .ro, 8⟩,
      ⟨"ARRAYS", 0, 8, .ro, 0x40⟩] },
  { name := "ZV_PARAM1", off := 0x10, stride := 0x8, count := 1, fields := [
      ⟨"STORE_SLICES", 16, 16, .ro, 0x100⟩,
      ⟨"MEDIA_PORTS", 12, 4, .ro, 8⟩,
      ⟨"QF_PORTS", 8, 4, .ro, 8⟩,
      ⟨"KL_PORTS", 4, 4, .ro, 4⟩,
      ⟨"DRAM_STACKS", 0, 4, .ro, 6⟩] }]

/-- Block AS (R43, R44, R45, R46, R47). -/
def regsAs : List RegSpec := [
  { name := "AS_NODE", off := 0x10000, stride := 0x8, count := 1, fields := [
      ⟨"VALID", 16, 1, .ro, 0⟩,
      ⟨"NODE", 0, 16, .ro, 0⟩] },
  { name := "AS_SCRATCH_LIMIT", off := 0x10008, stride := 0x8, count := 1, fields := [
      ⟨"LEN", 0, 33, .ro, 0⟩] },
  { name := "AS_DIRECT_LIMIT", off := 0x10010, stride := 0x8, count := 1, fields := [
      ⟨"LEN", 0, 40, .ro, 0⟩] },
  { name := "AS_RGN_BASE", off := 0x10018, stride := 0x8, count := 1, fields := [
      ⟨"BASE", 16, 34, .rwl, 0⟩] },
  { name := "AS_RGN_SIZE", off := 0x10020, stride := 0x8, count := 1, fields := [
      ⟨"LOG2_ENTRIES", 0, 5, .rwl, 0⟩] },
  { name := "AS_RGN_STATUS", off := 0x10028, stride := 0x8, count := 1, fields := [
      ⟨"LOST_WRITES", 32, 32, .w1c, 0⟩,
      ⟨"LIVE", 0, 21, .ro, 0⟩] }]

/-- Block RING (R102, R103, R104, R105). -/
def regsRing : List RegSpec := [
  { name := "RING_CMD", off := 0x20000, stride := 0x8, count := 1, fields := [
      ⟨"ADDR", 6, 44, .wo, 0⟩,
      ⟨"CMD", 0, 4, .wo, 0⟩] },
  { name := "RING_CMD_STATUS", off := 0x20008, stride := 0x8, count := 1, fields := [
      ⟨"BUSY", 63, 1, .ro, 0⟩,
      ⟨"FIELD", 16, 8, .ro, 0⟩,
      ⟨"FORMAT", 8, 8, .ro, 0⟩,
      ⟨"STATUS", 0, 8, .ro, 0⟩] },
  { name := "RING_ERR", off := 0x20010, stride := 0x8, count := 1, fields := [
      ⟨"CMD_COLLISIONS", 48, 16, .w1c, 0⟩,
      ⟨"CQ_FAULTS", 32, 16, .w1c, 0⟩,
      ⟨"DB_REJECTS", 0, 32, .w1c, 0⟩] },
  { name := "RING_LIMITS", off := 0x20018, stride := 0x8, count := 1, fields := [
      ⟨"FMT_MIN", 32, 8, .ro, 1⟩,
      ⟨"FMT_MAX", 24, 8, .ro, 3⟩,
      ⟨"MAX_LOG2", 16, 8, .ro, 0x10⟩,
      ⟨"MIN_LOG2", 8, 8, .ro, 6⟩,
      ⟨"RINGS_PER_SLICE", 0, 8, .ro, 0x10⟩] }]

/-- Block ARR (R139, R140, R141, R142). -/
def regsArr : List RegSpec := [
  { name := "ARR_AUDIT_CTL", off := 0x30000, stride := 0x8, count := 1, fields := [
      ⟨"LOG2_N", 8, 5, .rw, 0xa⟩,
      ⟨"FAIL_ON_MISMATCH", 1, 1, .rw, 0⟩,
      ⟨"ENABLE", 0, 1, .rw, 0⟩] },
  { name := "ARR_AUDIT_STATUS", off := 0x30008, stride := 0x8, count := 1, fields := [
      ⟨"MISMATCHES", 32, 32, .w1c, 0⟩,
      ⟨"SKIPPED", 16, 16, .w1c, 0⟩,
      ⟨"DISABLE_REJECT", 0, 1, .w1c, 0⟩] },
  { name := "ARR_MISMATCH", off := 0x30010, stride := 0x8, count := 1, fields := [
      ⟨"ARRAY", 0, 64, .w1c, 0⟩] },
  { name := "ARR_DISABLE", off := 0x30018, stride := 0x8, count := 1, fields := [
      ⟨"ARRAY", 0, 64, .rw, 0⟩] },
  { name := "ARR_AUDITED", off := 0x30020, stride := 0x8, count := 1, fields := [
      ⟨"AUDITED", 0, 64, .ro, 0⟩] },
  { name := "ARR_ECC", off := 0x30028, stride := 0x8, count := 1, fields := [
      ⟨"UNCORRECTED", 32, 32, .w1c, 0⟩,
      ⟨"CORRECTED", 0, 32, .w1c, 0⟩] }]

/-- Block ATT (R195, R196, R197). -/
def regsAtt : List RegSpec := [
  { name := "ATT_LIMITS", off := 0x40000, stride := 0x8, count := 1, fields := [
      ⟨"MAX_K", 32, 16, .ro, 0x4000⟩,
      ⟨"MAX_B", 16, 16, .ro, 0x1000⟩,
      ⟨"MAX_ROWS", 8, 8, .ro, 0x80⟩,
      ⟨"MAX_EXCL", 4, 4, .ro, 8⟩] },
  { name := "ATT_ERR", off := 0x40008, stride := 0x8, count := 1, fields := [
      ⟨"STREAM_REJECTS", 32, 32, .w1c, 0⟩,
      ⟨"MERGE_REJECTS", 16, 16, .w1c, 0⟩,
      ⟨"APPENDS_CUT", 0, 16, .w1c, 0⟩] },
  { name := "ATT_DONE", off := 0x40010, stride := 0x8, count := 1, fields := [
      ⟨"DONE", 0, 64, .ro, 0⟩] },
  { name := "ATT_POSITIONS", off := 0x40018, stride := 0x8, count := 1, fields := [
      ⟨"POSITIONS", 0, 64, .ro, 0⟩] }]

/-- Block ASY (R230, R231, R232, R233). -/
def regsAsy : List RegSpec := [
  { name := "ASY_LIMITS", off := 0x50000, stride := 0x8, count := 1, fields := [
      ⟨"MAX_BEAM", 48, 16, .ro, 0x1000⟩,
      ⟨"MAX_K", 32, 16, .ro, 0x400⟩,
      ⟨"MAX_NQ", 24, 8, .ro, 0x40⟩,
      ⟨"MAX_DEGREE", 16, 8, .ro, 0x40⟩,
      ⟨"CONTEXTS", 0, 16, .ro, 0x200⟩] },
  { name := "ASY_ERR", off := 0x50008, stride := 0x8, count := 1, fields := [
      ⟨"INDEX_REJECTS", 48, 16, .w1c, 0⟩,
      ⟨"PROBE_REJECTS", 32, 16, .w1c, 0⟩,
      ⟨"BAD_ITEMS", 0, 32, .w1c, 0⟩] },
  { name := "ASY_QUERIES", off := 0x50010, stride := 0x8, count := 1, fields := [
      ⟨"QUERIES", 0, 64, .ro, 0⟩] },
  { name := "ASY_SCORED", off := 0x50018, stride := 0x8, count := 1, fields := [
      ⟨"SCORED", 0, 64, .ro, 0⟩] },
  { name := "ASY_BUSY", off := 0x50020, stride := 0x8, count := 1, fields := [
      ⟨"CONTEXTS", 0, 14, .ro, 0⟩] }]

/-- Block GLN (R267, R268, R269). -/
def regsGln : List RegSpec := [
  { name := "GLN_LIMITS", off := 0x60000, stride := 0x8, count := 1, fields := [
      ⟨"MAX_SHARDS", 48, 16, .ro, 0x1000⟩,
      ⟨"MAX_DIM", 32, 16, .ro, 0x2000⟩,
      ⟨"OUTSTANDING", 16, 16, .ro, 0x100⟩,
      ⟨"CONTEXTS", 8, 8, .ro, 0x10⟩,
      ⟨"INLINE_P", 0, 8, .ro, 7⟩] },
  { name := "GLN_ERR", off := 0x60008, stride := 0x8, count := 1, fields := [
      ⟨"BAD_ROWS", 32, 32, .w1c, 0⟩,
      ⟨"RECORD_REJECTS", 24, 8, .w1c, 0⟩,
      ⟨"BLOCK_REJECTS", 16, 8, .w1c, 0⟩,
      ⟨"PIN_TIMEOUTS", 0, 16, .w1c, 0⟩] },
  { name := "GLN_ROWS", off := 0x60010, stride := 0x8, count := 1, fields := [
      ⟨"ROWS", 0, 64, .ro, 0⟩] },
  { name := "GLN_APPLIED", off := 0x60018, stride := 0x8, count := 1, fields := [
      ⟨"APPLIED", 0, 64, .ro, 0⟩] }]

/-- Block TIER (R310, R311, R312, R313, R314, R315, R316, R317). -/
def regsTier : List RegSpec := [
  { name := "TIER_SPLIT", off := 0x70000, stride := 0x8, count := 1, fields := [
      ⟨"CACHE_GIB", 32, 16, .ro, 0⟩,
      ⟨"DIRECT_GIB", 0, 16, .rwl, 0⟩] },
  { name := "TIER_POOL", off := 0x70008, stride := 0x8, count := 1, fields := [
      ⟨"LEN_GIB", 32, 16, .rwl, 0⟩,
      ⟨"BASE_GIB", 0, 16, .rwl, 0⟩] },
  { name := "TIER_EXT", off := 0x70010, stride := 0x8, count := 1, fields := [
      ⟨"BASE", 12, 38, .rwl, 0⟩,
      ⟨"COUNT", 0, 9, .rwl, 0⟩] },
  { name := "TIER_CACHE", off := 0x70018, stride := 0x8, count := 1, fields := [
      ⟨"DIRTY_HIGH", 8, 8, .rw, 0x32⟩,
      ⟨"DIRTY_LOW", 0, 8, .rw, 0x19⟩] },
  { name := "TIER_CACHE_STAT", off := 0x70020, stride := 0x8, count := 1, fields := [
      ⟨"DIRTY", 32, 32, .ro, 0⟩,
      ⟨"FRAMES", 0, 32, .ro, 0⟩] },
  { name := "TIER_ERR", off := 0x70028, stride := 0x8, count := 1, fields := [
      ⟨"TAG_MISMATCHES", 32, 32, .w1c, 0⟩,
      ⟨"LOST_TILES", 16, 16, .w1c, 0⟩,
      ⟨"BAD_EXTENTS", 8, 8, .ro, 0⟩,
      ⟨"RETIRED", 0, 8, .ro, 0⟩] },
  { name := "TIER_RETIRE", off := 0x70030, stride := 0x8, count := 1, fields := [
      ⟨"ADDR", 16, 34, .wo, 0⟩] },
  { name := "TIER_SCRUB", off := 0x70038, stride := 0x8, count := 1, fields := [
      ⟨"ENABLE", 8, 1, .rw, 1⟩,
      ⟨"HOURS", 0, 8, .rw, 0x18⟩] },
  { name := "BORAGE_CTL", off := 0x70040, stride := 0x8, count := 1, fields := [
      ⟨"PATTERN", 8, 2, .rw, 0⟩,
      ⟨"STACKS", 2, 6, .rw, 0⟩,
      ⟨"START", 0, 1, .wo, 0⟩] },
  { name := "BORAGE_STATUS", off := 0x70048, stride := 0x8, count := 1, fields := [
      ⟨"BUSY", 63, 1, .ro, 0⟩,
      ⟨"REJECT", 62, 1, .w1c, 0⟩,
      ⟨"FAILS", 50, 12, .ro, 0⟩,
      ⟨"FIRST_FAIL", 0, 50, .ro, 0⟩] },
  { name := "MEDIA_CTL", off := 0x70050, stride := 0x8, count := 1, fields := [
      ⟨"TIMEOUT_MS", 32, 16, .rw, 0x1f4⟩,
      ⟨"RECLAIM_SHARE", 8, 8, .rw, 0x19⟩,
      ⟨"RECLAIM_LOW", 0, 8, .rw, 0x10⟩] },
  { name := "MEDIA_PORT", off := 0x70080, stride := 0x8, count := 8, fields := [
      ⟨"DMA_REJECTS", 48, 16, .w1c, 0⟩,
      ⟨"ZONES", 24, 24, .ro, 0⟩,
      ⟨"RATE", 12, 4, .ro, 0⟩,
      ⟨"WIDTH", 8, 4, .ro, 0⟩,
      ⟨"STATE", 0, 2, .ro, 0⟩] },
  { name := "TIER_QLIMIT", off := 0x71000, stride := 0x8, count := 256, fields := [
      ⟨"LIMIT", 0, 36, .rw, 0⟩] },
  { name := "TIER_QUSED", off := 0x71800, stride := 0x8, count := 256, fields := [
      ⟨"USED", 0, 36, .ro, 0⟩] },
  { name := "TIER_PC_ERR", off := 0x72000, stride := 0x8, count := 384, fields := [
      ⟨"UNCORRECTED", 32, 32, .w1c, 0⟩,
      ⟨"CORRECTED", 0, 32, .w1c, 0⟩] }]

/-- Block XL (R340, R341, R342, R343, R344, R345, R346). -/
def regsXl : List RegSpec := [
  { name := "XL_PT_BASE", off := 0x80000, stride := 0x8, count := 1, fields := [
      ⟨"BASE", 21, 29, .rwl, 0⟩] },
  { name := "XL_PT_LEN", off := 0x80008, stride := 0x8, count := 1, fields := [
      ⟨"LEN", 21, 19, .rwl, 0⟩] },
  { name := "XL_ERR", off := 0x80010, stride := 0x8, count := 1, fields := [
      ⟨"BAD_ENTRIES", 32, 32, .w1c, 0⟩,
      ⟨"WALK_POISON", 16, 16, .w1c, 0⟩,
      ⟨"ROOT_REJECTS", 0, 16, .w1c, 0⟩] },
  { name := "XL_WALKS", off := 0x80018, stride := 0x8, count := 1, fields := [
      ⟨"WALKS", 0, 64, .ro, 0⟩] },
  { name := "XL_MIG_CTL", off := 0x80020, stride := 0x8, count := 1, fields := [
      ⟨"DEV_LOG2", 40, 8, .rw, 0x14⟩,
      ⟨"HOST_LOG2", 32, 8, .rw, 0x10⟩,
      ⟨"DECAY_MS", 1, 15, .rw, 0x64⟩,
      ⟨"ENABLE", 0, 1, .rw, 0⟩] },
  { name := "XL_MIG_RING", off := 0x80028, stride := 0x8, count := 1, fields := [
      ⟨"BASE", 11, 39, .rw, 0⟩,
      ⟨"LOG2", 0, 5, .rw, 0⟩] },
  { name := "XL_MIG_IDX", off := 0x80030, stride := 0x8, count := 1, fields := [
      ⟨"CONS", 32, 32, .rw, 0⟩,
      ⟨"PROD", 0, 32, .ro, 0⟩] },
  { name := "XL_MIG_STAT", off := 0x80038, stride := 0x8, count := 1, fields := [
      ⟨"DROPS", 32, 32, .w1c, 0⟩,
      ⟨"EVICTIONS", 0, 32, .w1c, 0⟩] },
  { name := "XL_INVAL_STAT", off := 0x80040, stride := 0x8, count := 1, fields := [
      ⟨"IN_FLIGHT", 32, 16, .ro, 0⟩,
      ⟨"DONE", 0, 32, .ro, 0⟩] },
  { name := "XL_ROOT", off := 0x80100, stride := 0x8, count := 64, fields := [
      ⟨"ROOT", 14, 36, .rw, 0⟩,
      ⟨"BUSY", 1, 1, .ro, 0⟩,
      ⟨"VALID", 0, 1, .rw, 0⟩] }]

/-- Block REEVE (R397, R398, R399, R400). -/
def regsReeve : List RegSpec := [
  { name := "REEVE_CFG", off := 0x90000, stride := 0x8, count := 1, fields := [
      ⟨"HOLD_NS", 16, 14, .rw, 0x100⟩,
      ⟨"SETS_LOG2", 0, 5, .rwl, 0x16⟩] },
  { name := "REEVE_GRANTS", off := 0x90008, stride := 0x8, count := 1, fields := [
      ⟨"GRANTS", 0, 64, .ro, 0⟩] },
  { name := "REEVE_EVICTIONS", off := 0x90010, stride := 0x8, count := 1, fields := [
      ⟨"EVICTIONS", 0, 64, .ro, 0⟩] },
  { name := "TALLY_OPS", off := 0x90018, stride := 0x8, count := 1, fields := [
      ⟨"OPS", 0, 64, .ro, 0⟩] },
  { name := "REEVE_ERR", off := 0x90020, stride := 0x8, count := 1, fields := [
      ⟨"NO_SLOT", 48, 16, .w1c, 0⟩,
      ⟨"RECALL_TIMEOUTS", 32, 16, .w1c, 0⟩,
      ⟨"PROTOCOL", 24, 8, .w1c, 0⟩,
      ⟨"STALE_WB", 16, 8, .w1c, 0⟩,
      ⟨"CREDIT_EXPIRED", 0, 16, .w1c, 0⟩] },
  { name := "REEVE_SLOTS", off := 0x90028, stride := 0x8, count := 1, fields := [
      ⟨"PEAK", 16, 12, .w1c, 0⟩,
      ⟨"IN_USE", 0, 12, .ro, 0⟩] }]

/-- Block QF (R444, R445, R446, R447, R448). -/
def regsQf : List RegSpec := [
  { name := "QF_STATE", off := 0xA0000, stride := 0x8, count := 1, fields := [
      ⟨"FENCED", 51, 1, .ro, 0⟩,
      ⟨"LEADER", 50, 1, .ro, 0⟩,
      ⟨"KEEPER", 49, 1, .ro, 0⟩,
      ⟨"FORMED", 48, 1, .ro, 0⟩,
      ⟨"LEADER_NODE", 32, 16, .ro, 0⟩,
      ⟨"EPOCH", 0, 32, .ro, 0⟩] },
  { name := "QF_TDEAD", off := 0xA0008, stride := 0x8, count := 1, fields := [
      ⟨"HOP_US", 20, 8, .rwl, 1⟩,
      ⟨"BASE_US", 0, 20, .rwl, 0x28⟩] },
  { name := "QF_ERR", off := 0xA0010, stride := 0x8, count := 1, fields := [
      ⟨"HOP_DROPS", 48, 16, .w1c, 0⟩,
      ⟨"LATE_RSP", 32, 16, .w1c, 0⟩,
      ⟨"STALE_REJECTS", 16, 16, .w1c, 0⟩,
      ⟨"FENCED_REJECTS", 0, 16, .w1c, 0⟩] },
  { name := "QF_CNT", off := 0xA0018, stride := 0x8, count := 1, fields := [
      ⟨"EXPIRIES", 32, 32, .w1c, 0⟩,
      ⟨"MALFORMED", 16, 16, .w1c, 0⟩] },
  { name := "QF_DOMAIN", off := 0xA0020, stride := 0x8, count := 1, fields := [
      ⟨"DIAMETER", 32, 16, .ro, 0⟩,
      ⟨"NODES", 0, 16, .ro, 0⟩] },
  { name := "QF_DILL_CTL", off := 0xA0028, stride := 0x8, count := 1, fields := [
      ⟨"DURATION_MS", 16, 16, .rw, 0x3e8⟩,
      ⟨"PORTS", 8, 8, .rw, 0⟩,
      ⟨"START", 0, 1, .wo, 0⟩] },
  { name := "QF_DILL_STAT", off := 0xA0030, stride := 0x8, count := 1, fields := [
      ⟨"BUSY", 63, 1, .ro, 0⟩,
      ⟨"REJECT", 62, 1, .w1c, 0⟩,
      ⟨"WORST_LANE", 59, 3, .ro, 0⟩,
      ⟨"WORST_PORT", 56, 3, .ro, 0⟩,
      ⟨"ERRORS", 0, 48, .ro, 0⟩] },
  { name := "QF_PORT", off := 0xA0080, stride := 0x8, count := 8, fields := [
      ⟨"PEER_NODE", 48, 16, .ro, 0⟩,
      ⟨"LANE_FAIL", 40, 8, .ro, 0⟩,
      ⟨"PEER_PORT", 36, 4, .ro, 0⟩,
      ⟨"VER_MAJOR", 28, 4, .ro, 0⟩,
      ⟨"VER_MINOR", 24, 4, .ro, 0⟩,
      ⟨"REFUSE", 4, 4, .ro, 0⟩,
      ⟨"STATE", 0, 3, .ro, 0⟩] },
  { name := "QF_PORT_ERR", off := 0xA00C0, stride := 0x8, count := 8, fields := [
      ⟨"CORRECTED", 32, 32, .w1c, 0⟩,
      ⟨"REPLAYS", 16, 16, .w1c, 0⟩,
      ⟨"DOWNS", 0, 16, .w1c, 0⟩] }]

/-- Block KL (R469, R470, R471, R472). -/
def regsKl : List RegSpec := [
  { name := "KL_PORT", off := 0xB0000, stride := 0x8, count := 4, fields := [
      ⟨"KILL_CAUSE", 56, 8, .ro, 0⟩,
      ⟨"KIND", 48, 2, .ro, 0⟩,
      ⟨"BOUND_SLICE", 40, 8, .ro, 0xff⟩,
      ⟨"STREAMS", 16, 9, .ro, 0⟩,
      ⟨"VER_MAJOR", 12, 4, .ro, 0⟩,
      ⟨"VER_MINOR", 8, 4, .ro, 0⟩,
      ⟨"REFUSE", 4, 4, .ro, 0⟩,
      ⟨"CLASS", 3, 1, .ro, 0⟩,
      ⟨"STATE", 0, 3, .ro, 0⟩] },
  { name := "KL_PORT_CTL", off := 0xB0020, stride := 0x8, count := 4, fields := [
      ⟨"MGMT", 32, 1, .rwl, 0⟩,
      ⟨"TIMEOUT_US", 16, 16, .rw, 0x64⟩,
      ⟨"HOLD", 1, 1, .rw, 0⟩,
      ⟨"KILL", 0, 1, .wo, 0⟩] },
  { name := "KL_PORT_ERR", off := 0xB0040, stride := 0x8, count := 4, fields := [
      ⟨"INT_DROPS", 48, 16, .w1c, 0⟩,
      ⟨"TIMEOUTS", 32, 16, .w1c, 0⟩,
      ⟨"MALFORMED", 16, 16, .w1c, 0⟩,
      ⟨"KILLS", 0, 16, .w1c, 0⟩] },
  { name := "KL_LIMITS", off := 0xB0060, stride := 0x8, count := 1, fields := [
      ⟨"VER_MAX", 24, 8, .ro, 0x32⟩,
      ⟨"VER_MIN", 16, 8, .ro, 0x20⟩,
      ⟨"MAX_STREAMS", 4, 12, .ro, 0x100⟩,
      ⟨"PORTS", 0, 4, .ro, 4⟩] }]

/-- Block STORE (R492, R493, R494, R495, R496). -/
def regsStore : List RegSpec := [
  { name := "STORE_CARVE", off := 0xC0000, stride := 0x8, count := 1, fields := [
      ⟨"T0_FRAMES", 48, 16, .rwl, 0⟩,
      ⟨"DESC_CELLS", 31, 17, .rwl, 0x10000⟩,
      ⟨"STG_UNITS", 16, 8, .rwl, 0x10⟩,
      ⟨"ATW_UNITS", 8, 8, .rwl, 0x20⟩,
      ⟨"PKT_UNITS", 0, 4, .rwl, 1⟩] },
  { name := "STORE_CARVE_STAT", off := 0xC0008, stride := 0x8, count := 1, fields := [
      ⟨"LAYOUT_DEFAULTED", 63, 1, .ro, 0⟩,
      ⟨"LIMITS_DEFAULTED", 62, 1, .ro, 0⟩,
      ⟨"SPARE_EXHAUSTED", 61, 1, .ro, 0⟩,
      ⟨"SPARE", 20, 20, .ro, 0⟩,
      ⟨"SCR_UNITS", 8, 8, .ro, 0⟩,
      ⟨"DIR_UNITS", 0, 8, .ro, 0⟩] },
  { name := "STORE_CLASS_WT", off := 0xC0010, stride := 0x8, count := 1, fields := [
      ⟨"TC5", 40, 8, .rw, 1⟩,
      ⟨"TC4", 32, 8, .rw, 2⟩,
      ⟨"TC3", 24, 8, .rw, 4⟩,
      ⟨"TC2", 16, 8, .rw, 2⟩,
      ⟨"TC1", 8, 8, .rw, 4⟩,
      ⟨"TC0", 0, 8, .rw, 2⟩] },
  { name := "STORE_AUDIT", off := 0xC0018, stride := 0x8, count := 1, fields := [
      ⟨"AUDIT_MS", 1, 16, .rw, 0x3e8⟩,
      ⟨"ENABLE", 0, 1, .rw, 1⟩] },
  { name := "STORE_AUDIT_STAT", off := 0xC0020, stride := 0x8, count := 1, fields := [
      ⟨"LEAKED", 48, 16, .w1c, 0⟩,
      ⟨"DUALS", 32, 16, .w1c, 0⟩,
      ⟨"COUNT_FIXES", 16, 16, .w1c, 0⟩,
      ⟨"QUARANTINED", 0, 16, .ro, 0⟩] },
  { name := "STORE_ECC", off := 0xC0028, stride := 0x8, count := 1, fields := [
      ⟨"UNCORRECTED", 32, 32, .w1c, 0⟩,
      ⟨"CORRECTED", 0, 32, .w1c, 0⟩] },
  { name := "STORE_MIRROR_STAT", off := 0xC0030, stride := 0x8, count := 1, fields := [
      ⟨"DROPS", 32, 32, .w1c, 0⟩,
      ⟨"SAMPLED", 0, 32, .ro, 0⟩] },
  { name := "STORE_MIRROR", off := 0xC0100, stride := 0x8, count := 12, fields := [
      ⟨"CLASS_MASK", 16, 8, .rw, 0xff⟩,
      ⟨"LOG2_N", 8, 5, .rw, 0x14⟩,
      ⟨"OUT", 1, 1, .rw, 0⟩,
      ⟨"IN", 0, 1, .rw, 0⟩] },
  { name := "STORE_LIMIT_LO", off := 0xC1000, stride := 0x10, count := 53, fields := [
      ⟨"TC3", 48, 16, .rwl, 0⟩,
      ⟨"TC2", 32, 16, .rwl, 0⟩,
      ⟨"TC1", 16, 16, .rwl, 0⟩,
      ⟨"TC0", 0, 16, .rwl, 0⟩] },
  { name := "STORE_LIMIT_HI", off := 0xC1008, stride := 0x10, count := 53, fields := [
      ⟨"TC7", 48, 16, .rwl, 0⟩,
      ⟨"TC6", 32, 16, .rwl, 0⟩,
      ⟨"TC5", 16, 16, .rwl, 0⟩,
      ⟨"TC4", 0, 16, .rwl, 0⟩] }]

/-- Block SLC (R516, R517, R518, R519, R520, R521). -/
def regsSlc : List RegSpec := [
  { name := "SLC_CFG", off := 0xD0000, stride := 0x8, count := 64, fields := [
      ⟨"ENABLE", 63, 1, .rw, 0⟩,
      ⟨"GROUPS", 48, 8, .rw, 0⟩,
      ⟨"GLEANERS", 40, 8, .rw, 0⟩,
      ⟨"GLN_CTX", 35, 5, .rw, 0⟩,
      ⟨"ASSAYERS", 16, 16, .rw, 0⟩,
      ⟨"ASY_CTX", 0, 10, .rw, 0⟩] },
  { name := "SLC_MOVERS", off := 0xD0200, stride := 0x8, count := 64, fields := [
      ⟨"MOVERS", 0, 32, .rw, 0⟩] },
  { name := "SLC_SHARE", off := 0xD0400, stride := 0x8, count := 64, fields := [
      ⟨"DRAM_PCS", 48, 9, .rw, 0⟩,
      ⟨"DESC_MIN", 32, 16, .rw, 0⟩,
      ⟨"ATW_64K", 0, 16, .rw, 0⟩] },
  { name := "SLC_QOS", off := 0xD0600, stride := 0x8, count := 64, fields := [
      ⟨"ENG_MIN", 56, 8, .rw, 0⟩,
      ⟨"ENG_WT", 48, 8, .rw, 1⟩,
      ⟨"LINK_MIN", 40, 8, .rw, 0⟩,
      ⟨"LINK_WT", 32, 8, .rw, 1⟩,
      ⟨"STORE_MIN", 24, 8, .rw, 0⟩,
      ⟨"STORE_WT", 16, 8, .rw, 1⟩,
      ⟨"DRAM_WT", 0, 8, .rw, 1⟩] },
  { name := "SLC_STATUS", off := 0xD0800, stride := 0x8, count := 64, fields := [
      ⟨"BUSY", 63, 1, .ro, 0⟩,
      ⟨"IN_JOB", 62, 1, .ro, 0⟩,
      ⟨"CFG_REJECT", 61, 1, .w1c, 0⟩,
      ⟨"INT_OFF_DROPS", 32, 16, .w1c, 0⟩,
      ⟨"JOB", 0, 32, .ro, 0⟩] },
  { name := "SLC_RESET", off := 0xD0A00, stride := 0x8, count := 1, fields := [
      ⟨"DRAIN_MS", 32, 16, .wo, 0⟩,
      ⟨"SLICE", 8, 6, .wo, 0⟩,
      ⟨"QUIET", 2, 1, .wo, 0⟩,
      ⟨"MODE", 1, 1, .wo, 0⟩,
      ⟨"START", 0, 1, .wo, 0⟩] },
  { name := "SLC_COMPOSE", off := 0xD0A08, stride := 0x8, count := 1, fields := [
      ⟨"ADDR", 6, 44, .wo, 0⟩] },
  { name := "SLC_COMPOSE_STAT", off := 0xD0A10, stride := 0x8, count := 1, fields := [
      ⟨"BUSY", 63, 1, .ro, 0⟩,
      ⟨"NODE", 32, 16, .ro, 0⟩,
      ⟨"STATUS", 0, 8, .ro, 0⟩] },
  { name := "SLC_COMPOSE_RES", off := 0xD0A18, stride := 0x8, count := 1, fields := [
      ⟨"JOB", 32, 32, .ro, 0⟩,
      ⟨"EPOCH", 0, 32, .ro, 0⟩] },
  { name := "SLC_REVOKE", off := 0xD0A20, stride := 0x8, count := 1, fields := [
      ⟨"NEW_OWNER", 58, 6, .wo, 0⟩,
      ⟨"EXTENT", 57, 1, .wo, 0⟩,
      ⟨"MODE", 56, 1, .wo, 0⟩,
      ⟨"REGION", 0, 20, .wo, 0⟩] },
  { name := "SLC_REVOKE_STAT", off := 0xD0A28, stride := 0x8, count := 1, fields := [
      ⟨"BUSY", 63, 1, .ro, 0⟩,
      ⟨"ABORTED", 16, 32, .ro, 0⟩,
      ⟨"LIVE", 8, 8, .ro, 0⟩,
      ⟨"STATUS", 0, 8, .ro, 0⟩] },
  { name := "SLC_GLOBAL", off := 0xD0A30, stride := 0x8, count := 1, fields := [
      ⟨"TRANSIT_MIN", 8, 8, .rw, 0x40⟩,
      ⟨"TRANSIT_WT", 0, 8, .rw, 0x40⟩] }]

/-- Block FLT (R549, R550, R551, R552, R553). -/
def regsFlt : List RegSpec := [
  { name := "FLT_LOG_RING", off := 0xE0000, stride := 0x8, count := 1, fields := [
      ⟨"BASE", 12, 38, .rw, 0⟩,
      ⟨"LOG2", 0, 5, .rw, 0⟩] },
  { name := "FLT_LOG_IDX", off := 0xE0008, stride := 0x8, count := 1, fields := [
      ⟨"CONS", 32, 32, .rw, 0⟩,
      ⟨"PROD", 0, 32, .ro, 0⟩] },
  { name := "FLT_LOG_STAT", off := 0xE0010, stride := 0x8, count := 1, fields := [
      ⟨"OVERWRITTEN", 32, 32, .w1c, 0⟩,
      ⟨"UNLOGGED", 0, 32, .w1c, 0⟩] },
  { name := "FLT_SEQ", off := 0xE0018, stride := 0x8, count := 1, fields := [
      ⟨"SEQ", 0, 64, .ro, 0⟩] },
  { name := "FLT_CTL", off := 0xE0020, stride := 0x8, count := 1, fields := [
      ⟨"VECTOR", 40, 8, .rw, 0⟩,
      ⟨"FWD_LOG", 33, 1, .rw, 0⟩,
      ⟨"INT_EN", 32, 1, .rw, 0⟩,
      ⟨"INT_US", 16, 16, .rw, 0xa⟩] },
  { name := "FLT_ALARM_CTL", off := 0xE0028, stride := 0x8, count := 1, fields := [
      ⟨"HOLDOFF_MS", 16, 16, .rw, 0x64⟩,
      ⟨"RATE", 0, 16, .rw, 0x10⟩] },
  { name := "FLT_ALARM_STAT", off := 0xE0030, stride := 0x8, count := 1, fields := [
      ⟨"ALARMS", 32, 32, .ro, 0⟩,
      ⟨"AGGREGATED", 16, 16, .w1c, 0⟩,
      ⟨"ENTRIES", 0, 12, .ro, 0⟩] },
  { name := "FLT_JOB_ABORT", off := 0xE0038, stride := 0x8, count := 1, fields := [
      ⟨"JOB", 32, 32, .wo, 0⟩,
      ⟨"START", 0, 1, .wo, 0⟩] },
  { name := "FLT_ABORT_STAT", off := 0xE0040, stride := 0x8, count := 1, fields := [
      ⟨"STARTED", 32, 32, .ro, 0⟩,
      ⟨"MERGED", 16, 16, .w1c, 0⟩,
      ⟨"IGNORED", 0, 16, .w1c, 0⟩] },
  { name := "FLT_SLICE_JOB", off := 0xE0100, stride := 0x8, count := 64, fields := [
      ⟨"STATE", 62, 2, .ro, 0⟩,
      ⟨"TRIGGER", 48, 8, .ro, 0⟩,
      ⟨"ORIGIN", 32, 16, .ro, 0⟩,
      ⟨"JOB", 0, 32, .ro, 0⟩] }]

/-- Block BOOT (R581, R582, R583, R584). -/
def regsBoot : List RegSpec := [
  { name := "BOOT_STATUS", off := 0xF0000, stride := 0x8, count := 1, fields := [
      ⟨"STORE_READY", 63, 1, .ro, 0⟩,
      ⟨"LOCK", 62, 1, .ro, 0⟩,
      ⟨"RECOVERY", 61, 1, .ro, 0⟩,
      ⟨"IDENT_OK", 60, 1, .ro, 0⟩,
      ⟨"ENROLLED", 59, 1, .ro, 0⟩,
      ⟨"FW_SLOT", 58, 1, .ro, 0⟩,
      ⟨"CFG_SLOT", 57, 1, .ro, 0⟩,
      ⟨"FAIL_INFO", 16, 16, .ro, 0⟩,
      ⟨"FAIL", 8, 8, .ro, 0⟩,
      ⟨"STAGES_DONE", 0, 8, .ro, 0⟩] },
  { name := "BOOT_DEVID", off := 0xF0008, stride := 0x8, count := 1, fields := [
      ⟨"DEVICE_ID", 0, 64, .ro, 0⟩] },
  { name := "BOOT_SVN", off := 0xF0010, stride := 0x8, count := 1, fields := [
      ⟨"MIN_FW_SVN", 32, 32, .ro, 0⟩,
      ⟨"FW_SVN", 0, 32, .ro, 0⟩] },
  { name := "BOOT_MEAS", off := 0xF0018, stride := 0x8, count := 1, fields := [
      ⟨"ENTRIES", 0, 7, .ro, 0⟩] },
  { name := "BOOT_TIME", off := 0xF0020, stride := 0x8, count := 1, fields := [
      ⟨"READY_US", 0, 32, .ro, 0⟩] },
  { name := "BOOT_CFG_STAT", off := 0xF0028, stride := 0x8, count := 1, fields := [
      ⟨"FIRST_IGNORED", 32, 16, .ro, 0⟩,
      ⟨"IGNORED", 0, 16, .ro, 0⟩] },
  { name := "BOOT_MCTP", off := 0xF0030, stride := 0x8, count := 1, fields := [
      ⟨"DROPS", 48, 16, .w1c, 0⟩,
      ⟨"SMB_ADDR", 40, 7, .ro, 0⟩,
      ⟨"EID", 32, 8, .ro, 0⟩,
      ⟨"IANA", 0, 32, .ro, 0⟩] },
  { name := "BOOT_CHAIN", off := 0xF0040, stride := 0x8, count := 8, fields := [
      ⟨"CHAIN", 0, 64, .ro, 0⟩] }]

/-- Block SLV (R522). -/
def regsSlv : List RegSpec := [
  { name := "SLV_LO", off := 0x100000, stride := 0x10, count := 16384, fields := [
      ⟨"ADDR", 2, 62, .rw, 0⟩] },
  { name := "SLV_HI", off := 0x100008, stride := 0x10, count := 16384, fields := [
      ⟨"DATA", 32, 32, .rw, 0⟩,
      ⟨"PORT", 16, 2, .rw, 0⟩,
      ⟨"PENDING", 2, 1, .ro, 0⟩,
      ⟨"MASK", 1, 1, .rw, 0⟩,
      ⟨"ENABLE", 0, 1, .rw, 0⟩] }]

/-- Block FLA (R554). -/
def regsFla : List RegSpec := [
  { name := "FLA_0", off := 0x140000, stride := 0x20, count := 4096, fields := [
      ⟨"NODE", 48, 16, .ro, 0⟩,
      ⟨"SOURCE", 32, 16, .ro, 0⟩,
      ⟨"CAUSE", 24, 8, .ro, 0⟩,
      ⟨"PENDING", 1, 1, .ro, 0⟩,
      ⟨"VALID", 0, 1, .w1c, 0⟩] },
  { name := "FLA_1", off := 0x140008, stride := 0x20, count := 4096, fields := [
      ⟨"SENT", 32, 32, .ro, 0⟩,
      ⟨"COUNT", 0, 32, .ro, 0⟩] },
  { name := "FLA_2", off := 0x140010, stride := 0x20, count := 4096, fields := [
      ⟨"FIRST_STAMP", 0, 64, .ro, 0⟩] },
  { name := "FLA_3", off := 0x140018, stride := 0x20, count := 4096, fields := [
      ⟨"LAST_STAMP", 0, 64, .ro, 0⟩] }]

/-- Block FLD (R554). -/
def regsFld : List RegSpec := [
  { name := "FLD_0", off := 0x160000, stride := 0x20, count := 4096, fields := [
      ⟨"NODE", 48, 16, .ro, 0⟩,
      ⟨"SOURCE", 32, 16, .ro, 0⟩,
      ⟨"CAUSE", 24, 8, .ro, 0⟩,
      ⟨"PENDING", 1, 1, .ro, 0⟩,
      ⟨"VALID", 0, 1, .w1c, 0⟩] },
  { name := "FLD_1", off := 0x160008, stride := 0x20, count := 4096, fields := [
      ⟨"SENT", 32, 32, .ro, 0⟩,
      ⟨"COUNT", 0, 32, .ro, 0⟩] },
  { name := "FLD_2", off := 0x160010, stride := 0x20, count := 4096, fields := [
      ⟨"FIRST_STAMP", 0, 64, .ro, 0⟩] },
  { name := "FLD_3", off := 0x160018, stride := 0x20, count := 4096, fields := [
      ⟨"LAST_STAMP", 0, 64, .ro, 0⟩] }]

/-- Block CAR (R585, R586). -/
def regsCar : List RegSpec := [
  { name := "CAR_SRC", off := 0x180000, stride := 0x40, count := 8, fields := [
      ⟨"ADDR", 0, 50, .rw, 0⟩] },
  { name := "CAR_DST", off := 0x180008, stride := 0x40, count := 8, fields := [
      ⟨"ADDR", 0, 50, .rw, 0⟩] },
  { name := "CAR_COUNT", off := 0x180010, stride := 0x40, count := 8, fields := [
      ⟨"BYTES", 0, 40, .rw, 0⟩] },
  { name := "CAR_CTL", off := 0x180018, stride := 0x40, count := 8, fields := [
      ⟨"START", 0, 1, .wo, 0⟩] },
  { name := "CAR_STATUS", off := 0x180020, stride := 0x40, count := 8, fields := [
      ⟨"BUSY", 63, 1, .ro, 0⟩,
      ⟨"QUEUED", 62, 1, .ro, 0⟩,
      ⟨"DONE_BYTES", 8, 40, .ro, 0⟩,
      ⟨"STATUS", 0, 8, .ro, 0⟩] },
  { name := "CAR_ERR", off := 0x180200, stride := 0x8, count := 1, fields := [
      ⟨"START_REJECTS", 0, 16, .w1c, 0⟩] }]

/-- Block OBS (R610, R611, R612, R613). -/
def regsObs : List RegSpec := [
  { name := "OBS_NOW", off := 0x190000, stride := 0x8, count := 1, fields := [
      ⟨"NOW", 0, 64, .ro, 0⟩] },
  { name := "OBS_DUMP_CTL", off := 0x190008, stride := 0x8, count := 1, fields := [
      ⟨"PERIOD_US", 32, 20, .rw, 0x3e8⟩,
      ⟨"ENABLE", 0, 1, .rw, 0⟩] },
  { name := "OBS_DUMP_RING", off := 0x190010, stride := 0x8, count := 1, fields := [
      ⟨"BASE", 12, 38, .rw, 0⟩,
      ⟨"LOG2", 0, 5, .rw, 0⟩] },
  { name := "OBS_DUMP_IDX", off := 0x190018, stride := 0x8, count := 1, fields := [
      ⟨"CONS", 32, 32, .rw, 0⟩,
      ⟨"PROD", 0, 32, .ro, 0⟩] },
  { name := "OBS_STAT", off := 0x190020, stride := 0x8, count := 1, fields := [
      ⟨"OVERWRITTEN", 32, 32, .w1c, 0⟩,
      ⟨"SEL_REJECTS", 16, 16, .w1c, 0⟩] },
  { name := "OBS_SEL", off := 0x190100, stride := 0x8, count := 64, fields := [
      ⟨"ENABLE", 63, 1, .rw, 0⟩,
      ⟨"MODE", 61, 2, .rw, 0⟩,
      ⟨"INVERT", 60, 1, .rw, 0⟩,
      ⟨"SLICE", 48, 8, .rw, 0xff⟩,
      ⟨"KIND", 44, 4, .rw, 0⟩,
      ⟨"INSTANCE", 32, 12, .rw, 0⟩,
      ⟨"EVENT", 0, 8, .rw, 0⟩] },
  { name := "OBS_CTR", off := 0x190300, stride := 0x8, count := 64, fields := [
      ⟨"COUNT", 0, 64, .ro, 0⟩] }]

/-- Block SCR (R614). -/
def regsScr : List RegSpec := [
  { name := "SCR_CTL", off := 0x1A0000, stride := 0x8, count := 1, fields := [
      ⟨"SEED", 48, 16, .rw, 1⟩,
      ⟨"POINT", 40, 3, .rw, 0⟩,
      ⟨"SLICE", 32, 8, .rw, 0xff⟩,
      ⟨"LOG2_N", 8, 5, .rw, 0xa⟩,
      ⟨"JITTER", 1, 1, .rw, 0⟩,
      ⟨"ENABLE", 0, 1, .rw, 0⟩] },
  { name := "SCR_RING", off := 0x1A0008, stride := 0x8, count := 1, fields := [
      ⟨"BASE", 12, 38, .rw, 0⟩,
      ⟨"LOG2", 0, 5, .rw, 0⟩] },
  { name := "SCR_IDX", off := 0x1A0010, stride := 0x8, count := 1, fields := [
      ⟨"CONS", 32, 32, .rw, 0⟩,
      ⟨"PROD", 0, 32, .ro, 0⟩] },
  { name := "SCR_STAT", off := 0x1A0018, stride := 0x8, count := 1, fields := [
      ⟨"DROPS", 32, 32, .w1c, 0⟩,
      ⟨"MISSED", 0, 32, .w1c, 0⟩] }]

/-- Block FRZ (R615, R616). -/
def regsFrz : List RegSpec := [
  { name := "FRZ_CTL", off := 0x1B0000, stride := 0x8, count := 1, fields := [
      ⟨"PIN_EN", 1, 1, .rw, 1⟩,
      ⟨"FREEZE", 0, 1, .wo, 0⟩] },
  { name := "FRZ_ALARM", off := 0x1B0008, stride := 0x8, count := 1, fields := [
      ⟨"CAUSES", 0, 64, .rw, 0⟩] },
  { name := "FRZ_STATUS", off := 0x1B0010, stride := 0x8, count := 1, fields := [
      ⟨"FROZEN", 63, 1, .ro, 0⟩,
      ⟨"PIN", 62, 1, .ro, 0⟩,
      ⟨"REG", 61, 1, .ro, 0⟩,
      ⟨"ALARM", 60, 1, .ro, 0⟩,
      ⟨"ALARM_SOURCE", 32, 16, .ro, 0⟩,
      ⟨"ALARM_CAUSE", 24, 8, .ro, 0⟩] },
  { name := "FRZ_STAMP", off := 0x1B0018, stride := 0x8, count := 1, fields := [
      ⟨"STAMP", 0, 64, .ro, 0⟩] },
  { name := "FRZ_AON", off := 0x1B0020, stride := 0x8, count := 1, fields := [
      ⟨"AON", 0, 64, .ro, 0⟩] },
  { name := "FRZ_DOMAINS", off := 0x1B0028, stride := 0x8, count := 1, fields := [
      ⟨"STOPPED", 0, 25, .ro, 0⟩] }]

/-- Block PWR (R632, R633, R634). -/
def regsPwr : List RegSpec := [
  { name := "PWR_CAP", off := 0x1C0000, stride := 0x8, count := 14, fields := [
      ⟨"ACTIVE", 8, 1, .ro, 0⟩,
      ⟨"WATTS", 0, 8, .rw, 0⟩] },
  { name := "PWR_LIMITS", off := 0x1C0080, stride := 0x8, count := 1, fields := [
      ⟨"PKG_W", 32, 10, .rw, 0x2bc⟩,
      ⟨"STACK_C", 8, 8, .rw, 0x5d⟩,
      ⟨"LOGIC_C", 0, 8, .rw, 0x64⟩] },
  { name := "PWR_STAT", off := 0x1C0088, stride := 0x8, count := 1, fields := [
      ⟨"REACHED", 32, 16, .w1c, 0⟩,
      ⟨"STEP", 16, 5, .ro, 0⟩,
      ⟨"IN_FORCE", 0, 9, .ro, 0⟩] },
  { name := "PWR_SENSE", off := 0x1C0090, stride := 0x8, count := 1, fields := [
      ⟨"PKG_W", 44, 10, .ro, 0⟩,
      ⟨"VDD_MV", 32, 12, .ro, 0⟩,
      ⟨"STACK", 24, 3, .ro, 0⟩,
      ⟨"T_STACK", 16, 8, .ro, 0⟩,
      ⟨"T_LOGIC", 0, 8, .ro, 0⟩] }]

/-- Every register of the ZV9 but the doorbell words (R638). -/
def regTable : List RegSpec :=
  regsZv ++ regsAs ++ regsRing ++ regsArr ++ regsAtt ++ regsAsy ++ regsGln ++ regsTier ++ regsXl ++ regsReeve ++ regsQf ++ regsKl ++ regsStore ++ regsSlc ++ regsFlt ++ regsBoot ++ regsSlv ++ regsFla ++ regsFld ++ regsCar ++ regsObs ++ regsScr ++ regsFrz ++ regsPwr

/-! One `Fld` for each named field, `f_<REGISTER>_<FIELD>`. -/

def f_ZV_IDENT_MEMBER : Fld := ⟨0x0, 0x8, 24, 8⟩
def f_ZV_IDENT_STACK_GIB : Fld := ⟨0x0, 0x8, 16, 8⟩
def f_ZV_IDENT_STEP_MAJOR : Fld := ⟨0x0, 0x8, 12, 4⟩
def f_ZV_IDENT_STEP_MINOR : Fld := ⟨0x0, 0x8, 8, 4⟩
def f_ZV_PARAM0_SLICES : Fld := ⟨0x8, 0x8, 48, 8⟩
def f_ZV_PARAM0_HOME_BANKS : Fld := ⟨0x8, 0x8, 40, 8⟩
def f_ZV_PARAM0_TILE_MOVERS : Fld := ⟨0x8, 0x8, 32, 8⟩
def f_ZV_PARAM0_GLEANERS : Fld := ⟨0x8, 0x8, 24, 8⟩
def f_ZV_PARAM0_ASSAYERS : Fld := ⟨0x8, 0x8, 16, 8⟩
def f_ZV_PARAM0_ARRAY_GROUPS : Fld := ⟨0x8, 0x8, 8, 8⟩
def f_ZV_PARAM0_ARRAYS : Fld := ⟨0x8, 0x8, 0, 8⟩
def f_ZV_PARAM1_STORE_SLICES : Fld := ⟨0x10, 0x8, 16, 16⟩
def f_ZV_PARAM1_MEDIA_PORTS : Fld := ⟨0x10, 0x8, 12, 4⟩
def f_ZV_PARAM1_QF_PORTS : Fld := ⟨0x10, 0x8, 8, 4⟩
def f_ZV_PARAM1_KL_PORTS : Fld := ⟨0x10, 0x8, 4, 4⟩
def f_ZV_PARAM1_DRAM_STACKS : Fld := ⟨0x10, 0x8, 0, 4⟩
def f_AS_NODE_VALID : Fld := ⟨0x10000, 0x8, 16, 1⟩
def f_AS_NODE_NODE : Fld := ⟨0x10000, 0x8, 0, 16⟩
def f_AS_SCRATCH_LIMIT_LEN : Fld := ⟨0x10008, 0x8, 0, 33⟩
def f_AS_DIRECT_LIMIT_LEN : Fld := ⟨0x10010, 0x8, 0, 40⟩
def f_AS_RGN_BASE_BASE : Fld := ⟨0x10018, 0x8, 16, 34⟩
def f_AS_RGN_SIZE_LOG2_ENTRIES : Fld := ⟨0x10020, 0x8, 0, 5⟩
def f_AS_RGN_STATUS_LOST_WRITES : Fld := ⟨0x10028, 0x8, 32, 32⟩
def f_AS_RGN_STATUS_LIVE : Fld := ⟨0x10028, 0x8, 0, 21⟩
def f_RING_CMD_ADDR : Fld := ⟨0x20000, 0x8, 6, 44⟩
def f_RING_CMD_CMD : Fld := ⟨0x20000, 0x8, 0, 4⟩
def f_RING_CMD_STATUS_BUSY : Fld := ⟨0x20008, 0x8, 63, 1⟩
def f_RING_CMD_STATUS_FIELD : Fld := ⟨0x20008, 0x8, 16, 8⟩
def f_RING_CMD_STATUS_FORMAT : Fld := ⟨0x20008, 0x8, 8, 8⟩
def f_RING_CMD_STATUS_STATUS : Fld := ⟨0x20008, 0x8, 0, 8⟩
def f_RING_ERR_CMD_COLLISIONS : Fld := ⟨0x20010, 0x8, 48, 16⟩
def f_RING_ERR_CQ_FAULTS : Fld := ⟨0x20010, 0x8, 32, 16⟩
def f_RING_ERR_DB_REJECTS : Fld := ⟨0x20010, 0x8, 0, 32⟩
def f_RING_LIMITS_FMT_MIN : Fld := ⟨0x20018, 0x8, 32, 8⟩
def f_RING_LIMITS_FMT_MAX : Fld := ⟨0x20018, 0x8, 24, 8⟩
def f_RING_LIMITS_MAX_LOG2 : Fld := ⟨0x20018, 0x8, 16, 8⟩
def f_RING_LIMITS_MIN_LOG2 : Fld := ⟨0x20018, 0x8, 8, 8⟩
def f_RING_LIMITS_RINGS_PER_SLICE : Fld := ⟨0x20018, 0x8, 0, 8⟩
def f_ARR_AUDIT_CTL_LOG2_N : Fld := ⟨0x30000, 0x8, 8, 5⟩
def f_ARR_AUDIT_CTL_FAIL_ON_MISMATCH : Fld := ⟨0x30000, 0x8, 1, 1⟩
def f_ARR_AUDIT_CTL_ENABLE : Fld := ⟨0x30000, 0x8, 0, 1⟩
def f_ARR_AUDIT_STATUS_MISMATCHES : Fld := ⟨0x30008, 0x8, 32, 32⟩
def f_ARR_AUDIT_STATUS_SKIPPED : Fld := ⟨0x30008, 0x8, 16, 16⟩
def f_ARR_AUDIT_STATUS_DISABLE_REJECT : Fld := ⟨0x30008, 0x8, 0, 1⟩
def f_ARR_MISMATCH_ARRAY : Fld := ⟨0x30010, 0x8, 0, 64⟩
def f_ARR_DISABLE_ARRAY : Fld := ⟨0x30018, 0x8, 0, 64⟩
def f_ARR_AUDITED_AUDITED : Fld := ⟨0x30020, 0x8, 0, 64⟩
def f_ARR_ECC_UNCORRECTED : Fld := ⟨0x30028, 0x8, 32, 32⟩
def f_ARR_ECC_CORRECTED : Fld := ⟨0x30028, 0x8, 0, 32⟩
def f_ATT_LIMITS_MAX_K : Fld := ⟨0x40000, 0x8, 32, 16⟩
def f_ATT_LIMITS_MAX_B : Fld := ⟨0x40000, 0x8, 16, 16⟩
def f_ATT_LIMITS_MAX_ROWS : Fld := ⟨0x40000, 0x8, 8, 8⟩
def f_ATT_LIMITS_MAX_EXCL : Fld := ⟨0x40000, 0x8, 4, 4⟩
def f_ATT_ERR_STREAM_REJECTS : Fld := ⟨0x40008, 0x8, 32, 32⟩
def f_ATT_ERR_MERGE_REJECTS : Fld := ⟨0x40008, 0x8, 16, 16⟩
def f_ATT_ERR_APPENDS_CUT : Fld := ⟨0x40008, 0x8, 0, 16⟩
def f_ATT_DONE_DONE : Fld := ⟨0x40010, 0x8, 0, 64⟩
def f_ATT_POSITIONS_POSITIONS : Fld := ⟨0x40018, 0x8, 0, 64⟩
def f_ASY_LIMITS_MAX_BEAM : Fld := ⟨0x50000, 0x8, 48, 16⟩
def f_ASY_LIMITS_MAX_K : Fld := ⟨0x50000, 0x8, 32, 16⟩
def f_ASY_LIMITS_MAX_NQ : Fld := ⟨0x50000, 0x8, 24, 8⟩
def f_ASY_LIMITS_MAX_DEGREE : Fld := ⟨0x50000, 0x8, 16, 8⟩
def f_ASY_LIMITS_CONTEXTS : Fld := ⟨0x50000, 0x8, 0, 16⟩
def f_ASY_ERR_INDEX_REJECTS : Fld := ⟨0x50008, 0x8, 48, 16⟩
def f_ASY_ERR_PROBE_REJECTS : Fld := ⟨0x50008, 0x8, 32, 16⟩
def f_ASY_ERR_BAD_ITEMS : Fld := ⟨0x50008, 0x8, 0, 32⟩
def f_ASY_QUERIES_QUERIES : Fld := ⟨0x50010, 0x8, 0, 64⟩
def f_ASY_SCORED_SCORED : Fld := ⟨0x50018, 0x8, 0, 64⟩
def f_ASY_BUSY_CONTEXTS : Fld := ⟨0x50020, 0x8, 0, 14⟩
def f_GLN_LIMITS_MAX_SHARDS : Fld := ⟨0x60000, 0x8, 48, 16⟩
def f_GLN_LIMITS_MAX_DIM : Fld := ⟨0x60000, 0x8, 32, 16⟩
def f_GLN_LIMITS_OUTSTANDING : Fld := ⟨0x60000, 0x8, 16, 16⟩
def f_GLN_LIMITS_CONTEXTS : Fld := ⟨0x60000, 0x8, 8, 8⟩
def f_GLN_LIMITS_INLINE_P : Fld := ⟨0x60000, 0x8, 0, 8⟩
def f_GLN_ERR_BAD_ROWS : Fld := ⟨0x60008, 0x8, 32, 32⟩
def f_GLN_ERR_RECORD_REJECTS : Fld := ⟨0x60008, 0x8, 24, 8⟩
def f_GLN_ERR_BLOCK_REJECTS : Fld := ⟨0x60008, 0x8, 16, 8⟩
def f_GLN_ERR_PIN_TIMEOUTS : Fld := ⟨0x60008, 0x8, 0, 16⟩
def f_GLN_ROWS_ROWS : Fld := ⟨0x60010, 0x8, 0, 64⟩
def f_GLN_APPLIED_APPLIED : Fld := ⟨0x60018, 0x8, 0, 64⟩
def f_TIER_SPLIT_CACHE_GIB : Fld := ⟨0x70000, 0x8, 32, 16⟩
def f_TIER_SPLIT_DIRECT_GIB : Fld := ⟨0x70000, 0x8, 0, 16⟩
def f_TIER_POOL_LEN_GIB : Fld := ⟨0x70008, 0x8, 32, 16⟩
def f_TIER_POOL_BASE_GIB : Fld := ⟨0x70008, 0x8, 0, 16⟩
def f_TIER_EXT_BASE : Fld := ⟨0x70010, 0x8, 12, 38⟩
def f_TIER_EXT_COUNT : Fld := ⟨0x70010, 0x8, 0, 9⟩
def f_TIER_CACHE_DIRTY_HIGH : Fld := ⟨0x70018, 0x8, 8, 8⟩
def f_TIER_CACHE_DIRTY_LOW : Fld := ⟨0x70018, 0x8, 0, 8⟩
def f_TIER_CACHE_STAT_DIRTY : Fld := ⟨0x70020, 0x8, 32, 32⟩
def f_TIER_CACHE_STAT_FRAMES : Fld := ⟨0x70020, 0x8, 0, 32⟩
def f_TIER_ERR_TAG_MISMATCHES : Fld := ⟨0x70028, 0x8, 32, 32⟩
def f_TIER_ERR_LOST_TILES : Fld := ⟨0x70028, 0x8, 16, 16⟩
def f_TIER_ERR_BAD_EXTENTS : Fld := ⟨0x70028, 0x8, 8, 8⟩
def f_TIER_ERR_RETIRED : Fld := ⟨0x70028, 0x8, 0, 8⟩
def f_TIER_RETIRE_ADDR : Fld := ⟨0x70030, 0x8, 16, 34⟩
def f_TIER_SCRUB_ENABLE : Fld := ⟨0x70038, 0x8, 8, 1⟩
def f_TIER_SCRUB_HOURS : Fld := ⟨0x70038, 0x8, 0, 8⟩
def f_BORAGE_CTL_PATTERN : Fld := ⟨0x70040, 0x8, 8, 2⟩
def f_BORAGE_CTL_STACKS : Fld := ⟨0x70040, 0x8, 2, 6⟩
def f_BORAGE_CTL_START : Fld := ⟨0x70040, 0x8, 0, 1⟩
def f_BORAGE_STATUS_BUSY : Fld := ⟨0x70048, 0x8, 63, 1⟩
def f_BORAGE_STATUS_REJECT : Fld := ⟨0x70048, 0x8, 62, 1⟩
def f_BORAGE_STATUS_FAILS : Fld := ⟨0x70048, 0x8, 50, 12⟩
def f_BORAGE_STATUS_FIRST_FAIL : Fld := ⟨0x70048, 0x8, 0, 50⟩
def f_MEDIA_CTL_TIMEOUT_MS : Fld := ⟨0x70050, 0x8, 32, 16⟩
def f_MEDIA_CTL_RECLAIM_SHARE : Fld := ⟨0x70050, 0x8, 8, 8⟩
def f_MEDIA_CTL_RECLAIM_LOW : Fld := ⟨0x70050, 0x8, 0, 8⟩
def f_MEDIA_PORT_DMA_REJECTS : Fld := ⟨0x70080, 0x8, 48, 16⟩
def f_MEDIA_PORT_ZONES : Fld := ⟨0x70080, 0x8, 24, 24⟩
def f_MEDIA_PORT_RATE : Fld := ⟨0x70080, 0x8, 12, 4⟩
def f_MEDIA_PORT_WIDTH : Fld := ⟨0x70080, 0x8, 8, 4⟩
def f_MEDIA_PORT_STATE : Fld := ⟨0x70080, 0x8, 0, 2⟩
def f_TIER_QLIMIT_LIMIT : Fld := ⟨0x71000, 0x8, 0, 36⟩
def f_TIER_QUSED_USED : Fld := ⟨0x71800, 0x8, 0, 36⟩
def f_TIER_PC_ERR_UNCORRECTED : Fld := ⟨0x72000, 0x8, 32, 32⟩
def f_TIER_PC_ERR_CORRECTED : Fld := ⟨0x72000, 0x8, 0, 32⟩
def f_XL_PT_BASE_BASE : Fld := ⟨0x80000, 0x8, 21, 29⟩
def f_XL_PT_LEN_LEN : Fld := ⟨0x80008, 0x8, 21, 19⟩
def f_XL_ERR_BAD_ENTRIES : Fld := ⟨0x80010, 0x8, 32, 32⟩
def f_XL_ERR_WALK_POISON : Fld := ⟨0x80010, 0x8, 16, 16⟩
def f_XL_ERR_ROOT_REJECTS : Fld := ⟨0x80010, 0x8, 0, 16⟩
def f_XL_WALKS_WALKS : Fld := ⟨0x80018, 0x8, 0, 64⟩
def f_XL_MIG_CTL_DEV_LOG2 : Fld := ⟨0x80020, 0x8, 40, 8⟩
def f_XL_MIG_CTL_HOST_LOG2 : Fld := ⟨0x80020, 0x8, 32, 8⟩
def f_XL_MIG_CTL_DECAY_MS : Fld := ⟨0x80020, 0x8, 1, 15⟩
def f_XL_MIG_CTL_ENABLE : Fld := ⟨0x80020, 0x8, 0, 1⟩
def f_XL_MIG_RING_BASE : Fld := ⟨0x80028, 0x8, 11, 39⟩
def f_XL_MIG_RING_LOG2 : Fld := ⟨0x80028, 0x8, 0, 5⟩
def f_XL_MIG_IDX_CONS : Fld := ⟨0x80030, 0x8, 32, 32⟩
def f_XL_MIG_IDX_PROD : Fld := ⟨0x80030, 0x8, 0, 32⟩
def f_XL_MIG_STAT_DROPS : Fld := ⟨0x80038, 0x8, 32, 32⟩
def f_XL_MIG_STAT_EVICTIONS : Fld := ⟨0x80038, 0x8, 0, 32⟩
def f_XL_INVAL_STAT_IN_FLIGHT : Fld := ⟨0x80040, 0x8, 32, 16⟩
def f_XL_INVAL_STAT_DONE : Fld := ⟨0x80040, 0x8, 0, 32⟩
def f_XL_ROOT_ROOT : Fld := ⟨0x80100, 0x8, 14, 36⟩
def f_XL_ROOT_BUSY : Fld := ⟨0x80100, 0x8, 1, 1⟩
def f_XL_ROOT_VALID : Fld := ⟨0x80100, 0x8, 0, 1⟩
def f_REEVE_CFG_HOLD_NS : Fld := ⟨0x90000, 0x8, 16, 14⟩
def f_REEVE_CFG_SETS_LOG2 : Fld := ⟨0x90000, 0x8, 0, 5⟩
def f_REEVE_GRANTS_GRANTS : Fld := ⟨0x90008, 0x8, 0, 64⟩
def f_REEVE_EVICTIONS_EVICTIONS : Fld := ⟨0x90010, 0x8, 0, 64⟩
def f_TALLY_OPS_OPS : Fld := ⟨0x90018, 0x8, 0, 64⟩
def f_REEVE_ERR_NO_SLOT : Fld := ⟨0x90020, 0x8, 48, 16⟩
def f_REEVE_ERR_RECALL_TIMEOUTS : Fld := ⟨0x90020, 0x8, 32, 16⟩
def f_REEVE_ERR_PROTOCOL : Fld := ⟨0x90020, 0x8, 24, 8⟩
def f_REEVE_ERR_STALE_WB : Fld := ⟨0x90020, 0x8, 16, 8⟩
def f_REEVE_ERR_CREDIT_EXPIRED : Fld := ⟨0x90020, 0x8, 0, 16⟩
def f_REEVE_SLOTS_PEAK : Fld := ⟨0x90028, 0x8, 16, 12⟩
def f_REEVE_SLOTS_IN_USE : Fld := ⟨0x90028, 0x8, 0, 12⟩
def f_QF_STATE_FENCED : Fld := ⟨0xA0000, 0x8, 51, 1⟩
def f_QF_STATE_LEADER : Fld := ⟨0xA0000, 0x8, 50, 1⟩
def f_QF_STATE_KEEPER : Fld := ⟨0xA0000, 0x8, 49, 1⟩
def f_QF_STATE_FORMED : Fld := ⟨0xA0000, 0x8, 48, 1⟩
def f_QF_STATE_LEADER_NODE : Fld := ⟨0xA0000, 0x8, 32, 16⟩
def f_QF_STATE_EPOCH : Fld := ⟨0xA0000, 0x8, 0, 32⟩
def f_QF_TDEAD_HOP_US : Fld := ⟨0xA0008, 0x8, 20, 8⟩
def f_QF_TDEAD_BASE_US : Fld := ⟨0xA0008, 0x8, 0, 20⟩
def f_QF_ERR_HOP_DROPS : Fld := ⟨0xA0010, 0x8, 48, 16⟩
def f_QF_ERR_LATE_RSP : Fld := ⟨0xA0010, 0x8, 32, 16⟩
def f_QF_ERR_STALE_REJECTS : Fld := ⟨0xA0010, 0x8, 16, 16⟩
def f_QF_ERR_FENCED_REJECTS : Fld := ⟨0xA0010, 0x8, 0, 16⟩
def f_QF_CNT_EXPIRIES : Fld := ⟨0xA0018, 0x8, 32, 32⟩
def f_QF_CNT_MALFORMED : Fld := ⟨0xA0018, 0x8, 16, 16⟩
def f_QF_DOMAIN_DIAMETER : Fld := ⟨0xA0020, 0x8, 32, 16⟩
def f_QF_DOMAIN_NODES : Fld := ⟨0xA0020, 0x8, 0, 16⟩
def f_QF_DILL_CTL_DURATION_MS : Fld := ⟨0xA0028, 0x8, 16, 16⟩
def f_QF_DILL_CTL_PORTS : Fld := ⟨0xA0028, 0x8, 8, 8⟩
def f_QF_DILL_CTL_START : Fld := ⟨0xA0028, 0x8, 0, 1⟩
def f_QF_DILL_STAT_BUSY : Fld := ⟨0xA0030, 0x8, 63, 1⟩
def f_QF_DILL_STAT_REJECT : Fld := ⟨0xA0030, 0x8, 62, 1⟩
def f_QF_DILL_STAT_WORST_LANE : Fld := ⟨0xA0030, 0x8, 59, 3⟩
def f_QF_DILL_STAT_WORST_PORT : Fld := ⟨0xA0030, 0x8, 56, 3⟩
def f_QF_DILL_STAT_ERRORS : Fld := ⟨0xA0030, 0x8, 0, 48⟩
def f_QF_PORT_PEER_NODE : Fld := ⟨0xA0080, 0x8, 48, 16⟩
def f_QF_PORT_LANE_FAIL : Fld := ⟨0xA0080, 0x8, 40, 8⟩
def f_QF_PORT_PEER_PORT : Fld := ⟨0xA0080, 0x8, 36, 4⟩
def f_QF_PORT_VER_MAJOR : Fld := ⟨0xA0080, 0x8, 28, 4⟩
def f_QF_PORT_VER_MINOR : Fld := ⟨0xA0080, 0x8, 24, 4⟩
def f_QF_PORT_REFUSE : Fld := ⟨0xA0080, 0x8, 4, 4⟩
def f_QF_PORT_STATE : Fld := ⟨0xA0080, 0x8, 0, 3⟩
def f_QF_PORT_ERR_CORRECTED : Fld := ⟨0xA00C0, 0x8, 32, 32⟩
def f_QF_PORT_ERR_REPLAYS : Fld := ⟨0xA00C0, 0x8, 16, 16⟩
def f_QF_PORT_ERR_DOWNS : Fld := ⟨0xA00C0, 0x8, 0, 16⟩
def f_KL_PORT_KILL_CAUSE : Fld := ⟨0xB0000, 0x8, 56, 8⟩
def f_KL_PORT_KIND : Fld := ⟨0xB0000, 0x8, 48, 2⟩
def f_KL_PORT_BOUND_SLICE : Fld := ⟨0xB0000, 0x8, 40, 8⟩
def f_KL_PORT_STREAMS : Fld := ⟨0xB0000, 0x8, 16, 9⟩
def f_KL_PORT_VER_MAJOR : Fld := ⟨0xB0000, 0x8, 12, 4⟩
def f_KL_PORT_VER_MINOR : Fld := ⟨0xB0000, 0x8, 8, 4⟩
def f_KL_PORT_REFUSE : Fld := ⟨0xB0000, 0x8, 4, 4⟩
def f_KL_PORT_CLASS : Fld := ⟨0xB0000, 0x8, 3, 1⟩
def f_KL_PORT_STATE : Fld := ⟨0xB0000, 0x8, 0, 3⟩
def f_KL_PORT_CTL_MGMT : Fld := ⟨0xB0020, 0x8, 32, 1⟩
def f_KL_PORT_CTL_TIMEOUT_US : Fld := ⟨0xB0020, 0x8, 16, 16⟩
def f_KL_PORT_CTL_HOLD : Fld := ⟨0xB0020, 0x8, 1, 1⟩
def f_KL_PORT_CTL_KILL : Fld := ⟨0xB0020, 0x8, 0, 1⟩
def f_KL_PORT_ERR_INT_DROPS : Fld := ⟨0xB0040, 0x8, 48, 16⟩
def f_KL_PORT_ERR_TIMEOUTS : Fld := ⟨0xB0040, 0x8, 32, 16⟩
def f_KL_PORT_ERR_MALFORMED : Fld := ⟨0xB0040, 0x8, 16, 16⟩
def f_KL_PORT_ERR_KILLS : Fld := ⟨0xB0040, 0x8, 0, 16⟩
def f_KL_LIMITS_VER_MAX : Fld := ⟨0xB0060, 0x8, 24, 8⟩
def f_KL_LIMITS_VER_MIN : Fld := ⟨0xB0060, 0x8, 16, 8⟩
def f_KL_LIMITS_MAX_STREAMS : Fld := ⟨0xB0060, 0x8, 4, 12⟩
def f_KL_LIMITS_PORTS : Fld := ⟨0xB0060, 0x8, 0, 4⟩
def f_STORE_CARVE_T0_FRAMES : Fld := ⟨0xC0000, 0x8, 48, 16⟩
def f_STORE_CARVE_DESC_CELLS : Fld := ⟨0xC0000, 0x8, 31, 17⟩
def f_STORE_CARVE_STG_UNITS : Fld := ⟨0xC0000, 0x8, 16, 8⟩
def f_STORE_CARVE_ATW_UNITS : Fld := ⟨0xC0000, 0x8, 8, 8⟩
def f_STORE_CARVE_PKT_UNITS : Fld := ⟨0xC0000, 0x8, 0, 4⟩
def f_STORE_CARVE_STAT_LAYOUT_DEFAULTED : Fld := ⟨0xC0008, 0x8, 63, 1⟩
def f_STORE_CARVE_STAT_LIMITS_DEFAULTED : Fld := ⟨0xC0008, 0x8, 62, 1⟩
def f_STORE_CARVE_STAT_SPARE_EXHAUSTED : Fld := ⟨0xC0008, 0x8, 61, 1⟩
def f_STORE_CARVE_STAT_SPARE : Fld := ⟨0xC0008, 0x8, 20, 20⟩
def f_STORE_CARVE_STAT_SCR_UNITS : Fld := ⟨0xC0008, 0x8, 8, 8⟩
def f_STORE_CARVE_STAT_DIR_UNITS : Fld := ⟨0xC0008, 0x8, 0, 8⟩
def f_STORE_CLASS_WT_TC5 : Fld := ⟨0xC0010, 0x8, 40, 8⟩
def f_STORE_CLASS_WT_TC4 : Fld := ⟨0xC0010, 0x8, 32, 8⟩
def f_STORE_CLASS_WT_TC3 : Fld := ⟨0xC0010, 0x8, 24, 8⟩
def f_STORE_CLASS_WT_TC2 : Fld := ⟨0xC0010, 0x8, 16, 8⟩
def f_STORE_CLASS_WT_TC1 : Fld := ⟨0xC0010, 0x8, 8, 8⟩
def f_STORE_CLASS_WT_TC0 : Fld := ⟨0xC0010, 0x8, 0, 8⟩
def f_STORE_AUDIT_AUDIT_MS : Fld := ⟨0xC0018, 0x8, 1, 16⟩
def f_STORE_AUDIT_ENABLE : Fld := ⟨0xC0018, 0x8, 0, 1⟩
def f_STORE_AUDIT_STAT_LEAKED : Fld := ⟨0xC0020, 0x8, 48, 16⟩
def f_STORE_AUDIT_STAT_DUALS : Fld := ⟨0xC0020, 0x8, 32, 16⟩
def f_STORE_AUDIT_STAT_COUNT_FIXES : Fld := ⟨0xC0020, 0x8, 16, 16⟩
def f_STORE_AUDIT_STAT_QUARANTINED : Fld := ⟨0xC0020, 0x8, 0, 16⟩
def f_STORE_ECC_UNCORRECTED : Fld := ⟨0xC0028, 0x8, 32, 32⟩
def f_STORE_ECC_CORRECTED : Fld := ⟨0xC0028, 0x8, 0, 32⟩
def f_STORE_MIRROR_STAT_DROPS : Fld := ⟨0xC0030, 0x8, 32, 32⟩
def f_STORE_MIRROR_STAT_SAMPLED : Fld := ⟨0xC0030, 0x8, 0, 32⟩
def f_STORE_MIRROR_CLASS_MASK : Fld := ⟨0xC0100, 0x8, 16, 8⟩
def f_STORE_MIRROR_LOG2_N : Fld := ⟨0xC0100, 0x8, 8, 5⟩
def f_STORE_MIRROR_OUT : Fld := ⟨0xC0100, 0x8, 1, 1⟩
def f_STORE_MIRROR_IN : Fld := ⟨0xC0100, 0x8, 0, 1⟩
def f_STORE_LIMIT_LO_TC3 : Fld := ⟨0xC1000, 0x10, 48, 16⟩
def f_STORE_LIMIT_LO_TC2 : Fld := ⟨0xC1000, 0x10, 32, 16⟩
def f_STORE_LIMIT_LO_TC1 : Fld := ⟨0xC1000, 0x10, 16, 16⟩
def f_STORE_LIMIT_LO_TC0 : Fld := ⟨0xC1000, 0x10, 0, 16⟩
def f_STORE_LIMIT_HI_TC7 : Fld := ⟨0xC1008, 0x10, 48, 16⟩
def f_STORE_LIMIT_HI_TC6 : Fld := ⟨0xC1008, 0x10, 32, 16⟩
def f_STORE_LIMIT_HI_TC5 : Fld := ⟨0xC1008, 0x10, 16, 16⟩
def f_STORE_LIMIT_HI_TC4 : Fld := ⟨0xC1008, 0x10, 0, 16⟩
def f_SLC_CFG_ENABLE : Fld := ⟨0xD0000, 0x8, 63, 1⟩
def f_SLC_CFG_GROUPS : Fld := ⟨0xD0000, 0x8, 48, 8⟩
def f_SLC_CFG_GLEANERS : Fld := ⟨0xD0000, 0x8, 40, 8⟩
def f_SLC_CFG_GLN_CTX : Fld := ⟨0xD0000, 0x8, 35, 5⟩
def f_SLC_CFG_ASSAYERS : Fld := ⟨0xD0000, 0x8, 16, 16⟩
def f_SLC_CFG_ASY_CTX : Fld := ⟨0xD0000, 0x8, 0, 10⟩
def f_SLC_MOVERS_MOVERS : Fld := ⟨0xD0200, 0x8, 0, 32⟩
def f_SLC_SHARE_DRAM_PCS : Fld := ⟨0xD0400, 0x8, 48, 9⟩
def f_SLC_SHARE_DESC_MIN : Fld := ⟨0xD0400, 0x8, 32, 16⟩
def f_SLC_SHARE_ATW_64K : Fld := ⟨0xD0400, 0x8, 0, 16⟩
def f_SLC_QOS_ENG_MIN : Fld := ⟨0xD0600, 0x8, 56, 8⟩
def f_SLC_QOS_ENG_WT : Fld := ⟨0xD0600, 0x8, 48, 8⟩
def f_SLC_QOS_LINK_MIN : Fld := ⟨0xD0600, 0x8, 40, 8⟩
def f_SLC_QOS_LINK_WT : Fld := ⟨0xD0600, 0x8, 32, 8⟩
def f_SLC_QOS_STORE_MIN : Fld := ⟨0xD0600, 0x8, 24, 8⟩
def f_SLC_QOS_STORE_WT : Fld := ⟨0xD0600, 0x8, 16, 8⟩
def f_SLC_QOS_DRAM_WT : Fld := ⟨0xD0600, 0x8, 0, 8⟩
def f_SLC_STATUS_BUSY : Fld := ⟨0xD0800, 0x8, 63, 1⟩
def f_SLC_STATUS_IN_JOB : Fld := ⟨0xD0800, 0x8, 62, 1⟩
def f_SLC_STATUS_CFG_REJECT : Fld := ⟨0xD0800, 0x8, 61, 1⟩
def f_SLC_STATUS_INT_OFF_DROPS : Fld := ⟨0xD0800, 0x8, 32, 16⟩
def f_SLC_STATUS_JOB : Fld := ⟨0xD0800, 0x8, 0, 32⟩
def f_SLC_RESET_DRAIN_MS : Fld := ⟨0xD0A00, 0x8, 32, 16⟩
def f_SLC_RESET_SLICE : Fld := ⟨0xD0A00, 0x8, 8, 6⟩
def f_SLC_RESET_QUIET : Fld := ⟨0xD0A00, 0x8, 2, 1⟩
def f_SLC_RESET_MODE : Fld := ⟨0xD0A00, 0x8, 1, 1⟩
def f_SLC_RESET_START : Fld := ⟨0xD0A00, 0x8, 0, 1⟩
def f_SLC_COMPOSE_ADDR : Fld := ⟨0xD0A08, 0x8, 6, 44⟩
def f_SLC_COMPOSE_STAT_BUSY : Fld := ⟨0xD0A10, 0x8, 63, 1⟩
def f_SLC_COMPOSE_STAT_NODE : Fld := ⟨0xD0A10, 0x8, 32, 16⟩
def f_SLC_COMPOSE_STAT_STATUS : Fld := ⟨0xD0A10, 0x8, 0, 8⟩
def f_SLC_COMPOSE_RES_JOB : Fld := ⟨0xD0A18, 0x8, 32, 32⟩
def f_SLC_COMPOSE_RES_EPOCH : Fld := ⟨0xD0A18, 0x8, 0, 32⟩
def f_SLC_REVOKE_NEW_OWNER : Fld := ⟨0xD0A20, 0x8, 58, 6⟩
def f_SLC_REVOKE_EXTENT : Fld := ⟨0xD0A20, 0x8, 57, 1⟩
def f_SLC_REVOKE_MODE : Fld := ⟨0xD0A20, 0x8, 56, 1⟩
def f_SLC_REVOKE_REGION : Fld := ⟨0xD0A20, 0x8, 0, 20⟩
def f_SLC_REVOKE_STAT_BUSY : Fld := ⟨0xD0A28, 0x8, 63, 1⟩
def f_SLC_REVOKE_STAT_ABORTED : Fld := ⟨0xD0A28, 0x8, 16, 32⟩
def f_SLC_REVOKE_STAT_LIVE : Fld := ⟨0xD0A28, 0x8, 8, 8⟩
def f_SLC_REVOKE_STAT_STATUS : Fld := ⟨0xD0A28, 0x8, 0, 8⟩
def f_SLC_GLOBAL_TRANSIT_MIN : Fld := ⟨0xD0A30, 0x8, 8, 8⟩
def f_SLC_GLOBAL_TRANSIT_WT : Fld := ⟨0xD0A30, 0x8, 0, 8⟩
def f_FLT_LOG_RING_BASE : Fld := ⟨0xE0000, 0x8, 12, 38⟩
def f_FLT_LOG_RING_LOG2 : Fld := ⟨0xE0000, 0x8, 0, 5⟩
def f_FLT_LOG_IDX_CONS : Fld := ⟨0xE0008, 0x8, 32, 32⟩
def f_FLT_LOG_IDX_PROD : Fld := ⟨0xE0008, 0x8, 0, 32⟩
def f_FLT_LOG_STAT_OVERWRITTEN : Fld := ⟨0xE0010, 0x8, 32, 32⟩
def f_FLT_LOG_STAT_UNLOGGED : Fld := ⟨0xE0010, 0x8, 0, 32⟩
def f_FLT_SEQ_SEQ : Fld := ⟨0xE0018, 0x8, 0, 64⟩
def f_FLT_CTL_VECTOR : Fld := ⟨0xE0020, 0x8, 40, 8⟩
def f_FLT_CTL_FWD_LOG : Fld := ⟨0xE0020, 0x8, 33, 1⟩
def f_FLT_CTL_INT_EN : Fld := ⟨0xE0020, 0x8, 32, 1⟩
def f_FLT_CTL_INT_US : Fld := ⟨0xE0020, 0x8, 16, 16⟩
def f_FLT_ALARM_CTL_HOLDOFF_MS : Fld := ⟨0xE0028, 0x8, 16, 16⟩
def f_FLT_ALARM_CTL_RATE : Fld := ⟨0xE0028, 0x8, 0, 16⟩
def f_FLT_ALARM_STAT_ALARMS : Fld := ⟨0xE0030, 0x8, 32, 32⟩
def f_FLT_ALARM_STAT_AGGREGATED : Fld := ⟨0xE0030, 0x8, 16, 16⟩
def f_FLT_ALARM_STAT_ENTRIES : Fld := ⟨0xE0030, 0x8, 0, 12⟩
def f_FLT_JOB_ABORT_JOB : Fld := ⟨0xE0038, 0x8, 32, 32⟩
def f_FLT_JOB_ABORT_START : Fld := ⟨0xE0038, 0x8, 0, 1⟩
def f_FLT_ABORT_STAT_STARTED : Fld := ⟨0xE0040, 0x8, 32, 32⟩
def f_FLT_ABORT_STAT_MERGED : Fld := ⟨0xE0040, 0x8, 16, 16⟩
def f_FLT_ABORT_STAT_IGNORED : Fld := ⟨0xE0040, 0x8, 0, 16⟩
def f_FLT_SLICE_JOB_STATE : Fld := ⟨0xE0100, 0x8, 62, 2⟩
def f_FLT_SLICE_JOB_TRIGGER : Fld := ⟨0xE0100, 0x8, 48, 8⟩
def f_FLT_SLICE_JOB_ORIGIN : Fld := ⟨0xE0100, 0x8, 32, 16⟩
def f_FLT_SLICE_JOB_JOB : Fld := ⟨0xE0100, 0x8, 0, 32⟩
def f_BOOT_STATUS_STORE_READY : Fld := ⟨0xF0000, 0x8, 63, 1⟩
def f_BOOT_STATUS_LOCK : Fld := ⟨0xF0000, 0x8, 62, 1⟩
def f_BOOT_STATUS_RECOVERY : Fld := ⟨0xF0000, 0x8, 61, 1⟩
def f_BOOT_STATUS_IDENT_OK : Fld := ⟨0xF0000, 0x8, 60, 1⟩
def f_BOOT_STATUS_ENROLLED : Fld := ⟨0xF0000, 0x8, 59, 1⟩
def f_BOOT_STATUS_FW_SLOT : Fld := ⟨0xF0000, 0x8, 58, 1⟩
def f_BOOT_STATUS_CFG_SLOT : Fld := ⟨0xF0000, 0x8, 57, 1⟩
def f_BOOT_STATUS_FAIL_INFO : Fld := ⟨0xF0000, 0x8, 16, 16⟩
def f_BOOT_STATUS_FAIL : Fld := ⟨0xF0000, 0x8, 8, 8⟩
def f_BOOT_STATUS_STAGES_DONE : Fld := ⟨0xF0000, 0x8, 0, 8⟩
def f_BOOT_DEVID_DEVICE_ID : Fld := ⟨0xF0008, 0x8, 0, 64⟩
def f_BOOT_SVN_MIN_FW_SVN : Fld := ⟨0xF0010, 0x8, 32, 32⟩
def f_BOOT_SVN_FW_SVN : Fld := ⟨0xF0010, 0x8, 0, 32⟩
def f_BOOT_MEAS_ENTRIES : Fld := ⟨0xF0018, 0x8, 0, 7⟩
def f_BOOT_TIME_READY_US : Fld := ⟨0xF0020, 0x8, 0, 32⟩
def f_BOOT_CFG_STAT_FIRST_IGNORED : Fld := ⟨0xF0028, 0x8, 32, 16⟩
def f_BOOT_CFG_STAT_IGNORED : Fld := ⟨0xF0028, 0x8, 0, 16⟩
def f_BOOT_MCTP_DROPS : Fld := ⟨0xF0030, 0x8, 48, 16⟩
def f_BOOT_MCTP_SMB_ADDR : Fld := ⟨0xF0030, 0x8, 40, 7⟩
def f_BOOT_MCTP_EID : Fld := ⟨0xF0030, 0x8, 32, 8⟩
def f_BOOT_MCTP_IANA : Fld := ⟨0xF0030, 0x8, 0, 32⟩
def f_BOOT_CHAIN_CHAIN : Fld := ⟨0xF0040, 0x8, 0, 64⟩
def f_SLV_LO_ADDR : Fld := ⟨0x100000, 0x10, 2, 62⟩
def f_SLV_HI_DATA : Fld := ⟨0x100008, 0x10, 32, 32⟩
def f_SLV_HI_PORT : Fld := ⟨0x100008, 0x10, 16, 2⟩
def f_SLV_HI_PENDING : Fld := ⟨0x100008, 0x10, 2, 1⟩
def f_SLV_HI_MASK : Fld := ⟨0x100008, 0x10, 1, 1⟩
def f_SLV_HI_ENABLE : Fld := ⟨0x100008, 0x10, 0, 1⟩
def f_FLA_0_NODE : Fld := ⟨0x140000, 0x20, 48, 16⟩
def f_FLA_0_SOURCE : Fld := ⟨0x140000, 0x20, 32, 16⟩
def f_FLA_0_CAUSE : Fld := ⟨0x140000, 0x20, 24, 8⟩
def f_FLA_0_PENDING : Fld := ⟨0x140000, 0x20, 1, 1⟩
def f_FLA_0_VALID : Fld := ⟨0x140000, 0x20, 0, 1⟩
def f_FLA_1_SENT : Fld := ⟨0x140008, 0x20, 32, 32⟩
def f_FLA_1_COUNT : Fld := ⟨0x140008, 0x20, 0, 32⟩
def f_FLA_2_FIRST_STAMP : Fld := ⟨0x140010, 0x20, 0, 64⟩
def f_FLA_3_LAST_STAMP : Fld := ⟨0x140018, 0x20, 0, 64⟩
def f_FLD_0_NODE : Fld := ⟨0x160000, 0x20, 48, 16⟩
def f_FLD_0_SOURCE : Fld := ⟨0x160000, 0x20, 32, 16⟩
def f_FLD_0_CAUSE : Fld := ⟨0x160000, 0x20, 24, 8⟩
def f_FLD_0_PENDING : Fld := ⟨0x160000, 0x20, 1, 1⟩
def f_FLD_0_VALID : Fld := ⟨0x160000, 0x20, 0, 1⟩
def f_FLD_1_SENT : Fld := ⟨0x160008, 0x20, 32, 32⟩
def f_FLD_1_COUNT : Fld := ⟨0x160008, 0x20, 0, 32⟩
def f_FLD_2_FIRST_STAMP : Fld := ⟨0x160010, 0x20, 0, 64⟩
def f_FLD_3_LAST_STAMP : Fld := ⟨0x160018, 0x20, 0, 64⟩
def f_CAR_SRC_ADDR : Fld := ⟨0x180000, 0x40, 0, 50⟩
def f_CAR_DST_ADDR : Fld := ⟨0x180008, 0x40, 0, 50⟩
def f_CAR_COUNT_BYTES : Fld := ⟨0x180010, 0x40, 0, 40⟩
def f_CAR_CTL_START : Fld := ⟨0x180018, 0x40, 0, 1⟩
def f_CAR_STATUS_BUSY : Fld := ⟨0x180020, 0x40, 63, 1⟩
def f_CAR_STATUS_QUEUED : Fld := ⟨0x180020, 0x40, 62, 1⟩
def f_CAR_STATUS_DONE_BYTES : Fld := ⟨0x180020, 0x40, 8, 40⟩
def f_CAR_STATUS_STATUS : Fld := ⟨0x180020, 0x40, 0, 8⟩
def f_CAR_ERR_START_REJECTS : Fld := ⟨0x180200, 0x8, 0, 16⟩
def f_OBS_NOW_NOW : Fld := ⟨0x190000, 0x8, 0, 64⟩
def f_OBS_DUMP_CTL_PERIOD_US : Fld := ⟨0x190008, 0x8, 32, 20⟩
def f_OBS_DUMP_CTL_ENABLE : Fld := ⟨0x190008, 0x8, 0, 1⟩
def f_OBS_DUMP_RING_BASE : Fld := ⟨0x190010, 0x8, 12, 38⟩
def f_OBS_DUMP_RING_LOG2 : Fld := ⟨0x190010, 0x8, 0, 5⟩
def f_OBS_DUMP_IDX_CONS : Fld := ⟨0x190018, 0x8, 32, 32⟩
def f_OBS_DUMP_IDX_PROD : Fld := ⟨0x190018, 0x8, 0, 32⟩
def f_OBS_STAT_OVERWRITTEN : Fld := ⟨0x190020, 0x8, 32, 32⟩
def f_OBS_STAT_SEL_REJECTS : Fld := ⟨0x190020, 0x8, 16, 16⟩
def f_OBS_SEL_ENABLE : Fld := ⟨0x190100, 0x8, 63, 1⟩
def f_OBS_SEL_MODE : Fld := ⟨0x190100, 0x8, 61, 2⟩
def f_OBS_SEL_INVERT : Fld := ⟨0x190100, 0x8, 60, 1⟩
def f_OBS_SEL_SLICE : Fld := ⟨0x190100, 0x8, 48, 8⟩
def f_OBS_SEL_KIND : Fld := ⟨0x190100, 0x8, 44, 4⟩
def f_OBS_SEL_INSTANCE : Fld := ⟨0x190100, 0x8, 32, 12⟩
def f_OBS_SEL_EVENT : Fld := ⟨0x190100, 0x8, 0, 8⟩
def f_OBS_CTR_COUNT : Fld := ⟨0x190300, 0x8, 0, 64⟩
def f_SCR_CTL_SEED : Fld := ⟨0x1A0000, 0x8, 48, 16⟩
def f_SCR_CTL_POINT : Fld := ⟨0x1A0000, 0x8, 40, 3⟩
def f_SCR_CTL_SLICE : Fld := ⟨0x1A0000, 0x8, 32, 8⟩
def f_SCR_CTL_LOG2_N : Fld := ⟨0x1A0000, 0x8, 8, 5⟩
def f_SCR_CTL_JITTER : Fld := ⟨0x1A0000, 0x8, 1, 1⟩
def f_SCR_CTL_ENABLE : Fld := ⟨0x1A0000, 0x8, 0, 1⟩
def f_SCR_RING_BASE : Fld := ⟨0x1A0008, 0x8, 12, 38⟩
def f_SCR_RING_LOG2 : Fld := ⟨0x1A0008, 0x8, 0, 5⟩
def f_SCR_IDX_CONS : Fld := ⟨0x1A0010, 0x8, 32, 32⟩
def f_SCR_IDX_PROD : Fld := ⟨0x1A0010, 0x8, 0, 32⟩
def f_SCR_STAT_DROPS : Fld := ⟨0x1A0018, 0x8, 32, 32⟩
def f_SCR_STAT_MISSED : Fld := ⟨0x1A0018, 0x8, 0, 32⟩
def f_FRZ_CTL_PIN_EN : Fld := ⟨0x1B0000, 0x8, 1, 1⟩
def f_FRZ_CTL_FREEZE : Fld := ⟨0x1B0000, 0x8, 0, 1⟩
def f_FRZ_ALARM_CAUSES : Fld := ⟨0x1B0008, 0x8, 0, 64⟩
def f_FRZ_STATUS_FROZEN : Fld := ⟨0x1B0010, 0x8, 63, 1⟩
def f_FRZ_STATUS_PIN : Fld := ⟨0x1B0010, 0x8, 62, 1⟩
def f_FRZ_STATUS_REG : Fld := ⟨0x1B0010, 0x8, 61, 1⟩
def f_FRZ_STATUS_ALARM : Fld := ⟨0x1B0010, 0x8, 60, 1⟩
def f_FRZ_STATUS_ALARM_SOURCE : Fld := ⟨0x1B0010, 0x8, 32, 16⟩
def f_FRZ_STATUS_ALARM_CAUSE : Fld := ⟨0x1B0010, 0x8, 24, 8⟩
def f_FRZ_STAMP_STAMP : Fld := ⟨0x1B0018, 0x8, 0, 64⟩
def f_FRZ_AON_AON : Fld := ⟨0x1B0020, 0x8, 0, 64⟩
def f_FRZ_DOMAINS_STOPPED : Fld := ⟨0x1B0028, 0x8, 0, 25⟩
def f_PWR_CAP_ACTIVE : Fld := ⟨0x1C0000, 0x8, 8, 1⟩
def f_PWR_CAP_WATTS : Fld := ⟨0x1C0000, 0x8, 0, 8⟩
def f_PWR_LIMITS_PKG_W : Fld := ⟨0x1C0080, 0x8, 32, 10⟩
def f_PWR_LIMITS_STACK_C : Fld := ⟨0x1C0080, 0x8, 8, 8⟩
def f_PWR_LIMITS_LOGIC_C : Fld := ⟨0x1C0080, 0x8, 0, 8⟩
def f_PWR_STAT_REACHED : Fld := ⟨0x1C0088, 0x8, 32, 16⟩
def f_PWR_STAT_STEP : Fld := ⟨0x1C0088, 0x8, 16, 5⟩
def f_PWR_STAT_IN_FORCE : Fld := ⟨0x1C0088, 0x8, 0, 9⟩
def f_PWR_SENSE_PKG_W : Fld := ⟨0x1C0090, 0x8, 44, 10⟩
def f_PWR_SENSE_VDD_MV : Fld := ⟨0x1C0090, 0x8, 32, 12⟩
def f_PWR_SENSE_STACK : Fld := ⟨0x1C0090, 0x8, 24, 3⟩
def f_PWR_SENSE_T_STACK : Fld := ⟨0x1C0090, 0x8, 16, 8⟩
def f_PWR_SENSE_T_LOGIC : Fld := ⟨0x1C0090, 0x8, 0, 8⟩

end Sys2Proof.Machine
end

