-- ==== Sys2Proof/Machine/Ops.lean ====
section
/-! DEFINITION. The named operations over registers, bytes and lists that every meaning is written with: sparse lists in
canonical form, little-endian fields (R9), register words and fields (R10, R12, R635), address windows (R35) and the home
bank function (R39). -/

namespace Sys2Proof.Machine

/-! ### Lists in order -/

/-- Put an element before the first that it comes before or stands beside. -/
def insertBy {α : Type} (le : α → α → Bool) (a : α) : List α → List α
  | [] => [a]
  | b :: bs => if le a b then a :: b :: bs else b :: insertBy le a bs

/-- A list in rising order; elements that are equal in it keep their places. -/
def sortBy {α : Type} (le : α → α → Bool) (l : List α) : List α := l.foldr (insertBy le) []

/-! ### Sparse lists: keys rising, no entry equal to the default -/

/-- The value at key `k`; `d` when unlisted. -/
def look {α : Type} (d : α) (m : List (Nat × α)) (k : Nat) : α :=
  match m.find? (fun e => e.1 == k) with
  | some e => e.2
  | none => d

/-- The entries for consecutive keys from `k`, without those equal to the default. -/
def entries {α : Type} [DecidableEq α] (d : Nat → α) (k : Nat) : List α → List (Nat × α)
  | [] => []
  | v :: vs => if v = d k then entries d (k + 1) vs else (k, v) :: entries d (k + 1) vs

/-- Write consecutive values from key `k`. -/
def put {α : Type} [DecidableEq α] (d : Nat → α) (m : List (Nat × α)) (k : Nat) (vs : List α) : List (Nat × α) :=
  m.filter (fun e => decide (e.1 < k)) ++ (entries d k vs ++ m.filter (fun e => decide (k + vs.length ≤ e.1)))

/-- The canonical form. -/
def canon {α : Type} [DecidableEq α] (d : Nat → α) (m : List (Nat × α)) : Bool :=
  decide (m.Pairwise (fun a b => a.1 < b.1)) && m.all (fun e => decide (e.2 ≠ d e.1))

/-- The values at `n` keys from `k`, `m` holding the entries from `k` on in rising order. -/
def walk {α : Type} (d : α) : Nat → Nat → List (Nat × α) → List α
  | 0, _, _ => []
  | n + 1, k, [] => d :: walk d n (k + 1) []
  | n + 1, k, e :: es => if e.1 = k then e.2 :: walk d n (k + 1) es else d :: walk d n (k + 1) (e :: es)

/-- `n` bytes of a sparse memory from address `a`; an unlisted byte reads as 0. -/
def cellsRead (m : Cells) (a n : Nat) : List Byte :=
  walk 0#8 n a (m.filter (fun e => decide (a ≤ e.1)))

/-- One byte of a sparse memory. -/
def cellByte (m : Cells) (a : Nat) : Byte := look 0#8 m a

/-- Write bytes into a sparse memory. -/
def cellsWrite (m : Cells) (a : Nat) (bs : List Byte) : Cells := put (fun _ => 0#8) m a bs

/-- The canonical form of a sparse memory. -/
def Memory.wf (m : Cells) : Bool := canon (fun _ => 0#8) m

/-! ### Little-endian fields (R9) -/

/-- The number a list of bytes spells. -/
def leNat : List Byte → Nat
  | [] => 0
  | b :: bs => b.toNat + 256 * leNat bs

/-- The `n` bytes of a number. -/
def leBytes : Nat → Nat → List Byte
  | 0, _ => []
  | n + 1, v => BitVec.ofNat 8 v :: leBytes n (v / 256)

/-- Field of `w` bytes at byte offset `o` of a structure in memory. -/
def leAt (bs : List Byte) (o w : Nat) : Nat := leNat ((bs.drop o).take w)

/-- Bits [lo + w − 1 : lo] of a number. -/
def bits (v lo w : Nat) : Nat := v / 2 ^ lo % 2 ^ w

/-- One bit of a number. -/
def bit (v i : Nat) : Bool := bits v i 1 == 1

/-- Bit k of the number is `f k`, for k below `n`. -/
def maskOf (n : Nat) (f : Nat → Bool) : Nat :=
  (List.range n).foldl (fun acc k => if f k then acc + 2 ^ k else acc) 0

/-- Bytes `o` to `o + n − 1` are all zero. -/
def zeros (bs : List Byte) (o n : Nat) : Bool := ((bs.drop o).take n).all (fun b => b == 0#8)

def byte (v : Nat) : Byte := BitVec.ofNat 8 v

/-- 2^32, the modulus of free-running counts. -/
def two32 : Nat := 4294967296

/-- a − b of free-running 32-bit counts. -/
def sub32 (a b : Nat) : Nat := (a + two32 - b % two32) % two32

/-- ⌈a ÷ b⌉. -/
def ceilDiv (a b : Nat) : Nat := (a + b - 1) / b

/-! ### Registers -/

/-- `STORE_LIMIT` defaults of R480, TC0 first: Kellija, Quaril, internal. -/
def limitDefault (row tc : Nat) : Nat :=
  if row < 4 then [16, 32, 64, 256, 256, 8, 16, 8].getD tc 0
  else if row < 52 then [16, 32, 16, 128, 128, 128, 16, 8].getD tc 0
  else [64, 256, 256, 1024, 1024, 4096, 64, 64].getD tc 0

/-- Reset bits that depend on the register's number in its array (R499, R516, R517, R496). -/
def resetExtra (off : Nat) : Nat :=
  if off = 0xD0000 then 2 ^ 63
  else if off = 0xD0200 then 3
  else if off = 0xD0400 then 0x400 * 2 ^ 32
  else if 0xC1000 ≤ off ∧ off < 0xC1000 + 0x10 * 53 then
    let row := (off - 0xC1000) / 16
    let t := if (off - 0xC1000) % 16 = 0 then 0 else 4
    (List.range 4).foldl (fun acc k => acc + limitDefault row (t + k) * 2 ^ (16 * k)) 0
  else 0

/-- The register at a setup-space offset and its number in its array (R637, R638). -/
def findReg (off : Nat) : Option (RegSpec × Nat) :=
  regTable.findSome? fun r =>
    if r.off ≤ off ∧ (off - r.off) % r.stride = 0 ∧ (off - r.off) / r.stride < r.count
    then some (r, (off - r.off) / r.stride) else none

/-- Reset value of the register at an offset. -/
def resetWord (off : Nat) : Word :=
  match findReg off with
  | some (r, _) => BitVec.ofNat 64 (r.fields.foldl (fun acc f => acc + f.rst * 2 ^ f.lo) 0 + resetExtra off)
  | none => 0#64

/-- The stored word of the register at an offset. -/
def State.word (s : State) (off : Nat) : Word := look (resetWord off) s.regs off

/-- Store a register word. -/
def State.setWord (s : State) (off : Nat) (w : Word) : State :=
  { s with regs := put resetWord s.regs off [w] }

/-- Offset of instance `i` of a field's register. -/
def Fld.addr (f : Fld) (i : Nat) : Nat := f.off + f.stride * i

/-- Bits of a word. -/
def Fld.get (f : Fld) (w : Word) : Nat := bits w.toNat f.lo f.width

/-- A word with the bits of one field replaced. -/
def Fld.set (f : Fld) (w : Word) (v : Nat) : Word :=
  BitVec.ofNat 64 (w.toNat - f.get w * 2 ^ f.lo + v % 2 ^ f.width * 2 ^ f.lo)

/-- Field `f` of instance `i`. -/
def State.fldAt (s : State) (f : Fld) (i : Nat) : Nat := f.get (s.word (f.addr i))

/-- Set field `f` of instance `i`. -/
def State.setFldAt (s : State) (f : Fld) (i v : Nat) : State :=
  s.setWord (f.addr i) (f.set (s.word (f.addr i)) v)

def State.fld (s : State) (f : Fld) : Nat := s.fldAt f 0

def State.setFld (s : State) (f : Fld) (v : Nat) : State := s.setFldAt f 0 v

/-- Add to a count that saturates at its all-ones value. -/
def State.addSatAt (s : State) (f : Fld) (i n : Nat) : State :=
  s.setFldAt f i (min (s.fldAt f i + n) (2 ^ f.width - 1))

def State.incSatAt (s : State) (f : Fld) (i : Nat) : State := s.addSatAt f i 1

def State.incSat (s : State) (f : Fld) : State := s.addSatAt f 0 1

/-- Add to a count that wraps. -/
def State.addWrap (s : State) (f : Fld) (n : Nat) : State := s.setFld f (s.fld f + n)

/-- A flag field. -/
def State.flag (s : State) (f : Fld) : Bool := s.fld f == 1

/-! ### Lists of records -/

/-- Some two entries of a list, the earlier one first, are related. -/
def anyPair {α : Type} (r : α → α → Bool) : List α → Bool
  | [] => false
  | x :: xs => xs.any (r x) || anyPair r xs

/-- Replace every record that `p` names. -/
def upd {α : Type} (l : List α) (p : α → Bool) (g : α → α) : List α := l.map (fun x => if p x then g x else x)

/-- Remove every record that `p` names. -/
def del {α : Type} (l : List α) (p : α → Bool) : List α := l.filter (fun x => !p x)

/-- Repeat a state change for 0 to n − 1. -/
def forN {σ : Type} (n : Nat) (s : σ) (f : Nat → σ → σ) : σ := (List.range n).foldl (fun t i => f i t) s

/-- Repeat a state change for each element. -/
def forL {σ α : Type} (l : List α) (s : σ) (f : α → σ → σ) : σ := l.foldl (fun t x => f x t) s

/-! ### Free values -/

/-- The next free number, and the state with the counter advanced. -/
def State.takeNat (s : State) : Nat × State := (Config.freeNat s.fresh, { s with fresh := s.fresh + 1 })

/-! ### Clocks and identity -/

/-- The local cycle counter (R587): `OBS_NOW`. -/
def State.now (s : State) : Nat := s.fld f_OBS_NOW_NOW

/-- The setup lock is set (R10, R569). -/
def State.locked (s : State) : Bool := s.flag f_BOOT_STATUS_LOCK

/-! ### Writes of registers by software (R10 to R12) -/

/-- What a field holds after a write of a word; `ok`: the value written is in the field's range. -/
def FSpec.after (f : FSpec) (locked ok : Bool) (old w : Nat) : Nat :=
  let o := bits old f.lo f.width
  let n := bits w f.lo f.width
  match f.acc with
  | .ro | .wo => o
  | .rw => if ok then n else o
  | .w1c => o - (o &&& n)
  | .rwl => if ok && !locked then n else o

/-- Write a register by its fields' access kinds; `ok` says by field name which values are taken. -/
def State.plainWrite (s : State) (off : Nat) (w : Word) (ok : String → Nat → Bool) : State :=
  match findReg off with
  | none => s
  | some (r, _) =>
    let old := s.word off
      let new := r.fields.foldl (fun (x : Word) f =>
      (Fld.mk off 8 f.lo f.width).set x (f.after s.locked (ok f.name (bits w.toNat f.lo f.width)) old.toNat w.toNat)) old
    s.setWord off new

/-- Some RWL field of the register would change (R11). -/
def State.lockedWrite (s : State) (off : Nat) (w : Word) : Bool :=
  match findReg off with
  | none => false
  | some (r, _) => r.fields.any (fun f => f.acc == .rwl && bits w.toNat f.lo f.width != bits (s.word off).toNat f.lo f.width)

/-! ### Windows of the local address space (R35, R36, R272) -/

def gib : Nat := 1073741824
def tileBytes : Nat := 65536
def setupBase : Nat := 0x400000000
def setupTop : Nat := 0x410000000
def directBase : Nat := 0x10000000000
def mediaBase : Nat := 0x100000000000
def localTop : Nat := 0x4000000000000

/-- Length of the direct part in bytes (R45). -/
def State.directLen (s : State) : Nat := s.fld f_AS_DIRECT_LIMIT_LEN

def State.scratchLen (s : State) : Nat := s.fld f_AS_SCRATCH_LIMIT_LEN

/-- First byte of the frame pool (R310). -/
def State.poolBase (s : State) : Nat := directBase + s.fld f_TIER_POOL_BASE_GIB * gib

/-- Bytes of the frame pool. -/
def State.poolLen (s : State) : Nat := s.fld f_TIER_POOL_LEN_GIB * gib

def State.inPool (s : State) (a : Nat) : Bool := decide (s.poolBase ≤ a ∧ a < s.poolBase + s.poolLen)

def State.inScratch (s : State) (a : Nat) : Bool := decide (a < s.scratchLen)

/-- In the DRAM direct part, outside the frame pool. -/
def State.inDirect (s : State) (a : Nat) : Bool :=
  decide (directBase ≤ a ∧ a < directBase + s.directLen) && !s.inPool a

/-- `n` bytes from `a` lie wholly in the scratchpad window, or wholly in the direct part outside the pool. -/
def State.plainRange (s : State) (a n : Nat) : Bool :=
  let e := a + n
  (decide (e ≤ s.scratchLen)) ||
  (decide (directBase ≤ a ∧ e ≤ directBase + s.directLen) && (decide (e ≤ s.poolBase) || decide (s.poolBase + s.poolLen ≤ a) || decide (s.poolLen = 0)))

/-- The home bank of a local address (R39). -/
def bank (a : Nat) : Nat :=
  let p := a / 4096
  let f := (List.range 9).foldl (fun acc k => acc ^^^ bits p (4 * k + 4) 4) 0
  let lo := (p % 16) ^^^ f
  16 * (p / 16 % 3) + lo

/-- Two ranges share a byte. -/
def overlap (a n b m : Nat) : Bool := decide (a < b + m ∧ b < a + n)

/-- Bytes that an access at its home names. -/
def AccOp.span : AccOp → Nat
  | .read n => n
  | .write bs _ => bs.length
  | .atomic _ _ operand => operand.length

/-- Bytes that a waiting access names lie in a range. -/
def Waiting.over (w : Waiting) (a n : Nat) : Bool := overlap a n w.acc.addr w.acc.op.span

/-! ### Plain memory: the scratchpad window and the direct part outside the pool -/

def State.memRead (s : State) (a n : Nat) : List Byte := cellsRead s.mem a n

/-- Some 64-byte line that `n` bytes from `a` touch is poisoned. -/
def touchesLine (ps : List Nat) (a n : Nat) : Bool := ps.any (fun l => decide (l < a + n ∧ a < l + 64))

def State.memPoisoned (s : State) (a n : Nat) : Bool := touchesLine s.poison a n

/-- A write of all 64 bytes of a poisoned line clears the poison (R304, R474). -/
def clearLines (ps : List Nat) (a n : Nat) : List Nat := ps.filter (fun l => !decide (a ≤ l ∧ l + 64 ≤ a + n))

/-- Lines that `n` bytes from `a` touch. -/
def linesOf (a n : Nat) : List Nat := (List.range ((a % 64 + n + 63) / 64)).map (fun k => a / 64 * 64 + 64 * k)

/-- Poison the lines that an access touches. -/
def poisonLines (ps : List Nat) (a n : Nat) : List Nat := ps ++ (linesOf a n).filter (fun l => !ps.contains l)

def State.memWrite (s : State) (a : Nat) (bs : List Byte) : State :=
  { s with mem := cellsWrite s.mem a bs, poison := clearLines s.poison a bs.length }

end Sys2Proof.Machine
end

