-- ==== Sys2Proof/Machine/Flags.lean ====
section
/-! DEFINITION. The status flags that decide whether and how a command acts: identity, frozen, held in reset, the epoch and role of
this ZV9 in its domain. The setup lock `State.locked`, which a register write reads, is in Ops. -/

namespace Sys2Proof.Machine

/-- This ZV9's node (R43). -/
def State.me (s : State) : Nat := s.fld f_AS_NODE_NODE

/-- The ZV9 is frozen (R601, R616). -/
def State.frozen (s : State) : Bool := s.flag f_FRZ_STATUS_FROZEN

/-- The ZV9 is out of reset and not frozen (R555, R603). -/
def State.alive (s : State) : Bool := !s.resetHeld && !s.porHeld && !s.frozen

/-- What a command does to a ZV9 that runs; a ZV9 frozen or held in reset changes no state by it (R555, R603). -/
def State.whenAlive (s t : State) : State := if s.alive then t else s

/-- The current map epoch; 0 before formation (R444). -/
def State.epoch (s : State) : Nat := s.fld f_QF_STATE_EPOCH

/-- The epoch after `e`; the one after 0xFFFF_FFFF is 1 (R435). -/
def nextEpoch (e : Nat) : Nat := if 0xFFFFFFFF ≤ e then 1 else e + 1

/-- Epoch `x` is the one before `e` (R88, R424). -/
def isPrevEpoch (x e : Nat) : Bool := x != 0 && nextEpoch x == e

/-- The epoch before `e`, around the end of their circle. -/
def prevEpoch (e : Nat) : Nat := if e ≤ 1 then 0xFFFFFFFF else e - 1

def State.fenced (s : State) : Bool := s.flag f_QF_STATE_FENCED

def State.leader (s : State) : Bool := s.flag f_QF_STATE_LEADER

end Sys2Proof.Machine
end

