-- ==== Sys2Proof/Machine/Route.lean ====
section
/-! DEFINITION. Routing (R416 to R419), the dead-target time (R427) and the job table read from a map: functions of the
committed map, which every ZV9 computes alike. -/

namespace Sys2Proof.Machine

/-! ### The map -/

def FMap.live (m : FMap) (n : Nat) : Bool := m.nodes.any (fun e => e.node == n && e.state == .live)

def FMap.ent (m : FMap) (n : Nat) : Option NodeEnt := m.nodes.find? (fun e => e.node == n)

/-- Live nodes in ascending order of identifier. -/
def FMap.liveNodes (m : FMap) : List Nat :=
  sortBy (fun a b => decide (a ≤ b)) ((m.nodes.filter (fun e => e.state == .live)).map (·.node))

/-- Links whose two ends are live. -/
def FMap.liveLinks (m : FMap) : List LinkEnt := m.links.filter (fun l => m.live l.a && m.live l.b)

/-- Ports of node `n` in ascending order: (port, peer, peer's port). -/
def FMap.ports (m : FMap) (n : Nat) : List (Nat × Nat × Nat) :=
  sortBy (fun x y => decide (x.1 ≤ y.1)) (m.liveLinks.flatMap (fun l =>
    (if l.a = n then [(l.pa, l.b, l.pb)] else []) ++ (if l.b = n then [(l.pb, l.a, l.pa)] else [])))

/-- Nodes reached from the nodes of `acc`, in at most `fuel` rounds. -/
def FMap.reach (m : FMap) : Nat → List Nat → List Nat
  | 0, acc => acc
  | k + 1, acc =>
    m.reach k (acc ++ ((acc.flatMap (fun n => (m.ports n).map (fun p => p.2.1))).eraseDups).filter (fun n => !acc.contains n))

/-- The live nodes and links form one simple cycle (R417). -/
def FMap.ring (m : FMap) : Bool :=
  let ns := m.liveNodes
  decide (3 ≤ ns.length) && ns.all (fun n => (m.ports n).length == 2) &&
  (match ns with
   | [] => false
   | n :: _ => decide ((m.reach ns.length [n]).length = ns.length))

/-- Hops to `d` when node `n` is left by port `p` on a cycle. -/
def FMap.around (m : FMap) : Nat → Nat → Nat → Nat → Option Nat
  | 0, _, _, _ => none
  | k + 1, n, p, d =>
    match (m.ports n).find? (fun x => x.1 == p) with
    | none => none
    | some (_, q, pq) =>
      if q = d then some 1
      else
        match (m.ports q).find? (fun x => x.1 != pq) with
        | none => none
        | some (p', _, _) => (m.around k q p' d).map (· + 1)

/-- A routing-table entry (R416). -/
structure RouteEnt where
  port : Nat
  setDl : Bool
  hops : Nat
  deriving DecidableEq, Repr

/-- Ring mode (R417). -/
def FMap.ringEntry (m : FMap) (n d : Nat) : Option RouteEnt :=
  let ns := m.liveNodes
  let top := ns.getLastD 0
  let best := (m.ports n).foldl (fun (acc : Option (Nat × Nat)) x =>
    match m.around ns.length n x.1 d, acc with
    | some h, none => some (x.1, h)
    | some h, some (p, g) => if h < g then some (x.1, h) else some (p, g)
    | none, a => a) none
  match best, (m.ports top).head? with
  | some (p, h), some (tp, tq, tpq) =>
    some { port := p, setDl := (n == top && p == tp) || (n == tq && p == tpq), hops := h }
  | _, _ => none

/-- Tree level of each node: breadth-first from the lowest live node (R418). -/
def FMap.levels (m : FMap) : Nat → Nat → List (Nat × Nat) → List (Nat × Nat)
  | 0, _, acc => acc
  | k + 1, lvl, acc =>
    let next := ((acc.filter (fun x => x.2 == lvl)).flatMap (fun x => (m.ports x.1).map (fun p => p.2.1))).eraseDups
    m.levels k (lvl + 1) (acc ++ (next.filter (fun n => !acc.any (fun x => x.1 == n))).map (fun n => (n, lvl + 1)))

def FMap.treeLevels (m : FMap) : List (Nat × Nat) :=
  match m.liveNodes with
  | [] => []
  | r :: ns => m.levels ns.length 0 [(r, 0)]

/-- The link direction from `a` to `b` is up (R418). -/
def upDir (lv : List (Nat × Nat)) (a b : Nat) : Bool :=
  let la := look 0 lv a
  let lb := look 0 lv b
  decide (lb < la) || (la == lb && decide (b < a))

/-- Legal distances to a destination: states (node, `DL`) with their distance, grown round by round (R418). -/
def FMap.dists (m : FMap) (lv : List (Nat × Nat)) : Nat → Nat → List (Nat × Nat × Nat) → List (Nat × Nat × Nat)
  | 0, _, acc => acc
  | k + 1, h, acc =>
    let has (x dl : Nat) (l : List (Nat × Nat × Nat)) := l.any (fun t => t.1 == x && t.2.1 == dl)
    let cand := acc.filter (fun t => t.2.2 == h)
    let step (t : Nat × Nat × Nat) : List (Nat × Nat × Nat) :=
      (m.ports t.1).flatMap (fun p =>
        let a := p.2.1
        if upDir lv a t.1 then (if t.2.1 = 0 then [(a, 0, h + 1)] else [])
        else (if t.2.1 = 1 then [(a, 0, h + 1), (a, 1, h + 1)] else []))
    let new := (cand.flatMap step).eraseDups.filter (fun t => !has t.1 t.2.1 acc)
    m.dists lv k (h + 1) (acc ++ new)

/-- Up/down mode (R418). -/
def FMap.treeEntry (m : FMap) (n d dl : Nat) : Option RouteEnt :=
  let lv := m.treeLevels
  let ds := m.dists lv (2 * m.liveNodes.length) 0 [(d, 0, 0), (d, 1, 0)]
  let dist (x l : Nat) : Option Nat := (ds.find? (fun t => t.1 == x && t.2.1 == l)).map (·.2.2)
  match dist n dl with
  | none => none
  | some h =>
    ((m.ports n).find? (fun p =>
      let down := !upDir lv n p.2.1
      if down then decide (dist p.2.1 1 = some (h - 1)) else dl == 0 && decide (dist p.2.1 0 = some (h - 1)))).map
      (fun p => { port := p.1, setDl := !upDir lv n p.2.1, hops := h })

/-- The table entry of node `n` for destination `d` (R416): 0xE this ZV9, 0xF unreachable. -/
def FMap.route (m : FMap) (n d dl : Nat) : RouteEnt :=
  if n = d then { port := 0xE, setDl := false, hops := 0 }
  else if m.live d = false then { port := 0xF, setDl := false, hops := 0 }
  else ((if m.ring then m.ringEntry n d else m.treeEntry n d dl).getD { port := 0xF, setDl := false, hops := 0 })

/-- Greatest number of hops between two live nodes (R446). -/
def FMap.diameter (m : FMap) : Nat :=
  m.liveNodes.foldl (fun acc a => m.liveNodes.foldl (fun acc b => max acc (m.route a b 0).hops) acc) 0

/-- T_dead in µs for a destination at `h` hops (R427). -/
def tDeadUs (base hop h : Nat) : Nat := min (max (base + hop * h) 5) 500000

/-! ### The job table (R500) -/

/-- The job that holds slice `s` of node `n`. -/
def FMap.jobOf (m : FMap) (n s : Nat) : Option Job :=
  m.jobs.find? (fun j => j.slices.any (fun e => e.node == n && e.slice == s))

def FMap.jobEnt (m : FMap) (n s : Nat) : Option JobSlice :=
  (m.jobs.flatMap (·.slices)).find? (fun e => e.node == n && e.slice == s)

/-- The slice bound to a Kellija port of a node (R454). -/
def FMap.boundSlice (m : FMap) (n port : Nat) : Option Nat :=
  ((m.jobs.flatMap (·.slices)).find? (fun e => e.node == n && e.ports.getLsbD port)).map (·.slice)

/-- The unordered-add permission of a slice (R393, R423). -/
def FMap.unord (m : FMap) (n s : Nat) : Bool := s == 0 || (m.jobEnt n s).any (·.unord)

/-- Job number of slice `s` of this ZV9 in the current map; 0 for none. -/
def State.jobNum (s : State) (slice : Nat) : Nat := ((s.mapCur.bind (fun m => m.jobOf s.me slice)).map (·.num)).getD 0

def State.unord (s : State) (node slice : Nat) : Bool :=
  slice == 0 || (match s.mapCur with | some m => m.unord node slice | none => false)

/-- The map this ZV9 holds for an epoch: previous, current or prepared (R416). -/
def State.mapOf (s : State) (e : Nat) : Option FMap :=
  [s.mapCur, s.mapPrep, s.mapPrev].findSome? (fun o => o.bind (fun m => if m.epoch = e then some m else none))

/-- Hops from this ZV9 to a node in the current map, `DL` 0. -/
def State.hopsTo (s : State) (n : Nat) : Nat := (s.mapCur.map (fun m => (m.route s.me n 0).hops)).getD 0

end Sys2Proof.Machine
end

