-- ==== Sys2Proof/Machine/Events.lean ====
section
/-! DEFINITION. What many commands set off: a packet given to the switch core (R484), a freeze (R600 to R604), a fault
record and its alarm (R523 to R531), an interrupt message (R462, R508). -/

namespace Sys2Proof.Machine

/-! ### Arbitration points (R504, R505) -/

/-- The 1 µs window of the local cycle counter. -/
def State.window (s : State) : Nat := s.now / 1800

/-- The first number after `last` in a round. -/
def nextAfter (last : Nat) (xs : List Nat) : Option Nat := ((xs.filter (fun x => decide (last < x))).min?).or xs.min?

/-- The state of a point in the present window. -/
def State.share (s : State) (key : Nat) : Share :=
  let x := look {} s.shares key
  if x.win = s.window then x else { x with win := s.window, served := [] }

/-- The party that a point takes next among those that wait, with its weight, its minimum in 1/256 and the capacity of a window: the next one
below its minimum, else the next by weighted round robin, in which a party keeps its turn for as many units as its weight (R505, log 95).
True: below its minimum. -/
def Share.pick (x : Share) (waiting : List Nat) (wt minOf : Nat → Nat) (cap : Nat) : Option (Nat × Bool) :=
  match nextAfter x.minPos (waiting.filter (fun p => decide (256 * look 0 x.served p < minOf p * cap))) with
  | some p => some (p, true)
  | none =>
    if waiting.contains x.pos && decide (x.used < wt x.pos) then some (x.pos, false)
    else (nextAfter x.pos waiting).map (fun p => (p, false))

/-- A party is served `n` units. -/
def Share.serve (x : Share) (p n : Nat) (below : Bool) (wt : Nat → Nat) : Share :=
  let y := { x with served := put (fun _ => 0) x.served p [look 0 x.served p + n] }
  if below then { y with minPos := p }
  else if p = x.pos ∧ x.used < wt p then { y with used := x.used + n }
  else { y with pos := p, used := n }

def State.setShare (s : State) (key : Nat) (x : Share) : State := { s with shares := put (fun _ => {}) s.shares key [x] }

/-! ### Packets given to the switch core -/

/-- A packet waits at an output, from the internal input 12 (R478, R484). -/
def State.enqueue (s : State) (out : Nat) (p : Pkt) : State :=
  { s with queue := s.queue ++ [{ input := 12, out := out, pkt := p }] }

/-- Kellija port `k` is up (R469). -/
def State.klUp (s : State) (k : Nat) : Bool := s.fldAt f_KL_PORT_STATE k == 2

/-- Quaril port `q` is up (R448). -/
def State.qfUp (s : State) (q : Nat) : Bool := s.fldAt f_QF_PORT_STATE q == 2

/-- A packet for the client of a Kellija port. -/
def State.sendKl (s : State) (k : Nat) (p : KPkt) : State := if s.klUp k then s.enqueue k (.kl p) else s

/-- The Quaril port and `SET_DL` by which a packet of an epoch leaves this ZV9 for a node (R416, R419). -/
def State.outPort (s : State) (epoch dest dl : Nat) : Option (Nat × Bool) :=
  match s.mapOf epoch with
  | none => none
  | some m =>
    let e := m.route s.me dest dl
    if e.port < 8 && s.qfUp e.port then some (e.port, e.setDl) else none

/-- A fenced ZV9 sends nothing on Quaril except heartbeats and `FETCH` (R438). -/
def Pkt.mayLeaveFenced : Pkt → Bool
  | .qf p => p.typ == 0x30
  | .map _ _ _ (.fetch _) _ _ _ => true
  | _ => false

/-- A Quaril packet of this ZV9 on its way: `HOPS` and `DL` as R419 sets them. A packet that no port leads to is dropped
here; a request is answered by its sender's own rule first. -/
def State.sendQf (s : State) (p : QPkt) : State :=
  if s.fenced && !Pkt.mayLeaveFenced (.qf p) then s
  else match s.outPort p.epoch p.dest p.dl with
  | none => s
  | some (port, sd) =>
    s.enqueue (4 + port) (.qf { p with hops := p.hops + 1, dl := if sd then 1 else p.dl })

/-- A map-protocol message to a node, with the tag of what it answers. -/
def State.sendMap (s : State) (dest : Nat) (m : MapMsg) (tag : Nat := 0) : State :=
  if s.fenced && !(Pkt.map s.me dest s.epoch m).mayLeaveFenced then s
  else match s.outPort s.epoch dest 0 with
  | none => s
  | some (port, sd) => s.enqueue (4 + port) (.map s.me dest s.epoch m 1 (if sd then 1 else 0) tag)

/-- A map-protocol message of `src` on every up port: the flood of R435 and R437, and what is sent before routes exist (R441). -/
def State.floodAs (s : State) (src : Nat) (m : MapMsg) : State :=
  let p := Pkt.map src 0xFFFF s.epoch m
  if s.fenced && !p.mayLeaveFenced then s
  else forN 8 s (fun q t => if t.qfUp q then t.enqueue (4 + q) p else t)

/-- A flood of this ZV9's own. -/
def State.floodMap (s : State) (m : MapMsg) : State := s.floodAs s.me m

/-- The live node of a device in a map: a device that rejoined after a fence has an older node that is not live (R438). -/
def FMap.nodeOfDev (m : FMap) (dev : Nat) : Option Nat := (m.nodes.find? (fun e => e.dev == dev && e.state == .live)).map (·.node)

/-- The epoch that a response leaves with: its request's, when that is the current or the prepared one, else the current (R419). -/
def State.rspEpoch (s : State) (e : Nat) : Nat := if e = s.epoch ∨ s.mapPrep.any (fun m => m.epoch == e) then e else s.epoch

/-- A blank Quaril packet of this ZV9 to a node, stamped with the current epoch. -/
def State.mkQ (s : State) (dest typ tc : Nat) (payload : List Byte) : QPkt :=
  { dest := dest, src := s.me, epoch := s.epoch, hops := 0, tc := tc, dl := 0, stream := 0x80F8, typ := typ, ord := 0, scope := 0,
    poison := false, addr := 0, slice := 0, tag := 0, aux := 0, rsvd := 0, rref := none,
    payload := payload }

/-- The leader of the current map, when it is another node. -/
def State.otherLeader (s : State) : Option Nat :=
  s.mapCur.bind (fun m => if m.leader = s.me then none else some m.leader)

/-! ### Freeze -/

/-- The freeze of R601: what `FRZ_STATUS`, `FRZ_STAMP`, `FRZ_AON` and `FRZ_DOMAINS` then hold (R602, R604, R616). A trigger that
meets a frozen ZV9 is recorded in the AON cycle of the first, and ignored after it (R604). -/
def State.freeze (s : State) (trigger : Fld) (source cause : Nat) : State :=
  if s.resetHeld || s.porHeld then s
  else if s.frozen then (if s.fld f_FRZ_AON_AON = s.aon / 18 % 2 ^ 64 then s.setFld trigger 1 else s)
  else
    ((((((s.setFld trigger 1).setFld f_FRZ_STATUS_ALARM_SOURCE source).setFld f_FRZ_STATUS_ALARM_CAUSE cause).setFld
      f_FRZ_STATUS_FROZEN 1).setFld f_FRZ_STAMP_STAMP s.now).setFld f_FRZ_AON_AON (s.aon / 18)).setFld f_FRZ_DOMAINS_STOPPED 0xFFFFFF

/-! ### Events -/

/-- What raises an event says of it (R524, R525). -/
structure Event where
  cause : Nat
  status : Nat
  source : Nat
  slice : Nat
  addr : Option Nat
  detail : Nat
  deriving DecidableEq, Repr

/-- Causes that are alarms (R524). -/
def isAlarm (cause : Nat) : Bool :=
  [0x01, 0x03, 0x05, 0x06, 0x07, 0x08, 0x09, 0x0A, 0x0B, 0x0C, 0x0F, 0x10, 0x11, 0x12, 0x14, 0x15, 0x16, 0x17, 0x18, 0x19].contains cause

/-- The context of R526; the four loads are free values at `s.fresh`. -/
def State.context (s : State) : List Byte :=
  let cap := maskOf 14 (fun i => s.fldAt f_PWR_CAP_ACTIVE i == 1)
  [byte (s.fld f_PWR_SENSE_T_LOGIC), byte (s.fld f_PWR_SENSE_T_STACK), byte (s.fld f_PWR_SENSE_STACK), 0#8] ++ leBytes 2 cap ++
  [byte (Config.freeNat s.fresh % 101), byte (Config.freeNat (s.fresh + 1) % 101), byte (Config.freeNat (s.fresh + 2) % 101),
   byte (Config.freeNat (s.fresh + 3) % 101)] ++ leBytes 2 (s.fld f_PWR_SENSE_VDD_MV) ++ [0#8, 0#8, 0#8, 0#8]

/-- The 64 bytes of a fault record (R525). -/
def State.faultRecord (s : State) (e : Event) (seq : Nat) : List Byte :=
  let job := if e.slice < 64 then s.jobNum e.slice else 0
  let jv := job != 0
  let flags := (if isAlarm e.cause then 1 else 0) + (if e.addr.isSome then 2 else 0) + (if jv then 4 else 0)
  leBytes 8 seq ++ leBytes 8 s.now ++ [byte e.cause, byte e.status] ++ leBytes 2 e.source ++ [byte e.slice, byte flags] ++
  leBytes 2 s.me ++ leBytes 4 job ++ leBytes 4 s.epoch ++ leBytes 8 (e.addr.getD 0) ++ leBytes 8 e.detail ++ s.context

/-- A record that this ZV9 writes waits at its bank: the directory lists one of its lines, or accesses to its bytes wait there (R348, R391). -/
def State.recordWaits (s : State) (a n : Nat) : Bool :=
  s.dir.any (fun e => overlap a n (64 * e.line) 64) || (s.fillQ ++ s.bankQ).any (fun w => w.over a n)

/-- A unit of this ZV9 writes a record: at once, or as an access queued at the bank, which recalls the line's copies first (R348, R391). -/
def State.recordWrite (s : State) (a : Nat) (bs : List Byte) : State :=
  if s.recordWaits a bs.length then
    { s with bankQ := s.bankQ ++ [{ acc := { org := .none, op := .write bs false, addr := a, slice := 0, node := s.me }, bank := bank a }] }
  else s.memWrite a bs

/-- Append a 64-byte record to the fault log (R527). -/
def State.logWrite (s : State) (rec64 : List Byte) : State :=
  let l2 := s.fld f_FLT_LOG_RING_LOG2
  if l2 = 0 then s.incSat f_FLT_LOG_STAT_UNLOGGED
  else
    let n := s.fld f_FLT_LOG_IDX_PROD
    let cons := s.fld f_FLT_LOG_IDX_CONS
    let s1 := if sub32 n cons = 2 ^ l2
      then (s.setFld f_FLT_LOG_IDX_CONS (cons + 1)).incSat f_FLT_LOG_STAT_OVERWRITTEN else s
    let a := s.fld f_FLT_LOG_RING_BASE * 4096 + 64 * (n % 2 ^ l2)
    (s1.recordWrite a rec64).setFld f_FLT_LOG_IDX_PROD (n + 1)

/-- Valid entries of an alarm table whose word 0 lies at `base`: (entry, word 0). -/
def State.alarmEntries (s : State) (base : Nat) : List (Nat × Word) :=
  (s.regs.filter (fun e => decide (base ≤ e.1 ∧ e.1 < base + 0x20000) && e.1 % 0x20 == 0 && bit e.2.toNat 0)).map
    (fun e => ((e.1 - base) / 0x20, e.2))

/-- The entry that counts an alarm of a key, in a table at `base` (R529): the keyed entry, the lowest free keyed entry, or
the aggregate entry of the cause; and whether it was aggregated. -/
def State.alarmSlot (s : State) (base node source cause : Nat) : Nat × Bool :=
  let es := s.alarmEntries base
  let key := node * 2 ^ 48 + source * 2 ^ 32 + cause * 2 ^ 24
  match es.find? (fun e => decide (256 ≤ e.1) && e.2.toNat / 2 ^ 24 * 2 ^ 24 == key) with
  | some e => (e.1, false)
  | none =>
    match ((List.range 3840).map (fun i => i + 256)).find? (fun i => !es.any (fun e => e.1 == i)) with
    | some i => (i, false)
    | none => (cause, true)

/-- Add `n` to entry `i` of the table at `base` (R529, R554). `first` and `last` are the stamps. -/
def State.alarmAdd (s : State) (base i node source cause n first last : Nat) : State :=
  let a := base + 0x20 * i
  let w0 := s.word a
  let w1 := s.word (a + 8)
  let fresh := bits w0.toNat 0 1 == 0
  let count := min (bits w1.toNat 0 32 + n) 0xFFFFFFFF
  let sent := bits w1.toNat 32 32
  let key := if i < 256 then (if base = 0x160000 then 0xFFFF else node) * 2 ^ 48 + 0xFFFF * 2 ^ 32 + cause * 2 ^ 24
    else node * 2 ^ 48 + source * 2 ^ 32 + cause * 2 ^ 24
  let pend := if base = 0x140000 ∧ count ≠ sent then 2 else 0
  let s1 := (s.setWord a (BitVec.ofNat 64 (key + pend + 1))).setWord (a + 8) (BitVec.ofNat 64 (sent * 2 ^ 32 + count))
  (if fresh then s1.setWord (a + 16) (BitVec.ofNat 64 first) else s1).setWord (a + 24) (BitVec.ofNat 64 last)

/-- Count an alarm in the alarm table, and in the domain table when this ZV9 leads (R529, R531). -/
def State.countAlarm (s : State) (source cause detail : Nat) : State :=
  let (i, agg) := s.alarmSlot 0x140000 s.me source cause
  let s1 := s.alarmAdd 0x140000 i s.me source cause 1 s.now s.now
  let s2 := s1.addWrap f_FLT_ALARM_STAT_ALARMS 1
  let s3 := if agg then s2.incSat f_FLT_ALARM_STAT_AGGREGATED else s2
  let n := ((s3.alarmEntries 0x140000).filter (fun e => decide (256 ≤ e.1))).length
  let s4 := s3.setFld f_FLT_ALARM_STAT_ENTRIES n
  let s5 := { s4 with alarmExtra := { entry := i, detail := detail, context := s.context } :: del s4.alarmExtra (fun x => x.entry == i) }
  if s5.leader then
    let (j, _) := s5.alarmSlot 0x160000 s5.me source cause
    s5.alarmAdd 0x160000 j s5.me source cause 1 s5.now s5.now
  else s5

/-- The record of an event, its count, its forwarding and its freeze, without the interrupt (R523, R525, R527, R531, R600). -/
def State.record (s : State) (e : Event) : State :=
  let seq := s.fld f_FLT_SEQ_SEQ + 1
  let r := s.faultRecord e seq
  let s1 := (s.setFld f_FLT_SEQ_SEQ seq).logWrite r
  let s2 := if isAlarm e.cause then s1.countAlarm e.source e.cause e.detail else s1
  let s3 := { s2 with fresh := s2.fresh + 4 }
  let s4 := match s3.otherLeader with
    | some l => if s.flag f_FLT_CTL_FWD_LOG && s.fld f_FLT_LOG_RING_LOG2 != 0 then s3.sendQf (s3.mkQ l 0x39 7 r) else s3
    | none => s3
  if isAlarm e.cause && decide (e.cause < 64) && bit (s.fld f_FRZ_ALARM_CAUSES) e.cause
  then s4.freeze f_FRZ_STATUS_ALARM e.source e.cause else s4

/-- The slice bound to a Kellija port (R454); none when no slice is bound. -/
def State.bound (s : State) (k : Nat) : Option Nat :=
  let b := s.fldAt f_KL_PORT_BOUND_SLICE k
  if b < 64 then some b else none

def State.klClient (s : State) (k : Nat) : Option KlClient := s.klClients.find? (fun c => c.port == k)

/-- `n` bytes from a client address lie wholly in the window of the port (R453). -/
def State.inWindow (s : State) (k a n : Nat) : Bool :=
  match s.klClient k with
  | some c => decide (c.winBase ≤ a ∧ a + n ≤ c.winBase + c.winLen)
  | none => false

/-- A Kellija packet of this ZV9 to its client (R455, R456). -/
def mkKl (typ tc tag addr aux : Nat) (payload : List Byte) : KPkt :=
  { typ := typ, ord := 0, scope := 0, sync := 0, poison := false, stream := 0, tc := tc, tag := tag, addr := addr, status := 0,
    detailKind := 0, aux := aux, detail := 0, rsvd := none, payload := payload }

/-- A message follows each record that is written, with `FLT_CTL.INT_EN` 1 (R527, R528). -/
def State.logTells (s : State) : Bool := s.flag f_FLT_CTL_INT_EN && s.fld f_FLT_LOG_RING_LOG2 != 0

/-- A record that is no alarm was written: its message is due (R528). -/
def State.logDue (s : State) : State := if s.logTells then { s with logIntDue := true } else s

/-- An interrupt message on vector `v` of slice `sl` (R508, R462); a dropped message is recorded as cause 0x13. -/
def State.message (s : State) (sl v : Nat) : State :=
  let i := 256 * sl + v
  if s.fldAt f_SLV_HI_ENABLE i = 0 then s.incSatAt f_SLC_STATUS_INT_OFF_DROPS sl
  else if s.fldAt f_SLV_HI_MASK i = 1 then s.setFldAt f_SLV_HI_PENDING i 1
  else
    let k := s.fldAt f_SLV_HI_PORT i
    let a := s.fldAt f_SLV_LO_ADDR i * 4
    if s.bound k ≠ some sl ∨ s.klUp k = false ∨ s.inWindow k a 4 = false then
      ((s.incSatAt f_KL_PORT_ERR_INT_DROPS k).record
        { cause := 0x13, status := 0, source := 9 * 4096 + k, slice := sl, addr := none, detail := sl + 256 * v }).logDue
    else
      let p := mkKl 0x44 4 s.nextTag a (sl + 256 * v) (leBytes 4 (s.fldAt f_SLV_HI_DATA i))
      let s1 := s.sendKl k p
      { s1 with nextTag := s.nextTag + 1, klOuts := s1.klOuts ++ [{ port := k, tag := s.nextTag, why := .interrupt sl v, left := 0, got := [], bad := [] }] }

/-- A record was written (R528): for an alarm its message is sent at once and covers every record before it; for another it is due. -/
def State.logTell (s : State) (alarm : Bool) : State :=
  if s.logTells && alarm then ({ s with logIntDue := false }).message 0 (s.fld f_FLT_CTL_VECTOR) else s.logDue

/-- Raise an event (R523): its record, then the message of R528. -/
def State.raise (s : State) (e : Event) : State := (s.record e).logTell (isAlarm e.cause)

/-- An event without slice, status or address. -/
def ev (cause source detail : Nat) : Event :=
  { cause := cause, status := 0, source := source, slice := 0xFF, addr := none, detail := detail }

end Sys2Proof.Machine
end

