-- ==== Sys2Proof/Machine/Packets.lean ====
section
/-! DEFINITION. Packets as bytes, flits and cells (R408, R409, R455, R477), their class and lane (R412, R413), and what the links count of them:
credits held and owed (R479), packets that have come and are handled. -/

namespace Sys2Proof.Machine

/-! ### Packets as bytes (R408, R409, R455, R477) -/

def QPkt.bytes (p : QPkt) : List Byte :=
  leBytes 2 p.dest ++ leBytes 2 p.src ++ leBytes 4 p.epoch ++ leBytes 2 (p.hops + 1024 * p.tc + 8192 * p.dl) ++ leBytes 2 p.stream ++
  [byte p.typ, byte (p.ord + 4 * p.scope + (if p.poison then 16 else 0))] ++ leBytes 2 p.payload.length ++
  leBytes 8 (p.addr + 2 ^ 50 * p.slice) ++ leBytes 4 p.tag ++ leBytes 4 p.aux ++ p.payload

def KPkt.bytes (p : KPkt) : List Byte :=
  [byte p.typ, byte (p.ord + 4 * p.scope + 16 * p.sync + (if p.poison then 64 else 0)), byte p.stream, byte p.tc] ++ leBytes 4 p.tag ++
  leBytes 8 p.addr ++ leBytes 2 p.payload.length ++ [byte p.status, byte p.detailKind] ++ leBytes 4 p.aux ++ leBytes 8 p.detail ++ p.payload

/-- Subtype of a map-protocol message (R439). -/
def MapMsg.code : MapMsg → Nat
  | .voteReq _ _ => 1 | .vote _ _ _ => 2 | .beat _ _ => 3 | .replicate _ => 4 | .replAck _ => 5 | .prepare _ => 6 | .prepareAck _ _ => 7
  | .commit _ => 8 | .report _ => 9 | .probe => 10 | .probeAnswer => 10 | .fetch _ => 11 | .mapData _ => 12 | .topo _ _ => 13

/-- Bytes of a map as a message carries it: its header, an entry each for a node and a link, a job's header and slice entries (R434, R500). -/
def FMap.len (m : FMap) : Nat := 24 + 2 * m.keepers.length + 16 * m.nodes.length + 8 * m.links.length + (m.jobs.map (fun j => 16 + 8 * j.slices.length)).sum

/-- Payload bytes of a map-protocol message: the fields of R439 at their widths, at most the 1,024 of a packet (log 109). -/
def MapMsg.len : MapMsg → Nat
  | .voteReq _ _ | .beat _ _ | .prepareAck _ _ => 8
  | .vote _ _ _ => 5
  | .replicate m | .prepare m | .mapData m => min 1024 m.len
  | .replAck _ | .commit _ | .fetch _ => 4
  | .probe => 0
  | .probeAnswer => 1
  | .report (.compose _ _ _ _ es _) => min 1024 (16 + 8 * es.length)
  | .report _ => 16
  | .topo _ ls => min 1024 (8 + 16 * ls.length)

/-- Bytes of a packet; those of a map-protocol message are free values, since the manual gives it no layout. -/
def Pkt.bytes : Pkt → List Byte
  | .kl p => p.bytes
  | .qf p => p.bytes
  | .map src dest epoch m hops dl tag =>
    leBytes 2 dest ++ leBytes 2 src ++ leBytes 4 epoch ++ leBytes 2 (hops + 1024 * 6 + 8192 * dl) ++ leBytes 2 0x80F8 ++ [0x31#8, 0#8] ++
    leBytes 2 m.len ++ leBytes 8 0 ++ leBytes 4 tag ++ leBytes 4 m.code ++ (List.range m.len).map Config.freeByte

def Pkt.flits (p : Pkt) : Nat := ceilDiv p.bytes.length 64

/-- Cells of a packet (R477). -/
def Pkt.cells (p : Pkt) : Nat := ceilDiv p.flits 4

def Pkt.tc : Pkt → Nat
  | .kl p => p.tc
  | .qf p => p.tc
  | .map _ _ _ _ _ _ _ => 6

/-- Virtual lane on a Quaril port (R413); a Kellija port has lane 0 only. -/
def Pkt.vl : Pkt → Nat
  | .kl _ => 0
  | .qf p => 2 * (p.epoch % 3) + p.dl
  | .map _ _ e _ _ dl _ => 2 * (e % 3) + dl

def Pkt.slice : Pkt → Nat
  | .qf p => p.slice
  | _ => 0xFF

/-! ### Links and their credits -/

def State.link (s : State) (port : Nat) : Option Link := s.links.find? (fun l => l.port == port)

def State.setLink (s : State) (l : Link) : State := { s with links := upd s.links (fun x => x.port == l.port) (fun _ => l) }

/-- Add to a count per class and lane. -/
def addCells (l : List (Nat × Nat × Nat)) (tc vl n : Nat) : List (Nat × Nat × Nat) :=
  match l.find? (fun c => c.1 == tc && c.2.1 == vl) with
  | some _ => l.map (fun (c : Nat × Nat × Nat) => if c.1 = tc ∧ c.2.1 = vl then (tc, vl, c.2.2 + n) else c)
  | none => l ++ [(tc, vl, n)]

def cellsOf (l : List (Nat × Nat × Nat)) (tc vl : Nat) : Nat := ((l.find? (fun c => c.1 == tc && c.2.1 == vl)).map (·.2.2)).getD 0

/-- Cells of a class and lane return to the peer as credits (R479). -/
def State.oweCells (s : State) (input tc vl n : Nat) : State :=
  match s.link input with
  | some l => s.setLink { l with owed := addCells l.owed tc vl n }
  | none => s

/-- The cells of a packet of an input return. -/
def State.freeCells (s : State) (input : Nat) (p : Pkt) : State := s.oweCells input p.tc p.vl p.cells

/-- Lane in which a waiting packet came, whose allotment holds it (R478). -/
def Queued.inLane (q : Queued) : Nat := q.lane.getD q.pkt.vl

/-- A packet has left its output: its cells return to the allotment of the lane that it came in. -/
def State.freeQueued (s : State) (q : Queued) : State := s.oweCells q.input q.pkt.tc q.inLane q.pkt.cells

/-- A packet that was received is processed: the first such one leaves its input, which owes its cells. -/
def State.takeRx (s : State) (p : Pkt) : State :=
  match s.rx.find? (fun x => x.2 == p) with
  | some (port, _) => { s with rx := s.rx.erase (port, p) }.freeCells port p
  | none => s

/-- The tag of a map-protocol message that was received: its answer carries it (R409). -/
def State.mapTag (s : State) (m : MapMsg) : Nat :=
  ((s.rx.findSome? (fun x => match x.2 with | .map _ _ _ y _ _ tag => if y == m then some tag else none | _ => none))).getD 0

/-- A map-protocol message that was received is processed: the first such packet leaves its input. -/
def State.takeMap (s : State) (m : MapMsg) : State :=
  match s.rx.find? (fun x => match x.2 with | .map _ _ _ y _ _ _ => y == m | _ => false) with
  | some (port, p) => { s with rx := s.rx.erase (port, p) }.freeCells port p
  | none => s

end Sys2Proof.Machine
end

