-- ==== Sys2Proof/Machine/Operands.lean ====
section
/-! DEFINITION. Operand forms: statuses (R94) and `DETAIL` kinds (R93), the answer of an access that may fail or wait,
addresses cut into tiles, lines and blocks, the fields of a descriptor (R75, R78), virtual addresses (R319 to R323) and
region references (R48 to R50). -/

namespace Sys2Proof.Machine

/-! ### Status codes (R94) and abort causes (R95) -/

def stOk : Nat := 0x00
def stOkShort : Nat := 0x01
def eFormat : Nat := 0x10
def eRange : Nat := 0x11
def eAlign : Nat := 0x12
def ePerm : Nat := 0x13
def eQuota : Nat := 0x14
def eXlate : Nat := 0x15
def eVersion : Nat := 0x16
def eRevoked : Nat := 0x17
def eStaleEpoch : Nat := 0x18
def eTimeout : Nat := 0x20
def eDeadTarget : Nat := 0x21
def ePoison : Nat := 0x22
def eIntegrity : Nat := 0x23
def eAborted : Nat := 0x30
def eFenced : Nat := 0x31

/-- `DETAIL` of kind 7: node, phase, source (R93). -/
def detail7 (node phase source : Nat) : Nat := node % 65536 + 65536 * (phase % 256) + 16777216 * source

/-- `DETAIL` of kind 9: tier and tiles lacking (R93). -/
def detail9 (tier lacking : Nat) : Nat := tier + two32 * lacking

/-! ### The answer of an access -/

/-- A status with its `DETAIL` (R93, R94). -/
structure Fail where
  status : Nat
  kind : Nat
  detail : Nat
  deriving DecidableEq, Repr

/-- What an access waits for: a fill of a frame (R279), in a phase of its opcode (R93), room in the cache part (R282), the end of a hold or
a recall of a line (R391), the answer of another home, for an address or for a region reference; `held` names the virtual range of a leaf
that the waiting access was translated through (R331). -/
inductive Need where
  | fill (frame : Nat) (phase : Nat := 0)
  | room
  | recall (line : Nat) (own : Bool)
  | held (va len : Nat)
  | remote (node addr len : Nat) (pages : List (Nat × Nat) := [])
  | version (node : Nat) (rref : Nat × Nat × Nat) (off len : Nat)
  /-- the part of a unit's write that lies at another home: unit, address of the write, home, local address, bytes -/
  | put (unit va node addr : Nat) (bytes : List Byte) (pages : List (Nat × Nat))
  deriving DecidableEq, Repr

/-- Why an access gives no answer now. -/
inductive Stop where
  | err (f : Fail)
  | wait (ns : List Need)
  deriving DecidableEq, Repr

/-- The answer of an access: a value, a status, or a wait. -/
abbrev Res (α : Type) := Except Stop α

def fail {α : Type} (status kind detail : Nat) : Res α := .error (.err ⟨status, kind, detail⟩)

/-- A failed check of one condition. -/
def check (c : Bool) (status kind detail : Nat) : Res Unit := if c then .ok () else fail status kind detail

/-- The first of a list of checks that fails. -/
def checks : List (Bool × Fail) → Res Unit
  | [] => .ok ()
  | (c, f) :: r => if c then checks r else .error (.err f)

/-- The answers of several accesses made together: the first status in order wins, then all waits together. -/
def gather {α : Type} (rs : List (Res α)) : Res (List α) :=
  match rs.findSome? (fun r => match r with | .error (.err f) => some f | _ => none) with
  | some f => .error (.err f)
  | none =>
    match rs.flatMap (fun r => match r with | .error (.wait ns) => ns | _ => []) with
    | [] => .ok (rs.filterMap (fun r => match r with | .ok a => some a | _ => none))
    | ns => .error (.wait ns)

/-! ### Cutting ranges -/

/-- `n` bytes from `a`, cut at multiples of `g`: (start, length). -/
def cut (g a n : Nat) : List (Nat × Nat) :=
  (List.range ((a % g + n + g - 1) / g)).map (fun k =>
    let lo := max a ((a / g + k) * g)
    (lo, min (a + n) ((a / g + k + 1) * g) - lo))

/-- `n` bytes from `a` lie in the direct part that `TIER_SPLIT` names, outside the pool. -/
def State.directArea (s : State) (a n : Nat) : Bool :=
  decide (directBase ≤ a ∧ a + n ≤ directBase + s.fld f_TIER_SPLIT_DIRECT_GIB * gib) && !overlap a (max 1 n) s.poolBase s.poolLen

/-- A ring of `n` bytes of records at `a` lies wholly in the scratchpad window, or in the direct part outside the pool (R343, R549, R594, R614). -/
def State.ringFits (s : State) (a n : Nat) : Bool := decide (a + n ≤ 0x180000000) || s.directArea a n

/-! ### Descriptors -/

/-- Opcode, name, first format, least and most units (R78). -/
structure OpRow where
  code : Nat
  fmt : Nat
  lo : Nat
  hi : Nat
  deriving DecidableEq, Repr

/-- The opcodes of R78. -/
def opTable : List OpRow := [
  ⟨0x00, 1, 1, 1⟩, ⟨0x01, 1, 1, 1⟩, ⟨0x02, 1, 1, 1⟩, ⟨0x10, 2, 1, 1⟩, ⟨0x11, 2, 2, 4⟩, ⟨0x12, 3, 2, 4⟩,
  ⟨0x13, 3, 2, 4⟩, ⟨0x14, 2, 1, 2⟩, ⟨0x20, 1, 1, 2⟩, ⟨0x28, 1, 1, 1⟩, ⟨0x29, 1, 1, 2⟩, ⟨0x2A, 1, 1, 1⟩,
  ⟨0x30, 1, 1, 1⟩, ⟨0x31, 1, 1, 1⟩, ⟨0x38, 1, 1, 1⟩, ⟨0x39, 1, 1, 1⟩, ⟨0x3A, 1, 1, 1⟩]

def opRow (code : Nat) : Option OpRow := opTable.find? (fun r => r.code == code)

def Desc.op (d : Desc) : Nat := leAt d.raw 0 1
def Desc.flags (d : Desc) : Nat := leAt d.raw 1 1
def Desc.tag (d : Desc) : Nat := leAt d.raw 4 4
def Desc.intr (d : Desc) : Bool := bit d.flags 0
def Desc.waits (d : Desc) : Bool := bit d.flags 1
/-- Body field of `w` bytes at offset `o` (offsets from byte 0 of the header). -/
def Desc.at (d : Desc) (o w : Nat) : Nat := leAt d.raw o w

/-- A region reference (R48). -/
structure RRef where
  offset : Nat
  node : Nat
  region : Nat
  sel : Nat
  version : Nat
  rsvd : Nat
  deriving DecidableEq, Repr

def rrefAt (raw : List Byte) (o : Nat) : RRef :=
  let w := leAt raw (o + 8) 4
  { offset := leAt raw o 6, node := leAt raw (o + 6) 2, region := bits w 0 20, sel := bits w 20 2, version := leAt raw (o + 12) 4,
    rsvd := bits w 22 10 }

def State.desc (s : State) (k : DKey) : Option Desc := s.descs.find? (fun d => d.key == k)

def State.setDesc (s : State) (d : Desc) : State := { s with descs := upd s.descs (fun x => x.key == d.key) (fun _ => d) }

def State.ring (s : State) (slice num : Nat) : Option Ring := s.rings.find? (fun r => r.slice == slice && r.num == num)

def State.setRing (s : State) (r : Ring) : State :=
  { s with rings := upd s.rings (fun x => x.slice == r.slice && x.num == r.num) (fun _ => r) }

/-- The slice is configured (R497). -/
def State.configured (s : State) (slice : Nat) : Bool := decide (slice < 64) && s.fldAt f_SLC_CFG_ENABLE slice == 1

end Sys2Proof.Machine
end

