-- ==== Sys2Proof/Machine/Counters.lean ====
section
/-! DEFINITION. Event counters (R589 to R591), Scrivener (R595 to R598) and the rings of diagnostic records. An occurrence counts as
one cycle in which its event is true; what happens in every cycle is counted for the instances of the STORE domain, whose cycles the model has
(log 33). -/

namespace Sys2Proof.Machine

/-- Events of each unit kind (R590). -/
def obsEvents (kind : Nat) : Nat :=
  match kind with
  | 0 => 2 | 1 => 2 | 2 => 3 | 3 => 3 | 4 => 2 | 5 => 1 | 6 => 4 | 7 => 3 | 8 => 1 | 9 => 4 | 10 => 2 | 11 => 2 | 12 => 1 | _ => 0

/-- Instances of each unit kind (R525, R590). -/
def obsInstances (kind : Nat) : Nat :=
  match kind with
  | 0 => 1 | 1 => 64 | 2 => 8 | 3 => 16 | 4 => 8 | 5 => 32 | 6 => 48 | 7 => 384 | 8 => 256 | 9 => 12 | 10 => 8 | 11 => 1024 | 12 => 4
  | _ => 0

/-- Events attributed to a slice (R590). -/
def obsSliced (kind event : Nat) : Bool :=
  match kind, event with
  | 0, _ | 8, _ | 12, _ => false
  | 6, e => e == 1
  | 7, e => e == 1 || e == 2
  | 9, e => e == 1 || e == 2
  | _, _ => true

/-- Counter `i` counts this event (R589). -/
def State.obsMatch (s : State) (i kind inst event slice : Nat) : Bool :=
  s.fldAt f_OBS_SEL_ENABLE i == 1 && s.fldAt f_OBS_SEL_KIND i == kind && s.fldAt f_OBS_SEL_EVENT i == event &&
  (s.fldAt f_OBS_SEL_INSTANCE i == 0xFFF || s.fldAt f_OBS_SEL_INSTANCE i == inst) &&
  (s.fldAt f_OBS_SEL_SLICE i == 0xFF || (obsSliced kind event && s.fldAt f_OBS_SEL_SLICE i == slice))

/-- An event with value `v` in one cycle of its instance (R589). -/
def State.obs (s : State) (kind inst event slice v : Nat) : State :=
  if v = 0 then s
  else forN 64 s (fun i t =>
    if s.obsMatch i kind inst event slice then
      let add := match s.fldAt f_OBS_SEL_MODE i with
        | 2 => v
        | 1 => if s.fldAt f_OBS_SEL_INVERT i = 1 then 0 else 1
        | _ => 1
      t.setFldAt f_OBS_CTR_COUNT i (t.fldAt f_OBS_CTR_COUNT i + add)
    else t)

/-- An event that lasts goes from `was` to `is`: counters in edge mode see it (R589). -/
def State.obsEdge (s : State) (kind inst event : Nat) (was is : Bool) : State :=
  if was == is then s
  else forN 64 s (fun i t =>
    if s.obsMatch i kind inst event 0xFF && s.fldAt f_OBS_SEL_MODE i == 0 && (s.fldAt f_OBS_SEL_INVERT i == 1) != is then
      t.setFldAt f_OBS_CTR_COUNT i (t.fldAt f_OBS_CTR_COUNT i + 1)
    else t)

/-- An array group or stack is under a power cap (R590). -/
def State.capped (s : State) : Bool := (List.range 14).any (fun i => s.fldAt f_PWR_CAP_ACTIVE i == 1)

/-- Retry slots of a bank in use (R590). -/
def State.slotsOf (s : State) (b : Nat) : Nat := (s.slots.filter (fun x => x.bank == b)).length

/-- Kinds whose instances the STORE clock drives: the device, home banks and store slices (R590). -/
def storeKind (kind : Nat) : Bool := kind == 0 || kind == 6 || kind == 8

/-- The value of an event of such a kind in a cycle in which no command runs (R590). -/
def State.cycleVal (s : State) (kind inst event : Nat) : Nat :=
  match kind, event with
  | 0, 1 => 1
  | 0, 2 => if s.capped then 1 else 0
  | 6, 4 => s.slotsOf inst
  | _, _ => 0

/-- What counter `i` adds for one instance in such a cycle (R589). None of these events, as it stands there, is of a slice. -/
def State.cycleAdd (s : State) (i inst : Nat) : Nat :=
  let v := if s.fldAt f_OBS_SEL_SLICE i = 0xFF then s.cycleVal (s.fldAt f_OBS_SEL_KIND i) inst (s.fldAt f_OBS_SEL_EVENT i) else 0
  match s.fldAt f_OBS_SEL_MODE i with
  | 1 => if (v != 0) != (s.fldAt f_OBS_SEL_INVERT i == 1) then 1 else 0
  | 2 => v
  | _ => 0

/-- One cycle of the STORE domain passes at the counters (R589, R590). -/
def State.obsCycle (s : State) : State :=
  forN 64 s (fun i t =>
    let kind := s.fldAt f_OBS_SEL_KIND i
    if s.fldAt f_OBS_SEL_ENABLE i == 1 && storeKind kind then
      let insts := if s.fldAt f_OBS_SEL_INSTANCE i = 0xFFF then List.range (obsInstances kind) else [s.fldAt f_OBS_SEL_INSTANCE i]
      t.setFldAt f_OBS_CTR_COUNT i (t.fldAt f_OBS_CTR_COUNT i + (insts.map (s.cycleAdd i)).sum)
    else t)

/-! ### Rings of diagnostic records (R527, R594, R598) -/

/-- The LFSR of R596: x^31 + x^28 + 1, one step. -/
def lfsrStep (x : BitVec 31) : BitVec 31 := (x <<< 1) ||| (if x.getLsbD 30 != x.getLsbD 27 then 1#31 else 0#31)

/-- Occurrences to the next sample with `JITTER` 1 (R596). -/
def State.scrGap (s : State) : State × Nat :=
  let n := s.fld f_SCR_CTL_LOG2_N
  if s.fld f_SCR_CTL_JITTER = 1 ∧ 1 ≤ n then
    let x := lfsrStep s.scrLfsr
    ({ s with scrLfsr := x }, 2 ^ (n - 1) + x.toNat % 2 ^ n)
  else (s, 2 ^ n)

/-- An occurrence at a sampling point (R595 to R598); `SEQ` counts every sample, a dropped one too (log 102). -/
def State.scriv (s : State) (point slice source since addr a b : Nat) : State :=
  if s.fld f_SCR_CTL_ENABLE = 0 ∨ s.fld f_SCR_CTL_POINT ≠ point ∨
     (s.fld f_SCR_CTL_SLICE ≠ 0xFF ∧ s.fld f_SCR_CTL_SLICE ≠ slice) then s
  else
    let c := s.scrCount + 1
    let s1 := { s with scrCount := c }
    let jit := s.fld f_SCR_CTL_JITTER = 1 ∧ 1 ≤ s.fld f_SCR_CTL_LOG2_N
    let n := 2 ^ s.fld f_SCR_CTL_LOG2_N
    if (if jit then c ≠ s.scrNext else c % n ≠ n - 1) then s1
    else
      let (s2, gap) := if jit then s1.scrGap else (s1, n)
      let s3 := { s2 with scrNext := c + gap, scrSeq := s.scrSeq + 1 }
      if s.scrLast.any (fun t => decide (s.now < t + 8)) then s3.incSat f_SCR_STAT_MISSED
      else
        let prod := s.fld f_SCR_IDX_PROD
        let l2 := s.fld f_SCR_RING_LOG2
        let s4 := { s3 with scrLast := some s.now }
        if sub32 prod (s.fld f_SCR_IDX_CONS) = 2 ^ l2 then s4.incSat f_SCR_STAT_DROPS
        else
          let r := leBytes 8 (s.scrSeq + 1) ++ leBytes 8 s.now ++ [byte point, byte slice] ++ leBytes 2 source ++
            leBytes 4 (min (s.now - since) (two32 - 1)) ++ leBytes 8 addr ++ leBytes 8 a ++ leBytes 8 b ++ leBytes 8 c ++ leBytes 8 0
          (s4.recordWrite (s.fld f_SCR_RING_BASE * 4096 + 64 * (prod % 2 ^ l2)) r).setFld f_SCR_IDX_PROD (prod + 1)

/-- Seed the LFSR and zero the counts when `ENABLE` is set (R596). -/
def State.scrStart (s : State) : State :=
  let seed := s.fld f_SCR_CTL_SEED
  let s1 := { s with scrCount := 0, scrSeq := 0, scrLfsr := BitVec.ofNat 31 (if seed = 0 then 1 else seed), scrLast := none }
  let (s2, gap) := s1.scrGap
  { s2 with scrNext := gap }

end Sys2Proof.Machine
end

