-- ==== Sys2Proof/Machine/Tiers.lean ====
section
/-! DEFINITION. Frames, tiles and the cache part (R270 to R287, R290, R300, R306): what a local address names, reading and
writing a tile through its frame, allocation under a quota, copy at the first write after a cut (R51), fills and lost tiles. -/

namespace Sys2Proof.Machine

/-! ### What a local address names (R35, R36, R42, R272, R273) -/

inductive Place where
  | scratch | direct | table | setup | none
  | tile (t : TRef)
  deriving DecidableEq, Repr

/-- The live region that holds an address. -/
def State.regionAt (s : State) (a : Nat) : Option Region :=
  s.regions.find? (fun r => !r.deleting && decide (r.base ≤ a ∧ a < r.base + r.size * tileBytes))

def State.extentAt (s : State) (a : Nat) : Option Extent :=
  s.extents.find? (fun e => decide (e.base ≤ a ∧ a < e.base + e.tiles * tileBytes))

/-- The live region of a number. -/
def State.region (s : State) (num : Nat) : Option Region := s.regions.find? (fun r => r.num == num && !r.deleting)

def State.extent (s : State) (num : Nat) : Option Extent := s.extents.find? (fun e => e.num == num)

/-- Start and length of the region table (R42, R46). -/
def State.tableRange (s : State) : Nat × Nat :=
  let l2 := s.fld f_AS_RGN_SIZE_LOG2_ENTRIES
  (s.fld f_AS_RGN_BASE_BASE * tileBytes, if l2 = 0 then 0 else 64 * 2 ^ l2)

/-- Addresses of the direct window without DRAM on a ZV9-432-L (R3). -/
def State.noDram (s : State) (a : Nat) : Bool := s.code432 && decide (0x16C00000000 ≤ a ∧ a < 0x19000000000)

def State.placeOf (s : State) (a : Nat) : Place :=
  if s.inScratch a then .scratch
  else if s.noDram a then .none
  else if setupBase ≤ a ∧ a < setupTop then .setup
  else if s.inPool a ∨ (mediaBase ≤ a ∧ a < localTop) then
    match s.regionAt a with
    | some r => .tile (.rgn r.num ((a - r.base) / tileBytes))
    | none =>
      if a < mediaBase then .none
      else match s.extentAt a with
        | some e => .tile (.ext e.num ((a - e.base) / tileBytes))
        | none => .none
  else if s.inDirect a then
    let (b, n) := s.tableRange
    if b ≤ a ∧ a < b + n then .table else .direct
  else .none

/-! ### The region table as a client reads it (R42) -/

/-- The 64 bytes of a region entry; the three internal pointers are free values. Of a free entry, and of what a deleting one no longer says,
the manual gives only `STATE`: the other bytes read as 0 (log 79). -/
def State.regionEntry (s : State) (num : Nat) : List Byte :=
  match s.regions.find? (fun r => r.num == num) with
  | none => List.replicate 64 0#8
  | some r =>
    [byte (if r.deleting then 2 else 1), byte r.owner, byte (if r.writeLost then 1 else 0), byte r.retained.length] ++
    leBytes 4 r.size ++ leBytes 8 r.base ++ leBytes 4 r.published ++ leBytes 4 r.lastCut ++
    leBytes 8 (Config.freeNat (s.fresh + 3 * num)) ++ leBytes 8 (Config.freeNat (s.fresh + 3 * num + 1)) ++
    leBytes 8 (Config.freeNat (s.fresh + 3 * num + 2)) ++ leBytes 8 r.stamp ++ leBytes 8 0

/-- `n` bytes of the region table from a local address. -/
def State.tableBytes (s : State) (a n : Nat) : List Byte :=
  let b := s.tableRange.1
  (cut 64 (a - b) n).flatMap (fun p => ((s.regionEntry (p.1 / 64)).drop (p.1 % 64)).take p.2)

/-! ### Frames -/

def State.frame (s : State) (id : Nat) : Option Frame := s.frames.find? (fun f => f.id == id)

def State.setFrame (s : State) (f : Frame) : State := { s with frames := upd s.frames (fun x => x.id == f.id) (fun _ => f) }

/-- The frame that a tile map names for a tile. -/
def State.mapFrame (s : State) (m : List (Nat × Nat)) (tile : Nat) : Option Frame :=
  (m.find? (fun e => e.1 == tile)).bind (fun e => s.frame e.2)

/-- The tile map of the working version, or of the extent. -/
def State.workMap (s : State) : TRef → List (Nat × Nat)
  | .rgn n _ => ((s.region n).map (·.working)).getD []
  | .ext n _ => ((s.extent n).map (·.map)).getD []

def TRef.tile : TRef → Nat
  | .rgn _ t => t
  | .ext _ t => t

def State.tileFrame (s : State) (t : TRef) : Option Frame := s.mapFrame (s.workMap t) t.tile

/-- Local address of a tile's first byte. -/
def State.tileAddr (s : State) : TRef → Nat
  | .rgn n t => ((s.regions.find? (fun r => r.num == n)).map (·.base)).getD 0 + t * tileBytes
  | .ext n t => ((s.extent n).map (·.base)).getD 0 + t * tileBytes

def State.tileOwner (s : State) : TRef → Nat
  | .rgn n _ => ((s.region n).map (·.owner)).getD 0
  | .ext n _ => ((s.extent n).map (·.owner)).getD 0

/-- Target tier and TH port of a tile that has no frame (R271, R273). -/
def State.tileTarget (s : State) : TRef → Nat × Nat
  | .rgn n t => match s.region n with
    | some r => look r.target r.targets t
    | none => (1, 0)
  | .ext _ _ => (2, 0)

/-- Put a frame into the working map of a tile. -/
def State.setTileFrame (s : State) (t : TRef) (id : Nat) : State :=
  let put1 (m : List (Nat × Nat)) (k : Nat) := (m.filter (fun e => decide (e.1 < k))) ++ (k, id) :: m.filter (fun e => decide (k < e.1))
  match t with
  | .rgn n k => { s with regions := upd s.regions (fun r => r.num == n) (fun r => { r with working := put1 r.working k }) }
  | .ext n k => { s with extents := upd s.extents (fun e => e.num == n) (fun e => { e with map := put1 e.map k }) }

/-- Local addresses under which a frame is reached now. -/
def State.frameAddrs (s : State) (id : Nat) : List Nat :=
  s.regions.flatMap (fun r => (r.working.filter (fun e => e.2 == id)).map (fun e => r.base + e.1 * tileBytes)) ++
  s.extents.flatMap (fun x => (x.map.filter (fun e => e.2 == id)).map (fun e => x.base + e.1 * tileBytes))

/-- Local address of the tile that a frame holds, in any version. -/
def State.frameAddr (s : State) (id : Nat) : Nat :=
  match s.frameAddrs id with
  | a :: _ => a
  | [] => ((s.regions.flatMap (fun r => r.retained.flatMap (fun v => (v.map.filter (fun e => e.2 == id)).map
      (fun e => r.base + e.1 * tileBytes)))).head?).getD 0

/-- Versions that running operations have resolved, those of other ZV9s among them (R49). -/
def State.pins (s : State) : List Pin := s.descs.flatMap (·.pins) ++ s.lent.map (·.pin)

/-- Frames that only retained versions, or versions pinned by running operations, use keep their bytes (R51, R58). -/
def State.sharedFrame (s : State) (id : Nat) : Bool :=
  s.regions.any (fun r => r.retained.any (fun v => v.map.any (fun e => e.2 == id))) ||
  s.pins.any (fun p => p.map.any (fun e => e.2 == id))

/-- Every frame that some map names. -/
def State.refs (s : State) : List Nat :=
  s.regions.flatMap (fun r => r.working.map (·.2) ++ r.retained.flatMap (fun v => v.map.map (·.2))) ++
  s.extents.flatMap (fun e => e.map.map (·.2)) ++ s.pins.flatMap (fun p => p.map.map (·.2)) ++
  s.descs.flatMap (fun d => d.moving.map (·.2))

/-! ### Quotas and free frames (R285, R286, R300) -/

/-- Change `TIER_QUSED` of a slice and tier. -/
def State.quse (s : State) (slice tier : Nat) (g : Nat → Nat) : State :=
  s.setFldAt f_TIER_QUSED_USED (4 * slice + tier) (g (s.fldAt f_TIER_QUSED_USED (4 * slice + tier)))

/-- Frames a drive offers (R300). -/
def State.driveOffers (s : State) (d : Drive) : Nat :=
  let zs := d.zones.filter (fun z => z.state != .excluded)
  (zs.map (·.cap)).sum - s.fld f_MEDIA_CTL_RECLAIM_LOW * ((zs.head?.map (·.cap)).getD 0)

/-- Drives in use. -/
def State.liveDrives (s : State) : List Drive := s.drives.filter (fun d => s.fldAt f_MEDIA_PORT_STATE d.port == 1)

/-- Frames of a tier (TH: of a port) in all, and in use. -/
def State.tierTotal (s : State) (tier port : Nat) : Nat :=
  match tier with
  | 0 => s.fld f_STORE_CARVE_T0_FRAMES
  | 1 => s.poolLen / tileBytes - (s.retired.filter (fun n => !s.frames.any (fun f => f.tier == 1 && f.num == n))).length
  | 2 => (s.liveDrives.map s.driveOffers).sum
  | _ => ((s.klClient port).map (fun c => c.thLen / tileBytes)).getD 0

def State.tierUsed (s : State) (tier port : Nat) : Nat :=
  (s.frames.filter (fun f => f.tier == tier && (tier != 3 || f.port == port))).length

/-- `n` frames may be allocated (R286). -/
def State.mayAlloc (s : State) (slice tier port n : Nat) : Bool :=
  decide (s.fldAt f_TIER_QUSED_USED (4 * slice + tier) + n ≤ s.fldAt f_TIER_QLIMIT_LIMIT (4 * slice + tier)) &&
  decide (s.tierUsed tier port + n ≤ s.tierTotal tier port)

/-- Frames of one tier may be allocated together: of TH `n` on each of some ports (R286). -/
def State.mayAllocAll (s : State) (slice tier : Nat) (ns : List (Nat × Nat)) : Bool :=
  decide (s.fldAt f_TIER_QUSED_USED (4 * slice + tier) + (ns.map (·.2)).sum ≤ s.fldAt f_TIER_QLIMIT_LIMIT (4 * slice + tier)) &&
  ns.all (fun x => decide (s.tierUsed tier x.1 + x.2 ≤ s.tierTotal tier x.1))

/-- Tiles lacking when they may not. -/
def State.lackingAll (s : State) (slice tier : Nat) (ns : List (Nat × Nat)) : Nat :=
  (ns.map (·.2)).sum - min (s.fldAt f_TIER_QLIMIT_LIMIT (4 * slice + tier) - s.fldAt f_TIER_QUSED_USED (4 * slice + tier))
    (ns.map (fun x => min x.2 (s.tierTotal tier x.1 - s.tierUsed tier x.1))).sum

/-- Tiles lacking when `n` may not be allocated. -/
def State.lacking (s : State) (slice tier port n : Nat) : Nat :=
  n - min (s.fldAt f_TIER_QLIMIT_LIMIT (4 * slice + tier) - s.fldAt f_TIER_QUSED_USED (4 * slice + tier))
    (s.tierTotal tier port - s.tierUsed tier port)

/-- The lowest free frame number of a tier. -/
def State.freeNum (s : State) (tier port : Nat) : Nat :=
  let used := (s.frames.filter (fun f => f.tier == tier && (tier != 3 || f.port == port))).map (·.num) ++
    (if tier = 1 then s.retired else [])
  ((List.range (used.length + 1)).find? (fun n => !used.contains n)).getD 0

/-- Allocate a frame (R286) with the bytes it starts with, and charge it. -/
def State.newFrame (s : State) (owner tier port : Nat) (data : Cells) (poison : List Nat) (cache : Option CacheFrame) : State × Nat :=
  let f : Frame := {
    id := s.nextFrame, tier := tier, num := if tier = 2 then 0 else s.freeNum tier port, port := port, owner := owner, data := data, poison := poison, slot := none, stored := false, tag := 0, lost := none, cache := cache }
  ((({ s with frames := s.frames ++ [f], nextFrame := s.nextFrame + 1 }).quse owner tier (· + 1)), s.nextFrame)

/-- Free every frame that no map names (R51, R287); answers how many. -/
def State.gc (s : State) : State × Nat :=
  let rs := s.refs
  let dead := s.frames.filter (fun f => !rs.contains f.id)
  let live (t : TRef) : Bool := match t with | .rgn n _ => (s.region n).isSome | .ext n _ => (s.extent n).isSome
  (forL dead { s with frames := s.frames.filter (fun f => rs.contains f.id), zeroed := s.zeroed.filter live } (fun f t => t.quse f.owner f.tier (· - 1)), dead.length)

/-! ### The cache part (R279 to R282) -/

/-- Sectors that `n` bytes at offset `off` touch. -/
def sectors (off n : Nat) : BitVec 16 := BitVec.ofNat 16 (maskOf 16 (fun k => overlap off n (4096 * k) 4096))

/-- Sectors that they cover whole. -/
def wholeSectors (off n : Nat) : BitVec 16 :=
  BitVec.ofNat 16 (maskOf 16 (fun k => decide (off ≤ 4096 * k ∧ 4096 * (k + 1) ≤ off + n)))

def noCache : CacheFrame := { data := [], valid := 0, dirty := 0, poison := [] }

/-- The frame has bytes of its own to fill from: a T2 slot or a TH frame written back. -/
def Frame.located (f : Frame) : Bool := f.slot.isSome || f.stored

/-- The frame is reached through the cache part (R270). -/
def Frame.slow (f : Frame) : Bool := decide (2 ≤ f.tier)

/-- Bytes from a tile with a poison address relative to the tile. -/
structure Got where
  bytes : List Byte
  /-- offset in the range read of the first poisoned line, when one is touched -/
  poison : Option Nat
  deriving DecidableEq, Repr

def poisonIn (ps : List Nat) (off n : Nat) : Option Nat := ((cut 64 off n).find? (fun p => ps.contains (p.1 / 64 * 64))).map (fun p => p.1 - off)

/-- Read `n` bytes at offset `off` of a tile; `addr` is the tile's local address. -/
def readTile (f : Option Frame) (addr off n : Nat) : Res Got :=
  match f with
  | none => .ok ⟨List.replicate n 0#8, none⟩
  | some f =>
    if !f.slow then .ok ⟨cellsRead f.data off n, poisonIn f.poison off n⟩
    else
      let c := f.cache.getD noCache
      if sectors off n &&& ~~~c.valid = 0 then .ok ⟨cellsRead c.data off n, poisonIn c.poison off n⟩
      else match f.lost with
        | some st => fail st 2 addr
        | none =>
          if f.located then .error (.wait [.fill f.id])
          else .ok ⟨cellsRead c.data off n, poisonIn c.poison off n⟩

/-- Cache frames that the cache part can hold (R275). -/
def State.cacheFrames (s : State) : Nat :=
  let slots := (s.liveDrives.flatMap (·.zones)).map (·.cap)
  let th := s.klClients.map (fun c => c.thLen / tileBytes)
  (s.fld f_TIER_SPLIT_CACHE_GIB * gib - 8 * (slots.sum + th.sum)) / tileBytes

def State.cachedFrames (s : State) : List Frame := s.frames.filter (fun f => f.cache.isSome)

/-- Dirty cache frames (`TIER_CACHE_STAT.DIRTY`). -/
def State.dirtyFrames (s : State) : List Frame := s.frames.filter (fun f => f.cache.any (fun c => c.dirty != 0))

/-- A write of the frame to its drive or client is under way. -/
def State.writingBack (s : State) (id : Nat) : Bool :=
  s.nvme.any (fun c => match c.op with | .append f false _ _ _ _ => f == id && !c.aborting | _ => false) ||
  s.klOuts.any (fun o => match o.why with | .writeback f _ _ => f == id | _ => false)

/-- A cache frame may be evicted: clean with no write-back under way, its tile not lost, no line of it owned or in a transient state (R282,
R381). -/
def State.evictable (s : State) (f : Frame) : Bool :=
  f.cache.any (fun c => c.dirty == 0) && f.lost.isNone && !s.writingBack f.id &&
  (s.frameAddrs f.id).all (fun a => s.dir.all (fun e =>
    !(overlap (64 * e.line) 64 a tileBytes && !(e.state == .s || e.state == .sHeld))))

/-- Cache frames in use: those of frames, and those of tiles without one (R279). -/
def State.cacheUsed (s : State) : Nat := s.cachedFrames.length + s.zeroed.length

/-- Room for one more cache frame, evicting a clean one when the cache part is full. -/
def State.cacheRoom (s : State) : Option State :=
  if s.cacheUsed < s.cacheFrames then some s
  else match s.zeroed with
    | _ :: rest => some { s with zeroed := rest }
    | [] => (s.frames.find? s.evictable).map (fun f => s.setFrame { f with cache := none })

/-- Take the bytes of a fill into the sectors that are not valid (R279). -/
def CacheFrame.fill (c : CacheFrame) (bytes : List Byte) : CacheFrame :=
  { c with
    data := (List.range 16).foldl (fun d k => if c.valid.getLsbD k then d else cellsWrite d (4096 * k) ((bytes.drop (4096 * k)).take 4096)) c.data
    valid := BitVec.allOnes 16 }

/-- Write bytes into a cache frame (R280); `full`: the other sectors hold their bytes already. -/
def CacheFrame.write (c : CacheFrame) (off : Nat) (bs : List Byte) (full poison : Bool) : CacheFrame :=
  let m := sectors off bs.length
  { data := cellsWrite c.data off bs
    valid := if full then BitVec.allOnes 16 else c.valid ||| m
    dirty := c.dirty ||| m
    poison := if poison then poisonLines c.poison off bs.length else clearLines c.poison off bs.length }

/-! ### Writing a tile (R51, R52, R271, R280) -/

/-- A copy of a frame for a tile's first write after a cut (R51), before that write. -/
def State.copyFrame (s : State) (owner : Nat) (f : Frame) : Res (State × Nat) :=
  if !s.mayAlloc owner f.tier f.port 1 then fail eQuota 9 (detail9 f.tier (s.lacking owner f.tier f.port 1))
  else if !f.slow then .ok (s.newFrame owner f.tier f.port f.data f.poison none)
  else
    let c := f.cache.getD noCache
    if c.valid = BitVec.allOnes 16 ∨ (!f.located && f.lost.isNone) then
      match s.cacheRoom with
      | none => .error (.wait [.room])
      | some s1 => .ok (s1.newFrame owner f.tier f.port [] [] (some { c with valid := BitVec.allOnes 16, dirty := BitVec.allOnes 16 }))
    else match f.lost with
      | some st => fail st 2 (s.frameAddr f.id)
      | none => .error (.wait [.fill f.id])

/-- Write into a frame that only the working version uses. -/
def State.writeFrame (s : State) (f : Frame) (off : Nat) (bs : List Byte) (poison : Bool) : Res State :=
  if !f.slow then
    .ok (s.setFrame { f with data := cellsWrite f.data off bs,
                             poison := if poison then poisonLines f.poison off bs.length else clearLines f.poison off bs.length })
  else
    let c := f.cache.getD noCache
    let part := sectors off bs.length &&& ~~~(wholeSectors off bs.length) &&& ~~~c.valid
    let put (full : Bool) : Res State :=
      match (if f.cache.isSome then some s else s.cacheRoom) with
      | none => .error (.wait [.room])
      | some s1 =>
        let c' := c.write off bs full poison
        .ok (s1.setFrame { f with cache := some c', lost := if c'.valid = BitVec.allOnes 16 then none else f.lost })
    if part = 0 then put false
    else match f.lost with
      | some st => fail st 2 (s.frameAddr f.id)
      | none => if f.located then .error (.wait [.fill f.id]) else put true

/-- Write `bs` at offset `off` of a tile. -/
def State.writeTile (s : State) (t : TRef) (off : Nat) (bs : List Byte) (poison : Bool) : Res State :=
  let owner := s.tileOwner t
  match s.tileFrame t with
  | none =>
    let (tier, port) := s.tileTarget t
    -- a T2 allocation waits until every drive is in use or unusable (R557)
    if tier = 2 && !s.mediaWait.isEmpty then .error (.wait [])
    else if !s.mayAlloc owner tier port 1 then fail eQuota 9 (detail9 tier (s.lacking owner tier port 1))
    else
      -- a cache frame of zeros becomes the new frame's own (R279)
      let kept : Option CacheFrame := if s.zeroed.contains t then some { noCache with valid := BitVec.allOnes 16 } else none
      let (s1, id) := ({ s with zeroed := s.zeroed.filter (fun x => x != t) }).newFrame owner tier port [] [] kept
      let s2 := s1.setTileFrame t id
      match s2.frame id with
      | some f => s2.writeFrame f off bs poison
      | none => .ok s2
  | some f =>
    -- a write to a tile that moves waits for the switch (R294)
    if s.descs.any (fun d => d.moving.any (fun m => m.1 == f.id && m.2 != f.id)) then .error (.wait [])
    else if s.sharedFrame f.id then
      match s.copyFrame owner f with
      | .error e => .error e
      | .ok (s1, id) =>
        let s2 := s1.setTileFrame t id
        match s2.frame id with
        | some g => s2.writeFrame g off bs poison
        | none => .ok s2
    else s.writeFrame f off bs poison

/-! ### Fills and lost tiles (R278, R279, R290) -/

/-- A tile becomes lost (R290). -/
def State.lose (s : State) (id status : Nat) : State :=
  match s.frame id with
  | none => s
  | some f =>
    if f.lost.isSome then s
    else
      let a := s.frameAddr id
      ((s.setFrame { f with lost := some status }).incSat f_TIER_ERR_LOST_TILES).raise
        { cause := 0x0B, status := status, source := 6 * 4096 + bank a, slice := f.owner, addr := some a, detail := status }

/-- CRC-32C of bytes (R276): reflected polynomial 0x82F6_3B78. -/
def crcStep (c : BitVec 32) (b : Byte) : BitVec 32 :=
  (List.range 8).foldl (fun acc _ => if acc.getLsbD 0 then (acc >>> 1) ^^^ 0x82F63B78#32 else acc >>> 1) (c ^^^ b.zeroExtend 32)

def crc32c (bs : List Byte) : Nat := (~~~(bs.foldl crcStep 0xFFFFFFFF#32)).toNat

/-- Start a fill of a frame, unless one runs: an NVMe Read of the slot (R298), or a `C_READ` of the TH frame (R456). -/
def State.startFill (s : State) (id : Nat) : State :=
  match s.frame id with
  | none => s
  | some f =>
    if f.tier = 2 then
      match f.slot with
      | none => s
      | some sl =>
        if s.nvme.any (fun c => c.op == .read id) then s
        else { s with nvme := s.nvme ++ [{ id := s.nextCmd, port := sl.drive, op := .read id, retried := false, retagged := false, aborting := false }],
                      nextCmd := s.nextCmd + 1 }
    else if f.tier = 3 then
      if s.klOuts.any (fun o => o.why == .fill id false || o.why == .fill id true) then s
      else
        let a := ((s.klClient f.port).map (·.thBase)).getD 0 + f.num * tileBytes
        -- the ZV9 reads inside the TH range alone (R453); a frame outside it gets no answer, and its fill ends as undeliverable
        let inside := (s.klClient f.port).any (fun c => decide ((f.num + 1) * tileBytes ≤ c.thLen))
        let s1 := if inside then s.sendKl f.port (mkKl 0x40 2 s.nextTag a tileBytes []) else s
        { s1 with nextTag := s.nextTag + 1, klOuts := s1.klOuts ++ [{ port := f.port, tag := s.nextTag, why := .fill id false, left := tileBytes, got := [], bad := [] }] }
    else s

/-- A tile reached through the cache part that has no bytes of its own is read: taken as zeros, it holds a cache frame with every sector valid,
when there is room for one (R279). -/
def State.zeroTile (s : State) (t : TRef) : State :=
  match s.tileFrame t with
  | none =>
    if (s.tileTarget t).1 < 2 ∨ s.zeroed.contains t then s
    else match s.cacheRoom with
      | some s1 => { s1 with zeroed := s1.zeroed ++ [t] }
      | none => s
  | some f =>
    if !f.slow || f.located || f.lost.isSome || f.cache.any (fun c => c.valid == BitVec.allOnes 16) then s
    else match (if f.cache.isSome then some s else s.cacheRoom) with
      | some s1 => s1.setFrame { f with cache := some { f.cache.getD noCache with valid := BitVec.allOnes 16 } }
      | none => s

/-- The tiles that a read of `n` bytes from a local address takes as zeros (R279). -/
def State.zeroFill (s : State) (a n : Nat) : State :=
  forL (cut tileBytes a n) s (fun p t => match t.placeOf p.1 with
    | .tile x =>
      -- only a sector that is not valid starts a fill
      match t.tileFrame x with
      | some f => if sectors (p.1 % tileBytes) p.2 &&& ~~~((f.cache.getD noCache).valid) = 0 then t else t.zeroTile x
      | none => t.zeroTile x
    | _ => t)

/-- The bytes of a fill arrive (R279). -/
def State.fillDone (s : State) (id : Nat) (bytes : List Byte) : State :=
  match s.frame id with
  | none => s
  | some f =>
    if f.lost.isSome then s
    else match (if f.cache.isSome then some s else s.cacheRoom) with
    | none => s
    | some s1 => s1.setFrame { f with cache := some ((f.cache.getD noCache).fill bytes) }

/-! ### Errors that a read finds (R304, R474) -/

/-- A store unit (R475). -/
def storeUnit : Nat := 25165824

/-- Sets of the directory (R374, R397). -/
def State.dirSets (s : State) : Nat := if s.fld f_REEVE_CFG_SETS_LOG2 = 0 then 0 else 2 ^ s.fld f_REEVE_CFG_SETS_LOG2

/-- Units of the directory. -/
def State.dirUnits (s : State) : Nat := ceilDiv (s.dirSets * 256) storeUnit

/-- Store-space addresses of the directory, of the carve-outs after it up to tile staging, and of the management carve-out (R475). -/
def State.dirBase (s : State) : Nat := s.scratchLen + s.fld f_STORE_CARVE_PKT_UNITS * storeUnit
def State.xlBase (s : State) : Nat := s.dirBase + s.dirUnits * storeUnit
def State.asyBase (s : State) : Nat := s.xlBase + storeUnit
def State.atwBase (s : State) : Nat := s.asyBase + 3 * storeUnit
def State.stgBase (s : State) : Nat := s.atwBase + s.fld f_STORE_CARVE_ATW_UNITS * storeUnit
def State.mgmtBase (s : State) : Nat := s.stgBase + s.fld f_STORE_CARVE_STG_UNITS * storeUnit

/-- Store-space address of T0 frame `n`: the frames are the top of tile staging, in the order of their numbers (R475, log 114). -/
def State.t0Addr (s : State) (n : Nat) : Nat := s.mgmtBase - s.fld f_STORE_CARVE_T0_FRAMES * tileBytes + n * tileBytes

/-- The T0 frame that holds a store-space address, and the offset in it. -/
def State.stagedAt (s : State) (a : Nat) : Option (Frame × Nat) :=
  if s.t0Addr 0 ≤ a ∧ a < s.mgmtBase then
    (s.frames.find? (fun f => f.tier == 0 && f.num == (a - s.t0Addr 0) / tileBytes)).map (fun f => (f, (a - s.t0Addr 0) % tileBytes))
  else none

/-- The line of a store-space address outside the scratchpad is poisoned. -/
def State.storePoisoned (s : State) (a : Nat) : Bool :=
  match s.stagedAt a with
  | some (f, o) => f.poison.contains (o / 64 * 64)
  | none => s.poison.contains (a / 64 * 64)

/-- Poison the line `l` of store space: that of a T0 frame in the frame that is staged there. -/
def State.poisonLineAt (s : State) (l : Nat) (staged : Option (Frame × Nat)) : State :=
  match staged with
  | some (f, o) => s.setFrame { f with poison := if f.poison.contains o then f.poison else f.poison ++ [o] }
  | none => if s.poison.contains l then s else { s with poison := s.poison ++ [l] }

/-- Poison the line of a store-space address outside the scratchpad. No local address below the top of store space names anything else, so the line
stands among the poisoned ones by its store-space address. -/
def State.poisonStore (s : State) (a : Nat) : State := s.poisonLineAt (a / 64 * 64) (s.stagedAt (a / 64 * 64))

/-- Poison the line of a local address where its bytes lie. -/
def State.poisonAt (s : State) (a : Nat) : State :=
  let l := a / 64 * 64
  let add (ps : List Nat) (x : Nat) : List Nat := if ps.contains x then ps else ps ++ [x]
  match s.placeOf l with
  | .tile t =>
    match s.tileFrame t with
    | none => s
    | some f =>
      let o := l % tileBytes
      if f.slow then s.setFrame { f with cache := f.cache.map (fun c => { c with poison := add c.poison o }) }
      else s.setFrame { f with poison := add f.poison o }
  | .scratch | .direct | .table => { s with poison := add s.poison l }
  | _ => s

/-- An error of a DRAM line on pseudo-channel `pc` (R304). -/
def State.dramErr (s : State) (a pc : Nat) (e : DramErr) : State :=
  match e with
  | .none => s
  | .corrected => (s.incSatAt f_TIER_PC_ERR_CORRECTED pc).obs 7 pc 3 0xFF 1
  | .uncorrectable =>
    ((s.poisonAt a).incSatAt f_TIER_PC_ERR_UNCORRECTED pc).raise { ev 0x08 (7 * 4096 + pc) pc with addr := some (a / 64 * 64) }

/-- Slice of the central store that holds a store-space address (R473). -/
def storeSlice (a : Nat) : Nat :=
  let l := a / 256
  (l ^^^ (l / 256) ^^^ (l / 65536)) % 256

/-- An error of a line of the central store, poisoned by `f` (R474). -/
def State.storeErr (s : State) (a slice : Nat) (e : DramErr) (f : State → State) : State :=
  match e with
  | .none => s
  | .corrected => s.incSat f_STORE_ECC_CORRECTED
  | .uncorrectable =>
    ((f s).incSat f_STORE_ECC_UNCORRECTED).raise { ev 0x07 (8 * 4096 + slice) slice with addr := some (a / 64 * 64) }

/-- The bytes of a local address lie in a T0 frame, hence in the central store (R270, R475). -/
def State.inStaging (s : State) (a : Nat) : Bool :=
  match s.placeOf a with
  | .tile t => (s.tileFrame t).any (fun f => f.tier == 0)
  | _ => false

/-- Store-space address of a local address that lies in a T0 frame. -/
def State.storeAddrOf (s : State) (a : Nat) : Nat :=
  match s.placeOf a with
  | .tile t => ((s.tileFrame t).map (fun f => s.t0Addr f.num + a % tileBytes)).getD a
  | _ => a

/-- An error that a read finds, in the store or in DRAM. -/
def State.memErr (s : State) (e : MemErr) : State :=
  if s.inScratch e.addr then s.storeErr e.addr (storeSlice e.addr) e.err (fun t => t.poisonAt e.addr)
  else if e.store then if e.addr < 6 * gib then s.storeErr e.addr (storeSlice e.addr) e.err (fun t => t.poisonStore e.addr) else s
  else if s.inStaging e.addr then s.storeErr e.addr (storeSlice (s.storeAddrOf e.addr)) e.err (fun t => t.poisonAt e.addr)
  else s.dramErr e.addr e.unit e.err

/-- A command whose reads find errors: these act first; a freeze that one of them triggers ends it there. -/
def State.readErrs (s : State) (es : List MemErr) (body : State → State) : State :=
  let t := forL es s (fun e t => t.memErr e)
  t.whenAlive (body t)

end Sys2Proof.Machine
end

