-- ==== Sys2Proof/Machine/Coherence.lean ====
section
/-! DEFINITION. The Reeve directory (R372 to R392, R395): sets and ways, grants and holds, retry credits, recalls and their
answers, eviction, lost holders and region sweeps; and the meanings of its commands that need no translation. -/

namespace Sys2Proof.Machine

/-! ### Sets and ways (R374, R375) -/

/-- Sets held by a bank. -/
def State.bankSets (s : State) (b : Nat) : Nat := (s.dirSets - b + 47) / 48

/-- The set of a line. -/
def State.setOf (s : State) (line : Nat) : Nat :=
  let b := bank (64 * line)
  b + 48 * ((line ^^^ (line / 2 ^ 22)) % s.bankSets b)

def State.entry (s : State) (line : Nat) : Option DirEntry := s.dir.find? (fun e => e.line == line)

def State.setEntry (s : State) (e : DirEntry) : State := { s with dir := upd s.dir (fun x => x.line == e.line) (fun _ => e) }

/-- The line returns to I and its way is free. -/
def State.dropEntry (s : State) (line : Nat) : State := { s with dir := del s.dir (fun x => x.line == line) }

/-- Ways in use of a set. -/
def State.waysOf (s : State) (set : Nat) : List DirEntry := s.dir.filter (fun e => s.setOf e.line == set)

def DirEntry.held (e : DirEntry) : Bool := e.state == .sHeld || e.state == .xHeld
def DirEntry.transient (e : DirEntry) : Bool := e.state == .invWait || e.state == .recallWait || e.state == .evictWait
def DirEntry.stable (e : DirEntry) : Bool := e.state == .s || e.state == .x

/-- The owner of a line in an X state, or of one whose owner is being recalled. -/
def DirEntry.owner (e : DirEntry) : Option (Nat × Nat) :=
  match e.state with
  | .x | .xHeld | .recallWait => e.ptrs.head?
  | .evictWait => if e.asked = 0x15 then e.ptrs.head? else none
  | _ => none

/-- The line leaves its hold (R383). -/
def DirEntry.release (e : DirEntry) : DirEntry :=
  match e.state with
  | .sHeld => { e with state := .s }
  | .xHeld => { e with state := .x }
  | _ => e

/-- The entry of a line as the bank finds it when it examines it: an ended hold is over (R383). -/
def State.examine (s : State) (line : Nat) : Option DirEntry :=
  (s.entry line).map (fun e => if decide (e.holdUntil ≤ s.now) then e.release else e)

/-- T_hold in STORE cycles (R383). -/
def State.tHold (s : State) : Nat := ceilDiv (s.fld f_REEVE_CFG_HOLD_NS * 18) 640 * 64

/-! ### Holders and messages (R377 to R379) -/

/-- Node and Kellija port of a requester. -/
def State.who (s : State) : Req → Nat × Nat
  | .client port _ => (s.me, port)
  | .peer p => (p.src, bits p.stream 13 2)

/-- Caching clients of live nodes of the current map in the groups of a coarse entry. -/
def State.groupClients (s : State) (g : BitVec 64) : List (Nat × Nat) :=
  match s.mapCur with
  | none => []
  | some m => (m.nodes.filter (fun e => e.state == .live && g.getLsbD (e.node % 64))).flatMap (fun e =>
      ((List.range 4).filter (fun k => e.caching.getLsbD k)).map (fun k => (e.node, k)))

/-- A Kellija port has a caching client: it alone is sent `INV` and recalls (R458). -/
def State.klCaches (s : State) (port : Nat) : Bool := s.klUp port && s.fldAt f_KL_PORT_CLASS port == 1

/-- A holder's client lies on a node that the map no longer lists live (R389). -/
def State.lostHolder (s : State) (h : Nat × Nat) : Bool := h.1 != s.me && !s.mapCur.any (fun m => m.live h.1)

/-- A holder can be asked: another has answered every message it will be sent (R389, R466). -/
def State.reach (s : State) (h : Nat × Nat) : Bool := if h.1 = s.me then s.klCaches h.2 else !s.lostHolder h

/-- The holders of an entry in an S state. -/
def State.sharers (s : State) (e : DirEntry) : List (Nat × Nat) := if e.coarse then s.groupClients e.groups else e.ptrs

/-- Global physical address of a line homed here, as one number (R32). -/
def State.globalLine (s : State) (line : Nat) : Nat := s.me * 2 ^ 50 + 64 * line

/-- `INV` (0x13), `RECALL_S` (0x14) or `RECALL_I` (0x15) to a holder. -/
def State.ask (s : State) (line typ : Nat) (h : Nat × Nat) : State :=
  let s1 := if typ = 0x13 then s else { s with recalls := s.recalls ++ [(line, h, s.now)] }
  if h.1 = s.me then s1.sendKl h.2 { mkKl typ 0 0 (s.globalLine line) 0 [] with tag := line % two32 }
  else s1.sendQf { s1.mkQ h.1 typ 0 [] with addr := 64 * line, stream := h.2 * 8192, tag := line % two32 }

/-- The home waits for the answer of a holder of a line. -/
def State.answerDue (s : State) (line : Nat) (h : Nat × Nat) : Bool :=
  s.dir.any (fun e => e.line == line && e.awaiting.contains h) || s.sweeps.any (fun w => w.awaiting.contains (line, h.1, h.2))

/-- Answers that a home bank has reserved space for. -/
def State.asksOut (s : State) (b : Nat) : Nat :=
  ((s.dir.filter (fun e => bank (64 * e.line) == b)).map (fun e => e.awaiting.length)).sum +
  ((s.sweeps.flatMap (fun w => w.awaiting)).filter (fun x => bank (64 * x.1) == b)).length -
  (s.asks.filter (fun x => bank (64 * x.1) == b)).length

/-- Send what waits for answer space, the oldest of each bank first, while the space holds another answer; a message whose answer is no longer
awaited is dropped (R415, R483, log 94). -/
def State.pumpAsks (s : State) : State :=
  let s0 := { s with asks := s.asks.filter (fun x => s.answerDue x.1 x.2.2) }
  forL s0.asks s0 (fun x t =>
    let b := bank (64 * x.1)
    if (t.asks.find? (fun y => bank (64 * y.1) == b)) = some x ∧ (t.asksOut b = 0 ∨ t.asksOut b < Config.askSpace b) then
      { t with asks := t.asks.erase x }.ask x.1 x.2.1 x.2.2
    else t)

/-- Answer a coherent request (R379): TC1, with the request's `TAG` and `STREAM`. -/
def State.answer (s : State) (r : Req) (typ aux : Nat) (payload : List Byte) (poison : Bool) : State :=
  match r with
  | .client port p => s.sendKl port { mkKl typ 1 p.tag p.addr aux payload with stream := p.stream, poison := poison }
  | .peer p =>
    s.sendQf { s.mkQ p.src typ 1 payload with
      epoch := s.rspEpoch p.epoch, stream := p.stream, tag := p.tag, addr := p.addr, slice := p.slice, aux := aux, poison := poison }

/-- Answer `ERR` (R379, R411). -/
def State.answerErr (s : State) (r : Req) (f : Fail) : State :=
  match r with
  | .client port p =>
    s.sendKl port { mkKl 0x0F 1 p.tag p.addr 0 [] with
      stream := p.stream, status := f.status, detailKind := f.kind, detail := if f.kind = 2 then p.addr else f.detail }
  | .peer p =>
    s.sendQf { s.mkQ p.src 0x0F 1 (leBytes 8 f.detail) with
      epoch := s.rspEpoch p.epoch, stream := p.stream, tag := p.tag, addr := p.addr, slice := p.slice, aux := f.status + 256 * f.kind }

/-! ### The line at the home -/

/-- An access waits in the fill queue or the bank queue that touches these bytes. -/
def State.queuedOver (s : State) (a n : Nat) : Bool :=
  (s.fillQ ++ s.bankQ).any (fun w => w.over a n)

/-- Bytes of one place at the home, without the directory. -/
def State.rawPiece (s : State) (a n : Nat) : Res Got :=
  match s.placeOf a with
  | .scratch | .direct => .ok ⟨s.memRead a n, poisonIn s.poison a n⟩
  | .table => .ok ⟨s.tableBytes a n, poisonIn s.poison a n⟩
  | .tile t => readTile (s.tileFrame t) (s.tileAddr t) (a % tileBytes) n
  | .setup | .none => fail eRange 2 a

/-- Write one piece at the home, without the directory. -/
def State.rawWrite (s : State) (a : Nat) (bs : List Byte) (poison : Bool) : Res State :=
  match s.placeOf a with
  | .scratch | .direct =>
    let s1 := s.memWrite a bs
    .ok (if poison then { s1 with poison := poisonLines s1.poison a bs.length } else s1)
  | .tile t => s.writeTile t (a % tileBytes) bs poison
  | .table => fail ePerm 2 a
  | .setup | .none => fail eRange 2 a

/-- A plain store to `a`, refused by the quota for the tile at `refused`, is discarded (R52). -/
def State.discardStore (s : State) (a refused : Nat) : State :=
  match s.placeOf refused with
  | .tile (.rgn n t) =>
    let s1 := { s with regions := upd s.regions (fun r => r.num == n) (fun r => { r with writeLost := true }) }
    (s1.incSat f_AS_RGN_STATUS_LOST_WRITES).raise
      { cause := 0x09, status := eQuota, source := 6 * 4096 + bank a, slice := s.tileOwner (.rgn n t), addr := some a, detail := n }
  | .tile (.ext n t) =>
    (s.incSat f_AS_RGN_STATUS_LOST_WRITES).raise
      { cause := 0x09, status := eQuota, source := 6 * 4096 + bank a, slice := s.tileOwner (.ext n t), addr := some a,
        detail := n + two32 }
  | _ => s

/-- Store a line that an owner returns (R382); a fill that the write needs is awaited in the fill queue. -/
def State.storeLine (s : State) (line : Nat) (bs : List Byte) (poison : Bool) : State :=
  match s.rawWrite (64 * line) bs poison with
  | .ok t => t
  | .error (.err f) => if f.status = eQuota then s.discardStore (64 * line) (64 * line) else s
  | .error (.wait ns) =>
    let s1 := forL ns s (fun n t => match n with | .fill id _ => t.startFill id | _ => t)
    { s1 with fillQ := s1.fillQ ++ [{ acc := { org := .none, op := .write bs poison, addr := 64 * line, slice := 0, node := s.me },
                                      bank := bank (64 * line) }] }

/-- Poison a line at the home (R304, R387). -/
def State.poisonLine (s : State) (line : Nat) : State :=
  match s.rawPiece (64 * line) 64 with
  | .ok g => s.storeLine line g.bytes true
  | .error _ => s

/-! ### Grants (R382, R383, R398) -/

/-- `STATE` codes (R376). -/
def DState.code : DState → Nat
  | .s => 1 | .x => 2 | .sHeld => 3 | .xHeld => 4 | .invWait => 5 | .recallWait => 6 | .evictWait => 7

def Req.typ : Req → Nat
  | .client _ p => p.typ
  | .peer p => p.typ

/-- Slice of a requester: the bound slice of a client (R504). -/
def State.reqSlice (s : State) : Req → Nat
  | .client port _ => (s.bound port).getD 0xFF
  | .peer p => p.slice

/-- Scrivener's point 5: a coherent request is answered; `before` is `STATE` before the answer (R595). -/
def State.cohSample (s : State) (r : Req) (line before : Nat) : State :=
  s.scriv 5 (s.reqSlice r) (6 * 4096 + bank (64 * line)) s.now (64 * line) r.typ before

/-- Grant to a requester: 0x18 `DATA_S`, 0x19 `DATA_X`, 0x1B `GRANT_X`. -/
def State.grant (s : State) (r : Req) (line typ : Nat) : State :=
  let s1 := (s.addWrap f_REEVE_GRANTS_GRANTS 1).obs 6 (bank (64 * line)) 2 0xFF 1
  if typ = 0x1B then s1.answer r typ 0 [] false
  else match s1.rawPiece (64 * line) 64 with
    | .ok g => s1.answer r typ 0 g.bytes g.poison.isSome
    | .error _ => s1.answer r typ 0 (List.replicate 64 0xFF#8) true

/-- Add a sharer (R377). -/
def DirEntry.addSharer (e : DirEntry) (c : Nat × Nat) : DirEntry :=
  if e.coarse then { e with groups := e.groups ||| BitVec.ofNat 64 (2 ^ (c.1 % 64)) }
  else if e.ptrs.contains c then e
  else if e.ptrs.length < 3 then { e with ptrs := e.ptrs ++ [c] }
  else
    { e with coarse := true, ptrs := [],
             groups := (e.ptrs ++ [c]).foldl (fun g x => g ||| BitVec.ofNat 64 (2 ^ (x.1 % 64))) 0 }

/-- A line with one owner during its hold. -/
def State.ownedEntry (s : State) (line way : Nat) (c : Nat × Nat) : DirEntry :=
  { line := line, way := way, state := .xHeld, coarse := false, ptrs := [c], groups := 0, holdUntil := s.now + s.tHold, nru := true,
    awaiting := [], asked := 0, cause := .none }

/-! ### Retry credits (R384 to R386, R400) -/

def State.slotOf (s : State) (line : Nat) : Option RetrySlot := s.slots.find? (fun x => x.bank == bank (64 * line) && x.line == line)

/-- `IN_USE` and `PEAK` of `REEVE_SLOTS`. -/
def State.countSlots (s : State) : State :=
  let n := s.slots.length
  (s.setFld f_REEVE_SLOTS_IN_USE n).setFld f_REEVE_SLOTS_PEAK (max n (s.fld f_REEVE_SLOTS_PEAK))

def mod20 : Nat := 1048576

/-- The credit of a ticket of a slot. -/
def RetrySlot.credit (x : RetrySlot) (ticket : Nat) : Nat := x.num + 64 * x.gen + 4096 * ticket

/-- RT_bank of R384, the mean round trip of the bank's last 16 recalls: their sum in STORE cycles, and how many they are. Before the bank's first
recall it is a free value (log 105). -/
def State.rtBank (s : State) (b : Nat) : Nat × Nat :=
  match look [] s.trips b with
  | [] => (Config.freeNat s.fresh, 1)
  | ts => (ts.sum, ts.length)

/-- `WAIT` of R384. -/
def State.waitFor (s : State) (x : RetrySlot) (ticket : Nat) : Nat :=
  let n := (ticket + mod20 - x.serve) % mod20
  let (sum, k) := s.rtBank x.bank
  min 0xFFFF (ceilDiv (n * (k * s.tHold + sum) * 10) (288 * k))

/-- A holder's answer to a recall ends its round trip. -/
def State.noteTrip (s : State) (line : Nat) (h : Nat × Nat) : State :=
  match s.recalls.find? (fun x => x.1 == line && x.2.1 == h) with
  | none => s
  | some x =>
    let b := bank (64 * line)
    { s with recalls := s.recalls.erase x, trips := put (fun _ => []) s.trips b [((s.now - x.2.2) :: look [] s.trips b).take 16] }

def State.retry (s : State) (r : Req) (line credit wait : Nat) : State :=
  let s1 := (s.answer r 0x1C credit (leBytes 2 wait) false).obs 6 (bank (64 * line)) 3 0xFF 1
  { s1 with fresh := s.fresh + 1 }

/-- Give a waiting request a ticket (R384), or no credit when no slot is free (R386). -/
def State.ticket (s : State) (r : Req) (line : Nat) : State :=
  let b := bank (64 * line)
  match s.slotOf line with
  | some x =>
    let s1 := { s with slots := upd s.slots (fun y => y.bank == b && y.num == x.num) (fun y => { y with next := (y.next + 1) % mod20 }) }
    s1.retry r line (x.credit x.next) (s.waitFor x x.next)
  | none =>
    match (List.range 64).find? (fun n => !s.slots.any (fun y => y.bank == b && y.num == n)) with
    | none => (s.incSat f_REEVE_ERR_NO_SLOT).retry r line 0xFFFFFFFF 63
    | some n =>
      let g := (look 0 s.slotGens (64 * b + n) + 1) % 64
      let x : RetrySlot := { bank := b, num := n, line := line, gen := g, next := 1, serve := 0 }
      let s1 := { s with slots := s.slots ++ [x], slotGens := put (fun _ => 0) s.slotGens (64 * b + n) [g] }
      (s1.countSlots.obsEdge 6 b 4 (s.slotsOf b != 0) true).retry r line (x.credit 0) (s.waitFor x 0)

/-- `SERVE` advances; the slot is freed when it reaches `NEXT` (R385). -/
def State.advanceServe (s : State) (x : RetrySlot) : State :=
  let sv := (x.serve + 1) % mod20
  if sv = x.next then
    let s1 := { s with slots := del s.slots (fun y => y.bank == x.bank && y.num == x.num) }
    s1.countSlots.obsEdge 6 x.bank 4 true (s1.slotsOf x.bank != 0)
  else { s with slots := upd s.slots (fun y => y.bank == x.bank && y.num == x.num) (fun y => { y with serve := sv }) }

/-! ### Recalls and their answers (R382, R387, R388, R391) -/

/-- What becomes of a line once every awaited answer is in. -/
def State.settle (s : State) (line : Nat) : State :=
  match s.entry line with
  | none => s
  | some e =>
    if e.awaiting ≠ [] ∨ !e.transient then s
    else match e.cause with
      | .req r n p upg shared =>
        if shared then
          let e1 := ({ e with state := .sHeld, coarse := false, holdUntil := s.now + s.tHold, nru := true, asked := 0, cause := .none } : DirEntry).addSharer (n, p)
          ((s.setEntry e1).grant r line 0x18).cohSample r line e.state.code
        else ((s.setEntry (s.ownedEntry line e.way (n, p))).grant r line (if upg then 0x1B else 0x19)).cohSample r line e.state.code
      | .access shared =>
        if shared && !e.ptrs.isEmpty then s.setEntry { e with state := .s, asked := 0, cause := .none } else s.dropEntry line
      | .evict | .none => s.dropEntry line

/-- A holder's answer, or what stands for it: `data` the line when it comes modified, `poison` for a poisoned answer
(R466) or a failed owner (R387), `gone` when the holder no longer holds the line. -/
def State.answered (s : State) (line : Nat) (h : Nat × Nat) (data : Option (List Byte × Bool)) (poison gone : Bool) : State :=
  match s.entry line with
  | none => s
  | some e =>
    if !e.awaiting.contains h then s
    else
      let s1 := match data with
        | some (bs, po) => s.storeLine line bs po
        | none => if poison && e.asked ≠ 0x13 then s.poisonLine line else s
      let e1 := { e with awaiting := e.awaiting.filter (fun x => x != h), ptrs := if gone then e.ptrs.filter (fun x => x != h) else e.ptrs }
      (({ s1.setEntry e1 with recalls := del s1.recalls (fun x => x.1 == line && x.2.1 == h) }).settle line).pumpAsks

/-- What the bank finds when it examines a line whose holders are on lost nodes (R389): a line owned there is poisoned and free, a shared copy
there is gone. A line in a transient state has its answers already. -/
def State.freshen (s : State) (line : Nat) : State :=
  match s.entry line with
  | none => s
  | some e =>
    if e.transient ∨ e.coarse ∨ !e.ptrs.any s.lostHolder then s
    else if e.owner.isSome then (s.poisonLine line).dropEntry line
    else match e.ptrs.filter (fun h => !s.lostHolder h) with
      | [] => s.dropEntry line
      | hs => s.setEntry { e with ptrs := hs }

/-- Move a line into a transient state: ask its holders; a holder on a port of this ZV9 without a caching client answers at once,
a recall with `POISON` (R458, R466), and a holder on a node that the map does not list live has answered (R389). -/
def State.startAsk (s : State) (e : DirEntry) (st : DState) (typ : Nat) (hs : List (Nat × Nat)) (c : DCause) : State :=
  let s1 := s.setEntry { e with state := st, awaiting := hs, asked := typ, cause := c }
  let s2 := ({ s1 with asks := s1.asks ++ (hs.filter s.reach).map (fun h => (e.line, typ, h)) }).pumpAsks
  if hs = [] then s2.settle e.line
  else forL (hs.filter (fun h => !s.reach h)) s2 (fun h t => t.answered e.line h none true true)

/-- Free a way (R388) or recall a line of a revoked extent (R514). -/
def State.evictLine (s : State) (e : DirEntry) : State :=
  if e.state == .x then s.startAsk e .evictWait 0x15 e.ptrs .evict
  else s.startAsk e .evictWait 0x13 (s.sharers e) .evict

/-- Recall what stands in the way of a non-caching access to a line (R391); nothing during a hold or a transient state. -/
def State.recallFor (s0 : State) (line : Nat) (own : Bool) : State :=
  let s := s0.freshen line
  match s.examine line with
  | none => s
  | some e =>
    let s1 := s.setEntry e
    if e.state == .x then s1.startAsk e .recallWait (if own then 0x15 else 0x14) e.ptrs (.access (!own))
    else if e.state == .s && own then s1.startAsk e .invWait 0x13 (s.sharers e) (.access false)
    else s1

/-- A line stands in the way of a non-caching access: `own` for a write or atomic (R391). -/
def State.lineBusy (s : State) (own : Bool) (line : Nat) : Bool :=
  match s.examine line with
  | none => false
  | some e => own || !(e.state == .s || e.state == .sHeld)

/-! ### Sweeps (R390) -/

def Sweep.covers (w : Sweep) (line : Nat) : Bool := decide (w.base ≤ 64 * line ∧ 64 * line < w.base + w.len)

/-- A sweep runs over the line. -/
def State.sweeping (s : State) (line : Nat) : Bool := s.sweeps.any (fun w => w.covers line)

/-- Remove the entry of a line under a sweep: its holders are asked and their answers awaited; a held line waits for the
end of its hold. Of a line in a transient state the answers under way are awaited, its request is answered with a ticket, and a holder that those
answers would leave with a copy is asked as well: the owner under `RECALL_S`, and a requester that is a sharer. -/
def State.sweepLine (s : State) (e : DirEntry) : State :=
  if e.held then s
  else
    let await (t : State) (hs : List (Nat × Nat)) : State :=
      { t with sweeps := upd t.sweeps (fun w => w.covers e.line) (fun w => { w with awaiting := w.awaiting ++ hs.map (fun h => (e.line, h.1, h.2)) }) }
    let send (t : State) (typ : Nat) (hs : List (Nat × Nat)) : State :=
      let due := hs.filter s.reach
      (await { t with asks := t.asks ++ due.map (fun h => (e.line, typ, h)) } due).pumpAsks
    let t := s.dropEntry e.line
    if e.transient then
      let t1 := await (match e.cause with
        | .req r _ _ _ _ => t.ticket r e.line
        | _ => t) e.awaiting
      if e.state == .recallWait && e.asked == 0x14 then send t1 0x15 e.ptrs
      else if e.state == .invWait then send t1 0x13 ((s.sharers e).filter (fun h => !e.awaiting.contains h))
      else t1
    else if e.state == .x then send t 0x15 e.ptrs
    else send t 0x13 (s.sharers e)

/-- Start the sweep of a region's lines for an operation. -/
def State.startSweep (s : State) (base len : Nat) (who : Org) : State :=
  if s.dirSets = 0 then s
  else
    let s1 := { s with sweeps := s.sweeps ++ [{ base := base, len := len, awaiting := [], who := who }] }
    forL (s.dir.filter (fun e => decide (base ≤ 64 * e.line ∧ 64 * e.line < base + len))) s1 (fun e t =>
      let e1 := if decide (e.holdUntil ≤ s.now) then e.release else e
      t.sweepLine e1)

/-- The sweep has all its answers and no entry is left in its range. -/
def State.sweepDone (s : State) (w : Sweep) : Bool := w.awaiting.isEmpty && !s.dir.any (fun e => w.covers e.line)

/-- An answer to a sweep's message: its data are discarded. -/
def State.sweepAnswer (s : State) (line : Nat) (h : Nat × Nat) : State :=
  ({ s with
    sweeps := s.sweeps.map (fun (w : Sweep) => { w with awaiting := w.awaiting.erase (line, h.1, h.2) })
    recalls := del s.recalls (fun x => x.1 == line && x.2.1 == h) }).pumpAsks

/-! ### Coherent requests (R382 to R386, R388) -/

/-- Take a way for a line in state I: `none` when the set is full and a victim's way is not yet free. -/
def State.takeWay (s : State) (line : Nat) : Option Nat :=
  let ws := s.waysOf (s.setOf line)
  (List.range 16).find? (fun w => !ws.any (fun e => e.way == w))

/-- Choose a victim in a full set (R388), each way as the bank finds it when it examines it. -/
def State.evictFor (s0 : State) (line : Nat) : State :=
  let set := s0.setOf line
  let s := forL (s0.waysOf set) s0 (fun e t => t.freshen e.line)
  let found := (s.waysOf set).map (fun e => if decide (e.holdUntil ≤ s.now) then e.release else e)
  let cand := sortBy (fun a b => decide (a.way ≤ b.way)) (found.filter DirEntry.stable)
  match cand.find? (fun e => !e.nru) with
  | some e => (s.addWrap f_REEVE_EVICTIONS_EVICTIONS 1).evictLine e
  | none =>
    match cand with
    | [] => s
    | e :: _ =>
      let s1 := { s with dir := s.dir.map (fun (x : DirEntry) => if s.setOf x.line == set then { x with nru := false } else x) }
      (s1.addWrap f_REEVE_EVICTIONS_EVICTIONS 1).evictLine { e with nru := false }

/-- Serve a coherent request on a line in I, `S` or `X`, or `RD_S` in `S_HELD`; `typ` 0x10 `RD_S`, 0x11 `RD_X`, 0x12 `UPG`.
Answers the state and whether the request was served. -/
def State.serveCoh (s : State) (r : Req) (line typ : Nat) : State × Bool :=
  let c := s.who r
  match s.examine line with
  | none =>
    match s.takeWay line with
    | none => (s.evictFor line, false)
    | some w =>
      let e := s.ownedEntry line w c
      if typ = 0x10 then (({ s with dir := s.dir ++ [{ e with state := .sHeld }] }).grant r line 0x18, true)
      else (({ s with dir := s.dir ++ [e] }).grant r line 0x19, true)
  | some e =>
    if typ = 0x10 then
      match e.state with
      | .s => ((s.setEntry (({ e with state := .sHeld, holdUntil := s.now + s.tHold, nru := true } : DirEntry).addSharer c)).grant r line 0x18, true)
      | .sHeld => ((s.setEntry (({ e with nru := true } : DirEntry).addSharer c)).grant r line 0x18, true)
      | _ => (s.startAsk e .recallWait 0x14 e.ptrs (.req r c.1 c.2 false true), true)
    else if e.state == .x then (s.startAsk e .recallWait 0x15 e.ptrs (.req r c.1 c.2 false false), true)
    else
      let upg := typ == 0x12 && !e.coarse && e.ptrs.contains c
      (s.startAsk e .invWait 0x13 ((s.sharers e).filter (fun h => h != c)) (.req r c.1 c.2 upg false), true)

end Sys2Proof.Machine
end

