-- ==== Sys2Proof/Machine/Numerics.lean ====
section
/-! DEFINITION. Arithmetic (R110 to R128, R393): the number formats, exact values and their one rounding, the FP32
operations and special functions, dot products, MX blocks, the superaccumulator and the Tallyman's operations. -/

namespace Sys2Proof.Machine

/-! ### Exact values -/

/-- A number: NaN, an infinity, or (−1)^neg × m × 2^e, where zero keeps its sign. -/
inductive Num where
  | nan
  | inf (neg : Bool)
  | fin (neg : Bool) (m : Nat) (e : Int)
  deriving DecidableEq, Repr

namespace Num

def zero : Num := .fin false 0 0
def one : Num := .fin false 1 0
def ofInt (i : Int) : Num := .fin (decide (i < 0)) i.natAbs 0

end Num

/-- m × 2^k for an integer k, exactly when k is not negative, else the integer part and whether something was cut off:
(quotient, remainder is above, at, below half) as the rounding to nearest, ties to even (R116). -/
def rneShift (m : Nat) (k : Int) : Nat :=
  if 0 ≤ k then m * 2 ^ k.toNat
  else
    let d := 2 ^ (-k).toNat
    let q := m / d
    let r := m % d
    if 2 * r > d ∨ (2 * r = d ∧ q % 2 = 1) then q + 1 else q

/-- Exact product. -/
def Num.mul : Num → Num → Num
  | .nan, _ | _, .nan => .nan
  | .inf a, .inf b => .inf (a != b)
  | .inf a, .fin b m _ | .fin b m _, .inf a => if m = 0 then .nan else .inf (a != b)
  | .fin a m e, .fin b n f => .fin (a != b) (m * n) (e + f)

/-- Exact sum (R118: an exact zero sum of opposite signs is +0). -/
def Num.add : Num → Num → Num
  | .nan, _ | _, .nan => .nan
  | .inf a, .inf b => if a = b then .inf a else .nan
  | .inf a, .fin _ _ _ | .fin _ _ _, .inf a => .inf a
  | .fin a m e, .fin b n f =>
    let g := min e f
    let x : Int := (if a then -1 else 1) * (m * 2 ^ (e - g).toNat : Nat)
    let y : Int := (if b then -1 else 1) * (n * 2 ^ (f - g).toNat : Nat)
    let z := x + y
    if z = 0 then .fin (a && b) 0 0 else .fin (decide (z < 0)) z.natAbs g

def Num.neg : Num → Num
  | .nan => .nan
  | .inf a => .inf (!a)
  | .fin a m e => .fin (!a) m e

/-- Key of the order of R118: −∞ below −finite below −0 below +0 below +finite below +∞; NaN has none. -/
def Num.le (x y : Num) : Bool :=
  match x, y with
  | .nan, _ | _, .nan => false
  | .inf true, _ | _, .inf false => true
  | _, .inf true | .inf false, _ => false
  | .fin a m e, .fin b n f =>
    let g := min e f
    let p := m * 2 ^ (e - g).toNat
    let q := n * 2 ^ (f - g).toNat
    if a && b then decide (q ≤ p)
    else if a then true
    else if b then false
    else decide (p ≤ q)

def max32 (x y : Num) : Num := if x = .nan ∨ y = .nan then .nan else if x.le y then y else x
def min32 (x y : Num) : Num := if x = .nan ∨ y = .nan then .nan else if x.le y then x else y

/-- `cmp32` as "x comes before or equals y" with NaN greatest (R121). -/
def cmpLe (x y : Num) : Bool := if y = .nan then true else if x = .nan then false else x.le y

def cmpEq (x y : Num) : Bool := cmpLe x y && cmpLe y x

/-! ### Formats (R110, R113) -/

/-- A floating-point element format: field widths, bias, and which encodings are infinities or NaN
(0 IEEE style, 1 E4M3, 2 none). -/
structure Flt where
  eb : Nat
  mb : Nat
  bias : Nat
  special : Nat
  deriving DecidableEq, Repr

def fFP32 : Flt := ⟨8, 23, 127, 0⟩
def fBF16 : Flt := ⟨8, 7, 127, 0⟩
def fFP16 : Flt := ⟨5, 10, 15, 0⟩
def fE4M3 : Flt := ⟨4, 3, 7, 1⟩
def fE5M2 : Flt := ⟨5, 2, 15, 0⟩
def fE3M2 : Flt := ⟨3, 2, 3, 2⟩
def fE2M3 : Flt := ⟨2, 3, 1, 2⟩
def fE2M1 : Flt := ⟨2, 1, 1, 2⟩

/-- Value of an encoding (R113). -/
def Flt.dec (f : Flt) (v : Nat) : Num :=
  let m := bits v 0 f.mb
  let e := bits v f.mb f.eb
  let s := bit v (f.mb + f.eb)
  let top := 2 ^ f.eb - 1
  if f.special = 0 ∧ e = top then (if m = 0 then .inf s else .nan)
  else if f.special = 1 ∧ e = top ∧ m = 2 ^ f.mb - 1 then .nan
  else if e = 0 then .fin s m (1 - (f.bias : Int) - f.mb)
  else .fin s (m + 2 ^ f.mb) ((e : Int) - f.bias - f.mb)

/-- Sign bit of a format in place. -/
def Flt.sgn (f : Flt) (neg : Bool) : Nat := if neg then 2 ^ (f.mb + f.eb) else 0

/-- Greatest finite encoding without its sign. -/
def Flt.maxFin (f : Flt) : Nat :=
  match f.special with
  | 0 => (2 ^ f.eb - 1) * 2 ^ f.mb - 1
  | 1 => 2 ^ (f.eb + f.mb) - 2
  | _ => 2 ^ (f.eb + f.mb) - 1

/-- Convert an exact value (R116, R117). For the formats without NaN the block scale says so (R119): here +0. -/
def Flt.enc (f : Flt) : Num → Nat
  | .nan => match f.special with
    | 0 => (2 ^ f.eb - 1) * 2 ^ f.mb + 2 ^ (f.mb - 1)
    | 1 => 2 ^ (f.eb + f.mb) - 1
    | _ => 0
  | .inf s => match f.special with
    | 0 => f.sgn s + (2 ^ f.eb - 1) * 2 ^ f.mb
    | 1 => 2 ^ (f.eb + f.mb) - 1
    | _ => 0
  | .fin s m e =>
    if m = 0 then f.sgn s
    else
      -- exponent of the least significant bit kept: that of the value's own binade, never below the subnormal grid
      let grid : Int := 1 - (f.bias : Int) - f.mb
      let own : Int := e + Nat.log2 m - f.mb
      let q := max grid own
      let r := rneShift m (e - q)
      -- the encoding grows by one per step of the grid, across binades too
      let code := ((q - grid).toNat * 2 ^ f.mb) + r
      if code ≤ f.maxFin then f.sgn s + code
      else match f.special with
        | 0 => f.sgn s + (2 ^ f.eb - 1) * 2 ^ f.mb
        | _ => f.sgn s + f.maxFin

/-- Saturating conversion to a two's-complement integer of `w` bits (R117); ties to even. -/
def encInt (w : Nat) : Num → Nat
  | .nan => 0
  | .inf s => if s then 2 ^ (w - 1) else 2 ^ (w - 1) - 1
  | .fin s m e =>
    let r := rneShift m e
    if s then (if r ≤ 2 ^ (w - 1) then (2 ^ w - r) % 2 ^ w else 2 ^ (w - 1)) else min r (2 ^ (w - 1) - 1)

/-- Two's-complement value. -/
def decInt (w v : Nat) : Int := if bit v (w - 1) then (v % 2 ^ w : Nat) - (2 ^ w : Nat) else (v % 2 ^ w : Nat)

/-- One rounding to FP32 (`rne32`, R118). -/
def rne32 (x : Num) : Num := fFP32.dec (fFP32.enc x)

/-- One conversion to BF16 (`bf16`, R117). -/
def bf16 (x : Num) : Num := fBF16.dec (fBF16.enc x)

def fma32 (a b c : Num) : Num := rne32 ((a.mul b).add c)

/-- Format codes of R110: the element's float format when it is one. -/
def fltOf (code : Nat) : Option Flt :=
  match code with
  | 0 => some fFP32 | 1 => some fBF16 | 2 => some fFP16 | 3 | 5 => some fE4M3 | 4 | 6 => some fE5M2
  | 7 => some fE3M2 | 8 => some fE2M3 | 9 => some fE2M1 | _ => none

/-- Bits per element (R110), block scales apart. -/
def fmtBits (code : Nat) : Nat :=
  match code with
  | 0 => 32 | 1 | 2 => 16 | 3 | 4 | 5 | 6 => 8 | 7 | 8 => 6 | 9 => 4 | 10 => 8 | 11 => 4 | 12 => 256 | _ => 0

/-- An MX format (R114). -/
def isMx (code : Nat) : Bool := decide (5 ≤ code ∧ code ≤ 9)

def isInt (code : Nat) : Bool := code == 10 || code == 11

/-- 2 × g of a format (R110), so that ½ is 1. -/
def g2 (code : Nat) : Nat :=
  match code with
  | 0 => 1 | 1 | 2 => 2 | 3 | 4 | 5 | 6 | 10 => 4 | 7 | 8 | 9 | 11 => 8 | _ => 0

/-- Group size of a pair (R111, R122): g of the narrower format, 1 for FP32. -/
def groupSize (x y : Nat) : Nat :=
  if x = 0 ∨ y = 0 then 1 else (if fmtBits x < fmtBits y then g2 x else if fmtBits y < fmtBits x then g2 y else max (g2 x) (g2 y)) / 2

/-- A pair mixes an integer with a floating-point format (R111). -/
def mixedPair (x y : Nat) : Bool := isInt x != isInt y

/-- Raw code of element `i` of a packed vector (R115). -/
def rawElem (code : Nat) (bs : List Byte) (i : Nat) : Nat :=
  let w := fmtBits code
  bits (leAt bs (i * w / 8) 5) (i * w % 8) w

/-- Value of a raw code. -/
def decElem (code raw : Nat) : Num :=
  match fltOf code with
  | some f => f.dec raw
  | none => Num.ofInt (decInt (fmtBits code) raw)

/-- Value of element `i` of a packed vector whose block scales are `scales` (R112, R114, R115). -/
def elemVal (code : Nat) (bs scales : List Byte) (i : Nat) : Num :=
  let v := decElem code (rawElem code bs i)
  if isMx code then
    let x := leAt scales (i / 32) 1
    if x = 255 then .nan else v.mul (.fin false 1 ((x : Int) - 127))
  else v

/-- The first `n` element values. -/
def vecVals (code : Nat) (bs scales : List Byte) (n : Nat) : List Num := (List.range n).map (elemVal code bs scales)

/-- Pack raw codes (R115). -/
def packRaw (code : Nat) (rs : List Nat) : List Byte :=
  let w := fmtBits code
  leBytes ((rs.length * w + 7) / 8) (rs.foldr (fun r acc => r % 2 ^ w + 2 ^ w * acc) 0)

/-! ### Dot products and sums (R120, R122) -/

def exactSum (xs : List Num) : Num := xs.foldl Num.add Num.zero

def chunks {α : Type} (g : Nat) : Nat → List α → List (List α)
  | 0, _ => []
  | _, [] => []
  | fuel + 1, l => l.take g :: chunks g fuel (l.drop g)

/-- `dot_fp32` (R122). -/
def dotFp32 (a b : List Num) (g : Nat) : Num :=
  (chunks (max g 1) a.length (List.zipWith Num.mul a b)).foldl (fun acc t => rne32 (acc.add (exactSum t))) Num.zero

def sumFp32 (xs : List Num) : Num := xs.foldl (fun s x => rne32 (s.add x)) Num.zero

/-- Exact integer dot product (R120). -/
def dotInt (a b : List Int) : Int := (List.zipWith (· * ·) a b).foldl (· + ·) 0

/-! ### Special functions (R121) -/

/-- Fraction bits of the fixed-point evaluation of `exp32`. -/
def expF : Nat := 256

/-- e^r by its series, r = t ÷ 2^256 below 2^−9. -/
def expSeries : Nat → Nat → Nat → Nat → Nat
  | 0, _, _, sum => sum
  | k + 1, n, t, sum => sum + t * expSeries k (n + 1) t (2 ^ expF) / (n * 2 ^ expF)

def squareN : Nat → Nat → Nat
  | 0, v => v
  | k + 1, v => squareN k (v * v / 2 ^ expF)

/-- e^x × 2^256 for 0 ≤ x = m × 2^e below 128, to far more bits than one FP32 rounding needs. -/
def expFix (m : Nat) (e : Int) : Nat :=
  let t := rneShift m (e + expF - 16)
  squareN 16 (expSeries 40 1 t (2 ^ expF))

/-- `exp32` (R121). The value e^x of a rational x other than 0 is never a tie, so a sticky bit decides the rounding. -/
def exp32 : Num → Num
  | .nan => .nan
  | .inf true => Num.zero
  | .inf false => .inf false
  | .fin s m e =>
    if m = 0 then Num.one
    else if 128 ≤ rneShift m e then (if s then Num.zero else .inf false)
    else
      let v := expFix m e
      if s then rne32 (.fin false (2 * (2 ^ (2 * expF) / v) + 1) (-(expF : Int) - 1))
      else rne32 (.fin false (2 * v + 1) (-(expF : Int) - 1))

/-- a ÷ b for positive integers as a number with a sticky bit, precise enough for any one rounding to 24 bits. -/
def ratio (neg : Bool) (a b : Nat) (e : Int) : Num :=
  let k := 40 + (Nat.log2 b + 1) - min (Nat.log2 a) (Nat.log2 b)
  let q := a * 2 ^ k / b
  let r := a * 2 ^ k % b
  .fin neg (2 * q + (if r = 0 then 0 else 1)) (e - k - 1)

/-- `rcp32` (R121). -/
def rcp32 : Num → Num
  | .nan => .nan
  | .inf s => .fin s 0 0
  | .fin s m e => if m = 0 then .inf s else rne32 (ratio s 1 m (-e))

/-- `div32` (R257): IEEE 754-2019 division rounded once. -/
def div32 : Num → Num → Num
  | .nan, _ | _, .nan => .nan
  | .inf _, .inf _ => .nan
  | .inf s, .fin t _ _ => .inf (s != t)
  | .fin s _ _, .inf t => .fin (s != t) 0 0
  | .fin s m e, .fin t n f =>
    if n = 0 then (if m = 0 then .nan else .inf (s != t))
    else if m = 0 then .fin (s != t) 0 0
    else rne32 (ratio (s != t) m n (e - f))

/-- Integer square root by bits: from bit `k` − 1 down, `r` the root so far. -/
def isqrt (n : Nat) : Nat → Nat → Nat
  | 0, r => r
  | k + 1, r => if (r + 2 ^ k) * (r + 2 ^ k) ≤ n then isqrt n k (r + 2 ^ k) else isqrt n k r

/-- `sqrt32` (R257). -/
def sqrt32 : Num → Num
  | .nan => .nan
  | .inf s => if s then .nan else .inf false
  | .fin s m e =>
    if m = 0 then .fin s 0 0
    else if s then .nan
    else
      -- a radicand of 64 or 65 bits with an even exponent
      let sh0 := 64 - Nat.log2 m
      let sh := if (e - sh0) % 2 = 0 then sh0 else sh0 + 1
      let n := m * 2 ^ sh
      let r := isqrt n 34 0
      rne32 (.fin false (2 * r + (if r * r = n then 0 else 1)) ((e - sh) / 2 - 1))

/-! ### MX quantisation (R119) -/

/-- floor(log2 |x|) of a finite non-zero number. -/
def floorLog2 (m : Nat) (e : Int) : Int := e + Nat.log2 m

def mxEmax (code : Nat) : Int :=
  match code with
  | 5 => 8 | 6 => 15 | 7 => 4 | 8 => 2 | _ => 2

/-- Greatest magnitude of the finite values of a block. -/
def blockMax (xs : List Num) : Num :=
  xs.foldl (fun acc x => match x with
    | .fin _ m e => max32 acc (.fin false m e)
    | _ => acc) Num.zero

/-- Quantise a block of 32 values: the scale byte and the raw codes (R117, R119). -/
def mxQuant (code : Nat) (xs : List Num) : Nat × List Nat :=
  let e : Int := match blockMax xs with
    | .fin _ m ex => if m = 0 then -127 else max (-127) (min 127 (floorLog2 m ex - mxEmax code))
    | _ => -127
  let f := (fltOf code).getD fE4M3
  let bad := f.special == 2 && xs.any (fun x => match x with | .fin _ _ _ => false | _ => true)
  (if bad then 255 else (e + 127).toNat, xs.map (fun x => f.enc (x.mul (.fin false 1 (-e)))))

/-- Convert values to a plain format: raw codes (R117). -/
def plainQuant (code : Nat) (xs : List Num) : List Nat :=
  match fltOf code with
  | some f => xs.map f.enc
  | none => xs.map (encInt (fmtBits code))

/-! ### The superaccumulator (R124 to R128) -/

structure SAcc where
  value : Int
  nan : Bool
  posInf : Bool
  negInf : Bool
  cntOvf : Bool
  count : Nat
  deriving DecidableEq, Repr

def SAcc.zero : SAcc := ⟨0, false, false, false, false, 0⟩

/-- The grid value of an addend: a × 2^96 rounded to an integer, ties to even. -/
def gridVal (s : Bool) (m : Nat) (e : Int) : Int := let r := rneShift m (e + 96); if s then -(r : Int) else r

/-- |m × 2^e| is at least 2^47. -/
def geq47 (m : Nat) (e : Int) : Bool := if 0 ≤ e then decide (2 ^ 47 ≤ m * 2 ^ e.toNat) else decide (2 ^ 47 * 2 ^ (-e).toNat ≤ m)

def two176 : Int := 2 ^ 176

/-- Value of a 176-bit two's-complement number. -/
def wrap176 (v : Int) : Int := let r := v % two176; if two176 / 2 ≤ r then r - two176 else r

/-- Add an addend (R125). -/
def SAcc.add (acc : SAcc) (a : Num) : SAcc :=
  let c := acc.count + 1
  let acc := { acc with count := c, cntOvf := acc.cntOvf || decide (4294967296 < c) }
  match a with
  | .nan => { acc with nan := true }
  | .inf s => if s then { acc with negInf := true } else { acc with posInf := true }
  | .fin s m e =>
    if geq47 m e then (if s then { acc with negInf := true } else { acc with posInf := true })
    else { acc with value := wrap176 (acc.value + gridVal s m e) }

/-- Combine two superaccumulators (R127). -/
def SAcc.comb (a b : SAcc) : SAcc :=
  let c := a.count + b.count
  { value := wrap176 (a.value + b.value), nan := a.nan || b.nan, posInf := a.posInf || b.posInf, negInf := a.negInf || b.negInf,
    cntOvf := a.cntOvf || b.cntOvf || decide (4294967296 < c), count := c }

/-- The 32 bytes of R126. -/
def SAcc.bytes (a : SAcc) : List Byte :=
  leBytes 22 (a.value % two176).toNat ++
  [byte ((if a.nan then 1 else 0) + (if a.posInf then 2 else 0) + (if a.negInf then 4 else 0) + (if a.cntOvf then 8 else 0)), 0#8] ++
  leBytes 8 a.count

/-- Read 32 bytes; `none` when a reserved bit is not zero (R127). -/
def SAcc.ofBytes (bs : List Byte) : Option SAcc :=
  let f := leAt bs 22 1
  if leAt bs 23 1 ≠ 0 ∨ 16 ≤ f then none
  else some ⟨wrap176 (leAt bs 0 22), bit f 0, bit f 1, bit f 2, bit f 3, leAt bs 24 8⟩

/-- The exact value of a superaccumulator by the rows of R128. -/
def SAcc.exact (a : SAcc) : Num :=
  if a.nan ∨ a.cntOvf ∨ (a.posInf ∧ a.negInf) then .nan
  else if a.posInf then .inf false
  else if a.negInf then .inf true
  else .fin (decide (a.value < 0)) a.value.natAbs (-96)

/-- The single final rounding to FP32 (R128). -/
def SAcc.round (a : SAcc) : Num := rne32 a.exact

/-- The quotient of two superaccumulators, as precise as its one rounding needs (R128). A zero value divided by a negative one gives −0, as IEEE
division does (log 85). -/
def SAcc.quot (a b : SAcc) : Num :=
  match a.exact, b.exact with
  | .nan, _ | _, .nan => .nan
  | .inf _, .inf _ => .nan
  | .inf s, .fin t _ _ => .inf (s != t)
  | .fin s _ _, .inf t => .fin (s != t) 0 0
  | .fin s m _, .fin t n _ =>
    if n = 0 then (if m = 0 then Num.zero else .inf (s != t))
    else if m = 0 then .fin (s != t) 0 0
    else ratio (s != t) m n 0

/-! ### The Tallyman's operations (R393, R423) -/

/-- Operand width in bytes of an (`OP`, `TYPE`) pair; `none` where the table has no such pair. -/
def tallyWidth (op typ : Nat) : Option Nat :=
  match op, typ with
  | 0, 0 | 0, 4 => some 4
  | 0, 2 => some 8
  | 1, 0 | 1, 1 | 1, 4 | 2, 0 | 2, 1 | 2, 4 => some 4
  | 1, 2 | 1, 3 | 2, 2 | 2, 3 => some 8
  | 3, 5 => some 8
  | 3, 6 => some 16
  | _, _ => none

/-- What an atomic writes: `old` and the operand as numbers, `w` bytes wide. A `CAS` operand is the expected value, then
the new one. -/
def tallyResult (op typ w old operand : Nat) : Nat :=
  let m := 2 ^ (8 * w)
  match op with
  | 0 => if typ = 4 then fFP32.enc ((fFP32.dec old).add (fFP32.dec operand)) else (old + operand) % m
  | 3 => if old = operand % m then operand / m else old
  | _ =>
    let least := op == 1
    if typ = 4 then fFP32.enc (if least then min32 (fFP32.dec old) (fFP32.dec operand) else max32 (fFP32.dec old) (fFP32.dec operand))
    else
      let le := if typ = 0 ∨ typ = 2 then decide (decInt (8 * w) old ≤ decInt (8 * w) operand) else decide (old ≤ operand)
      if le == least then old else operand

end Sys2Proof.Machine
end

