-- ==== Sys2Proof/Machine/Access.lean ====
section
/-! DEFINITION. Accesses at their home (R33 to R42, R272, R273, R304, R324, R391 to R394, R514): the checks byte by byte, reads,
writes and atomics under the directory, the waits for fills and recalls, and what an access answers its origin. -/

namespace Sys2Proof.Machine

/-- Who makes an access at a home: node and slice of the requester, and whether it is a client's load, store or atomic. -/
structure By where
  node : Nat
  slice : Nat
  client : Bool
  deriving DecidableEq, Repr

/-- A client of slice 0 (R38, R42, R324); the slice number of the request decides, whatever its node. -/
def By.mgmt (b : By) : Bool := b.client && b.slice == 0

/-! ### Revocation (R514) -/

/-- The former holder of a revocation record is this requester. -/
def State.isFormer (s : State) (r : Revoked) (node slice : Nat) : Bool :=
  match r.job with
  | some j => s.mapCur.any (fun m => (m.jobOf node slice).any (fun x => x.num == j))
  | none => node == s.me && slice == r.slice

/-- An extent revoked from this requester touches the range. -/
def State.revokedFor (s : State) (node slice a n : Nat) : Bool :=
  s.revoked.any (fun r => overlap a n r.base r.len && s.isFormer r node slice)

/-- A named region or extent is revoked from this requester. -/
def State.revokedNamed (s : State) (node slice : Nat) (ext : Bool) (num : Nat) : Bool :=
  s.revoked.any (fun r => r.extent == ext && r.num == num && s.isFormer r node slice)

/-! ### Judging an access (R35, R36, R38, R42, R272, R324) -/

/-- The page-table area touches the range (R324). -/
def State.inPtArea (s : State) (a n : Nat) : Bool :=
  let len := s.fld f_XL_PT_LEN_LEN * 2 ^ 21
  len != 0 && overlap a n (s.fld f_XL_PT_BASE_BASE * 2 ^ 21) len

/-- Judge an access to memory, piece by piece: revocation, then windows, then rights. The address of `DETAIL` is the
lowest byte refused. -/
def State.judge (s : State) (b : By) (a n : Nat) (write : Bool) : Res Unit :=
  if s.revokedFor b.node b.slice a n then fail eRevoked 2 a
  else
    let ps := cut tileBytes a n
    match ps.find? (fun p => s.placeOf p.1 == .none || s.placeOf p.1 == .setup) with
    | some p => fail eRange 2 p.1
    | none =>
      match ps.find? (fun p => s.placeOf p.1 == .table && (write || !b.mgmt)) with
      | some p => fail ePerm 2 p.1
      | none => if write && !b.mgmt && s.inPtArea a n then fail ePerm 2 a else .ok ()

/-- The lines of a range that stand in the way (R391). -/
def State.busyLines (s : State) (a n : Nat) (own : Bool) : List Nat :=
  ((s.dir.filter (fun e => overlap a n (64 * e.line) 64)).map (·.line)).filter (s.lineBusy own)

/-- Wait for the directory and for accesses to the same bytes that came earlier (R349, R391). -/
def State.clearWay (s : State) (a n : Nat) (own : Bool) : Res Unit :=
  match s.busyLines a n own with
  | [] => if s.queuedOver a n then .error (.wait []) else .ok ()
  | ls => .error (.wait (ls.map (fun l => .recall l own)))

/-- Join pieces read in order. -/
def joinGot (parts : List ((Nat × Nat) × Got)) (a : Nat) : Got :=
  { bytes := parts.flatMap (fun p => p.2.bytes)
    poison := parts.findSome? (fun p => p.2.poison.map (fun o => p.1.1 - a + o)) }

/-- An access of the setup register space by a party that R38 does not let in: its form is judged first. -/
def setupForm (a n : Nat) : Res Unit :=
  if setupBase ≤ a ∧ a < setupTop then fail (if n = 8 ∧ a % 8 = 0 then ePerm else eAlign) 2 a else .ok ()

/-- Read `n` bytes at the home. -/
def State.homeRead (s : State) (b : By) (a n : Nat) : Res Got := do
  setupForm a n
  s.judge b a n false
  s.clearWay a n false
  let ps := cut tileBytes a n
  let gs ← gather (ps.map (fun p => s.rawPiece p.1 p.2))
  .ok (joinGot (ps.zip gs) a)

/-- Write pieces one after the other. -/
def State.rawWrites (s : State) (a : Nat) (bs : List Byte) (poison : Bool) : Res State :=
  (cut tileBytes a bs.length).foldlM (fun t p => State.rawWrite t p.1 ((bs.drop (p.1 - a)).take p.2) poison) s

/-- The first piece of a store that its tile refuses: of a store over two regions that both refuse a frame, the lower one alone is marked, counted and
reported (DESIGN CHOICE, log 115). -/
def State.refusedAt (s : State) (a : Nat) (bs : List Byte) (poison : Bool) : List (Nat × Nat) → Nat
  | [] => a
  | p :: ps =>
    match s.rawWrite p.1 ((bs.drop (p.1 - a)).take p.2) poison with
    | .ok t => State.refusedAt t a bs poison ps
    | .error _ => p.1

/-- Write bytes at the home. -/
def State.homeWrite (s : State) (b : By) (a : Nat) (bs : List Byte) (poison : Bool) : Res State := do
  setupForm a bs.length
  s.judge b a bs.length true
  s.clearWay a bs.length true
  s.rawWrites a bs poison

/-- An atomic at the home (R52, R351, R393, R394): the state after it and the prior value. -/
def State.homeAtomic (s : State) (b : By) (op typ a : Nat) (operand : List Byte) : Res (State × List Byte) := do
  match tallyWidth op typ with
  | none => fail eFormat 3 (if b.client then 20 else 28)
  | some w =>
    check (operand.length == (if op = 3 then 2 * w else w)) eFormat 3 (if b.client then 16 else 14)
    check (a % w == 0) eAlign 2 a
    s.judge b a w true
    check (!(op == 0 && typ == 4) || s.unord b.node b.slice) ePerm 2 a
    s.clearWay a w true
    let g ← s.rawPiece a w
    check g.poison.isNone ePoison 2 a
    let t ← s.rawWrites a (leBytes w (tallyResult op typ w (leNat g.bytes) (leNat operand))) false
    let t1 := ((t.addWrap f_TALLY_OPS_OPS 1).obs 6 (bank a) 1 b.slice 1).scriv 4 b.slice (6 * 4096 + bank a) s.now a (op + 16 * typ) 0
    .ok (t1, g.bytes)

/-! ### Starting what an access waits for -/

/-- Start one need: a fill or a recall. Another home's answer is asked for by the engine that needs it. -/
def State.startNeed (s : State) : Need → State
  | .fill id _ => s.startFill id
  | .recall line own => s.recallFor line own
  | .room | .held _ _ => s
  | .remote _ _ _ _ => s
  | .version _ _ _ _ => s
  | .put _ _ _ _ _ _ => s

def State.startNeeds (s : State) (ns : List Need) : State := forL ns s (fun n t => t.startNeed n)

/-! ### Answers to requesters (R409, R411, R457) -/

/-- A response on Quaril: the request's `TAG`, `STREAM` and `EPOCH`, source and destination swapped (R409). -/
def State.respond (s : State) (p : QPkt) (typ tc aux : Nat) (payload : List Byte) (poison : Bool) : State :=
  s.sendQf { s.mkQ p.src typ tc payload with
    epoch := s.rspEpoch p.epoch, stream := p.stream, tag := p.tag, addr := p.addr, slice := p.slice, aux := aux, poison := poison }

/-- Class of the response a request type would receive (R410). -/
def rspClass (typ : Nat) : Nat := if 0x10 ≤ typ ∧ typ ≤ 0x22 then 1 else 3

/-- `ERR` on Quaril (R411). -/
def State.respondErr (s : State) (p : QPkt) (f : Fail) : State :=
  s.respond p 0x0F (rspClass p.typ) (f.status + 256 * f.kind) (leBytes 8 f.detail) false

/-- A response to a client request (R456, R457): response type, status with its `DETAIL`, payload. -/
def State.klRespond (s : State) (port : Nat) (p : KPkt) (typ : Nat) (f : Fail) (payload : List Byte) (poison : Bool) : State :=
  s.sendKl port { mkKl typ 3 p.tag p.addr 0 payload with
    stream := p.stream, status := f.status, detailKind := f.kind, detail := f.detail, poison := poison }

def okFail : Fail := ⟨stOk, 0, 0⟩

/-- Response type of a client request type. -/
def klRspType (typ : Nat) : Nat := match typ with | 0x01 => 0x02 | 0x03 => 0x04 | 0x05 => 0x06 | 0x07 => 0x08 | _ => 0x0F

/-- Payload of a failed client request: a load returns all ones marked poisoned (R457, R429), an atomic too (R394). -/
def failPayload (p : KPkt) (f : Fail) : List Byte × Bool :=
  if p.typ = 0x01 then (List.replicate (p.aux % 2048) 0xFF#8, true)
  else if p.typ = 0x05 ∧ f.status = ePoison then
    (List.replicate ((tallyWidth (bits p.aux 0 4) (bits p.aux 4 4)).getD 0) 0xFF#8, true)
  else ([], false)

/-! ### Invalidations under way (R331, R332, R335) -/

/-- End a descriptor: it has its outcome and waits for its record (R91). A `KV_APPEND` that had started and ends with an error is counted (R165). -/
def State.endDesc (s0 : State) (k : DKey) (status kind detail progress : Nat) : State :=
  let cut := (s0.desc k).any (fun d => d.op == 0x10 && d.phase == .running && d.started && decide (0x10 ≤ status))
  let s := if cut then s0.incSat f_ATT_ERR_APPENDS_CUT else s0
  let s1 := { s with descs := upd s.descs (fun d => d.key == k) (fun d =>
      { d with phase := .ended, status := status, kind := kind, detail := detail, progress := progress, moving := [] }) }
  -- frames allocated for a tile that was still moving are freed (R294)
  if (s0.desc k).any (fun d => d.op == 0x38 && d.at 18 1 == 2 && !d.moving.isEmpty) then s1.gc.1 else s1

/-- Descriptors that an abort has stopped end once nothing of theirs is outstanding (R332, R510, R514). -/
def State.endStopped (s : State) : State :=
  forL (s.descs.filter (fun d => d.phase == .running && d.stop.isSome)) s (fun d t =>
    if t.outReqs.any (fun o => match o.who with | .desc x _ => x == d.key | _ => false) then t
    else match d.stop with
      | some (st, cause) => t.endDesc d.key st 8 cause d.progress
      | none => t)

/-- Coherent requests of clients of this ZV9 that wait in the directory for the answers of holders. -/
def State.cohWaiting (s : State) : List Req :=
  s.dir.filterMap (fun e => match e.cause with
    | .req (.client port p) _ _ _ _ => some (.client port p)
    | _ => none)

/-- Every access through a covered entry is answered, and every descriptor stopped has ended (R331). -/
def State.invalQuiet (s : State) (v : Inval) : Bool :=
  !s.outReqs.any (fun o => v.tags.contains o.pkt.tag) && !s.txns.any (fun t => v.txns.contains t.id) &&
  !(s.fillQ ++ s.bankQ).any (fun w => v.accs.contains w.acc) && !s.cohWaiting.any v.cohs.contains && !v.waits.any (fun k => s.descs.any (fun d => d.key == k && d.phase == .running)) &&
  !v.victims.any (fun k => s.descs.any (fun d => d.key == k && d.phase == .running && d.stop.isSome))

/-- End the invalidations that are quiet: the `INVAL` completes, or `BUSY` of `XL_ROOT` clears. -/
def State.reapInvals (s : State) : State :=
  let s1 := s.endStopped
  let done := s1.invals.filter s1.invalQuiet
  let s2 := { s1 with invals := s1.invals.filter (fun v => !s1.invalQuiet v) }
  let s3 := forL done s2 (fun v t => match v.key with
    | some k =>
      let u := if t.descs.any (fun d => d.key == k && d.phase == .running)
        then t.endDesc k stOk (if v.abort then 1 else 0) (if v.abort then v.victims.length else 0) 1 else t
      u.addWrap f_XL_INVAL_STAT_DONE 1
    | none => t.setFldAt f_XL_ROOT_BUSY v.slice 0)
  if done.isEmpty then s3 else s3.setFld f_XL_INVAL_STAT_IN_FLIGHT s3.invals.length

/-! ### Client transactions -/

def State.txn (s : State) (id : Nat) : Option CTxn := s.txns.find? (fun t => t.id == id)

/-- What a thread carries over (R364, R422). -/
def State.thread (s : State) (port stream : Nat) : Thread :=
  (s.threads.find? (fun t => t.port == port && t.stream == stream)).getD { port := port, stream := stream, failed := [], syncFail := none }

def State.setThread (s : State) (t : Thread) : State :=
  let rest := del s.threads (fun x => x.port == t.port && x.stream == t.stream)
  if t.failed.isEmpty && t.syncFail.isNone then { s with threads := rest }
  else { s with threads := rest ++ [{ t with slice := t.slice <|> s.bound t.port }] }

/-- The response of a transaction whose parts are all in, and what a failed write leaves behind (R364, R422). -/
def State.closeTxn (s : State) (t : CTxn) : State :=
  let f : Fail := ⟨t.status, t.kind, if t.kind = 2 then t.req.addr else t.detail⟩
  let s1 := { s with txns := del s.txns (fun x => x.id == t.id) }
  if t.status = stOk then
    let bytes := if t.req.typ = 0x03 then [] else (sortBy (fun a b => decide (a.1 ≤ b.1)) t.got).flatMap (·.2)
    (s1.klRespond t.port t.req (klRspType t.req.typ) f bytes t.poison).reapInvals
  else
    let (pl, po) := failPayload t.req f
    (s1.klRespond t.port t.req (klRspType t.req.typ) f pl po).reapInvals

/-- Record that a write of a thread failed (R364): its home when known, the status and its `DETAIL`. -/
def State.noteFailed (s : State) (port : Nat) (p : KPkt) (home : Option Nat) (f : Fail) : State :=
  if p.typ = 0x03 ∨ p.typ = 0x05 then
    let th := s.thread port p.stream
    s.setThread { th with failed := th.failed ++ [(home, f.status, f.kind, f.detail)] }
  else s

/-- One part of a transaction is answered: its bytes, or a status with its `DETAIL`. -/
def State.partDone (s : State) (id off home : Nat) (r : Except Fail (List Byte × Bool)) : State :=
  match s.txn id with
  | none => s
  | some t =>
    let t1 := match r with
      | .ok (bs, po) => { t with left := t.left - 1, got := t.got ++ [(off, bs)], poison := t.poison || po }
      | .error f => if t.status = stOk then { t with left := t.left - 1, status := f.status, kind := f.kind, detail := f.detail }
                    else { t with left := t.left - 1 }
    let s1 := { s with txns := upd s.txns (fun x => x.id == id) (fun _ => t1) }
    let s2 := match r with
      | .ok _ => s1
      | .error f => s1.noteFailed t.port t.req (some home) f
    if t1.left = 0 then s2.closeTxn t1 else s2

/-! ### Performing an access at its bank (R279, R391) -/

/-- The thread of a client's access: its node, Kellija port and stream (R347). -/
def State.threadOf (s : State) (x : Acc) : Option (Nat × Nat) :=
  match x.org with
  | .txn id _ => (s.txn id).map (fun t => (s.me, t.port * 8192 + t.req.stream))
  | .peer p => if p.stream < 0x8000 then some (p.src, p.stream) else none
  | _ => none

def AccOp.writes : AccOp → Bool
  | .read _ => false
  | _ => true

/-- Accesses of a thread that are queued here. -/
def State.threadQueued (s : State) (t : Nat × Nat) (writes : Bool) : Bool :=
  (s.fillQ ++ s.bankQ).any (fun w => (!writes || w.acc.op.writes) && s.threadOf w.acc == some t)

/-- A write or atomic waits for the earlier ones of its thread (R354). -/
def State.writeWaits (s : State) (x : Acc) : Bool := x.op.writes && (s.threadOf x).any (fun t => s.threadQueued t true)

/-- What an access gives: the state, the bytes read or the prior value, and poison. -/
def State.perform (s : State) (x : Acc) : Res (State × List Byte × Bool) :=
  if s.writeWaits x then .error (.wait []) else
  let client := match x.org with | .peer p => p.typ != 0x07 && p.typ != 0x08 && p.stream < 0x8000 | .desc _ => false | _ => true
  let b : By := { node := x.node, slice := x.slice, client := client }
  match x.op with
  | .read n => (s.homeRead b x.addr n).map (fun g => (s.zeroFill x.addr n, g.bytes, g.poison.isSome))
  | .write bs po =>
    match s.homeWrite b x.addr bs po with
    | .ok t => .ok (t, [], false)
    | .error (.err f) =>
      -- a plain store that the quota refuses is discarded (R52); a write of a descriptor is not one
      if f.status = eQuota && client then .ok (s.discardStore x.addr (s.refusedAt x.addr bs po (cut tileBytes x.addr bs.length)), [], false) else .error (.err f)
    | .error e => .error e
  | .atomic op typ operand => (s.homeAtomic b op typ x.addr operand).map (fun r => (r.1, r.2, false))

/-- Answer the origin of an access that is done. -/
def State.finish (s : State) (x : Acc) (r : Except Fail (List Byte × Bool)) : State :=
  match x.org with
  | .none | .desc _ => s
  | .txn id off => s.partDone id off s.me r
  | .peer p =>
    match r with
    | .ok (bs, po) =>
      match x.op with
      | .read _ => s.respond p 0x02 3 0 bs po
      | .write _ _ => s.respond p 0x04 3 0 [] false
      | .atomic _ _ _ => s.respond p 0x06 3 0 bs po
    | .error f => s.respondErr p f
  | .nc q =>
    match r with
    | .ok (bs, po) => s.answer q 0x1A 0 bs po
    | .error f => s.answerErr q f

/-- Accesses queued at a bank (R391). -/
def State.bankLoad (s : State) (b : Nat) : Nat := (s.bankQ.filter (fun w => w.bank == b)).length

/-- The bank's queue of R391 is full: its input back-pressures the next such access. -/
def State.bankFull (s : State) (a : Nat) : Bool := decide (64 ≤ s.bankLoad (bank a))

/-- Make an access at its bank: done and answered, or queued behind what it waits for. -/
def State.access (s : State) (x : Acc) : State :=
  match s.perform x with
  | .ok (t, bs, po) => t.finish x (.ok (bs, po))
  | .error (.err f) => s.finish x (.error f)
  | .error (.wait ns) =>
    let w : Waiting := { acc := x, bank := bank x.addr }
    let s1 := s.startNeeds ns
    if ns.any (fun n => match n with | .recall _ _ => true | _ => false) || ns.isEmpty then { s1 with bankQ := s1.bankQ ++ [w] }
    else { s1 with fillQ := s1.fillQ ++ [w] }

/-- Retry a waiting access; it sees only the accesses that came before it. It was accepted when it came, so a revoke since then
does not refuse it (R514). -/
def State.retryWaiting (s : State) (w : Waiting) (before after : List Waiting) (fill : Bool) : State :=
  match w.acc.org with
  | .desc k =>
    -- the place of an engine's access, which its own command makes; it is given up once that descriptor no longer runs
    if s.descs.any (fun d => d.key == k && d.phase == .running && d.stop.isNone) then s
    else if fill then { s with fillQ := before ++ after } else { s with bankQ := before ++ after }
  | _ =>
  let s0 := if fill then { s with fillQ := before, bankQ := [], revoked := [] } else { s with bankQ := before, revoked := [] }
  let join (t0 : State) : State :=
    let t := { t0 with revoked := s.revoked }
    if fill then { t with fillQ := t.fillQ ++ after, bankQ := s.bankQ } else { t with bankQ := t.bankQ ++ after }
  match s0.perform w.acc with
  | .ok (t, bs, po) => (join t).finish w.acc (.ok (bs, po))
  | .error (.err f) => (join s0).finish w.acc (.error f)
  | .error (.wait ns) =>
    let s1 := s0.startNeeds ns
    join (if fill then { s1 with fillQ := s1.fillQ ++ [w] } else { s1 with bankQ := s1.bankQ ++ [w] })

/-- Retry every access that waits for a fill, oldest first. -/
def State.retryFills (s : State) : State :=
  (List.range s.fillQ.length).foldl (fun (t : State × Nat) _ =>
    match t.1.fillQ.drop t.2 with
    | [] => t
    | w :: after =>
      let t1 := t.1.retryWaiting w (t.1.fillQ.take t.2) after true
      (t1, t.2 + (t1.fillQ.length + 1 - t.1.fillQ.length))) (s, 0) |>.1

/-- A fill ended with a status: the accesses that waited for this frame alone end with it (R263, R301). -/
def State.failFills (s : State) (id : Nat) (f : Fail) : State :=
  let hit (w : Waiting) : Bool :=
    w.over (s.frameAddr id) tileBytes
  let ws := s.fillQ.filter hit
  forL ws { s with fillQ := s.fillQ.filter (fun w => !hit w) } (fun w t => t.finish w.acc (.error f))

end Sys2Proof.Machine
end

