-- ==== Sys2Proof/Machine/Xlate.lean ====
section
/-! DEFINITION. Address translation (R318 to R328, R336 to R338): the walk, the caches, rights, translation blocks, access
counters and migration records. -/

namespace Sys2Proof.Machine

/-! ### The walk (R319 to R324) -/

/-- How a walk ends. -/
inductive Walk where
  | leaf (l : Leaf)
  | unmapped | bad | poison
  deriving DecidableEq, Repr

/-- Lowest address bit and width of a level's index (R320). -/
def xlShift (level : Nat) : Nat × Nat := match level with | 4 => (47, 10) | 3 => (38, 9) | 2 => (30, 8) | 1 => (21, 9) | _ => (12, 9)

/-- Bytes of a table of a level. -/
def xlTable (level : Nat) : Nat := 16 * 2 ^ (xlShift level).2

/-- Page bytes of a `SIZE` code (R321). -/
def leafBytes (size : Nat) : Nat := match size with | 0 => 2 ^ 12 | 1 => 2 ^ 16 | 2 => 2 ^ 21 | 3 => 2 ^ 30 | _ => 2 ^ 38

/-- `n` bytes lie wholly in the page-table area. -/
def State.withinPt (s : State) (a n : Nat) : Bool :=
  let b := s.fld f_XL_PT_BASE_BASE * 2 ^ 21
  decide (b ≤ a ∧ a + n ≤ b + s.fld f_XL_PT_LEN_LEN * 2 ^ 21)

/-- What an entry read at a level says (R321, R322). `first`: it is the first entry of its group of 16. -/
inductive XlEnt where
  | invalid | bad
  | table (a : Nat)
  | leaf (l : Leaf)
  deriving DecidableEq, Repr

def State.xlEntry (s : State) (level : Nat) (first : Bool) (e : List Byte) : XlEnt :=
  let loc := leAt e 0 8
  let node := leAt e 8 2
  let typ := leAt e 10 1
  let perm := leAt e 11 1
  let size := leAt e 12 1
  let flags := leAt e 13 1
  if 2 ^ 50 ≤ loc ∨ 16 ≤ perm ∨ 2 ≤ flags ∨ leAt e 14 2 ≠ 0 ∨ 3 ≤ typ ∨ 5 ≤ size then .bad
  else match typ with
    | 0 => .invalid
    | 1 =>
      if level = 0 ∨ node ≠ 0 ∨ size ≠ 0 ∨ loc % xlTable (level - 1) ≠ 0 ∨ !s.withinPt loc (xlTable (level - 1)) then .bad else .table loc
    | _ =>
      let allowed := match level with | 3 => size == 4 | 2 => size == 3 | 1 => size == 2 | 0 => size == 0 || (size == 1 && first) | _ => false
      if !allowed ∨ loc % leafBytes size ≠ 0 then .bad
      else .leaf { node := node, loc := loc, perm := perm, size := size, count := bit flags 0 }

/-- A walk: how it ends, the tables that its table entries named (level, address), the levels it read and the bad entries it met. -/
structure Walked where
  res : Walk
  tables : List (Nat × Nat)
  levels : Nat
  bad : Nat
  deriving DecidableEq, Repr

/-- A walk that ends at a level. -/
def Walked.at (r : Walk) (bad : Nat) : Walked := { res := r, tables := [], levels := 1, bad := bad }

/-- The indexed entry of a 4 KiB group at level 0, after a first entry of the group that was bad or not. -/
def State.smallLeaf (s : State) (table i bad : Nat) : Walked :=
  let a := table + 16 * i
  if s.memPoisoned a 16 then .at .poison bad
  else match s.xlEntry 0 false (s.memRead a 16) with
    | .leaf l => .at (.leaf l) bad
    | .invalid => .at .unmapped bad
    | _ => .at .bad (bad + 1)

/-- Walk from the table of a level (R322). A bad first entry of a group counts though another entry of it is then read. -/
def State.walkFrom (s : State) (va : Nat) : Nat → Nat → Walked
  | 0, table =>
    let i := bits va 12 9
    let g := i / 16 * 16
    let ga := table + 16 * g
    let ge := s.memRead ga 16
    if s.memPoisoned ga 16 then .at .poison 0
    else match s.xlEntry 0 true ge with
      | .leaf l => if l.size = 1 ∨ i = g then .at (.leaf l) 0 else s.smallLeaf table i 0
      | .invalid => if i = g then .at .unmapped 0 else s.smallLeaf table i 0
      | _ => if (leAt ge 10 1 = 2 ∧ leAt ge 12 1 = 1) ∨ i = g then .at .bad 1 else s.smallLeaf table i 1
  | level + 1, table =>
    let (sh, w) := xlShift (level + 1)
    let a := table + 16 * bits va sh w
    if s.memPoisoned a 16 then .at .poison 0
    else match s.xlEntry (level + 1) false (s.memRead a 16) with
      | .invalid => .at .unmapped 0
      | .bad => .at .bad 1
      | .leaf l => .at (.leaf l) 0
      | .table t =>
        let w := s.walkFrom va level t
        { w with tables := (level, t) :: w.tables, levels := w.levels + 1 }

/-- The walk of a slice's table from its root (R319, R322, R335): a root outside the area is a bad entry. -/
def State.walkRoot (s : State) (slice va : Nat) : Walked :=
  let root := s.fldAt f_XL_ROOT_ROOT slice * 2 ^ 14
  if s.fldAt f_XL_ROOT_VALID slice = 0 then { res := .unmapped, tables := [], levels := 0, bad := 0 }
  else if !s.withinPt root (xlTable 4) then .at .bad 1
  else s.walkFrom va 4 root

/-! ### Caches (R325, R326) -/

/-- Translation caches: 0 to 7 attention sequencers, 8 to 23 Assayers, 24 to 31 Gleaners, 32 to 63 tile movers, 64 to 67
Kellija port translators, 68 the ring front end, 69 the shared cache. -/
def uSeq (i : Nat) : Nat := i
def uAsy (i : Nat) : Nat := 8 + i
def uGln (i : Nat) : Nat := 24 + i
def uMov (i : Nat) : Nat := 32 + i
def uPort (i : Nat) : Nat := 64 + i
def uRing : Nat := 68
def uShared : Nat := 69

/-- Virtual bytes that an entry covers. -/
def XlHold.bytes : XlHold → Nat
  | .leaf l => leafBytes l.size
  | .table level _ => 2 ^ (xlShift (level + 1)).1

/-- Entries of a cache that cover a virtual address of a slice. -/
def State.cachedAt (s : State) (unit slice va : Nat) : List XlEntry :=
  s.xlCache.filter (fun e => e.unit == unit && e.slice == slice && decide (e.va ≤ va ∧ va < e.va + e.hold.bytes))

/-- The cached leaf of a virtual address in one cache. -/
def State.cached (s : State) (unit slice va : Nat) : Option Leaf :=
  (s.cachedAt unit slice va).findSome? (fun e => match e.hold with | .leaf l => some l | .table _ _ => none)

/-- The lowest table that the unit's cache, or the shared one, holds for a virtual address. -/
def State.cachedTable (s : State) (unit slice va : Nat) : Option (Nat × Nat) :=
  let ts := (s.cachedAt unit slice va ++ s.cachedAt uShared slice va).filterMap (fun e => match e.hold with
    | .table level a => some (level, a)
    | .leaf _ => none)
  (List.range 4).findSome? (fun level => ts.find? (fun t => t.1 == level))

/-- A walk for a unit: from the lowest table that a cache holds, else from the root. -/
def State.walkVa (s : State) (unit slice va : Nat) : Walked :=
  match s.cachedTable unit slice va with
  | some (level, a) => s.walkFrom va level a
  | none => s.walkRoot slice va

/-- The leaf that an access through `unit` uses: cached, or walked. -/
def State.leafOf (s : State) (unit slice va : Nat) : Walk :=
  match s.cached unit slice va, s.cached uShared slice va with
  | some l, _ => .leaf l
  | none, some l => .leaf l
  | none, none => (s.walkVa unit slice va).res

/-- Capacity of a cache. -/
def xlCap (unit : Nat) : Nat := if unit = uShared then 65536 else 2048

/-- Put an entry into a cache; the oldest entry leaves a full one. -/
def State.cacheEntry (s : State) (unit slice va : Nat) (h : XlHold) : State :=
  let e : XlEntry := { unit := unit, slice := slice, va := va / h.bytes * h.bytes, hold := h }
  let same (x : XlEntry) : Bool := x.unit == unit && x.slice == slice && x.va == e.va && x.hold.bytes == h.bytes
  let rest := del s.xlCache same
  let rest1 := match rest.filter (fun x => x.unit == unit) with
    | o :: mine => if mine.length + 1 < xlCap unit then rest else rest.erase o
    | [] => rest
  { s with xlCache := rest1 ++ [e] }

/-- Keep what a walk read: its tables and its leaf, in the unit's cache and in the shared one. -/
def State.cacheWalk (s : State) (unit slice va : Nat) (w : Walked) : State :=
  let hs := w.tables.map (fun t => XlHold.table t.1 t.2) ++ (match w.res with | .leaf l => [XlHold.leaf l] | _ => [])
  forL hs s (fun h t => (t.cacheEntry unit slice va h).cacheEntry uShared slice va h)

/-! ### Translating a block (R323, R327) -/

/-- Rights (R321): 1 `R`, 2 `W`, 4 `ATOMIC`. -/
def rRead : Nat := 1
def rWrite : Nat := 2
def rAtomic : Nat := 7

def hasRight (perm right : Nat) : Bool := (perm &&& right) == right

/-- A piece of a translated range: virtual address, node, local address, length. -/
structure Piece where
  va : Nat
  node : Nat
  loc : Nat
  len : Nat
  deriving DecidableEq, Repr

/-- Translate one page's part of a block. -/
def State.xlPiece (s : State) (unit slice right : Nat) (p : Nat × Nat) : Res Piece :=
  match s.leafOf unit slice p.1 with
  | .leaf l =>
    if hasRight l.perm right then .ok { va := p.1, node := l.node, loc := l.loc + p.1 % leafBytes l.size, len := p.2 } else fail ePerm 2 p.1
  | .poison => fail ePoison 2 p.1
  | .unmapped | .bad => fail eXlate 2 p.1

/-- Join neighbouring pieces that continue each other on one node. -/
def joinPieces : List Piece → List Piece
  | [] => []
  | p :: ps =>
    match joinPieces ps with
    | q :: qs => if q.node = p.node ∧ q.loc = p.loc + p.len then { p with len := p.len + q.len } :: qs else p :: q :: qs
    | [] => [p]

/-- Translate every page that `n` bytes from `va` touch; the first page that fails decides (R327). -/
def State.xlate (s : State) (unit slice va n right : Nat) : Res (List Piece) :=
  if 2 ^ 57 < va + n then fail eRange 2 va
  else (gather ((cut 4096 va n).map (s.xlPiece unit slice right))).map joinPieces

/-- The leaf of a virtual address carries `CACHE` (R323). -/
def State.leafCaches (s : State) (unit slice va : Nat) : Bool :=
  match s.leafOf unit slice va with
  | .leaf l => bit l.perm 3
  | _ => false

/-! ### Access counters and migration records (R336 to R338) -/

/-- Write a migration record and zero the page's counts (R337, R338). -/
def State.migRecord (s : State) (slice page loc node flag host dev : Nat) : State :=
  let l2 := s.fld f_XL_MIG_RING_LOG2
  let prod := s.fld f_XL_MIG_IDX_PROD
  if sub32 prod (s.fld f_XL_MIG_IDX_CONS) = 2 ^ l2 then s.incSat f_XL_MIG_STAT_DROPS
  else
    let phase := if prod / 2 ^ l2 % 2 = 0 then 128 else 0
    let r := leBytes 8 (page * 2 ^ 21) ++ leBytes 8 loc ++ leBytes 2 node ++ [byte slice, byte (flag + phase)] ++
      leBytes 4 host ++ leBytes 4 dev ++ leBytes 4 s.now
    (s.recordWrite (s.fld f_XL_MIG_RING_BASE * 2048 + 32 * (prod % 2 ^ l2)) r).setFld f_XL_MIG_IDX_PROD (prod + 1)

/-- Add `n` to a page's host or device count, writing a record at each crossing of the threshold (R336, R337). -/
def State.countPage (s : State) (slice page : Nat) (leaf : Leaf) (loc : Nat) (host : Bool) : Nat → Nat → State
  | 0, _ => s
  | fuel + 1, n =>
    if n = 0 then s
    else
      let old := (s.xlCounts.find? (fun c => c.slice == slice && c.page == page)).getD ⟨slice, page, 0, 0⟩
      let present := s.xlCounts.any (fun c => c.slice == slice && c.page == page)
      let rest := del s.xlCounts (fun c => c.slice == slice && c.page == page)
      -- a full cache loses the entry incremented least recently
      let (rest, s) := if !present && decide (65536 ≤ rest.length) then (rest.dropLast, s.incSat f_XL_MIG_STAT_EVICTIONS) else (rest, s)
      let lim := 2 ^ (if host then s.fld f_XL_MIG_CTL_HOST_LOG2 else s.fld f_XL_MIG_CTL_DEV_LOG2)
      let have_ := if host then old.host else old.dev
      let add := min n (lim - min have_ (lim - 1))
      let now := min (have_ + add) (two32 - 1)
      let c := if host then { old with host := now } else { old with dev := now }
      if lim ≤ now then
        let s1 := s.migRecord slice page (loc / leafBytes leaf.size * leafBytes leaf.size) leaf.node (if host then 1 else 2) c.host c.dev
        State.countPage { s1 with xlCounts := { c with host := 0, dev := 0 } :: rest } slice page leaf loc host fuel (n - add)
      else State.countPage { s with xlCounts := c :: rest } slice page leaf loc host fuel (n - add)

/-- What translating one page's part leaves behind: a walk counted with the bad or poisoned entries it met, and what it read cached. -/
def State.notePage (s : State) (unit slice va : Nat) : State :=
  match s.cached unit slice va, s.cached uShared slice va with
  | some _, _ => s
  | none, some l => s.cacheEntry unit slice va (.leaf l)
  | none, none =>
    if s.fldAt f_XL_ROOT_VALID slice = 0 then s
    else
      let w := s.walkVa unit slice va
      let mapped := match w.res with | .leaf _ => 1 | _ => 0
      let s1 := ((s.addWrap f_XL_WALKS_WALKS 1).scriv 3 slice 0 s.now va w.levels mapped).addSatAt f_XL_ERR_BAD_ENTRIES 0 w.bad
      (if w.res = .poison then s1.incSat f_XL_ERR_WALK_POISON else s1).cacheWalk unit slice va w

/-- A leaf whose accesses are counted, at a virtual address. -/
def State.countedLeaf (s : State) (unit slice va : Nat) : Option Leaf :=
  match s.leafOf unit slice va with
  | .leaf l => if l.count then some l else none
  | _ => none

/-- Count a translated access (R336): 1 in each 2 MiB page for a client's, one for each 64 bytes for an engine's. The leaf of the part that
brings a count to its threshold is the one that the record names (R337). -/
def State.countAccess (s : State) (unit slice va n : Nat) (host : Bool) : State :=
  if s.fld f_XL_MIG_CTL_ENABLE = 0 then s
  else if host then forL (cut (2 ^ 21) va n) s (fun p t =>
    match (cut 4096 p.1 p.2).findSome? (fun q => (t.countedLeaf unit slice q.1).map (fun l => (q.1, l))) with
    | some (a, l) => t.countPage slice (a / 2 ^ 21) l (l.loc + a % leafBytes l.size) true 2 1
    | none => t)
  else forL (cut 4096 va n) s (fun p t =>
    match t.countedLeaf unit slice p.1 with
    | some l => let k := ceilDiv p.2 64; t.countPage slice (p.1 / 2 ^ 21) l (l.loc + p.1 % leafBytes l.size) false (k + 1) k
    | none => t)

/-- The walks of a block: page by page up to the first that is not mapped. -/
def State.noteWalks (s : State) (unit slice : Nat) : List (Nat × Nat) → State
  | [] => s
  | p :: ps =>
    let t := s.notePage unit slice p.1
    match s.leafOf unit slice p.1 with
    | .leaf _ => t.noteWalks unit slice ps
    | _ => t

/-- What an access of `n` bytes that its translation refuses leaves behind: it is walked up to its failing page, and counted nowhere; an address
outside the virtual space is not walked. -/
def State.noteTry (s : State) (unit slice va n : Nat) : State :=
  if 2 ^ 57 < va + n then s else s.noteWalks unit slice (cut 4096 va n)

/-- What translating and making an access of `n` bytes leaves behind. -/
def State.noteAccess (s : State) (unit slice va n : Nat) (host : Bool) : State :=
  if 2 ^ 57 < va + n then s else (s.noteWalks unit slice (cut 4096 va n)).countAccess unit slice va n host

/-- Virtual ranges of the leaves that a range is translated through now. -/
def State.leafRanges (s : State) (unit slice va n : Nat) : List (Nat × Nat) :=
  ((cut 4096 va n).filterMap (fun p => match s.leafOf unit slice p.1 with
    | .leaf l => some (p.1 / leafBytes l.size * leafBytes l.size, leafBytes l.size)
    | _ => none)).eraseDups

/-- The leaves that a waiting access is translated through. -/
def State.heldBy (s : State) (unit slice va n : Nat) : List Need := (s.leafRanges unit slice va n).map (fun p => .held p.1 p.2)

/-- Remove the cached entries of a slice that overlap a range, or all of them (R331). -/
def State.dropXlate (s : State) (slice base len : Nat) (all : Bool) : State :=
  { s with xlCache := del s.xlCache (fun e => e.slice == slice && (all || overlap e.va e.hold.bytes base len)) }

end Sys2Proof.Machine
end

