-- ==== Sys2Proof/Machine/Requests.lean ====
section
/-! DEFINITION. Requests on the fabric (R408 to R430): sending with a tag, what ends a request at its requester at once, and
the reads and writes that engines make through translated addresses, here and at other homes. -/

namespace Sys2Proof.Machine

/-! ### Sending a request -/

/-- `E_FENCED` of this ZV9 (kind 6 of R93). -/
def State.fencedFail (s : State) : Fail := ⟨eFenced, 6, s.fenceEpoch⟩

/-- `E_DEAD_TARGET` from the fabric (R429, R430). -/
def deadFail (node phase : Nat) : Fail := ⟨eDeadTarget, 7, detail7 node phase 0⟩

/-- What ends a request to a node at once, before any packet (R419, R430, R438). -/
def State.refuseTo (s : State) (node phase : Nat) : Option Fail :=
  if s.fenced then some s.fencedFail
  else match s.mapCur.bind (fun m => m.ent node) with
  | none => some (deadFail node phase)
  | some e =>
    match e.state with
    | .dead => some (deadFail node phase)
    | .fenced => some ⟨eFenced, 6, e.since⟩
    | .live => if (s.outPort s.epoch node 0).isSome then none else some (deadFail node phase)

/-- The epoch that marked the source of a packet dead or fenced in the current map. -/
def State.fencedSrc (s : State) (src : Nat) : Option Nat :=
  (s.mapCur.bind (fun m => m.ent src)).bind (fun e => if e.state == .live then none else some e.since)

/-- A home judges the epoch of a request (R424). -/
def State.epochOk (s : State) (x : Nat) : Bool :=
  x == s.epoch || (x == nextEpoch s.epoch && s.mapPrep.any (fun m => m.epoch == x)) || (s.grace && isPrevEpoch x s.epoch)

/-- Cells that the largest response to a request takes (R410, R411). -/
def QPkt.rspCells (p : QPkt) : Nat :=
  ceilDiv (32 + (match p.typ with
    | 0x01 | 0x07 => max 8 p.aux
    | 0x05 | 0x09 => 16
    | _ => 8)) 256

/-- Cells reserved for responses in the share of the engine that a `STREAM` names. -/
def State.rspUsed (s : State) (stream : Nat) : Nat :=
  ((s.outReqs.filter (fun o => o.pkt.stream == stream && o.sends != 0)).map (fun o => o.pkt.rspCells)).sum

/-- A request has space for its largest response where that is consumed: the share of its engine, which holds one at least, or the adapter's
own space, which a client reserves before it sends (R415, R460, R483). -/
def State.rspRoom (s : State) (p : QPkt) : Bool :=
  let n := s.rspUsed p.stream + p.rspCells
  decide (p.stream < 0x8000 ∨ n ≤ 5 ∨ n ≤ Config.rspSpace (p.stream - 0x8000))

/-- The oldest request that waits for space in a share. -/
def State.waitsRsp (s : State) (stream : Nat) : Option OutReq := s.outReqs.find? (fun o => o.sends == 0 && o.pkt.stream == stream)

/-- Send a waiting request, its space reserved, if it is the oldest of its share and has room. A node that the map no longer lists live gets none
(R430). A request of an epoch whose table this ZV9 no longer holds is rejected here, as any ZV9 on its way would reject it, and goes with the
current epoch (R419, R425). -/
def State.issueReq (s : State) (o : OutReq) : State :=
  if s.waitsRsp o.pkt.stream = some o ∧ s.rspRoom o.pkt ∧ (s.refuseTo o.pkt.dest 0).isNone then
    if (s.mapOf o.pkt.epoch).isSome then
      ({ s with outReqs := s.outReqs.map (fun (x : OutReq) => if x = o then { x with sends := 1, since := s.now } else x) }).sendQf o.pkt
    else
      let q := { o.pkt with epoch := s.epoch }
      ({ s with outReqs := s.outReqs.map (fun (x : OutReq) => if x = o then { x with pkt := q, sends := 2, since := s.now } else x) }.incSat
        f_QF_ERR_STALE_REJECTS).sendQf q
  else s

/-- Requests that found no space are sent as responses free it, the oldest of each share first (R483, log 94). -/
def State.pumpRsp (s : State) : State := forL (s.outReqs.filter (fun o => o.sends == 0)) s (fun o t => t.issueReq o)

/-- Two requests are of one thread (R347): one stream, and for engines one descriptor. -/
def OutReq.sameThread (x y : OutReq) : Bool :=
  x.pkt.stream == y.pkt.stream && (match x.who, y.who with
    | .desc k _, .desc l _ => k == l
    | _, _ => true)

/-- A rejected request may be sent again: no earlier request of its thread to that home is rejected and unsent, or unanswered under an older epoch
(R365, R421). -/
def State.mayResend (s : State) (o : OutReq) : Bool :=
  o.stale && (s.refuseTo o.pkt.dest 0).isNone &&
  !(s.outReqs.takeWhile (fun x => x != o)).any (fun x => x.sameThread o && x.pkt.dest == o.pkt.dest && x.sends != 0 && (x.stale || x.pkt.epoch != s.epoch))

/-- Send again the rejected requests whose turn has come, in program order (R365, R425). -/
def State.pumpStale (s : State) : State :=
  forL (s.outReqs.filter (·.stale)) s (fun o t =>
    if t.mayResend o then
      let q := { o.pkt with epoch := t.epoch, hops := 0, dl := 0 }
      ({ t with outReqs := t.outReqs.map (fun (x : OutReq) => if x = o then { x with pkt := q, sends := x.sends + 1, stale := false } else x) }).sendQf q
    else t)

/-- Send a request under the next tag once its response has space (R408, R415, R429); `pages`: the leaves that it was translated through. -/
def State.sendReq (s : State) (p : QPkt) (who : Issuer) (pages : List (Nat × Nat) := []) : State :=
  let o : OutReq := { pkt := { p with tag := s.nextTag % two32 }, who := who, sends := 0, since := s.now, pages := pages }
  { s with nextTag := s.nextTag + 1, outReqs := s.outReqs ++ [o] }.issueReq o

/-! ### Engines -/

/-- `STREAM` of an engine's packets (R408). -/
def engineStream (engine : Nat) : Nat := 0x8000 + engine

/-- Epoch that a descriptor's requests carry (R88). -/
def Desc.req (d : Desc) (s : State) (node typ tc addr aux : Nat) (payload : List Byte) : QPkt :=
  { s.mkQ node typ tc payload with epoch := d.epoch, stream := engineStream d.engine, addr := addr, slice := d.key.slice, aux := aux }

/-- Requests of a descriptor without an answer. -/
def State.outstanding (s : State) (k : DKey) : Bool :=
  s.outReqs.any (fun o => match o.who with | .desc x _ => x == k | _ => false)

/-- Ask another home for bytes by `BULK_READ` (R410), unless they were asked for already. A request that ends at once leaves
its status among the answers. -/
def State.askHome (s : State) (d : Desc) (node : Nat) (rref : Option (Nat × Nat × Nat)) (a n : Nat) (pages : List (Nat × Nat)) : State :=
  if s.outReqs.any (fun o => o.pkt.dest == node && o.pkt.addr == a && o.pkt.typ == 0x07 && o.pkt.rref == rref && o.pkt.aux == n &&
      (match o.who with | .desc x _ => x == d.key | _ => false)) then s
  else match s.refuseTo node 0 with
    | some f =>
      let r : Fetched := {
        node := node, rref := rref, addr := a, len := n, bytes := [], poison := false, status := f.status, kind := f.kind, detail := f.detail }
      { s with descs := upd s.descs (fun x => x.key == d.key) (fun x => { x with fetched := x.fetched ++ [r] }) }
    | none => s.sendReq { d.req s node 0x07 5 a n [] with rref := rref, look := if rref.isSome then (d.key.ring, d.key.idx) else (0, 0) } (.desc d.key 0) pages

/-- Phase of an operation's destination writes, numbered in the opcode's order of phases (R93). -/
def wrPhase (op : Nat) : Nat := match op with | 0x02 | 0x14 => 2 | 0x11 => 4 | 0x12 | 0x13 | 0x28 | 0x29 => 3 | 0x20 => 5 | _ => 0

/-- An engine's access waits for a recall: it takes its place among the accesses queued at the bank, when there is room for one (R391). -/
def State.queueEngine (s : State) (d : Desc) (line : Nat) (own : Bool) : State :=
  let a := 64 * line
  if s.bankQ.any (fun w => w.acc.org == .desc d.key && w.acc.addr == a) then s.startNeed (.recall line own)
  else if s.bankFull a then s
  else
    let s1 := s.startNeed (.recall line own)
    { s1 with bankQ := s1.bankQ ++ [{ acc := {
        org := .desc d.key, op := if own then .write (List.replicate 64 0#8) false else .read 64, addr := a, slice := d.key.slice, node := s.me }, bank := bank a }] }

/-- Send the part at another home of a write that lies on this home too; one that ends at once ends the descriptor (R96). -/
def State.putHalf (s : State) (d : Desc) (unit va node addr : Nat) (bytes : List Byte) (pages : List (Nat × Nat)) : State :=
  let s1 := { s with descs := upd s.descs (fun x => x.key == d.key) (fun x => { x with halves := x.halves ++ [(unit, va)] }) }
  match s.refuseTo node (wrPhase d.op) with
  | some f => s1.endDesc d.key f.status f.kind f.detail unit
  | none => s1.sendReq (d.req s node 0x08 5 addr 0 bytes) (.desc d.key unit) pages

/-- A need of a descriptor. -/
def State.descNeed (s : State) (d : Desc) : Need → State
  | .remote node a n pages => s.askHome d node none a n pages
  | .version node r off n => s.askHome d node (some r) off n []
  | .recall line own => s.queueEngine d line own
  | .put unit va node addr bytes pages => s.putHalf d unit va node addr bytes pages
  | n => s.startNeed n

/-- What was answered for a read of another home. -/
def Desc.answer (d : Desc) (node : Nat) (rref : Option (Nat × Nat × Nat)) (a n : Nat) : Option (Res Got) :=
  (d.fetched.find? (fun f => f.node == node && f.rref == rref && f.addr == a && f.len == n)).map (fun f =>
    if f.status = stOk then .ok ⟨f.bytes, if f.poison then some 0 else none⟩ else fail f.status f.kind f.detail)

/-- Join answers of consecutive reads. -/
def joinAnswers (ps : List (Nat × Nat)) (a : Nat) (gs : List Got) : Got :=
  { bytes := gs.flatMap (·.bytes), poison := (ps.zip gs).findSome? (fun x => x.2.poison.map (fun o => x.1.1 - a + o)) }

/-- Bytes of another home that a descriptor has been given, in requests of at most 1,024 bytes. -/
def Desc.remote (d : Desc) (node a n : Nat) (pages : List (Nat × Nat)) : Res Got :=
  let ps := cut 1024 a n
  let one (p : Nat × Nat) : Res Got := (d.answer node none p.1 p.2).getD (.error (.wait [.remote node p.1 p.2 pages]))
  (gather (ps.map one)).map (joinAnswers ps a)

/-- Bytes of a region of another home, by reference; a length of 0 only resolves the reference. -/
def Desc.remoteVer (d : Desc) (node : Nat) (r : Nat × Nat × Nat) (a n : Nat) : Res Got :=
  let ps := if n = 0 then [(a, 0)] else cut 1024 a n
  let one (p : Nat × Nat) : Res Got := (d.answer node (some r) p.1 p.2).getD (.error (.wait [.version node r p.1 p.2]))
  (gather (ps.map one)).map (joinAnswers ps a)

/-- A status of the home in the terms of the descriptor: the address it named (R93). `E_INTEGRITY` names the tile's local address (R192). -/
def renameAddr {α : Type} (r : Res α) (loc va : Nat) : Res α :=
  match r with
  | .error (.err f) => if f.kind = 2 ∧ f.status ≠ eIntegrity then .error (.err { f with detail := va + (f.detail - loc) }) else r
  | _ => r

/-- An access that waits holds the leaves that it was translated through. -/
def holding {α : Type} (r : Res α) (held : List Need) : Res α :=
  match r with
  | .error (.wait ns) => .error (.wait (ns ++ held))
  | x => x

/-- A piece whose leaf names a reserved node is refused (R33). -/
def Piece.onNode (p : Piece) : Res Unit := check (decide (p.node < 0x8000)) eRange 2 p.va

def Desc.by (d : Desc) (s : State) : By := { node := s.me, slice := d.key.slice, client := false }

/-- Read one translated piece. -/
def State.pieceRead (s : State) (d : Desc) (unit : Nat) (p : Piece) : Res Got := do
  p.onNode
  let got := if p.node = s.me then s.homeRead (d.by s) p.loc p.len else d.remote p.node p.loc p.len (s.leafRanges unit d.key.slice p.va p.len)
  holding (renameAddr got p.loc p.va) (s.heldBy unit d.key.slice p.va p.len)

/-- Read `n` bytes at a virtual address for an engine; poisoned bytes end it with `E_POISON` (R304, R474). -/
def State.engRead (s : State) (d : Desc) (unit va n : Nat) : Res (List Byte) := do
  let ps ← s.xlate unit d.key.slice va n rRead
  let gs ← gather (ps.map (s.pieceRead d unit))
  match (ps.zip gs).findSome? (fun x => x.2.poison.map (fun o => x.1.va + o)) with
  | some a => fail ePoison 2 a
  | none => .ok (gs.flatMap (·.bytes))

/-- Read part of an operand of `total` bytes at `base`: first every page of the operand in the blocks that the part touches is translated (R327). -/
def State.engReadIn (s : State) (d : Desc) (unit base total va n : Nat) : Res (List Byte) := do
  let lo := max base (va / tileBytes * tileBytes)
  let hi := min (base + total) (ceilDiv (va + n) tileBytes * tileBytes)
  let _ ← s.xlate unit d.key.slice lo (hi - lo) rRead
  s.engRead d unit va n

/-- A write that goes to another home when the operation's effects are made: progress unit, node, local address, bytes;
`atomic` holds `OP` and `TYPE` of an atomic (R423). -/
structure RWrite where
  unit : Nat
  node : Nat
  addr : Nat
  bytes : List Byte
  /-- engine that sends it (R408) -/
  engine : Nat
  atomic : Option (Nat × Nat)
  /-- virtual ranges of the leaves that it was translated through (R331) -/
  pages : List (Nat × Nat)
  deriving DecidableEq, Repr

/-- What an operation has changed: the state here, and the writes owed to other homes. -/
structure Eff where
  s : State
  out : List RWrite

/-- A descriptor owes the answer of a write at another home. -/
def State.owesWrites (s : State) (k : DKey) : Bool :=
  s.outReqs.any (fun o => (match o.who with | .desc x _ => x == k | _ => false) && (o.pkt.tc == 4 || o.pkt.typ == 0x08))

/-- Write one translated piece of `bs` that lies here. -/
def Eff.writeHere (e : Eff) (d : Desc) (unit va : Nat) (bs : List Byte) (p : Piece) : Res Eff :=
  (holding (renameAddr (e.s.homeWrite (d.by e.s) p.loc ((bs.drop (p.va - va)).take p.len) false) p.loc p.va)
    (e.s.heldBy unit d.key.slice p.va p.len)).map (fun t => { e with s := t })

/-- The packets of one translated piece of `bs` at another home: local address and bytes. -/
def Piece.packets (p : Piece) (va : Nat) (bs : List Byte) : List (Nat × List Byte) :=
  let part := (bs.drop (p.va - va)).take p.len
  (cut 1024 p.loc p.len).map (fun c => (c.1, (part.drop (c.1 - p.loc)).take c.2))

/-- Write bytes at a virtual address for an engine. Of bytes that lie here and at other homes, those at the other homes are written first, and those
here once they are acknowledged: a write that another home refuses has changed nothing here (R96). -/
def Eff.write (e : Eff) (d : Desc) (unit va : Nat) (bs : List Byte) (step : Nat) : Res Eff := do
  let ps ← e.s.xlate unit d.key.slice va bs.length rWrite
  let _ ← gather (ps.map (fun p => p.onNode))
  let here := ps.filter (fun p => p.node == e.s.me)
  let far := ps.filter (fun p => p.node != e.s.me)
  let done ← here.foldlM (fun (x : Eff) p => x.writeHere d unit va bs p) e
  if !here.isEmpty && !far.isEmpty then
    if !d.halves.contains (step, va) then .error (.wait (far.flatMap (fun p => (p.packets va bs).map (fun c =>
      .put step va p.node c.1 c.2 (e.s.leafRanges unit d.key.slice p.va p.len)))))
    else if e.s.owesWrites d.key then .error (.wait [])
    else .ok done
  else .ok { done with out := done.out ++ far.flatMap (fun p => (p.packets va bs).map (fun c =>
    { unit := step, node := p.node, addr := c.1, bytes := c.2, engine := d.engine, atomic := none, pages := e.s.leafRanges unit d.key.slice p.va p.len })) }

/-- Write part of an operand of `total` bytes at `base`: before any of its bytes is written, every page of the operand in the 64 KiB-aligned blocks
that the part touches is translated (R327). -/
def Eff.writeIn (e : Eff) (d : Desc) (unit base total va : Nat) (bs : List Byte) (step : Nat) : Res Eff := do
  let lo := max base (va / tileBytes * tileBytes)
  let hi := min (base + total) (ceilDiv (va + bs.length) tileBytes * tileBytes)
  let _ ← e.s.xlate unit d.key.slice lo (hi - lo) rWrite
  e.write d unit va bs step

/-- Put the phase into a `DETAIL` of kind 7. -/
def Fail.phased (f : Fail) (phase : Nat) : Fail :=
  if f.kind = 7 then { f with detail := detail7 (bits f.detail 0 16) phase (bits f.detail 24 8) } else f

/-- A need in a phase of its opcode. -/
def Need.phased (n : Need) (phase : Nat) : Need :=
  match n with
  | .fill f _ => .fill f phase
  | x => x

/-- An access of a phase: its status and what it waits for carry the phase (R93). -/
def phased {α : Type} (phase : Nat) (r : Res α) : Res α :=
  match r with
  | .error (.err f) => .error (.err (f.phased phase))
  | .error (.wait ns) => .error (.wait (ns.map (·.phased phase)))
  | x => x

/-- Send the writes owed; one that ends at once ends the descriptor's unit with its status. -/
def State.sendWrites (s : State) (d : Desc) (ws : List RWrite) : State × Option (Nat × Fail) :=
  ws.foldl (fun (acc : State × Option (Nat × Fail)) w =>
    match acc.1.refuseTo w.node (wrPhase d.op) with
    | some f => (acc.1, acc.2.orElse (fun _ => some (w.unit, f)))
    | none =>
      let dw := { d with engine := w.engine }
      let p := match w.atomic with
        | some (op, typ) => dw.req acc.1 w.node 0x05 4 w.addr (op + 16 * typ) w.bytes
        | none => dw.req acc.1 w.node 0x08 5 w.addr 0 w.bytes
      (acc.1.sendReq p (.desc d.key w.unit) w.pages, acc.2)) (s, none)

/-! ### How an attempt at a descriptor ends -/

/-- Bytes of a virtual range that an attempt touches: through which cache, and whether it reads them. -/
structure Touch where
  unit : Nat
  va : Nat
  len : Nat
  reads : Bool := true
  deriving DecidableEq, Repr

/-- What an attempt at an operation gives: its effects, status, `DETAIL` and progress; `more`: units are left that wait for these; `tried`: the
ranges of the unit that ended it or waits. -/
structure Done where
  eff : Eff
  status : Nat
  kind : Nat
  detail : Nat
  progress : Nat
  more : Option (List Need) := none
  tried : List Touch := []

/-- Units in order: how many were done, and what ended the next one. -/
def runUnits (step : Nat → Eff → Res Eff) : Nat → Nat → Eff → Res (Eff × Nat × Option Fail)
  | 0, k, e => .ok (e, k, none)
  | n + 1, k, e =>
    match step k e with
    | .ok e1 => runUnits step n (k + 1) e1
    | .error (.err f) => .ok (e, k, some f)
    | .error w => .error w

/-- The end of an operation made of units, unit `k` of which touches `touch k`. -/
def unitsDone (touch : Nat → List Touch) (r : Res (Eff × Nat × Option Fail)) : Res Done :=
  r.map (fun x => match x with
    | (e, k, none) => { eff := e, status := stOk, kind := 0, detail := 0, progress := k }
    | (e, k, some f) => { eff := e, status := f.status, kind := f.kind, detail := f.detail, progress := k, tried := touch k })

/-- A read through the cache part of tiles without bytes of their own (R279). -/
def State.noteZeros (s : State) (slice : Nat) (x : Touch) : State :=
  match s.xlate x.unit slice x.va x.len rRead with
  | .ok ps => forL (ps.filter (fun p => p.node == s.me)) s (fun p t => t.zeroFill p.loc p.len)
  | .error _ => s

/-- Walks, caches and access counts of the ranges that an operation touched. -/
def State.noteTouches (s : State) (slice : Nat) (ts : List Touch) : State :=
  forL ts s (fun t x =>
    let y := x.noteAccess t.unit slice t.va t.len false
    if t.reads then y.noteZeros slice t else y)

/-- The translation blocks of some ranges, in order (R327). -/
def touchBlocks (ts : List Touch) : List Touch := ts.flatMap (fun t => (cut tileBytes t.va t.len).map (fun p => { t with va := p.1, len := p.2 }))

/-- The same of an operation that ended on one of its ranges, block by block: those before it were touched, and it was walked. `at_` is the
address that its `DETAIL` names: nothing after that was touched. -/
def State.noteTried (s : State) (slice : Nat) (at_ : Option Nat) : List Touch → State
  | [] => s
  | t :: ts =>
    match s.xlate t.unit slice t.va t.len (if t.reads then rRead else rWrite) with
    | .ok _ =>
      let s1 := s.noteTouches slice [t]
      if at_.any (fun a => decide (t.va ≤ a ∧ a < t.va + t.len)) then s1 else s1.noteTried slice at_ ts
    | .error _ => if 2 ^ 57 < t.va + t.len then s else s.noteWalks t.unit slice (cut 4096 t.va t.len)

/-- The touches of one unit, noted on its effects. -/
def Eff.note (e : Eff) (slice : Nat) (ts : List Touch) : Eff := { e with s := e.s.noteTouches slice ts }

/-- Units from `k` on, `n` of them, with the ranges that each touches: those before one that must wait are done and stay done. With `strict` a
unit starts only once no write of an earlier one is owed to another home (R96). -/
def runFrom (step : Nat → Eff → Res Eff) (touch : Nat → List Touch) (slice : Nat) (strict : Bool) : Nat → Nat → Eff → Done
  | 0, k, e => { eff := e, status := stOk, kind := 0, detail := 0, progress := k }
  | n + 1, k, e =>
    if strict && !e.out.isEmpty then { eff := e, status := stOk, kind := 0, detail := 0, progress := k, more := some [] }
    else match step k e with
    | .ok e1 => runFrom step touch slice strict n (k + 1) (e1.note slice (touch k))
    | .error (.err f) => { eff := e, status := f.status, kind := f.kind, detail := f.detail, progress := k, tried := touch k }
    | .error (.wait ns) => { eff := e, status := stOk, kind := 0, detail := 0, progress := k, more := some ns, tried := touch k }

/-- The part of a leaf in one 64 KiB-aligned block, or the leaf when it is smaller. -/
def Leaf.part (l : Leaf) (va : Nat) : Leaf := if l.size = 0 then l else { l with size := 1, loc := l.loc + va % leafBytes l.size / tileBytes * tileBytes }

/-- The translations of the ranges that an operation reads, for its unit alone. -/
def State.translations (s : State) (slice : Nat) (ts : List Touch) : List XlEntry :=
  ((ts.filter (·.reads)).flatMap (fun t => (cut 4096 t.va t.len).filterMap (fun p => match s.leafOf t.unit slice p.1 with
    | .leaf l => let q := l.part p.1; some { unit := t.unit, slice := slice, va := p.1 / leafBytes q.size * leafBytes q.size, hold := .leaf q }
    | _ => none))).eraseDups

/-- A descriptor waits: what it needs is started, and what it holds is noted: the leaves of what waits, and the translations of what it has
issued since it last went on to another unit (R332). -/
def State.awaits (s : State) (d : Desc) (ns : List Need) (ts : List Touch := []) (keep : Bool := true) : State :=
  let s1 := forL ns s (fun n t => t.descNeed d n)
  let ls := s.translations d.key.slice ts
  { s1 with descs := upd s1.descs (fun x => x.key == d.key) (fun x => { x with
      lent := if keep then x.lent ++ ls.filter (fun e => !x.lent.contains e) else ls
      pages := (ns.filterMap (fun n => match n with | .held va len => some (va, len) | _ => none)).eraseDups,
      fills := ns.filterMap (fun n => match n with | .fill id ph => some (id, ph) | _ => none) }) }

/-- The descriptor's accesses that waited here are made anew: no invalidation waits for them any longer (R331). -/
def State.reissued (s : State) (k : DKey) : State :=
  if s.invals.isEmpty then s else { s with invals := s.invals.map (fun (v : Inval) => { v with waits := v.waits.filter (fun x => x != k) }) }

/-- One attempt at a running descriptor: it ends, or what it waits for is started. -/
def State.attempt (s0 : State) (d : Desc) (ts : List Touch) (r : Res Done) : State :=
  match r with
  | .error (.wait ns) => (s0.reissued d.key).awaits d ns ts
  | .error (.err f) => ((s0.reissued d.key).noteTried d.key.slice (if f.kind = 2 then some f.detail else none) (touchBlocks ts)).endDesc d.key f.status f.kind f.detail d.progress
  | .ok o =>
    let s0 := (o.eff.s.reissued d.key).noteTouches d.key.slice ts
    let (s1, bad) := (if o.more.isSome then s0
      else s0.noteTried d.key.slice (if o.kind = 2 then some o.detail else none) (touchBlocks o.tried)).sendWrites d o.eff.out
    match bad, o.more with
    | some (u, f), _ => if o.status < 0x10 ∨ u < o.progress then s1.endDesc d.key f.status f.kind f.detail u
        else s1.endDesc d.key o.status o.kind o.detail o.progress
    | none, some ns =>
      { s1 with descs := upd s1.descs (fun x => x.key == d.key) (fun x => { x with progress := o.progress }) }.awaits d ns o.tried (o.progress == d.progress)
    | none, none => s1.endDesc d.key o.status o.kind o.detail o.progress

/-- A descriptor with places in the banks' queues is tried again: it sees the accesses before its first place, and those behind it keep theirs
(R391). -/
def State.inTurn (s : State) (k : DKey) (f : State → State) : State :=
  let own (w : Waiting) : Bool := w.acc.org == .desc k
  if !s.bankQ.any own then f s
  else
    let t := f { s with bankQ := s.bankQ.takeWhile (fun w => !own w) }
    { t with bankQ := t.bankQ ++ del (s.bankQ.dropWhile (fun w => !own w)) own }

/-- A descriptor is tried again under the translations that it has issued under (R332): they stand before what the caches hold meanwhile. -/
def State.lending (s : State) (d : Desc) (f : State → State) : State :=
  if d.lent = [] then f s
  else
    let t := f { s with xlCache := d.lent ++ s.xlCache }
    { t with xlCache := d.lent.foldl (fun c e => c.erase e) t.xlCache }

/-- Run `f` on a descriptor that is running, not stopped, and has this opcode; otherwise the command does not occur. -/
def State.onRunning (s : State) (k : DKey) (op : Nat) (f : State → Desc → State) : State :=
  match s.desc k with
  | some d => if d.phase == .running && d.op == op && d.stop.isNone then s.inTurn k (fun t => t.lending d (fun u => f u d)) else s
  | none => s

end Sys2Proof.Machine
end

