-- ==== Sys2Proof/Machine/Rings.lean ====
section
/-! DEFINITION. Ring pairs (R62 to R105): ring commands, doorbells, the ring status block, completion records, interrupt
coalescing, and the meanings of `NOP` and `FENCE`. Consumption and start stand in Consume.lean. -/

namespace Sys2Proof.Machine

/-! ### Reads and writes of the ring front end and of other units of the ZV9 itself -/

/-- Read memory of this ZV9 for one of its own units, under the directory. -/
def State.feRead (s : State) (a n : Nat) : Res Got := do
  s.clearWay a n false
  let ps := cut tileBytes a n
  let gs ← gather (ps.map (fun p => s.rawPiece p.1 p.2))
  .ok (joinGot (ps.zip gs) a)

/-- Write memory of this ZV9 for one of its own units, under the directory. -/
def State.feWrite (s : State) (a : Nat) (bs : List Byte) : Res State := do
  s.clearWay a bs.length true
  s.rawWrites a bs false

/-! ### Rings -/

def ringSource (slice num : Nat) : Nat := 11 * 4096 + 16 * slice + num

def Ring.source (r : Ring) : Nat := ringSource r.slice r.num

/-- Descriptors of the ring consumed and without a record (`IN_FLIGHT`). -/
def State.inFlight (s : State) (r : Ring) : List Desc :=
  s.descs.filter (fun d => d.key.slice == r.slice && d.key.ring == r.num)

/-- `STATE` codes (R74). -/
def RingSt.code : RingSt → Nat
  | .running => 1 | .halted => 2 | .stopping => 3 | .faulted => 4

/-- The 64 bytes of the ring status block (R74). -/
def State.statusBlock (s : State) (r : Ring) : List Byte :=
  leBytes 4 r.sqCons ++ leBytes 4 r.sqProd ++ leBytes 4 r.cqProd ++ leBytes 4 r.cqCons ++
  [byte r.state.code, byte r.fmt, 0#8, 0#8] ++ leBytes 4 r.dbRejects ++ leBytes 4 (s.inFlight r).length ++ leBytes 4 0 ++
  leBytes 8 s.now ++ List.replicate 24 0#8

/-- How bytes for the CQ or the status block of a ring leave. -/
inductive RingSend where
  | sent (s : State)
  /-- they must wait for a recall -/
  | waits
  | undeliverable

/-- Send bytes into the CQ or the status block of a ring. -/
def State.ringSend (s : State) (r : Ring) (addr : Nat) (bs : List Byte) : RingSend :=
  match r.loc with
  | 0 =>
    match s.feWrite addr bs with
    | .ok t => .sent t
    | .error (.err _) => .undeliverable
    | .error (.wait _) => .waits
  | 1 =>
    -- only inside the client's window (R453)
    if s.klUp r.port && s.bound r.port == some r.slice && s.inWindow r.port addr bs.length then
      let s1 := s.sendKl r.port (mkKl 0x42 4 s.nextTag addr 0 bs)
      .sent { s1 with nextTag := s.nextTag + 1,
                      klOuts := s1.klOuts ++ [{ port := r.port, tag := s.nextTag, why := .ringStruct r.slice r.num, left := 0, got := [], bad := [] }] }
    else .undeliverable
  | _ =>
    match s.refuseTo r.cqNode 0 with
    | some _ => .undeliverable
    | none => .sent (s.sendReq { s.mkQ r.cqNode 0x03 4 bs with addr := addr, slice := r.slice, stream := 0x80F0 } (.cq r.slice r.num))

/-- The status block of a ring has been sent as the ring now stands (R74). -/
def State.statusSent (s : State) (slice num : Nat) : State :=
  match s.ring slice num with
  | some r => s.setRing { r with stDirty := false, stCons := r.sqCons }
  | none => s

/-- A record or status block that cannot be delivered faults the ring (R98); its status block says so, where it can be written. -/
def State.faultRing (s : State) (slice num : Nat) : State :=
  match s.ring slice num with
  | none => s
  | some r =>
    if r.state == .faulted then s
    else
      let r1 := { r with state := .faulted, stDirty := true }
      let s1 := ((s.setRing r1).incSat f_RING_ERR_CQ_FAULTS).raise { ev 0x03 r.source (16 * slice + num) with slice := slice }
      match s1.ringSend r1 r1.stAddr (s1.statusBlock r1) with
      | .sent t => t.statusSent slice num
      | .waits | .undeliverable => s1

/-- Deliver bytes into the CQ or the status block of a ring: none while the bytes must wait for a recall. -/
def State.ringWrite (s : State) (r : Ring) (addr : Nat) (bs : List Byte) : Option State :=
  match s.ringSend r addr bs with
  | .sent t => some t
  | .waits => none
  | .undeliverable => some (s.faultRing r.slice r.num)

/-- Start the recalls that stand in the way of ring bytes. -/
def State.ringRecall (s : State) (r : Ring) (addr n : Nat) : State :=
  if r.loc = 0 then forL (s.busyLines addr n true) s (fun l t => t.recallFor l true) else s

/-- Write the ring status block (R74). -/
def State.writeStatus (s : State) (slice num : Nat) : State :=
  match s.ring slice num with
  | none => s
  | some r =>
    match s.ringWrite r r.stAddr (s.statusBlock r) with
    | none => (s.setRing { r with stDirty := true }).ringRecall r r.stAddr 64
    | some t => t.statusSent slice num

/-- Change `STATE` of a ring, with its status block (R74). -/
def State.ringState (s : State) (slice num : Nat) (st : RingSt) : State :=
  match s.ring slice num with
  | none => s
  | some r => if r.state == st then s else (s.setRing { r with state := st }).writeStatus slice num

/-- A field of the status block has changed. -/
def State.touchRing (s : State) (slice num : Nat) (f : Ring → Ring) : State :=
  match s.ring slice num with
  | none => s
  | some r => s.setRing { f r with stDirty := true }

/-! ### Ending descriptors from outside (R62, R95, R332, R536) -/

/-- The status of an abort. -/
def abortFail (cause : Nat) : Fail := ⟨eAborted, 8, cause⟩

/-- Units before the first one that still owes the answer of a write. -/
def State.doneUnits (s : State) (d : Desc) : Nat :=
  (s.outReqs.filterMap (fun o => match o.who with
    | .desc k u => if k = d.key ∧ o.pkt.tc = 4 ∨ k = d.key ∧ o.pkt.typ = 0x08 then some u else none
    | _ => none)).foldl min d.progress

/-- An event ends a descriptor with a status, unless it has ended already (R511): at once, its outstanding requests
abandoned (R536, R538), those that wait for response space dropped. -/
def State.stopDesc (s : State) (d : Desc) (f : Fail) : State :=
  if d.phase == .ended && !s.outstanding d.key then s
  else if d.phase == .ended && 0x10 ≤ d.status then s
  else
    let mine (o : OutReq) : Bool := match o.who with | .desc k _ => k == d.key | _ => false
    let sent := s.outReqs.filter (fun o => !(mine o && o.sends == 0))
    let tags := (sent.filter mine).map (·.pkt.tag)
    let p := s.doneUnits d
    let s1 := { s with abandoned := s.abandoned ++ tags.map (fun t => ({ slice := d.key.slice, tag := t } : Abandoned)),
                       outReqs := sent.map (fun (o : OutReq) => match o.who with
                         | .desc k _ => if k = d.key then { o with who := .none } else o
                         | _ => o),
                       queues := del s.queues (fun q => q.key == d.key) }
    s1.endDesc d.key f.status f.kind f.detail p

/-! ### Ring requests (R64 to R68) -/

/-- What a ring request answers: status, offending field. -/
def State.cmdStatus (s : State) (status field : Nat) : State :=
  (s.setFld f_RING_CMD_STATUS_STATUS status).setFld f_RING_CMD_STATUS_FIELD (if status = stOk then 0 else field)

/-- The 64 bytes of a ring request, or the state in which the command ends without them (R66, R68): a collision, an address
out of range, poison; or recalls are started and the command stays busy until the bytes can be read. -/
def State.ringRequest (s : State) (cmd addr : Nat) : Except State (List Byte) :=
  let a := addr * 64
  if s.flag f_RING_CMD_STATUS_BUSY then .error (s.incSat f_RING_ERR_CMD_COLLISIONS)
  else if !s.plainRange a 64 then .error (s.cmdStatus eRange 0xFF)
  else match s.feRead a 64 with
    | .ok g => if g.poison.isSome then .error (s.cmdStatus ePoison 0xFF) else .ok g.bytes
    | .error (.wait ns) => .error { (s.startNeeds ns).setFld f_RING_CMD_STATUS_BUSY 1 with ringReq := some (cmd, addr) }
    | .error (.err f) => .error (s.cmdStatus f.status 0xFF)

/-- Wholly inside the scratchpad window. -/
def State.inScratchAll (s : State) (a n : Nat) : Bool := decide (a + n ≤ s.scratchLen)

/-- Checks of a ring request (R66), in order: the status and the offending field. A format overlap that fails names `FMT_MIN`, and bits [63:50] of
`CQ_ADDR` and `STATUS_ADDR` are not judged as reserved (DESIGN CHOICE, log 106). -/
def State.ringChecks (s : State) (q : List Byte) : List (Bool × Nat × Nat) :=
  let f (o w : Nat) := leAt q o w
  let slice := f 0 1
  let sqB := 64 * 2 ^ f 2 1
  let cqB := 32 * 2 ^ f 3 1
  let loc := f 32 1
  let live := s.mapCur.any (fun m => m.live (f 42 2)) && f 42 2 != s.me
  let k := f 33 1
  let client := decide (k < 4) && s.klUp k
  let attached := client && s.bound k == some slice
  -- 1: reserved fields and bytes
  [ (loc == 1 || f 33 1 == 0, eFormat, 33), (zeros q 41 1, eFormat, 41), (loc == 2 || f 42 2 == 0, eFormat, 42),
    (zeros q 44 20, eFormat, 44),
  -- 2: slice and ring
    (s.configured slice && s.fldAt f_SLC_STATUS_BUSY slice == 0, eRange, 0),
    (decide (f 1 1 < 16) && (s.ring slice (f 1 1)).isNone, eRange, 1),
  -- 3: ranges
    (decide (6 ≤ f 2 1 ∧ f 2 1 ≤ 16), eRange, 2), (decide (6 ≤ f 3 1 ∧ f 3 1 ≤ 16), eRange, 3),
    (decide (f 6 2 < 256) || f 6 2 == 0xFFFF, eRange, 6), (decide (loc ≤ 2), eRange, 32),
    (decide (1 ≤ f 34 2 ∧ f 34 2 ≤ 4096), eRange, 34), (decide (f 36 4 ≤ 1000000), eRange, 36), (decide (1 ≤ f 40 1), eRange, 40),
    (decide (max (f 4 1) 1 ≤ min (f 5 1) 3), eRange, 4),
    (loc != 2 || f 6 2 == 0xFFFF, eRange, 6), (loc != 2 || live, eRange, 42),
  -- 4: windows
    (!(loc == 0 || loc == 2) || s.inScratchAll (f 8 8) sqB, eRange, 8),
    (loc != 0 || s.inScratchAll (f 16 8) cqB, eRange, 16), (loc != 0 || s.inScratchAll (f 24 8) 64, eRange, 24),
    (loc != 1 || !client || s.inWindow k (f 8 8) sqB, eRange, 8), (loc != 1 || !client || s.inWindow k (f 16 8) cqB, eRange, 16),
    (loc != 1 || !client || s.inWindow k (f 24 8) 64, eRange, 24),
  -- 5: the client
    (loc != 1 || attached, ePerm, 33),
  -- 6: alignment
    (f 8 8 % sqB == 0, eAlign, 8), (f 16 8 % cqB == 0, eAlign, 16), (f 24 8 % 64 == 0, eAlign, 24) ]

/-- `CREATE` (R64 to R67). -/
def State.ringCreate (s : State) (addr : Nat) : State :=
  match s.ringRequest 1 addr with
  | .error t => t
  | .ok q =>
    match (s.ringChecks q).find? (fun c => !c.1) with
    | some (_, st, fld) => s.cmdStatus st fld
    | none =>
      let f (o w : Nat) := leAt q o w
      let fmt := min (f 5 1) 3
      let r : Ring := {
        slice := f 0 1, num := f 1 1, log2sq := f 2 1, log2cq := f 3 1, fmt := fmt, vector := f 6 2, sqAddr := f 8 8, cqAddr := f 16 8, stAddr := f 24 8, loc := f 32 1, port := f 33 1,
        coalCount := f 34 2, coalNs := f 36 4, weight := f 40 1, cqNode := f 42 2, sqCons := 0, sqProd := 0, cqProd := 0, cqCons := 0, state := .running, dbRejects := 0, uncovered := 0,
        windowErr := false, stopFence := none, destroying := 0, stDirty := false, stCons := 0, pre := [] }
      let s1 := ((s.cmdStatus stOk 0).setFld f_RING_CMD_STATUS_FORMAT fmt)
      { s1 with rings := s1.rings ++ [r] }.writeStatus r.slice r.num

/-- The destruction of a ring ends: nothing more is written to its memory (R67). Records that no interrupt has covered get none (log 81). -/
def State.destroyDone (s : State) (slice num : Nat) : State :=
  let s1 := { s with rings := del s.rings (fun r => r.slice == slice && r.num == num),
                     klOuts := del s.klOuts (fun (o : KlOut) => o.why == KlWhy.sqRead slice num) }
  (s1.setFld f_RING_CMD_STATUS_BUSY 0).cmdStatus stOk 0

/-- Every record of the ring is written and acknowledged. -/
def State.ringQuiet (s : State) (r : Ring) : Bool :=
  (s.inFlight r).isEmpty && !s.klOuts.any (fun o => o.why == .ringStruct r.slice r.num) &&
  !s.outReqs.any (fun o => o.who == .cq r.slice r.num)

/-- Offset and width of the fields of a ring request that a destruction does not read (R64). -/
def destroyZero : List (Nat × Nat) :=
  [(2, 1), (3, 1), (4, 1), (5, 1), (6, 2), (8, 8), (16, 8), (24, 8), (32, 1), (33, 1), (34, 2), (36, 4), (40, 1), (41, 1), (42, 2), (44, 20)]

/-- `DESTROY_DRAIN` and `DESTROY_ABORT` (R67): `mode` 2 or 3. While `BUSY` is 1, `STATUS` and `FIELD` read `OK` and 0 (log 82). -/
def State.ringDestroy (s : State) (addr mode : Nat) : State :=
  match s.ringRequest mode addr with
  | .error t => t
  | .ok q =>
    let slice := leAt q 0 1
    let num := leAt q 1 1
    match destroyZero.find? (fun x => !zeros q x.1 x.2) with
    | some x => s.cmdStatus eFormat x.1
    | none =>
    if !(s.configured slice && s.fldAt f_SLC_STATUS_BUSY slice == 0) then s.cmdStatus eRange 0
    else match s.ring slice num with
      | none => s.cmdStatus eRange 1
      | some r =>
        let s1 := ((s.setFld f_RING_CMD_STATUS_BUSY 1).setFld f_RING_CMD_STATUS_STATUS stOk).setFld f_RING_CMD_STATUS_FIELD 0
        let s2 := s1.setRing { r with destroying := mode, stopFence := none }
        let s3 := if r.state == .faulted then s2 else s2.ringState slice num .stopping
        let s4 := if mode = 3 then forL (s3.inFlight r) s3 (fun d t => t.stopDesc d (abortFail 3)) else s3
        match s4.ring slice num with
        | some r4 => if mode = 3 && s4.ringQuiet r4 then s4.destroyDone slice num else s4
        | none => s4

/-! ### Doorbells (R69 to R72) -/

/-- A doorbell word that no ring has (R69). -/
def State.dbNowhere (s : State) : State := s.incSat f_RING_ERR_DB_REJECTS

/-- A doorbell value that is not accepted (R72). -/
def State.dbReject (s : State) (r : Ring) (w : Word) : State :=
  ((s.touchRing r.slice r.num (fun r => { r with dbRejects := min (r.dbRejects + 1) (two32 - 1) })).incSat f_RING_ERR_DB_REJECTS).raise
    { ev 0x02 r.source w.toNat with slice := r.slice }

/-- The SQ doorbell accepts a producer value (R70). -/
def Ring.takesProducer (r : Ring) (p : Nat) : Bool :=
  decide (sub32 p r.sqCons ≤ 2 ^ r.log2sq) && decide (sub32 p r.sqProd < 2 ^ 31)

/-- Slots read ahead of consumption are read again: software may have rewritten them while the ring was halted (R84). -/
def State.dropAhead (s : State) (slice num : Nat) : State :=
  { s with
    rings := upd s.rings (fun r => r.slice == slice && r.num == num) (fun r => { r with pre := [] })
    klOuts := s.klOuts.map (fun (o : KlOut) => if o.why = .sqRead slice num then { o with why := .late } else o) }

/-- A store to the SQ doorbell word (R70, R72, R84, R509). -/
def State.sqDoorbell (s : State) (slice num : Nat) (w : Word) : State :=
  match s.ring slice num with
  | none => s.dbNowhere
  | some r =>
    let p := bits w.toNat 0 32
    if bits w.toNat 32 31 ≠ 0 ∨ !r.takesProducer p ∨ s.fldAt f_SLC_STATUS_BUSY slice = 1 then s.dbReject r w
    else
      let s1 := s.touchRing slice num (fun r => { r with sqProd := p })
      if bit w.toNat 63 && r.state == .halted then (s1.dropAhead slice num).ringState slice num .running else s1

/-- A store to the CQ doorbell word (R71, R72). -/
def State.cqDoorbell (s : State) (slice num : Nat) (w : Word) : State :=
  match s.ring slice num with
  | none => s.dbNowhere
  | some r =>
    let c := bits w.toNat 0 32
    if bits w.toNat 32 32 ≠ 0 ∨ !decide (sub32 c r.cqCons ≤ sub32 r.cqProd r.cqCons) ∨ s.fldAt f_SLC_STATUS_BUSY slice = 1 then s.dbReject r w
    else s.touchRing slice num (fun r => { r with cqCons := c })

/-! ### Interrupt coalescing (R99, R100) -/

/-- Writes into the client memory of a ring that are not acknowledged. -/
def State.ringOwes (s : State) (slice num : Nat) : Bool := s.klOuts.any (fun o => o.why == .ringStruct slice num)

/-- One interrupt covering every uncovered record. It follows records in client memory on their port; on another port it waits until they
are acknowledged (R100). -/
def State.ringInterrupt (s : State) (slice num : Nat) : State :=
  match s.ring slice num with
  | none => s
  | some r =>
    if (r.uncovered = 0 ∧ !r.intDue) ∨ r.vector = 0xFFFF then s
    else if s.ringOwes slice num && s.fldAt f_SLV_HI_PORT (256 * slice + r.vector) != r.port then s.setRing { r with intDue := true }
    else (s.setRing { r with uncovered := 0, intDue := false }).message slice r.vector

/-! ### Completion records (R89 to R92) -/

/-- `SOURCE` of the unit that `ENGINE` names (R92, R525). -/
def engineSource (r : Ring) (e : Nat) : Nat :=
  if e < 0x10 then 2 * 4096 + e
  else if e < 0x20 then 3 * 4096 + (e - 0x10)
  else if e < 0x40 then 4 * 4096 + (e - 0x20)
  else if e < 0x80 then 5 * 4096 + (e - 0x40)
  else if e < 0xF0 then 6 * 4096 + (e - 0x80)
  else if e = 0xF0 then r.source
  else 12 * 4096 + (e - 0xF8)

/-- The 32 bytes of the n-th record of a ring. -/
def State.record32 (s : State) (r : Ring) (d : Desc) : List Byte :=
  let phase := if bit r.cqProd r.log2cq then 0 else 1
  let skipped := d.raw.isEmpty
  leBytes 4 (if skipped then two32 - 1 else d.tag) ++ [byte d.status, byte (if skipped then 0xFF else d.op),
    byte (phase + 2 * d.det + (if d.started then 8 else 0) + 16 * d.kind), byte d.engine] ++
  leBytes 4 d.key.idx ++ leBytes 4 d.progress ++ leBytes 8 d.detail ++ leBytes 8 s.now

/-- A deleting region whose pins have ended is free (R293). -/
def State.reapRegions (s : State) : State :=
  { s with regions := del s.regions (fun r => r.deleting && !s.pins.any (fun p => p.region == r.num)) }

/-- Nodes that hold versions for a lookup of this ZV9. -/
def Desc.lenders (d : Desc) : List Nat :=
  (d.fetched.filterMap (fun f => if f.len = 0 ∧ f.status = stOk ∧ f.rref.any (fun r => r.2.1 == 2) then some f.node else none)).eraseDups

/-- A lookup that is over says so to the homes whose versions it has resolved (R58, log 107). -/
def State.sayOver (s : State) (d : Desc) : State :=
  forL d.lenders s (fun n t =>
    if (t.refuseTo n 0).isSome then t
    else t.sendReq { d.req t n 0x07 5 0 0 [] with epoch := t.epoch, rref := some (0, 3, 0), look := (d.key.ring, d.key.idx) } .none)

/-- A descriptor leaves: its cell, its pins (R58) and its place in the ordered queues are free. -/
def State.forget (s : State) (k : DKey) : State :=
  ({ s with descs := del s.descs (fun d => d.key == k), queues := del s.queues (fun q => q.key == k) }.gc).1.reapRegions

/-- The window of R84: an error of a descriptor that is not a `FENCE` counts. A `FENCE` rejected at consumption starts no window (log 80). -/
def windowErr (d : Desc) : Bool := decide (0x10 ≤ d.status) && !(d.op == 0x01 && !d.raw.isEmpty)

/-- What follows a record that has been written. -/
def State.afterRecord (s : State) (r0 : Ring) (d : Desc) : State :=
  match s.ring r0.slice r0.num with
  | none => s
  | some r =>
    let stops := r.stopFence == some d.key.idx
    let r1 := { r with cqProd := (r.cqProd + 1) % two32, uncovered := if r.vector = 0xFFFF then 0 else r.uncovered + 1,
                       windowErr := if stops then false else r.windowErr || windowErr d,
                       stopFence := if stops then none else r.stopFence, stDirty := true }
    let s1 := ((s.setRing r1).obs 11 (16 * r.slice + r.num) 2 r.slice 1).scriv 0 r.slice (engineSource r d.engine) d.since 0
      (leAt (s.record32 r0 d) 0 4 + two32 * leAt (s.record32 r0 d) 5 1 + 2 ^ 40 * d.status + 2 ^ 48 * (16 * r.slice + r.num)) d.progress
    let s2 := if d.engine < 8 then s1.obs 2 d.engine 1 r.slice 1 else s1
    -- a FENCE with STOP_ON_ERROR that ends with cause 4 halts the ring (R84)
    let s3 := if stops && d.status == eAborted && d.detail == 4 && r.state == .running then s2.ringState r.slice r.num .halted else s2
    if r.vector ≠ 0xFFFF ∧ (r.coalCount ≤ r1.uncovered ∨ r.coalNs = 0 ∨ 0x10 ≤ d.status ∨ (d.intr && !d.raw.isEmpty)) then
      s3.ringInterrupt r.slice r.num
    else s3

/-- The destruction in abort mode ends with the last record (R67). -/
def State.abortRingDone (s : State) (slice num : Nat) : State :=
  match s.ring slice num with
  | some r => if r.destroying = 3 && s.ringQuiet r then s.destroyDone slice num else s
  | none => s

/-- A write into a ring's memory has been answered: an interrupt that waited for it goes, and a destruction may end. -/
def State.ringAnswered (s : State) (slice num : Nat) : State :=
  let s1 := match s.ring slice num with
    | some r => if r.intDue && !s.ringOwes slice num then s.ringInterrupt slice num else s
    | none => s
  s1.abortRingDone slice num

/-- The sweep that a descriptor's record waits for has not ended (R390). -/
def State.sweepsFor (s : State) (k : DKey) : Bool := s.sweeps.any (fun w => w.who == .desc k)

/-- A stopping slice whose aborted descriptors have their records is stopped (R536 steps 4 and 5). -/
def State.reapStop (s : State) (slice : Nat) : State :=
  if 64 ≤ slice ∨ s.fldAt f_FLT_SLICE_JOB_STATE slice ≠ 1 ∨
     s.descs.any (fun d => d.key.slice == slice && d.phase == .ended && d.status == eAborted && d.detail == 1) then s
  else
    (s.setFldAt f_FLT_SLICE_JOB_STATE slice 2).raise
      { ev 0x18 (13 * 4096 + slice) (s.fldAt f_FLT_SLICE_JOB_JOB slice + two32 * s.fldAt f_FLT_SLICE_JOB_TRIGGER slice) with slice := slice }

/-- An attention descriptor or `MERGE` that completes with `OK` is counted (R197). -/
def State.countDone (s : State) (d : Desc) : State :=
  if 0x11 ≤ d.op ∧ d.op ≤ 0x14 ∧ !d.raw.isEmpty ∧ d.status = stOk then s.addWrap f_ATT_DONE_DONE 1 else s

/-- Earlier descriptors of the ring without a record. -/
def State.earlier (s : State) (r : Ring) (idx : Nat) : List Desc :=
  (s.inFlight r).filter (fun d => decide (sub32 r.sqCons idx < sub32 r.sqCons d.key.idx))

/-- A `FENCE` completes only after every earlier descriptor of its ring, however it ended (R83). -/
def State.fenceWaits (s : State) (r : Ring) (d : Desc) : Bool := d.op == 0x01 && !d.raw.isEmpty && !(s.earlier r d.key.idx).isEmpty

/-- Write the record of a descriptor that has ended. -/
def State.complete (s : State) (k : DKey) : State :=
  match s.desc k, s.ring k.slice k.ring with
  | some d, some r =>
    if d.phase != .ended || s.outstanding k || s.sweepsFor k || s.fenceWaits r d then s
    else if r.state == .faulted then (((((s.sayOver d).countDone d).forget k).touchRing k.slice k.ring id).reapStop k.slice).abortRingDone k.slice k.ring
    else
      let a := r.cqAddr + 32 * (r.cqProd % 2 ^ r.log2cq)
      match s.ringWrite r a (s.record32 r d) with
      | none => s.ringRecall r a 32
      | some t =>
        let t1 := ((t.sayOver d).countDone d).forget k
        let faulted := (t1.ring k.slice k.ring).any (fun x => x.state == .faulted)
        ((if faulted then t1.touchRing k.slice k.ring id else t1.afterRecord r d).reapStop k.slice).abortRingDone k.slice k.ring
  | _, _ => s

/-! ### The meanings -/

/-- `NOP` (R80). -/
def execNop (slice ring idx : Nat) (s : State) : Host.Outcome State Fault Refusal :=
  .next (s.whenAlive (s.onRunning ⟨slice, ring, idx⟩ 0x00 (fun t d => t.endDesc d.key stOk 0 0 0)))

/-- `FENCE` (R83, R84). -/
def execFence (slice ring idx : Nat) (s : State) : Host.Outcome State Fault Refusal :=
  .next (s.whenAlive (s.onRunning ⟨slice, ring, idx⟩ 0x01 (fun t d =>
    match t.ring slice ring with
    | none => t
    | some r =>
      if !(t.earlier r idx).isEmpty then t
      else if bit (d.at 16 1) 0 && r.windowErr then t.endDesc d.key eAborted 8 4 0
      else t.endDesc d.key stOk 0 0 0)))

/-- `DESCRIPTOR_COMPLETE` (R89 to R91). -/
def execDescriptorComplete (slice ring idx : Nat) (s : State) : Host.Outcome State Fault Refusal :=
  .next (s.whenAlive (s.complete ⟨slice, ring, idx⟩))

/-- `RING_STATUS_BLOCK_WRITE` (R74). -/
def execRingStatusBlockWrite (slice ring : Nat) (s : State) : Host.Outcome State Fault Refusal :=
  .next (s.whenAlive (match s.ring slice ring with
    | some r => if r.stDirty then s.writeStatus slice ring else s
    | none => s))

/-- `COALESCE_TIMER_EXPIRY` (R99). -/
def execCoalesceTimerExpiry (slice ring : Nat) (s : State) : Host.Outcome State Fault Refusal :=
  .next (s.whenAlive (s.ringInterrupt slice ring))

/-- `SQ_DOORBELL` (R70): a word without `RESUME`. -/
def execSqDoorbell (slice ring : Nat) (word : Word) (s : State) : Host.Outcome State Fault Refusal :=
  .next (s.whenAlive (if word.getLsbD 63 then s else s.sqDoorbell slice ring word))

/-- `SQ_DOORBELL_RESUME` (R70, R84): a word with `RESUME`. -/
def execSqDoorbellResume (slice ring : Nat) (word : Word) (s : State) : Host.Outcome State Fault Refusal :=
  .next (s.whenAlive (if word.getLsbD 63 then s.sqDoorbell slice ring word else s))

/-- `CQ_DOORBELL` (R71). -/
def execCqDoorbell (slice ring : Nat) (word : Word) (s : State) : Host.Outcome State Fault Refusal :=
  .next (s.whenAlive (s.cqDoorbell slice ring word))

/-- A ring command that waited for the bytes of its request is tried again (R67). -/
def State.retryRingCmd (s : State) : State :=
  match s.ringReq with
  | none => s
  | some (cmd, addr) =>
    let t := { s.setFld f_RING_CMD_STATUS_BUSY 0 with ringReq := none }
    if cmd = 1 then t.ringCreate addr else t.ringDestroy addr cmd

/-- `RING_CREATE` (R64 to R67). -/
def execRingCreate (addr : Nat) (s : State) : Host.Outcome State Fault Refusal := .next (s.whenAlive (s.ringCreate addr))

/-- `DESTROY_DRAIN` (R67). -/
def execDestroyDrain (addr : Nat) (s : State) : Host.Outcome State Fault Refusal := .next (s.whenAlive (s.ringDestroy addr 2))

/-- `DESTROY_DRAIN_DONE` (R67). -/
def execDestroyDrainDone (slice ring : Nat) (s : State) : Host.Outcome State Fault Refusal :=
  .next (s.whenAlive (match s.ring slice ring with
    | some r => if r.destroying = 2 && s.ringQuiet r then s.destroyDone slice ring else s
    | none => s))

/-- `DESTROY_ABORT` (R67). -/
def execDestroyAbort (addr : Nat) (s : State) : Host.Outcome State Fault Refusal := .next (s.whenAlive (s.ringDestroy addr 3))

end Sys2Proof.Machine
end

