-- ==== Sys2Proof/Machine/Regions.lean ====
section
/-! DEFINITION. Home operations (R54 to R61, R283 to R284, R291 to R294, R641): who may issue them, their checks at the home,
the version operations, `PLACE` `CREATE` and `DELETE`, and the answer to another ZV9. -/

namespace Sys2Proof.Machine

/-! ### Issuers (R54) -/

/-- Node and slice of the issuer. -/
def State.issuer (s : State) (d : Desc) : Nat × Nat :=
  match d.origin with
  | some p => (p.src, p.slice)
  | none => (s.me, d.key.slice)

/-- The issuer may act on what slice `owner` of this home owns. -/
def State.permitted (s : State) (node slice owner : Nat) : Bool :=
  (node == s.me && (slice == 0 || slice == owner)) ||
  (match s.mapCur with
   | none => false
   | some m => match m.jobOf s.me owner with
     | none => false
     | some j => j.slices.any (fun e => e.node == node && e.slice == slice))

def f3 (status off : Nat) : Fail := ⟨status, 3, off⟩

/-- The reserved field of `n` bytes at `o` is zero, else `E_FORMAT` with its offset (R13). -/
def zeroChk (raw : List Byte) (o n : Nat) : Bool × Fail := (zeros raw o n, f3 eFormat o)

/-! ### Step 1 of R87 for the home operations -/

/-- Check 1 of a home operation, in the order of its table (R60, R248, R292): its fields, then its node identifier (R33). `VERSION` of a
`TABLE_PUBLISH` is reserved unless `SEL` is 2 (R48). -/
def homeForm (raw : List Byte) : List (Bool × Fail) :=
  let f (o w : Nat) := leAt raw o w
  let node := (decide (f 16 2 < 0x8000), f3 eRange 16)
  match f 0 1 with
  | 0x30 =>
    [zeroChk raw 18 2, (f 20 4 / 2 ^ 20 == 0, f3 eFormat 20), zeroChk raw 25 3, (f 24 1 != 0 || f 28 4 == 0, f3 eFormat 28),
     zeroChk raw 32 32, (decide (f 24 1 ≤ 2), f3 eFormat 24), node]
  | 0x2A =>
    [(f 24 4 / 2 ^ 22 == 0, f3 eFormat 24), (bits (f 24 4) 20 2 == 2 || f 28 4 == 0, f3 eFormat 28), zeroChk raw 48 16,
     (bits (f 24 4) 20 2 == 0, f3 eFormat 24),
     (decide (f 22 2 < 0x8000), f3 eRange 22)]
  | 0x31 => [zeroChk raw 18 2, (f 20 4 / 2 ^ 20 == 0, f3 eFormat 20), zeroChk raw 32 32, node]
  | 0x38 =>
    let op := f 18 1
    [(decide (op ≤ 2), f3 eFormat 18), (decide (f 19 1 ≤ 3) && (op != 1 || f 19 1 == 0), f3 eFormat 19),
     (op == 0 || f 24 8 == 0, f3 eFormat 24), (op == 0 || f 32 4 == 0, f3 eFormat 32),
     (op == 2 || f 36 4 == 0, f3 eFormat 36), (op == 2 || f 40 4 == 0, f3 eFormat 40), (op == 0 || f 44 1 == 0, f3 eFormat 44),
     (op == 2 || bits (f 45 1) 0 1 == 0, f3 eFormat 45), (f 19 1 == 3 || f 46 1 == 0, f3 eFormat 46),
     (f 20 4 / 2 ^ 20 == 0, f3 eFormat 20), (decide (f 45 1 < 2), f3 eFormat 45), zeroChk raw 47 17, node]
  | 0x39 => [(decide (f 18 1 < 4), f3 eFormat 18), zeroChk raw 19 1, (f 20 4 / 2 ^ 20 == 0, f3 eFormat 20), zeroChk raw 32 32, node]
  | _ => []

/-- Offset of the `NODE` field of a home operation. -/
def homeNodeOff (op : Nat) : Nat := if op = 0x2A then 22 else 16

/-- Opcodes that execute on the home they name (R410). -/
def isHomeOp (op : Nat) : Bool := [0x2A, 0x30, 0x31, 0x38, 0x39].contains op

/-! ### Regions -/

def State.setRegion (s : State) (r : Region) : State := { s with regions := upd s.regions (fun x => x.num == r.num) (fun _ => r) }

/-- `AS_RGN_STATUS.LIVE` (R47). -/
def State.countLive (s : State) : State := s.setFld f_AS_RGN_STATUS_LIVE (s.regions.filter (fun r => !r.deleting)).length

/-- Sweeps that have all their answers end (R390). -/
def State.reapSweeps (s : State) : State := { s with sweeps := del s.sweeps (fun w => s.sweepDone w) }

def Region.version (r : Region) (n : Nat) : Option Version := r.retained.find? (fun v => v.num == n)

/-- Revocation (R514), permission and liveness: check 3 passes for a region that is not live, and the next check fails (R54, R60, R292). -/
def State.regionChecks (s : State) (d : Desc) (num : Nat) : List (Bool × Fail) :=
  let (n, sl) := s.issuer d
  match s.region num with
  | none => [(false, f3 eRange 20)]
  | some r =>
    let accepted := s.revoking.any (fun v => !v.abort && v.victims.contains d.key)
    [(accepted || !s.revokedNamed n sl false num, ⟨eRevoked, 2, r.base⟩), (accepted || s.permitted n sl r.owner, f3 ePerm 20)]

/-! ### The end of a home operation -/

/-- Answer another ZV9's operation that has ended (R410). -/
def State.finishHome (s : State) (k : DKey) : State :=
  match s.desc k with
  | some d =>
    match d.origin with
    | some p =>
      if d.phase == .ended && !s.sweepsFor k then
        let s1 := s.respond p 0x0A 3 d.status (leBytes 4 d.progress ++ leBytes 8 d.detail ++ [byte d.kind, 0#8, 0#8, 0#8]) false
        s1.forget k
      else s
    | none => s
  | none => s

/-- Answer every ended operation of another ZV9. -/
def State.finishHomes (s : State) : State := forL (s.descs.map (·.key)) s (fun k t => t.finishHome k)

/-- End an operation; a rejection at the home's checks reports `STARTED` 0 (R641). -/
def State.endHome (s : State) (d : Desc) (f : Fail) (progress : Nat) (started : Bool) : State :=
  let s1 := { s with descs := upd s.descs (fun x => x.key == d.key) (fun x => { x with started := started, engine := if started then x.engine else 0xF0 }) }
  (s1.endDesc d.key f.status f.kind f.detail progress).finishHome d.key

/-- End with `OK` and an opcode-specific value. -/
def State.okHome (s : State) (d : Desc) (detail progress : Nat) : State := s.endHome d ⟨stOk, 1, detail⟩ progress true

/-- Check 2 of a home operation, judged at the home again (R60, R248, R292, R641): fence, then epoch (R88, R424). -/
def State.homeEpoch (s : State) (d : Desc) : List (Bool × Fail) :=
  match d.origin with
  | none =>
    [(!s.fenced, s.fencedFail),
     (d.epoch == s.epoch || (s.grace && isPrevEpoch d.epoch s.epoch), ⟨eStaleEpoch, 6, s.epoch⟩)]
  | some p =>
    [((s.fencedSrc p.src).isNone, ⟨eFenced, 6, (s.fencedSrc p.src).getD 0⟩), (s.epochOk p.epoch, ⟨eStaleEpoch, 6, s.epoch⟩)]

/-- Run a home operation here, when it begins under its checks: the home of the region's first byte names the engine (R41, R92). -/
def State.homeRun (s : State) (k : DKey) (op : Nat) (mode : Desc → Bool) (run : State → Desc → State) : State :=
  s.onRunning k op (fun t d =>
    if d.at (homeNodeOff op) 2 != t.me || !mode d then t
    else if d.work ≠ 0 then run t d
    else match checks (homeForm d.raw ++ t.homeEpoch d) with
      | .error (.err f) => t.endHome d f 0 false
      | _ => run t d)

/-- The engine code of the home bank of a region (R41, R92). -/
def State.bankEngine (s : State) (k : DKey) (base : Nat) : State :=
  { s with descs := upd s.descs (fun x => x.key == k) (fun x => { x with engine := 0x80 + bank base }) }

/-- Run on a live region that the issuer may act on, after the further checks. -/
def State.onRegion (s : State) (d : Desc) (more : Region → List (Bool × Fail)) (run : State → Region → State) : State :=
  let num := bits (d.at 20 4) 0 20
  match checks (s.regionChecks d num), s.region num with
  | .error (.err f), _ => s.endHome d f 0 false
  | _, none => s
  | _, some r =>
    let s1 := s.bankEngine d.key r.base
    match checks (more r) with
    | .error (.err f) => s1.endHome d f 0 false
    | _ => run s1 r

/-! ### Version operations -/

/-- A write to the range has reached its bank and waits there (R279, R391). -/
def State.writeQueued (s : State) (base n : Nat) : Bool :=
  (s.fillQ ++ s.bankQ).any (fun w => w.acc.op.writes && w.over base n)

/-- `CUT` (R55): it waits for the writes to the region that reached their bank before it (R56). -/
def execCut (slice ring idx : Nat) (s : State) : Host.Outcome State Fault Refusal :=
  .next (s.whenAlive (s.homeRun ⟨slice, ring, idx⟩ 0x30 (fun d => d.at 24 1 == 0) (fun t d =>
    t.onRegion d
      (fun r => [(decide (r.retained.length < 16) && decide (r.lastCut < two32 - 1), ⟨eQuota, 0, 0⟩), (!r.writeLost, ⟨eIntegrity, 0, 0⟩)])
      (fun u r =>
        let n := r.lastCut + 1
        if u.writeQueued r.base (r.size * tileBytes) then t else (u.setRegion { r with lastCut := n, stamp := u.now, retained := r.retained ++ [{ num := n, map := r.working }] }).okHome d n 1))))

/-- A `ROLLBACK` of a region tears an attention descriptor or `KV_APPEND` that names its working version (R190). -/
def Desc.tornBy (x : Desc) (region : Nat) : Desc :=
  let ref := rrefAt x.raw 16
  if x.phase == .running && decide (0x10 ≤ x.op ∧ x.op ≤ 0x13) && ref.region == region && ref.sel == 0 then { x with torn := true } else x

/-- `ROLLBACK` (R57, R390). -/
def execRollback (slice ring idx : Nat) (s : State) : Host.Outcome State Fault Refusal :=
  .next (s.whenAlive (s.homeRun ⟨slice, ring, idx⟩ 0x30 (fun d => d.at 24 1 == 1) (fun t d =>
    t.onRegion d (fun r => [((r.version (d.at 28 4)).isSome, f3 eRange 28)])
      (fun t r => match r.version (d.at 28 4) with
        | none => t
        | some v =>
          let t0 := ((t.setRegion { r with working := v.map, writeLost := false }).gc).1
          let t1 := { t0 with descs := t0.descs.map (fun (x : Desc) => x.tornBy r.num) }
          ((t1.startSweep r.base (r.size * tileBytes) (.desc d.key)).reapSweeps).okHome d v.num 1))))

/-- `RELEASE` (R58). -/
def execRelease (slice ring idx : Nat) (s : State) : Host.Outcome State Fault Refusal :=
  .next (s.whenAlive (s.homeRun ⟨slice, ring, idx⟩ 0x30 (fun d => d.at 24 1 == 2) (fun t d =>
    t.onRegion d (fun r => [((r.version (d.at 28 4)).isSome, f3 eRange 28), (r.published != d.at 28 4, f3 ePerm 28)])
      (fun t r =>
        let (t1, n) := (t.setRegion { r with retained := r.retained.filter (fun v => v.num != d.at 28 4) }).gc
        t1.okHome d n 1))))

/-- `REGION_PUBLISH` (R60, R61). -/
def execRegionPublish (slice ring idx : Nat) (s : State) : Host.Outcome State Fault Refusal :=
  .next (s.whenAlive (s.homeRun ⟨slice, ring, idx⟩ 0x31 (fun _ => true) (fun t d =>
    t.onRegion d
      (fun r => [((r.version (d.at 28 4)).isSome, f3 eRange 28), (r.published == d.at 24 4, ⟨eVersion, 5, r.published⟩),
                 (decide (d.at 24 4 < d.at 28 4), ⟨eVersion, 5, r.published⟩)])
      (fun t r => (t.setRegion { r with published := d.at 28 4 }).endHome d ⟨stOk, 0, 0⟩ 1 true))))

/-! ### PLACE (R291 to R293) -/

/-- `PORT` of a `PLACE` with `TIER` 3 (R292). -/
def State.thPortOk (s : State) (port owner : Nat) : Bool :=
  decide (port < 4) && s.klUp port &&
  (if owner = 0 then s.fldAt f_KL_PORT_CTL_MGMT port == 1
   else match s.bound port with
     | none => false
     | some b => b == owner || (s.mapCur.any (fun m => (m.jobOf s.me owner).any (fun j => j.slices.any (fun e => e.node == s.me && e.slice == b)))))

/-- A range lies within the pool, where the DRAM has it, or within one valid extent (R3, R272, R273). -/
def State.regionRange (s : State) (base n : Nat) : Bool :=
  (decide (s.poolBase ≤ base ∧ base + n ≤ s.poolBase + s.poolLen) && !(s.code432 && overlap base n 0x16C00000000 0x2400000000)) ||
  s.extents.any (fun e => decide (e.base ≤ base ∧ base + n ≤ e.base + e.tiles * tileBytes))

/-- `PLACE` `CREATE` (R292, R293). Bits [63:50] of `BASE` belong to the address, which then lies in no range (DESIGN CHOICE, log 106). -/
def execPlaceCreate (slice ring idx : Nat) (s : State) : Host.Outcome State Fault Refusal :=
  .next (s.whenAlive (s.homeRun ⟨slice, ring, idx⟩ 0x38 (fun d => d.at 18 1 == 0) (fun t d =>
    let num := bits (d.at 20 4) 0 20
    let owner := d.at 44 1
    let base := d.at 24 8
    let size := d.at 32 4
    let l2 := t.fld f_AS_RGN_SIZE_LOG2_ENTRIES
    let (n, sl) := t.issuer d
    match checks [
      (!t.revokedFor n sl base (size * tileBytes), ⟨eRevoked, 2, base⟩),
      (t.permitted n sl owner, f3 ePerm 44),
      (l2 != 0 && decide (num < 2 ^ l2) && !t.regions.any (fun r => r.num == num), f3 eRange 20),
      (t.configured owner, f3 eRange 44),
      (base % tileBytes == 0, f3 eRange 24),
      (decide (1 ≤ size), f3 eRange 32),
      (t.regionRange base (size * tileBytes), f3 eRange 24),
      (!t.regions.any (fun r => !r.deleting && overlap base (size * tileBytes) r.base (r.size * tileBytes)), f3 eRange 24),
      (d.at 19 1 != 3 || t.thPortOk (d.at 46 1) owner, f3 eRange 46)] with
    | .error (.err f) => t.endHome d f 0 false
    | _ =>
      let r : Region := {
        num := num, deleting := false, owner := owner, writeLost := false, size := size, base := base, published := 0, lastCut := 0, stamp := t.now, working := [],
        retained := [{ num := 0, map := [] }], target := (d.at 19 1, d.at 46 1), targets := [] }
      let t1 := t.bankEngine d.key base
      (({ t1 with regions := t1.regions ++ [r] }).countLive).endHome d ⟨stOk, 0, 0⟩ 0 true)))

/-- `PLACE` `DELETE` (R293, R390): running operations keep the version they pinned. -/
def execPlaceDelete (slice ring idx : Nat) (s : State) : Host.Outcome State Fault Refusal :=
  .next (s.whenAlive (s.homeRun ⟨slice, ring, idx⟩ 0x38 (fun d => d.at 18 1 == 1) (fun t d =>
    t.onRegion d (fun _ => [])
      (fun t r =>
        let t1 := { t with descs := t.descs.map (fun (x : Desc) => { x with pins := x.pins.map (fun (p : Pin) =>
          if p.region = r.num ∧ p.version = none then { p with map := r.working } else p) }) }
        let (t2, n) := (t1.setRegion { r with deleting := true, working := [], retained := [], targets := [] }).gc
        let t3 := (t2.startSweep r.base (r.size * tileBytes) (.desc d.key)).reapSweeps
        (t3.reapRegions.countLive).okHome d n 0))))

end Sys2Proof.Machine
end

