-- ==== Sys2Proof/Machine/Streams.lean ====
section
/-! DEFINITION. Region references and pins (R48 to R50), KV streams (R145 to R154), the checks of the attention opcodes at
consumption (R160, R167, R185) and `KV_APPEND` (R158 to R165). -/

namespace Sys2Proof.Machine

/-! ### Checks at consumption (R87) -/

/-- A check: its step of R87 and its answer. -/
abbrev Chk := Nat × Res Unit

/-- A condition of a step with a field's byte offset. -/
def ck (step : Nat) (ok : Bool) (status off : Nat) : Chk := (step, check ok status 3 off)

/-- A reserved field of `n` bytes (step 1): `DETAIL` names the field (R13). -/
def ckZero (raw : List Byte) (o n : Nat) : Chk := (1, check (zeros raw o n) eFormat 3 o)

/-- Fields of 8 bytes from `o` to `top` that are not used, each by itself (R13, R166, R185, R252). -/
def ckUnused (raw : List Byte) (o top : Nat) : List Chk := (List.range ((top - o) / 8)).map (fun i => ckZero raw (o + 8 * i) 8)

/-- An aligned virtual address (step 6). -/
def ckAlign (a g : Nat) : Chk := (6, check (a % g == 0) eAlign 2 a)

/-- An operand lies in the virtual address space (step 5, R319). -/
def ckVa (a n : Nat) : Chk := (5, check (decide (a + n ≤ 2 ^ 57)) eRange 2 a)

/-- Pages are translated (step 8). -/
def State.ckPages (s : State) (slice a n right : Nat) : Chk := (8, (s.xlate uRing slice a n right).map (fun _ => ()))

/-- Bytes of an operand in its first translation block: the part in one 64 KiB-aligned virtual block (R327). -/
def firstBlock (a n : Nat) : Nat := min n (tileBytes - a % tileBytes)

/-- The pages of an operand's first translation block are translated (step 8 of R87, R327). -/
def State.ckXlate (s : State) (slice a n right : Nat) : Chk := s.ckPages slice a (firstBlock a n) right

/-- The same of an operand of `k` entries of `n` bytes, `step` bytes apart: the entries of its first translation block. -/
def State.ckStrided (s : State) (slice a step n k right : Nat) : Chk :=
  (8, (List.range (min k (ceilDiv (tileBytes - a % tileBytes) step))).forM (fun i => (s.xlate uRing slice (a + i * step) n right).map (fun _ => ())))

/-- Groups of a slice (R144). -/
def State.groups (s : State) (slice : Nat) : List Nat := (List.range 8).filter (fun g => bit (s.fldAt f_SLC_CFG_GROUPS slice) g)

/-- Assayers of a slice, and its contexts. -/
def State.assayers (s : State) (slice : Nat) : List Nat := (List.range 16).filter (fun g => bit (s.fldAt f_SLC_CFG_ASSAYERS slice) g)

/-- Gleaners of a slice, by engine code. -/
def State.gleanerCodes (s : State) (slice : Nat) : List Nat :=
  ((List.range 8).filter (fun g => bit (s.fldAt f_SLC_CFG_GLEANERS slice) g)).map (· + 0x20)

/-- Contexts that a slice holds in each of its Assayers (engine codes 0x10 to 0x1F) or Gleaners (0x20 to 0x27) (R497). -/
def State.ctxMost (s : State) (slice e : Nat) : Nat := if e < 0x20 then s.fldAt f_SLC_CFG_ASY_CTX slice else s.fldAt f_SLC_CFG_GLN_CTX slice

/-- Contexts of a slice in an engine that its running descriptors hold (R201, R235). -/
def State.ctxUsed (s : State) (slice e : Nat) : Nat :=
  ((s.descs.filter (fun d => d.key.slice == slice && d.phase == .running)).map (fun d => d.ctx.count e)).sum

/-- Free contexts of a slice in some engines: one of each engine, then a second of each, and so on, so that neighbours lie on distinct engines
where the slice holds them (R215). -/
def State.freeContexts (s : State) (slice : Nat) (es : List Nat) : List Nat :=
  let free := es.map (fun e => (e, s.ctxMost slice e - s.ctxUsed slice e))
  (List.range ((free.map (·.2)).foldl max 0)).flatMap (fun k => (free.filter (fun x => decide (k < x.2))).map (·.1))

/-- Engine codes of the Assayers of a slice, from a free one on: which of them run which unit is open (R134, R201). -/
def State.assayerCodes (s : State) (slice k : Nat) : List Nat :=
  let es := (s.assayers slice).map (· + 0x10)
  es.drop (k % es.length) ++ es.take (k % es.length)

/-! ### Region references (R48 to R50) -/

/-- Reserved fields of a region reference at offset `o` of a descriptor (step 1). -/
def refRsvd (raw : List Byte) (o : Nat) : List Chk :=
  let r := rrefAt raw o
  [ck 1 (r.rsvd == 0) eFormat (o + 8), ck 1 (r.sel == 2 || r.version == 0) eFormat (o + 12)]

/-- `SEL` of a region reference is defined (step 1, R50). -/
def refSel (raw : List Byte) (o : Nat) : Chk := ck 1 ((rrefAt raw o).sel != 3) eFormat (o + 8)

/-- Resolve a reference to a region of this home (R49, R50). -/
def State.refPin (s : State) (r : RRef) : Res Pin :=
  let bad : Res Pin := fail eRange 2 r.offset
  if r.node ≠ s.me then bad
  else match s.region r.region with
  | none => bad
  | some g =>
    if g.size * tileBytes ≤ r.offset then bad
    else match r.sel with
      | 0 => .ok { region := g.num, version := none, map := [] }
      | 1 => (match g.version g.published with
        | some v => .ok { region := g.num, version := some v.num, map := v.map }
        | none => bad)
      | _ => (match g.version r.version with
        | some v => .ok { region := g.num, version := some v.num, map := v.map }
        | none => bad)

/-- Revoked regions of this home (step 3, R514). -/
def State.ckRevoked (s : State) (slice : Nat) (r : RRef) : Chk :=
  (3, check (r.node != s.me || !s.revokedNamed s.me slice false r.region) eRevoked 2 r.offset)

/-- Read bytes of the version that a pin names, by region offset. -/
def State.verRead (s : State) (p : Pin) (off n : Nat) : Res (List Byte) :=
  match s.regions.find? (fun r => r.num == p.region) with
  | none => fail eRange 2 off
  | some r =>
    let got : Res Got :=
      if p.version = none ∧ r.deleting = false then s.feRead (r.base + off) n
      else (gather ((cut tileBytes off n).map (fun c =>
        readTile (s.mapFrame p.map (c.1 / tileBytes)) (r.base + c.1 / tileBytes * tileBytes) (c.1 % tileBytes) c.2))).map
          (fun gs => joinGot ((cut tileBytes off n).zip gs) off)
    match got with
    | .error e => .error e
    | .ok g => match g.poison with
      | some o => fail ePoison 2 (off + o)
      | none => .ok g.bytes

/-- The version that a lookup of another ZV9 has resolved here, as long as it is lent (R49, R243). -/
def State.lentPin (s : State) (p : QPkt) (r : Nat × Nat × Nat) : Option Pin :=
  if r.2.1 = 2 then (s.lent.find? (fun x => x.node == p.src && x.slice == p.slice && x.look == p.look && x.pin.region == r.1 && x.pin.version == some r.2.2)).map (·.pin)
  else none

/-- A Gleaner's read of a region of this home, by reference (R243): permission and resolution, unless the lookup has that version already; then the
version's bytes. -/
def State.refRead (s : State) (p : QPkt) (r : Nat × Nat × Nat) : Res (Pin × List Byte) := do
  match s.lentPin p r with
  | some pin => do
    let size := ((s.regions.find? (fun g => g.num == r.1)).map (·.size)).getD 0
    check (decide (p.addr + p.aux ≤ size * tileBytes)) eRange 2 p.addr
    return (pin, ← s.verRead pin p.addr p.aux)
  | none =>
    match s.region r.1 with
    | none => fail eRange 2 p.addr
    | some g =>
      check (!s.revokedNamed p.src p.slice false g.num) eRevoked 2 p.addr
      check (s.permitted p.src p.slice g.owner) ePerm 2 p.addr
      let pin ← s.refPin { offset := p.addr, node := s.me, region := r.1, sel := r.2.1, version := r.2.2, rsvd := 0 }
      check (decide (p.addr + p.aux ≤ g.size * tileBytes)) eRange 2 p.addr
      return (pin, ← s.verRead pin p.addr p.aux)

/-- A packet at an input is a read by reference that waits for a fill. -/
def State.refWaits (s : State) (p : Pkt) (id : Nat) : Bool :=
  match p with
  | .qf q => q.typ == 0x07 && q.dest == s.me && (match q.rref with
    | some r => (match s.refRead q r with
      | .error (.wait ns) => ns.any (fun n => match n with | .fill i _ => i == id | _ => false)
      | _ => false)
    | none => false)
  | _ => false

/-- Write bytes of a region's working version, by region offset. -/
def State.rgnWrite (s : State) (num off : Nat) (bs : List Byte) : Res State :=
  match s.region num with
  | none => fail eRange 2 off
  | some r => s.feWrite (r.base + off) bs

/-! ### Stream records (R145 to R150) -/

structure Stream where
  off : Nat
  fmt : Nat
  codes : Bool
  d : Nat
  sumExp : Int
  cap : Nat
  fill : Nat
  base : Nat
  kv : Nat
  scale : Nat
  sum : Nat
  code : Nat
  cb : Nat
  deriving DecidableEq, Repr

/-- Element width in bytes and positions per KV tile (R148). -/
def Stream.b (t : Stream) : Nat := if isMx t.fmt then 1 else 2
def Stream.p (t : Stream) : Nat := 32768 / (t.d * t.b)

def streamAt (raw : List Byte) (off : Nat) : Stream :=
  let f (o w : Nat) := leAt raw o w
  { off := off, fmt := f 0 1, codes := bit (f 1 1) 0, d := f 2 2, sumExp := decInt 8 (f 4 1), cap := f 8 4, fill := f 16 8, base := bits (f 24 8) 0 48,
    kv := f 32 8, scale := f 40 8, sum := f 48 8, code := f 56 8, cb := f 64 8 }

/-- The conditions of R147; `size` is the region's length in bytes. -/
def streamOk (raw : List Byte) (size : Nat) : Bool :=
  let t := streamAt raw 0
  let f (o w : Nat) := leAt raw o w
  let area (o n a : Nat) : Bool := o % a == 0 && decide (o + n ≤ size)
  zeros raw 5 3 && zeros raw 12 4 && zeros raw 30 2 && zeros raw 72 184 && decide (f 1 1 < 2) &&
  ([1, 2, 5, 6] : List Nat).contains t.fmt && ([64, 128, 256] : List Nat).contains t.d &&
  decide (1 ≤ t.cap ∧ t.cap ≤ 2 ^ 24) && decide (t.fill ≤ t.cap * t.p) && decide (t.base + t.cap * t.p ≤ 2 ^ 48) &&
  area t.kv (t.cap * tileBytes) tileBytes &&
  (if isMx t.fmt then area t.scale (t.cap * 2048) 2048 else t.scale == 0) &&
  area t.sum (t.cap * 2 * t.d) (2 * t.d) &&
  (if t.codes then area t.code (t.cap * 16 * t.p) 4096 && area t.cb (512 * t.d) 4096 else t.code == 0 && t.cb == 0)

/-- Read and judge the record at a region offset: `none` when it fails R147. -/
def State.streamRead (s : State) (p : Pin) (off : Nat) : Res (Option Stream) :=
  let size := ((s.regions.find? (fun r => r.num == p.region)).map (·.size)).getD 0 * tileBytes
  if off % 256 ≠ 0 ∨ size < off + 256 then .ok none
  else (s.verRead p off 256).map (fun raw => if streamOk raw size then some (streamAt raw off) else none)

/-! ### Places of a stream's items (R148 to R151) -/

def Stream.keyOff (t : Stream) (tile slot : Nat) : Nat := t.kv + tile * tileBytes + slot * t.d * t.b
def Stream.valOff (t : Stream) (tile slot : Nat) : Nat := t.keyOff tile slot + 32768
def Stream.kScaleOff (t : Stream) (tile slot : Nat) : Nat := t.scale + tile * 2048 + slot * (t.d / 32)
def Stream.vScaleOff (t : Stream) (tile slot : Nat) : Nat := t.kScaleOff tile slot + 1024
def Stream.sumOff (t : Stream) (tile : Nat) : Nat := t.sum + tile * 2 * t.d
def Stream.codeOff (t : Stream) (tile slot : Nat) : Nat := t.code + tile * 16 * t.p + 16 * slot

/-- The key (or value) vector of a slot. -/
def State.slotVec (s : State) (p : Pin) (t : Stream) (tile slot : Nat) (val : Bool) : Res (List Num) := do
  let bs ← s.verRead p (if val then t.valOff tile slot else t.keyOff tile slot) (t.d * t.b)
  let sc ← if isMx t.fmt then s.verRead p (if val then t.vScaleOff tile slot else t.kScaleOff tile slot) (t.d / 32) else .ok []
  .ok (vecVals t.fmt bs sc t.d)

/-! ### Summaries (R152, R153) -/

/-- The value of a summary byte. -/
def gridDec (e : Int) (c : Nat) : Num := (fE5M2.dec c).mul (.fin false 1 e)

/-- Codes of the grid: every E5M2 value but NaN, zero once. -/
def gridCodes : List Nat := (List.range 256).filter (fun c => fE5M2.dec c != .nan && c != 0x80)

/-- Greatest grid value not above `x`; −∞ for a NaN. The grid has one zero, and −0 is not below it. -/
def gridFloor (e : Int) (x0 : Num) : Nat :=
  let x := match x0 with | .fin _ 0 _ => Num.zero | y => y
  if x = .nan then 0xFC
  else (gridCodes.filter (fun c => (gridDec e c).le x)).foldl (fun a c => if (gridDec e a).le (gridDec e c) then c else a) 0xFC

/-- Least grid value not below `x`; +∞ for a NaN. -/
def gridCeil (e : Int) (x : Num) : Nat :=
  if x = .nan then 0x7C
  else (gridCodes.filter (fun c => x.le (gridDec e c))).foldl (fun a c => if (gridDec e c).le (gridDec e a) then c else a) 0x7C

/-- Fold one key into a summary. -/
def foldSummary (e : Int) (d : Nat) (old : List Byte) (key : List Num) : List Byte :=
  let lo := (List.range d).map (fun j =>
    let o := (old.getD j 0#8).toNat
    let c := gridFloor e (key.getD j .nan)
    byte (if (gridDec e o).le (gridDec e c) then o else c))
  let hi := (List.range d).map (fun j =>
    let o := (old.getD (d + j) 0#8).toNat
    let c := gridCeil e (key.getD j .nan)
    byte (if (gridDec e c).le (gridDec e o) then o else c))
  lo ++ hi

/-- The summary of a tile with no filled position. -/
def emptySummary (d : Nat) : List Byte := List.replicate d 0x7C#8 ++ List.replicate d 0xFC#8

/-! ### Key codes (R154, R163) -/

/-- Centroid `c` of subspace `j`: elements of a codebook held as bytes. -/
def centroid (cb : List Byte) (d j c : Nat) : List Num :=
  vecVals 1 ((cb.drop (2 * ((j * 256 + c) * (d / 16)))).take (2 * (d / 16))) [] (d / 16)

/-- The code of a stored key. -/
def keyCode (cb : List Byte) (d : Nat) (key : List Num) : List Byte :=
  (List.range 16).map (fun j =>
    let k := (key.drop (j * (d / 16))).take (d / 16)
    let delta (c : Nat) : Num :=
      (List.zipWith (fun (x y : Num) => (x, y)) (centroid cb d j c) k).foldl (fun (a : SAcc) xy =>
        a.add ((xy.1.mul xy.1).add (((Num.ofInt (-2)).mul xy.2).mul xy.1))) SAcc.zero |>.round
    byte ((List.range 255).foldl (fun (b : Nat × Num) c =>
      let x := delta (c + 1)
      if cmpLe b.2 x then b else (c + 1, x)) (0, delta 0)).1)

/-! ### KV_APPEND (R158 to R165) -/

/-- Bytes of a head's source block (R159). -/
def srcBlock (fmt d count : Nat) : Nat :=
  2 * count * d * (fmtBits fmt / 8) + (if isMx fmt then 2 * count * (d / 32) else 0)

/-- Records of the heads, each judged under R147. -/
def State.heads (s : State) (p : Pin) (off n : Nat) : Res (List (Nat × Option Stream)) :=
  (gather ((List.range n).map (fun h => s.streamRead p (off + 256 * h)))).map (fun ts =>
    ((List.range n).map (fun h => off + 256 * h)).zip ts)

/-- Region tiles that an append of `count` positions writes. -/
def Stream.appendTiles (t : Stream) (count : Nat) : List Nat :=
  let tiles := (List.range ((t.fill + count - 1) / t.p + 1 - t.fill / t.p)).map (fun k => t.fill / t.p + k)
  ((t.off / tileBytes) :: tiles.flatMap (fun i =>
    let lo := if i = t.fill / t.p then t.fill % t.p else 0
    let hi := if (i + 1) * t.p ≤ t.fill + count then t.p else (t.fill + count) % t.p
    [(t.kv / tileBytes + i), t.sumOff i / tileBytes] ++ (if isMx t.fmt then [(t.scale + i * 2048) / tileBytes] else []) ++
    (if t.codes then (cut tileBytes (t.codeOff i lo) (16 * (hi - lo))).map (fun c => c.1 / tileBytes) else []))).eraseDups

/-- Step 7 of R160: the first tier that lacks frames. -/
def State.appendQuota (s : State) (num : Nat) (ts : List Stream) (count : Nat) : Res Unit :=
  match s.region num with
  | none => .ok ()
  | some r =>
    let tiles := (ts.flatMap (fun t => t.appendTiles count)).eraseDups
    let need := tiles.filterMap (fun i =>
      match s.mapFrame r.working i with
      | none => some (s.tileTarget (.rgn num i))
      | some f => if s.sharedFrame f.id then some (f.tier, f.port) else none)
    checks ((List.range 4).map (fun tier =>
      let ns := (List.range (if tier = 3 then 4 else 1)).filterMap (fun port =>
        let n := (need.filter (fun x => x.1 == tier && (tier != 3 || x.2 == port))).length
        if n = 0 then none else some (port, n))
      (ns == [] || s.mayAllocAll r.owner tier ns, ⟨eQuota, 9, detail9 tier (s.lackingAll r.owner tier ns)⟩)))

/-- Steps 5, 7 and 9 of R160, judged at consumption and again at execution. For records that differ, or that the append would overfill,
the manual names no `DETAIL`: the model gives the offset of the first such record (log 78). -/
def State.appendChecks (s : State) (d : Desc) (p : Pin) : Res (List Stream) := do
  let off := (rrefAt d.raw 16).offset
  let count := d.at 42 2
  let rs ← s.heads p off (d.at 41 1)
  match rs.find? (fun x => x.2.isNone) with
  | some x => fail eRange 2 x.1
  | none =>
    let ts := rs.filterMap (·.2)
    match ts with
    | [] => .ok []
    | t0 :: _ =>
      let differs (t : Stream) : Bool := t.fmt != t0.fmt || t.d != t0.d || t.fill != t0.fill
      match (ts.find? differs).orElse (fun _ => ts.find? (fun t => decide (t.cap * t.p < t.fill + count))) with
      | some t => fail eRange 2 t.off
      | none =>
        check (!isMx (d.at 40 1) || d.at 40 1 == t0.fmt) eRange 3 40
        s.appendQuota p.region ts count
        check (!bit (d.at 44 1) 0 || t0.fill == d.at 48 8) eVersion 5 (t0.fill % two32)
        .ok ts

/-- Some record that a descriptor names fails R147. -/
def State.recordBad (s : State) (d : Desc) (n : Nat) : Bool :=
  let ref := rrefAt d.raw 16
  match s.refPin ref with
  | .ok p => (match s.heads p ref.offset n with | .ok rs => rs.any (fun x => x.2.isNone) | .error _ => false)
  | .error _ => false

/-- Attention opcodes need an array group (R144). -/
def State.ckGroup (s : State) (slice : Nat) : Chk := ck 4 (s.groups slice != []) ePerm 0

/-- Checks of `KV_APPEND` at consumption. -/
def State.kvChecks (s : State) (d : Desc) : List Chk :=
  let raw := d.raw
  let ref := rrefAt raw 16
  let src := d.at 32 8
  refRsvd raw 16 ++ [ck 1 (decide (d.at 44 1 < 2)) eFormat 44, ckZero raw 45 3, ck 1 (bit (d.at 44 1) 0 || d.at 48 8 == 0) eFormat 48, ckZero raw 56 8,
    refSel raw 16, ck 1 (([0, 1, 2, 5, 6] : List Nat).contains (d.at 40 1)) eFormat 40, s.ckRevoked d.key.slice ref, s.ckGroup d.key.slice,
    ck 4 (ref.sel == 0) ePerm 24,
    (5, (s.refPin ref).map (fun _ => ())), ck 5 (decide (1 ≤ d.at 41 1 ∧ d.at 41 1 ≤ 16)) eRange 41,
    ck 5 (decide (1 ≤ d.at 42 2 ∧ d.at 42 2 ≤ 4096)) eRange 42,
    (5, do
      let p ← s.refPin ref
      match s.appendChecks d p with
      | .error (.err f) => if f.status = eRange then fail f.status f.kind f.detail else .ok ()
      | .error e => .error e
      | .ok _ => .ok ()),
    (5, do
      let p ← s.refPin ref
      let rs ← s.heads p ref.offset 1
      match rs with
      | (_, some t) :: _ => (ckVa src (d.at 41 1 * srcBlock (d.at 40 1) t.d (d.at 42 2))).2
      | _ => .ok ()),
    ckAlign src 64,
    (7, do
      let p ← s.refPin ref
      match s.appendChecks d p with
      | .error (.err f) => if f.status = eQuota then fail f.status f.kind f.detail else .ok ()
      | .error e => .error e
      | .ok _ => .ok ()),
    (8, do
      let p ← s.refPin ref
      let rs ← s.heads p ref.offset 1
      match rs with
      | (_, some t) :: _ => (s.ckXlate d.key.slice src (d.at 41 1 * srcBlock (d.at 40 1) t.d (d.at 42 2)) rRead).2
      | _ => .ok ()),
    (9, do
      let p ← s.refPin ref
      match s.appendChecks d p with
      | .error (.err f) => if f.status = eVersion then fail f.status f.kind f.detail else .ok ()
      | .error e => .error e
      | .ok _ => .ok ())]

/-- What a position writes for one head: key and value with their scales, as the stream stores them. -/
structure Stored where
  key : List Byte
  keySc : List Byte
  val : List Byte
  valSc : List Byte
  deriving DecidableEq, Repr

/-- Store a vector of the source in the stream's format (R162). -/
def storeVec (srcFmt fmt d : Nat) (bs sc : List Byte) : List Byte × List Byte :=
  if srcFmt = fmt then (bs, sc)
  else
    let xs := vecVals srcFmt bs sc d
    if isMx fmt then
      let qs := (chunks 32 d xs).map (mxQuant fmt)
      (packRaw fmt (qs.flatMap (·.2)), qs.map (fun q => byte q.1))
    else (packRaw fmt (plainQuant fmt xs), [])

/-- Bytes of the source of an append to some streams. -/
def Desc.srcLen (d : Desc) (ts : List Stream) : Nat := ts.length * srcBlock (d.at 40 1) ((ts.head?.map (·.d)).getD 0) (d.at 42 2)

/-- Places of position `n` of head `h` in the source: key, value, key scales and value scales, by address and length (R159). -/
def Desc.srcAt (d : Desc) (t : Stream) (h n : Nat) : List (Nat × Nat) :=
  let fmt := d.at 40 1
  let count := d.at 42 2
  let w := fmtBits fmt / 8
  let b0 := d.at 32 8 + h * srcBlock fmt t.d count
  let vec (o : Nat) := (b0 + o + n * t.d * w, t.d * w)
  let scl (o : Nat) := (b0 + 2 * count * t.d * w + o + n * (t.d / 32), if isMx fmt then t.d / 32 else 0)
  [vec 0, vec (count * t.d * w), scl 0, scl (count * (t.d / 32))]

/-- Read position `n` of head `h` from the source, which has `total` bytes (R159, R327). -/
def State.srcPos (s : State) (d : Desc) (t : Stream) (h n total : Nat) : Res Stored := do
  let fmt := d.at 40 1
  let xs ← gather ((d.srcAt t h n).map (fun p => if p.2 = 0 then .ok [] else s.engReadIn d (uSeq d.engine) (d.at 32 8) total p.1 p.2))
  let (k1, ks1) := storeVec fmt t.fmt t.d (xs.getD 0 []) (xs.getD 2 [])
  let (v1, vs1) := storeVec fmt t.fmt t.d (xs.getD 1 []) (xs.getD 3 [])
  .ok { key := k1, keySc := ks1, val := v1, valSc := vs1 }

/-- The areas of a stream (R148) and its record, by region offset and length; the codebook, which no append writes, last. -/
def Stream.areas (t : Stream) : List (Nat × Nat) :=
  [(t.off, 256), (t.kv, t.cap * tileBytes), (t.sum, t.cap * 2 * t.d)] ++ (if isMx t.fmt then [(t.scale, t.cap * 2048)] else []) ++
  (if t.codes then [(t.code, t.cap * 16 * t.p), (t.cb, 512 * t.d)] else [])

/-- Some area of a stream overlaps another of it, or an area of another stream overlaps one that an append writes (R147). -/
def areasOverlap (ts : List Stream) : Bool :=
  let written (t : Stream) : List (Nat × Nat) := t.areas.filter (fun x => !(t.codes && x == (t.cb, 512 * t.d)))
  let hit (x y : Nat × Nat) : Bool := overlap x.1 x.2 y.1 y.2
  ts.any (fun t => anyPair hit t.areas) ||
  anyPair (fun t u => (written t).any (fun x => u.areas.any (hit x)) || (written u).any (fun x => t.areas.any (hit x))) ts

/-- Write bytes of a region; free bytes in their place where the manual leaves the values undefined (R147, R190). -/
def State.rgnPut (s : State) (wild : Bool) (num off : Nat) (bs : List Byte) : Res State :=
  if bs.isEmpty then .ok s
  else if wild then
    { s with fresh := s.fresh + bs.length }.rgnWrite num off ((List.range bs.length).map (fun i => Config.freeByte (s.fresh + i)))
  else s.rgnWrite num off bs

/-- Write and commit one position of one head (R162 to R164). -/
def State.appendHead (s : State) (wild : Bool) (p : Pin) (t : Stream) (pos : Nat) (x : Stored) : Res State := do
  let tile := pos / t.p
  let slot := pos % t.p
  let w (r : State) (o : Nat) (bs : List Byte) : Res State := r.rgnPut wild p.region o bs
  let s1 ← w s (t.keyOff tile slot) x.key
  let s2 ← w s1 (t.valOff tile slot) x.val
  let s3 ← w s2 (t.kScaleOff tile slot) x.keySc
  let s4 ← w s3 (t.vScaleOff tile slot) x.valSc
  let key := vecVals t.fmt x.key x.keySc t.d
  let s5 ← if t.codes then do
      let cb ← s4.verRead p t.cb (512 * t.d)
      w s4 (t.codeOff tile slot) (keyCode cb t.d key)
    else .ok s4
  let old ← if slot = 0 then .ok (emptySummary t.d) else s5.verRead p (t.sumOff tile) (2 * t.d)
  let s6 ← w s5 (t.sumOff tile) (foldSummary t.sumExp t.d old key)
  w s6 (t.off + 16) (leBytes 8 (pos + 1))

/-- The append from the position where it stands (R162, R165): what is committed stays, also while a later position waits. -/
def State.appendRun (s : State) (d : Desc) (p : Pin) (ts : List Stream) : Done :=
  let hs := ts.zip (List.range ts.length)
  let wild := d.torn || areasOverlap ts
  let step (n : Nat) (e : Eff) : Res Eff := do
    let xs ← phased 1 (gather (hs.map (fun th => e.s.srcPos d th.1 th.2 n (d.srcLen ts))))
    let t1 ← phased 2 ((hs.zip xs).foldlM (fun (t : State) hx => t.appendHead wild p hx.1.1 (hx.1.1.fill + n) hx.2) e.s)
    .ok { e with s := t1 }
  let touch (n : Nat) : List Touch := hs.flatMap (fun th => ((d.srcAt th.1 th.2 n).filter (fun x => x.2 != 0)).map (fun x => ⟨uSeq d.engine, x.1, x.2, true⟩))
  let o := runFrom step touch d.key.slice false (d.at 42 2 - d.progress) d.progress { s := s, out := [] }
  { o with eff := { o.eff with s := o.eff.s.addWrap f_ATT_POSITIONS_POSITIONS ((o.progress - d.progress) * ts.length) } }

/-- The streams of an append that has begun, as its records stood then. -/
def Desc.appendTo (d : Desc) : List Stream := d.plan.map (fun x => streamAt x.2 x.1)

/-- `KV_APPEND` (R161): the started descriptor joins the queue of its region's home bank. -/
def execKvAppend (slice ring idx : Nat) (s : State) : Host.Outcome State Fault Refusal :=
  .next (s.whenAlive (s.onRunning ⟨slice, ring, idx⟩ 0x10 (fun t d =>
    if t.queues.any (fun q => q.key == d.key) then t
    else { t with queues := t.queues ++ [{ what := (rrefAt d.raw 16).region, key := d.key }] })))

/-- An append goes on. -/
def State.kvOn (s : State) (d : Desc) : State :=
  match s.refPin (rrefAt d.raw 16) with
  | .ok p => s.attempt d [] (.ok (s.appendRun d p d.appendTo))
  | .error e => s.attempt d [] (.error e)

/-- An append of its region's queue begins: it is judged again, and the records that it finds are the ones that it appends to (R161). A wait of
that judging counts as phase 2 (DESIGN CHOICE, log 113). -/
def State.kvStart (s : State) (d : Desc) : State :=
  let ref := rrefAt d.raw 16
  match phased 2 (do
      let p ← s.refPin ref
      let ts ← s.appendChecks d p
      gather (ts.map (fun t => (s.verRead p t.off 256).map (fun raw => (t.off, raw))))) with
  | .error (.wait ns) => s.attempt d [] (.error (.wait ns))
  | .error (.err f) =>
    let t0 := if f.status = eRange ∧ s.recordBad d (d.at 41 1) then s.incSat f_ATT_ERR_STREAM_REJECTS else s
    let t1 := { t0 with descs := upd t0.descs (fun x => x.key == d.key) (fun x => { x with started := false }) }
    t1.endDesc d.key f.status f.kind f.detail 0
  | .ok raws =>
    let d1 := { d with work := 1, plan := raws }
    (s.setDesc d1).kvOn d1

/-- `KV_APPEND_EXECUTE` (R161 to R165): the first of its region's queue is judged again and appends; its place ends with it. -/
def execKvAppendExecute (slice ring idx : Nat) (s : State) : Host.Outcome State Fault Refusal :=
  .next (s.whenAlive (s.onRunning ⟨slice, ring, idx⟩ 0x10 (fun t d =>
    match t.queues.find? (fun q => q.what == (rrefAt d.raw 16).region) with
    | none => t
    | some q =>
      if q.key ≠ d.key then t
      else
        let u := if d.work = 0 then t.kvStart d else t.kvOn d
        match u.desc d.key with
        | some e => if e.phase == .ended then { u with queues := del u.queues (fun x => x.key == d.key) } else u
        | none => u)))

end Sys2Proof.Machine
end

