-- ==== Sys2Proof/Machine/Media.lean ====
section
/-! DEFINITION. Tiles and drives in motion (R277 to R289, R293 to R307): write-backs, fills, `MOVE_TIER`, `WRITEBACK`, `MOVE`, the
drives' zones, NVMe completions, timeouts and failures, patrol scrub, retirement and Borage. -/

namespace Sys2Proof.Machine

/-! ### Drives and zones (R299, R300) -/

def State.drive (s : State) (port : Nat) : Option Drive := s.liveDrives.find? (fun d => d.port == port)

def State.setDrive (s : State) (d : Drive) : State := { s with drives := upd s.drives (fun x => x.port == d.port) (fun _ => d) }

def Drive.zone (d : Drive) (n : Nat) : Option Zone := d.zones.find? (fun z => z.num == n)

def Drive.setZone (d : Drive) (z : Zone) : Drive := { d with zones := upd d.zones (fun x => x.num == z.num) (fun _ => z) }

/-- A zone takes one more tile. -/
def Zone.room (z : Zone) : Bool := z.state == .opened && decide (z.written < z.cap)

/-- Empty zones. -/
def Drive.empties (d : Drive) : List Zone := d.zones.filter (fun z => z.state == .empty)

/-- A zone is open for reclamation, with room. -/
def Drive.rcOpen (d : Drive) : Bool := (d.openRc.bind d.zone).any Zone.room

/-- Write-backs may open one more zone: the last `low` are held back for reclamation, the zone open for it among them (R300). -/
def Drive.mayOpenWb (d : Drive) (low : Nat) : Bool := decide (low < d.empties.length + (if d.rcOpen then 1 else 0))

/-- The zone open for write-backs (or reclamation) with room, after opening an empty one when the open one has none;
`avoid` is a zone whose append failed (R302). -/
def Drive.openZone (d : Drive) (low : Nat) (rc : Bool) (avoid : Option Nat) : Option (Drive × Zone) :=
  let cur := if rc then d.openRc else d.openWb
  match (cur.bind d.zone).filter (fun z => z.room && some z.num != avoid) with
  | some z => some (d, z)
  | none =>
    if !rc && !d.mayOpenWb low then none
    else (d.empties.find? (fun z => some z.num != avoid)).map (fun z =>
      let z1 := { z with state := .opened }
      let d1 := d.setZone z1
      (if rc then { d1 with openRc := some z.num } else { d1 with openWb := some z.num }, z1))

/-- A drive keeps a zone open for write-backs and one for reclamation, as long as it has empty ones (R299). -/
def Drive.keepOpen (d : Drive) (low : Nat) : Drive :=
  let d1 := ((d.openZone low false none).map (·.1)).getD d
  ((d1.openZone low true none).map (·.1)).getD d1

/-- Appends outstanding in a zone (R299). -/
def State.appendsIn (s : State) (port zone : Nat) : Nat :=
  (s.nvme.filter (fun c => c.port == port && (match c.op with | .append _ _ z _ _ _ => z == zone | _ => false))).length

/-- Ports of the drives in use, in the order in which the next write-back tries them (R300). -/
def State.driveOrder (s : State) : List Nat :=
  let ps := sortBy (fun a b => decide (a ≤ b)) (s.liveDrives.map (·.port))
  ps.filter (fun p => decide (s.nextDrive ≤ p)) ++ ps.filter (fun p => decide (p < s.nextDrive))

def State.nvmeSend (s : State) (port : Nat) (op : NvmeOp) : State :=
  { s with nvme := s.nvme ++ [{ id := s.nextCmd, port := port, op := op, retried := false, retagged := false, aborting := false }],
           nextCmd := s.nextCmd + 1 }

/-- Finish a zone (R299): it takes no more tiles. -/
def State.finishZone (s : State) (port zone : Nat) : State :=
  match (s.drive port).bind (fun d => (d.zone zone).map (fun z => (d, z))) with
  | some (d, z) => if z.state == .opened then (s.setDrive (d.setZone { z with state := .full })).nvmeSend port (.finish zone) else s
  | none => s

/-- Append a tile to a drive (R298, R299): its place in the zone is taken now; a full zone is finished. -/
def State.appendOn (s : State) (port frame : Nat) (rc : Bool) (bytes : Cells) (dirty : BitVec 16) (tag : Nat) (avoid : Option Nat) :
    Option State :=
  let low := s.fld f_MEDIA_CTL_RECLAIM_LOW
  match (s.drive port).bind (fun d => d.openZone low rc avoid) with
  | none => none
  | some (d, z) =>
    if 64 ≤ s.appendsIn port z.num then none
    else
      let z1 := { z with written := z.written + 1 }
      let d1 := d.setZone (if z1.written < z1.cap then z1 else { z1 with state := .full })
      let s1 := (s.setDrive (d1.keepOpen low)).nvmeSend port (.append frame rc z.num bytes dirty tag)
      some (if z1.written < z1.cap then s1 else s1.nvmeSend port (.finish z.num))

/-- Append a tile to the next drive that has room. -/
def State.appendAny (s : State) (frame : Nat) (bytes : Cells) (dirty : BitVec 16) (tag : Nat) (avoid : Option (Nat × Nat)) : Option State :=
  s.driveOrder.findSome? (fun p =>
    (s.appendOn p frame false bytes dirty tag (avoid.bind (fun a => if a.1 = p then some a.2 else none))).map
      (fun t => { t with nextDrive := p + 1 }))

/-! ### Write-backs (R281, R282) -/

/-- Write a whole tile to the frame's place: a Zone Append, or 64 `C_WRITE` of 1,024 bytes into TH (R281, R456). -/
def State.putTile (s : State) (f : Frame) (bytes : Cells) (dirty : BitVec 16) : Option State :=
  let bs := cellsRead bytes 0 tileBytes
  let tag := crc32c bs
  if f.tier = 2 then s.appendAny f.id bytes dirty tag none
  else if !s.klUp f.port then none
  else
    let base := ((s.klClient f.port).map (·.thBase)).getD 0 + f.num * tileBytes
    -- only inside the TH range (R453); outside it nothing is answered, and the write-back ends as undeliverable
    let inside := (s.klClient f.port).any (fun c => decide ((f.num + 1) * tileBytes ≤ c.thLen))
    some (forN 64 s (fun k t =>
      let t1 := if inside then t.sendKl f.port (mkKl 0x42 4 t.nextTag (base + 1024 * k) 0 ((bs.drop (1024 * k)).take 1024)) else t
      { t1 with nextTag := t.nextTag + 1,
                klOuts := t1.klOuts ++ [{ port := f.port, tag := t.nextTag, why := .writeback f.id dirty tag, left := 0, got := [], bad := [] }] }))

/-- The tags of a tile on its way are compared and `n` of the comparisons differ (R277): each is counted, one is met by the repetition, two
end the transfer, with alarm 0x0A for the tier. Answers whether the tile arrives. -/
def State.tagCheck (s : State) (n tier addr : Nat) : State × Bool :=
  let s1 := forN (min n 2) s (fun _ t => t.incSat f_TIER_ERR_TAG_MISMATCHES)
  if n < 2 then (s1, true)
  else (s1.raise { ev 0x0A (6 * 4096 + bank addr) tier with status := eIntegrity, addr := some addr }, false)

/-- Local address of a frame's lowest poisoned line, when its cached bytes hold one: they are no data to write back (R304). -/
def State.cachePoison (s : State) (f : Frame) : Option Nat :=
  ((f.cache.getD noCache).poison.min?).map (fun o => s.frameAddr f.id + o)

/-- Start the write-back of a dirty tile whose sectors are all valid: steps 2 to 5 of R281. -/
def State.startWriteback (s : State) (f : Frame) : Option State :=
  match f.cache with
  | none => none
  | some c => (s.setFrame { f with cache := some { c with dirty := 0 } }).putTile f c.data c.dirty

/-- A write-back fails: the dirty bits are set again (R282). -/
def State.writebackFailed (s : State) (id : Nat) (dirty : BitVec 16) : State :=
  match s.frame id with
  | some f => s.setFrame { f with cache := f.cache.map (fun c => { c with dirty := c.dirty ||| (dirty &&& c.valid) }) }
  | none => s

/-- A frame's write-back has ended: every `WRITEBACK` that waits for it counts the tile, and drops its cache frame where asked (R284). -/
def State.wroteBack (s : State) (id : Nat) : State :=
  forL (s.descs.filter (fun d => d.op == 0x39 && d.phase == .running && d.moving == [(id, id)])) s (fun d t =>
    let t1 := { t with descs := upd t.descs (fun x => x.key == d.key) (fun x =>
      { x with work := x.work + 1, progress := x.progress + 1, moving := [] }) }
    match t1.frame id with
    | some f => if bit (d.at 18 1) 0 && t1.evictable f then t1.setFrame { f with cache := none } else t1
    | none => t1)

/-- A write-back succeeds on a drive: the new location and tag (R281). -/
def State.located (s : State) (id : Nat) (sl : Slot) (tag : Nat) : State :=
  match s.frame id with
  | some f => (s.setFrame { f with slot := some sl, tag := tag }).wroteBack id
  | none => s

/-! ### Operations that wait on media -/

/-- Descriptors that wait for a fill of this frame end with a status, each in the phase that waits, one whose start waits for it included; a ring whose
next descriptor's checks wait for it is told (R301). -/
def State.endFills (s : State) (id : Nat) (f : Fail) : State :=
  let waits := s.descs.filterMap (fun d => if d.phase != .ended then (d.fills.find? (fun w => w.1 == id)).map (fun w => (d, w.2)) else none)
  let s0 := forL waits s (fun x t =>
    let g := f.phased x.2
    let u := { t with descs := upd t.descs (fun (y : Desc) => y.key == x.1.key && y.phase == DPhase.waiting) (fun y => { y with started := true }) }
    (u.endDesc x.1.key g.status g.kind g.detail x.1.progress).finishHome x.1.key)
  let g := f.phased 0
  -- and so do the reads of other ZV9s' Gleaners that wait for it at their inputs
  let s0 := forL (s0.rx.filter (fun x => s0.refWaits x.2 id)) s0 (fun x t => match x.2 with
    | .qf p => ({ t with rx := t.rx.erase x }.freeCells x.1 x.2).respondErr p g
    | _ => t)
  let s1 := { s0 with rings := upd s0.rings (fun r => r.waitFills.contains id) (fun r => { r with waitFills := [], fillFail := some (g.status, g.kind, g.detail) }) }
  s1.failFills id (f.phased 0)

/-- Descriptors that wait for a write of this frame end with a status (R301): the one that began it, and a `WRITEBACK` that found it under way. -/
def State.endWrites (s : State) (id : Nat) (f : Fail) : State :=
  let waits (d : Desc) : Bool := d.moving.any (fun m => m.2 == id) || (d.op == 0x39 && d.fills.contains (id, 2))
  forL (s.descs.filter (fun d => waits d && d.phase == .running)) s (fun d t =>
    let g := f.phased 2
    (t.endDesc d.key g.status g.kind g.detail d.progress).finishHome d.key)

/-! ### MOVE_TIER (R293, R294) -/

/-- Frames that a tile of a region uses: the working version's, and with `ALL_VERSIONS` those of retained versions alone. -/
def Region.tileFrames (r : Region) (tile : Nat) (all : Bool) : List Nat :=
  let of (m : List (Nat × Nat)) := (m.filter (fun e => e.1 == tile)).map (·.2)
  (of r.working ++ (if all then r.retained.flatMap (fun v => of v.map) else [])).eraseDups

/-- A frame already lies in the target tier. -/
def Frame.inTarget (f : Frame) (tier port : Nat) : Bool := f.tier == tier && (tier != 3 || f.port == port)

/-- The frames of a tile that still have to move. -/
def State.toMove (s : State) (r : Region) (tile : Nat) (all : Bool) (tier port : Nat) : List Frame :=
  ((r.tileFrames tile all).filterMap s.frame).filter (fun f => !f.inTarget tier port)

/-- Switch every tile map that names a frame to another (R294). -/
def State.switchMaps (s : State) (old new : Nat) : State :=
  let sw (m : List (Nat × Nat)) := m.map (fun (e : Nat × Nat) => if e.2 = old then (e.1, new) else e)
  { s with
    regions := s.regions.map (fun (r : Region) => { r with working := sw r.working, retained := r.retained.map (fun (v : Version) => { v with map := sw v.map }) })
    extents := s.extents.map (fun (e : Extent) => { e with map := sw e.map })
    descs := s.descs.map (fun (d : Desc) => { d with pins := d.pins.map (fun (p : Pin) => { p with map := sw p.map }) })
    lent := s.lent.map (fun (x : Lent) => { x with pin := { x.pin with map := sw x.pin.map } }) }

/-- All bytes of a frame and its poisoned lines. -/
def State.frameBytes (s : State) (f : Frame) : Res (List Byte) :=
  match readTile (some f) (s.frameAddr f.id) 0 tileBytes with
  | .ok g => match g.poison with
    | some o => fail ePoison 2 (s.frameAddr f.id + o)
    | none => .ok g.bytes
  | .error e => .error e

def State.setMoving (s : State) (k : DKey) (m : List (Nat × Nat)) : State :=
  { s with descs := upd s.descs (fun d => d.key == k) (fun d => { d with moving := m }) }

def State.setProgress (s : State) (k : DKey) (n : Nat) : State :=
  { s with descs := upd s.descs (fun d => d.key == k) (fun d => { d with progress := n }) }

/-- What one attempt at a tile leaves: the tile is done, more of it is to do, it waits, or the operation ends. -/
inductive TileStep where
  | done (s : State)
  | more (s : State)
  | wait (s : State)
  | stop (s : State) (f : Fail)

/-- The frames that an operation waits for, in a phase. -/
def State.setFills (s : State) (k : DKey) (fs : List (Nat × Nat)) : State :=
  { s with descs := upd s.descs (fun d => d.key == k) (fun d => { d with fills := fs }) }

/-- Give up the copies made of the tile in progress. -/
def State.dropMoves (s : State) (k : DKey) : State := ((s.setMoving k []).gc.1).retryFills

/-- One tile moves (R294): every frame of it that lies elsewhere is copied into a new frame; once all copies hold their bytes, every map
switches and the old frames are freed. `n` of the tag comparisons of its transfer differ (R277). -/
def State.moveTile (s : State) (k : DKey) (r : Region) (tile : Nat) (all : Bool) (tier port n : Nat) : TileStep :=
  let olds := s.toMove r tile all tier port
  let made := ((s.desc k).map (·.moving)).getD []
  match olds.find? (fun f => !made.any (fun m => m.1 == f.id)) with
  | some f =>
    if !s.mayAlloc r.owner tier port 1 then .stop (s.dropMoves k) ⟨eQuota, 9, detail9 tier (s.lacking r.owner tier port 1)⟩
    else match s.frameBytes f with
      | .error (.err e) => .stop (s.dropMoves k) (e.phased 1)
      | .error (.wait ns) => .wait ((s.startNeeds ns).setFills k (ns.filterMap (fun n => match n with | .fill id _ => some (id, 1) | _ => none)))
      | .ok bs =>
        match s.tagCheck (if made.isEmpty then n else 0) f.tier (r.base + tile * tileBytes) with
        | (t, false) => .stop (t.dropMoves k) ⟨eIntegrity, 2, r.base + tile * tileBytes⟩
        | (t, true) =>
          let data := cellsWrite [] 0 bs
          let (s1, id) := t.newFrame r.owner tier port (if tier ≤ 1 then data else []) [] none
          let s2 := if tier ≤ 1 then s1 else ((s1.frame id).bind (fun g => s1.putTile g data 0)).getD s1
          .more (s2.setMoving k (made ++ [(f.id, id)]))
  | none =>
    match (made.filterMap (fun m => (s.frame m.2).map (fun g => (m.1, g)))).find? (fun m => m.2.slow && !m.2.located) with
    | none =>
      if made.isEmpty then .done s
      else .more ((((forL made s (fun m t => t.switchMaps m.1 m.2)).setMoving k []).gc.1).retryFills)
    | some (old, g) =>
      if s.writingBack g.id then .wait s
      else match (s.frame old).map s.frameBytes with
        | some (.ok bs) => .wait ((s.putTile g (cellsWrite [] 0 bs) 0).getD s)
        | some (.error (.err f)) => .stop (s.dropMoves k) f
        | some (.error (.wait ns)) => .wait (s.startNeeds ns)
        | none => .more (s.dropMoves k)

/-- Move the frames of the named tiles, tile by tile, as far as it goes. -/
def State.moveTiles (s : State) (k : DKey) (num first : Nat) (all : Bool) (tier port : Nat) (tags : List Nat) : Nat → State
  | 0 => s
  | fuel + 1 =>
    match s.desc k, s.region num with
    | some d, some r =>
      let n := d.at 40 4
      if d.progress ≥ n then s.endHome d ⟨stOk, 0, 0⟩ n true
      else
        let tile := first + d.progress
        match s.moveTile k r tile all tier port (tags.count tile) with
        | .wait t => t
        | .stop t f => t.endHome d f d.progress (decide (0 < d.progress) || !(decide (0x10 ≤ f.status ∧ f.status ≤ 0x18)))
        | .more t => State.moveTiles t k num first all tier port tags fuel
        | .done t =>
          let t1 := { t with regions := upd t.regions (fun x => x.num == num) (fun (x : Region) =>
            { x with targets := (x.targets.filter (fun (e : Nat × (Nat × Nat)) => decide (e.1 < tile))) ++ (tile, (tier, port)) :: x.targets.filter (fun (e : Nat × (Nat × Nat)) => decide (tile < e.1)) }) }
          State.moveTiles (t1.setProgress k (d.progress + 1)) k num first all tier port tags fuel
    | some d, none => s.endHome d (f3 eRange 20) d.progress true
    | none, _ => s

/-- `PLACE` `MOVE_TIER` (R292 to R294); `tags` names a tile once for each of its tag comparisons that differs (R277). -/
def execMoveTier (slice ring idx : Nat) (s : State) (tags : List Nat := []) : Host.Outcome State Fault Refusal :=
  .next (s.whenAlive (s.homeRun ⟨slice, ring, idx⟩ 0x38 (fun d => d.at 18 1 == 2) (fun t d =>
    let tier := d.at 19 1
    let port := d.at 46 1
    let all := bit (d.at 45 1) 0
    let first := d.at 36 4
    let count := d.at 40 4
    let loop (t : State) (r : Region) := t.moveTiles d.key r.num first all tier port tags (count * (2 * r.retained.length + 5) + 2)
    -- a T2 allocation waits until every drive is in use or unusable (R557)
    if tier = 2 && !t.mediaWait.isEmpty then t
    else if d.work ≠ 0 then
      match t.region (bits (d.at 20 4) 0 20) with
      | some r => loop t r
      | none => t.endHome d (f3 eRange 20) d.progress true
    else
      t.onRegion d
        (fun r =>
          let need := (((List.range count).flatMap (fun i => r.tileFrames (first + i) all)).eraseDups.filterMap t.frame).filter
            (fun f => !f.inTarget tier port)
          [(decide (1 ≤ count), f3 eRange 40), (decide (first + count ≤ r.size), f3 eRange 36), (tier != 3 || t.thPortOk port r.owner, f3 eRange 46),
           (t.mayAlloc r.owner tier port need.length, ⟨eQuota, 9, detail9 tier (t.lacking r.owner tier port need.length)⟩)])
        (fun t r => loop { t with descs := upd t.descs (fun x => x.key == d.key) (fun x => { x with work := 1, started := true }) } r))))

/-! ### WRITEBACK (R283, R284) -/

/-- One tile of a `WRITEBACK`: counted, written, or waiting. `n` of the tag comparisons of its transfer differ (R277). -/
def State.writebackTile (s0 : State) (k : DKey) (t : TRef) (n : Nat) : TileStep :=
  match s0.tileFrame t with
  | none => .done s0
  | some f =>
    if (s0.desc k).any (fun d => d.moving == [(f.id, f.id)]) && s0.writingBack f.id then .wait s0
    else
      -- a write-back of its own that has ended without success is begun again
      let s := s0.setMoving k []
      match f.slow, f.cache with
      | true, some c =>
        if c.dirty = 0 then .done s
        else if s.writingBack f.id then .wait (s.setFills k [(f.id, 2)])
        else if c.valid ≠ BitVec.allOnes 16 then
          match f.lost with
          | some st => .stop s ⟨st, 2, s.tileAddr t⟩
          | none =>
            if f.located then .wait ((s.startFill f.id).setFills k [(f.id, 1)])
            else .more (s.setFrame { f with cache := some { c with valid := BitVec.allOnes 16 } })
        else match s.cachePoison f with
          | some a => .stop s ⟨ePoison, 2, a⟩
          | none =>
            match s.tagCheck n f.tier (s.tileAddr t) with
            | (s1, false) => .stop s1 ⟨eIntegrity, 2, s.tileAddr t⟩
            | (s1, true) =>
              match s1.startWriteback f with
              | some s2 => .wait (s2.setMoving k [(f.id, f.id)])
              | none => .wait s
      | _, _ => .done s

/-- A tile that counts as done at once has its cache frame dropped where asked (R284), also the clean one of zeros of a tile without a frame. -/
def State.evictDone (s : State) (t : TRef) (evict : Bool) : State :=
  match s.tileFrame t with
  | some f => if evict && s.evictable f then s.setFrame { f with cache := none } else s
  | none => if evict then { s with zeroed := s.zeroed.filter (fun x => x != t) } else s

def State.writebackTiles (s : State) (k : DKey) (mk : Nat → TRef) (first n : Nat) (evict : Bool) (tags : List Nat) : Nat → State
  | 0 => s
  | fuel + 1 =>
    match s.desc k with
    | none => s
    | some d =>
      if d.progress ≥ n then s.okHome d (d.work - 1) n
      else match s.writebackTile k (mk (first + d.progress)) (tags.count (first + d.progress)) with
        | .wait t => t
        | .stop t f => t.endHome d f d.progress true
        | .more t => State.writebackTiles t k mk first n evict tags fuel
        | .done t =>
          State.writebackTiles ((t.evictDone (mk (first + d.progress)) evict).setProgress k (d.progress + 1)) k mk first n evict tags fuel

/-- `WRITEBACK` (R284): `work` is one more than the tiles written; `tags` names a tile once for each of its tag comparisons that differs
(R277). -/
def execWriteback (slice ring idx : Nat) (s : State) (tags : List Nat := []) : Host.Outcome State Fault Refusal :=
  .next (s.whenAlive (s.homeRun ⟨slice, ring, idx⟩ 0x39 (fun _ => true) (fun t d =>
    let num := bits (d.at 20 4) 0 20
    let first := d.at 24 4
    let n := d.at 28 4
    let ext := bit (d.at 18 1) 1
    let evict := bit (d.at 18 1) 0
    let begin_ (t : State) (mk : Nat → TRef) :=
      let t1 := if d.work ≠ 0 then t
        else { t with descs := upd t.descs (fun x => x.key == d.key) (fun x => { x with work := 1, started := true }) }
      t1.writebackTiles d.key mk first n evict tags (2 * n + 2)
    let (node, sl) := t.issuer d
    if ext then
      match t.extent num with
      | none => if d.work ≠ 0 then t.endHome d (f3 eRange 20) d.progress true else t.endHome d (f3 eRange 20) 0 false
      | some e =>
        if d.work ≠ 0 then begin_ t (.ext num)
        else match checks [(!t.revokedNamed node sl true num, ⟨eRevoked, 2, e.base⟩), (node == t.me && (sl == 0 || sl == e.owner), f3 ePerm 20),
            (decide (1 ≤ n), f3 eRange 28),
            (decide (first + n ≤ e.tiles), f3 eRange 24)] with
          | .error (.err f) => t.endHome d f 0 false
          | _ => begin_ (t.bankEngine d.key e.base) (.ext num)
    else if d.work ≠ 0 then
      match t.region num with
      | none => t.endHome d (f3 eRange 20) d.progress true
      | some _ => begin_ t (.rgn num)
    else t.onRegion d (fun r => [(decide (1 ≤ n), f3 eRange 28), (decide (first + n ≤ r.size), f3 eRange 24)])
      (fun t _ => begin_ t (.rgn num)))))

/-! ### MOVE (R288, R289) -/

/-- The overlap of two runs of bytes of one node: which offsets of `p` lie in a piece of the source. -/
def inPieces (src : List Piece) (node a : Nat) : Bool := src.any (fun q => q.node == node && decide (q.loc ≤ a ∧ a < q.loc + q.len))

/-- The tile movers of a slice (R288). -/
def State.movers (s : State) (slice : Nat) : List Nat := (List.range 32).filter (fun m => bit (s.fldAt f_SLC_MOVERS_MOVERS slice) m)

/-- The mover that takes unit `k` of a `MOVE`: which one is free is not stated (log 7). -/
def State.mover (s : State) (d : Desc) (k : Nat) : Nat :=
  match s.movers d.key.slice with
  | [m] => m
  | ms => ms.getD (Config.freeNat (d.work + k) % ms.length) (d.engine - 0x40)

/-- Pieces of the pages of the source that are mapped. -/
def State.srcPieces (s : State) (u slice src n : Nat) : List Piece :=
  (cut 4096 src n).flatMap (fun c => match s.xlate u slice c.1 c.2 rRead with | .ok ps => ps | .error _ => [])

/-- Bytes of unit `k` of a `MOVE`: where they begin, and how many they are (R289). -/
def Desc.moveUnit (d : Desc) (k : Nat) : Nat × Nat := (tileBytes * k, min tileBytes (bits (d.at 32 8) 0 40 - tileBytes * k))

/-- The ranges that a unit touches, through its mover. -/
def State.moveTouch (s : State) (d : Desc) (k : Nat) : List Touch :=
  let u := uMov (s.mover d k)
  let (off, len) := d.moveUnit k
  [⟨u, d.at 16 8 + off, len, true⟩, ⟨u, d.at 24 8 + off, len, false⟩]

/-- Tier and local address of the tile that a `MOVE` unit transfers: its source's (R277). -/
def State.moveTileAddr (s : State) (d : Desc) (k : Nat) : Nat × Nat :=
  match (s.srcPieces (uMov (s.mover d k)) d.key.slice (d.at 16 8 + (d.moveUnit k).1) 64).head? with
  | some p =>
    let a := p.loc / tileBytes * tileBytes
    (match s.placeOf a with | .tile t => ((s.tileFrame t).map (·.tier)).getD (s.tileTarget t).1 | .scratch => 0 | _ => 1, a)
  | none => (1, 0)

/-- One unit of a `MOVE`: its pages are translated before any of its bytes moves; bytes written where source and destination overlap are free
bytes (R289). -/
def moveStep (d : Desc) (src : List Piece) (tags : List Nat) (k : Nat) (e : Eff) : Res Eff := do
  let slice := d.key.slice
  let m := e.s.mover d k
  let u := uMov m
  let dm := { d with engine := 0x40 + m }
  let (off, len) := d.moveUnit k
  let _ ← e.s.xlate u slice (d.at 16 8 + off) len rRead
  let dps ← e.s.xlate u slice (d.at 24 8 + off) len rWrite
  let bs ← phased 1 (e.s.engRead dm u (d.at 16 8 + off) len)
  let (tier, a) := e.s.moveTileAddr d k
  check (decide (tags.count k < 2)) eIntegrity 2 a
  let out := dps.flatMap (fun p => (List.range p.len).map (fun i =>
    let o := p.va - (d.at 24 8 + off) + i
    if inPieces src p.node (p.loc + i) then Config.freeByte (e.s.fresh + o) else bs.getD o 0#8))
  let e1 : Eff := { e with s := ((e.s.tagCheck (tags.count k) tier a).1) }
  let e2 ← phased 2 (({ e1 with s := { e1.s with fresh := e1.s.fresh + len } } : Eff).write dm u (d.at 24 8 + off) out k)
  .ok { e2 with s := ({ e2.s with descs := upd e2.s.descs (fun x => x.key == d.key) (fun x => { x with engine := 0x40 + m }) }).obs 5 m 1 slice len }

/-- A unit whose bytes were read and whose tags differed twice: its mismatches are counted, and the alarm is raised. -/
def State.moveTags (s : State) (d : Desc) (tags : List Nat) (o : Done) : State :=
  let u := uMov (s.mover d o.progress)
  let (off, len) := d.moveUnit o.progress
  if o.status = eIntegrity ∧ 2 ≤ tags.count o.progress then
    match s.engRead d u (d.at 16 8 + off) len with
    | .ok _ => let (tier, a) := s.moveTileAddr d o.progress; (s.tagCheck 2 tier a).1
    | .error _ => s
  else s

/-- `MOVE` from the unit where it stands, source bytes as they stand when a unit begins (R289). -/
def State.moveRun (s : State) (d : Desc) (tags : List Nat) : Done :=
  let n := bits (d.at 32 8) 0 40
  let src := s.srcPieces (uMov (d.engine - 0x40)) d.key.slice (d.at 16 8) n
  let o := runFrom (moveStep d src tags) (s.moveTouch d) d.key.slice false (ceilDiv n tileBytes - d.progress) d.progress { s := s, out := [] }
  { o with eff := { o.eff with s := o.eff.s.moveTags d tags o } }

/-- `MOVE` (R289); `tags` names a unit once for each of its tag comparisons that differs (R277). The record names the mover of the last unit
done (R288). -/
def execMove (slice ring idx : Nat) (s : State) (tags : List Nat := []) : Host.Outcome State Fault Refusal :=
  .next (s.whenAlive (s.onRunning ⟨slice, ring, idx⟩ 0x02 (fun t d =>
    let o := t.moveRun d tags
    t.attempt { d with engine := 0x40 + t.mover d o.progress } [] (.ok o))))

/-! ### NVMe completions (R298, R301, R302) -/

def State.nvmeCmd (s : State) (id : Nat) : Option NvmeCmd := s.nvme.find? (fun c => c.id == id)

def State.nvmeDrop (s : State) (id : Nat) : State := { s with nvme := del s.nvme (fun c => c.id == id) }

def State.nvmeMark (s : State) (c : NvmeCmd) : State := { s with nvme := upd s.nvme (fun x => x.id == c.id) (fun _ => c) }

/-- Cause 0x0D for a media port. -/
def State.mediaEvent (s : State) (port status : Nat) : State :=
  s.raise (ev 0x0D (10 * 4096 + port) (port + 65536 * status))

/-- Commands that bring a drive up (R297), by opcode and argument: Identify of the controller, the namespace and the Zoned Namespace command set; Set
Features of the Volatile Write Cache, the Number of Queues and the Asynchronous Event Configuration; the first I/O queue pair; Report Zones (opcodes
PRESUMED, log 90). -/
def setupCmds : List (Nat × Nat) := [(0x06, 1), (0x06, 0), (0x06, 5), (0x06, 6), (0x09, 0x06), (0x09, 0x07), (0x09, 0x0B), (0x05, 1), (0x01, 1), (0x7A, 0)]

def State.sendSetup (s : State) (port : Nat) : State := forL setupCmds s (fun c t => t.nvmeSend port (.setup c.1 c.2))

/-- A tile is lost: what waited for it is tried again and finds the status. -/
def State.loseTile (s : State) (id status : Nat) : State := (s.lose id status).retryFills

/-- A second mismatch of a fill (R278): alarm 0x0A with the tier, and the tile is lost. -/
def State.tagLost (s : State) (id : Nat) : State :=
  let tier := ((s.frame id).map (·.tier)).getD 0
  let a := s.frameAddr id
  (s.raise { ev 0x0A (6 * 4096 + bank a) tier with status := eIntegrity, addr := some a }).loseTile id eIntegrity

/-- `NVME_READ_COMPLETE` (R278, R279, R302); `tags` of the tag comparisons of a reclamation copy's writer differ: one is met by the repetition, two end
the copy with nothing written (R277). -/
def execNvmeReadComplete (id status : Nat) (data : List Byte) (s : State) (tags : Nat := 0) : Host.Outcome State Fault Refusal :=
  .next (s.whenAlive (match s.nvmeCmd id with
    | none => s
    | some c =>
      let go (frame : Nat) (rc : Bool) : State :=
        if c.aborting then s
        else if status ≠ 0 ∨ data.length ≠ tileBytes then
          if c.retried then (s.nvmeDrop id).loseTile frame ePoison else s.nvmeMark { c with retried := true }
        else if some (crc32c data) ≠ (s.frame frame).map (·.tag) then
          let s1 := s.incSat f_TIER_ERR_TAG_MISMATCHES
          if c.retagged then (s1.nvmeDrop id).tagLost frame else s1.nvmeMark { c with retagged := true }
        else
          let s1 := (s.nvmeDrop id).obs 10 c.port 1 (((s.frame frame).map (·.owner)).getD 0xFF) 1
          if rc then
            match s1.tagCheck tags 2 (s1.frameAddr frame) with
            | (s2, true) => (s2.appendOn c.port frame true (cellsWrite [] 0 data) 0 (crc32c data) none).getD s2
            | (s2, false) => s2
          else (s1.fillDone frame data).retryFills
      match c.op with
      | .read f => go f false
      | .readRc f => go f true
      | _ => s))

/-- `ZONE_APPEND_COMPLETE` (R281, R302). -/
def execZoneAppendComplete (id status slot : Nat) (s : State) : Host.Outcome State Fault Refusal :=
  .next (s.whenAlive (match s.nvmeCmd id with
    | none => s
    | some c =>
      match c.op with
      | .append f rc zone bytes dirty tag =>
        if c.aborting then s
        else if status ≠ 0 then
          -- the zone that refused it is finished, so that two zones of the drive are open (R299)
          let s1 := (s.nvmeDrop id).finishZone c.port zone
          if rc then (s1.appendOn c.port f true bytes dirty tag (some zone)).getD s1
          else (s1.appendAny f bytes dirty tag (some (c.port, zone))).getD (s1.writebackFailed f dirty)
        else
          let s2 := (s.nvmeDrop id).obs 10 c.port 2 (((s.frame f).map (·.owner)).getD 0xFF) 1
          -- a reclamation copy counts only while the tile still lies where it was read
          if rc && !(s.frame f).any (fun g => g.tag == tag && g.slot.any (fun x => x.drive == c.port)) then s2
          else s2.located f { drive := c.port, zone := zone, slot := slot } tag
      | _ => s))

/-- A fully valid cache frame is dirty again and its place is gone (R303). -/
def Frame.rewrite (f : Frame) : Frame :=
  { f with slot := none, cache := f.cache.map (fun c => { c with dirty := BitVec.allOnes 16 }) }

/-- The tiles of a failed drive or of an offline zone (R302, R303). -/
def State.loseSlots (s : State) (p : Slot → Bool) : State :=
  forL (s.frames.filter (fun f => f.slot.any p)) s (fun f t =>
    if f.cache.any (fun c => c.valid == BitVec.allOnes 16) then t.setFrame f.rewrite else t.lose f.id ePoison)

/-- `NVME_COMMAND_COMPLETE` (R297, R299, R301, R302): zone commands, Abort, a controller reset, and admin commands, whose
answer may name zones gone offline. -/
def execNvmeCommandComplete (id status : Nat) (offline : List Nat) (s : State) : Host.Outcome State Fault Refusal :=
  .next (s.whenAlive (match s.nvmeCmd id with
    | none => s
    | some c =>
      let zone (z : Nat) (g : Zone → Zone) (t : State) : State :=
        match t.drive c.port with
        | some d => t.setDrive { d with zones := upd d.zones (fun x => x.num == z) g }
        | none => t
      match c.op with
      | .finish _ => s.nvmeDrop id
      | .reset z =>
        if status = 0 then
          let s1 := zone z (fun x => if x.state == .excluded then x else { x with state := .empty, written := 0 }) (s.nvmeDrop id)
          match s1.drive c.port with
          | some d => s1.setDrive (d.keepOpen (s.fld f_MEDIA_CTL_RECLAIM_LOW))
          | none => s1
        else s.nvmeDrop id
      | .abort cmd => (s.nvmeDrop id).nvmeDrop cmd
      -- its queues are made again, and with them the Asynchronous Event Request (R297, R301)
      | .controllerReset =>
        if s.mediaWait.contains c.port then (s.nvmeDrop id).sendSetup c.port else (s.nvmeDrop id).nvmeSend c.port (.admin 0x0C)
      | .setup _ _ => s.nvmeDrop id
      | .admin op =>
        -- an event is asked for again, and its log page is read (R297)
        let s1 := if op = 0x0C then ((s.nvmeDrop id).nvmeSend c.port (.admin 0x0C)).nvmeSend c.port (.admin 0x02) else s.nvmeDrop id
        let s2 := forL offline s1 (fun z t => zone z (fun x => { x with state := .excluded }) t)
        (s2.loseSlots (fun x => x.drive == c.port && offline.contains x.zone)).retryFills
      | _ => s))

/-- What a command that gives no data leaves: its waiting operations end (R301). -/
def State.endCommand (s : State) (c : NvmeCmd) : State :=
  let f : Fail := ⟨eTimeout, 7, detail7 s.me 0 1⟩
  match c.op with
  | .read id => s.endFills id f
  | .append id false _ _ dirty _ => (s.writebackFailed id dirty).endWrites id f
  | _ => s

/-- `NVME_COMMAND_TIMEOUT` (R301). -/
def execNvmeCommandTimeout (id : Nat) (s : State) : Host.Outcome State Fault Refusal :=
  .next (s.whenAlive (match s.nvmeCmd id with
    | none => s
    | some c =>
      if c.aborting then s
      else match c.op with
        | .abort _ | .controllerReset => s
        | _ => (((s.nvmeMark { c with aborting := true }).nvmeSend c.port (.abort id)).mediaEvent c.port 0).endCommand c))

/-- `NVME_ABORT_TIMEOUT` (R301): the controller is reset and its queues re-created; every other command is gone. -/
def execNvmeAbortTimeout (id : Nat) (s : State) : Host.Outcome State Fault Refusal :=
  .next (s.whenAlive (match s.nvmeCmd id with
    | none => s
    | some c =>
      match c.op with
      | .abort _ =>
        let gone := s.nvme.filter (fun x => x.port == c.port && !x.aborting)
        let s1 := { s with nvme := del s.nvme (fun x => x.port == c.port) }
        (forL gone s1 (fun x t => t.endCommand x)).nvmeSend c.port .controllerReset
      | _ => s))

/-- A drive fails (R303), in use or while it comes up. -/
def State.failDrive (s : State) (port : Nat) : State :=
  if 8 ≤ port ∨ (s.fldAt f_MEDIA_PORT_STATE port ≠ 1 ∧ !s.mediaWait.contains port) then s
  else
    let dirties := s.nvme.filterMap (fun c => if c.port = port then (match c.op with | .append f false _ _ d _ => some (f, d) | _ => none) else none)
    let s1 := { (s.setFldAt f_MEDIA_PORT_STATE port 2) with
      nvme := del s.nvme (fun c => c.port == port), mediaWait := s.mediaWait.filter (fun p => p != port) }
    let s2 := forL dirties s1 (fun x t => t.writebackFailed x.1 x.2)
    let s3 := s2.raise (ev 0x0C (10 * 4096 + port) port)
    (s3.loseSlots (fun x => x.drive == port)).retryFills

/-- `CONTROLLER_RESET_TIMEOUT` (R301, R303). -/
def execControllerResetTimeout (port : Nat) (s : State) : Host.Outcome State Fault Refusal :=
  .next (s.whenAlive (if s.nvme.any (fun c => c.port == port && c.op == .controllerReset) then s.failDrive port else s))

/-- `DRIVE_LINK_DOWN` (R303). -/
def execDriveLinkDown (port : Nat) (s : State) : Host.Outcome State Fault Refusal := .next (s.whenAlive (s.failDrive port))

/-- `CONTROLLER_FATAL_STATUS` (R303). -/
def execControllerFatalStatus (port : Nat) (s : State) : Host.Outcome State Fault Refusal := .next (s.whenAlive (s.failDrive port))

/-- `DRIVE_REMOVED` (R303). -/
def execDriveRemoved (port : Nat) (s : State) : Host.Outcome State Fault Refusal :=
  .next (s.whenAlive (if s.fldAt f_MEDIA_PORT_STATE port = 1 then s.failDrive port else s))

/-- `AER_MESSAGE` (R295): an Advanced Error Reporting message of the drive. -/
def execAerMessage (port : Nat) (s : State) : Host.Outcome State Fault Refusal :=
  .next (s.whenAlive (if 8 ≤ port then s else s.mediaEvent port 0))

/-- The store buffer that a command's PRPs name: whether the drive writes it, and its length (R298). A Zone Management Send, Abort and the
Asynchronous Event Request name none. -/
def NvmeOp.buffer : NvmeOp → Option (Bool × Nat)
  | .read _ | .readRc _ => some (true, tileBytes)
  | .append _ _ _ _ _ _ => some (false, tileBytes)
  | .admin op => if op = 0x02 then some (true, 4096) else none
  | .setup op _ => if op = 0x06 ∨ op = 0x7A then some (true, 4096) else none
  | _ => none

/-- I/O queue pairs of a drive that may access the store (R298): of one in use, and the first of one that comes up (R297). -/
def State.dmaQueues (s : State) (port : Nat) : Option Nat :=
  ((s.drive port).map (·.queues)).orElse (fun _ => if s.mediaWait.contains port && s.fldAt f_MEDIA_PORT_RATE port != 0 then some 1 else none)

/-- What the drive of a port may access (R298), `queues` I/O queue pairs being its: the buffer of an outstanding command in its direction; its queue memory, submission entries of 64 bytes to
read and completion entries of 16 bytes to write, 64 in the admin pair and 1,024 in every other. -/
def State.dmaServed (s : State) (port queues : Nat) (area : DmaArea) (write : Bool) (off len : Nat) : Bool :=
  let entries (p : Nat) := if p = 0 then 64 else 1024
  match area with
  | .buffer id => s.nvme.any (fun c => c.id == id && c.port == port &&
      c.op.buffer.any (fun b => b.1 == write && decide (off + len ≤ b.2)))
  | .sq p => !write && decide (p ≤ queues ∧ off + len ≤ 64 * entries p)
  | .cq p => write && decide (p ≤ queues ∧ off + len ≤ 16 * entries p)
  | .other => false

/-- `DRIVE_DMA_REQUEST` (R298): a range of what it names, by first byte and length, read or written. -/
def execDriveDmaRequest (port : Nat) (area : DmaArea) (write : Bool) (range : Nat × Nat) (s : State) : Host.Outcome State Fault Refusal :=
  .next (s.whenAlive (if 8 ≤ port then s
    else if (s.dmaQueues port).any (fun q => s.dmaServed port q area write range.1 range.2) then s
    else (s.incSatAt f_MEDIA_PORT_DMA_REJECTS port).mediaEvent port 0))

/-- Slots that fit the frame map beside 1 GiB of cache frames (R275): how many zones of each drive are used. -/
def State.zonesThatFit (s : State) (caps : List (List Nat)) (th : Nat) : Nat :=
  let cache := s.fld f_TIER_SPLIT_CACHE_GIB * gib
  let most := (caps.map (·.length)).foldl max 0
  let fits (n : Nat) : Bool := decide (8 * ((caps.flatMap (fun c => c.take n)).sum + th) + gib ≤ cache)
  ((List.range (most + 1)).filter fits).foldl max 0

/-- A limit that a drive reports leaves room for `n`. -/
def leaves (limit : Option Nat) (n : Nat) : Bool := limit.all (fun m => decide (n ≤ m))

/-- The namespace that the ZV9 uses: the lowest-numbered active one of the Zoned Namespace command set (R296). -/
def nvmeSpace (spaces : List NvmeNs) : Option NvmeNs := (sortBy (fun a b => decide (a.id ≤ b.id)) (spaces.filter (fun n => n.active && n.zoned))).head?

/-- A drive meets the requirements of R296. -/
def NvmeId.meets (x : NvmeId) (n : NvmeNs) : Bool :=
  decide (2 ≤ x.base.1) && (decide (2 ≤ x.zns.1) || (x.zns.1 == 1 && decide (1 ≤ x.zns.2))) &&
  n.lba == 4096 && n.metadata == 0 && !n.protection && leaves x.mdts tileBytes && leaves x.zasl tileBytes &&
  leaves n.maxOpen 2 && leaves n.maxActive 2 && n.zones.all (fun z => decide (16 ≤ z.2.1)) && decide (2 ≤ x.sqs ∧ 2 ≤ x.cqs ∧ 2 ≤ x.vectors)

/-- A zone as a drive comes up with it; one that is not empty is reset before it is used (R299). -/
def zoneOf (z : Nat × Nat × Nat) : Zone := { num := z.1, cap := z.2.1 / 16, written := 0, state := if z.2.2 = 1 then .full else .empty }

/-- A drive comes into use (R275, R298, R299): its zones that are neither offline nor read-only, as many as fit the frame map on every drive;
each that is not empty is reset, used or not; two are opened. -/
def State.useDrive (s : State) (port : Nat) (x : NvmeId) (n : NvmeNs) : State :=
  let low := s.fld f_MEDIA_CTL_RECLAIM_LOW
  let zs := sortBy (fun a b => decide (a.1 ≤ b.1)) (n.zones.filter (fun z => z.2.2 != 2))
  let d : Drive := { port := port, zones := zs.map zoneOf, openWb := none, openRc := none, queues := min 16 (min x.sqs x.cqs) }
  let caps := (s.liveDrives.map (fun y => y.zones.map (·.cap))) ++ [d.zones.map (·.cap)]
  let k := s.zonesThatFit caps ((s.klClients.map (fun c => c.thLen / tileBytes)).sum)
  let s1 := { s with drives := (del s.drives (fun y => y.port == port) ++ [d]).map (fun (y : Drive) => ({ y with zones := y.zones.take k }).keepOpen low) }
  let s2 := forL s1.drives s1 (fun y t => t.setFldAt f_MEDIA_PORT_ZONES y.port y.zones.length)
  let s3 := s2.setFldAt f_MEDIA_PORT_STATE port 1
  let s4 := forL (d.zones.filter (fun z => z.state == .full)) s3 (fun z t => t.nvmeSend port (.reset z.num))
  s4.nvmeSend port (.admin 0x0C)

/-- `MEDIA_BRINGUP` (R295, R296, R299): the drive of a port whose link is up answers what the ZV9 asks, and is used or left out (log 90). -/
def execMediaBringup (port : Nat) (drive : NvmeId) (spaces : List NvmeNs) (s : State) : Host.Outcome State Fault Refusal :=
  .next (s.whenAlive (if s.fldAt f_MEDIA_PORT_RATE port = 0 ∨ !s.mediaWait.contains port then s
    else
      let s1 := { s with
        mediaWait := s.mediaWait.filter (fun p => p != port)
        nvme := del s.nvme (fun c => c.port == port && (match c.op with | .setup _ _ => true | _ => false)) }
      match (nvmeSpace spaces).filter drive.meets with
      | some n => (s1.useDrive port drive n).retryFills
      | none => ((s1.setFldAt f_MEDIA_PORT_STATE port 3).raise (ev 0x0C (10 * 4096 + port) port)).retryFills))

/-- `MEDIA_LINK_UP` (R295, R297, R303, R316): `RATE` 1 to 3, `WIDTH` 1, 2 or 4, of a drive that was present at boot; one that comes up is sent the
commands of its bring-up. -/
def execMediaLinkUp (port rate width : Nat) (s : State) : Host.Outcome State Fault Refusal :=
  .next (s.whenAlive (if 8 ≤ port ∨ rate = 0 ∨ 3 < rate ∨ !([1, 2, 4] : List Nat).contains width ∨
      !(s.mediaWait.contains port || s.fldAt f_MEDIA_PORT_STATE port == 1) then s
    else
      let s1 := (s.setFldAt f_MEDIA_PORT_RATE port rate).setFldAt f_MEDIA_PORT_WIDTH port width
      if s.mediaWait.contains port && s.fldAt f_MEDIA_PORT_RATE port == 0 then s1.sendSetup port else s1))

/-! ### Background write-back and reclamation (R282, R300) -/

/-- Dirty cache frames in percent of all. -/
def State.dirtyAbove (s : State) (percent : Nat) : Bool := decide (s.cacheFrames * percent < 100 * s.dirtyFrames.length)

/-- `BACKGROUND_WRITEBACK` (R282): one dirty tile is filled or written back; one with a poisoned line is passed over (R304, log 91). `tags` of
the tag comparisons of its transfer differ (R277). -/
def execBackgroundWriteback (s : State) (tags : Nat := 0) : Host.Outcome State Fault Refusal :=
  let on := s.dirtyAbove (s.fld f_TIER_CACHE_DIRTY_HIGH) || (s.background && s.dirtyAbove (s.fld f_TIER_CACHE_DIRTY_LOW))
  let s1 := { s with background := on }
  .next (s.whenAlive (if !on then s1
    else match s1.dirtyFrames.find? (fun f => !s1.writingBack f.id && f.lost.isNone && (s1.cachePoison f).isNone) with
      | none => s1
      | some f =>
        let c := f.cache.getD noCache
        if c.valid = BitVec.allOnes 16 then
          match s1.tagCheck tags f.tier (s1.frameAddr f.id) with
          | (s2, true) => (s2.startWriteback f).getD s1
          | (s2, false) => s2
        else if f.located then s1.startFill f.id
        else s1.setFrame { f with cache := some { c with valid := BitVec.allOnes 16 } }))

/-- Live tiles of a zone. -/
def State.zoneLive (s : State) (port zone : Nat) : List Frame :=
  s.frames.filter (fun f => f.slot.any (fun x => x.drive == port && x.zone == zone))

/-- An append or the Finish of a zone is outstanding: its slots are not all known. -/
def State.zoneBusy (s : State) (port zone : Nat) : Bool :=
  decide (0 < s.appendsIn port zone) || s.nvme.any (fun c => c.port == port && c.op == .finish zone)

/-- The full zone with the fewest live slots, lowest number on ties (R300). -/
def State.victimZone (s : State) (d : Drive) : Option Zone :=
  (d.zones.filter (fun z => z.state == .full && !s.zoneBusy d.port z.num)).foldl (fun (acc : Option Zone) z =>
    match acc with
    | none => some z
    | some y =>
      let a := (s.zoneLive d.port z.num).length
      let b := (s.zoneLive d.port y.num).length
      if a < b ∨ (a = b ∧ z.num < y.num) then some z else some y) none

/-- A reclamation copy may begin on a port: while other reads and appends are outstanding there, reclamation has at most `RECLAIM_SHARE` percent of
the outstanding ones (R300; how the share is taken: DESIGN CHOICE, log 111). -/
def State.reclaimRoom (s : State) (port : Nat) : Bool :=
  let rc := (s.nvme.filter (fun c => c.port == port && (match c.op with | .readRc _ | .append _ true _ _ _ _ => true | _ => false))).length
  let demand := (s.nvme.filter (fun c => c.port == port && (match c.op with | .read _ | .append _ false _ _ _ _ => true | _ => false))).length
  decide (demand = 0 ∨ 100 * (rc + 1) ≤ s.fld f_MEDIA_CTL_RECLAIM_SHARE * (rc + 1 + demand))

/-- `ZONE_RECLAIM` (R300): read the live tiles of the victim, or reset it once it has none. -/
def execZoneReclaim (port : Nat) (s : State) : Host.Outcome State Fault Refusal :=
  .next (s.whenAlive (match s.drive port with
    | none => s
    | some d =>
      if s.fld f_MEDIA_CTL_RECLAIM_LOW ≤ (d.zones.filter (fun z => z.state == .empty)).length then s
      else match s.victimZone d with
        | none => s
        | some z =>
          match s.zoneLive port z.num with
          | [] => if s.nvme.any (fun c => c.port == port && c.op == .reset z.num) then s else s.nvmeSend port (.reset z.num)
          | fs => forL fs s (fun f t =>
            if t.nvme.any (fun c => c.port == port && (match c.op with | .readRc x => x == f.id | .append x true _ _ _ _ => x == f.id | _ => false))
            then t else if t.reclaimRoom port then t.nvmeSend port (.readRc f.id) else t)))

/-! ### DRAM (R304 to R307) -/

/-- `PATROL_SCRUB` (R304, R305): one line is read; `pc` is the index of its pseudo-channel. -/
def execPatrolScrub (addr pc : Nat) (e : DramErr) (s : State) : Host.Outcome State Fault Refusal :=
  .next (s.whenAlive (if s.fld f_TIER_SCRUB_ENABLE = 0 ∨ 384 ≤ pc then s else s.dramErr addr pc e))

/-- `TIER_RETIRE` (R306, R313). -/
def State.tierRetire (s : State) (w : Word) : State :=
  let a := f_TIER_RETIRE_ADDR.get w * tileBytes
  if s.inPool a then
    let n := (a - s.poolBase) / tileBytes
    if s.retired.contains n then s else { s.incSat f_TIER_ERR_RETIRED with retired := s.retired ++ [n] }
  else s.raise (ev 0x16 0 a)

def execTierRetire (word : Word) (s : State) : Host.Outcome State Fault Refusal := .next (s.whenAlive (s.tierRetire word))

/-- A slice other than 0 holds pseudo-channels of the selected stacks (R307): a slice's `DRAM_PCS` are of every stack. -/
def State.pcsHeld (s : State) (mask : Nat) : Bool := mask != 0 && (List.range 63).any (fun i => s.fldAt f_SLC_SHARE_DRAM_PCS (i + 1) != 0)

/-- A write to `BORAGE_CTL` (R307, R314): a start that is refused changes nothing but `REJECT`; one while a pass runs starts nothing (log 92). -/
def State.borageWrite (s : State) (w : Word) : State :=
  let st := f_BORAGE_CTL_STACKS.get w
  let pat := f_BORAGE_CTL_PATTERN.get w
  let s1 := (s.setFld f_BORAGE_CTL_PATTERN pat).setFld f_BORAGE_CTL_STACKS st
  if f_BORAGE_CTL_START.get w = 0 ∨ s.flag f_BORAGE_STATUS_BUSY then s1
  else if s.pcsHeld st then s.setFld f_BORAGE_STATUS_REJECT 1
  else (({ s1 with borage := (st, pat) }.setFld f_BORAGE_STATUS_BUSY 1).setFld f_BORAGE_STATUS_FAILS 0).setFld f_BORAGE_STATUS_FIRST_FAIL 0

def execBorageStart (word : Word) (s : State) : Host.Outcome State Fault Refusal := .next (s.whenAlive (s.borageWrite word))

/-- Bytes of a run of DRAM after Borage: the pattern's 0 value on the tested stacks (R307); `key` is the DRAM address of
byte 0 of the run. -/
def borageCells (m : Cells) (key n mask pattern : Nat) : Cells :=
  let on (a : Nat) : Bool := bit mask (Config.stackOf (key + a))
  if pattern = 0 then m.filter (fun e => !on e.1)
  else cellsWrite [] 0 ((List.range n).map (fun a => if on a then Config.patternByte pattern (key + a) else cellByte m a))

/-- Where the frame-map entry of a frame lies (R275), for the purpose of `Config.stackOf`. -/
def mapKey (id : Nat) : Nat := 2 * localTop + 8 * id

/-- A frame after Borage: its bytes in DRAM; an entry of the frame map on a tested stack no longer names a place (R275, R278). -/
def State.borageFrame (s : State) (st pat : Nat) (f : Frame) : Frame :=
  let clear (ps : List Nat) (key : Nat) := ps.filter (fun l => !bit st (Config.stackOf (key + l)))
  if f.tier = 1 then
    let key := s.poolBase + f.num * tileBytes
    { f with data := borageCells f.data key tileBytes st pat, poison := clear f.poison key }
  else if f.slow then
    let key := localTop + f.id * tileBytes
    let g := { f with cache := f.cache.map (fun c => { c with data := borageCells c.data key tileBytes st pat, poison := clear c.poison key }) }
    if bit st (Config.stackOf (mapKey f.id)) then { g with slot := none, stored := false, tag := 0 } else g
  else f

/-- The region table after Borage: an entry on a tested stack names no region any longer (R42, R307, log 92). -/
def State.borageRegions (s : State) (st : Nat) : State :=
  let keep (r : Region) : Bool := !bit st (Config.stackOf (s.tableRange.1 + 64 * r.num))
  ({ s with regions := s.regions.filter keep }).gc.1

/-- `BORAGE_DONE` (R307): failing reads, and the local address of the first. -/
def execBorageDone (fails first : Nat) (s : State) : Host.Outcome State Fault Refusal :=
  .next (s.whenAlive (if !s.flag f_BORAGE_STATUS_BUSY then s
    else
      let (st, pat) := s.borage
      let low := s.mem.filter (fun e => decide (e.1 < directBase))
      let direct := borageCells ((s.mem.filter (fun e => decide (directBase ≤ e.1))).map (fun e => (e.1 - directBase, e.2))) directBase s.directLen st pat
      let s1 := { s with mem := low ++ direct.map (fun (e : Host.Cell) => (directBase + e.1, e.2)), frames := s.frames.map (s.borageFrame st pat),
                         poison := s.poison.filter (fun l => decide (l < directBase) || !bit st (Config.stackOf l)) }
      (((s1.borageRegions st).setFld f_BORAGE_STATUS_BUSY 0).setFld f_BORAGE_STATUS_FAILS (min fails 4095)).setFld f_BORAGE_STATUS_FIRST_FAIL first))

end Sys2Proof.Machine
end

