-- ==== Sys2Proof/Machine/Attention.lean ====
section
/-! DEFINITION. Attention (R155 to R157, R166 to R193, R129 to R131): checks, masks, selection, the three attention kernels and
`MERGE`. -/

namespace Sys2Proof.Machine

/-! ### Checks at consumption (R167, R185) -/

/-- Rows of a query block. -/
def Desc.rows (d : Desc) : Nat := d.at 77 1 * d.at 78 1

def f32 (v : Nat) : Num := fFP32.dec v

/-- Bytes of the working buffer (R181). -/
def Desc.workBuf (d : Desc) (dim : Nat) : Nat :=
  131072 + (match d.at 79 1 with
    | 1 => 4 * d.at 68 4
    | 2 => 8 * d.at 80 4 * d.rows
    | _ => 0) + (if d.op = 0x13 then 32 * (dim + 1) * d.rows else 0)

/-- The slice's carve-out of attention working buffers (R22). -/
def State.atwBytes (s : State) (slice : Nat) : Nat := s.fldAt f_SLC_SHARE_ATW_64K slice * 65536

/-- Working buffer that the descriptors of a slice hold (R181, R223, R255). -/
def State.bufUsed (s : State) (slice : Nat) : Nat := ((s.descs.filter (fun d => d.key.slice == slice)).map (·.buf)).sum

/-- `W` bytes of the slice's working buffers are free (R86, R181, R223). -/
def State.bufRoom (s : State) (slice w : Nat) : Bool := decide (s.bufUsed slice + w ≤ s.atwBytes slice)

/-- Payload stride of a partial-result row (R179). -/
def partialStride (kind dim : Nat) : Nat := match kind with | 0 => 16 + 4 * dim | 1 => 16 | _ => 16 + 32 * (dim + 1)

/-- Kind of the partial that an attention opcode writes. -/
def Desc.outKind (d : Desc) : Nat := d.op - 0x11

/-- The stream that an attention descriptor names. -/
def State.attStream (s : State) (d : Desc) : Res (Option (Pin × Stream)) := do
  let ref := rrefAt d.raw 16
  let p ← s.refPin ref
  (s.streamRead p ref.offset).map (fun o => o.map (fun t => (p, t)))

def State.attChecks (s : State) (d : Desc) : List Chk :=
  let raw := d.raw
  let ref := rrefAt raw 16
  let mode := d.at 79 1
  let ne := d.at 85 1
  let slice := d.key.slice
  let onStream (g : Stream → Res Unit) : Res Unit := do
    match ← s.attStream d with
    | some x => g x.2
    | none => fail eRange 2 ref.offset
  let skip (g : Stream → Res Unit) : Res Unit := match s.attStream d with
    | .ok (some x) => g x.2
    | .error (.wait ns) => .error (.wait ns)
    | _ => .ok ()
  let opt (a : Nat) : Bool := a != 0
  -- a position's reserved bits [63:48] belong to its field of 8 bytes
  let pos48 (o : Nat) : Chk := ck 1 (zeros raw (o + 6) 2) eFormat o
  refRsvd raw 16 ++
  [ck 1 (mode != 0 || d.at 80 4 == 0) eFormat 80, ck 1 (decide (d.at 84 1 < 2)) eFormat 84, ckZero raw 86 2, pos48 88, pos48 104, pos48 112] ++
  (List.range (min ne 8)).flatMap (fun e => [pos48 (128 + 16 * e), pos48 (128 + 16 * e + 8)]) ++
  ckUnused raw (128 + 16 * min ne 8) (64 * d.units) ++
  [refSel raw 16, ck 1 (decide (d.at 76 1 ≤ 2)) eFormat 76, ck 1 (decide (mode ≤ 3)) eFormat 79,
   ck 1 (decide (2 + ceilDiv ne 4 ≤ d.units)) eFormat 2, ck 1 (d.op == 0x11 || !(mode == 1 || mode == 2)) eFormat 79,
   ck 1 (d.op == 0x13 || d.at 120 8 == 0) eFormat 120, ck 1 (d.at 56 8 == 0 || d.at 64 4 == 0) eFormat 64,
   s.ckRevoked slice ref, s.ckGroup slice, ck 4 (!(mode == 2 || mode == 3) || s.assayers slice != [] && s.fldAt f_SLC_CFG_ASY_CTX slice != 0) ePerm 0,
   (5, onStream (fun t => check (!(mode == 2 || mode == 3) || t.codes) eRange 3 79)),
   ck 5 (decide (1 ≤ d.at 68 4 ∧ d.at 68 4 ≤ 2 ^ 20)) eRange 68,
   ck 5 (decide (1 ≤ d.at 77 1 ∧ d.at 77 1 ≤ 8)) eRange 77, ck 5 (decide (1 ≤ d.at 78 1 ∧ d.at 78 1 ≤ 16)) eRange 78,
   ck 5 (mode != 1 || decide (1 ≤ d.at 80 4 ∧ d.at 80 4 ≤ 4096)) eRange 80, ck 5 (mode != 2 || decide (1 ≤ d.at 80 4 ∧ d.at 80 4 ≤ 16384)) eRange 80,
   ck 5 (decide (ne ≤ 8)) eRange 85,
   ck 5 (match f32 (d.at 72 4) with | .fin sg m _ => !sg && m != 0 | _ => false) eRange 72,
   ck 5 (mode != 3 || f32 (d.at 80 4) != .nan) eRange 80, ck 5 (decide (bits (d.at 88 8) 0 48 + d.at 78 1 ≤ 2 ^ 48)) eRange 88,
   (5, skip (fun t => check (opt (d.at 56 8) || decide (d.at 64 4 + d.at 68 4 ≤ t.cap)) eRange 3 64)),
   (5, skip (fun t => (ckVa (d.at 32 8) (d.rows * t.d * (fmtBits (d.at 76 1) / 8))).2)),
   (5, skip (fun t => (ckVa (d.at 40 8) (d.rows * partialStride d.outKind t.d)).2)),
   ckVa (d.at 48 8) (if opt (d.at 48 8) then 8 + 4 * d.at 68 4 else 0), ckVa (d.at 56 8) (if opt (d.at 56 8) then 4 * d.at 68 4 else 0),
   ckVa (d.at 120 8) (if d.op = 0x13 then 4 * d.rows else 0),
   (5, skip (fun t => check (decide (d.workBuf t.d ≤ s.atwBytes slice)) eRange 3 0)),
   ckAlign (d.at 32 8) 64, ckAlign (d.at 40 8) 64, ckAlign (d.at 48 8) 64, ckAlign (d.at 56 8) 64, ckAlign (d.at 120 8) 64,
   (8, skip (fun t => do
     (s.ckXlate slice (d.at 32 8) (d.rows * t.d * (fmtBits (d.at 76 1) / 8)) rRead).2
     (s.ckXlate slice (d.at 40 8) (d.rows * partialStride d.outKind t.d) rWrite).2
     if opt (d.at 48 8) then (s.ckXlate slice (d.at 48 8) (8 + 4 * d.at 68 4) rWrite).2
     if opt (d.at 56 8) then (s.ckXlate slice (d.at 56 8) (4 * d.at 68 4) rRead).2
     if d.op = 0x13 then (s.ckXlate slice (d.at 120 8) (4 * d.rows) rRead).2))]

def State.mergeChecks (s : State) (d : Desc) : List Chk :=
  let raw := d.raw
  let n := d.at 24 2
  let kind := d.at 26 1
  let dim := d.at 28 2
  let fmt := d.at 30 1
  let list := d.at 16 8
  let inline_ := list == 0
  let slice := d.key.slice
  let part := bit (d.at 31 1) 0
  let stride := partialStride kind dim
  let out := d.at 27 1 * (if part then stride else if kind = 1 then 4 else dim * (fmtBits fmt / 8))
  [ck 1 (decide (d.at 31 1 < 2)) eFormat 31, ckZero raw 40 24] ++ ckUnused raw (64 + 8 * min n 8) (64 * d.units) ++
  [ck 1 (decide (kind ≤ 2)) eFormat 26, ck 1 (decide (fmt ≤ 2) && (!(kind == 1 || part) || fmt == 0)) eFormat 30,
   ck 1 ((d.units == 2) == inline_) eFormat 16, s.ckGroup slice,
   ck 5 (decide (1 ≤ n ∧ n ≤ 4096) && (!inline_ || decide (n ≤ 8))) eRange 24, ck 5 (decide (1 ≤ d.at 27 1 ∧ d.at 27 1 ≤ 128)) eRange 27,
   ck 5 (([64, 128, 256] : List Nat).contains dim) eRange 28,
   ckVa list (8 * n), ckVa (d.at 32 8) out,
   ckAlign list 64, ckAlign (d.at 32 8) 64] ++
  (if inline_ then (List.range (min n 8)).flatMap (fun i => [ckVa (d.at (64 + 8 * i) 8) (d.at 27 1 * stride), ckAlign (d.at (64 + 8 * i) 8) 64]) else []) ++
  [(8, do
     if !inline_ then (s.ckXlate slice list (8 * n) rRead).2
     (s.ckXlate slice (d.at 32 8) out rWrite).2
     if inline_ then
       (List.range (min n 8)).forM (fun i => (s.ckXlate slice (d.at (64 + 8 * i) 8) (d.at 27 1 * stride) rRead).2))]

/-! ### Masks (R155, R156) -/

/-- The predicates of R156 for one row and position. -/
structure Mask where
  eligible : Bool
  forced : Bool
  candidate : Bool
  deriving DecidableEq, Repr

def Desc.mask (d : Desc) (qp p : Nat) : Mask :=
  let excluded := (List.range (d.at 85 1)).any (fun e => decide (bits (d.at (128 + 16 * e) 8) 0 48 ≤ p ∧ p < bits (d.at (136 + 16 * e) 8) 0 48))
  let causal := !bit (d.at 84 1) 0 || decide (p ≤ qp)
  let el := !excluded && causal
  let sink := decide (bits (d.at 104 8) 0 48 ≤ p ∧ p < bits (d.at 112 8) 0 48)
  let rc := d.at 100 4
  let recent := decide (0 < rc ∧ p ≤ qp ∧ qp < p + rc)
  let w := d.at 96 4
  let win := w == 0 || decide (qp < p + w)
  let forced := el && (sink || recent)
  { eligible := el, forced := forced, candidate := el && win && !forced }

/-- Query position of a row. -/
def Desc.qpos (d : Desc) (r : Nat) : Nat := bits (d.at 88 8) 0 48 + r / d.at 77 1

/-! ### An attention descriptor under way -/

/-- What an attention pass works on. -/
structure Att where
  d : Desc
  pin : Pin
  t : Stream
  /-- the `FILL` read at its start (R168) -/
  fill : Nat
  tiles : List Nat
  q : List (List Num)

/-- Present positions of a tile: slot and global position. -/
def Att.present (a : Att) (tile : Nat) : List (Nat × Nat) :=
  (List.range (min a.t.p (a.fill - tile * a.t.p))).map (fun s => (s, a.t.base + tile * a.t.p + s))

def Att.rowsN (a : Att) : List Nat := List.range a.q.length

def Att.maskOf (a : Att) (r p : Nat) : Mask := a.d.mask (a.d.qpos r) p

def Att.scaleV (a : Att) : Num := f32 (a.d.at 72 4)

/-- Format of the query, for the group size of R111. -/
def Att.gqk (a : Att) : Nat := groupSize (a.d.at 76 1) a.t.fmt
def Att.gpv (a : Att) : Nat := groupSize 1 a.t.fmt

/-- The list of tiles (R169). -/
def State.tileList (s : State) (d : Desc) (t : Stream) : Res (List Nat) :=
  let n := d.at 68 4
  let la := d.at 56 8
  if la = 0 then .ok ((List.range n).map (fun i => d.at 64 4 + i))
  else do
    let bs ← s.engRead d (uSeq d.engine) la (4 * n)
    let ls := (List.range n).map (fun i => leAt bs (4 * i) 4)
    match (List.range n).find? (fun i => decide (t.cap ≤ ls.getD i 0) || (decide (0 < i) && decide (ls.getD i 0 ≤ ls.getD (i - 1) 0))) with
    | some i => fail eRange 2 (la + 4 * i)
    | none => .ok ls

/-- Query rows (R155). -/
def State.queryRows (s : State) (d : Desc) (dim : Nat) : Res (List (List Num)) := do
  let fmt := d.at 76 1
  let w := fmtBits fmt / 8
  let bs ← s.engRead d (uSeq d.engine) (d.at 32 8) (d.rows * dim * w)
  .ok ((List.range d.rows).map (fun r => vecVals fmt ((bs.drop (r * dim * w)).take (dim * w)) [] dim))

/-! ### Selection (R170 to R175) -/

/-- The bound of a tile for a row (R171). -/
def Att.bound (a : Att) (sum : List Byte) (r : Nat) : Num :=
  let q := a.q.getD r []
  let acc := (List.range a.t.d).foldl (fun (acc : SAcc) j =>
    let x := q.getD j .nan
    let term := if x = .nan then Num.nan
      else if cmpEq x Num.zero ∨ cmpEq x Num.zero.neg then Num.zero
      else if Num.zero.le x then x.mul (gridDec a.t.sumExp (sum.getD (a.t.d + j) 0#8).toNat)
      else x.mul (gridDec a.t.sumExp (sum.getD j 0#8).toNat)
    acc.add term) SAcc.zero
  rne32 (acc.round.mul a.scaleV)

/-- Tiles selected by `SELECT_BOUND` (R172), with their forced flags. -/
def Att.boundTiles (a : Att) (s : State) : Res (List (Nat × Bool)) := do
  let isOpen (t : Nat) : Bool := a.fill % a.t.p != 0 && t == a.fill / a.t.p
  let any_ (t : Nat) (f : Mask → Bool) : Bool := a.rowsN.any (fun r => (a.present t).any (fun p => f (a.maskOf r p.2)))
  let forced := a.tiles.filter (fun t => any_ t (·.forced) || (isOpen t && any_ t (·.eligible)))
  let ranked := a.tiles.filter (fun t => !forced.contains t && any_ t (·.candidate))
  let us ← gather (ranked.map (fun t => (s.verRead a.pin (a.t.sumOff t) (2 * a.t.d)).map (fun sm =>
    (t, (a.rowsN.filter (fun r => (a.present t).any (fun p => (a.maskOf r p.2).candidate))).foldl (fun (acc : Option Num) r =>
      some (match acc with | none => a.bound sm r | some m => max32 m (a.bound sm r))) none))))
  let order := sortBy (fun x y =>
    let u := x.2.getD .nan
    let v := y.2.getD .nan
    if cmpEq u v then decide (x.1 ≤ y.1) else cmpLe v u) us
  let pick := (order.take (a.d.at 80 4 - forced.length)).map (·.1)
  .ok ((a.tiles.filter (fun t => forced.contains t || pick.contains t)).map (fun t => (t, forced.contains t)))

/-- Code score of a position for a row (R173). -/
def Att.codeScore (a : Att) (tbl : List (List Num)) (code : List Byte) : Num :=
  rne32 ((sumFp32 ((List.range 16).map (fun j => (tbl.getD j []).getD (code.getD j 0#8).toNat .nan))).mul a.scaleV)

/-- The table of R173 for a row. -/
def Att.codeTable (a : Att) (cb : List Byte) (r : Nat) : List (List Num) :=
  (List.range 16).map (fun j => (List.range 256).map (fun c =>
    fFP16.dec (fFP16.enc (exactSum (List.zipWith Num.mul (((a.q.getD r []).drop (j * (a.t.d / 16))).take (a.t.d / 16)) (centroid cb a.t.d j c))))))

/-- Candidates of a row with their code scores. -/
def Att.codeCands (a : Att) (s : State) (cb : List Byte) (r : Nat) : Res (List (Nat × Num)) := do
  let ps := a.tiles.flatMap (fun t => ((a.present t).filter (fun p => (a.maskOf r p.2).candidate)).map (fun p => (t, p)))
  let tbl := a.codeTable cb r
  gather (ps.map (fun x => (s.verRead a.pin (a.t.codeOff x.1 x.2.1) 16).map (fun code => (x.2.2, a.codeScore tbl code))))

/-- Positions that each row attends (R157), as a list of global positions per row; `none`: every candidate of the tiles
named. -/
inductive Attended where
  | tiles (ts : List (Nat × Bool))
  | rows (ps : List (List Nat))

/-- Candidates of each row with their code scores (R173): the table of a row is built from the codebook. -/
def Att.scored (a : Att) (s : State) : Res (List (List (Nat × Num))) := do
  let cb ← s.verRead a.pin a.t.cb (512 * a.t.d)
  gather (a.rowsN.map (fun r => a.codeCands s cb r))

/-- The positions that a row selects among its scored candidates (R174, R175). -/
def Att.pickCodes (a : Att) (r : Nat) (cs : List (Nat × Num)) : List Nat :=
  if a.d.at 79 1 = 3 then (cs.filter (fun x => cmpLe (f32 (a.d.at 80 4)) x.2)).map (·.1)
  else
    let f := (a.tiles.flatMap a.present).filter (fun p => (a.maskOf r p.2).forced)
    let order := sortBy (fun x y => if cmpEq x.2 y.2 then decide (x.1 ≤ y.1) else cmpLe y.2 x.2) cs
    (order.take (a.d.at 80 4 - f.length)).map (·.1)

/-- What the exact pass is given: every tile, the tiles selected by bound, or the positions that code selection picked (R157). -/
def Att.select (a : Att) (s : State) : Res Attended :=
  match a.d.at 79 1 with
  | 0 => .ok (.tiles (a.tiles.map (fun t => (t, false))))
  | 1 => (a.boundTiles s).map .tiles
  | _ => .ok (.rows (a.d.picked.getD []))

/-- Row `r` attends the present position `p` of tile `t`. -/
def Att.attends (a : Att) (sel : Attended) (r t p : Nat) : Bool :=
  let m := a.maskOf r p
  m.forced || (m.candidate && (match sel with
    | .tiles ts => ts.any (fun x => x.1 == t)
    | .rows ps => (ps.getD r []).contains p))

/-- Slots of tile `t` that row `r` attends, ascending. -/
def Att.slots (a : Att) (sel : Attended) (r t : Nat) : List Nat :=
  ((a.present t).filter (fun p => a.attends sel r t p.2)).map (·.1)

/-- Tiles that the exact pass reads, ascending, with the flag of the audit list (R177). A tile of `SELECT_BOUND` that is forced as the open tile
and in which no row attends a position is not read, and the list leaves it out (log 86). -/
def Att.passTiles (a : Att) (sel : Attended) : List (Nat × Bool) :=
  (a.tiles.filter (fun t => a.rowsN.any (fun r => !(a.slots sel r t).isEmpty))).map (fun t =>
    (t, match sel, a.d.at 79 1 with
      | .tiles ts, 1 => ts.any (fun x => x.1 == t && x.2)
      | _, _ => a.rowsN.any (fun r => (a.present t).any (fun p => (a.maskOf r p.2).forced))))

/-! ### Kernels (R129, R131, R182, R183) -/

/-- Keys and values of the slots of a tile that some row attends. -/
structure TileData where
  tile : Nat
  keys : List (Nat × List Num)
  vals : List (Nat × List Num)

def State.tileData (s : State) (a : Att) (sel : Attended) (withV : Bool) (t : Nat) : Res TileData := do
  let ss := (List.range a.t.p).filter (fun x => a.rowsN.any (fun r => (a.slots sel r t).contains x))
  let ks ← gather (ss.map (fun x => (s.slotVec a.pin a.t t x false).map (fun v => (x, v))))
  let vs ← if withV then gather (ss.map (fun x => (s.slotVec a.pin a.t t x true).map (fun v => (x, v)))) else .ok []
  .ok { tile := t, keys := ks, vals := vs }

def vecOf (l : List (Nat × List Num)) (x : Nat) : List Num := look [] l x

/-- Score of a position (R129). -/
def Att.score (a : Att) (td : TileData) (r x : Nat) : Num :=
  rne32 ((dotFp32 (a.q.getD r []) (vecOf td.keys x) a.gqk).mul a.scaleV)

/-- −∞ in FP32. -/
def negInf : Num := f32 0xFF800000

/-- Running maximum, denominator and output of a row. -/
structure Row0 where
  m : Num
  den : Num
  o : List Num

/-- One tile of the layout-bound kernel (R129). -/
def Att.tileStep (a : Att) (sel : Attended) (r : Nat) (w : Row0) (td : TileData) : Row0 :=
  let xs := a.slots sel r td.tile
  if xs.isEmpty then w
  else
    let sc := xs.map (fun x => a.score td r x)
    let mn := max32 w.m (sc.foldl max32 negInf)
    if mn = negInf then w
    else
      let c := exp32 (rne32 (w.m.add mn.neg))
      let e := sc.map (fun x => bf16 (exp32 (rne32 (x.add mn.neg))))
      let ts := sumFp32 e
      let vs := xs.map (vecOf td.vals)
      let o := (List.range a.t.d).map (fun j => fma32 (w.o.getD j .nan) c (dotFp32 e (vs.map (fun v => v.getD j .nan)) a.gpv))
      { m := mn, den := fma32 w.den c ts, o := o }

def enc32 (x : Num) : List Byte := leBytes 4 (fFP32.enc x)

/-- Header of a row record (R178). -/
def rowHeader (m den : List Byte) (lo row kind : Nat) : List Byte := m ++ den ++ leBytes 6 lo ++ [byte row, byte kind]

/-- The record of a row (R176, R182, R183). -/
def Att.rowRecord (a : Att) (sel : Attended) (tds : List TileData) (ms : List Byte) (r : Nat) : List Byte :=
  let lo := a.t.base + a.t.p * (a.tiles.headD 0)
  let z4 : List Byte := leBytes 4 0
  match a.d.op with
  | 0x11 =>
    let w := tds.foldl (a.tileStep sel r) { m := negInf, den := Num.zero, o := List.replicate a.t.d Num.zero }
    rowHeader (enc32 w.m) (enc32 w.den) lo r 0 ++ w.o.flatMap enc32
  | 0x12 =>
    let m := tds.foldl (fun m td => ((a.slots sel r td.tile).map (fun x => a.score td r x)).foldl max32 m) negInf
    rowHeader (enc32 m) z4 lo r 1
  | _ =>
    let mb := (ms.drop (4 * r)).take 4
    let mv := f32 (leNat mb)
    let es := tds.flatMap (fun td => (a.slots sel r td.tile).map (fun x => (bf16 (exp32 (rne32 ((a.score td r x).add mv.neg))), vecOf td.vals x)))
    let accd := es.foldl (fun (acc : SAcc) e => acc.add e.1) SAcc.zero
    let acco := (List.range a.t.d).map (fun j => es.foldl (fun (acc : SAcc) e => acc.add (e.1.mul (e.2.getD j .nan))) SAcc.zero)
    rowHeader mb z4 lo r 2 ++ accd.bytes ++ acco.flatMap SAcc.bytes

/-! ### Array passes (R109, R135) -/

/-- Enabled arrays of a group. -/
def State.enabledArrays (s : State) (g : Nat) : List Nat := (List.range 8).filter (fun i => !bit (s.fld f_ARR_DISABLE_ARRAY) (8 * g + i))

/-- Count the passes of a descriptor and the audits among them (R135, R142). The passes leave their data in the operand memories of the group's
enabled arrays, which are then the slice's (R107, R108), under one seed for all of them, whichever of them ran a pass (DESIGN CHOICE, log 10). -/
def State.countPasses (s : State) (g slice n : Nat) : State :=
  let on := (s.enabledArrays g).map (fun i => 8 * g + i)
  let s0 := if n = 0 then s else { s with
    arrSlice := on.map (fun a => (a, slice)) ++ del s.arrSlice (fun x => on.contains x.1)
    arrMem := on.map (fun a => (a, s.fresh)) ++ del s.arrMem (fun x => on.contains x.1)
    fresh := s.fresh + 1 }
  if s.fld f_ARR_AUDIT_CTL_ENABLE = 0 then s0
  else
    let old := look 0 s.passes g
    let k := 2 ^ s.fld f_ARR_AUDIT_CTL_LOG2_N
    let audits := (old + n) / k - old / k
    let s1 := { s0 with passes := put (fun _ => 0) s0.passes g [old + n] }
    if (s.enabledArrays g).length < 2 then s1.addSatAt f_ARR_AUDIT_STATUS_SKIPPED 0 audits
    else s1.addWrap f_ARR_AUDITED_AUDITED audits

/-- Pass `i` of the next descriptor of a group is audited (R135). -/
def State.audited (s : State) (g i : Nat) : Bool :=
  s.fld f_ARR_AUDIT_CTL_ENABLE == 1 && (look 0 s.passes g + i + 1) % 2 ^ s.fld f_ARR_AUDIT_CTL_LOG2_N == 0

/-- The array that repeats a pass of array `a`: the next enabled one of its group (R135). -/
def State.partner (s : State) (a : Nat) : Option Nat :=
  ((List.range 7).map (fun k => a / 8 * 8 + (a % 8 + k + 1) % 8)).find? (fun b => !bit (s.fld f_ARR_DISABLE_ARRAY) b)

/-- The partner with which an audit of a pass of group `g` finds different outputs (R136). -/
def State.mismatch (s : State) (g : Nat) (x : ArrErr) : Option Nat :=
  if x.fault == .differs && s.audited g x.pass && (s.enabledArrays g).any (fun i => 8 * g + i == x.array) then s.partner x.array else none

/-- Errors of passes that run: on enabled arrays of the descriptor's group alone (R106, R109). -/
def State.passErrs (s : State) (g : Nat) (errs : List ArrErr) : List ArrErr :=
  errs.filter (fun x => (s.enabledArrays g).any (fun i => 8 * g + i == x.array))

/-- The first of `n` passes with an error that `p` picks out. -/
def firstErr (errs : List ArrErr) (n : Nat) (p : ArrErr → Bool) : Option Nat :=
  (List.range n).find? (fun i => errs.any (fun x => x.pass == i && p x))

/-- What the errors of a descriptor's passes leave beside its results (R107, R136): `s0` is the state before the passes, `tiles`
the local addresses of their tiles. -/
def State.arrErrs (s s0 : State) (d : Desc) (tiles : List Nat) (errs : List ArrErr) : State :=
  forL (errs.filter (fun x => decide (x.pass < tiles.length))) s (fun x t =>
    let e : Event := { ev 0 (0x1000 + x.array) x.array with slice := d.key.slice, addr := tiles[x.pass]? }
    match x.fault with
    | .corrected => t.incSat f_ARR_ECC_CORRECTED
    | .uncorrectable => (t.incSat f_ARR_ECC_UNCORRECTED).raise { e with cause := 0x06, status := ePoison }
    | .differs =>
      match s0.mismatch d.engine x with
      | none => t
      | some b =>
        ((t.setFld f_ARR_MISMATCH_ARRAY (t.fld f_ARR_MISMATCH_ARRAY ||| 2 ^ x.array ||| 2 ^ b)).incSat f_ARR_AUDIT_STATUS_MISMATCHES).raise
          { e with cause := 0x05, detail := x.array + 256 * b,
                   status := if s0.flag f_ARR_AUDIT_CTL_FAIL_ON_MISMATCH then eIntegrity else 0 })

/-! ### ATTEND, ATTEND_MAX, ATTEND_SUM -/

/-- Bytes of a row record that array passes compute: the maximum and the denominator of R129, the maximum of R182, and the payload. -/
def computedByte (op i : Nat) : Bool := decide (16 ≤ i) || (op == 0x11 && decide (i < 8)) || (op == 0x12 && decide (i < 4))

/-- Write the selected-tile list (R177) and the rows (R178 to R180). `torn`: every byte is undefined (R190); `loose`: rows whose computed
bytes are open. A failing list write ends the descriptor with nothing written (R192). -/
def State.attWrite (s : State) (d : Desc) (torn : Bool) (loose : Nat → Bool) (list : List Byte) (stride : Nat) (row : Nat → List Byte) : Res Done := do
  let u := uSeq d.engine
  let open_ := torn || (List.range d.rows).any loose
  let free (o : Nat) (bs : List Byte) (isOpen : Nat → Bool) : List Byte :=
    bs.zipIdx.map (fun x => if isOpen x.2 then Config.freeByte (s.fresh + o + x.2) else x.1)
  let e0 : Eff := { s := if open_ then { s with fresh := s.fresh + d.rows * stride + list.length } else s, out := [] }
  let listT : List Touch := [⟨u, d.at 48 8, list.length, false⟩]
  let listed : Res Eff := if d.at 48 8 = 0 then .ok e0
    else (phased (wrPhase d.op) (e0.write d u (d.at 48 8) (if torn then free (d.rows * stride) list (fun _ => true) else list) 0)).map
      (fun e => e.note d.key.slice listT)
  let touch (r : Nat) : List Touch := [⟨u, d.at 40 8 + r * stride, stride, false⟩]
  let step (r : Nat) (e : Eff) : Res Eff :=
    let bs := if torn then free (r * stride) (row r) (fun _ => true)
      else if loose r then free (r * stride) (row r) (computedByte d.op) else row r
    (phased (wrPhase d.op) (e.writeIn d u (d.at 40 8) (d.rows * stride) (d.at 40 8 + r * stride) bs r)).map (fun x => x.note d.key.slice (touch r))
  match listed with
  | .error (.err f) => .ok { eff := { s := s, out := [] }, status := f.status, kind := f.kind, detail := f.detail, progress := 0, tried := listT }
  | .error w => .error w
  | .ok e1 => unitsDone touch (runUnits step d.rows 0 e1)

/-- The end of a run whose passes read the tiles at the local addresses `tiles`, pass `i` for the rows `rowsOf i`. An uncorrectable error of
operand memory ends it (R107), and so does an audit that finds a mismatch with `FAIL_ON_MISMATCH` (R136). The manual does not say which of two
arrays that differ computes wrongly: what a pass that a second array would compute differently computes is free, whether it is audited or not, so
that an audit changes no result (R137). -/
def State.attFinish (s : State) (d : Desc) (errs : List ArrErr) (tiles : List Nat) (rowsOf : Nat → Nat → Bool) (list : List Byte) (stride : Nat)
    (row : Nat → List Byte) : Res (Done × List Nat) :=
  let ended (status i : Nat) : Done := { eff := { s := s, out := [] }, status := status, kind := 2, detail := tiles.getD i 0, progress := 0 }
  match firstErr errs tiles.length (fun x => x.fault == .uncorrectable) with
  | some i => .ok (ended ePoison i, tiles.take (i + 1))
  | none =>
    match s.flag f_ARR_AUDIT_CTL_FAIL_ON_MISMATCH, firstErr errs tiles.length (fun x => (s.mismatch d.engine x).isSome) with
    | true, some i => .ok (ended eIntegrity i, tiles)
    | _, _ =>
      let loose (r : Nat) : Bool := errs.any (fun x => decide (x.pass < tiles.length) && x.fault == .differs && rowsOf x.pass r)
      (s.attWrite d d.torn loose list stride row).map (fun o => (o, tiles))

/-- What an attention descriptor works on, from the record read at its start (R168). -/
def State.attOf (s : State) (d : Desc) : Res Att := do
  match d.pins with
  | [] => .error (.wait [])
  | pin :: _ =>
    let t := streamAt d.startRecord (rrefAt d.raw 16).offset
    let tiles ← s.tileList d t
    let q ← s.queryRows d t.d
    .ok { d := d, pin := pin, t := t, fill := d.work - 1, tiles := tiles, q := q }

/-- The run of an attention descriptor, and the local addresses of the tiles that its array passes read. -/
def State.attRun (s : State) (d : Desc) (errs : List ArrErr) : Res (Done × List Nat) := do
  let a ← phased 1 (s.attOf d)
  let ms ← if d.op = 0x13 then phased 1 (s.engRead d (uSeq d.engine) (d.at 120 8) (4 * d.rows)) else .ok []
  let sel ← phased 2 (a.select s)
  let pt := a.passTiles sel
  let tds ← phased (if d.op = 0x11 then 3 else 2) (gather (pt.map (fun x => s.tileData a sel (d.op != 0x12) x.1)))
  let at_ := pt.map (fun x => ((s.region a.pin.region).map (·.base)).getD 0 + a.t.kv + x.1 * tileBytes)
  let list := leBytes 4 pt.length ++ leBytes 4 (pt.filter (·.2)).length ++ pt.flatMap (fun x => leBytes 4 (x.1 + (if x.2 then 2 ^ 31 else 0)))
  let rowsOf (i r : Nat) : Bool := match pt[i]? with | some x => !(a.slots sel r x.1).isEmpty | none => false
  s.attFinish d errs at_ rowsOf list (partialStride d.outKind a.t.d) (a.rowRecord sel tds ms)

/-- Ranges that an attention descriptor reads by virtual address, in the order in which it reads them. -/
def Desc.attTouches (d : Desc) : List Touch :=
  let u := uSeq d.engine
  let dim := (streamAt d.startRecord 0).d
  (if d.at 56 8 = 0 then [] else [⟨u, d.at 56 8, 4 * d.at 68 4, true⟩]) ++ [⟨u, d.at 32 8, d.rows * dim * (fmtBits (d.at 76 1) / 8), true⟩] ++
  (if d.op = 0x13 then [⟨u, d.at 120 8, 4 * d.rows, true⟩] else [])

/-- The passes of an attention descriptor: one attempt at all of them; none runs while its group has no enabled array (R109). -/
def State.attPass (s : State) (d : Desc) (errs : List ArrErr) : State :=
  if s.enabledArrays d.engine == [] then s
  else
    let mine := s.passErrs d.engine errs
    let r := s.attRun d mine
    let s1 := s.attempt d d.attTouches (r.map (·.1))
    match r with
    | .ok (_, ts) => ((s1.countPasses d.engine d.key.slice ts.length).obs 2 d.engine 2 d.key.slice ts.length).arrErrs s d ts mine
    | .error _ => s1

/-- Parts into which a row's code selection is divided: as many as the Assayers in which the slice holds contexts (R227). -/
def State.rowParts (s : State) (d : Desc) : Nat := (s.assayers d.key.slice).length

/-- Contexts for the parts of the rows of a code selection, as many as are free and it can use; none while none is free (R201, R227, R228). -/
def State.takeContexts (s : State) (d : Desc) : Option (State × Desc) :=
  if d.ctx != [] then some (s, d)
  else
    let (k, s1) := s.takeNat
    match (s1.freeContexts d.key.slice (s1.assayerCodes d.key.slice k)).take (d.rows * s.rowParts d) with
    | [] => none
    | cs => let d1 := { d with ctx := cs }; some (s1.setDesc d1, d1)

/-- Candidates that fall to part `j` of a row: the tiles of contiguous ranges that differ in size by at most one (R227). -/
def Att.partOf (a : Att) (parts j : Nat) (cs : List (Nat × Num)) : Nat :=
  let tiles := a.tiles.filter (fun t => (a.present t).any (fun p => cs.any (fun c => c.1 == p.2)))
  let lo := j * tiles.length / parts
  let hi := (j + 1) * tiles.length / parts
  let mine := (tiles.drop lo).take (hi - lo)
  (cs.filter (fun c => mine.any (fun t => (a.present t).any (fun p => p.2 == c.1)))).length

/-- Codes scored by the units of a code selection, each on the Assayer of its context (R232, R590). -/
def State.countScored (s : State) (d : Desc) (counts : List Nat) : State :=
  forL counts.zipIdx (s.addWrap f_ASY_SCORED_SCORED counts.sum) (fun x t =>
    t.obs 3 (d.ctx.getD (x.2 % d.ctx.length) 0x10 - 0x10) 2 d.key.slice x.1)

/-- One attempt at an attention descriptor. Code selection comes first, in contexts of the slice's Assayers, which it holds until the exact pass
has the positions (R228). -/
def State.attStep (s : State) (d : Desc) (errs : List ArrErr) : State :=
  if (d.at 79 1 == 2 || d.at 79 1 == 3) && d.picked.isNone then
    match s.takeContexts d with
    | none => s
    | some (s1, d1) =>
      match (do
        let a ← phased 1 (s1.attOf d1)
        (phased 2 (a.scored s1)).map (fun cs => (a, cs))) with
      | .error e => s1.attempt d1 d1.attTouches (.error e)
      | .ok (a, cs) =>
        let n := s1.rowParts d1
        let s2 := s1.countScored d1 (cs.flatMap (fun c => (List.range n).map (fun j => a.partOf n j c)))
        let d2 := { d1 with ctx := [], picked := some (cs.zipIdx.map (fun x => a.pickCodes x.2 x.1)) }
        (s2.setDesc d2).attPass d2 errs
  else s.attPass d errs

/-- `ATTEND` (R176). -/
def execAttend (slice ring idx : Nat) (errs : List ArrErr) (s : State) : Host.Outcome State Fault Refusal :=
  .next (s.whenAlive (s.onRunning ⟨slice, ring, idx⟩ 0x11 (fun t d => t.attStep d errs)))

/-- `ATTEND_MAX` (R182). -/
def execAttendMax (slice ring idx : Nat) (errs : List ArrErr) (s : State) : Host.Outcome State Fault Refusal :=
  .next (s.whenAlive (s.onRunning ⟨slice, ring, idx⟩ 0x12 (fun t d => t.attStep d errs)))

/-- `ATTEND_SUM` (R183). -/
def execAttendSum (slice ring idx : Nat) (errs : List ArrErr) (s : State) : Host.Outcome State Fault Refusal :=
  .next (s.whenAlive (s.onRunning ⟨slice, ring, idx⟩ 0x13 (fun t d => t.attStep d errs)))

/-! ### MERGE (R185 to R188) -/

/-- Row `r` of a partial-result block. -/
structure PRow where
  lo : Nat
  row : Nat
  kindB : Nat
  m : Nat
  den : Num
  o : List Num
  accs : List (Option SAcc)

def parseRow (kind dim : Nat) (bs : List Byte) : PRow :=
  { lo := leAt bs 8 6, row := leAt bs 14 1, kindB := leAt bs 15 1, m := leAt bs 0 4, den := f32 (leAt bs 4 4)
    o := if kind = 0 then (List.range dim).map (fun j => f32 (leAt bs (16 + 4 * j) 4)) else []
    accs := if kind = 2 then (List.range (dim + 1)).map (fun j => SAcc.ofBytes ((bs.drop (16 + 32 * j)).take 32)) else [] }

/-- A block: its address and rows. -/
structure Block where
  addr : Nat
  rows : List PRow

def Block.row (b : Block) (r : Nat) : PRow := b.rows.getD r { lo := 0, row := 0, kindB := 0, m := 0, den := .nan, o := [], accs := [] }

/-- The offending block of R186, when there is one; blocks in named order. An invalid superaccumulator gives the `E_RANGE` of R186 and not the
`E_FORMAT` of R127 (log 84); of a kind-2 `M` that differs in row 0 the passes say nothing, and it is judged first in pass 3 (log 87). -/
def mergeFault (kind rows : Nat) (bs : List Block) : Option Nat :=
  let bad (r : Nat) (b : Block) : Bool :=
    let x := b.row r
    x.kindB != kind || x.row != r || x.lo != (b.row 0).lo || (x.accs.any (·.isNone)) || (kind != 0 && fFP32.enc x.den != 0)
  match bs.find? (bad 0) with
  | some b => some b.addr
  | none =>
    let dup := (List.range bs.length).find? (fun j => (List.range j).any (fun i =>
      (bs.map (fun b => (b.row 0).lo)).getD i 0 == (bs.map (fun b => (b.row 0).lo)).getD j 0))
    match dup with
    | some j => (bs.map (·.addr))[j]?
    | none =>
      let cs := sortBy (fun x y => decide ((x.row 0).lo ≤ (y.row 0).lo)) bs
      let m0 (r : Nat) : Nat := (cs.map (fun b => (b.row r).m)).headD 0
      (List.range rows).findSome? (fun r =>
        (cs.find? (fun b => (r != 0 && bad r b) || (kind == 2 && (b.row r).m != m0 r))).map (·.addr))

/-- m, d and o of R130 before the division, blocks in canonical order. -/
def mergeBound (dim : Nat) (rs : List PRow) : Row0 :=
  let m := rs.foldl (fun m x => max32 m (f32 x.m)) negInf
  rs.foldl (fun w x =>
    if f32 x.m = negInf then w
    else
      let c := exp32 (rne32 ((f32 x.m).add m.neg))
      { w with den := fma32 x.den c w.den, o := (List.range dim).map (fun j => fma32 (x.o.getD j .nan) c (w.o.getD j .nan)) })
    { m := m, den := Num.zero, o := List.replicate dim Num.zero }

def mergeAccs (dim : Nat) (rs : List PRow) : List SAcc :=
  (List.range (dim + 1)).map (fun j => rs.foldl (fun (a : SAcc) x => a.comb (((x.accs[j]?).join).getD SAcc.zero)) SAcc.zero)

def encOut (fmt : Nat) (xs : List Num) : List Byte := packRaw fmt (plainQuant fmt xs)

/-- Output of one merged row (R187, R188): offset from `OUT_ADDR` and bytes. `d == +0.0` holds of +0 alone: a d of −0 takes `rcp32` (log 88). -/
def mergeRow (kind dim fmt r : Nat) (part : Bool) (rs : List PRow) : Nat × List Byte :=
  let lo := (rs.map (·.lo)).headD 0
  let stride := partialStride kind dim
  let mx := rs.foldl (fun m x => max32 m (f32 x.m)) negInf
  match kind with
  | 0 =>
    let w := mergeBound dim rs
    if part then (r * stride, rowHeader (enc32 w.m) (enc32 w.den) lo r 0 ++ w.o.flatMap enc32)
    else
      let rc := rcp32 w.den
      let zero := fFP32.enc w.den = 0
      (r * dim * (fmtBits fmt / 8), encOut fmt (w.o.map (fun x => if zero then Num.zero else rne32 (x.mul rc))))
  | 1 => if part then (r * stride, rowHeader (enc32 mx) (leBytes 4 0) lo r 1) else (4 * r, enc32 mx)
  | _ =>
    let acc := mergeAccs dim rs
    let mb := (rs.map (·.m)).headD 0
    if part then (r * stride, rowHeader (leBytes 4 mb) (leBytes 4 0) lo r 2 ++ acc.flatMap SAcc.bytes)
    else
      (r * dim * (fmtBits fmt / 8), encOut fmt ((acc.drop 1).map (fun x =>
        if f32 mb = negInf then Num.zero else x.quot (acc.headD SAcc.zero))))

/-- The rows that a `MERGE` writes, by address, once its blocks are read and judged; or the offending block. Every row of every block is read before
any is judged (log 87). -/
def State.mergePlan (s : State) (d : Desc) : Res (Except Nat (List (Nat × List Byte))) := do
  let n := d.at 24 2
  let kind := d.at 26 1
  let dim := d.at 28 2
  let rows := d.at 27 1
  let list := d.at 16 8
  let u := uSeq d.engine
  let addrs ← if list = 0 then .ok ((List.range n).map (fun i => d.at (64 + 8 * i) 8))
    else (phased 1 (s.engRead d u list (8 * n))).map (fun bs => (List.range n).map (fun i => leAt bs (8 * i) 8))
  match (List.range n).find? (fun i => addrs.getD i 0 % 64 != 0) with
  | some i => fail eAlign 2 (list + 8 * i)
  | none =>
    let stride := partialStride kind dim
    let blocks ← phased 1 (gather (addrs.map (fun a => (s.engRead d u a (rows * stride)).map (fun bs =>
      ({ addr := a, rows := (List.range rows).map (fun r => parseRow kind dim ((bs.drop (r * stride)).take stride)) } : Block)))))
    let cs := sortBy (fun x y => decide ((x.row 0).lo ≤ (y.row 0).lo)) blocks
    .ok (match mergeFault kind rows blocks with
      | some a => .error a
      | none => .ok ((List.range rows).map (fun r =>
          let (o, bs) := mergeRow kind dim (d.at 30 1) r (bit (d.at 31 1) 0) (cs.map (fun b => b.row r))
          (d.at 32 8 + o, bs))))

/-- Ranges that a `MERGE` reads, in order: its list, and its blocks once the list gives them. -/
def State.mergeTouches (s : State) (d : Desc) : List Touch :=
  let u := uSeq d.engine
  let n := d.at 24 2
  let list := d.at 16 8
  let block (a : Nat) : Touch := ⟨u, a, d.at 27 1 * partialStride (d.at 26 1) (d.at 28 2), true⟩
  if list = 0 then (List.range n).map (fun i => block (d.at (64 + 8 * i) 8))
  else ⟨u, list, 8 * n, true⟩ :: (match s.engRead d u list (8 * n) with
    | .ok bs =>
      let as := (List.range n).map (fun i => leAt bs (8 * i) 8)
      if as.all (fun a => a % 64 == 0) then as.map block else []
    | .error _ => [])

/-- The rows of a `MERGE` that are still to be written, strictly in order (R96). -/
def State.mergeRows (s : State) (d : Desc) : Done :=
  let row (r : Nat) : Nat × List Byte := d.plan.getD r (0, [])
  let u := uSeq d.engine
  let total := (d.plan.map (fun x => x.2.length)).sum
  let step (r : Nat) (e : Eff) : Res Eff := phased 2 (e.writeIn d u (d.at 32 8) total (row r).1 (row r).2 r)
  runFrom step (fun r => [⟨u, (row r).1, (row r).2.length, false⟩]) d.key.slice true (d.plan.length - d.progress) d.progress { s := s, out := [] }

/-- The rest of a `MERGE` is written once no write of an earlier row is owed (R96). -/
def State.mergeWrite (s : State) (d : Desc) : State := if s.owesWrites d.key then s else s.attempt d [] (.ok (s.mergeRows d))

/-- One attempt at a `MERGE`: its blocks are read and judged once, then its rows are written. -/
def State.mergeStep (s : State) (d : Desc) : State :=
  if d.work = 1 then s.mergeWrite d
  else
    let ts := s.mergeTouches d
    match s.mergePlan d with
    | .error e => s.attempt d ts (.error e)
    | .ok (.error a) => s.attempt d ts (.ok { eff := { s := s.incSat f_ATT_ERR_MERGE_REJECTS, out := [] }, status := eRange, kind := 2, detail := a, progress := 0 })
    | .ok (.ok rows) =>
      let d1 := { d with work := 1, plan := rows }
      ((s.setDesc d1).noteTouches d.key.slice ts).mergeWrite d1

/-- `MERGE` (R186 to R188). -/
def execMerge (slice ring idx : Nat) (s : State) : Host.Outcome State Fault Refusal :=
  .next (s.whenAlive (s.onRunning ⟨slice, ring, idx⟩ 0x14 (fun t d => t.mergeStep d)))

end Sys2Proof.Machine
end

