-- ==== Sys2Proof/Machine/Search.lean ====
section
/-! DEFINITION. Assayer vector search (R198 to R226): index records, distances, list scan, graph traversal, filters, re-ranking
and result blocks. -/

namespace Sys2Proof.Machine

/-! ### Index records (R202 to R208) -/

structure Index where
  off : Nat
  metric : Nat
  cbits : Nat
  dim : Nat
  lists : Bool
  graph : Bool
  vectors : Bool
  degree : Nat
  entries : Nat
  vecFmt : Nat
  items : Nat
  listCount : Nat
  cb : Nat
  dir : Nat
  graphOff : Nat
  tomb : Nat
  vec : Nat
  raw : List Byte
  deriving DecidableEq, Repr

def indexAt (raw : List Byte) (off : Nat) : Index :=
  let f (o w : Nat) := leAt raw o w
  { off := off, metric := f 0 1, cbits := f 1 1, dim := f 2 2, lists := bit (f 4 1) 0, graph := bit (f 4 1) 1, vectors := bit (f 4 1) 2, degree := f 5 1,
    entries := f 6 1, vecFmt := f 7 1, items := f 8 4, listCount := f 12 4, cb := f 16 8, dir := f 24 8, graphOff := f 32 8, tomb := f 40 8, vec := f 48 8, raw := raw }

/-- Code width and node-record bytes (R203). -/
def Index.cw (x : Index) : Nat := if x.cbits = 8 then 16 else 8
def Index.nr (x : Index) : Nat := ceilDiv (x.degree * (4 + x.cw)) 64 * 64

/-- Entry item and its code. -/
def Index.entry (x : Index) (e : Nat) : Nat × List Byte := (leAt x.raw (64 + 4 * e) 4, (x.raw.drop (80 + 16 * e)).take x.cw)

/-- The conditions of R208. -/
def indexOk (x : Index) (size : Nat) : Bool :=
  let area (o n a : Nat) : Bool := o % a == 0 && decide (o + n ≤ size)
  let on (b : Bool) (c z : Bool) : Bool := if b then c else z
  decide (x.metric ≤ 1) && (x.cbits == 8 || x.cbits == 4) && decide (16 ≤ x.dim ∧ x.dim ≤ 4096) && x.dim % 16 == 0 &&
  decide (leAt x.raw 4 1 < 8) &&
  on x.graph (decide (1 ≤ x.degree ∧ x.degree ≤ 64) && decide (1 ≤ x.entries ∧ x.entries ≤ 4)) (x.degree == 0 && x.entries == 0) &&
  on x.vectors (decide (x.vecFmt ≤ 2)) (x.vecFmt == 0) && decide (1 ≤ x.items) &&
  on x.lists (decide (1 ≤ x.listCount ∧ x.listCount ≤ 2 ^ 24)) (x.listCount == 0) &&
  zeros x.raw 56 8 && zeros x.raw 144 112 &&
  (List.range 4).all (fun e => (decide (e < x.entries) || zeros x.raw (64 + 4 * e) 4) && zeros x.raw (80 + 16 * e + (if e < x.entries then x.cw else 0)) (16 - (if e < x.entries then x.cw else 0))) &&
  area x.cb (2 ^ x.cbits * 2 * x.dim) 4096 &&
  on x.lists (area x.dir (16 * x.listCount) 64) (x.dir == 0) && on x.graph (area x.graphOff (x.items * x.nr) 64) (x.graphOff == 0) &&
  (x.tomb == 0 || area x.tomb (ceilDiv x.items 8) 64) &&
  on x.vectors (area x.vec (x.items * x.dim * (fmtBits x.vecFmt / 8)) 64) (x.vec == 0)

/-- Length of the region of a pin, in bytes. -/
def State.pinSize (s : State) (p : Pin) : Nat := ((s.regions.find? (fun r => r.num == p.region)).map (·.size)).getD 0 * tileBytes

/-- Read and judge the index record: `none` when it fails R208. -/
def State.indexRead (s : State) (p : Pin) (off : Nat) : Res (Option Index) :=
  if off % 256 ≠ 0 ∨ s.pinSize p < off + 256 then .ok none
  else (s.verRead p off 256).map (fun raw => if indexOk (indexAt raw off) (s.pinSize p) then some (indexAt raw off) else none)

/-! ### The descriptor (R212 to R214) -/

/-- A second-unit field, or its value with `UNITS` 0. -/
def Desc.u2 (d : Desc) (o w dflt : Nat) : Nat := if d.units = 2 then d.at o w else dflt

def Desc.sMode (d : Desc) : Nat := bits (d.at 59 1) 0 2
def Desc.sFmt (d : Desc) : Nat := bits (d.at 59 1) 2 2
def Desc.noPass (d : Desc) : Bool := bit (d.at 59 1) 4
def Desc.rerank (d : Desc) : Bool := bit (d.at 59 1) 5
def Desc.split (d : Desc) : Nat := bits (d.at 59 1) 6 2
def Desc.kRes (d : Desc) : Nat := d.at 56 2
def Desc.filterAddr (d : Desc) : Nat := d.u2 64 8 0
def Desc.filterBits (d : Desc) : Nat := d.u2 72 4 0
def Desc.maxExpand (d : Desc) : Nat := d.u2 76 4 (if d.sMode = 1 then 4096 else 0)
def Desc.rerankR (d : Desc) : Nat := d.u2 80 2 0

/-- R′ of R215. -/
def Desc.keep (d : Desc) : Nat := if d.rerank then d.rerankR else d.kRes

/-- Working buffer of one context (R223). -/
def Desc.searchBuf (d : Desc) (x : Index) : Nat :=
  if d.sMode = 0 then 16384 + 8 * d.keep
  else 65536 + 8 * (d.at 60 4 + d.keep) + 4 * (x.entries + d.maxExpand * x.degree)

/-- Stride of the result blocks (R222). -/
def Desc.resStride (d : Desc) : Nat := ceilDiv (16 + 8 * d.kRes) 64 * 64

def State.searchIndex (s : State) (d : Desc) : Res (Option (Pin × Index)) := do
  let ref := rrefAt d.raw 16
  let p ← s.refPin ref
  (s.indexRead p ref.offset).map (fun o => o.map (fun x => (p, x)))

/-- The index record fails R208. -/
def State.indexBad (s : State) (d : Desc) : Bool := match s.searchIndex d with | .ok none => true | _ => false

/-- Checks of R214. `FILTER_BITS` without `FILTER_ADDR` is a reserved field that is not zero (R13, R212) and fails step 1, not the step 5 that
R214 lists for it (log 78). -/
def State.searchChecks (s : State) (d : Desc) : List Chk :=
  let raw := d.raw
  let ref := rrefAt raw 16
  let slice := d.key.slice
  let mode := d.sMode
  let skip (g : Index → Res Unit) : Res Unit := match s.searchIndex d with
    | .ok (some x) => g x.2
    | .error (.wait ns) => .error (.wait ns)
    | _ => .ok ()
  refRsvd raw 16 ++
  [ck 1 (mode != 1 || d.at 48 8 == 0) eFormat 48, ck 1 (d.filterAddr != 0 || d.filterBits == 0) eFormat 72] ++
  (if d.units = 2 then [ck 1 (mode != 0 || d.at 76 4 == 0) eFormat 76, ck 1 (d.rerank || d.at 80 2 == 0) eFormat 80, ckZero raw 82 46] else []) ++
  [refSel raw 16, ck 1 (decide (mode ≤ 1)) eFormat 59, ck 1 (decide (d.sFmt ≤ 2)) eFormat 59, ck 1 (!d.rerank || d.units == 2) eFormat 59,
   ck 1 (d.split == 0 || mode == 0) eFormat 59,
   s.ckRevoked slice ref, ck 4 (s.assayers slice != [] && s.fldAt f_SLC_CFG_ASY_CTX slice != 0) ePerm 0,
   (5, do
     let o ← s.searchIndex d
     check o.isSome eRange 2 ref.offset),
   (5, skip (fun x => check (if mode = 0 then x.lists else x.graph) eRange 3 59)), (5, skip (fun x => check (!d.rerank || x.vectors) eRange 3 59)),
   ck 5 (decide (1 ≤ d.kRes ∧ d.kRes ≤ 1024)) eRange 56, ck 5 (decide (1 ≤ d.at 58 1 ∧ d.at 58 1 ≤ 64)) eRange 58,
   ck 5 (decide (1 ≤ d.at 60 4 ∧ d.at 60 4 ≤ (if mode = 0 then 65536 else 4096))) eRange 60,
   ck 5 (mode == 0 || decide (1 ≤ d.maxExpand ∧ d.maxExpand ≤ 65536)) eRange 76,
   ck 5 (!d.rerank || decide (d.kRes ≤ d.rerankR ∧ d.rerankR ≤ 4096)) eRange 80,
   (5, skip (fun x => check (decide (d.searchBuf x ≤ s.atwBytes slice)) eRange 3 0)),
   ckVa (d.at 32 8) 64, ckVa (d.at 40 8) (d.at 58 1 * d.resStride), ckVa (d.at 48 8) (4 * d.at 60 4), ckVa d.filterAddr (ceilDiv d.filterBits 8),
   ckAlign (d.at 32 8) 64, ckAlign (d.at 40 8) 64, ckAlign (d.at 48 8) 64, ckAlign d.filterAddr 64,
   (8, skip (fun x => do
     (s.ckXlate slice (d.at 32 8) (d.at 58 1 * x.dim * (fmtBits d.sFmt / 8)) rRead).2
     (s.ckXlate slice (d.at 40 8) (d.at 58 1 * d.resStride) rWrite).2
     if mode = 0 then (s.ckXlate slice (d.at 48 8) (4 * d.at 60 4) rRead).2
     if d.filterAddr ≠ 0 then (s.ckXlate slice d.filterAddr (ceilDiv d.filterBits 8) rRead).2))]

/-! ### Distances (R209, R210, R221) -/

/-- The distance table of a query. -/
def distTable (x : Index) (cb : List Byte) (q : List Num) : List (List Num) :=
  let ds := x.dim / 16
  (List.range 16).map (fun j =>
    let qs := (q.drop (j * ds)).take ds
    (List.range (2 ^ x.cbits)).map (fun c =>
      let ys := vecVals 1 ((cb.drop (2 * ((j * 2 ^ x.cbits + c) * ds))).take (2 * ds)) [] ds
      fFP16.dec (fFP16.enc (exactSum (List.zipWith (fun (a b : Num) =>
        if x.metric = 0 then (a.add b.neg).mul (a.add b.neg) else (a.mul b).neg) qs ys)))))

/-- Centroid number of subspace `j` in a code. -/
def codeSub (cbits : Nat) (code : List Byte) (j : Nat) : Nat :=
  if cbits = 8 then (code.getD j 0#8).toNat else bits (code.getD (j / 2) 0#8).toNat (4 * (j % 2)) 4

def codeDist (x : Index) (tbl : List (List Num)) (code : List Byte) : Num :=
  sumFp32 ((List.range 16).map (fun j => (tbl.getD j []).getD (codeSub x.cbits code j) .nan))

/-- `less` or equal (R210). -/
def candLe (a b : Nat × Num) : Bool := if cmpEq a.2 b.2 then decide (a.1 ≤ b.1) else cmpLe a.2 b.2

def bestOf (n : Nat) (cs : List (Nat × Num)) : List (Nat × Num) := (sortBy candLe cs).take n

/-- The exact distance of an item (R221). -/
def exactDist (x : Index) (q v : List Num) : Num :=
  ((List.zipWith (fun (a b : Num) => if x.metric = 0 then (a.add b.neg).mul (a.add b.neg) else (a.mul b).neg) q v).foldl
    (fun (acc : SAcc) t => acc.add t) SAcc.zero).round

/-! ### A query (R215 to R219) -/

/-- Units of work of a query: the parts of its list scan, or the query itself (R200, R215). -/
def Desc.parts (d : Desc) : Nat := 2 ^ d.split

/-- Assayer on whose context part `p` of the query that a `SEARCH` is at runs (R201). -/
def Desc.partAsy (d : Desc) (p : Nat) : Nat := d.asys.getD p d.engine - 0x10

/-- Contexts that a query has at a time: one for each of its parts, or as many as the slice's working buffer and contexts ever have; the other parts
then wait for these (R86, R201, R215). -/
def State.perQuery (s : State) (d : Desc) (x : Index) : Nat :=
  let slice := d.key.slice
  max 1 (min d.parts (min (s.atwBytes slice / d.searchBuf x) ((s.assayers slice).length * s.fldAt f_SLC_CFG_ASY_CTX slice)))

/-- Free contexts for one query and their buffers, on distinct Assayers where the slice holds them; none while they are not free (R215, R223). -/
def State.queryContexts (s : State) (d : Desc) (x : Index) (es : List Nat) : Option (List Nat) :=
  let q := s.perQuery d x
  let free := s.freeContexts d.key.slice es
  if q ≤ free.length ∧ min q es.length ≤ free.eraseDups.length ∧ s.bufRoom d.key.slice (q * d.searchBuf x) then some (free.take q) else none

/-- Assayers of the parts of a query that has the contexts `cs`: those parts that wait for these run on other Assayers of the slice, where it holds
them (R215). -/
def Desc.partList (d : Desc) (es cs : List Nat) : List Nat :=
  let all := cs ++ es.filter (fun e => !cs.contains e)
  (List.range d.parts).map (fun p => if cs.length = d.parts then cs.getD p 0x10 else all.getD (p % all.length) 0x10)

/-- Contexts for the queries that a `SEARCH` has still to take up, query `k` the one that it is at, as many as are free (R200, R201). -/
def State.fillContexts (d : Desc) (x : Index) (es : List Nat) (k : Nat) : Nat → State × Desc → State × Desc
  | 0, t => t
  | n + 1, t =>
    let q := t.1.perQuery d x
    if d.at 58 1 ≤ k + t.2.ctx.length / q then t
    else match t.1.queryContexts t.2 x es with
      | none => t
      | some g =>
        let e := { t.2 with ctx := t.2.ctx ++ g, buf := t.2.buf + g.length * d.searchBuf x }
        State.fillContexts d x es k n ({ t.1 with descs := upd t.1.descs (fun y => y.key == d.key) (fun y => { y with phase := .running, ctx := e.ctx, buf := e.buf }) }, e)

/-- The contexts of a `SEARCH` that goes on at query `k`: those that it holds, more where they are free, and the Assayers of the parts of that query
(R200, R201, R215). -/
def State.moreContexts (s : State) (d : Desc) (x : Index) (k : Nat) : State × Desc :=
  let (r, s1) := s.takeNat
  let es := s.assayerCodes d.key.slice r
  let (s2, d2) := State.fillContexts d x es k (d.at 58 1) (s1, d)
  let d3 := { d2 with asys := if d.asys != [] then d.asys else if d2.ctx = [] then [] else d2.partList es (d2.ctx.take (s.perQuery d x)) }
  ({ s2 with descs := upd s2.descs (fun y => y.key == d.key) (fun y => { y with asys := d3.asys }) }, d3)

/-- A query has ended: its contexts and their buffers are free (R200, R223). -/
def State.queryEnd (s : State) (d : Desc) (x : Index) : Desc :=
  let cs := d.ctx.drop (s.perQuery d x)
  { d with ctx := cs, buf := cs.length * d.searchBuf x, asys := [] }

/-- What a query works on. -/
structure Sq where
  d : Desc
  /-- the translation cache of the Assayer that runs it -/
  u : Nat
  pin : Pin
  x : Index
  cb : List Byte
  q : List Num
  tbl : List (List Num)

/-- Item `v` is tombstoned (R207). -/
def State.tombstoned (s : State) (a : Sq) (v : Nat) : Res Bool :=
  if a.x.tomb = 0 then .ok false
  else (s.verRead a.pin (a.x.tomb + v / 8) 1).map (fun b => bit (leNat b) (v % 8))

/-- The filter allows item `v` (R219). -/
def State.allowed (s : State) (a : Sq) (v : Nat) : Res Bool :=
  if a.d.filterAddr = 0 then .ok true
  else if a.d.filterBits ≤ v then .ok false
  else (s.engRead a.d a.u (a.d.filterAddr + v / 8) 1).map (fun b => bit (leNat b) (v % 8))

/-- What a query, or one part of it, yields: results before re-ranking, work, the limit flag, codes scored by part, entries skipped. -/
structure Found where
  res : List (Nat × Num)
  work : Nat
  limit : Bool
  scored : List Nat
  bad : Nat

/-- Entries of one list: item and code. -/
def State.listEntries (s : State) (a : Sq) (off count : Nat) : Res (List (Nat × List Byte)) := do
  let codes ← s.verRead a.pin off (count * a.x.cw)
  let nums ← s.verRead a.pin (off + ceilDiv (count * a.x.cw) 64 * 64) (4 * count)
  .ok ((List.range count).map (fun n => (leAt nums (4 * n) 4, (codes.drop (n * a.x.cw)).take a.x.cw)))

/-- Probed lists: offset and count (R205, R214). No check is made of the alignment of an entry's offset, nor of its bytes 12 to 15 (DESIGN CHOICE,
log 117). -/
def State.probes (s : State) (d : Desc) (pin : Pin) (x : Index) : Res (Except Nat (List (Nat × Nat))) := do
  let n := d.at 60 4
  let bs ← s.engRead d (uAsy (d.partAsy 0)) (d.at 48 8) (4 * n)
  let ls := (List.range n).map (fun i => leAt bs (4 * i) 4)
  match (List.range n).find? (fun i => decide (x.listCount ≤ ls.getD i 0) || (decide (0 < i) && decide (ls.getD i 0 ≤ ls.getD (i - 1) 0))) with
  | some i => .ok (.error (d.at 48 8 + 4 * i))
  | none =>
    let es ← gather (ls.map (fun l => (s.verRead pin (x.dir + 16 * l) 16).map (fun e => (l, leAt e 0 8, leAt e 8 4))))
    match es.find? (fun e => decide (s.pinSize pin < e.2.1 + ceilDiv (e.2.2 * x.cw) 64 * 64 + 4 * e.2.2)) with
    | some e => .ok (.error (x.dir + 16 * e.1))
    | none => .ok (.ok (es.map (·.2)))

/-- One part of a list scan: every entry of its lists (R215, R216). -/
def State.partScan (s : State) (a : Sq) (lists : List (Nat × Nat)) : Res Found := do
  let es ← gather (lists.map (fun l => s.listEntries a l.1 l.2))
  let all := es.flatten
  let good := all.filter (fun e => decide (e.1 < a.x.items) && e.1 != 0xFFFFFFFF)
  let cs ← gather (good.map (fun e => do
    let t ← s.tombstoned a e.1
    let f ← if t then .ok false else s.allowed a e.1
    .ok (e.1, codeDist a.x a.tbl e.2, !t && f)))
  let kept := (cs.filter (fun c => c.2.2)).map (fun c => (c.1, c.2.1))
  .ok { res := bestOf a.d.keep kept, work := min good.length (two32 - 1), limit := false, scored := [good.length], bad := all.length - good.length }

/-- List scan: probe entry `i` belongs to part `i mod S`; the parts' lists are combined (R215). -/
def State.listScan (s : State) (a : Sq) (lists : List (Nat × Nat)) : Res Found := do
  let fs ← gather ((List.range a.d.parts).map (fun p =>
    s.partScan { a with u := uAsy (a.d.partAsy p) } ((lists.zipIdx.filter (fun x => x.2 % a.d.parts == p)).map (·.1))))
  .ok { res := bestOf a.d.keep (fs.flatMap (·.res)), work := min (fs.flatMap (·.scored)).sum (two32 - 1), limit := false,
        scored := fs.flatMap (·.scored), bad := (fs.map (·.bad)).sum }

/-- State of a traversal: visited items, beam with its expanded marks, results, codes scored, neighbours skipped. -/
structure Trav where
  visited : List Nat
  beam : List ((Nat × Num) × Bool)
  res : List (Nat × Num)
  x : Nat
  scored : Nat
  bad : Nat

/-- `visit` of R217. -/
def State.visit (s : State) (a : Sq) (w : Trav) (n : Nat) (dist : Num) : Res Trav := do
  let w1 := { w with visited := n :: w.visited, scored := w.scored + 1 }
  let t ← s.tombstoned a n
  if t && a.d.noPass then .ok w1
  else
    let f ← if t then .ok false else s.allowed a n
    .ok { w1 with res := if f then bestOf a.d.keep ((n, dist) :: w1.res) else w1.res,
                  beam := (sortBy (fun x y => candLe x.1 y.1) (((n, dist), false) :: w1.beam)).take (a.d.at 60 4) }

/-- Neighbours of an expanded member (R206). -/
def State.expand (s : State) (a : Sq) (w : Trav) (c : Nat) : Res Trav := do
  let rec_ ← s.verRead a.pin (a.x.graphOff + c * a.x.nr) a.x.nr
  (List.range a.x.degree).foldlM (fun (w : Trav) sl =>
    let n := leAt rec_ (4 * sl) 4
    if n = 0xFFFFFFFF then .ok w
    else if a.x.items ≤ n then .ok { w with bad := w.bad + 1 }
    else if w.visited.contains n then .ok w
    else s.visit a w n (codeDist a.x a.tbl ((rec_.drop (4 * a.x.degree + a.x.cw * sl)).take a.x.cw))) w

/-- The loop of R217. -/
def State.traverse (s : State) (a : Sq) : Nat → Trav → Res Trav
  | 0, w => .ok w
  | fuel + 1, w =>
    let m := ((w.beam.filter (fun b => !b.2)).map (·.1)).take (min 4 (a.d.maxExpand - w.x))
    if m.isEmpty then .ok w
    else do
      let w1 := { w with x := w.x + m.length, beam := w.beam.map (fun (b : (Nat × Num) × Bool) => if m.contains b.1 then (b.1, true) else b) }
      let w2 ← m.foldlM (fun (w : Trav) c => s.expand a w c.1) w1
      s.traverse a fuel w2

/-- Graph traversal (R217, R218). An `ENTRY` of 0xFFFFFFFF, or one that is at least `ITEMS`, is skipped, and the latter counts in `BAD_ITEMS` (DESIGN
CHOICE, log 117). -/
def State.graphSearch (s : State) (a : Sq) : Res Found := do
  let w0 : Trav := { visited := [], beam := [], res := [], x := 0, scored := 0, bad := 0 }
  let w1 ← (List.range a.x.entries).foldlM (fun (w : Trav) e =>
    let (n, code) := a.x.entry e
    if n = 0xFFFFFFFF ∨ w.visited.contains n then .ok w
    else if a.x.items ≤ n then .ok { w with bad := w.bad + 1 }
    else s.visit a w n (codeDist a.x a.tbl code)) w0
  let w ← s.traverse a (a.d.maxExpand + 1) w1
  .ok { res := w.res, work := w.x, limit := w.beam.any (fun b => !b.2), scored := [w.scored], bad := w.bad }

/-- Exact distances of the results kept (R221). -/
def State.rerankAll (s : State) (a : Sq) (cs : List (Nat × Num)) : Res (List (Nat × Num)) := do
  let w := a.x.dim * (fmtBits a.x.vecFmt / 8)
  let xs ← gather (cs.map (fun c => (s.verRead a.pin (a.x.vec + c.1 * w) w).map (fun bs => (c.1, exactDist a.x a.q (vecVals a.x.vecFmt bs [] a.x.dim)))))
  .ok (bestOf a.d.kRes xs)

/-- The block of a query (R222). -/
def resultBlock (d : Desc) (n : Nat) (f : Found) (cs : List (Nat × Num)) : List Byte :=
  let k := d.kRes
  leBytes 4 cs.length ++ leBytes 4 f.work ++ [byte ((if cs.length < k then 1 else 0) + (if f.limit then 2 else 0)), byte n] ++ leBytes 6 0 ++
  cs.flatMap (fun c => leBytes 4 c.1 ++ enc32 c.2) ++ (List.replicate (k - cs.length) (leBytes 4 0xFFFFFFFF ++ leBytes 4 0x7F800000)).flatten ++
  List.replicate (d.resStride - (16 + 8 * k)) 0#8

/-- What query `n` works on: each of its parts has read the query and built the distance table. -/
def State.queryOf (s : State) (d : Desc) (pin : Pin) (x : Index) (n : Nat) : Res Sq := do
  let w := x.dim * (fmtBits d.sFmt / 8)
  let qs ← phased 1 (gather ((List.range d.parts).map (fun p => s.engRead d (uAsy (d.partAsy p)) (d.at 32 8 + n * w) w)))
  let cb ← phased 2 (s.verRead pin x.cb (2 ^ x.cbits * 2 * x.dim))
  let q := vecVals d.sFmt (qs.headD []) [] x.dim
  .ok { d := d, u := uAsy (d.partAsy 0), pin := pin, x := x, cb := cb, q := q, tbl := distTable x cb q }

/-- Ranges by virtual address that query `n` touches (R336). -/
def Desc.queryTouch (d : Desc) (x : Index) (n : Nat) : List Touch :=
  let w := x.dim * (fmtBits d.sFmt / 8)
  (List.range d.parts).flatMap (fun p => (⟨uAsy (d.partAsy p), d.at 32 8 + n * w, w, true⟩ : Touch) ::
    (if d.filterAddr = 0 then [] else [⟨uAsy (d.partAsy p), d.filterAddr, ceilDiv d.filterBits 8, true⟩])) ++
  [⟨uAsy (d.partAsy 0), d.at 40 8 + n * d.resStride, d.resStride, false⟩]

/-- Codes scored and entries skipped by a query, whether or not its block is written (R216, R218, R232). -/
def State.countQuery (s : State) (d : Desc) (f : Found) : State :=
  forL f.scored.zipIdx ((s.addSatAt f_ASY_ERR_BAD_ITEMS 0 f.bad).addWrap f_ASY_SCORED_SCORED f.scored.sum) (fun x t =>
    t.obs 3 (d.partAsy x.2) 2 d.key.slice x.1)

/-- One query: its effects with the number of its results, or what ends it, with the state that it leaves. -/
def State.queryRun (s : State) (d : Desc) (pin : Pin) (x : Index) (lists : List (Nat × Nat)) (n : Nat) :
    Res (Eff × Except Fail Nat) := do
  match (do
    let a ← s.queryOf d pin x n
    (phased 3 (if d.sMode = 0 then s.listScan a lists else s.graphSearch a)).map (fun f => (a, f))) with
  | .error (.err f) => .ok ({ s := s, out := [] }, .error f)
  | .error w => .error w
  | .ok (a, f) =>
    let t := s.countQuery d f
    match (do
      let cs ← if d.rerank then phased 4 (s.rerankAll a f.res) else .ok f.res
      (phased 5 (({ s := t, out := [] } : Eff).writeIn d a.u (d.at 40 8) (d.at 58 1 * d.resStride) (d.at 40 8 + n * d.resStride)
        (resultBlock d n f cs) n)).map (fun e => (e, cs.length))) with
    | .error (.err g) => .ok ({ s := t, out := [] }, .error g)
    | .error w => .error w
    | .ok (e, c) => .ok (e, .ok c)

/-- The block of a query is written here, or sent to another home: then the search goes on once it is acknowledged, and the query counts (R224, R232). -/
def Eff.blockDone (e : Eff) (d : Desc) : Eff × Desc :=
  if e.out.isEmpty then ({ e with s := (e.s.addWrap f_ASY_QUERIES_QUERIES 1).setDesc d }, d)
  else ({ e with s := e.s.setDesc { d with owed := true } }, { d with owed := true })

/-- Queries in order from `k` on (R224), `m` of them, `sum` results so far: those before one that must wait are done and stay done. No query begins
while the block of an earlier one is not written, nor without its contexts. -/
def State.queries (pin : Pin) (x : Index) (lists : List (Nat × Nat)) : Nat → Nat → Eff → Desc → Done
  | m, k, e, d0 =>
    let wait (ns : List Need) (tried : List Touch) : Done :=
      { eff := e, status := stOk, kind := 0, detail := 0, progress := k, more := some ns, tried := tried }
    if d0.owed then { wait [] [] with progress := k - 1 }
    else match m with
    | 0 =>
      if d0.work = d0.at 58 1 * d0.kRes then { eff := e, status := stOk, kind := 0, detail := 0, progress := k }
      else { eff := e, status := stOkShort, kind := 4, detail := d0.work, progress := k }
    | m + 1 =>
      let (s1, d) := if d0.asys = [] then e.s.moreContexts d0 x k else (e.s, d0)
      if d.asys = [] then wait [] []
      else match s1.queryRun d pin x lists k with
      | .ok (e1, .ok c) =>
        let (e2, d2) := (e1.note d.key.slice (d.queryTouch x k)).blockDone { s1.queryEnd d x with work := d.work + c }
        State.queries pin x lists m (k + 1) e2 d2
      | .ok (e1, .error f) => { eff := e1, status := f.status, kind := f.kind, detail := f.detail, progress := k, tried := d.queryTouch x k }
      | .error (.err f) => { eff := { s := s1, out := [] }, status := f.status, kind := f.kind, detail := f.detail, progress := k }
      | .error (.wait ns) => { eff := { s := s1, out := [] }, status := stOk, kind := 0, detail := 0, progress := k, more := some ns, tried := d.queryTouch x k }

/-- A block that was owed has been written: its query counts (R224, R232). -/
def State.blockWritten (s : State) (d : Desc) : State × Desc :=
  let e := { d with owed := false, progress := d.progress + 1, lent := [] }
  if d.owed then ((s.addWrap f_ASY_QUERIES_QUERIES 1).setDesc e, e) else (s, d)

/-- The queries of a `SEARCH` from the one where it stands; `work` holds the results so far. -/
def State.searchGo (s : State) (d : Desc) (pin : Pin) (x : Index) : State :=
  if s.owesWrites d.key then s
  else
    let (s1, d1) := s.blockWritten d
    let lists := d1.plan.map (fun l => (l.1, leNat l.2))
    s1.attempt d1 [] (.ok (State.queries pin x lists (d1.at 58 1 - d1.progress) d1.progress { s := s1, out := [] } d1))

/-- A `SEARCH`, on the index record read at its start (R208): its probe list is read and judged once, before any result (R214). -/
def State.searchStep (s : State) (d : Desc) : State :=
  match d.pins with
  | [] => s
  | pin :: _ =>
    let x := indexAt d.startRecord (rrefAt d.raw 16).offset
    let ts : List Touch := [⟨uAsy (d.partAsy 0), d.at 48 8, 4 * d.at 60 4, true⟩]
    if d.sMode = 0 ∧ d.plan = [] then
      match phased 1 (s.probes d pin x) with
      | .error e => s.attempt d ts (.error e)
      | .ok (.error a) =>
        s.attempt d ts (.ok { eff := { s := s.incSat f_ASY_ERR_PROBE_REJECTS, out := [] }, status := eRange, kind := 2, detail := a, progress := 0 })
      | .ok (.ok ls) =>
        let d1 := { d with plan := ls.map (fun l => (l.1, leBytes 4 l.2)) }
        ((s.setDesc d1).noteTouches d.key.slice ts).searchGo d1 pin x
    else s.searchGo d pin x

/-- `SEARCH` (R215 to R225). -/
def execSearch (slice ring idx : Nat) (s : State) : Host.Outcome State Fault Refusal :=
  .next (s.whenAlive (s.onRunning ⟨slice, ring, idx⟩ 0x20 (fun t d => t.searchStep d)))

end Sys2Proof.Machine
end

