-- ==== Sys2Proof/Machine/Gleaner.lean ====
section
/-! DEFINITION. The Gleaner (R234 to R269): table roots and shard vectors, `GATHER`, `SCATTER_UPDATE` and `TABLE_PUBLISH`. -/

namespace Sys2Proof.Machine

/-! ### Roots and vectors (R236 to R240) -/

structure Root where
  fmt : Nat
  kind : Nat
  dim : Nat
  rows : Nat
  rowOff : Nat
  stOff : Nat
  stride : Nat
  stStride : Nat
  version : Nat
  vec : Nat
  deriving DecidableEq, Repr

def rootAt (raw : List Byte) : Root :=
  let f (o w : Nat) := leAt raw o w
  { fmt := f 0 1, kind := f 1 1, dim := f 2 2, rows := bits (f 8 8) 0 40, rowOff := f 16 8, stOff := f 24 8, stride := f 32 4, stStride := f 36 4,
    version := f 48 4, vec := f 56 8 }

/-- Element width in bytes. -/
def Root.w (r : Root) : Nat := fmtBits r.fmt / 8

/-- Bytes of a row and of its state (R239). -/
def Root.rowBytes (r : Root) : Nat := r.dim * r.w
def Root.stBytes (r : Root) : Nat := match r.kind with | 1 => 4 * r.dim | 2 => 4 | 3 => 8 * r.dim | _ => 0

def rootOk (raw : List Byte) : Bool :=
  let r := rootAt raw
  zeros raw 4 4 && leAt raw 8 8 / 2 ^ 40 == 0 && zeros raw 40 8 && zeros raw 52 4 && zeros raw 72 184 &&
  decide (r.fmt ≤ 2) && decide (r.kind ≤ 3) && decide (1 ≤ r.dim ∧ r.dim ≤ 8192) && r.rowBytes % 16 == 0 && decide (1 ≤ r.rows) &&
  r.rowOff % 64 == 0 && r.stride % 16 == 0 && decide (r.rowBytes ≤ r.stride) &&
  (if r.kind = 0 then r.stOff == 0 && r.stStride == 0
   else r.stOff % 64 == 0 && r.stStride % 16 == 0 && decide (r.stBytes ≤ r.stStride)) && r.vec % 64 == 0

structure Vec where
  split : Nat
  shards : Nat
  per : Nat
  deriving DecidableEq, Repr

def vecAt (raw : List Byte) : Vec := { split := leAt raw 0 1, shards := leAt raw 2 2, per := bits (leAt raw 8 8) 0 40 }

def vecOk (raw : List Byte) (rows : Nat) : Bool :=
  let v := vecAt raw
  zeros raw 1 1 && zeros raw 4 4 && zeros raw 16 48 && decide (v.split ≤ 1) && decide (1 ≤ v.shards ∧ v.shards ≤ 4096) &&
  (if v.split = 0 then leAt raw 8 8 / 2 ^ 40 == 0 && decide (rows ≤ v.shards * v.per) else leAt raw 8 8 == 0)

/-- A region as a Gleaner names it: node, region, `SEL`, `VERSION`. -/
structure Src where
  node : Nat
  region : Nat
  sel : Nat
  ver : Nat
  deriving DecidableEq, Repr

def Src.key (r : Src) : Nat × Nat × Nat := (r.region, r.sel, r.ver)

/-- Shard entry (R238). -/
def shardAt (raw : List Byte) (sel : Nat) : Src :=
  { node := leAt raw 0 2, region := bits (leAt raw 4 4) 0 20, sel := sel, ver := if sel = 2 then leAt raw 8 4 else 0 }

def shardOk (raw : List Byte) : Bool := zeros raw 2 2 && leAt raw 4 4 / 2 ^ 20 == 0 && zeros raw 12 4

/-- Shard and local row of a row (R239). -/
def Vec.place (v : Vec) (r : Nat) : Nat × Nat := if v.split = 0 then (r / v.per, r % v.per) else (r % v.shards, r / v.shards)

/-! ### Reads of table regions -/

def regionBytes (r : Region) : Nat := r.size * tileBytes

/-- The pin that a reference to a region of this home resolves to (R49, R265, R514); errors name `entry`. -/
def State.glnPin (s : State) (d : Desc) (r : Src) (entry : Nat) : Res Pin :=
  match s.region r.region with
  | none => fail eRange 2 entry
  | some g =>
    if s.revokedNamed s.me d.key.slice false g.num then fail eRevoked 2 entry
    else if !s.permitted s.me d.key.slice g.owner then fail ePerm 2 entry
    else if r.sel = 0 then .ok { region := g.num, version := none, map := [] }
    else match g.version r.ver with
      | some v => .ok { region := g.num, version := some v.num, map := v.map }
      | none => fail eRange 2 entry

/-- Resolve a reference, here or at another home: what is pinned here. A region of another home is held there, and a working version is not
pinned (R244). -/
def State.glnResolve (s : State) (d : Desc) (r : Src) (entry : Nat) : Res (List Pin) :=
  if 0x8000 ≤ r.node then fail eRange 2 entry
  else if r.node = s.me then (s.glnPin d r entry).map (fun p => if r.sel = 0 then [] else [p])
  else match d.remoteVer r.node r.key 0 0 with
    | .ok _ => .ok []
    | .error (.err f) => .error (.err (if f.kind = 2 then { f with detail := entry } else f))
    | .error e => .error e

/-- The pin of a region that the descriptor holds, or its working version. -/
def Desc.pinOf (d : Desc) (r : Src) : Pin :=
  (d.pins.find? (fun p => p.region == r.region && p.version == (if r.sel = 2 then some r.ver else none))).getD
    { region := r.region, version := none, map := [] }

/-- Read a region through a resolved reference, by region offset. -/
def State.glnRead (s : State) (d : Desc) (r : Src) (off n : Nat) : Res (List Byte) :=
  let got : Res (List Byte) :=
    if r.node = s.me then
      match (if r.sel = 0 then s.region r.region else s.regions.find? (fun g => g.num == r.region)) with
      | some g => if regionBytes g < off + n then fail eRange 2 off else s.verRead (d.pinOf r) off n
      | none => fail eRange 2 off
    else match d.remoteVer r.node r.key off n with
      | .ok g => (match g.poison with | some o => fail ePoison 2 (off + o) | none => .ok g.bytes)
      | .error e => .error e
  match got with
  | .error (.err f) => if f.status = eRange ∧ f.kind = 2 then fail eRange 2 off else .error (.err f)
  | x => x

/-- A range lies inside a region: known here, and told by a read elsewhere. -/
def State.glnInside (s : State) (d : Desc) (r : Src) (off n : Nat) : Res Bool :=
  if r.node = s.me then .ok (s.regions.any (fun g => g.num == r.region && decide (off + n ≤ regionBytes g)))
  else match d.remoteVer r.node r.key off n with
    | .ok _ => .ok true
    | .error (.err f) => if f.status = eRange then .ok false else .error (.err f)
    | .error e => .error e

/-- A table as a lookup or an update has read it. -/
structure Table where
  src : Src
  off : Nat
  root : Root
  vec : Vec
  deriving DecidableEq, Repr

def tableSrc (d : Desc) : Src := let r := rrefAt d.raw 16; { node := r.node, region := r.region, sel := 0, ver := 0 }

/-- A record that fails R240: status, and the offset of the record. -/
def recordFault (off : Nat) : Fail := ⟨eRange, 2, off⟩

/-- Read and judge the root record; `.error` in the value is a record fault. -/
def State.glnRoot (s : State) (d : Desc) : Res (Except Fail (List Byte)) := do
  let off := (rrefAt d.raw 16).offset
  if (tableSrc d).node = s.me ∨ 0x8000 ≤ (tableSrc d).node then
    let _ ← s.glnResolve d (tableSrc d) off
  if off % 256 ≠ 0 then .ok (.error (recordFault off))
  else
    let raw ← s.glnRead d (tableSrc d) off 256
    .ok (if rootOk raw then .ok raw else .error (recordFault off))

/-- Read and judge the vector of a root, without its entries: its 64 bytes. -/
def State.glnVec (s : State) (d : Desc) (root : Root) : Res (Except Fail (List Byte)) := do
  let src := tableSrc d
  let hd ← s.glnInside d src root.vec 64
  if !hd then .ok (.error (recordFault root.vec))
  else
    let raw ← s.glnRead d src root.vec 64
    if !vecOk raw root.rows then .ok (.error (recordFault root.vec))
    else
      let last ← s.glnInside d src (root.vec + 64 + 16 * ((vecAt raw).shards - 1)) 16
      .ok (if last then .ok raw else .error (recordFault root.vec))

/-- Read shard entry `i`: its 16 bytes. -/
def State.glnShard (s : State) (d : Desc) (root : Root) (i : Nat) : Res (Except Fail (List Byte)) := do
  let raw ← s.glnRead d (tableSrc d) (root.vec + 64 + 16 * i) 16
  .ok (if shardOk raw then .ok raw else .error (recordFault root.vec))

/-- End with a record fault (R240). -/
def State.recordReject (s : State) (f : Fail) : Done :=
  { eff := { s := s.incSat f_GLN_ERR_RECORD_REJECTS, out := [] }, status := f.status, kind := f.kind, detail := f.detail, progress := 0 }

/-- Keep what a descriptor has read for its later steps, under a number. -/
def State.keep (s : State) (k : DKey) (i : Nat) (bs : List Byte) : State :=
  { s with descs := upd s.descs (fun y => y.key == k) (fun y => { y with plan := y.plan.filter (fun x => x.1 != i) ++ [(i, bs)] }) }

/-- What it has kept under a number. -/
def Desc.kept (d : Desc) (i : Nat) : Option (List Byte) := (d.plan.find? (fun x => x.1 == i)).map (·.2)

def State.setWork (s : State) (k : DKey) (n : Nat) : State :=
  { s with descs := upd s.descs (fun x => x.key == k) (fun x => { x with work := n }) }

/-! ### GATHER (R241 to R246) -/

def Desc.gMode (d : Desc) : Nat := d.at 52 1
def Desc.idxVa (d : Desc) (i : Nat) : Nat := d.at 32 8 + i * d.at 54 2

/-- The slice holds a Gleaner context: contexts on each Gleaner that its mask names (R235, R497). -/
def hasContexts (s : State) (slice : Nat) : Bool := s.fldAt f_SLC_CFG_GLN_CTX slice != 0 && s.gleanerCodes slice != []

/-- Bytes that a gather writes at `OUT_ADDR`: in a table mode rows of the root record's size, when it is readable at this home; of a root
elsewhere the check at consumption takes rows of 16 bytes, the least there are (R236, log 93). -/
def State.gatherOut (s : State) (d : Desc) : Nat :=
  d.at 48 4 * (if d.gMode = 2 then d.at 56 4
    else match s.glnRoot d with
      | .ok (.ok raw) => if (tableSrc d).node = s.me then (rootAt raw).rowBytes else 16
      | _ => 16)

/-- Checks of R242. -/
def State.gatherChecks (s : State) (d : Desc) : List Chk :=
  let raw := d.raw
  let mode := d.gMode
  let iw := d.at 53 1
  let st := d.at 54 2
  let slice := d.key.slice
  let ref := rrefAt raw 16
  (if mode = 2 then [] else refRsvd raw 16) ++
  [ckZero raw 60 4, ck 1 (decide (mode ≤ 2)) eFormat 52, ck 1 ((iw == 4 && mode != 2) || iw == 8) eFormat 53] ++
  (if mode = 2 then [ckZero raw 16 16, ck 1 (d.at 56 4 != 0) eFormat 56] else [ck 1 (ref.sel == 0) eFormat 24, ckZero raw 56 4]) ++
  (if mode = 2 then [] else [s.ckRevoked slice ref]) ++
  [ck 4 (hasContexts s slice) ePerm 0,
   ck 5 (decide (1 ≤ d.at 48 4 ∧ d.at 48 4 ≤ 65536)) eRange 48, ck 5 (decide (iw ≤ st ∧ st ≤ 4096) && st % iw == 0) eRange 54,
   ck 5 (mode != 2 || (decide (16 ≤ d.at 56 4 ∧ d.at 56 4 ≤ 65536) && d.at 56 4 % 16 == 0)) eRange 56,
   ckVa (d.at 32 8) (d.at 48 4 * st), ckVa (d.at 40 8) 64, ckAlign (d.at 32 8) iw, ckAlign (d.at 40 8) 64,
   s.ckStrided slice (d.at 32 8) st iw (d.at 48 4) rRead,
   s.ckXlate slice (d.at 40 8) (s.gatherOut d) rWrite]

/-- The index list. -/
def State.indices (s : State) (d : Desc) : Res (List Nat) :=
  let iw := d.at 53 1
  let u := uGln (d.engine - 0x20)
  let one (i : Nat) : Res Nat := (s.engRead d u (d.idxVa i) iw).map (fun bs => leAt bs 0 iw)
  gather ((List.range (d.at 48 4)).map one)

def allOnes (iw : Nat) : Nat := 2 ^ (8 * iw) - 1

/-- What becomes of an index in the table modes (R245, R256): 0 delivered, 1 skipped in silence, 2 a bad row. All ones comes first. -/
def idxClass (rows iw v : Nat) : Nat := if v = allOnes iw then 1 else if v < rows then 0 else 2

/-- Waits that come before the first error, all together. -/
def earlyWaits {α : Type} : List (Res α) → List Need
  | [] => []
  | .error (.err _) :: _ => []
  | .error (.wait ns) :: r => ns ++ earlyWaits r
  | .ok _ :: r => earlyWaits r

/-- Numbers under which a Gleaner descriptor keeps what it reads: the root record, the vector's header, the index list, then shard entries. -/
def keepRoot : Nat := 0
def keepVec : Nat := 1
def keepIdx : Nat := 2
def keepShard (i : Nat) : Nat := 3 + i

/-- Indices of a kept list. -/
def Desc.ix (d : Desc) : List Nat :=
  let iw := d.at 53 1
  let bs := (d.kept keepIdx).getD []
  (List.range (d.at 48 4)).map (fun i => leAt bs (iw * i) iw)

/-- What an index list leaves of the rows of a gather: `cls i` is 0 for a row that counts as delivered, 2 for a bad row (R245). -/
structure Rows where
  bytes : Nat
  cls : Nat → Nat
  read : Nat → State → Res (List Byte)
  /-- ranges by virtual address that row `i` is read from -/
  from_ : Nat → List Touch

/-- The rows of a gather from the one where it stands, in index order; the reads of later rows are begun while one must wait (R234, R245). -/
def State.gatherRun (s : State) (d : Desc) (w : Rows) : Done :=
  let n := d.at 48 4
  let u := uGln (d.engine - 0x20)
  let out (i : Nat) : Nat := d.at 40 8 + i * w.bytes
  let step (i : Nat) (e : Eff) : Res Eff := phased 3 (do
    let bs ← w.read i e.s
    e.writeIn d u (d.at 40 8) (n * w.bytes) (out i) bs i)
  let o := runFrom step (fun i => w.from_ i ++ [⟨u, out i, w.bytes, false⟩]) d.key.slice false (n - d.progress) d.progress { s := s, out := [] }
  let count (c k : Nat) : Nat := ((List.range k).filter (fun i => w.cls i == c)).length
  let good := count 0 o.progress - count 0 d.progress
  let t := ((o.eff.s.addWrap f_GLN_ROWS_ROWS good).addSatAt f_GLN_ERR_BAD_ROWS 0 (count 2 o.progress - count 2 d.progress)).obs 4 (d.engine - 0x20) 1
    d.key.slice good
  let o1 := { o with eff := { o.eff with s := t } }
  match o.more with
  | some ns => { o1 with more := some (ns ++ earlyWaits (((List.range n).drop o.progress).map (fun i => phased 3 (w.read i o.eff.s)))) }
  | none => if o.status ≠ stOk ∨ count 0 n = n then o1 else { o1 with status := stOkShort, kind := 4, detail := count 0 n }

/-- The rows of `ADDRESS` mode (R246). -/
def Desc.addrRows (d : Desc) : Rows :=
  let u := uGln (d.engine - 0x20)
  let rb := d.at 56 4
  let a (i : Nat) : Nat := d.ix.getD i 0
  { bytes := rb, cls := fun i => if a i = 0 then 1 else 0
    read := fun i t =>
      if a i = 0 then .ok (List.replicate rb 0#8)
      else if a i % 16 ≠ 0 then fail eAlign 2 (d.idxVa i)
      else t.engRead d u (a i) rb
    from_ := fun i => if a i = 0 ∨ a i % 16 ≠ 0 then [] else [⟨u, a i, rb, true⟩] }

/-- Touched shards of a lookup, ascending. -/
def touchedShards (t : Root) (v : Vec) (iw : Nat) (ix : List Nat) : List Nat :=
  (sortBy (fun a b => decide (a ≤ b)) ((ix.filter (fun r => idxClass t.rows iw r == 0)).map (fun r => (v.place r).1))).eraseDups

/-- What a lookup has read: its root, its vector, its touched shards with their references (R243). -/
structure Lookup where
  root : Root
  vec : Vec
  shards : List (Nat × Src)

def Desc.lookup (d : Desc) : Lookup :=
  let root := rootAt ((d.kept keepRoot).getD [])
  let vec := vecAt ((d.kept keepVec).getD [])
  let sel := if d.gMode = 0 then 2 else 0
  { root := root, vec := vec
    shards := (touchedShards root vec (d.at 53 1) d.ix).filterMap (fun i => (d.kept (keepShard i)).map (fun raw => (i, shardAt raw sel))) }

/-- Region offset of a row's state. -/
def Root.stAt (t : Root) (lr : Nat) : Nat := t.stOff + lr * t.stStride

/-- The rows of a resolved lookup (R244, R245); a row whose state would lie beyond its shard region is refused too (R240). -/
def Desc.tableRows (d : Desc) : Rows :=
  let l := d.lookup
  let rb := l.root.rowBytes
  let cls (i : Nat) : Nat := idxClass l.root.rows (d.at 53 1) (d.ix.getD i 0)
  { bytes := rb, cls := cls, from_ := fun _ => []
    read := fun i t =>
      if cls i ≠ 0 then .ok (List.replicate rb 0#8)
      else
        let (sh, lr) := l.vec.place (d.ix.getD i 0)
        match l.shards.find? (fun x => x.1 == sh) with
        | none => .error (.wait [])
        | some (_, src) => do
          let off := l.root.rowOff + lr * l.root.stride
          let bs ← t.glnRead d src off rb
          let st ← if l.root.kind = 0 then .ok true else t.glnInside d src (l.root.stAt lr) l.root.stBytes
          check st eRange 2 off
          .ok bs }

/-- What reading the index list touches: block by block, and of entries more than 64 bytes apart each for itself (R336). -/
def Desc.listTouches (d : Desc) : List Touch :=
  let st := d.at 54 2
  let u := uGln (d.engine - 0x20)
  if st ≤ 64 then (cut tileBytes (d.at 32 8) ((d.at 48 4 - 1) * st + d.at 53 1)).map (fun p => ⟨u, p.1, p.2, true⟩)
  else (List.range (d.at 48 4)).map (fun i => ⟨u, d.idxVa i, d.at 53 1, true⟩)

/-- The index list, read and kept (phase 2). -/
def State.keepIndices (s : State) (d : Desc) : Res State :=
  (phased 2 (s.indices d)).map (fun ix => (s.noteTouches d.key.slice d.listTouches).keep d.key keepIdx (ix.flatMap (leBytes (d.at 53 1))))

/-- Under this number a lookup keeps that it has resolved a shard: after the numbers of the entries. -/
def keepPin (l : Lookup) (i : Nat) : Nat := keepShard (l.vec.shards + i)

/-- A running operation holds versions that it has resolved (R49). -/
def State.holdPins (s : State) (k : DKey) (ps : List Pin) : State :=
  { s with descs := upd s.descs (fun x => x.key == k) (fun x => { x with pins := x.pins ++ ps.filter (fun p => !x.pins.contains p) }) }

/-- One step of a gather, and whether the next may follow at once. A lookup reads its root once, then the vector, the index list and the entries of
the shards that it touches, and resolves each of them once: what it has read and pinned stands (R243, R244, R260). -/
def State.gatherStep (s : State) (d : Desc) : State × Bool :=
  let ends (r : Res Done) : State × Bool := (s.attempt d [] r, false)
  let root := d.lookup.root
  let idx (n : Nat) : State × Bool := match s.keepIndices d with
    | .ok t => (t.setWork d.key n, true)
    | .error e => (s.attempt d d.listTouches (.error e), false)
  if d.gMode = 2 then
    if d.work = 0 then idx 5 else ends (.ok (s.gatherRun d d.addrRows))
  else match d.work with
  | 0 => match phased 1 (s.glnRoot d) with
    | .error e => ends (.error e)
    | .ok (.error f) => ends (.ok (s.recordReject f))
    | .ok (.ok raw) => ((s.keep d.key keepRoot raw).setWork d.key 1, true)
  | 1 => match phased 1 (s.glnVec d root) with
    | .error e => ends (.error e)
    | .ok (.error f) => ends (.ok (s.recordReject f))
    | .ok (.ok raw) => ((s.keep d.key keepVec raw).setWork d.key 2, true)
  | 2 => idx 3
  | 3 =>
    let todo := (touchedShards root d.lookup.vec (d.at 53 1) d.ix).filter (fun i => (d.kept (keepShard i)).isNone)
    let got := todo.map (fun i => (i, phased 2 (s.glnShard d root i)))
    let s1 := forL got s (fun x t => match x.2 with | .ok (.ok raw) => t.keep d.key (keepShard x.1) raw | _ => t)
    match gather (got.map (·.2)) with
    | .error e => (s1.attempt d [] (.error e), false)
    | .ok es => match es.findSome? (fun x => match x with | .error f => some f | .ok _ => none) with
      | some f => (s1.attempt d [] (.ok (s1.recordReject f)), false)
      | none => (s1.setWork d.key 4, true)
  | 4 =>
    let todo := d.lookup.shards.filter (fun x => (d.kept (keepPin d.lookup x.1)).isNone)
    let got := todo.map (fun x => (x.1, phased 2 (s.glnResolve d x.2 (root.vec + 64 + 16 * x.1))))
    let s1 := forL got s (fun x t => match x.2 with | .ok ps => (t.holdPins d.key ps).keep d.key (keepPin d.lookup x.1) [] | .error _ => t)
    match gather (got.map (·.2)) with
    | .error e => (s1.attempt d [] (.error e), false)
    | .ok _ => (s1.setWork d.key 5, true)
  | _ => ends (.ok (s.gatherRun d d.tableRows))

/-- Steps of a gather as far as they go. -/
def State.gatherLoop : Nat → State → DKey → State
  | 0, s, _ => s
  | n + 1, s, k =>
    match s.desc k with
    | none => s
    | some d => match s.gatherStep d with
      | (t, true) => State.gatherLoop n t k
      | (t, false) => t

/-- `GATHER` (R241 to R246). -/
def execGather (slice ring idx : Nat) (s : State) : Host.Outcome State Fault Refusal :=
  .next (s.whenAlive (s.onRunning ⟨slice, ring, idx⟩ 0x28 (fun t d => State.gatherLoop 7 t d.key)))

/-- `PIN_TIMEOUT` (R243): the resolution bound of a `PUBLISHED` lookup has passed; `DETAIL` names the table home (DESIGN CHOICE, log 118). -/
def execPinTimeout (slice ring idx : Nat) (s : State) : Host.Outcome State Fault Refusal :=
  .next (s.whenAlive (s.onRunning ⟨slice, ring, idx⟩ 0x28 (fun t d =>
    if d.gMode = 0 && decide (1 ≤ d.work ∧ d.work ≤ 4) then
      (t.stopDesc d ⟨eTimeout, 7, detail7 (tableSrc d).node 2 3⟩).incSat f_GLN_ERR_PIN_TIMEOUTS
    else t)))

/-! ### SCATTER_UPDATE (R251 to R259) -/

def Desc.opt (d : Desc) : Nat := d.at 45 1
def Desc.unordered (d : Desc) : Bool := d.at 44 1 == 1

/-- Offsets of the parameters an optimiser uses (R253). -/
def optParams (opt : Nat) : List Nat := match opt with | 1 => [52] | 2 => [48, 52] | 3 => [48, 52] | 4 => [48, 52, 56, 60, 64, 68] | _ => []

/-- `STATE_KIND` that an optimiser requires (R253). -/
def optKind (opt : Nat) : Option Nat := match opt with | 2 => some 1 | 3 => some 2 | 4 => some 3 | _ => none

def Num.finite : Num → Bool
  | .fin _ _ _ => true
  | _ => false

/-- The addresses of a list that lies at this home are 64-byte aligned (step 6 of R254); of one elsewhere the first phase says it before anything
else. DESIGN CHOICE (log 112): `DETAIL` names the list entry. -/
def State.ckList (s : State) (d : Desc) : Chk :=
  let list := d.at 32 8
  (6, if list = 0 then .ok () else match s.xlate uRing d.key.slice list (8 * d.at 40 2) rRead with
    | .ok ps =>
      if ps.any (fun p => p.node != s.me) then .ok ()
      else match gather (ps.map (fun p => s.feRead p.loc p.len)) with
        | .ok gs =>
          let bs := gs.flatMap (·.bytes)
          match (List.range (d.at 40 2)).find? (fun i => leAt bs (8 * i) 8 % 64 != 0) with
          | some i => fail eAlign 2 (list + 8 * i)
          | none => .ok ()
        | .error (.wait ns) => .error (.wait ns)
        | .error _ => .ok ()
    | .error _ => .ok ())

/-- Checks of R254. -/
def State.scatterChecks (s : State) (d : Desc) : List Chk :=
  let raw := d.raw
  let ref := rrefAt raw 16
  let slice := d.key.slice
  let opt := d.opt
  let inline_ := d.at 32 8 == 0
  let p := d.at 40 2
  let used := optParams opt
  let top := if d.units = 2 then [48, 52, 56, 60, 64, 68] else [48, 52, 56, 60]
  refRsvd raw 16 ++ [ckZero raw 46 2] ++
  (if d.units = 2 then ckUnused raw (72 + (if inline_ then 8 * min p 7 else 0)) 128 else []) ++
  [ck 1 (decide (d.at 44 1 ≤ 1)) eFormat 44, ck 1 (decide (opt ≤ 4)) eFormat 45, ck 1 ((d.units == 2) == (inline_ || opt == 4)) eFormat 2,
   ck 1 (ref.sel == 0) eFormat 24] ++
  (top.filter (fun o => !used.contains o)).map (fun o => ckZero raw o 4) ++
  [ck 1 (!d.unordered || opt == 1) eFormat 44, s.ckRevoked slice ref, ck 4 (hasContexts s slice) ePerm 0, ck 4 (!d.unordered || s.unord s.me slice) ePerm 44,
   ck 5 (decide (1 ≤ p ∧ p ≤ 4096) && (!inline_ || decide (p ≤ 7))) eRange 40] ++
  (used.filter (fun o => top.contains o)).map (fun o => ck 5 (f32 (d.at o 4)).finite eRange o) ++
  [ckVa (d.at 32 8) (8 * p), ckAlign (d.at 32 8) 64, s.ckList d] ++
  (if inline_ then (List.range (min p 7)).flatMap (fun i => [ckVa (d.at (72 + 8 * i) 8) 64, ckAlign (d.at (72 + 8 * i) 8) 64]) else []) ++
  [(8, do
     if !inline_ then (s.ckXlate slice (d.at 32 8) (8 * p) rRead).2
     else (List.range (min p 7)).forM (fun i => (s.ckXlate slice (d.at (72 + 8 * i) 8) 64 rRead).2))]

/-- A contribution block (R251). -/
structure Contrib where
  va : Nat
  step : Nat
  source : Nat
  count : Nat
  dim : Nat
  fmt : Nat
  iw : Nat
  deriving DecidableEq, Repr

def contribAt (va : Nat) (raw : List Byte) : Contrib :=
  { va := va, step := leAt raw 0 8, source := leAt raw 8 4, count := leAt raw 12 4, dim := leAt raw 16 2, fmt := leAt raw 18 1, iw := leAt raw 19 1 }

def contribOk (raw : List Byte) (dim : Nat) : Bool :=
  let b := contribAt 0 raw
  zeros raw 20 44 && decide (b.fmt ≤ 2) && (b.iw == 4 || b.iw == 8) && decide (b.count ≤ 65536) && b.dim == dim

/-- Address of the gradient rows. -/
def Contrib.g0 (b : Contrib) : Nat := b.va + 64 + ceilDiv (b.count * b.iw) 64 * 64

/-- Addresses of the blocks; an address of the list that is not aligned comes as its own address. -/
def State.blockAddrs (s : State) (d : Desc) : Res (Except Nat (List Nat)) :=
  let p := d.at 40 2
  let list := d.at 32 8
  if list = 0 then .ok (.ok ((List.range p).map (fun i => d.at (72 + 8 * i) 8)))
  else (s.engRead d (uGln (d.engine - 0x20)) list (8 * p)).map (fun bs =>
    let as := (List.range p).map (fun i => leAt bs (8 * i) 8)
    match (List.range p).find? (fun i => as.getD i 0 % 64 != 0) with
    | some i => .error (list + 8 * i)
    | none => .ok as)

/-- What the first phase yields. -/
structure Plan where
  root : Root
  vec : Vec
  region : Nat
  blocks : List Contrib
  total : Nat

/-- The bytes that the first phase keeps: root, vector, shard entry, then each block's address with its header. -/
def Desc.planOf (d : Desc) : Plan :=
  let raw (i : Nat) : List Byte := (d.plan.getD i (0, [])).2
  let bs := (d.plan.drop 3).map (fun x => contribAt x.1 x.2)
  { root := rootAt (raw 0), vec := vecAt (raw 1), region := (shardAt (raw 2) 0).region, blocks := bs, total := (bs.map (·.count)).sum }

/-- How the first phase can end (R255). -/
inductive PlanEnd where
  | record (f : Fail)
  | block (f : Fail)
  | other (f : Fail)
  | go (kept : List (Nat × List Byte))

/-- The first fault among the blocks: a header, a pair of equal (`STEP`, `SOURCE`), the total number of entries. -/
def blockFault (dim : Nat) : List (Contrib × List Byte) → List Contrib → Nat → Option Nat
  | [], _, _ => none
  | (b, raw) :: r, seen, n =>
    if !contribOk raw dim || seen.any (fun x => x.step == b.step && x.source == b.source) || decide (2 ^ 20 < n + b.count) then some b.va
    else blockFault dim r (b :: seen) (n + b.count)

/-- Working buffer of an update (R255). -/
def Plan.buf (p : Plan) : Nat := 65536 + 16 * p.total

/-- The first phase before the blocks (R255): root, vector and entry, kept in that order. -/
def State.scatterTable (s : State) (d : Desc) : Res PlanEnd := do
  let off := (rrefAt d.raw 16).offset
  match ← s.glnRoot d with
  | .error f => .ok (.record f)
  | .ok raw =>
    let root := rootAt raw
    match ← s.glnVec d root with
    | .error f => .ok (.record f)
    | .ok vraw =>
      let sh := d.at 42 2
      if (vecAt vraw).shards ≤ sh then .ok (.other ⟨eRange, 2, root.vec⟩)
      else
        match ← s.glnShard d root sh with
        | .error f => .ok (.record f)
        | .ok eraw =>
          let src := shardAt eraw 0
          let entry := root.vec + 64 + 16 * sh
          if src.node ≠ s.me then .ok (.other ⟨eRange, 2, entry⟩)
          else if (optKind d.opt).any (fun k => k != root.kind) ∨ (d.unordered ∧ root.fmt ≠ 0) then .ok (.other ⟨eRange, 2, off⟩)
          else
            let _ ← s.glnPin d src entry
            .ok (.go [(0, raw), (1, vraw), (2, eraw)])

/-- The block headers (R255), after the table that `kept` holds. DESIGN CHOICE (log 112): a working buffer that is too large names the first
block. -/
def State.scatterBlocks (s : State) (d : Desc) (as : List Nat) (kept : List (Nat × List Byte)) : Res PlanEnd := do
  let bs ← gather (as.map (fun a => (s.engRead d (uGln (d.engine - 0x20)) a 64).map (fun r => (a, r))))
  let p := ({ d with plan := kept ++ bs }).planOf
  match blockFault p.root.dim (bs.map (fun x => (contribAt x.1 x.2, x.2))) [] 0 with
  | some a => .ok (.block ⟨eRange, 2, a⟩)
  | none => if s.atwBytes d.key.slice < p.buf then .ok (.other ⟨eRange, 2, as.headD 0⟩) else .ok (.go (kept ++ bs))

/-- Blocks in canonical order (R256). -/
def canonBlocks (bs : List Contrib) : List Contrib :=
  sortBy (fun a b => decide (a.step < b.step) || (a.step == b.step && decide (a.source ≤ b.source))) bs

/-- A contribution in the shard: row, block, entry. -/
structure Part where
  row : Nat
  blk : Contrib
  n : Nat
  deriving DecidableEq, Repr

/-- The contributions in the shard, in canonical order, and the bad rows met (R256). -/
def State.scatterList (s : State) (d : Desc) (p : Plan) : Res (List Part × Nat) := do
  let u := uGln (d.engine - 0x20)
  let one (b : Contrib) : Res (List (Nat × Nat)) :=
    if b.count = 0 then .ok []
    else (s.engRead d u (b.va + 64) (b.count * b.iw)).map (fun bs => (List.range b.count).map (fun n => (leAt bs (n * b.iw) b.iw, n)))
  let bl := canonBlocks p.blocks
  let xs ← gather (bl.map (fun b => (one b).map (fun l => l.map (fun x => ((b, x.1, x.2) : Contrib × Nat × Nat)))))
  let all := xs.flatMap id
  let mine := all.filter (fun x => idxClass p.root.rows x.1.iw x.2.1 == 0 && (p.vec.place x.2.1).1 == d.at 42 2)
  .ok (mine.map (fun x => { row := x.2.1, blk := x.1, n := x.2.2 }), (all.filter (fun x => idxClass p.root.rows x.1.iw x.2.1 == 2)).length)

/-- Gradient row of a contribution: its bytes. -/
def State.gradRow (s : State) (d : Desc) (x : Part) : Res (List Byte) :=
  let w := fmtBits x.blk.fmt / 8
  s.engRead d (uGln (d.engine - 0x20)) (x.blk.g0 + x.n * x.blk.dim * w) (x.blk.dim * w)

/-- The range of a gradient row. -/
def Desc.gradTouch (d : Desc) (x : Part) : Touch :=
  let n := x.blk.dim * (fmtBits x.blk.fmt / 8)
  ⟨uGln (d.engine - 0x20), x.blk.g0 + x.n * n, n, true⟩

/-- Ranges of the index lists of the blocks, in canonical order. -/
def Desc.indexTouches (d : Desc) (p : Plan) : List Touch :=
  ((canonBlocks p.blocks).filter (fun b => b.count != 0)).map (fun b => ⟨uGln (d.engine - 0x20), b.va + 64, b.count * b.iw, true⟩)

/-- One optimiser step (R257): new element values and new state values. -/
def optStep (opt : Nat) (par : Nat → Num) (dim : Nat) (w st g : List Num) : List Num × List Num :=
  let lr := par 48
  let a1 := par 52
  let a2 := par 56
  let a3 := par 60
  let c1 := par 64
  let c2 := par 68
  let at_ (l : List Num) (j : Nat) : Num := l.getD j .nan
  let js := List.range dim
  match opt with
  | 1 => (js.map (fun j => fma32 a1 (at_ g j) (at_ w j)), st)
  | 2 =>
    let m := js.map (fun j => fma32 a1 (at_ st j) (at_ g j))
    (js.map (fun j => fma32 lr.neg (at_ m j) (at_ w j)), m)
  | 3 =>
    let q := sumFp32 (g.map (fun x => rne32 (x.mul x)))
    let sv := rne32 ((at_ st 0).add (div32 q (Num.ofInt dim)))
    let den := rne32 ((sqrt32 sv).add a1)
    (js.map (fun j => fma32 lr.neg (div32 (at_ g j) den) (at_ w j)), [sv])
  | 4 =>
    let m := js.map (fun j => fma32 a1 (at_ st j) (rne32 ((rne32 (Num.one.add a1.neg)).mul (at_ g j))))
    let v := js.map (fun j => fma32 a2 (at_ st (dim + j)) (rne32 ((rne32 (Num.one.add a2.neg)).mul (rne32 ((at_ g j).mul (at_ g j))))))
    let den (j : Nat) := rne32 ((sqrt32 (rne32 ((at_ v j).mul c2))).add a3)
    (js.map (fun j => fma32 lr.neg (div32 (rne32 ((at_ m j).mul c1)) (den j)) (at_ w j)), m ++ v)
  | _ => (g, st)

/-- New bytes of a row and its state from its contributions in canonical order (R256, R257). -/
def applyRow (d : Desc) (root : Root) (row st : List Byte) (cs : List (Part × List Byte)) : List Byte × List Byte :=
  let dim := root.dim
  let par (o : Nat) : Num := f32 (d.at o 4)
  let vals (x : Part × List Byte) : List Num := vecVals x.1.blk.fmt x.2 [] dim
  if d.opt = 0 then
    match cs.getLast? with
    | none => (row, st)
    | some x => if x.1.blk.fmt = root.fmt then (x.2, st) else (packRaw root.fmt (plainQuant root.fmt (vals x)), st)
  else
    let g := (List.range dim).map (fun j => sumFp32 (cs.map (fun x => (vals x).getD j .nan)))
    let (w1, st1) := optStep d.opt par dim (vecVals root.fmt row [] dim) (vecVals 0 st [] (root.stBytes / 4)) g
    (packRaw root.fmt (plainQuant root.fmt w1), if d.opt = 1 then st else st1.flatMap enc32)

/-- Region offsets of a row and its state. -/
def Plan.rowAt (p : Plan) (r : Nat) : Nat := p.root.rowOff + (p.vec.place r).2 * p.root.stride
def Plan.stAt (p : Plan) (r : Nat) : Nat := p.root.stOff + (p.vec.place r).2 * p.root.stStride

def Plan.src (p : Plan) (s : State) : Src := { node := s.me, region := p.region, sel := 0, ver := 0 }

/-- A row and its state lie inside the shard region (R240). -/
def State.rowInside (s : State) (p : Plan) (r : Nat) : Bool :=
  s.regions.any (fun g => g.num == p.region && decide (p.rowAt r + p.root.rowBytes ≤ regionBytes g) &&
    decide (p.root.kind = 0 ∨ p.stAt r + p.root.stBytes ≤ regionBytes g))

/-- Another running update of the shard region, ordered where this one is not or the other way round, touches row `r`: the row's
values are undefined (R262). -/
def State.rowMixed (s : State) (d : Desc) (p : Plan) (r : Nat) : Bool :=
  s.descs.any (fun e => e.key != d.key && e.phase == .running && e.op == 0x29 && e.unordered != d.unordered &&
    e.work != 0 && e.planOf.region == p.region && (match s.scatterList e e.planOf with
      | .ok (xs, _) => xs.any (fun x => x.row == r)
      | .error _ => true))

/-- Update one row (R256). -/
def State.updateRow (s : State) (d : Desc) (p : Plan) (r : Nat) (cs : List (Part × List Byte)) : Res State := do
  check (s.rowInside p r) eRange 2 (p.rowAt r)
  let sb := p.root.stBytes
  let row ← s.glnRead d (p.src s) (p.rowAt r) p.root.rowBytes
  let st ← if sb = 0 then .ok [] else s.glnRead d (p.src s) (p.stAt r) sb
  let (row1, st1) := applyRow d p.root row st cs
  let wild := s.rowMixed d p r
  let s1 ← s.rgnPut wild p.region (p.rowAt r) row1
  if sb = 0 ∨ optKind d.opt = none then .ok s1 else s1.rgnPut wild p.region (p.stAt r) st1

/-- Add element `j` of one entry with the Tallyman (R259). -/
def State.addElem (s : State) (d : Desc) (p : Plan) (x : Part) (bs : List Byte) (j : Nat) : Res State :=
  let base := ((s.region p.region).map (·.base)).getD 0
  let g := (vecVals x.blk.fmt bs [] p.root.dim).getD j .nan
  (s.homeAtomic (d.by s) 0 4 (base + p.rowAt x.row + 4 * j) (enc32 (rne32 ((f32 (d.at 52 4)).mul g)))).map (·.1)

/-- Free bytes for a row that `s` finds mixed (R262). -/
def State.freeRow (s t : State) (d : Desc) (p : Plan) (r : Nat) : Res State :=
  if s.rowMixed d p r then t.rgnPut true p.region (p.rowAt r) (List.replicate p.root.rowBytes 0#8) else .ok t

/-- Add one entry, element by element (R259). -/
def State.addEntry (s : State) (d : Desc) (p : Plan) (x : Part) (bs : List Byte) : Res State := do
  check (s.rowInside p x.row) eRange 2 (p.rowAt x.row)
  let t ← (List.range p.root.dim).foldlM (fun (t : State) j => t.addElem d p x bs j) s
  s.freeRow t d p x.row

/-- The parts of each distinct row, rows ascending. -/
def rowGroups (xs : List Part) : List (Nat × List Part) :=
  ((sortBy (fun a b => decide (a ≤ b)) (xs.map (·.row))).eraseDups).map (fun r => (r, xs.filter (fun x => x.row == r)))

/-- A list in an order that the `n`-th free numbers choose. -/
def freeOrder {α : Type} (n : Nat) (xs : List α) : List α :=
  (sortBy (fun a b => decide (a.1 ≤ b.1)) (xs.zipIdx.map (fun x => (Config.freeNat (n + x.2), x.1)))).map (·.2)

/-- One unit of an update: a row with its contributions, or one entry when the update is unordered (R256, R259). -/
def scatterUnit (d : Desc) (p : Plan) (us : List (Nat × List Part)) (k : Nat) (e : Eff) : Res Eff := phased 3 (do
  match us[k]? with
  | none => .ok e
  | some (r, ps) =>
    let cs ← gather (ps.map (fun x => (e.s.gradRow d x).map (fun b => (x, b))))
    let t ← if d.unordered then (match cs with | (x, b) :: _ => e.s.addEntry d p x b | [] => .ok e.s) else e.s.updateRow d p r cs
    .ok { e with s := t })

/-- The adds of the entries that were issued, in a free order (R259). -/
def State.freeAdds (s : State) (d : Desc) (p : Plan) (xs : List Part) : Res State := do
  let cs ← gather (xs.map (fun x => (s.gradRow d x).map (fun b => (x, b))))
  let adds := cs.flatMap (fun c => (List.range p.root.dim).map (fun j => (c, j)))
  let t ← (freeOrder s.fresh adds).foldlM (fun (t : State) a => t.addElem d p a.1.1 a.1.2 a.2) { s with fresh := s.fresh + adds.length }
  (xs.map (·.row)).eraseDups.foldlM (fun (t : State) r => s.freeRow t d p r) t

/-- The units in order. Unordered adds are issued in canonical order and applied in any (R259), which shows when two of those
issued meet in one row. -/
def State.scatterUnits (s : State) (d : Desc) (p : Plan) (us : List (Nat × List Part)) : Res (Eff × Nat × Option Fail) := do
  let x ← runUnits (scatterUnit d p us) us.length 0 { s := s, out := [] }
  let issued := us.take x.2.1
  if d.unordered && anyPair (fun a b => a.1 == b.1) issued then
    (s.freeAdds d p (issued.flatMap (·.2))).map (fun t => ({ s := t, out := [] }, x.2))
  else .ok x

/-- The update itself. -/
def State.scatterRun (s : State) (d : Desc) (p : Plan) : Res Done := do
  let (xs, bad) ← phased 2 (s.scatterList d p)
  match earlyWaits (xs.map (fun x => phased 3 (s.gradRow d x))) with
  | n :: ns => .error (.wait (n :: ns))
  | [] =>
    let us := if d.unordered then xs.map (fun x => (x.row, [x])) else rowGroups xs
    let (e, k, f) ← s.scatterUnits d p us
    let touch (x : List (Nat × List Part)) : List Touch := x.flatMap (fun y => y.2.map d.gradTouch)
    let s1 := (((e.s.addWrap f_GLN_APPLIED_APPLIED k).addSatAt f_GLN_ERR_BAD_ROWS 0 bad).obs 4 (d.engine - 0x20) 1 d.key.slice k).noteTouches
      d.key.slice (touch (us.take k))
    match f with
    | some f => .ok { eff := { e with s := s1 }, status := f.status, kind := f.kind, detail := f.detail, progress := k, tried := touch ((us.drop k).take 1) }
    | none => .ok { eff := { e with s := s1 }, status := stOk, kind := 0, detail := 0, progress := k }

/-- Queue of a shard region (R258), kept apart from the append queues. -/
def shardQueue (region : Nat) : Nat := 2 ^ 20 + region

/-- A first phase that failed ends the descriptor (R255); `ts` are the ranges that it has read. -/
def State.planFail (s : State) (d : Desc) (ts : List Touch) (f : Fail) : State :=
  s.attempt d ts (.ok { eff := { s := s, out := [] }, status := f.status, kind := f.kind, detail := f.detail, progress := 0 })

/-- The update of a plan, one attempt; its place in the region's queue ends with it (R258). -/
def State.scatterApply (s : State) (d : Desc) : State :=
  let p := d.planOf
  let s1 := s.attempt d (d.indexTouches p) (s.scatterRun d p)
  match s1.desc d.key with
  | some x => if x.phase == .ended then { s1 with queues := del s1.queues (fun q => q.key == d.key) } else s1
  | none => s1

/-- The range of the list that the first phase reads. -/
def Desc.listTouch (d : Desc) : List Touch := if d.at 32 8 = 0 then [] else [⟨uGln (d.engine - 0x20), d.at 32 8, 8 * d.at 40 2, true⟩]

/-- And of the block headers. -/
def Desc.headTouch (d : Desc) (as : List Nat) : List Touch := as.map (fun a => ⟨uGln (d.engine - 0x20), a, 64, true⟩)

/-- The plan stands: the update takes its working buffer once it is free, and its place in the region's queue. -/
def State.scatterStart (s : State) (d : Desc) (ts : List Touch) (kept : List (Nat × List Byte)) : State :=
  let d1 := { d with plan := kept, work := 1 }
  let w := d1.planOf.buf
  if s.atwBytes d.key.slice < s.bufUsed d.key.slice + w then s
  else
    let t1 := (s.noteTouches d.key.slice ts).setDesc { d1 with buf := w }
    if d.unordered then t1 else { t1 with queues := t1.queues ++ [{ what := shardQueue d1.planOf.region, key := d.key }] }

/-- The first phase (R254, R255): the list, the table, the block headers. -/
def State.scatterPlan (s : State) (d : Desc) : State :=
  let ts := d.listTouch
  match phased 1 (s.blockAddrs d) with
  | .error e => s.attempt d ts (.error e)
  | .ok (.error a) => (s.setDesc { d with started := false, engine := 0xF0 }).endDesc d.key eAlign 2 a 0
  | .ok (.ok as) =>
    match phased 1 (s.scatterTable d) with
    | .error e => s.attempt d ts (.error e)
    | .ok (.record f) => s.attempt d ts (.ok (s.recordReject f))
    | .ok (.block f) | .ok (.other f) => s.planFail d ts f
    | .ok (.go kept) =>
      let ts := ts ++ d.headTouch as
      match phased 1 (s.scatterBlocks d as kept) with
      | .error e => s.attempt d ts (.error e)
      | .ok (.block f) => (s.incSat f_GLN_ERR_BLOCK_REJECTS).planFail d ts f
      | .ok (.record f) | .ok (.other f) => s.planFail d ts f
      | .ok (.go all) => s.scatterStart d ts all

/-- `SCATTER_UPDATE` (R252 to R259): the first phase, whose reads stand, then the place in the region's queue, then the update. -/
def execScatterUpdate (slice ring idx : Nat) (s : State) : Host.Outcome State Fault Refusal :=
  .next (s.whenAlive (s.onRunning ⟨slice, ring, idx⟩ 0x29 (fun t d =>
    if d.work ≠ 0 then
      if d.unordered then t.scatterApply d
      else match t.queues.find? (fun q => q.what == shardQueue d.planOf.region) with
        | some q => if q.key = d.key then t.scatterApply d else t
        | none => t
    else t.scatterPlan d)))

/-! ### TABLE_PUBLISH (R247 to R250) -/

/-- Check 4 of R248: the root and the new vector with its entries. -/
def State.publishRecords (s : State) (g : Region) (off vec : Nat) : Res (Except Fail Root) := do
  let p : Pin := { region := g.num, version := none, map := [] }
  if off % 256 ≠ 0 ∨ regionBytes g < off + 256 then .ok (.error (recordFault off))
  else
    let raw ← s.verRead p off 256
    if !rootOk raw then .ok (.error (recordFault off))
    else if vec % 64 ≠ 0 ∨ regionBytes g < vec + 64 then .ok (.error (recordFault vec))
    else
      let h ← s.verRead p vec 64
      let v := vecAt h
      if !vecOk h (rootAt raw).rows ∨ regionBytes g < vec + 64 + 16 * v.shards then .ok (.error (recordFault vec))
      else
        let es ← s.verRead p (vec + 64) (16 * v.shards)
        .ok (if (List.range v.shards).all (fun i => shardOk ((es.drop (16 * i)).take 16)) then .ok (rootAt raw) else .error (recordFault vec))

/-- `TABLE_PUBLISH` (R248): a check that fails changes nothing and reports `STARTED` 0. -/
def execTablePublish (slice ring idx : Nat) (s : State) : Host.Outcome State Fault Refusal :=
  .next (s.whenAlive (s.homeRun ⟨slice, ring, idx⟩ 0x2A (fun _ => true) (fun t d =>
    let ref := rrefAt d.raw 16
    let (n, sl) := t.issuer d
    match t.region ref.region with
    | none => t.endHome d (recordFault ref.offset) 0 false
    | some g =>
      let t0 := t.bankEngine d.key g.base
      match checks [(!t.revokedNamed n sl false g.num, ⟨eRevoked, 2, ref.offset⟩), (t.permitted n sl g.owner, f3 ePerm 16)] with
      | .error (.err f) => t0.endHome d f 0 false
      | _ =>
        match t.publishRecords g ref.offset (d.at 40 8) with
        | .error (.wait ns) => t0.attempt d [] (.error (.wait ns))
        | .error (.err f) => t0.endHome d f 0 true
        | .ok (.error f) => (t0.incSat f_GLN_ERR_RECORD_REJECTS).endHome d f 0 false
        | .ok (.ok root) =>
          match checks [(root.version == d.at 32 4, ⟨eVersion, 5, root.version⟩), (decide (d.at 32 4 < d.at 36 4), ⟨eVersion, 5, root.version⟩)] with
          | .error (.err f) => t0.endHome d f 0 false
          | _ =>
            let put1 (u : State) (o v : Nat) (w : Nat) : Res State := u.rgnWrite g.num (ref.offset + o) (leBytes w v)
            match (do
              let a ← put1 t0 48 (d.at 36 4) 4
              let b ← put1 a 56 (d.at 40 8) 8
              put1 b 64 t.now 8) with
            | .ok u => u.endHome d ⟨stOk, 0, 0⟩ 1 true
            | .error (.wait ns) => t0.attempt d [] (.error (.wait ns))
            | .error (.err f) => t0.endHome d f 0 true)))

end Sys2Proof.Machine
end

