-- ==== Sys2Proof/Machine/Invalidate.lean ====
section
/-! DEFINITION. Withdrawing translations (R329 to R335): `INVAL` and the writes of `XL_ROOT`; the decay of the access counters
(R336) and the registers of the migration ring (R342 to R344). -/

namespace Sys2Proof.Machine

/-- Checks of R330. -/
def State.invalChecks (s : State) (d : Desc) : List Chk :=
  let all := bit (d.at 34 1) 0
  let base := d.at 16 8
  let len := d.at 24 8
  [ck 1 (decide (d.at 34 1 < 2)) eFormat 34, ckZero d.raw 35 29, ck 1 (decide (d.at 33 1 ≤ 1)) eFormat 33,
   ck 1 (!all || base == 0) eFormat 16, ck 1 (!all || len == 0) eFormat 24, ck 4 (d.key.slice == 0) ePerm 0,
   ck 5 (s.configured (d.at 32 1)) eRange 32, ck 5 (all || decide (4096 ≤ len ∧ len ≤ 2 ^ 57)) eRange 24,
   (5, check (all || decide (base + len ≤ 2 ^ 57)) eRange 2 base), ckAlign base 4096,
   ck 6 (len % 4096 == 0) eAlign 24]

/-- Start an invalidation: the covered entries leave every cache, and the accesses made through one are noted: requests on the fabric,
client transactions, and accesses that wait at this home. With `abort` a running descriptor that holds one stops, and one that only waits
for the answers of its writes ends at once with the units that are done (R332). -/
def State.startInval (s : State) (slice base len : Nat) (all abort : Bool) (key : Option DKey) : State :=
  let hit (pages : List (Nat × Nat)) : Bool := pages.any (fun p => all || overlap p.1 p.2 base len)
  let reqs := s.outReqs.filter (fun o => o.pkt.slice == slice && hit o.pages)
  let sent (k : DKey) : Bool := reqs.any (fun o => match o.who with | .desc x _ => x == k | _ => false)
  let mine := s.descs.filter (fun d => d.key.slice == slice && key != some d.key && d.stop.isNone)
  let waits := (mine.filter (fun d => d.phase == .running && hit d.pages)).map (·.key)
  let holders := (mine.filter (fun d => d.phase == .running && (hit d.pages || sent d.key))).map (·.key)
  let owing := (mine.filter (fun d => d.phase == .ended && decide (d.status < 0x10) && sent d.key)).map (·.key)
  let v : Inval := {
    slice := slice, abort := abort, key := key, ended := 0, victims := if abort then holders ++ owing else [], tags := reqs.map (·.pkt.tag),
    txns := (s.txns.filter (fun t => t.slice == slice && hit t.pages)).map (·.id)
    accs := ((s.fillQ ++ s.bankQ).filter (fun w => w.acc.slice == slice && hit w.acc.pages)).map (·.acc)
    waits := if abort then [] else waits
    cohs := s.cohWaiting.filter (fun r => match r with
      | .client port p => s.bound port == some slice && (all || overlap (p.addr / 4096 * 4096) 4096 base len || hit (s.leafRanges (uPort port) slice p.addr 1))
      | _ => false) }
  let s1 := s.dropXlate slice base len all
  let s2 := { s1 with
    invals := s1.invals ++ [v],
    descs := s1.descs.map (fun (d : Desc) =>
      if abort && holders.contains d.key then { d with stop := some (eAborted, 5) }
      else if abort && owing.contains d.key then { d with status := eAborted, kind := 8, detail := 5, progress := s.doneUnits d }
      else d) }
  (s2.setFld f_XL_INVAL_STAT_IN_FLIGHT s2.invals.length).reapInvals

/-- `INVAL` (R331, R332): it starts once, and completes when every access it covers has ended. -/
def execInval (slice ring idx : Nat) (s : State) : Host.Outcome State Fault Refusal :=
  .next (s.whenAlive (s.onRunning ⟨slice, ring, idx⟩ 0x3A (fun t d =>
    if t.invals.any (fun v => v.key == some d.key) then t.reapInvals
    else t.startInval (d.at 32 1) (d.at 16 8) (d.at 24 8) (bit (d.at 34 1) 0) (d.at 33 1 == 1) (some d.key))))

/-- A write of `XL_ROOT` (R335). -/
def State.rootWrite (s : State) (slice : Nat) (w : Word) : State :=
  let valid := f_XL_ROOT_VALID.get w
  let root := f_XL_ROOT_ROOT.get w
  let was := s.fldAt f_XL_ROOT_VALID slice
  if 64 ≤ slice then s
  else if s.fldAt f_XL_ROOT_BUSY slice = 1 ∨ (valid = 1 ∧ !s.withinPt (root * 2 ^ 14) (xlTable 4)) ∨
      (was = 1 ∧ valid = 1 ∧ root ≠ s.fldAt f_XL_ROOT_ROOT slice) then s.incSat f_XL_ERR_ROOT_REJECTS
  else
    let s1 := (s.setFldAt f_XL_ROOT_ROOT slice root).setFldAt f_XL_ROOT_VALID slice valid
    if was = 1 ∧ valid = 0 then (s1.setFldAt f_XL_ROOT_BUSY slice 1).startInval slice 0 0 true true none else s1

/-- `XL_ROOT_WRITE` (R335, R346). -/
def execXlRootWrite (slice : Nat) (word : Word) (s : State) : Host.Outcome State Fault Refusal := .next (s.whenAlive (s.rootWrite slice word))

/-- `COUNTER_DECAY` (R336): every count is halved. -/
def execCounterDecay (s : State) : Host.Outcome State Fault Refusal :=
  .next (s.whenAlive { s with xlCounts := s.xlCounts.map (fun (c : XlCount) => { c with host := c.host / 2, dev := c.dev / 2 }) })

/-- A migration ring of 2^`log2` entries at `a` is aligned to its size and lies wholly in the scratchpad window or in the direct part outside
the pool (R343). -/
def State.migRingOk (s : State) (a log2 : Nat) : Bool :=
  let n := 32 * 2 ^ log2
  a % n == 0 && s.ringFits a n

/-- Entries of the migration ring after a write of `LOG2`, as a power of two. -/
def State.migLog (s : State) (v : Nat) : Nat := if 6 ≤ v ∧ v ≤ 16 then v else s.fld f_XL_MIG_RING_LOG2

/-- A write of `XL_MIG_RING` (R343). -/
def State.migRingWrite (s : State) (w : Word) : State :=
  if s.fld f_XL_MIG_CTL_ENABLE = 1 then s
  else ((s.plainWrite 0x80028 w (fun n v => if n = "LOG2" then decide (6 ≤ v ∧ v ≤ 16)
      else s.migRingOk (v * 2048) (s.migLog (f_XL_MIG_RING_LOG2.get w)))).setFld f_XL_MIG_IDX_PROD 0).setFld f_XL_MIG_IDX_CONS 0

/-- A consumer value that lies from the last one to the producer value (R338, R527, R598). -/
def consOk (old new prod : Nat) : Bool := decide (sub32 new old ≤ sub32 prod old)

/-- A write of `XL_MIG_IDX` (R338, R344). -/
def State.migIdxWrite (s : State) (w : Word) : State :=
  let c := f_XL_MIG_IDX_CONS.get w
  if consOk (s.fld f_XL_MIG_IDX_CONS) c (s.fld f_XL_MIG_IDX_PROD) then s.setFld f_XL_MIG_IDX_CONS c else s

/-- `XL_MIG_RING_WRITE` (R343). -/
def execXlMigRingWrite (word : Word) (s : State) : Host.Outcome State Fault Refusal := .next (s.whenAlive (s.migRingWrite word))

/-- `XL_MIG_IDX_WRITE` (R338). -/
def execXlMigIdxWrite (word : Word) (s : State) : Host.Outcome State Fault Refusal := .next (s.whenAlive (s.migIdxWrite word))

end Sys2Proof.Machine
end

