-- ==== Sys2Proof/Machine/Contain.lean ====
section
/-! DEFINITION. Containment: the abort of a job (R534 to R539), the kill of a Kellija port (R464 to R466, R642), self-fencing
(R438), reports to the leader (R439), and the commands that do nothing else. -/

namespace Sys2Proof.Machine

/-! ### Jobs -/

def FMap.job (m : FMap) (num : Nat) : Option Job := m.jobs.find? (fun j => j.num == num)

/-- Member nodes in ascending order (R535). -/
def Job.nodes (j : Job) : List Nat := sortBy (fun a b => decide (a ≤ b)) (j.slices.map (·.node)).eraseDups

/-- Slices of this ZV9 in a job of the current map. -/
def State.mySlices (s : State) (job : Nat) : List Nat :=
  ((s.mapCur.bind (fun m => m.job job)).map (fun j => (j.slices.filter (fun e => e.node == s.me)).map (·.slice))).getD []

/-! ### Job abort -/

/-- Stop every running descriptor of a slice with an abort cause (R536 steps 2 and 3). -/
def State.stopSlice (s : State) (slice : Nat) (f : Fail) : State :=
  forL (s.descs.filter (fun d => d.key.slice == slice)) s (fun d t => t.stopDesc d f)

/-- The abort of a slice from step 1 of R536. -/
def State.abortSlice (s : State) (job origin trigger slice : Nat) : State :=
  let s1 := (((s.setFldAt f_FLT_SLICE_JOB_STATE slice 1).setFldAt f_FLT_SLICE_JOB_TRIGGER slice trigger).setFldAt
    f_FLT_SLICE_JOB_ORIGIN slice origin).setFldAt f_FLT_SLICE_JOB_JOB slice job
  (s1.stopSlice slice (abortFail 1)).reapStop slice

/-- A member takes an abort (R536, R539). -/
def State.takeAbort (s : State) (job origin trigger id : Nat) : State :=
  let a : AbortId := { job := job, origin := origin, id := id }
  let sl := s.mySlices job
  if sl = [] ∨ s.abortIds.contains a then s
  else
    let others := s.abortIds.filter (fun x => x.job != job)
    let own := s.abortIds.filter (fun x => x.job == job)
    let s1 := { s with abortIds := others ++ (own ++ [a]).drop (own.length + 1 - 16) }
    if sl.any (fun x => s.fldAt f_FLT_SLICE_JOB_STATE x == 1 || s.fldAt f_FLT_SLICE_JOB_STATE x == 2) then
      let s2 := { s1.incSat f_FLT_ABORT_STAT_MERGED with mergedAborts := s1.mergedAborts ++ [(a, trigger)] }
      forL sl s2 (fun x t =>
        let t1 := t.stopSlice x (abortFail 1)
        (if t1.fldAt f_FLT_SLICE_JOB_STATE x = 2 then t1.setFldAt f_FLT_SLICE_JOB_STATE x 1 else t1).reapStop x)
    else forL sl s1 (fun x t => t.abortSlice job origin trigger x)

/-- The 32 bytes of an `ABORT` (R535). -/
def State.abortNotice (s : State) (job trigger id detail : Nat) : List Byte :=
  leBytes 4 job ++ leBytes 2 s.me ++ [byte trigger, 0#8] ++ leBytes 4 id ++ leBytes 4 s.epoch ++ leBytes 8 detail ++ leBytes 8 s.now

/-- This ZV9 starts the abort of a job (R535). -/
def State.originAbort (s : State) (job trigger detail : Nat) : State :=
  match s.mapCur.bind (fun m => (m.job job).map (fun j => (m, j))) with
  | none => s
  | some (m, j) =>
    let id := (s.fld f_FLT_ABORT_STAT_STARTED + 1) % two32
    let s1 := s.setFld f_FLT_ABORT_STAT_STARTED id
    let dests := (j.nodes.filter (fun n => n != s.me)) ++ (if j.nodes.contains m.leader || m.leader == s.me then [] else [m.leader])
    let s2 := forL dests s1 (fun n t => t.sendQf (t.mkQ n 0x33 6 (s.abortNotice job trigger id detail)))
    s2.takeAbort job s.me trigger id

/-- What a thread carries over is of a slice: the one bound to its port, or the one that was when it failed. -/
def State.ofSlice (s : State) (slice : Nat) (t : Thread) : Bool := s.bound t.port == some slice || t.slice == some slice

/-- A slice of an aborted job becomes quiet (R538); the failure states of R364 and R422 end for its threads, and a merged
abort starts again once every slice of its job is quiet (R539). -/
def State.sliceQuiet (s : State) (slice : Nat) : State :=
  if 64 ≤ slice ∨ s.fldAt f_FLT_SLICE_JOB_STATE slice ≠ 2 ∨
     s.abandoned.any (fun a => a.slice == slice && s.outReqs.any (fun o => o.pkt.tag == a.tag)) then s
  else
    let s1 := { s.setFldAt f_FLT_SLICE_JOB_STATE slice 3 with
      abandoned := del s.abandoned (fun a => a.slice == slice),
      threads := del s.threads (fun t => s.ofSlice slice t) }
    let job := s.fldAt f_FLT_SLICE_JOB_JOB slice
    let sl := s1.mySlices job
    if sl.all (fun x => s1.fldAt f_FLT_SLICE_JOB_STATE x == 3 || s1.fldAt f_FLT_SLICE_JOB_STATE x == 0) then
      match s1.mergedAborts.find? (fun a => a.1.job == job) with
      | none => s1
      | some (a, trigger) =>
        let s2 := { s1 with mergedAborts := del s1.mergedAborts (fun x => x.1.job == job) }
        forL sl s2 (fun x t => t.abortSlice job a.origin trigger x)
    else s1

/-- `SLICE_QUIET` (R538). -/
def execSliceQuiet (slice : Nat) (s : State) : Host.Outcome State Fault Refusal := .next (s.whenAlive (s.sliceQuiet slice))

/-- A write of `FLT_JOB_ABORT` (R534, R539, R552). -/
def State.jobAbortWrite (s : State) (w : Word) : State :=
  let job := f_FLT_JOB_ABORT_JOB.get w
  if f_FLT_JOB_ABORT_START.get w = 0 then s
  else if s.mySlices job = [] then s.incSat f_FLT_ABORT_STAT_IGNORED
  else s.originAbort job 3 0

/-- `JOB_ABORT` (R534 trigger 3). -/
def execJobAbort (word : Word) (s : State) : Host.Outcome State Fault Refusal := .next (s.whenAlive (s.jobAbortWrite word))

/-! ### Reports to the leader (R439) -/

/-- Tell the leader; a leading ZV9 keeps the report for its own next beat. -/
def State.tellLeader (s : State) (r : Report) : State :=
  if s.leader then { s with keeper := { s.keeper with reports := s.keeper.reports ++ [(s.me, r)] } }
  else match s.otherLeader with
    | some l => s.sendMap l (.report r)
    | none => s

/-- Mask of the configured slices. -/
def State.configMask (s : State) : BitVec 64 := BitVec.ofNat 64 (maskOf 64 s.configured)

/-- A Kellija port that a job may bind: attached, up, not `MGMT`, a caching one of version 3.0 or later (R502 check 3). -/
def State.bindablePort (s : State) (k : Nat) : Bool :=
  s.klUp k && s.fldAt f_KL_PORT_CTL_MGMT k == 0 && (s.fldAt f_KL_PORT_CLASS k == 0 || decide (3 ≤ s.fldAt f_KL_PORT_VER_MAJOR k))

/-- The ports of this ZV9 that a job may bind. -/
def State.portMask (s : State) : BitVec 4 := BitVec.ofNat 4 (maskOf 4 s.bindablePort)

/-- The ports of this ZV9 with a caching client (R378). -/
def State.cachingMask (s : State) : BitVec 4 := BitVec.ofNat 4 (maskOf 4 s.klCaches)

/-- A port change is reported to the leader (R439): the ports that a job may bind, and those with caching clients, when they are others than
in `old`. -/
def State.tellPorts (s old : State) : State :=
  if s.portMask = old.portMask ∧ s.cachingMask = old.cachingMask then s else s.tellLeader (.ports s.me s.portMask s.cachingMask)

/-! ### The kill of a Kellija port -/

/-- Requests of the client that are not yet applied or forwarded are discarded; responses to forwarded ones find nothing (R466 step 2). -/
def State.dropClientWork (s : State) (k : Nat) : State :=
  let mine (id : Nat) : Bool := s.txns.any (fun t => t.id == id && t.port == k)
  let ofPort (w : Waiting) : Bool := match w.acc.org with
    | .txn id _ => mine id
    | .nc (.client p _) => p == k
    | _ => false
  { s with
    held := del s.held (fun h => h.port == k)
    rx := del s.rx (fun x => x.1 == k)
    queue := del s.queue (fun q => q.out == k)
    links := del s.links (fun l => l.port == k)
    -- a line for which it waited goes on for no one
    dir := s.dir.map (fun (e : DirEntry) => match e.cause with
      | .req (.client p _) _ _ _ _ => if p = k then { e with cause := .access true } else e
      | _ => e)
    bankQ := del s.bankQ ofPort
    fillQ := del s.fillQ ofPort
    outReqs := del s.outReqs (fun o => match o.who with
      | .txn id _ => mine id
      | .coh p _ => p == k
      | _ => false)
    klOuts := del s.klOuts (fun o => o.port == k)
    threads := del s.threads (fun t => t.port == k)
    txns := del s.txns (fun t => t.port == k) }

/-- Answer every `INV` with `INV_ACK` and every recall with a poisoned `RECALL_ACK` for the client (R466 step 3). -/
def State.answerOwed (s : State) (k : Nat) : State :=
  let lines := s.dir.filter (fun e => e.awaiting.contains (s.me, k))
  let s1 := forL lines s (fun e t => t.answered e.line (s.me, k) none true true)
  let s2 := ({ s1 with sweeps := s1.sweeps.map (fun (w : Sweep) => { w with awaiting := w.awaiting.filter (fun x => x.2 != (s.me, k)) }) }).pumpAsks
  let owed := s2.cohOwed.filter (fun x => x.1 == k)
  let s3 := forL owed s2 (fun x t =>
    if x.2.typ = 0x13 then t.respond x.2 0x1D 1 0 [] false else t.respond x.2 0x1E 1 0 [] true)
  (({ s3 with cohOwed := del s3.cohOwed (fun x => x.1 == k) }).reapSweeps).finishHomes

/-- Rings in the client's memory: their descriptors end with cause 6 and they fault (R466 step 4). -/
def State.faultRingsOf (s : State) (k : Nat) : State :=
  forL (s.rings.filter (fun r => r.loc == 1 && r.port == k)) s (fun r t =>
    (forL (t.inFlight r) t (fun d u => u.stopDesc d (abortFail 6))).faultRing r.slice r.num |>.ringAnswered r.slice r.num)

/-- A port has a client to kill. -/
def State.killable (s : State) (k : Nat) : Bool := decide (k < 4) && (s.klClient k).isSome

/-- The kill of a port that has a client (R466), but for the abort of its job. -/
def State.cutClient (s : State) (k cause : Nat) : State :=
  if !s.killable k then s
  else
    -- a write-back to the client that is not acknowledged has failed (R282)
    let s0 : State := forL s.klOuts s (fun o t => match o.why with
      | .writeback id dirty _ => if o.port = k then t.writebackFailed id dirty else t
      | _ => t)
    -- the 64 blocks that say so still go out
    let s1 : State := { s0.dropClientWork k with
      killed := s.killed ++ [(k, cause)], klMayTrain := s.klMayTrain.filter (· != k)
      links := del s0.links (fun l => l.port == k) ++ ((s0.links.filter (fun l => l.port == k)).map (fun (l : Link) =>
        { l with kills := 64, killPkt := some (.kl (mkKl 0x34 6 0 0 cause [])), txPart := none, again := none })) }
    let s2 := (s1.setFldAt f_KL_PORT_STATE k 4).setFldAt f_KL_PORT_KILL_CAUSE k cause
    let s3 := (s2.answerOwed k).faultRingsOf k
    let s4 := forL (s3.frames.filter (fun f => f.tier == 3 && f.port == k)) s3 (fun f t => t.lose f.id ePoison)
    let s5 := { s4 with klClients := del s4.klClients (fun c => c.port == k) }
    (((s5.incSatAt f_KL_PORT_ERR_KILLS k).raise (ev 0x12 (9 * 4096 + k) (k + 256 * cause))).tellLeader (.killed s.me k)).tellPorts s |>.retryFills.reapInvals

/-- The job of the slice bound to a port with a client; 0 where there is none. -/
def State.clientJob (s : State) (k : Nat) : Nat := if s.killable k then ((s.bound k).map s.jobNum).getD 0 else 0

/-- The kill of a port (R466); the job of its client aborts (R534 trigger 2). -/
def State.killPort (s : State) (k cause : Nat) : State :=
  let t := s.cutClient k cause
  if s.clientJob k = 0 then t else t.originAbort (s.clientJob k) 2 k

/-- A write of `KL_PORT_CTL.KILL` (R465 cause 3, R642). -/
def State.killWrite (s : State) (k : Nat) : State :=
  if 4 ≤ k then s
  else if s.klUp k then s.killPort k 3
  else
    { (((s.setFldAt f_KL_PORT_KILL_CAUSE k 3).setFldAt f_KL_PORT_STATE k 4).incSatAt f_KL_PORT_ERR_KILLS k) with
      links := del s.links (fun l => l.port == k), klMayTrain := s.klMayTrain.filter (· != k) }

/-- `KL_PORT_KILL`: slice 0 writes `KL_PORT_CTL.KILL` (R465 cause 3, R642). -/
def execKlPortKill (port : Nat) (s : State) : Host.Outcome State Fault Refusal := .next (s.whenAlive (s.killWrite port))

/-- `KL_HEARTBEAT_MISS`: eight consecutive heartbeats of the client missed (R465 cause 5). -/
def execKlHeartbeatMiss (port : Nat) (s : State) : Host.Outcome State Fault Refusal := .next (s.whenAlive (s.killPort port 5))

/-- `KL_RETRAIN_TIMER`: 100 ms have passed since the kill (R467). -/
def execKlRetrainTimer (port : Nat) (s : State) : Host.Outcome State Fault Refusal :=
  .next (s.whenAlive (if 4 ≤ port ∨ s.fldAt f_KL_PORT_STATE port ≠ 4 ∨ s.klMayTrain.contains port then s
    else { s with klMayTrain := s.klMayTrain ++ [port] }))

/-- A response or coherence answer of a client that matches nothing outstanding; the sixteenth within 1 ms kills the port
(R465 cause 6). -/
def State.unmatched (s : State) (k : Nat) : State :=
  let recent := (s.klUnmatched.filter (fun x => x.1 != k || decide (s.now < x.2 + 1800000))) ++ [(k, s.now)]
  if 16 ≤ (recent.filter (fun x => x.1 == k)).length then ({ s with klUnmatched := del recent (fun x => x.1 == k) }).killPort k 6
  else { s with klUnmatched := recent }

/-! ### Self-fencing (R437, R438) -/

/-- This ZV9 is fenced; `epoch` is the epoch that fenced it. Its running descriptors end with `E_FENCED` before the jobs of the killed
clients abort. -/
def State.fenceSelf (s : State) (epoch : Nat) : State :=
  if s.fenced then s
  else
    let s1 := { s.setFld f_QF_STATE_FENCED 1 with fenceEpoch := epoch }
    let s2 := (s1.setFld f_QF_STATE_LEADER 0).raise (ev 0x17 0 s.epoch)
    let s3 := forN 4 s2 (fun k t => t.cutClient k 1)
    let s4 := forL s3.descs s3 (fun d t => t.stopDesc d s3.fencedFail)
    forN 4 s4 (fun k t => if s2.clientJob k = 0 then t else t.originAbort (s2.clientJob k) 2 k)

/-- `SELF_FENCE_TIMEOUT` (R437): no `BEAT` for 50 ms. -/
def execSelfFenceTimeout (s : State) : Host.Outcome State Fault Refusal :=
  .next (s.whenAlive (if s.flag f_QF_STATE_FORMED then s.fenceSelf s.epoch else s))

end Sys2Proof.Machine
end

