-- ==== Sys2Proof/Machine/Links.lean ====
section
/-! DEFINITION. Link ports (R401 to R407, R431, R436, R449 to R454): training, link blocks in both directions, replay, credits and
arbitration (R413, R479, R484, R485), the mirror (R486, R487), heartbeats, ports that go down, link-up records. Commands that
serve both kinds of port number it as R487 does: 0 to 3 Kellija, 4 to 11 Quaril. -/

namespace Sys2Proof.Machine

/-! ### The mirror (R486, R487) -/

/-- Count a packet at a port, direction 0 in or 1 out, and copy it when it is sampled. -/
def State.mirrorPkt (s : State) (port dir : Nat) (p : Pkt) : State :=
  if s.fldAt (if dir = 0 then f_STORE_MIRROR_IN else f_STORE_MIRROR_OUT) port = 0 ∨ !bit (s.fldAt f_STORE_MIRROR_CLASS_MASK port) p.tc then s
  else
    let key := 2 * port + dir
    let (c0, n0) := look (0, 0) s.mirrorCnt key
    let c := c0 + 1
    let n := 2 ^ s.fldAt f_STORE_MIRROR_LOG2_N port
    let hit := c % n = n - 1
    let s1 := { s with mirrorCnt := put (fun _ => (0, 0)) s.mirrorCnt key [(c, if hit then n0 + 1 else n0)] }
    if !hit then s1
    else
      let s2 := s1.addWrap f_STORE_MIRROR_STAT_SAMPLED 1
      if 4096 ≤ s2.mirror.length then s2.incSat f_STORE_MIRROR_STAT_DROPS
      else
        let bs := p.bytes
        let m : MirrorEnt := {
          port := port, dir := dir, tc := p.tc, vl := p.vl, trunc := decide (128 < bs.length), len := bs.length, seq := n0, stamp := s.now,
          bytes := bs.take 128 }
        { s2 with mirror := s2.mirror ++ [m] }

/-! ### Links and ports -/

/-- A link that has just come up: credits arrive from the peer (R479). -/
def freshLink (port dev : Nat) : Link :=
  { port := port, step := 0, txSeq := 0, replay := [], rxSeq := 0, fails := 0, misses := 0, credits := [], owed := [], peerDev := dev }

/-- The port is up. -/
def State.portUp (s : State) (port : Nat) : Bool := if port < 4 then s.klUp port else decide (port < 12) && s.qfUp (port - 4)

/-- The field of an allotment: row of `STORE_LIMIT`, class (R478, R480). -/
def limitFld (tc : Nat) : Fld := ⟨if tc < 4 then 0xC1000 else 0xC1008, 0x10, 16 * (tc % 4), 16⟩

def State.allotment (s : State) (row tc : Nat) : Nat := s.fldAt (limitFld tc) row

/-- Row of `STORE_LIMIT` of an input and lane (R478, R496). -/
def rowOf (input vl : Nat) : Nat := if input < 4 then input else if input < 12 then 4 + 6 * (input - 4) + vl else 52

/-- A link that has just come up advertises every cell of its input's allotments (R479). -/
def State.newLink (s : State) (port dev : Nat) : Link :=
  { freshLink port dev with
    owed := (List.range (if port < 4 then 1 else 6)).flatMap (fun vl => (List.range 8).map (fun tc => (tc, vl, s.allotment (rowOf port vl) tc))) }

/-- Cells of an allotment that packets of the input hold. -/
def State.inputCells (s : State) (port tc vl : Nat) : Nat :=
  ((s.rx.filter (fun x => x.1 == port && x.2.tc == tc && x.2.vl == vl)).map (fun x => x.2.cells)).sum +
  ((s.queue.filter (fun q => q.input == port && q.pkt.tc == tc && q.inLane == vl)).map (fun q => q.pkt.cells)).sum

/-- A Quaril port goes down (R406, R431); `lanes` lost lock. The packets that waited for it are discarded, and their cells return (R485). -/
def State.qfLost (s : State) (q lanes : Nat) : State :=
  let s1 := ((s.setFldAt f_QF_PORT_STATE q 4).setFldAt f_QF_PORT_LANE_FAIL q lanes).incSatAt f_QF_PORT_ERR_DOWNS q
  let s2 := { s1 with queue := del s1.queue (fun x => x.out == 4 + q), links := del s1.links (fun l => l.port == 4 + q) }
  (forL (s1.queue.filter (fun x => x.out == 4 + q)) s2 (fun x t => t.freeQueued x)).raise (ev 0x11 (9 * 4096 + 4 + q) (4 + q))

/-- The port goes down and is reported to the leader (R431). -/
def State.qfDown (s : State) (q lanes : Nat) : State :=
  if 8 ≤ q ∨ !s.qfUp q then s
  else
    let s3 := s.qfLost q lanes
    match s.mapCur.bind (fun m => m.links.find? (fun l => (l.a == s.me && l.pa == q) || (l.b == s.me && l.pb == q))) with
    | some l => s3.tellLeader (.portDown l)
    | none => s3

/-- The link of a Kellija port is lost without a kill (R406, R449): what the client had asked is gone, what it owed counts as
answered poisoned, and what the ZV9 had asked of it gets no answer any more and ends by its timer (R461). -/
def State.klDown (s : State) (k : Nat) : State :=
  if 4 ≤ k ∨ !s.klUp k then s
  else (((({ s.dropClientWork k with klOuts := s.klOuts }).setFldAt f_KL_PORT_STATE k 0).answerOwed k).raise (ev 0x11 (9 * 4096 + k) k)).tellPorts s

def State.linkDown (s : State) (port lanes : Nat) : State := if port < 4 then s.klDown port else s.qfDown (port - 4) lanes

/-- `LANE_LOCK_LOSS` (R401, R406): which lanes lost lock is a free value, at least one of eight. -/
def execLaneLockLoss (port : Nat) (s : State) : Host.Outcome State Fault Refusal :=
  let (n, s1) := s.takeNat
  .next (s.whenAlive (if s.portUp port then s1.linkDown port (n % 255 + 1) else s))

/-- `LINK_IDLE_TIMEOUT` (R406): no block for 10 µs. -/
def execLinkIdleTimeout (port : Nat) (s : State) : Host.Outcome State Fault Refusal := .next (s.whenAlive (s.linkDown port 0))

/-! ### Link blocks -/

/-- A packet finds the cells of its allotment free (R478): a peer that keeps to its credits sends no other (log 110). -/
def State.fitsIn (s : State) (port : Nat) (p : Pkt) : Bool := decide (s.inputCells port p.tc p.vl + p.cells ≤ s.allotment (rowOf port p.vl) p.tc)

/-- A packet comes into the store. -/
def State.pktIn (s : State) (port : Nat) (p : Pkt) : State :=
  if s.fitsIn port p then
    let t := (s.mirrorPkt port 0 p).obs 9 port 1 p.slice p.flits
    { t with rx := t.rx ++ [(port, p)] }
  else s

/-- The peer asks for block `n` again: the replay starts there. A request for the block that was asked for last says that its replay has
failed; after the eighth the port goes down (R406). -/
def Link.askedAgain (l : Link) (n : Nat) : Link :=
  { l with again := some n, againCount := if l.againSeq = some n then l.againCount + 1 else 0, againSeq := some n }

/-- The 512-byte block is taken (R405, R406). -/
def State.blockIn (s : State) (port : Nat) (l : Link) (b : LinkBlock) : State :=
  let s0 := if b.fec = 1 ∧ 4 ≤ port then s.incSatAt f_QF_PORT_ERR_CORRECTED (port - 4) else s
  if b.fec = 2 ∨ !b.crcOk then
    let s1 := if 4 ≤ port then s0.incSatAt f_QF_PORT_ERR_REPLAYS (port - 4) else s0
    let s2 := (s1.setLink { l with fails := l.fails + 1, ask := some l.rxSeq }).obs 9 port 4 0xFF 1
    if 8 < l.fails + 1 then s2.linkDown port 0 else s2
  else if b.seq ≠ l.rxSeq then s0
  else
    let credits := b.credits.foldl (fun acc c => addCells acc c.1 c.2.1 c.2.2) l.credits
    let l1 := { l with rxSeq := l.rxSeq + 1, fails := 0, replay := l.replay.filter (fun r => decide (b.ack ≤ r.1)), credits := credits }
    let l2 := match b.replay with | some n => l1.askedAgain n | none => l1
    let s1 := s0.setLink l2
    if 8 ≤ l2.againCount then s1.linkDown port 0 else forL b.pkts s1 (fun p t => t.pktIn port p)

/-- `LINK_BLOCK_RECEIVED` (R406, R449). -/
def execLinkBlockReceived (port : Nat) (b : LinkBlock) (s : State) : Host.Outcome State Fault Refusal :=
  .next (s.whenAlive (match s.link port with
    | some l => if s.portUp port then s.blockIn port l b else s
    | none => s))

/-- The packet has been formed: one of the internal input is formed, in order, once its class's allotment has free cells for it (R479). -/
def State.formed (s : State) (q : Queued) : Bool :=
  q.input != 12 ||
    decide ((((s.queue.takeWhile (fun x => x != q)).filter (fun x => x.input == 12 && x.pkt.tc == q.pkt.tc)).map (fun x => x.pkt.cells)).sum + q.pkt.cells ≤
      s.allotment 52 q.pkt.tc)

/-- The packet may leave: a fenced ZV9 sends nothing on Quaril but heartbeats and `FETCH`, also of what waited before it was fenced (R438). -/
def State.leaves (s : State) (q : Queued) : Bool := !s.fenced || decide (q.out < 4) || q.pkt.mayLeaveFenced

/-- Packets at the head of their queue (input, class, lane) for an output, with credits for all their cells (R484). -/
def State.eligible (s : State) (port : Nat) (l : Link) : List Queued :=
  let here := s.queue.filter (fun q => q.out == port && s.formed q && s.leaves q)
  let heads := here.filter (fun q =>
    (here.find? (fun x => x.input == q.input && x.pkt.tc == q.pkt.tc && x.pkt.vl == q.pkt.vl)) == some q)
  heads.eraseDups.filter (fun q => decide (q.pkt.cells ≤ cellsOf l.credits q.pkt.tc q.pkt.vl))

/-- The party of R504 that a waiting packet counts as: 64, the fabric party, for what arrived on Quaril from another ZV9; else its slice. -/
def State.partyOf (s : State) (q : Queued) : Nat :=
  match q.pkt with
  | .qf p => if 4 ≤ q.input ∧ q.input < 12 ∧ p.src ≠ s.me then 64 else p.slice % 64
  | .kl _ => (s.bound q.out).getD 0 % 64
  | .map src _ _ _ _ _ _ => if 4 ≤ q.input ∧ q.input < 12 ∧ src ≠ s.me then 64 else 0

/-- Weight and minimum of a party at the link outputs. -/
def State.linkWt (s : State) (p : Nat) : Nat := if p = 64 then s.fld f_SLC_GLOBAL_TRANSIT_WT else s.fldAt f_SLC_QOS_LINK_WT p
def State.linkMin (s : State) (p : Nat) : Nat := if p = 64 then s.fld f_SLC_GLOBAL_TRANSIT_MIN else s.fldAt f_SLC_QOS_LINK_MIN p

/-- Weight of a class (R493). -/
def State.classWt (s : State) (tc : Nat) : Nat :=
  s.fld (([f_STORE_CLASS_WT_TC0, f_STORE_CLASS_WT_TC1, f_STORE_CLASS_WT_TC2, f_STORE_CLASS_WT_TC3, f_STORE_CLASS_WT_TC4,
    f_STORE_CLASS_WT_TC5][tc]?).getD f_STORE_CLASS_WT_TC0)

/-- Cells that an output passes in a window: a 128-byte beat each NOC cycle (R484). -/
def outCells : Nat := 1000

/-- Flit slots of a link in a window, at 112 GB/s (R405, R449). -/
def outFlits : Nat := 1750

/-- Flits of the longest packet (R477). -/
def mostFlits : Nat := 17

/-- The flit slots of an output in the present window. -/
def State.outTurn (s : State) (port : Nat) : OutTurn :=
  let x := look {} s.turns port
  if x.win = s.window then x else { x with win := s.window, mgmt := 0 }

/-- The class that an output takes next (R485): TC7 before 1,024 slots have passed without it; TC6 below its sixteenth; TC0 to TC5 by weight;
TC7 when no other is eligible. -/
def State.chooseClass (s : State) (port : Nat) (tcs : List Nat) : Option Nat :=
  let t := s.outTurn port
  if tcs.contains 7 && decide (1024 < t.since7 + 2 * mostFlits) then some 7
  else if tcs.contains 6 && decide (16 * t.mgmt < outFlits) then some 6
  else match (s.share (10 * port + 8)).pick (tcs.filter (fun c => decide (c < 6))) s.classWt (fun _ => 0) outCells with
    | some (c, _) => some c
    | none => if tcs.contains 7 then some 7 else none

/-- Input and lane of a waiting packet. -/
def Queued.laneKey (q : Queued) : Nat := 8 * q.input + q.pkt.vl

/-- The packet that the output starts next: its class, within the class its party, among the party's inputs and lanes by round robin (R485,
R505, log 95). True: the party is below its minimum. -/
def State.choose (s : State) (port : Nat) (l : Link) : Option (Queued × Bool) :=
  let es := s.eligible port l
  match s.chooseClass port (es.map (·.pkt.tc)) with
  | none => none
  | some tc =>
    let xs := es.filter (fun q => q.pkt.tc == tc)
    let x := s.share (10 * port + tc)
    match x.pick (xs.map s.partyOf) s.linkWt s.linkMin outCells with
    | none => none
    | some (p, below) =>
      let ys := xs.filter (fun q => s.partyOf q == p)
      match nextAfter x.lane (ys.map Queued.laneKey) with
      | none => none
      | some k => (ys.find? (fun q => q.laneKey == k)).map (fun q => (q, below))

/-- Count a packet that an output starts. -/
def State.countOut (s : State) (port : Nat) (q : Queued) (below : Bool) : State :=
  let tc := q.pkt.tc
  let n := q.pkt.cells
  let s1 := s.setShare (10 * port + tc) { (s.share (10 * port + tc)).serve (s.partyOf q) n below s.linkWt with lane := q.laneKey }
  let s2 := if tc < 6 then s1.setShare (10 * port + 8) ((s1.share (10 * port + 8)).serve tc n false s1.classWt) else s1
  let t := s2.outTurn port
  let t1 : OutTurn := {
    win := t.win
    mgmt := if tc = 6 then t.mgmt + q.pkt.flits else t.mgmt
    since7 := if tc = 7 then 0 else t.since7 + q.pkt.flits }
  { s2 with turns := put (fun _ => {}) s2.turns port [t1] }

/-- Fill a block: packets until its seven flit slots are used. A longer packet runs on into the next blocks and is carried by the one that
holds its last flit; slots that stay empty are idle flits (R405). -/
def State.fillBlock (s : State) (port : Nat) : Nat → Nat → List Pkt → State × List Pkt
  | 0, _, acc => (s, acc)
  | fuel + 1, used, acc =>
    if 7 ≤ used then (s, acc)
    else match s.link port with
      | none => (s, acc)
      | some l =>
        match s.choose port l with
        | none => (s, acc)
        | some (q, below) =>
          let l1 := { l with credits := l.credits.map (fun (c : Nat × Nat × Nat) =>
            if c.1 = q.pkt.tc ∧ c.2.1 = q.pkt.vl then (c.1, c.2.1, c.2.2 - q.pkt.cells) else c) }
          let s1 := { (s.countOut port q below).setLink l1 with queue := s.queue.erase q }
          let s2 := ((s1.freeQueued q).mirrorPkt port 1 q.pkt).obs 9 port 2 q.pkt.slice q.pkt.flits
          if 7 < used + q.pkt.flits then
            match s2.link port with
            | some l2 => (s2.setLink { l2 with txPart := some (used + q.pkt.flits - 7, q.pkt) }, acc)
            | none => (s2, acc)
          else State.fillBlock s2 port fuel (used + q.pkt.flits) (acc ++ [q.pkt])

/-- A new block: first the flits that are left of a packet. It enters the replay buffer, and the credits that are owed and a replay that is
asked for travel with it. -/
def State.newBlock (s : State) (port : Nat) (l : Link) : State :=
  let l0 := match l.txPart with
    | some (n, p) => if 7 < n then { l with txPart := some (n - 7, p) } else { l with txPart := none }
    | none => l
  let (used, first) := match l.txPart with
    | some (n, p) => if 7 < n then (7, []) else (n, [p])
    | none => (0, [])
  let (s1, pkts) := (s.setLink l0).fillBlock port 7 used first
  match s1.link port with
  | none => s1
  | some l1 => s1.setLink { l1 with txSeq := l1.txSeq + 1, replay := l1.replay ++ [(l1.txSeq, pkts)], owed := [], ask := none }

/-- The replay goes on with the next block of the buffer (R406). -/
def Link.replayed (l : Link) (n : Nat) : Link := { l with again := if n + 1 < l.txSeq then some (n + 1) else none, ask := none }

/-- A killed port sends `KILL` in each of 64 blocks, and then nothing (R466 step 1). -/
def State.killBlock (s : State) (port : Nat) (l : Link) : State :=
  if l.kills ≤ 1 then { s with links := del s.links (fun x => x.port == port) }
  else s.setLink { l with kills := l.kills - 1, txSeq := l.txSeq + 1, replay := l.replay ++ [(l.txSeq, l.killPkt.toList)] }

/-- `LINK_BLOCK_SEND` (R405, R406, R484): a block of a replay that the peer asked for, or a new block while the replay buffer, which holds
2,048, has room. -/
def execLinkBlockSend (port : Nat) (s : State) : Host.Outcome State Fault Refusal :=
  .next (s.whenAlive (match s.link port with
    | none => s
    | some l =>
      if l.kills ≠ 0 then s.killBlock port l
      else if !s.portUp port then s
      else match l.again with
        | some n => s.setLink (l.replayed n)
        | none => if 2048 ≤ l.replay.length then s else s.newBlock port l))

/-! ### Heartbeats (R436, R465) -/

/-- `HEARTBEAT_SEND`: one on every up port, fenced or not (R436, R438, R456). -/
def execHeartbeatSend (s : State) : Host.Outcome State Fault Refusal :=
  let stamp := leBytes 8 s.now
  let s1 := forN 4 s (fun k t => t.sendKl k (mkKl 0x30 6 0 0 0 stamp))
  .next (s.whenAlive (forN 8 s1 (fun q t =>
    if t.qfUp q then t.enqueue (4 + q) (.qf { t.mkQ (t.fldAt f_QF_PORT_PEER_NODE q) 0x30 6 stamp with hops := 1 }) else t)))

def Pkt.isHeartbeat : Pkt → Bool
  | .kl p => p.typ == 0x30
  | .qf p => p.typ == 0x30
  | _ => false

/-- `HEARTBEAT`: a neighbour's or client's heartbeat is taken. -/
def execHeartbeat (port : Nat) (s : State) : Host.Outcome State Fault Refusal :=
  .next (s.whenAlive (match s.rx.find? (fun x => x.1 == port && x.2.isHeartbeat) with
    | some x => { s with rx := s.rx.erase x, links := upd s.links (fun l => l.port == port) (fun l => { l with misses := 0 }) }.freeCells port x.2
    | none => { s with links := upd s.links (fun l => l.port == port) (fun l => { l with misses := 0 }) }))

/-- `HEARTBEAT_MISS`: eight consecutive heartbeats of the neighbour on a Quaril port missed: it is reported suspect and the
port goes down (R406, R436). The link leaves the map by the leader's answer to that report. -/
def execHeartbeatMiss (port : Nat) (s : State) : Host.Outcome State Fault Refusal :=
  .next (s.whenAlive (if 8 ≤ port ∨ !s.qfUp port then s
    else
      let n := s.fldAt f_QF_PORT_PEER_NODE port
      if s.mapCur.any (fun m => m.live n) then
        ({ s with keeper := { s.keeper with suspects := s.keeper.suspects ++ [port] } }.tellLeader (.suspect n port)).qfLost port 0
      else s.qfDown port 0))

/-! ### Training (R402 to R404, R450) -/

/-- The highest version in both ranges, when there is one. -/
def commonVersion (lo hi peerLo peerHi : Nat) : Option Nat :=
  let v := min hi peerHi
  if max lo peerLo ≤ v then some v else none

def State.devId (s : State) : Nat := s.fld f_BOOT_DEVID_DEVICE_ID

def State.refuseQf (s : State) (q cause : Nat) : State :=
  ((s.setFldAt f_QF_PORT_STATE q 3).setFldAt f_QF_PORT_REFUSE q cause).raise (ev 0x11 (9 * 4096 + 4 + q) (4 + q + 256 * cause))

/-- A port that has come up is reported: a link to a node of the map, or a device that no live node of it is (R431, R442). -/
def State.tellUp (s : State) (m : FMap) (port dev peerPort : Nat) : State :=
  match m.nodeOfDev dev with
  | some n => s.tellLeader (.portUp ⟨s.me, port, n, peerPort⟩)
  | none => s.tellLeader (.newDevice dev ⟨s.me, port, 0xFFFF, peerPort⟩)

/-- `QF_PORT_TRAIN` (R402 to R404, R431, R442): the five steps of a port from training to up, refused, or failed; a port that runs Dill
does not come up (R407). -/
def execQfPortTrain (port : Nat) (t : Training) (s : State) : Host.Outcome State Fault Refusal :=
  let st := s.fldAt f_QF_PORT_STATE port
  .next (s.whenAlive (if 8 ≤ port ∨ 1 < st ∨ s.dill.contains port ∨ !s.flag f_BOOT_STATUS_STORE_READY then s
    else if t.failStep ≠ 0 ∨ t.lanes ≠ 0 then s.setFldAt f_QF_PORT_STATE port 4
    else match commonVersion 0x14 0x21 t.verMin t.verMax with
      | none => s.refuseQf port 1
      | some v =>
        if s.cfg.map (·.domain) ≠ some t.domain then s.refuseQf port 2
        else if t.peerDev = s.devId then s.refuseQf port 3
        else
          let s1 := (((s.setFldAt f_QF_PORT_STATE port 2).setFldAt f_QF_PORT_VER_MAJOR port (v / 16)).setFldAt f_QF_PORT_VER_MINOR port (v % 16)).setFldAt
            f_QF_PORT_PEER_PORT port t.peerPort
          let s2 := {
            s1 with
            links := del s1.links (fun l => l.port == 4 + port) ++ [s1.newLink (4 + port) t.peerDev]
            keeper := { s1.keeper with suspects := s1.keeper.suspects.filter (· != port) } }
          match s2.mapCur with
          | none => s2
          | some m => (s2.setFldAt f_QF_PORT_PEER_NODE port ((m.nodeOfDev t.peerDev).getD 0)).tellUp m port t.peerDev t.peerPort))

/-- `PORT_TRAIN_RETRY` (R402, R450): one second after a training failure, or a port-down, the port restarts at step 1. -/
def execPortTrainRetry (port : Nat) (s : State) : Host.Outcome State Fault Refusal :=
  .next (s.whenAlive (if port < 4 then
      if s.fldAt f_KL_PORT_STATE port = 0 ∧ s.flag f_QF_STATE_FORMED then s.setFldAt f_KL_PORT_STATE port 1 else s
    else if port < 12 ∧ s.fldAt f_QF_PORT_STATE (port - 4) = 4 then s.setFldAt f_QF_PORT_STATE (port - 4) 1 else s))

/-- A Kellija port may train (R450, R453, R467). -/
def State.klMay (s : State) (k : Nat) : Bool :=
  decide (k < 4) && s.flag f_QF_STATE_FORMED && !s.fenced &&
  (match s.fldAt f_KL_PORT_STATE k with
   | 2 => false
   | 4 => s.fldAt f_KL_PORT_CTL_HOLD k == 0 && s.klMayTrain.contains k
   | _ => true)

/-- `KL_PORT_TRAIN` (R450, R467): steps 1 to 4; the port then waits for the link-up record. -/
def execKlPortTrain (port : Nat) (t : Training) (s : State) : Host.Outcome State Fault Refusal :=
  .next (s.whenAlive (if !s.klMay port then s
    else if t.failStep ≠ 0 ∨ t.lanes ≠ 0 then s.setFldAt f_KL_PORT_STATE port 0
    else
      let s1 := s.setFldAt f_KL_PORT_STATE port 1
      { s1 with links := del s1.links (fun l => l.port == port) ++ [s1.newLink port t.peerDev] }))

/-! ### Link-up records (R451 to R454) -/

/-- The refusal cause of a link-up record, 0 for none (R453). -/
def State.recordRefuse (s : State) (k : Nat) (r : List Byte) : Nat :=
  let f (o w : Nat) := leAt r o w
  let two40 := 2 ^ 40
  match commonVersion 0x20 0x32 (f 2 1) (f 3 1) with
  | none => 1
  | some v =>
    if f 1 1 = 1 ∧ v < 0x30 then 2
    else if r.length ≠ 64 ∨ f 6 2 ≠ 0 ∨ !zeros r 48 16 ∨ !(f 0 1 == 1 || f 0 1 == 2) ∨ 1 < f 1 1 ∨ f 4 2 = 0 ∨ 256 < f 4 2 ∨
        f 16 8 % tileBytes ≠ 0 ∨ f 24 8 % tileBytes ≠ 0 ∨ two40 < f 24 8 ∨ f 32 8 % 4096 ≠ 0 ∨ f 40 8 % 4096 ≠ 0 ∨ two40 < f 40 8 ∨
        (f 24 8 ≠ 0 ∧ f 40 8 ≠ 0 ∧ overlap (f 16 8) (f 24 8) (f 32 8) (f 40 8)) then 3
    else if s.klClients.any (fun c => c.port != k && s.klUp c.port && c.dev == f 8 8) then 4
    else 0

/-- `BOUND_SLICE` of a port under the current map (R454). -/
def State.bindingOf (s : State) (k : Nat) : Nat :=
  if s.fldAt f_KL_PORT_CTL_MGMT k = 1 then 0 else ((s.mapCur.bind (fun m => m.boundSlice s.me k)).getD 0xFF)

/-- `LINK_UP_RECORD` (R451 to R454). -/
def execLinkUpRecord (port : Nat) (bytes : List Byte) (s : State) : Host.Outcome State Fault Refusal :=
  .next (s.whenAlive (if 4 ≤ port ∨ s.fldAt f_KL_PORT_STATE port ≠ 1 ∨ (s.link port).isNone then s
    else
      let c := s.recordRefuse port bytes
      if c ≠ 0 then
        let s1 := (s.setFldAt f_KL_PORT_STATE port 3).setFldAt f_KL_PORT_REFUSE port c
        { s1 with links := del s1.links (fun l => l.port == port) }.raise (ev 0x11 (9 * 4096 + port) (port + 256 * c))
      else
        let f (o w : Nat) := leAt bytes o w
        let v := (commonVersion 0x20 0x32 (f 2 1) (f 3 1)).getD 0
        let cl : KlClient := {
          port := port, dev := f 8 8, thBase := f 16 8, thLen := f 24 8, winBase := f 32 8, winLen := f 40 8,
          answer := { node := s.me, port := port, version := v, epoch := s.epoch, dev := s.devId, slice := s.bindingOf port % 256 } }
        let s1 := { s with klClients := del s.klClients (fun x => x.port == port) ++ [cl], klMayTrain := s.klMayTrain.filter (· != port) }
        let s2 := (((s1.setFldAt f_KL_PORT_STATE port 2).setFldAt f_KL_PORT_REFUSE port 0).setFldAt f_KL_PORT_KIND port (f 0 1)).setFldAt
          f_KL_PORT_CLASS port (f 1 1)
        let s3 := ((s2.setFldAt f_KL_PORT_STREAMS port (f 4 2)).setFldAt f_KL_PORT_VER_MAJOR port (v / 16)).setFldAt f_KL_PORT_VER_MINOR port (v % 16)
        (s3.setFldAt f_KL_PORT_BOUND_SLICE port (s3.bindingOf port)).tellPorts s))

end Sys2Proof.Machine
end

