-- ==== Sys2Proof/Machine/Fabric.lean ====
section
/-! DEFINITION. Quaril requests at their home (R408 to R411, R424, R426), packets in transit (R419), and what an answer, an error
or an expired timer does at the requester (R409 to R411, R425, R429, R641). -/

namespace Sys2Proof.Machine

/-! ### Requests arriving (R411, R424, R426) -/

/-- Check the format of a request: the offset of the offending header byte (R411). `len`: its payload length is right. -/
def QPkt.bad (p : QPkt) (tc : Nat) (len aux : Bool) : Option Nat :=
  if p.rsvd ≠ 0 then some p.rsvd
  else if p.tc ≠ tc then some 9
  else if !len then some 14
  else if !aux then some 28
  else none

/-- The source of a packet is a ZV9 of the domain: a node of a map that this ZV9 holds. It takes requests of no other (R17). -/
def State.member (s : State) (src : Nat) : Bool := [s.mapCur, s.mapPrep, s.mapPrev].any (fun m => m.any (fun x => (x.ent src).isSome))

/-- A request packet reaches this home: format, source, fenced source, epoch, then the request itself. A request of a source that is no node
is discarded. -/
def State.arrive (s0 : State) (p : QPkt) (bad : Option Nat) (run : State → State) : State :=
  if p.dest ≠ s0.me then s0
  else
    let s := s0.takeRx (.qf p)
    match bad with
    | some o =>
      let s1 := s.incSat f_QF_CNT_MALFORMED
      if s.mapCur.any (fun m => (m.ent p.src).isSome) then s1.respondErr p ⟨eFormat, 3, o⟩ else s1
    | none =>
      if !s.member p.src then s
      else match s.fencedSrc p.src with
      | some e => (s.incSat f_QF_ERR_FENCED_REJECTS).respondErr p ⟨eFenced, 6, e⟩
      | none =>
        if !s.epochOk p.epoch then (s.incSat f_QF_ERR_STALE_REJECTS).respondErr p ⟨eStaleEpoch, 6, s.epoch⟩
        else run s

/-- The access that a read, write or atomic packet makes. -/
def QPkt.acc (p : QPkt) (op : AccOp) : Acc := { org := .peer p, op := op, addr := p.addr, slice := p.slice, node := p.src }

def goodLen (n : Nat) : Bool := decide (1 ≤ n ∧ n ≤ 1024)

/-- The lookup of another ZV9 is over: the versions that it held are free for what awaits them (R58, R243, log 107). -/
def State.letGo (s : State) (p : QPkt) : State :=
  (({ s with lent := del s.lent (fun x => x.node == p.src && x.slice == p.slice && x.look == p.look) }).gc).1.reapRegions

/-- A Gleaner's read of a region of this home, by reference (R243). A reading of no bytes resolves, and its version is lent until the lookup ends
(R49). What it waits for is started, and the packet stays at its input: in `keep`. -/
def State.bulkRef (s : State) (p : QPkt) (r : Nat × Nat × Nat) (keep : State) : State :=
  if r.2.1 = 3 then (s.letGo p).respond p 0x02 3 0 [] false
  else match s.refRead p r with
  | .ok (pin, bs) =>
    let x : Lent := { node := p.src, slice := p.slice, look := p.look, pin := pin }
    let s1 := if p.aux = 0 ∧ r.2.1 = 2 ∧ !s.lent.contains x then { s with lent := s.lent ++ [x] } else s
    s1.respond p 0x02 3 0 bs false
  | .error (.err f) => if f.status = ePoison then s.respond p 0x02 3 0 (List.replicate p.aux 0xFF#8) true else s.respondErr p f
  | .error (.wait ns) => keep.startNeeds ns

/-- `BULK_READ` (R410, R304); it waits at the input while the queue of its bank is full (R391). -/
def execBulkRead (p : QPkt) (errs : List MemErr) (s : State) : Host.Outcome State Fault Refusal :=
  .next (s.whenAlive (s.readErrs errs (fun u => if p.typ = 0x07 ∧ (p.rref.isSome ∨ u.bankFull p.addr = false) then
    u.arrive p (p.bad 5 p.payload.isEmpty (goodLen p.aux || (p.rref.isSome && p.aux == 0))) (fun t => match p.rref with
      | some r => t.bulkRef p r u
      | none => t.access (p.acc (.read p.aux))) else u)))

/-- `BULK_WRITE` (R410); it waits like `BULK_READ`. -/
def execBulkWrite (p : QPkt) (s : State) : Host.Outcome State Fault Refusal :=
  .next (s.whenAlive (if p.typ = 0x08 ∧ s.bankFull p.addr = false then
    s.arrive p (p.bad 5 (goodLen p.payload.length) (p.aux == 0)) (fun t => t.access (p.acc (.write p.payload p.poison))) else s))

/-! ### Packets in transit (R419) -/

/-- Responses travel in TC1 and TC3 (R412). -/
def QPkt.isResponse (p : QPkt) : Bool := p.tc == 1 || p.tc == 3

/-- Forward a Quaril packet that arrived on an input and is not for this ZV9. -/
def State.forwardQf (s : State) (input : Nat) (p : QPkt) : State :=
  let drop := s.freeCells input (.qf p)
  if 1023 ≤ p.hops then (drop.incSat f_QF_ERR_HOP_DROPS).raise (ev 0x10 (9 * 4096 + input) p.dest)
  else
    let q := if p.isResponse then { p with epoch := s.rspEpoch p.epoch } else p
    match s.outPort q.epoch q.dest q.dl with
    | some (port, sd) =>
      { s with queue := s.queue ++ [{
          input := input, out := 4 + port, pkt := .qf { q with hops := q.hops + 1, dl := if sd then 1 else q.dl }, lane := some (Pkt.qf p).vl }] }
    | none =>
      if q.isResponse ∨ 6 ≤ q.tc then drop
      else if (s.mapOf q.epoch).isNone then (drop.incSat f_QF_ERR_STALE_REJECTS).respondErr q ⟨eStaleEpoch, 6, s.epoch⟩
      else drop.respondErr q (deadFail q.dest 0)

/-- Forward a `MAP` packet, which is no request and gets no answer (R419). -/
def State.forwardMap (s : State) (input src dest epoch : Nat) (m : MapMsg) (hops dl tag : Nat) : State :=
  let drop := s.freeCells input (.map src dest epoch m hops dl tag)
  if 1023 ≤ hops then (drop.incSat f_QF_ERR_HOP_DROPS).raise (ev 0x10 (9 * 4096 + input) dest)
  else match s.outPort epoch dest dl with
    | some (port, sd) =>
      { s with queue := s.queue ++ [{
          input := input, out := 4 + port, pkt := .map src dest epoch m (hops + 1) (if sd then 1 else dl) tag
          lane := some (Pkt.map src dest epoch m hops dl tag).vl }] }
    | none => drop

/-- A packet is the first of its class and lane among those that wait at an input: they leave in the order in which they came (R420). -/
def State.firstIn (s : State) (port : Nat) (p : Pkt) : Bool :=
  (s.rx.find? (fun x => x.1 == port && x.2.tc == p.tc && x.2.vl == p.vl)) == some (port, p)

/-- `PACKET_FORWARD` (R419, R420): `port` is the input, as R487 numbers it. -/
def execPacketForward (port : Nat) (p : Pkt) (s : State) : Host.Outcome State Fault Refusal :=
  let s1 := { s with rx := s.rx.erase (port, p) }
  .next (s.whenAlive (if s.fenced ∨ port < 4 ∨ 12 ≤ port ∨ !s.firstIn port p then s
    else match p with
      | .kl _ => s
      | .qf q => if q.dest = s.me ∨ q.typ = 0x30 then s else s1.forwardQf port q
      | .map src dest epoch m hops dl tag => if dest = s.me ∨ dest = 0xFFFF then s else s1.forwardMap port src dest epoch m hops dl tag))

/-! ### Answers at the requester -/

def State.outReq (s : State) (tag src : Nat) : Option OutReq :=
  s.outReqs.find? (fun o => o.pkt.tag == tag && o.pkt.dest == src && o.sends != 0)

/-- A request leaves the requester with its reservation; those that waited for the space go (R483), and those that waited behind it to be sent
again (R365). -/
def State.dropReq (s : State) (o : OutReq) : State := { s with outReqs := s.outReqs.erase o }.pumpStale.pumpRsp

/-- Scrivener's point 2: a remote request is answered (R595). -/
def State.answerSample (s : State) (o : OutReq) (status : Nat) : State :=
  s.scriv 2 o.pkt.slice 0 o.since o.pkt.addr (o.pkt.dest + 2 ^ 16 * o.pkt.tc + 2 ^ 19 * o.pkt.typ) status

/-- A write of a descriptor failed: the unit it belongs to, and every later one, is not done. One that still runs ends there. -/
def State.failUnit (s : State) (k : DKey) (unit : Nat) (f : Fail) : State :=
  match s.desc k with
  | none => s
  | some d =>
    if d.phase == .waiting then s
    else if d.phase == .running then
      if d.stop.isSome then s.setDesc { d with progress := min d.progress unit } else s.endDesc k f.status f.kind f.detail unit
    else if d.status = eAborted then (if unit < d.progress then s.endDesc k d.status d.kind d.detail unit else s)
    else if d.status < 0x10 ∨ unit < d.progress then s.endDesc k f.status f.kind f.detail unit else s

/-- The end of a home operation that ran at another home (R410, R641). -/
def State.homeAnswer (s : State) (k : DKey) (f : Fail) (progress : Nat) : State :=
  match s.desc k with
  | none => s
  | some d =>
    if d.phase != .running || d.stop.isSome then s
    else
      -- the statuses of a check at the home, the `E_INTEGRITY` of a `CUT` among them (R55)
      let rejected := (decide (0x10 ≤ f.status ∧ f.status ≤ 0x18) || f.status == eFenced ||
        (f.status == eIntegrity && d.op == 0x30 && d.at 24 1 == 0)) && progress == 0
      let s1 := { s with descs := upd s.descs (fun x => x.key == k) (fun x => { x with
        started := !rejected, engine := if rejected then 0xF0 else x.engine }) }
      s1.endDesc k f.status f.kind f.detail progress

/-- Give what ended a request to its issuer: bytes, or a status. -/
def State.deliver (s : State) (o : OutReq) (r : Except Fail (List Byte × Bool)) : State :=
  let home := o.pkt.dest
  (match o.who with
  | .txn id off => s.partDone id off home r
  | .desc k unit =>
    match o.pkt.typ with
    | 0x01 | 0x07 =>
      let g : Fetched := match r with
        | .ok (bs, po) => {
            node := home, rref := o.pkt.rref, addr := o.pkt.addr, len := o.pkt.aux, bytes := bs, poison := po, status := stOk, kind := 0, detail := 0 }
        | .error f => {
            node := home, rref := o.pkt.rref, addr := o.pkt.addr, len := o.pkt.aux, bytes := [], poison := false, status := f.status, kind := f.kind,
            detail := f.detail }
      { s with descs := upd s.descs (fun d => d.key == k) (fun d => { d with fetched := d.fetched ++ [g] }) }
    | 0x09 => match r with
      | .ok _ => s
      | .error f => s.homeAnswer k f 0
    | _ => match r with
      | .ok _ => s
      | .error f => s.failUnit k unit (f.phased (match s.desc k with | some d => wrPhase d.op | none => 0))
  | .cq slice ring => (match r with
    | .ok _ => s
    | .error _ => s.faultRing slice ring).ringAnswered slice ring
  | .coh port p => match r with
    | .ok (bs, po) => s.answer (.client port p) 0x1A 0 bs po
    | .error f => s.answerErr (.client port p) f
  | .none => s).reapInvals

/-- A response reaches its requester: `fits` says that it is the response of its request (R409, R411, R429). -/
def State.response (s0 : State) (p : QPkt) (fits : OutReq → Bool) (give : State → OutReq → State) : State :=
  if p.dest ≠ s0.me then s0
  else
    let s := s0.takeRx (.qf p)
    match s.outReq p.tag p.src with
    | none => s.incSat f_QF_ERR_LATE_RSP
    | some o =>
      if p.rsvd ≠ 0 ∨ !fits o then s.incSat f_QF_CNT_MALFORMED
      else give ((s.dropReq o).answerSample o (p.aux % 256)) o

/-- `READ_RSP` (R409, R410, R429). -/
def execReadRsp (p : QPkt) (s : State) : Host.Outcome State Fault Refusal :=
  .next (s.whenAlive (if p.typ = 0x02 then
    s.response p (fun o => p.tc == 3 && p.aux == 0 && (o.pkt.typ == 0x01 || o.pkt.typ == 0x07) && p.payload.length == o.pkt.aux)
      (fun t o => t.deliver o (.ok (p.payload, p.poison))) else s))

/-- `WRITE_ACK` (R409, R410). -/
def execWriteAck (p : QPkt) (s : State) : Host.Outcome State Fault Refusal :=
  .next (s.whenAlive (if p.typ = 0x04 then
    s.response p (fun o => p.tc == 3 && p.aux == 0 && (o.pkt.typ == 0x03 || o.pkt.typ == 0x08) && p.payload.isEmpty) (fun t o => t.deliver o (.ok ([], false)))
    else s))

/-- `ATOMIC_RSP` (R410, R423): the prior value. -/
def execAtomicRsp (p : QPkt) (s : State) : Host.Outcome State Fault Refusal :=
  .next (s.whenAlive (if p.typ = 0x06 then
    s.response p (fun o => p.tc == 3 && p.aux == 0 && o.pkt.typ == 0x05 &&
        some p.payload.length == tallyWidth (bits o.pkt.aux 0 4) (bits o.pkt.aux 4 4)) (fun t o => t.deliver o (.ok (p.payload, p.poison)))
    else s))

/-- `HOME_RSP` (R410, R641). -/
def execHomeRsp (p : QPkt) (s : State) : Host.Outcome State Fault Refusal :=
  .next (s.whenAlive (if p.typ = 0x0A then
    s.response p (fun o => p.tc == 3 && decide (p.aux < 256) && o.pkt.typ == 0x09 && p.payload.length == 16 && zeros p.payload 13 3)
      (fun t o => match o.who with
        | .desc k _ => (t.homeAnswer k ⟨p.aux % 256, leAt p.payload 12 1, leAt p.payload 4 8⟩ (leAt p.payload 0 4)).reapInvals
        | _ => t.reapInvals)
    else s))

/-- A request rejected for its epoch is sent again with the current one (R425), in its turn (R365, R421). -/
def State.resend (s : State) (o : OutReq) : State :=
  match s.refuseTo o.pkt.dest 0 with
  | some f => (s.dropReq o).deliver o (.error f)
  | none => { s with outReqs := s.outReqs.map (fun (x : OutReq) => if x = o then { x with stale := true } else x) }.pumpStale

/-- A request that waits, for response space or for its turn to be sent again, ends at once when its node is no longer live (R430). -/
def State.endRefused (s : State) : State :=
  forL (s.outReqs.filter (fun o => o.sends == 0 || o.stale)) s (fun o t => match t.refuseTo o.pkt.dest 0 with
    | some f => if t.outReqs.contains o then (t.dropReq o).deliver o (.error f) else t
    | none => t)

/-- `ERR_RESPONSE` (R411, R425, R438). -/
def execErrResponse (p : QPkt) (s0 : State) : Host.Outcome State Fault Refusal :=
  .next (s0.whenAlive (if p.typ ≠ 0x0F ∨ p.dest ≠ s0.me then s0
    else
      let s := s0.takeRx (.qf p)
      match s.outReq p.tag p.src with
      | none => s.incSat f_QF_ERR_LATE_RSP
      | some o =>
        if p.rsvd ≠ 0 ∨ p.payload.length ≠ 8 ∨ p.tc ≠ rspClass o.pkt.typ ∨ 4096 ≤ p.aux then s.incSat f_QF_CNT_MALFORMED
        else
          let f : Fail := ⟨bits p.aux 0 8, bits p.aux 8 4, leNat p.payload⟩
          if f.status = eStaleEpoch ∧ o.sends < 5 then s.resend o
          else
            let s1 := if f.status = eFenced then s.fenceSelf f.detail else s
            ((s1.dropReq o).answerSample o f.status).deliver o (.error f)))

/-- `REQUEST_TIMER_EXPIRY` (R429, R432): T_dead of a request has passed without its response. -/
def execRequestTimerExpiry (tag : Nat) (s : State) : Host.Outcome State Fault Refusal :=
  .next (s.whenAlive (match s.outReqs.find? (fun o => o.pkt.tag == tag && o.sends != 0) with
    | none => s
    | some o =>
      let n := o.pkt.dest
      let s1 := ((s.dropReq o).incSat f_QF_CNT_EXPIRIES).raise
        { cause := 0x0E, status := eDeadTarget, source := 0, slice := o.pkt.slice, addr := some o.pkt.addr, detail := n }
      let job := s.jobNum o.pkt.slice
      let s2 := if s.mapCur.any (fun m => (m.job job).any (fun j => j.mode == 1)) then s1.tellLeader (.expiry job) else s1
      s2.deliver o (.error (deadFail n 0))))

end Sys2Proof.Machine
end

