-- ==== Sys2Proof/Machine/Keepers.lean ====
section
/-! DEFINITION. Map keepers and the map (R432 to R442), start-up of the domain, liveness, composition at the leader (R500 to
R503), and what a commit does (R389, R435, R440, R454, R514). A keeper's message names its sender by its place in the keeper
list; other messages by node. -/

namespace Sys2Proof.Machine

/-! ### Keepers (R433) -/

def State.keeperDevs (s : State) : List Nat := (s.cfg.map (·.keepers)).getD []

/-- This ZV9's place in the keeper list. -/
def State.keeperPos (s : State) : Option Nat := s.keeperDevs.idxOf? s.devId

/-- Keepers of a quorum. -/
def State.quorum (s : State) : Nat := s.keeperDevs.length / 2 + 1

/-- Epochs follow one another from 1 to 0xFFFF_FFFF and around (R435): `a` comes after `b` when it is less than half the circle ahead. -/
def laterEpoch (a b : Nat) : Bool := b == 0 && a != 0 || (let n := 0xFFFFFFFF; let d := (a + n - b % n) % n; decide (0 < d ∧ d < 2 ^ 31))

/-- Newest epoch that this keeper has replicated. -/
def State.newest (s : State) : Nat :=
  let r := (s.keeper.replicated.map (·.epoch)).getD 0
  if laterEpoch r s.epoch then r else s.epoch

/-- Pass on a map message of the keeper at place `src` before routes exist, once (R441 phase 3): this is how a keeper reaches one that is no
neighbour. -/
def State.relay (s : State) (src : Nat) (m : MapMsg) : State :=
  if s.mapCur.isSome || s.keeper.relayed.contains (src, m) then s
  else { s with keeper := { s.keeper with relayed := s.keeper.relayed ++ [(src, m)] } }.floodAs src m

/-- Send to the keepers: over the provisional routes, and to each keeper's node once the domain is formed. -/
def State.toKeepers (s : State) (m : MapMsg) : State :=
  match s.mapCur with
  | none => s.relay (s.keeperPos.getD 0) m
  | some c => forL (c.keepers.filter (· != s.me)) s (fun n t => t.sendMap n m)

/-- Send to the keeper at a place of the keeper list. -/
def State.toKeeper (s : State) (place : Nat) (m : MapMsg) : State :=
  match s.mapCur with
  | none => s.relay (s.keeperPos.getD 0) m
  | some c => match (s.keeperDevs[place]?).bind c.nodeOfDev with
    | some n => s.sendMap n m
    | none => s

/-! ### The spanning tree as a flood uses it (R418, R435) -/

/-- Parent of a node: its neighbour of the next lower level with the lowest identifier. -/
def FMap.parent (m : FMap) (n : Nat) : Option Nat :=
  let lv := m.treeLevels
  match lv.find? (fun x => x.1 == n) with
  | none => none
  | some (_, l) =>
    if l = 0 then none
    else (((m.ports n).map (·.2.1)).filter (fun a => lv.contains (a, l - 1))).foldl (fun acc a =>
      match acc with | none => some a | some b => some (min a b)) none

/-- A node and its ancestors. -/
def FMap.chain (m : FMap) : Nat → Nat → List Nat
  | 0, n => [n]
  | k + 1, n => n :: (match m.parent n with | some p => m.chain k p | none => [])

/-- Tree neighbours of a node. -/
def FMap.treeNbrs (m : FMap) (n : Nat) : List Nat :=
  m.liveNodes.filter (fun a => m.parent a == some n || m.parent n == some a)

/-- The tree neighbour of `n` on the way to `d`. -/
def FMap.towards (m : FMap) (n d : Nat) : Option Nat :=
  if n = d then none
  else
    let c := m.chain m.liveNodes.length d
    match c.find? (fun a => m.parent a == some n) with
    | some a => some a
    | none => m.parent n

/-- Tree neighbours that a flood from `root` reaches through `n`. -/
def FMap.floodKids (m : FMap) (n root : Nat) : List Nat := (m.treeNbrs n).filter (fun a => some a != m.towards n root)

/-- Nodes behind a tree neighbour `a` of `n`. -/
def FMap.behind (m : FMap) (n a : Nat) : List Nat := m.liveNodes.filter (fun d => m.towards n d == some a)

/-- Pass a flood on along the tree of a map; on every port while no map stands. -/
def State.flood (s : State) (m : Option FMap) (root : Nat) (msg : MapMsg) : State :=
  match m with
  | none => s.floodMap msg
  | some c =>
    if s.fenced then s
    else forL (c.floodKids s.me root) s (fun n t =>
      match (c.ports t.me).find? (fun p => p.2.1 == n && t.qfUp p.1) with
      | some p => t.enqueue (4 + p.1) (.map t.me n t.epoch msg)
      | none => t)

/-! ### The commit of a map (R389, R424, R435, R440, R444, R446, R448, R454) -/

/-- A domain that forms, or a node that joins, learns its node from the map. -/
def State.learnNode (s : State) (m : FMap) : State :=
  if s.flag f_AS_NODE_VALID then s
  else match m.nodeOfDev s.devId with
    | some n => (s.setFld f_AS_NODE_NODE n).setFld f_AS_NODE_VALID 1
    | none => s

/-- The registers that show the current map. -/
def State.showMap (s : State) (m : FMap) : State :=
  let s1 := (((s.setFld f_QF_STATE_EPOCH m.epoch).setFld f_QF_STATE_FORMED 1).setFld f_QF_STATE_LEADER_NODE m.leader).setFld f_QF_STATE_LEADER
    (if m.leader = s.me ∧ s.leader then 1 else 0)
  let s2 := (s1.setFld f_QF_DOMAIN_DIAMETER m.diameter).setFld f_QF_DOMAIN_NODES m.liveNodes.length
  let s3 := forN 8 s2 (fun q t =>
    match t.link (4 + q) with
    | some l => (match m.nodeOfDev l.peerDev with
      | some n => t.setFldAt f_QF_PORT_PEER_NODE q n
      | none => t)
    | none => t)
  let s4 := forN 64 s3 (fun x t =>
    let j := m.jobOf t.me x
    (t.setFldAt f_SLC_STATUS_IN_JOB x (if j.isSome then 1 else 0)).setFldAt f_SLC_STATUS_JOB x ((j.map (·.num)).getD 0))
  forN 4 s4 (fun k t => if t.klUp k then t.setFldAt f_KL_PORT_BOUND_SLICE k (t.bindingOf k) else t)

/-- Clients on nodes that are no longer live count as having answered (R389). -/
def State.lostHolders (s : State) (m : FMap) : State :=
  let gone (n : Nat) : Bool := n != s.me && !m.live n
  let s1 := forL s.dir s (fun e t => forL (e.awaiting.filter (fun h => gone h.1)) t (fun h u => u.answered e.line h none true true))
  ({ s1 with sweeps := s1.sweeps.map (fun (w : Sweep) => { w with awaiting := w.awaiting.filter (fun x => !gone x.2.1) }) }.pumpAsks.reapSweeps).finishHomes

/-- Lookups of nodes that are no longer live hold no versions any more. -/
def State.lostLookups (s : State) (m : FMap) : State :=
  let gone (x : Lent) : Bool := !m.live x.node
  if s.lent.any gone then (({ s with lent := del s.lent gone }).gc).1.reapRegions else s

/-- Revocation records of jobs that have left the job table end (R514). -/
def State.reapRevoked (s : State) (m : FMap) : State :=
  let rs := s.revoked.filter (fun r => match r.job with | some j => (m.job j).isSome | none => true)
  { s with revoked := rs }.setFld f_SLC_REVOKE_STAT_LIVE rs.length

/-- The composition request of this ZV9 ends with a status (R502, R520). -/
def State.endCompose (s : State) (status node : Nat) : State :=
  { (((s.setFld f_SLC_COMPOSE_STAT_BUSY 0).setFld f_SLC_COMPOSE_STAT_NODE node).setFld f_SLC_COMPOSE_STAT_STATUS status) with composing := none, granted := none }

/-- The request that the leader had made a change stands in a committed map (R502, R520). -/
def State.endGranted (s : State) : State :=
  match s.granted with
  | some (e, j) =>
    if s.composing.isSome && !laterEpoch e s.epoch then ((s.setFld f_SLC_COMPOSE_RES_JOB j).setFld f_SLC_COMPOSE_RES_EPOCH e).endCompose stOk 0 else s
  | none => s

/-- The first map of a ZV9 may lack links that came up after the topology was gathered: they are reported (R442). -/
def State.tellNewLinks (s : State) (m : FMap) : State :=
  forN 8 s (fun q t => match t.link (4 + q) with
    | some l => if t.qfUp q && !(m.ports t.me).any (fun p => p.1 == q) then t.tellUp m q l.peerDev (t.fldAt f_QF_PORT_PEER_PORT q) else t
    | none => t)

/-- A committed map no longer lists a caching client that the map before it listed: a home had reported it (R387, R465 cause 2). A client
that came while the earlier map was current was not the one that it listed. -/
def State.clientRemoved (s : State) (old m : FMap) (k : Nat) : Bool :=
  let cached (c : FMap) : Bool := (c.ent s.me).any (fun e => e.caching.getLsbD k)
  s.klCaches k && cached old && !cached m && (s.klClient k).any (fun c => laterEpoch old.epoch c.answer.epoch)

/-- Make a map current. -/
def State.applyMap (s0 : State) (m : FMap) : State :=
  let s := s0.learnNode m
  let old := s.mapCur
  let was := (old.map (fun o => (List.range 64).filter (fun x => (o.jobOf s.me x).any (fun j => (m.jobOf s.me x).all (fun i => i.num != j.num))))).getD []
  let removed := (List.range 4).filter (fun k => old.any (fun o => s.clientRemoved o m k))
  let s1 := { s with mapPrev := old, mapCur := some m, mapPrep := none, grace := true,
                         keeper := { s.keeper with lastJob := m.jobs.foldl (fun acc (j : Job) => max acc j.num) s.keeper.lastJob } }.showMap m
  -- a slice that left its job (R503), one that a map several epochs on shows in another job among them (R424)
  let s2 := forL was s1 (fun x t => t.stopSlice x (abortFail 1))
  let s3 := forL removed s2 (fun k t => t.killPort k 2)
  let s4 := (((s3.lostHolders m).lostLookups m).reapRevoked m).endRefused.endGranted
  let s5 := if old.isNone then s4.tellNewLinks m else s4
  match (m.ent s5.me).filter (fun (e : NodeEnt) => e.state != NodeSt.live) with
  | some e => s5.fenceSelf e.since
  | none => s5

/-- `EPOCH_GRACE_EXPIRY` (R424): 200 µs after the commit. -/
def execEpochGraceExpiry (s : State) : Host.Outcome State Fault Refusal := .next (s.whenAlive { s with grace := false })

/-! ### Changes of the map (R435, R436, R440) -/

def FMap.dropLinks (m : FMap) (p : LinkEnt → Bool) : FMap := { m with links := m.links.filter (fun l => !p l) }

/-- Live nodes with no path in the link table to the leader. -/
def FMap.cutOff (m : FMap) : List Nat :=
  let r := m.reach m.nodes.length [m.leader]
  m.liveNodes.filter (fun n => !r.contains n)

/-- Mark nodes dead (or fenced), with every link of theirs removed. -/
def FMap.mark (m : FMap) (ns : List Nat) (st : NodeSt) (e : Nat) : FMap :=
  { m with nodes := m.nodes.map (fun (x : NodeEnt) => if ns.contains x.node && x.state == NodeSt.live then { x with state := st, since := e } else x)
           links := m.links.filter (fun l => !(ns.contains l.a || ns.contains l.b)) }

/-- Mark the nodes that a change has cut off (R436). -/
def FMap.prune (m : FMap) (e : Nat) : FMap := let ns := m.cutOff; if ns = [] then m else m.mark ns .dead e

def FMap.freeNode (m : FMap) : Nat := ((List.range (m.nodes.length + 1)).find? (fun n => !m.nodes.any (fun e => e.node == n))).getD 0

/-- A change brings the masks of caching clients up to what their ZV9s have reported (R378, R434). Only a report of the client itself takes
one out: its removal kills the port (R465, log 108). -/
def State.withClients (s : State) (m : FMap) : FMap :=
  { m with nodes := m.nodes.map (fun (x : NodeEnt) =>
      { x with caching := x.caching ||| (if x.node = s.me then s.cachingMask else look 0#4 s.keeper.clients x.node) }) }

/-- The map that a change makes of the current one, without its epoch. -/
def State.changed (s : State) (m : FMap) (e : Nat) : Change → FMap
  | .form f => f
  | .admitDev dev ls =>
    let n := m.freeNode
    { m with
      nodes := m.nodes ++ [({ node := n, dev := dev, state := .live, since := 0, caching := 0, keeper := s.keeperDevs.contains dev } : NodeEnt)]
      keepers := if s.keeperDevs.contains dev then m.keepers.filter (fun k => (m.ent k).any (fun e => e.dev != dev)) ++ [n] else m.keepers
      links := m.links ++ ls.map (fun (l : LinkEnt) => { l with b := if l.b = 0xFFFF then n else l.b }) }
  | .dead n => (m.mark [n] .dead e).prune e
  | .fence n => (m.mark [n] .fenced e).prune e
  | .addLink l => if m.links.any (fun x => (x.a == l.a && x.pa == l.pa) || (x.b == l.a && x.pb == l.pa)) then m else { m with links := m.links ++ [l] }
  | .dropLink l => (m.dropLinks (fun x => x == l || x == ⟨l.b, l.pb, l.a, l.pa⟩)).prune e
  | .dropClient n k =>
    let clr (b : BitVec 4) : BitVec 4 := b &&& ~~~(BitVec.ofNat 4 (2 ^ k))
    { m with
      nodes := m.nodes.map (fun (x : NodeEnt) => if x.node = n then { x with caching := clr x.caching } else x)
      jobs := m.jobs.map (fun (j : Job) => { j with slices := j.slices.map (fun (x : JobSlice) => { x with ports := if x.node = n then clr x.ports else x.ports }) }) }
  | .compose mode es => { m with jobs := m.jobs ++ [(⟨s.keeper.lastJob + 1, mode, es⟩ : Job)] }
  | .extend n es => { m with jobs := m.jobs.map (fun (j : Job) => if j.num = n then { j with slices := j.slices ++ es } else j) }
  | .shrink n es =>
    let out (x : JobSlice) : Bool := es.any (fun y => y.node == x.node && y.slice == x.slice)
    let js := m.jobs.map (fun (j : Job) => if j.num = n then { j with slices := j.slices.filter (fun x => !out x) } else j)
    { m with jobs := js.filter (fun j => !j.slices.isEmpty) }
  | .teardown n => { m with jobs := m.jobs.filter (fun j => j.num != n) }

def Change.isCompose : Change → Bool
  | .compose _ _ => true
  | _ => false

/-! ### The checks of a composition request (R500 to R502) -/

/-- Check 3 of R502 for a slice to be added, by the leader's own registers and by what the other nodes have reported. -/
def State.slotFree (s : State) (m : FMap) (e : JobSlice) : Bool :=
  let conf := if e.node = s.me then s.configured e.slice else (look 0#64 s.keeper.reported e.node).getLsbD e.slice
  conf && (m.jobOf e.node e.slice).isNone &&
  ((List.range 4).filter (fun k => e.ports.getLsbD k)).all (fun k =>
    (m.boundSlice e.node k).isNone && (if e.node = s.me then s.bindablePort k else (look 0#4 s.keeper.bindable e.node).getLsbD k))

/-- Checks of a composition request at the leader: the status and node of the first that fails. -/
def State.composeChecks (s : State) (m : FMap) (op mode job : Nat) (es : List JobSlice) : Option (Nat × Nat) :=
  let keys := es.map (fun e => (e.node, e.slice))
  let count := if op = 4 then es.isEmpty else decide (1 ≤ es.length ∧ es.length ≤ 4096)
  if op = 0 ∨ 4 < op ∨ !count ∨ (op = 1 ∧ (1 < mode ∨ job ≠ 0)) ∨ (op ≠ 1 ∧ mode ≠ 0) ∨ es.any (fun e => e.slice == 0 || decide (63 < e.slice)) ∨
     keys.eraseDups.length ≠ keys.length then some (eFormat, 0)
  else match es.find? (fun e => !m.live e.node) with
    | some e => some (eDeadTarget, e.node)
    | none =>
      let ports := es.flatMap (fun e => ((List.range 4).filter (fun k => e.ports.getLsbD k)).map (fun k => (e.node, k)))
      let adds := op = 1 ∨ op = 2
      if (adds ∧ (!es.all (fun e => s.slotFree m e) ∨ ports.eraseDups.length ≠ ports.length)) ∨ (op ≠ 1 ∧ (m.job job).isNone) ∨
         (op = 3 ∧ !es.all (fun e => (m.job job).any (fun j => j.slices.any (fun x => x.node == e.node && x.slice == e.slice)))) then some (eRange, 0)
      else none

/-- The change that a composition request asks for. -/
def composeChange (op mode job : Nat) (es : List JobSlice) : Change :=
  match op with | 1 => .compose mode es | 2 => .extend job es | 3 => .shrink job es | _ => .teardown job

/-- The checks judged again for a composition that waited for its epoch: what it names may be taken or dead by now (R22 to R24). -/
def State.changeRefused (s : State) (m : FMap) : Change → Option (Nat × Nat)
  | .compose mode es => s.composeChecks m 1 mode 0 es
  | .extend n es => s.composeChecks m 2 0 n es
  | .shrink n es => s.composeChecks m 3 0 n es
  | .teardown n => s.composeChecks m 4 0 n []
  | _ => none

/-- The change has nothing to do any more: what it removes is gone, or what it adds is there. It makes no epoch. -/
def FMap.idle (m : FMap) : Change → Bool
  | .dead n | .fence n => !m.live n
  | .addLink l => m.links.any (fun x => (x.a == l.a && x.pa == l.pa) || (x.b == l.a && x.pb == l.pa)) || !m.live l.a || !m.live l.b
  | .dropLink l => !m.links.any (fun x => x == l || x == ⟨l.b, l.pb, l.a, l.pa⟩)
  | .admitDev dev _ => (m.nodeOfDev dev).isSome
  | .dropClient n k => !(m.ent n).any (fun e => e.caching.getLsbD k) && (m.boundSlice n k).isNone
  | _ => false

/-- A refused request is answered: here at once, to another ZV9 by a message of the model's own (log 96). -/
def State.refuseCompose (s : State) (node status at_ : Nat) : State :=
  if node = s.me then (if s.composing.isSome then s.endCompose status at_ else s)
  else s.sendMap node (.report (.refused status at_))

/-- A request has become a change: its requester shows `OK` once that epoch commits. -/
def State.acceptCompose (s : State) (node epoch job : Nat) : State :=
  if node = s.me then (if s.composing.isSome then { s with granted := some (epoch, job) } else s)
  else s.sendMap node (.report (.accepted epoch job))

/-- The job that a composition change makes or names. -/
def Change.jobNum (c : Change) (new : Nat) : Nat :=
  match c with
  | .compose _ _ => new
  | .extend n _ | .shrink n _ | .teardown n => n
  | _ => 0

/-! ### The leader's steps (R435) -/

/-- Commit: every live node has acknowledged, or the wait is over. -/
def State.leaderCommit (s : State) (m : FMap) : State :=
  let s1 := s.flood (some m) m.leader (.commit m.epoch)
  let s2 := { s1 with keeper := { s1.keeper with stage := 0, acks := [], prepAcks := 0, prepNodes := [] } }
  s2.applyMap m

/-- Drain the packets of an epoch that is no longer held (R435 step 3): a request is answered, here at its sender too, a response re-stamped;
a message that no one answers finds no route and is dropped (R419). -/
def State.drain (s : State) (e : Nat) : State :=
  let old (p : Pkt) : Bool := match p with
    | .qf x => x.epoch == e && x.typ != 0x30
    | .map _ _ x _ _ _ _ => x == e
    | .kl _ => false
  let own (t : State) (p : QPkt) : State := match t.outReqs.find? (fun o => o.pkt.tag == p.tag && o.pkt.dest == p.dest && o.sends != 0) with
    | some o => t.resend o
    | none => t
  let stale (t : State) (p : QPkt) : State := (t.incSat f_QF_ERR_STALE_REJECTS).respondErr p ⟨eStaleEpoch, 6, t.epoch⟩
  let s1 := forL (s.queue.filter (fun q => old q.pkt)) { s with queue := del s.queue (fun q => old q.pkt) } (fun q t => match q.pkt with
    | .qf p =>
      if p.isResponse then t.forwardQf q.input { p with epoch := t.epoch, hops := p.hops - 1 }
      else
        let u := t.freeQueued q
        if q.input = 12 then own u p else if p.tc < 6 then stale u p else u
    | _ => t.freeQueued q)
  -- what has come and is not yet handled: a response to this ZV9 is taken as it is
  forL (s1.rx.filter (fun x => old x.2)) s1 (fun x t => match x.2 with
    | .qf p =>
      if p.isResponse then
        if p.dest = t.me then t else { t with rx := t.rx.erase x }.forwardQf x.1 { p with epoch := t.epoch }
      else
        let u := { t with rx := t.rx.erase x }.freeCells x.1 x.2
        if p.tc < 6 then stale u p else u
    | .map _ dest _ _ _ _ _ => if dest = t.me ∨ dest = 0xFFFF then t else { t with rx := t.rx.erase x }.freeCells x.1 x.2
    | .kl _ => t)

/-- Before epoch e + 1 is prepared, the packets of epoch e − 2 leave the lanes that the two share (R413, R435). -/
def State.drainOld (s : State) : State := s.drain (prevEpoch (prevEpoch s.epoch))

/-- A quorum has stored the change: prepare it everywhere. -/
def State.leaderPrepare (s0 : State) (m : FMap) : State :=
  let s := s0.drainOld
  let s1 := { s with mapPrep := some m, keeper := { s.keeper with stage := 2, prepAcks := 1, prepNodes := [] } }
  let s2 := s1.flood (some m) m.leader (.prepare m)
  if m.liveNodes.length ≤ 1 then s2.leaderCommit m else s2

/-- Step 1: the change goes to the keepers. -/
def State.leaderReplicate (s : State) (m : FMap) : State :=
  let s1 := { s with keeper := { s.keeper with stage := 1, replicated := some m, acks := s.keeperPos.toList } }
  let s2 := s1.toKeepers (.replicate m)
  if s2.quorum ≤ 1 then s2.leaderPrepare m else s2

/-- Jobs of nodes that a change newly marks dead because it cuts them off abort before its epoch commits (R436, R534 trigger 1). -/
def State.abortCut (s : State) (m n : FMap) (c : Change) : State :=
  let named := match c with | .dead x | .fence x => [x] | _ => []
  let lost := m.liveNodes.filter (fun x => !n.live x && !named.contains x)
  forL (m.jobs.filter (fun j => lost.any (fun x => j.nodes.contains x))) s (fun j t =>
    t.originAbort j.num 1 ((lost.find? (fun x => j.nodes.contains x)).getD 0))

/-- The leader starts a change; an epoch of the map follows its last one. -/
def State.startChange (s : State) (c : Change) : State :=
  let s1 := { s with keeper := { s.keeper with lastJob := s.keeper.lastJob + (if c.isCompose then 1 else 0) } }
  match c, s.mapCur with
  | .form f, none => s1.leaderReplicate f
  | _, none => s1
  | .form _, some _ => s1
  | _, some m =>
    let e := nextEpoch m.epoch
    let n := { s.withClients (s.changed m e c) with
      epoch := e, term := s.keeper.term, leader := s.me, baseUs := s.fld f_QF_TDEAD_BASE_US, hopUs := s.fld f_QF_TDEAD_HOP_US }
    (s1.abortCut m n c).leaderReplicate n

/-- The leader starts the first of some changes that still stands; a composition that no longer does is refused, and nothing of it commits
(R24, R502). -/
def State.pumpFrom (s : State) : List Change → State
  | [] => { s with keeper := { s.keeper with changes := [] } }
  | c :: cs =>
    -- of equal requests the first that passed the checks is the first that is waiting
    let asked := (s.keeper.passed.find? (fun r => r.2 == c)).toList
    let s1 := { s with keeper := { s.keeper with passed := asked.foldl (fun ps r => ps.erase r) s.keeper.passed } }
    if s.mapCur.any (fun m => m.idle c) then State.pumpFrom s1 cs
    else match s.mapCur.bind (fun m => s.changeRefused m c) with
      | some (st, n) => State.pumpFrom (forL asked s1 (fun r t => t.refuseCompose r.1 st n)) cs
      | none =>
        let s2 := { s1 with keeper := { s1.keeper with changes := cs } }
        (forL asked s2 (fun r t => t.acceptCompose r.1 (nextEpoch t.epoch) (c.jobNum (t.keeper.lastJob + 1)))).startChange c

/-- The leader starts its next change. -/
def State.pump (s : State) : State :=
  if !s.leader ∨ s.keeper.stage ≠ 0 ∨ s.fenced ∨ s.keeper.changes = [] then s else s.pumpFrom s.keeper.changes

def State.addChange (s : State) (c : Change) : State := { s with keeper := { s.keeper with changes := s.keeper.changes ++ [c] } }.pump

/-! ### Formation (R440, R441) -/

/-- Every device that some gathered record names has sent its own. -/
def State.topoClosed (s : State) : Bool :=
  s.keeper.topo.all (fun t => t.2.all (fun l => s.keeper.topo.any (fun u => u.1 == l.2.1)))

/-- Identifiers of the first map: the node plan first, the others the lowest free in ascending order of device (R440). -/
def assignNodes (plan : List (Nat × Nat)) (devs : List Nat) : List (Nat × Nat) :=
  let planned := plan.filter (fun p => devs.contains p.2)
  let others := sortBy (fun a b => decide (a ≤ b)) (devs.filter (fun d => !planned.any (fun p => p.2 == d)))
  sortBy (fun a b => decide (a.1 ≤ b.1)) (others.foldl (fun (acc : List (Nat × Nat)) d =>
    let n := ((List.range (acc.length + plan.length + 1)).find? (fun n => !acc.any (fun x => x.1 == n) && !plan.any (fun p => p.1 == n))).getD 0
    acc ++ [(n, d)]) planned)

/-- The map of epoch 1. -/
def State.firstMap (s : State) : FMap :=
  let ns := assignNodes ((s.cfg.map (·.plan)).getD []) (s.keeper.topo.map (·.1))
  let nodeOf (d : Nat) : Nat := ((ns.find? (fun x => x.2 == d)).map (·.1)).getD 0xFFFF
  let links := s.keeper.topo.flatMap (fun t => t.2.map (fun l => (⟨nodeOf t.1, l.1, nodeOf l.2.1, l.2.2⟩ : LinkEnt)))
  { epoch := 1, term := s.keeper.term, leader := nodeOf s.devId, keepers := (s.keeperDevs.map nodeOf).filter (· != 0xFFFF),
    domain := (s.cfg.map (·.domain)).getD 0, baseUs := s.fld f_QF_TDEAD_BASE_US, hopUs := s.fld f_QF_TDEAD_HOP_US,
    nodes := ns.map (fun (x : Nat × Nat) => {
      node := x.1, dev := x.2, state := .live, since := 0, caching := 0, keeper := s.keeperDevs.contains x.2 }),
    links := links.filter (fun l => decide (l.a < l.b)), jobs := [] }

/-- This ZV9's own topology record: port, peer device, peer's port. -/
def State.ownTopo (s : State) : List (Nat × Nat × Nat) :=
  (List.range 8).filterMap (fun q => if s.qfUp q then (s.link (4 + q)).map (fun l => (q, l.peerDev, s.fldAt f_QF_PORT_PEER_PORT q)) else none)

/-- The domain table of a new leader: empty, then the whole counts of its own entries (R531, log 101). -/
def State.freshDomain (s : State) : State :=
  let s1 := forL (s.alarmEntries 0x160000) s (fun x t => forN 4 t (fun n u => u.setWord (0x160000 + 0x20 * x.1 + 8 * n) 0))
  forL (s1.alarmEntries 0x140000) s1 (fun x t =>
    let a := 0x140000 + 0x20 * x.1
    let source := bits x.2.toNat 32 16
    let cause := bits x.2.toNat 24 8
    let i := if x.1 < 256 then x.1 else (t.alarmSlot 0x160000 t.me source cause).1
    t.alarmAdd 0x160000 i t.me source cause (bits (t.word (a + 8)).toNat 0 32) (t.word (a + 16)).toNat (t.word (a + 24)).toNat)

/-- The leader forms the domain once the topology is gathered. -/
def State.tryForm (s : State) : State :=
  if s.leader && s.mapCur.isNone && s.topoClosed && s.keeper.stage == 0 then
    let m := s.firstMap
    (({ s with keeper := { s.keeper with topo := s.keeper.topo } }.setFld f_AS_NODE_NODE m.leader)).freshDomain.addChange (.form m)
  else s

/-! ### Election (R433) -/

/-- Every entry of the alarm table is sent anew to a new leader (R531). -/
def State.resendAlarms (s : State) : State :=
  forL (s.alarmEntries 0x140000) s (fun x t =>
    let a := 0x140000 + 0x20 * x.1
    let n := bits (t.word (a + 8)).toNat 0 32
    (t.setWord (a + 8) (BitVec.ofNat 64 n)).setWord a (BitVec.ofNat 64 (x.2.toNat / 4 * 4 + (if n = 0 then 1 else 3))))

/-- To a new leader a ZV9 repeats what the old one may have been the last to hear: its slices and ports, the neighbours that it suspects and
the links that are down (R431, R436, R531). -/
def State.retell (s : State) : State :=
  let s1 := (s.resendAlarms.tellLeader (.slices s.me s.configMask)).tellLeader (.ports s.me s.portMask s.cachingMask)
  match s1.mapCur with
  | none => s1
  | some m => forL (m.ports s1.me) s1 (fun p t =>
      if t.qfUp p.1 then t
      else if t.keeper.suspects.contains p.1 then t.tellLeader (.suspect p.2.1 p.1)
      else t.tellLeader (.portDown ⟨t.me, p.1, p.2.1, p.2.2⟩))

/-- This keeper leads its term: it first finishes what it has replicated. -/
def State.becomeLeader (s : State) : State :=
  let s1 := (s.setFld f_QF_STATE_LEADER 1).setFld f_QF_STATE_LEADER_NODE s.me
  let s2 : State := { s1 with mapCur := s1.mapCur.map (fun (m : FMap) => { m with leader := s1.me }), keeper := { s1.keeper with candidate := false, stage := 0, changes := [], passed := [], up := none, topo := if s1.mapCur.isNone then [(s1.devId, s1.ownTopo)] else [] } }
  let s3 := s2.retell.freshDomain
  match s3.keeper.replicated with
  | some m => if laterEpoch m.epoch s3.epoch then s3.leaderReplicate { m with term := s3.keeper.term, leader := s3.me } else s3.tryForm
  | none => s3.tryForm

/-- `ELECTION_TIMEOUT` (R433): no leader beat for 5 ms and this keeper's wait is over. -/
def execElectionTimeout (s : State) : Host.Outcome State Fault Refusal :=
  .next (s.whenAlive (match s.keeperPos with
    | none => s
    | some r =>
      if s.leader ∨ s.fenced then s
      else
        let term := s.keeper.term + 1
        let s1 : State := { s.setFld f_QF_STATE_KEEPER 1 with keeper := { s.keeper with term := term, voted := term, votes := [r], candidate := true } }
        if s1.quorum ≤ 1 then s1.becomeLeader else s1.toKeepers (.voteReq term s1.newest)))

/-- A newer term is seen: this keeper no longer leads or stands. -/
def State.seeTerm (s : State) (term : Nat) : State :=
  if s.keeper.term < term then
    { s.setFld f_QF_STATE_LEADER 0 with keeper := { s.keeper with term := term, candidate := false, votes := [], stage := 0, acks := [], changes := [], passed := [] } }
  else s

/-- `VOTE_REQ` (R433): `src` is the candidate's place in the keeper list. -/
def execVoteReq (src term newest : Nat) (s0 : State) : Host.Outcome State Fault Refusal :=
  let s := s0.takeMap (.voteReq term newest)
  .next (s0.whenAlive (if s.fenced ∨ s.keeperDevs.length ≤ src ∨ s.keeper.relayed.contains (src, .voteReq term newest) then s
    else if s.keeperPos.isNone then s.relay src (.voteReq term newest)
    else
      let s1 := (s.relay src (.voteReq term newest)).seeTerm term
      let ok := decide (s1.keeper.term = term ∧ s1.keeper.voted < term) && !laterEpoch s1.newest newest
      let s2 := if ok then { s1 with keeper := { s1.keeper with voted := term } } else s1
      s2.toKeeper src (.vote term ok src)))

/-- `VOTE` (R433): to this keeper; or, with `cand`, to the candidate at that place of the keeper list, before routes exist (R441). -/
def execVote (src term : Nat) (granted : Bool) (s0 : State) (cand : Option Nat := none) : Host.Outcome State Fault Refusal :=
  let place := (cand <|> s0.keeperPos).getD 0
  let s := s0.takeMap (.vote term granted place)
  .next (s0.whenAlive (if some place ≠ s.keeperPos then (if s.fenced then s else s.relay src (.vote term granted place))
    else if !s.keeper.candidate ∨ s.keeper.term ≠ term ∨ !granted ∨ s.keeperDevs.length ≤ src ∨ s.fenced then s
    else
      let votes := if s.keeper.votes.contains src then s.keeper.votes else s.keeper.votes ++ [src]
      let s1 := { s with keeper := { s.keeper with votes := votes } }
      if s1.quorum ≤ votes.length then s1.becomeLeader else s1))

/-- `NEIGHBOUR_EXCHANGE` (R441 phase 2): the parameters of the neighbour on a Quaril port. -/
def execNeighbourExchange (port dev : Nat) (s : State) : Host.Outcome State Fault Refusal :=
  .next (s.whenAlive (if 8 ≤ port ∨ !s.qfUp port then s
    else
      let s1 := { s with links := upd s.links (fun l => l.port == 4 + port) (fun l => { l with peerDev := dev }) }
      if s1.keeperPos.isSome then s1.setFld f_QF_STATE_KEEPER 1 else s1))

/-! ### Beats (R437) -/

/-- Up the tree that the first beat of a term has made: by the port on which it came (R441 phase 4); by every port while none has come. -/
def State.upTree (s : State) (m : MapMsg) : State :=
  match s.keeper.up with
  | some p => if 4 ≤ p && s.qfUp (p - 4) && !s.fenced then s.enqueue p (.map s.me 0xFFFF s.epoch m) else s
  | none => s.floodMap m

/-- `BEAT` (R437, R439, R441): before formation the first beat of a term is passed on and answered with this ZV9's topology; a
beat of an epoch not yet known is answered with `FETCH`. -/
def execBeat (src term epoch : Nat) (s0 : State) : Host.Outcome State Fault Refusal :=
  let from_ := (s0.rx.find? (fun x => match x.2 with | .map _ _ _ y _ _ _ => y == .beat term epoch | _ => false)).map (·.1)
  let s := s0.takeMap (.beat term epoch)
  .next (s0.whenAlive (if term < s.keeper.term ∨ (s.leader ∧ term = s.keeper.term) ∨ s.fenced then s
    else
      let new := decide (s.keeper.term < term) || s.fld f_QF_STATE_LEADER_NODE != src
      let s1 := (s.seeTerm term).setFld f_QF_STATE_LEADER_NODE src
      let s2 := { s1 with mapCur := s1.mapCur.map (fun (m : FMap) => { m with leader := src }) }
      let s3 := if new then s2.retell else s2
      match s3.mapCur with
      | some m =>
        let s4 := s3.flood (some m) src (.beat term epoch)
        if s4.epoch ≠ epoch then s4.sendMap src (.fetch epoch) else s4
      | none =>
        -- a domain that has formed: this ZV9 asks its neighbour for the map
        if epoch ≠ 0 then (match from_ with
          | some p => if 4 ≤ p ∧ s3.qfUp (p - 4) then s3.enqueue p (.map s3.me 0xFFFF s3.epoch (.fetch epoch)) else s3
          | none => s3)
        else if new then
          ({ s3 with keeper := { s3.keeper with up := from_ } }.floodMap (.beat term epoch)).upTree (.topo s3.devId s3.ownTopo)
        else s3))

/-- `TOPO` (R441 phase 4). -/
def execTopo (dev : Nat) (links : List (Nat × Nat × Nat)) (s0 : State) : Host.Outcome State Fault Refusal :=
  let s := s0.takeMap (.topo dev links)
  .next (s0.whenAlive (if s.mapCur.isSome ∨ s.keeper.topo.any (fun t => t.1 == dev) then s
    else
      let s1 := { s with keeper := { s.keeper with topo := s.keeper.topo ++ [(dev, links)] } }
      if s1.leader then s1.tryForm else s1.upTree (.topo dev links)))

/-! ### Replication, prepare, commit (R435) -/

/-- `REPLICATE`: a keeper stores a change. -/
def execReplicate (src : Nat) (m : FMap) (s0 : State) : Host.Outcome State Fault Refusal :=
  let s := s0.takeMap (.replicate m)
  .next (s0.whenAlive (if s.fenced ∨ m.term < s.keeper.term ∨ s.leader then s
    else
      -- before routes exist it goes on to the other keepers
      let s0 := s.relay (s.keeperDevs.idxOf (((m.ent m.leader).map (·.dev)).getD 0)) (.replicate m)
      if s.keeperPos.isNone then s0
      else
        let s1 := s0.seeTerm m.term
        let s2 := { s1 with keeper := { s1.keeper with replicated := some m } }
        if s2.mapCur.isNone then s2.toKeepers (.replAck m.epoch) else s2.sendMap src (.replAck m.epoch)))

/-- `REPL_ACK`: `src` is the keeper's place in the keeper list. -/
def execReplAck (src epoch : Nat) (s0 : State) : Host.Outcome State Fault Refusal :=
  let s1 := s0.takeMap (.replAck epoch)
  let s := if s1.leader || s1.fenced || decide (s1.keeperDevs.length ≤ src) then s1 else s1.relay src (.replAck epoch)
  .next (s0.whenAlive (match s.keeper.replicated with
    | some m =>
      if !s.leader ∨ s.keeper.stage ≠ 1 ∨ m.epoch ≠ epoch ∨ s.keeperDevs.length ≤ src then s
      else
        let acks := if s.keeper.acks.contains src then s.keeper.acks else s.keeper.acks ++ [src]
        let s1 := { s with keeper := { s.keeper with acks := acks } }
        if s1.quorum ≤ acks.length then s1.leaderPrepare m else s1
    | none => s))

/-- Answer up the tree when the subtree has acknowledged. -/
def State.ackUp (s : State) (m : FMap) : State :=
  if (m.floodKids s.me m.leader).all (fun n => s.keeper.prepNodes.contains n) then
    match m.towards s.me m.leader with
    | some n => (match (m.ports s.me).find? (fun p => p.2.1 == n && s.qfUp p.1) with
      | some p => if s.fenced then s else s.enqueue (4 + p.1) (.map s.me n s.epoch (.prepareAck m.epoch s.keeper.prepAcks))
      | none => s)
    | none => s
  else s

/-- `PREPARE`: the ZV9 holds the next map as prepared. -/
def execPrepare (src : Nat) (m : FMap) (s0 : State) : Host.Outcome State Fault Refusal :=
  let s := s0.takeMap (.prepare m)
  .next (s0.whenAlive (if s.leader ∨ !laterEpoch m.epoch s.epoch ∨ m.term < s.keeper.term ∨ s.fenced ∨ s.mapPrep == some m ∨ src = s.me then s
    else
      let s0 := (s.seeTerm m.term).drainOld
      let s1 := if s0.mapCur.isNone then s0.setFld f_AS_NODE_NODE ((m.nodeOfDev s0.devId).getD 0) else s0
      let s2 := { s1 with mapPrep := some m, keeper := { s1.keeper with prepAcks := 1, prepNodes := [] } }
      (s2.flood (some m) m.leader (.prepare m)).ackUp m))

/-- `PREPARE_ACK`: at the leader, or at a node of the tree. -/
def execPrepareAck (src epoch count : Nat) (s0 : State) : Host.Outcome State Fault Refusal :=
  let s := s0.takeMap (.prepareAck epoch count)
  .next (s0.whenAlive (match s.mapPrep with
    | none => s
    | some m =>
      if m.epoch ≠ epoch ∨ s.keeper.prepNodes.contains src ∨ !(m.floodKids s.me m.leader).contains src then s
      else
        let s1 := { s with keeper := { s.keeper with prepNodes := s.keeper.prepNodes ++ [src], prepAcks := s.keeper.prepAcks + count } }
        if s1.leader ∧ m.leader = s1.me then
          if s1.keeper.stage = 2 ∧ m.liveNodes.length ≤ s1.keeper.prepAcks then (s1.leaderCommit m).pump else s1
        else s1.ackUp m))

/-- `PREPARE_ACK_TIMEOUT` (R435 step 4): 2 ms after the flood; the nodes behind a neighbour that has not acknowledged are
fenced in the next epoch. -/
def execPrepareAckTimeout (s : State) : Host.Outcome State Fault Refusal :=
  .next (s.whenAlive (match s.mapPrep with
    | none => s
    | some m =>
      if !s.leader ∨ s.keeper.stage ≠ 2 then s
      else
        let late := ((m.floodKids s.me s.me).filter (fun n => !s.keeper.prepNodes.contains n)).flatMap (fun n => m.behind s.me n)
        let s1 := s.leaderCommit m
        let jobs := m.jobs.filter (fun j => late.any (fun n => j.nodes.contains n))
        let s2 := forL jobs s1 (fun j t => t.originAbort j.num 1 ((late.find? (fun n => j.nodes.contains n)).getD 0))
        (forL late s2 (fun n t => { t with keeper := { t.keeper with changes := t.keeper.changes ++ [.fence n] } })).pump))

/-- `COMMIT` (R435 step 5). -/
def execCommit (src epoch : Nat) (s0 : State) : Host.Outcome State Fault Refusal :=
  let s := s0.takeMap (.commit epoch)
  .next (s0.whenAlive (match s.mapPrep with
    | some m =>
      if m.epoch = epoch ∧ !s.leader then (s.flood (some m) m.leader (.commit epoch)).applyMap m else s
    | none => if !laterEpoch epoch s.epoch ∨ s.leader then s else s.sendMap src (.fetch epoch)))

/-- `FETCH` (R439): answered on the port it came by, fenced or not a member. -/
def execFetch (port src epoch : Nat) (s0 : State) : Host.Outcome State Fault Refusal :=
  let tag := s0.mapTag (.fetch epoch)
  let s := s0.takeMap (.fetch epoch)
  .next (s0.whenAlive (if 8 ≤ port ∨ !s.qfUp port ∨ s.fenced then s
    else match s.mapOf epoch with
      | some m => s.enqueue (4 + port) (.map s.me src s.epoch (.mapData m) 1 0 tag)
      | none => s))

/-- A map holds this ZV9: its node; or, before it has one, a live node of its device. -/
def State.inMap (s : State) (m : FMap) : Bool := if s.flag f_AS_NODE_VALID then (m.ent s.me).isSome else (m.nodeOfDev s.devId).isSome

/-- `MAP_DATA` (R438, R439, R442): a committed map that this ZV9 had missed. -/
def execMapData (m : FMap) (s0 : State) : Host.Outcome State Fault Refusal :=
  let s := s0.takeMap (.mapData m)
  .next (s0.whenAlive (if !laterEpoch m.epoch s.epoch ∨ s.leader ∨ s.fenced ∨ !s.inMap m then s else s.applyMap m))

/-! ### Verdicts (R436, R540) -/

/-- The verdict on a node: its jobs abort and the next epoch marks it (R534 trigger 1). -/
def State.verdict (s : State) (n : Nat) (c : Change) : State :=
  match s.mapCur with
  | none => s
  | some m => (forL (m.jobs.filter (fun j => j.nodes.contains n)) s (fun j t => t.originAbort j.num 1 n)).addChange c

/-- A change that would leave a node without a path makes no probe (R436). -/
def FMap.wouldCut (m : FMap) (l : LinkEnt) (n : Nat) : Bool := (m.dropLinks (fun x => x == l || x == ⟨l.b, l.pb, l.a, l.pa⟩)).cutOff.contains n

/-- The link from the ZV9 that suspects a node: on the port that it names, else the first between the two. -/
def FMap.suspectLink (m : FMap) (p : Nat × Nat × Nat) : Option LinkEnt :=
  m.links.find? (fun l =>
    (l.a == p.1 && l.b == p.2.1 && (p.2.2 == 8 || l.pb == p.2.2)) || (l.a == p.2.1 && l.b == p.1 && (p.2.2 == 8 || l.pa == p.2.2)))

/-- `PROBE`: a probe of this ZV9, answered; or, with `answer`, the answer of the suspect `src` at the leader. -/
def execProbe (src : Nat) (answer : Bool) (s0 : State) : Host.Outcome State Fault Refusal :=
  let tag := s0.mapTag .probe
  let s := s0.takeMap (if answer then .probeAnswer else .probe)
  .next (s0.whenAlive (if !answer then s.sendMap src .probeAnswer tag
    else
      let s1 := { s with keeper := { s.keeper with probes := del s.keeper.probes (fun p => p.1 == src) } }
      forL (s.keeper.probes.filter (fun p => p.1 == src)) s1 (fun p t => match t.mapCur.bind (fun m => m.suspectLink p) with
        | some l => t.addChange (.dropLink l)
        | none => t)))

/-- `PROBE_TIMEOUT`: no answer within T_dead: the verdict is dead. -/
def execProbeTimeout (node : Nat) (s : State) : Host.Outcome State Fault Refusal :=
  .next (s.whenAlive (if !s.leader ∨ !s.keeper.probes.any (fun p => p.1 == node) then s
    else { s with keeper := { s.keeper with probes := del s.keeper.probes (fun p => p.1 == node) } }.verdict node (.dead node)))

/-! ### Composition at the leader (R500 to R503) -/

/-- The leader judges a request of a node (R502). -/
def State.judgeCompose (s : State) (node op mode job : Nat) (es : List JobSlice) (rsvdOk : Bool) : State :=
  match s.mapCur with
  | none => s
  | some m =>
    if !s.leader then s
    else
      let s1 := { s with keeper := { s.keeper with requests := s.keeper.requests.filter (fun r => r != (node, composeChange op mode job es)) } }
      match (if rsvdOk then s1.composeChecks m op mode job es else some (eFormat, 0)) with
      | some (st, n) => s1.refuseCompose node st n
      | none =>
        let s2 := if op = 4 then s1.originAbort job 4 0 else s1
        let c := composeChange op mode job es
        ({ s2 with keeper := { s2.keeper with passed := s2.keeper.passed ++ [(node, c)] } }).addChange c

/-- `COMPOSE` (R501, R502) at the leader. -/
def execCompose (node mode : Nat) (entries : List JobSlice) (s : State) : Host.Outcome State Fault Refusal :=
  .next (s.whenAlive (s.judgeCompose node 1 mode 0 entries true))

/-- `EXTEND` (R501, R502) at the leader. -/
def execExtend (node job : Nat) (entries : List JobSlice) (s : State) : Host.Outcome State Fault Refusal :=
  .next (s.whenAlive (s.judgeCompose node 2 0 job entries true))

/-- `SHRINK` (R501 to R503) at the leader. -/
def execShrink (node job : Nat) (entries : List JobSlice) (s : State) : Host.Outcome State Fault Refusal :=
  .next (s.whenAlive (s.judgeCompose node 3 0 job entries true))

/-- `TEARDOWN` (R501 to R503, R534 trigger 4) at the leader. -/
def execTeardown (node job : Nat) (s : State) : Host.Outcome State Fault Refusal :=
  .next (s.whenAlive (s.judgeCompose node 4 0 job [] true))

/-- `COMPOSE_TIMEOUT` (R502 check 4): no commit within 50 ms of the write. -/
def execComposeTimeout (s : State) : Host.Outcome State Fault Refusal :=
  .next (s.whenAlive (if s.composing.isSome ∨ s.composeAt.isSome then { s.endCompose eTimeout 0 with composeAt := none } else s))

/-! ### Reports (R435, R436, R439) -/

/-- A device that neighbours report is admitted once, with the links of all their reports (R442): one that comes when the device has its node,
or gets it with the change under way, is a link to that node. -/
def State.admitDevice (s : State) (m : FMap) (dev : Nat) (l : LinkEnt) : State :=
  let next := if s.keeper.stage = 0 then none else s.keeper.replicated
  match m.nodeOfDev dev <|> next.bind (fun x => x.nodeOfDev dev) with
  | some n => s.addChange (.addLink { l with b := n })
  | none =>
    if s.keeper.changes.any (fun c => match c with | .admitDev d _ => d == dev | _ => false) then
      { s with keeper := { s.keeper with changes := s.keeper.changes.map (fun c => match c with
          | .admitDev d ls => if d = dev then .admitDev d (ls ++ [l]) else c
          | _ => c) } }
    else s.addChange (.admitDev dev [l])

/-- What the leader does with a report. -/
def State.takeReport (s : State) (src : Nat) (r : Report) : State :=
  match s.mapCur with
  | none => s
  | some m =>
    match r with
    | .suspect n port =>
      let probe := ({ s with keeper := { s.keeper with probes := s.keeper.probes ++ [(n, src, port)] } }).sendMap n .probe
      if !m.live n ∨ n = s.me then s
      else match m.suspectLink (n, src, port) with
        | some l => if m.wouldCut l n then s.addChange (.dropLink l) else probe
        | none => probe
    | .portUp l => s.addChange (.addLink l)
    | .portDown l => if m.links.contains l then s.addChange (.dropLink l) else s
    | .newDevice dev l => s.admitDevice m dev l
    | .expiry job =>
      if s.keeper.torn.contains job ∨ !(m.job job).any (fun j => j.mode == 1) then s
      else (({ s with keeper := { s.keeper with torn := s.keeper.torn ++ [job] } }).originAbort job 4 0).addChange (.teardown job)
    -- a port that is gone is bound no more
    | .recall n k | .killed n k => s.addChange (.dropClient n k)
    | .ports n mask caching => { s with keeper := { s.keeper with
        bindable := put (fun _ => 0#4) s.keeper.bindable n [mask], clients := put (fun _ => 0#4) s.keeper.clients n [caching] } }
    | .refused _ _ | .accepted _ _ => s
    | .slices n mask => { s with keeper := { s.keeper with reported := put (fun _ => 0#64) s.keeper.reported n [mask] } }
    | .compose n op mode job es ok =>
      if !ok ∨ op = 0 ∨ 4 < op then s.judgeCompose n op mode job es false
      else { s with keeper := { s.keeper with requests := s.keeper.requests ++ [(n, composeChange op mode job es)] } }

/-- `REPORT` (R439) at the leader; at another ZV9 the leader's refusal of its composition request (log 96). -/
def execReport (src : Nat) (r : Report) (s0 : State) : Host.Outcome State Fault Refusal :=
  let s := s0.takeMap (.report r)
  .next (s0.whenAlive (if s.leader && !s.fenced then s.takeReport src r
    else match r with
      | .refused st n => if s.composing.isSome then s.endCompose st n else s
      | .accepted e j => if s.composing.isSome then { s with granted := some (e, j) }.endGranted else s
      | _ => s))

/-- `BEAT_SEND` (R437): the leader floods its beat and acts on the reports of its own ZV9. -/
def execBeatSend (s : State) : Host.Outcome State Fault Refusal :=
  .next (s.whenAlive (if !s.leader ∨ s.fenced then s
    else
      let s1 := { s with keeper := { s.keeper with reports := [] } }.flood s.mapCur s.me (.beat s.keeper.term s.epoch)
      (forL s.keeper.reports s1 (fun r t => t.takeReport r.1 r.2)).pump))

end Sys2Proof.Machine
end

