-- ==== Sys2Proof/Machine/Store.lean ====
section
/-! DEFINITION. The central store (R473 to R496): carve-outs and allotments as the setup lock fixes them, the leaked-buffer
audit, and the writes of the mirror registers. -/

namespace Sys2Proof.Machine

/-! ### Carve-outs (R475, R476) -/

/-- Units of the carve-outs other than the scratchpad. -/
def State.otherUnits (s : State) : Nat :=
  s.fld f_STORE_CARVE_PKT_UNITS + s.dirUnits + 1 + 3 + s.fld f_STORE_CARVE_ATW_UNITS + s.fld f_STORE_CARVE_STG_UNITS + 2

/-- Units of the transit part of tile staging, as bytes: what the T0 frames leave. -/
def State.transitOk (s : State) : Bool :=
  decide (6 * 25165824 + s.fld f_STORE_CARVE_T0_FRAMES * tileBytes ≤ s.fld f_STORE_CARVE_STG_UNITS * 25165824)

/-- The layout is valid. -/
def State.layoutOk (s : State) : Bool :=
  let pk := s.fld f_STORE_CARVE_PKT_UNITS
  let st := s.fld f_STORE_CARVE_STG_UNITS
  let l2 := s.fld f_REEVE_CFG_SETS_LOG2
  decide (1 ≤ pk ∧ pk ≤ 8) && decide (s.fld f_STORE_CARVE_ATW_UNITS ≤ 128) && decide (6 ≤ st ∧ st ≤ 128) &&
  decide (s.fld f_STORE_CARVE_T0_FRAMES ≤ 49152) && (l2 == 0 || decide (16 ≤ l2 ∧ l2 ≤ 23)) && s.transitOk &&
  decide (s.otherUnits ≤ 256)

/-! ### Allotments (R478 to R481) -/

/-- Cells of the packet buffer. -/
def State.bufferCells (s : State) : Nat := s.fld f_STORE_CARVE_PKT_UNITS * 98304

/-- Least allowed value of a class (R480). -/
def leastCells (tc : Nat) : Nat := if tc < 3 then 1 else 5

def allRows : List (Nat × Nat) := (List.range 53).flatMap (fun r => (List.range 8).map (fun t => (r, t)))

def State.allotted (s : State) : Nat := (allRows.map (fun x => s.allotment x.1 x.2)).sum

/-- The set of allotments is valid (R481). -/
def State.limitsOk (s : State) : Bool :=
  allRows.all (fun x => decide (leastCells x.2 ≤ s.allotment x.1 x.2)) && decide (1024 ≤ s.fld f_STORE_CARVE_DESC_CELLS) &&
  decide (s.allotted + s.fld f_STORE_CARVE_DESC_CELLS ≤ s.bufferCells)

/-- The layout of the store when the setup lock is set: checks, defaults, and what `STORE_CARVE_STAT` and
`AS_SCRATCH_LIMIT` then hold (R37, R476, R481, R492). -/
def State.layStore (s : State) : State :=
  let s1 := if s.layoutOk then s
    else
      let t := (s.setWord 0xC0000 (resetWord 0xC0000)).setFld f_REEVE_CFG_SETS_LOG2 22
      (t.setFld f_STORE_CARVE_STAT_LAYOUT_DEFAULTED 1).raise (ev 0x15 0 2)
  let s2 := if s1.limitsOk then s1
    else
      let t := forN 53 s1 (fun r u => (u.setWord (0xC1000 + 0x10 * r) (resetWord (0xC1000 + 0x10 * r))).setWord (0xC1008 + 0x10 * r)
        (resetWord (0xC1008 + 0x10 * r)))
      ((t.setFld f_STORE_CARVE_DESC_CELLS 65536).setFld f_STORE_CARVE_STAT_LIMITS_DEFAULTED 1).raise (ev 0x15 0 3)
  let scr := 256 - s2.otherUnits
  (((s2.setFld f_STORE_CARVE_STAT_SCR_UNITS scr).setFld f_STORE_CARVE_STAT_DIR_UNITS s2.dirUnits).setFld f_STORE_CARVE_STAT_SPARE
    (s2.bufferCells - s2.allotted - s2.fld f_STORE_CARVE_DESC_CELLS)).setFld f_AS_SCRATCH_LIMIT_LEN (scr * 25165824)

/-! ### The leaked-buffer audit (R488 to R490) -/

/-- A cell leaves its allotment for good: a spare cell takes its place, or the allotment shrinks (R490). -/
def State.loseCell (s : State) (cell : Nat) (o : CellOwner) : State :=
  let s1 := s.incSat f_STORE_AUDIT_STAT_QUARANTINED
  let spare := s1.fld f_STORE_CARVE_STAT_SPARE
  let low (t : State) : State := (t.setFld f_STORE_CARVE_STAT_SPARE_EXHAUSTED 1).raise (ev 0x14 0 (cell % 2 ^ 20 + 4 * 2 ^ 20))
  if spare ≠ 0 then s1.setFld f_STORE_CARVE_STAT_SPARE (spare - 1)
  else match o with
    | .spare => s1
    | .desc =>
      let n := s1.fld f_STORE_CARVE_DESC_CELLS - 1
      let s2 := s1.setFld f_STORE_CARVE_DESC_CELLS n
      if n < 1024 then low s2 else s2
    | .allot i tc vl =>
      let n := s1.allotment (rowOf i vl) tc - 1
      let s2 := s1.setFldAt (limitFld tc) (rowOf i vl) n
      if n < leastCells tc then low s2 else s2

/-- Keep what the audit knows of a cell. -/
def State.markCell (s : State) (c : CellSeen) (m : CellMark) : State :=
  { s with cells := del s.cells (fun x => x.cell == c.cell) ++ [{ cell := c.cell, owner := c.owner, gen := c.gen, mark := m }] }

/-- One cell that the pass finds neither free nor held, or both. -/
def State.auditCell (s : State) (c : CellSeen) : State :=
  match s.cells.find? (fun x => x.cell == c.cell) with
  | some ⟨_, _, _, .quarantined⟩ => s
  | some ⟨_, _, _, .dual⟩ =>
    if !c.free && !c.held then (s.markCell c .quarantined).loseCell c.cell c.owner else s
  | some ⟨_, _, g, .suspect⟩ =>
    if c.free && c.held then ((s.markCell c .dual).incSat f_STORE_AUDIT_STAT_DUALS).raise (ev 0x14 0 (c.cell % 2 ^ 20 + 2 * 2 ^ 20))
    else if c.free || c.held then s
    else if g = c.gen then
      (((s.markCell c .quarantined).incSat f_STORE_AUDIT_STAT_LEAKED).raise (ev 0x14 0 (c.cell % 2 ^ 20 + 2 ^ 20))).loseCell c.cell c.owner
    else s.markCell c .suspect
  | none =>
    if c.free && c.held then ((s.markCell c .dual).incSat f_STORE_AUDIT_STAT_DUALS).raise (ev 0x14 0 (c.cell % 2 ^ 20 + 2 * 2 ^ 20))
    else if c.free || c.held then s
    else s.markCell c .suspect

/-- A pass of the audit: `found` the cells out of order, `diffs` the allotments whose in-use count differs from the held
cells found. The cell that an alarm of a count fix names is a free value. -/
def State.auditPass (s : State) (found : List CellSeen) (diffs : List (Nat × Int)) : State :=
  let s1 := { s with cells := s.cells.filter (fun x => x.mark != CellMark.suspect || found.any (fun c => c.cell == x.cell)) }
  let s2 := forL found s1 (fun c t => t.auditCell c)
  let fixed := diffs.filter (fun d => d.2 != 0 && s.auditDiff.contains d)
  let s3 := forL fixed s2 (fun _ t =>
    let (n, u) := t.takeNat
    (u.incSat f_STORE_AUDIT_STAT_COUNT_FIXES).raise (ev 0x14 0 (n % 2 ^ 20 + 3 * 2 ^ 20)))
  { s3 with auditDiff := diffs.filter (fun d => d.2 != 0 && !fixed.contains d) }

/-- `STORE_AUDIT_PASS` (R488 to R490). -/
def execStoreAuditPass (found : List CellSeen) (diffs : List (Nat × Int)) (s : State) : Host.Outcome State Fault Refusal :=
  .next (s.whenAlive (if s.flag f_STORE_AUDIT_ENABLE then s.auditPass found diffs else s))

/-! ### The mirror (R486, R495) -/

/-- A write of `STORE_MIRROR`: both counts of the port return to 0; the samples that `SEQ` numbers go on (R487). DEDUCED (log 121). -/
def State.mirrorWrite (s : State) (port : Nat) (w : Word) : State :=
  if 12 ≤ port then s
  else
    let s1 := s.plainWrite (0xC0100 + 8 * port) w (fun n v => n != "LOG2_N" || decide (v ≤ 20))
    { s1 with mirrorCnt := upd s1.mirrorCnt (fun c => c.1 / 2 == port) (fun c => (c.1, (0, c.2.2))) }

/-- `STORE_MIRROR_WRITE` (R486, R495). -/
def execStoreMirrorWrite (port : Nat) (word : Word) (s : State) : Host.Outcome State Fault Refusal := .next (s.whenAlive (s.mirrorWrite port word))

end Sys2Proof.Machine
end

