-- ==== Sys2Proof/Machine/Slices.lean ====
section
/-! DEFINITION. Slices (R497 to R522): the writes of their registers, slice reset, the composition request of this ZV9, revoking
an extent, vector entries; and the array registers (R109, R139). -/

namespace Sys2Proof.Machine

/-! ### Writes of the slice registers (R498, R499, R516, R517, R521) -/

def allSlices : List Nat := List.range 64

/-- No two of the masks share a bit. -/
def disjointMasks (ms : List Nat) : Bool :=
  (List.range 32).all (fun b => decide ((ms.filter (fun m => bit m b)).length ≤ 1))

/-- A sum over the configured slices. -/
def State.sumConf (s : State) (f : Fld) : Nat := ((allSlices.filter s.configured).map (fun x => s.fldAt f x)).sum

/-- The minimums at every kind of arbitration point leave room (R498, R504). -/
def State.minsOk (s : State) : Bool :=
  let t := s.fld f_SLC_GLOBAL_TRANSIT_MIN
  decide (s.sumConf f_SLC_SHARE_DRAM_PCS * 256 + t * 384 ≤ 384 * 256) && decide (s.sumConf f_SLC_QOS_STORE_MIN + t ≤ 256) &&
  decide (s.sumConf f_SLC_QOS_LINK_MIN + t ≤ 256) && decide (s.sumConf f_SLC_QOS_ENG_MIN ≤ 256)

/-- Contexts granted in an engine. -/
def State.ctxGranted (s : State) (mask ctx : Fld) (e : Nat) : Nat :=
  ((allSlices.filter (fun x => bit (s.fldAt mask x) e)).map (fun x => s.fldAt ctx x)).sum

/-- The capacity conditions of R498. -/
def State.capacityOk (s : State) : Bool :=
  disjointMasks (allSlices.map (fun x => s.fldAt f_SLC_CFG_GROUPS x)) && disjointMasks (allSlices.map (fun x => s.fldAt f_SLC_MOVERS_MOVERS x)) &&
  (List.range 16).all (fun a => decide (s.ctxGranted f_SLC_CFG_ASSAYERS f_SLC_CFG_ASY_CTX a ≤ 512)) &&
  (List.range 8).all (fun g => decide (s.ctxGranted f_SLC_CFG_GLEANERS f_SLC_CFG_GLN_CTX g ≤ 16)) &&
  decide ((allSlices.map (fun x => s.fldAt f_SLC_SHARE_ATW_64K x)).sum ≤ s.fld f_STORE_CARVE_ATW_UNITS * 384) &&
  decide ((allSlices.map (fun x => s.fldAt f_SLC_SHARE_DESC_MIN x)).sum ≤ s.fld f_STORE_CARVE_DESC_CELLS) && s.minsOk &&
  allSlices.all (fun x => !s.configured x ||
    (s.fldAt f_SLC_QOS_ENG_WT x != 0 && s.fldAt f_SLC_QOS_LINK_WT x != 0 && s.fldAt f_SLC_QOS_STORE_WT x != 0 && s.fldAt f_SLC_QOS_DRAM_WT x != 0)) &&
  allSlices.all (fun x => decide (s.fldAt f_SLC_CFG_GLN_CTX x ≤ 16) && decide (s.fldAt f_SLC_CFG_ASY_CTX x ≤ 512) &&
    decide (s.fldAt f_SLC_SHARE_DRAM_PCS x ≤ 384) && decide (s.fldAt f_SLC_SHARE_ATW_64K x ≤ 49152))

/-- Release every grant of a slice. -/
def State.releaseGrants (s : State) (slice : Nat) : State :=
  (((s.setWord (0xD0000 + 8 * slice) 0).setWord (0xD0200 + 8 * slice) 0).setWord (0xD0400 + 8 * slice) 0).setWord (0xD0600 + 8 * slice)
    (resetWord (0xD0600 + 8 * slice))

/-- A write of `SLC_CFG`, `SLC_MOVERS`, `SLC_SHARE` or `SLC_QOS` of a slice, whose offset is given: it takes effect whole or
not at all. -/
def State.sliceWrite (s : State) (off slice : Nat) (w : Word) : State :=
  if 64 ≤ slice then s
  else
    let t0 := s.plainWrite off w (fun _ _ => true)
    let t := if slice = 0 then t0.setFldAt f_SLC_CFG_ENABLE 0 1
      else if s.configured slice && !t0.configured slice then t0.releaseGrants slice else t0
    let free := slice == 0 || (s.jobNum slice == 0 && !s.rings.any (fun r => r.slice == slice) && s.fldAt f_SLC_STATUS_BUSY slice == 0)
    if free && t.capacityOk then
      if t.configMask = s.configMask then t else t.tellLeader (.slices t.me t.configMask)
    else s.setFldAt f_SLC_STATUS_CFG_REJECT slice 1

/-- `SLC_CFG_WRITE` (R498, R499, R516). -/
def execSlcCfgWrite (slice : Nat) (word : Word) (s : State) : Host.Outcome State Fault Refusal :=
  .next (s.whenAlive (s.sliceWrite (0xD0000 + 8 * slice) slice word))

/-- `SLC_MOVERS_WRITE` (R498, R516). -/
def execSlcMoversWrite (slice : Nat) (word : Word) (s : State) : Host.Outcome State Fault Refusal :=
  .next (s.whenAlive (s.sliceWrite (0xD0200 + 8 * slice) slice word))

/-- `SLC_SHARE_WRITE` (R498, R517). -/
def execSlcShareWrite (slice : Nat) (word : Word) (s : State) : Host.Outcome State Fault Refusal :=
  .next (s.whenAlive (s.sliceWrite (0xD0400 + 8 * slice) slice word))

/-- `SLC_QOS_WRITE` (R498, R517). -/
def execSlcQosWrite (slice : Nat) (word : Word) (s : State) : Host.Outcome State Fault Refusal :=
  .next (s.whenAlive (s.sliceWrite (0xD0600 + 8 * slice) slice word))

/-- A write of `SLC_GLOBAL`. -/
def State.globalWrite (s : State) (w : Word) : State :=
  let t := s.plainWrite 0xD0A30 w (fun _ _ => true)
  if t.fld f_SLC_GLOBAL_TRANSIT_WT = 0 ∨ !t.minsOk then s else t

/-- `SLC_GLOBAL_WRITE` (R498, R521). -/
def execSlcGlobalWrite (word : Word) (s : State) : Host.Outcome State Fault Refusal := .next (s.whenAlive (s.globalWrite word))

/-! ### Stopping descriptors that then wait for their answers (R510, R514) -/

/-- A descriptor stops issuing and ends with a status once its issued accesses are answered or have timed out. -/
def State.haltDesc (s : State) (d : Desc) (status cause : Nat) : State :=
  let s1 := { s with queues := del s.queues (fun q => q.key == d.key) }
  if d.phase == .ended then
    if s.outstanding d.key && decide (d.status < 0x10) then s1.endDesc d.key status 8 cause d.progress else s
  else if s.outstanding d.key then
    (if d.stop.isSome then s1
     else { s1 with descs := upd s1.descs (fun x => x.key == d.key) (fun x => { x with stop := some (status, cause) }) })
  else s1.endDesc d.key status 8 cause d.progress

/-! ### Slice reset (R509 to R511) -/

def State.resetOf (s : State) (slice : Nat) : Option SliceReset := s.resets.find? (fun r => r.slice == slice)

/-- Step 3: the slice's descriptors end with cause 2. -/
def State.abortReset (s : State) (slice : Nat) : State :=
  let s1 := { s with resets := upd s.resets (fun r => r.slice == slice) (fun r => { r with abort := true }) }
  forL (s1.descs.filter (fun d => d.key.slice == slice)) s1 (fun d t => t.haltDesc d eAborted 2)

/-- Step 1: the slice's rings stop consuming; with `QUIET` they send no interrupts. -/
def State.stopRings (s : State) (slice : Nat) (quiet : Bool) : State :=
  forL (s.rings.filter (fun r => r.slice == slice)) s (fun r t =>
    let r1 := { r with vector := if quiet then 0xFFFF else r.vector, uncovered := if quiet then 0 else r.uncovered, stopFence := none }
    let t1 := t.setRing r1
    if r.state == .faulted then t1 else t1.ringState r.slice r.num .stopping)

/-- A write of `SLC_RESET`. -/
def State.sliceReset (s : State) (w : Word) : State :=
  let slice := f_SLC_RESET_SLICE.get w
  let abort := f_SLC_RESET_MODE.get w == 1
  if f_SLC_RESET_START.get w = 0 then s
  else if slice = 0 ∨ !s.configured slice ∨ s.fldAt f_SLC_STATUS_BUSY slice = 1 ∨ (!abort ∧ f_SLC_RESET_DRAIN_MS.get w = 0) then
    s.setFldAt f_SLC_STATUS_CFG_REJECT slice 1
  else
    let quiet := f_SLC_RESET_QUIET.get w == 1
    let s1 := { s.setFldAt f_SLC_STATUS_BUSY slice 1 with resets := s.resets ++ [(⟨slice, abort, quiet⟩ : SliceReset)] }
    let s2 := s1.stopRings slice quiet
    if abort then s2.abortReset slice else s2

/-- `SLICE_RESET_DRAIN` (R509, R510): a word with `MODE` 0. -/
def execSliceResetDrain (word : Word) (s : State) : Host.Outcome State Fault Refusal :=
  .next (s.whenAlive (if f_SLC_RESET_MODE.get word = 0 then s.sliceReset word else s))

/-- `SLICE_RESET_ABORT` (R509, R510): a word with `MODE` 1. -/
def execSliceResetAbort (word : Word) (s : State) : Host.Outcome State Fault Refusal :=
  .next (s.whenAlive (if f_SLC_RESET_MODE.get word = 1 then s.sliceReset word else s))

/-- `DRAIN_TIMEOUT` (R510 step 2): `DRAIN_MS` have passed. -/
def execDrainTimeout (slice : Nat) (s : State) : Host.Outcome State Fault Refusal :=
  .next (s.whenAlive (if s.resets.any (fun r => r.slice == slice && !r.abort) then s.abortReset slice else s))

/-- Steps 1 to 4 are done: every record is written and acknowledged, every access of the slice answered. -/
def State.resetQuiet (s : State) (slice : Nat) : Bool :=
  !s.descs.any (fun d => d.key.slice == slice) && (s.rings.filter (fun r => r.slice == slice)).all s.ringQuiet &&
  !s.txns.any (fun t => t.slice == slice) && !s.abandoned.any (fun a => a.slice == slice && s.outReqs.any (fun o => o.pkt.tag == a.tag))

/-- The number of revocation records in use. -/
def State.countRevoked (s : State) : State := s.setFld f_SLC_REVOKE_STAT_LIVE s.revoked.length

/-- A slice holds an array: its group is the slice's (R497). -/
def State.holdsArray (s : State) (slice a : Nat) : Bool := bit (s.fldAt f_SLC_CFG_GROUPS slice) (a / 8)

/-- Steps 5 to 8 of R510; the operand memories of the arrays that the slice holds are cleared (R108). -/
def State.resetFinish (s : State) (slice : Nat) : State :=
  let s1 := s.dropXlate slice 0 0 true
  let s2 := forN 256 s1 (fun v t =>
    let i := 256 * slice + v
    ((t.setFldAt f_SLV_HI_ENABLE i 0).setFldAt f_SLV_HI_MASK i 0).setFldAt f_SLV_HI_PENDING i 0)
  let s3 := forL (s2.rings.filter (fun r => r.slice == slice && r.destroying != 0)) s2 (fun r t => t.destroyDone r.slice r.num)
  let s4 := {
    s3 with
    rings := del s3.rings (fun r => r.slice == slice)
    klOuts := del s3.klOuts (fun o => match o.why with | .sqRead x _ => x == slice | .ringStruct x _ => x == slice | _ => false)
    arrSlice := del s3.arrSlice (fun x => s.holdsArray slice x.1)
    arrMem := del s3.arrMem (fun x => s.holdsArray slice x.1)
    threads := del s3.threads (fun t => s.bound t.port == some slice || t.slice == some slice)
    queues := del s3.queues (fun q => q.key.slice == slice)
    revoked := del s3.revoked (fun r => r.job.isNone && r.slice == slice)
    resets := del s3.resets (fun r => r.slice == slice) }
  s4.countRevoked.setFldAt f_SLC_STATUS_BUSY slice 0

/-- `SLICE_RESET_FINISH` (R510 steps 4 to 8). -/
def execSliceResetFinish (slice : Nat) (s : State) : Host.Outcome State Fault Refusal :=
  .next (s.whenAlive (match s.resetOf slice with
    | some _ => let t := s.endStopped; if t.resetQuiet slice then t.resetFinish slice else t
    | none => s))

/-! ### The composition request of this ZV9 (R501, R502) -/

/-- A slice entry (R500), and whether its reserved bits are zero. -/
def jobSliceAt (bs : List Byte) : JobSlice × Bool :=
  let fl := leAt bs 3 1
  let po := leAt bs 4 1
  (⟨leAt bs 0 2, leAt bs 2 1, bit fl 0, BitVec.ofNat 4 po⟩, decide (fl < 2) && decide (po < 16) && zeros bs 5 3)

/-- Read `n` bytes of the composition request at `a` (R502): none ends it with `E_RANGE`, or a status of the read; or recalls are started and
the request stays busy until the bytes can be read. -/
def State.composeBytes (s : State) (a n : Nat) : Except State (List Byte) :=
  if !s.plainRange a n then .error (s.endCompose eRange 0)
  else match s.feRead a n with
    | .ok g => if g.poison.isSome then .error (s.endCompose ePoison 0) else .ok g.bytes
    | .error (.wait ns) => .error { (s.startNeeds ns).setFld f_SLC_COMPOSE_STAT_BUSY 1 with composeAt := some a }
    | .error (.err f) => .error (s.endCompose f.status 0)

/-- Read the composition request at `a` and pass it to the leader (R501, R502). -/
def State.composeRead (s : State) (a : Nat) : State :=
  match s.composeBytes a 16 with
  | .error t => t
  | .ok h =>
    let n := leAt h 2 2
    match s.composeBytes a (16 + (if n ≤ 4096 then 8 * n else 0)) with
    | .error t => t
    | .ok q =>
      let es := (List.range (if n ≤ 4096 then n else 0)).map (fun i => jobSliceAt ((q.drop (16 + 8 * i)).take 8))
      let ok := zeros q 8 8 && es.all (·.2) && decide (n ≤ 4096)
      let op := leAt q 0 1
      let mode := leAt q 1 1
      let job := leAt q 4 4
      let c := composeChange op mode job (es.map (·.1))
      let s1 := { s.setFld f_SLC_COMPOSE_STAT_BUSY 1 with composing := some c }
      s1.tellLeader (.compose s.me op mode job (es.map (·.1)) ok)

/-- A write of `SLC_COMPOSE`. -/
def State.composeWrite (s : State) (w : Word) : State :=
  if s.flag f_SLC_COMPOSE_STAT_BUSY then s else s.composeRead (f_SLC_COMPOSE_ADDR.get w * 64)

/-- A composition request that waited for its bytes is read again (R502). -/
def State.retryCompose (s : State) : State :=
  match s.composeAt with
  | none => s
  | some a => { s with composeAt := none }.composeRead a

/-- `SLC_COMPOSE_WRITE` (R501, R502). -/
def execSlcComposeWrite (word : Word) (s : State) : Host.Outcome State Fault Refusal := .next (s.whenAlive (s.composeWrite word))

/-! ### Revoking an extent (R513, R514) -/

/-- Number, base, length, owner of the extent that a write names. -/
def State.revokee (s : State) (ext : Bool) (num : Nat) : Option (Nat × Nat × Nat) :=
  if ext then (s.extent num).map (fun e => (e.base, e.tiles * tileBytes, e.owner))
  else (s.region num).map (fun r => (r.base, r.size * tileBytes, r.owner))

/-- Local ranges that a descriptor's translated pages lie on, where this ZV9 is their home. -/
def State.localPages (s : State) (d : Desc) : List (Nat × Nat) :=
  d.pages.filterMap (fun p => match s.leafOf uRing d.key.slice p.1 with
    | .leaf l => if l.node = s.me then some (l.loc, leafBytes l.size) else none
    | _ => none)

/-- The operands that a descriptor names by virtual address: address, length where it is known, right. -/
def State.operands (s : State) (d : Desc) : List (Nat × Nat × Nat) :=
  let some_ (a n right : Nat) : List (Nat × Nat × Nat) := if a = 0 then [] else [(a, n, right)]
  match d.op with
  | 0x02 => let n := bits (d.at 32 8) 0 40; [(d.at 16 8, n, rRead), (d.at 24 8, n, rWrite)]
  | 0x10 =>
    let n := match (do s.heads (← s.refPin (rrefAt d.raw 16)) (rrefAt d.raw 16).offset 1) with
      | .ok ((_, some t) :: _) => d.at 41 1 * srcBlock (d.at 40 1) t.d (d.at 42 2)
      | _ => 1
    [(d.at 32 8, n, rRead)]
  | 0x11 | 0x12 | 0x13 =>
    let dim := match s.attStream d with | .ok (some x) => x.2.d | _ => 0
    [(d.at 32 8, max 1 (d.rows * dim * (fmtBits (d.at 76 1) / 8)), rRead), (d.at 40 8, d.rows * partialStride d.outKind dim, rWrite)] ++
    some_ (d.at 48 8) (8 + 4 * d.at 68 4) rWrite ++ some_ (d.at 56 8) (4 * d.at 68 4) rRead ++ some_ (d.at 120 8) (4 * d.rows) rRead
  | 0x14 =>
    let stride := partialStride (d.at 26 1) (d.at 28 2)
    let out := d.at 27 1 * (if bit (d.at 31 1) 0 then stride else if d.at 26 1 = 1 then 4 else d.at 28 2 * (fmtBits (d.at 30 1) / 8))
    some_ (d.at 16 8) (8 * d.at 24 2) rRead ++ [(d.at 32 8, out, rWrite)] ++
    (if d.at 16 8 = 0 then (List.range (min (d.at 24 2) 8)).map (fun i => (d.at (64 + 8 * i) 8, d.at 27 1 * stride, rRead)) else [])
  | 0x20 =>
    let dim := match s.searchIndex d with | .ok (some x) => x.2.dim | _ => 0
    [(d.at 32 8, max 1 (d.at 58 1 * dim * (fmtBits d.sFmt / 8)), rRead), (d.at 40 8, d.at 58 1 * d.resStride, rWrite)] ++
    some_ (d.at 48 8) (4 * d.at 60 4) rRead ++ some_ d.filterAddr (ceilDiv d.filterBits 8) rRead
  | 0x28 => [(d.at 32 8, (d.at 48 4 - 1) * d.at 54 2 + d.at 53 1, rRead), (d.at 40 8, s.gatherOut d, rWrite)]
  | 0x29 =>
    if d.at 32 8 = 0 then (List.range (min (d.at 40 2) 7)).map (fun i => (d.at (72 + 8 * i) 8, 64, rRead))
    else [(d.at 32 8, 8 * d.at 40 2, rRead)]
  | _ => []

/-- An operand of a descriptor lies, in a page that is mapped now, in the extent here. -/
def State.operandIn (s : State) (d : Desc) (base len : Nat) : Bool :=
  (s.operands d).any (fun o => (cut 4096 o.1 o.2.1).any (fun c => match s.xlate uRing d.key.slice c.1 c.2 0 with
    | .ok ps => ps.any (fun p => p.node == s.me && overlap p.loc p.len base len)
    | .error _ => false))

/-- A descriptor or home operation of the former holder that uses the extent. -/
def State.usesExtent (s : State) (r : Revoked) (d : Desc) : Bool :=
  let (n, sl) := s.issuer d
  d.phase != .waiting && (d.phase == .running || s.outstanding d.key) && s.isFormer r n sl &&
  ((!r.extent && d.pins.any (fun p => p.region == r.num)) || (s.localPages d).any (fun p => overlap p.1 p.2 r.base r.len) ||
   (d.phase == .running && d.origin.isNone && s.operandIn d r.base r.len) ||
   (isHomeOp d.op && bits (d.at 20 4) 0 20 == r.num && (r.extent == (d.op == 0x39 && bit (d.at 18 1) 1))))

/-- An access of the former holder that waits at its bank for the extent. -/
def State.formerAccess (s : State) (r : Revoked) (w : Waiting) : Bool :=
  w.acc.org != .none && w.over r.base r.len && s.isFormer r w.acc.node w.acc.slice

/-- The owner of the extent changes, and its frames are charged to the new owner. -/
def State.changeOwner (s : State) (r : Revoked) (old new : Nat) : State :=
  let ids := if r.extent then ((s.extent r.num).map (fun e => e.map.map (·.2))).getD []
    else ((s.region r.num).map (fun g => g.working.map (·.2) ++ g.retained.flatMap (fun v => v.map.map (·.2)))).getD []
  let s1 := if r.extent then { s with extents := upd s.extents (fun e => e.num == r.num) (fun e => { e with owner := new }) }
    else { s with regions := upd s.regions (fun g => g.num == r.num && !g.deleting) (fun g => { g with owner := new }) }
  forL (s1.frames.filter (fun f => ids.contains f.id && f.owner == old)) s1 (fun f t =>
    ((t.setFrame { f with owner := new }).quse old f.tier (· - 1)).quse new f.tier (· + 1))

/-- Lines of a revoked extent that leave their hold are recalled; their data are stored (R514 step 3). -/
def State.revokeLines (s : State) (r : Revoked) : State :=
  forL (s.dir.filter (fun e => overlap (64 * e.line) 64 r.base r.len)) s (fun e t =>
    let e1 := if decide (e.holdUntil ≤ t.now) then e.release else e
    if e1.stable then (t.setEntry e1).evictLine e1 else t)

/-- A revoke runs over the line. -/
def State.revokingLine (s : State) (line : Nat) : Bool := s.revoking.any (fun v => overlap (64 * line) 64 v.what.base v.what.len)

/-- The revoke under way recalls what it can, and ends once nothing is left to wait for. -/
def State.reapRevoke (s : State) : State :=
  match s.revoking with
  | none => s
  | some v0 =>
    let s1 := s.revokeLines v0.what
    match s1.revoking with
    | none => s1
    | some v =>
      let waits := s1.dir.any (fun e => overlap (64 * e.line) 64 v.what.base v.what.len) ||
        (s1.bankQ ++ s1.fillQ).any (s1.formerAccess v.what) ||
        s1.descs.any (fun d => v.victims.contains d.key && (d.phase == .running || s1.outstanding d.key))
      if waits then s1
      else
        { (((s1.setFld f_SLC_REVOKE_STAT_BUSY 0).setFld f_SLC_REVOKE_STAT_STATUS stOk).setFld f_SLC_REVOKE_STAT_ABORTED v.ended) with
          revoking := none }

/-- A write of `SLC_REVOKE`. -/
def State.revokeWrite (s : State) (w : Word) : State :=
  let ext := f_SLC_REVOKE_EXTENT.get w == 1
  let num := f_SLC_REVOKE_REGION.get w
  let new := f_SLC_REVOKE_NEW_OWNER.get w
  let abort := f_SLC_REVOKE_MODE.get w == 1
  if s.flag f_SLC_REVOKE_STAT_BUSY then s
  else match s.revokee ext num with
    | none => s.setFld f_SLC_REVOKE_STAT_STATUS eRange
    | some (base, len, owner) =>
      if !s.configured new ∨ 64 ≤ s.revoked.length then s.setFld f_SLC_REVOKE_STAT_STATUS eRange
      else
        let r : Revoked := {
          extent := ext, num := num, base := base, len := len,
          job := if s.jobNum owner = 0 then none else some (s.jobNum owner), slice := owner }
        let ds := s.descs.filter (s.usesExtent r)
        let keys := (if abort then ds else ds.filter (fun d => isHomeOp d.op)).map (·.key)
        let v : Revoking := {
          what := r, newOwner := new, abort := abort, ended := if abort then ds.length else 0, victims := keys }
        let s1 := { s.setFld f_SLC_REVOKE_STAT_BUSY 1 with revoked := s.revoked ++ [r], revoking := some v }.countRevoked
        let ended := (s1.bankQ ++ s1.fillQ).filter (fun w => abort && s1.formerAccess r w)
        let s2 := { s1 with bankQ := s1.bankQ.filter (fun w => !ended.contains w), fillQ := s1.fillQ.filter (fun w => !ended.contains w) }
        let s3 := forL ended s2 (fun w t => t.finish w.acc (.error (abortFail 7)))
        let s4 := if abort then forL ds s3 (fun d t => (t.haltDesc d eAborted 7).finishHome d.key) else s3
        (s4.changeOwner r owner new).reapRevoke

/-- `REVOKE_DRAIN` (R513, R514): a word with `MODE` 0. -/
def execRevokeDrain (word : Word) (s : State) : Host.Outcome State Fault Refusal :=
  .next (s.whenAlive (if f_SLC_REVOKE_MODE.get word = 0 then s.revokeWrite word else s))

/-- `REVOKE_ABORT` (R513, R514): a word with `MODE` 1. -/
def execRevokeAbort (word : Word) (s : State) : Host.Outcome State Fault Refusal :=
  .next (s.whenAlive (if f_SLC_REVOKE_MODE.get word = 1 then s.revokeWrite word else s))

/-! ### Vector entries (R507, R508, R522) -/

/-- A write of a register of the vector table at a setup-space offset. -/
def State.vectorWrite (s : State) (off : Nat) (w : Word) : State :=
  if off < 0x100000 ∨ 0x140000 ≤ off ∨ off % 8 ≠ 0 then s
  else
    let s1 := s.plainWrite off w (fun _ _ => true)
    let i := (off - 0x100000) / 16
    if off % 16 = 8 ∧ s.fldAt f_SLV_HI_MASK i = 1 ∧ s1.fldAt f_SLV_HI_MASK i = 0 ∧ s1.fldAt f_SLV_HI_PENDING i = 1 then
      let s2 := s1.setFldAt f_SLV_HI_PENDING i 0
      -- records in client memory that it covers are acknowledged first, unless it follows them on their port (R100)
      let owing (r : Ring) : Bool := r.slice == i / 256 && r.vector == i % 256 && s2.ringOwes r.slice r.num && s2.fldAt f_SLV_HI_PORT i != r.port
      if s2.rings.any owing then { s2 with rings := upd s2.rings owing (fun r => { r with intDue := true }) }
      else s2.message (i / 256) (i % 256)
    else s1

/-- `VECTOR_ENTRY_WRITE` (R507, R508, R522). -/
def execVectorEntryWrite (off : Nat) (word : Word) (s : State) : Host.Outcome State Fault Refusal := .next (s.whenAlive (s.vectorWrite off word))

/-! ### Array registers (R109, R135, R139, R141) -/

/-- A write of `ARR_DISABLE`. -/
def State.arrDisable (s : State) (w : Word) : State :=
  if (List.range 8).any (fun g => bits w.toNat (8 * g) 8 == 255 &&
      ((List.range 63).any (fun x => bit (s.fldAt f_SLC_CFG_GROUPS (x + 1)) g))) then
    s.setFld f_ARR_AUDIT_STATUS_DISABLE_REJECT 1
  else s.plainWrite 0x30018 w (fun _ _ => true)

/-- `ARR_DISABLE_WRITE` (R109, R141). -/
def execArrDisableWrite (word : Word) (s : State) : Host.Outcome State Fault Refusal := .next (s.whenAlive (s.arrDisable word))

/-- A write of `ARR_AUDIT_CTL`. -/
def State.auditCtl (s : State) (w : Word) : State :=
  let s1 := s.plainWrite 0x30000 w (fun n v => n != "LOG2_N" || decide (v ≤ 20))
  if f_ARR_AUDIT_CTL_ENABLE.get w = 1 then { s1 with passes := [] } else s1

/-- `ARR_AUDIT_CTL_WRITE` (R135, R139). -/
def execArrAuditCtlWrite (word : Word) (s : State) : Host.Outcome State Fault Refusal := .next (s.whenAlive (s.auditCtl word))

end Sys2Proof.Machine
end

