-- ==== Sys2Proof/Machine/Faults.lean ====
section
/-! DEFINITION. Alarms sent to the leader and taken by it, forwarded records, and the writes of the fault registers (R527 to
R531, R549 to R554). -/

namespace Sys2Proof.Machine

/-! ### Alarms to the leader (R530, R531) -/

/-- Counts of the local cycle counter in 1 ms. -/
def perMs : Nat := 1800000

/-- The 48 bytes of an `ALARM`. -/
def State.alarmPayload (s : State) (entry : Nat) : List Byte :=
  let a := 0x140000 + 0x20 * entry
  let w0 := (s.word a).toNat
  let w1 := (s.word (a + 8)).toNat
  let x := s.alarmExtra.find? (fun x => x.entry == entry)
  leBytes 2 (bits w0 32 16) ++ [byte (bits w0 24 8), 0#8] ++ leBytes 4 (bits w1 0 32 - bits w1 32 32) ++ leBytes 8 (s.word (a + 24)).toNat ++
  leBytes 8 ((x.map (·.detail)).getD 0) ++ ((x.map (·.context)).getD (List.replicate 16 0#8)) ++ leBytes 8 0

/-- Hold-off of the entry and rate of all packets allow one now. -/
def State.alarmDue (s : State) (entry : Nat) : Bool :=
  !s.alarmSent.any (fun x => x.1 == entry && decide (s.now < x.2 + s.fld f_FLT_ALARM_CTL_HOLDOFF_MS * perMs)) &&
  decide ((s.alarmSent.filter (fun x => decide (s.now < x.2 + perMs))).length < s.fld f_FLT_ALARM_CTL_RATE)

/-- `ALARM_SEND` (R530): a pending entry goes to the leader; it stays pending while nothing may leave (R438) or no route leads there. -/
def State.alarmSend (s : State) (entry : Nat) : State :=
  if s.fenced ∨ 4096 ≤ entry ∨ s.fldAt f_FLA_0_VALID entry = 0 ∨ s.fldAt f_FLA_0_PENDING entry = 0 ∨ !s.alarmDue entry then s
  else match s.otherLeader with
    | none => s
    | some l =>
      if (s.outPort s.epoch l 0).isNone then s
      else
      let s1 := s.sendQf (s.mkQ l 0x32 6 (s.alarmPayload entry))
      let s2 := (s1.setFldAt f_FLA_1_SENT entry (s.fldAt f_FLA_1_COUNT entry)).setFldAt f_FLA_0_PENDING entry 0
      { s2 with alarmSent := s.alarmSent.filter (fun x => x.1 != entry && decide (s.now < x.2 + 60000 * perMs)) ++ [(entry, s.now)] }

def execAlarmSend (entry : Nat) (s : State) : Host.Outcome State Fault Refusal := .next (s.whenAlive (s.alarmSend entry))

/-- A packet of the diagnostic classes reaches this ZV9 as leader. -/
def State.leads (s : State) (p : QPkt) (typ len : Nat) : Bool :=
  p.typ == typ && p.dest == s.me && s.leader && !s.fenced && p.payload.length == len && p.rsvd == 0

/-- `ALARM` (R531): the leader adds the difference to its domain table. -/
def execAlarm (p : QPkt) (s : State) : Host.Outcome State Fault Refusal :=
  let t := if p.dest = s.me then s.takeRx (.qf p) else s
  .next (s.whenAlive (if t.leads p 0x32 48 then
      let source := leAt p.payload 0 2
      let cause := leAt p.payload 2 1
      let last := leAt p.payload 8 8
      let (i, agg) := t.alarmSlot 0x160000 p.src source cause
      let u := t.alarmAdd 0x160000 i p.src source cause (leAt p.payload 4 4) last last
      if agg then u.incSat f_FLT_ALARM_STAT_AGGREGATED else u
    else t))

/-- `DIAG` (R531): the leader writes a forwarded record into its own log, marked `REMOTE`; a message follows it like any record (R528). A `MIRROR`
packet, whose receiver the manual gives nothing to do, leaves its input here too. -/
def execDiag (p : QPkt) (s : State) : Host.Outcome State Fault Refusal :=
  let t := if p.dest = s.me then s.takeRx (.qf p) else s
  .next (s.whenAlive (if t.leads p 0x39 64 then
      (t.logWrite (p.payload.take 21 ++ [p.payload.getD 21 0#8 ||| 8#8] ++ p.payload.drop 22)).logTell (bit (leAt p.payload 21 1) 0)
    else t))

/-- `ABORT` (R535, R536): the notice as its payload gives it. -/
def execAbort (p : QPkt) (s : State) : Host.Outcome State Fault Refusal :=
  let t := if p.dest = s.me then s.takeRx (.qf p) else s
  .next (s.whenAlive (if p.typ = 0x33 ∧ p.dest = s.me ∧ p.payload.length = 32 ∧ p.rsvd = 0 then
      t.takeAbort (leAt p.payload 0 4) (leAt p.payload 4 2) (leAt p.payload 6 1) (leAt p.payload 8 4)
    else t))

/-- `LOG_INTERRUPT_TIMER` (R528): the message that is due for records that are not alarms. -/
def execLogInterruptTimer (s : State) : Host.Outcome State Fault Refusal :=
  .next (s.whenAlive (if s.logIntDue && s.flag f_FLT_CTL_INT_EN then ({ s with logIntDue := false }).message 0 (s.fld f_FLT_CTL_VECTOR) else s))

/-! ### Writes (R549, R554) -/

/-- A power of two that `FLT_LOG_RING.LOG2` takes. -/
def logLog2Ok (v : Nat) : Bool := v == 0 || decide (6 ≤ v ∧ v ≤ 16)

/-- A write of `FLT_LOG_RING`; `BASE` is judged with `LOG2` as it then reads (log 15). -/
def State.logRingWrite (s : State) (w : Word) : State :=
  let v2 := f_FLT_LOG_RING_LOG2.get w
  let log2 := if logLog2Ok v2 then v2 else s.fld f_FLT_LOG_RING_LOG2
  ((s.plainWrite 0xE0000 w (fun n v => if n = "LOG2" then logLog2Ok v else s.ringFits (v * 4096) (64 * 2 ^ log2))).setFld
    f_FLT_LOG_IDX_PROD 0).setFld f_FLT_LOG_IDX_CONS 0

/-- `FLT_LOG_RING_WRITE` (R549). -/
def execFltLogRingWrite (word : Word) (s : State) : Host.Outcome State Fault Refusal := .next (s.whenAlive (s.logRingWrite word))

/-- A write of `FLT_LOG_IDX`. -/
def State.logIdxWrite (s : State) (w : Word) : State :=
  let c := f_FLT_LOG_IDX_CONS.get w
  if consOk (s.fld f_FLT_LOG_IDX_CONS) c (s.fld f_FLT_LOG_IDX_PROD) then s.setFld f_FLT_LOG_IDX_CONS c else s

/-- `FLT_LOG_IDX_WRITE` (R549). -/
def execFltLogIdxWrite (word : Word) (s : State) : Host.Outcome State Fault Refusal := .next (s.whenAlive (s.logIdxWrite word))

/-- Clear `VALID` of an entry of the alarm table, or of the domain table. -/
def State.alarmClear (s : State) (domain : Bool) (entry : Nat) : State :=
  let a := (if domain then 0x160000 else 0x140000) + 0x20 * entry
  if 4096 ≤ entry ∨ bit (s.word a).toNat 0 = false ∨ bit (s.word a).toNat 1 then s
  else
    let s1 := (((s.setWord a 0).setWord (a + 8) 0).setWord (a + 16) 0).setWord (a + 24) 0
    if domain then s1
    else
      let n := ((s1.alarmEntries 0x140000).filter (fun e => decide (256 ≤ e.1))).length
      { s1.setFld f_FLT_ALARM_STAT_ENTRIES n with alarmExtra := del s1.alarmExtra (fun x => x.entry == entry) }

/-- `ALARM_ENTRY_CLEAR` (R554). -/
def execAlarmEntryClear (domain : Bool) (entry : Nat) (s : State) : Host.Outcome State Fault Refusal := .next (s.whenAlive (s.alarmClear domain entry))

end Sys2Proof.Machine
end

