-- ==== Sys2Proof/Machine/Observe.lean ====
section
/-! DEFINITION. Observation (R587 to R615): the writes of the counter, dump and Scrivener registers, the dump at a window
boundary, and the triggers of a freeze. -/

namespace Sys2Proof.Machine

/-! ### Event counters and dumps (R591 to R594, R610 to R613) -/

/-- A selection names an event that exists, an instance that exists and a mode (R591). -/
def selOk (w : Word) : Bool :=
  let k := f_OBS_SEL_KIND.get w
  let e := f_OBS_SEL_EVENT.get w
  let i := f_OBS_SEL_INSTANCE.get w
  decide (1 ≤ e ∧ e ≤ obsEvents k) && (i == 0xFFF || decide (i < obsInstances k)) && decide (f_OBS_SEL_MODE.get w ≤ 2)

/-- A write of `OBS_SEL`. -/
def State.selWrite (s : State) (ctr : Nat) (w : Word) : State :=
  if 64 ≤ ctr then s
  else if !selOk w then s.incSat f_OBS_STAT_SEL_REJECTS
  else
    let s1 := (s.plainWrite (0x190100 + 8 * ctr) w (fun _ _ => true)).setFldAt f_OBS_CTR_COUNT ctr 0
    { s1 with dumpChanged := s1.dumpChanged ||| 2 ^ ctr }

/-- `OBS_SEL_WRITE` (R591, R613). -/
def execObsSelWrite (ctr : Nat) (word : Word) (s : State) : Host.Outcome State Fault Refusal := .next (s.whenAlive (s.selWrite ctr word))

/-- A write of `OBS_DUMP_CTL`. -/
def State.dumpCtl (s : State) (w : Word) : State :=
  let s1 := s.plainWrite 0x190008 w (fun n v => n != "PERIOD_US" || decide (10 ≤ v ∧ v ≤ 1000000))
  let set := s.fld f_OBS_DUMP_CTL_ENABLE = 0 ∧ s1.fld f_OBS_DUMP_CTL_ENABLE = 1
  if set then { s1 with dumpSeq := 0, dumpFrom := s.now }
  else if s1.fld f_OBS_DUMP_CTL_PERIOD_US ≠ s.fld f_OBS_DUMP_CTL_PERIOD_US then { s1 with dumpFrom := s.now }
  else s1

/-- `OBS_DUMP_CTL_WRITE` (R592, R610). -/
def execObsDumpCtlWrite (word : Word) (s : State) : Host.Outcome State Fault Refusal := .next (s.whenAlive (s.dumpCtl word))

/-- A write of `OBS_DUMP_RING`; `BASE` is judged with `LOG2` as it then reads (log 15). -/
def State.dumpRing (s : State) (w : Word) : State :=
  if s.fld f_OBS_DUMP_CTL_ENABLE = 1 then s
  else
    let v2 := f_OBS_DUMP_RING_LOG2.get w
    let log2 := if 4 ≤ v2 ∧ v2 ≤ 16 then v2 else s.fld f_OBS_DUMP_RING_LOG2
    ((s.plainWrite 0x190010 w (fun n v => if n = "LOG2" then decide (4 ≤ v ∧ v ≤ 16) else s.ringFits (v * 4096) (576 * 2 ^ log2))).setFld
      f_OBS_DUMP_IDX_PROD 0).setFld f_OBS_DUMP_IDX_CONS 0

/-- `OBS_DUMP_RING_WRITE` (R611). -/
def execObsDumpRingWrite (word : Word) (s : State) : Host.Outcome State Fault Refusal := .next (s.whenAlive (s.dumpRing word))

/-- A write of `OBS_DUMP_IDX` or `SCR_IDX`. -/
def State.consWrite (s : State) (cons prod : Fld) (w : Word) : State :=
  let c := cons.get w
  if consOk (s.fld cons) c (s.fld prod) then s.setFld cons c else s

/-- The 576 bytes of a dump record. -/
def State.dumpRecord (s : State) (seq b : Nat) : List Byte :=
  let en (i : Nat) : Bool := s.fldAt f_OBS_SEL_ENABLE i == 1
  leBytes 8 seq ++ leBytes 8 b ++ leBytes 8 (maskOf 64 en) ++ leBytes 8 s.dumpChanged ++ leBytes 2 s.me ++ [0#8, 0#8] ++ leBytes 4 s.epoch ++
  s.context ++ leBytes 8 0 ++ (List.range 64).flatMap (fun i => leBytes 8 (if en i then s.fldAt f_OBS_CTR_COUNT i else 0))

/-- The snapshot at the window boundary that the local cycle counter has reached. -/
def State.dump (s : State) : State :=
  let p := s.fld f_OBS_DUMP_CTL_PERIOD_US * 1800
  let b := s.now / p * p
  if s.fld f_OBS_DUMP_CTL_ENABLE = 0 ∨ b ≤ s.dumpFrom then s
  else
    let seq := s.dumpSeq + 1
    let l2 := s.fld f_OBS_DUMP_RING_LOG2
    let n := s.fld f_OBS_DUMP_IDX_PROD
    let cons := s.fld f_OBS_DUMP_IDX_CONS
    let s1 := if sub32 n cons = 2 ^ l2 then (s.setFld f_OBS_DUMP_IDX_CONS (cons + 1)).incSat f_OBS_STAT_OVERWRITTEN else s
    let s2 := (s1.recordWrite (s.fld f_OBS_DUMP_RING_BASE * 4096 + 576 * (n % 2 ^ l2)) (s.dumpRecord seq b)).setFld f_OBS_DUMP_IDX_PROD (n + 1)
    { s2 with dumpSeq := seq, dumpChanged := 0, dumpFrom := b, fresh := s2.fresh + 4 }

/-- `DUMP_BOUNDARY` (R592 to R594). -/
def execDumpBoundary (s : State) : Host.Outcome State Fault Refusal := .next (s.whenAlive s.dump)

/-! ### Scrivener (R596, R614) -/

/-- A write of `SCR_CTL`. -/
def State.scrCtl (s : State) (w : Word) : State :=
  let s1 := s.plainWrite 0x1A0000 w (fun n v => if n = "POINT" then decide (v ≤ 5) else n != "LOG2_N" || decide (v ≤ 20))
  if s.fld f_SCR_CTL_ENABLE = 0 ∧ s1.fld f_SCR_CTL_ENABLE = 1 then s1.scrStart else s1

/-- `SCR_CTL_WRITE` (R596, R614). -/
def execScrCtlWrite (word : Word) (s : State) : Host.Outcome State Fault Refusal := .next (s.whenAlive (s.scrCtl word))

/-- A write of `SCR_RING`; `BASE` is judged with `LOG2` as it then reads (log 15). -/
def State.scrRing (s : State) (w : Word) : State :=
  if s.fld f_SCR_CTL_ENABLE = 1 then s
  else
    let v2 := f_SCR_RING_LOG2.get w
    let log2 := if 6 ≤ v2 ∧ v2 ≤ 16 then v2 else s.fld f_SCR_RING_LOG2
    ((s.plainWrite 0x1A0008 w (fun n v => if n = "LOG2" then decide (6 ≤ v ∧ v ≤ 16) else s.ringFits (v * 4096) (64 * 2 ^ log2))).setFld
      f_SCR_IDX_PROD 0).setFld f_SCR_IDX_CONS 0

/-- `SCR_RING_WRITE` (R614). -/
def execScrRingWrite (word : Word) (s : State) : Host.Outcome State Fault Refusal := .next (s.whenAlive (s.scrRing word))

/-! ### Triggers of a freeze (R600, R604, R615) -/

/-- Stage `k` of the boot is complete (R581). -/
def State.stageDone (s : State) (k : Nat) : Bool := bit (s.fld f_BOOT_STATUS_STAGES_DONE) (k - 1)

/-- `FREEZE_N_ASSERT` (R600, R604): before the end of stage 2 it waits for that, unless a trigger of another kind has frozen the ZV9. -/
def execFreezeNAssert (s : State) : Host.Outcome State Fault Refusal :=
  .next (if s.resetHeld || s.porHeld || s.fld f_FRZ_CTL_PIN_EN == 0 then s
    else if s.frozen || s.stageDone 2 then s.freeze f_FRZ_STATUS_PIN 0 0
    else { s with freezeDeferred := true })

/-- A write of `FRZ_CTL`. -/
def State.frzCtl (s : State) (w : Word) : State :=
  let s1 := s.plainWrite 0x1B0000 w (fun _ _ => true)
  if f_FRZ_CTL_FREEZE.get w = 1 then s1.freeze f_FRZ_STATUS_REG 0 0 else s1

/-- `FRZ_CTL_FREEZE` (R600, R615). -/
def execFrzCtlFreeze (word : Word) (s : State) : Host.Outcome State Fault Refusal := .next (s.whenAlive (s.frzCtl word))

end Sys2Proof.Machine
end

