-- ==== Sys2Proof/Machine/Power.lean ====
section
/-! DEFINITION. Reset, power and limits (R555, R604, R621, R622, R627 to R634): what a reset leaves, the boot flash as a reset
finds it (R559 to R561), sensor readings, power windows, step index, rails; and Dill (R407). -/

namespace Sys2Proof.Machine

/-! ### The boot flash (R559, R561) -/

/-- A byte of the flash; an erased byte reads 0xFF. -/
def Flash.byteAt (f : Flash) (a : Nat) : Byte := look 0xFF#8 f.data a

def Flash.read (f : Flash) (a n : Nat) : List Byte := walk 0xFF#8 n a (f.data.filter (fun e => decide (a ≤ e.1)))

def Flash.write (f : Flash) (a : Nat) (bs : List Byte) : Flash := { f with data := put (fun _ => 0xFF#8) f.data a bs }

def Flash.erase (f : Flash) (a n : Nat) : Flash := { f with data := f.data.filter (fun e => decide (e.1 < a ∨ a + n ≤ e.1)) }

/-- First byte and size of a slot: configuration A and B, firmware A and B. -/
def slotBase (slot : Nat) : Nat := match slot with | 0 => 0x100000 | 1 => 0x200000 | 2 => 0x400000 | _ => 0x1400000
def slotSize (slot : Nat) : Nat := if slot < 2 then 0x100000 else 0x1000000

/-- The identity record (R571) and its endorsement. -/
def recordBase : Nat := 0x10000
def endorseBase : Nat := recordBase + 16384

/-- Ranges of the flash that the operation under way changes. -/
def State.flashRanges (s : State) : List (Nat × Nat) :=
  if !s.flash.busy then []
  else if !s.flash.forMctp then [(recordBase, 16384)]
  else match s.mctp.head? with
    | some (.flashWrite slot off len _ _) => if off % 65536 = 0 then [(slotBase slot + off, 65536)] else [(slotBase slot + off, len)]
    | some (.endorse off len _ _ _) => (endorseBase + off, len) :: (if off = 0 then [(recordBase + 116, 4)] else [])
    | _ => []

/-- The bytes that a reset finds half erased or half programmed are free values. -/
def State.tornFlash (s : State) : Flash :=
  let f := s.flashRanges.foldl (fun (f : Flash) r => f.write r.1 ((List.range r.2).map (fun i => Config.freeByte (s.fresh + r.1 + i)))) s.flash
  { f with busy := false, forMctp := false }

/-! ### Reset (R555, R604, R622) -/

/-- The state after a device warm reset: as after power-on, but for what lies outside the ZV9, the TAP, and what the ZV9 has
already sent. -/
def State.hardReset (s : State) : State :=
  { State.reset with
    pending := s.pending
    fresh := s.fresh + 2 ^ 26
    code432 := s.code432
    killed := s.killed
    flash := s.tornFlash
    mctpOut := s.mctpOut
    pwrok := s.pwrok
    porHeld := s.porHeld
    resetHeld := s.resetHeld
    straps := s.straps
    railsBad := s.railsBad
    tripped := s.tripped
    tapIr := s.tapIr
    tapAddr := s.tapAddr
    tapDr := s.tapDr
    tapRun := s.tapRun
    dbgTx := s.dbgTx }.setFld f_BOOT_MCTP_SMB_ADDR (0x30 + s.straps)

/-- A recognised `RESET_N`: the kills of R465 cause 4, which a frozen ZV9 does not send, then the reset of every domain. -/
def State.warmReset (s : State) : State :=
  (if s.frozen then s else forN 4 s (fun k t => t.killPort k 4)).hardReset

/-- `RESET_N_ASSERT` (R555). -/
def execResetNAssert (s : State) : Host.Outcome State Fault Refusal :=
  .next (if s.resetHeld then s
    else if s.porHeld then { s with resetHeld := true }
    else { s.warmReset with resetHeld := true })

/-- Reset ends and boot begins (R555). -/
def execResetNDeassert (s : State) : Host.Outcome State Fault Refusal :=
  .next (if s.resetHeld then { s with resetHeld := false, aon := 0 } else s)

/-- `PWROK_RISE` (R621). -/
def execPwrokRise (s : State) : Host.Outcome State Fault Refusal := .next (if s.porHeld then { s with pwrok := true } else s)

/-- `POWER_ON_RESET_RELEASE` (R575, R619, R621, R628): 2 ms after `PWROK` rises, the straps are sampled and boot begins. -/
def execPowerOnResetRelease (straps : Nat) (s : State) : Host.Outcome State Fault Refusal :=
  .next (if s.porHeld && s.pwrok then
      { s with porHeld := false, straps := straps % 4, tripped := false, railsBad := [], aon := 0 }.setFld f_BOOT_MCTP_SMB_ADDR (0x30 + straps % 4)
    else s)

/-- Power goes: as a recognised `RESET_N` (R622), and the internal power-on reset holds. -/
def State.powerFall (s : State) : State :=
  if !s.pwrok then s
  else { (if s.porHeld || s.resetHeld then s else s.warmReset) with pwrok := false, porHeld := true }

/-- `PWROK_FALL` (R622). -/
def execPwrokFall (s : State) : Host.Outcome State Fault Refusal := .next s.powerFall

/-! ### Limits (R628) -/

def State.inForce (s : State) (n : Nat) : Bool := bit (s.fld f_PWR_STAT_IN_FORCE) (n - 1)

/-- A limit is in force or not; coming into force it is counted and raises an alarm. -/
def State.setLimit (s : State) (n : Nat) (on : Bool) : State :=
  let m := s.fld f_PWR_STAT_IN_FORCE
  if on == s.inForce n then s
  else if on then ((s.setFld f_PWR_STAT_IN_FORCE (m + 2 ^ (n - 1))).incSat f_PWR_STAT_REACHED).raise (ev 0x19 0 n)
  else s.setFld f_PWR_STAT_IN_FORCE (m - 2 ^ (n - 1))

/-- Number of the hottest stack, the lowest of equals, and its temperature. -/
def hottest (ts : List Int) : Nat × Int :=
  ((List.range ts.length).zip ts).foldl (fun (acc : Nat × Int) x => if acc.2 < x.2 then x else acc) (0, ts.headD 0)

/-- `VDD_CORE` within ±3 % of 750 mV (R620). -/
def coreOk (mv : Nat) : Bool := decide (7275 ≤ 10 * mv ∧ 10 * mv ≤ 7725)

/-- Number of the monitored rail `VDD_CORE` in the order of R620. -/
def railCore : Nat := 0

/-- The eight bits of a signed temperature. -/
def temp8 (t : Int) : Nat := (t % 256).toNat

/-- A rail out of tolerance, or back in it (R622, R628 limit 8). -/
def State.setRail (s : State) (rail : Nat) (bad : Bool) : State :=
  let rs := if bad then (if s.railsBad.contains rail then s.railsBad else s.railsBad ++ [rail]) else s.railsBad.filter (· != rail)
  { s with railsBad := rs }.setLimit 8 (!rs.isEmpty)

/-- The thermal trip: kills, internal reset, `THERMTRIP_N` low. -/
def State.trip (s : State) : State := { s.warmReset with tripped := true, resetHeld := true }

/-- A reading of the sensors (R627, R628). -/
def State.sensorReading (s : State) (r : Sensors) : State :=
  let (n, ts) := hottest r.tStacks
  let s1 := { ((((s.setFld f_PWR_SENSE_T_LOGIC (temp8 r.tLogic)).setFld f_PWR_SENSE_T_STACK (temp8 ts)).setFld f_PWR_SENSE_STACK n).setFld
    f_PWR_SENSE_VDD_MV r.vddMv) with tStacks := r.tStacks }
  let s2 := ((s1.setLimit 1 (decide ((s.fld f_PWR_LIMITS_LOGIC_C : Int) ≤ r.tLogic))).setLimit 2 (decide (105 ≤ r.tLogic))).setLimit 3
    (r.tStacks.any (fun t => decide (85 ≤ t)))
  let s3 := s2.setLimit 4 (r.tStacks.any (fun t => decide ((s.fld f_PWR_LIMITS_STACK_C : Int) ≤ t)))
  let s4 := s3.setRail railCore (s.pwrok && !coreOk r.vddMv)
  let s5 := if s4.inForce 2 then s4.setFld f_PWR_STAT_STEP 16 else s4
  let hot := decide (115 ≤ r.tLogic) || r.tStacks.any (fun t => decide (105 ≤ t))
  if hot && !s5.tripped then (s5.setLimit 9 true).trip else s5.setLimit 9 hot

/-- `SENSOR_READING` (R627, R628). -/
def execSensorReading (r : Sensors) (s : State) : Host.Outcome State Fault Refusal := .next (s.whenAlive (s.sensorReading r))

/-- Cap of a group (0 to 7) or stack (8 to 13), when its estimate exceeds it. -/
def State.overCap (s : State) (i w : Nat) : Bool := let c := s.fldAt f_PWR_CAP_WATTS i; c != 0 && decide (c < w)

/-- A power window (R627, R628, R630, R632). -/
def State.powerWindow (s : State) (e : PowerEst) : State :=
  let est (i : Nat) : Nat := e.watts.getD i 0
  let s1 := forN 14 s (fun i t => t.setFldAt f_PWR_CAP_ACTIVE i (if s.admitted.any (fun a => a.1 == i) then 1 else 0))
  let capped := (List.range 14).filter (fun i => s.overCap i (est i))
  let hist := (e.pkg :: s.pkgHist).take 100
  let s2 := { s1.setFld f_PWR_SENSE_PKG_W e.pkg with
    admitted := capped.map (fun i => (i, 64 * s.fldAt f_PWR_CAP_WATTS i / est i)), pkgHist := hist }
  let s3 := s2.obsEdge 0 0 2 s.capped s1.capped
  ((s3.setLimit 5 (capped.any (fun i => decide (i < 8)))).setLimit 6 (capped.any (fun i => decide (8 ≤ i)))).setLimit 7
    (decide (hist.length = 100 ∧ s.fld f_PWR_LIMITS_PKG_W * 100 < hist.sum))

/-- `POWER_WINDOW` (R630). -/
def execPowerWindow (e : PowerEst) (s : State) : Host.Outcome State Fault Refusal := .next (s.whenAlive (s.powerWindow e))

/-- `STEP_UP` (R628, R629): 100 µs with limit 1 or 7 in force. -/
def execStepUp (s : State) : Host.Outcome State Fault Refusal :=
  .next (s.whenAlive (if s.inForce 1 || s.inForce 7 then s.setFld f_PWR_STAT_STEP (min 16 (s.fld f_PWR_STAT_STEP + 1)) else s))

/-- The signed value of eight bits. -/
def signed8 (n : Nat) : Int := if n < 128 then n else (n : Int) - 256

/-- `STEP_DOWN` (R629): 1 ms with limits 1, 2 and 7 out of force and `T_LOGIC` 5 °C below `LOGIC_C`. -/
def execStepDown (s : State) : Host.Outcome State Fault Refusal :=
  .next (s.whenAlive (if s.inForce 1 || s.inForce 2 || s.inForce 7 || decide ((s.fld f_PWR_LIMITS_LOGIC_C : Int) - 5 < signed8 (s.fld f_PWR_SENSE_T_LOGIC)) then s
    else s.setFld f_PWR_STAT_STEP (s.fld f_PWR_STAT_STEP - 1)))

/-- `RAIL_OUT_OF_TOLERANCE` (R622). -/
def execRailOutOfTolerance (rail : Nat) (s : State) : Host.Outcome State Fault Refusal :=
  .next (if !s.pwrok || !decide (rail < 10) then s
    else if s.alive then s.setRail rail true
    else { s with railsBad := if s.railsBad.contains rail then s.railsBad else s.railsBad ++ [rail] })

/-- `RAIL_TOLERANCE_TIMER` (R622): 10 µs out of tolerance. -/
def execRailToleranceTimer (rail : Nat) (s : State) : Host.Outcome State Fault Refusal :=
  .next (if s.railsBad.contains rail then s.powerFall else s)

/-! ### Dill (R407, R447) -/

/-- A write of `QF_DILL_CTL`; a refused port takes part and stays refused (R404, log 55). -/
def State.dillWrite (s : State) (w : Word) : State :=
  let s1 := s.plainWrite 0xA0028 w (fun n v => n != "DURATION_MS" || decide (1 ≤ v ∧ v ≤ 60000))
  let ports := (List.range 8).filter (fun p => bit (f_QF_DILL_CTL_PORTS.get w) p)
  if f_QF_DILL_CTL_START.get w = 0 then s1
  else if ports.any (fun p => s.qfUp p) then s1.setFld f_QF_DILL_STAT_REJECT 1
  else if s.flag f_QF_DILL_STAT_BUSY then s1
  else forL (ports.filter (fun p => s.fldAt f_QF_PORT_STATE p != 3)) { s1.setFld f_QF_DILL_STAT_BUSY 1 with dill := ports } (fun p t =>
    t.setFldAt f_QF_PORT_STATE p 1)

/-- `DILL_START` (R407). -/
def execDillStart (word : Word) (s : State) : Host.Outcome State Fault Refusal := .next (s.whenAlive (s.dillWrite word))

/-- `DILL_DONE` (R407): the symbol errors of each lane, by 8 × port + lane. -/
def execDillDone (errs : List (Nat × Nat)) (s : State) : Host.Outcome State Fault Refusal :=
  .next (s.whenAlive (if !s.flag f_QF_DILL_STAT_BUSY then s
    else
      let ports := (List.range 8).filter s.dill.contains
      let mine := errs.filter (fun e => ports.contains (e.1 / 8))
      let worst := mine.foldl (fun (acc : Nat × Nat) e => if acc.2 < e.2 then e else acc) (0, 0)
      let s1 := ((((s.setFld f_QF_DILL_STAT_BUSY 0).setFld f_QF_DILL_STAT_ERRORS (min (mine.map (·.2)).sum (2 ^ 48 - 1))).setFld
        f_QF_DILL_STAT_WORST_LANE (worst.1 % 8)).setFld f_QF_DILL_STAT_WORST_PORT (worst.1 / 8))
      forL (ports.filter (fun p => s.fldAt f_QF_PORT_STATE p != 3)) { s1 with dill := [] } (fun p t => t.setFldAt f_QF_PORT_STATE p 0)))

end Sys2Proof.Machine
end

