-- ==== Sys2Proof/Machine/Carter.lean ====
section
/-! DEFINITION. Carter (R578 to R580, R585, R586): the writes of its registers, the channel that runs and its end. -/

namespace Sys2Proof.Machine

/-- First byte of the flash window, and the first byte after it (R562). -/
def flashBase : Nat := 0x408000000
def flashTop : Nat := 0x410000000

/-- Channel `c` is busy or queued. -/
def State.carActive (s : State) (c : Nat) : Bool := s.fldAt f_CAR_STATUS_BUSY c == 1 || s.fldAt f_CAR_STATUS_QUEUED c == 1

/-- A write of `CAR_SRC`, `CAR_DST` or `CAR_COUNT` of channel `c`. -/
def State.carWrite (s : State) (c off : Nat) (w : Word) : State :=
  if s.carActive c then s.incSat f_CAR_ERR_START_REJECTS else s.plainWrite off w (fun _ _ => true)

/-- What a `START` completes with at once, if anything (R579). -/
def State.carCheck (s : State) (src dst n : Nat) : Option Nat :=
  if src % 64 ≠ 0 ∨ dst % 64 ≠ 0 ∨ n % 64 ≠ 0 then some eAlign
  else if n < 64 ∨ 2 ^ 40 - 64 < n then some eRange
  else if !(s.plainRange src n || decide (flashBase ≤ src ∧ src + n ≤ flashTop)) || !s.plainRange dst n then some eRange
  else none

/-- A channel is over. -/
def State.carEnd (s : State) (c status : Nat) : State :=
  { ((s.setFldAt f_CAR_STATUS_BUSY c 0).setFldAt f_CAR_STATUS_QUEUED c 0).setFldAt f_CAR_STATUS_STATUS c status with
    carter := s.carter.filter (· != c) }

/-- A write of `CAR_CTL`. -/
def State.carStart (s : State) (c : Nat) (w : Word) : State :=
  if 8 ≤ c ∨ f_CAR_CTL_START.get w = 0 then s
  else if s.carActive c then s.incSat f_CAR_ERR_START_REJECTS
  else
    let s1 := s.setFldAt f_CAR_STATUS_DONE_BYTES c 0
    match s.carCheck (s.fldAt f_CAR_SRC_ADDR c) (s.fldAt f_CAR_DST_ADDR c) (s.fldAt f_CAR_COUNT_BYTES c) with
    | some st => s1.carEnd c st
    | none => { s1.setFldAt f_CAR_STATUS_QUEUED c 1 with carter := s1.carter ++ [c] }

/-- `CAR_START` (R578, R579). -/
def execCarStart (chan : Nat) (word : Word) (s : State) : Host.Outcome State Fault Refusal := .next (s.whenAlive (s.carStart chan word))

/-- A 64-byte line of the source; a read of the flash waits while an operation of it runs (R562). Carter reads the range of the region table as the
table's own home does, and not as a client of slice 0 (R42; DESIGN CHOICE, log 116). -/
def State.carRead (s : State) (a : Nat) : Res Got :=
  if flashBase ≤ a ∧ a < flashTop then
    if s.flash.busy then .error (.wait [])
    else if s.flash.density < a - flashBase + 64 then fail eRange 0 0
    else .ok ⟨s.flash.read (a - flashBase) 64, none⟩
  else s.feRead a 64

/-- The running channel moves its next 64 bytes; bytes of an overlap of the two ranges are free values (R579). -/
def State.carMove (s : State) (c : Nat) : State :=
  let src := s.fldAt f_CAR_SRC_ADDR c
  let dst := s.fldAt f_CAR_DST_ADDR c
  let n := s.fldAt f_CAR_COUNT_BYTES c
  let k := s.fldAt f_CAR_STATUS_DONE_BYTES c
  if n ≤ k then s
  else match s.carRead (src + k) with
    | .error (.wait ns) => s.startNeeds ns
    | .error (.err f) => s.carEnd c f.status
    | .ok g =>
      if g.poison.isSome then s.carEnd c ePoison
      else
        let over_ := overlap src n (dst + k) 64
        let bs := if over_ then (List.range 64).map (fun i => Config.freeByte (s.fresh + i)) else g.bytes
        match s.feWrite (dst + k) bs with
        | .error (.wait ns) => s.startNeeds ns
        | .error (.err f) => s.carEnd c f.status
        | .ok t => { t.setFldAt f_CAR_STATUS_DONE_BYTES c (k + 64) with carterLast := bs, fresh := if over_ then t.fresh + 64 else t.fresh }

/-- `CARTER_CHANNEL_RUN` (R578): the channel at the head of the queue runs. -/
def execCarterChannelRun (chan : Nat) (s : State) : Host.Outcome State Fault Refusal :=
  .next (s.whenAlive (if s.carter.head? = some chan then
      ((s.setFldAt f_CAR_STATUS_QUEUED chan 0).setFldAt f_CAR_STATUS_BUSY chan 1).carMove chan
    else s))

/-- `CARTER_CHANNEL_DONE` (R580): every byte is moved, and the last line is read back. -/
def State.carDone (s : State) (c : Nat) : State :=
  let n := s.fldAt f_CAR_COUNT_BYTES c
  if s.carter.head? ≠ some c ∨ s.fldAt f_CAR_STATUS_BUSY c = 0 ∨ s.fldAt f_CAR_STATUS_DONE_BYTES c < n then s
  else match s.feRead (s.fldAt f_CAR_DST_ADDR c + n - 64) 64 with
    | .error (.wait ns) => s.startNeeds ns
    | .error (.err f) => s.carEnd c f.status
    | .ok g => s.carEnd c (if g.bytes = s.carterLast ∧ g.poison = none then stOk else eIntegrity)

def execCarterChannelDone (chan : Nat) (s : State) : Host.Outcome State Fault Refusal := .next (s.whenAlive (s.carDone chan))

end Sys2Proof.Machine
end

