-- ==== Sys2Proof/Machine/Registers.lean ====
section
/-! DEFINITION. Every register as software writes and reads it (R10 to R12, R38, R569, R635 to R642): the range of each field, the
writes that do more, and the values that a read computes. -/

namespace Sys2Proof.Machine

/-! ### Ranges of fields -/

/-- An address in the direct part that `TIER_SPLIT` names (R46, R310, R311). -/
def State.directAddr (s : State) (a : Nat) : Bool := decide (directBase ≤ a ∧ a < directBase + s.fld f_TIER_SPLIT_DIRECT_GIB * gib)

/-- DRAM capacity in GiB (R2). -/
def State.dramGib (s : State) : Nat := if s.code432 then 432 else 576

/-- A value lies in the range of a field; a field not named here takes every value of its width. -/
def State.fieldOk (s : State) (reg field : String) (v : Nat) : Bool :=
  match reg, field with
  | "AS_RGN_BASE", "BASE" => s.directAddr (v * 65536)
  | "AS_RGN_SIZE", "LOG2_ENTRIES" => v == 0 || decide (10 ≤ v ∧ v ≤ 20)
  | "TIER_SPLIT", "DIRECT_GIB" => decide (v ≤ s.dramGib)
  -- the page-table area; until both are written one of them reads as 0 (R340)
  | "XL_PT_BASE", "BASE" => s.directArea (v * 2 ^ 21) (s.fld f_XL_PT_LEN_LEN * 2 ^ 21)
  | "XL_PT_LEN", "LEN" => v == 0 || s.fld f_XL_PT_BASE_BASE == 0 || s.directArea (s.fld f_XL_PT_BASE_BASE * 2 ^ 21) (v * 2 ^ 21)
  | "TIER_EXT", "BASE" => s.directAddr (v * 4096) && !s.inPool (v * 4096)
  | "TIER_EXT", "COUNT" => decide (v ≤ 256)
  | "TIER_CACHE", "DIRTY_HIGH" => decide (2 ≤ v ∧ v ≤ 100)
  | "TIER_CACHE", "DIRTY_LOW" => decide (1 ≤ v ∧ v ≤ 99)
  | "TIER_SCRUB", "HOURS" => decide (1 ≤ v ∧ v ≤ 168)
  | "MEDIA_CTL", "TIMEOUT_MS" => decide (10 ≤ v ∧ v ≤ 10000)
  | "MEDIA_CTL", "RECLAIM_SHARE" => decide (5 ≤ v ∧ v ≤ 100)
  | "MEDIA_CTL", "RECLAIM_LOW" => decide (4 ≤ v)
  | "XL_MIG_CTL", "DEV_LOG2" => decide (6 ≤ v ∧ v ≤ 31)
  | "XL_MIG_CTL", "HOST_LOG2" => decide (4 ≤ v ∧ v ≤ 31)
  | "XL_MIG_CTL", "DECAY_MS" => decide (1 ≤ v)
  | "REEVE_CFG", "HOLD_NS" => decide (v ≤ 8000)
  | "REEVE_CFG", "SETS_LOG2" => v == 0 || decide (16 ≤ v ∧ v ≤ 23)
  | "QF_TDEAD", "BASE_US" => decide (5 ≤ v ∧ v ≤ 500000)
  | "KL_PORT_CTL", "TIMEOUT_US" => decide (10 ≤ v ∧ v ≤ 10000)
  | "STORE_CARVE", "T0_FRAMES" => decide (v ≤ 49152)
  | "STORE_CARVE", "DESC_CELLS" => decide (1024 ≤ v)
  | "STORE_CARVE", "STG_UNITS" => decide (6 ≤ v ∧ v ≤ 128)
  | "STORE_CARVE", "ATW_UNITS" => decide (v ≤ 128)
  | "STORE_CARVE", "PKT_UNITS" => decide (1 ≤ v ∧ v ≤ 8)
  | "STORE_CLASS_WT", _ => decide (1 ≤ v)
  | "STORE_AUDIT", "AUDIT_MS" => decide (1 ≤ v ∧ v ≤ 60000)
  | "FLT_CTL", "INT_US" => decide (1 ≤ v)
  | "FLT_ALARM_CTL", "HOLDOFF_MS" => decide (1 ≤ v ∧ v ≤ 60000)
  | "FLT_ALARM_CTL", "RATE" => decide (1 ≤ v ∧ v ≤ 1000)
  | "PWR_LIMITS", "PKG_W" => decide (300 ≤ v ∧ v ≤ 700)
  | "PWR_LIMITS", "STACK_C" => decide (86 ≤ v ∧ v ≤ 94)
  | "PWR_LIMITS", "LOGIC_C" => decide (90 ≤ v ∧ v ≤ 104)
  | _, _ => true

/-- Cap of entry `i` of `PWR_CAP` (R632): a group or a stack. -/
def capOk (i v : Nat) : Bool := v == 0 || (if i < 8 then decide (8 ≤ v ∧ v ≤ 48) else decide (6 ≤ v ∧ v ≤ 30))

/-! ### Writes -/

/-- A write of `RING_CMD` (R64, R66 to R68). -/
def State.ringCmd (s : State) (w : Word) : State :=
  let a := f_RING_CMD_ADDR.get w
  match f_RING_CMD_CMD.get w with
  | 1 => s.ringCreate a
  | 2 => s.ringDestroy a 2
  | 3 => s.ringDestroy a 3
  | _ => if s.flag f_RING_CMD_STATUS_BUSY then s.incSat f_RING_ERR_CMD_COLLISIONS else s.cmdStatus eFormat 0xFF

/-- A store to a doorbell page (R69). -/
def State.doorbell (s : State) (off : Nat) (w : Word) : State :=
  let o := off % 4096
  let slice := (off - 0x1000000) / 4096
  if 256 ≤ o then s.dbNowhere
  else if o % 16 = 0 then s.sqDoorbell slice (o / 16) w
  else s.cqDoorbell slice (o / 16) w

/-- Offsets of the doorbell pages. -/
def inDoorbells (off : Nat) : Bool := decide (0x1000000 ≤ off ∧ off < 0x1040000)

/-- A write of a register that does only what its fields say (R10 to R12). -/
def State.simpleWrite (s : State) (reg : String) (i off : Nat) (w : Word) : State :=
  let s1 := s.plainWrite off w (fun f v => if reg = "PWR_CAP" then (f != "WATTS" || capOk i v) else s.fieldOk reg f v)
  match reg with
  -- the pool ends inside the direct part (R310)
  | "TIER_POOL" => if s1.fld f_TIER_POOL_BASE_GIB + s1.fld f_TIER_POOL_LEN_GIB ≤ s1.fld f_TIER_SPLIT_DIRECT_GIB then s1 else s
  -- the cache part is the rest of the DRAM (R310)
  | "TIER_SPLIT" => s1.setFld f_TIER_SPLIT_CACHE_GIB (s.dramGib - s1.fld f_TIER_SPLIT_DIRECT_GIB)
  -- writing 1 to any bit clears the whole field (R400)
  | "REEVE_SLOTS" => if f_REEVE_SLOTS_PEAK.get w = 0 then s else s.setFld f_REEVE_SLOTS_PEAK 0
  | "KL_PORT_CTL" => if f_KL_PORT_CTL_KILL.get w = 1 then s1.killWrite i else s1
  | _ => s1

/-- A write of the register named `reg`, instance `i`, at offset `off`. -/
def State.namedWrite (s : State) (reg : String) (i off : Nat) (w : Word) : State :=
  match reg with
  | "RING_CMD" => s.ringCmd w
  | "ARR_AUDIT_CTL" => s.auditCtl w
  | "ARR_DISABLE" => s.arrDisable w
  | "TIER_RETIRE" => s.tierRetire w
  | "BORAGE_CTL" => s.borageWrite w
  | "XL_MIG_RING" => s.migRingWrite w
  | "XL_MIG_IDX" => s.migIdxWrite w
  | "XL_ROOT" => s.rootWrite i w
  | "QF_DILL_CTL" => s.dillWrite w
  | "STORE_MIRROR" => s.mirrorWrite i w
  | "SLC_CFG" | "SLC_MOVERS" | "SLC_SHARE" | "SLC_QOS" => s.sliceWrite off i w
  | "SLC_RESET" => s.sliceReset w
  | "SLC_COMPOSE" => s.composeWrite w
  | "SLC_REVOKE" => s.revokeWrite w
  | "SLC_GLOBAL" => s.globalWrite w
  | "SLV_LO" | "SLV_HI" => s.vectorWrite off w
  | "FLT_LOG_RING" => s.logRingWrite w
  | "FLT_LOG_IDX" => s.logIdxWrite w
  | "FLT_JOB_ABORT" => s.jobAbortWrite w
  | "FLA_0" => if bit w.toNat 0 then s.alarmClear false i else s
  | "FLD_0" => if bit w.toNat 0 then s.alarmClear true i else s
  | "CAR_SRC" | "CAR_DST" | "CAR_COUNT" => s.carWrite i off w
  | "CAR_CTL" => s.carStart i w
  | "OBS_DUMP_CTL" => s.dumpCtl w
  | "OBS_DUMP_RING" => s.dumpRing w
  | "OBS_DUMP_IDX" => s.consWrite f_OBS_DUMP_IDX_CONS f_OBS_DUMP_IDX_PROD w
  | "OBS_SEL" => s.selWrite i w
  | "SCR_CTL" => s.scrCtl w
  | "SCR_RING" => s.scrRing w
  | "SCR_IDX" => s.consWrite f_SCR_IDX_CONS f_SCR_IDX_PROD w
  | "FRZ_CTL" => s.frzCtl w
  | _ => s.simpleWrite reg i off w

/-- A register stands at this offset (R637). -/
def regAt (off : Nat) : Bool := inDoorbells off || (findReg off).isSome

/-- A write of a word at a setup-space offset; nothing where no register stands. A write that would change a locked field
raises the setup-lock alarm (R11). -/
def State.regWrite (s : State) (off : Nat) (w : Word) : State :=
  if inDoorbells off then s.doorbell off w
  else match findReg off with
  | none => s
  | some (r, i) =>
    let t := s.namedWrite r.name i off w
    if s.locked && s.lockedWrite off w then t.raise (ev 0x01 0 (setupBase + off)) else t

/-- `REGISTER_WRITE` (R10 to R12, R639). -/
def execRegisterWrite (off : Nat) (word : Word) (s : State) : Host.Outcome State Fault Refusal := .next (s.whenAlive (s.regWrite off word))

/-- Some field that software writes did not take its part of the word (R569). -/
def State.ignored (s : State) (off : Nat) (w : Word) : Bool :=
  match findReg off with
  | none => false
  | some (r, _) =>
    let now := (s.regWrite off w).word off
    r.fields.any (fun f => (f.acc == .rw || f.acc == .rwl) && bits now.toNat f.lo f.width != bits w.toNat f.lo f.width)

/-! ### Reads -/

/-- Contexts of Assayers held, by searches and by attention selections (R228, R233). -/
def State.assayerBusy (s : State) : Nat :=
  ((s.descs.filter (fun d => d.phase == .running)).map (fun d => (d.ctx.filter (fun e => decide (0x10 ≤ e ∧ e < 0x20))).length)).sum

/-- The value that a read of the register at an offset returns; a write-only field reads as 0 (R10). -/
def State.liveWord (s : State) (off : Nat) : Word :=
  match findReg off with
  | none => 0#64
  | some (r, _) =>
    let w := r.fields.foldl (fun (w : Word) f => if f.acc == .wo then (Fld.mk off 8 f.lo f.width).set w 0 else w) (s.word off)
    match r.name with
    | "ZV_IDENT" =>
      f_ZV_IDENT_STEP_MINOR.set (f_ZV_IDENT_STEP_MAJOR.set (f_ZV_IDENT_STACK_GIB.set w (if s.code432 then 72 else 96))
        Config.stepMajor.toNat) Config.stepMinor.toNat
    | "BOOT_MCTP" => f_BOOT_MCTP_IANA.set w Config.iana.toNat
    | "TIER_CACHE_STAT" => f_TIER_CACHE_STAT_FRAMES.set (f_TIER_CACHE_STAT_DIRTY.set w s.dirtyFrames.length) s.cacheUsed
    | "ASY_BUSY" => f_ASY_BUSY_CONTEXTS.set w s.assayerBusy
    | _ => w

/-! ### Accesses of the setup register space by a party that reaches all of it (R38, R562, R637) -/

/-- A read of 8 bytes at a local address of the setup register space; a read of the flash window waits while an operation of the
flash runs. -/
def State.mgmtRead (s : State) (a : Nat) : Res (List Byte) :=
  let off := a - setupBase
  if flashBase ≤ a then
    if s.flash.busy then .error (.wait [])
    else if s.flash.density < a - flashBase + 8 then fail eRange 2 a
    else .ok (s.flash.read (a - flashBase) 8)
  else if inDoorbells off then .ok (leBytes 8 0)
  else if (findReg off).isSome then .ok (leBytes 8 (s.liveWord off).toNat)
  else fail eRange 2 a

/-- A write of a word at a local address of the setup register space. -/
def State.mgmtWrite (s : State) (a : Nat) (w : Word) : Except Fail State :=
  if flashBase ≤ a then .error ⟨ePerm, 2, a⟩
  else if regAt (a - setupBase) then .ok (s.regWrite (a - setupBase) w)
  else .error ⟨eRange, 2, a⟩

end Sys2Proof.Machine
end

