-- ==== Sys2Proof/Machine/Tap.lean ====
section
/-! DEFINITION. The TAP and readout (R605 to R609): the instructions, the readout spaces, and the frames of `DBG_TX`. -/

namespace Sys2Proof.Machine

/-! ### Readout (R606, R607) -/

/-- Bytes of the central store. -/
def storeBytes : Nat := 6 * gib

/-- A pointer of an entry (R375). -/
def ptrCode (h : Nat × Nat) : Nat := h.1 % 65536 + 65536 * (h.2 % 4)

/-- Eight bytes of the directory (R374 to R376). What the layout leaves open is taken from `free`: the fields of a way that is unused other
than its `STATE`, and the pointers that an entry does not use. -/
def State.dirWord (s : State) (off free : Nat) : Nat :=
  match s.dir.find? (fun e => s.setOf e.line == off / 256 && e.way == off % 256 / 16) with
  | none => if off % 16 = 0 then free - bits free 44 3 * 2 ^ 44 else free
  | some e =>
    if off % 16 = 0 then
      e.line % 2 ^ 44 + e.state.code * 2 ^ 44 + (if e.coarse then 2 ^ 47 else 0) + bits e.holdUntil 6 16 * 2 ^ 48
    else if e.coarse then e.groups.toNat
    else
      let ptr (i : Nat) : Nat := ((e.ptrs[i]?).map ptrCode).getD (bits free (18 * i) 18)
      ptr 0 + ptr 1 * 2 ^ 18 + ptr 2 * 2 ^ 36 + e.ptrs.length % 4 * 2 ^ 54

/-- The 64 bits at a readout address and the status of the read. -/
def State.readWord (s : State) (a : Nat) : Nat × Nat :=
  let space := bits a 56 8
  let off := bits a 0 56
  let free := ((Config.readout s.fresh a).toNat, 0)
  if !s.frozen || off % 8 != 0 then (0, 3)
  else match space with
  | 0 => if decide (off < flashBase - setupBase) && regAt off then ((s.liveWord off).toNat, 0) else (0, 3)
  | 1 =>
    if storeBytes ≤ off then (0, 3)
    else if off + 8 ≤ s.scratchLen then (leNat (s.memRead off 8), if s.memPoisoned off 8 then 2 else 0)
    else
      let w := if s.dirBase ≤ off ∧ off < s.dirBase + 256 * s.dirSets then s.dirWord (off - s.dirBase) free.1
        else match s.stagedAt off with
          | some (f, o) => leNat (cellsRead f.data o 8)
          | none => free.1
      (w, if s.storePoisoned off then 2 else 0)
  | 2 =>
    if 2 ^ 27 ≤ off then (0, 3)
    else match s.arrMem.find? (fun x => x.1 == bits off 21 6) with
      | some x => ((Config.arrayWord x.2 (bits off 0 21)).toNat, 0)
      | none => (0, 0)
  | 3 => free
  | 4 => if 24 < bits off 48 8 then (0, 3) else free
  | _ => (0, 3)

/-! ### Instructions (R605) -/

/-- An instruction is in the instruction register and its data register is captured. -/
def State.tapScan (s : State) (ir dr : Nat) : State := { s with tapIr := ir, tapDr := dr }

/-- `TAP_RESET`: `TRST_N` or the state machine selects `IDCODE`. -/
def execTapReset (s : State) : Host.Outcome State Fault Refusal := .next { s with tapIr := 0x01 }

/-- `IDCODE`. -/
def execIdcode (s : State) : Host.Outcome State Fault Refusal :=
  .next (s.tapScan 0x01 (Config.stepMajor.toNat * 2 ^ 28 + 0x5A09 * 4096 + Config.manufacturer.toNat * 2 + 1))

/-- `FREEZE`: bit 0 of the data register is the register trigger of R600. -/
def execTapFreeze (dr : Nat) (s : State) : Host.Outcome State Fault Refusal :=
  let t := s.tapScan 0x10 0
  .next (if bit dr 0 then t.freeze f_FRZ_STATUS_REG 0 0 else t)

/-- `FSTATUS`. -/
def execFstatus (s : State) : Host.Outcome State Fault Refusal := .next (s.tapScan 0x11 (s.word 0x1B0010).toNat)

/-- `RADDR`. -/
def execRaddr (addr : Nat) (s : State) : Host.Outcome State Fault Refusal :=
  .next { s.tapScan 0x12 s.tapAddr with tapAddr := addr % 2 ^ 64 }

/-- `RDATA`: the word and its status, and the next address. -/
def execRdata (s : State) : Host.Outcome State Fault Refusal :=
  let r := s.readWord s.tapAddr
  .next { s.tapScan 0x13 (r.1 + r.2 * 2 ^ 64) with tapAddr := (s.tapAddr + 8) % 2 ^ 64, fresh := s.fresh + 1 }

/-- `BYPASS`, and every value that is no other instruction. -/
def execBypass (s : State) : Host.Outcome State Fault Refusal := .next (s.tapScan 0xFF 0)

/-! ### Streams (R608, R609) -/

/-- Data frames of a run. -/
def TapRun.frames (r : TapRun) : Nat := ceilDiv r.len 1024

/-- The run still has frames to send, the end frame the last. -/
def TapRun.busy (r : TapRun) : Bool := decide (r.sent ≤ r.frames)

def State.tapBusy (s : State) : Bool := s.tapRun.any TapRun.busy

/-- `STREAM`: starts a run; a length outside its range starts none. -/
def execStream (start len run : Nat) (s : State) : Host.Outcome State Fault Refusal :=
  let sent := (s.tapRun.map (·.sent)).getD 0
  let t := s.tapScan 0x14 ((if s.tapBusy then 1 else 0) + sent % two32 * 2 ^ 96)
  .next (if s.tapBusy || !decide (8 ≤ len ∧ len ≤ 2 ^ 40 - 8 ∧ len % 8 = 0) then t
    else { t with tapRun := some ⟨start % 2 ^ 64, len, run % 65536, 0⟩ })

/-- A frame: type, flags, length, number, address, run, payload. -/
def State.tapFrame (s : State) (typ flags len seq raddr run : Nat) (payload : List Byte) : List Byte :=
  let head := [byte typ, byte flags] ++ leBytes 2 len ++ leBytes 4 seq ++ leBytes 8 raddr ++ leBytes 8 s.devId ++ leBytes 2 run ++
    List.replicate 6 0#8 ++ payload ++ List.replicate (1024 - payload.length) 0#8
  head ++ leBytes 4 (crc32c head) ++ List.replicate 4 0#8

/-- The next frame of the run: data, or the end frame, whose `RADDR` is a free value. -/
def State.nextTapFrame (s : State) (r : TapRun) : List Byte :=
  if r.sent < r.frames then
    let a := r.start + 1024 * r.sent
    let n := min 1024 (r.len - 1024 * r.sent)
    let ws := (List.range (n / 8)).map (fun i => s.readWord (a + 8 * i))
    let has (st : Nat) : Bool := ws.any (fun w => w.2 == st)
    let flags := (if has 1 then 1 else 0) + (if has 2 then 2 else 0) + (if has 3 then 4 else 0)
    s.tapFrame 1 flags n r.sent a r.run (ws.flatMap (fun w => leBytes 8 w.1))
  else s.tapFrame 2 0 0 r.sent (Config.freeNat s.fresh) r.run []

/-- `STREAM_FRAME_SEND`. -/
def execStreamFrameSend (s : State) : Host.Outcome State Fault Refusal :=
  .next (match s.tapRun with
    | none => s
    | some r =>
      if r.busy then { s with dbgTx := s.dbgTx ++ [s.nextTapFrame r], tapRun := some { r with sent := r.sent + 1 }, fresh := s.fresh + 1 }
      else s)

end Sys2Proof.Machine
end

