-- ==== Sys2Proof/Machine/Images.lean ====
section
/-! DEFINITION. Signed images (R563 to R568): the headers, the owner certificate, the entries of a configuration, and what the boot
ROM selects. -/

namespace Sys2Proof.Machine

/-! ### Headers (R563 to R565) -/

/-- A slot as an image: header, body, final signature; `cert` bytes of certificate precede the body. -/
structure Image where
  head : List Byte
  cert : List Byte
  body : List Byte
  sig : List Byte

def sigLen : Nat := 29792
def certLen : Nat := 29888

def headSvn (h : List Byte) : Nat := leAt h 4 4
def headGen (h : List Byte) : Nat := leAt h 8 8

/-- The image in a slot. -/
def Flash.image (f : Flash) (slot : Nat) : Image :=
  let b := slotBase slot
  let head := f.read b 256
  let n := leAt head 16 4
  let c := if slot < 2 then certLen else 0
  { head := head, cert := f.read (b + 256) c, body := f.read (b + 256 + c) n, sig := f.read (b + 256 + c + n) sigLen }

/-- The header is well formed. -/
def headOk (h : List Byte) (kind : Nat) : Bool :=
  leAt h 0 1 == kind && leAt h 1 1 == 1 && (if kind = 1 then decide (leAt h 2 1 ≤ 3) else leAt h 2 1 == 0) && zeros h 3 1 && zeros h 20 12 &&
  zeros h 96 160 &&
  (if kind = 1 then decide (leAt h 16 4 ≤ 16747168) else decide (leAt h 16 4 ≤ 988640) && leAt h 16 4 % 32 == 0)

/-- `DIGEST` matches the bytes between the header and the final signature. -/
def Image.digestOk (i : Image) : Bool := (i.head.drop 32).take 64 == Config.shake256 (i.cert ++ i.body) 64

/-- The owner certificate is acceptable. -/
def certOk (c : List Byte) : Bool :=
  decide (leAt c 0 1 ≤ 3) && decide (leAt c 1 1 < 16) && zeros c 2 2 && zeros c 80 16 &&
  Config.slhVerify (Config.rootKey (leAt c 0 1)) (c.take 96) (c.drop 96)

/-! ### Entries (R567, R568) -/

/-- An entry: the 32-byte slot it begins in, its 32 bytes, and the data of a `DATA` entry. -/
structure Entry where
  slot : Nat
  raw : List Byte
  data : List Byte

def Entry.type (e : Entry) : Nat := leAt e.raw 0 2

/-- The entries of a body, in order; `none` when data run past its end. -/
def entriesOf : Nat → Nat → List Byte → Option (List Entry)
  | 0, _, bs => if bs.isEmpty then some [] else none
  | fuel + 1, slot, bs =>
    if bs.isEmpty then some []
    else
      let raw := bs.take 32
      let rest := bs.drop 32
      let units := if leAt raw 0 2 = 5 then leAt raw 2 2 else 0
      if rest.length < 32 * units then none
      else (entriesOf fuel (slot + 1 + units) (rest.drop (32 * units))).map (fun es => { slot := slot, raw := raw, data := rest.take (32 * units) } :: es)

def bodyEntries (body : List Byte) : Option (List Entry) := entriesOf (body.length / 32 + 1) 0 body

/-- The reserved bytes of an entry are zero, and its own values are in range. -/
def State.entryOk (s : State) (e : Entry) : Bool :=
  let r := e.raw
  match e.type with
  | 1 =>
    let a := leAt r 8 8
    zeros r 2 6 && a % 8 == 0 && decide (setupBase ≤ a ∧ a < flashBase) && !inDoorbells (a - setupBase)
  | 2 => zeros r 2 2 && leAt r 4 4 != 0 && zeros r 8 24
  | 3 => zeros r 3 5 && zeros r 16 16
  | 4 => decide (leAt r 2 2 ≤ 0x7FFF) && zeros r 4 4 && zeros r 16 16
  | 5 =>
    let a := leAt r 8 8
    zeros r 4 4 && zeros r 16 16 && decide (1 ≤ leAt r 2 2) && a % 32 == 0 && decide (directBase ≤ a ∧ a + e.data.length ≤ directBase + s.dramGib * gib)
  | 6 => zeros r 2 2 && zeros r 8 24
  | _ => false

def noRepeats (l : List Nat) : Bool := decide l.Nodup

/-- The entries of a configuration pass R568; `domain` is the certificate's. -/
def State.entriesOk (s : State) (domain : Nat) (es : List Entry) : Bool :=
  let of (t : Nat) : List (List Byte) := (es.filter (fun e => e.type == t)).map (·.raw)
  let k := (of 3).length
  es.all s.entryOk &&
  (match of 2 with | [r] => domain == 0 || leAt r 4 4 == domain | _ => false) &&
  [1, 3, 5, 7, 9].contains k && (List.range k).all (fun i => (of 3).any (fun r => leAt r 2 1 == i)) &&
  noRepeats ((of 3).map (fun r => leAt r 8 8)) && noRepeats ((of 4).map (fun r => leAt r 8 8)) && noRepeats ((of 4).map (fun r => leAt r 2 2)) &&
  decide ((of 6).length ≤ 1)

/-- What the ZV9 keeps of a configuration. -/
def cfgOf (i : Image) (es : List Entry) : Cfg :=
  let of (t : Nat) : List (List Byte) := (es.filter (fun e => e.type == t)).map (·.raw)
  { domain := ((of 2).map (fun r => leAt r 4 4)).headD 0
    keepers := (sortBy (fun a b => decide (leAt a 2 1 ≤ leAt b 2 1)) (of 3)).map (fun r => leAt r 8 8)
    plan := (of 4).map (fun r => (leAt r 2 2, leAt r 8 8))
    rootMask := leAt i.cert 1 1
    minFw := ((of 6).map (fun r => leAt r 4 4)).headD 0
    serial := leAt i.cert 8 8
    svn := headSvn i.head
    generation := headGen i.head
    digest := (i.head.drop 32).take 64
    cert := i.cert
    body := i.body }

/-- An acceptable configuration of a slot (R565). -/
def State.cfgSlot (s : State) (slot : Nat) : Option Cfg :=
  if s.flash.byteAt (slotBase slot) = 0xFF#8 then none
  else
    let i := s.flash.image slot
    if headOk i.head 2 && certOk i.cert && Config.slhVerify ((i.cert.drop 16).take 64) i.head i.sig && i.digestOk then
      (bodyEntries i.body).bind (fun es => if s.entriesOk (leAt i.cert 4 4) es then some (cfgOf i es) else none)
    else none

/-- A firmware of a slot that is acceptable under a configuration (R565). -/
def State.fwSlot (s : State) (c : Cfg) (slot : Nat) : Option Fw :=
  if s.flash.byteAt (slotBase slot) = 0xFF#8 then none
  else
    let i := s.flash.image slot
    let root := leAt i.head 2 1
    if headOk i.head 1 && bit c.rootMask root && Config.slhVerify (Config.rootKey root) i.head i.sig && i.digestOk && decide (c.minFw ≤ headSvn i.head) then
      some { svn := headSvn i.head, generation := headGen i.head, digest := (i.head.drop 32).take 64 }
    else none

/-! ### Selection (R566) -/

/-- Two candidates of slots A and B, highest `GENERATION` first, slot A first on a tie. -/
def inOrder {α : Type} (gen : α → Nat) (a b : Option α) : List (Nat × α) :=
  match a, b with
  | some x, some y => if gen x < gen y then [(1, y), (0, x)] else [(0, x), (1, y)]
  | some x, none => [(0, x)]
  | none, some y => [(1, y)]
  | none, none => []

/-- The configurations that are acceptable, in order. -/
def State.cfgs (s : State) : List (Nat × Cfg) := inOrder (·.generation) (s.cfgSlot 0) (s.cfgSlot 1)

/-- The firmware that a configuration selects. -/
def State.fwFor (s : State) (c : Cfg) : Option (Nat × Fw) := (inOrder (·.generation) (s.fwSlot c 2) (s.fwSlot c 3)).head?

/-- The pair that boots: slots and images. -/
def State.selection (s : State) : Option ((Nat × Cfg) × (Nat × Fw)) :=
  s.cfgs.findSome? (fun c => (s.fwFor c.2).map (fun f => (c, f)))

end Sys2Proof.Machine
end

