-- ==== Sys2Proof/Machine/Boot.lean ====
section
/-! DEFINITION. The boot stages (R555 to R558), the identity (R570 to R572), measurements (R573), the configuration entries
(R569) and the extent table (R274). -/

namespace Sys2Proof.Machine

/-! ### Stages (R556, R558) -/

/-- Stages named in the "After" column. -/
def stageAfter (k : Nat) : List Nat := match k with | 2 => [1] | 3 => [1] | 4 => [2] | 5 => [2] | 6 => [5] | 7 => [3, 4] | 8 => [6, 7] | _ => []

/-- Step 3 of R560 has completed, early in stage 4. -/
def State.flashFound (s : State) : Bool := s.stageDone 2 && !([1, 2, 3].contains s.flash.failStep)

/-- `FAIL` of the boot; 0 for none. -/
def State.failCode (s : State) : Nat := s.fld f_BOOT_STATUS_FAIL

/-- Stage `k` has begun and has neither completed nor failed; stages 7 and 8 run in no boot that has failed. -/
def State.stageRuns (s : State) (k : Nat) : Bool :=
  s.alive && decide (1 ≤ k ∧ k ≤ 8) && !s.stageDone k && !s.stuck.any (fun x => x.1 == k) && (stageAfter k).all s.stageDone &&
  (decide (k < 7) || s.failCode == 0)

/-- Stage `k` is complete. -/
def State.stageEnd (s : State) (k : Nat) : State :=
  s.setFld f_BOOT_STATUS_STAGES_DONE (s.fld f_BOOT_STATUS_STAGES_DONE ||| 2 ^ (k - 1))

/-- Stage `k` fails; the first failure of the boot shows in `BOOT_STATUS`. -/
def State.stageFail (s : State) (k code info : Nat) : State :=
  let s1 := { s with stuck := s.stuck ++ [(k, code)] }
  if s.failCode ≠ 0 then s1
  else ((s1.setFld f_BOOT_STATUS_FAIL code).setFld f_BOOT_STATUS_FAIL_INFO info).setFld f_BOOT_STATUS_RECOVERY (if code ≤ 4 then 1 else 0)

/-- `BOOT_STAGE_1`. -/
def execBootStage1 (s : State) : Host.Outcome State Fault Refusal := .next (s.whenAlive (if s.stageRuns 1 then s.stageEnd 1 else s))

/-- `BOOT_STAGE_2`: clocks and store; a deferred `FREEZE_N` takes effect (R604). -/
def execBootStage2 (s : State) : Host.Outcome State Fault Refusal :=
  .next (s.whenAlive (if s.stageRuns 2 then
      let t := s.stageEnd 2
      if s.freezeDeferred then { t with freezeDeferred := false }.freeze f_FRZ_STATUS_PIN 0 0 else t
    else s))

/-! ### Identity (R570 to R572) -/

/-- Byte `tag` before a string, hashed to `n` bytes. -/
def tagged (tag : Nat) (bs : List Byte) (n : Nat) : List Byte := Config.shake256 (byte tag :: bs) n

/-- The device key of a 256-bit key. -/
def identOf (k : List Byte) : Ident := { k := k, pk := Config.slhKeygen (tagged 1 k 32) (tagged 2 k 32) (tagged 3 k 32) }

def Ident.devId (i : Ident) : Nat := leNat (tagged 4 i.pk 8)

def Ident.check (i : Ident) : List Byte := tagged 5 i.k 32

/-- Sign with the device key (R570, R574). -/
def Ident.sign (i : Ident) (bs : List Byte) : List Byte := Config.slhSign (tagged 1 i.k 32) (tagged 2 i.k 32) (tagged 3 i.k 32) bs

/-- The first 128 bytes of a record, with a value of `HDR_CRC`. -/
def recordHead (i : Ident) (helper crc : Nat) : List Byte :=
  leBytes 4 1 ++ leBytes 4 crc ++ leBytes 8 i.devId ++ i.pk ++ i.check ++ leBytes 4 helper ++ leBytes 4 0xFFFFFFFF ++ leBytes 8 0

/-- The record that enrolment writes. -/
def recordOf (i : Ident) (helper : List Byte) : List Byte :=
  recordHead i helper.length (crc32c (recordHead i helper.length 0)) ++ helper

/-- `HDR_CRC` matches bytes 0 to 127, with `ENDORSE_LEN` as it stands or as enrolment left it. -/
def recordCrcOk (r : List Byte) : Bool :=
  let zeroed (e : List Byte) : List Byte := r.take 4 ++ leBytes 4 0 ++ (r.drop 8).take 108 ++ e ++ (r.drop 120).take 8
  leAt r 4 4 == crc32c (zeroed ((r.drop 116).take 4)) || leAt r 4 4 == crc32c (zeroed (leBytes 4 0xFFFFFFFF))

/-- The record is well formed. -/
def recordOk (r : List Byte) : Bool :=
  leAt r 0 4 == 1 && recordCrcOk r && decide (1 ≤ leAt r 112 4 ∧ leAt r 112 4 ≤ 16256) &&
  (leAt r 116 4 == 0xFFFFFFFF || decide (leAt r 116 4 ≤ 49152)) && zeros r 120 8

/-- The device key stands; stage 3 ends. -/
def State.identDone (s : State) (i : Ident) : State :=
  { ((s.setFld f_BOOT_STATUS_IDENT_OK 1).setFld f_BOOT_DEVID_DEVICE_ID i.devId).stageEnd 3 with ident := some i }

/-- Stage 3 reads the PUF and the record: it derives the identity, or begins to write a new record. -/
def State.stage3 (s : State) (puf : List Byte) : State :=
  let r := s.flash.read recordBase 16384
  if r.all (fun b => b == 0xFF#8) then
    let i := identOf (Config.pufKey puf)
    let f := s.flash.write recordBase (recordOf i (Config.pufHelper puf))
    { s with ident := some i, flash := { f with busy := true, forMctp := false } }
  else if !recordOk r then s.stageFail 3 4 0
  else
    let i := identOf (Config.pufRebuild puf ((r.drop 128).take (leAt r 112 4)))
    if (r.drop 80).take 32 = i.check ∧ (r.drop 16).take 64 = i.pk ∧ leAt r 8 8 = i.devId then s.identDone i else s.stageFail 3 4 0

/-- `BOOT_STAGE_3`: the record is read once step 3 of R560 has completed and no operation of the flash runs. -/
def execBootStage3 (puf : List Byte) (s : State) : Host.Outcome State Fault Refusal :=
  .next (s.whenAlive (if s.stageRuns 3 && s.flashFound && !s.flash.busy then s.stage3 puf else s))

/-! ### Images (R560, R566) -/

/-- Stage 4 verifies and selects. -/
def State.stage4 (s : State) : State :=
  if s.flash.failStep ≠ 0 then s.stageFail 4 1 s.flash.failStep
  else if s.cfgs.isEmpty then s.stageFail 4 2 0
  else match s.selection with
    | none => s.stageFail 4 3 0
    | some ((cs, c), (fs, f)) =>
      let s1 := (s.setFld f_BOOT_STATUS_CFG_SLOT cs).setFld f_BOOT_STATUS_FW_SLOT fs
      let s2 := (s1.setFld f_BOOT_SVN_MIN_FW_SVN c.minFw).setFld f_BOOT_SVN_FW_SVN f.svn
      { s2 with cfg := some c, fw := some f }.stageEnd 4

/-- `BOOT_STAGE_4`; it reads the flash when no operation of it runs. -/
def execBootStage4 (s : State) : Host.Outcome State Fault Refusal :=
  .next (s.whenAlive (if s.stageRuns 4 && !s.flash.busy then s.stage4 else s))

/-! ### DRAM -/

/-- `BOOT_STAGE_5`: the stack that failed training, if one did. -/
def execBootStage5 (failed : Option Nat) (s : State) : Host.Outcome State Fault Refusal :=
  .next (s.whenAlive (if s.stageRuns 5 then
      match failed with
      | some k => s.stageFail 5 5 k
      | none => s.stageEnd 5
    else s))

/-- `BOOT_STAGE_6`: every DRAM line is zero. -/
def execBootStage6 (s : State) : Host.Outcome State Fault Refusal :=
  .next (s.whenAlive (if s.stageRuns 6 then
      { s with mem := s.mem.filter (fun e => decide (e.1 < directBase)), poison := s.poison.filter (fun l => decide (l < directBase)) }.stageEnd 6
    else s))

/-! ### Measurements (R573) -/

/-- The 80 bytes of an entry. -/
def Meas.bytes (m : Meas) : List Byte := leBytes 2 m.kind ++ leBytes 2 0 ++ leBytes 4 m.svn ++ leBytes 8 m.generation ++ m.digest

/-- The latest chain value. -/
def State.chain (s : State) : List Byte := (List.range 8).flatMap (fun i => leBytes 8 (s.fldAt f_BOOT_CHAIN_CHAIN i))

/-- Append a measurement. -/
def State.measure (s : State) (m : Meas) : State :=
  let c := Config.shake256 (s.chain ++ m.bytes) 64
  let s1 := forN 8 s (fun i t => t.setFldAt f_BOOT_CHAIN_CHAIN i (leAt c (8 * i) 8))
  { s1.setFld f_BOOT_MEAS_ENTRIES (s.meas.length + 1) with meas := s.meas ++ [m] }

/-- Entries 1 to 5. -/
def State.measureBoot (s : State) : State :=
  let pk := (s.ident.map (·.pk)).getD []
  let cert := (s.cfg.map (·.cert)).getD []
  let ms : List Meas := [
    ⟨1, bits (s.liveWord 0).toNat 8 8, 0, Config.romDigest⟩,
    ⟨2, 0, 0, Config.shake256 pk 64⟩,
    ⟨3, 0, (s.cfg.map (·.serial)).getD 0, Config.shake256 cert 64⟩,
    ⟨4, (s.cfg.map (·.svn)).getD 0, (s.cfg.map (·.generation)).getD 0, (s.cfg.map (·.digest)).getD []⟩,
    ⟨5, (s.fw.map (·.svn)).getD 0, (s.fw.map (·.generation)).getD 0, (s.fw.map (·.digest)).getD []⟩]
  forL ms s (fun m t => t.measure m)

/-! ### Configuration entries (R569) -/

/-- Apply a `REG` entry: the masked write, counted when a field does not take it. -/
def State.applyReg (s : State) (e : Entry) : State :=
  let off := leAt e.raw 8 8 - setupBase
  let mask := BitVec.ofNat 64 (leAt e.raw 24 8)
  let w := (s.liveWord off &&& ~~~mask) ||| (BitVec.ofNat 64 (leAt e.raw 16 8) &&& mask)
  let t := s.regWrite off w
  if s.ignored off w then
    let t1 := if t.fld f_BOOT_CFG_STAT_IGNORED = 0 then t.setFld f_BOOT_CFG_STAT_FIRST_IGNORED e.slot else t
    t1.incSat f_BOOT_CFG_STAT_IGNORED
  else t

/-- Entries of the selected configuration. -/
def State.cfgEntries (s : State) : List Entry := (s.cfg.bind (fun c => bodyEntries c.body)).getD []

/-- `BOOT_STAGE_7`: the management processor that fails to start, if one does. -/
def execBootStage7 (failed : Option Nat) (s : State) : Host.Outcome State Fault Refusal :=
  .next (s.whenAlive (if s.stageRuns 7 then
      match failed with
      | some k => s.stageFail 7 6 k
      | none => (forL (s.cfgEntries.filter (fun e => e.type == 1)) s.measureBoot (fun e t => t.applyReg e)).stageEnd 7
    else s))

/-! ### Store-ready (R274, R557, R569) -/

/-- Copy an entry of the extent table. -/
def State.copyExtent (s : State) (i : Nat) (r : List Byte) : State :=
  let base := leAt r 0 8
  let tiles := leAt r 8 4
  let owner := leAt r 12 1
  let flags := leAt r 13 1
  let ok := base % tileBytes == 0 && tiles != 0 && decide (owner < 64) && decide (mediaBase ≤ base ∧ base + tiles * tileBytes ≤ localTop) &&
    s.extents.all (fun e => !overlap base (tiles * tileBytes) e.base (e.tiles * tileBytes)) && decide (flags < 2) && zeros r 14 2
  if flags % 2 = 0 then s
  else if ok then { s with extents := s.extents ++ [{ num := i, base := base, tiles := tiles, owner := owner, map := [] }] }
  else (s.incSat f_TIER_ERR_BAD_EXTENTS).raise (ev 0x15 0 1)

/-- Copy the extent table when the setup lock is set. -/
def State.copyExtents (s : State) : State :=
  let a := s.fld f_TIER_EXT_BASE * 4096
  forN (s.fld f_TIER_EXT_COUNT) s (fun i t => t.copyExtent i (s.memRead (a + 16 * i) 16))

/-- Write the `DATA` entries, set the setup lock, lay out the carve-outs, end the boot; media bring-up begins on the ports whose
`MEDIA_PRSNT_N` names a drive (R557). -/
def State.stage8 (s : State) (present : Nat) : State :=
  let s1 := forL (s.cfgEntries.filter (fun e => e.type == 5)) s (fun e t => t.memWrite (leAt e.raw 8 8) e.data)
  let s2 := (s1.setFld f_BOOT_STATUS_LOCK 1).layStore
  let s3 := (s2.setFld f_AS_DIRECT_LIMIT_LEN (s2.fld f_TIER_SPLIT_DIRECT_GIB * gib)).setFld f_TIER_SPLIT_CACHE_GIB
    (s2.dramGib - s2.fld f_TIER_SPLIT_DIRECT_GIB)
  let s4 := s3.copyExtents
  let s5 := s4.measure ⟨6, 0, 0, Config.shake256 (leBytes 8 (s4.word 0xF0000).toNat) 64⟩
  { ((s5.stageEnd 8).setFld f_BOOT_STATUS_STORE_READY 1).setFld f_BOOT_TIME_READY_US (s.aon / 1800) with
    mediaWait := (List.range 8).filter (fun p => bit present p) }

/-- `BOOT_STAGE_8`. -/
def execBootStage8 (s : State) (present : Nat := 0) : Host.Outcome State Fault Refusal :=
  .next (s.whenAlive (if s.stageRuns 8 then s.stage8 present else s))

/-- `BOOT_STAGE_TIMEOUT` (R558): a stage exceeds its maximum; the flash time of an enrolment does not count (R556). -/
def execBootStageTimeout (stage : Nat) (s : State) : Host.Outcome State Fault Refusal :=
  let late := s.alive && decide (1 ≤ stage ∧ stage ≤ 8) && !s.stageDone stage && !s.stuck.contains (stage, 7) && (stageAfter stage).all s.stageDone &&
    (decide (stage < 7) || s.failCode == 0) && !(stage == 3 && s.flash.busy && !s.flash.forMctp)
  .next (s.whenAlive (if late then s.stageFail stage 7 stage else s))

end Sys2Proof.Machine
end

