-- ==== Sys2Proof/Machine/Mctp.lean ====
section
/-! DEFINITION. The MCTP endpoint (R575 to R577): control commands, Lanigal requests held in arrival order, the attestation report
(R574), and the operations of the boot flash (R556, R560, R562). -/

namespace Sys2Proof.Machine

/-! ### Control commands (R575) -/

/-- A message of the endpoint. -/
def State.reply (s : State) (typ command status : Nat) (body : List Byte) : State :=
  { s with mctpOut := s.mctpOut ++ [{ typ := typ, command := command, status := status, body := body }] }

/-- The endpoint answers from stage 1 on. -/
def State.mctpOn (s : State) : Bool := s.alive && s.stageDone 1

/-- A control response with its completion code (DSP0236). -/
def State.control (s : State) (command code : Nat) (body : List Byte) : State :=
  if s.mctpOn then s.reply 0x00 command code body else s

/-- `SET_ENDPOINT_ID`: the identifiers 0x00 and 0xFF are invalid data. -/
def execSetEndpointId (eid : Nat) (s : State) : Host.Outcome State Fault Refusal :=
  .next (s.whenAlive (if !s.mctpOn then s
    else if eid = 0 ∨ 0xFF ≤ eid then s.control 0x01 0x02 []
    else (s.setFld f_BOOT_MCTP_EID eid).control 0x01 0x00 [0#8, byte eid, 0#8]))

/-- `GET_ENDPOINT_ID`. -/
def execGetEndpointId (s : State) : Host.Outcome State Fault Refusal :=
  .next (s.whenAlive (s.control 0x02 0x00 [byte (s.fld f_BOOT_MCTP_EID), 0#8, 0#8]))

/-- `GET_MCTP_VERSION_SUPPORT`: one entry, version 1.3. -/
def execGetMctpVersionSupport (s : State) : Host.Outcome State Fault Refusal :=
  .next (s.whenAlive (s.control 0x04 0x00 [1#8, 0xF1#8, 0xF3#8, 0xFF#8, 0#8]))

/-- `GET_MESSAGE_TYPE_SUPPORT`: types 0x00 and 0x7F. -/
def execGetMessageTypeSupport (s : State) : Host.Outcome State Fault Refusal :=
  .next (s.whenAlive (s.control 0x05 0x00 [2#8, 0x00#8, 0x7F#8]))

/-- The 16 bytes of the endpoint's UUID. -/
def Ident.uuid (i : Ident) : List Byte :=
  let h := tagged 6 i.pk 16
  h.take 6 ++ [(h.getD 6 0#8 &&& 0x0F#8) ||| 0x80#8] ++ (h.drop 7).take 1 ++ [(h.getD 8 0#8 &&& 0x3F#8) ||| 0x80#8] ++ h.drop 9

/-- `GET_ENDPOINT_UUID`: not ready before the device key stands. -/
def execGetEndpointUuid (s : State) : Host.Outcome State Fault Refusal :=
  .next (s.whenAlive (match s.ident with
    | some i => if s.stageDone 3 then s.control 0x03 0x00 i.uuid else s.control 0x03 0x04 []
    | none => s.control 0x03 0x04 []))

/-- `UNSUPPORTED_CONTROL_COMMAND`. -/
def execUnsupportedControlCommand (code : Nat) (s : State) : Host.Outcome State Fault Refusal := .next (s.whenAlive (s.control code 0x05 []))

/-! ### The attestation report (R574) -/

/-- The endorsement in the record; none when its length is not written. -/
def State.endorsement (s : State) : List Byte :=
  let n := leNat (s.flash.read (recordBase + 116) 4)
  if n = 0xFFFFFFFF then [] else s.flash.read endorseBase n

/-- The report for a nonce. -/
def State.report (s : State) (i : Ident) (nonce : List Byte) : List Byte :=
  let e := s.endorsement
  let flags := s.fld f_BOOT_STATUS_RECOVERY + 2 * s.fld f_BOOT_STATUS_ENROLLED
  let node := if s.flag f_AS_NODE_VALID then s.me else 0xFFFF
  let bs := leBytes 2 1 ++ leBytes 2 flags ++ leBytes 4 s.meas.length ++ leBytes 8 i.devId ++ leBytes 2 node ++ leBytes 2 0 ++ leBytes 4 s.epoch ++
    leBytes 8 s.now ++ nonce ++ s.chain ++ i.pk ++ leBytes 8 (s.liveWord 0).toNat ++ leBytes 4 e.length ++ List.replicate 52 0#8 ++
    s.meas.flatMap Meas.bytes ++ e
  bs ++ i.sign bs

/-! ### Requests (R576, R577) -/

def MReq.command : MReq → Nat
  | .bootStatus => 1 | .identity => 2 | .report _ => 3 | .regRead _ => 4 | .regWrite _ _ => 5 | .flashWrite _ _ _ _ _ => 6 | .endorse _ _ _ _ _ => 7
  | .reset => 8

/-- When a command is available. -/
inductive Avail where
  | now | wait | late
  deriving DecidableEq, Repr

/-- Stage `k` exceeded its maximum. -/
def State.stageLate (s : State) (k : Nat) : Bool := s.stuck.contains (k, 7)

def State.avail (s : State) (r : MReq) : Avail :=
  let after (k : Nat) (ready : Bool) : Avail := if ready then .now else if s.stageLate k then .late else .wait
  match r with
  | .bootStatus | .reset => after 1 (s.stageDone 1)
  | .identity | .report _ => after 3 (s.stageDone 3 || s.failCode == 4)
  | .regRead _ | .regWrite _ _ => after 2 (s.stageDone 2)
  | .flashWrite _ _ _ _ _ => if s.stageLate 2 && !s.stageDone 2 then .late else after 4 s.flashFound
  | .endorse _ _ _ _ _ => after 3 (s.stageDone 3)

/-- Answer the front request. -/
def State.answerM (s : State) (r : MReq) (status : Nat) (body : List Byte) : State :=
  { s with mctp := s.mctp.tail }.reply 0x7F r.command status body

/-- A slot that this boot selected. -/
def State.bootedSlot (s : State) (slot : Nat) : Bool :=
  if slot < 2 then s.cfg.isSome && s.fld f_BOOT_STATUS_CFG_SLOT == slot else s.fw.isSome && s.fld f_BOOT_STATUS_FW_SLOT + 2 == slot

/-- What refuses a write of a slot. -/
def State.flashRefuse (s : State) (slot off len rsvd : Nat) (data : List Byte) : Option Nat :=
  if rsvd ≠ 0 ∨ data.length ≠ len then some eFormat
  else if 4 ≤ slot then some eRange
  else if s.bootedSlot slot && !s.flag f_BOOT_STATUS_RECOVERY then some ePerm
  else if off % 256 ≠ 0 ∨ len < 1 ∨ 1024 < len ∨ slotSize slot < off + len then some eRange
  else none

/-- What refuses a write of the endorsement. -/
def State.endorseRefuse (s : State) (off len total rsvd : Nat) (data : List Byte) : Option Nat :=
  if rsvd ≠ 0 ∨ data.length ≠ len then some eFormat
  else if !(s.flash.read (endorseBase + off) len).all (fun b => b == 0xFF#8) then some ePerm
  else if 49152 < total ∨ total < off + len then some eRange
  else none

/-- An operation of the flash begins for the front request. -/
def State.startFlash (s : State) : State := { s with flash := { s.flash with busy := true, forMctp := true } }

/-- Serve the front request. -/
def State.mctpServe (s : State) : State :=
  match s.mctp with
  | [] => s
  | r :: _ =>
    if s.flash.busy && s.flash.forMctp then s
    else match s.avail r with
    | .wait => s
    | .late => s.answerM r eTimeout []
    | .now =>
      match r with
      | .bootStatus => s.answerM r stOk (leBytes 8 (s.word 0xF0000).toNat)
      | .identity =>
        match s.ident with
        | some i =>
          if s.stageDone 3 then s.answerM r stOk (leBytes 8 i.devId ++ i.pk ++ leBytes 8 (s.liveWord 0).toNat) else s.answerM r eIntegrity []
        | none => s.answerM r eIntegrity []
      | .report nonce =>
        match s.ident with
        | some i => if s.stageDone 3 then s.answerM r stOk (s.report i nonce) else s.answerM r eIntegrity []
        | none => s.answerM r eIntegrity []
      | .regRead a =>
        if a < setupBase ∨ setupTop ≤ a then s.answerM r eRange []
        else if a % 8 ≠ 0 then s.answerM r eAlign []
        else match s.mgmtRead a with
          | .ok bs => s.answerM r stOk bs
          | .error (.err f) => s.answerM r f.status []
          | .error (.wait _) => s
      | .regWrite a w =>
        if a < setupBase ∨ setupTop ≤ a then s.answerM r eRange []
        else if a % 8 ≠ 0 then s.answerM r eAlign []
        else match s.mgmtWrite a w with
          | .ok t => t.answerM r stOk []
          | .error f => s.answerM r f.status []
      | .flashWrite slot off len rsvd data =>
        match s.flashRefuse slot off len rsvd data with
        | some st => s.answerM r st []
        | none => if s.flash.busy then s else s.startFlash
      | .endorse off len total rsvd data =>
        match s.endorseRefuse off len total rsvd data with
        | some st => s.answerM r st []
        | none => if s.flash.busy then s else s.startFlash
      | .reset => (s.answerM r stOk []).warmReset

/-- A request arrives: served at once when none is held, else held; the ninth is discarded. -/
def State.mctpIn (s : State) (r : MReq) : State :=
  if !s.alive then s
  else if 8 ≤ s.mctp.length then s.incSat f_BOOT_MCTP_DROPS
  else
    let t := { s with mctp := s.mctp ++ [r] }
    if s.mctp.isEmpty then t.mctpServe else t

/-- `GET_BOOT_STATUS`. -/
def execGetBootStatus (s : State) : Host.Outcome State Fault Refusal := .next (s.whenAlive (s.mctpIn .bootStatus))

/-- `GET_IDENTITY`. -/
def execGetIdentity (s : State) : Host.Outcome State Fault Refusal := .next (s.whenAlive (s.mctpIn .identity))

/-- `GET_REPORT`. -/
def execGetReport (nonce : List Byte) (s : State) : Host.Outcome State Fault Refusal := .next (s.whenAlive (s.mctpIn (.report nonce)))

/-- `REG_READ`. -/
def execRegRead (addr : Nat) (s : State) : Host.Outcome State Fault Refusal := .next (s.whenAlive (s.mctpIn (.regRead addr)))

/-- `REG_WRITE`. -/
def execRegWrite (addr : Nat) (word : Word) (s : State) : Host.Outcome State Fault Refusal := .next (s.whenAlive (s.mctpIn (.regWrite addr word)))

/-- `FLASH_WRITE`. -/
def execFlashWrite (slot off len rsvd : Nat) (data : List Byte) (s : State) : Host.Outcome State Fault Refusal :=
  .next (s.whenAlive (s.mctpIn (.flashWrite slot off len rsvd data)))

/-- `ENDORSE_WRITE`. -/
def execEndorseWrite (off len total rsvd : Nat) (data : List Byte) (s : State) : Host.Outcome State Fault Refusal :=
  .next (s.whenAlive (s.mctpIn (.endorse off len total rsvd data)))

/-- `RESET`. -/
def execReset (s : State) : Host.Outcome State Fault Refusal := .next (s.whenAlive (s.mctpIn .reset))

/-- `MCTP_DEFERRED_ANSWER`: the oldest request held is answered, once its command is available or its stage is late. -/
def execMctpDeferredAnswer (s : State) : Host.Outcome State Fault Refusal := .next (s.whenAlive (if s.alive then s.mctpServe else s))

/-! ### Operations of the flash -/

/-- Program bytes: a byte that is not erased becomes a free value. -/
def State.program (s : State) (a : Nat) (bs : List Byte) : State :=
  let old := s.flash.read a bs.length
  let new := (List.range bs.length).map (fun i => if old.getD i 0#8 = 0xFF#8 then bs.getD i 0#8 else Config.freeByte (s.fresh + i))
  { s with flash := s.flash.write a new, fresh := s.fresh + bs.length }

/-- The front request's operation is done: its bytes are in the flash. -/
def State.flashDone (s : State) : State :=
  match s.mctp with
  | .flashWrite slot off _ _ data :: _ =>
    let a := slotBase slot + off
    let t := if off % 65536 = 0 then { s with flash := s.flash.erase a 65536 } else s
    (t.program a data).answerM (.flashWrite slot off 0 0 []) stOk []
  | .endorse off _ total _ data :: _ =>
    let t := s.program (endorseBase + off) data
    (if off = 0 then t.program (recordBase + 116) (leBytes 4 total) else t).answerM (.endorse off 0 0 0 []) stOk []
  | _ => s

/-- `FLASH_OPERATION_COMPLETE`: of a write by MCTP, or of the record of an enrolment, which ends stage 3 (R572). -/
def execFlashOperationComplete (s : State) : Host.Outcome State Fault Refusal :=
  .next (s.whenAlive (if !s.alive || !s.flash.busy then s
    else
      let t := { s with flash := { s.flash with busy := false, forMctp := false } }
      if s.flash.forMctp then t.flashDone
      else match s.ident with
        | some i => (t.setFld f_BOOT_STATUS_ENROLLED 1).identDone i
        | none => t))

/-- `FLASH_OP_TIMEOUT` (R556, R560): twice the BFPT maximum has passed. A request ends with `E_TIMEOUT` and changes nothing; an
enrolment ends the boot. -/
def execFlashOpTimeout (s : State) : Host.Outcome State Fault Refusal :=
  .next (s.whenAlive (if !s.alive || !s.flash.busy then s
    else if s.flash.forMctp then
      match s.mctp with
      | r :: _ => { s with flash := { s.flash with busy := false, forMctp := false } }.answerM r eTimeout []
      | [] => s
    else { s with flash := s.tornFlash, ident := none, fresh := s.fresh + 2 ^ 26 }.stageFail 3 4 0))

end Sys2Proof.Machine
end

