-- ==== Sys2Proof/Machine/Clients.lean ====
section
/-! DEFINITION. Requests of Kellija clients (R318, R347 to R365, R421, R422, R454 to R457): format, binding, holding and ordering,
translation, the parts of a request at its homes; `SYNC`; atomics (R366, R393, R423); the setup register space as clients reach
it (R38); and the answers of clients to the ZV9's own requests (R456, R461). -/

namespace Sys2Proof.Machine

/-! ### Form of a request (R357, R455 to R457) -/

/-- The ordering attributes that a request type allows (R357). -/
def KPkt.ordersOk (p : KPkt) : Bool :=
  let scopeOk := decide (p.scope ≤ 2)
  match p.typ with
  | 0x01 => p.sync == 0 && (p.ord == 0 && p.scope == 0 || p.ord == 1 && scopeOk)
  | 0x03 => p.sync == 0 && (p.ord == 0 && p.scope == 0 || p.ord == 2 && scopeOk)
  | 0x05 => p.sync == 0 && (p.ord == 0 && p.scope == 0 || decide (1 ≤ p.ord ∧ p.ord ≤ 3) && scopeOk)
  | 0x07 => p.ord == 0 && decide (1 ≤ p.sync ∧ p.sync ≤ 3) && scopeOk
  | _ => p.sync == 0 && p.ord == 0 && p.scope == 0

/-- A type that a client may send (R456). -/
def kpktKnown (typ : Nat) : Bool :=
  [0x01, 0x03, 0x05, 0x07, 0x10, 0x11, 0x12, 0x1D, 0x1E, 0x1F, 0x20, 0x21, 0x30, 0x41, 0x43].contains typ

/-- Class of a client packet (R456). -/
def kpktClass (typ : Nat) : Nat :=
  match typ with
  | 0x01 => 2
  | 0x03 | 0x05 | 0x07 => 4
  | 0x10 | 0x11 | 0x12 => 0
  | 0x1D | 0x1E | 0x1F | 0x20 | 0x21 => 1
  | _ => 3

/-- Payload length and `AUX` of a client request are those of its type. The operands of an atomic are checked with its
operation. -/
def KPkt.lenOk (p : KPkt) : Bool :=
  match p.typ with
  | 0x03 => goodLen p.payload.length
  | 0x05 => true
  | 0x1F | 0x20 => p.payload.length == 64
  | _ => p.payload.isEmpty

def KPkt.auxOk (p : KPkt) : Bool :=
  match p.typ with
  | 0x01 => goodLen p.aux
  | 0x05 => decide (p.aux < 256)
  | 0x10 | 0x11 | 0x12 => true
  | _ => p.aux == 0

/-- Offset of the lowest header byte of a client request that is wrong (R457). -/
def KPkt.badByte (p : KPkt) (streams : Nat) : Option Nat :=
  ((([(kpktKnown p.typ, 0), (p.ordersOk, 1), (decide (p.stream < streams), 2), (p.tc == kpktClass p.typ, 3), (p.lenOk, 16), (p.status == 0, 18),
      (p.detailKind == 0, 19), (p.auxOk, 20), (p.detail == 0, 24)] : List (Bool × Nat)).filter (fun c => !c.1)).map (·.2) ++
    p.rsvd.toList).min?

/-! ### Threads: what waits and what fails (R354, R355, R359, R364, R422) -/

/-- A request fails before its home is known (R364). -/
def State.clientFail (s : State) (port : Nat) (p : KPkt) (f : Fail) : State :=
  let (pl, po) := failPayload p f
  (s.klRespond port p (klRspType p.typ) f pl po).noteFailed port p none f

/-- Transactions of a thread without an answer. -/
def State.mine (s : State) (port stream : Nat) : List CTxn := s.txns.filter (fun t => t.port == port && t.req.stream == stream)

def KPkt.writes (p : KPkt) : Bool := p.typ == 0x03 || p.typ == 0x05

/-- First byte and length of what a client request names. -/
def KPkt.range (p : KPkt) : Nat × Nat :=
  if p.typ = 0x01 then (p.addr, p.aux) else if p.writes then (p.addr, p.payload.length) else (p.addr / 64 * 64, 64)

/-- A part of the transaction is queued at a bank of this ZV9. -/
def State.localPart (s : State) (t : CTxn) : Bool :=
  (s.fillQ ++ s.bankQ).any (fun w => match w.acc.org with | .txn id _ => id == t.id | _ => false)

/-- A scope covers the transaction: `DOMAIN` every one, the others those with a part at this ZV9 (R358). -/
def State.coversTxn (s : State) (scope : Nat) (t : CTxn) : Bool := scope == 2 || s.localPart t

/-- A scope covers a failed write (R358, R364). -/
def State.coversFail (s : State) (scope : Nat) (x : Option Nat × (Nat × Nat × Nat)) : Bool := scope == 2 || x.1.isNone || x.1 == some s.me

/-- A status with its `DETAIL`, as a thread keeps it. -/
def asFail (x : Nat × Nat × Nat) : Fail := ⟨x.1, x.2.1, x.2.2⟩

/-- The status that a release point, or a store behind a `SYNC`, ends with because of a failed write (R364). -/
def State.releaseFail (s : State) (port : Nat) (p : KPkt) : Option (Nat × Nat × Nat) :=
  let th := s.thread port p.stream
  match th.syncFail with
  | some st => if p.writes then some st else none
  | none => if p.writes && decide (2 ≤ p.ord) then (th.failed.find? (s.coversFail p.scope)).map (·.2) else none

/-- A write or atomic to a home where an earlier one ended with `E_DEAD_TARGET` or `E_TIMEOUT` (R422). -/
def State.homeFail (s : State) (port : Nat) (p : KPkt) (home : Nat) : Option (Nat × Nat × Nat) :=
  if p.writes then
    ((s.thread port p.stream).failed.find? (fun x => x.1 == some home && (x.2.1 == eDeadTarget || x.2.1 == eTimeout))).map (·.2)
  else none

/-- Requests of a thread outstanding at another home. -/
def State.outOf (s : State) (port stream home : Nat) : List OutReq :=
  s.outReqs.filter (fun o => o.pkt.dest == home && (match o.who with
    | .txn id _ => (s.mine port stream).any (fun t => t.id == id)
    | _ => false))

/-- Bytes that a request packet names. -/
def QPkt.span (p : QPkt) : Nat := if p.typ = 0x01 ∨ p.typ = 0x07 then p.aux else p.payload.length

def inSetup (a : Nat) : Bool := decide (setupBase ≤ a ∧ a < setupTop)

/-- The pieces that a request's bytes translate to now; none when their translation fails. -/
def State.piecesOf (s : State) (port slice : Nat) (p : KPkt) : List Piece :=
  match s.xlate (uPort port) slice p.range.1 p.range.2 0 with
  | .ok ps => ps
  | .error _ => []

/-- A later request of a thread may not pass one that waits: either is a `SYNC`, an acquire point waits, a release point or an acquire point comes
behind what it covers, both write to one home, or they share a byte there or name its setup registers (R354, R355, R359, R363, R421). -/
def State.behind (s : State) (port slice : Nat) (p : KPkt) (h : Held) : Bool :=
  h.req.typ == 0x07 || p.typ == 0x07 || h.req.ord % 2 == 1 || decide (2 ≤ p.ord) || (p.ord % 2 == 1 && h.req.writes) ||
  (s.piecesOf port slice p).any (fun x => (s.piecesOf port h.slice h.req).any (fun y =>
    x.node == y.node && (p.writes && h.req.writes || overlap x.loc x.len y.loc y.len || inSetup x.loc || inSetup y.loc)))

/-- A request of a thread must wait for earlier ones: one that waits and that it may not pass, an acquire point without its value, the accesses that
a release point or a `SYNC` covers (R359), for an acquire point the thread's own writes (R363), and for a `SYNC` `ACQUIRE` or `FULL` every earlier
load and atomic, which it makes acquire points at its scope. -/
def State.mustHold (s : State) (port slice : Nat) (p : KPkt) : Bool :=
  let mine := s.mine port p.stream
  s.held.any (fun h => h.port == port && h.req.stream == p.stream && s.behind port slice p h) ||
  mine.any (fun t => t.req.ord % 2 == 1) ||
  (p.ord % 2 == 1 && mine.any (fun t => t.req.writes)) ||
  (match p.typ with
   | 0x03 | 0x05 => decide (2 ≤ p.ord) && mine.any (s.coversTxn p.scope)
   | 0x07 => mine.any (fun t => (p.sync != 2 && t.req.typ != 0x03) || (p.sync != 1 && s.coversTxn p.scope t))
   | _ => false)

/-- A translated part must wait: for room in the queue of its bank here (R391); for the thread's queued accesses before a setup access, and at another home behind an access of the
other class where one of the two is to the setup registers, or behind a load of them (R355); behind an older epoch (R421); behind an access to the
same bytes, unless both write (R354). -/
def State.holdPart (s : State) (port : Nat) (p : KPkt) (x : Piece) : Bool :=
  if x.node = s.me then
    if inSetup x.loc then s.threadQueued (s.me, port * 8192 + p.stream) false || (s.flash.busy && decide (flashBase ≤ x.loc))
    else s.bankFull x.loc
  else
    (s.outOf port p.stream x.node).any (fun o =>
      (p.writes && o.pkt.tc == 4 && o.pkt.epoch != s.epoch) ||
      (!(o.pkt.tc == 4 && p.writes) && overlap o.pkt.addr o.pkt.span x.loc x.len) ||
      ((o.pkt.tc == 4) != p.writes && inSetup (if p.writes then o.pkt.addr else x.loc)) ||
      (o.pkt.tc != 4 && !p.writes && inSetup o.pkt.addr && inSetup x.loc))

/-! ### The setup register space (R38) -/

/-- The slice of a client owns a doorbell page of this ZV9: its own slice, or for a client of another ZV9 the slice of its job. -/
def State.ownsPage (s : State) (node slice page : Nat) : Bool :=
  if node = s.me then page == slice
  else s.mapCur.any (fun m => (m.jobOf node slice).any (fun j => j.slices.any (fun e => e.node == s.me && e.slice == page)))

/-- A client's load or store in the setup register space (R38). -/
def State.setupAccess (s : State) (node slice a n : Nat) (op : AccOp) : Res (State × List Byte) :=
  let off := a - setupBase
  let atomic := match op with | .atomic _ _ _ => true | _ => false
  if atomic then fail eRange 2 a
  else if n ≠ 8 ∨ a % 8 ≠ 0 then fail eAlign 2 a
  else match op with
    | .read _ =>
      if slice = 0 ∨ off < 0x18 then (s.mgmtRead a).map (fun bs => (s, bs)) else fail ePerm 2 a
    | .write bs _ =>
      let w : Word := BitVec.ofNat 64 (leNat bs)
      if slice = 0 then
        match s.mgmtWrite a w with
        | .ok t => .ok (t, [])
        | .error f => .error (.err f)
      else if inDoorbells off && s.ownsPage node slice ((off - 0x1000000) / 4096) then .ok (s.regWrite off w, [])
      else fail ePerm 2 a
    | .atomic _ _ _ => fail eRange 2 a

/-! ### Serving a request -/

/-- What a client request does to `n` bytes at offset `o` of its range. -/
def KPkt.part (p : KPkt) (o n : Nat) : AccOp :=
  match p.typ with
  | 0x01 => .read n
  | 0x03 => .write ((p.payload.drop o).take n) p.poison
  | _ => .atomic (bits p.aux 0 4) (bits p.aux 4 4) p.payload

/-- One part of a transaction: at this ZV9, or as a packet to its home (R18, R409). -/
def State.sendPart (s : State) (id slice : Nat) (t : CTxn) (x : Piece) : State :=
  let o := x.va - t.req.addr
  let op := t.req.part o x.len
  if 0x8000 ≤ x.node then s.partDone id o x.node (.error ⟨eRange, 2, x.va⟩)
  else match s.homeFail t.port t.req x.node with
  | some st => s.partDone id o x.node (.error (asFail st))
  | none =>
    if x.node = s.me then
      if inSetup x.loc then
        match s.setupAccess s.me slice x.loc x.len op with
        | .ok (u, bs) => u.partDone id o s.me (.ok (bs, false))
        | .error (.err f) => s.partDone id o s.me (.error f)
        | .error (.wait _) => s
      else s.access { org := .txn id o, op := op, addr := x.loc, slice := slice, node := s.me }
    else match s.refuseTo x.node 0 with
      | some f => s.partDone id o x.node (.error f)
      | none =>
        let mk (typ tc aux : Nat) (pl : List Byte) (po : Bool) : QPkt :=
          { s.mkQ x.node typ tc pl with
            stream := t.port * 8192 + t.req.stream, ord := t.req.ord, scope := t.req.scope, poison := po, addr := x.loc, slice := slice, aux := aux }
        let q := match op with
          | .read n => mk 0x01 2 n [] false
          | .write bs po => mk 0x03 4 0 bs po
          | .atomic _ _ bs => mk 0x05 4 t.req.aux bs false
        s.sendReq q (.txn id o)

/-- Hold a request (R354, R355, R359, R391, R421). -/
def State.hold (s : State) (port slice : Nat) (p : KPkt) : State := { s with held := s.held ++ [{ port := port, slice := slice, req := p }] }

/-- A request fails a check before its home is known: it is answered, and a write counts as failed for the later release points of its thread alone,
so it takes its turn behind the requests of its stream that wait (R364). -/
def State.failTurn (s : State) (port : Nat) (p : KPkt) (f : Fail) : State :=
  if p.writes && s.held.any (fun h => h.port == port && h.req.stream == p.stream) then
    { s with held := s.held ++ [{ port := port, slice := 0, req := p, fail := some (f.status, f.kind, f.detail) }] }
  else s.clientFail port p f

/-- The first part of a request at several places that is refused: its home and the status. A request that is refused changes nothing, so its other
parts are not made (R350). -/
def State.partFail (s : State) (slice : Nat) (p : KPkt) (parts : List Piece) : Option (Nat × Fail) :=
  if parts.length < 2 then none
  else parts.findSome? (fun x =>
    let res : Res Unit :=
      if 0x8000 ≤ x.node then fail eRange 2 x.va
      else if x.node ≠ s.me then .ok ()
      else if inSetup x.loc then (s.setupAccess s.me slice x.loc x.len (p.part (x.va - p.addr) x.len)).map (fun _ => ())
      else s.judge { node := s.me, slice := slice, client := true } x.loc x.len p.writes
    match res with
    | .error (.err f) => some (x.node, if f.kind = 2 then { f with detail := p.addr } else f)
    | _ => none)

/-- Translate and make a load, store or atomic of `n` bytes (R318, R327). -/
def State.translateAndMake (s : State) (port slice : Nat) (p : KPkt) (right n : Nat) : State :=
  match s.xlate (uPort port) slice p.addr n right with
  | .error (.err f) => (s.noteTry (uPort port) slice p.addr n).clientFail port p f
  | .error (.wait _) => s.hold port slice p
  | .ok parts =>
    if parts.any (s.holdPart port p) then s.hold port slice p
    else match s.partFail slice p parts with
    | some (home, f) =>
      let (pl, po) := failPayload p f
      ((s.noteAccess (uPort port) slice p.addr n true).klRespond port p (klRspType p.typ) f pl po).noteFailed port p (some home) f
    | none =>
      let t : CTxn := {
        id := s.nextTxn, port := port, req := p, slice := slice, left := parts.length, got := [], status := stOk, kind := 0, detail := 0,
        poison := false, pages := s.leafRanges (uPort port) slice p.addr n }
      let s1 := s.noteAccess (uPort port) slice p.addr n true
      forL parts { s1 with txns := s1.txns ++ [t], nextTxn := s1.nextTxn + 1 } (fun x u => u.sendPart t.id slice t x)

/-- The checks of an atomic that need no address, then its alignment (R351, R393, R423). -/
def KPkt.atomicForm (p : KPkt) : Res Nat :=
  match tallyWidth (bits p.aux 0 4) (bits p.aux 4 4) with
  | none => fail eFormat 3 20
  | some w => do
    check (p.payload.length == (if bits p.aux 0 4 = 3 then 2 * w else w)) eFormat 3 16
    check (p.addr % w == 0) eAlign 2 p.addr
    .ok w

/-- `SYNC` (R359, R363, R364): the accesses it covers are in; a `RELEASE` or `FULL` takes the status of a covered failed write. -/
def State.syncDone (s : State) (port : Nat) (p : KPkt) : State :=
  let th := s.thread port p.stream
  let st := if p.sync = 1 then none else (th.failed.find? (s.coversFail p.scope)).map (·.2)
  let s1 := match st with
    | some x => s.setThread { th with syncFail := some (th.syncFail.getD x) }
    | none => s
  s1.klRespond port p 0x08 (asFail (st.getD (stOk, 0, 0))) [] false

/-- Serve a request of the right form from a client bound to a slice, or hold it. -/
def State.serve (s : State) (port slice : Nat) (p : KPkt) : State :=
  if s.mustHold port slice p then s.hold port slice p
  else if s.fldAt f_SLC_STATUS_BUSY slice = 1 then s.clientFail port p (abortFail 2)
  else match s.releaseFail port p with
  | some st => s.clientFail port p (asFail st)
  | none =>
    match p.typ with
    | 0x01 => s.translateAndMake port slice p rRead p.aux
    | 0x03 => s.translateAndMake port slice p rWrite p.payload.length
    | 0x05 =>
      match p.atomicForm with
      | .error (.err f) =>
        (if f.status = eFormat then s.incSatAt f_KL_PORT_ERR_MALFORMED port else s).clientFail port p f
      | .error (.wait _) => s
      | .ok w => s.translateAndMake port slice p rAtomic w
    | _ => s.syncDone port p

/-- Serve again, in order, the requests that were held. -/
def State.pumpHeld (s : State) : State :=
  forL s.held { s with held := [] } (fun h t => match h.fail with
    | some f => t.failTurn h.port h.req (asFail f)
    | none => t.serve h.port h.slice h.req)

/-- A request of a client reaches its port: form, binding, then the request (R454, R457). `refuse` answers a failed check. -/
def State.fromClient (s0 : State) (port : Nat) (p : KPkt) (refuse : State → Fail → State) (run : State → Nat → State) : State :=
  if 4 ≤ port ∨ !s0.klUp port then s0
  else
    let s := (s0.takeRx (.kl p)).pumpHeld
    match p.badByte (s.fldAt f_KL_PORT_STREAMS port) with
    | some o => refuse (s.incSatAt f_KL_PORT_ERR_MALFORMED port) ⟨eFormat, 3, o⟩
    | none =>
      match s.bound port with
      | none => refuse s ⟨ePerm, 2, p.addr⟩
      | some sl => run s sl

/-- A load, store, atomic or `SYNC`. -/
def State.clientRequest (s : State) (port : Nat) (p : KPkt) : State :=
  s.fromClient port p (fun t f => t.failTurn port p f) (fun t sl => t.serve port sl p)

/-! ### The meanings -/

/-- `CLIENT_READ` (R457); its read may find errors of memory (R304, R474). A packet of an undefined `TYPE` comes here, and is answered `E_FORMAT`
(R456). -/
def execClientRead (port : Nat) (p : KPkt) (errs : List MemErr) (s : State) : Host.Outcome State Fault Refusal :=
  .next (s.whenAlive (s.readErrs errs (fun t => if p.typ = 0x01 ∨ !kpktKnown p.typ then t.clientRequest port p else t)))

/-- `CLIENT_WRITE` (R392); a line that it writes in part is read first (R304). -/
def execClientWrite (port : Nat) (p : KPkt) (errs : List MemErr) (s : State) : Host.Outcome State Fault Refusal :=
  .next (s.whenAlive (s.readErrs errs (fun t => if p.typ = 0x03 then t.clientRequest port p else t)))

/-- `SYNC_ACQUIRE` (R359); a `SYNC` of the undefined kind 0 comes here and is answered `E_FORMAT` (R457). -/
def execSyncAcquire (port : Nat) (p : KPkt) (s : State) : Host.Outcome State Fault Refusal :=
  .next (s.whenAlive (if p.typ = 0x07 ∧ p.sync ≤ 1 then s.clientRequest port p else s))

/-- `SYNC_RELEASE` (R359). -/
def execSyncRelease (port : Nat) (p : KPkt) (s : State) : Host.Outcome State Fault Refusal :=
  .next (s.whenAlive (if p.typ = 0x07 ∧ p.sync = 2 then s.clientRequest port p else s))

/-- `SYNC_FULL` (R363). -/
def execSyncFull (port : Nat) (p : KPkt) (s : State) : Host.Outcome State Fault Refusal :=
  .next (s.whenAlive (if p.typ = 0x07 ∧ p.sync = 3 then s.clientRequest port p else s))

/-- An atomic from a client of this ZV9, or in a packet to this home (R366, R393, R423). -/
def State.atomicOf (s : State) (r : Req) : State :=
  match r with
  | .client port p => s.clientRequest port p
  | .peer p =>
    let lenOk := match tallyWidth (bits p.aux 0 4) (bits p.aux 4 4) with
      | some w => p.payload.length == (if bits p.aux 0 4 = 3 then 2 * w else w)
      | none => true
    if s.bankFull p.addr then s
    else s.arrive p (p.bad 4 lenOk (decide (p.aux < 256))) (fun t => t.access (p.acc (.atomic (bits p.aux 0 4) (bits p.aux 4 4) p.payload)))

/-- `OP` of an atomic. -/
def Req.tallyOp : Req → Nat
  | .client _ p => bits p.aux 0 4
  | .peer p => bits p.aux 0 4

/-- `ATOMIC_ADD` (R393). -/
def execAtomicAdd (r : Req) (s : State) : Host.Outcome State Fault Refusal :=
  .next (s.whenAlive (if r.typ = 0x05 ∧ r.tallyOp = 0 then s.atomicOf r else s))

/-- `ATOMIC_MIN` (R393). -/
def execAtomicMin (r : Req) (s : State) : Host.Outcome State Fault Refusal :=
  .next (s.whenAlive (if r.typ = 0x05 ∧ r.tallyOp = 1 then s.atomicOf r else s))

/-- `ATOMIC_MAX` (R393). -/
def execAtomicMax (r : Req) (s : State) : Host.Outcome State Fault Refusal :=
  .next (s.whenAlive (if r.typ = 0x05 ∧ r.tallyOp = 2 then s.atomicOf r else s))

/-- `ATOMIC_CAS` (R353, R393); an `OP` above 3 comes here and ends with `E_FORMAT`. -/
def execAtomicCas (r : Req) (s : State) : Host.Outcome State Fault Refusal :=
  .next (s.whenAlive (if r.typ = 0x05 ∧ 3 ≤ r.tallyOp then s.atomicOf r else s))

/-! ### Loads and stores from other ZV9s (R409, R410) -/

/-- The packet waits at this home's input: its bank's queue is full (R391), its stream's earlier accesses here are queued and it
names a setup register (R355), or it reads the flash while that is busy (R562). -/
def State.inputWaits (s : State) (p : QPkt) : Bool :=
  if inSetup p.addr then s.threadQueued (p.src, p.stream) false || (s.flash.busy && decide (flashBase ≤ p.addr)) else s.bankFull p.addr

/-- A load or store of another ZV9's client or engine. -/
def State.peerAccess (s : State) (p : QPkt) (op : AccOp) : State :=
  if inSetup p.addr ∧ p.stream < 0x8000 then
    match s.setupAccess p.src p.slice p.addr p.span op with
    | .ok (t, bs) => match op with
      | .read _ => t.respond p 0x02 3 0 bs false
      | _ => t.respond p 0x04 3 0 [] false
    | .error (.err f) => s.respondErr p f
    | .error (.wait _) => s
  else s.access (p.acc op)

/-- A packet type of the table (R410). -/
def qpktKnown (typ : Nat) : Bool :=
  [0x01, 0x02, 0x03, 0x04, 0x05, 0x06, 0x07, 0x08, 0x09, 0x0A, 0x0F, 0x10, 0x11, 0x12, 0x13, 0x14, 0x15, 0x18, 0x19, 0x1A, 0x1B, 0x1C, 0x1D, 0x1E, 0x1F,
    0x20, 0x21, 0x22, 0x30, 0x31, 0x32, 0x33, 0x38, 0x39].contains typ

/-- `QF_READ` (R409, R410, R304, R474). A packet of an undefined `TYPE` comes here, and is answered `E_FORMAT` (R410, R411). -/
def execQfRead (p : QPkt) (errs : List MemErr) (s : State) : Host.Outcome State Fault Refusal :=
  .next (s.whenAlive (s.readErrs errs (fun u => if !qpktKnown p.typ then u.arrive p (some 12) id else if p.typ ≠ 0x01 ∨ u.inputWaits p then u
    else u.arrive p (p.bad 2 p.payload.isEmpty (goodLen p.aux)) (fun t => t.peerAccess p (.read p.aux)))))

/-- `QF_WRITE` (R409, R410). -/
def execQfWrite (p : QPkt) (s : State) : Host.Outcome State Fault Refusal :=
  .next (s.whenAlive (if p.typ ≠ 0x03 ∨ s.inputWaits p then s
    else s.arrive p (p.bad 4 (goodLen p.payload.length) (p.aux == 0)) (fun t => t.peerAccess p (.write p.payload p.poison))))

/-! ### Answers of clients to the ZV9's own requests (R456, R461 to R463) -/

def State.klOut (s : State) (port tag : Nat) : Option KlOut := s.klOuts.find? (fun o => o.port == port && o.tag % two32 == tag % two32)

def State.dropOut (s : State) (o : KlOut) : State := { s with klOuts := del s.klOuts (fun x => x.port == o.port && x.tag == o.tag) }

/-- The access is undeliverable (R461). -/
def State.klFailed (s : State) (o : KlOut) : State :=
  let s1 := (s.dropOut o).incSatAt f_KL_PORT_ERR_TIMEOUTS o.port
  let f : Fail := ⟨eTimeout, 7, detail7 s.me 0 2⟩
  match o.why with
  | .ringStruct sl r | .sqRead sl r => (s1.faultRing sl r).ringAnswered sl r
  | .fill id _ => s1.endFills id f
  | .writeback id dirty _ =>
    let s2 := { s1 with klOuts := s1.klOuts.map (fun (x : KlOut) => match x.why with
      | .writeback g _ _ => if g = id then { x with why := .late } else x
      | _ => x) }
    (s2.writebackFailed id dirty).endWrites id f
  | .interrupt sl v =>
    ((s1.incSatAt f_KL_PORT_ERR_INT_DROPS o.port).record
      { cause := 0x13, status := 0, source := 9 * 4096 + o.port, slice := sl, addr := none, detail := sl + 256 * v }).logDue
  | .late => s1

/-- All bytes of a fill of a TH tile are here (R277 to R279): checked against the tag, read once more after a mismatch. -/
def State.thFill (s : State) (id : Nat) (again : Bool) (bytes : List Byte) (bad : List Nat) : State :=
  if some (crc32c bytes) ≠ (s.frame id).map (·.tag) then
    let s1 := s.incSat f_TIER_ERR_TAG_MISMATCHES
    if again then s1.tagLost id
    else
      let s2 := s1.startFill id
      { s2 with klOuts := s2.klOuts.map (fun (x : KlOut) => if x.why = .fill id false then { x with why := .fill id true } else x) }
  else
    let kept := ((s.frame id).bind (·.cache)).map (·.valid)
    let marks := bad.filter (fun l => !(kept.getD 0).getLsbD (l / 4096))
    let s1 := s.fillDone id bytes
    let s2 := match s1.frame id with
      | some f => s1.setFrame { f with cache := f.cache.map (fun (c : CacheFrame) => { c with poison := c.poison ++ marks }) }
      | none => s1
    s2.retryFills

/-- Bytes that a client sends arrive in full. -/
def State.klBytes (s : State) (o : KlOut) : State :=
  let s1 := s.dropOut o
  match o.why with
  | .sqRead sl r =>
    match s1.ring sl r with
    | none => s1
    | some x => s1.setRing { x with
        pre := x.pre ++ (List.range (o.got.length / 64)).map (fun k => ((o.got.drop (64 * k)).take 64, o.bad.contains (64 * k))) }
  | .fill id again => s1.thFill id again o.got o.bad
  | _ => s1

/-- `C_READ_RSP` (R456, R461): each packet holds the next 1,024 bytes, the last one the rest. -/
def execCReadRsp (port : Nat) (p : KPkt) (s0 : State) : Host.Outcome State Fault Refusal :=
  .next (s0.whenAlive (if p.typ ≠ 0x41 ∨ 4 ≤ port ∨ !s0.klUp port then s0
    else
      let s := s0.takeRx (.kl p)
      if p.rsvd.isSome ∨ p.tc ≠ 3 then s
      else match s.klOut port p.tag with
        | none => s.unmatched port
        | some o =>
          if o.left = 0 then s.unmatched port
          else if p.status ≠ 0 then s.klFailed o
          else if p.payload.length ≠ min 1024 o.left then s
          else
            let o1 := { o with
              left := o.left - p.payload.length, got := o.got ++ p.payload,
              bad := if p.poison then o.bad ++ linesOf o.got.length p.payload.length else o.bad }
            if o1.left = 0 then s.klBytes o1
            else { s with klOuts := upd s.klOuts (fun x => x.port == port && x.tag == o.tag) (fun _ => o1) }))

/-- A write into client memory is acknowledged; the last of a write-back stores the tile (R281). -/
def State.klWritten (s : State) (o : KlOut) : State :=
  let s1 := s.dropOut o
  match o.why with
  | .writeback id _ tag =>
    if s1.klOuts.any (fun x => match x.why with | .writeback g _ _ => g == id | _ => false) then s1
    else match s1.frame id with
      | some f => (s1.setFrame { f with stored := true, tag := tag }).wroteBack id
      | none => s1
  | .ringStruct sl r => s1.ringAnswered sl r
  | _ => s1

/-- `C_WRITE_ACK` (R456, R461), for a `C_WRITE` or an `INT`. -/
def execCWriteAck (port : Nat) (p : KPkt) (s0 : State) : Host.Outcome State Fault Refusal :=
  .next (s0.whenAlive (if p.typ ≠ 0x43 ∨ 4 ≤ port ∨ !s0.klUp port then s0
    else
      let s := s0.takeRx (.kl p)
      if p.rsvd.isSome ∨ p.tc ≠ 3 ∨ p.payload ≠ [] then s
      else match s.klOut port p.tag with
        | none => s.unmatched port
        | some o =>
          if o.left ≠ 0 then s.unmatched port
          else if p.status ≠ 0 then s.klFailed o
          else s.klWritten o))

/-- `KL_REQUEST_TIMEOUT` (R461). -/
def execKlRequestTimeout (port tag : Nat) (s : State) : Host.Outcome State Fault Refusal :=
  .next (s.whenAlive (match s.klOut port tag with
    | some o => s.klFailed o
    | none => s))

end Sys2Proof.Machine
end

