-- ==== Sys2Proof/Machine/Coh.lean ====
section
/-! DEFINITION. The commands of the Reeve directory (R372 to R391, R458, R465, R466): coherent requests and their retry credits,
answers to invalidations and recalls, write-backs, holds, timeouts, queued accesses, and coherence messages that pass through this
ZV9 to its caching clients. -/

namespace Sys2Proof.Machine

/-! ### Coherent requests at the home (R373, R382 to R386, R388) -/

/-- The line is stable: in I, `S` or `X` (R385). -/
def stableLine (e : Option DirEntry) : Bool := !e.any (fun x => x.held || x.transient)

/-- The credit names the line's slot and a ticket that is still waiting (R385). -/
def RetrySlot.valid (x : RetrySlot) (credit : Nat) : Bool :=
  let t := bits credit 12 20
  bits credit 0 6 == x.num && bits credit 6 6 == x.gen && decide ((t + mod20 - x.serve) % mod20 < (x.next + mod20 - x.serve) % mod20)

/-- The bytes of the line are at hand, when the home would answer with them: a grant from I or `S` reads them here (R381). -/
def State.lineData (s : State) (line : Nat) (e : Option DirEntry) : Res Unit :=
  match e with
  | none => (s.rawPiece (64 * line) 64).map (fun _ => ())
  | some x => if x.state == .s || x.state == .sHeld then (s.rawPiece (64 * line) 64).map (fun _ => ()) else .ok ()

/-- Serve a request that needs no more waiting, or `none` when its way or its bytes are not there yet. -/
def State.tryServe (s : State) (r : Req) (line typ : Nat) : State × Bool :=
  match s.lineData line (s.examine line) with
  | .ok _ => s.serveCoh r line typ
  | .error (.wait ns) => (s.startNeeds ns, false)
  | .error (.err f) => (s.answerErr r f, true)

/-- A coherent request that may be judged by state and credit (R382, R384, R385); `blocked` while a sweep or a revoke runs over its line: it is then
answered `RETRY` whatever the state (R390, R514). -/
def State.cohServe (s : State) (r : Req) (line typ credit : Nat) (blocked : Bool := false) : State :=
  let e := s.examine line
  let free := !blocked && stableLine e && !s.bankQ.any (fun w => w.over (64 * line) 64)
  match s.slotOf line with
  | some x =>
    if x.valid credit then
      let t := bits credit 12 20
      if t = x.serve ∧ free then
        match s.tryServe r line typ with
        | (u, true) => u.advanceServe x
        | (u, false) => u.retry r line credit (u.waitFor x t)
      else s.retry r line credit (s.waitFor x t)
    else (if credit = 0xFFFFFFFF then s else s.incSat f_REEVE_ERR_CREDIT_EXPIRED).ticket r line
  | none =>
    let s1 := if credit = 0xFFFFFFFF then s else s.incSat f_REEVE_ERR_CREDIT_EXPIRED
    if free || (!blocked && typ == 0x10 && e.any (fun x => x.state == .sHeld)) then
      match s1.tryServe r line typ with
      | (u, true) => u
      | (u, false) => u.ticket r line
    else s1.ticket r line

/-- `RD_S`, `RD_X` or `UPG` at its home (R382, R390, R514). -/
def State.homeCoh (s0 : State) (r : Req) (node slice line typ credit : Nat) : State :=
  let s := s0.freshen line
  let before := ((s.examine line).map (·.state.code)).getD 0
  let served := match s.judge { node := node, slice := slice, client := true } (64 * line) 64 (typ != 0x10) with
    | .error (.err f) => s.answerErr r f
    | .error (.wait _) => s
    | .ok _ =>
      if s.sweeping line || s.revokingLine line then s.cohServe r line typ credit true
      else if (s.examine line).any (fun e => e.owner == some (s.who r)) then
        (s.incSat f_REEVE_ERR_PROTOCOL).answerErr r ⟨eFormat, 3, match r with | .client _ _ => 0 | .peer _ => 12⟩
      else s.cohServe r line typ credit
  -- a request that now waits for holders is sampled when it is answered
  let waits := (served.entry line).any (fun e => match e.cause with | .req q _ _ _ _ => q == r | _ => false)
  if waits then served else served.cohSample r line before

/-- A client's coherent request is translated and reaches its home, or goes there (R18, R323, R373). A request that is not to be
cached reads the line's bytes instead. -/
def State.clientCoh (s : State) (port slice : Nat) (p : KPkt) : State :=
  let va := p.addr / 64 * 64
  let r : Req := .client port p
  if s.fldAt f_SLC_STATUS_BUSY slice = 1 then s.answerErr r (abortFail 2)
  else
    let cached := s.leafCaches (uPort port) slice va && s.fldAt f_KL_PORT_CLASS port == 1
    match s.xlate (uPort port) slice va 64 (if p.typ = 0x10 then rRead else rWrite) with
    | .error (.err f) => (s.noteTry (uPort port) slice va 64).answerErr r f
    | .error (.wait _) => s
    | .ok ps =>
      let s1 := s.noteAccess (uPort port) slice va 64 true
      match ps.head? with
      | none => s
      | some x =>
        if 0x8000 ≤ x.node then s1.answerErr r ⟨eRange, 2, va⟩
        else if x.node = s.me then
          if inSetup x.loc then s1.answerErr r ⟨eRange, 2, va⟩
          else if cached && s.dirSets != 0 then s1.homeCoh r s.me slice (x.loc / 64) p.typ p.aux
          -- the packet stays at its port while the queue of the bank is full (R391)
          else if s.bankFull x.loc then { s with rx := s.rx ++ [(port, .kl p)] }
          else s1.access { org := .nc r, op := .read 64, addr := x.loc, slice := slice, node := s.me, pages := s.leafRanges (uPort port) slice va 64 }
        else match s1.refuseTo x.node 0 with
          | some f => s1.answerErr r f
          | none =>
            let q : QPkt := { s1.mkQ x.node (if cached then p.typ else 0x01) (if cached then 0 else 2) [] with
              stream := port * 8192 + p.stream, addr := x.loc, slice := slice, aux := if cached then p.aux else 64 }
            s1.sendReq q (.coh port p) (s.leafRanges (uPort port) slice va 64)

/-- A coherent request waits at its port behind the earlier requests of its stream that it must follow: those that wait, an acquire point or a `SYNC`
without its value, an access to the same bytes at another home (R354, R359). -/
def State.cohWaits (s : State) (port : Nat) (p : KPkt) : Bool :=
  (s.bound port).any (fun sl => s.mustHold port sl p || (s.piecesOf port sl p).any (fun x => x.node != s.me && s.holdPart port p x))

/-- The map lists a port of a node among those with a caching client. -/
def State.cachesAt (s : State) (node port : Nat) : Bool := s.mapCur.any (fun m => (m.ent node).any (fun e => e.caching.getLsbD port))

/-- A coherent request of type `typ`. -/
def State.cohRequest (s : State) (typ : Nat) (r : Req) : State :=
  if r.typ ≠ typ then s
  else match r with
  | .client port p => if s.cohWaits port p then s else s.fromClient port p (fun t f => t.answerErr (.client port p) f) (fun t sl => t.clientCoh port sl p)
  | .peer p =>
    -- no copy is given while there is no directory, and none to a client of the non-caching class (R373)
    let plain := s.dirSets == 0 || !s.cachesAt p.src (bits p.stream 13 2)
    if plain && s.bankFull p.addr then s
    else s.arrive p (p.bad 0 p.payload.isEmpty true) (fun t =>
      if inSetup p.addr then t.answerErr (.peer p) ⟨eRange, 2, p.addr⟩
      else if plain then t.access { org := .nc (.peer p), op := .read 64, addr := p.addr / 64 * 64, slice := p.slice, node := p.src }
      else t.homeCoh (.peer p) p.src p.slice (p.addr / 64) typ p.aux)

/-- `RD_S` (R382). -/
def execRdS (r : Req) (s : State) : Host.Outcome State Fault Refusal := .next (s.whenAlive (s.cohRequest 0x10 r))

/-- `RD_X` (R382). -/
def execRdX (r : Req) (s : State) : Host.Outcome State Fault Refusal := .next (s.whenAlive (s.cohRequest 0x11 r))

/-- `UPG` (R382). -/
def execUpg (r : Req) (s : State) : Host.Outcome State Fault Refusal := .next (s.whenAlive (s.cohRequest 0x12 r))

/-! ### Answers of holders (R380, R382, R390, R465) -/

/-- A holder `h` answers for a line homed here: `typ` 0x1D `INV_ACK`, 0x1E `RECALL_ACK`, 0x1F `RECALL_DATA`. None when no such answer
is awaited. -/
def State.holderAnswer (s : State) (line : Nat) (h : Nat × Nat) (typ : Nat) (data : List Byte) (poison : Bool) : Option State :=
  let s1 := if typ = 0x1D then s else s.noteTrip line h
  if s.sweeps.any (fun w => w.awaiting.contains (line, h.1, h.2)) then some (s1.sweepAnswer line h).reapSweeps.finishHomes
  else match s.entry line with
  | none => none
  | some e =>
    if !e.awaiting.contains h || (typ == 0x1D) != (e.asked == 0x13) then none
    else
      let keeps := e.asked == 0x14 && !(typ == 0x1E && poison)
      some (s1.answered line h (if typ = 0x1F then some (data, poison) else none) (typ == 0x1E && poison) (!keeps)).reapRevoke

/-- An answer of type `typ`: from a client of this ZV9, which names the line by the global address that it was asked for, or from
another ZV9. -/
def State.cohAnswer (s0 : State) (typ : Nat) (r : Req) : State :=
  if r.typ ≠ typ then s0
  else match r with
  | .client port p =>
    if 4 ≤ port ∨ !s0.klUp port then s0
    else
      let s := s0.takeRx (.kl p)
      if p.rsvd.isSome ∨ p.tc ≠ 1 ∨ !p.lenOk then s
      else
        let home := p.addr / 2 ^ 50
        let loc := p.addr % 2 ^ 50
        if home = s.me then (s.holderAnswer (loc / 64) (s.me, port) typ p.payload p.poison).getD (s.unmatched port)
        else match s.cohOwed.find? (fun o => o.1 == port && o.2.src == home && o.2.addr == loc && (typ == 0x1D) == (o.2.typ == 0x13)) with
          | none => s.unmatched port
          | some o =>
            { s with cohOwed := s.cohOwed.erase o }.sendQf
              { s.mkQ home typ 1 p.payload with addr := loc, stream := o.2.stream, tag := o.2.tag, epoch := s.rspEpoch o.2.epoch, slice := o.2.slice, poison := p.poison }
  | .peer p =>
    if p.dest ≠ s0.me then s0
    else
      let s := s0.takeRx (.qf p)
      if p.rsvd ≠ 0 ∨ p.tc ≠ 1 ∨ p.payload.length ≠ (if typ = 0x1F then 64 else 0) then s.incSat f_QF_CNT_MALFORMED
      else (s.holderAnswer (p.addr / 64) (s.who r) typ p.payload p.poison).getD s

/-- `INV_ACK` (R382). -/
def execInvAck (r : Req) (s : State) : Host.Outcome State Fault Refusal := .next (s.whenAlive (s.cohAnswer 0x1D r))

/-- `RECALL_ACK` (R382); one with `POISON` poisons the line (R466). -/
def execRecallAck (r : Req) (s : State) : Host.Outcome State Fault Refusal := .next (s.whenAlive (s.cohAnswer 0x1E r))

/-- `RECALL_DATA` (R382). -/
def execRecallData (r : Req) (s : State) : Host.Outcome State Fault Refusal := .next (s.whenAlive (s.cohAnswer 0x1F r))

/-! ### Owners give lines up (R382, R390) -/

/-- `WB` (with data) or `PUT` at the home. -/
def State.homeWb (s0 : State) (r : Req) (line : Nat) (data : Option (List Byte × Bool)) : State :=
  let s := s0.freshen line
  let ack (t : State) : State := t.answer r 0x22 0 [] false
  let own := (s.examine line).filter (fun e => e.owner == some (s.who r))
  if s.sweeping line then
    match own with
    | some e => (ack (if e.transient then s else s.dropEntry line)).reapSweeps.finishHomes
    | none =>
      -- an owner that the sweep asks has lost the line already; any other is not its owner
      let c := s.who r
      ack (if s.sweeps.any (fun w => w.awaiting.contains (line, c.1, c.2)) then s else s.incSat f_REEVE_ERR_STALE_WB)
  else match own with
  | none => ack (s.incSat f_REEVE_ERR_STALE_WB)
  | some e =>
    let s1 := match data with
      | some (bs, po) => s.storeLine line bs po
      | none => s
    if e.transient then ack s1 else (ack (s1.dropEntry line)).reapRevoke

/-- A client's `WB` or `PUT` is translated and reaches its home, or goes there; the page only needs to be mapped. -/
def State.clientWb (s : State) (port slice : Nat) (p : KPkt) (data : Option (List Byte × Bool)) : State :=
  let va := p.addr / 64 * 64
  let r : Req := .client port p
  match s.xlate (uPort port) slice va 64 0 with
  | .error (.err f) => (s.noteTry (uPort port) slice va 64).answerErr r f
  | .error (.wait _) => s
  | .ok ps =>
    let s1 := s.noteAccess (uPort port) slice va 64 true
    match ps.head? with
    | none => s
    | some x =>
      if 0x8000 ≤ x.node then s1.answerErr r ⟨eRange, 2, va⟩
      else if x.node = s.me then s1.homeWb r (x.loc / 64) data
      else match s1.refuseTo x.node 0 with
        | some f => s1.answerErr r f
        | none =>
          s1.sendReq { s1.mkQ x.node p.typ 1 p.payload with
            stream := port * 8192 + p.stream, addr := x.loc, slice := slice, poison := p.poison } (.coh port p) (s.leafRanges (uPort port) slice va 64)

/-- `WB` (0x20) or `PUT` (0x21). -/
def State.giveUp (s : State) (typ : Nat) (r : Req) : State :=
  if r.typ ≠ typ then s
  else match r with
  | .client port p =>
    s.fromClient port p (fun t f => t.answerErr (.client port p) f)
      (fun t sl => t.clientWb port sl p (if typ = 0x20 then some (p.payload, p.poison) else none))
  | .peer p =>
    s.arrive p (p.bad 1 (p.payload.length == (if typ = 0x20 then 64 else 0)) (p.aux == 0)) (fun t =>
      t.homeWb r (p.addr / 64) (if typ = 0x20 then some (p.payload, p.poison) else none))

/-- `WB` (R382). -/
def execWb (r : Req) (s : State) : Host.Outcome State Fault Refusal := .next (s.whenAlive (s.giveUp 0x20 r))

/-- `PUT` (R382). -/
def execPut (r : Req) (s : State) : Host.Outcome State Fault Refusal := .next (s.whenAlive (s.giveUp 0x21 r))

/-! ### Holds, tickets and lost holders (R383, R385, R387, R390) -/

/-- The hold of an entry is over: a sweep that waited for it takes the line (R390). -/
def State.endHold (s : State) (e : DirEntry) : State :=
  let s1 := s.setEntry e.release
  (if s.sweeping e.line then (s1.sweepLine e.release).reapSweeps.finishHomes else s1).reapRevoke

/-- `HOLD_EXPIRY` (R383): the hold of the line has ended. -/
def execHoldExpiry (line : Nat) (s : State) : Host.Outcome State Fault Refusal :=
  .next (s.whenAlive (match s.entry line with
    | some e => if e.held then s.endHold e else s
    | none => s))

/-- `DIRECTORY_SET_VISIT` (R383, R389): holders on lost nodes are gone, and the set's holds that have expired by now are over. -/
def execDirectorySetVisit (bank set : Nat) (s0 : State) : Host.Outcome State Fault Refusal :=
  let s := forL (s0.waysOf set) s0 (fun e t => t.freshen e.line)
  .next (s0.whenAlive (if set % 48 ≠ bank ∨ s0.dirSets ≤ set then s0
    else forL ((s.waysOf set).filter (fun e => e.held && decide (e.holdUntil ≤ s.now))) s (fun e t => t.endHold e)))

/-- `RETRY_TICKET_EXPIRY` (R385): the line has been stable for 10 µs without its `SERVE` ticket. -/
def execRetryTicketExpiry (bank slot : Nat) (s : State) : Host.Outcome State Fault Refusal :=
  .next (s.whenAlive (match s.slots.find? (fun x => x.bank == bank && x.num == slot) with
    | some x => if stableLine (s.examine x.line) then s.advanceServe x else s
    | none => s))

/-- `RECALL_TIMEOUT` (R387). -/
def execRecallTimeout (line node port : Nat) (s : State) : Host.Outcome State Fault Refusal :=
  let h := (node, port)
  let swept := s.sweeps.any (fun w => w.awaiting.contains (line, node, port))
  .next (s.whenAlive (if !(swept || (s.entry line).any (fun e => e.awaiting.contains h)) then s
    else
      let s1 := ((s.incSat f_REEVE_ERR_RECALL_TIMEOUTS).raise
        { cause := 0x0F, status := eDeadTarget, source := 6 * 4096 + bank (64 * line), slice := 0xFF, addr := some (64 * line),
          detail := node + 65536 * port }).tellLeader (.recall node port)
      if swept then (s1.sweepAnswer line h).reapSweeps.finishHomes else (s1.answered line h none true true).reapRevoke))

/-- `QUEUED_ACCESS_APPLY` (R391): the accesses queued at a bank, in arrival order, as far as their lines are free. -/
def execQueuedAccessApply (bank : Nat) (s : State) : Host.Outcome State Fault Refusal :=
  let r := (List.range s.bankQ.length).foldl (fun (t : State × Nat) _ =>
    match t.1.bankQ.drop t.2 with
    | [] => t
    | w :: after =>
      if w.bank ≠ bank then (t.1, t.2 + 1)
      else
        let u := t.1.retryWaiting w (t.1.bankQ.take t.2) after false
        (u, t.2 + (u.bankQ.length + 1 - t.1.bankQ.length))) (s, 0)
  .next (s.whenAlive r.1.reapRevoke.pumpHeld)

/-! ### Coherence messages on their way to a client (R379, R381, R458, R466) -/

/-- Payload bytes of a coherence message toward a client. -/
def cohLen (typ : Nat) : Nat := if 0x18 ≤ typ ∧ typ ≤ 0x1A then 64 else if typ = 0x1C then 2 else 0

/-- `INV`, `RECALL_S` or `RECALL_I` of another home for a caching client; a port without one answers at once (R466). -/
def State.passAsk (s : State) (port : Nat) (p : QPkt) : State :=
  if s.klCaches port then
    { s with cohOwed := s.cohOwed ++ [(port, p)] }.sendKl port (mkKl p.typ 0 (p.addr / 64 % two32) (p.src * 2 ^ 50 + p.addr) 0 [])
  else
    s.respond p (if p.typ = 0x13 then 0x1D else 0x1E) 1 0 [] (p.typ != 0x13)

/-- `COHERENCE_MESSAGE_TO_CLIENT` (R458). -/
def execCoherenceMessageToClient (port : Nat) (p : QPkt) (s : State) : Host.Outcome State Fault Refusal :=
  .next (s.whenAlive (if bits p.stream 13 2 ≠ port then s
    else if 0x13 ≤ p.typ ∧ p.typ ≤ 0x15 then s.arrive p (p.bad 0 p.payload.isEmpty (p.aux == 0)) (fun t => t.passAsk port p)
    else if (0x18 ≤ p.typ ∧ p.typ ≤ 0x1C) ∨ p.typ = 0x22 then
      s.response p
        (fun o => p.tc == 1 && p.payload.length == cohLen p.typ &&
          (if p.typ = 0x22 then o.pkt.typ == 0x20 || o.pkt.typ == 0x21 else decide (0x10 ≤ o.pkt.typ ∧ o.pkt.typ ≤ 0x12)))
        (fun t o => (match o.who with
          | .coh k kp => t.answer (.client k kp) p.typ p.aux p.payload p.poison
          | _ => t).reapInvals)
    else s))

end Sys2Proof.Machine
end

