-- ==== Sys2Proof/Machine/HomeOps.lean ====
section
/-! DEFINITION. Home operations from other ZV9s (R54, R410, R424, R641): the packet, and the operation that it starts here. -/

namespace Sys2Proof.Machine

/-- A descriptor as it stands when it is consumed: nothing done, nothing held. -/
def mkDesc (key : DKey) (units : Nat) (raw : List Byte) (epoch since : Nat) (phase : DPhase) : Desc :=
  { key := key, units := units, raw := raw, epoch := epoch, phase := phase, status := stOk, kind := 0, detail := 0, progress := 0, started := false,
    engine := 0xF0, det := 3, pins := [], fetched := [], pages := [], stop := none, work := 0, moving := [], buf := 0, ctx := [], fills := [],
    origin := none, since := since }

/-- Key of another ZV9's operation: its slice, its node, the packet's tag. -/
def QPkt.homeKey (p : QPkt) : DKey := ⟨64 + p.slice, p.src, p.tag⟩

/-- The operation of a `HOME_OP` starts here; its opcode's command runs it, under the checks of R641. A packet that names another
home than this one is refused. -/
def State.homeStart (s : State) (p : QPkt) : State :=
  let op := leAt p.payload 0 1
  if leAt p.payload (homeNodeOff op) 2 ≠ s.me then s.respondErr p ⟨eRange, 3, homeNodeOff op⟩
  else
    let d := mkDesc p.homeKey 1 p.payload p.epoch s.now .running
    { s with descs := del s.descs (fun x => x.key == d.key) ++ [{ d with started := true, origin := some p }] }

/-- `HOME_OP` (R410, R641). The operation's own check 1 comes before the fence and the epoch of its issuer (R60, R248): one that fails it
starts, and ends by that check. -/
def execHomeOp (p : QPkt) (s : State) : Host.Outcome State Fault Refusal :=
  let bad := p.bad 4 (p.payload.length == 64) (p.aux == leAt p.payload 0 1 && isHomeOp p.aux)
  let formed := match checks (homeForm p.payload) with | .ok _ => true | .error _ => false
  .next (s.whenAlive (if p.typ ≠ 0x09 then s
    else if bad.isNone ∧ !formed ∧ p.dest = s.me ∧ s.member p.src then (s.takeRx (.qf p)).homeStart p
    else s.arrive p bad (fun t => t.homeStart p)))

end Sys2Proof.Machine
end

