-- ==== Sys2Proof/Machine/Consume.lean ====
section
/-! DEFINITION. Consumption and start of descriptors (R73 to R88, R97, R101, R482, R506): the units read, the checks of R87, the
rejection at consumption, and the assignment of a started descriptor to its engine (R144, R168, R201, R223, R234, R288). -/

namespace Sys2Proof.Machine

/-! ### Room (R85, R482, R506) -/

/-- Consumed descriptors of a slice: the pool cells it holds. -/
def State.cellsHeld (s : State) (slice : Nat) : Nat := (s.descs.filter (fun d => d.origin.isNone && d.key.slice == slice)).length

/-- A ring of the slice may take a cell of the descriptor pool. -/
def State.poolRoom (s : State) (slice : Nat) : Bool :=
  let free := s.fld f_STORE_CARVE_DESC_CELLS - (s.descs.filter (fun d => d.origin.isNone)).length
  let owed := (((List.range 64).filter (fun x => x != slice)).map (fun x => s.fldAt f_SLC_SHARE_DESC_MIN x - s.cellsHeld x)).sum
  decide (1 ≤ free) && (decide (s.cellsHeld slice < s.fldAt f_SLC_SHARE_DESC_MIN slice) || decide (owed < free))

/-- The ring may consume: it runs, no stopping `FENCE` holds it, its slice is not reset, the CQ and the pool have room. -/
def State.mayConsume (s : State) (r : Ring) : Bool :=
  r.state == .running && r.stopFence.isNone && s.fldAt f_SLC_STATUS_BUSY r.slice == 0 &&
  decide ((s.inFlight r).length + sub32 r.cqProd r.cqCons < 2 ^ r.log2cq) && s.poolRoom r.slice

/-! ### Units (R73, R76, R97) -/

/-- Address of the slot of unit `n` after the next one to consume. -/
def Ring.slot (r : Ring) (n : Nat) : Nat := r.sqAddr + 64 * ((r.sqCons + n) % 2 ^ r.log2sq)

/-- One unit: its bytes, or none when the slot is poisoned. -/
def State.unitAt (s : State) (r : Ring) (n : Nat) : Res (Option (List Byte)) :=
  if r.loc = 1 then
    match r.pre.drop n with
    | (bs, bad) :: _ => .ok (if bad then none else some bs)
    | [] => .error (.wait [])
  else (s.feRead (r.slot n) 64).map (fun g => if g.poison.isSome then none else some g.bytes)

/-- Read units ahead from client memory: those that the producer covers, up to the end of the ring and 16 at a time. -/
def State.readAhead (s : State) (r : Ring) : State :=
  let have_ := r.pre.length
  let avail := sub32 r.sqProd r.sqCons
  if s.klOuts.any (fun o => o.why == .sqRead r.slice r.num) ∨ avail ≤ have_ then s
  else
    let at_ := (r.sqCons + have_) % 2 ^ r.log2sq
    let n := min (min (avail - have_) (2 ^ r.log2sq - at_)) 16
    -- only inside the client's window (R453)
    if !(s.klUp r.port && s.bound r.port == some r.slice && s.inWindow r.port (r.slot have_) (64 * n)) then s.faultRing r.slice r.num
    else
    let s1 := s.sendKl r.port (mkKl 0x40 2 s.nextTag (r.slot have_) (64 * n) [])
    { s1 with
      nextTag := s.nextTag + 1
      klOuts := s1.klOuts ++ [{ port := r.port, tag := s.nextTag, why := .sqRead r.slice r.num, left := 64 * n, got := [], bad := [] }] }

/-- What stands next in a ring. -/
inductive Next where
  /-- not all of it is covered or read yet -/
  | later (ns : List Need)
  | desc (units : Nat) (raw : List Byte)
  /-- unreadable: units to skip, and the first slot that could not be read -/
  | skip (units addr : Nat)

/-- Read the next descriptor of a ring. -/
def State.nextDesc (s : State) (r : Ring) : Next :=
  let avail := sub32 r.sqProd r.sqCons
  if avail = 0 then .later []
  else match s.unitAt r 0 with
  | .error (.wait ns) => .later ns
  | .error (.err _) => .skip 1 (r.slot 0)
  | .ok none => .skip 1 (r.slot 0)
  | .ok (some u0) =>
    let units := if r.fmt = 1 then 1 else leAt u0 2 1 % 4 + 1
    if avail < units then .later []
    else
      let rest := (List.range (units - 1)).map (fun k => (k + 1, s.unitAt r (k + 1)))
      match rest.findSome? (fun x => match x.2 with | .error (.wait ns) => some ns | _ => none) with
      | some ns => .later ns
      | none =>
        match rest.find? (fun x => match x.2 with | .ok (some _) => false | _ => true) with
        | some x => .skip units (r.slot x.1)
        | none => .desc units (u0 ++ rest.flatMap (fun x => match x.2 with | .ok (some bs) => bs | _ => []))

/-! ### Checks (R75 to R88) -/

/-- Steps 1 and 2 of R87 that hold for every opcode. -/
def State.genericChecks (s : State) (r : Ring) (d : Desc) : List Chk :=
  let row := opRow d.op
  let ep := d.at 8 4
  [ck 1 (row.any (fun o => decide (o.fmt ≤ r.fmt))) eFormat 0,
   ck 1 (row.any (fun o => decide (o.lo ≤ d.units ∧ d.units ≤ o.hi)) && (r.fmt != 1 || d.at 2 1 % 4 == 0)) eFormat 2,
   ck 1 (decide (d.flags < 4)) eFormat 1, ck 1 (decide (d.at 2 1 < 4)) eFormat 2, ck 1 (d.at 3 1 == 0) eFormat 3,
   ck 1 (r.fmt == 3 || ep == 0) eFormat 8, ckZero d.raw 12 4,
   (2, if s.fenced then .error (.err s.fencedFail) else .ok ()),
   (2, check (ep == 0 || ep == s.epoch || (s.grace && isPrevEpoch ep s.epoch)) eStaleEpoch 6 s.epoch)]

/-- `MOVE` (R288, R289). -/
def State.moveChecks (s : State) (d : Desc) : List Chk :=
  let n := bits (d.at 32 8) 0 40
  let slice := d.key.slice
  [ck 1 (d.at 37 3 == 0) eFormat 32, ckZero d.raw 40 24, ck 4 (s.fldAt f_SLC_MOVERS_MOVERS slice != 0) ePerm 0,
   ck 5 (decide (64 ≤ n ∧ n ≤ 2 ^ 40 - 64)) eRange 32, ckVa (d.at 16 8) n, ckVa (d.at 24 8) n,
   ckAlign (d.at 16 8) 64, ckAlign (d.at 24 8) 64, ck 6 (n % 64 == 0) eAlign 32,
   s.ckPages slice (d.at 16 8) (min n tileBytes) rRead, s.ckPages slice (d.at 24 8) (min n tileBytes) rWrite]

/-- The checks that an opcode adds. -/
def State.opChecks (s : State) (d : Desc) : List Chk :=
  match d.op with
  | 0x00 => [ckZero d.raw 16 1, ckZero d.raw 17 47]
  | 0x01 => [ck 1 (decide (d.at 16 1 < 2)) eFormat 16, ckZero d.raw 17 47]
  | 0x02 => s.moveChecks d
  | 0x10 => s.kvChecks d
  | 0x11 | 0x12 | 0x13 => s.attChecks d
  | 0x14 => s.mergeChecks d
  | 0x20 => s.searchChecks d
  | 0x28 => s.gatherChecks d
  | 0x29 => s.scatterChecks d
  | 0x3A => s.invalChecks d
  | 0x2A => (homeForm d.raw).map (fun c => (1, check c.1 c.2.status c.2.kind c.2.detail)) ++ [ck 4 (hasContexts s d.key.slice) ePerm 0]
  | _ => (homeForm d.raw).map (fun c => (1, check c.1 c.2.status c.2.kind c.2.detail))

/-- An operand touches an extent of this home that is revoked from the issuer, in any page of it that is mapped (step 3, R514). -/
def State.ckOperand (s : State) (slice : Nat) (o : Nat × Nat × Nat) : Chk :=
  (3, match ((cut 4096 o.1 o.2.1).flatMap (fun c => match s.xlate uRing slice c.1 c.2 o.2.2 with | .ok ps => ps | .error _ => [])).find?
        (fun p => p.node == s.me && s.revokedFor s.me slice p.loc p.len) with
    | some p => fail eRevoked 2 p.va
    | none => .ok ())

/-- Walks of the ring front end for the first translation blocks of a descriptor's operands, up to one that fails (R325, R327, R341). -/
def State.noteOperands (s : State) (d : Desc) : State :=
  let block (o : Nat × Nat × Nat) : Nat := if d.op = 0x02 then min o.2.1 tileBytes else firstBlock o.1 o.2.1
  (forL (s.operands d) (s, true) (fun o t =>
    if !t.2 then t
    else if 2 ^ 57 < o.1 + block o then (t.1, false)
    else (t.1.noteWalks uRing d.key.slice (cut 4096 o.1 (block o)),
      match t.1.xlate uRing d.key.slice o.1 (block o) o.2.2 with | .ok _ => true | .error _ => false))).1

/-- All checks in the order of R87: by step, the generic ones first. -/
def State.allChecks (s : State) (r : Ring) (d : Desc) : List Chk :=
  let g := s.genericChecks r d
  let o := s.opChecks d ++ (if s.revoked.isEmpty then [] else (s.operands d).map (s.ckOperand d.key.slice))
  (List.range 10).flatMap (fun k => g.filter (fun c => c.1 == k) ++ o.filter (fun c => c.1 == k))

/-- The first check that fails, or must wait. The checks of an opcode are judged only when the generic ones of step 1 pass. -/
def State.judgeDesc (s : State) (r : Ring) (d : Desc) : Res Unit :=
  match ((s.genericChecks r d).filter (fun c => c.1 == 1)).forM (fun c => c.2) with
  | .error e => .error e
  | .ok _ => (s.allChecks r d).forM (fun c => c.2)

/-- The class of an opcode's results (R132, R133). -/
def Desc.detOf (d : Desc) : Nat :=
  match d.op with
  | 0x11 => 0
  | 0x12 | 0x13 | 0x10 | 0x20 => 1
  | 0x14 => if d.at 26 1 = 0 then 0 else 1
  | 0x29 => if d.unordered then 2 else 0
  | _ => 3

/-- Counters of records that a rejected descriptor names (R147, R208). -/
def State.countReject (s : State) (d : Desc) (f : Fail) : State :=
  if f.status ≠ eRange ∨ f.kind ≠ 2 then s
  else match d.op with
    | 0x10 => if s.recordBad d (d.at 41 1) then s.incSat f_ATT_ERR_STREAM_REJECTS else s
    | 0x11 | 0x12 | 0x13 => if s.recordBad d 1 then s.incSat f_ATT_ERR_STREAM_REJECTS else s
    | 0x20 => if s.indexBad d then s.incSat f_ASY_ERR_INDEX_REJECTS else s
    | _ => s

/-! ### Consumption -/

/-- Rings with a descriptor that they may consume now. -/
def State.readyRings (s : State) : List Ring :=
  s.rings.filter (fun r => s.mayConsume r && (match s.nextDesc r with | .later _ => false | _ => true))

/-- Arbitration point of the ring front end, and the units that it consumes at most in a window (R101). -/
def frontPoint : Nat := 1000
def frontUnits : Nat := 1200

/-- Weight of a slice at the engines and the ring front end. -/
def State.engWt (s : State) (slice : Nat) : Nat := s.fldAt f_SLC_QOS_ENG_WT slice

/-- The slice that the ring front end serves next, and whether it is below its minimum (R504, R505, log 95). -/
def State.frontTurn (s : State) : Option (Nat × Bool) :=
  (s.share frontPoint).pick (s.readyRings.map (·.slice)) s.engWt (s.fldAt f_SLC_QOS_ENG_MIN) frontUnits

/-- Whole rounds of its `WEIGHT` in units that a ring has consumed. -/
def Ring.rounds (r : Ring) : Nat := r.used / r.weight

/-- It is the turn of the ring's slice (R505), and the ring's share of its slice's consumption lets it go on: in each round a ring consumes as
many units as its `WEIGHT`, a chain that passes it counts into the next rounds, and no ready ring is a round ahead of another (R81; rounds
are the model's choice, log 83). -/
def State.hasShare (s : State) (r : Ring) : Bool :=
  (s.frontTurn.any (fun t => t.1 == r.slice)) && (s.readyRings.filter (fun x => x.slice == r.slice)).all (fun x => decide (r.rounds ≤ x.rounds))

/-- Rounds that every ring of the slice has behind it, `r` being the least advanced of the ready ones, are over. -/
def State.newRound (s : State) (r : Ring) : State :=
  { s with rings := upd s.rings (fun x => x.slice == r.slice) (fun x => { x with used := x.used - r.rounds * x.weight }) }

/-- `n` units leave the ring with descriptor `d`; its status block is rewritten once 64 units have left since the last time (R74). -/
def State.take (s : State) (r : Ring) (n : Nat) (d : Desc) : State :=
  let below := s.frontTurn.any (·.2)
  let s0 := s.setShare frontPoint ((s.share frontPoint).serve r.slice n below s.engWt)
  let s1 := (s0.newRound r).touchRing r.slice r.num (fun x => { x with
    sqCons := (x.sqCons + n) % two32, pre := x.pre.drop n, used := x.used + n, waitFills := [], fillFail := none })
  let s2 := { s1 with descs := s1.descs ++ [d] }.obs 11 (16 * r.slice + r.num) 1 r.slice n
  if 64 ≤ sub32 ((r.sqCons + n) % two32) r.stCons then s2.writeStatus r.slice r.num else s2

/-- The step of R87 at which a descriptor's checks end. -/
def State.failStep (s : State) (r : Ring) (d : Desc) : Nat :=
  let bad (c : Chk) : Bool := match c.2 with | .error _ => true | .ok _ => false
  if ((s.genericChecks r d).filter (fun c => c.1 == 1)).any bad then 1 else (((s.allChecks r d).find? bad).map (·.1)).getD 10

/-- The checks of the next descriptor of a ring wait: what they need is started, and the fills among it are noted (R301). -/
def State.judgeWaits (s : State) (r : Ring) (ns : List Need) : State :=
  let ids := ns.filterMap (fun n => match n with | .fill id _ => some id | _ => none)
  let t := s.startNeeds ns
  if ids = [] then t
  else { t with rings := upd t.rings (fun x => x.slice == r.slice && x.num == r.num) (fun x => { x with waitFills := ids }) }

/-- A fill that the checks of the next descriptor of a ring waited for has failed: the descriptor ends with its status (R301). -/
def State.judged (s : State) (r : Ring) (d : Desc) : Res Unit :=
  match s.judgeDesc r d, r.fillFail with
  | .error (.wait _), some (st, k, x) => fail st k x
  | j, _ => j

/-- A ring consumes nothing until its `FENCE` of index `idx` has its record (R84). -/
def State.holdRing (s : State) (slice num idx : Nat) : State :=
  { s with rings := upd s.rings (fun x => x.slice == slice && x.num == num) (fun x => { x with stopFence := some idx }) }

/-- Judge a descriptor of `n` units and take it from its ring (R87): an error is its record, and a `FENCE` with `STOP_ON_ERROR` that passes holds
what follows it (R84, log 80). -/
def State.consumeDesc (s : State) (r : Ring) (n : Nat) (d : Desc) : State :=
  match s.judged r d with
  | .error (.wait ns) => s.judgeWaits r ns
  | .error (.err f) =>
    ((if 8 ≤ s.failStep r d then s.noteOperands d else s).take r n { d with phase := .ended, status := f.status, kind := f.kind, detail := f.detail }).countReject d f
  | .ok _ =>
    let s1 := (s.noteOperands d).take r n d
    if d.op = 0x01 ∧ bit (d.at 16 1) 0 then s1.holdRing r.slice r.num d.key.idx else s1

/-- Take what the front end reads next of a ring (R76, R87, R97). A rejected stopping `FENCE` starts no window and holds nothing (R84, log 80). -/
def State.consumeNext (s : State) (r : Ring) : Next → State
  | .later ns => let s1 := s.startNeeds ns; if r.loc = 1 then s1.readAhead r else s1
  | .skip n a =>
    let d := mkDesc ⟨r.slice, r.num, r.sqCons⟩ n [] s.epoch s.now .ended
    (s.take r n { d with status := ePoison, kind := 2, detail := a }).raise
      { cause := 0x04, status := ePoison, source := r.source, slice := r.slice, addr := some a, detail := 16 * r.slice + r.num }
  | .desc n raw =>
    let d0 := mkDesc ⟨r.slice, r.num, r.sqCons⟩ n raw (if leAt raw 8 4 = 0 ∨ r.fmt ≠ 3 then s.epoch else leAt raw 8 4) s.now .waiting
    s.consumeDesc r n { d0 with det := d0.detOf }

/-- Whether the front end must still wait for what it reads next. -/
def Next.isLater : Next → Bool
  | .later _ => true
  | _ => false

/-- Consume the next descriptor of a ring, when its turn among the slices and among the rings of its slice has come. -/
def State.consume (s : State) (r : Ring) : State :=
  let x := s.nextDesc r
  if x.isLater || s.hasShare r then s.consumeNext r x else s

/-- `DESCRIPTOR_CONSUME` (R87); its read of the slot may find errors of memory (R474). -/
def execDescriptorConsume (slice ring : Nat) (errs : List MemErr) (s : State) : Host.Outcome State Fault Refusal :=
  .next (s.whenAlive (s.readErrs errs (fun t => match t.ring slice ring with
    | some r => if t.mayConsume r then t.consume r else t
    | none => t)))

/-! ### Start (R81 to R83, R86) -/

/-- Earlier descriptors allow this one to start: all have started, no `FENCE` among them is incomplete, and with `WAIT` none is left. -/
def State.turn (s : State) (r : Ring) (d : Desc) : Bool :=
  let es := s.earlier r d.key.idx
  es.all (fun e => e.phase != .waiting && (e.op != 0x01 || e.raw.isEmpty)) && (!d.waits || es.isEmpty)

/-- Running descriptors on an engine. -/
def State.loadOf (s : State) (engine : Nat) : Nat := (s.descs.filter (fun d => d.phase == .running && d.engine == engine)).length

/-- The least loaded of some engines; of several equal ones the manual names none, and the lowest is taken (R144, R234, log 89). -/
def State.leastLoaded (s : State) (es : List Nat) : Option Nat :=
  es.foldl (fun (b : Option Nat) e => match b with
    | none => some e
    | some x => if s.loadOf e < s.loadOf x then some e else b) none

/-- The descriptor runs on an engine. -/
def State.runOn (s : State) (d : Desc) (engine : Nat) (f : Desc → Desc) : State :=
  s.setDesc (f { d with phase := .running, started := true, engine := engine, fills := [] })

/-- A start that finds a reference it can no longer resolve ends the descriptor: the front end judged it, so `ENGINE` is 0xF0, of an
attention descriptor too (DESIGN CHOICE, log 40). -/
def State.endStart (s : State) (d : Desc) (f : Fail) : State := (s.runOn d 0xF0 id).endDesc d.key f.status f.kind f.detail 0

/-- A descriptor cannot start yet: what its start needs is begun, and the fills that it waits for are noted, in the first phase of its opcode (R301). -/
def State.startWaits (s : State) (d : Desc) (ns : List Need) : State :=
  let fs := ns.filterMap (fun n => match n with | .fill id _ => some (id, 1) | _ => none)
  let t := s.startNeeds ns
  if fs = [] then t else { t with descs := upd t.descs (fun x => x.key == d.key) (fun x => { x with fills := fs }) }

/-- Attention: a sequencer of a group with an enabled array, the stream's record as it stands, the buffer (R109, R144, R168, R181). -/
def State.startAttention (s : State) (d : Desc) : State :=
  match s.leastLoaded ((s.groups d.key.slice).filter (fun g => s.enabledArrays g != [])) with
  | none => s
  | some g =>
    match s.attStream d with
    | .error (.wait ns) => s.startWaits d ns
    | .error (.err f) => s.endStart d (f.phased 1)
    | .ok none => (s.incSat f_ATT_ERR_STREAM_REJECTS).endStart d ⟨eRange, 2, (rrefAt d.raw 16).offset⟩
    | .ok (some (p, t)) =>
      let w := d.workBuf t.d
      match s.verRead p (rrefAt d.raw 16).offset 256 with
      | .ok raw =>
        if s.bufRoom d.key.slice w then s.runOn d g (fun e => { e with pins := [p], work := t.fill + 1, buf := w, startRecord := raw }) else s
      | .error (.wait ns) => s.startWaits d ns
      | .error (.err f) => s.endStart d (f.phased 1)

/-- `SEARCH`: contexts and their buffers for the parts of its first query, and for as many more as are free (R201, R215, R223). -/
def State.startSearch (s : State) (d : Desc) : State :=
  match s.searchIndex d with
  | .error (.wait ns) => s.startWaits d ns
  | .error (.err f) => s.endStart d (f.phased 1)
  | .ok none => (s.incSat f_ASY_ERR_INDEX_REJECTS).endStart d ⟨eRange, 2, (rrefAt d.raw 16).offset⟩
  | .ok (some (p, x)) =>
    let (s1, d1) := s.moreContexts d x 0
    match d1.asys with
    | [] => s
    | e :: _ => s1.runOn d1 e (fun y => { y with pins := [p], startRecord := x.raw })

/-- Gleaners with a free context of the slice (R234, R235). -/
def State.freeGleaners (s : State) (slice : Nat) : List Nat :=
  (s.gleanerCodes slice).filter (fun e => decide (s.ctxUsed slice e < s.ctxMost slice e))

/-- `GATHER` and `SCATTER_UPDATE` run on the least loaded Gleaner with a free context (R234, R235). -/
def State.startGleaner (s : State) (d : Desc) : State :=
  match s.leastLoaded (s.freeGleaners d.key.slice) with
  | none => s
  | some e => s.runOn d e (fun x => { x with ctx := [e] })

/-- `MOVE`: the free numbers that tell which mover takes which unit are set aside (R288). -/
def State.startMove (s : State) (d : Desc) : State :=
  if s.movers d.key.slice = [] then s
  else
    let d1 := { d with work := s.fresh }
    ({ s with fresh := s.fresh + ceilDiv (bits (d.at 32 8) 0 40) tileBytes }).runOn d1 (0x40 + s.mover d1 0) id

/-- A home operation: here its own command runs it; another home is sent it (R54, R410). Which bank of another home ran it is a
free value. -/
def State.homeFrom (s : State) (d : Desc) : State :=
  let node := d.at (homeNodeOff d.op) 2
  if node = s.me then s.runOn d 0xF0 id
  else
    let (k, s0) := s.takeNat
    let s1 := s0.runOn d (0x80 + k % 48) id
    match s1.refuseTo node 0 with
    | some f => s1.homeAnswer d.key f 0
    | none => s1.sendReq (d.req s1 node 0x09 4 0 d.op (d.raw.take 64)) (.desc d.key 0)

/-- A home operation starts; a `TABLE_PUBLISH` first takes a Gleaner context of its slice, and waits while none is free (R235). -/
def State.startHome (s : State) (d : Desc) : State :=
  if d.op = 0x2A then
    match s.leastLoaded (s.freeGleaners d.key.slice) with
    | none => s
    | some e => s.homeFrom { d with ctx := [e] }
  else s.homeFrom d

/-- Start a descriptor whose turn has come, when what it needs is free. -/
def State.startDesc (s : State) (d : Desc) : State :=
  match d.op with
  | 0x02 => s.startMove d
  | 0x11 | 0x12 | 0x13 => s.startAttention d
  | 0x10 | 0x14 =>
    match s.leastLoaded ((s.groups d.key.slice).filter (fun g => s.enabledArrays g != [])) with
    | some g => s.runOn d g id
    | none => s
  | 0x20 => s.startSearch d
  | 0x28 | 0x29 => s.startGleaner d
  | 0x2A | 0x30 | 0x31 | 0x38 | 0x39 => s.startHome d
  | _ => s.runOn d 0xF0 id

/-- `DESCRIPTOR_START` (R81 to R83). -/
def execDescriptorStart (slice ring idx : Nat) (s : State) : Host.Outcome State Fault Refusal :=
  .next (s.whenAlive (match s.ring slice ring, s.desc ⟨slice, ring, idx⟩ with
    | some r, some d => if d.phase == .waiting && s.turn r d then s.startDesc d else s
    | _, _ => s))

end Sys2Proof.Machine
end

