-- ==== Sys2Proof/Machine/Dispatch.lean ====
section
/-! DEFINITION. One arm for each command: a direct call of its meaning. -/

namespace Sys2Proof.Machine

/-- The effect of a command on everything but the queue. -/
def exec (i : Instr) (s : State) : Host.Outcome State Fault Refusal :=
  match i with
  | .nop slice ring idx => Sys2Proof.Machine.execNop slice ring idx s
  | .fence slice ring idx => Sys2Proof.Machine.execFence slice ring idx s
  | .move slice ring idx tags => Sys2Proof.Machine.execMove slice ring idx s tags
  | .kvAppend slice ring idx => Sys2Proof.Machine.execKvAppend slice ring idx s
  | .kvAppendExecute slice ring idx => Sys2Proof.Machine.execKvAppendExecute slice ring idx s
  | .attend slice ring idx errs => Sys2Proof.Machine.execAttend slice ring idx errs s
  | .attendMax slice ring idx errs => Sys2Proof.Machine.execAttendMax slice ring idx errs s
  | .attendSum slice ring idx errs => Sys2Proof.Machine.execAttendSum slice ring idx errs s
  | .merge slice ring idx => Sys2Proof.Machine.execMerge slice ring idx s
  | .search slice ring idx => Sys2Proof.Machine.execSearch slice ring idx s
  | .gather slice ring idx => Sys2Proof.Machine.execGather slice ring idx s
  | .scatterUpdate slice ring idx => Sys2Proof.Machine.execScatterUpdate slice ring idx s
  | .tablePublish slice ring idx => Sys2Proof.Machine.execTablePublish slice ring idx s
  | .cut slice ring idx => Sys2Proof.Machine.execCut slice ring idx s
  | .rollback slice ring idx => Sys2Proof.Machine.execRollback slice ring idx s
  | .release slice ring idx => Sys2Proof.Machine.execRelease slice ring idx s
  | .regionPublish slice ring idx => Sys2Proof.Machine.execRegionPublish slice ring idx s
  | .placeCreate slice ring idx => Sys2Proof.Machine.execPlaceCreate slice ring idx s
  | .placeDelete slice ring idx => Sys2Proof.Machine.execPlaceDelete slice ring idx s
  | .moveTier slice ring idx tags => Sys2Proof.Machine.execMoveTier slice ring idx s tags
  | .writeback slice ring idx tags => Sys2Proof.Machine.execWriteback slice ring idx s tags
  | .inval slice ring idx => Sys2Proof.Machine.execInval slice ring idx s
  | .homeOp p => Sys2Proof.Machine.execHomeOp p s
  | .descriptorConsume slice ring errs => Sys2Proof.Machine.execDescriptorConsume slice ring errs s
  | .descriptorStart slice ring idx => Sys2Proof.Machine.execDescriptorStart slice ring idx s
  | .descriptorComplete slice ring idx => Sys2Proof.Machine.execDescriptorComplete slice ring idx s
  | .ringStatusBlockWrite slice ring => Sys2Proof.Machine.execRingStatusBlockWrite slice ring s
  | .coalesceTimerExpiry slice ring => Sys2Proof.Machine.execCoalesceTimerExpiry slice ring s
  | .sqDoorbell slice ring word => Sys2Proof.Machine.execSqDoorbell slice ring word s
  | .sqDoorbellResume slice ring word => Sys2Proof.Machine.execSqDoorbellResume slice ring word s
  | .cqDoorbell slice ring word => Sys2Proof.Machine.execCqDoorbell slice ring word s
  | .ringCreate addr => Sys2Proof.Machine.execRingCreate addr s
  | .destroyDrain addr => Sys2Proof.Machine.execDestroyDrain addr s
  | .destroyDrainDone slice ring => Sys2Proof.Machine.execDestroyDrainDone slice ring s
  | .destroyAbort addr => Sys2Proof.Machine.execDestroyAbort addr s
  | .clientRead port p errs => Sys2Proof.Machine.execClientRead port p errs s
  | .clientWrite port p errs => Sys2Proof.Machine.execClientWrite port p errs s
  | .atomicAdd r => Sys2Proof.Machine.execAtomicAdd r s
  | .atomicMin r => Sys2Proof.Machine.execAtomicMin r s
  | .atomicMax r => Sys2Proof.Machine.execAtomicMax r s
  | .atomicCas r => Sys2Proof.Machine.execAtomicCas r s
  | .syncAcquire port p => Sys2Proof.Machine.execSyncAcquire port p s
  | .syncRelease port p => Sys2Proof.Machine.execSyncRelease port p s
  | .syncFull port p => Sys2Proof.Machine.execSyncFull port p s
  | .rdS r => Sys2Proof.Machine.execRdS r s
  | .rdX r => Sys2Proof.Machine.execRdX r s
  | .upg r => Sys2Proof.Machine.execUpg r s
  | .invAck r => Sys2Proof.Machine.execInvAck r s
  | .recallAck r => Sys2Proof.Machine.execRecallAck r s
  | .recallData r => Sys2Proof.Machine.execRecallData r s
  | .wb r => Sys2Proof.Machine.execWb r s
  | .put r => Sys2Proof.Machine.execPut r s
  | .holdExpiry line => Sys2Proof.Machine.execHoldExpiry line s
  | .directorySetVisit bank set => Sys2Proof.Machine.execDirectorySetVisit bank set s
  | .retryTicketExpiry bank slot => Sys2Proof.Machine.execRetryTicketExpiry bank slot s
  | .recallTimeout line node port => Sys2Proof.Machine.execRecallTimeout line node port s
  | .queuedAccessApply bank => Sys2Proof.Machine.execQueuedAccessApply bank s
  | .qfRead p errs => Sys2Proof.Machine.execQfRead p errs s
  | .qfWrite p => Sys2Proof.Machine.execQfWrite p s
  | .bulkRead p errs => Sys2Proof.Machine.execBulkRead p errs s
  | .bulkWrite p => Sys2Proof.Machine.execBulkWrite p s
  | .readRsp p => Sys2Proof.Machine.execReadRsp p s
  | .writeAck p => Sys2Proof.Machine.execWriteAck p s
  | .atomicRsp p => Sys2Proof.Machine.execAtomicRsp p s
  | .homeRsp p => Sys2Proof.Machine.execHomeRsp p s
  | .errResponse p => Sys2Proof.Machine.execErrResponse p s
  | .packetForward port p => Sys2Proof.Machine.execPacketForward port p s
  | .requestTimerExpiry tag => Sys2Proof.Machine.execRequestTimerExpiry tag s
  | .linkBlockReceived port b => Sys2Proof.Machine.execLinkBlockReceived port b s
  | .laneLockLoss port => Sys2Proof.Machine.execLaneLockLoss port s
  | .linkIdleTimeout port => Sys2Proof.Machine.execLinkIdleTimeout port s
  | .qfPortTrain port t => Sys2Proof.Machine.execQfPortTrain port t s
  | .portTrainRetry port => Sys2Proof.Machine.execPortTrainRetry port s
  | .heartbeatSend => Sys2Proof.Machine.execHeartbeatSend s
  | .heartbeat port => Sys2Proof.Machine.execHeartbeat port s
  | .heartbeatMiss port => Sys2Proof.Machine.execHeartbeatMiss port s
  | .electionTimeout => Sys2Proof.Machine.execElectionTimeout s
  | .voteReq src term newest => Sys2Proof.Machine.execVoteReq src term newest s
  | .vote src term granted cand => Sys2Proof.Machine.execVote src term granted s cand
  | .beatSend => Sys2Proof.Machine.execBeatSend s
  | .beat src term epoch => Sys2Proof.Machine.execBeat src term epoch s
  | .selfFenceTimeout => Sys2Proof.Machine.execSelfFenceTimeout s
  | .replicate src m => Sys2Proof.Machine.execReplicate src m s
  | .replAck src epoch => Sys2Proof.Machine.execReplAck src epoch s
  | .prepare src m => Sys2Proof.Machine.execPrepare src m s
  | .prepareAck src epoch count => Sys2Proof.Machine.execPrepareAck src epoch count s
  | .prepareAckTimeout => Sys2Proof.Machine.execPrepareAckTimeout s
  | .commit src epoch => Sys2Proof.Machine.execCommit src epoch s
  | .epochGraceExpiry => Sys2Proof.Machine.execEpochGraceExpiry s
  | .report src r => Sys2Proof.Machine.execReport src r s
  | .probe src answer => Sys2Proof.Machine.execProbe src answer s
  | .probeTimeout node => Sys2Proof.Machine.execProbeTimeout node s
  | .fetch port src epoch => Sys2Proof.Machine.execFetch port src epoch s
  | .mapData m => Sys2Proof.Machine.execMapData m s
  | .topo dev links => Sys2Proof.Machine.execTopo dev links s
  | .neighbourExchange port dev => Sys2Proof.Machine.execNeighbourExchange port dev s
  | .abort p => Sys2Proof.Machine.execAbort p s
  | .sliceQuiet slice => Sys2Proof.Machine.execSliceQuiet slice s
  | .alarm p => Sys2Proof.Machine.execAlarm p s
  | .diag p => Sys2Proof.Machine.execDiag p s
  | .alarmSend entry => Sys2Proof.Machine.execAlarmSend entry s
  | .logInterruptTimer => Sys2Proof.Machine.execLogInterruptTimer s
  | .linkUpRecord port bytes => Sys2Proof.Machine.execLinkUpRecord port bytes s
  | .klPortTrain port t => Sys2Proof.Machine.execKlPortTrain port t s
  | .cReadRsp port p => Sys2Proof.Machine.execCReadRsp port p s
  | .cWriteAck port p => Sys2Proof.Machine.execCWriteAck port p s
  | .klRequestTimeout port tag => Sys2Proof.Machine.execKlRequestTimeout port tag s
  | .klHeartbeatMiss port => Sys2Proof.Machine.execKlHeartbeatMiss port s
  | .klPortKill port => Sys2Proof.Machine.execKlPortKill port s
  | .klRetrainTimer port => Sys2Proof.Machine.execKlRetrainTimer port s
  | .nvmeReadComplete id status data tags => Sys2Proof.Machine.execNvmeReadComplete id status data s tags
  | .zoneAppendComplete id status slot => Sys2Proof.Machine.execZoneAppendComplete id status slot s
  | .backgroundWriteback tags => Sys2Proof.Machine.execBackgroundWriteback s tags
  | .zoneReclaim port => Sys2Proof.Machine.execZoneReclaim port s
  | .nvmeCommandTimeout id => Sys2Proof.Machine.execNvmeCommandTimeout id s
  | .nvmeAbortTimeout id => Sys2Proof.Machine.execNvmeAbortTimeout id s
  | .controllerResetTimeout port => Sys2Proof.Machine.execControllerResetTimeout port s
  | .driveLinkDown port => Sys2Proof.Machine.execDriveLinkDown port s
  | .controllerFatalStatus port => Sys2Proof.Machine.execControllerFatalStatus port s
  | .driveRemoved port => Sys2Proof.Machine.execDriveRemoved port s
  | .aerMessage port => Sys2Proof.Machine.execAerMessage port s
  | .driveDmaRequest port area write range => Sys2Proof.Machine.execDriveDmaRequest port area write range s
  | .mediaBringup port drive spaces => Sys2Proof.Machine.execMediaBringup port drive spaces s
  | .patrolScrub addr pc e => Sys2Proof.Machine.execPatrolScrub addr pc e s
  | .tierRetire word => Sys2Proof.Machine.execTierRetire word s
  | .borageStart word => Sys2Proof.Machine.execBorageStart word s
  | .borageDone fails first => Sys2Proof.Machine.execBorageDone fails first s
  | .xlRootWrite slice word => Sys2Proof.Machine.execXlRootWrite slice word s
  | .counterDecay => Sys2Proof.Machine.execCounterDecay s
  | .xlMigRingWrite word => Sys2Proof.Machine.execXlMigRingWrite word s
  | .xlMigIdxWrite word => Sys2Proof.Machine.execXlMigIdxWrite word s
  | .arrDisableWrite word => Sys2Proof.Machine.execArrDisableWrite word s
  | .arrAuditCtlWrite word => Sys2Proof.Machine.execArrAuditCtlWrite word s
  | .storeAuditPass found diffs => Sys2Proof.Machine.execStoreAuditPass found diffs s
  | .storeMirrorWrite port word => Sys2Proof.Machine.execStoreMirrorWrite port word s
  | .slcCfgWrite slice word => Sys2Proof.Machine.execSlcCfgWrite slice word s
  | .slcMoversWrite slice word => Sys2Proof.Machine.execSlcMoversWrite slice word s
  | .slcShareWrite slice word => Sys2Proof.Machine.execSlcShareWrite slice word s
  | .slcQosWrite slice word => Sys2Proof.Machine.execSlcQosWrite slice word s
  | .slcGlobalWrite word => Sys2Proof.Machine.execSlcGlobalWrite word s
  | .sliceResetDrain word => Sys2Proof.Machine.execSliceResetDrain word s
  | .sliceResetAbort word => Sys2Proof.Machine.execSliceResetAbort word s
  | .drainTimeout slice => Sys2Proof.Machine.execDrainTimeout slice s
  | .sliceResetFinish slice => Sys2Proof.Machine.execSliceResetFinish slice s
  | .slcComposeWrite word => Sys2Proof.Machine.execSlcComposeWrite word s
  | .compose node mode entries => Sys2Proof.Machine.execCompose node mode entries s
  | .extend node job entries => Sys2Proof.Machine.execExtend node job entries s
  | .shrink node job entries => Sys2Proof.Machine.execShrink node job entries s
  | .teardown node job => Sys2Proof.Machine.execTeardown node job s
  | .composeTimeout => Sys2Proof.Machine.execComposeTimeout s
  | .revokeDrain word => Sys2Proof.Machine.execRevokeDrain word s
  | .revokeAbort word => Sys2Proof.Machine.execRevokeAbort word s
  | .vectorEntryWrite off word => Sys2Proof.Machine.execVectorEntryWrite off word s
  | .jobAbort word => Sys2Proof.Machine.execJobAbort word s
  | .fltLogRingWrite word => Sys2Proof.Machine.execFltLogRingWrite word s
  | .fltLogIdxWrite word => Sys2Proof.Machine.execFltLogIdxWrite word s
  | .alarmEntryClear domain entry => Sys2Proof.Machine.execAlarmEntryClear domain entry s
  | .registerWrite off word => Sys2Proof.Machine.execRegisterWrite off word s
  | .resetNAssert => Sys2Proof.Machine.execResetNAssert s
  | .resetNDeassert => Sys2Proof.Machine.execResetNDeassert s
  | .pwrokRise => Sys2Proof.Machine.execPwrokRise s
  | .powerOnResetRelease straps => Sys2Proof.Machine.execPowerOnResetRelease straps s
  | .pwrokFall => Sys2Proof.Machine.execPwrokFall s
  | .railOutOfTolerance rail => Sys2Proof.Machine.execRailOutOfTolerance rail s
  | .railToleranceTimer rail => Sys2Proof.Machine.execRailToleranceTimer rail s
  | .bootStage1 => Sys2Proof.Machine.execBootStage1 s
  | .bootStage2 => Sys2Proof.Machine.execBootStage2 s
  | .bootStage3 puf => Sys2Proof.Machine.execBootStage3 puf s
  | .bootStage4 => Sys2Proof.Machine.execBootStage4 s
  | .bootStage5 failed => Sys2Proof.Machine.execBootStage5 failed s
  | .bootStage6 => Sys2Proof.Machine.execBootStage6 s
  | .bootStage7 failed => Sys2Proof.Machine.execBootStage7 failed s
  | .bootStage8 present => Sys2Proof.Machine.execBootStage8 s present
  | .bootStageTimeout stage => Sys2Proof.Machine.execBootStageTimeout stage s
  | .flashOpTimeout => Sys2Proof.Machine.execFlashOpTimeout s
  | .setEndpointId eid => Sys2Proof.Machine.execSetEndpointId eid s
  | .getEndpointId => Sys2Proof.Machine.execGetEndpointId s
  | .getMctpVersionSupport => Sys2Proof.Machine.execGetMctpVersionSupport s
  | .getMessageTypeSupport => Sys2Proof.Machine.execGetMessageTypeSupport s
  | .getEndpointUuid => Sys2Proof.Machine.execGetEndpointUuid s
  | .unsupportedControlCommand code => Sys2Proof.Machine.execUnsupportedControlCommand code s
  | .getBootStatus => Sys2Proof.Machine.execGetBootStatus s
  | .getIdentity => Sys2Proof.Machine.execGetIdentity s
  | .getReport nonce => Sys2Proof.Machine.execGetReport nonce s
  | .regRead addr => Sys2Proof.Machine.execRegRead addr s
  | .regWrite addr word => Sys2Proof.Machine.execRegWrite addr word s
  | .flashWrite slot off len rsvd data => Sys2Proof.Machine.execFlashWrite slot off len rsvd data s
  | .endorseWrite off len total rsvd data => Sys2Proof.Machine.execEndorseWrite off len total rsvd data s
  | .reset => Sys2Proof.Machine.execReset s
  | .mctpDeferredAnswer => Sys2Proof.Machine.execMctpDeferredAnswer s
  | .carStart chan word => Sys2Proof.Machine.execCarStart chan word s
  | .carterChannelRun chan => Sys2Proof.Machine.execCarterChannelRun chan s
  | .carterChannelDone chan => Sys2Proof.Machine.execCarterChannelDone chan s
  | .obsSelWrite ctr word => Sys2Proof.Machine.execObsSelWrite ctr word s
  | .obsDumpCtlWrite word => Sys2Proof.Machine.execObsDumpCtlWrite word s
  | .obsDumpRingWrite word => Sys2Proof.Machine.execObsDumpRingWrite word s
  | .dumpBoundary => Sys2Proof.Machine.execDumpBoundary s
  | .scrCtlWrite word => Sys2Proof.Machine.execScrCtlWrite word s
  | .scrRingWrite word => Sys2Proof.Machine.execScrRingWrite word s
  | .freezeNAssert => Sys2Proof.Machine.execFreezeNAssert s
  | .frzCtlFreeze word => Sys2Proof.Machine.execFrzCtlFreeze word s
  | .tapReset => Sys2Proof.Machine.execTapReset s
  | .idcode => Sys2Proof.Machine.execIdcode s
  | .tapFreeze dr => Sys2Proof.Machine.execTapFreeze dr s
  | .fstatus => Sys2Proof.Machine.execFstatus s
  | .raddr addr => Sys2Proof.Machine.execRaddr addr s
  | .rdata => Sys2Proof.Machine.execRdata s
  | .stream start len run => Sys2Proof.Machine.execStream start len run s
  | .bypass => Sys2Proof.Machine.execBypass s
  | .streamFrameSend => Sys2Proof.Machine.execStreamFrameSend s
  | .dillStart word => Sys2Proof.Machine.execDillStart word s
  | .dillDone errs => Sys2Proof.Machine.execDillDone errs s
  | .sensorReading r => Sys2Proof.Machine.execSensorReading r s
  | .powerWindow e => Sys2Proof.Machine.execPowerWindow e s
  | .stepUp => Sys2Proof.Machine.execStepUp s
  | .stepDown => Sys2Proof.Machine.execStepDown s
  | .linkBlockSend port => Sys2Proof.Machine.execLinkBlockSend port s
  | .pinTimeout slice ring idx => Sys2Proof.Machine.execPinTimeout slice ring idx s
  | .nvmeCommandComplete id status offline => Sys2Proof.Machine.execNvmeCommandComplete id status offline s
  | .mediaLinkUp port rate width => Sys2Proof.Machine.execMediaLinkUp port rate width s
  | .flashOperationComplete => Sys2Proof.Machine.execFlashOperationComplete s
  | .coherenceMessageToClient port p => Sys2Proof.Machine.execCoherenceMessageToClient port p s

end Sys2Proof.Machine
end

