-- ==== Sys2Proof/Machine/Tick.lean ====
section
/-! DEFINITION. What one cycle of the STORE clock does while no command waits. -/

namespace Sys2Proof.Machine

/-- One cycle of the STORE clock with no command waiting: the always-on count advances while the ZV9 is out of reset, a frozen ZV9
included (R603, R616); the local cycle counter advances from stage 2 on (R587), and event counters count that cycle (R589); accesses held back at a Kellija port, accesses
that wait for a tile and revokes go on once nothing holds them up any more, and a ring command or a composition request
that waits for its bytes is tried again.
DESIGN CHOICE (log 3). -/
def State.tick (s : State) : State :=
  if s.resetHeld || s.porHeld then s
  else
    let t := { s with aon := s.aon + 1 }
    if s.frozen then t
    else (if t.stageDone 2 then t.obsCycle.setFld f_OBS_NOW_NOW (t.now + 1) else t).pumpHeld.reapRevoke.retryRingCmd.retryCompose.retryFills.pumpRsp.pumpAsks.endRefused

end Sys2Proof.Machine
end

