-- ==== Sys2Proof/Safety.lean ====
section
/-! DEFINITION. What the statements call a well-kept state, a quiet state and a completed step. -/

namespace Sys2Proof.Machine

/-- A command answers a next state. -/
def Completes (c : Instr) (s : State) : Prop := ∃ t, exec c s = .next t

/-- Plain memory lists no zero byte, the register file no register at its reset value, and the addresses of both rise. -/
def keptParts (m : Cells) (r : List (Nat × Word)) : Prop := Memory.wf m = true ∧ canon resetWord r = true

/-- The sparse memory and the sparse register file are in canonical form. -/
def State.Kept (s : State) : Prop := keptParts s.mem s.regs

/-- Out of reset, not frozen, boot complete, and no fence: the ZV9 serves its clients. -/
def State.serving (s : State) : Bool := s.alive && s.flag f_BOOT_STATUS_STORE_READY && !s.fenced

/-! ### Commands that act on a stopped ZV9 -/

/-- Commands of the reset and power pins, of the rails, of the test access port and of the freeze pin. -/
def alwaysOn : Instr → Bool
  | .resetNAssert | .resetNDeassert | .pwrokRise | .powerOnResetRelease _ | .pwrokFall | .railOutOfTolerance _ | .railToleranceTimer _
  | .tapReset | .idcode | .tapFreeze _ | .fstatus | .raddr _ | .rdata | .bypass | .stream _ _ _ | .streamFrameSend | .freezeNAssert => true
  | _ => false

/-- Commands that may end a freeze: a reset, or a change of power. -/
def endsFreeze : Instr → Bool
  | .resetNAssert | .resetNDeassert | .pwrokRise | .powerOnResetRelease _ | .pwrokFall | .railToleranceTimer _ => true
  | _ => false

/-! ### Frames -/

/-- Only registers change. -/
def State.OnlyRegs (s t : State) : Prop := t = { s with regs := t.regs }

/-- Every register but those at the offsets named reads as before. -/
def State.RegsKept (s t : State) (offs : List Nat) : Prop := ∀ o, o ∉ offs → t.word o = s.word o

/-- Nothing differs but the queue, the always-on count, the test access port, the free-value counter, the rails out of tolerance, and the two bits of
`FRZ_STATUS` in which triggers of the same AON cycle are recorded (R604): of these none is ever cleared. -/
def State.FrozenSame (s t : State) : Prop :=
  t = { s with
    pending := t.pending, aon := t.aon, tapIr := t.tapIr, tapAddr := t.tapAddr, tapDr := t.tapDr, tapRun := t.tapRun, dbgTx := t.dbgTx,
    fresh := t.fresh, railsBad := t.railsBad, regs := t.regs } ∧
  s.RegsKept t [f_FRZ_STATUS_FROZEN.addr 0] ∧
  ∀ b < 64, bit (t.word (f_FRZ_STATUS_FROZEN.addr 0)).toNat b = bit (s.word (f_FRZ_STATUS_FROZEN.addr 0)).toNat b ∨
    ((b = f_FRZ_STATUS_PIN.lo ∨ b = f_FRZ_STATUS_REG.lo) ∧ bit (t.word (f_FRZ_STATUS_FROZEN.addr 0)).toNat b = true)

/-- Only the registers at the offsets named change; memory, queues and everything else stay as they are. -/
def State.OnlyWords (s t : State) (offs : List Nat) : Prop := s.OnlyRegs t ∧ s.RegsKept t offs

/-! ### Registers -/

/-- Registers whose writes do no more than R10 to R12 say, field by field. -/
def plainReg (name : String) : Bool :=
  !(["RING_CMD", "ARR_AUDIT_CTL", "ARR_DISABLE", "TIER_RETIRE", "BORAGE_CTL", "XL_MIG_RING", "XL_MIG_IDX", "XL_ROOT", "QF_DILL_CTL",
    "STORE_MIRROR", "SLC_CFG", "SLC_MOVERS", "SLC_SHARE", "SLC_QOS", "SLC_RESET", "SLC_COMPOSE", "SLC_REVOKE", "SLC_GLOBAL", "SLV_LO", "SLV_HI",
    "FLT_LOG_RING", "FLT_LOG_IDX", "FLT_JOB_ABORT", "FLA_0", "FLD_0", "CAR_SRC", "CAR_DST", "CAR_COUNT", "CAR_CTL", "OBS_DUMP_CTL",
    "OBS_DUMP_RING", "OBS_DUMP_IDX", "OBS_SEL", "SCR_CTL", "SCR_RING", "SCR_IDX", "FRZ_CTL", "TIER_SPLIT", "TIER_POOL", "REEVE_SLOTS",
    "KL_PORT_CTL"] : List String).contains name

/-- Instance `i` of a plain register takes value `v` in a field (R12). -/
def State.takes (s : State) (reg : String) (i : Nat) (field : String) (v : Nat) : Bool :=
  if reg = "PWR_CAP" then field != "WATTS" || capOk i v else s.fieldOk reg field v

/-- A field of the register at an offset. -/
def State.specField (s : State) (off : Nat) (f : FSpec) : Nat := bits (s.word off).toNat f.lo f.width

/-! ### Descriptors -/

/-- A descriptor runs an opcode, and no abort has stopped it. It is tried afresh: no answered translation is kept for it (R332) and no access of its
own waits at a bank (R391). -/
def State.Runs (s : State) (k : DKey) (op : Nat) (d : Desc) : Prop :=
  s.desc k = some d ∧ d.phase = .running ∧ d.op = op ∧ d.stop = none ∧ d.lent = [] ∧ ∀ w ∈ s.bankQ, w.acc.org ≠ .desc k

/-- A descriptor that has its outcome and waits for its record. -/
def Desc.endedWith (d : Desc) (status kind detail progress : Nat) : Desc :=
  { d with phase := .ended, status := status, kind := kind, detail := detail, progress := progress, moving := [] }

/-- Every descriptor but `k` stands as before. -/
def State.OtherDescs (s t : State) (k : DKey) : Prop := ∀ j, j ≠ k → t.desc j = s.desc j

/-- Nothing changes but that descriptor `k` ends. -/
def State.OnlyEnds (s t : State) (k : DKey) (d : Desc) (status kind detail progress : Nat) : Prop :=
  t = { s with descs := t.descs } ∧ s.OtherDescs t k ∧ t.desc k = some (d.endedWith status kind detail progress)

/-- Descriptor `e` stands before unit `idx` of a ring and has no record yet. -/
def State.Before (s : State) (r : Ring) (idx : Nat) (e : Desc) : Prop :=
  e ∈ s.descs ∧ e.key.slice = r.slice ∧ e.key.ring = r.num ∧ sub32 r.sqCons idx < sub32 r.sqCons e.key.idx

/-- Only the rings change. -/
def State.OnlyRings (s t : State) : Prop := t = { s with rings := t.rings }

/-- Every ring but one stands as before. -/
def State.OtherRings (s t : State) (slice num : Nat) : Prop := ∀ x n, (x, n) ≠ (slice, num) → t.ring x n = s.ring x n

/-- The client that holds a ring's memory is reached: its port is up, bound to the ring's slice, and its window covers the record's and the status
block's places (R453). -/
def State.clientRing (s : State) (r : Ring) : Prop :=
  r.loc = 1 ∧ s.klUp r.port = true ∧ s.bound r.port = some r.slice ∧ s.inWindow r.port r.stAddr 64 = true ∧
  ∀ i, s.inWindow r.port (r.cqAddr + 32 * (i % 2 ^ r.log2cq)) 32 = true

/-! ### Memory, fabric and coherence -/

/-- A range of plain memory that a requester may use, with no entry of the directory and no waiting access in the way. -/
def State.openRange (s : State) (b : By) (a n : Nat) : Prop :=
  0 < n ∧ inSetup a = false ∧ s.revoked = [] ∧ s.dir = [] ∧ s.fillQ = [] ∧ s.bankQ = [] ∧ (b.mgmt = true ∨ s.inPtArea a n = false) ∧
  ∀ i < n, s.placeOf (a + i) = .scratch ∨ s.placeOf (a + i) = .direct

/-- A record of a unit of the ZV9 is written: it stands in memory at once, or, while a copy of its lines or an access to them is in the way, waits at its
bank (R348, R391). -/
def State.recorded (s t : State) (a : Nat) (bs : List Byte) : Prop :=
  (s.recordWaits a bs.length = false → cellsRead t.mem a bs.length = bs ∧ t.bankQ = s.bankQ) ∧
  (s.recordWaits a bs.length = true → t.mem = s.mem ∧ ∃ w, t.bankQ = s.bankQ ++ [w] ∧ w.acc.addr = a ∧ w.acc.op = .write bs false)

/-- No invalidation runs, and no abort has stopped a descriptor. -/
def State.noAborts (s : State) : Prop := s.invals = [] ∧ ∀ d ∈ s.descs, d.stop = none

/-- No sweep and no revoke runs, and no sharer is still to be told to drop a line. -/
def State.noSweeps (s : State) : Prop := s.sweeps = [] ∧ s.revoking = none ∧ s.asks = []

/-- No request waits for space before it can be sent, nor for its turn to be sent again. -/
def State.allSent (s : State) : Prop := ∀ o ∈ s.outReqs, o.sends ≠ 0 ∧ o.stale = false

/-- Every line but one has the directory entry it had. -/
def State.OtherLines (s t : State) (line : Nat) : Prop := ∀ l, l ≠ line → t.entry l = s.entry l

/-- A request packet for this home of the class of its type, from a live source of the current map, of an epoch that the home takes. -/
def State.admits (s : State) (p : QPkt) (tc : Nat) : Prop :=
  p.dest = s.me ∧ p.rsvd = 0 ∧ p.tc = tc ∧ s.member p.src = true ∧ s.fencedSrc p.src = none ∧ s.epochOk p.epoch = true

/-! ### Links, the map and containment -/

/-- No line is cached or asked for, no access waits for a fill, no invalidation runs, and no descriptor is stopped or another ZV9's. -/
def State.still (s : State) : Prop :=
  s.dir = [] ∧ s.cohOwed = [] ∧ s.sweeps = [] ∧ s.asks = [] ∧ s.fillQ = [] ∧ s.invals = [] ∧ ∀ d ∈ s.descs, d.stop = none ∧ d.origin = none

/-- Nothing of a client's is left: no request, no thread, no packet in either direction, and its port is not up. -/
def State.clientGone (s : State) (k : Nat) : Prop :=
  s.klUp k = false ∧ (∀ x ∈ s.txns, x.port ≠ k) ∧ (∀ x ∈ s.threads, x.port ≠ k) ∧ (∀ x ∈ s.held, x.port ≠ k) ∧ (∀ x ∈ s.rx, x.1 ≠ k) ∧ ∀ x ∈ s.queue, x.out ≠ k

/-- The ZV9 has its node, no client is up, and a map counts its node as live: the commit of that map stops nothing here. -/
def State.ready (s : State) (m : FMap) : Prop :=
  s.still ∧ (∀ k < 4, s.klUp k = false) ∧ s.flag f_AS_NODE_VALID = true ∧ (∃ e, m.ent s.me = some e ∧ e.state = .live)

/-- A map is current: the registers show it, the one before it is kept for its grace, and none is prepared. -/
def State.current (s t : State) (m : FMap) : Prop :=
  t.mapCur = some m ∧ t.mapPrev = s.mapCur ∧ t.mapPrep = none ∧ t.grace = true ∧ t.epoch = m.epoch % 2 ^ 32 ∧ t.flag f_QF_STATE_FORMED = true ∧
  t.fld f_QF_STATE_LEADER_NODE = m.leader % 2 ^ 16 ∧
  ∀ x < 64, t.fldAt f_SLC_STATUS_JOB x = ((m.jobOf s.me x).map (·.num)).getD 0 % 2 ^ 32

/-- A packet waits at an output for its turn. -/
def State.waits (s : State) (out : Nat) (p : Pkt) : Prop := (⟨12, out, p, none⟩ : Queued) ∈ s.queue

end Sys2Proof.Machine
end

