-- ==== Sys2Proof/Certificates/Slice0/Obligations.lean ====
section
/-! DEFINITION. The statements for the provers, by kind: the step, the queue, freeze and reset; registers; power, boot and management;
rings and descriptors; engines; memory and coherence; the fabric; clients; links; the map; media; containment. -/

open Sys2Proof Sys2Proof.Machine

/-! ### The step, the queue, freeze and reset -/

/-- A step runs the command at the front of the queue with the rest of the queue behind it. The queue is the model's own (log 2). -/
def Obligations.StepRunsFront : Prop :=
  ∀ (c : Instr) (rest : List Instr) (s : State), s.pending = c :: rest → step s = exec c { s with pending := rest }

/-- A step on an empty queue of a ZV9 that runs, with nothing that waits to go on (no access held back or waiting for a tile, no revoke, no ring
command, no composition request, no request or question that lacks space): the local cycle counter and the always-on count advance by one, and so
does an enabled event counter that counts every cycle (R589, R590), while one that is off or whose units other clocks drive stands still; nothing else
changes. That an empty queue ticks is the model's choice (log 3). -/
def Obligations.EmptyQueueTicks : Prop :=
  ∀ s : State, s.pending = [] → s.alive = true → s.stageDone 2 = true → s.held = [] → s.revoking = none → s.ringReq = none → s.fillQ = [] →
    s.composeAt = none → s.allSent → s.asks = [] →
    ∃ t, step s = .next t ∧ t.now = (s.now + 1) % 2 ^ 64 ∧ s.RegsKept t (0x190000 :: (List.range 64).map (fun i => 0x190300 + 8 * i)) ∧
      t = { s with regs := t.regs, aon := s.aon + 1 } ∧
      ∀ i < 64,
        ((s.fldAt f_OBS_SEL_ENABLE i = 0 ∨ storeKind (s.fldAt f_OBS_SEL_KIND i) = false) → t.fldAt f_OBS_CTR_COUNT i = s.fldAt f_OBS_CTR_COUNT i) ∧
        (s.fldAt f_OBS_SEL_ENABLE i = 1 → s.fldAt f_OBS_SEL_KIND i = 0 → s.fldAt f_OBS_SEL_EVENT i = 1 → s.fldAt f_OBS_SEL_INSTANCE i = 0 →
          s.fldAt f_OBS_SEL_SLICE i = 0xFF → s.fldAt f_OBS_SEL_MODE i = 1 → s.fldAt f_OBS_SEL_INVERT i = 0 →
          t.fldAt f_OBS_CTR_COUNT i = (s.fldAt f_OBS_CTR_COUNT i + 1) % 2 ^ 64)

/-- The state after reset is in canonical form. -/
def Obligations.ResetKept : Prop := State.reset.Kept

/-- Every step keeps the canonical form of plain memory and of the register file. -/
def Obligations.StepKeepsCanonicalForm : Prop := ∀ s t : State, s.Kept → step s = .next t → t.Kept

/-- No command ends in a fault or a refusal: the ZV9 answers every event with a state. -/
def Obligations.EveryCommandCompletes : Prop := ∀ (c : Instr) (s : State), Completes c s

/-- R603, R555: a ZV9 that is frozen or held in reset changes no state by a command, but for the commands of its reset and power pins, its rails, its
test access port and its freeze pin. -/
def Obligations.StoppedChangesNothing : Prop := ∀ (c : Instr) (s : State), alwaysOn c = false → s.alive = false → exec c s = .next s

/-- R603: whatever waits in the queue but a reset or a change of power, a frozen ZV9 stays frozen for as long as it runs, and what it holds stays as
it was: only the queue, the always-on count, the test access port with its readout, the free-value counter and the record of rails out of tolerance
move on, and `FRZ_STATUS` takes on further triggers (R604). -/
def Obligations.FreezeHoldsState : Prop :=
  ∀ (n : Nat) (s : State), s.frozen = true → s.pending.all (fun c => !endsFreeze c) = true →
    ∃ t, Host.Core.run Sys2Proof.core n s = .next t ∧ t.frozen = true ∧ s.FrozenSame t

/-- Values that the manual gives for reset: the boot status (R581), the fences and the epoch (R444), the fault log and its message (R549 to R551), the
store (R492), Scrivener (R614), the dumps (R610), the limits (R633), migration (R342), the drives (R315), the freeze (R615). -/
def Obligations.ResetValues : Prop :=
  State.reset.fld f_BOOT_STATUS_STAGES_DONE = 0 ∧ State.reset.locked = false ∧ State.reset.epoch = 0 ∧ State.reset.fenced = false ∧
  State.reset.fld f_FLT_LOG_RING_LOG2 = 0 ∧ State.reset.fld f_FLT_CTL_INT_US = 0xA ∧ State.reset.fld f_FLT_ALARM_CTL_HOLDOFF_MS = 0x64 ∧
  State.reset.fld f_STORE_CARVE_DESC_CELLS = 0x10000 ∧ State.reset.fld f_STORE_CARVE_STG_UNITS = 0x10 ∧ State.reset.fld f_SCR_CTL_SEED = 1 ∧
  State.reset.fld f_SCR_CTL_SLICE = 0xFF ∧ State.reset.fld f_OBS_DUMP_CTL_PERIOD_US = 0x3E8 ∧ State.reset.fld f_PWR_LIMITS_PKG_W = 0x2BC ∧
  State.reset.fld f_PWR_LIMITS_LOGIC_C = 0x64 ∧ State.reset.fld f_XL_MIG_CTL_DECAY_MS = 0x64 ∧ State.reset.fld f_MEDIA_CTL_TIMEOUT_MS = 0x1F4 ∧
  State.reset.fld f_FRZ_CTL_PIN_EN = 1 ∧ State.reset.frozen = false


/-! ### Registers -/

/-- R10: a write of a register that does no more than its fields say leaves each field at what its access kind gives for the word written (read-only
fields as they were, write-1-to-clear bits cleared, locked fields only before the setup lock, others the value written when it lies in the field's
range), and changes nothing else. R11: after the setup lock, a write that would change a locked field of such a register leaves every locked field as
it was and raises an event: the record count of `FLT_SEQ` moves on. With `FLT_CTL.INT_EN` 0 the event sends no message. -/
def Obligations.RegisterWrites : Prop :=
  (∀ (s : State) (off i : Nat) (w : Word) (r : RegSpec), s.alive = true → inDoorbells off = false → findReg off = some (r, i) →
     plainReg r.name = true → (s.locked && s.lockedWrite off w) = false →
     ∃ t, exec (.registerWrite off w) s = .next t ∧ s.OnlyWords t [off] ∧
       ∀ f ∈ r.fields, t.specField off f = f.after s.locked (s.takes r.name i f.name (bits w.toNat f.lo f.width)) (s.word off).toNat w.toNat) ∧
  (∀ (s : State) (off i : Nat) (w : Word) (r : RegSpec), s.alive = true → inDoorbells off = false → findReg off = some (r, i) →
     plainReg r.name = true → s.locked = true → s.lockedWrite off w = true → s.flag f_FLT_CTL_INT_EN = false →
     ∃ t, exec (.registerWrite off w) s = .next t ∧ t.fld f_FLT_SEQ_SEQ = (s.fld f_FLT_SEQ_SEQ + 1) % 2 ^ 64 ∧
       ∀ f ∈ r.fields, f.acc = .rwl → t.specField off f = s.specField off f)

/-- R343, R549, R611, R614: a write that sets a ring of records takes `BASE` and `LOG2` when they lie in range, and zeroes the producer and consumer
counts; while the unit that fills the ring is enabled it is ignored. The fault log has no such condition. R338, R549: a consumer count written between
its last value and the producer count, modulo 2^32, is taken; another is ignored. R591, R592, R596: a selection that exists zeroes its counter and
marks it changed, one that does not is counted and changes nothing; setting `OBS_DUMP_CTL.ENABLE` starts the dumps at this count; setting
`SCR_CTL.ENABLE` zeroes Scrivener's count. -/
def Obligations.RecordRingsAndObservation : Prop :=
  (∀ (s : State) (w : Word), s.alive = true →
     (s.fld f_XL_MIG_CTL_ENABLE ≠ 1 → ∃ t, exec (.xlMigRingWrite w) s = .next t ∧ s.OnlyWords t [0x80028, 0x80030] ∧
       t.fld f_XL_MIG_IDX_PROD = 0 ∧ t.fld f_XL_MIG_IDX_CONS = 0 ∧
       t.fld f_XL_MIG_RING_LOG2 = (if 6 ≤ f_XL_MIG_RING_LOG2.get w ∧ f_XL_MIG_RING_LOG2.get w ≤ 16 then f_XL_MIG_RING_LOG2.get w else s.fld f_XL_MIG_RING_LOG2) ∧
       (s.migRingOk (f_XL_MIG_RING_BASE.get w * 2048) (s.migLog (f_XL_MIG_RING_LOG2.get w)) = true → t.fld f_XL_MIG_RING_BASE = f_XL_MIG_RING_BASE.get w)) ∧
     (s.fld f_XL_MIG_CTL_ENABLE = 1 → exec (.xlMigRingWrite w) s = .next s) ∧
     (∃ t, exec (.fltLogRingWrite w) s = .next t ∧ s.OnlyWords t [0xE0000, 0xE0008] ∧ t.fld f_FLT_LOG_IDX_PROD = 0 ∧ t.fld f_FLT_LOG_IDX_CONS = 0 ∧
       t.fld f_FLT_LOG_RING_LOG2 = (if f_FLT_LOG_RING_LOG2.get w = 0 ∨ (6 ≤ f_FLT_LOG_RING_LOG2.get w ∧ f_FLT_LOG_RING_LOG2.get w ≤ 16) then
         f_FLT_LOG_RING_LOG2.get w else s.fld f_FLT_LOG_RING_LOG2) ∧
       (s.ringFits (f_FLT_LOG_RING_BASE.get w * 4096) (64 * 2 ^ t.fld f_FLT_LOG_RING_LOG2) = true → t.fld f_FLT_LOG_RING_BASE = f_FLT_LOG_RING_BASE.get w)) ∧
     (s.fld f_OBS_DUMP_CTL_ENABLE ≠ 1 → ∃ t, exec (.obsDumpRingWrite w) s = .next t ∧ s.OnlyWords t [0x190010, 0x190018] ∧
       t.fld f_OBS_DUMP_IDX_PROD = 0 ∧ t.fld f_OBS_DUMP_IDX_CONS = 0 ∧
       t.fld f_OBS_DUMP_RING_LOG2 = (if 4 ≤ f_OBS_DUMP_RING_LOG2.get w ∧ f_OBS_DUMP_RING_LOG2.get w ≤ 16 then f_OBS_DUMP_RING_LOG2.get w
         else s.fld f_OBS_DUMP_RING_LOG2) ∧
       (s.ringFits (f_OBS_DUMP_RING_BASE.get w * 4096) (576 * 2 ^ t.fld f_OBS_DUMP_RING_LOG2) = true → t.fld f_OBS_DUMP_RING_BASE = f_OBS_DUMP_RING_BASE.get w)) ∧
     (s.fld f_OBS_DUMP_CTL_ENABLE = 1 → exec (.obsDumpRingWrite w) s = .next s) ∧
     (s.fld f_SCR_CTL_ENABLE ≠ 1 → ∃ t, exec (.scrRingWrite w) s = .next t ∧ s.OnlyWords t [0x1A0008, 0x1A0010] ∧
       t.fld f_SCR_IDX_PROD = 0 ∧ t.fld f_SCR_IDX_CONS = 0 ∧
       t.fld f_SCR_RING_LOG2 = (if 6 ≤ f_SCR_RING_LOG2.get w ∧ f_SCR_RING_LOG2.get w ≤ 16 then f_SCR_RING_LOG2.get w else s.fld f_SCR_RING_LOG2) ∧
       (s.ringFits (f_SCR_RING_BASE.get w * 4096) (64 * 2 ^ t.fld f_SCR_RING_LOG2) = true → t.fld f_SCR_RING_BASE = f_SCR_RING_BASE.get w)) ∧
     (s.fld f_SCR_CTL_ENABLE = 1 → exec (.scrRingWrite w) s = .next s)) ∧
  (∀ (s : State) (w : Word), s.alive = true →
     (let old := s.fld f_XL_MIG_IDX_CONS; let new := f_XL_MIG_IDX_CONS.get w; let prod := s.fld f_XL_MIG_IDX_PROD
      ((new + 2 ^ 32 - old) % 2 ^ 32 ≤ (prod + 2 ^ 32 - old) % 2 ^ 32 → ∃ t, exec (.xlMigIdxWrite w) s = .next t ∧ s.OnlyWords t [0x80030] ∧
         t.fld f_XL_MIG_IDX_CONS = new ∧ t.fld f_XL_MIG_IDX_PROD = prod) ∧
      ((prod + 2 ^ 32 - old) % 2 ^ 32 < (new + 2 ^ 32 - old) % 2 ^ 32 → exec (.xlMigIdxWrite w) s = .next s)) ∧
     (let old := s.fld f_FLT_LOG_IDX_CONS; let new := f_FLT_LOG_IDX_CONS.get w; let prod := s.fld f_FLT_LOG_IDX_PROD
      ((new + 2 ^ 32 - old) % 2 ^ 32 ≤ (prod + 2 ^ 32 - old) % 2 ^ 32 → ∃ t, exec (.fltLogIdxWrite w) s = .next t ∧ s.OnlyWords t [0xE0008] ∧
         t.fld f_FLT_LOG_IDX_CONS = new ∧ t.fld f_FLT_LOG_IDX_PROD = prod) ∧
      ((prod + 2 ^ 32 - old) % 2 ^ 32 < (new + 2 ^ 32 - old) % 2 ^ 32 → exec (.fltLogIdxWrite w) s = .next s))) ∧
  (∀ (s : State) (w : Word), s.alive = true →
     (∀ c < 64, selOk w = true → ∃ t, exec (.obsSelWrite c w) s = .next t ∧ t.fldAt f_OBS_CTR_COUNT c = 0 ∧
       t.fldAt f_OBS_SEL_EVENT c = f_OBS_SEL_EVENT.get w ∧ t.fldAt f_OBS_SEL_KIND c = f_OBS_SEL_KIND.get w ∧
       t.fldAt f_OBS_SEL_INSTANCE c = f_OBS_SEL_INSTANCE.get w ∧ t.fldAt f_OBS_SEL_MODE c = f_OBS_SEL_MODE.get w ∧
       t.fldAt f_OBS_SEL_ENABLE c = f_OBS_SEL_ENABLE.get w ∧ s.RegsKept t [0x190100 + 8 * c, f_OBS_CTR_COUNT.addr c]) ∧
     (∀ c < 64, selOk w = false → ∃ t, exec (.obsSelWrite c w) s = .next t ∧ s.OnlyWords t [f_OBS_STAT_SEL_REJECTS.addr 0] ∧
       t.fld f_OBS_STAT_SEL_REJECTS = min (s.fld f_OBS_STAT_SEL_REJECTS + 1) (2 ^ f_OBS_STAT_SEL_REJECTS.width - 1)) ∧
     (∃ t, exec (.obsDumpCtlWrite w) s = .next t ∧ t.fld f_OBS_DUMP_CTL_ENABLE = f_OBS_DUMP_CTL_ENABLE.get w ∧ s.RegsKept t [0x190008] ∧
       (s.fld f_OBS_DUMP_CTL_ENABLE = 0 → f_OBS_DUMP_CTL_ENABLE.get w = 1 → t.dumpSeq = 0 ∧ t.dumpFrom = s.now)) ∧
     (∃ t, exec (.scrCtlWrite w) s = .next t ∧ t.fld f_SCR_CTL_ENABLE = f_SCR_CTL_ENABLE.get w ∧ s.RegsKept t [0x1A0000] ∧
       (s.fld f_SCR_CTL_ENABLE = 0 → f_SCR_CTL_ENABLE.get w = 1 → t.scrCount = 0 ∧ t.scrSeq = 0) ∧
       (s.fld f_SCR_CTL_ENABLE = 1 ∨ f_SCR_CTL_ENABLE.get w = 0 → t.scrCount = s.scrCount ∧ t.scrLfsr = s.scrLfsr)))

/-- R498: a write of one of the four registers of a slice takes effect whole, when the slice is free (slice 0 always is) and the grants that would
result fit the ZV9; else it changes nothing but `SLC_STATUS.CFG_REJECT`. A write that keeps the slice configured or not is stated here, with every
field as written. R499, R516: a write that clears `ENABLE` of a free slice releases every grant: `SLC_CFG`, `SLC_MOVERS` and `SLC_SHARE` read 0 and
`SLC_QOS` its reset value. That the three read 0 is the model's reading (log 64). R498, R521: `SLC_GLOBAL` takes a weight of 1 or more whose minimum
leaves room at every arbitration point, else nothing. -/
def Obligations.SliceRegisters : Prop :=
  (∀ (s : State) (x : Nat) (w : Word) (c : Instr) (base : Nat), s.alive = true → 1 ≤ x → x < 64 →
     (c, base) ∈ [(Instr.slcCfgWrite x w, 0xD0000), (Instr.slcMoversWrite x w, 0xD0200), (Instr.slcShareWrite x w, 0xD0400), (Instr.slcQosWrite x w, 0xD0600)] →
     (base = 0xD0000 → f_SLC_CFG_ENABLE.get w = s.fldAt f_SLC_CFG_ENABLE x) →
     let cand := s.plainWrite (base + 8 * x) w (fun _ _ => true)
     let free := s.jobNum x = 0 ∧ (∀ r ∈ s.rings, r.slice ≠ x) ∧ s.fldAt f_SLC_STATUS_BUSY x = 0
     (free ∧ cand.capacityOk = true → ∃ t, exec c s = .next t ∧ s.OnlyWords t [base + 8 * x] ∧
       ∀ r i, findReg (base + 8 * x) = some (r, i) → ∀ f ∈ r.fields, f.acc = .rw → t.specField (base + 8 * x) f = bits w.toNat f.lo f.width) ∧
     (¬ (free ∧ cand.capacityOk = true) → ∃ t, exec c s = .next t ∧ s.OnlyWords t [f_SLC_STATUS_CFG_REJECT.addr x] ∧
       t.fldAt f_SLC_STATUS_CFG_REJECT x = 1)) ∧
  (∀ (s : State) (x : Nat) (w : Word), s.alive = true → 1 ≤ x → x < 64 → s.configured x = true → f_SLC_CFG_ENABLE.get w = 0 →
     s.jobNum x = 0 → (∀ r ∈ s.rings, r.slice ≠ x) → s.fldAt f_SLC_STATUS_BUSY x = 0 →
     ((s.plainWrite (0xD0000 + 8 * x) w (fun _ _ => true)).releaseGrants x).capacityOk = true →
     ∃ t, exec (.slcCfgWrite x w) s = .next t ∧ t.word (0xD0000 + 8 * x) = 0 ∧ t.word (0xD0200 + 8 * x) = 0 ∧ t.word (0xD0400 + 8 * x) = 0 ∧
       t.word (0xD0600 + 8 * x) = resetWord (0xD0600 + 8 * x) ∧ t.configured x = false ∧
       s.RegsKept t [0xD0000 + 8 * x, 0xD0200 + 8 * x, 0xD0400 + 8 * x, 0xD0600 + 8 * x]) ∧
  (∀ (s : State) (w : Word), s.alive = true →
     let cand := s.plainWrite 0xD0A30 w (fun _ _ => true)
     (f_SLC_GLOBAL_TRANSIT_WT.get w ≠ 0 ∧ cand.minsOk = true → ∃ t, exec (.slcGlobalWrite w) s = .next t ∧ s.OnlyWords t [0xD0A30] ∧
       t.fld f_SLC_GLOBAL_TRANSIT_WT = f_SLC_GLOBAL_TRANSIT_WT.get w ∧ t.fld f_SLC_GLOBAL_TRANSIT_MIN = f_SLC_GLOBAL_TRANSIT_MIN.get w) ∧
     (f_SLC_GLOBAL_TRANSIT_WT.get w = 0 ∨ cand.minsOk = false → exec (.slcGlobalWrite w) s = .next s))

/-- R109, R135, R486: `ARR_DISABLE` is rejected whole when it would empty a group of a slice other than 0 and taken whole else; setting
`ARR_AUDIT_CTL.ENABLE` restarts every pass count; a write of `STORE_MIRROR` zeroes both packet counts of its port,
whose samples go on being numbered (log 121). R335, R346: `XL_ROOT` takes a root inside
the page-table area while it is not valid; a valid root outside it, a change of the root of a valid one and any write while `BUSY` is 1 change only the
reject count; clearing `VALID` withdraws every translation of the slice, and leaves `BUSY` 0 once nothing of the ZV9 is outstanding. R336: the decay
halves every access count, rounding down. -/
def Obligations.ArraysMirrorsTranslation : Prop :=
  (∀ (s : State) (w : Word), s.alive = true →
     let empties := ∃ g < 8, bits w.toNat (8 * g) 8 = 255 ∧ ∃ x, 1 ≤ x ∧ x < 64 ∧ bit (s.fldAt f_SLC_CFG_GROUPS x) g = true
     (empties → ∃ t, exec (.arrDisableWrite w) s = .next t ∧ s.OnlyWords t [f_ARR_AUDIT_STATUS_DISABLE_REJECT.addr 0] ∧
       t.fld f_ARR_AUDIT_STATUS_DISABLE_REJECT = 1 ∧ t.fld f_ARR_AUDIT_STATUS_MISMATCHES = s.fld f_ARR_AUDIT_STATUS_MISMATCHES ∧
       t.fld f_ARR_AUDIT_STATUS_SKIPPED = s.fld f_ARR_AUDIT_STATUS_SKIPPED) ∧
     (¬ empties → ∃ t, exec (.arrDisableWrite w) s = .next t ∧ s.OnlyWords t [0x30018] ∧ t.word 0x30018 = w) ∧
     (∃ t, exec (.arrAuditCtlWrite w) s = .next t ∧ t = { s with regs := t.regs, passes := t.passes } ∧ s.RegsKept t [0x30000] ∧
       t.passes = (if f_ARR_AUDIT_CTL_ENABLE.get w = 1 then [] else s.passes) ∧ t.fld f_ARR_AUDIT_CTL_ENABLE = f_ARR_AUDIT_CTL_ENABLE.get w ∧
       t.fld f_ARR_AUDIT_CTL_FAIL_ON_MISMATCH = f_ARR_AUDIT_CTL_FAIL_ON_MISMATCH.get w ∧
       t.fld f_ARR_AUDIT_CTL_LOG2_N = (if f_ARR_AUDIT_CTL_LOG2_N.get w ≤ 20 then f_ARR_AUDIT_CTL_LOG2_N.get w else s.fld f_ARR_AUDIT_CTL_LOG2_N)) ∧
     (∀ p < 12, ∃ t, exec (.storeMirrorWrite p w) s = .next t ∧ t = { s with regs := t.regs, mirrorCnt := t.mirrorCnt } ∧
       s.RegsKept t [0xC0100 + 8 * p] ∧ t.mirrorCnt = s.mirrorCnt.map (fun c => if c.1 / 2 = p then (c.1, (0, c.2.2)) else c) ∧
       t.fldAt f_STORE_MIRROR_IN p = f_STORE_MIRROR_IN.get w ∧ t.fldAt f_STORE_MIRROR_OUT p = f_STORE_MIRROR_OUT.get w ∧
       t.fldAt f_STORE_MIRROR_CLASS_MASK p = f_STORE_MIRROR_CLASS_MASK.get w ∧
       t.fldAt f_STORE_MIRROR_LOG2_N p = (if f_STORE_MIRROR_LOG2_N.get w ≤ 20 then f_STORE_MIRROR_LOG2_N.get w else s.fldAt f_STORE_MIRROR_LOG2_N p))) ∧
  (∀ (s : State) (x : Nat) (w : Word), s.alive = true → x < 64 →
     let root := f_XL_ROOT_ROOT.get w
     let inside := s.withinPt (root * 2 ^ 14) (xlTable 4) = true
     let rejected := ∃ t, exec (.xlRootWrite x w) s = .next t ∧ s.OnlyWords t [f_XL_ERR_ROOT_REJECTS.addr 0] ∧
       t.fld f_XL_ERR_ROOT_REJECTS = min (s.fld f_XL_ERR_ROOT_REJECTS + 1) (2 ^ f_XL_ERR_ROOT_REJECTS.width - 1)
     (s.fldAt f_XL_ROOT_BUSY x = 1 → rejected) ∧
     (f_XL_ROOT_VALID.get w = 1 → ¬ inside → rejected) ∧
     (f_XL_ROOT_VALID.get w = 1 → s.fldAt f_XL_ROOT_VALID x = 1 → root ≠ s.fldAt f_XL_ROOT_ROOT x → rejected) ∧
     (s.fldAt f_XL_ROOT_BUSY x = 0 → s.fldAt f_XL_ROOT_VALID x = 0 → (f_XL_ROOT_VALID.get w = 1 → inside) → ∃ t, exec (.xlRootWrite x w) s = .next t ∧
       s.OnlyWords t [f_XL_ROOT_ROOT.addr x] ∧ t.fldAt f_XL_ROOT_VALID x = f_XL_ROOT_VALID.get w ∧ t.fldAt f_XL_ROOT_ROOT x = root ∧
       t.fldAt f_XL_ROOT_BUSY x = 0) ∧
     (s.fldAt f_XL_ROOT_BUSY x = 0 → s.fldAt f_XL_ROOT_VALID x = 1 → f_XL_ROOT_VALID.get w = 0 → s.invals = [] → s.outReqs = [] → s.txns = [] →
       s.fillQ = [] → s.bankQ = [] → s.cohWaiting = [] → (∀ d ∈ s.descs, d.phase ≠ .running) → ∃ t, exec (.xlRootWrite x w) s = .next t ∧
       t = { s with regs := t.regs, xlCache := t.xlCache } ∧ s.RegsKept t [f_XL_ROOT_ROOT.addr x, f_XL_INVAL_STAT_IN_FLIGHT.addr 0] ∧
       t.xlCache = s.xlCache.filter (fun e => e.slice != x) ∧ t.fldAt f_XL_ROOT_VALID x = 0 ∧ t.fldAt f_XL_ROOT_ROOT x = root ∧
       t.fldAt f_XL_ROOT_BUSY x = 0)) ∧
  (∀ s : State, s.alive = true → exec .counterDecay s =
     .next { s with xlCounts := s.xlCounts.map (fun (c : XlCount) => { c with host := c.host / 2, dev := c.dev / 2 }) })

/-- R508: a message on a vector that is off is counted, one on a masked vector is held; a write of the vector entry that clears `MASK` while a message
is held clears `PENDING` and judges the message again. Stated for the timer of a ring's coalescing (R99) and for the write, on a slice's vector whose
client takes interrupts. R508: a write of a vector entry that clears `MASK` while `PENDING` is 1 clears `PENDING` and sends one message to the client;
a write that finds nothing held only takes the fields written. R100: while a record in client memory is unacknowledged and the vector names another
port, the interrupt is owed and nothing is sent, by the timer and by the write alike. -/
def Obligations.Interrupts : Prop :=
  (∀ (s : State) (x n v k : Nat) (r : Ring), s.alive = true → x < 64 → v < 256 →
     s.ring x n = some r → r.vector = v → r.uncovered ≠ 0 →
     let i := 256 * x + v
     let free := s.ringOwes x n = false ∨ s.fldAt f_SLV_HI_PORT i = r.port
     (¬ free → exec (.coalesceTimerExpiry x n) s = .next (s.setRing { r with intDue := true })) ∧
     (free → s.fldAt f_SLV_HI_ENABLE i = 0 → ∃ t, exec (.coalesceTimerExpiry x n) s = .next t ∧
       t.fldAt f_SLC_STATUS_INT_OFF_DROPS x = min (s.fldAt f_SLC_STATUS_INT_OFF_DROPS x + 1) (2 ^ f_SLC_STATUS_INT_OFF_DROPS.width - 1) ∧ t.queue = s.queue) ∧
     (free → s.fldAt f_SLV_HI_ENABLE i = 1 → s.fldAt f_SLV_HI_MASK i = 1 → ∃ t, exec (.coalesceTimerExpiry x n) s = .next t ∧
       t.fldAt f_SLV_HI_PENDING i = 1 ∧ t.queue = s.queue) ∧
     (free → s.fldAt f_SLV_HI_ENABLE i = 1 → s.fldAt f_SLV_HI_MASK i = 0 → s.fldAt f_SLV_HI_PORT i = k → s.bound k = some x → s.klUp k = true →
       s.inWindow k (s.fldAt f_SLV_LO_ADDR i * 4) 4 = true → ∃ t, exec (.coalesceTimerExpiry x n) s = .next t ∧
       t.queue = s.queue ++ [⟨12, k, .kl (mkKl 0x44 4 s.nextTag (s.fldAt f_SLV_LO_ADDR i * 4) (x + 256 * v) (leBytes 4 (s.fldAt f_SLV_HI_DATA i))), none⟩])) ∧
  (∀ (s : State) (x v k : Nat) (w : Word), s.alive = true → x < 64 → v < 256 →
     let i := 256 * x + v
     let off := 0x100000 + 16 * i + 8
     let owing (r : Ring) := r.slice = x ∧ r.vector = v ∧ s.ringOwes r.slice r.num = true ∧ k ≠ r.port
     ((∀ r ∈ s.rings, ¬ owing r) → s.fldAt f_SLV_HI_MASK i = 1 → s.fldAt f_SLV_HI_PENDING i = 1 → f_SLV_HI_MASK.get w = 0 → f_SLV_HI_ENABLE.get w = 1 → f_SLV_HI_PORT.get w = k →
       s.bound k = some x → s.klUp k = true → s.inWindow k (s.fldAt f_SLV_LO_ADDR i * 4) 4 = true →
       ∃ t, exec (.vectorEntryWrite off w) s = .next t ∧ t.fldAt f_SLV_HI_PENDING i = 0 ∧ t.fldAt f_SLV_HI_MASK i = 0 ∧
         t.queue = s.queue ++ [⟨12, k, .kl (mkKl 0x44 4 s.nextTag (s.fldAt f_SLV_LO_ADDR i * 4) (x + 256 * v) (leBytes 4 (f_SLV_HI_DATA.get w))), none⟩]) ∧
     ((∃ r ∈ s.rings, owing r) → s.fldAt f_SLV_HI_MASK i = 1 → s.fldAt f_SLV_HI_PENDING i = 1 → f_SLV_HI_MASK.get w = 0 → f_SLV_HI_PORT.get w = k →
       ∃ t, exec (.vectorEntryWrite off w) s = .next t ∧ t.fldAt f_SLV_HI_PENDING i = 0 ∧ t.queue = s.queue ∧ t.rings.length = s.rings.length ∧
         ∀ j, ∀ h : j < s.rings.length, ∃ q, t.rings[j]? = some q ∧ (owing s.rings[j] → q = { s.rings[j] with intDue := true }) ∧ (¬ owing s.rings[j] → q = s.rings[j])) ∧
     (s.fldAt f_SLV_HI_PENDING i = 0 → ∃ t, exec (.vectorEntryWrite off w) s = .next t ∧ s.OnlyWords t [off] ∧
       t.fldAt f_SLV_HI_MASK i = f_SLV_HI_MASK.get w ∧ t.fldAt f_SLV_HI_ENABLE i = f_SLV_HI_ENABLE.get w ∧
       t.fldAt f_SLV_HI_PORT i = f_SLV_HI_PORT.get w ∧ t.fldAt f_SLV_HI_DATA i = f_SLV_HI_DATA.get w))


/-! ### Reset, power, freeze and the test access port -/

/-- R555, R621, R622: a recognised `RESET_N` of a ZV9 that runs leaves nothing of its work behind: rings, descriptors, plain memory, the directory,
the drives' work and the setup lock are gone, every register reads as after reset but for the strap address of `BOOT_MCTP`. A ZV9 that was frozen
sends no kill. A fall of `PWROK`, and a rail out of tolerance for 10 µs, do the same and hold the power-on reset. R555, R619, R621, R628: the pins
that end a reset: `RESET_N` goes high, `PWROK` rises, and the power-on reset releases with the straps sampled into the endpoint's address and
`THERMTRIP_N` no longer low. -/
def Obligations.ResetAndPower : Prop :=
  (∀ (s : State) (c : Instr), s.resetHeld = false → s.porHeld = false →
     (c = .resetNAssert ∨ (c = .pwrokFall ∧ s.pwrok = true) ∨ (∃ k, c = .railToleranceTimer k ∧ k ∈ s.railsBad ∧ s.pwrok = true)) →
     ∃ t, exec c s = .next t ∧ t.rings = [] ∧ t.descs = [] ∧ t.mem = [] ∧ t.dir = [] ∧ t.nvme = [] ∧ t.outReqs = [] ∧ t.mapCur = none ∧
       t.locked = false ∧ t.frozen = false ∧ t.alive = false ∧ (∀ off, off ≠ f_BOOT_MCTP_SMB_ADDR.addr 0 → t.word off = resetWord off) ∧
       (s.frozen = true → t.killed = s.killed) ∧ (c = .resetNAssert → t.resetHeld = true) ∧ (c ≠ .resetNAssert → t.porHeld = true ∧ t.pwrok = false)) ∧
  (∀ (s : State) (straps : Nat),
     (s.resetHeld = true → exec .resetNDeassert s = .next { s with resetHeld := false, aon := 0 }) ∧
     (s.resetHeld = false → exec .resetNDeassert s = .next s) ∧
     (s.porHeld = true → exec .pwrokRise s = .next { s with pwrok := true }) ∧
     (s.porHeld = true → s.pwrok = true → ∃ t, exec (.powerOnResetRelease straps) s = .next t ∧ t.porHeld = false ∧ t.tripped = false ∧ t.aon = 0 ∧
       t.straps = straps % 4 ∧ t.fld f_BOOT_MCTP_SMB_ADDR = 0x30 + straps % 4 ∧ s.RegsKept t [f_BOOT_MCTP_SMB_ADDR.addr 0]) ∧
     (s.pwrok = false → exec (.powerOnResetRelease straps) s = .next s))

/-- R602, R604, R616: a trigger of a freeze (the pin while `PIN_EN` is 1 and stage 2 is complete, the `FREEZE` bit of `FRZ_CTL`, or the `FREEZE`
instruction of the test access port) records the trigger, the local cycle counter and the always-on count, and stops domains 0 to 23, never 24. Before
the end of stage 2 the pin's trigger waits. -/
def Obligations.FreezeTriggers : Prop :=
  ∀ (s : State) (w : Word) (dr : Nat) (c : Instr) (f : Fld), s.alive = true →
    ((c = .freezeNAssert ∧ s.fld f_FRZ_CTL_PIN_EN = 1 ∧ s.stageDone 2 = true ∧ f = f_FRZ_STATUS_PIN) ∨
     (c = .frzCtlFreeze w ∧ f_FRZ_CTL_FREEZE.get w = 1 ∧ f = f_FRZ_STATUS_REG) ∨ (c = .tapFreeze dr ∧ bit dr 0 = true ∧ f = f_FRZ_STATUS_REG)) →
    (∃ t, exec c s = .next t ∧ t.frozen = true ∧ t.fld f = 1 ∧ t.fld f_FRZ_STAMP_STAMP = s.now ∧ t.fld f_FRZ_AON_AON = s.aon / 18 % 2 ^ 64 ∧
      (∀ d < 24, bit (t.fld f_FRZ_DOMAINS_STOPPED) d = true) ∧ bit (t.fld f_FRZ_DOMAINS_STOPPED) 24 = false ∧ t.mem = s.mem ∧ t.rings = s.rings ∧
      t.descs = s.descs) ∧
    (s.fld f_FRZ_CTL_PIN_EN = 1 → s.stageDone 2 = false → exec .freezeNAssert s = .next { s with freezeDeferred := true }) ∧
    (s.fld f_FRZ_CTL_PIN_EN = 0 → exec .freezeNAssert s = .next s)

/-- R605 to R607: what each instruction of the test access port captures, and the readout address that `RADDR` sets and `RDATA` advances by 8. A read
is refused with zeros while the ZV9 is not frozen. R608, R609: `STREAM` starts a run of one frame for each 1,024 bytes and an end frame, 1,064 bytes
each; a run under way takes no other start, and each frame sent moves it on until the end frame is out. -/
def Obligations.TestAccessPort : Prop :=
  (∀ (s : State) (a : Nat),
     (∃ t, exec .tapReset s = .next t ∧ t.tapIr = 0x01 ∧ t.tapAddr = s.tapAddr ∧ t.regs = s.regs) ∧
     (∃ t, exec .idcode s = .next t ∧ t.tapIr = 0x01 ∧ bits t.tapDr 12 16 = 0x5A09 ∧ bit t.tapDr 0 = true ∧ t.regs = s.regs) ∧
     (∃ t, exec .fstatus s = .next t ∧ t.tapIr = 0x11 ∧ t.tapDr = (s.word 0x1B0010).toNat ∧ t.regs = s.regs) ∧
     (∃ t, exec (.raddr a) s = .next t ∧ t.tapIr = 0x12 ∧ t.tapDr = s.tapAddr ∧ t.tapAddr = a % 2 ^ 64 ∧ t.regs = s.regs) ∧
     (∃ t, exec .bypass s = .next t ∧ t.tapIr = 0xFF ∧ t.tapDr = 0 ∧ t.tapAddr = s.tapAddr ∧ t.regs = s.regs) ∧
     (∃ t, exec .rdata s = .next t ∧ t.tapIr = 0x13 ∧ t.tapAddr = (s.tapAddr + 8) % 2 ^ 64 ∧ t.regs = s.regs ∧ t.mem = s.mem ∧
       (s.frozen = false → t.tapDr = 3 * 2 ^ 64) ∧
       (s.frozen = true → s.tapAddr < 0x8000000 → s.tapAddr % 8 = 0 → regAt s.tapAddr = true → t.tapDr = (s.liveWord s.tapAddr).toNat) ∧
       (s.frozen = true → s.tapAddr / 2 ^ 56 = 1 → s.tapAddr % 8 = 0 → s.tapAddr % 2 ^ 56 + 8 ≤ s.scratchLen → s.scratchLen ≤ storeBytes →
         s.memPoisoned (s.tapAddr % 2 ^ 56) 8 = false → t.tapDr = leNat (s.memRead (s.tapAddr % 2 ^ 56) 8))) ∧
     (bit a 0 = false → ∃ t, exec (.tapFreeze a) s = .next t ∧ t.tapIr = 0x10 ∧ t.tapDr = 0 ∧ t.regs = s.regs)) ∧
  (∀ (s : State) (start len run : Nat),
     (s.tapBusy = false → 8 ≤ len → len ≤ 2 ^ 40 - 8 → len % 8 = 0 → ∃ t, exec (.stream start len run) s = .next t ∧ t.tapIr = 0x14 ∧
       t.tapRun = some ⟨start % 2 ^ 64, len, run % 65536, 0⟩ ∧ t.tapBusy = true ∧ t.regs = s.regs) ∧
     (s.tapBusy = true → ∃ t, exec (.stream start len run) s = .next t ∧ t.tapRun = s.tapRun) ∧
     (∀ r, s.tapRun = some r → r.sent ≤ (r.len + 1023) / 1024 → ∃ t f, exec .streamFrameSend s = .next t ∧ t.dbgTx = s.dbgTx ++ [f] ∧ f.length = 1064 ∧
       t.tapRun = some { r with sent := r.sent + 1 } ∧ leAt f 4 4 = r.sent % 2 ^ 32 ∧ leAt f 24 2 = r.run % 65536 ∧
       (leAt f 0 1 = if r.sent = (r.len + 1023) / 1024 then 2 else 1) ∧ (t.tapBusy = false ↔ r.sent = (r.len + 1023) / 1024) ∧ t.regs = s.regs))

/-- R627, R628: a reading of the sensors shows in `PWR_SENSE`, and each limit that a temperature judges is in force exactly while it is reached; limit
2 forces the step index to 16. Stated below the thermal trip. R628 limit 9: at 115 °C of the logic die or 105 °C of a stack the ZV9 trips: it enters
reset with `THERMTRIP_N` low. R629: the step index rises by one while limit 1 or 7 is in force, to at most 16, and falls by one when limits 1, 2 and 7
are out of force and the logic die is 5 °C below its limit; no other register changes. R622, R628, R630: a window's package estimate is shown and
kept, and the admission of each group and stack over its cap is the 64th part that R630 gives; a monitored rail that leaves its tolerance while
`PWROK` is high is remembered and brings limit 8 into force. -/
def Obligations.PowerManagement : Prop :=
  (∀ (s : State) (r : Sensors), s.alive = true → s.tripped = false → r.tLogic < 115 → -128 ≤ r.tLogic → (∀ x ∈ r.tStacks, x < 105 ∧ -128 ≤ x) →
     ∃ t, exec (.sensorReading r) s = .next t ∧ t.tStacks = r.tStacks ∧
       (t.inForce 1 = true ↔ (s.fld f_PWR_LIMITS_LOGIC_C : Int) ≤ r.tLogic) ∧ (t.inForce 2 = true ↔ 105 ≤ r.tLogic) ∧
       (t.inForce 3 = true ↔ ∃ x ∈ r.tStacks, 85 ≤ x) ∧ (t.inForce 4 = true ↔ ∃ x ∈ r.tStacks, (s.fld f_PWR_LIMITS_STACK_C : Int) ≤ x) ∧
       (105 ≤ r.tLogic → t.fld f_PWR_STAT_STEP = 16) ∧ signed8 (t.fld f_PWR_SENSE_T_LOGIC) = r.tLogic) ∧
  (∀ (s : State) (r : Sensors), s.alive = true → s.tripped = false → (115 ≤ r.tLogic ∨ ∃ x ∈ r.tStacks, 105 ≤ x) →
     ∃ t, exec (.sensorReading r) s = .next t ∧ t.tripped = true ∧ t.resetHeld = true ∧ t.alive = false ∧ t.mem = [] ∧ t.rings = []) ∧
  (∀ s : State, s.alive = true → s.fld f_PWR_STAT_STEP ≤ 16 →
     ((s.inForce 1 || s.inForce 7) = true → ∃ t, exec .stepUp s = .next t ∧ t.fld f_PWR_STAT_STEP = min 16 (s.fld f_PWR_STAT_STEP + 1) ∧
       s.OnlyWords t [f_PWR_STAT_STEP.addr 0] ∧ t.fld f_PWR_STAT_IN_FORCE = s.fld f_PWR_STAT_IN_FORCE) ∧
     ((s.inForce 1 || s.inForce 2 || s.inForce 7) = false → signed8 (s.fld f_PWR_SENSE_T_LOGIC) ≤ (s.fld f_PWR_LIMITS_LOGIC_C : Int) - 5 →
       ∃ t, exec .stepDown s = .next t ∧ t.fld f_PWR_STAT_STEP = s.fld f_PWR_STAT_STEP - 1 ∧ s.OnlyWords t [f_PWR_STAT_STEP.addr 0]) ∧
     ((s.inForce 1 || s.inForce 2 || s.inForce 7) = true → exec .stepDown s = .next s)) ∧
  (∀ (s : State) (e : PowerEst) (k : Nat), s.alive = true →
     (∃ t, exec (.powerWindow e) s = .next t ∧ t.pkgHist = (e.pkg :: s.pkgHist).take 100 ∧
       (∀ i < 14, s.fldAt f_PWR_CAP_WATTS i ≠ 0 → s.fldAt f_PWR_CAP_WATTS i < e.watts.getD i 0 →
         (i, 64 * s.fldAt f_PWR_CAP_WATTS i / e.watts.getD i 0) ∈ t.admitted) ∧
       (∀ a ∈ t.admitted, a.1 < 14 ∧ s.fldAt f_PWR_CAP_WATTS a.1 ≠ 0 ∧ s.fldAt f_PWR_CAP_WATTS a.1 < e.watts.getD a.1 0)) ∧
     (k < 10 → s.pwrok = true → ∃ t, exec (.railOutOfTolerance k) s = .next t ∧ k ∈ t.railsBad ∧ t.inForce 8 = true) ∧
     (s.pwrok = false → exec (.railOutOfTolerance k) s = .next s))


/-! ### Boot -/

/-- R556: stage 1, 2 or 5 to 7, begun and with nothing that fails it, ends complete, and changes no other stage's bit. R558: a stack that fails
training, a management processor that does not start and a stage that exceeds its maximum set `FAIL` and `FAIL_INFO` of a boot that has not failed;
the stage is not complete. R557, R569: stage 8 sets the setup lock and store-ready, writes the time from reset release, and begins the bring-up of the
ports whose pins name a drive. -/
def Obligations.BootStages : Prop :=
  (∀ (s : State) (k : Nat) (c : Instr), s.stageRuns k = true →
     (k, c) ∈ [(1, Instr.bootStage1), (2, .bootStage2), (5, .bootStage5 none), (6, .bootStage6), (7, .bootStage7 none)] →
     (k = 7 → s.cfgEntries.filter (fun e => e.type == 1) = []) →
     ∃ t, exec c s = .next t ∧ t.fld f_BOOT_STATUS_STAGES_DONE = s.fld f_BOOT_STATUS_STAGES_DONE ||| 2 ^ (k - 1) ∧ t.stageDone k = true ∧
       t.fld f_BOOT_STATUS_FAIL = s.fld f_BOOT_STATUS_FAIL ∧
       (k = 6 → ∀ a, 0x10000000000 ≤ a → cellByte t.mem a = 0#8) ∧ (k = 2 → s.freezeDeferred = true → t.frozen = true) ∧
       (k = 7 → t.meas.length = s.meas.length + 5)) ∧
  (∀ (s : State) (k n : Nat) (c : Instr) (code : Nat), s.stageRuns k = true → s.failCode = 0 → n < 2 ^ f_BOOT_STATUS_FAIL_INFO.width →
     (c = .bootStage5 (some n) ∧ k = 5 ∧ code = 5 ∨ c = .bootStage7 (some n) ∧ k = 7 ∧ code = 6 ∨
       c = .bootStageTimeout k ∧ n = k ∧ code = 7 ∧ (k = 3 → s.flash.busy = false)) →
     ∃ t, exec c s = .next t ∧ t.fld f_BOOT_STATUS_FAIL = code ∧ t.fld f_BOOT_STATUS_FAIL_INFO = n ∧ t.fld f_BOOT_STATUS_RECOVERY = 0 ∧
       t.stageDone k = false ∧ (k, code) ∈ t.stuck ∧ s.RegsKept t [f_BOOT_STATUS_FAIL.addr 0]) ∧
  (∀ (s : State) (present : Nat), s.stageRuns 8 = true → s.cfgEntries.filter (fun e => e.type == 5) = [] → s.fld f_TIER_EXT_COUNT = 0 →
     s.layoutOk = true → s.limitsOk = true →
     ∃ t, exec (.bootStage8 present) s = .next t ∧ (∀ p, p ∈ t.mediaWait ↔ p < 8 ∧ bit present p = true) ∧ t.locked = true ∧ t.flag f_BOOT_STATUS_STORE_READY = true ∧ t.stageDone 8 = true ∧
       t.fld f_BOOT_TIME_READY_US = s.aon / 1800 % 2 ^ f_BOOT_TIME_READY_US.width ∧ t.meas.length = s.meas.length + 1 ∧
       t.fld f_AS_DIRECT_LIMIT_LEN = s.fld f_TIER_SPLIT_DIRECT_GIB * 2 ^ 30 % 2 ^ f_AS_DIRECT_LIMIT_LEN.width ∧ t.mem = s.mem)

/-- R560, R566, R570, R572: stage 3 with a record that matches the key it rebuilds ends with the identity shown, and with an erased record it begins
to write one; stage 4 fails with the code of its first failure, or ends with the images that it selects. -/
def Obligations.IdentityAndImages : Prop :=
  ∀ (s : State) (puf : List Byte),
    (s.stageRuns 3 = true → s.flashFound = true → s.flash.busy = false →
      (let r := s.flash.read recordBase 16384
       let i := identOf (Config.pufRebuild puf ((r.drop 128).take (leAt r 112 4)))
       r.all (fun b => b == 0xFF#8) = false → recordOk r = true → (r.drop 80).take 32 = i.check → (r.drop 16).take 64 = i.pk → leAt r 8 8 = i.devId →
       ∃ t, exec (.bootStage3 puf) s = .next t ∧ t.ident = some i ∧ t.stageDone 3 = true ∧ t.fld f_BOOT_STATUS_IDENT_OK = 1 ∧
         t.fld f_BOOT_DEVID_DEVICE_ID = i.devId % 2 ^ 64) ∧
      ((s.flash.read recordBase 16384).all (fun b => b == 0xFF#8) = true → ∃ t, exec (.bootStage3 puf) s = .next t ∧
         t.ident = some (identOf (Config.pufKey puf)) ∧ t.flash.busy = true ∧ t.flash.forMctp = false ∧ t.stageDone 3 = false)) ∧
    (s.stageRuns 4 = true → s.flash.busy = false → ∃ t, exec .bootStage4 s = .next t ∧
      (s.flash.failStep ≠ 0 → s.failCode = 0 → t.fld f_BOOT_STATUS_FAIL = 1 ∧ t.stageDone 4 = false) ∧
      (s.flash.failStep = 0 → s.cfgs = [] → s.failCode = 0 → t.fld f_BOOT_STATUS_FAIL = 2 ∧ t.stageDone 4 = false) ∧
      (s.flash.failStep = 0 → s.cfgs ≠ [] → s.selection = none → s.failCode = 0 → t.fld f_BOOT_STATUS_FAIL = 3 ∧ t.stageDone 4 = false) ∧
      (s.flash.failStep = 0 → ∀ cs c fs f, s.selection = some ((cs, c), (fs, f)) → t.cfg = some c ∧ t.fw = some f ∧ t.stageDone 4 = true ∧
        t.fld f_BOOT_STATUS_FAIL = s.fld f_BOOT_STATUS_FAIL))


/-! ### Management -/

/-- R575: from stage 1 on each control command of the endpoint is answered once: the identifier that Set assigns and Get returns, the versions, the
message types, the identifier derived from the device key, and unsupported commands with code 0x05. The completion codes are those of DSP0236 (log
22). -/
def Obligations.ControlCommands : Prop :=
  ∀ (s : State) (eid code : Nat), s.mctpOn = true →
    (0 < eid → eid < 0xFF → ∃ t, exec (.setEndpointId eid) s = .next t ∧ t.fld f_BOOT_MCTP_EID = eid ∧ t.mctpOut = s.mctpOut ++ [⟨0, 1, 0, [0#8, byte eid, 0#8]⟩] ∧
      s.RegsKept t [f_BOOT_MCTP_EID.addr 0]) ∧
    (eid = 0 ∨ eid = 0xFF → exec (.setEndpointId eid) s = .next { s with mctpOut := s.mctpOut ++ [⟨0, 1, 2, []⟩] }) ∧
    (exec .getEndpointId s = .next { s with mctpOut := s.mctpOut ++ [⟨0, 2, 0, [byte (s.fld f_BOOT_MCTP_EID), 0#8, 0#8]⟩] }) ∧
    (exec .getMctpVersionSupport s = .next { s with mctpOut := s.mctpOut ++ [⟨0, 4, 0, [1#8, 0xF1#8, 0xF3#8, 0xFF#8, 0#8]⟩] }) ∧
    (exec .getMessageTypeSupport s = .next { s with mctpOut := s.mctpOut ++ [⟨0, 5, 0, [2#8, 0x00#8, 0x7F#8]⟩] }) ∧
    (∀ i, s.ident = some i → s.stageDone 3 = true → exec .getEndpointUuid s = .next { s with mctpOut := s.mctpOut ++ [⟨0, 3, 0, i.uuid⟩] }) ∧
    (exec (.unsupportedControlCommand code) s = .next { s with mctpOut := s.mctpOut ++ [⟨0, code, 5, []⟩] })

/-- R576, R577: with no request held and its command available, each Lanigal request that reads is answered at once with the body the table gives and
changes nothing else; an address outside the register space or unaligned is answered with its status. R577: a register write by management is
answered, and does what the register's write does; a write of the flash or of the endorsement that nothing refuses starts its operation, and
`FLASH_OPERATION_COMPLETE` then answers it; `RESET` answers and resets. R577: a request held while another is being served waits its turn and is
answered in arrival order once the first has gone; the ninth held request is discarded and counted. -/
def Obligations.LanigalRequests : Prop :=
  (∀ (s : State) (nonce : List Byte) (i : Ident) (a : Nat), s.alive = true → s.mctp = [] → (s.flash.busy && s.flash.forMctp) = false → s.stageDone 1 = true →
     (exec .getBootStatus s = .next { s with mctpOut := s.mctpOut ++ [⟨0x7F, 1, stOk, leBytes 8 (s.word 0xF0000).toNat⟩] }) ∧
     (s.ident = some i → s.stageDone 3 = true → exec .getIdentity s =
       .next { s with mctpOut := s.mctpOut ++ [⟨0x7F, 2, stOk, leBytes 8 i.devId ++ i.pk ++ leBytes 8 (s.liveWord 0).toNat⟩] }) ∧
     (s.ident = some i → s.stageDone 3 = true → exec (.getReport nonce) s = .next { s with mctpOut := s.mctpOut ++ [⟨0x7F, 3, stOk, s.report i nonce⟩] }) ∧
     (s.stageDone 2 = true → a % 8 = 0 → a < 0x1000000 → (findReg a).isSome = true →
       exec (.regRead (0x400000000 + a)) s = .next { s with mctpOut := s.mctpOut ++ [⟨0x7F, 4, stOk, leBytes 8 (s.liveWord a).toNat⟩] }) ∧
     (s.stageDone 2 = true → a < 0x400000000 ∨ 0x410000000 ≤ a → exec (.regRead a) s = .next { s with mctpOut := s.mctpOut ++ [⟨0x7F, 4, eRange, []⟩] }) ∧
     (s.stageDone 2 = true → 0x400000000 ≤ a → a < 0x410000000 → a % 8 ≠ 0 →
       exec (.regRead a) s = .next { s with mctpOut := s.mctpOut ++ [⟨0x7F, 4, eAlign, []⟩] })) ∧
  (∀ (s : State) (a : Nat) (w : Word) (slot off len total : Nat) (data : List Byte), s.alive = true → s.mctp = [] → s.flash.busy = false → s.stageDone 1 = true →
     (s.stageDone 2 = true → a % 8 = 0 → a < 0x8000000 → regAt a = true → ∃ t, exec (.regWrite (0x400000000 + a) w) s = .next t ∧
       t.regs = ({ s with mctp := [.regWrite (0x400000000 + a) w] }.regWrite a w).regs ∧ t.mctpOut.getLast? = some ⟨0x7F, 5, stOk, []⟩) ∧
     (s.flashFound = true → s.flashRefuse slot off len 0 data = none → ∃ t, exec (.flashWrite slot off len 0 data) s = .next t ∧
       t.flash = { s.flash with busy := true, forMctp := true } ∧ t.mctp = [.flashWrite slot off len 0 data] ∧ t.mctpOut = s.mctpOut ∧ t.regs = s.regs) ∧
     (s.stageDone 3 = true → s.endorseRefuse off len total 0 data = none → ∃ t, exec (.endorseWrite off len total 0 data) s = .next t ∧
       t.flash = { s.flash with busy := true, forMctp := true } ∧ t.mctp = [.endorse off len total 0 data] ∧ t.mctpOut = s.mctpOut ∧ t.regs = s.regs) ∧
     (∃ t, exec .reset s = .next t ∧ t.rings = [] ∧ t.mem = [] ∧ t.locked = false ∧
       (s.klClients = [] → t.mctpOut = s.mctpOut ++ [⟨0x7F, 8, stOk, []⟩]))) ∧
  (∀ (s : State) (rest : List MReq), s.alive = true →
     (s.mctp = .bootStatus :: rest → s.stageDone 1 = true → (s.flash.busy && s.flash.forMctp) = false → ∃ t, exec .mctpDeferredAnswer s = .next t ∧
       t.mctp = rest ∧ t.mctpOut = s.mctpOut ++ [⟨0x7F, 1, stOk, leBytes 8 (s.word 0xF0000).toNat⟩] ∧ t.regs = s.regs) ∧
     (8 ≤ s.mctp.length → ∃ t, exec .getIdentity s = .next t ∧ t.mctp = s.mctp ∧ t.mctpOut = s.mctpOut ∧
       t.fld f_BOOT_MCTP_DROPS = min (s.fld f_BOOT_MCTP_DROPS + 1) (2 ^ f_BOOT_MCTP_DROPS.width - 1)) ∧
     (s.mctp ≠ [] → s.mctp.length < 8 → ∃ t, exec .getIdentity s = .next t ∧ t.mctp = s.mctp ++ [.identity] ∧ t.mctpOut = s.mctpOut ∧ t.regs = s.regs))

/-- R560, R577: the end of a flash write leaves the data at its place in a slot whose bytes were erased and answers the request; a timeout of it
answers `E_TIMEOUT`; the end of an enrolment completes stage 3. -/
def Obligations.FlashOperations : Prop :=
  ∀ (s : State) (slot off len : Nat) (data : List Byte) (rest : List MReq) (i : Ident), s.alive = true → s.flash.busy = true →
    (s.flash.forMctp = true → s.mctp = .flashWrite slot off len 0 data :: rest → off % 65536 = 0 → data.length ≤ 1024 →
      ∃ t, exec .flashOperationComplete s = .next t ∧ t.flash.busy = false ∧ t.mctp = rest ∧ t.mctpOut = s.mctpOut ++ [⟨0x7F, 6, stOk, []⟩] ∧
        (∀ k < data.length, t.flash.byteAt (slotBase slot + off + k) = data.getD k 0#8) ∧
        (∀ k, data.length ≤ k → k < 65536 → t.flash.byteAt (slotBase slot + off + k) = 0xFF#8) ∧
        (∀ b, b < slotBase slot + off ∨ slotBase slot + off + 65536 ≤ b → t.flash.byteAt b = s.flash.byteAt b)) ∧
    (s.flash.forMctp = true → s.mctp = .flashWrite slot off len 0 data :: rest → ∃ t, exec .flashOpTimeout s = .next t ∧ t.flash.busy = false ∧
      t.flash.data = s.flash.data ∧ t.mctp = rest ∧ t.mctpOut = s.mctpOut ++ [⟨0x7F, 6, eTimeout, []⟩] ∧ t.regs = s.regs) ∧
    (s.flash.forMctp = false → s.ident = some i → ∃ t, exec .flashOperationComplete s = .next t ∧ t.stageDone 3 = true ∧
      t.fld f_BOOT_STATUS_ENROLLED = 1 ∧ t.fld f_BOOT_STATUS_IDENT_OK = 1 ∧ t.flash.busy = false) ∧
    (s.flash.forMctp = false → s.failCode = 0 → ∃ t, exec .flashOpTimeout s = .next t ∧ t.fld f_BOOT_STATUS_FAIL = 4 ∧ t.ident = none)


/-! ### Carter -/

/-- R578, R579: a `START` of an idle channel whose addresses are aligned and in plain memory queues the channel behind the others; a misaligned one
ends at once with `E_ALIGN`; a `START` of a busy channel is counted and changes nothing else. R578, R580: the channel at the head of the queue moves
its next 64 bytes, in a source and a destination that do not overlap and that no other party holds; when all are moved it reads its last line back and
ends with `OK`. -/
def Obligations.Carter : Prop :=
  (∀ (s : State) (c : Nat) (w : Word), s.alive = true → c < 8 → f_CAR_CTL_START.get w = 1 →
     let src := s.fldAt f_CAR_SRC_ADDR c
     let dst := s.fldAt f_CAR_DST_ADDR c
     let n := s.fldAt f_CAR_COUNT_BYTES c
     (s.carActive c = false → src % 64 = 0 → dst % 64 = 0 → n % 64 = 0 → 64 ≤ n → n ≤ 2 ^ 40 - 64 → s.plainRange src n = true → s.plainRange dst n = true →
       ∃ t, exec (.carStart c w) s = .next t ∧ t.carter = s.carter ++ [c] ∧ t.fldAt f_CAR_STATUS_QUEUED c = 1 ∧ t.fldAt f_CAR_STATUS_DONE_BYTES c = 0 ∧
         s.RegsKept t [f_CAR_STATUS_BUSY.addr c]) ∧
     (s.carActive c = false → src % 64 ≠ 0 ∨ dst % 64 ≠ 0 ∨ n % 64 ≠ 0 → ∃ t, exec (.carStart c w) s = .next t ∧
       t.fldAt f_CAR_STATUS_STATUS c = eAlign ∧ t.carActive c = false ∧ s.RegsKept t [f_CAR_STATUS_BUSY.addr c] ∧ t.mem = s.mem) ∧
     (s.carActive c = true → ∃ t, exec (.carStart c w) s = .next t ∧ s.OnlyWords t [f_CAR_ERR_START_REJECTS.addr 0])) ∧
  (∀ (s u : State) (c : Nat) (g : Got), s.alive = true → c < 8 → s.carter.head? = some c →
     let src := s.fldAt f_CAR_SRC_ADDR c
     let dst := s.fldAt f_CAR_DST_ADDR c
     let n := s.fldAt f_CAR_COUNT_BYTES c
     let k := s.fldAt f_CAR_STATUS_DONE_BYTES c
     (let s1 := (s.setFldAt f_CAR_STATUS_QUEUED c 0).setFldAt f_CAR_STATUS_BUSY c 1
      k + 64 ≤ n → s1.carRead (src + k) = .ok g → g.poison = none → overlap src n (dst + k) 64 = false → s1.feWrite (dst + k) g.bytes = .ok u →
       ∃ t, exec (.carterChannelRun c) s = .next t ∧ t.mem = u.mem ∧ t.fldAt f_CAR_STATUS_DONE_BYTES c = (k + 64) % 2 ^ 40 ∧ t.carterLast = g.bytes) ∧
     (s.fldAt f_CAR_STATUS_BUSY c = 1 → n ≤ k → s.feRead (dst + n - 64) 64 = .ok g → g.bytes = s.carterLast → g.poison = none →
       ∃ t, exec (.carterChannelDone c) s = .next t ∧ t.fldAt f_CAR_STATUS_STATUS c = stOk ∧ t.carActive c = false ∧ t.mem = s.mem ∧ c ∉ t.carter))


/-! ### Rings and descriptors -/

/-- R80, R83, R84: `NOP` ends with `OK`; a `FENCE` ends only after every earlier descriptor of its ring has its record, with `OK`, or with `E_ABORTED`
cause 4 when it has `STOP_ON_ERROR` and its window holds an error. Nothing else changes. -/
def Obligations.NopAndFence : Prop :=
  ∀ (s : State) (slice ring idx : Nat) (d : Desc) (r : Ring), s.alive = true →
    (s.Runs ⟨slice, ring, idx⟩ 0x00 d → ∃ t, exec (.nop slice ring idx) s = .next t ∧ s.OnlyEnds t ⟨slice, ring, idx⟩ d stOk 0 0 0) ∧
    (s.Runs ⟨slice, ring, idx⟩ 0x01 d → s.ring slice ring = some r →
      ((∃ e, s.Before r idx e) → exec (.fence slice ring idx) s = .next s) ∧
      ((∀ e, ¬ s.Before r idx e) → (leAt d.raw 16 1 % 2 = 0 ∨ r.windowErr = false) →
        ∃ t, exec (.fence slice ring idx) s = .next t ∧ s.OnlyEnds t ⟨slice, ring, idx⟩ d stOk 0 0 0) ∧
      ((∀ e, ¬ s.Before r idx e) → leAt d.raw 16 1 % 2 = 1 → r.windowErr = true →
        ∃ t, exec (.fence slice ring idx) s = .next t ∧ s.OnlyEnds t ⟨slice, ring, idx⟩ d eAborted 8 4 0))

/-- R82: a descriptor with `WAIT` starts only after every earlier descriptor of its ring has completed; a later one may start while it has not. -/
def Obligations.WaitHoldsStart : Prop :=
  ∀ (s : State) (slice ring idx : Nat) (d : Desc) (r : Ring), s.alive = true → s.ring slice ring = some r → s.desc ⟨slice, ring, idx⟩ = some d →
    d.phase = .waiting →
    (d.waits = true → (∃ e, s.Before r idx e) → exec (.descriptorStart slice ring idx) s = .next s) ∧
    (d.waits = true → d.op = 0x00 → (∀ e, ¬ s.Before r idx e) → ∃ t, exec (.descriptorStart slice ring idx) s = .next t ∧
      t.desc ⟨slice, ring, idx⟩ = some { d with phase := .running, started := true, fills := [], engine := 0xF0 }) ∧
    (d.waits = false → d.op = 0x00 → (∀ e, s.Before r idx e → e.phase ≠ .waiting ∧ e.op ≠ 0x01) →
      ∃ t, exec (.descriptorStart slice ring idx) s = .next t ∧
        t.desc ⟨slice, ring, idx⟩ = some { d with phase := .running, started := true, fills := [], engine := 0xF0 })

/-- R83, R86, R92, R144, R288: a descriptor whose turn has come starts on its unit: the ring front end for `NOP`, `FENCE` and `INVAL`, the least
loaded of the slice's groups with an enabled array for `KV_APPEND` and `MERGE`, one of the slice's tile movers for `MOVE`, with the free numbers that
say which mover takes each of its units (log 7), a home bank of this ZV9 in its front end for a home operation. R235: a `TABLE_PUBLISH` takes a context
of the least loaded Gleaner that has one free, and waits while none has. Behind a `FENCE` without a record nothing starts. -/
def Obligations.DescriptorStarts : Prop :=
  ∀ (s : State) (slice ring idx : Nat) (d : Desc) (r : Ring), s.alive = true → s.ring slice ring = some r → s.desc ⟨slice, ring, idx⟩ = some d →
    d.phase = .waiting → d.waits = false →
    ((∃ e, s.Before r idx e ∧ e.op = 0x01 ∧ e.raw ≠ []) → exec (.descriptorStart slice ring idx) s = .next s) ∧
    ((∀ e, ¬ s.Before r idx e) →
      (d.op ∈ [0x00, 0x01, 0x3A] → ∃ t, exec (.descriptorStart slice ring idx) s = .next t ∧ t = { s with descs := t.descs } ∧
        s.OtherDescs t ⟨slice, ring, idx⟩ ∧ t.desc ⟨slice, ring, idx⟩ = some { d with phase := .running, started := true, fills := [], engine := 0xF0 }) ∧
      (d.op = 0x2A → leAt d.raw (homeNodeOff d.op) 2 = s.me → d.key.slice = slice →
        let free (e : Nat) := e ∈ s.gleanerCodes slice ∧ s.ctxUsed slice e < s.ctxMost slice e
        ((∀ e, ¬ free e) → exec (.descriptorStart slice ring idx) s = .next s) ∧
        ((∃ e, free e) → ∃ t e, exec (.descriptorStart slice ring idx) s = .next t ∧ free e ∧ (∀ h, free h → s.loadOf e ≤ s.loadOf h) ∧
          t.desc ⟨slice, ring, idx⟩ = some { d with phase := .running, started := true, fills := [], engine := 0xF0, ctx := [e] })) ∧
      (d.op ∈ [0x30, 0x31, 0x38, 0x39] → leAt d.raw (homeNodeOff d.op) 2 = s.me → ∃ t, exec (.descriptorStart slice ring idx) s = .next t ∧
        t.desc ⟨slice, ring, idx⟩ = some { d with phase := .running, started := true, fills := [], engine := 0xF0 }) ∧
      (d.op ∈ [0x10, 0x14] → d.key.slice = slice → (∃ g ∈ s.groups slice, s.enabledArrays g ≠ []) →
        ∃ t g, exec (.descriptorStart slice ring idx) s = .next t ∧ t.desc ⟨slice, ring, idx⟩ = some { d with phase := .running, started := true, fills := [], engine := g } ∧
          g ∈ s.groups slice ∧ s.enabledArrays g ≠ [] ∧ ∀ h ∈ s.groups slice, s.enabledArrays h ≠ [] → s.loadOf g ≤ s.loadOf h) ∧
      (d.op = 0x02 → d.key.slice = slice → s.fldAt f_SLC_MOVERS_MOVERS slice ≠ 0 →
        ∃ t m, exec (.descriptorStart slice ring idx) s = .next t ∧ m < 32 ∧ bit (s.fldAt f_SLC_MOVERS_MOVERS slice) m = true ∧
          t.desc ⟨slice, ring, idx⟩ = some { d with phase := .running, started := true, fills := [], engine := 0x40 + m, work := s.fresh } ∧
          t.fresh = s.fresh + (bits (d.at 32 8) 0 40 + 65535) / 65536))

/-- R85, R482, R506: a ring that does not run, whose completion queue is covered, whose slice is reset, or that finds no cell in the descriptor pool
consumes nothing. R75, R76, R87: the next descriptor of a ring that may consume and whose turn it is leaves the ring by the units it has: one that
passes every check waits to start; one that fails ends with the status of the first check that fails, not started and with no progress; an opcode that
no format has fails the first check with `E_FORMAT` at byte 0. R74: once 64 units have left the ring since its status block was written, the block is
written again, stated for a ring in client memory; before that it is only due. R97: when the first unit that a ring of this ZV9's memory reads next is
poisoned, exactly one unit is skipped and owes a record with `E_POISON` that names its slot. R505: the arbitration takes a waiting party below its
minimum before any other, the next in round-robin order, and else goes on with the party whose weight is not used up, or takes the next one. Rounds of
`WEIGHT` and the details of the weighted round robin are the model's (log 83, log 95). -/
def Obligations.Consumption : Prop :=
  (∀ (s : State) (slice ring : Nat) (r : Ring), s.alive = true → s.ring slice ring = some r →
     (r.state ≠ .running ∨ r.stopFence.isSome = true ∨ s.fldAt f_SLC_STATUS_BUSY slice = 1 ∨
       2 ^ r.log2cq ≤ (s.descs.filter (fun d => d.key.slice == slice && d.key.ring == ring)).length + sub32 r.cqProd r.cqCons ∨
       s.fld f_STORE_CARVE_DESC_CELLS ≤ (s.descs.filter (fun d => d.origin.isNone)).length ∨ sub32 r.sqProd r.sqCons = 0 ∧ r.loc = 0) →
     exec (.descriptorConsume slice ring []) s = .next s) ∧
  (∀ (s : State) (slice ring n : Nat) (r : Ring) (raw : List Byte), s.alive = true → s.ring slice ring = some r → s.mayConsume r = true →
     s.nextDesc r = .desc n raw →
     (s.hasShare r = false → exec (.descriptorConsume slice ring []) s = .next s) ∧
     (s.hasShare r = true → ∃ d : Desc, d.key = ⟨slice, ring, r.sqCons⟩ ∧ d.units = n ∧ d.raw = raw ∧ d.phase = .waiting ∧ d.started = false ∧
       d.progress = 0 ∧ d.epoch = (if leAt raw 8 4 = 0 ∨ r.fmt ≠ 3 then s.epoch else leAt raw 8 4) ∧
       (let next := (r.sqCons + n) % 2 ^ 32
        let leaves (e : Desc) := ∃ t q, exec (.descriptorConsume slice ring []) s = .next t ∧ t.descs = s.descs ++ [e] ∧ t.ring slice ring = some q ∧
          q.sqCons = next ∧ q.sqProd = r.sqProd ∧ q.cqProd = r.cqProd ∧ q.state = .running ∧
          (sub32 next r.stCons < 64 → q.stDirty = true ∧ q.stCons = r.stCons ∧ (s.fld f_SCR_CTL_ENABLE = 0 → t.mem = s.mem)) ∧
          (64 ≤ sub32 next r.stCons → q.stDirty = false ∧ q.stCons = next ∧ ∃ tag b, t.queue.getLast? = some ⟨12, r.port, .kl (mkKl 0x42 4 tag r.stAddr 0 b), none⟩ ∧
            b.length = 64 ∧ leAt b 0 4 = next)
        (sub32 next r.stCons < 64 ∨ s.clientRing r →
          (s.judgeDesc r d = .ok () → leaves d) ∧
          (∀ f, s.judgeDesc r d = .error (.err f) → leaves { d with phase := .ended, status := f.status, kind := f.kind, detail := f.detail }))) ∧
       (opRow (leAt raw 0 1) = none → s.judgeDesc r d = .error (.err ⟨eFormat, 3, 0⟩)))) ∧
  (∀ (s : State) (slice ring : Nat) (r : Ring) (g : Got), s.alive = true → s.ring slice ring = some r → s.mayConsume r = true → s.hasShare r = true →
     r.loc = 0 → sub32 r.sqProd r.sqCons ≠ 0 → s.feRead (r.sqAddr + 64 * (r.sqCons % 2 ^ r.log2sq)) 64 = .ok g → g.poison.isSome = true →
     sub32 ((r.sqCons + 1) % 2 ^ 32) r.stCons < 64 →
     ∃ t d, exec (.descriptorConsume slice ring []) s = .next t ∧ t.descs = s.descs ++ [d] ∧ d.key = ⟨slice, ring, r.sqCons⟩ ∧ d.units = 1 ∧ d.raw = [] ∧
       d.phase = .ended ∧ d.status = ePoison ∧ d.kind = 2 ∧ d.detail = r.sqAddr + 64 * (r.sqCons % 2 ^ r.log2sq) ∧ d.started = false ∧
       d.progress = 0 ∧ d.engine = 0xF0 ∧ d.det = 3 ∧ ∃ q, t.ring slice ring = some q ∧ q.sqCons = (r.sqCons + 1) % 2 ^ 32) ∧
  (∀ (x : Share) (waiting : List Nat) (wt least : Nat → Nat) (cap : Nat),
     let low (p : Nat) := p ∈ waiting ∧ 256 * look 0 x.served p < least p * cap
     let follows (last p : Nat) (among : Nat → Prop) := among p ∧ ∀ y, among y → (if last < p then y ≤ last ∨ p ≤ y else y ≤ last ∧ p ≤ y)
     ((∃ p, low p) → ∃ p, x.pick waiting wt least cap = some (p, true) ∧ follows x.minPos p low) ∧
     ((∀ p, ¬ low p) → x.pos ∈ waiting → x.used < wt x.pos → x.pick waiting wt least cap = some (x.pos, false)) ∧
     ((∀ p, ¬ low p) → ¬ (x.pos ∈ waiting ∧ x.used < wt x.pos) → waiting ≠ [] → ∃ p, x.pick waiting wt least cap = some (p, false) ∧
       follows x.pos p (· ∈ waiting)))

/-- R89, R90: the 32 bytes of a record: tag, status, opcode, flags, engine, index, progress, detail and stamp; the phase bit of the n-th record is 1
when n ÷ 2^`LOG2_CQ` is even. R89, R91, R98, R459: the record of a descriptor that has ended and owes nothing is written to the slot of `CQ_PROD`:
sent to the client that holds the ring, or into this ZV9's memory; the descriptor leaves and `CQ_PROD` rises by one. After it, only the messages go out
that end its lookups at other ZV9s (R58, log 107). A client that is not reached
faults the ring, which takes no record afterwards. Stated for a ring without interrupts and with the Scrivener off. R74: the status block of a ring is
written when a field has changed, with the layout of the rule; an unchanged one is not. -/
def Obligations.Records : Prop :=
  (∀ (s : State) (r : Ring) (d : Desc), d.raw ≠ [] → d.det < 4 → d.kind < 16 →
     let b := s.record32 r d
     b.length = 32 ∧ leAt b 0 4 = d.tag ∧ leAt b 4 1 = d.status % 256 ∧ leAt b 5 1 = d.op ∧ leAt b 6 1 % 2 = (if r.cqProd / 2 ^ r.log2cq % 2 = 0 then 1 else 0) ∧
     leAt b 6 1 / 2 % 4 = d.det ∧ bit (leAt b 6 1) 3 = d.started ∧ leAt b 6 1 / 16 = d.kind ∧ leAt b 7 1 = d.engine % 256 ∧
     leAt b 8 4 = d.key.idx % 2 ^ 32 ∧ leAt b 12 4 = d.progress % 2 ^ 32 ∧ leAt b 16 8 = d.detail % 2 ^ 64 ∧ leAt b 24 8 = s.now) ∧
  (∀ (s : State) (slice ring idx : Nat) (r : Ring) (d : Desc), s.alive = true → s.ring slice ring = some r → s.desc ⟨slice, ring, idx⟩ = some d →
     d.phase = .ended → s.outReqs = [] → s.sweeps = [] → d.op ≠ 0x01 → r.stopFence ≠ some idx → r.state ≠ .faulted → r.destroying = 0 → r.vector = 0xFFFF →
     s.fldAt f_FLT_SLICE_JOB_STATE slice ≠ 1 → s.fld f_SCR_CTL_ENABLE = 0 → (∀ f ∈ s.frames, f.owner < 64 ∧ f.tier < 4) →
     let a := r.cqAddr + 32 * (r.cqProd % 2 ^ r.log2cq)
     (s.clientRing r → ∃ t, exec (.descriptorComplete slice ring idx) s = .next t ∧ t.desc ⟨slice, ring, idx⟩ = none ∧
       (∃ ends, t.queue = s.queue ++ ⟨12, r.port, .kl (mkKl 0x42 4 s.nextTag a 0 (s.record32 r d)), none⟩ :: ends ∧ (d.lenders = [] → ends = [])) ∧
       t.mem = s.mem ∧ s.OtherDescs t ⟨slice, ring, idx⟩ ∧
       ∃ q, t.ring slice ring = some q ∧ q.cqProd = (r.cqProd + 1) % 2 ^ 32 ∧ q.sqCons = r.sqCons ∧ q.windowErr = (r.windowErr || decide (0x10 ≤ d.status))) ∧
     (∀ u, r.loc = 0 → s.feWrite a (s.record32 r d) = .ok u → u.rings = s.rings → u.descs = s.descs → u.regs = s.regs → u.frames = s.frames →
       ∃ t, exec (.descriptorComplete slice ring idx) s = .next t ∧ t.desc ⟨slice, ring, idx⟩ = none ∧ t.mem = u.mem ∧
         ∃ q, t.ring slice ring = some q ∧ q.cqProd = (r.cqProd + 1) % 2 ^ 32) ∧
     (r.loc = 1 → s.klUp r.port = false → s.flag f_FLT_CTL_INT_EN = false → ∃ t, exec (.descriptorComplete slice ring idx) s = .next t ∧
       t.desc ⟨slice, ring, idx⟩ = none ∧ (∃ q, t.ring slice ring = some q ∧ q.state = .faulted) ∧ t.fld f_FLT_SEQ_SEQ = (s.fld f_FLT_SEQ_SEQ + 1) % 2 ^ 64)) ∧
  (∀ (s : State) (slice ring : Nat) (r : Ring), s.alive = true → s.ring slice ring = some r →
     (let b := s.statusBlock r
      b.length = 64 ∧ leAt b 0 4 = r.sqCons % 2 ^ 32 ∧ leAt b 4 4 = r.sqProd % 2 ^ 32 ∧ leAt b 8 4 = r.cqProd % 2 ^ 32 ∧ leAt b 12 4 = r.cqCons % 2 ^ 32 ∧
      leAt b 16 1 = (match r.state with | .running => 1 | .halted => 2 | .stopping => 3 | .faulted => 4) ∧ leAt b 17 1 = r.fmt % 256 ∧
      leAt b 20 4 = r.dbRejects % 2 ^ 32 ∧ leAt b 24 4 = (s.descs.filter (fun d => d.key.slice == slice && d.key.ring == ring)).length % 2 ^ 32 ∧
      leAt b 32 8 = s.now ∧ zeros b 40 24 = true) ∧
     (r.stDirty = false → exec (.ringStatusBlockWrite slice ring) s = .next s) ∧
     (r.stDirty = true → s.clientRing r → ∃ t, exec (.ringStatusBlockWrite slice ring) s = .next t ∧
       t.queue = s.queue ++ [⟨12, r.port, .kl (mkKl 0x42 4 s.nextTag r.stAddr 0 (s.statusBlock r)), none⟩] ∧
       t.ring slice ring = some { r with stDirty := false, stCons := r.sqCons } ∧ t.descs = s.descs ∧ t.mem = s.mem ∧ t.regs = s.regs) ∧
     (∀ u, r.stDirty = true → r.loc = 0 → s.feWrite r.stAddr (s.statusBlock r) = .ok u → u.rings = s.rings →
       ∃ t, exec (.ringStatusBlockWrite slice ring) s = .next t ∧ t.mem = u.mem ∧ t.ring slice ring = some { r with stDirty := false, stCons := r.sqCons }))

/-- R70, R72: a store to the SQ doorbell word is accepted exactly when its reserved bits are zero, the new producer value covers no more than the ring
holds and does not move back, and the slice is not reset; an accepted value is the ring's new producer value and changes nothing else, with `RESUME`
it also sets a halted ring running, and slots that were read ahead are read again (R84). R69: a store to a doorbell word of a ring that is not in use
is counted in `RING_ERR.DB_REJECTS` and has no other effect. -/
def Obligations.SqDoorbells : Prop :=
  (∀ (s : State) (slice ring : Nat) (r : Ring) (w : Word), s.alive = true → s.ring slice ring = some r → s.fldAt f_SLC_STATUS_BUSY slice = 0 →
     let p := w.toNat % 2 ^ 32
     let c := if w.getLsbD 63 then Instr.sqDoorbellResume slice ring w else Instr.sqDoorbell slice ring w
     let good := w.toNat / 2 ^ 32 % 2 ^ 31 = 0 ∧ sub32 p r.sqCons ≤ 2 ^ r.log2sq ∧ sub32 p r.sqProd < 2 ^ 31
     (good → (w.getLsbD 63 = false ∨ r.state ≠ .halted) → ∃ t, exec c s = .next t ∧ s.OnlyRings t ∧ s.OtherRings t slice ring ∧
       t.ring slice ring = some { r with sqProd := p, stDirty := true }) ∧
     (good → w.getLsbD 63 = true → r.state = .halted → s.clientRing r → ∃ t q, exec c s = .next t ∧ t.ring slice ring = some q ∧ q.state = .running ∧
       q.sqProd = p ∧ q.sqCons = r.sqCons ∧ q.pre = [] ∧ t.descs = s.descs ∧ t.mem = s.mem) ∧
     (¬ good → s.flag f_FLT_CTL_INT_EN = false → ∃ t, exec c s = .next t ∧
       t.ring slice ring = some { r with dbRejects := min (r.dbRejects + 1) (2 ^ 32 - 1), stDirty := true } ∧ t.descs = s.descs ∧
       t.fld f_FLT_SEQ_SEQ = (s.fld f_FLT_SEQ_SEQ + 1) % 2 ^ 64)) ∧
  (∀ (s : State) (slice ring : Nat) (w : Word), s.alive = true → s.ring slice ring = none →
     (∃ t, exec (.cqDoorbell slice ring w) s = .next t ∧ s.OnlyWords t [f_RING_ERR_DB_REJECTS.addr 0] ∧
       t.fld f_RING_ERR_DB_REJECTS = min (s.fld f_RING_ERR_DB_REJECTS + 1) (2 ^ f_RING_ERR_DB_REJECTS.width - 1)) ∧
     (w.getLsbD 63 = false → exec (.sqDoorbell slice ring w) s = exec (.cqDoorbell slice ring w) s) ∧
     (w.getLsbD 63 = true → exec (.sqDoorbellResume slice ring w) s = exec (.cqDoorbell slice ring w) s))

/-- R71: `CONSUMER` is accepted only if it lies between the last accepted value and `CQ_PROD`, counted modulo 2^32, in a word whose bits [63:32] are
zero. -/
def Obligations.CqDoorbellWrites : Prop :=
  ∀ (s : State) (slice ring : Nat) (r : Ring) (w : Word), s.alive = true → s.ring slice ring = some r → s.fldAt f_SLC_STATUS_BUSY slice = 0 →
    let c := w.toNat % 2 ^ 32
    let good := w.toNat < 2 ^ 32 ∧ (c + 2 ^ 32 - r.cqCons % 2 ^ 32) % 2 ^ 32 ≤ (r.cqProd + 2 ^ 32 - r.cqCons % 2 ^ 32) % 2 ^ 32
    (good → ∃ t, exec (.cqDoorbell slice ring w) s = .next t ∧ s.OnlyRings t ∧ s.OtherRings t slice ring ∧
      t.ring slice ring = some { r with cqCons := c, stDirty := true }) ∧
    (¬ good → ∃ t q, exec (.cqDoorbell slice ring w) s = .next t ∧ t.ring slice ring = some q ∧ q.cqCons = r.cqCons ∧ q.sqProd = r.sqProd)

/-- R64 to R68: a ring request that passes every check creates a running ring with all indices zero and the highest format that both sides have; the
first check that fails leaves its status and field and nothing else; a command while one is busy is only counted. Stated for a ring in client memory.
R67: both destructions of a ring in client memory stop consumption at once; the draining one ends when no descriptor is left and every record is
acknowledged; the aborting one ends each descriptor that has not ended with `E_ABORTED` cause 3. -/
def Obligations.RingsComeAndGo : Prop :=
  (∀ (s : State) (addr : Nat) (g : Got), s.alive = true →
     (s.flag f_RING_CMD_STATUS_BUSY = true → ∃ t, exec (.ringCreate addr) s = .next t ∧ s.OnlyWords t [f_RING_ERR_CMD_COLLISIONS.addr 0] ∧
       t.fld f_RING_ERR_CMD_COLLISIONS = min (s.fld f_RING_ERR_CMD_COLLISIONS + 1) (2 ^ f_RING_ERR_CMD_COLLISIONS.width - 1)) ∧
     (s.flag f_RING_CMD_STATUS_BUSY = false → s.plainRange (64 * addr) 64 = false → ∃ t, exec (.ringCreate addr) s = .next t ∧
       s.OnlyWords t [f_RING_CMD_STATUS_STATUS.addr 0] ∧ t.fld f_RING_CMD_STATUS_STATUS = eRange ∧ t.fld f_RING_CMD_STATUS_FIELD = 0xFF) ∧
     (s.flag f_RING_CMD_STATUS_BUSY = false → s.plainRange (64 * addr) 64 = true → s.feRead (64 * addr) 64 = .ok g → g.poison = none →
       let q := g.bytes
       (∀ c, (s.ringChecks q).find? (fun c => !c.1) = some c → ∃ t, exec (.ringCreate addr) s = .next t ∧
         s.OnlyWords t [f_RING_CMD_STATUS_STATUS.addr 0] ∧ t.fld f_RING_CMD_STATUS_STATUS = c.2.1 % 256 ∧
         (c.2.1 ≠ stOk → t.fld f_RING_CMD_STATUS_FIELD = c.2.2 % 256)) ∧
       (leAt q 32 1 ≠ 1 → leAt q 33 1 ≠ 0 → (s.ringChecks q).find? (fun c => !c.1) = some (false, eFormat, 33)) ∧
       ((s.ringChecks q).find? (fun c => !c.1) = none → leAt q 32 1 = 1 → ∃ t r, exec (.ringCreate addr) s = .next t ∧
         t.rings = s.rings ++ [r] ∧ r.slice = leAt q 0 1 ∧ r.num = leAt q 1 1 ∧ r.state = .running ∧ r.sqCons = 0 ∧ r.sqProd = 0 ∧ r.cqProd = 0 ∧
         r.cqCons = 0 ∧ r.fmt = min (leAt q 5 1) 3 ∧ r.log2sq = leAt q 2 1 ∧ r.log2cq = leAt q 3 1 ∧ r.sqAddr = leAt q 8 8 ∧ r.cqAddr = leAt q 16 8 ∧
         r.stAddr = leAt q 24 8 ∧ r.vector = leAt q 6 2 ∧ t.fld f_RING_CMD_STATUS_STATUS = stOk ∧ t.fld f_RING_CMD_STATUS_FORMAT = r.fmt ∧
         t.descs = s.descs ∧ t.mem = s.mem))) ∧
  (∀ (s : State) (addr slice ring : Nat) (g : Got) (r : Ring), s.alive = true → s.ring slice ring = some r → s.clientRing r → r.state = .running →
     s.flag f_RING_CMD_STATUS_BUSY = false → s.plainRange (64 * addr) 64 = true → s.feRead (64 * addr) 64 = .ok g → g.poison = none →
     s.configured slice = true → s.fldAt f_SLC_STATUS_BUSY slice = 0 → leAt g.bytes 0 1 = slice → leAt g.bytes 1 1 = ring → zeros g.bytes 2 62 = true →
     (∃ t q, exec (.destroyDrain addr) s = .next t ∧ t.ring slice ring = some q ∧ q.state = .stopping ∧ q.destroying = 2 ∧ t.descs = s.descs ∧
       t.fld f_RING_CMD_STATUS_BUSY = 1 ∧ t.mem = s.mem) ∧
     (s.outReqs = [] → ∃ t, exec (.destroyAbort addr) s = .next t ∧
       (∀ d ∈ t.descs, d.key.slice = slice → d.key.ring = ring → d.phase = .ended) ∧
       (∀ k d, k.slice = slice → k.ring = ring → s.desc k = some d → d.phase ≠ .ended → ∃ e, t.desc k = some e ∧ e.phase = .ended ∧
         e.status = eAborted ∧ e.kind = 8 ∧ e.detail = 3 ∧ e.raw = d.raw) ∧
       (∀ k, (k.slice ≠ slice ∨ k.ring ≠ ring) → t.desc k = s.desc k) ∧ t.mem = s.mem) ∧
     (∀ s1 : State, s1.alive = true → s1.ring slice ring = some { r with state := .stopping, destroying := 2 } →
       (∀ d ∈ s1.descs, d.key.slice = slice → d.key.ring ≠ ring) → s1.klOuts = [] → s1.outReqs = [] →
       ∃ t, exec (.destroyDrainDone slice ring) s1 = .next t ∧ t.ring slice ring = none ∧ s1.OtherRings t slice ring ∧
         t.fld f_RING_CMD_STATUS_BUSY = 0 ∧ t.fld f_RING_CMD_STATUS_STATUS = stOk ∧ t.descs = s1.descs ∧ t.mem = s1.mem))


/-! ### Engines, tables and home operations -/

/-- R124 to R127, R131: a superaccumulator's result depends neither on the order of the addends nor on how they are shared out between two that are
combined; its 32 bytes read back as they were written, and 32 bytes with a reserved bit set are refused. -/
def Obligations.SuperaccumulatorOrder : Prop :=
  (∀ xs ys zs : List Machine.Num, (xs ++ ys).Perm zs →
    (xs.foldl SAcc.add SAcc.zero).comb (ys.foldl SAcc.add SAcc.zero) = zs.foldl SAcc.add SAcc.zero) ∧
  (∀ xs : List Machine.Num, xs.length < 2 ^ 64 → (xs.foldl SAcc.add SAcc.zero).bytes.length = 32 ∧
    SAcc.ofBytes (xs.foldl SAcc.add SAcc.zero).bytes = some (xs.foldl SAcc.add SAcc.zero)) ∧
  (∀ bs : List Byte, leAt bs 23 1 ≠ 0 ∨ 16 ≤ leAt bs 22 1 → SAcc.ofBytes bs = none)

/-- R113, R116, R118: converting the value of an encoding of a floating-point format gives the encoding back, unless it is a NaN; the greater of two
FP32 values does not depend on their order, nor that of three on how they are paired. -/
def Obligations.NumberFormats : Prop :=
  (∀ f ∈ [fFP32, fBF16, fFP16, fE4M3, fE5M2, fE3M2, fE2M3, fE2M1], ∀ v < 2 ^ (1 + f.eb + f.mb), f.dec v ≠ .nan → f.enc (f.dec v) = v) ∧
  (∀ a b c : Nat, max32 (f32 a) (f32 b) = max32 (f32 b) (f32 a) ∧
    max32 (max32 (f32 a) (f32 b)) (f32 c) = max32 (f32 a) (max32 (f32 b) (f32 c)))

/-- R155 to R157: no row attends an excluded position, nor with `CAUSAL` one after its own; a forced position is attended whatever was selected; a
position outside the window that is not forced is not. R87, R89, R176, R182, R183, R186, R215, R246: an engine's operation whose run answers ends its
descriptor with the status, the `DETAIL` and the progress of the run, and one whose run meets an error ends it with that error; every other
descriptor stays as it was. A `MERGE` whose blocks differ is rejected, names the block and writes no row; one whose blocks are read and judged writes
its rows once no write of its own is owed. A `SEARCH` reads and judges its probe list once, before any result (R214), and goes on with the next query
only when the block of the one before it is written (R224). An attention descriptor waits while its group has no enabled array (R109), and one that selects by codes
waits while its slice has no free context (R201, R227). Errors of arrays that ran none of its passes are not its own (R107, R109). -/
def Obligations.EnginesEndDescriptors : Prop :=
  (∀ (a : Att) (sel : Attended) (r t p : Nat),
     let qp := a.d.qpos r
     let sink := bits (a.d.at 104 8) 0 48 ≤ p ∧ p < bits (a.d.at 112 8) 0 48
     let recent := 0 < a.d.at 100 4 ∧ p ≤ qp ∧ qp < p + a.d.at 100 4
     let excluded := ∃ e < a.d.at 85 1, bits (a.d.at (128 + 16 * e) 8) 0 48 ≤ p ∧ p < bits (a.d.at (136 + 16 * e) 8) 0 48
     let late := bit (a.d.at 84 1) 0 = true ∧ qp < p
     (excluded ∨ late → a.attends sel r t p = false) ∧
     (¬ excluded → ¬ late → sink ∨ recent → a.attends sel r t p = true) ∧
     (¬ sink → ¬ recent → a.d.at 96 4 ≠ 0 → p + a.d.at 96 4 ≤ qp → a.attends sel r t p = false)) ∧
  (∀ (s : State) (slice ring idx : Nat) (d : Desc) (c : Instr) (op : Nat) (errs : List ArrErr), s.alive = true →
     s.Runs ⟨slice, ring, idx⟩ op d →
     let ends (e : Desc) := ∃ t, exec c s = .next t ∧ s.OtherDescs t ⟨slice, ring, idx⟩ ∧ t.desc ⟨slice, ring, idx⟩ = some e
     let failed (f : Fail) := ends (d.endedWith f.status f.kind f.detail d.progress)
     let done (o : Done) := o.more = none → o.eff.out = [] → s.OtherDescs o.eff.s ⟨slice, ring, idx⟩ →
       ∀ e, o.eff.s.desc ⟨slice, ring, idx⟩ = some e → ends (e.endedWith o.status o.kind o.detail o.progress)
     let byCode := (d.at 79 1 = 2 ∨ d.at 79 1 = 3) ∧ d.picked = none
     (op = 0x11 ∧ c = .attend slice ring idx errs ∨ op = 0x12 ∧ c = .attendMax slice ring idx errs ∨ op = 0x13 ∧ c = .attendSum slice ring idx errs →
       (byCode → s.takeContexts d = none → exec c s = .next s) ∧
       (¬ byCode → s.enabledArrays d.engine = [] → exec c s = .next s) ∧
       (¬ byCode → s.enabledArrays d.engine ≠ [] →
         let r := s.attRun d (s.passErrs d.engine errs)
         (∀ f, r = .error (.err f) → failed f) ∧ (∀ o ts, r = .ok (o, ts) → done o))) ∧
     (op = 0x14 → c = .merge slice ring idx →
       (d.work = 1 → s.owesWrites d.key = true → exec c s = .next s) ∧
       (d.work = 1 → s.owesWrites d.key = false → done (s.mergeRows d)) ∧
       (d.work ≠ 1 → (∀ f, s.mergePlan d = .error (.err f) → failed f) ∧
         (∀ a, s.mergePlan d = .ok (.error a) → ends (d.endedWith eRange 2 a 0)) ∧
         (∀ rows, s.mergePlan d = .ok (.ok rows) → s.owesWrites d.key = false →
           let d1 := { d with work := 1, plan := rows }
           done (((s.setDesc d1).noteTouches slice (s.mergeTouches d)).mergeRows d1)))) ∧
     (∀ pin ps, op = 0x20 → c = .search slice ring idx → d.pins = pin :: ps →
       let x := indexAt d.startRecord (rrefAt d.raw 16).offset
       let goes (u : State) (e : Desc) :=
         let (s1, d1) := u.blockWritten e
         done (State.queries pin x (d1.plan.map (fun l => (l.1, leNat l.2))) (d1.at 58 1 - d1.progress) d1.progress { s := s1, out := [] } d1)
       (d.sMode = 0 → d.plan = [] →
         (∀ f, phased 1 (s.probes d pin x) = .error (.err f) → failed f) ∧
         (∀ a, s.probes d pin x = .ok (.error a) → ends (d.endedWith eRange 2 a 0)) ∧
         (∀ ls, s.probes d pin x = .ok (.ok ls) → s.owesWrites d.key = false →
           let e := { d with plan := ls.map (fun l => (l.1, leBytes 4 l.2)) }
           goes ((s.setDesc e).noteTouches slice [⟨uAsy (d.partAsy 0), d.at 48 8, 4 * d.at 60 4, true⟩]) e)) ∧
       (d.sMode ≠ 0 ∨ d.plan ≠ [] →
         (s.owesWrites d.key = true → exec c s = .next s) ∧ (s.owesWrites d.key = false → goes s d))) ∧
     (op = 0x28 → c = .gather slice ring idx →
       (d.gMode = 2 → d.work ≠ 0 → done (s.gatherRun d d.addrRows)) ∧ (d.gMode ≠ 2 → 5 ≤ d.work → done (s.gatherRun d d.tableRows)) ∧
       (d.gMode ≠ 2 → d.work = 0 → ∀ f, s.glnRoot d = .ok (.error f) → ends (d.endedWith f.status f.kind f.detail 0)))) ∧
  (∀ (s : State) (e : Nat) (errs : List ArrErr) (x : ArrErr), x ∈ s.passErrs e errs →
     x ∈ errs ∧ x.array / 8 = e ∧ bit (s.fld f_ARR_DISABLE_ARRAY) x.array = false)

/-- R277, R289: a `MOVE` of at most one tile between two ranges of this ZV9's memory that do not overlap writes the source's bytes at the destination:
memory is then what that one write leaves, and the descriptor ends with `OK` and `PROGRESS` 1 by the mover that took its unit. A unit whose tags differ
twice ends with `E_INTEGRITY` and writes nothing. Stated with no migration counting and no Scrivener. -/
def Obligations.MoveCopies : Prop :=
  ∀ (s w : State) (slice ring idx la lb : Nat) (tags : List Nat) (d : Desc) (g : Got), s.alive = true → s.Runs ⟨slice, ring, idx⟩ 0x02 d →
    let n := bits (d.at 32 8) 0 40
    let m := s.mover d 0
    let u := uMov m
    let s1 := { s with fresh := s.fresh + n }
    0 < n → n ≤ 65536 → d.progress = 0 → s.me < 0x8000 →
    (∀ p ∈ s.srcPieces (uMov (d.engine - 0x40)) slice (d.at 16 8) n, p.node ≠ s.me ∨ p.loc + p.len ≤ lb ∨ lb + n ≤ p.loc) →
    s.xlate u slice (d.at 16 8) n rRead = .ok [⟨d.at 16 8, s.me, la, n⟩] →
    s.xlate u slice (d.at 24 8) n rWrite = .ok [⟨d.at 24 8, s.me, lb, n⟩] →
    s1.xlate u slice (d.at 24 8) n rWrite = .ok [⟨d.at 24 8, s.me, lb, n⟩] →
    s.homeRead (d.by s) la n = .ok g → g.poison = none → g.bytes.length = n →
    (0 ∉ tags → s1.homeWrite (d.by s1) lb g.bytes false = .ok w → w.descs = s.descs → w.fld f_XL_MIG_CTL_ENABLE = 0 → w.fld f_SCR_CTL_ENABLE = 0 →
      ∃ t, exec (.move slice ring idx tags) s = .next t ∧ t.mem = w.mem ∧ s.OtherDescs t ⟨slice, ring, idx⟩ ∧
        ((∀ i < n, ∀ x, w.placeOf (la + i) ≠ .tile x) → t.frames = w.frames) ∧
        t.desc ⟨slice, ring, idx⟩ = some ({ d with engine := 0x40 + m }.endedWith stOk 0 0 1)) ∧
    (2 ≤ tags.count 0 → s.fld f_FLT_LOG_RING_LOG2 = 0 → s.fld f_XL_MIG_CTL_ENABLE = 0 → s.fld f_SCR_CTL_ENABLE = 0 →
      ∃ t, exec (.move slice ring idx tags) s = .next t ∧ t.mem = s.mem ∧ s.OtherDescs t ⟨slice, ring, idx⟩ ∧
        t.desc ⟨slice, ring, idx⟩ = some (d.endedWith eIntegrity 2 (s.moveTileAddr d 0).2 0))

/-- R161 to R165: a started `KV_APPEND` joins the queue of its region once; the first of the queue is judged again, and either ends with what the
checks say, `STARTED` 0 and nothing appended, or appends and leaves the queue; another of the queue waits. R243: a lookup of a `PUBLISHED` table whose
resolution exceeds its bound ends with `E_TIMEOUT` in phase 2 and is counted. R252 to R258: an update whose list holds a misaligned
address ends not started (R254); one whose first phase fails ends with that fault and writes nothing; one whose first phase passes takes its working buffer and its place in its region's queue when the slice's carve-out has room, keeps
what the phase read, and makes its update when its turn has come. -/
def Obligations.AppendsAndUpdates : Prop :=
  (∀ (s : State) (slice ring idx : Nat) (d : Desc) (q : Queue), s.alive = true → s.Runs ⟨slice, ring, idx⟩ 0x10 d →
     let k : DKey := ⟨slice, ring, idx⟩
     let region := (rrefAt d.raw 16).region
     let judged : Res (List (Nat × List Byte)) := phased 2 (do
       let p ← s.refPin (rrefAt d.raw 16)
       let ts ← s.appendChecks d p
       gather (ts.map (fun t => (s.verRead p t.off 256).map (fun raw => (t.off, raw)))))
     let appends (u : State) (p : Pin) (e : Desc) :=
       let o := u.appendRun e p e.appendTo
       o.eff.out = [] → o.more = none → o.eff.s.descs = u.descs →
         ∃ t, exec (.kvAppendExecute slice ring idx) s = .next t ∧ t.desc k = some (e.endedWith o.status o.kind o.detail o.progress) ∧
           (∀ x ∈ t.queues, x.key ≠ k) ∧ s.OtherDescs t k
     (s.queues.any (fun x => x.key == k) = false → exec (.kvAppend slice ring idx) s = .next { s with queues := s.queues ++ [{ what := region, key := k }] }) ∧
     (s.queues.any (fun x => x.key == k) = true → exec (.kvAppend slice ring idx) s = .next s) ∧
     (s.queues.find? (fun x => x.what == region) = some q → q.key ≠ k → exec (.kvAppendExecute slice ring idx) s = .next s) ∧
     (∀ f, s.queues.find? (fun x => x.what == region) = some q → q.key = k → d.work = 0 → judged = .error (.err f) →
       ∃ t, exec (.kvAppendExecute slice ring idx) s = .next t ∧ t.desc k = some ({ d with started := false }.endedWith f.status f.kind f.detail 0) ∧
         (∀ x ∈ t.queues, x.key ≠ k) ∧ t.mem = s.mem ∧ t.frames = s.frames ∧ s.OtherDescs t k) ∧
     (∀ p raws, s.queues.find? (fun x => x.what == region) = some q → q.key = k → d.work = 0 → judged = .ok raws → s.refPin (rrefAt d.raw 16) = .ok p →
       let e := { d with work := 1, plan := raws }
       appends (s.setDesc e) p e) ∧
     (∀ p, s.queues.find? (fun x => x.what == region) = some q → q.key = k → d.work ≠ 0 → s.refPin (rrefAt d.raw 16) = .ok p → appends s p d)) ∧
  (∀ (s : State) (slice ring idx : Nat) (d : Desc), s.alive = true →
     let k : DKey := ⟨slice, ring, idx⟩
     (s.Runs k 0x28 d → d.gMode = 0 → 1 ≤ d.work → d.work ≤ 4 → ∃ t, exec (.pinTimeout slice ring idx) s = .next t ∧
       t.desc k = some (d.endedWith eTimeout 7 (detail7 (tableSrc d).node 2 3) (s.doneUnits d)) ∧ s.OtherDescs t k ∧ t.mem = s.mem ∧
       t.fld f_GLN_ERR_PIN_TIMEOUTS = min (s.fld f_GLN_ERR_PIN_TIMEOUTS + 1) (2 ^ f_GLN_ERR_PIN_TIMEOUTS.width - 1)) ∧
     (s.Runs k 0x29 d → d.work = 0 →
       (∀ a, s.blockAddrs d = .ok (.error a) → ∃ t, exec (.scatterUpdate slice ring idx) s = .next t ∧ t = { s with descs := t.descs } ∧
         t.desc k = some ({ d with started := false, engine := 0xF0 }.endedWith eAlign 2 a 0) ∧ s.OtherDescs t k) ∧
       (∀ as, s.blockAddrs d = .ok (.ok as) →
         let fails (e : PlanEnd) := ∀ f, e ∈ [PlanEnd.record f, .block f, .other f] → ∃ t, exec (.scatterUpdate slice ring idx) s = .next t ∧
           t.desc k = some (d.endedWith f.status f.kind f.detail 0) ∧ s.OtherDescs t k ∧ t.queues = s.queues ∧
           (s.fld f_XL_MIG_CTL_ENABLE = 0 → s.fld f_SCR_CTL_ENABLE = 0 → t.mem = s.mem)
         (∀ e, s.scatterTable d = .ok e → fails e) ∧
         (∀ kept e, s.scatterTable d = .ok (.go kept) → s.scatterBlocks d as kept = .ok e → fails e)) ∧
       (∀ as table kept, s.blockAddrs d = .ok (.ok as) → s.scatterTable d = .ok (.go table) → s.scatterBlocks d as table = .ok (.go kept) →
         let d1 := { d with plan := kept, work := 1 }
         let room := s.bufUsed slice + d1.planOf.buf ≤ s.atwBytes slice
         (room → s.fld f_XL_MIG_CTL_ENABLE = 0 → s.fld f_SCR_CTL_ENABLE = 0 → ∃ t, exec (.scatterUpdate slice ring idx) s = .next t ∧
           t.desc k = some { d1 with buf := d1.planOf.buf } ∧ t.mem = s.mem ∧ s.OtherDescs t k ∧
           t.queues = (if d.unordered then s.queues else s.queues ++ [{ what := shardQueue d1.planOf.region, key := k }])) ∧
         (¬ room → exec (.scatterUpdate slice ring idx) s = .next s))) ∧
     (s.Runs k 0x29 d → d.work ≠ 0 →
       let first := d.unordered = true ∨ ∃ q, s.queues.find? (fun q => q.what == shardQueue d.planOf.region) = some q ∧ q.key = k
       (¬ first → exec (.scatterUpdate slice ring idx) s = .next s) ∧
       (∀ o, first → s.scatterRun d d.planOf = .ok o → o.eff.out = [] → o.more = none → o.eff.s.descs = s.descs →
         ∃ t, exec (.scatterUpdate slice ring idx) s = .next t ∧
         t.desc k = some (d.endedWith o.status o.kind o.detail o.progress) ∧ (∀ x ∈ t.queues, x.key ≠ k) ∧ s.OtherDescs t k)))

/-- R55 to R60: the version operations of a region of this ZV9, issued here by a slice that may act on it: `CUT` retains the working version under the
next number, unless 16 are retained or a write was lost, once no write to the region waits at its bank; `ROLLBACK` makes a retained version the
working one and tears the appends and attention that name it (R190); `RELEASE` drops one that is not published and reports how many frames that freed;
`PUBLISH` publishes a later version over the one that is expected. -/
def Obligations.VersionOperations : Prop :=
  ∀ (s : State) (slice ring idx : Nat) (d : Desc) (r : Region) (v : Version), s.alive = true → d.origin = none → d.at 16 2 = s.me →
    checks (homeForm d.raw ++ s.homeEpoch d) = .ok () → s.region (bits (d.at 20 4) 0 20) = some r → checks (s.regionChecks d (bits (d.at 20 4) 0 20)) = .ok () →
    let k : DKey := ⟨slice, ring, idx⟩
    let a := d.at 28 4
    let here := { d with engine := 0x80 + bank r.base, started := true }
    let refused := { d with engine := 0xF0, started := false }
    (s.Runs k 0x30 d → d.at 24 1 = 0 →
      (r.retained.length < 16 → r.lastCut < 2 ^ 32 - 1 → r.writeLost = false → s.writeQueued r.base (r.size * 65536) = true →
        exec (.cut slice ring idx) s = .next s) ∧
      (r.retained.length < 16 → r.lastCut < 2 ^ 32 - 1 → r.writeLost = false → s.writeQueued r.base (r.size * 65536) = false → ∃ t, exec (.cut slice ring idx) s = .next t ∧
        t.region r.num = some { r with lastCut := r.lastCut + 1, stamp := s.now, retained := r.retained ++ [{ num := r.lastCut + 1, map := r.working }] } ∧
        (∀ n, n ≠ r.num → t.region n = s.region n) ∧ t.desc k = some (here.endedWith stOk 1 (r.lastCut + 1) 1) ∧ s.OtherDescs t k ∧ t.mem = s.mem ∧
        t.frames = s.frames ∧ t.regs = s.regs) ∧
      (16 ≤ r.retained.length → ∃ t, exec (.cut slice ring idx) s = .next t ∧ t.desc k = some (refused.endedWith eQuota 0 0 0) ∧ t = { s with descs := t.descs }) ∧
      (r.retained.length < 16 → r.lastCut < 2 ^ 32 - 1 → r.writeLost = true → ∃ t, exec (.cut slice ring idx) s = .next t ∧
        t.desc k = some (refused.endedWith eIntegrity 0 0 0) ∧ t = { s with descs := t.descs })) ∧
    (s.Runs k 0x30 d → d.at 24 1 = 1 → r.version a = some v → s.dir = [] → s.sweeps = [] → ∃ t, exec (.rollback slice ring idx) s = .next t ∧
      t.region r.num = some { r with working := v.map, writeLost := false } ∧ (∀ n, n ≠ r.num → t.region n = s.region n) ∧
      t.desc k = some (here.endedWith stOk 1 v.num 1) ∧ (∀ i, i ≠ k → t.desc i = (s.desc i).map (fun x => x.tornBy r.num)) ∧ t.mem = s.mem) ∧
    (s.Runs k 0x30 d → d.at 24 1 = 2 → r.version a = some v →
      (r.published ≠ a → ∃ t n, exec (.release slice ring idx) s = .next t ∧ t.region r.num = some { r with retained := r.retained.filter (fun x => x.num != a) } ∧
        t.frames.length + n = s.frames.length ∧ t.desc k = some (here.endedWith stOk 1 n 1) ∧ s.OtherDescs t k ∧ t.mem = s.mem) ∧
      (r.published = a → ∃ t, exec (.release slice ring idx) s = .next t ∧ t.desc k = some (refused.endedWith ePerm 3 28 0) ∧ t = { s with descs := t.descs })) ∧
    (s.Runs k 0x31 d → r.version a = some v →
      (r.published = d.at 24 4 → d.at 24 4 < a → ∃ t, exec (.regionPublish slice ring idx) s = .next t ∧ t.region r.num = some { r with published := a } ∧
        t.desc k = some (here.endedWith stOk 0 0 1) ∧ s.OtherDescs t k ∧ t.mem = s.mem ∧ t.frames = s.frames ∧ t.regs = s.regs) ∧
      (r.published ≠ d.at 24 4 ∨ a ≤ d.at 24 4 → ∃ t, exec (.regionPublish slice ring idx) s = .next t ∧
        t.desc k = some (refused.endedWith eVersion 5 r.published 0) ∧ t = { s with descs := t.descs }))

/-- R291 to R293, R284: `CREATE` adds an empty region of version 0 and `DELETE` takes one away, both counted in `AS_RGN_STATUS.LIVE`; `MOVE_TIER` of
tiles that hold no frame sets the target of each, once every drive named at boot is up or unusable (R557), and `WRITEBACK` of tiles with no dirty byte
writes none. R60, R248, R641: a home operation that fails its form, or whose epoch is no longer current at its home, ends with that status, not started
and with nothing changed. -/
def Obligations.PlaceOperations : Prop :=
  (∀ (s : State) (slice ring idx : Nat) (d : Desc) (r : Region) (tags : List Nat), s.alive = true → d.origin = none → d.at 16 2 = s.me →
    checks (homeForm d.raw ++ s.homeEpoch d) = .ok () →
    let k : DKey := ⟨slice, ring, idx⟩
    let num := bits (d.at 20 4) 0 20
    let owner := d.at 44 1
    let base := d.at 24 8
    let size := d.at 32 4
    let live (t : State) := t.fld f_AS_RGN_STATUS_LIVE = (t.regions.filter (fun x => !x.deleting)).length % 2 ^ f_AS_RGN_STATUS_LIVE.width
    let here := { d with engine := 0x80 + bank r.base, started := true }
    let r0 : Region := {
      num := num, deleting := false, owner := owner, writeLost := false, size := size, base := base, published := 0, lastCut := 0, stamp := s.now
      working := [], retained := [{ num := 0, map := [] }], target := (d.at 19 1, d.at 46 1), targets := [] }
    (s.Runs k 0x38 d → d.at 18 1 = 0 → s.revoked = [] → s.permitted s.me slice owner = true → s.fld f_AS_RGN_SIZE_LOG2_ENTRIES ≠ 0 →
      num < 2 ^ s.fld f_AS_RGN_SIZE_LOG2_ENTRIES → (∀ x ∈ s.regions, x.num ≠ num) → s.configured owner = true → base % 65536 = 0 → 1 ≤ size →
      s.regionRange base (size * 65536) = true → (∀ x ∈ s.regions, x.deleting = false → base + size * 65536 ≤ x.base ∨ x.base + x.size * 65536 ≤ base) →
      d.at 19 1 ≠ 3 → ∃ t, exec (.placeCreate slice ring idx) s = .next t ∧ live t ∧ t.frames = s.frames ∧ t.mem = s.mem ∧
        t.regions = s.regions ++ [r0] ∧
        t.desc k = some ({ d with engine := 0x80 + bank base, started := true }.endedWith stOk 0 0 0) ∧ s.OtherDescs t k) ∧
    (s.region num = some r → checks (s.regionChecks d num) = .ok () →
      (s.Runs k 0x38 d → d.at 18 1 = 1 → s.dir = [] → s.sweeps = [] → ∃ t e, exec (.placeDelete slice ring idx) s = .next t ∧ live t ∧ t.region num = none ∧
        (∀ n, n ≠ num → t.region n = s.region n) ∧ t.desc k = some e ∧ e.phase = .ended ∧ e.status = stOk ∧ e.started = true ∧ t.mem = s.mem) ∧
      (s.Runs k 0x38 d → d.at 18 1 = 2 → d.work = 0 → d.progress = 0 → d.moving = [] →
        let first := d.at 36 4
        let count := d.at 40 4
        let tier := d.at 19 1
        let port := d.at 46 1
        (tier = 2 → s.mediaWait ≠ [] → exec (.moveTier slice ring idx tags) s = .next s) ∧
        ((tier = 2 → s.mediaWait = []) → 1 ≤ count → first + count ≤ r.size → (tier = 3 → s.thPortOk port r.owner = true) → s.mayAlloc r.owner tier port 0 = true →
        (∀ i < count, r.tileFrames (first + i) (bit (d.at 45 1) 0) = []) →
        ∃ t q, exec (.moveTier slice ring idx tags) s = .next t ∧ t.region num = some q ∧ t.frames = s.frames ∧ t.mem = s.mem ∧
          (∀ i < count, look q.target q.targets (first + i) = (tier, port)) ∧
          (∀ j, j < first ∨ first + count ≤ j → look q.target q.targets j = look r.target r.targets j) ∧ q.working = r.working ∧ q.retained = r.retained ∧
          t.desc k = some ({ here with work := 1, progress := count }.endedWith stOk 0 0 count))) ∧
      (s.Runs k 0x39 d → d.work = 0 → d.progress = 0 → d.moving = [] → bit (d.at 18 1) 0 = false → bit (d.at 18 1) 1 = false → 1 ≤ d.at 28 4 →
        d.at 24 4 + d.at 28 4 ≤ r.size →
        (∀ i < d.at 28 4, ∀ f, s.tileFrame (.rgn num (d.at 24 4 + i)) = some f → f.slow = false ∨ f.cache = none ∨ ∃ c, f.cache = some c ∧ c.dirty = 0) →
        ∃ t, exec (.writeback slice ring idx tags) s = .next t ∧ t.frames = s.frames ∧ t.mem = s.mem ∧ t.nvme = s.nvme ∧
          t.desc k = some ({ here with work := 1, progress := d.at 28 4 }.endedWith stOk 1 0 (d.at 28 4))))) ∧
  (∀ (s : State) (slice ring idx : Nat) (tags : List Nat) (d : Desc) (op : Nat) (c : Instr) (f : Fail), s.alive = true → d.origin = none →
    s.Runs ⟨slice, ring, idx⟩ op d → leAt d.raw (homeNodeOff op) 2 = s.me → d.work = 0 → d.moving = [] →
    (op = 0x30 ∧ (c = .cut slice ring idx ∧ d.at 24 1 = 0 ∨ c = .rollback slice ring idx ∧ d.at 24 1 = 1 ∨ c = .release slice ring idx ∧ d.at 24 1 = 2) ∨
      op = 0x31 ∧ c = .regionPublish slice ring idx ∨ op = 0x2A ∧ c = .tablePublish slice ring idx ∨
      op = 0x38 ∧ (c = .placeCreate slice ring idx ∧ d.at 18 1 = 0 ∨ c = .placeDelete slice ring idx ∧ d.at 18 1 = 1) ∨
      op = 0x38 ∧ c = .moveTier slice ring idx tags ∧ d.at 18 1 = 2 ∨ op = 0x39 ∧ c = .writeback slice ring idx tags) →
    (checks (homeForm d.raw ++ s.homeEpoch d) = .error (.err f) → ∃ t, exec c s = .next t ∧ t = { s with descs := t.descs } ∧
      s.OtherDescs t ⟨slice, ring, idx⟩ ∧
      t.desc ⟨slice, ring, idx⟩ = some ({ d with engine := 0xF0, started := false }.endedWith f.status f.kind f.detail 0)) ∧
    (checks (homeForm d.raw) = .ok () → s.fenced = false → d.epoch ≠ s.epoch → (s.grace = false ∨ isPrevEpoch d.epoch s.epoch = false) →
      checks (homeForm d.raw ++ s.homeEpoch d) = .error (.err ⟨eStaleEpoch, 6, s.epoch⟩)))

/-- R248, R331, R332: `TABLE_PUBLISH` of a table whose records pass and whose version is the one expected writes the new version, vector and time into
the root, and one with another version changes nothing; `INVAL` without `ABORT`, with no access outstanding, withdraws the entries of its range and
slice from every cache, keeps every other, and completes. -/
def Obligations.PublishAndInvalidate : Prop :=
  ∀ (s : State) (slice ring idx : Nat) (d : Desc), s.alive = true →
    let k : DKey := ⟨slice, ring, idx⟩
    (∀ (g : Region) (root : Root), s.Runs k 0x2A d → d.origin = none → d.at 22 2 = s.me →
      checks (homeForm d.raw ++ s.homeEpoch d) = .ok () →
      let ref := rrefAt d.raw 16
      let s0 := s.bankEngine k g.base
      s.region ref.region = some g → s.revoked = [] → s.permitted s.me slice g.owner = true →
      s0.publishRecords g ref.offset (d.at 40 8) = .ok (.ok root) →
      (∀ a b u, root.version = d.at 32 4 → d.at 32 4 < d.at 36 4 → s0.rgnWrite g.num (ref.offset + 48) (leBytes 4 (d.at 36 4)) = .ok a →
        a.rgnWrite g.num (ref.offset + 56) (leBytes 8 (d.at 40 8)) = .ok b → b.rgnWrite g.num (ref.offset + 64) (leBytes 8 s.now) = .ok u → u.descs = s0.descs →
        ∃ t, exec (.tablePublish slice ring idx) s = .next t ∧ t.mem = u.mem ∧ t.frames = u.frames ∧ s.OtherDescs t k ∧
          t.desc k = some ({ d with engine := 0x80 + bank g.base, started := true }.endedWith stOk 0 0 1)) ∧
      (root.version ≠ d.at 32 4 → ∃ t, exec (.tablePublish slice ring idx) s = .next t ∧ t = { s with descs := t.descs } ∧
        t.desc k = some ({ d with engine := 0xF0, started := false }.endedWith eVersion 5 root.version 0))) ∧
    (s.Runs k 0x3A d → s.invals = [] → s.outReqs = [] → s.txns = [] → s.fillQ = [] → s.bankQ = [] → s.cohWaiting = [] →
      (∀ x ∈ s.descs, x.stop = none ∧ (x.key ≠ k → x.pages = [])) → d.at 33 1 = 0 →
      let hit (e : XlEntry) := e.slice == d.at 32 1 && (bit (d.at 34 1) 0 || overlap e.va e.hold.bytes (d.at 16 8) (d.at 24 8))
      ∃ t, exec (.inval slice ring idx) s = .next t ∧ t.xlCache = s.xlCache.filter (fun e => !hit e) ∧ t.invals = [] ∧
        t.desc k = some (d.endedWith stOk 0 0 1) ∧ s.OtherDescs t k ∧ t.mem = s.mem ∧ t.fld f_XL_INVAL_STAT_IN_FLIGHT = 0 ∧
        t.fld f_XL_INVAL_STAT_DONE = (s.fld f_XL_INVAL_STAT_DONE + 1) % 2 ^ f_XL_INVAL_STAT_DONE.width)


/-! ### Memory, the fabric and clients -/

/-- R52, R304, R391 to R393: with nothing of the directory in the way, a read of plain memory answers the bytes stored there; a write stores its
bytes, leaves every other byte of plain memory as it was and changes nothing else; an atomic answers the prior value and stores the operation's
result, in as many bytes as its operands have, and is counted. -/
def Obligations.PlainMemory : Prop :=
  ∀ (s : State) (b : By) (a : Nat), s.Kept → s.poison = [] →
    let stored (bs : List Byte) (t : State) := ∀ x, cellByte t.mem x = if a ≤ x ∧ x < a + bs.length then bs.getD (x - a) 0#8 else cellByte s.mem x
    let bytes (n : Nat) := (List.range n).map (fun i => cellByte s.mem (a + i))
    (∀ n, s.openRange b a n → s.homeRead b a n = .ok ⟨bytes n, none⟩) ∧
    (∀ bs, s.openRange b a bs.length → ∃ t, s.homeWrite b a bs false = .ok t ∧ t = { s with mem := t.mem } ∧ stored bs t) ∧
    (∀ op typ w operand, s.openRange b a w → tallyWidth op typ = some w → operand.length = (if op = 3 then 2 * w else w) → a % w = 0 →
      (op = 0 ∧ typ = 4 → s.unord b.node b.slice = true) → s.fld f_SCR_CTL_ENABLE = 0 →
      ∃ t, s.homeAtomic b op typ a operand = .ok (t, bytes w) ∧ t = { s with mem := t.mem, regs := t.regs } ∧
        stored (leBytes w (tallyResult op typ w (leNat (bytes w)) (leNat operand))) t ∧
        t.fld f_TALLY_OPS_OPS = (s.fld f_TALLY_OPS_OPS + 1) % 2 ^ f_TALLY_OPS_OPS.width)

/-- R17, R409 to R411, R424, R426: a request packet at its home is judged in that order: a byte of the header that is not as its type demands is
answered `E_FORMAT` with its offset, a source that is no ZV9 of the domain is not answered (the model's choice, log entry 97), a fenced source
`E_FENCED` with the epoch that fenced it, an epoch that is not current `E_STALE_EPOCH` with the current one, each counted; any other request is made,
and answered with what its access gives. R410, R411: a packet of no type of the table is answered `E_FORMAT` at `TYPE`. R49, R58, R243: a read of a
region by reference gives its bytes; one of no bytes lends the version to the lookup that asks, until that lookup says that it is over (log 107). -/
def Obligations.FabricRequests : Prop :=
  (∀ (s : State) (p : QPkt), s.alive = true → p.dest = s.me →
    let s1 := s.takeRx (.qf p)
    (qpktKnown p.typ = false → s1.mapCur.any (fun m => (m.ent p.src).isSome) = true →
      exec (.qfRead p []) s = .next ((s1.incSat f_QF_CNT_MALFORMED).respondErr p ⟨eFormat, 3, 12⟩)) ∧
    (∀ r pin bs, p.typ = 0x07 → p.rref = some r → p.payload = [] → p.aux ≤ 1024 → s1.admits p 5 →
      let x : Lent := { node := p.src, slice := p.slice, look := p.look, pin := pin }
      (r.2.1 = 3 → exec (.bulkRead p []) s = .next ((s1.letGo p).respond p 0x02 3 0 [] false)) ∧
      (r.2.1 ≠ 3 → 1 ≤ p.aux → s1.refRead p r = .ok (pin, bs) → exec (.bulkRead p []) s = .next (s1.respond p 0x02 3 0 bs false)) ∧
      (r.2.1 = 2 → p.aux = 0 → s1.refRead p r = .ok (pin, bs) → x ∉ s1.lent →
        exec (.bulkRead p []) s = .next ({ s1 with lent := s1.lent ++ [x] }.respond p 0x02 3 0 bs false)))) ∧
  ∀ (s t : State) (p : QPkt) (c : Instr) (op : AccOp) (tc reply : Nat) (bs : List Byte) (po : Bool), s.alive = true → p.dest = s.me →
    let s1 := s.takeRx (.qf p)
    let plain := s.inputWaits p = false ∧ (inSetup p.addr = false ∨ 0x8000 ≤ p.stream)
    let lenOk := 1 ≤ p.payload.length ∧ p.payload.length ≤ 1024 ∧ p.aux = 0
    let rd := 1 ≤ p.aux ∧ p.aux ≤ 1024 ∧ p.payload = []
    let aop := bits p.aux 0 4
    c = .qfRead p [] ∧ p.typ = 0x01 ∧ tc = 2 ∧ plain ∧ rd ∧ op = .read p.aux ∧ reply = 0x02 ∨
    c = .qfWrite p ∧ p.typ = 0x03 ∧ tc = 4 ∧ plain ∧ lenOk ∧ op = .write p.payload p.poison ∧ reply = 0x04 ∨
    c = .bulkRead p [] ∧ p.typ = 0x07 ∧ tc = 5 ∧ s.bankFull p.addr = false ∧ p.rref = none ∧ rd ∧ op = .read p.aux ∧ reply = 0x02 ∨
    c = .bulkWrite p ∧ p.typ = 0x08 ∧ tc = 5 ∧ s.bankFull p.addr = false ∧ lenOk ∧ op = .write p.payload p.poison ∧ reply = 0x04 ∨
    (c = .atomicAdd (.peer p) ∧ aop = 0 ∨ c = .atomicMin (.peer p) ∧ aop = 1 ∨ c = .atomicMax (.peer p) ∧ aop = 2 ∨ c = .atomicCas (.peer p) ∧ aop = 3) ∧
      p.typ = 0x05 ∧ tc = 4 ∧ s.bankFull p.addr = false ∧ p.aux < 256 ∧
      (∃ w, tallyWidth aop (bits p.aux 4 4) = some w ∧ p.payload.length = if aop = 3 then 2 * w else w) ∧
      op = .atomic aop (bits p.aux 4 4) p.payload ∧ reply = 0x06 →
    (p.rsvd ≠ 0 ∨ p.tc ≠ tc → s1.mapCur.any (fun m => (m.ent p.src).isSome) = true →
      exec c s = .next ((s1.incSat f_QF_CNT_MALFORMED).respondErr p ⟨eFormat, 3, if p.rsvd ≠ 0 then p.rsvd else 9⟩)) ∧
    (p.rsvd = 0 → p.tc = tc → s1.member p.src = false → exec c s = .next s1) ∧
    (∀ e, p.rsvd = 0 → p.tc = tc → s1.member p.src = true → s1.fencedSrc p.src = some e →
      exec c s = .next ((s1.incSat f_QF_ERR_FENCED_REJECTS).respondErr p ⟨eFenced, 6, e⟩)) ∧
    (p.rsvd = 0 → p.tc = tc → s1.member p.src = true → s1.fencedSrc p.src = none → s1.epochOk p.epoch = false →
      exec c s = .next ((s1.incSat f_QF_ERR_STALE_REJECTS).respondErr p ⟨eStaleEpoch, 6, s1.epoch⟩)) ∧
    (s1.admits p tc → s1.perform (p.acc op) = .ok (t, bs, po) → exec c s = .next (t.respond p reply 3 0 bs po))

/-- R409, R419, R641: a response goes to its request's source with the request's tag, stream, address and slice; a packet for another ZV9 leaves by
the port that its epoch's routes name, one hop further, in the order in which those of its class and lane came to its input, and when no route leads on
a request is answered `E_DEAD_TARGET`; a `HOME_OP` of another ZV9 starts its operation here. R420: a packet that is not the first of them stays. -/
def Obligations.PacketsOnTheWay : Prop :=
  ∀ (s : State) (p : QPkt), s.alive = true → s.fenced = false →
    (∀ typ tc aux payload poison port sd, s.outPort (s.rspEpoch p.epoch) p.src 0 = some (port, sd) → ∃ q,
      s.respond p typ tc aux payload poison = { s with queue := s.queue ++ [⟨12, 4 + port, .qf q, none⟩] } ∧ q.dest = p.src ∧ q.src = s.me ∧ q.typ = typ ∧
      q.tc = tc ∧ q.tag = p.tag ∧ q.stream = p.stream ∧ q.epoch = s.rspEpoch p.epoch ∧ q.hops = 1 ∧ q.payload = payload ∧ q.poison = poison ∧
      q.addr = p.addr ∧ q.slice = p.slice ∧ q.aux = aux) ∧
    (∀ port, 4 ≤ port → port < 12 → p.dest ≠ s.me → p.typ ≠ 0x30 → p.hops < 1023 → s.firstIn port (.qf p) = true →
      let q := if p.isResponse then { p with epoch := s.rspEpoch p.epoch } else p
      let s1 := { s with rx := s.rx.erase (port, .qf p) }
      (∀ o sd, s.outPort q.epoch q.dest q.dl = some (o, sd) → exec (.packetForward port (.qf p)) s =
        .next { s1 with queue := s.queue ++ [⟨port, 4 + o, .qf { q with hops := p.hops + 1, dl := if sd then 1 else p.dl }, some (Pkt.qf p).vl⟩] }) ∧
      (s.outPort q.epoch q.dest q.dl = none → p.isResponse = false → p.tc < 6 → (s.mapOf p.epoch).isSome = true →
        exec (.packetForward port (.qf p)) s = .next ((s1.freeCells port (.qf p)).respondErr p (deadFail p.dest 0)))) ∧
    (∀ port src dest epoch m hops dl tag o sd, 4 ≤ port → port < 12 → dest ≠ s.me → dest ≠ 0xFFFF → hops < 1023 →
      let q : Pkt := .map src dest epoch m hops dl tag
      s.firstIn port q = true → s.outPort epoch dest dl = some (o, sd) → exec (.packetForward port q) s =
        .next { s with rx := s.rx.erase (port, q), queue := s.queue ++ [⟨port, 4 + o, .map src dest epoch m (hops + 1) (if sd then 1 else dl) tag, some q.vl⟩] }) ∧
    (∀ port q, s.firstIn port q = false → exec (.packetForward port q) s = .next s) ∧
    (let s1 := s.takeRx (.qf p)
     p.dest = s.me → s1.admits p 4 → p.typ = 0x09 → p.payload.length = 64 → p.aux = leAt p.payload 0 1 → isHomeOp p.aux = true →
     leAt p.payload (homeNodeOff p.aux) 2 = s.me → s.desc ⟨64 + p.slice, p.src, p.tag⟩ = none →
     ∃ t d, exec (.homeOp p) s = .next t ∧ t.descs = s.descs ++ [d] ∧ d.key = ⟨64 + p.slice, p.src, p.tag⟩ ∧ d.phase = .running ∧ d.raw = p.payload ∧
       d.origin = some p ∧ d.stop = none ∧ t.mem = s.mem ∧ t.regs = s.regs)

/-- R409 to R411, R423, R425, R429, R641: an answer ends the request of its tag and source. A read's bytes, or the status that ended it, reach the
descriptor that asked; a write or an atomic that is acknowledged leaves the descriptor as it is; a home operation ends with what its home says; a
request rejected for its epoch is sent again with the current one, but waits while an earlier one of its thread to that home is unanswered under
another epoch (R365, R421); one whose timer expires ends with `E_DEAD_TARGET` and is counted. A response
without a request is counted and does nothing else. -/
def Obligations.FabricAnswers : Prop :=
  ∀ (s : State) (p : QPkt) (o : OutReq) (k : DKey) (unit : Nat) (d : Desc), s.alive = true → s.fld f_SCR_CTL_ENABLE = 0 → s.noAborts → s.allSent →
    let s1 := s.takeRx (.qf p)
    let got (bs : List Byte) (po : Bool) (f : Fail) : Fetched :=
      ⟨o.pkt.dest, o.pkt.rref, o.pkt.addr, o.pkt.aux, bs, po, f.status, f.kind, f.detail⟩
    let left (t : State) := t.outReqs = s.outReqs.erase o
    let bulk := o.pkt.typ = 0x01 ∨ o.pkt.typ = 0x07
    (∀ c, p.dest = s.me → s1.outReq p.tag p.src = none →
      c = .readRsp p ∧ p.typ = 0x02 ∨ c = .writeAck p ∧ p.typ = 0x04 ∨ c = .atomicRsp p ∧ p.typ = 0x06 ∨ c = .homeRsp p ∧ p.typ = 0x0A ∨
        c = .errResponse p ∧ p.typ = 0x0F → exec c s = .next (s1.incSat f_QF_ERR_LATE_RSP)) ∧
    (s.desc k = some d → o.who = .desc k unit →
      (p.dest = s.me → p.rsvd = 0 → s1.outReq p.tag p.src = some o →
        (p.typ = 0x02 → p.tc = 3 → p.aux = 0 → bulk → p.payload.length = o.pkt.aux → ∃ t, exec (.readRsp p) s = .next t ∧ left t ∧ s.OtherDescs t k ∧ t.mem = s.mem ∧
          t.desc k = some { d with fetched := d.fetched ++ [got p.payload p.poison okFail] }) ∧
        (p.typ = 0x04 → p.tc = 3 → p.aux = 0 → o.pkt.typ = 0x03 ∨ o.pkt.typ = 0x08 → p.payload = [] → ∃ t, exec (.writeAck p) s = .next t ∧ left t ∧
          t.descs = s.descs ∧ t.mem = s.mem) ∧
        (p.typ = 0x06 → p.tc = 3 → p.aux = 0 → o.pkt.typ = 0x05 → some p.payload.length = tallyWidth (bits o.pkt.aux 0 4) (bits o.pkt.aux 4 4) →
          ∃ t, exec (.atomicRsp p) s = .next t ∧ left t ∧ t.descs = s.descs ∧ t.mem = s.mem) ∧
        (p.typ = 0x0A → p.tc = 3 → p.aux < 256 → o.pkt.typ = 0x09 → p.payload.length = 16 → zeros p.payload 13 3 = true → d.phase = .running →
          let st := p.aux
          let n := leAt p.payload 0 4
          let rejected := n = 0 ∧ (0x10 ≤ st ∧ st ≤ 0x18 ∨ st = eFenced ∨ st = eIntegrity ∧ d.op = 0x30 ∧ d.at 24 1 = 0)
          (rejected → ∃ t, exec (.homeRsp p) s = .next t ∧ left t ∧ s.OtherDescs t k ∧
            t.desc k = some ({ d with started := false, engine := 0xF0 }.endedWith st (leAt p.payload 12 1) (leAt p.payload 4 8) n)) ∧
          (¬ rejected → ∃ t, exec (.homeRsp p) s = .next t ∧ left t ∧ s.OtherDescs t k ∧
            t.desc k = some ({ d with started := true }.endedWith st (leAt p.payload 12 1) (leAt p.payload 4 8) n))) ∧
        (p.typ = 0x0F → p.payload.length = 8 → p.aux < 4096 → p.tc = rspClass o.pkt.typ →
          let behind := ∃ x ∈ s.outReqs.takeWhile (fun x => x != o), x.sameThread o = true ∧ x.pkt.dest = o.pkt.dest ∧ x.pkt.epoch ≠ s.epoch
          let f : Fail := ⟨bits p.aux 0 8, bits p.aux 8 4, leNat p.payload⟩
          (bulk → f.status ≠ eStaleEpoch → f.status ≠ eFenced → ∃ t, exec (.errResponse p) s = .next t ∧ left t ∧ s.OtherDescs t k ∧ t.mem = s.mem ∧
            t.desc k = some { d with fetched := d.fetched ++ [got [] false f] }) ∧
          (f.status = eStaleEpoch → o.sends < 5 → s1.refuseTo o.pkt.dest 0 = none → behind → ∃ t, exec (.errResponse p) s = .next t ∧ t.descs = s.descs ∧
            t.queue = s.queue ∧ t.outReqs = s.outReqs.map (fun x => if x = o then { x with stale := true } else x)) ∧
          (f.status = eStaleEpoch → o.sends < 5 → s1.refuseTo o.pkt.dest 0 = none → ¬ behind → ∃ t, exec (.errResponse p) s = .next t ∧ t.descs = s.descs ∧
            t.outReqs = s.outReqs.map (fun x => if x = o then { x with pkt := { o.pkt with epoch := s.epoch, hops := 0, dl := 0 }, sends := x.sends + 1 } else x)))) ∧
      (bulk → s.outReqs.find? (fun x => x.pkt.tag == o.pkt.tag) = some o → ∃ t, exec (.requestTimerExpiry o.pkt.tag) s = .next t ∧ left t ∧ s.OtherDescs t k ∧
        t.desc k = some { d with fetched := d.fetched ++ [got [] false (deadFail o.pkt.dest 0)] } ∧
        t.fld f_QF_CNT_EXPIRIES = min (s.fld f_QF_CNT_EXPIRIES + 1) (2 ^ f_QF_CNT_EXPIRIES.width - 1)))

/-- R347, R359, R363, R392, R393, R454, R457: a request of a client is judged by its form, then by its port's binding; a load, store or atomic that
need not wait is made through the slice's translation at its home, and its response carries the status, the bytes and the request's tag; a translation
that fails is answered; a `SYNC` with nothing of its thread outstanding is answered at once. -/
def Obligations.ClientRequests : Prop :=
  ∀ (s : State) (port : Nat) (p : KPkt) (c : Instr), s.alive = true → port < 4 → s.klUp port = true → s.held = [] →
    let s1 := s.takeRx (.kl p)
    let aop := bits p.aux 0 4
    let load := c = .clientRead port p [] ∧ p.typ = 0x01
    let store := c = .clientWrite port p [] ∧ p.typ = 0x03
    let atomic := p.typ = 0x05 ∧ (c = .atomicAdd (.client port p) ∧ aop = 0 ∨ c = .atomicMin (.client port p) ∧ aop = 1 ∨
      c = .atomicMax (.client port p) ∧ aop = 2 ∨ c = .atomicCas (.client port p) ∧ 3 ≤ aop)
    let sync := p.typ = 0x07 ∧ (c = .syncAcquire port p ∧ p.sync = 1 ∨ c = .syncRelease port p ∧ p.sync = 2 ∨ c = .syncFull port p ∧ p.sync = 3)
    (load ∨ store ∨ atomic ∨ sync →
      (∀ o, p.badByte (s.fldAt f_KL_PORT_STREAMS port) = some o →
        exec c s = .next ((s1.incSatAt f_KL_PORT_ERR_MALFORMED port).clientFail port p ⟨eFormat, 3, o⟩)) ∧
      (p.badByte (s.fldAt f_KL_PORT_STREAMS port) = none → s.bound port = none → exec c s = .next (s1.clientFail port p ⟨ePerm, 2, p.addr⟩)) ∧
      (∀ sl, p.badByte (s.fldAt f_KL_PORT_STREAMS port) = none → s.bound port = some sl → s.fldAt f_SLC_STATUS_BUSY sl = 0 → s.mine port p.stream = [] →
        (s.thread port p.stream).failed = [] → (s.thread port p.stream).syncFail = none →
        (sync → exec c s = .next (s1.klRespond port p 0x08 okFail [] false)) ∧
        (∀ right n, load ∧ right = rRead ∧ n = p.aux ∨ store ∧ right = rWrite ∧ n = p.payload.length ∨ atomic ∧ right = rAtomic ∧ p.atomicForm = .ok n →
          let s2 := s1.noteAccess (uPort port) sl p.addr n true
          (∀ f, s1.xlate (uPort port) sl p.addr n right = .error (.err f) → exec c s = .next ((s1.noteTry (uPort port) sl p.addr n).clientFail port p f)) ∧
          (∀ la u bs po, s1.xlate (uPort port) sl p.addr n right = .ok [⟨p.addr, s.me, la, n⟩] → s.me < 0x8000 → inSetup la = false → s.bankFull la = false →
            let x : CTxn := ⟨s.nextTxn, port, p, sl, 1, [], stOk, 0, 0, false, s1.leafRanges (uPort port) sl p.addr n⟩
            let s3 := { s2 with txns := s2.txns ++ [x], nextTxn := s2.nextTxn + 1 }
            s3.perform { org := .txn s.nextTxn 0, op := p.part 0 n, addr := la, slice := sl, node := s.me } = .ok (u, bs, po) →
            exec c s = .next (u.partDone s.nextTxn 0 u.me (.ok (bs, po))))))) ∧
    (∀ x off home bs po, s.txn x.id = some x → x.left = 1 → x.got = [] → x.status = stOk → s.klUp x.port = true → s.noAborts →
      ∃ t r, s.partDone x.id off home (.ok (bs, po)) = t ∧ t.queue = s.queue ++ [⟨12, x.port, .kl r, none⟩] ∧ r.typ = klRspType x.req.typ ∧ r.tag = x.req.tag ∧
        r.stream = x.req.stream ∧ r.addr = x.req.addr ∧ r.status = stOk ∧ r.payload = (if x.req.typ = 0x03 then [] else bs) ∧ r.poison = (x.poison || po) ∧
        t.txn x.id = none ∧ t.mem = s.mem ∧ t.regs = s.regs)


/-! ### Coherence -/

/-- R373, R377, R382 to R384: a coherent request from a client here or elsewhere reaches the directory of its line's home. A line that no one holds is
granted with its bytes, for its hold; a shared one takes the reader as a further sharer; its only sharer may upgrade it; one that another owns is
recalled from that owner, and the request waits; one in its hold gives a retry credit. R389: one whose owner's node is no longer live is poisoned and
free. R354, R359: a client's request stays at its port behind those of its stream that it follows. R373: a port that the map lists with no caching
client is given no copy. -/
def Obligations.ReeveRequests : Prop :=
  ∀ (s : State), s.alive = true →
    (∀ (p : QPkt) (c : Instr) (typ : Nat), c = .rdS (.peer p) ∧ typ = 0x10 ∨ c = .rdX (.peer p) ∧ typ = 0x11 ∨ c = .upg (.peer p) ∧ typ = 0x12 →
      p.typ = typ → p.dest = s.me → (s.takeRx (.qf p)).admits p 0 → p.payload = [] → inSetup p.addr = false → s.dirSets ≠ 0 →
      let s1 := s.takeRx (.qf p)
      (s.cachesAt p.src (bits p.stream 13 2) = true → exec c s = .next (s1.homeCoh (.peer p) p.src p.slice (p.addr / 64) typ p.aux)) ∧
      (s.cachesAt p.src (bits p.stream 13 2) = false → s.bankFull p.addr = false →
        exec c s = .next (s1.access { org := .nc (.peer p), op := .read 64, addr := p.addr / 64 * 64, slice := p.slice, node := p.src }))) ∧
    (∀ (port sl la : Nat) (p : KPkt) (c : Instr) (typ : Nat),
      c = .rdS (.client port p) ∧ typ = 0x10 ∨ c = .rdX (.client port p) ∧ typ = 0x11 ∨ c = .upg (.client port p) ∧ typ = 0x12 →
      p.typ = typ → port < 4 → s.klUp port = true → s.held = [] → p.badByte (s.fldAt f_KL_PORT_STREAMS port) = none → s.bound port = some sl →
      s.fldAt f_SLC_STATUS_BUSY sl = 0 → s.fldAt f_KL_PORT_CLASS port = 1 → s.dirSets ≠ 0 → s.me < 0x8000 → inSetup la = false →
      let s1 := s.takeRx (.kl p)
      let va := p.addr / 64 * 64
      s1.leafCaches (uPort port) sl va = true → s1.xlate (uPort port) sl va 64 (if typ = 0x10 then rRead else rWrite) = .ok [⟨va, s.me, la, 64⟩] →
      (s.cohWaits port p = true → exec c s = .next s) ∧
      (s.cohWaits port p = false → exec c s = .next ((s1.noteAccess (uPort port) sl va 64 true).homeCoh (.client port p) s.me sl (la / 64) typ p.aux))) ∧
    (∀ (r : Req) (node slice line typ : Nat) (g : Got), typ ∈ [0x10, 0x11, 0x12] → s.fld f_SCR_CTL_ENABLE = 0 → s.noSweeps → s.slots = [] → s.bankQ = [] →
      s.judge { node := node, slice := slice, client := true } (64 * line) 64 (typ != 0x10) = .ok () → s.rawPiece (64 * line) 64 = .ok g →
      let t := s.homeCoh r node slice line typ 0xFFFFFFFF
      let hold := s.now + s.tHold
      (∀ w, s.entry line = none → s.takeWay line = some w → s.OtherLines t line ∧
        t.entry line = some { s.ownedEntry line w (s.who r) with state := if typ = 0x10 then .sHeld else .xHeld } ∧
        t.fld f_REEVE_GRANTS_GRANTS = (s.fld f_REEVE_GRANTS_GRANTS + 1) % 2 ^ f_REEVE_GRANTS_GRANTS.width ∧
        ∀ port p, r = .client port p → s.klUp port = true → t.queue = s.queue ++ [⟨12, port, .kl
          { mkKl (if typ = 0x10 then 0x18 else 0x19) 1 p.tag p.addr 0 g.bytes with stream := p.stream, poison := g.poison.isSome }, none⟩]) ∧
      (∀ e h, s.entry line = some e → e.transient = false → e.coarse = false → e.owner = some h → e.ptrs = [h] → s.lostHolder h = true →
        t = ((s.poisonLine line).dropEntry line).homeCoh r node slice line typ 0xFFFFFFFF) ∧
      (∀ e, s.entry line = some e → (∀ h ∈ e.ptrs, s.lostHolder h = false) →
        (e.state = .s → typ = 0x10 → s.OtherLines t line ∧
          t.entry line = some (({ e with state := .sHeld, holdUntil := hold, nru := true } : DirEntry).addSharer (s.who r))) ∧
        (e.state = .s → typ = 0x12 → e.coarse = false → e.ptrs = [s.who r] → s.OtherLines t line ∧
          t.entry line = some (s.ownedEntry line e.way (s.who r))) ∧
        (∀ h, e.state = .x → e.ptrs = [h] → h ≠ s.who r → s.reach h = true →
          s.OtherLines t line ∧ t.entry line = some { e with
            state := .recallWait, awaiting := [h], asked := if typ = 0x10 then 0x14 else 0x15
            cause := .req r (s.who r).1 (s.who r).2 false (typ == 0x10) }) ∧
        (e.held = true → s.now < e.holdUntil → e.owner ≠ some (s.who r) → (typ ≠ 0x10 ∨ e.state = .xHeld) → t.dir = s.dir ∧
          ∃ x, t.slots = [x] ∧ x.bank = bank (64 * line) ∧ x.line = line ∧ x.serve = 0 ∧ x.next = 1)))

/-- R382, R390: the answer of the one holder that a request waits for settles the line: the requester is its owner, or a sharer beside the old holder,
with the modified bytes stored first; an owner's write-back stores its bytes and leaves the line to no one, a `PUT` leaves it without a store, and a
write-back of one that does not own the line is counted and discarded. -/
def Obligations.ReeveAnswers : Prop :=
  ∀ (s : State) (r : Req) (typ : Nat) (data : List Byte) (po : Bool), s.alive = true → s.noSweeps →
    let line := match r with | .peer p => p.addr / 64 | .client _ p => p.addr % 2 ^ 50 / 64
    let h := s.who r
    let s1 := match r with | .peer p => s.takeRx (.qf p) | .client _ p => s.takeRx (.kl p)
    let form := match r with
      | .peer p => p.typ = typ ∧ p.dest = s.me ∧ p.rsvd = 0 ∧ p.tc = 1 ∧ p.payload.length = (if typ = 0x1F ∨ typ = 0x20 then 64 else 0) ∧ p.payload = data ∧
          p.poison = po
      | .client port p => p.typ = typ ∧ port < 4 ∧ s.klUp port = true ∧ p.rsvd = none ∧ p.tc = 1 ∧ p.lenOk = true ∧ p.payload = data ∧ p.poison = po ∧
          p.addr / 2 ^ 50 = s.me
    (∀ c e q n k upg shared u, c = .invAck r ∧ typ = 0x1D ∨ c = .recallAck r ∧ typ = 0x1E ∧ po = false ∨ c = .recallData r ∧ typ = 0x1F → form →
      s.entry line = some e → e.awaiting = [h] → e.transient = true → (typ = 0x1D ↔ e.asked = 0x13) → e.cause = .req q n k upg shared →
      (if typ = 0x1F then s1.rawWrite (64 * line) data po = .ok u else u = s1) → u.dir = s.dir → u.revoking = none →
      ∃ t, exec c s = .next t ∧ u.OtherLines t line ∧ (s.fld f_SCR_CTL_ENABLE = 0 → u.fld f_SCR_CTL_ENABLE = 0 → t.mem = u.mem) ∧
        t.entry line = some (if shared then
          ({ e with
             state := .sHeld, coarse := false, holdUntil := u.now + u.tHold, nru := true, asked := 0, cause := .none, awaiting := []
             ptrs := if e.asked = 0x14 then e.ptrs else e.ptrs.filter (fun x => x != h) } : DirEntry).addSharer (n, k)
          else u.ownedEntry line e.way (n, k))) ∧
    (∀ p c u, r = .peer p → c = .wb r ∧ typ = 0x20 ∨ c = .put r ∧ typ = 0x21 → form → p.aux = 0 → s1.admits p 1 →
      (∀ e, s1.examine line = some e → e.state = .x ∨ e.state = .xHeld → e.ptrs = [h] → s1.lostHolder h = false →
        (if typ = 0x20 then s1.rawWrite (64 * line) data po = .ok u else u = s1) → u.dir = s.dir → u.revoking = none →
        ∃ t, exec c s = .next t ∧ u.OtherLines t line ∧ t.entry line = none ∧ t.mem = u.mem) ∧
      (s1.entry line = none → ∃ t, exec c s = .next t ∧ t.dir = s.dir ∧ t.mem = s.mem ∧
        t.fld f_REEVE_ERR_STALE_WB = min (s.fld f_REEVE_ERR_STALE_WB + 1) (2 ^ f_REEVE_ERR_STALE_WB.width - 1)))

/-- R383, R385, R387, R391, R458, R466: a hold that ends leaves its line `S` or `X`, one line at a time or a set's at once; a ticket unused for its
time passes the line on; a holder that does not answer is given up, its line poisoned if it was an owner; the access queued first at a bank is made,
or, where it is the place of an engine's access, kept for that engine while it runs (R391); R389: a visit leaves no holder of a lost node in its set;
another home's question goes to the caching client, and one for a port without such a client is answered here. -/
def Obligations.ReeveTimers : Prop :=
  ∀ (s : State), s.alive = true → s.noSweeps →
    (∀ line e, s.entry line = some e → (e.held = true → exec (.holdExpiry line) s = .next (s.setEntry e.release)) ∧
      (e.held = false → exec (.holdExpiry line) s = .next s)) ∧
    (∀ b set, set % 48 = b → set < s.dirSets → ∃ t, exec (.directorySetVisit b set) s = .next t ∧
      ((∀ e ∈ s.waysOf set, ∀ h ∈ e.ptrs, s.lostHolder h = false) → t = { s with dir := t.dir } ∧ t.dir.map (·.line) = s.dir.map (·.line) ∧
        ∀ e ∈ t.dir, s.setOf e.line = set → e.held = true → s.now < e.holdUntil) ∧
      ((s.dir.map (·.line)).Nodup → ∀ e ∈ t.waysOf set, e.transient = false → e.coarse = false → ∀ h ∈ e.ptrs, s.lostHolder h = false)) ∧
    (∀ b n x, s.slots.find? (fun y => y.bank == b && y.num == n) = some x → stableLine (s.examine x.line) = true →
      ∃ t, exec (.retryTicketExpiry b n) s = .next t ∧ t.dir = s.dir ∧ t.mem = s.mem ∧ t.slots.find? (fun y => y.bank == b && y.num == n) =
        if (x.serve + 1) % 1048576 = x.next then none else some { x with serve := (x.serve + 1) % 1048576 }) ∧
    (∀ line h e, s.entry line = some e → e.awaiting = [h] → e.state = .evictWait → e.cause = .evict → s.placeOf (64 * line) = .scratch ∨ s.placeOf (64 * line) = .direct →
      s.flag f_FLT_CTL_INT_EN = false → ∃ t, exec (.recallTimeout line h.1 h.2) s = .next t ∧ t.entry line = none ∧ s.OtherLines t line ∧
        (e.asked = 0x15 → 64 * line ∈ t.poison) ∧
        t.fld f_REEVE_ERR_RECALL_TIMEOUTS = min (s.fld f_REEVE_ERR_RECALL_TIMEOUTS + 1) (2 ^ f_REEVE_ERR_RECALL_TIMEOUTS.width - 1)) ∧
    (∀ w k, s.bankQ = [w] → w.acc.org = .desc k → s.held = [] →
      ((∃ d, s.desc k = some d ∧ d.phase = .running ∧ d.stop = none) → exec (.queuedAccessApply w.bank) s = .next s) ∧
      ((∀ d ∈ s.descs, d.key = k → d.phase ≠ .running) → exec (.queuedAccessApply w.bank) s = .next { s with bankQ := [] })) ∧
    (∀ w t bs po, s.bankQ = [w] → (∀ k, w.acc.org ≠ .desc k) → ({ s with bankQ := [], revoked := [] } : State).perform w.acc = .ok (t, bs, po) →
      exec (.queuedAccessApply w.bank) s = .next (((({ t with revoked := s.revoked } : State).finish w.acc (.ok (bs, po))).reapRevoke).pumpHeld)) ∧
    (∀ port (p : QPkt), bits p.stream 13 2 = port → 0x13 ≤ p.typ → p.typ ≤ 0x15 → p.dest = s.me → p.payload = [] → p.aux = 0 →
      let s1 := s.takeRx (.qf p)
      s1.admits p 0 →
      (s.klCaches port = true → ∃ t, exec (.coherenceMessageToClient port p) s = .next t ∧
        t.cohOwed = s.cohOwed ++ [(port, p)] ∧ t.queue = s.queue ++ [⟨12, port, .kl (mkKl p.typ 0 (p.addr / 64 % 2 ^ 32) (p.src * 2 ^ 50 + p.addr) 0 []), none⟩]) ∧
      (s.klCaches port = false → exec (.coherenceMessageToClient port p) s =
        .next (s1.respond p (if p.typ = 0x13 then 0x1D else 0x1E) 1 0 [] (p.typ != 0x13)))) ∧
    (∀ port k (p : QPkt) o kp, bits p.stream 13 2 = port → 0x18 ≤ p.typ → p.typ ≤ 0x1C → p.dest = s.me → p.rsvd = 0 → p.tc = 1 → p.payload.length = cohLen p.typ →
      (s.takeRx (.qf p)).outReq p.tag p.src = some o → 0x10 ≤ o.pkt.typ → o.pkt.typ ≤ 0x12 → o.who = .coh k kp → s.klUp k = true → s.noAborts → s.allSent →
      s.fld f_SCR_CTL_ENABLE = 0 → ∃ t, exec (.coherenceMessageToClient port p) s = .next t ∧ t.outReqs = s.outReqs.erase o ∧
        t.queue = s.queue ++ [⟨12, k, .kl { mkKl p.typ 1 kp.tag kp.addr p.aux p.payload with stream := kp.stream, poison := p.poison }, none⟩])


/-! ### Links and ports -/

/-- R405, R406, R449, R478, R479, R484: a block that is sound and next in order gives its packets to the input, where their cells are free, drops from
the replay buffer what the peer has taken, adds the peer's credits, and starts the replay that it asks for, the eighth failed one of a block ending the
link; one out of order is dropped; a damaged one counts as a failure and asks for a replay, and the ninth in a row ends a Quaril link. A block that is
sent takes the next number, enters the replay buffer with its packets and carries the credits owed; a packet longer than its slots runs on into the next
blocks; a replay sends its blocks again, in order, before any new one; with 2,048 blocks in the buffer, no new one is sent. R466: a killed port sends
`KILL` in block after block, and then its link is gone. That a packet without free cells is not taken is the model's choice (log 110). -/
def Obligations.LinkBlocks : Prop :=
  ∀ (s : State) (port : Nat) (l : Link) (b : LinkBlock), s.alive = true → s.link port = some l →
    (l.kills = 1 → ∃ t, exec (.linkBlockSend port) s = .next t ∧ t = { s with links := t.links } ∧ t.link port = none) ∧
    (2 ≤ l.kills → ∃ t, exec (.linkBlockSend port) s = .next t ∧ t = { s with links := t.links } ∧
      t.link port = some { l with kills := l.kills - 1, txSeq := l.txSeq + 1, replay := l.replay ++ [(l.txSeq, l.killPkt.toList)] }) ∧
    (s.portUp port = true → s.fldAt f_STORE_MIRROR_IN port = 0 → s.fldAt f_STORE_MIRROR_OUT port = 0 →
      (let l1 := { l with
         rxSeq := l.rxSeq + 1, fails := 0, replay := l.replay.filter (fun r => decide (b.ack ≤ r.1))
         credits := b.credits.foldl (fun acc c => addCells acc c.1 c.2.1 c.2.2) l.credits }
       let l2 := match b.replay with
         | some n => { l1 with again := some n, againSeq := some n, againCount := if l.againSeq = some n then l.againCount + 1 else 0 }
         | none => l1
       let fits := ∀ tc vl, s.inputCells port tc vl + ((b.pkts.filter (fun p => p.tc == tc && p.vl == vl)).map (·.cells)).sum ≤ s.allotment (rowOf port vl) tc
       b.fec ≠ 2 → b.crcOk = true → b.seq = l.rxSeq →
         (l2.againCount < 8 → fits → ∃ t, exec (.linkBlockReceived port b) s = .next t ∧
           t = { s with regs := t.regs, links := t.links, rx := s.rx ++ b.pkts.map (fun p => (port, p)) } ∧ t.link port = some l2) ∧
         (∀ p, l2.againCount < 8 → b.pkts = [p] → s.fitsIn port p = false → ∃ t, exec (.linkBlockReceived port b) s = .next t ∧
           t = { s with regs := t.regs, links := t.links } ∧ t.link port = some l2) ∧
         (8 ≤ l2.againCount → 4 ≤ port → ∃ t, exec (.linkBlockReceived port b) s = .next t ∧ t.link port = none ∧
           t.fldAt f_QF_PORT_STATE (port - 4) = 4)) ∧
      (b.fec ≠ 2 → b.crcOk = true → b.seq ≠ l.rxSeq → ∃ t, exec (.linkBlockReceived port b) s = .next t ∧ s.OnlyRegs t) ∧
      (b.fec = 2 ∨ b.crcOk = false → l.fails < 8 → ∃ t, exec (.linkBlockReceived port b) s = .next t ∧
        t = { s with regs := t.regs, links := t.links } ∧ t.link port = some { l with fails := l.fails + 1, ask := some l.rxSeq }) ∧
      (b.fec = 2 ∨ b.crcOk = false → 8 ≤ l.fails → 4 ≤ port → ∃ t, exec (.linkBlockReceived port b) s = .next t ∧ t.link port = none ∧
        t.fldAt f_QF_PORT_STATE (port - 4) = 4) ∧
      (l.kills = 0 →
        (∀ n, l.again = some n → ∃ t, exec (.linkBlockSend port) s = .next t ∧ t = { s with links := t.links } ∧
          t.link port = some { l with again := if n + 1 < l.txSeq then some (n + 1) else none, ask := none }) ∧
        (l.again = none →
          let sent (x : Link) (ps : List Pkt) : Link := { x with txSeq := l.txSeq + 1, replay := l.replay ++ [(l.txSeq, ps)], owed := [], ask := none }
          (2048 ≤ l.replay.length → exec (.linkBlockSend port) s = .next s) ∧
          (∀ n p, l.replay.length < 2048 → l.txPart = some (n, p) →
            (7 < n → ∃ t, exec (.linkBlockSend port) s = .next t ∧ t = { s with links := t.links } ∧
              t.link port = some (sent { l with txPart := some (n - 7, p) } [])) ∧
            (n = 7 → ∃ t, exec (.linkBlockSend port) s = .next t ∧ t = { s with links := t.links } ∧
              t.link port = some (sent { l with txPart := none } [p]))) ∧
          (l.replay.length < 2048 → l.txPart = none → s.eligible port l = [] → ∃ t, exec (.linkBlockSend port) s = .next t ∧
            t = { s with links := t.links } ∧ t.link port = some (sent l [])) ∧
          (∀ q, l.replay.length < 2048 → l.txPart = none → s.eligible port l = [q] → 7 ≤ q.pkt.flits → q.pkt.tc < 8 →
            (q.pkt.tc = 6 → 16 * (s.outTurn port).mgmt < outFlits) → ∃ t, exec (.linkBlockSend port) s = .next t ∧
            t = { s with regs := t.regs, links := t.links, queue := s.queue.erase q, shares := t.shares, turns := t.turns } ∧
            (let paid := { l with credits := l.credits.map (fun c => if c.1 = q.pkt.tc ∧ c.2.1 = q.pkt.vl then (c.1, c.2.1, c.2.2 - q.pkt.cells) else c) }
             t.link port = some (if q.pkt.flits = 7 then sent paid [q.pkt] else sent { paid with txPart := some (q.pkt.flits - 7, q.pkt) } []))))))

/-- R406, R431, R436, R449: a Quaril port whose lanes lose lock, that hears no block, or whose neighbour misses its heartbeats, goes down: its link
and what waited for it are gone, and the port is counted down; which lanes lost lock is a free value. A Kellija link that is lost takes the client's
work with it; what the ZV9 had asked of the client stays, and ends by its timer (R461). -/
def Obligations.PortsGoDown : Prop :=
  ∀ (s : State) (c : Instr) (q : Nat), s.alive = true →
    (q < 8 → s.qfUp q = true → c = .laneLockLoss (4 + q) ∨ c = .linkIdleTimeout (4 + q) ∨ c = .heartbeatMiss q → ∃ t, exec c s = .next t ∧
      t.fldAt f_QF_PORT_STATE q = 4 ∧ t.link (4 + q) = none ∧ (∀ x ∈ t.queue, x.out ≠ 4 + q) ∧
      t.fldAt f_QF_PORT_ERR_DOWNS q = min (s.fldAt f_QF_PORT_ERR_DOWNS q + 1) (2 ^ 16 - 1) ∧
      (t.fldAt f_QF_PORT_LANE_FAIL q = 0 ↔ c ≠ .laneLockLoss (4 + q))) ∧
    (q < 4 → s.klUp q = true → s.still → c = .laneLockLoss q ∨ c = .linkIdleTimeout q → ∃ t, exec c s = .next t ∧ t.clientGone q ∧ t.link q = none ∧
      t.klOuts = s.klOuts ∧ t.fldAt f_KL_PORT_STATE q = 0) ∧
    (s.portUp q = false → exec (.laneLockLoss q) s = .next s ∧ exec (.linkIdleTimeout q) s = .next s ∧ (4 ≤ q → exec (.heartbeatMiss (q - 4)) s = .next s))

/-- R402 to R404, R407, R449 to R454, R467: a port that trains comes up with the highest version that both ends have, or is refused with the cause: no
common version, another domain, the ZV9's own device. A client's port waits for its link-up record, which brings it up as the record says, or refuses
it. A port that failed trains again; `QF_DILL_CTL` tests the lanes of ports that are not up and
keeps them from training. -/
def Obligations.PortTraining : Prop :=
  ∀ (s : State) (q k : Nat) (tr : Training) (bytes : List Byte) (w : Word), s.alive = true → q < 8 → k < 4 →
    let v := min 0x21 tr.verMax
    let port := 0xA0080 + 8 * q
    let named (p : Nat) (x : Nat) := bit x p = true
    (q ∈ s.dill → exec (.qfPortTrain q tr) s = .next s) ∧
    (s.flag f_BOOT_STATUS_STORE_READY = true → s.fldAt f_QF_PORT_STATE q ≤ 1 → q ∉ s.dill →
      (tr.failStep ≠ 0 ∨ tr.lanes ≠ 0 → ∃ t, exec (.qfPortTrain q tr) s = .next t ∧ s.OnlyWords t [port] ∧ t.fldAt f_QF_PORT_STATE q = 4) ∧
      (tr.failStep = 0 → tr.lanes = 0 → ∃ t, exec (.qfPortTrain q tr) s = .next t ∧
        (v < max 0x14 tr.verMin → t.fldAt f_QF_PORT_STATE q = 3 ∧ t.fldAt f_QF_PORT_REFUSE q = 1) ∧
        (max 0x14 tr.verMin ≤ v → s.cfg.map (·.domain) ≠ some tr.domain → t.fldAt f_QF_PORT_STATE q = 3 ∧ t.fldAt f_QF_PORT_REFUSE q = 2) ∧
        (max 0x14 tr.verMin ≤ v → s.cfg.map (·.domain) = some tr.domain →
          (tr.peerDev = s.devId → t.fldAt f_QF_PORT_STATE q = 3 ∧ t.fldAt f_QF_PORT_REFUSE q = 3) ∧
          (tr.peerDev ≠ s.devId → t.fldAt f_QF_PORT_STATE q = 2 ∧ t.fldAt f_QF_PORT_VER_MAJOR q = v / 16 ∧ t.fldAt f_QF_PORT_VER_MINOR q = v % 16 ∧
            t.fldAt f_QF_PORT_PEER_PORT q = tr.peerPort % 16 ∧ t.link (4 + q) = some (s.newLink (4 + q) tr.peerDev))))) ∧
    (s.fldAt f_QF_PORT_STATE q = 4 → ∃ t, exec (.portTrainRetry (4 + q)) s = .next t ∧ s.OnlyWords t [port] ∧ t.fldAt f_QF_PORT_STATE q = 1) ∧
    (s.fldAt f_KL_PORT_STATE k = 0 → s.flag f_QF_STATE_FORMED = true → ∃ t, exec (.portTrainRetry k) s = .next t ∧ s.OnlyWords t [0xB0000 + 8 * k] ∧
      t.fldAt f_KL_PORT_STATE k = 1) ∧
    (s.klMay k = true → ∃ t, exec (.klPortTrain k tr) s = .next t ∧
      (tr.failStep ≠ 0 ∨ tr.lanes ≠ 0 → t.fldAt f_KL_PORT_STATE k = 0 ∧ s.OnlyRegs t) ∧
      (tr.failStep = 0 → tr.lanes = 0 → t.fldAt f_KL_PORT_STATE k = 1 ∧ t.link k = some (s.newLink k tr.peerDev))) ∧
    (s.flag f_QF_STATE_FORMED = false ∨ s.fenced = true → exec (.klPortTrain k tr) s = .next s) ∧
    (s.fldAt f_KL_PORT_STATE k = 1 → (s.link k).isSome = true → ∃ t, exec (.linkUpRecord k bytes) s = .next t ∧
      (s.recordRefuse k bytes ≠ 0 → t.fldAt f_KL_PORT_STATE k = 3 ∧ t.fldAt f_KL_PORT_REFUSE k = s.recordRefuse k bytes ∧ t.link k = none) ∧
      (s.recordRefuse k bytes = 0 → t.fldAt f_KL_PORT_STATE k = 2 ∧ t.fldAt f_KL_PORT_REFUSE k = 0 ∧ t.fldAt f_KL_PORT_KIND k = leAt bytes 0 1 ∧
        t.fldAt f_KL_PORT_CLASS k = leAt bytes 1 1 ∧ t.fldAt f_KL_PORT_STREAMS k = leAt bytes 4 2 ∧
        t.fldAt f_KL_PORT_BOUND_SLICE k = s.bindingOf k % 256 ∧
        t.klClient k = some ⟨k, leAt bytes 8 8, leAt bytes 16 8, leAt bytes 24 8, leAt bytes 32 8, leAt bytes 40 8,
          ⟨s.me, k, (commonVersion 0x20 0x32 (leAt bytes 2 1) (leAt bytes 3 1)).getD 0, s.epoch, s.devId, s.bindingOf k % 256⟩⟩)) ∧
    (s.fldAt f_KL_PORT_STATE k ≠ 1 → exec (.linkUpRecord k bytes) s = .next s) ∧
    (f_QF_DILL_CTL_START.get w = 1 →
      ((∀ p < 8, named p (f_QF_DILL_CTL_PORTS.get w) → s.qfUp p = false) → s.flag f_QF_DILL_STAT_BUSY = true →
        ∃ t, exec (.dillStart w) s = .next t ∧ s.OnlyWords t [0xA0028]) ∧
      ((∀ p < 8, named p (f_QF_DILL_CTL_PORTS.get w) → s.qfUp p = false) → s.flag f_QF_DILL_STAT_BUSY = false →
        ∃ t, exec (.dillStart w) s = .next t ∧ t.flag f_QF_DILL_STAT_BUSY = true ∧
        (∀ p < 8, p ∈ t.dill ↔ named p (f_QF_DILL_CTL_PORTS.get w)) ∧
        ∀ p < 8, t.fldAt f_QF_PORT_STATE p =
          if bit (f_QF_DILL_CTL_PORTS.get w) p && s.fldAt f_QF_PORT_STATE p != 3 then 1 else s.fldAt f_QF_PORT_STATE p) ∧
      ((∃ p, p < 8 ∧ named p (f_QF_DILL_CTL_PORTS.get w) ∧ s.qfUp p = true) → ∃ t, exec (.dillStart w) s = .next t ∧ s.OnlyWords t [0xA0028, 0xA0030] ∧
        t.fld f_QF_DILL_STAT_REJECT = 1 ∧ t.fld f_QF_DILL_CTL_PORTS = f_QF_DILL_CTL_PORTS.get w)) ∧
    (∀ errs, s.flag f_QF_DILL_STAT_BUSY = true → ∃ t, exec (.dillDone errs) s = .next t ∧ t.flag f_QF_DILL_STAT_BUSY = false ∧
      t.fld f_QF_DILL_STAT_ERRORS =
        min ((errs.filter (fun e => decide (e.1 / 8 < 8) && s.dill.contains (e.1 / 8))).map (·.2)).sum (2 ^ 48 - 1) ∧ t.dill = [] ∧
      ∀ p < 8, t.fldAt f_QF_PORT_STATE p = if s.dill.contains p && s.fldAt f_QF_PORT_STATE p != 3 then 0 else s.fldAt f_QF_PORT_STATE p)

/-- R436, R456, R461, R465: a heartbeat leaves by every port that is up, fenced or not; one that comes clears the misses of its port. What a client
answers to the ZV9's own requests is taken in order: bytes that are not the last wait, the last of a ring's read reach the ring, the last of a
write-back stores the tile; an answer to nothing is noted, and a request without an answer is given up and counted. -/
def Obligations.HeartbeatsAndClientAnswers : Prop :=
  ∀ (s : State) (port : Nat) (p : KPkt) (o : KlOut), s.alive = true →
    let stamp := leBytes 8 s.now
    (exec .heartbeatSend s = .next { s with queue := s.queue ++
      (((List.range 4).filter s.klUp).map (fun k => (⟨12, k, .kl (mkKl 0x30 6 0 0 0 stamp), none⟩ : Queued)) ++
       ((List.range 8).filter s.qfUp).map (fun q => (⟨12, 4 + q, .qf { s.mkQ (s.fldAt f_QF_PORT_PEER_NODE q) 0x30 6 stamp with hops := 1 }, none⟩ : Queued))) }) ∧
    (∃ t, exec (.heartbeat port) s = .next t ∧ t = { s with rx := t.rx, links := t.links } ∧ (∀ l ∈ t.links, l.port = port → l.misses = 0) ∧
      ∀ x, s.rx.find? (fun x => x.1 == port && x.2.isHeartbeat) = some x → t.rx = s.rx.erase x) ∧
    (port < 4 → s.klUp port = true → p.rsvd = none → p.tc = 3 →
      let s1 := s.takeRx (.kl p)
      let read := p.typ = 0x41
      let ack := p.typ = 0x43 ∧ p.payload = []
      (s.klOut port p.tag = some o → p.status = 0 →
        (read → 0 < o.left → p.payload.length = min 1024 o.left → p.payload.length < o.left → ∃ t, exec (.cReadRsp port p) s = .next t ∧
          t = { s1 with klOuts := t.klOuts } ∧ t.klOut port p.tag = some { o with
            left := o.left - p.payload.length, got := o.got ++ p.payload
            bad := if p.poison then o.bad ++ linesOf o.got.length p.payload.length else o.bad }) ∧
        (∀ sl rg r, read → p.payload.length = o.left → 0 < o.left → o.left ≤ 1024 → p.poison = false → o.bad = [] → o.why = .sqRead sl rg →
          s.ring sl rg = some r → ∃ t r', exec (.cReadRsp port p) s = .next t ∧ t.ring sl rg = some r' ∧
          r'.pre = r.pre ++ (List.range ((o.got ++ p.payload).length / 64)).map (fun k => (((o.got ++ p.payload).drop (64 * k)).take 64, false)) ∧
          ∀ x ∈ t.klOuts, ¬ (x.port = o.port ∧ x.tag = o.tag)) ∧
        (∀ id d tag f, ack → o.left = 0 → o.why = .writeback id d tag → s.frame id = some f → (∀ e ∈ s.descs, e.moving ≠ [(id, id)]) →
          (∀ x ∈ s.klOuts, ∀ d' tag', x.why = .writeback id d' tag' → x.port = o.port ∧ x.tag = o.tag) →
          ∃ t, exec (.cWriteAck port p) s = .next t ∧ t.frame id = some { f with stored := true, tag := tag } ∧
            t.klOuts = s.klOuts.filter (fun x => !(x.port == o.port && x.tag == o.tag))) ∧
        (∀ sl vec, ack → o.left = 0 → o.why = .interrupt sl vec → exec (.cWriteAck port p) s =
          .next { s1 with klOuts := s.klOuts.filter (fun x => !(x.port == o.port && x.tag == o.tag)) })) ∧
      (s.klOut port p.tag = none → (s.klUnmatched.filter (fun x => x.1 == port)).length < 15 →
        (read → ∃ t, exec (.cReadRsp port p) s = .next t ∧ t = { s1 with klUnmatched := t.klUnmatched } ∧ (port, s.now) ∈ t.klUnmatched) ∧
        (ack → ∃ t, exec (.cWriteAck port p) s = .next t ∧ t = { s1 with klUnmatched := t.klUnmatched } ∧ (port, s.now) ∈ t.klUnmatched))) ∧
    (∀ tag, port < 4 → s.klOut port tag = some o → ∃ t, exec (.klRequestTimeout port tag) s = .next t ∧
      (o.why = .late → t.fldAt f_KL_PORT_ERR_TIMEOUTS port = min (s.fldAt f_KL_PORT_ERR_TIMEOUTS port + 1) (2 ^ 16 - 1) ∧
        t.klOuts = s.klOuts.filter (fun x => !(x.port == o.port && x.tag == o.tag))) ∧
      (∀ sl rg r, o.why = .sqRead sl rg → s.ring sl rg = some r → r.state ≠ .faulted → r.destroying ≠ 3 → r.intDue = false →
        ∃ r', t.ring sl rg = some r' ∧ r' = { r with state := .faulted, stDirty := r'.stDirty, stCons := r'.stCons }))


/-! ### The keepers and the map -/

/-- R433, R437, R441: a keeper that hears no leader stands for the next term with its own vote; another keeper's request is granted once a term, to
one that knows as much; a quorum of votes makes the leader. Before a map stands, a request and a vote for another are passed on once, by keepers and by
the others. A beat is followed by everyone but a leader of its own term. Before a map stands, topology records are gathered and passed on: up the tree
that the first beat made, by every port before it. -/
def Obligations.Elections : Prop :=
  ∀ (s : State) (src term x : Nat), s.alive = true → s.fenced = false →
    (∀ r, s.keeperPos = some r → s.leader = false → 1 < s.quorum → ∃ t, exec .electionTimeout s = .next t ∧
      t = { s with regs := t.regs, queue := t.queue, keeper := t.keeper } ∧ t.flag f_QF_STATE_KEEPER = true ∧
      t.keeper = { s.keeper with term := s.keeper.term + 1, voted := s.keeper.term + 1, votes := [r], candidate := true, relayed := t.keeper.relayed }) ∧
    (src < s.keeperDevs.length → (src, .voteReq term x) ∉ s.keeper.relayed →
      let u := s.relay src (.voteReq term x)
      let ok := decide (s.keeper.term ≤ term ∧ s.keeper.voted < term) && !laterEpoch s.newest x
      (s.keeperPos.isSome = true → ∃ t, exec (.voteReq src term x) s = .next t ∧ t.keeper.term = max s.keeper.term term ∧
        t.keeper.voted = (if ok then term else s.keeper.voted) ∧ t.queue = (u.toKeeper src (.vote term ok src)).queue ∧
        (s.keeper.term < term → t.leader = false)) ∧
      (s.keeperPos = none → exec (.voteReq src term x) s = .next ((s.takeMap (.voteReq term x)).relay src (.voteReq term x)))) ∧
    (∀ place granted, some place ≠ s.keeperPos → exec (.vote src term granted (some place)) s =
      .next ((s.takeMap (.vote term granted place)).relay src (.vote term granted place))) ∧
    (∀ place, s.keeperPos = some place → s.keeper.candidate = true → s.keeper.term = term → src < s.keeperDevs.length →
      let votes := if s.keeper.votes.contains src then s.keeper.votes else s.keeper.votes ++ [src]
      (votes.length < s.quorum → exec (.vote src term true) s =
        .next { s.takeMap (.vote term true place) with keeper := { s.keeper with votes := votes } }) ∧
      (s.quorum ≤ votes.length → s.mapCur.isSome = true → s.keeper.replicated = none → ∃ t, exec (.vote src term true) s = .next t ∧ t.leader = true ∧
        t.fld f_QF_STATE_LEADER_NODE = s.me ∧ t.keeper.candidate = false ∧ t.keeper.stage = 0 ∧ t.mapCur = s.mapCur.map (fun m => { m with leader := s.me })) ∧
      exec (.vote src term false) s = .next (s.takeMap (.vote term false place))) ∧
    (s.keeper.term ≤ term → (s.leader = true → s.keeper.term < term) → ∃ t, exec (.beat src term x) s = .next t ∧ t.keeper.term = term ∧
      t.leader = false ∧ t.fld f_QF_STATE_LEADER_NODE = src % 2 ^ 16 ∧ t.mapCur = s.mapCur.map (fun m => { m with leader := src }) ∧ t.epoch = s.epoch ∧
      ∀ q ∈ s.queue, q ∈ t.queue) ∧
    (term < s.keeper.term → exec (.beat src term x) s = .next (s.takeMap (.beat term x))) ∧
    (s.leader = true → s.keeper.reports = [] → (s.keeper.stage ≠ 0 ∨ s.keeper.changes = []) → ∃ t, exec .beatSend s = .next t ∧
      t = { s with queue := t.queue } ∧
      (s.mapCur = none → ∀ q < 8, s.qfUp q = true → t.waits (4 + q) (.map s.me 0xFFFF s.epoch (.beat s.keeper.term s.epoch))) ∧
      ∀ m n p, s.mapCur = some m → n ∈ m.floodKids s.me s.me → (m.ports s.me).find? (fun p => p.2.1 == n && s.qfUp p.1) = some p →
        t.waits (4 + p.1) (.map s.me n s.epoch (.beat s.keeper.term s.epoch))) ∧
    (s.leader = false → exec .beatSend s = .next s) ∧
    (∀ dev links, s.mapCur = none → s.leader = false → s.keeper.topo.any (fun t => t.1 == dev) = false → ∃ t, exec (.topo dev links) s = .next t ∧
      t = { s.takeMap (.topo dev links) with queue := t.queue, keeper := { s.keeper with topo := s.keeper.topo ++ [(dev, links)] } } ∧
      (s.keeper.up = none → ∀ q < 8, s.qfUp q = true → t.waits (4 + q) (.map s.me 0xFFFF s.epoch (.topo dev links))) ∧
      ∀ q, s.keeper.up = some (4 + q) → s.qfUp q = true → t.queue = s.queue ++ [⟨12, 4 + q, .map s.me 0xFFFF s.epoch (.topo dev links), none⟩]) ∧
    (∀ q dev, q < 8 → s.qfUp q = true → ∃ t, exec (.neighbourExchange q dev) s = .next t ∧ t = { s with regs := t.regs, links := t.links } ∧
      (s.keeperPos.isSome = true → t.flag f_QF_STATE_KEEPER = true) ∧
      t.links = s.links.map (fun l => if l.port = 4 + q then { l with peerDev := dev } else l))

/-- R424, R435, R438, R439, R442: a change is stored by the keepers; once a quorum has it, it is prepared everywhere; when the tree has acknowledged,
or the wait is over, it becomes the current map, and the nodes that did not acknowledge are fenced by the next one. A map that was missed is fetched
and becomes current. The grace of the map before ends by its own timer. Epochs follow one another around the end of their circle. Before routes exist
what the keepers send is passed on (R441). -/
def Obligations.MapChanges : Prop :=
  ∀ (s : State) (m : FMap) (src n : Nat), s.alive = true → s.fenced = false →
    (s.keeper.term ≤ m.term → s.leader = false →
      let at_ := s.keeperDevs.idxOf (((m.ent m.leader).map (·.dev)).getD 0)
      (s.keeperPos.isSome = true → ∃ t, exec (.replicate src m) s = .next t ∧ t.keeper.replicated = some m ∧ t.keeper.term = m.term ∧ t.mapCur = s.mapCur ∧
        t.queue = (if s.mapCur.isNone then (s.relay at_ (.replicate m)).relay (s.keeperPos.getD 0) (.replAck m.epoch)
          else s.sendMap src (.replAck m.epoch)).queue) ∧
      (s.keeperPos = none → exec (.replicate src m) s = .next ((s.takeMap (.replicate m)).relay at_ (.replicate m)))) ∧
    (s.leader = false → src < s.keeperDevs.length → exec (.replAck src m.epoch) s = .next ((s.takeMap (.replAck m.epoch)).relay src (.replAck m.epoch))) ∧
    (s.leader = true → s.keeper.stage = 1 → s.keeper.replicated = some m → src < s.keeperDevs.length →
      let acks := if s.keeper.acks.contains src then s.keeper.acks else s.keeper.acks ++ [src]
      (acks.length < s.quorum → exec (.replAck src m.epoch) s =
        .next { s.takeMap (.replAck m.epoch) with keeper := { s.keeper with acks := acks } }) ∧
      (s.quorum ≤ acks.length → 1 < m.liveNodes.length → ∃ t, exec (.replAck src m.epoch) s = .next t ∧
        let u := ({ s.takeMap (.replAck m.epoch) with keeper := { s.keeper with acks := acks } } : State).drainOld
        t = { u with mapPrep := some m, queue := t.queue, keeper := { u.keeper with stage := 2, prepAcks := 1, prepNodes := [] } })) ∧
    (s.leader = false → laterEpoch m.epoch s.epoch = true → s.keeper.term ≤ m.term → s.mapPrep ≠ some m → src ≠ s.me → ∃ t, exec (.prepare src m) s = .next t ∧
      t.mapPrep = some m ∧ t.keeper.prepAcks = 1 ∧ t.keeper.prepNodes = [] ∧ t.keeper.term = m.term ∧ t.mapCur = s.mapCur ∧ t.epoch = s.epoch ∧
      ∀ up p, s.mapCur.isSome = true → m.floodKids s.me m.leader = [] → m.towards s.me m.leader = some up →
        (m.ports s.me).find? (fun p => p.2.1 == up && s.qfUp p.1) = some p → t.waits (4 + p.1) (.map s.me up s.epoch (.prepareAck m.epoch 1))) ∧
    (s.mapPrep = some m → src ∈ m.floodKids s.me m.leader → src ∉ s.keeper.prepNodes →
      let u := s.takeMap (.prepareAck m.epoch n)
      let k : Keeper := { s.keeper with prepNodes := s.keeper.prepNodes ++ [src], prepAcks := s.keeper.prepAcks + n }
      (s.leader = false → ∃ t, exec (.prepareAck src m.epoch n) s = .next t ∧ t = { u with queue := t.queue, keeper := k }) ∧
      (s.leader = true → m.leader = s.me → k.prepAcks < m.liveNodes.length → exec (.prepareAck src m.epoch n) s = .next { u with keeper := k }) ∧
      (s.leader = true → m.leader = s.me → s.keeper.stage = 2 → m.liveNodes.length ≤ k.prepAcks → s.keeper.changes = [] → s.ready m →
        ∃ t, exec (.prepareAck src m.epoch n) s = .next t ∧ s.current t m ∧ t.leader = true ∧ t.keeper.stage = 0)) ∧
    (s.mapPrep = some m → s.leader = true → m.leader = s.me → s.keeper.stage = 2 → s.keeper.changes = [] → s.ready m →
      let late := ((m.floodKids s.me s.me).filter (fun n => !s.keeper.prepNodes.contains n)).flatMap (fun n => m.behind s.me n)
      (late = [] → ∃ t, exec .prepareAckTimeout s = .next t ∧ s.current t m ∧ t.keeper.stage = 0) ∧
      (∀ f fs, late = f :: fs → m.live f = true → m.jobs = [] → 1 < s.quorum → ∃ t m', exec .prepareAckTimeout s = .next t ∧ t.mapCur = some m ∧ t.keeper.stage = 1 ∧
        t.keeper.replicated = some m' ∧ m'.epoch = nextEpoch m.epoch ∧ (∀ e ∈ m'.nodes, e.node = f → e.state ≠ .live) ∧
        t.keeper.changes = fs.map Change.fence)) ∧
    (s.mapPrep = some m → s.leader = false → s.ready m → ∃ t, exec (.commit src m.epoch) s = .next t ∧ s.current t m) ∧
    (s.mapPrep = none → s.leader = false → laterEpoch n s.epoch = true → exec (.commit src n) s = .next ((s.takeMap (.commit n)).sendMap src (.fetch n))) ∧
    (laterEpoch m.epoch s.epoch = true → s.leader = false → s.ready m → ∃ t, exec (.mapData m) s = .next t ∧ s.current t m) ∧
    (laterEpoch m.epoch s.epoch = false ∨ s.inMap m = false → exec (.mapData m) s = .next (s.takeMap (.mapData m))) ∧
    (∀ q e, q < 8 → s.qfUp q = true → s.mapOf e = some m → exec (.fetch q src e) s =
      .next ((s.takeMap (.fetch e)).enqueue (4 + q) (.map s.me src s.epoch (.mapData m) 1 0 (s.mapTag (.fetch e))))) ∧
    exec .epochGraceExpiry s = .next { s with grace := false }

/-- R435, R436, R439, R500 to R503, R520: the leader acts on what it is told: each report of a link, a device, a client or a slice makes its change; a
node that a probe does not find is dead in the next map; a request that passes the checks of a composition makes its change, one that fails ends with
its status at the ZV9 that wrote it (how it gets there is the model's choice, log entry 96); one that is not committed in time ends with `E_TIMEOUT`. A
change that the leader starts goes to the keepers as the next epoch; a composition that no longer stands by then commits nothing, and a change that
has nothing to do any more makes no epoch. That the leader tells the writer of a request in which epoch it commits is the model's own (log 96). -/
def Obligations.LeaderChanges : Prop :=
  ∀ (s : State) (m : FMap) (src : Nat) (c : Change), s.alive = true → s.fenced = false → s.mapCur = some m →
    let drop (u : State) (k : Nat) : State := { u with keeper := { s.keeper with probes := s.keeper.probes.filter (fun p => !(p.1 == k)) } }
    let rest := match s.keeper.passed.find? (fun r => r.2 == c) with | some r => s.keeper.passed.erase r | none => s.keeper.passed
    let told (r : Report) (x : Change) := exec (.report src r) s = .next ((s.takeMap (.report r)).addChange x)
    (s.leader = true → s.keeper.stage = 0 → s.keeper.changes = [] → 1 < s.quorum → (∀ f, c ≠ .form f) → m.idle c = false → s.changeRefused m c = none → ∃ m', (s.addChange c).keeper.replicated = some m' ∧
      (s.addChange c).keeper.stage = 1 ∧ (s.addChange c).mapCur = some m ∧ m'.epoch = nextEpoch m.epoch ∧ m'.leader = s.me ∧ m'.term = s.keeper.term ∧
      (∀ n, c = .dead n ∨ c = .fence n → ∀ e ∈ m'.nodes, e.node = n → e.state ≠ .live) ∧
      (∀ j, c = .teardown j → m'.jobs = m.jobs.filter (fun x => x.num != j)) ∧
      (∀ mode es, c = .compose mode es → m'.jobs = m.jobs ++ [⟨s.keeper.lastJob + 1, mode, es⟩])) ∧
    (s.leader = true → s.keeper.stage = 0 → s.keeper.changes = [] → m.idle c = true → s.addChange c = { s with keeper := { s.keeper with passed := rest } }) ∧
    (∀ st n, s.leader = true → s.keeper.stage = 0 → s.keeper.changes = [] → m.idle c = false → s.changeRefused m c = some (st, n) → ∃ t, s.addChange c = t ∧
      t = { s with regs := t.regs, queue := t.queue, composing := t.composing, granted := t.granted, keeper := t.keeper } ∧
      t.keeper = { s.keeper with passed := rest }) ∧
    (s.leader = true →
      (∀ l, told (.portUp l) (.addLink l)) ∧
      (∀ l, l ∈ m.links → told (.portDown l) (.dropLink l)) ∧
      (∀ dev l n, m.nodeOfDev dev = some n → told (.newDevice dev l) (.addLink { l with b := n })) ∧
      (∀ dev l, m.nodeOfDev dev = none → s.keeper.stage = 0 → (∀ ls, .admitDev dev ls ∉ s.keeper.changes) → told (.newDevice dev l) (.admitDev dev [l])) ∧
      (∀ n k, told (.killed n k) (.dropClient n k) ∧ told (.recall n k) (.dropClient n k)) ∧
      (∀ n, s.keeper.probes.any (fun p => p.1 == n) = true → (∀ j ∈ m.jobs, n ∉ j.nodes) →
        exec (.probeTimeout n) s = .next ((drop s n).addChange (.dead n))) ∧
      (∀ node op mode job es, op = 1 ∧ c = .compose mode es ∨ op = 2 ∧ c = .extend job es ∨ op = 3 ∧ c = .shrink job es ∨ op = 4 ∧ c = .teardown job →
        let s1 : State := { s with keeper := { s.keeper with requests := s.keeper.requests.filter (fun r => r != (node, c)) } }
        let i : Instr := if op = 1 then .compose node mode es else if op = 2 then .extend node job es else if op = 3 then .shrink node job es
          else .teardown node job
        let mode' := if op = 1 then mode else 0
        let job' := if op = 1 then 0 else job
        let es' := if op = 4 then [] else es
        (s.composeChecks m op mode' job' es' = none → ∃ s2, s2 = (if op = 4 then s1.originAbort job 4 0 else s1) ∧
          exec i s = .next ({ s2 with keeper := { s2.keeper with passed := s2.keeper.passed ++ [(node, c)] } }.addChange c)) ∧
        (∀ st n, s.composeChecks m op mode' job' es' = some (st, n) → node ≠ s.me → exec i s = .next (s1.sendMap node (.report (.refused st n)))) ∧
        (∀ st n, s.composeChecks m op mode' job' es' = some (st, n) → node = s.me → s.composing.isSome = true → ∃ t, exec i s = .next t ∧
          t.fld f_SLC_COMPOSE_STAT_BUSY = 0 ∧ t.fld f_SLC_COMPOSE_STAT_STATUS = st % 256 ∧ t.fld f_SLC_COMPOSE_STAT_NODE = n % 2 ^ 16 ∧
          t.composing = none ∧ s.RegsKept t [0xD0A10]))) ∧
    (∀ p sd, s.outPort s.epoch src 0 = some (p, sd) →
      exec (.probe src false) s =
        .next { s.takeMap .probe with queue := s.queue ++ [⟨12, 4 + p, .map s.me src s.epoch .probeAnswer 1 (if sd then 1 else 0) (s.mapTag .probe), none⟩] }) ∧
    (∀ by_ port l, s.keeper.probes.filter (fun p => p.1 == src) = [(src, by_, port)] → m.suspectLink (src, by_, port) = some l →
      exec (.probe src true) s = .next ((drop (s.takeMap .probeAnswer) src).addChange (.dropLink l))) ∧
    (∀ st n, s.leader = false → s.composing.isSome = true → exec (.report src (.refused st n)) s = .next ((s.takeMap (.report (.refused st n))).endCompose st n)) ∧
    (∀ e j, s.leader = false → s.composing.isSome = true → exec (.report src (.accepted e j)) s =
      .next ({ s.takeMap (.report (.accepted e j)) with granted := some (e, j) }.endGranted)) ∧
    (s.composing.isSome = true ∨ s.composeAt.isSome = true → ∃ t, exec .composeTimeout s = .next t ∧
      t = { s with regs := t.regs, composing := none, composeAt := none, granted := none } ∧ s.RegsKept t [0xD0A10] ∧
      t.fld f_SLC_COMPOSE_STAT_BUSY = 0 ∧ t.fld f_SLC_COMPOSE_STAT_STATUS = eTimeout ∧ t.fld f_SLC_COMPOSE_STAT_NODE = 0) ∧
    (∀ w : Word,
      let a := f_SLC_COMPOSE_ADDR.get w * 64
      (s.flag f_SLC_COMPOSE_STAT_BUSY = true → exec (.slcComposeWrite w) s = .next s) ∧
      (s.flag f_SLC_COMPOSE_STAT_BUSY = false → s.plainRange a 16 = false → ∃ t, exec (.slcComposeWrite w) s = .next t ∧
        t.fld f_SLC_COMPOSE_STAT_STATUS = eRange ∧ t.fld f_SLC_COMPOSE_STAT_BUSY = 0 ∧ s.RegsKept t [0xD0A10]) ∧
      (∀ h g, s.flag f_SLC_COMPOSE_STAT_BUSY = false → s.plainRange a 16 = true → s.feRead a 16 = .ok h → h.poison = none → let n := leAt h.bytes 2 2
        n ≤ 4096 → s.plainRange a (16 + 8 * n) = true → s.feRead a (16 + 8 * n) = .ok g → g.poison = none →
        let es := (List.range n).map (fun i => (jobSliceAt ((g.bytes.drop (16 + 8 * i)).take 8)).1)
        ∃ t, exec (.slcComposeWrite w) s = .next t ∧ t.fld f_SLC_COMPOSE_STAT_BUSY = 1 ∧ s.RegsKept t [0xD0A10] ∧
          t.composing = some (composeChange (leAt g.bytes 0 1) (leAt g.bytes 1 1) (leAt g.bytes 4 4) es)))


/-! ### Containment, slices, faults -/

/-- R433, R438, R465 to R467, R534 to R539, R642: the abort of a job stops every descriptor of its slices here, tells its other members, and leaves
each slice in abort or at its end; one of a job without a slice here is counted. A slice at its end becomes quiet once nothing of its is on its way. A
port is killed by its register or by missed heartbeats, keeps nothing of its client but the `KILL` of its next 64 blocks, and may train again when its
time is over; a ZV9 that hears no
leader fences itself. -/
def Obligations.Containment : Prop :=
  ∀ (s : State) (m : FMap) (j : Job) (job k x : Nat) (w : Word) (p : QPkt), s.alive = true → s.fenced = false →
    let hit (t : State) (origin trigger : Nat) := ∀ y ∈ s.mySlices job,
      (t.fldAt f_FLT_SLICE_JOB_STATE y = 1 ∨ t.fldAt f_FLT_SLICE_JOB_STATE y = 2) ∧ t.fldAt f_FLT_SLICE_JOB_JOB y = job % 2 ^ 32 ∧
      t.fldAt f_FLT_SLICE_JOB_ORIGIN y = origin % 2 ^ 16 ∧ t.fldAt f_FLT_SLICE_JOB_TRIGGER y = trigger % 2 ^ 8 ∧
      ∀ d ∈ t.descs, d.key.slice = y → d.phase = .ended
    let idle := ∀ y ∈ s.mySlices job, y < 64 ∧ (s.fldAt f_FLT_SLICE_JOB_STATE y = 0 ∨ s.fldAt f_FLT_SLICE_JOB_STATE y = 3)
    (f_FLT_JOB_ABORT_START.get w = 0 → exec (.jobAbort w) s = .next s) ∧
    (f_FLT_JOB_ABORT_START.get w = 1 → f_FLT_JOB_ABORT_JOB.get w = job → s.mySlices job = [] → ∃ t, exec (.jobAbort w) s = .next t ∧
      s.OnlyWords t [0xE0040] ∧ t.fld f_FLT_ABORT_STAT_IGNORED = min (s.fld f_FLT_ABORT_STAT_IGNORED + 1) (2 ^ 16 - 1)) ∧
    (f_FLT_JOB_ABORT_START.get w = 1 → f_FLT_JOB_ABORT_JOB.get w = job → s.mySlices job ≠ [] → s.abortIds = [] → s.mapCur = some m → m.job job = some j →
      idle → ∃ t, exec (.jobAbort w) s = .next t ∧ hit t s.me 3 ∧
      t.fld f_FLT_ABORT_STAT_STARTED = (s.fld f_FLT_ABORT_STAT_STARTED + 1) % 2 ^ 32 ∧
      ∀ n ∈ j.nodes, n ≠ s.me → ∀ o sd, s.outPort s.epoch n 0 = some (o, sd) → ∃ q : QPkt, t.waits (4 + o) (.qf q) ∧ q.typ = 0x33 ∧ q.dest = n ∧
        leAt q.payload 0 4 = job ∧ leAt q.payload 6 1 = 3) ∧
    (p.typ = 0x33 → p.dest = s.me → p.rsvd = 0 → p.payload.length = 32 → leAt p.payload 0 4 = job → s.mySlices job ≠ [] → s.abortIds = [] → idle →
      ∃ t, exec (.abort p) s = .next t ∧ hit t (leAt p.payload 4 2) (leAt p.payload 6 1)) ∧
    (x < 64 → s.fldAt f_FLT_SLICE_JOB_STATE x = 2 →
      ((∀ a ∈ s.abandoned, a.slice = x → ∀ o ∈ s.outReqs, o.pkt.tag ≠ a.tag) → s.mergedAborts = [] → ∃ t, exec (.sliceQuiet x) s = .next t ∧
        t.fldAt f_FLT_SLICE_JOB_STATE x = 3 ∧ t = { s with regs := t.regs, threads := t.threads, abandoned := s.abandoned.filter (fun a => !(a.slice == x)) } ∧
        ∀ h ∈ t.threads, s.ofSlice x h = false) ∧
      ((∃ a ∈ s.abandoned, a.slice = x ∧ ∃ o ∈ s.outReqs, o.pkt.tag = a.tag) → exec (.sliceQuiet x) s = .next s)) ∧
    (k < 4 → s.klUp k = false → ∃ t, exec (.klPortKill k) s = .next t ∧ t.fldAt f_KL_PORT_STATE k = 4 ∧ t.fldAt f_KL_PORT_KILL_CAUSE k = 3 ∧
      t.fldAt f_KL_PORT_ERR_KILLS k = min (s.fldAt f_KL_PORT_ERR_KILLS k + 1) (2 ^ 16 - 1) ∧ t.link k = none ∧ k ∉ t.klMayTrain) ∧
    (∀ c cause, k < 4 → s.klUp k = true → (s.klClient k).isSome = true → s.still → (∀ r ∈ s.rings, r.loc = 1 → r.port ≠ k) →
      (∀ f ∈ s.frames, f.tier = 3 → f.port ≠ k) → c = .klPortKill k ∧ cause = 3 ∨ c = .klHeartbeatMiss k ∧ cause = 5 → ∃ t, exec c s = .next t ∧
      t.clientGone k ∧ (∀ x ∈ t.klOuts, x.port ≠ k) ∧
      (∀ l ∈ t.links, l.port = k → l.kills = 64 ∧ l.killPkt = some (.kl (mkKl 0x34 6 0 0 cause []))) ∧ t.klClient k = none ∧ t.fldAt f_KL_PORT_STATE k = 4 ∧ t.fldAt f_KL_PORT_KILL_CAUSE k = cause ∧
      t.fldAt f_KL_PORT_ERR_KILLS k = min (s.fldAt f_KL_PORT_ERR_KILLS k + 1) (2 ^ 16 - 1) ∧ k ∉ t.klMayTrain) ∧
    (k < 4 → s.fldAt f_KL_PORT_STATE k = 4 → k ∉ s.klMayTrain → exec (.klRetrainTimer k) s = .next { s with klMayTrain := s.klMayTrain ++ [k] }) ∧
    (s.flag f_QF_STATE_FORMED = true → s.klClients = [] → ∃ t, exec .selfFenceTimeout s = .next t ∧ t.fenced = true ∧ t.leader = false ∧
      t.fenceEpoch = s.epoch ∧ ∀ d ∈ t.descs, d.phase = .ended) ∧
    (s.flag f_QF_STATE_FORMED = false → exec .selfFenceTimeout s = .next s)

/-- R509 to R511: a slice reset that its register may not start is only noted; one that starts makes the slice busy and stops its rings, and aborts
what the slice runs at once, or when its time is over. When nothing of the slice is on its way, its translations, vectors and rings go, its arrays are
cleared, and it is free.
R513, R514, R522: a revoke of no region or extent, or for a slice that is not configured, ends with `E_RANGE`; one that nothing of the former owner
keeps waiting gives the extent to its new owner at once, its bytes as they were, and keeps the former owner out until its job or slice ends. -/
def Obligations.SliceResetsAndRevokes : Prop :=
  (∀ (s : State) (w : Word) (c : Instr) (x : Nat), s.alive = true →
     f_SLC_RESET_MODE.get w = 0 ∧ c = .sliceResetDrain w ∨ f_SLC_RESET_MODE.get w = 1 ∧ c = .sliceResetAbort w →
     let bad := f_SLC_RESET_SLICE.get w = 0 ∨ s.configured (f_SLC_RESET_SLICE.get w) = false ∨ s.fldAt f_SLC_STATUS_BUSY (f_SLC_RESET_SLICE.get w) = 1 ∨
       (f_SLC_RESET_MODE.get w = 0 ∧ f_SLC_RESET_DRAIN_MS.get w = 0)
     let halted (t : State) (y : Nat) := ∀ d ∈ t.descs, d.key.slice = y → d.phase = .ended ∨ d.stop.isSome = true
     (f_SLC_RESET_START.get w = 0 → exec c s = .next s) ∧
     (f_SLC_RESET_START.get w = 1 → x = f_SLC_RESET_SLICE.get w →
       (bad → ∃ t, exec c s = .next t ∧ s.OnlyWords t [0xD0800 + 8 * x] ∧ t.fldAt f_SLC_STATUS_CFG_REJECT x = 1) ∧
       (¬ bad → ∃ t, exec c s = .next t ∧ t.fldAt f_SLC_STATUS_BUSY x = 1 ∧
         ⟨x, f_SLC_RESET_MODE.get w == 1, f_SLC_RESET_QUIET.get w == 1⟩ ∈ t.resets ∧
         (∀ r ∈ t.rings, r.slice = x → r.state = .stopping ∨ r.state = .faulted) ∧ (f_SLC_RESET_MODE.get w = 1 → halted t x))) ∧
     ((∃ r ∈ s.resets, r.slice = x ∧ r.abort = false) → ∃ t, exec (.drainTimeout x) s = .next t ∧ (∀ r ∈ t.resets, r.slice = x → r.abort = true) ∧
       halted t x ∧ t.regs = s.regs ∧ t.rings = s.rings) ∧
     (x < 64 → (s.resetOf x).isSome = true → (∀ d ∈ s.descs, d.stop = none) → s.resetQuiet x = true → (∀ r ∈ s.rings, r.slice = x → r.destroying = 0) →
       ∃ t, exec (.sliceResetFinish x) s = .next t ∧ t.fldAt f_SLC_STATUS_BUSY x = 0 ∧ (∀ r ∈ t.rings, r.slice ≠ x) ∧ t.resetOf x = none ∧
         (∀ e ∈ t.xlCache, e.slice ≠ x) ∧ (∀ q ∈ t.queues, q.key.slice ≠ x) ∧ (∀ h ∈ t.threads, s.bound h.port ≠ some x ∧ h.slice ≠ some x) ∧
         (∀ a ∈ t.arrSlice, s.holdsArray x a.1 = false) ∧ (∀ a ∈ t.arrMem, s.holdsArray x a.1 = false) ∧
         (∀ v < 256, t.fldAt f_SLV_HI_ENABLE (256 * x + v) = 0 ∧ t.fldAt f_SLV_HI_MASK (256 * x + v) = 0 ∧ t.fldAt f_SLV_HI_PENDING (256 * x + v) = 0) ∧
         (∀ r ∈ s.rings, r.slice ≠ x → r ∈ t.rings) ∧ t.mem = s.mem ∧ t.descs = s.descs)) ∧
  (∀ (s : State) (w : Word) (c : Instr), s.alive = true →
     f_SLC_REVOKE_MODE.get w = 0 ∧ c = .revokeDrain w ∨ f_SLC_REVOKE_MODE.get w = 1 ∧ c = .revokeAbort w →
     let ext := f_SLC_REVOKE_EXTENT.get w == 1
     let num := f_SLC_REVOKE_REGION.get w
     let new := f_SLC_REVOKE_NEW_OWNER.get w
     (s.flag f_SLC_REVOKE_STAT_BUSY = true → exec c s = .next s) ∧
     (s.flag f_SLC_REVOKE_STAT_BUSY = false →
       (s.revokee ext num = none ∨ s.configured new = false ∨ 64 ≤ s.revoked.length → ∃ t, exec c s = .next t ∧ s.OnlyWords t [0xD0A28] ∧
         t.fld f_SLC_REVOKE_STAT_STATUS = eRange) ∧
       (∀ base len old, s.revokee ext num = some (base, len, old) → s.configured new = true → s.revoked.length < 64 → s.dir = [] → s.bankQ = [] →
         s.fillQ = [] → s.descs = [] → old < 64 → (∀ f ∈ s.frames, f.tier < 4) → (s.frames.map (·.id)).Nodup → ∃ t, exec c s = .next t ∧ t.revokee ext num = some (base, len, new) ∧
         t.revoked = s.revoked ++ [⟨ext, num, base, len, if s.jobNum old = 0 then none else some (s.jobNum old), old⟩] ∧ t.revoking = none ∧
         t.fld f_SLC_REVOKE_STAT_BUSY = 0 ∧ t.fld f_SLC_REVOKE_STAT_STATUS = 0 ∧ t.fld f_SLC_REVOKE_STAT_ABORTED = 0 ∧
         t.fld f_SLC_REVOKE_STAT_LIVE = s.revoked.length + 1 ∧ t.mem = s.mem ∧ t.poison = s.poison ∧
         t.frames.map (fun f => (f.id, f.data, f.cache)) = s.frames.map (fun f => (f.id, f.data, f.cache)))))

/-- R488 to R490, R527 to R531, R549, R554, R592 to R594: an alarm that is due goes to the leader with its difference, and the leader adds it to its
domain table; a forwarded record enters the leader's log marked remote. A record of a unit is written at once, or waits at its bank while clients
hold copies of its lines (R348, R391). An entry is cleared unless it waits to be sent; a window's end writes its
dump; a pass of the audit suspects a cell at first sight and takes it out of use at the second. -/
def Obligations.AlarmsAndAudits : Prop :=
  ∀ (s : State) (p : QPkt) (e : Nat) (dom : Bool) (cs : CellSeen), s.alive = true → s.fenced = false →
    let a := (if dom then 0x160000 else 0x140000) + 0x20 * e
    let fla := 0x140000 + 0x20 * e
    (∀ l o sd, e < 4096 → s.fldAt f_FLA_0_VALID e = 1 → s.fldAt f_FLA_0_PENDING e = 1 → s.alarmDue e = true → s.otherLeader = some l →
      s.outPort s.epoch l 0 = some (o, sd) → ∃ t q, exec (.alarmSend e) s = .next t ∧ t.queue = s.queue ++ [⟨12, 4 + o, .qf q, none⟩] ∧ q.typ = 0x32 ∧ q.dest = l ∧
      q.payload = s.alarmPayload e ∧ t.fldAt f_FLA_0_PENDING e = 0 ∧ t.fldAt f_FLA_1_SENT e = s.fldAt f_FLA_1_COUNT e ∧ s.RegsKept t [fla, fla + 8] ∧
      (e, s.now) ∈ t.alarmSent) ∧
    (s.fldAt f_FLA_0_PENDING e = 0 ∨ s.alarmDue e = false → exec (.alarmSend e) s = .next s) ∧
    (p.dest = s.me → p.typ = 0x32 → s.leader = true → p.payload.length = 48 → p.rsvd = 0 → ∃ t, exec (.alarm p) s = .next t ∧
      let i := (s.alarmSlot 0x160000 p.src (leAt p.payload 0 2) (leAt p.payload 2 1)).1
      i < 4096 ∧ t.mem = s.mem ∧ bits (t.word (0x160000 + 0x20 * i + 8)).toNat 0 32 =
        min (bits (s.word (0x160000 + 0x20 * i + 8)).toNat 0 32 + leAt p.payload 4 4) 0xFFFFFFFF) ∧
    (p.dest = s.me → p.typ = 0x39 → s.leader = true → p.payload.length = 64 → p.rsvd = 0 →
      let l2 := s.fld f_FLT_LOG_RING_LOG2
      let n := s.fld f_FLT_LOG_IDX_PROD
      (l2 = 0 → ∃ t, exec (.diag p) s = .next t ∧ t.mem = s.mem ∧ t.logIntDue = s.logIntDue ∧ t.fld f_FLT_LOG_STAT_UNLOGGED =
        min (s.fld f_FLT_LOG_STAT_UNLOGGED + 1) (2 ^ f_FLT_LOG_STAT_UNLOGGED.width - 1)) ∧
      (l2 ≠ 0 → s.flag f_FLT_CTL_INT_EN = false ∨ bit (leAt p.payload 21 1) 0 = false → s.Kept → ∃ t, exec (.diag p) s = .next t ∧
        t.logIntDue = (s.logIntDue || s.flag f_FLT_CTL_INT_EN) ∧ t.fld f_FLT_LOG_IDX_PROD = (n + 1) % 2 ^ 32 ∧
        s.recorded t (s.fld f_FLT_LOG_RING_BASE * 4096 + 64 * (n % 2 ^ l2)) (p.payload.take 21 ++ [p.payload.getD 21 0#8 ||| 8#8] ++ p.payload.drop 22))) ∧
    (s.logIntDue = false ∨ s.flag f_FLT_CTL_INT_EN = false → exec .logInterruptTimer s = .next s) ∧
    (s.logIntDue = true → s.flag f_FLT_CTL_INT_EN = true →
      let i := s.fld f_FLT_CTL_VECTOR
      (s.fldAt f_SLV_HI_ENABLE i = 1 → s.fldAt f_SLV_HI_MASK i = 1 → ∃ t, exec .logInterruptTimer s = .next t ∧ t.fldAt f_SLV_HI_PENDING i = 1 ∧
        t.logIntDue = false ∧ t.queue = s.queue) ∧
      (∀ k, s.fldAt f_SLV_HI_ENABLE i = 1 → s.fldAt f_SLV_HI_MASK i = 0 → s.fldAt f_SLV_HI_PORT i = k → s.bound k = some 0 → s.klUp k = true →
        s.inWindow k (s.fldAt f_SLV_LO_ADDR i * 4) 4 = true → ∃ t, exec .logInterruptTimer s = .next t ∧ t.logIntDue = false ∧
        t.queue = s.queue ++ [⟨12, k, .kl (mkKl 0x44 4 s.nextTag (s.fldAt f_SLV_LO_ADDR i * 4) (256 * i) (leBytes 4 (s.fldAt f_SLV_HI_DATA i))), none⟩])) ∧
    (e < 4096 → bit (s.word a).toNat 0 = true → bit (s.word a).toNat 1 = false → ∃ t, exec (.alarmEntryClear dom e) s = .next t ∧
      (∀ n < 4, t.word (a + 8 * n) = 0) ∧ s.RegsKept t [a, a + 8, a + 16, a + 24, f_FLT_ALARM_STAT_ENTRIES.addr 0] ∧ t.mem = s.mem) ∧
    (bit (s.word a).toNat 0 = false ∨ bit (s.word a).toNat 1 = true → exec (.alarmEntryClear dom e) s = .next s) ∧
    (let per := s.fld f_OBS_DUMP_CTL_PERIOD_US * 1800
     let b := s.now / per * per
     let n := s.fld f_OBS_DUMP_IDX_PROD
     let l2 := s.fld f_OBS_DUMP_RING_LOG2
     (s.fld f_OBS_DUMP_CTL_ENABLE = 0 ∨ b ≤ s.dumpFrom → exec .dumpBoundary s = .next s) ∧
     (s.fld f_OBS_DUMP_CTL_ENABLE = 1 → s.dumpFrom < b → s.Kept → ∃ t, exec .dumpBoundary s = .next t ∧ t.dumpSeq = s.dumpSeq + 1 ∧ t.dumpFrom = b ∧
       t.dumpChanged = 0 ∧ t.fld f_OBS_DUMP_IDX_PROD = (n + 1) % 2 ^ 32 ∧
       s.recorded t (s.fld f_OBS_DUMP_RING_BASE * 4096 + 576 * (n % 2 ^ l2)) (s.dumpRecord (s.dumpSeq + 1) b))) ∧
    (s.flag f_STORE_AUDIT_ENABLE = false → exec (.storeAuditPass [cs] []) s = .next s) ∧
    (s.flag f_STORE_AUDIT_ENABLE = true → cs.held = false → cs.free = false →
      (s.cells.find? (fun x => x.cell == cs.cell) = none → ∃ t, exec (.storeAuditPass [cs] []) s = .next t ∧
        t = { s with cells := t.cells, auditDiff := [] } ∧ ⟨cs.cell, cs.owner, cs.gen, .suspect⟩ ∈ t.cells) ∧
      (∀ o, s.cells.find? (fun x => x.cell == cs.cell) = some ⟨cs.cell, o, cs.gen, .suspect⟩ → s.fld f_STORE_CARVE_STAT_SPARE ≠ 0 →
        ∃ t, exec (.storeAuditPass [cs] []) s = .next t ∧ ⟨cs.cell, cs.owner, cs.gen, .quarantined⟩ ∈ t.cells ∧
          t.fld f_STORE_AUDIT_STAT_LEAKED = min (s.fld f_STORE_AUDIT_STAT_LEAKED + 1) (2 ^ 16 - 1) ∧
          t.fld f_STORE_AUDIT_STAT_QUARANTINED = min (s.fld f_STORE_AUDIT_STAT_QUARANTINED + 1) (2 ^ 16 - 1) ∧
          t.fld f_STORE_CARVE_STAT_SPARE = s.fld f_STORE_CARVE_STAT_SPARE - 1)) ∧
    (∀ n, s.flag f_STORE_AUDIT_ENABLE = true → n = s.fld f_STORE_AUDIT_STAT_DUALS → cs.held = true → cs.free = true →
      s.cells.find? (fun x => x.cell == cs.cell) = none → ∃ t, exec (.storeAuditPass [cs] []) s = .next t ∧
      ⟨cs.cell, cs.owner, cs.gen, .dual⟩ ∈ t.cells ∧ t.fld f_STORE_AUDIT_STAT_DUALS = min (n + 1) (2 ^ 16 - 1))


/-! ### Drives and DRAM -/

/-- R278, R281, R297 to R303: an answer of a drive ends its command. A read that matches its tag fills the cache frame, one that does not is read once
more; a reclamation copy whose tags differ twice ends with nothing written; an append gives the tile its place, and one that fails has its zone
finished; a Reset empties its zone, unless it has gone offline; a reset controller is set up again. A command that does not end in time is aborted, an abort that does not end
resets the controller, and a reset that does not end, a lost link, a fatal status or a removal fails the drive: its tiles are written again where a
whole copy is cached, and lost else. -/
def Obligations.DriveCommands : Prop :=
  ∀ (s : State) (c : NvmeCmd) (d : Drive) (f : Frame) (data : List Byte), s.alive = true → s.nvmeCmd c.id = some c → s.fillQ = [] →
    let gone := s.nvme.filter (fun x => !(x.id == c.id))
    (c.op = .read f.id → s.frame f.id = some f → c.aborting = false → data.length = tileBytes →
      (∀ cf, f.cache = some cf → f.lost = none → crc32c data = f.tag → ∃ t, exec (.nvmeReadComplete c.id 0 data) s = .next t ∧ t.nvme = gone ∧
        t.frame f.id = some { f with cache := some (cf.fill data) } ∧ t.mem = s.mem) ∧
      (crc32c data ≠ f.tag → c.retagged = false → ∃ t, exec (.nvmeReadComplete c.id 0 data) s = .next t ∧ t.frames = s.frames ∧
        t.fld f_TIER_ERR_TAG_MISMATCHES = min (s.fld f_TIER_ERR_TAG_MISMATCHES + 1) (2 ^ 32 - 1) ∧
        t.nvme = s.nvme.map (fun x => if x.id = c.id then { c with retagged := true } else x)) ∧
      (∀ st, st ≠ 0 → c.retried = false → exec (.nvmeReadComplete c.id st data) s =
        .next { s with nvme := s.nvme.map (fun x => if x.id = c.id then { c with retried := true } else x) }) ∧
      (∀ st, st ≠ 0 → c.retried = true → f.lost = none → ∃ t, exec (.nvmeReadComplete c.id st data) s = .next t ∧ t.nvme = gone ∧
        t.frame f.id = some { f with lost := some ePoison })) ∧
    (∀ zone bytes dirty tag slot, c.op = .append f.id false zone bytes dirty tag → s.frame f.id = some f → c.aborting = false →
      (∃ t, exec (.zoneAppendComplete c.id 0 slot) s = .next t ∧ t.nvme = gone ∧ t.mem = s.mem ∧
        ((∀ e ∈ s.descs, e.moving ≠ [(f.id, f.id)]) → t.descs = s.descs ∧ t.frame f.id = some { f with slot := some ⟨c.port, zone, slot⟩, tag := tag }) ∧
        (∀ e, s.descs = [e] → e.op = 0x39 → e.phase = .running → e.moving = [(f.id, f.id)] →
          t.descs = [{ e with work := e.work + 1, progress := e.progress + 1, moving := [] }])) ∧
      (s.liveDrives = [] → ∃ t, exec (.zoneAppendComplete c.id 1 slot) s = .next t ∧ t.nvme = gone ∧
        t.frame f.id = some { f with cache := f.cache.map (fun x => { x with dirty := x.dirty ||| (dirty &&& x.valid) }) })) ∧
    (∀ zone bytes dirty tag slot z, c.op = .append f.id false zone bytes dirty tag → c.aborting = false → s.drive c.port = some d →
      d.zone zone = some z → z.state = .opened → ∃ t, exec (.zoneAppendComplete c.id 1 slot) s = .next t ∧ c ∉ t.nvme ∧
        ∃ x ∈ t.nvme, x.port = c.port ∧ x.op = .finish zone) ∧
    (∀ n, c.op = .readRc f.id → s.frame f.id = some f → c.aborting = false → data.length = tileBytes → crc32c data = f.tag → 2 ≤ n →
      ∃ t, exec (.nvmeReadComplete c.id 0 data n) s = .next t ∧ t.nvme = gone ∧ t.frames = s.frames ∧
        t.fld f_TIER_ERR_TAG_MISMATCHES = min (s.fld f_TIER_ERR_TAG_MISMATCHES + 2) (2 ^ 32 - 1)) ∧
    (∀ z op x, c.op = .finish z ∨ c.op = .setup op x → exec (.nvmeCommandComplete c.id 0 []) s = .next { s with nvme := gone }) ∧
    (s.drive c.port = some d → ∀ z, c.op = .reset z → ∃ t, exec (.nvmeCommandComplete c.id 0 []) s = .next t ∧
      t = { s with nvme := gone, drives := t.drives } ∧ t.drive c.port = some (({ d with zones := d.zones.map (fun x =>
        if x.num = z ∧ x.state ≠ .excluded then { x with state := .empty, written := 0 } else x) } : Drive).keepOpen (s.fld f_MEDIA_CTL_RECLAIM_LOW))) ∧
    (∀ cmd, c.op = .abort cmd → exec (.nvmeCommandComplete c.id 0 []) s = .next { s with nvme := gone.filter (fun x => !(x.id == cmd)) }) ∧
    (c.op = .controllerReset →
      (c.port ∉ s.mediaWait → exec (.nvmeCommandComplete c.id 0 []) s =
        .next { s with nvme := gone ++ [⟨s.nextCmd, c.port, .admin 0x0C, false, false, false⟩], nextCmd := s.nextCmd + 1 }) ∧
      (c.port ∈ s.mediaWait → ∃ t, exec (.nvmeCommandComplete c.id 0 []) s = .next t ∧ t = { s with nvme := t.nvme, nextCmd := t.nextCmd } ∧
        ∀ x ∈ setupCmds, ∃ y ∈ t.nvme, y.port = c.port ∧ y.op = .setup x.1 x.2)) ∧
    (c.op = .admin 0x0C → exec (.nvmeCommandComplete c.id 0 []) s = .next { s with
      nextCmd := s.nextCmd + 2
      nvme := gone ++ [⟨s.nextCmd, c.port, .admin 0x0C, false, false, false⟩, ⟨s.nextCmd + 1, c.port, .admin 0x02, false, false, false⟩] }) ∧
    (s.descs = [] →
      (c.aborting = false → (∀ x, c.op ≠ .abort x) → c.op ≠ .controllerReset → ∃ t, exec (.nvmeCommandTimeout c.id) s = .next t ∧
        t.nvme = s.nvme.map (fun x => if x.id = c.id then { c with aborting := true } else x) ++ [⟨s.nextCmd, c.port, .abort c.id, false, false, false⟩] ∧
        t.fld f_FLT_SEQ_SEQ = (s.fld f_FLT_SEQ_SEQ + 1) % 2 ^ 64) ∧
      (∀ x, c.op = .abort x → ∃ t, exec (.nvmeAbortTimeout c.id) s = .next t ∧
        t.nvme = s.nvme.filter (fun x => !(x.port == c.port)) ++ [⟨s.nextCmd, c.port, .controllerReset, false, false, false⟩])) ∧
    (∀ port i, port < 8 → s.fldAt f_MEDIA_PORT_STATE port = 1 → (s.frames.map (·.id)).Nodup →
      i = .driveLinkDown port ∨ i = .controllerFatalStatus port ∨ i = .driveRemoved port ∨
        (c.port = port ∧ c.op = .controllerReset ∧ i = .controllerResetTimeout port) → ∃ t, exec i s = .next t ∧ t.fldAt f_MEDIA_PORT_STATE port = 2 ∧
        (∀ x ∈ t.nvme, x.port ≠ port) ∧ ∀ g ∈ s.frames, g.slot.any (fun x => x.drive == port) = true → g.lost = none →
          (g.cache.any (fun x => x.valid == BitVec.allOnes 16) = true → t.frame g.id = some g.rewrite) ∧
          (g.cache.any (fun x => x.valid == BitVec.allOnes 16) = false → (t.frame g.id).map (·.lost) = some (some ePoison))) ∧
    (∀ port i, s.fldAt f_MEDIA_PORT_STATE port ≠ 1 → (port ∉ s.mediaWait ∧ (i = .driveLinkDown port ∨ i = .controllerFatalStatus port)) ∨
      i = .driveRemoved port → exec i s = .next s)

/-- R282, R295 to R300, R303, R316: a drive that was present at boot comes up when it meets the requirements, with its zones that are not offline, each
that is not empty reset, two open, and an event asked for; it is not used else; its link's rate and width are shown, and a drive that comes up is sent the commands of its bring-up. An access of a drive outside the
buffer of its command, in that command's direction, and outside its queues is counted and changes nothing else. The background fills or writes back one
tile while too many frames are dirty; a drive short of empty zones reads the tiles of its emptiest full zone that no command is outstanding for, all of them unless reads and
write-backs of others keep its share down (log entry 111), or resets a zone without tiles. R304 to
R307, R313, R314: a patrol read that the code corrects is counted, one that it cannot correct poisons its line; a frame of the pool is retired once;
Borage starts when no slice holds a pseudo-channel, a refused start changes nothing but `REJECT`, and a pass leaves the pattern on the stacks it tested
and every other byte of plain memory as it was; a region entry on a tested stack names no region afterwards (the model's reading, log entry 92). -/
def Obligations.DriveAndDramUpkeep : Prop :=
  (∀ (s : State) (port : Nat), s.alive = true → port < 8 →
     let events (t : State) := t.fld f_FLT_SEQ_SEQ = (s.fld f_FLT_SEQ_SEQ + 1) % 2 ^ 64
     let waits := s.fldAt f_MEDIA_PORT_RATE port ≠ 0 ∧ port ∈ s.mediaWait
     (∀ (x : NvmeId) (ns : List NvmeNs),
       (¬ waits → exec (.mediaBringup port x ns) s = .next s) ∧
       (waits → s.fillQ = [] → (∀ n, nvmeSpace ns = some n → x.meets n = false) → ∃ t, exec (.mediaBringup port x ns) s = .next t ∧
         t.fldAt f_MEDIA_PORT_STATE port = 3 ∧ t.drives = s.drives ∧ port ∉ t.mediaWait ∧ (∀ c ∈ t.nvme, c.port = port → ∀ op a, c.op ≠ .setup op a) ∧ (s.flag f_FLT_CTL_INT_EN = false → events t)) ∧
       (∀ n, waits → s.fillQ = [] → nvmeSpace ns = some n → x.meets n = true → ∃ t d, exec (.mediaBringup port x ns) s = .next t ∧
         t.fldAt f_MEDIA_PORT_STATE port = 1 ∧ t.drive port = some d ∧ d.queues = min 16 (min x.sqs x.cqs) ∧ port ∉ t.mediaWait ∧
         (∀ z ∈ d.zones, z.written = 0 ∧ ∃ y ∈ n.zones, y.2.2 ≠ 2 ∧ z.num = y.1 ∧ z.cap = y.2.1 / 16 ∧
           (if y.2.2 = 1 then z.state = .full else z.state = .empty ∨ z.state = .opened)) ∧
         (∀ y ∈ n.zones, y.2.2 = 1 → ∃ c ∈ t.nvme, c.port = port ∧ c.op = .reset y.1) ∧ (∃ c ∈ t.nvme, c.port = port ∧ c.op = .admin 0x0C) ∧
         (∀ c ∈ t.nvme, c.port = port → ∀ op a, c.op ≠ .setup op a) ∧ t.frames = s.frames ∧ t.mem = s.mem)) ∧
     (∀ rate width, let takes := (1 ≤ rate ∧ rate ≤ 3) ∧ (width = 1 ∨ width = 2 ∨ width = 4) ∧ (port ∈ s.mediaWait ∨ s.fldAt f_MEDIA_PORT_STATE port = 1)
       (¬ takes → exec (.mediaLinkUp port rate width) s = .next s) ∧
       (takes → ∃ t, exec (.mediaLinkUp port rate width) s = .next t ∧ t = { s with regs := t.regs, nvme := t.nvme, nextCmd := t.nextCmd } ∧
         s.RegsKept t [0x70080 + 8 * port] ∧
         (if port ∈ s.mediaWait ∧ s.fldAt f_MEDIA_PORT_RATE port = 0 then ∀ x ∈ setupCmds, ∃ c ∈ t.nvme, c.port = port ∧ c.op = .setup x.1 x.2
          else t.nvme = s.nvme ∧ t.nextCmd = s.nextCmd) ∧ t.fldAt f_MEDIA_PORT_RATE port = rate ∧ t.fldAt f_MEDIA_PORT_WIDTH port = width)) ∧
     (∃ t, exec (.aerMessage port) s = .next t ∧ events t ∧ t.nvme = s.nvme ∧ t.frames = s.frames) ∧
     (∀ area write off len,
       let inBuffer (c : NvmeCmd) : Prop :=
         (write = true ∧ (((∃ g, c.op = .read g ∨ c.op = .readRc g) ∧ off + len ≤ tileBytes) ∨ (c.op = .admin 0x02 ∧ off + len ≤ 4096) ∨
           ((∃ x, c.op = .setup 0x06 x ∨ c.op = .setup 0x7A x) ∧ off + len ≤ 4096))) ∨
         (write = false ∧ off + len ≤ tileBytes ∧ ∃ g rc z b dd tg, c.op = .append g rc z b dd tg)
       let entries (p : Nat) := if p = 0 then 64 else 1024
       let served := ∃ q, s.dmaQueues port = some q ∧
         ((∃ c ∈ s.nvme, area = .buffer c.id ∧ c.port = port ∧ inBuffer c) ∨
          (∃ p, area = .sq p ∧ write = false ∧ p ≤ q ∧ off + len ≤ 64 * entries p) ∨
          (∃ p, area = .cq p ∧ write = true ∧ p ≤ q ∧ off + len ≤ 16 * entries p))
       (served → exec (.driveDmaRequest port area write (off, len)) s = .next s) ∧
       (¬ served → ∃ t, exec (.driveDmaRequest port area write (off, len)) s = .next t ∧ events t ∧
         t.fldAt f_MEDIA_PORT_DMA_REJECTS port = min (s.fldAt f_MEDIA_PORT_DMA_REJECTS port + 1) (2 ^ 16 - 1) ∧ t.frames = s.frames ∧ t.nvme = s.nvme)) ∧
     (∀ n, let on := s.dirtyAbove (s.fld f_TIER_CACHE_DIRTY_HIGH) = true ∨ (s.background = true ∧ s.dirtyAbove (s.fld f_TIER_CACHE_DIRTY_LOW) = true)
       let next := s.dirtyFrames.find? (fun f => !s.writingBack f.id && f.lost.isNone && (s.cachePoison f).isNone)
       (¬ on → exec (.backgroundWriteback n) s = .next { s with background := false }) ∧
       (on → next = none → exec (.backgroundWriteback n) s = .next { s with background := true }) ∧
       (∀ f c, on → next = some f → s.frame f.id = some f → f.cache = some c →
         let tag := crc32c (cellsRead c.data 0 tileBytes)
         (c.valid ≠ BitVec.allOnes 16 → f.located = true → exec (.backgroundWriteback n) s = .next ({ s with background := true }.startFill f.id)) ∧
         (c.valid ≠ BitVec.allOnes 16 → f.located = false → exec (.backgroundWriteback n) s =
           .next ({ s with background := true }.setFrame { f with cache := some { c with valid := BitVec.allOnes 16 } })) ∧
         (c.valid = BitVec.allOnes 16 → 2 ≤ n → ∃ t, exec (.backgroundWriteback n) s = .next t ∧ t.background = true ∧ t.nvme = s.nvme ∧
           t.klOuts = s.klOuts ∧ t.fld f_TIER_ERR_TAG_MISMATCHES = min (s.fld f_TIER_ERR_TAG_MISMATCHES + 2) (2 ^ 32 - 1)) ∧
         (c.valid = BitVec.allOnes 16 → n < 2 → f.tier = 2 →
           (s.liveDrives = [] → exec (.backgroundWriteback n) s = .next { s with background := true }) ∧
           (∀ p ps d d1 z, s.driveOrder = p :: ps → s.drive p = some d → d.openZone (s.fld f_MEDIA_CTL_RECLAIM_LOW) false none = some (d1, z) →
             s.appendsIn p z.num < 64 → ∃ t, exec (.backgroundWriteback n) s = .next t ∧ t.background = true ∧ t.mem = s.mem ∧ t.nextDrive = p + 1 ∧
             t.frame f.id = some { f with cache := some { c with dirty := 0 } } ∧
             ∃ x ∈ t.nvme, x.port = p ∧ x.op = .append f.id false z.num c.data c.dirty tag)) ∧
         (c.valid = BitVec.allOnes 16 → n < 2 → f.tier = 3 → s.klUp f.port = true → ∃ t, exec (.backgroundWriteback n) s = .next t ∧
           t.background = true ∧ t.mem = s.mem ∧ t.frame f.id = some { f with cache := some { c with dirty := 0 } } ∧
           ∀ k < 64, ∃ o ∈ t.klOuts, o.port = f.port ∧ o.tag = s.nextTag + k ∧ o.why = .writeback f.id c.dirty tag))) ∧
     (s.drive port = none → exec (.zoneReclaim port) s = .next s) ∧
     (∀ d, s.drive port = some d →
       let short := (d.zones.filter (fun z => z.state == .empty)).length < s.fld f_MEDIA_CTL_RECLAIM_LOW
       (¬ short ∨ s.victimZone d = none → exec (.zoneReclaim port) s = .next s) ∧
       (∀ z, short → s.victimZone d = some z → s.zoneLive port z.num = [] → (∃ x ∈ s.nvme, x.port = port ∧ x.op = .reset z.num) →
         exec (.zoneReclaim port) s = .next s) ∧
       (∀ z, short → s.victimZone d = some z → s.zoneLive port z.num = [] → (∀ x ∈ s.nvme, x.port = port → x.op ≠ .reset z.num) →
         exec (.zoneReclaim port) s =
           .next { s with nvme := s.nvme ++ [⟨s.nextCmd, port, .reset z.num, false, false, false⟩], nextCmd := s.nextCmd + 1 }) ∧
       (∀ z, short → s.victimZone d = some z → s.zoneLive port z.num ≠ [] →
         let demand := ∃ x ∈ s.nvme, x.port = port ∧ ∃ g, x.op = .read g ∨ ∃ zone bytes dirty tag, x.op = .append g false zone bytes dirty tag
         (s.reclaimRoom port = false → exec (.zoneReclaim port) s = .next s) ∧
         ∃ t, exec (.zoneReclaim port) s = .next t ∧ t = { s with nvme := t.nvme, nextCmd := t.nextCmd } ∧
           (¬ demand → ∀ f ∈ s.zoneLive port z.num, ∃ x ∈ t.nvme, x.port = port ∧
             (x.op = .readRc f.id ∨ ∃ zone bytes dirty tag, x.op = .append f.id true zone bytes dirty tag))))) ∧
  (∀ (s : State) (a pc : Nat) (w : Word), s.alive = true →
     let busy := s.flag f_BORAGE_STATUS_BUSY
     let stk := f_BORAGE_CTL_STACKS.get w
     let pat := f_BORAGE_CTL_PATTERN.get w
     let shown (t : State) := t.fld f_BORAGE_CTL_PATTERN = pat ∧ t.fld f_BORAGE_CTL_STACKS = stk
     let held := stk ≠ 0 ∧ ∃ i, 1 ≤ i ∧ i < 64 ∧ s.fldAt f_SLC_SHARE_DRAM_PCS i ≠ 0
     let retire := f_TIER_RETIRE_ADDR.get w * tileBytes
     let frameNo := (retire - s.poolBase) / tileBytes
     (s.fld f_TIER_SCRUB_ENABLE = 0 ∨ 384 ≤ pc → ∀ e, exec (.patrolScrub a pc e) s = .next s) ∧
     (s.fld f_TIER_SCRUB_ENABLE = 1 → pc < 384 → exec (.patrolScrub a pc .none) s = .next s ∧
       (∃ t, exec (.patrolScrub a pc .corrected) s = .next t ∧ s.OnlyRegs t ∧
         t.fldAt f_TIER_PC_ERR_CORRECTED pc = min (s.fldAt f_TIER_PC_ERR_CORRECTED pc + 1) (2 ^ 32 - 1)) ∧
       (∃ t, exec (.patrolScrub a pc .uncorrectable) s = .next t ∧
         t.fldAt f_TIER_PC_ERR_UNCORRECTED pc = min (s.fldAt f_TIER_PC_ERR_UNCORRECTED pc + 1) (2 ^ 32 - 1) ∧
         (s.fld f_FLT_LOG_RING_LOG2 = 0 → s.placeOf (a / 64 * 64) = .direct → a / 64 * 64 ∈ t.poison ∧ t.mem = s.mem))) ∧
     (s.inPool retire = true →
       (frameNo ∈ s.retired → exec (.tierRetire w) s = .next s) ∧
       (frameNo ∉ s.retired → ∃ t, exec (.tierRetire w) s = .next t ∧ t = { s with regs := t.regs, retired := s.retired ++ [frameNo] } ∧
         s.RegsKept t [0x70028] ∧ t.fld f_TIER_ERR_RETIRED = min (s.fld f_TIER_ERR_RETIRED + 1) 255)) ∧
     (s.inPool retire = false → ∃ t, exec (.tierRetire w) s = .next t ∧ t.retired = s.retired ∧
       (s.flag f_FLT_CTL_INT_EN = false → t.fld f_FLT_SEQ_SEQ = (s.fld f_FLT_SEQ_SEQ + 1) % 2 ^ 64)) ∧
     (f_BORAGE_CTL_START.get w = 0 ∨ busy = true → ∃ t, exec (.borageStart w) s = .next t ∧ s.OnlyWords t [0x70040] ∧ shown t) ∧
     (f_BORAGE_CTL_START.get w = 1 → busy = false → held → ∃ t, exec (.borageStart w) s = .next t ∧ s.OnlyWords t [0x70048] ∧
       t.fld f_BORAGE_STATUS_REJECT = 1 ∧ t.fld f_BORAGE_STATUS_BUSY = 0) ∧
     (f_BORAGE_CTL_START.get w = 1 → busy = false → ¬ held → ∃ t, exec (.borageStart w) s = .next t ∧
       t = { s with regs := t.regs, borage := (stk, pat) } ∧ s.RegsKept t [0x70040, 0x70048] ∧ shown t ∧ t.fld f_BORAGE_STATUS_BUSY = 1 ∧
       t.fld f_BORAGE_STATUS_FAILS = 0 ∧ t.fld f_BORAGE_STATUS_FIRST_FAIL = 0) ∧
     (∀ fails first, (busy = false → exec (.borageDone fails first) s = .next s) ∧
       (busy = true → ∃ t, exec (.borageDone fails first) s = .next t ∧ t.fld f_BORAGE_STATUS_BUSY = 0 ∧ t.fld f_BORAGE_STATUS_FAILS = min fails 4095 ∧
         t.fld f_BORAGE_STATUS_FIRST_FAIL = first % 2 ^ 50 ∧
         t.regions = s.regions.filter (fun r => !bit s.borage.1 (Config.stackOf (s.tableRange.1 + 64 * r.num))) ∧
         (t.regions = s.regions → (∀ f ∈ s.frames, f.id ∈ s.refs) → s.RegsKept t [0x70048]) ∧
         ∀ b, let tested := directBase ≤ b ∧ b < directBase + s.directLen ∧ bit s.borage.1 (Config.stackOf b) = true
           (tested → cellByte t.mem b = if s.borage.2 = 0 then 0#8 else Config.patternByte s.borage.2 b) ∧
           (b < directBase ∨ (b < directBase + s.directLen ∧ ¬ tested) → cellByte t.mem b = cellByte s.mem b))))


/-- R304, R474: errors that the reads of a command find act before it: a corrected one of the store, in whatever part of it, is counted and changes nothing else; an
uncorrectable one poisons its line and is counted. R107, R136: an attention descriptor whose pass reads an uncorrectable word of operand memory ends
with `E_POISON`, and one whose audit finds a mismatch under `FAIL_ON_MISMATCH` with `E_INTEGRITY`, each naming the tile and with nothing written;
corrected errors change no result, and neither do errors of arrays that run no pass of the descriptor (R106, R109); a mismatch marks both arrays, which
are two of one group, and is counted. -/
def Obligations.HardwareErrors : Prop :=
  (∀ (s : State) (c : List MemErr → Instr) (es : List MemErr), s.alive = true →
     (∃ sl r, c = .descriptorConsume sl r) ∨ (∃ port p, c = .clientRead port p ∨ c = .clientWrite port p) ∨ (∃ p, c = .qfRead p ∨ c = .bulkRead p) →
     let t := forL es s (fun e t => t.memErr e)
     (t.alive = true → exec (c es) s = exec (c []) t) ∧ (t.alive = false → exec (c es) s = .next t)) ∧
  (∀ (s : State) (e : MemErr), s.inScratch e.addr = true →
     (e.err = .corrected → s.OnlyWords (s.memErr e) [0xC0028] ∧
       (s.memErr e).fld f_STORE_ECC_CORRECTED = min (s.fld f_STORE_ECC_CORRECTED + 1) (2 ^ 32 - 1)) ∧
     (e.err = .uncorrectable → (s.memErr e).fld f_STORE_ECC_UNCORRECTED = min (s.fld f_STORE_ECC_UNCORRECTED + 1) (2 ^ 32 - 1) ∧
       (s.fld f_FLT_LOG_RING_LOG2 = 0 → e.addr / 64 * 64 ∈ (s.memErr e).poison ∧ (s.memErr e).mem = s.mem))) ∧
  (∀ (s : State) (e : MemErr), s.inScratch e.addr = false → e.store = true →
     (6 * gib ≤ e.addr → s.memErr e = s) ∧
     (e.addr < 6 * gib → (e.err = .corrected → s.OnlyWords (s.memErr e) [0xC0028] ∧
         (s.memErr e).fld f_STORE_ECC_CORRECTED = min (s.fld f_STORE_ECC_CORRECTED + 1) (2 ^ 32 - 1)) ∧
       (e.err = .uncorrectable → (s.memErr e).fld f_STORE_ECC_UNCORRECTED = min (s.fld f_STORE_ECC_UNCORRECTED + 1) (2 ^ 32 - 1)))) ∧
  (∀ (s : State) (d : Desc) (errs : List ArrErr) (tiles : List Nat) (rowsOf : Nat → Nat → Bool) (list : List Byte) (stride : Nat)
     (row : Nat → List Byte),
     let ends (status : Nat) := ∃ o ts, s.attFinish d errs tiles rowsOf list stride row = .ok (o, ts) ∧ o.status = status ∧ o.kind = 2 ∧ o.detail ∈ tiles ∧
       o.progress = 0 ∧ o.eff.s = s ∧ o.eff.out = []
     let broken := ∃ x ∈ errs, x.pass < tiles.length ∧ x.fault = .uncorrectable
     (broken → ends ePoison) ∧
     (¬ broken → (∃ x ∈ errs, x.pass < tiles.length ∧ (s.mismatch d.engine x).isSome = true) → s.flag f_ARR_AUDIT_CTL_FAIL_ON_MISMATCH = true →
       ends eIntegrity) ∧
     ((∀ x ∈ errs, x.fault = .corrected) → s.attFinish d errs tiles rowsOf list stride row = s.attFinish d [] tiles rowsOf list stride row) ∧
     ((∀ x ∈ errs, x.array / 8 = d.engine → bit (s.fld f_ARR_DISABLE_ARRAY) x.array = true) → s.attPass d errs = s.attPass d [])) ∧
  (∀ (s u : State) (d : Desc) (tiles : List Nat) (x : ArrErr), x.pass < tiles.length →
     let t := s.arrErrs u d tiles [x]
     (x.fault = .corrected → s.OnlyWords t [0x30028] ∧ t.fld f_ARR_ECC_CORRECTED = min (s.fld f_ARR_ECC_CORRECTED + 1) (2 ^ 32 - 1)) ∧
     (x.fault = .uncorrectable → t.fld f_ARR_ECC_UNCORRECTED = min (s.fld f_ARR_ECC_UNCORRECTED + 1) (2 ^ 32 - 1)) ∧
     (∀ b, x.fault = .differs → u.mismatch d.engine x = some b → x.array < 64 → b / 8 = x.array / 8 ∧ b ≠ x.array ∧
       bit (u.fld f_ARR_DISABLE_ARRAY) b = false ∧ bit (t.fld f_ARR_MISMATCH_ARRAY) x.array = true ∧ bit (t.fld f_ARR_MISMATCH_ARRAY) b = true ∧
       t.fld f_ARR_AUDIT_STATUS_MISMATCHES = min (s.fld f_ARR_AUDIT_STATUS_MISMATCHES + 1) (2 ^ 32 - 1)) ∧
     (x.fault = .differs → u.mismatch d.engine x = none → t = s))
end

