-- ==== Sys2Proof/Laws/Ops.lean ====
section
/-! SUPPORT. The laws of sparse lists: a read after a write, the canonical form kept by every write, and the same of registers, fields
and plain memory. -/

namespace Sys2Proof.Machine

/-! ### Sparse lists -/

section Sparse
variable {α : Type} [DecidableEq α]

theorem entries_keys (d : Nat → α) (vs : List α) (k : Nat) : ∀ e ∈ entries d k vs, k ≤ e.1 ∧ e.1 < k + vs.length ∧ e.2 ≠ d e.1 := by
  induction vs generalizing k with
  | nil => simp [entries]
  | cons v vs ih =>
    intro e he
    have step : e ∈ entries d (k + 1) vs → k ≤ e.1 ∧ e.1 < k + (v :: vs).length ∧ e.2 ≠ d e.1 := by
      intro h
      have := ih (k + 1) e h
      simp only [List.length_cons]
      exact ⟨by omega, by omega, this.2.2⟩
    unfold entries at he
    split at he
    · exact step he
    · rcases List.mem_cons.mp he with rfl | h
      · exact ⟨Nat.le_refl _, by simp, by assumption⟩
      · exact step h

theorem entries_rising (d : Nat → α) (vs : List α) (k : Nat) : (entries d k vs).Pairwise (fun a b => a.1 < b.1) := by
  induction vs generalizing k with
  | nil => simp [entries]
  | cons v vs ih =>
    unfold entries
    split
    · exact ih _
    · refine List.pairwise_cons.mpr ⟨fun e he => ?_, ih _⟩
      have := (entries_keys d vs (k + 1) e he).1
      omega

theorem canon_iff (d : Nat → α) (m : List (Nat × α)) :
    canon d m = true ↔ m.Pairwise (fun a b => a.1 < b.1) ∧ ∀ e ∈ m, e.2 ≠ d e.1 := by
  simp [canon]

/-- A write keeps the canonical form. -/
theorem canon_put {d : Nat → α} {m : List (Nat × α)} (h : canon d m = true) (k : Nat) (vs : List α) : canon d (put d m k vs) = true := by
  rw [canon_iff] at h ⊢
  obtain ⟨hp, hd⟩ := h
  refine ⟨?_, ?_⟩
  · unfold put
    refine List.pairwise_append.mpr ⟨hp.filter _, List.pairwise_append.mpr ⟨entries_rising d vs k, hp.filter _, ?_⟩, ?_⟩
    · intro a ha b hb
      have := entries_keys d vs k a ha
      simp only [List.mem_filter, decide_eq_true_eq] at hb
      omega
    · intro a ha b hb
      simp only [List.mem_filter, decide_eq_true_eq] at ha
      rcases List.mem_append.mp hb with hb | hb
      · have := entries_keys d vs k b hb
        omega
      · simp only [List.mem_filter, decide_eq_true_eq] at hb
        omega
  · intro e he
    unfold put at he
    rcases List.mem_append.mp he with h1 | h1
    · exact hd e (List.mem_filter.mp h1).1
    · rcases List.mem_append.mp h1 with h2 | h2
      · exact (entries_keys d vs k e h2).2.2
      · exact hd e (List.mem_filter.mp h2).1

/-- Leaving entries out keeps the canonical form. -/
theorem canon_filter {d : Nat → α} {m : List (Nat × α)} (h : canon d m = true) (p : Nat × α → Bool) : canon d (m.filter p) = true := by
  rw [canon_iff] at h ⊢
  exact ⟨h.1.filter _, fun e he => h.2 e (List.mem_filter.mp he).1⟩

@[simp] theorem canon_nil (d : Nat → α) : canon d [] = true := by simp [canon]

omit [DecidableEq α] in
theorem look_append (x : α) (l m : List (Nat × α)) (k : Nat) :
    look x (l ++ m) k = if l.any (fun e => e.1 == k) then look x l k else look x m k := by
  unfold look
  rw [List.find?_append]
  cases h : l.find? (fun e => e.1 == k) with
  | some e =>
    have : l.any (fun e => e.1 == k) = true := by
      rw [List.any_eq_true]
      exact ⟨e, List.mem_of_find?_eq_some h, List.find?_some (p := fun e : Nat × α => e.1 == k) h⟩
    simp [this]
  | none =>
    have : l.any (fun e => e.1 == k) = false := by
      rw [List.any_eq_false]
      intro e he
      exact List.find?_eq_none.mp h e he
    simp [this]

omit [DecidableEq α] in
theorem look_filter (x : α) (m : List (Nat × α)) (k : Nat) (p : Nat × α → Bool) (hp : ∀ v, p (k, v) = true) :
    look x (m.filter p) k = look x m k := by
  unfold look
  congr 1
  induction m with
  | nil => rfl
  | cons e es ih =>
    by_cases hk : e.1 = k
    · have : p e = true := by rw [← hk] at hp; exact hp e.2
      simp [this, hk]
    · by_cases hq : p e = true
      · simp [hq, hk, ih]
      · simp [hq, hk, ih]

omit [DecidableEq α] in
theorem look_filter_out (x : α) (m : List (Nat × α)) (k : Nat) (p : Nat × α → Bool) (hp : ∀ v, p (k, v) = false) :
    look x (m.filter p) k = x := by
  unfold look
  have : (m.filter p).find? (fun e => e.1 == k) = none := by
    rw [List.find?_eq_none]
    intro e he hk
    have h2 := (List.mem_filter.mp he).2
    have : e.1 = k := by simpa using hk
    rw [← this] at hp
    have h3 := hp e.2
    rw [h2] at h3
    exact absurd h3 (by decide)
  rw [this]

theorem look_entries (d : Nat → α) (vs : List α) (k j : Nat) :
    look (d j) (entries d k vs) j = if k ≤ j ∧ j < k + vs.length then vs.getD (j - k) (d j) else d j := by
  induction vs generalizing k with
  | nil => simp [entries, look]
  | cons v vs ih =>
    have tail : look (d j) (entries d (k + 1) vs) j = if k + 1 ≤ j ∧ j < k + 1 + vs.length then vs.getD (j - (k + 1)) (d j) else d j := ih (k + 1)
    have body (hne : j ≠ k) : look (d j) (entries d (k + 1) vs) j = if k ≤ j ∧ j < k + (v :: vs).length then (v :: vs).getD (j - k) (d j) else d j := by
      rw [tail]
      by_cases hk : k ≤ j ∧ j < k + (v :: vs).length
      · have h1 : k + 1 ≤ j ∧ j < k + 1 + vs.length := by simp only [List.length_cons] at hk; omega
        have h2 : j - k = (j - (k + 1)) + 1 := by omega
        simp only [if_pos hk, if_pos h1, h2, List.getD_cons_succ]
      · have h1 : ¬ (k + 1 ≤ j ∧ j < k + 1 + vs.length) := by simp only [List.length_cons] at hk; omega
        simp only [if_neg hk, if_neg h1]
    unfold entries
    split
    · rename_i hv
      by_cases hj : j = k
      · subst hj
        rw [tail]
        have h1 : ¬ (j + 1 ≤ j ∧ j < j + 1 + vs.length) := by omega
        rw [if_neg h1]
        simp [hv]
      · exact body hj
    · by_cases hj : j = k
      · subst hj
        simp [look]
      · have : look (d j) ((k, v) :: entries d (k + 1) vs) j = look (d j) (entries d (k + 1) vs) j := by
          unfold look
          simp [Ne.symm hj]
        rw [this]
        exact body hj

/-- A key reads what the last write to it put there, and every other key what it read before. -/
theorem look_put (d : Nat → α) (m : List (Nat × α)) (k : Nat) (vs : List α) (j : Nat) :
    look (d j) (put d m k vs) j = if k ≤ j ∧ j < k + vs.length then vs.getD (j - k) (d j) else look (d j) m j := by
  unfold put
  rw [look_append, look_append]
  by_cases h1 : j < k
  · rw [if_neg (by omega : ¬ (k ≤ j ∧ j < k + vs.length))]
    split
    · exact look_filter _ _ _ _ (fun v => by simpa using h1)
    · rename_i hl
      split
      · rename_i hm
        rw [List.any_eq_true] at hm
        obtain ⟨e, he, hk⟩ := hm
        have := entries_keys d vs k e he
        have : e.1 = j := by simpa using hk
        omega
      · rw [look_filter_out _ _ _ _ (fun v => by simp; omega)]
        unfold look
        have : m.find? (fun e => e.1 == j) = none := by
          rw [List.find?_eq_none]
          intro e he hk
          apply hl
          rw [List.any_eq_true]
          exact ⟨e, List.mem_filter.mpr ⟨he, by have : e.1 = j := by simpa using hk
                                                simpa [this] using h1⟩, hk⟩
        rw [this]
  · have hleft : (m.filter (fun e => decide (e.1 < k))).any (fun e => e.1 == j) = false := by
      rw [List.any_eq_false]
      intro e he hk
      have h2 := (List.mem_filter.mp he).2
      have h3 : e.1 = j := by simpa using hk
      simp only [decide_eq_true_eq] at h2
      omega
    rw [hleft]
    simp only [Bool.false_eq_true, if_false]
    by_cases h2 : j < k + vs.length
    · have hc : k ≤ j ∧ j < k + vs.length := ⟨by omega, h2⟩
      rw [if_pos hc]
      have hr : look (d j) (m.filter (fun e => decide (k + vs.length ≤ e.1))) j = d j :=
        look_filter_out _ _ _ _ (fun v => by simp; omega)
      have hE := look_entries d vs k j
      rw [if_pos hc] at hE
      split
      · exact hE
      · rename_i hm
        rw [hr, ← hE]
        unfold look
        have : (entries d k vs).find? (fun e => e.1 == j) = none := by
          rw [List.find?_eq_none]
          intro e he hk
          exact hm (List.any_eq_true.mpr ⟨e, he, hk⟩)
        rw [this]
    · rw [if_neg (by omega : ¬ (k ≤ j ∧ j < k + vs.length))]
      have hmid : (entries d k vs).any (fun e => e.1 == j) = false := by
        rw [List.any_eq_false]
        intro e he hk
        have := entries_keys d vs k e he
        have : e.1 = j := by simpa using hk
        omega
      rw [hmid]
      simp only [Bool.false_eq_true, if_false]
      exact look_filter _ _ _ _ (fun v => by simp; omega)

end Sparse

/-! ### Plain memory -/

/-- A write of bytes keeps the canonical form. -/
theorem cellsWrite_wf {m : Cells} (h : Memory.wf m = true) (a : Nat) (bs : List Byte) : Memory.wf (cellsWrite m a bs) = true :=
  canon_put h a bs

theorem memWrite_wf {s : State} (h : Memory.wf s.mem = true) (a : Nat) (bs : List Byte) : Memory.wf (s.memWrite a bs).mem = true :=
  cellsWrite_wf h a bs

theorem wf_filter {m : Cells} (h : Memory.wf m = true) (p : Host.Cell → Bool) : Memory.wf (m.filter p) = true := canon_filter h p

/-- Two memories in canonical form, the second all above the first. -/
theorem wf_append {m n : Cells} (hm : Memory.wf m = true) (hn : Memory.wf n = true) (h : ∀ a ∈ m, ∀ b ∈ n, a.1 < b.1) :
    Memory.wf (m ++ n) = true := by
  unfold Memory.wf at *
  rw [canon_iff] at *
  refine ⟨List.pairwise_append.mpr ⟨hm.1, hn.1, h⟩, fun e he => ?_⟩
  rcases List.mem_append.mp he with h1 | h1
  · exact hm.2 e h1
  · exact hn.2 e h1

/-- A memory moved to other addresses that rise as the old ones did. -/
theorem wf_map {m : Cells} (hm : Memory.wf m = true) (g : Nat → Nat) (h : ∀ a ∈ m, ∀ b ∈ m, a.1 < b.1 → g a.1 < g b.1) :
    Memory.wf (m.map (fun e => (g e.1, e.2))) = true := by
  unfold Memory.wf at *
  rw [canon_iff] at *
  refine ⟨List.pairwise_map.mpr (hm.1.imp_of_mem (fun ha hb hab => h _ ha _ hb hab)), fun e he => ?_⟩
  obtain ⟨x, hx, rfl⟩ := List.mem_map.mp he
  exact hm.2 x hx

/-- One byte after a write: the byte written there, or what was there before. -/
theorem cellByte_cellsWrite (m : Cells) (a : Nat) (bs : List Byte) (k : Nat) :
    cellByte (cellsWrite m a bs) k = if a ≤ k ∧ k < a + bs.length then bs.getD (k - a) 0#8 else cellByte m k :=
  look_put (fun _ => 0#8) m a bs k

/-! ### Register words -/

@[simp] theorem State.word_setWord_same (s : State) (off : Nat) (w : Word) : (s.setWord off w).word off = w := by
  have := look_put resetWord s.regs off [w] off
  simpa [State.word, State.setWord] using this

theorem State.word_setWord_ne (s : State) (off o : Nat) (w : Word) (h : o ≠ off) : (s.setWord off w).word o = s.word o := by
  have := look_put resetWord s.regs off [w] o
  rw [if_neg (by simp; omega)] at this
  exact this

/-- A register write keeps the register file in its canonical form. -/
theorem State.setWord_regs {s : State} (h : canon resetWord s.regs = true) (off : Nat) (w : Word) :
    canon resetWord (s.setWord off w).regs = true := canon_put h off [w]

/-! ### Fields -/

theorem Fld.get_lt (f : Fld) (w : Word) : f.get w < 2 ^ f.width := Nat.mod_lt _ (Nat.two_pow_pos _)

theorem Fld.set_toNat (f : Fld) (w : Word) (v : Nat) (h : f.lo + f.width ≤ 64) :
    (f.set w v).toNat = w.toNat / 2 ^ (f.lo + f.width) * 2 ^ (f.lo + f.width) + v % 2 ^ f.width * 2 ^ f.lo + w.toNat % 2 ^ f.lo := by
  have hw := w.isLt
  have e1 : w.toNat = w.toNat / 2 ^ (f.lo + f.width) * 2 ^ (f.lo + f.width) + f.get w * 2 ^ f.lo + w.toNat % 2 ^ f.lo := by
    unfold Fld.get bits
    have a := Nat.div_add_mod w.toNat (2 ^ f.lo)
    have b := Nat.div_add_mod (w.toNat / 2 ^ f.lo) (2 ^ f.width)
    rw [Nat.div_div_eq_div_mul, ← Nat.pow_add] at b
    have c : w.toNat = (2 ^ f.width * (w.toNat / 2 ^ (f.lo + f.width)) + w.toNat / 2 ^ f.lo % 2 ^ f.width) * 2 ^ f.lo + w.toNat % 2 ^ f.lo := by
      rw [b, Nat.mul_comm]; exact a.symm
    rw [Nat.pow_add]
    rw [Nat.pow_add] at c
    rw [Nat.add_mul] at c
    calc w.toNat = _ := c
      _ = _ := by ring
  unfold Fld.set
  rw [BitVec.toNat_ofNat]
  have hsub : w.toNat - f.get w * 2 ^ f.lo = w.toNat / 2 ^ (f.lo + f.width) * 2 ^ (f.lo + f.width) + w.toNat % 2 ^ f.lo := by omega
  rw [hsub]
  have hv : v % 2 ^ f.width + 1 ≤ 2 ^ f.width := Nat.mod_lt _ (Nat.two_pow_pos _)
  have hl : w.toNat % 2 ^ f.lo < 2 ^ f.lo := Nat.mod_lt _ (Nat.two_pow_pos _)
  have hq : w.toNat / 2 ^ (f.lo + f.width) + 1 ≤ 2 ^ (64 - (f.lo + f.width)) := by
    have : w.toNat / 2 ^ (f.lo + f.width) < 2 ^ (64 - (f.lo + f.width)) := by
      rw [Nat.div_lt_iff_lt_mul (Nat.two_pow_pos _), ← Nat.pow_add, Nat.sub_add_cancel h]
      exact hw
    omega
  have b1 : (v % 2 ^ f.width + 1) * 2 ^ f.lo ≤ 2 ^ (f.lo + f.width) := by
    rw [Nat.pow_add, Nat.mul_comm (2 ^ f.lo)]
    exact Nat.mul_le_mul_right _ hv
  have b2 : (w.toNat / 2 ^ (f.lo + f.width) + 1) * 2 ^ (f.lo + f.width) ≤ 2 ^ 64 := by
    calc _ ≤ 2 ^ (64 - (f.lo + f.width)) * 2 ^ (f.lo + f.width) := Nat.mul_le_mul_right _ hq
      _ = 2 ^ 64 := by rw [← Nat.pow_add, Nat.sub_add_cancel h]
  rw [Nat.mod_eq_of_lt]
  · ring
  · rw [Nat.add_mul] at b1 b2
    omega

/-- A field reads what was set. -/
theorem Fld.get_set (f : Fld) (w : Word) (v : Nat) (h : f.lo + f.width ≤ 64) : f.get (f.set w v) = v % 2 ^ f.width := by
  unfold Fld.get bits
  rw [Fld.set_toNat f w v h]
  have hl : w.toNat % 2 ^ f.lo < 2 ^ f.lo := Nat.mod_lt _ (Nat.two_pow_pos _)
  have : w.toNat / 2 ^ (f.lo + f.width) * 2 ^ (f.lo + f.width) + v % 2 ^ f.width * 2 ^ f.lo + w.toNat % 2 ^ f.lo =
      2 ^ f.lo * (2 ^ f.width * (w.toNat / 2 ^ (f.lo + f.width)) + v % 2 ^ f.width) + w.toNat % 2 ^ f.lo := by
    rw [Nat.pow_add]; ring
  rw [this, Nat.mul_add_div (Nat.two_pow_pos _), Nat.div_eq_of_lt hl, Nat.add_zero, Nat.mul_add_mod]
  exact Nat.mod_mod _ _

/-- Setting a field leaves a field at other bits of the word. -/
theorem Fld.get_set_ne (f g : Fld) (w : Word) (v : Nat) (h : f.lo + f.width ≤ 64) (hd : g.lo + g.width ≤ f.lo ∨ f.lo + f.width ≤ g.lo) :
    g.get (f.set w v) = g.get w := by
  have e0 := Fld.set_toNat f w v h
  have e1 : w.toNat = w.toNat / 2 ^ (f.lo + f.width) * 2 ^ (f.lo + f.width) + f.get w * 2 ^ f.lo + w.toNat % 2 ^ f.lo := by
    have := Fld.set_toNat f w (f.get w) h
    rw [Nat.mod_eq_of_lt (Fld.get_lt f w)] at this
    rw [← this]
    unfold Fld.set
    rw [Nat.mod_eq_of_lt (Fld.get_lt f w)]
    have hle : f.get w * 2 ^ f.lo ≤ w.toNat := by
      unfold Fld.get bits
      calc _ ≤ w.toNat / 2 ^ f.lo * 2 ^ f.lo := Nat.mul_le_mul_right _ (Nat.mod_le _ _)
        _ ≤ w.toNat := Nat.div_mul_le_self _ _
    rw [Nat.sub_add_cancel hle, BitVec.toNat_ofNat, Nat.mod_eq_of_lt w.isLt]
  unfold Fld.get bits
  rcases hd with hd | hd
  · -- bits below the field set
    have low : (f.set w v).toNat % 2 ^ f.lo = w.toNat % 2 ^ f.lo := by
      rw [e0]
      have : w.toNat / 2 ^ (f.lo + f.width) * 2 ^ (f.lo + f.width) + v % 2 ^ f.width * 2 ^ f.lo + w.toNat % 2 ^ f.lo =
          2 ^ f.lo * (w.toNat / 2 ^ (f.lo + f.width) * 2 ^ f.width + v % 2 ^ f.width) + w.toNat % 2 ^ f.lo := by
        rw [Nat.pow_add]; ring
      rw [this, Nat.mul_add_mod]
      exact Nat.mod_mod _ _
    have key (x : Nat) : x / 2 ^ g.lo % 2 ^ g.width = x % 2 ^ f.lo / 2 ^ g.lo % 2 ^ g.width := by
      have hle : 2 ^ (g.lo + g.width) ∣ 2 ^ f.lo := Nat.pow_dvd_pow 2 hd
      rw [← Nat.mod_mul_right_div_self, ← Nat.mod_mul_right_div_self (x % 2 ^ f.lo), ← Nat.pow_add, Nat.mod_mod_of_dvd _ hle]
    rw [key, low, ← key]
  · -- bits above the field set
    have hi : (f.set w v).toNat / 2 ^ (f.lo + f.width) = w.toNat / 2 ^ (f.lo + f.width) := by
      rw [e0]
      have hl : w.toNat % 2 ^ f.lo < 2 ^ f.lo := Nat.mod_lt _ (Nat.two_pow_pos _)
      have hv : v % 2 ^ f.width + 1 ≤ 2 ^ f.width := Nat.mod_lt _ (Nat.two_pow_pos _)
      have b1 : (v % 2 ^ f.width + 1) * 2 ^ f.lo ≤ 2 ^ (f.lo + f.width) := by
        rw [Nat.pow_add, Nat.mul_comm (2 ^ f.lo)]
        exact Nat.mul_le_mul_right _ hv
      rw [Nat.add_mul] at b1
      have lt : v % 2 ^ f.width * 2 ^ f.lo + w.toNat % 2 ^ f.lo < 2 ^ (f.lo + f.width) := by omega
      rw [Nat.add_assoc, Nat.mul_comm (w.toNat / 2 ^ (f.lo + f.width)), Nat.mul_add_div (Nat.two_pow_pos _), Nat.div_eq_of_lt lt, Nat.add_zero]
    have key (x : Nat) : x / 2 ^ g.lo = x / 2 ^ (f.lo + f.width) / 2 ^ (g.lo - (f.lo + f.width)) := by
      rw [Nat.div_div_eq_div_mul, ← Nat.pow_add, Nat.add_sub_cancel' hd]
    rw [key, hi, ← key]

theorem State.fldAt_setFldAt (s : State) (f : Fld) (i v : Nat) (h : f.lo + f.width ≤ 64) : (s.setFldAt f i v).fldAt f i = v % 2 ^ f.width := by
  unfold State.fldAt State.setFldAt
  rw [State.word_setWord_same, Fld.get_set f _ _ h]

theorem State.fld_setFld (s : State) (f : Fld) (v : Nat) (h : f.lo + f.width ≤ 64) : (s.setFld f v).fld f = v % 2 ^ f.width :=
  State.fldAt_setFldAt s f 0 v h

/-- A field of another register, or at other bits of the same one, reads as before. -/
theorem State.fldAt_setFldAt_ne (s : State) (f g : Fld) (i j v : Nat) (h : f.lo + f.width ≤ 64)
    (hd : g.addr j ≠ f.addr i ∨ g.lo + g.width ≤ f.lo ∨ f.lo + f.width ≤ g.lo) : (s.setFldAt f i v).fldAt g j = s.fldAt g j := by
  unfold State.fldAt State.setFldAt
  by_cases ha : g.addr j = f.addr i
  · rw [ha, State.word_setWord_same]
    exact Fld.get_set_ne f g _ v h (hd.resolve_left (fun hn => hn ha))
  · rw [State.word_setWord_ne _ _ _ _ ha]

theorem State.fld_setFld_ne (s : State) (f g : Fld) (v : Nat) (h : f.lo + f.width ≤ 64)
    (hd : g.addr 0 ≠ f.addr 0 ∨ g.lo + g.width ≤ f.lo ∨ f.lo + f.width ≤ g.lo) : (s.setFld f v).fld g = s.fld g :=
  State.fldAt_setFldAt_ne s f g 0 0 v h hd

end Sys2Proof.Machine
end

