-- ==== Sys2Proof/Laws/Boot.lean ====
section
/-! SUPPORT. The identity record in the flash: what is written is what a read finds, and the record of a key that the helper data
rebuild passes every check of stage 3. -/

namespace Sys2Proof.Machine

/-! ### Sparse reads -/

/-- A read below every listed key finds the default. -/
theorem walk_below {α : Type} (d : α) (n k : Nat) (l : List (Nat × α)) (h : ∀ e ∈ l, k + 1 ≤ e.1) : walk d (n + 1) k l = d :: walk d n (k + 1) l := by
  cases l with
  | nil => rfl
  | cons e es =>
    have : e.1 ≠ k := by have := h e (by simp); omega
    simp [walk, this]

/-- A read of nothing finds the default. -/
theorem walk_nil {α : Type} (d : α) (n k : Nat) : walk d n k [] = List.replicate n d := by
  induction n generalizing k with
  | zero => rfl
  | succ n ih => simp [walk, ih, List.replicate_succ]

/-- A read finds the values written from its first key on, then the default. -/
theorem walk_entries {α : Type} [DecidableEq α] (d : α) (vs : List α) (m k : Nat) :
    walk d (vs.length + m) k (entries (fun _ => d) k vs) = vs ++ List.replicate m d := by
  induction vs generalizing k with
  | nil => simp [entries, walk_nil]
  | cons v vs ih =>
    have hk : ∀ e ∈ entries (fun _ => d) (k + 1) vs, k + 1 ≤ e.1 := fun e he => (entries_keys _ vs (k + 1) e he).1
    rw [List.length_cons, show vs.length + 1 + m = (vs.length + m) + 1 by omega]
    by_cases h : v = d
    · rw [entries, if_pos h, walk_below d _ k _ hk, ih, h, List.cons_append]
    · rw [entries, if_neg h, walk, if_pos rfl, ih, List.cons_append]

/-- A flash that holds nothing but bytes written at an address reads as those bytes, and erased beyond them. -/
theorem Flash.read_write_erased (f : Flash) (a m : Nat) (bs : List Byte) (h : f.data = []) :
    (f.write a bs).read a (bs.length + m) = bs ++ List.replicate m 0xFF#8 := by
  have hk : (entries (fun _ => 0xFF#8) a bs).filter (fun e => decide (a ≤ e.1)) = entries (fun _ => 0xFF#8) a bs :=
    List.filter_eq_self.2 (fun e he => by simpa using (entries_keys _ bs a e he).1)
  simp [Flash.read, Flash.write, put, h, hk, walk_entries]

/-! ### Little-endian fields -/

@[simp] theorem leBytes_length (n v : Nat) : (leBytes n v).length = n := by
  induction n generalizing v with
  | zero => rfl
  | succ n ih => simp [leBytes, ih]

theorem leNat_leBytes (n v : Nat) : leNat (leBytes n v) = v % 256 ^ n := by
  induction n generalizing v with
  | zero => simp [leBytes, leNat, Nat.mod_one]
  | succ n ih =>
    simp only [leBytes, leNat, ih, BitVec.toNat_ofNat, show (2 : Nat) ^ 8 = 256 from rfl]
    have h : v % (256 * 256 ^ n) = v % 256 + 256 * (v / 256 % 256 ^ n) := Nat.mod_mul
    rw [Nat.pow_succ, Nat.mul_comm (256 ^ n), h]

theorem leNat_lt (bs : List Byte) : leNat bs < 256 ^ bs.length := by
  induction bs with
  | nil => simp [leNat]
  | cons b bs ih =>
    have := b.isLt
    simp only [leNat, List.length_cons, Nat.pow_succ]
    omega

/-- A field that lies after `pre` bytes and is followed by `post`. -/
theorem leAt_field (pre post : List Byte) (n v : Nat) : leAt (pre ++ (leBytes n v ++ post)) pre.length n = v % 256 ^ n := by
  have h : ((leBytes n v) ++ post).take n = leBytes n v := by
    rw [List.take_append_of_le_length (by simp), List.take_of_length_le (by simp)]
  simp [leAt, h, leNat_leBytes]

/-! ### The identity record (R570, R571) -/

@[simp] theorem Ident.check_length (i : Ident) : i.check.length = 32 := by simp [Ident.check, tagged, Config.shake256]

@[simp] theorem identOf_pk_length (k : List Byte) : (identOf k).pk.length = 64 := by simp [identOf, Config.slhKeygen]

theorem Ident.devId_lt (i : Ident) : i.devId < 2 ^ 64 := by
  have h := leNat_lt (tagged 4 i.pk 8)
  simpa [Ident.devId, tagged, Config.shake256] using h

theorem recordHead_length (i : Ident) (hp : i.pk.length = 64) (n c : Nat) : (recordHead i n c).length = 128 := by simp [recordHead, hp]

/-- The slice of a list that lies after `o` values. -/
theorem slice_at {α : Type} {l pre x post : List α} {o w : Nat} (hl : l = pre ++ (x ++ post)) (ho : pre.length = o) (hw : x.length = w) :
    (l.drop o).take w = x := by
  subst hl ho hw
  rw [List.drop_left, List.take_left]

/-- A field that lies after `o` bytes. -/
theorem leAt_at {l pre post : List Byte} {o n v : Nat} (hl : l = pre ++ (leBytes n v ++ post)) (ho : pre.length = o) : leAt l o n = v % 256 ^ n := by
  rw [leAt, slice_at hl ho (leBytes_length n v), leNat_leBytes]

/-- The slices of nine lists joined. -/
theorem slices {α : Type} (a b c d e f g z rest : List α) :
    let r := a ++ (b ++ (c ++ (d ++ (e ++ (f ++ (g ++ (z ++ rest)))))))
    (r.drop a.length).take b.length = b ∧ (r.drop (a.length + b.length)).take c.length = c ∧
      (r.drop (a.length + b.length + c.length)).take d.length = d ∧ (r.drop (a.length + b.length + c.length + d.length)).take e.length = e ∧
      (r.drop (a.length + b.length + c.length + d.length + e.length)).take f.length = f ∧
      (r.drop (a.length + b.length + c.length + d.length + e.length + f.length)).take g.length = g ∧
      (r.drop (a.length + b.length + c.length + d.length + e.length + f.length + g.length)).take z.length = z ∧
      r.drop (a.length + b.length + c.length + d.length + e.length + f.length + g.length + z.length) = rest := by
  simp only [← List.drop_drop, List.drop_left, List.take_left, and_self]

/-- The fields of a record's head. -/
theorem record_fields (i : Ident) (hp : i.pk.length = 64) (n c : Nat) (rest : List Byte) :
    let r := recordHead i n c ++ rest
    r.take 4 = leBytes 4 1 ∧ (r.drop 4).take 4 = leBytes 4 c ∧ (r.drop 8).take 8 = leBytes 8 i.devId ∧ (r.drop 16).take 64 = i.pk ∧
      (r.drop 80).take 32 = i.check ∧ (r.drop 112).take 4 = leBytes 4 n ∧ (r.drop 116).take 4 = leBytes 4 0xFFFFFFFF ∧
      (r.drop 120).take 8 = leBytes 8 0 ∧ r.drop 128 = rest := by
  have h := slices (leBytes 4 1) (leBytes 4 c) (leBytes 8 i.devId) i.pk i.check (leBytes 4 n) (leBytes 4 0xFFFFFFFF) (leBytes 8 0) rest
  simp only [leBytes_length, hp, Ident.check_length] at h
  obtain ⟨h1, h2, h3, h4, h5, h6, h7, h8⟩ := h
  have e : recordHead i n c ++ rest = leBytes 4 1 ++ (leBytes 4 c ++ (leBytes 8 i.devId ++ (i.pk ++ (i.check ++ (leBytes 4 n ++ (leBytes 4 0xFFFFFFFF ++
      (leBytes 8 0 ++ rest))))))) := by simp only [recordHead, List.append_assoc]
  have h0 := List.take_left (l₁ := leBytes 4 1) (l₂ := leBytes 4 c ++ (leBytes 8 i.devId ++ (i.pk ++ (i.check ++ (leBytes 4 n ++ (leBytes 4 0xFFFFFFFF ++
      (leBytes 8 0 ++ rest)))))))
  rw [leBytes_length] at h0
  simp only [e]
  exact ⟨h0, h1, h2, h3, h4, h5, h6, h7, h8⟩

theorem crc32c_lt (bs : List Byte) : crc32c bs < 2 ^ 32 := (~~~(bs.foldl crcStep 0xFFFFFFFF#32)).isLt

/-- Bytes 8 to 115 of a head. -/
theorem record_middle (i : Ident) (hp : i.pk.length = 64) (n c : Nat) (rest : List Byte) :
    ((recordHead i n c ++ rest).drop 8).take 108 = leBytes 8 i.devId ++ i.pk ++ i.check ++ leBytes 4 n := by
  have e : recordHead i n c ++ rest = (leBytes 4 1 ++ leBytes 4 c) ++ ((leBytes 8 i.devId ++ i.pk ++ i.check ++ leBytes 4 n) ++ (leBytes 4 0xFFFFFFFF ++
      (leBytes 8 0 ++ rest))) := by simp only [recordHead, List.append_assoc]
  exact slice_at e (by simp only [List.length_append, leBytes_length]) (by simp only [List.length_append, leBytes_length, hp, Ident.check_length])

/-- The record that an enrolment writes is well formed, and its fields are those of the key. -/
theorem recordOf_ok (i : Ident) (hp : i.pk.length = 64) (h rest : List Byte) (h1 : 1 ≤ h.length) (h2 : h.length ≤ 16256) :
    let r := recordOf i h ++ rest
    recordOk r = true ∧ leAt r 8 8 = i.devId ∧ (r.drop 16).take 64 = i.pk ∧ (r.drop 80).take 32 = i.check ∧ (r.drop 128).take (leAt r 112 4) = h := by
  intro r
  have er : r = recordHead i h.length (crc32c (recordHead i h.length 0)) ++ (h ++ rest) := by simp only [r, recordOf, List.append_assoc]
  obtain ⟨f0, f4, f8, f16, f80, f112, f116, f120, f128⟩ := record_fields i hp h.length (crc32c (recordHead i h.length 0)) (h ++ rest)
  have fm := record_middle i hp h.length (crc32c (recordHead i h.length 0)) (h ++ rest)
  rw [← er] at f0 f4 f8 f16 f80 f112 f116 f120 f128 fm
  have n0 : leAt r 0 4 = 1 := by rw [leAt, List.drop_zero, f0, leNat_leBytes]; norm_num
  have n4 : leAt r 4 4 = crc32c (recordHead i h.length 0) := by
    rw [leAt, f4, leNat_leBytes]; exact Nat.mod_eq_of_lt (by have := crc32c_lt (recordHead i h.length 0); norm_num at this ⊢; omega)
  have n112 : leAt r 112 4 = h.length := by rw [leAt, f112, leNat_leBytes]; exact Nat.mod_eq_of_lt (by norm_num; omega)
  have n116 : leAt r 116 4 = 0xFFFFFFFF := by rw [leAt, f116, leNat_leBytes]; norm_num
  have nz : zeros r 120 8 = true := by rw [zeros, f120]; simp [leBytes]
  have hz : r.take 4 ++ leBytes 4 0 ++ (r.drop 8).take 108 ++ leBytes 4 0xFFFFFFFF ++ (r.drop 120).take 8 = recordHead i h.length 0 := by
    rw [f0, fm, f120]; simp only [recordHead, List.append_assoc]
  refine ⟨?_, ?_, f16, f80, ?_⟩
  · have hc : recordCrcOk r = true := by
      simp only [recordCrcOk, hz, n4, BEq.rfl, Bool.or_true]
    simp only [recordOk, n0, hc, n112, n116, nz, BEq.rfl, Bool.true_and, Bool.true_or, Bool.and_true, decide_eq_true_eq]
    exact ⟨h1, h2⟩
  · rw [leAt, f8, leNat_leBytes]; exact Nat.mod_eq_of_lt (by have := i.devId_lt; norm_num at this ⊢; omega)
  · rw [n112, f128, List.take_left]

end Sys2Proof.Machine
end

