-- ==== Sys2Proof/Laws/Kept.lean ====
section
/-! SUPPORT. How the canonical form of a state is kept: the rules that the lemmas `…_kept`, one per function over states, are
proved with. -/

namespace Sys2Proof.Machine

theorem State.Kept.parts {s : State} (h : s.Kept) : keptParts s.mem s.regs := h

/-- A state written out field by field, as a record update is. -/
theorem kept_mk {pending_ : List Instr} {fresh_ : Nat} {code432_ : Bool} {regs_ : List (Nat × Word)} {mem_ : Cells} {poison_ : List Nat} {rings_ :
    List Ring} {ringReq_ : Option (Nat × Nat)} {descs_ : List Desc} {queues_ : List Queue} {passes_ : List (Nat × Nat)} {arrSlice_ : List (Nat × Nat)}
    {arrMem_ : List (Nat × Nat)} {regions_ : List Region} {extents_ : List Extent} {frames_ : List Frame} {nextFrame_ : Nat} {zeroed_ : List TRef}
    {mediaWait_ : List Nat} {borage_ : Nat × Nat} {retired_ : List Nat} {drives_ : List Drive} {nvme_ : List NvmeCmd} {nextCmd_ : Nat} {nextDrive_ :
    Nat} {background_ : Bool} {xlCache_ : List XlEntry} {xlCounts_ : List XlCount} {invals_ : List Inval} {dir_ : List DirEntry} {slots_ : List
    RetrySlot} {slotGens_ : List (Nat × Nat)} {recalls_ : List (Nat × (Nat × Nat) × Nat)} {trips_ : List (Nat × List Nat)} {sweeps_ : List Sweep}
    {bankQ_ : List Waiting} {fillQ_ : List Waiting} {mapPrev_ : Option FMap} {mapCur_ : Option FMap} {mapPrep_ : Option FMap} {grace_ : Bool} {keeper_ :
    Keeper} {fenceEpoch_ : Nat} {links_ : List Link} {cohOwed_ : List (Nat × QPkt)} {outReqs_ : List OutReq} {asks_ : List (Nat × Nat × (Nat × Nat))}
    {nextTag_ : Nat} {txns_ : List CTxn} {nextTxn_ : Nat} {threads_ : List Thread} {held_ : List Held} {queue_ : List Queued} {shares_ : List (Nat ×
    Share)} {turns_ : List (Nat × OutTurn)} {rx_ : List (Nat × Pkt)} {klClients_ : List KlClient} {klOuts_ : List KlOut} {klUnmatched_ : List (Nat ×
    Nat)} {klMayTrain_ : List Nat} {dill_ : List Nat} {killed_ : List (Nat × Nat)} {cells_ : List CellRec} {auditDiff_ : List (Nat × Int)} {mirrorCnt_ :
    List (Nat × (Nat × Nat))} {mirror_ : List MirrorEnt} {resets_ : List SliceReset} {revoked_ : List Revoked} {revoking_ : Option Revoking} {lent_ :
    List Lent} {composing_ : Option Change} {granted_ : Option (Nat × Nat)} {composeAt_ : Option Nat} {abortIds_ : List AbortId} {abandoned_ : List
    Abandoned} {mergedAborts_ : List (AbortId × Nat)} {alarmExtra_ : List AlarmExtra} {alarmSent_ : List (Nat × Nat)} {dumpSeq_ : Nat} {dumpChanged_ :
    Nat} {dumpFrom_ : Nat} {scrCount_ : Nat} {scrSeq_ : Nat} {scrLfsr_ : BitVec 31} {scrNext_ : Nat} {scrLast_ : Option Nat} {flash_ : Flash} {cfg_ :
    Option Cfg} {fw_ : Option Fw} {ident_ : Option Ident} {meas_ : List Meas} {mctp_ : List MReq} {mctpOut_ : List MRsp} {carter_ : List Nat}
    {carterLast_ : List Byte} {logIntDue_ : Bool} {pwrok_ : Bool} {porHeld_ : Bool} {resetHeld_ : Bool} {straps_ : Nat} {railsBad_ : List Nat} {tripped_
    : Bool} {tStacks_ : List Int} {pkgHist_ : List Nat} {admitted_ : List (Nat × Nat)} {tapIr_ : Nat} {tapAddr_ : Nat} {tapDr_ : Nat} {tapRun_ : Option
    TapRun} {dbgTx_ : List (List Byte)} {freezeDeferred_ : Bool} {aon_ : Nat} {stuck_ : List (Nat × Nat)} :
    State.Kept ⟨pending_, fresh_, code432_, regs_, mem_, poison_, rings_, ringReq_, descs_, queues_, passes_, arrSlice_, arrMem_, regions_, extents_,
    frames_, nextFrame_, zeroed_, mediaWait_, borage_, retired_, drives_, nvme_, nextCmd_, nextDrive_, background_, xlCache_, xlCounts_, invals_, dir_,
    slots_, slotGens_, recalls_, trips_, sweeps_, bankQ_, fillQ_, mapPrev_, mapCur_, mapPrep_, grace_, keeper_, fenceEpoch_, links_, cohOwed_, outReqs_,
    asks_, nextTag_, txns_, nextTxn_, threads_, held_, queue_, shares_, turns_, rx_, klClients_, klOuts_, klUnmatched_, klMayTrain_, dill_, killed_,
    cells_, auditDiff_, mirrorCnt_, mirror_, resets_, revoked_, revoking_, lent_, composing_, granted_, composeAt_, abortIds_, abandoned_,
    mergedAborts_, alarmExtra_, alarmSent_, dumpSeq_, dumpChanged_, dumpFrom_, scrCount_, scrSeq_, scrLfsr_, scrNext_, scrLast_, flash_, cfg_, fw_,
    ident_, meas_, mctp_, mctpOut_, carter_, carterLast_, logIntDue_, pwrok_, porHeld_, resetHeld_, straps_, railsBad_, tripped_, tStacks_, pkgHist_,
    admitted_, tapIr_, tapAddr_, tapDr_, tapRun_, dbgTx_, freezeDeferred_, aon_, stuck_⟩ ↔ keptParts mem_ regs_ := Iff.intro id id

theorem keptParts.mem {s : State} {m : Cells} (h : s.Kept) (hm : Memory.wf m = true) : keptParts m s.regs := ⟨hm, h.2⟩

theorem keptParts.regs {s : State} {r : List (Nat × Word)} (h : s.Kept) (hr : canon resetWord r = true) : keptParts s.mem r := ⟨h.1, hr⟩

theorem State.Kept.wf {s : State} (h : s.Kept) : Memory.wf s.mem = true := h.1

theorem State.Kept.file {s : State} (h : s.Kept) : canon resetWord s.regs = true := h.2

theorem ite_kept {c : Prop} [Decidable c] {s t : State} (hs : s.Kept) (ht : t.Kept) : (if c then s else t).Kept := by
  split
  · exact hs
  · exact ht

theorem forL_kept {α : Type} (l : List α) (s : State) (f : α → State → State) (h : s.Kept) (hf : ∀ x t, t.Kept → (f x t).Kept) :
    (forL l s f).Kept := by
  unfold forL
  induction l generalizing s with
  | nil => exact h
  | cons x xs ih => exact ih _ (hf x s h)

theorem forN_kept (n : Nat) (s : State) (f : Nat → State → State) (h : s.Kept) (hf : ∀ x t, t.Kept → (f x t).Kept) : (forN n s f).Kept :=
  forL_kept (List.range n) s f h hf

theorem foldl_kept {α : Type} (l : List α) (s : State) (f : State → α → State) (h : s.Kept) (hf : ∀ t x, t.Kept → (f t x).Kept) :
    (l.foldl f s).Kept := by
  induction l generalizing s with
  | nil => exact h
  | cons x xs ih => exact ih _ (hf s x h)

theorem whenAlive_kept (s t : State) (h : s.Kept) (ht : t.Kept) : (s.whenAlive t).Kept := by
  unfold State.whenAlive
  split
  · exact ht
  · exact h

/-! ### Results that hold a state -/

structure OptKept (o : Option State) : Prop where
  all : ∀ u, o = some u → u.Kept

structure PairKept {α : Type} (r : State × α) : Prop where
  all : r.1.Kept

structure SndKept {α : Type} (r : α × State) : Prop where
  all : r.2.Kept

structure ResKept {ε : Type} (r : Except ε State) : Prop where
  all : ∀ u, r = .ok u → u.Kept

structure PairResKept {ε α : Type} (r : Except ε (State × α)) : Prop where
  all : ∀ u, r = .ok u → u.1.Kept

structure ErrKept {α : Type} (r : Except State α) : Prop where
  all : ∀ u, r = .error u → u.Kept

theorem OptKept.none : OptKept none := by
  constructor
  intro u h
  cases h

theorem OptKept.some {s : State} (h : s.Kept) : OptKept (some s) := by
  constructor
  intro u e
  cases e
  exact h

theorem OptKept.map {α : Type} {o : Option α} {f : α → State} (h : ∀ x, o = Option.some x → (f x).Kept) : OptKept (o.map f) := by
  cases o with
  | none => exact OptKept.none
  | some x => exact OptKept.some (h x rfl)

theorem OptKept.findSome {α : Type} {l : List α} {f : α → Option State} (h : ∀ x, OptKept (f x)) : OptKept (l.findSome? f) := by
  induction l with
  | nil => exact OptKept.none
  | cons x xs ih =>
    rw [List.findSome?_cons]
    split
    · rename_i e
      exact OptKept.some ((h x).all _ e)
    · exact ih

theorem OptKept.bind {α : Type} {o : Option α} {f : α → Option State} (h : ∀ x, o = Option.some x → OptKept (f x)) : OptKept (o.bind f) := by
  cases o with
  | none => exact OptKept.none
  | some x => exact h x rfl

theorem OptKept.getD {s : State} {o : Option State} (h : OptKept o) (hs : s.Kept) : (o.getD s).Kept := by
  cases o with
  | none => exact hs
  | some x => exact h.all x rfl

theorem OptKept.elim {s : State} {o : Option State} (e : o = Option.some s) (h : OptKept o) : s.Kept := h.all s e

theorem PairKept.pair {α : Type} {s : State} {x : α} (h : s.Kept) : PairKept (s, x) := ⟨h⟩

theorem PairKept.fst {α : Type} {r : State × α} (h : PairKept r) : r.1.Kept := h.all

theorem PairKept.elim {α : Type} {s : State} {x : α} {r : State × α} (e : r = (s, x)) (h : PairKept r) : s.Kept := by
  subst e
  exact h.all

theorem SndKept.pair {α : Type} {s : State} {x : α} (h : s.Kept) : SndKept (x, s) := ⟨h⟩

theorem SndKept.snd {α : Type} {r : α × State} (h : SndKept r) : r.2.Kept := h.all

theorem SndKept.elim {α : Type} {s : State} {x : α} {r : α × State} (e : r = (x, s)) (h : SndKept r) : s.Kept := by
  subst e
  exact h.all

theorem ResKept.error {ε : Type} {e : ε} : ResKept (.error e) := by
  constructor
  intro u h
  cases h

theorem ResKept.fail {a b c : Nat} : ResKept (Sys2Proof.Machine.fail a b c) := ResKept.error

theorem ResKept.ok {ε : Type} {s : State} (h : s.Kept) : ResKept (.ok s : Except ε State) := by
  constructor
  intro u e
  cases e
  exact h

theorem ResKept.bind {ε α : Type} {r : Except ε α} {f : α → Except ε State} (h : ∀ x, r = .ok x → ResKept (f x)) : ResKept (r >>= f) := by
  cases r with
  | error e => exact ResKept.error
  | ok x => exact h x rfl

theorem ResKept.map {ε β : Type} {r : Except ε β} {f : β → State} (h : ∀ x, r = .ok x → (f x).Kept) : ResKept (r.map f) := by
  cases r with
  | error e => exact ResKept.error
  | ok x => exact ResKept.ok (h x rfl)

theorem ResKept.foldlM {ε α : Type} (l : List α) (s : State) (f : State → α → Except ε State) (h : s.Kept)
    (hf : ∀ t x, t.Kept → ResKept (f t x)) : ResKept (l.foldlM f s) := by
  induction l generalizing s with
  | nil => exact ResKept.ok h
  | cons x xs ih =>
    rw [List.foldlM_cons]
    exact ResKept.bind (fun t e => ih t ((hf s x h).all t e))

theorem ResKept.elim {ε : Type} {s : State} {r : Except ε State} (e : r = .ok s) (h : ResKept r) : s.Kept := h.all s e

theorem PairResKept.error {ε α : Type} {e : ε} : PairResKept (.error e : Except ε (State × α)) := by
  constructor
  intro u h
  cases h

theorem PairResKept.fail {α : Type} {a b c : Nat} : PairResKept (Sys2Proof.Machine.fail a b c : Res (State × α)) := PairResKept.error

theorem PairResKept.ok {ε α : Type} {s : State} {x : α} (h : s.Kept) : PairResKept (.ok (s, x) : Except ε (State × α)) := by
  constructor
  intro u e
  cases e
  exact h

theorem PairResKept.okPair {ε α : Type} {r : State × α} (h : PairKept r) : PairResKept (.ok r : Except ε (State × α)) := by
  constructor
  intro u e
  cases e
  exact h.all

theorem PairResKept.bind {ε α β : Type} {r : Except ε β} {f : β → Except ε (State × α)} (h : ∀ x, r = .ok x → PairResKept (f x)) :
    PairResKept (r >>= f) := by
  cases r with
  | error e => exact PairResKept.error
  | ok x => exact h x rfl

theorem PairResKept.map {ε α β : Type} {r : Except ε β} {f : β → State × α} (h : ∀ x, r = .ok x → PairKept (f x)) : PairResKept (r.map f) := by
  cases r with
  | error e => exact PairResKept.error
  | ok x => exact PairResKept.okPair (h x rfl)

theorem PairResKept.elim {ε α : Type} {s : State} {x : α} {r : Except ε (State × α)} (e : r = .ok (s, x)) (h : PairResKept r) : s.Kept :=
  h.all (s, x) e

theorem PairResKept.elimFst {ε α : Type} {u : State × α} {r : Except ε (State × α)} (e : r = .ok u) (h : PairResKept r) : u.1.Kept := h.all u e

theorem ErrKept.error {α : Type} {s : State} (h : s.Kept) : ErrKept (.error s : Except State α) := by
  constructor
  intro u e
  cases e
  exact h

theorem ErrKept.ok {α : Type} {x : α} : ErrKept (.ok x : Except State α) := by
  constructor
  intro u h
  cases h

theorem ErrKept.elim {α : Type} {s : State} {r : Except State α} (e : r = .error s) (h : ErrKept r) : s.Kept := h.all s e

/-- Every value that a result may hold satisfies `p`. -/
structure AllOk {ε α : Type} (p : α → Prop) (r : Except ε α) : Prop where
  all : ∀ u, r = .ok u → p u

theorem AllOk.error {ε α : Type} {p : α → Prop} {e : ε} : AllOk p (.error e) := by
  constructor
  intro u h
  cases h

theorem AllOk.fail {α : Type} {p : α → Prop} {a b c : Nat} : AllOk p (Sys2Proof.Machine.fail a b c : Res α) := AllOk.error

theorem AllOk.ok {ε α : Type} {p : α → Prop} {x : α} (h : p x) : AllOk p (.ok x : Except ε α) := by
  constructor
  intro u e
  cases e
  exact h

theorem AllOk.bind {ε α β : Type} {p : α → Prop} {r : Except ε β} {f : β → Except ε α} (h : ∀ x, r = .ok x → AllOk p (f x)) :
    AllOk p (r >>= f) := by
  cases r with
  | error e => exact AllOk.error
  | ok x => exact h x rfl

theorem AllOk.bindAll {ε α β : Type} {q : β → Prop} {p : α → Prop} {r : Except ε β} {f : β → Except ε α} (hr : AllOk q r)
    (h : ∀ x, q x → AllOk p (f x)) : AllOk p (r >>= f) := AllOk.bind (fun x e => h x (hr.all x e))

theorem AllOk.map {ε α β : Type} {p : α → Prop} {r : Except ε β} {f : β → α} (h : ∀ x, r = .ok x → p (f x)) : AllOk p (r.map f) := by
  cases r with
  | error e => exact AllOk.error
  | ok x => exact AllOk.ok (h x rfl)

theorem AllOk.foldlM {ε α β : Type} {p : α → Prop} (l : List β) (s : α) (f : α → β → Except ε α) (h : p s)
    (hf : ∀ t x, p t → AllOk p (f t x)) : AllOk p (l.foldlM f s) := by
  induction l generalizing s with
  | nil => exact AllOk.ok h
  | cons x xs ih =>
    rw [List.foldlM_cons]
    exact AllOk.bind (fun t e => ih t ((hf s x h).all t e))

theorem AllOk.phased {α : Type} {p : α → Prop} {n : Nat} {r : Res α} (h : AllOk p r) : AllOk p (Sys2Proof.Machine.phased n r) := by
  cases r with
  | error e => cases e <;> exact AllOk.error
  | ok x => exact h

theorem AllOk.rename {α : Type} {p : α → Prop} {a b : Nat} {r : Res α} (h : AllOk p r) : AllOk p (renameAddr r a b) := by
  cases r with
  | error e =>
    cases e with
    | err f =>
      unfold renameAddr
      dsimp only
      split
      · exact AllOk.error
      · exact h
    | wait ns => exact AllOk.error
  | ok x => exact h

theorem AllOk.holding {α : Type} {p : α → Prop} {r : Res α} {l : List Need} (h : AllOk p r) : AllOk p (Sys2Proof.Machine.holding r l) := by
  cases r with
  | error e => cases e <;> exact AllOk.error
  | ok x => exact h

theorem AllOk.elim {ε α : Type} {p : α → Prop} {r : Except ε α} {x : α} (e : r = .ok x) (h : AllOk p r) : p x := h.all x e

theorem AllOk.elimFst {ε α β : Type} {p : α → Prop} {r : Except ε (α × β)} {x : α × β} (e : r = .ok x) (h : AllOk (fun y => p y.1) r) : p x.1 :=
  h.all x e

theorem ResKept.allOk {ε : Type} {r : Except ε State} (h : ResKept r) : AllOk State.Kept r := ⟨h.all⟩

theorem AllOk.res {ε : Type} {r : Except ε State} (h : AllOk State.Kept r) : ResKept r := ⟨h.all⟩

theorem PairResKept.allOk {ε α : Type} {r : Except ε (State × α)} (h : PairResKept r) : AllOk (fun u => u.1.Kept) r := ⟨h.all⟩

/-- A fold whose accumulator is a state and something else. -/
theorem foldl_pairKept {α β : Type} (l : List α) (r : State × β) (f : State × β → α → State × β) (h : PairKept r)
    (hf : ∀ t x, PairKept t → PairKept (f t x)) : PairKept (l.foldl f r) := by
  induction l generalizing r with
  | nil => exact h
  | cons x xs ih => exact ih _ (hf r x h)

/-- The state that an attempt at a tile leaves is kept. -/
structure TileKept (x : TileStep) : Prop where
  done : ∀ s, x = .done s → s.Kept
  more : ∀ s, x = .more s → s.Kept
  wait : ∀ s, x = .wait s → s.Kept
  stop : ∀ s f, x = .stop s f → s.Kept

theorem TileKept.ofDone {s : State} (h : s.Kept) : TileKept (.done s) := by
  constructor <;> intros <;> simp_all

theorem TileKept.ofMore {s : State} (h : s.Kept) : TileKept (.more s) := by
  constructor <;> intros <;> simp_all

theorem TileKept.ofWait {s : State} (h : s.Kept) : TileKept (.wait s) := by
  constructor <;> intros <;> simp_all

theorem TileKept.ofStop {s : State} {f : Fail} (h : s.Kept) : TileKept (.stop s f) := by
  constructor <;> intros <;> simp_all

theorem reset_kept : State.reset.Kept := ⟨rfl, rfl⟩

end Sys2Proof.Machine
end

