-- ==== Sys2Proof/Laws/KeptOps.lean ====
section
/-! SUPPORT. The functions of Ops keep the canonical form of the state. -/

set_option linter.unusedTactic false
set_option linter.unreachableTactic false
set_option simprocs false

namespace Sys2Proof.Machine

theorem State.setWord_kept (s : State) (off : Nat) (w : Word) (h_s : s.Kept) : (State.setWord s off w).Kept := by
  unfold State.setWord
  repeat' (first | with_reducible assumption | (simp only [↓kept_mk]; first | with_reducible apply State.Kept.parts | with_reducible apply keptParts.mem | with_reducible apply keptParts.regs) | with_reducible apply canon_put | exact State.Kept.file (by assumption) | dsimp only | split | (intro))

theorem State.setFldAt_kept (s : State) (f : Fld) (i v : Nat) (h_s : s.Kept) : (State.setFldAt s f i v).Kept := by
  unfold State.setFldAt
  repeat' (first | with_reducible assumption | with_reducible apply State.setWord_kept | (simp only [↓kept_mk]; first | with_reducible apply State.Kept.parts | with_reducible apply keptParts.mem | with_reducible apply keptParts.regs) | dsimp only | split | (intro))

theorem State.setFld_kept (s : State) (f : Fld) (v : Nat) (h_s : s.Kept) : (State.setFld s f v).Kept := by
  unfold State.setFld
  repeat' (first | with_reducible assumption | with_reducible apply State.setFldAt_kept | (simp only [↓kept_mk]; first | with_reducible apply State.Kept.parts | with_reducible apply keptParts.mem | with_reducible apply keptParts.regs) | dsimp only | split | (intro))

theorem State.addSatAt_kept (s : State) (f : Fld) (i n : Nat) (h_s : s.Kept) : (State.addSatAt s f i n).Kept := by
  unfold State.addSatAt
  repeat' (first | with_reducible assumption | with_reducible apply State.setFldAt_kept | (simp only [↓kept_mk]; first | with_reducible apply State.Kept.parts | with_reducible apply keptParts.mem | with_reducible apply keptParts.regs) | dsimp only | split | (intro))

theorem State.incSatAt_kept (s : State) (f : Fld) (i : Nat) (h_s : s.Kept) : (State.incSatAt s f i).Kept := by
  unfold State.incSatAt
  repeat' (first | with_reducible assumption | with_reducible apply State.addSatAt_kept | (simp only [↓kept_mk]; first | with_reducible apply State.Kept.parts | with_reducible apply keptParts.mem | with_reducible apply keptParts.regs) | dsimp only | split | (intro))

theorem State.incSat_kept (s : State) (f : Fld) (h_s : s.Kept) : (State.incSat s f).Kept := by
  unfold State.incSat
  repeat' (first | with_reducible assumption | with_reducible apply State.addSatAt_kept | (simp only [↓kept_mk]; first | with_reducible apply State.Kept.parts | with_reducible apply keptParts.mem | with_reducible apply keptParts.regs) | dsimp only | split | (intro))

theorem State.addWrap_kept (s : State) (f : Fld) (n : Nat) (h_s : s.Kept) : (State.addWrap s f n).Kept := by
  unfold State.addWrap
  repeat' (first | with_reducible assumption | with_reducible apply State.setFld_kept | (simp only [↓kept_mk]; first | with_reducible apply State.Kept.parts | with_reducible apply keptParts.mem | with_reducible apply keptParts.regs) | dsimp only | split | (intro))

theorem State.takeNat_kept (s : State) (h_s : s.Kept) : SndKept (State.takeNat s) := by
  unfold State.takeNat
  repeat' (first | with_reducible assumption | with_reducible apply SndKept.snd | with_reducible refine SndKept.elim (by with_reducible assumption) ?_ | (simp only [↓kept_mk]; first | with_reducible apply State.Kept.parts | with_reducible apply keptParts.mem | with_reducible apply keptParts.regs) | dsimp only | split | with_reducible apply SndKept.pair | (intro))

theorem State.plainWrite_kept (s : State) (off : Nat) (w : Word) (ok : String → Nat → Bool) (h_s : s.Kept) : (State.plainWrite s off w ok).Kept := by
  unfold State.plainWrite
  repeat' (first | with_reducible assumption | with_reducible apply State.setWord_kept | with_reducible apply foldl_kept | with_reducible refine PairKept.elim (by with_reducible assumption) ?_ | with_reducible apply foldl_pairKept | (simp only [↓kept_mk]; first | with_reducible apply State.Kept.parts | with_reducible apply keptParts.mem | with_reducible apply keptParts.regs) | dsimp only | split | with_reducible apply PairKept.pair | (intro))

theorem State.memWrite_kept (s : State) (a : Nat) (bs : List Byte) (h_s : s.Kept) : (State.memWrite s a bs).Kept := by
  unfold State.memWrite
  repeat' (first | with_reducible assumption | (simp only [↓kept_mk]; first | with_reducible apply State.Kept.parts | with_reducible apply keptParts.mem | with_reducible apply keptParts.regs) | with_reducible apply cellsWrite_wf | with_reducible apply wf_filter | exact State.Kept.wf (by assumption) | dsimp only | split | (intro))

end Sys2Proof.Machine
end

