-- ==== Sys2Proof/Laws/KeptEvents.lean ====
section
/-! SUPPORT. The functions of Events keep the canonical form of the state. -/

set_option linter.unusedTactic false
set_option linter.unreachableTactic false
set_option simprocs false

namespace Sys2Proof.Machine

theorem State.setShare_kept (s : State) (key : Nat) (x : Share) (h_s : s.Kept) : (State.setShare s key x).Kept := by
  unfold State.setShare
  repeat' (first | with_reducible assumption | (simp only [↓kept_mk]; first | with_reducible apply State.Kept.parts | with_reducible apply keptParts.mem | with_reducible apply keptParts.regs) | dsimp only | split | (intro))

theorem State.enqueue_kept (s : State) (out : Nat) (p : Pkt) (h_s : s.Kept) : (State.enqueue s out p).Kept := by
  unfold State.enqueue
  repeat' (first | with_reducible assumption | (simp only [↓kept_mk]; first | with_reducible apply State.Kept.parts | with_reducible apply keptParts.mem | with_reducible apply keptParts.regs) | dsimp only | split | (intro))

theorem State.sendKl_kept (s : State) (k : Nat) (p : KPkt) (h_s : s.Kept) : (State.sendKl s k p).Kept := by
  unfold State.sendKl
  repeat' (first | with_reducible assumption | with_reducible apply State.enqueue_kept | (simp only [↓kept_mk]; first | with_reducible apply State.Kept.parts | with_reducible apply keptParts.mem | with_reducible apply keptParts.regs) | dsimp only | split | (intro))

theorem State.sendQf_kept (s : State) (p : QPkt) (h_s : s.Kept) : (State.sendQf s p).Kept := by
  unfold State.sendQf
  repeat' (first | with_reducible assumption | with_reducible apply State.enqueue_kept | (simp only [↓kept_mk]; first | with_reducible apply State.Kept.parts | with_reducible apply keptParts.mem | with_reducible apply keptParts.regs) | dsimp only | split | (intro))

theorem State.sendMap_kept (s : State) (dest : Nat) (m : MapMsg) (tag : Nat) (h_s : s.Kept) : (State.sendMap s dest m tag).Kept := by
  unfold State.sendMap
  repeat' (first | with_reducible assumption | with_reducible apply State.enqueue_kept | (simp only [↓kept_mk]; first | with_reducible apply State.Kept.parts | with_reducible apply keptParts.mem | with_reducible apply keptParts.regs) | dsimp only | split | (intro))

theorem State.floodAs_kept (s : State) (src : Nat) (m : MapMsg) (h_s : s.Kept) : (State.floodAs s src m).Kept := by
  unfold State.floodAs
  repeat' (first | with_reducible assumption | with_reducible apply State.enqueue_kept | with_reducible apply forN_kept | (simp only [↓kept_mk]; first | with_reducible apply State.Kept.parts | with_reducible apply keptParts.mem | with_reducible apply keptParts.regs) | dsimp only | split | (intro))

theorem State.floodMap_kept (s : State) (m : MapMsg) (h_s : s.Kept) : (State.floodMap s m).Kept := by
  unfold State.floodMap
  repeat' (first | with_reducible assumption | with_reducible apply State.floodAs_kept | (simp only [↓kept_mk]; first | with_reducible apply State.Kept.parts | with_reducible apply keptParts.mem | with_reducible apply keptParts.regs) | dsimp only | split | (intro))

theorem State.freeze_kept (s : State) (trigger : Fld) (source cause : Nat) (h_s : s.Kept) : (State.freeze s trigger source cause).Kept := by
  unfold State.freeze
  repeat' (first | with_reducible assumption | with_reducible apply State.setFld_kept | (simp only [↓kept_mk]; first | with_reducible apply State.Kept.parts | with_reducible apply keptParts.mem | with_reducible apply keptParts.regs) | dsimp only | split | (intro))

theorem State.recordWrite_kept (s : State) (a : Nat) (bs : List Byte) (h_s : s.Kept) : (State.recordWrite s a bs).Kept := by
  unfold State.recordWrite
  repeat' (first | with_reducible assumption | with_reducible apply Eff.write_kept | with_reducible apply State.memWrite_kept | (simp only [↓kept_mk]; first | with_reducible apply State.Kept.parts | with_reducible apply keptParts.mem | with_reducible apply keptParts.regs) | dsimp only | split | (intro))

theorem State.logWrite_kept (s : State) (rec64 : List Byte) (h_s : s.Kept) : (State.logWrite s rec64).Kept := by
  unfold State.logWrite
  repeat' (first | with_reducible assumption | with_reducible apply State.recordWrite_kept | with_reducible apply State.incSat_kept | with_reducible apply State.setFld_kept | (simp only [↓kept_mk]; first | with_reducible apply State.Kept.parts | with_reducible apply keptParts.mem | with_reducible apply keptParts.regs) | dsimp only | split | (intro))

theorem State.alarmAdd_kept (s : State) (base i node source cause n first last : Nat) (h_s : s.Kept) : (State.alarmAdd s base i node source cause n first last).Kept := by
  unfold State.alarmAdd
  repeat' (first | with_reducible assumption | with_reducible apply State.setWord_kept | (simp only [↓kept_mk]; first | with_reducible apply State.Kept.parts | with_reducible apply keptParts.mem | with_reducible apply keptParts.regs) | dsimp only | split | (intro))

theorem State.countAlarm_kept (s : State) (source cause detail : Nat) (h_s : s.Kept) : (State.countAlarm s source cause detail).Kept := by
  unfold State.countAlarm
  repeat' (first | with_reducible assumption | with_reducible apply State.incSat_kept | with_reducible apply State.setFld_kept | with_reducible apply State.alarmAdd_kept | with_reducible apply State.addWrap_kept | (simp only [↓kept_mk]; first | with_reducible apply State.Kept.parts | with_reducible apply keptParts.mem | with_reducible apply keptParts.regs) | dsimp only | split | (intro))

theorem State.record_kept (s : State) (e : Event) (h_s : s.Kept) : (State.record s e).Kept := by
  unfold State.record
  repeat' (first | with_reducible assumption | with_reducible apply State.countAlarm_kept | with_reducible apply State.freeze_kept | with_reducible apply State.logWrite_kept | with_reducible apply State.sendQf_kept | with_reducible apply State.setFld_kept | (simp only [↓kept_mk]; first | with_reducible apply State.Kept.parts | with_reducible apply keptParts.mem | with_reducible apply keptParts.regs) | dsimp only | split | (intro))

theorem State.logDue_kept (s : State) (h_s : s.Kept) : (State.logDue s).Kept := by
  unfold State.logDue
  repeat' (first | with_reducible assumption | (simp only [↓kept_mk]; first | with_reducible apply State.Kept.parts | with_reducible apply keptParts.mem | with_reducible apply keptParts.regs) | dsimp only | split | (intro))

theorem State.message_kept (s : State) (sl v : Nat) (h_s : s.Kept) : (State.message s sl v).Kept := by
  unfold State.message
  repeat' (first | with_reducible assumption | with_reducible apply State.record_kept | with_reducible apply State.sendKl_kept | with_reducible apply State.setFldAt_kept | with_reducible apply State.incSatAt_kept | with_reducible apply State.logDue_kept | (simp only [↓kept_mk]; first | with_reducible apply State.Kept.parts | with_reducible apply keptParts.mem | with_reducible apply keptParts.regs) | dsimp only | split | (intro))

theorem State.logTell_kept (s : State) (alarm : Bool) (h_s : s.Kept) : (State.logTell s alarm).Kept := by
  unfold State.logTell
  repeat' (first | with_reducible assumption | with_reducible apply State.message_kept | with_reducible apply State.logDue_kept | (simp only [↓kept_mk]; first | with_reducible apply State.Kept.parts | with_reducible apply keptParts.mem | with_reducible apply keptParts.regs) | dsimp only | split | (intro))

theorem State.raise_kept (s : State) (e : Event) (h_s : s.Kept) : (State.raise s e).Kept := by
  unfold State.raise
  repeat' (first | with_reducible assumption | with_reducible apply State.record_kept | with_reducible apply State.logTell_kept | (simp only [↓kept_mk]; first | with_reducible apply State.Kept.parts | with_reducible apply keptParts.mem | with_reducible apply keptParts.regs) | dsimp only | split | (intro))

end Sys2Proof.Machine
end

