-- ==== Sys2Proof/Laws/KeptOperands.lean ====
section
/-! SUPPORT. The functions of Operands keep the canonical form of the state. -/

set_option linter.unusedTactic false
set_option linter.unreachableTactic false
set_option simprocs false

namespace Sys2Proof.Machine

theorem State.setDesc_kept (s : State) (d : Desc) (h_s : s.Kept) : (State.setDesc s d).Kept := by
  unfold State.setDesc
  repeat' (first | with_reducible assumption | (simp only [↓kept_mk]; first | with_reducible apply State.Kept.parts | with_reducible apply keptParts.mem | with_reducible apply keptParts.regs) | dsimp only | split | (intro))

theorem State.setRing_kept (s : State) (r : Ring) (h_s : s.Kept) : (State.setRing s r).Kept := by
  unfold State.setRing
  repeat' (first | with_reducible assumption | (simp only [↓kept_mk]; first | with_reducible apply State.Kept.parts | with_reducible apply keptParts.mem | with_reducible apply keptParts.regs) | dsimp only | split | (intro))

end Sys2Proof.Machine
end

