-- ==== Sys2Proof/Laws/KeptCounters.lean ====
section
/-! SUPPORT. The functions of Counters keep the canonical form of the state. -/

set_option linter.unusedTactic false
set_option linter.unreachableTactic false
set_option simprocs false

namespace Sys2Proof.Machine

theorem State.obs_kept (s : State) (kind inst event slice v : Nat) (h_s : s.Kept) : (State.obs s kind inst event slice v).Kept := by
  unfold State.obs
  repeat' (first | with_reducible assumption | with_reducible apply State.setFldAt_kept | with_reducible apply forN_kept | (simp only [↓kept_mk]; first | with_reducible apply State.Kept.parts | with_reducible apply keptParts.mem | with_reducible apply keptParts.regs) | dsimp only | split | (intro))

theorem State.obsEdge_kept (s : State) (kind inst event : Nat) (was is : Bool) (h_s : s.Kept) : (State.obsEdge s kind inst event was is).Kept := by
  unfold State.obsEdge
  repeat' (first | with_reducible assumption | with_reducible apply State.setFldAt_kept | with_reducible apply forN_kept | (simp only [↓kept_mk]; first | with_reducible apply State.Kept.parts | with_reducible apply keptParts.mem | with_reducible apply keptParts.regs) | dsimp only | split | (intro))

theorem State.obsCycle_kept (s : State) (h_s : s.Kept) : (State.obsCycle s).Kept := by
  unfold State.obsCycle
  repeat' (first | with_reducible assumption | with_reducible apply State.setFldAt_kept | with_reducible apply forN_kept | (simp only [↓kept_mk]; first | with_reducible apply State.Kept.parts | with_reducible apply keptParts.mem | with_reducible apply keptParts.regs) | dsimp only | split | (intro))

theorem State.scrGap_kept (s : State) (h_s : s.Kept) : PairKept (State.scrGap s) := by
  unfold State.scrGap
  repeat' (first | with_reducible assumption | with_reducible apply PairKept.fst | with_reducible refine PairKept.elim (by with_reducible assumption) ?_ | (simp only [↓kept_mk]; first | with_reducible apply State.Kept.parts | with_reducible apply keptParts.mem | with_reducible apply keptParts.regs) | dsimp only | split | with_reducible apply PairKept.pair | (intro))

theorem State.scriv_kept (s : State) (point slice source since addr a b : Nat) (h_s : s.Kept) : (State.scriv s point slice source since addr a b).Kept := by
  unfold State.scriv
  repeat' (first | with_reducible assumption | with_reducible apply State.recordWrite_kept | with_reducible apply State.incSat_kept | with_reducible apply State.setFld_kept | with_reducible apply State.scrGap_kept | with_reducible apply PairKept.fst | with_reducible refine PairKept.elim (by with_reducible assumption) ?_ | (simp only [↓kept_mk]; first | with_reducible apply State.Kept.parts | with_reducible apply keptParts.mem | with_reducible apply keptParts.regs) | dsimp only | split | with_reducible apply PairKept.pair | (intro))

theorem State.scrStart_kept (s : State) (h_s : s.Kept) : (State.scrStart s).Kept := by
  unfold State.scrStart
  repeat' (first | with_reducible assumption | with_reducible apply State.scrGap_kept | with_reducible apply PairKept.fst | with_reducible refine PairKept.elim (by with_reducible assumption) ?_ | (simp only [↓kept_mk]; first | with_reducible apply State.Kept.parts | with_reducible apply keptParts.mem | with_reducible apply keptParts.regs) | dsimp only | split | with_reducible apply PairKept.pair | (intro))

end Sys2Proof.Machine
end

