-- ==== Sys2Proof/Laws/KeptTiers.lean ====
section
/-! SUPPORT. The functions of Tiers keep the canonical form of the state. -/

set_option linter.unusedTactic false
set_option linter.unreachableTactic false
set_option simprocs false

namespace Sys2Proof.Machine

theorem State.setFrame_kept (s : State) (f : Frame) (h_s : s.Kept) : (State.setFrame s f).Kept := by
  unfold State.setFrame
  repeat' (first | with_reducible assumption | (simp only [↓kept_mk]; first | with_reducible apply State.Kept.parts | with_reducible apply keptParts.mem | with_reducible apply keptParts.regs) | dsimp only | split | (intro))

theorem State.setTileFrame_kept (s : State) (t : TRef) (id : Nat) (h_s : s.Kept) : (State.setTileFrame s t id).Kept := by
  unfold State.setTileFrame
  repeat' (first | with_reducible assumption | (simp only [↓kept_mk]; first | with_reducible apply State.Kept.parts | with_reducible apply keptParts.mem | with_reducible apply keptParts.regs) | dsimp only | split | (intro))

theorem State.quse_kept (s : State) (slice tier : Nat) (g : Nat → Nat) (h_s : s.Kept) : (State.quse s slice tier g).Kept := by
  unfold State.quse
  repeat' (first | with_reducible assumption | with_reducible apply State.setFldAt_kept | (simp only [↓kept_mk]; first | with_reducible apply State.Kept.parts | with_reducible apply keptParts.mem | with_reducible apply keptParts.regs) | dsimp only | split | (intro))

theorem State.newFrame_kept (s : State) (owner tier port : Nat) (data : Cells) (poison : List Nat) (cache : Option CacheFrame) (h_s : s.Kept) : PairKept (State.newFrame s owner tier port data poison cache) := by
  unfold State.newFrame
  repeat' (first | with_reducible assumption | with_reducible apply State.quse_kept | with_reducible apply PairKept.fst | with_reducible refine PairKept.elim (by with_reducible assumption) ?_ | (simp only [↓kept_mk]; first | with_reducible apply State.Kept.parts | with_reducible apply keptParts.mem | with_reducible apply keptParts.regs) | dsimp only | split | with_reducible apply PairKept.pair | (intro))

theorem State.gc_kept (s : State) (h_s : s.Kept) : PairKept (State.gc s) := by
  unfold State.gc
  repeat' (first | with_reducible assumption | with_reducible apply State.quse_kept | with_reducible apply forL_kept | with_reducible apply PairKept.fst | with_reducible refine PairKept.elim (by with_reducible assumption) ?_ | (simp only [↓kept_mk]; first | with_reducible apply State.Kept.parts | with_reducible apply keptParts.mem | with_reducible apply keptParts.regs) | dsimp only | split | with_reducible apply PairKept.pair | (intro))

theorem State.cacheRoom_kept (s : State) (h_s : s.Kept) : OptKept (State.cacheRoom s) := by
  unfold State.cacheRoom
  repeat' (first | with_reducible assumption | with_reducible apply State.setFrame_kept | with_reducible exact OptKept.none | with_reducible apply OptKept.some | with_reducible apply OptKept.map | with_reducible apply OptKept.bind | with_reducible apply OptKept.findSome | with_reducible apply OptKept.getD | with_reducible refine OptKept.elim (by with_reducible assumption) ?_ | (simp only [↓kept_mk]; first | with_reducible apply State.Kept.parts | with_reducible apply keptParts.mem | with_reducible apply keptParts.regs) | dsimp only | split | (intro))

theorem State.copyFrame_kept (s : State) (owner : Nat) (f : Frame) (h_s : s.Kept) : PairResKept (State.copyFrame s owner f) := by
  unfold State.copyFrame
  repeat' (first | with_reducible assumption | with_reducible apply State.located_kept | with_reducible apply State.cacheRoom_kept | with_reducible apply State.newFrame_kept | with_reducible exact OptKept.none | with_reducible apply OptKept.some | with_reducible apply OptKept.map | with_reducible apply OptKept.bind | with_reducible apply OptKept.findSome | with_reducible apply OptKept.getD | with_reducible refine OptKept.elim (by with_reducible assumption) ?_ | with_reducible apply PairKept.fst | with_reducible refine PairKept.elim (by with_reducible assumption) ?_ | with_reducible exact PairResKept.error | with_reducible exact PairResKept.fail | with_reducible apply PairResKept.ok | with_reducible apply PairResKept.okPair | with_reducible apply PairResKept.bind | with_reducible apply PairResKept.map | with_reducible refine PairResKept.elim (by with_reducible assumption) ?_ | with_reducible refine PairResKept.elimFst (by with_reducible assumption) ?_ | (simp only [↓kept_mk]; first | with_reducible apply State.Kept.parts | with_reducible apply keptParts.mem | with_reducible apply keptParts.regs) | dsimp only | split | with_reducible apply PairKept.pair | (intro))

theorem State.writeFrame_kept (s : State) (f : Frame) (off : Nat) (bs : List Byte) (poison : Bool) (h_s : s.Kept) : ResKept (State.writeFrame s f off bs poison) := by
  unfold State.writeFrame
  repeat' (first | with_reducible assumption | with_reducible apply Eff.write_kept | with_reducible apply State.cacheRoom_kept | with_reducible apply State.located_kept | with_reducible apply State.setFrame_kept | with_reducible exact OptKept.none | with_reducible apply OptKept.some | with_reducible apply OptKept.map | with_reducible apply OptKept.bind | with_reducible apply OptKept.findSome | with_reducible apply OptKept.getD | with_reducible refine OptKept.elim (by with_reducible assumption) ?_ | with_reducible exact ResKept.error | with_reducible exact ResKept.fail | with_reducible apply ResKept.ok | with_reducible apply ResKept.bind | with_reducible apply ResKept.map | with_reducible apply ResKept.foldlM | with_reducible refine ResKept.elim (by with_reducible assumption) ?_ | (simp only [↓kept_mk]; first | with_reducible apply State.Kept.parts | with_reducible apply keptParts.mem | with_reducible apply keptParts.regs) | dsimp only | split | (intro))

theorem State.writeTile_kept (s : State) (t : TRef) (off : Nat) (bs : List Byte) (poison : Bool) (h_s : s.Kept) : ResKept (State.writeTile s t off bs poison) := by
  unfold State.writeTile
  repeat' (first | with_reducible assumption | with_reducible apply Eff.write_kept | with_reducible apply State.copyFrame_kept | with_reducible apply State.newFrame_kept | with_reducible apply State.writeFrame_kept | with_reducible apply State.setTileFrame_kept | with_reducible apply PairKept.fst | with_reducible refine PairKept.elim (by with_reducible assumption) ?_ | with_reducible exact ResKept.error | with_reducible exact ResKept.fail | with_reducible apply ResKept.ok | with_reducible apply ResKept.bind | with_reducible apply ResKept.map | with_reducible apply ResKept.foldlM | with_reducible refine ResKept.elim (by with_reducible assumption) ?_ | with_reducible exact PairResKept.error | with_reducible exact PairResKept.fail | with_reducible apply PairResKept.ok | with_reducible apply PairResKept.okPair | with_reducible apply PairResKept.bind | with_reducible apply PairResKept.map | with_reducible refine PairResKept.elim (by with_reducible assumption) ?_ | with_reducible refine PairResKept.elimFst (by with_reducible assumption) ?_ | (simp only [↓kept_mk]; first | with_reducible apply State.Kept.parts | with_reducible apply keptParts.mem | with_reducible apply keptParts.regs) | dsimp only | split | with_reducible apply PairKept.pair | (intro))

theorem State.lose_kept (s : State) (id status : Nat) (h_s : s.Kept) : (State.lose s id status).Kept := by
  unfold State.lose
  repeat' (first | with_reducible assumption | with_reducible apply State.incSat_kept | with_reducible apply State.setFrame_kept | with_reducible apply State.raise_kept | (simp only [↓kept_mk]; first | with_reducible apply State.Kept.parts | with_reducible apply keptParts.mem | with_reducible apply keptParts.regs) | dsimp only | split | (intro))

theorem State.startFill_kept (s : State) (id : Nat) (h_s : s.Kept) : (State.startFill s id).Kept := by
  unfold State.startFill
  repeat' (first | with_reducible assumption | with_reducible apply State.sendKl_kept | with_reducible apply State.answer_kept | (simp only [↓kept_mk]; first | with_reducible apply State.Kept.parts | with_reducible apply keptParts.mem | with_reducible apply keptParts.regs) | dsimp only | split | (intro))

theorem State.zeroTile_kept (s : State) (t : TRef) (h_s : s.Kept) : (State.zeroTile s t).Kept := by
  unfold State.zeroTile
  repeat' (first | with_reducible assumption | with_reducible apply State.located_kept | with_reducible apply State.cacheRoom_kept | with_reducible apply State.setFrame_kept | with_reducible exact OptKept.none | with_reducible apply OptKept.some | with_reducible apply OptKept.map | with_reducible apply OptKept.bind | with_reducible apply OptKept.findSome | with_reducible apply OptKept.getD | with_reducible refine OptKept.elim (by with_reducible assumption) ?_ | (simp only [↓kept_mk]; first | with_reducible apply State.Kept.parts | with_reducible apply keptParts.mem | with_reducible apply keptParts.regs) | dsimp only | split | (intro))

theorem State.zeroFill_kept (s : State) (a n : Nat) (h_s : s.Kept) : (State.zeroFill s a n).Kept := by
  unfold State.zeroFill
  repeat' (first | with_reducible assumption | with_reducible apply State.zeroTile_kept | with_reducible apply forL_kept | (simp only [↓kept_mk]; first | with_reducible apply State.Kept.parts | with_reducible apply keptParts.mem | with_reducible apply keptParts.regs) | dsimp only | split | (intro))

theorem State.fillDone_kept (s : State) (id : Nat) (bytes : List Byte) (h_s : s.Kept) : (State.fillDone s id bytes).Kept := by
  unfold State.fillDone
  repeat' (first | with_reducible assumption | with_reducible apply State.cacheRoom_kept | with_reducible apply State.setFrame_kept | with_reducible exact OptKept.none | with_reducible apply OptKept.some | with_reducible apply OptKept.map | with_reducible apply OptKept.bind | with_reducible apply OptKept.findSome | with_reducible apply OptKept.getD | with_reducible refine OptKept.elim (by with_reducible assumption) ?_ | (simp only [↓kept_mk]; first | with_reducible apply State.Kept.parts | with_reducible apply keptParts.mem | with_reducible apply keptParts.regs) | dsimp only | split | (intro))

theorem State.poisonLineAt_kept (s : State) (l : Nat) (staged : Option (Frame × Nat)) (h_s : s.Kept) : (State.poisonLineAt s l staged).Kept := by
  unfold State.poisonLineAt
  repeat' (first | with_reducible assumption | with_reducible apply State.setFrame_kept | (simp only [↓kept_mk]; first | with_reducible apply State.Kept.parts | with_reducible apply keptParts.mem | with_reducible apply keptParts.regs) | dsimp only | split | (intro))

theorem State.poisonStore_kept (s : State) (a : Nat) (h_s : s.Kept) : (State.poisonStore s a).Kept := by
  unfold State.poisonStore
  repeat' (first | with_reducible assumption | with_reducible apply State.poisonLineAt_kept | (simp only [↓kept_mk]; first | with_reducible apply State.Kept.parts | with_reducible apply keptParts.mem | with_reducible apply keptParts.regs) | dsimp only | split | (intro))

theorem State.poisonAt_kept (s : State) (a : Nat) (h_s : s.Kept) : (State.poisonAt s a).Kept := by
  unfold State.poisonAt
  repeat' (first | with_reducible assumption | with_reducible apply State.setFrame_kept | (simp only [↓kept_mk]; first | with_reducible apply State.Kept.parts | with_reducible apply keptParts.mem | with_reducible apply keptParts.regs) | dsimp only | split | (intro))

theorem State.dramErr_kept (s : State) (a pc : Nat) (e : DramErr) (h_s : s.Kept) : (State.dramErr s a pc e).Kept := by
  unfold State.dramErr
  repeat' (first | with_reducible assumption | with_reducible apply State.obs_kept | with_reducible apply State.raise_kept | with_reducible apply State.incSatAt_kept | with_reducible apply State.poisonAt_kept | (simp only [↓kept_mk]; first | with_reducible apply State.Kept.parts | with_reducible apply keptParts.mem | with_reducible apply keptParts.regs) | dsimp only | split | (intro))

theorem State.storeErr_kept (s : State) (a slice : Nat) (e : DramErr) (f : State → State) (h_s : s.Kept) (h_f : ∀ x0, x0.Kept → (f x0).Kept) : (State.storeErr s a slice e f).Kept := by
  unfold State.storeErr
  repeat' (first | with_reducible assumption | with_reducible apply State.incSat_kept | with_reducible apply State.raise_kept | with_reducible apply h_f | (simp only [↓kept_mk]; first | with_reducible apply State.Kept.parts | with_reducible apply keptParts.mem | with_reducible apply keptParts.regs) | dsimp only | split | (intro))

theorem State.memErr_kept (s : State) (e : MemErr) (h_s : s.Kept) : (State.memErr s e).Kept := by
  unfold State.memErr
  repeat' (first | with_reducible assumption | with_reducible apply State.storeErr_kept | with_reducible apply State.poisonStore_kept | with_reducible apply State.poisonAt_kept | with_reducible apply State.dramErr_kept | (simp only [↓kept_mk]; first | with_reducible apply State.Kept.parts | with_reducible apply keptParts.mem | with_reducible apply keptParts.regs) | dsimp only | split | (intro))

theorem State.readErrs_kept (s : State) (es : List MemErr) (body : State → State) (h_s : s.Kept) (h_body : ∀ x0, x0.Kept → (body x0).Kept) : (State.readErrs s es body).Kept := by
  unfold State.readErrs
  repeat' (first | with_reducible assumption | with_reducible apply State.memErr_kept | with_reducible apply forL_kept | with_reducible apply whenAlive_kept | with_reducible apply h_body | (simp only [↓kept_mk]; first | with_reducible apply State.Kept.parts | with_reducible apply keptParts.mem | with_reducible apply keptParts.regs) | dsimp only | split | (intro))

end Sys2Proof.Machine
end

