-- ==== Sys2Proof/Laws/KeptCoherence.lean ====
section
/-! SUPPORT. The functions of Coherence keep the canonical form of the state. -/

set_option linter.unusedTactic false
set_option linter.unreachableTactic false
set_option simprocs false

namespace Sys2Proof.Machine

theorem State.setEntry_kept (s : State) (e : DirEntry) (h_s : s.Kept) : (State.setEntry s e).Kept := by
  unfold State.setEntry
  repeat' (first | with_reducible assumption | (simp only [↓kept_mk]; first | with_reducible apply State.Kept.parts | with_reducible apply keptParts.mem | with_reducible apply keptParts.regs) | dsimp only | split | (intro))

theorem State.dropEntry_kept (s : State) (line : Nat) (h_s : s.Kept) : (State.dropEntry s line).Kept := by
  unfold State.dropEntry
  repeat' (first | with_reducible assumption | (simp only [↓kept_mk]; first | with_reducible apply State.Kept.parts | with_reducible apply keptParts.mem | with_reducible apply keptParts.regs) | dsimp only | split | (intro))

theorem State.ask_kept (s : State) (line typ : Nat) (h : Nat × Nat) (h_s : s.Kept) : (State.ask s line typ h).Kept := by
  unfold State.ask
  repeat' (first | with_reducible assumption | with_reducible apply State.sendKl_kept | with_reducible apply State.sendQf_kept | (simp only [↓kept_mk]; first | with_reducible apply State.Kept.parts | with_reducible apply keptParts.mem | with_reducible apply keptParts.regs) | dsimp only | split | (intro))

theorem State.pumpAsks_kept (s : State) (h_s : s.Kept) : (State.pumpAsks s).Kept := by
  unfold State.pumpAsks
  repeat' (first | with_reducible assumption | with_reducible apply State.ask_kept | with_reducible apply forL_kept | (simp only [↓kept_mk]; first | with_reducible apply State.Kept.parts | with_reducible apply keptParts.mem | with_reducible apply keptParts.regs) | dsimp only | split | (intro))

theorem State.answer_kept (s : State) (r : Req) (typ aux : Nat) (payload : List Byte) (poison : Bool) (h_s : s.Kept) : (State.answer s r typ aux payload poison).Kept := by
  unfold State.answer
  repeat' (first | with_reducible assumption | with_reducible apply State.sendKl_kept | with_reducible apply State.sendQf_kept | (simp only [↓kept_mk]; first | with_reducible apply State.Kept.parts | with_reducible apply keptParts.mem | with_reducible apply keptParts.regs) | dsimp only | split | (intro))

theorem State.answerErr_kept (s : State) (r : Req) (f : Fail) (h_s : s.Kept) : (State.answerErr s r f).Kept := by
  unfold State.answerErr
  repeat' (first | with_reducible assumption | with_reducible apply State.sendKl_kept | with_reducible apply State.sendQf_kept | (simp only [↓kept_mk]; first | with_reducible apply State.Kept.parts | with_reducible apply keptParts.mem | with_reducible apply keptParts.regs) | dsimp only | split | (intro))

theorem State.rawWrite_kept (s : State) (a : Nat) (bs : List Byte) (poison : Bool) (h_s : s.Kept) : ResKept (State.rawWrite s a bs poison) := by
  unfold State.rawWrite
  repeat' (first | with_reducible assumption | with_reducible apply State.memWrite_kept | with_reducible apply State.writeTile_kept | with_reducible exact ResKept.error | with_reducible exact ResKept.fail | with_reducible apply ResKept.ok | with_reducible apply ResKept.bind | with_reducible apply ResKept.map | with_reducible apply ResKept.foldlM | with_reducible refine ResKept.elim (by with_reducible assumption) ?_ | (simp only [↓kept_mk]; first | with_reducible apply State.Kept.parts | with_reducible apply keptParts.mem | with_reducible apply keptParts.regs) | dsimp only | split | (intro))

theorem State.discardStore_kept (s : State) (a refused : Nat) (h_s : s.Kept) : (State.discardStore s a refused).Kept := by
  unfold State.discardStore
  repeat' (first | with_reducible assumption | with_reducible apply State.incSat_kept | with_reducible apply State.raise_kept | (simp only [↓kept_mk]; first | with_reducible apply State.Kept.parts | with_reducible apply keptParts.mem | with_reducible apply keptParts.regs) | dsimp only | split | (intro))

theorem State.storeLine_kept (s : State) (line : Nat) (bs : List Byte) (poison : Bool) (h_s : s.Kept) : (State.storeLine s line bs poison).Kept := by
  unfold State.storeLine
  repeat' (first | with_reducible assumption | with_reducible apply State.rawWrite_kept | with_reducible apply Eff.write_kept | with_reducible apply State.startFill_kept | with_reducible apply State.discardStore_kept | with_reducible apply forL_kept | with_reducible exact ResKept.error | with_reducible exact ResKept.fail | with_reducible apply ResKept.ok | with_reducible apply ResKept.bind | with_reducible apply ResKept.map | with_reducible apply ResKept.foldlM | with_reducible refine ResKept.elim (by with_reducible assumption) ?_ | (simp only [↓kept_mk]; first | with_reducible apply State.Kept.parts | with_reducible apply keptParts.mem | with_reducible apply keptParts.regs) | dsimp only | split | (intro))

theorem State.poisonLine_kept (s : State) (line : Nat) (h_s : s.Kept) : (State.poisonLine s line).Kept := by
  unfold State.poisonLine
  repeat' (first | with_reducible assumption | with_reducible apply State.storeLine_kept | (simp only [↓kept_mk]; first | with_reducible apply State.Kept.parts | with_reducible apply keptParts.mem | with_reducible apply keptParts.regs) | dsimp only | split | (intro))

theorem State.cohSample_kept (s : State) (r : Req) (line before : Nat) (h_s : s.Kept) : (State.cohSample s r line before).Kept := by
  unfold State.cohSample
  repeat' (first | with_reducible assumption | with_reducible apply State.scriv_kept | (simp only [↓kept_mk]; first | with_reducible apply State.Kept.parts | with_reducible apply keptParts.mem | with_reducible apply keptParts.regs) | dsimp only | split | (intro))

theorem State.grant_kept (s : State) (r : Req) (line typ : Nat) (h_s : s.Kept) : (State.grant s r line typ).Kept := by
  unfold State.grant
  repeat' (first | with_reducible assumption | with_reducible apply State.obs_kept | with_reducible apply State.answer_kept | with_reducible apply State.addWrap_kept | (simp only [↓kept_mk]; first | with_reducible apply State.Kept.parts | with_reducible apply keptParts.mem | with_reducible apply keptParts.regs) | dsimp only | split | (intro))

theorem State.countSlots_kept (s : State) (h_s : s.Kept) : (State.countSlots s).Kept := by
  unfold State.countSlots
  repeat' (first | with_reducible assumption | with_reducible apply State.setFld_kept | (simp only [↓kept_mk]; first | with_reducible apply State.Kept.parts | with_reducible apply keptParts.mem | with_reducible apply keptParts.regs) | dsimp only | split | (intro))

theorem State.noteTrip_kept (s : State) (line : Nat) (h : Nat × Nat) (h_s : s.Kept) : (State.noteTrip s line h).Kept := by
  unfold State.noteTrip
  repeat' (first | with_reducible assumption | with_reducible apply State.take_kept | (simp only [↓kept_mk]; first | with_reducible apply State.Kept.parts | with_reducible apply keptParts.mem | with_reducible apply keptParts.regs) | dsimp only | split | (intro))

theorem State.retry_kept (s : State) (r : Req) (line credit wait : Nat) (h_s : s.Kept) : (State.retry s r line credit wait).Kept := by
  unfold State.retry
  repeat' (first | with_reducible assumption | with_reducible apply State.obs_kept | with_reducible apply State.answer_kept | (simp only [↓kept_mk]; first | with_reducible apply State.Kept.parts | with_reducible apply keptParts.mem | with_reducible apply keptParts.regs) | dsimp only | split | (intro))

theorem State.ticket_kept (s : State) (r : Req) (line : Nat) (h_s : s.Kept) : (State.ticket s r line).Kept := by
  unfold State.ticket
  repeat' (first | with_reducible assumption | with_reducible apply State.retry_kept | with_reducible apply State.incSat_kept | with_reducible apply State.obsEdge_kept | with_reducible apply State.serve_kept | with_reducible apply State.countSlots_kept | (simp only [↓kept_mk]; first | with_reducible apply State.Kept.parts | with_reducible apply keptParts.mem | with_reducible apply keptParts.regs) | dsimp only | split | (intro))

theorem State.advanceServe_kept (s : State) (x : RetrySlot) (h_s : s.Kept) : (State.advanceServe s x).Kept := by
  unfold State.advanceServe
  repeat' (first | with_reducible assumption | with_reducible apply State.obsEdge_kept | with_reducible apply State.serve_kept | with_reducible apply State.countSlots_kept | (simp only [↓kept_mk]; first | with_reducible apply State.Kept.parts | with_reducible apply keptParts.mem | with_reducible apply keptParts.regs) | dsimp only | split | (intro))

theorem State.settle_kept (s : State) (line : Nat) (h_s : s.Kept) : (State.settle s line).Kept := by
  unfold State.settle
  repeat' (first | with_reducible assumption | with_reducible apply State.setEntry_kept | with_reducible apply State.access_kept | with_reducible apply State.cohSample_kept | with_reducible apply State.grant_kept | with_reducible apply State.dropEntry_kept | (simp only [↓kept_mk]; first | with_reducible apply State.Kept.parts | with_reducible apply keptParts.mem | with_reducible apply keptParts.regs) | dsimp only | split | (intro))

theorem State.answered_kept (s : State) (line : Nat) (h : Nat × Nat) (data : Option (List Byte × Bool)) (poison gone : Bool) (h_s : s.Kept) : (State.answered s line h data poison gone).Kept := by
  unfold State.answered
  repeat' (first | with_reducible assumption | with_reducible apply State.poisonLine_kept | with_reducible apply State.setEntry_kept | with_reducible apply State.storeLine_kept | with_reducible apply State.pumpAsks_kept | with_reducible apply State.settle_kept | (simp only [↓kept_mk]; first | with_reducible apply State.Kept.parts | with_reducible apply keptParts.mem | with_reducible apply keptParts.regs) | dsimp only | split | (intro))

theorem State.freshen_kept (s : State) (line : Nat) (h_s : s.Kept) : (State.freshen s line).Kept := by
  unfold State.freshen
  repeat' (first | with_reducible assumption | with_reducible apply State.poisonLine_kept | with_reducible apply State.setEntry_kept | with_reducible apply State.dropEntry_kept | (simp only [↓kept_mk]; first | with_reducible apply State.Kept.parts | with_reducible apply keptParts.mem | with_reducible apply keptParts.regs) | dsimp only | split | (intro))

theorem State.startAsk_kept (s : State) (e : DirEntry) (st : DState) (typ : Nat) (hs : List (Nat × Nat)) (c : DCause) (h_s : s.Kept) : (State.startAsk s e st typ hs c).Kept := by
  unfold State.startAsk
  repeat' (first | with_reducible assumption | with_reducible apply State.setEntry_kept | with_reducible apply State.answered_kept | with_reducible apply State.pumpAsks_kept | with_reducible apply State.settle_kept | with_reducible apply forL_kept | (simp only [↓kept_mk]; first | with_reducible apply State.Kept.parts | with_reducible apply keptParts.mem | with_reducible apply keptParts.regs) | dsimp only | split | (intro))

theorem State.evictLine_kept (s : State) (e : DirEntry) (h_s : s.Kept) : (State.evictLine s e).Kept := by
  unfold State.evictLine
  repeat' (first | with_reducible assumption | with_reducible apply State.startAsk_kept | (simp only [↓kept_mk]; first | with_reducible apply State.Kept.parts | with_reducible apply keptParts.mem | with_reducible apply keptParts.regs) | dsimp only | split | (intro))

theorem State.recallFor_kept (s0 : State) (line : Nat) (own : Bool) (h_s0 : s0.Kept) : (State.recallFor s0 line own).Kept := by
  unfold State.recallFor
  repeat' (first | with_reducible assumption | with_reducible apply State.setEntry_kept | with_reducible apply State.access_kept | with_reducible apply State.freshen_kept | with_reducible apply State.startAsk_kept | (simp only [↓kept_mk]; first | with_reducible apply State.Kept.parts | with_reducible apply keptParts.mem | with_reducible apply keptParts.regs) | dsimp only | split | (intro))

theorem State.sweepLine_kept (s : State) (e : DirEntry) (h_s : s.Kept) : (State.sweepLine s e).Kept := by
  unfold State.sweepLine
  repeat' (first | with_reducible assumption | with_reducible apply State.ticket_kept | with_reducible apply State.dropEntry_kept | with_reducible apply State.pumpAsks_kept | (simp only [↓kept_mk]; first | with_reducible apply State.Kept.parts | with_reducible apply keptParts.mem | with_reducible apply keptParts.regs) | dsimp only | split | (intro))

theorem State.startSweep_kept (s : State) (base len : Nat) (who : Org) (h_s : s.Kept) : (State.startSweep s base len who).Kept := by
  unfold State.startSweep
  repeat' (first | with_reducible assumption | with_reducible apply State.sweepLine_kept | with_reducible apply forL_kept | (simp only [↓kept_mk]; first | with_reducible apply State.Kept.parts | with_reducible apply keptParts.mem | with_reducible apply keptParts.regs) | dsimp only | split | (intro))

theorem State.sweepAnswer_kept (s : State) (line : Nat) (h : Nat × Nat) (h_s : s.Kept) : (State.sweepAnswer s line h).Kept := by
  unfold State.sweepAnswer
  repeat' (first | with_reducible assumption | with_reducible apply State.pumpAsks_kept | (simp only [↓kept_mk]; first | with_reducible apply State.Kept.parts | with_reducible apply keptParts.mem | with_reducible apply keptParts.regs) | dsimp only | split | (intro))

theorem State.evictFor_kept (s0 : State) (line : Nat) (h_s0 : s0.Kept) : (State.evictFor s0 line).Kept := by
  unfold State.evictFor
  repeat' (first | with_reducible assumption | with_reducible apply State.freshen_kept | with_reducible apply State.evictLine_kept | with_reducible apply State.addWrap_kept | with_reducible apply forL_kept | (simp only [↓kept_mk]; first | with_reducible apply State.Kept.parts | with_reducible apply keptParts.mem | with_reducible apply keptParts.regs) | dsimp only | split | (intro))

theorem State.serveCoh_kept (s : State) (r : Req) (line typ : Nat) (h_s : s.Kept) : PairKept (State.serveCoh s r line typ) := by
  unfold State.serveCoh
  repeat' (first | with_reducible assumption | with_reducible apply State.setEntry_kept | with_reducible apply State.grant_kept | with_reducible apply State.evictFor_kept | with_reducible apply State.startAsk_kept | with_reducible apply PairKept.fst | with_reducible refine PairKept.elim (by with_reducible assumption) ?_ | (simp only [↓kept_mk]; first | with_reducible apply State.Kept.parts | with_reducible apply keptParts.mem | with_reducible apply keptParts.regs) | dsimp only | split | with_reducible apply PairKept.pair | (intro))

end Sys2Proof.Machine
end

