-- ==== Sys2Proof/Laws/KeptAccess.lean ====
section
/-! SUPPORT. The functions of Access keep the canonical form of the state. -/

set_option linter.unusedTactic false
set_option linter.unreachableTactic false
set_option simprocs false

namespace Sys2Proof.Machine

theorem State.rawWrites_kept (s : State) (a : Nat) (bs : List Byte) (poison : Bool) (h_s : s.Kept) : ResKept (State.rawWrites s a bs poison) := by
  unfold State.rawWrites
  repeat' (first | with_reducible assumption | with_reducible apply State.rawWrite_kept | with_reducible apply State.take_kept | with_reducible apply foldl_kept | with_reducible refine PairKept.elim (by with_reducible assumption) ?_ | with_reducible apply foldl_pairKept | with_reducible exact ResKept.error | with_reducible exact ResKept.fail | with_reducible apply ResKept.ok | with_reducible apply ResKept.bind | with_reducible apply ResKept.map | with_reducible apply ResKept.foldlM | with_reducible refine ResKept.elim (by with_reducible assumption) ?_ | (simp only [↓kept_mk]; first | with_reducible apply State.Kept.parts | with_reducible apply keptParts.mem | with_reducible apply keptParts.regs) | dsimp only | split | with_reducible apply PairKept.pair | (intro))

theorem State.homeWrite_kept (s : State) (b : By) (a : Nat) (bs : List Byte) (poison : Bool) (h_s : s.Kept) : ResKept (State.homeWrite s b a bs poison) := by
  unfold State.homeWrite
  repeat' (first | with_reducible assumption | with_reducible apply State.rawWrites_kept | with_reducible exact ResKept.error | with_reducible exact ResKept.fail | with_reducible apply ResKept.ok | with_reducible apply ResKept.bind | with_reducible apply ResKept.map | with_reducible apply ResKept.foldlM | with_reducible refine ResKept.elim (by with_reducible assumption) ?_ | (simp only [↓kept_mk]; first | with_reducible apply State.Kept.parts | with_reducible apply keptParts.mem | with_reducible apply keptParts.regs) | dsimp only | split | (intro))

theorem State.homeAtomic_kept (s : State) (b : By) (op typ a : Nat) (operand : List Byte) (h_s : s.Kept) : PairResKept (State.homeAtomic s b op typ a operand) := by
  unfold State.homeAtomic
  repeat' (first | with_reducible assumption | with_reducible apply State.obs_kept | with_reducible apply State.rawWrites_kept | with_reducible apply State.scriv_kept | with_reducible apply State.addWrap_kept | with_reducible refine PairKept.elim (by with_reducible assumption) ?_ | with_reducible exact ResKept.error | with_reducible exact ResKept.fail | with_reducible apply ResKept.ok | with_reducible apply ResKept.bind | with_reducible apply ResKept.map | with_reducible apply ResKept.foldlM | with_reducible refine ResKept.elim (by with_reducible assumption) ?_ | with_reducible exact PairResKept.error | with_reducible exact PairResKept.fail | with_reducible apply PairResKept.ok | with_reducible apply PairResKept.okPair | with_reducible apply PairResKept.bind | with_reducible apply PairResKept.map | with_reducible refine PairResKept.elim (by with_reducible assumption) ?_ | with_reducible refine PairResKept.elimFst (by with_reducible assumption) ?_ | (simp only [↓kept_mk]; first | with_reducible apply State.Kept.parts | with_reducible apply keptParts.mem | with_reducible apply keptParts.regs) | dsimp only | split | with_reducible apply PairKept.pair | (intro))

theorem State.startNeed_kept (s : State) (h_s : s.Kept) : ∀ y0, (State.startNeed s y0).Kept := by
  unfold State.startNeed
  repeat' (first | with_reducible assumption | with_reducible apply State.recallFor_kept | with_reducible apply State.startFill_kept | (simp only [↓kept_mk]; first | with_reducible apply State.Kept.parts | with_reducible apply keptParts.mem | with_reducible apply keptParts.regs) | dsimp only | split | (intro))

theorem State.startNeeds_kept (s : State) (ns : List Need) (h_s : s.Kept) : (State.startNeeds s ns).Kept := by
  unfold State.startNeeds
  repeat' (first | with_reducible assumption | with_reducible apply State.startNeed_kept | with_reducible apply forL_kept | (simp only [↓kept_mk]; first | with_reducible apply State.Kept.parts | with_reducible apply keptParts.mem | with_reducible apply keptParts.regs) | dsimp only | split | (intro))

theorem State.respond_kept (s : State) (p : QPkt) (typ tc aux : Nat) (payload : List Byte) (poison : Bool) (h_s : s.Kept) : (State.respond s p typ tc aux payload poison).Kept := by
  unfold State.respond
  repeat' (first | with_reducible assumption | with_reducible apply State.sendQf_kept | (simp only [↓kept_mk]; first | with_reducible apply State.Kept.parts | with_reducible apply keptParts.mem | with_reducible apply keptParts.regs) | dsimp only | split | (intro))

theorem State.respondErr_kept (s : State) (p : QPkt) (f : Fail) (h_s : s.Kept) : (State.respondErr s p f).Kept := by
  unfold State.respondErr
  repeat' (first | with_reducible assumption | with_reducible apply State.respond_kept | (simp only [↓kept_mk]; first | with_reducible apply State.Kept.parts | with_reducible apply keptParts.mem | with_reducible apply keptParts.regs) | dsimp only | split | (intro))

theorem State.klRespond_kept (s : State) (port : Nat) (p : KPkt) (typ : Nat) (f : Fail) (payload : List Byte) (poison : Bool) (h_s : s.Kept) : (State.klRespond s port p typ f payload poison).Kept := by
  unfold State.klRespond
  repeat' (first | with_reducible assumption | with_reducible apply State.sendKl_kept | (simp only [↓kept_mk]; first | with_reducible apply State.Kept.parts | with_reducible apply keptParts.mem | with_reducible apply keptParts.regs) | dsimp only | split | (intro))

theorem State.endDesc_kept (s0 : State) (k : DKey) (status kind detail progress : Nat) (h_s0 : s0.Kept) : (State.endDesc s0 k status kind detail progress).Kept := by
  unfold State.endDesc
  repeat' (first | with_reducible assumption | with_reducible apply State.incSat_kept | with_reducible apply State.gc_kept | with_reducible apply PairKept.fst | with_reducible refine PairKept.elim (by with_reducible assumption) ?_ | (simp only [↓kept_mk]; first | with_reducible apply State.Kept.parts | with_reducible apply keptParts.mem | with_reducible apply keptParts.regs) | dsimp only | split | with_reducible apply PairKept.pair | (intro))

theorem State.endStopped_kept (s : State) (h_s : s.Kept) : (State.endStopped s).Kept := by
  unfold State.endStopped
  repeat' (first | with_reducible assumption | with_reducible apply State.endDesc_kept | with_reducible apply forL_kept | (simp only [↓kept_mk]; first | with_reducible apply State.Kept.parts | with_reducible apply keptParts.mem | with_reducible apply keptParts.regs) | dsimp only | split | (intro))

theorem State.reapInvals_kept (s : State) (h_s : s.Kept) : (State.reapInvals s).Kept := by
  unfold State.reapInvals
  repeat' (first | with_reducible assumption | with_reducible apply State.endStopped_kept | with_reducible apply State.setFldAt_kept | with_reducible apply State.endDesc_kept | with_reducible apply State.setFld_kept | with_reducible apply State.addWrap_kept | with_reducible apply forL_kept | (simp only [↓kept_mk]; first | with_reducible apply State.Kept.parts | with_reducible apply keptParts.mem | with_reducible apply keptParts.regs) | dsimp only | split | (intro))

theorem State.setThread_kept (s : State) (t : Thread) (h_s : s.Kept) : (State.setThread s t).Kept := by
  unfold State.setThread
  repeat' (first | with_reducible assumption | (simp only [↓kept_mk]; first | with_reducible apply State.Kept.parts | with_reducible apply keptParts.mem | with_reducible apply keptParts.regs) | dsimp only | split | (intro))

theorem State.closeTxn_kept (s : State) (t : CTxn) (h_s : s.Kept) : (State.closeTxn s t).Kept := by
  unfold State.closeTxn
  repeat' (first | with_reducible assumption | with_reducible apply State.klRespond_kept | with_reducible apply State.reapInvals_kept | (simp only [↓kept_mk]; first | with_reducible apply State.Kept.parts | with_reducible apply keptParts.mem | with_reducible apply keptParts.regs) | dsimp only | split | (intro))

theorem State.noteFailed_kept (s : State) (port : Nat) (p : KPkt) (home : Option Nat) (f : Fail) (h_s : s.Kept) : (State.noteFailed s port p home f).Kept := by
  unfold State.noteFailed
  repeat' (first | with_reducible assumption | with_reducible apply State.setThread_kept | (simp only [↓kept_mk]; first | with_reducible apply State.Kept.parts | with_reducible apply keptParts.mem | with_reducible apply keptParts.regs) | dsimp only | split | (intro))

theorem State.partDone_kept (s : State) (id off home : Nat) (r : Except Fail (List Byte × Bool)) (h_s : s.Kept) : (State.partDone s id off home r).Kept := by
  unfold State.partDone
  repeat' (first | with_reducible assumption | with_reducible apply State.closeTxn_kept | with_reducible apply State.noteFailed_kept | (simp only [↓kept_mk]; first | with_reducible apply State.Kept.parts | with_reducible apply keptParts.mem | with_reducible apply keptParts.regs) | dsimp only | split | (intro))

theorem State.perform_kept (s : State) (x : Acc) (h_s : s.Kept) : PairResKept (State.perform s x) := by
  unfold State.perform
  repeat' (first | with_reducible assumption | with_reducible apply Eff.write_kept | with_reducible apply State.discardStore_kept | with_reducible apply State.zeroFill_kept | with_reducible apply State.homeAtomic_kept | with_reducible apply State.homeWrite_kept | with_reducible refine PairKept.elim (by with_reducible assumption) ?_ | with_reducible exact ResKept.error | with_reducible exact ResKept.fail | with_reducible apply ResKept.ok | with_reducible apply ResKept.bind | with_reducible apply ResKept.map | with_reducible apply ResKept.foldlM | with_reducible refine ResKept.elim (by with_reducible assumption) ?_ | with_reducible exact PairResKept.error | with_reducible exact PairResKept.fail | with_reducible apply PairResKept.ok | with_reducible apply PairResKept.okPair | with_reducible apply PairResKept.bind | with_reducible apply PairResKept.map | with_reducible refine PairResKept.elim (by with_reducible assumption) ?_ | with_reducible refine PairResKept.elimFst (by with_reducible assumption) ?_ | (simp only [↓kept_mk]; first | with_reducible apply State.Kept.parts | with_reducible apply keptParts.mem | with_reducible apply keptParts.regs) | dsimp only | split | with_reducible apply PairKept.pair | (intro))

theorem State.finish_kept (s : State) (x : Acc) (r : Except Fail (List Byte × Bool)) (h_s : s.Kept) : (State.finish s x r).Kept := by
  unfold State.finish
  repeat' (first | with_reducible assumption | with_reducible apply State.partDone_kept | with_reducible apply Eff.write_kept | with_reducible apply State.respond_kept | with_reducible apply State.answerErr_kept | with_reducible apply State.respondErr_kept | with_reducible apply State.answer_kept | (simp only [↓kept_mk]; first | with_reducible apply State.Kept.parts | with_reducible apply keptParts.mem | with_reducible apply keptParts.regs) | dsimp only | split | (intro))

theorem State.access_kept (s : State) (x : Acc) (h_s : s.Kept) : (State.access s x).Kept := by
  unfold State.access
  repeat' (first | with_reducible assumption | with_reducible apply State.startNeeds_kept | with_reducible apply State.perform_kept | with_reducible apply State.finish_kept | with_reducible refine PairKept.elim (by with_reducible assumption) ?_ | with_reducible exact PairResKept.error | with_reducible exact PairResKept.fail | with_reducible apply PairResKept.ok | with_reducible apply PairResKept.okPair | with_reducible apply PairResKept.bind | with_reducible apply PairResKept.map | with_reducible refine PairResKept.elim (by with_reducible assumption) ?_ | with_reducible refine PairResKept.elimFst (by with_reducible assumption) ?_ | (simp only [↓kept_mk]; first | with_reducible apply State.Kept.parts | with_reducible apply keptParts.mem | with_reducible apply keptParts.regs) | dsimp only | split | with_reducible apply PairKept.pair | (intro))

theorem State.retryWaiting_kept (s : State) (w : Waiting) (before after : List Waiting) (fill : Bool) (h_s : s.Kept) : (State.retryWaiting s w before after fill).Kept := by
  unfold State.retryWaiting
  repeat' (first | with_reducible assumption | with_reducible apply State.access_kept | with_reducible apply State.startNeeds_kept | with_reducible apply State.perform_kept | with_reducible apply State.finish_kept | with_reducible refine PairKept.elim (by with_reducible assumption) ?_ | with_reducible exact PairResKept.error | with_reducible exact PairResKept.fail | with_reducible apply PairResKept.ok | with_reducible apply PairResKept.okPair | with_reducible apply PairResKept.bind | with_reducible apply PairResKept.map | with_reducible refine PairResKept.elim (by with_reducible assumption) ?_ | with_reducible refine PairResKept.elimFst (by with_reducible assumption) ?_ | (simp only [↓kept_mk]; first | with_reducible apply State.Kept.parts | with_reducible apply keptParts.mem | with_reducible apply keptParts.regs) | dsimp only | split | with_reducible apply PairKept.pair | (intro))

theorem State.retryFills_kept (s : State) (h_s : s.Kept) : (State.retryFills s).Kept := by
  unfold State.retryFills
  repeat' (first | with_reducible assumption | with_reducible apply State.retryWaiting_kept | with_reducible apply State.take_kept | with_reducible apply foldl_kept | with_reducible apply PairKept.fst | with_reducible refine PairKept.elim (by with_reducible assumption) ?_ | with_reducible apply foldl_pairKept | (simp only [↓kept_mk]; first | with_reducible apply State.Kept.parts | with_reducible apply keptParts.mem | with_reducible apply keptParts.regs) | dsimp only | split | with_reducible apply PairKept.pair | (intro))

theorem State.failFills_kept (s : State) (id : Nat) (f : Fail) (h_s : s.Kept) : (State.failFills s id f).Kept := by
  unfold State.failFills
  repeat' (first | with_reducible assumption | with_reducible apply State.finish_kept | with_reducible apply forL_kept | (simp only [↓kept_mk]; first | with_reducible apply State.Kept.parts | with_reducible apply keptParts.mem | with_reducible apply keptParts.regs) | dsimp only | split | (intro))

end Sys2Proof.Machine
end

