-- ==== Sys2Proof/Laws/KeptXlate.lean ====
section
/-! SUPPORT. The functions of Xlate keep the canonical form of the state. -/

set_option linter.unusedTactic false
set_option linter.unreachableTactic false
set_option simprocs false

namespace Sys2Proof.Machine

theorem State.cacheEntry_kept (s : State) (unit slice va : Nat) (h : XlHold) (h_s : s.Kept) : (State.cacheEntry s unit slice va h).Kept := by
  unfold State.cacheEntry
  repeat' (first | with_reducible assumption | with_reducible apply State.hold_kept | (simp only [↓kept_mk]; first | with_reducible apply State.Kept.parts | with_reducible apply keptParts.mem | with_reducible apply keptParts.regs) | dsimp only | split | (intro))

theorem State.cacheWalk_kept (s : State) (unit slice va : Nat) (w : Walked) (h_s : s.Kept) : (State.cacheWalk s unit slice va w).Kept := by
  unfold State.cacheWalk
  repeat' (first | with_reducible assumption | with_reducible apply State.cacheEntry_kept | with_reducible apply forL_kept | (simp only [↓kept_mk]; first | with_reducible apply State.Kept.parts | with_reducible apply keptParts.mem | with_reducible apply keptParts.regs) | dsimp only | split | (intro))

theorem State.migRecord_kept (s : State) (slice page loc node flag host dev : Nat) (h_s : s.Kept) :
    (State.migRecord s slice page loc node flag host dev).Kept := by
  unfold State.migRecord
  extract_lets
  split
  · exact State.incSat_kept _ _ h_s
  · exact State.setFld_kept _ _ _ (State.recordWrite_kept _ _ _ h_s)

theorem State.countPage_kept (s : State) (slice page : Nat) (leaf : Leaf) (loc : Nat) (host : Bool) (h_s : s.Kept) :
    ∀ y0 y1, (State.countPage s slice page leaf loc host y0 y1).Kept := by
  intro fuel
  induction fuel generalizing s with
  | zero => intro n; exact h_s
  | succ fuel ih =>
    intro n
    unfold State.countPage
    split
    · exact h_s
    · extract_lets old present rest
      split
      rename_i x rest' s' heq
      have hs' : s'.Kept := by
        split at heq
        · cases heq
          exact State.incSat_kept _ _ h_s
        · cases heq
          exact h_s
      extract_lets lim have_ add now c
      split
      · refine ih _ ?_ _
        simp only [↓kept_mk]
        exact State.Kept.parts (State.migRecord_kept _ _ _ _ _ _ _ _ hs')
      · refine ih _ ?_ _
        simp only [↓kept_mk]
        exact hs'.parts

theorem State.notePage_kept (s : State) (unit slice va : Nat) (h_s : s.Kept) : (State.notePage s unit slice va).Kept := by
  unfold State.notePage
  repeat' (first | with_reducible assumption | with_reducible apply State.addSatAt_kept | with_reducible apply State.incSat_kept | with_reducible apply State.cacheEntry_kept | with_reducible apply State.cacheWalk_kept | with_reducible apply State.scriv_kept | with_reducible apply State.addWrap_kept | (simp only [↓kept_mk]; first | with_reducible apply State.Kept.parts | with_reducible apply keptParts.mem | with_reducible apply keptParts.regs) | dsimp only | split | (intro))

theorem State.countAccess_kept (s : State) (unit slice va n : Nat) (host : Bool) (h_s : s.Kept) : (State.countAccess s unit slice va n host).Kept := by
  unfold State.countAccess
  repeat' (first | with_reducible assumption | with_reducible apply State.countPage_kept | with_reducible apply forL_kept | (simp only [↓kept_mk]; first | with_reducible apply State.Kept.parts | with_reducible apply keptParts.mem | with_reducible apply keptParts.regs) | dsimp only | split | (intro))

---
theorem State.noteWalks_kept (s : State) (unit slice : Nat) (l : List (Nat × Nat)) (h_s : s.Kept) : (s.noteWalks unit slice l).Kept := by
  induction l generalizing s with
  | nil => exact h_s
  | cons p ps ih =>
    unfold State.noteWalks
    extract_lets t
    have ht : t.Kept := State.notePage_kept _ _ _ _ h_s
    split
    · exact ih _ ht
    · exact ht

theorem State.noteTry_kept (s : State) (unit slice va n : Nat) (h_s : s.Kept) : (State.noteTry s unit slice va n).Kept := by
  unfold State.noteTry
  repeat' (first | with_reducible assumption | with_reducible apply State.noteWalks_kept | (simp only [↓kept_mk]; first | with_reducible apply State.Kept.parts | with_reducible apply keptParts.mem | with_reducible apply keptParts.regs) | dsimp only | split | (intro))

theorem State.noteAccess_kept (s : State) (unit slice va n : Nat) (host : Bool) (h_s : s.Kept) : (State.noteAccess s unit slice va n host).Kept := by
  unfold State.noteAccess
  repeat' (first | with_reducible assumption | with_reducible apply State.noteWalks_kept | with_reducible apply State.countAccess_kept | (simp only [↓kept_mk]; first | with_reducible apply State.Kept.parts | with_reducible apply keptParts.mem | with_reducible apply keptParts.regs) | dsimp only | split | (intro))

theorem State.dropXlate_kept (s : State) (slice base len : Nat) (all : Bool) (h_s : s.Kept) : (State.dropXlate s slice base len all).Kept := by
  unfold State.dropXlate
  repeat' (first | with_reducible assumption | with_reducible apply State.hold_kept | (simp only [↓kept_mk]; first | with_reducible apply State.Kept.parts | with_reducible apply keptParts.mem | with_reducible apply keptParts.regs) | dsimp only | split | (intro))

end Sys2Proof.Machine
end

