-- ==== Sys2Proof/Laws/KeptRequests.lean ====
section
/-! SUPPORT. The functions of Requests keep the canonical form of the state. -/

set_option linter.unusedTactic false
set_option linter.unreachableTactic false
set_option simprocs false

namespace Sys2Proof.Machine

theorem State.issueReq_kept (s : State) (o : OutReq) (h_s : s.Kept) : (State.issueReq s o).Kept := by
  unfold State.issueReq
  repeat' (first | with_reducible assumption | with_reducible apply State.incSat_kept | with_reducible apply State.sendQf_kept | (simp only [↓kept_mk]; first | with_reducible apply State.Kept.parts | with_reducible apply keptParts.mem | with_reducible apply keptParts.regs) | dsimp only | split | (intro))

theorem State.pumpRsp_kept (s : State) (h_s : s.Kept) : (State.pumpRsp s).Kept := by
  unfold State.pumpRsp
  repeat' (first | with_reducible assumption | with_reducible apply State.issueReq_kept | with_reducible apply forL_kept | (simp only [↓kept_mk]; first | with_reducible apply State.Kept.parts | with_reducible apply keptParts.mem | with_reducible apply keptParts.regs) | dsimp only | split | (intro))

theorem State.pumpStale_kept (s : State) (h_s : s.Kept) : (State.pumpStale s).Kept := by
  unfold State.pumpStale
  repeat' (first | with_reducible assumption | with_reducible apply State.sendQf_kept | with_reducible apply forL_kept | (simp only [↓kept_mk]; first | with_reducible apply State.Kept.parts | with_reducible apply keptParts.mem | with_reducible apply keptParts.regs) | dsimp only | split | (intro))

theorem State.sendReq_kept (s : State) (p : QPkt) (who : Issuer) (pages : List (Nat × Nat)) (h_s : s.Kept) : (State.sendReq s p who pages).Kept := by
  unfold State.sendReq
  repeat' (first | with_reducible assumption | with_reducible apply State.issueReq_kept | (simp only [↓kept_mk]; first | with_reducible apply State.Kept.parts | with_reducible apply keptParts.mem | with_reducible apply keptParts.regs) | dsimp only | split | (intro))

theorem State.askHome_kept (s : State) (d : Desc) (node : Nat) (rref : Option (Nat × Nat × Nat)) (a n : Nat) (pages : List (Nat × Nat)) (h_s : s.Kept) : (State.askHome s d node rref a n pages).Kept := by
  unfold State.askHome
  repeat' (first | with_reducible assumption | with_reducible apply State.sendReq_kept | (simp only [↓kept_mk]; first | with_reducible apply State.Kept.parts | with_reducible apply keptParts.mem | with_reducible apply keptParts.regs) | dsimp only | split | (intro))

theorem State.queueEngine_kept (s : State) (d : Desc) (line : Nat) (own : Bool) (h_s : s.Kept) : (State.queueEngine s d line own).Kept := by
  unfold State.queueEngine
  repeat' (first | with_reducible assumption | with_reducible apply Eff.write_kept | with_reducible apply State.startNeed_kept | (simp only [↓kept_mk]; first | with_reducible apply State.Kept.parts | with_reducible apply keptParts.mem | with_reducible apply keptParts.regs) | dsimp only | split | (intro))

theorem State.putHalf_kept (s : State) (d : Desc) (unit va node addr : Nat) (bytes : List Byte) (pages : List (Nat × Nat)) (h_s : s.Kept) : (State.putHalf s d unit va node addr bytes pages).Kept := by
  unfold State.putHalf
  repeat' (first | with_reducible assumption | with_reducible apply State.endDesc_kept | with_reducible apply State.sendReq_kept | (simp only [↓kept_mk]; first | with_reducible apply State.Kept.parts | with_reducible apply keptParts.mem | with_reducible apply keptParts.regs) | dsimp only | split | (intro))

theorem State.descNeed_kept (s : State) (d : Desc) (h_s : s.Kept) : ∀ y0, (State.descNeed s d y0).Kept := by
  unfold State.descNeed
  repeat' (first | with_reducible assumption | with_reducible apply State.putHalf_kept | with_reducible apply State.queueEngine_kept | with_reducible apply State.askHome_kept | with_reducible apply State.startNeed_kept | (simp only [↓kept_mk]; first | with_reducible apply State.Kept.parts | with_reducible apply keptParts.mem | with_reducible apply keptParts.regs) | dsimp only | split | (intro))

/-- The state in an effect is kept. -/
def EffKept (e : Eff) : Prop := e.s.Kept

/-- The state at the end of an operation is kept. -/
def DoneKept (o : Done) : Prop := o.eff.s.Kept

theorem effKept_mk {s : State} {out : List RWrite} : EffKept ⟨s, out⟩ ↔ s.Kept := Iff.intro id id

theorem doneKept_mk {e : Eff} {a b c d : Nat} {m : Option (List Need)} {l : List Touch} : DoneKept ⟨e, a, b, c, d, m, l⟩ ↔ EffKept e :=
  Iff.intro id id

theorem EffKept.state {e : Eff} (h : EffKept e) : e.s.Kept := h

theorem Eff.writeHere_kept (e : Eff) (d : Desc) (unit va : Nat) (bs : List Byte) (p : Piece) (h : EffKept e) :
    AllOk EffKept (e.writeHere d unit va bs p) := by
  unfold Eff.writeHere
  refine AllOk.map (fun u hu => ?_)
  exact AllOk.elim (p := State.Kept) hu (AllOk.holding (AllOk.rename (State.homeWrite_kept _ _ _ _ _ h).allOk))

theorem Eff.write_kept (e : Eff) (d : Desc) (unit va : Nat) (bs : List Byte) (step : Nat) (h : EffKept e) :
    AllOk EffKept (e.write d unit va bs step) := by
  unfold Eff.write
  refine AllOk.bind (fun ps _ => AllOk.bind (fun _ _ => ?_))
  extract_lets here far
  refine AllOk.bindAll (AllOk.foldlM _ _ _ h (fun t p ht => Eff.writeHere_kept _ _ _ _ _ _ ht)) (fun t ht => ?_)
  split
  · split
    · exact AllOk.error
    · split
      · exact AllOk.error
      · exact AllOk.ok ht
  · exact AllOk.ok ht

theorem Eff.writeIn_kept (e : Eff) (d : Desc) (unit base total va : Nat) (bs : List Byte) (step : Nat) (h : EffKept e) :
    AllOk EffKept (e.writeIn d unit base total va bs step) := by
  unfold Eff.writeIn
  exact AllOk.bind (fun _ _ => Eff.write_kept _ _ _ _ _ _ h)

/-- The effect of a run of units is kept. -/
def RunKept (x : Eff × Nat × Option Fail) : Prop := EffKept x.1

theorem runUnits_kept (step : Nat → Eff → Res Eff) (hs : ∀ k e, EffKept e → AllOk EffKept (step k e)) :
    ∀ n k e, EffKept e → AllOk RunKept (runUnits step n k e) := by
  intro n
  induction n with
  | zero => intro k e h; exact AllOk.ok h
  | succ n ih =>
    intro k e h
    unfold runUnits
    split
    · rename_i e1 he
      exact ih _ _ (AllOk.elim he (hs k e h))
    · exact AllOk.ok h
    · exact AllOk.error

theorem unitsDone_kept (touch : Nat → List Touch) (r : Res (Eff × Nat × Option Fail)) (h : AllOk RunKept r) :
    AllOk DoneKept (unitsDone touch r) := by
  unfold unitsDone
  refine AllOk.map (fun x hx => ?_)
  have := AllOk.elim hx h
  obtain ⟨e, k, f⟩ := x
  cases f <;> exact this



theorem State.sendWrites_kept (s : State) (d : Desc) (ws : List RWrite) (h_s : s.Kept) : PairKept (State.sendWrites s d ws) := by
  unfold State.sendWrites
  repeat' (first | with_reducible assumption | with_reducible apply State.sendReq_kept | with_reducible apply foldl_kept | with_reducible apply PairKept.fst | with_reducible refine PairKept.elim (by with_reducible assumption) ?_ | with_reducible apply foldl_pairKept | (simp only [↓kept_mk]; first | with_reducible apply State.Kept.parts | with_reducible apply keptParts.mem | with_reducible apply keptParts.regs) | dsimp only | split | with_reducible apply PairKept.pair | (intro))



theorem State.noteZeros_kept (s : State) (slice : Nat) (x : Touch) (h_s : s.Kept) : (State.noteZeros s slice x).Kept := by
  unfold State.noteZeros
  repeat' (first | with_reducible assumption | with_reducible apply State.zeroFill_kept | with_reducible apply forL_kept | (simp only [↓kept_mk]; first | with_reducible apply State.Kept.parts | with_reducible apply keptParts.mem | with_reducible apply keptParts.regs) | dsimp only | split | (intro))

theorem State.noteTouches_kept (s : State) (slice : Nat) (ts : List Touch) (h_s : s.Kept) : (State.noteTouches s slice ts).Kept := by
  unfold State.noteTouches
  repeat' (first | with_reducible assumption | with_reducible apply State.noteAccess_kept | with_reducible apply State.noteZeros_kept | with_reducible apply forL_kept | (simp only [↓kept_mk]; first | with_reducible apply State.Kept.parts | with_reducible apply keptParts.mem | with_reducible apply keptParts.regs) | dsimp only | split | (intro))

theorem State.noteTried_kept (s : State) (slice : Nat) (at_ : Option Nat) (l : List Touch) (h_s : s.Kept) : (s.noteTried slice at_ l).Kept := by
  induction l generalizing s with
  | nil => exact h_s
  | cons t ts ih =>
    unfold State.noteTried
    split
    · exact ite_kept (State.noteTouches_kept _ _ _ h_s) (ih _ (State.noteTouches_kept _ _ _ h_s))
    · split
      · exact h_s
      · exact State.noteWalks_kept _ _ _ _ h_s

theorem runFrom_kept (step : Nat → Eff → Res Eff) (touch : Nat → List Touch) (slice : Nat) (strict : Bool)
    (hs : ∀ k e, EffKept e → AllOk EffKept (step k e)) : ∀ n k e, EffKept e → DoneKept (runFrom step touch slice strict n k e) := by
  intro n
  induction n with
  | zero => intro k e h; exact h
  | succ n ih =>
    intro k e h
    unfold runFrom
    split
    · exact h
    · split
      · rename_i e1 he
        exact ih _ _ (State.noteTouches_kept _ _ _ (AllOk.elim (p := EffKept) he (hs k e h)))
      · exact h
      · exact h


theorem State.awaits_kept (s : State) (d : Desc) (ns : List Need) (ts : List Touch) (keep : Bool) (h_s : s.Kept) : (State.awaits s d ns ts keep).Kept := by
  unfold State.awaits
  repeat' (first | with_reducible assumption | with_reducible apply State.keep_kept | with_reducible apply State.descNeed_kept | with_reducible apply forL_kept | (simp only [↓kept_mk]; first | with_reducible apply State.Kept.parts | with_reducible apply keptParts.mem | with_reducible apply keptParts.regs) | dsimp only | split | (intro))

theorem State.reissued_kept (s : State) (k : DKey) (h_s : s.Kept) : (State.reissued s k).Kept := by
  unfold State.reissued
  repeat' (first | with_reducible assumption | (simp only [↓kept_mk]; first | with_reducible apply State.Kept.parts | with_reducible apply keptParts.mem | with_reducible apply keptParts.regs) | dsimp only | split | (intro))

theorem State.attempt_kept (s : State) (d : Desc) (ts : List Touch) (r : Res Done) (h_s : s.Kept) (hr : AllOk DoneKept r) :
    (State.attempt s d ts r).Kept := by
  unfold State.attempt
  split
  · exact State.awaits_kept _ _ _ _ _ (State.reissued_kept _ _ h_s)
  · exact State.endDesc_kept _ _ _ _ _ _ (State.noteTried_kept _ _ _ _ (State.reissued_kept _ _ h_s))
  · rename_i o
    have hd : DoneKept o := AllOk.elim rfl hr
    have ho : o.eff.s.Kept := hd
    have h0 := State.noteTouches_kept _ d.key.slice ts (State.reissued_kept _ d.key ho)
    extract_lets t0
    have h1 := State.sendWrites_kept _ d o.eff.out (ite_kept (c := o.more.isSome = true) h0
      (State.noteTried_kept _ d.key.slice (if o.kind = 2 then some o.detail else none) (touchBlocks o.tried) h0))
    split
    rename_i s1 bad heq
    have h2 : s1.Kept := PairKept.elim heq h1
    split
    · split
      · exact State.endDesc_kept _ _ _ _ _ _ h2
      · exact State.endDesc_kept _ _ _ _ _ _ h2
    · refine State.awaits_kept _ _ _ _ _ ?_
      simp only [↓kept_mk]
      exact h2.parts
    · exact State.endDesc_kept _ _ _ _ _ _ h2

theorem State.inTurn_kept (s : State) (k : DKey) (f : State → State) (h_s : s.Kept) (h_f : ∀ x0, x0.Kept → (f x0).Kept) : (State.inTurn s k f).Kept := by
  unfold State.inTurn
  repeat' (first | with_reducible assumption | with_reducible apply h_f | (simp only [↓kept_mk]; first | with_reducible apply State.Kept.parts | with_reducible apply keptParts.mem | with_reducible apply keptParts.regs) | dsimp only | split | (intro))

theorem State.lending_kept (s : State) (d : Desc) (f : State → State) (h_s : s.Kept) (h_f : ∀ x0, x0.Kept → (f x0).Kept) : (State.lending s d f).Kept := by
  unfold State.lending
  repeat' (first | with_reducible assumption | with_reducible apply foldl_kept | with_reducible refine PairKept.elim (by with_reducible assumption) ?_ | with_reducible apply foldl_pairKept | with_reducible apply h_f | (simp only [↓kept_mk]; first | with_reducible apply State.Kept.parts | with_reducible apply keptParts.mem | with_reducible apply keptParts.regs) | dsimp only | split | with_reducible apply PairKept.pair | (intro))

theorem State.onRunning_kept (s : State) (k : DKey) (op : Nat) (f : State → Desc → State) (h_s : s.Kept) (h_f : ∀ x0 x1, x0.Kept → (f x0 x1).Kept) : (State.onRunning s k op f).Kept := by
  unfold State.onRunning
  repeat' (first | with_reducible assumption | with_reducible apply State.lending_kept | with_reducible apply State.inTurn_kept | with_reducible apply h_f | (simp only [↓kept_mk]; first | with_reducible apply State.Kept.parts | with_reducible apply keptParts.mem | with_reducible apply keptParts.regs) | dsimp only | split | (intro))

end Sys2Proof.Machine
end

