-- ==== Sys2Proof/Laws/KeptRings.lean ====
section
/-! SUPPORT. The functions of Rings keep the canonical form of the state. -/

set_option linter.unusedTactic false
set_option linter.unreachableTactic false
set_option simprocs false

namespace Sys2Proof.Machine

theorem State.feWrite_kept (s : State) (a : Nat) (bs : List Byte) (h_s : s.Kept) : ResKept (State.feWrite s a bs) := by
  unfold State.feWrite
  repeat' (first | with_reducible assumption | with_reducible apply State.rawWrites_kept | with_reducible exact ResKept.error | with_reducible exact ResKept.fail | with_reducible apply ResKept.ok | with_reducible apply ResKept.bind | with_reducible apply ResKept.map | with_reducible apply ResKept.foldlM | with_reducible refine ResKept.elim (by with_reducible assumption) ?_ | (simp only [↓kept_mk]; first | with_reducible apply State.Kept.parts | with_reducible apply keptParts.mem | with_reducible apply keptParts.regs) | dsimp only | split | (intro))

theorem State.ringSend_kept (s : State) (r : Ring) (addr : Nat) (bs : List Byte) (h_s : s.Kept) (t : State)
    (h : s.ringSend r addr bs = .sent t) : t.Kept := by
  unfold State.ringSend at h
  split at h
  · split at h
    · cases h
      exact ResKept.elim (by assumption) (State.feWrite_kept _ _ _ h_s)
    · cases h
    · cases h
  · split at h
    · cases h
      simp only [↓kept_mk]
      exact State.Kept.parts (State.sendKl_kept _ _ _ h_s)
    · cases h
  · split at h
    · cases h
    · cases h
      exact State.sendReq_kept _ _ _ _ h_s

theorem State.statusSent_kept (s : State) (slice num : Nat) (h_s : s.Kept) : (State.statusSent s slice num).Kept := by
  unfold State.statusSent
  repeat' (first | with_reducible assumption | with_reducible apply State.setRing_kept | (simp only [↓kept_mk]; first | with_reducible apply State.Kept.parts | with_reducible apply keptParts.mem | with_reducible apply keptParts.regs) | dsimp only | split | (intro))

theorem State.faultRing_kept (s : State) (slice num : Nat) (h_s : s.Kept) : (State.faultRing s slice num).Kept := by
  unfold State.faultRing
  split
  · exact h_s
  · split
    · exact h_s
    · extract_lets r1 e s1
      have h1 : s1.Kept := State.raise_kept _ _ (State.incSat_kept _ _ (State.setRing_kept _ _ h_s))
      split
      · exact State.statusSent_kept _ _ _ (State.ringSend_kept _ _ _ _ h1 _ (by assumption))
      · exact h1
      · exact h1

theorem State.ringWrite_kept (s : State) (r : Ring) (addr : Nat) (bs : List Byte) (h_s : s.Kept) : OptKept (State.ringWrite s r addr bs) := by
  unfold State.ringWrite
  split
  · exact OptKept.some (State.ringSend_kept _ _ _ _ h_s _ (by assumption))
  · exact OptKept.none
  · exact OptKept.some (State.faultRing_kept _ _ _ h_s)

theorem State.ringRecall_kept (s : State) (r : Ring) (addr n : Nat) (h_s : s.Kept) : (State.ringRecall s r addr n).Kept := by
  unfold State.ringRecall
  repeat' (first | with_reducible assumption | with_reducible apply State.recallFor_kept | with_reducible apply forL_kept | (simp only [↓kept_mk]; first | with_reducible apply State.Kept.parts | with_reducible apply keptParts.mem | with_reducible apply keptParts.regs) | dsimp only | split | (intro))

theorem State.writeStatus_kept (s : State) (slice num : Nat) (h_s : s.Kept) : (State.writeStatus s slice num).Kept := by
  unfold State.writeStatus
  repeat' (first | with_reducible assumption | with_reducible apply State.statusSent_kept | with_reducible apply State.setRing_kept | with_reducible apply State.ringRecall_kept | with_reducible apply State.ringWrite_kept | with_reducible exact OptKept.none | with_reducible apply OptKept.some | with_reducible apply OptKept.map | with_reducible apply OptKept.bind | with_reducible apply OptKept.findSome | with_reducible apply OptKept.getD | with_reducible refine OptKept.elim (by with_reducible assumption) ?_ | (simp only [↓kept_mk]; first | with_reducible apply State.Kept.parts | with_reducible apply keptParts.mem | with_reducible apply keptParts.regs) | dsimp only | split | (intro))

theorem State.ringState_kept (s : State) (slice num : Nat) (st : RingSt) (h_s : s.Kept) : (State.ringState s slice num st).Kept := by
  unfold State.ringState
  repeat' (first | with_reducible assumption | with_reducible apply State.writeStatus_kept | with_reducible apply State.setRing_kept | (simp only [↓kept_mk]; first | with_reducible apply State.Kept.parts | with_reducible apply keptParts.mem | with_reducible apply keptParts.regs) | dsimp only | split | (intro))

theorem State.touchRing_kept (s : State) (slice num : Nat) (f : Ring → Ring) (h_s : s.Kept) : (State.touchRing s slice num f).Kept := by
  unfold State.touchRing
  repeat' (first | with_reducible assumption | with_reducible apply State.setRing_kept | (simp only [↓kept_mk]; first | with_reducible apply State.Kept.parts | with_reducible apply keptParts.mem | with_reducible apply keptParts.regs) | dsimp only | split | (intro))

theorem State.stopDesc_kept (s : State) (d : Desc) (f : Fail) (h_s : s.Kept) : (State.stopDesc s d f).Kept := by
  unfold State.stopDesc
  repeat' (first | with_reducible assumption | with_reducible apply State.endDesc_kept | (simp only [↓kept_mk]; first | with_reducible apply State.Kept.parts | with_reducible apply keptParts.mem | with_reducible apply keptParts.regs) | dsimp only | split | (intro))

theorem State.cmdStatus_kept (s : State) (status field : Nat) (h_s : s.Kept) : (State.cmdStatus s status field).Kept := by
  unfold State.cmdStatus
  repeat' (first | with_reducible assumption | with_reducible apply State.setFld_kept | (simp only [↓kept_mk]; first | with_reducible apply State.Kept.parts | with_reducible apply keptParts.mem | with_reducible apply keptParts.regs) | dsimp only | split | (intro))

theorem State.ringRequest_kept (s : State) (cmd addr : Nat) (h_s : s.Kept) : ErrKept (State.ringRequest s cmd addr) := by
  unfold State.ringRequest
  repeat' (first | with_reducible assumption | with_reducible apply State.incSat_kept | with_reducible apply State.startNeeds_kept | with_reducible apply State.setFld_kept | with_reducible apply State.cmdStatus_kept | with_reducible exact ErrKept.ok | with_reducible apply ErrKept.error | with_reducible refine ErrKept.elim (by with_reducible assumption) ?_ | (simp only [↓kept_mk]; first | with_reducible apply State.Kept.parts | with_reducible apply keptParts.mem | with_reducible apply keptParts.regs) | dsimp only | split | (intro))

theorem State.ringCreate_kept (s : State) (addr : Nat) (h_s : s.Kept) : (State.ringCreate s addr).Kept := by
  unfold State.ringCreate
  repeat' (first | with_reducible assumption | with_reducible apply State.ringRequest_kept | with_reducible apply State.writeStatus_kept | with_reducible apply State.setFld_kept | with_reducible apply State.cmdStatus_kept | with_reducible exact ErrKept.ok | with_reducible apply ErrKept.error | with_reducible refine ErrKept.elim (by with_reducible assumption) ?_ | (simp only [↓kept_mk]; first | with_reducible apply State.Kept.parts | with_reducible apply keptParts.mem | with_reducible apply keptParts.regs) | dsimp only | split | (intro))

theorem State.destroyDone_kept (s : State) (slice num : Nat) (h_s : s.Kept) : (State.destroyDone s slice num).Kept := by
  unfold State.destroyDone
  repeat' (first | with_reducible assumption | with_reducible apply State.setFld_kept | with_reducible apply State.cmdStatus_kept | (simp only [↓kept_mk]; first | with_reducible apply State.Kept.parts | with_reducible apply keptParts.mem | with_reducible apply keptParts.regs) | dsimp only | split | (intro))

theorem State.ringDestroy_kept (s : State) (addr mode : Nat) (h_s : s.Kept) : (State.ringDestroy s addr mode).Kept := by
  unfold State.ringDestroy
  repeat' (first | with_reducible assumption | with_reducible apply State.ringState_kept | with_reducible apply State.ringRequest_kept | with_reducible apply State.stopDesc_kept | with_reducible apply State.setFld_kept | with_reducible apply State.destroyDone_kept | with_reducible apply State.setRing_kept | with_reducible apply State.cmdStatus_kept | with_reducible apply forL_kept | with_reducible exact ErrKept.ok | with_reducible apply ErrKept.error | with_reducible refine ErrKept.elim (by with_reducible assumption) ?_ | (simp only [↓kept_mk]; first | with_reducible apply State.Kept.parts | with_reducible apply keptParts.mem | with_reducible apply keptParts.regs) | dsimp only | split | (intro))

theorem State.dbNowhere_kept (s : State) (h_s : s.Kept) : (State.dbNowhere s).Kept := by
  unfold State.dbNowhere
  repeat' (first | with_reducible assumption | with_reducible apply State.incSat_kept | (simp only [↓kept_mk]; first | with_reducible apply State.Kept.parts | with_reducible apply keptParts.mem | with_reducible apply keptParts.regs) | dsimp only | split | (intro))

theorem State.dbReject_kept (s : State) (r : Ring) (w : Word) (h_s : s.Kept) : (State.dbReject s r w).Kept := by
  unfold State.dbReject
  repeat' (first | with_reducible assumption | with_reducible apply State.incSat_kept | with_reducible apply State.raise_kept | with_reducible apply State.touchRing_kept | (simp only [↓kept_mk]; first | with_reducible apply State.Kept.parts | with_reducible apply keptParts.mem | with_reducible apply keptParts.regs) | dsimp only | split | (intro))

theorem State.dropAhead_kept (s : State) (slice num : Nat) (h_s : s.Kept) : (State.dropAhead s slice num).Kept := by
  unfold State.dropAhead
  repeat' (first | with_reducible assumption | (simp only [↓kept_mk]; first | with_reducible apply State.Kept.parts | with_reducible apply keptParts.mem | with_reducible apply keptParts.regs) | dsimp only | split | (intro))

theorem State.sqDoorbell_kept (s : State) (slice num : Nat) (w : Word) (h_s : s.Kept) : (State.sqDoorbell s slice num w).Kept := by
  unfold State.sqDoorbell
  repeat' (first | with_reducible assumption | with_reducible apply State.dropAhead_kept | with_reducible apply State.ringState_kept | with_reducible apply State.dbNowhere_kept | with_reducible apply State.dbReject_kept | with_reducible apply State.touchRing_kept | (simp only [↓kept_mk]; first | with_reducible apply State.Kept.parts | with_reducible apply keptParts.mem | with_reducible apply keptParts.regs) | dsimp only | split | (intro))

theorem State.cqDoorbell_kept (s : State) (slice num : Nat) (w : Word) (h_s : s.Kept) : (State.cqDoorbell s slice num w).Kept := by
  unfold State.cqDoorbell
  repeat' (first | with_reducible assumption | with_reducible apply State.dbNowhere_kept | with_reducible apply State.dbReject_kept | with_reducible apply State.touchRing_kept | (simp only [↓kept_mk]; first | with_reducible apply State.Kept.parts | with_reducible apply keptParts.mem | with_reducible apply keptParts.regs) | dsimp only | split | (intro))

theorem State.ringInterrupt_kept (s : State) (slice num : Nat) (h_s : s.Kept) : (State.ringInterrupt s slice num).Kept := by
  unfold State.ringInterrupt
  repeat' (first | with_reducible assumption | with_reducible apply State.message_kept | with_reducible apply State.setRing_kept | (simp only [↓kept_mk]; first | with_reducible apply State.Kept.parts | with_reducible apply keptParts.mem | with_reducible apply keptParts.regs) | dsimp only | split | (intro))

theorem State.reapRegions_kept (s : State) (h_s : s.Kept) : (State.reapRegions s).Kept := by
  unfold State.reapRegions
  repeat' (first | with_reducible assumption | (simp only [↓kept_mk]; first | with_reducible apply State.Kept.parts | with_reducible apply keptParts.mem | with_reducible apply keptParts.regs) | dsimp only | split | (intro))

theorem State.sayOver_kept (s : State) (d : Desc) (h_s : s.Kept) : (State.sayOver s d).Kept := by
  unfold State.sayOver
  repeat' (first | with_reducible assumption | with_reducible apply State.sendReq_kept | with_reducible apply forL_kept | (simp only [↓kept_mk]; first | with_reducible apply State.Kept.parts | with_reducible apply keptParts.mem | with_reducible apply keptParts.regs) | dsimp only | split | (intro))

theorem State.forget_kept (s : State) (k : DKey) (h_s : s.Kept) : (State.forget s k).Kept := by
  unfold State.forget
  repeat' (first | with_reducible assumption | with_reducible apply State.reapRegions_kept | with_reducible apply State.gc_kept | with_reducible apply PairKept.fst | with_reducible refine PairKept.elim (by with_reducible assumption) ?_ | (simp only [↓kept_mk]; first | with_reducible apply State.Kept.parts | with_reducible apply keptParts.mem | with_reducible apply keptParts.regs) | dsimp only | split | with_reducible apply PairKept.pair | (intro))

theorem State.afterRecord_kept (s : State) (r0 : Ring) (d : Desc) (h_s : s.Kept) : (State.afterRecord s r0 d).Kept := by
  unfold State.afterRecord
  repeat' (first | with_reducible assumption | with_reducible apply State.ringState_kept | with_reducible apply State.obs_kept | with_reducible apply State.ringInterrupt_kept | with_reducible apply State.setRing_kept | with_reducible apply State.scriv_kept | (simp only [↓kept_mk]; first | with_reducible apply State.Kept.parts | with_reducible apply keptParts.mem | with_reducible apply keptParts.regs) | dsimp only | split | (intro))

theorem State.abortRingDone_kept (s : State) (slice num : Nat) (h_s : s.Kept) : (State.abortRingDone s slice num).Kept := by
  unfold State.abortRingDone
  repeat' (first | with_reducible assumption | with_reducible apply State.destroyDone_kept | (simp only [↓kept_mk]; first | with_reducible apply State.Kept.parts | with_reducible apply keptParts.mem | with_reducible apply keptParts.regs) | dsimp only | split | (intro))

theorem State.ringAnswered_kept (s : State) (slice num : Nat) (h_s : s.Kept) : (State.ringAnswered s slice num).Kept := by
  unfold State.ringAnswered
  repeat' (first | with_reducible assumption | with_reducible apply State.abortRingDone_kept | with_reducible apply State.ringInterrupt_kept | (simp only [↓kept_mk]; first | with_reducible apply State.Kept.parts | with_reducible apply keptParts.mem | with_reducible apply keptParts.regs) | dsimp only | split | (intro))

theorem State.reapStop_kept (s : State) (slice : Nat) (h_s : s.Kept) : (State.reapStop s slice).Kept := by
  unfold State.reapStop
  repeat' (first | with_reducible assumption | with_reducible apply State.setFldAt_kept | with_reducible apply State.raise_kept | (simp only [↓kept_mk]; first | with_reducible apply State.Kept.parts | with_reducible apply keptParts.mem | with_reducible apply keptParts.regs) | dsimp only | split | (intro))

theorem State.countDone_kept (s : State) (d : Desc) (h_s : s.Kept) : (State.countDone s d).Kept := by
  unfold State.countDone
  repeat' (first | with_reducible assumption | with_reducible apply State.addWrap_kept | (simp only [↓kept_mk]; first | with_reducible apply State.Kept.parts | with_reducible apply keptParts.mem | with_reducible apply keptParts.regs) | dsimp only | split | (intro))

theorem State.complete_kept (s : State) (k : DKey) (h_s : s.Kept) : (State.complete s k).Kept := by
  unfold State.complete
  repeat' (first | with_reducible assumption | with_reducible apply State.reapStop_kept | with_reducible apply State.abortRingDone_kept | with_reducible apply State.afterRecord_kept | with_reducible apply State.sayOver_kept | with_reducible apply State.countDone_kept | with_reducible apply State.ringRecall_kept | with_reducible apply State.ringWrite_kept | with_reducible apply State.forget_kept | with_reducible apply State.touchRing_kept | with_reducible exact OptKept.none | with_reducible apply OptKept.some | with_reducible apply OptKept.map | with_reducible apply OptKept.bind | with_reducible apply OptKept.findSome | with_reducible apply OptKept.getD | with_reducible refine OptKept.elim (by with_reducible assumption) ?_ | (simp only [↓kept_mk]; first | with_reducible apply State.Kept.parts | with_reducible apply keptParts.mem | with_reducible apply keptParts.regs) | dsimp only | split | (intro))

theorem State.retryRingCmd_kept (s : State) (h_s : s.Kept) : (State.retryRingCmd s).Kept := by
  unfold State.retryRingCmd
  repeat' (first | with_reducible assumption | with_reducible apply State.ringCreate_kept | with_reducible apply State.setFld_kept | with_reducible apply State.ringDestroy_kept | (simp only [↓kept_mk]; first | with_reducible apply State.Kept.parts | with_reducible apply keptParts.mem | with_reducible apply keptParts.regs) | dsimp only | split | (intro))

end Sys2Proof.Machine
end

