-- ==== Sys2Proof/Laws/KeptRegions.lean ====
section
/-! SUPPORT. The functions of Regions keep the canonical form of the state. -/

set_option linter.unusedTactic false
set_option linter.unreachableTactic false
set_option simprocs false

namespace Sys2Proof.Machine

theorem State.setRegion_kept (s : State) (r : Region) (h_s : s.Kept) : (State.setRegion s r).Kept := by
  unfold State.setRegion
  repeat' (first | with_reducible assumption | (simp only [↓kept_mk]; first | with_reducible apply State.Kept.parts | with_reducible apply keptParts.mem | with_reducible apply keptParts.regs) | dsimp only | split | (intro))

theorem State.countLive_kept (s : State) (h_s : s.Kept) : (State.countLive s).Kept := by
  unfold State.countLive
  repeat' (first | with_reducible assumption | with_reducible apply State.setFld_kept | (simp only [↓kept_mk]; first | with_reducible apply State.Kept.parts | with_reducible apply keptParts.mem | with_reducible apply keptParts.regs) | dsimp only | split | (intro))

theorem State.reapSweeps_kept (s : State) (h_s : s.Kept) : (State.reapSweeps s).Kept := by
  unfold State.reapSweeps
  repeat' (first | with_reducible assumption | (simp only [↓kept_mk]; first | with_reducible apply State.Kept.parts | with_reducible apply keptParts.mem | with_reducible apply keptParts.regs) | dsimp only | split | (intro))

theorem State.finishHome_kept (s : State) (k : DKey) (h_s : s.Kept) : (State.finishHome s k).Kept := by
  unfold State.finishHome
  repeat' (first | with_reducible assumption | with_reducible apply State.respond_kept | with_reducible apply State.forget_kept | (simp only [↓kept_mk]; first | with_reducible apply State.Kept.parts | with_reducible apply keptParts.mem | with_reducible apply keptParts.regs) | dsimp only | split | (intro))

theorem State.finishHomes_kept (s : State) (h_s : s.Kept) : (State.finishHomes s).Kept := by
  unfold State.finishHomes
  repeat' (first | with_reducible assumption | with_reducible apply State.finishHome_kept | with_reducible apply forL_kept | (simp only [↓kept_mk]; first | with_reducible apply State.Kept.parts | with_reducible apply keptParts.mem | with_reducible apply keptParts.regs) | dsimp only | split | (intro))

theorem State.endHome_kept (s : State) (d : Desc) (f : Fail) (progress : Nat) (started : Bool) (h_s : s.Kept) : (State.endHome s d f progress started).Kept := by
  unfold State.endHome
  repeat' (first | with_reducible assumption | with_reducible apply State.endDesc_kept | with_reducible apply State.finishHome_kept | (simp only [↓kept_mk]; first | with_reducible apply State.Kept.parts | with_reducible apply keptParts.mem | with_reducible apply keptParts.regs) | dsimp only | split | (intro))

theorem State.okHome_kept (s : State) (d : Desc) (detail progress : Nat) (h_s : s.Kept) : (State.okHome s d detail progress).Kept := by
  unfold State.okHome
  repeat' (first | with_reducible assumption | with_reducible apply State.endHome_kept | (simp only [↓kept_mk]; first | with_reducible apply State.Kept.parts | with_reducible apply keptParts.mem | with_reducible apply keptParts.regs) | dsimp only | split | (intro))

theorem State.homeRun_kept (s : State) (k : DKey) (op : Nat) (mode : Desc → Bool) (run : State → Desc → State) (h_s : s.Kept) (h_run : ∀ x0 x1, x0.Kept → (run x0 x1).Kept) : (State.homeRun s k op mode run).Kept := by
  unfold State.homeRun
  repeat' (first | with_reducible assumption | with_reducible apply State.onRunning_kept | with_reducible apply State.endHome_kept | with_reducible apply h_run | (simp only [↓kept_mk]; first | with_reducible apply State.Kept.parts | with_reducible apply keptParts.mem | with_reducible apply keptParts.regs) | dsimp only | split | (intro))

theorem State.bankEngine_kept (s : State) (k : DKey) (base : Nat) (h_s : s.Kept) : (State.bankEngine s k base).Kept := by
  unfold State.bankEngine
  repeat' (first | with_reducible assumption | (simp only [↓kept_mk]; first | with_reducible apply State.Kept.parts | with_reducible apply keptParts.mem | with_reducible apply keptParts.regs) | dsimp only | split | (intro))

theorem State.onRegion_kept (s : State) (d : Desc) (more : Region → List (Bool × Fail)) (run : State → Region → State) (h_s : s.Kept) (h_run : ∀ x0 x1, x0.Kept → (run x0 x1).Kept) : (State.onRegion s d more run).Kept := by
  unfold State.onRegion
  repeat' (first | with_reducible assumption | with_reducible apply State.endHome_kept | with_reducible apply State.bankEngine_kept | with_reducible apply h_run | (simp only [↓kept_mk]; first | with_reducible apply State.Kept.parts | with_reducible apply keptParts.mem | with_reducible apply keptParts.regs) | dsimp only | split | (intro))

end Sys2Proof.Machine
end

