-- ==== Sys2Proof/Laws/KeptPackets.lean ====
section
/-! SUPPORT. The functions of Packets keep the canonical form of the state. -/

set_option linter.unusedTactic false
set_option linter.unreachableTactic false
set_option simprocs false

namespace Sys2Proof.Machine

theorem State.setLink_kept (s : State) (l : Link) (h_s : s.Kept) : (State.setLink s l).Kept := by
  unfold State.setLink
  repeat' (first | with_reducible assumption | (simp only [↓kept_mk]; first | with_reducible apply State.Kept.parts | with_reducible apply keptParts.mem | with_reducible apply keptParts.regs) | dsimp only | split | (intro))

theorem State.oweCells_kept (s : State) (input tc vl n : Nat) (h_s : s.Kept) : (State.oweCells s input tc vl n).Kept := by
  unfold State.oweCells
  repeat' (first | with_reducible assumption | with_reducible apply State.setLink_kept | (simp only [↓kept_mk]; first | with_reducible apply State.Kept.parts | with_reducible apply keptParts.mem | with_reducible apply keptParts.regs) | dsimp only | split | (intro))

theorem State.freeCells_kept (s : State) (input : Nat) (p : Pkt) (h_s : s.Kept) : (State.freeCells s input p).Kept := by
  unfold State.freeCells
  repeat' (first | with_reducible assumption | with_reducible apply State.oweCells_kept | (simp only [↓kept_mk]; first | with_reducible apply State.Kept.parts | with_reducible apply keptParts.mem | with_reducible apply keptParts.regs) | dsimp only | split | (intro))

theorem State.freeQueued_kept (s : State) (q : Queued) (h_s : s.Kept) : (State.freeQueued s q).Kept := by
  unfold State.freeQueued
  repeat' (first | with_reducible assumption | with_reducible apply State.oweCells_kept | (simp only [↓kept_mk]; first | with_reducible apply State.Kept.parts | with_reducible apply keptParts.mem | with_reducible apply keptParts.regs) | dsimp only | split | (intro))

theorem State.takeRx_kept (s : State) (p : Pkt) (h_s : s.Kept) : (State.takeRx s p).Kept := by
  unfold State.takeRx
  repeat' (first | with_reducible assumption | with_reducible apply State.freeCells_kept | (simp only [↓kept_mk]; first | with_reducible apply State.Kept.parts | with_reducible apply keptParts.mem | with_reducible apply keptParts.regs) | dsimp only | split | (intro))

theorem State.takeMap_kept (s : State) (m : MapMsg) (h_s : s.Kept) : (State.takeMap s m).Kept := by
  unfold State.takeMap
  repeat' (first | with_reducible assumption | with_reducible apply State.freeCells_kept | (simp only [↓kept_mk]; first | with_reducible apply State.Kept.parts | with_reducible apply keptParts.mem | with_reducible apply keptParts.regs) | dsimp only | split | (intro))

end Sys2Proof.Machine
end

