-- ==== Sys2Proof/Laws/KeptStreams.lean ====
section
/-! SUPPORT. The functions of Streams keep the canonical form of the state. -/

set_option linter.unusedTactic false
set_option linter.unreachableTactic false
set_option simprocs false

namespace Sys2Proof.Machine

theorem State.rgnWrite_kept (s : State) (num off : Nat) (bs : List Byte) (h_s : s.Kept) : ResKept (State.rgnWrite s num off bs) := by
  unfold State.rgnWrite
  repeat' (first | with_reducible assumption | with_reducible apply State.feWrite_kept | with_reducible exact ResKept.error | with_reducible exact ResKept.fail | with_reducible apply ResKept.ok | with_reducible apply ResKept.bind | with_reducible apply ResKept.map | with_reducible apply ResKept.foldlM | with_reducible refine ResKept.elim (by with_reducible assumption) ?_ | (simp only [↓kept_mk]; first | with_reducible apply State.Kept.parts | with_reducible apply keptParts.mem | with_reducible apply keptParts.regs) | dsimp only | split | (intro))

theorem State.rgnPut_kept (s : State) (wild : Bool) (num off : Nat) (bs : List Byte) (h_s : s.Kept) : ResKept (State.rgnPut s wild num off bs) := by
  unfold State.rgnPut
  repeat' (first | with_reducible assumption | with_reducible apply State.rgnWrite_kept | with_reducible exact ResKept.error | with_reducible exact ResKept.fail | with_reducible apply ResKept.ok | with_reducible apply ResKept.bind | with_reducible apply ResKept.map | with_reducible apply ResKept.foldlM | with_reducible refine ResKept.elim (by with_reducible assumption) ?_ | (simp only [↓kept_mk]; first | with_reducible apply State.Kept.parts | with_reducible apply keptParts.mem | with_reducible apply keptParts.regs) | dsimp only | split | (intro))

theorem State.appendHead_kept (s : State) (wild : Bool) (p : Pin) (t : Stream) (pos : Nat) (x : Stored) (h_s : s.Kept) :
    ResKept (State.appendHead s wild p t pos x) := by
  have w (r : State) (o : Nat) (bs : List Byte) (hr : r.Kept) : AllOk State.Kept (r.rgnPut wild p.region o bs) :=
    (State.rgnPut_kept _ _ _ _ _ hr).allOk
  refine AllOk.res ?_
  unfold State.appendHead
  extract_lets tile slot w' key jp
  refine AllOk.bindAll (w _ _ _ h_s) (fun s1 h1 => AllOk.bindAll (w _ _ _ h1) (fun s2 h2 => AllOk.bindAll (w _ _ _ h2) (fun s3 h3 =>
    AllOk.bindAll (w _ _ _ h3) (fun s4 h4 => ?_))))
  have hj (s5 : State) (h5 : s5.Kept) : AllOk State.Kept (jp s5) := by
    show AllOk State.Kept (if slot = 0 then _ else _)
    split
    · exact AllOk.bind (fun old _ => AllOk.bindAll (w _ _ _ h5) (fun s6 h6 => w _ _ _ h6))
    · exact AllOk.bind (fun old _ => AllOk.bindAll (w _ _ _ h5) (fun s6 h6 => w _ _ _ h6))
  split
  · exact AllOk.bind (fun cb _ => AllOk.bindAll (w _ _ _ h4) hj)
  · exact AllOk.bindAll (AllOk.ok h4) hj

theorem State.appendRun_kept (s : State) (d : Desc) (p : Pin) (ts : List Stream) (h_s : s.Kept) : DoneKept (State.appendRun s d p ts) := by
  unfold State.appendRun
  extract_lets hs wild step touch o
  refine State.addWrap_kept _ _ _ (runFrom_kept step touch _ _ (fun n e he => ?_) _ _ _ h_s)
  refine AllOk.bind (fun xs _ => AllOk.bindAll (q := State.Kept) (AllOk.phased (AllOk.foldlM _ _ _ he (fun t y ht => ?_))) (fun t1 h1 => AllOk.ok h1))
  exact (State.appendHead_kept _ _ _ _ _ _ ht).allOk

theorem State.kvOn_kept (s : State) (d : Desc) (h_s : s.Kept) : (State.kvOn s d).Kept := by
  unfold State.kvOn
  repeat' (first | with_reducible assumption | with_reducible apply State.appendRun_kept | with_reducible apply State.attempt_kept | with_reducible exact AllOk.error | with_reducible apply AllOk.ok | simp only [↓doneKept_mk] | simp only [↓effKept_mk] | (simp only [↓kept_mk]; first | with_reducible apply State.Kept.parts | with_reducible apply keptParts.mem | with_reducible apply keptParts.regs) | dsimp only | split | (intro))

theorem State.kvStart_kept (s : State) (d : Desc) (h_s : s.Kept) : (State.kvStart s d).Kept := by
  unfold State.kvStart
  repeat' (first | with_reducible assumption | with_reducible apply State.attempt_kept | with_reducible apply State.incSat_kept | with_reducible apply State.kvOn_kept | with_reducible apply State.endDesc_kept | with_reducible apply State.setDesc_kept | with_reducible exact AllOk.error | with_reducible apply AllOk.ok | simp only [↓doneKept_mk] | simp only [↓effKept_mk] | (simp only [↓kept_mk]; first | with_reducible apply State.Kept.parts | with_reducible apply keptParts.mem | with_reducible apply keptParts.regs) | dsimp only | split | (intro))

end Sys2Proof.Machine
end

