-- ==== Sys2Proof/Laws/KeptMedia.lean ====
section
/-! SUPPORT. The functions of Media keep the canonical form of the state. -/

set_option linter.unusedTactic false
set_option linter.unreachableTactic false
set_option simprocs false

namespace Sys2Proof.Machine

theorem State.setDrive_kept (s : State) (d : Drive) (h_s : s.Kept) : (State.setDrive s d).Kept := by
  unfold State.setDrive
  repeat' (first | with_reducible assumption | (simp only [↓kept_mk]; first | with_reducible apply State.Kept.parts | with_reducible apply keptParts.mem | with_reducible apply keptParts.regs) | dsimp only | split | (intro))

theorem State.nvmeSend_kept (s : State) (port : Nat) (op : NvmeOp) (h_s : s.Kept) : (State.nvmeSend s port op).Kept := by
  unfold State.nvmeSend
  repeat' (first | with_reducible assumption | (simp only [↓kept_mk]; first | with_reducible apply State.Kept.parts | with_reducible apply keptParts.mem | with_reducible apply keptParts.regs) | dsimp only | split | (intro))

theorem State.finishZone_kept (s : State) (port zone : Nat) (h_s : s.Kept) : (State.finishZone s port zone).Kept := by
  unfold State.finishZone
  repeat' (first | with_reducible assumption | with_reducible apply State.nvmeSend_kept | with_reducible apply State.setDrive_kept | with_reducible apply State.finish_kept | (simp only [↓kept_mk]; first | with_reducible apply State.Kept.parts | with_reducible apply keptParts.mem | with_reducible apply keptParts.regs) | dsimp only | split | (intro))

theorem State.appendOn_kept (s : State) (port frame : Nat) (rc : Bool) (bytes : Cells) (dirty : BitVec 16) (tag : Nat) (avoid : Option Nat) (h_s : s.Kept) : OptKept (State.appendOn s port frame rc bytes dirty tag avoid) := by
  unfold State.appendOn
  repeat' (first | with_reducible assumption | with_reducible apply State.nvmeSend_kept | with_reducible apply State.setDrive_kept | with_reducible apply State.finish_kept | with_reducible exact OptKept.none | with_reducible apply OptKept.some | with_reducible apply OptKept.map | with_reducible apply OptKept.bind | with_reducible apply OptKept.findSome | with_reducible apply OptKept.getD | with_reducible refine OptKept.elim (by with_reducible assumption) ?_ | (simp only [↓kept_mk]; first | with_reducible apply State.Kept.parts | with_reducible apply keptParts.mem | with_reducible apply keptParts.regs) | dsimp only | split | (intro))

theorem State.appendAny_kept (s : State) (frame : Nat) (bytes : Cells) (dirty : BitVec 16) (tag : Nat) (avoid : Option (Nat × Nat)) (h_s : s.Kept) : OptKept (State.appendAny s frame bytes dirty tag avoid) := by
  unfold State.appendAny
  repeat' (first | with_reducible assumption | with_reducible apply State.appendOn_kept | with_reducible exact OptKept.none | with_reducible apply OptKept.some | with_reducible apply OptKept.map | with_reducible apply OptKept.bind | with_reducible apply OptKept.findSome | with_reducible apply OptKept.getD | with_reducible refine OptKept.elim (by with_reducible assumption) ?_ | (simp only [↓kept_mk]; first | with_reducible apply State.Kept.parts | with_reducible apply keptParts.mem | with_reducible apply keptParts.regs) | dsimp only | split | (intro))

theorem State.putTile_kept (s : State) (f : Frame) (bytes : Cells) (dirty : BitVec 16) (h_s : s.Kept) : OptKept (State.putTile s f bytes dirty) := by
  unfold State.putTile
  repeat' (first | with_reducible assumption | with_reducible apply State.sendKl_kept | with_reducible apply Eff.write_kept | with_reducible apply State.appendAny_kept | with_reducible apply State.take_kept | with_reducible apply State.answered_kept | with_reducible apply forN_kept | with_reducible exact OptKept.none | with_reducible apply OptKept.some | with_reducible apply OptKept.map | with_reducible apply OptKept.bind | with_reducible apply OptKept.findSome | with_reducible apply OptKept.getD | with_reducible refine OptKept.elim (by with_reducible assumption) ?_ | (simp only [↓kept_mk]; first | with_reducible apply State.Kept.parts | with_reducible apply keptParts.mem | with_reducible apply keptParts.regs) | dsimp only | split | (intro))

theorem State.tagCheck_kept (s : State) (n tier addr : Nat) (h_s : s.Kept) : PairKept (State.tagCheck s n tier addr) := by
  unfold State.tagCheck
  repeat' (first | with_reducible assumption | with_reducible apply State.incSat_kept | with_reducible apply State.raise_kept | with_reducible apply forN_kept | with_reducible apply PairKept.fst | with_reducible refine PairKept.elim (by with_reducible assumption) ?_ | (simp only [↓kept_mk]; first | with_reducible apply State.Kept.parts | with_reducible apply keptParts.mem | with_reducible apply keptParts.regs) | dsimp only | split | with_reducible apply PairKept.pair | (intro))

theorem State.startWriteback_kept (s : State) (f : Frame) (h_s : s.Kept) : OptKept (State.startWriteback s f) := by
  unfold State.startWriteback
  repeat' (first | with_reducible assumption | with_reducible apply State.putTile_kept | with_reducible apply State.setFrame_kept | with_reducible exact OptKept.none | with_reducible apply OptKept.some | with_reducible apply OptKept.map | with_reducible apply OptKept.bind | with_reducible apply OptKept.findSome | with_reducible apply OptKept.getD | with_reducible refine OptKept.elim (by with_reducible assumption) ?_ | (simp only [↓kept_mk]; first | with_reducible apply State.Kept.parts | with_reducible apply keptParts.mem | with_reducible apply keptParts.regs) | dsimp only | split | (intro))

theorem State.writebackFailed_kept (s : State) (id : Nat) (dirty : BitVec 16) (h_s : s.Kept) : (State.writebackFailed s id dirty).Kept := by
  unfold State.writebackFailed
  repeat' (first | with_reducible assumption | with_reducible apply State.setFrame_kept | (simp only [↓kept_mk]; first | with_reducible apply State.Kept.parts | with_reducible apply keptParts.mem | with_reducible apply keptParts.regs) | dsimp only | split | (intro))

theorem State.wroteBack_kept (s : State) (id : Nat) (h_s : s.Kept) : (State.wroteBack s id).Kept := by
  unfold State.wroteBack
  repeat' (first | with_reducible assumption | with_reducible apply State.setFrame_kept | with_reducible apply forL_kept | (simp only [↓kept_mk]; first | with_reducible apply State.Kept.parts | with_reducible apply keptParts.mem | with_reducible apply keptParts.regs) | dsimp only | split | (intro))

theorem State.located_kept (s : State) (id : Nat) (sl : Slot) (tag : Nat) (h_s : s.Kept) : (State.located s id sl tag).Kept := by
  unfold State.located
  repeat' (first | with_reducible assumption | with_reducible apply State.setFrame_kept | with_reducible apply State.wroteBack_kept | (simp only [↓kept_mk]; first | with_reducible apply State.Kept.parts | with_reducible apply keptParts.mem | with_reducible apply keptParts.regs) | dsimp only | split | (intro))

theorem State.endFills_kept (s : State) (id : Nat) (f : Fail) (h_s : s.Kept) : (State.endFills s id f).Kept := by
  unfold State.endFills
  repeat' (first | with_reducible assumption | with_reducible apply State.freeCells_kept | with_reducible apply State.failFills_kept | with_reducible apply State.finishHome_kept | with_reducible apply State.endDesc_kept | with_reducible apply State.respondErr_kept | with_reducible apply forL_kept | (simp only [↓kept_mk]; first | with_reducible apply State.Kept.parts | with_reducible apply keptParts.mem | with_reducible apply keptParts.regs) | dsimp only | split | (intro))

theorem State.endWrites_kept (s : State) (id : Nat) (f : Fail) (h_s : s.Kept) : (State.endWrites s id f).Kept := by
  unfold State.endWrites
  repeat' (first | with_reducible assumption | with_reducible apply State.endDesc_kept | with_reducible apply State.finishHome_kept | with_reducible apply forL_kept | (simp only [↓kept_mk]; first | with_reducible apply State.Kept.parts | with_reducible apply keptParts.mem | with_reducible apply keptParts.regs) | dsimp only | split | (intro))

theorem State.switchMaps_kept (s : State) (old new : Nat) (h_s : s.Kept) : (State.switchMaps s old new).Kept := by
  unfold State.switchMaps
  repeat' (first | with_reducible assumption | (simp only [↓kept_mk]; first | with_reducible apply State.Kept.parts | with_reducible apply keptParts.mem | with_reducible apply keptParts.regs) | dsimp only | split | (intro))

theorem State.setMoving_kept (s : State) (k : DKey) (m : List (Nat × Nat)) (h_s : s.Kept) : (State.setMoving s k m).Kept := by
  unfold State.setMoving
  repeat' (first | with_reducible assumption | (simp only [↓kept_mk]; first | with_reducible apply State.Kept.parts | with_reducible apply keptParts.mem | with_reducible apply keptParts.regs) | dsimp only | split | (intro))

theorem State.setProgress_kept (s : State) (k : DKey) (n : Nat) (h_s : s.Kept) : (State.setProgress s k n).Kept := by
  unfold State.setProgress
  repeat' (first | with_reducible assumption | (simp only [↓kept_mk]; first | with_reducible apply State.Kept.parts | with_reducible apply keptParts.mem | with_reducible apply keptParts.regs) | dsimp only | split | (intro))

theorem State.setFills_kept (s : State) (k : DKey) (fs : List (Nat × Nat)) (h_s : s.Kept) : (State.setFills s k fs).Kept := by
  unfold State.setFills
  repeat' (first | with_reducible assumption | (simp only [↓kept_mk]; first | with_reducible apply State.Kept.parts | with_reducible apply keptParts.mem | with_reducible apply keptParts.regs) | dsimp only | split | (intro))

theorem State.dropMoves_kept (s : State) (k : DKey) (h_s : s.Kept) : (State.dropMoves s k).Kept := by
  unfold State.dropMoves
  repeat' (first | with_reducible assumption | with_reducible apply State.setMoving_kept | with_reducible apply State.retryFills_kept | with_reducible apply State.gc_kept | with_reducible apply PairKept.fst | with_reducible refine PairKept.elim (by with_reducible assumption) ?_ | (simp only [↓kept_mk]; first | with_reducible apply State.Kept.parts | with_reducible apply keptParts.mem | with_reducible apply keptParts.regs) | dsimp only | split | with_reducible apply PairKept.pair | (intro))

theorem State.moveTile_kept (s : State) (k : DKey) (r : Region) (tile : Nat) (all : Bool) (tier port n : Nat) (h_s : s.Kept) : TileKept (State.moveTile s k r tile all tier port n) := by
  unfold State.moveTile
  repeat' (first | with_reducible assumption | with_reducible apply State.switchMaps_kept | with_reducible apply State.setFills_kept | with_reducible apply State.tagCheck_kept | with_reducible apply State.gc_kept | with_reducible apply State.newFrame_kept | with_reducible apply State.retryFills_kept | with_reducible apply State.dropMoves_kept | with_reducible apply State.startNeeds_kept | with_reducible apply State.setMoving_kept | with_reducible apply State.putTile_kept | with_reducible apply State.located_kept | with_reducible apply forL_kept | with_reducible exact OptKept.none | with_reducible apply OptKept.some | with_reducible apply OptKept.map | with_reducible apply OptKept.bind | with_reducible apply OptKept.findSome | with_reducible apply OptKept.getD | with_reducible refine OptKept.elim (by with_reducible assumption) ?_ | with_reducible apply PairKept.fst | with_reducible refine PairKept.elim (by with_reducible assumption) ?_ | with_reducible apply TileKept.ofDone | with_reducible apply TileKept.ofMore | with_reducible apply TileKept.ofWait | with_reducible apply TileKept.ofStop | (simp only [↓kept_mk]; first | with_reducible apply State.Kept.parts | with_reducible apply keptParts.mem | with_reducible apply keptParts.regs) | dsimp only | split | with_reducible apply PairKept.pair | (intro))

theorem State.moveTiles_kept (s : State) (k : DKey) (num first : Nat) (all : Bool) (tier port : Nat) (tags : List Nat) (h_s : s.Kept) :
    ∀ y0, (State.moveTiles s k num first all tier port tags y0).Kept := by
  intro fuel
  induction fuel generalizing s with
  | zero => exact h_s
  | succ fuel ih =>
    unfold State.moveTiles
    split
    · rename_i d r _ _
      dsimp only
      split
      · exact State.endHome_kept _ _ _ _ _ h_s
      · have hm := State.moveTile_kept s k r (first + d.progress) all tier port (tags.count (first + d.progress)) h_s
        split
        · exact hm.wait _ (by assumption)
        · exact State.endHome_kept _ _ _ _ _ (hm.stop _ _ (by assumption))
        · exact ih _ (hm.more _ (by assumption))
        · refine ih _ (State.setProgress_kept _ _ _ ?_)
          simp only [↓kept_mk]
          exact State.Kept.parts (hm.done _ (by assumption))
    · exact State.endHome_kept _ _ _ _ _ h_s
    · exact h_s

theorem State.writebackTile_kept (s0 : State) (k : DKey) (t : TRef) (n : Nat) (h_s0 : s0.Kept) : TileKept (State.writebackTile s0 k t n) := by
  unfold State.writebackTile
  repeat' (first | with_reducible assumption | with_reducible apply Eff.write_kept | with_reducible apply State.startWriteback_kept | with_reducible apply State.startFill_kept | with_reducible apply State.located_kept | with_reducible apply State.setFills_kept | with_reducible apply State.setFrame_kept | with_reducible apply State.tagCheck_kept | with_reducible apply State.setMoving_kept | with_reducible exact OptKept.none | with_reducible apply OptKept.some | with_reducible apply OptKept.map | with_reducible apply OptKept.bind | with_reducible apply OptKept.findSome | with_reducible apply OptKept.getD | with_reducible refine OptKept.elim (by with_reducible assumption) ?_ | with_reducible apply PairKept.fst | with_reducible refine PairKept.elim (by with_reducible assumption) ?_ | with_reducible apply TileKept.ofDone | with_reducible apply TileKept.ofMore | with_reducible apply TileKept.ofWait | with_reducible apply TileKept.ofStop | (simp only [↓kept_mk]; first | with_reducible apply State.Kept.parts | with_reducible apply keptParts.mem | with_reducible apply keptParts.regs) | dsimp only | split | with_reducible apply PairKept.pair | (intro))

theorem State.evictDone_kept (s : State) (t : TRef) (evict : Bool) (h_s : s.Kept) : (State.evictDone s t evict).Kept := by
  unfold State.evictDone
  repeat' (first | with_reducible assumption | with_reducible apply State.setFrame_kept | (simp only [↓kept_mk]; first | with_reducible apply State.Kept.parts | with_reducible apply keptParts.mem | with_reducible apply keptParts.regs) | dsimp only | split | (intro))

theorem State.writebackTiles_kept (s : State) (k : DKey) (mk : Nat → TRef) (first n : Nat) (evict : Bool) (tags : List Nat) (h_s : s.Kept) :
    ∀ y0, (State.writebackTiles s k mk first n evict tags y0).Kept := by
  intro fuel
  induction fuel generalizing s with
  | zero => exact h_s
  | succ fuel ih =>
    unfold State.writebackTiles
    split
    · exact h_s
    · rename_i d _
      split
      · exact State.okHome_kept _ _ _ _ h_s
      · have hm := State.writebackTile_kept s k (mk (first + d.progress)) (tags.count (first + d.progress)) h_s
        split
        · exact hm.wait _ (by assumption)
        · exact State.endHome_kept _ _ _ _ _ (hm.stop _ _ (by assumption))
        · exact ih _ (hm.more _ (by assumption))
        · exact ih _ (State.setProgress_kept _ _ _ (State.evictDone_kept _ _ _ (hm.done _ (by assumption))))


theorem State.moveTags_kept (s : State) (d : Desc) (tags : List Nat) (o : Done) (h_s : s.Kept) : (State.moveTags s d tags o).Kept := by
  have key : ∀ t a, ((s.tagCheck 2 t a).1).Kept := fun t a => PairKept.fst (State.tagCheck_kept _ _ _ _ h_s)
  unfold State.moveTags
  generalize d.moveUnit o.progress = x
  generalize s.moveTileAddr d o.progress = y
  obtain ⟨off, len⟩ := x
  obtain ⟨tier, a⟩ := y
  dsimp only
  refine ite_kept ?_ h_s
  generalize s.engRead d _ _ _ = r
  cases r with
  | ok x => exact key _ _
  | error e => exact h_s

theorem moveStep_kept (d : Desc) (src : List Piece) (tags : List Nat) (k : Nat) (e : Eff) (h : EffKept e) :
    AllOk EffKept (moveStep d src tags k e) := by
  unfold moveStep
  extract_lets slice m u dm
  generalize d.moveUnit k = x
  generalize e.s.moveTileAddr d k = y
  obtain ⟨off, len⟩ := x
  obtain ⟨tier, a⟩ := y
  refine AllOk.bind (fun _ _ => AllOk.bind (fun dps _ => AllOk.bind (fun bs _ => AllOk.bind (fun _ _ => ?_))))
  extract_lets out e1
  refine AllOk.bindAll (q := EffKept) (AllOk.phased (Eff.write_kept _ _ _ _ _ _ ?_)) (fun e2 h2 => AllOk.ok ?_)
  · show State.Kept _
    simp only [↓kept_mk]
    exact State.Kept.parts (PairKept.fst (State.tagCheck_kept _ _ _ _ h))
  · refine State.obs_kept _ _ _ _ _ _ ?_
    simp only [↓kept_mk]
    exact State.Kept.parts h2

theorem State.moveRun_kept (s : State) (d : Desc) (tags : List Nat) (h_s : s.Kept) : DoneKept (State.moveRun s d tags) := by
  unfold State.moveRun
  extract_lets n src o
  exact State.moveTags_kept _ _ _ _ (runFrom_kept _ _ _ _ (fun k e he => moveStep_kept _ _ _ _ _ he) _ _ _ h_s)

theorem State.nvmeDrop_kept (s : State) (id : Nat) (h_s : s.Kept) : (State.nvmeDrop s id).Kept := by
  unfold State.nvmeDrop
  repeat' (first | with_reducible assumption | (simp only [↓kept_mk]; first | with_reducible apply State.Kept.parts | with_reducible apply keptParts.mem | with_reducible apply keptParts.regs) | dsimp only | split | (intro))

theorem State.nvmeMark_kept (s : State) (c : NvmeCmd) (h_s : s.Kept) : (State.nvmeMark s c).Kept := by
  unfold State.nvmeMark
  repeat' (first | with_reducible assumption | (simp only [↓kept_mk]; first | with_reducible apply State.Kept.parts | with_reducible apply keptParts.mem | with_reducible apply keptParts.regs) | dsimp only | split | (intro))

theorem State.mediaEvent_kept (s : State) (port status : Nat) (h_s : s.Kept) : (State.mediaEvent s port status).Kept := by
  unfold State.mediaEvent
  repeat' (first | with_reducible assumption | with_reducible apply State.raise_kept | (simp only [↓kept_mk]; first | with_reducible apply State.Kept.parts | with_reducible apply keptParts.mem | with_reducible apply keptParts.regs) | dsimp only | split | (intro))

theorem State.sendSetup_kept (s : State) (port : Nat) (h_s : s.Kept) : (State.sendSetup s port).Kept := by
  unfold State.sendSetup
  repeat' (first | with_reducible assumption | with_reducible apply State.nvmeSend_kept | with_reducible apply forL_kept | (simp only [↓kept_mk]; first | with_reducible apply State.Kept.parts | with_reducible apply keptParts.mem | with_reducible apply keptParts.regs) | dsimp only | split | (intro))

theorem State.loseTile_kept (s : State) (id status : Nat) (h_s : s.Kept) : (State.loseTile s id status).Kept := by
  unfold State.loseTile
  repeat' (first | with_reducible assumption | with_reducible apply State.retryFills_kept | with_reducible apply State.lose_kept | (simp only [↓kept_mk]; first | with_reducible apply State.Kept.parts | with_reducible apply keptParts.mem | with_reducible apply keptParts.regs) | dsimp only | split | (intro))

theorem State.tagLost_kept (s : State) (id : Nat) (h_s : s.Kept) : (State.tagLost s id).Kept := by
  unfold State.tagLost
  repeat' (first | with_reducible assumption | with_reducible apply State.raise_kept | with_reducible apply State.loseTile_kept | (simp only [↓kept_mk]; first | with_reducible apply State.Kept.parts | with_reducible apply keptParts.mem | with_reducible apply keptParts.regs) | dsimp only | split | (intro))

theorem State.loseSlots_kept (s : State) (p : Slot → Bool) (h_s : s.Kept) : (State.loseSlots s p).Kept := by
  unfold State.loseSlots
  repeat' (first | with_reducible assumption | with_reducible apply State.lose_kept | with_reducible apply State.setFrame_kept | with_reducible apply forL_kept | (simp only [↓kept_mk]; first | with_reducible apply State.Kept.parts | with_reducible apply keptParts.mem | with_reducible apply keptParts.regs) | dsimp only | split | (intro))

theorem State.endCommand_kept (s : State) (c : NvmeCmd) (h_s : s.Kept) : (State.endCommand s c).Kept := by
  unfold State.endCommand
  repeat' (first | with_reducible assumption | with_reducible apply State.endFills_kept | with_reducible apply State.writebackFailed_kept | with_reducible apply State.endWrites_kept | (simp only [↓kept_mk]; first | with_reducible apply State.Kept.parts | with_reducible apply keptParts.mem | with_reducible apply keptParts.regs) | dsimp only | split | (intro))

theorem State.failDrive_kept (s : State) (port : Nat) (h_s : s.Kept) : (State.failDrive s port).Kept := by
  unfold State.failDrive
  repeat' (first | with_reducible assumption | with_reducible apply State.setFldAt_kept | with_reducible apply State.raise_kept | with_reducible apply State.writebackFailed_kept | with_reducible apply State.loseSlots_kept | with_reducible apply State.retryFills_kept | with_reducible apply forL_kept | (simp only [↓kept_mk]; first | with_reducible apply State.Kept.parts | with_reducible apply keptParts.mem | with_reducible apply keptParts.regs) | dsimp only | split | (intro))

theorem State.useDrive_kept (s : State) (port : Nat) (x : NvmeId) (n : NvmeNs) (h_s : s.Kept) : (State.useDrive s port x n).Kept := by
  unfold State.useDrive
  repeat' (first | with_reducible assumption | with_reducible apply State.setFldAt_kept | with_reducible apply State.nvmeSend_kept | with_reducible apply State.take_kept | with_reducible apply forL_kept | (simp only [↓kept_mk]; first | with_reducible apply State.Kept.parts | with_reducible apply keptParts.mem | with_reducible apply keptParts.regs) | dsimp only | split | (intro))

theorem State.tierRetire_kept (s : State) (w : Word) (h_s : s.Kept) : (State.tierRetire s w).Kept := by
  unfold State.tierRetire
  repeat' (first | with_reducible assumption | with_reducible apply State.incSat_kept | with_reducible apply State.raise_kept | (simp only [↓kept_mk]; first | with_reducible apply State.Kept.parts | with_reducible apply keptParts.mem | with_reducible apply keptParts.regs) | dsimp only | split | (intro))

theorem State.borageWrite_kept (s : State) (w : Word) (h_s : s.Kept) : (State.borageWrite s w).Kept := by
  unfold State.borageWrite
  repeat' (first | with_reducible assumption | with_reducible apply State.setFld_kept | (simp only [↓kept_mk]; first | with_reducible apply State.Kept.parts | with_reducible apply keptParts.mem | with_reducible apply keptParts.regs) | dsimp only | split | (intro))

theorem borageCells_kept (m : Cells) (key n mask pattern : Nat) (h : Memory.wf m = true) :
    Memory.wf (borageCells m key n mask pattern) = true := by
  unfold borageCells
  dsimp only
  split
  · exact wf_filter h _
  · exact cellsWrite_wf rfl _ _

theorem State.borageRegions_kept (s : State) (st : Nat) (h_s : s.Kept) : (State.borageRegions s st).Kept := by
  unfold State.borageRegions
  repeat' (first | with_reducible assumption | with_reducible apply State.keep_kept | with_reducible apply State.gc_kept | with_reducible apply PairKept.fst | with_reducible refine PairKept.elim (by with_reducible assumption) ?_ | (simp only [↓kept_mk]; first | with_reducible apply State.Kept.parts | with_reducible apply keptParts.mem | with_reducible apply keptParts.regs) | dsimp only | split | with_reducible apply PairKept.pair | (intro))

end Sys2Proof.Machine
end

