-- ==== Sys2Proof/Laws/KeptAttention.lean ====
section
/-! SUPPORT. The functions of Attention keep the canonical form of the state. -/

set_option linter.unusedTactic false
set_option linter.unreachableTactic false
set_option simprocs false

namespace Sys2Proof.Machine

theorem State.countPasses_kept (s : State) (g slice n : Nat) (h_s : s.Kept) : (State.countPasses s g slice n).Kept := by
  unfold State.countPasses
  repeat' (first | with_reducible assumption | with_reducible apply State.addSatAt_kept | with_reducible apply State.addWrap_kept | (simp only [↓kept_mk]; first | with_reducible apply State.Kept.parts | with_reducible apply keptParts.mem | with_reducible apply keptParts.regs) | dsimp only | split | (intro))

theorem State.arrErrs_kept (s s0 : State) (d : Desc) (tiles : List Nat) (errs : List ArrErr) (h_s : s.Kept) (h_s0 : s0.Kept) : (State.arrErrs s s0 d tiles errs).Kept := by
  unfold State.arrErrs
  repeat' (first | with_reducible assumption | with_reducible apply State.incSat_kept | with_reducible apply State.setFld_kept | with_reducible apply State.raise_kept | with_reducible apply forL_kept | (simp only [↓kept_mk]; first | with_reducible apply State.Kept.parts | with_reducible apply keptParts.mem | with_reducible apply keptParts.regs) | dsimp only | split | (intro))

theorem State.attWrite_kept (s : State) (d : Desc) (torn : Bool) (loose : Nat → Bool) (list : List Byte) (stride : Nat) (row : Nat → List Byte)
    (h_s : s.Kept) : AllOk DoneKept (State.attWrite s d torn loose list stride row) := by
  unfold State.attWrite
  extract_lets u open_ free e0 listT listed touch step
  have h0 : EffKept e0 := by
    show State.Kept _
    simp only [e0]
    refine ite_kept ?_ h_s
    simp only [↓kept_mk]
    exact h_s.parts
  have hl : AllOk EffKept listed := by
    show AllOk EffKept (if d.at 48 8 = 0 then _ else _)
    split
    · exact AllOk.ok h0
    · exact AllOk.map (fun e he => State.noteTouches_kept _ _ _ (AllOk.elim (p := EffKept) he (AllOk.phased (Eff.write_kept _ _ _ _ _ _ h0))))
  have hs (k : Nat) (e : Eff) (he : EffKept e) : AllOk EffKept (step k e) :=
    AllOk.map (fun x hx => State.noteTouches_kept _ _ _ (AllOk.elim (p := EffKept) hx (AllOk.phased (Eff.writeIn_kept _ _ _ _ _ _ _ _ he))))
  clear_value listed step
  cases listed with
  | error x =>
    cases x with
    | err f => exact AllOk.ok h_s
    | wait ns => exact AllOk.error
  | ok e1 => exact unitsDone_kept _ _ (runUnits_kept step hs _ _ _ (AllOk.elim (p := EffKept) rfl hl))

theorem State.attFinish_kept (s : State) (d : Desc) (errs : List ArrErr) (tiles : List Nat) (rowsOf : Nat → Nat → Bool) (list : List Byte)
    (stride : Nat) (row : Nat → List Byte) (h_s : s.Kept) :
    AllOk (fun x => DoneKept x.1) (State.attFinish s d errs tiles rowsOf list stride row) := by
  unfold State.attFinish
  extract_lets ended
  split
  · exact AllOk.ok h_s
  · split
    · exact AllOk.ok h_s
    · exact AllOk.map (fun o ho => AllOk.elim (p := DoneKept) ho (State.attWrite_kept _ _ _ _ _ _ _ h_s))

theorem State.attRun_kept (s : State) (d : Desc) (errs : List ArrErr) (h_s : s.Kept) : AllOk (fun x => DoneKept x.1) (State.attRun s d errs) := by
  unfold State.attRun
  refine AllOk.bind (fun a _ => ?_)
  split
  all_goals
    extract_lets jp
    have hj (ms : List Byte) : AllOk (fun x : Done × List Nat => DoneKept x.1) (jp ms) :=
      AllOk.bind (fun sel _ => AllOk.bind (fun tds _ => State.attFinish_kept _ _ _ _ _ _ _ _ h_s))
    split
    · exact AllOk.bind (fun ms _ => hj ms)
    · exact AllOk.bind (fun ms _ => hj ms)

theorem State.attPass_kept (s : State) (d : Desc) (errs : List ArrErr) (h_s : s.Kept) : (State.attPass s d errs).Kept := by
  unfold State.attPass
  split
  · exact h_s
  · extract_lets mine r s1
    have h1 : s1.Kept := State.attempt_kept _ _ _ _ h_s (AllOk.map (fun x hx => AllOk.elim (p := fun y => DoneKept y.1) hx (State.attRun_kept s d mine h_s)))
    clear_value s1 r
    cases r with
    | ok x =>
      obtain ⟨o, ts⟩ := x
      exact State.arrErrs_kept _ _ _ _ _ (State.obs_kept _ _ _ _ _ _ (State.countPasses_kept _ _ _ _ h1)) h_s
    | error e => exact h1

theorem State.takeContexts_kept (s : State) (d : Desc) (h_s : s.Kept) (t : State) (e : Desc) (h : s.takeContexts d = some (t, e)) : t.Kept := by
  unfold State.takeContexts at h
  split at h
  · cases h
    exact h_s
  · split at h
    rename_i k s1 heq
    have h1 : s1.Kept := SndKept.elim heq (State.takeNat_kept _ h_s)
    split at h
    · cases h
    · cases h
      exact State.setDesc_kept _ _ h1

theorem State.countScored_kept (s : State) (d : Desc) (counts : List Nat) (h_s : s.Kept) : (State.countScored s d counts).Kept := by
  unfold State.countScored
  repeat' (first | with_reducible assumption | with_reducible apply State.obs_kept | with_reducible apply State.addWrap_kept | with_reducible apply forL_kept | (simp only [↓kept_mk]; first | with_reducible apply State.Kept.parts | with_reducible apply keptParts.mem | with_reducible apply keptParts.regs) | dsimp only | split | (intro))

theorem State.attStep_kept (s : State) (d : Desc) (errs : List ArrErr) (h_s : s.Kept) : (State.attStep s d errs).Kept := by
  unfold State.attStep
  split
  · split
    · exact h_s
    · rename_i s1 d1 heq
      have h1 : s1.Kept := State.takeContexts_kept _ _ h_s _ _ heq
      split
      · exact State.attempt_kept _ _ _ _ h1 AllOk.error
      · dsimp only
        exact State.attPass_kept _ _ _ (State.setDesc_kept _ _ (State.countScored_kept _ _ _ h1))
  · exact State.attPass_kept _ _ _ h_s

theorem State.mergeWrite_kept (s : State) (d : Desc) (h_s : s.Kept) : (State.mergeWrite s d).Kept := by
  unfold State.mergeWrite
  split
  · exact h_s
  · exact State.attempt_kept _ _ _ _ h_s (AllOk.ok (runFrom_kept _ _ _ _ (fun k e he => AllOk.phased (Eff.writeIn_kept _ _ _ _ _ _ _ _ he)) _ _ _ h_s))

theorem State.mergeStep_kept (s : State) (d : Desc) (h_s : s.Kept) : (State.mergeStep s d).Kept := by
  unfold State.mergeStep
  split
  · exact State.mergeWrite_kept _ _ h_s
  · dsimp only
    split
    · exact State.attempt_kept _ _ _ _ h_s AllOk.error
    · exact State.attempt_kept _ _ _ _ h_s (AllOk.ok (State.incSat_kept _ _ h_s))
    · exact State.mergeWrite_kept _ _ (State.noteTouches_kept _ _ _ (State.setDesc_kept _ _ h_s))

end Sys2Proof.Machine
end

