-- ==== Sys2Proof/Laws/KeptSearch.lean ====
section
/-! SUPPORT. The functions of Search keep the canonical form of the state. -/

set_option linter.unusedTactic false
set_option linter.unreachableTactic false
set_option simprocs false

namespace Sys2Proof.Machine

theorem State.fillContexts_kept (d : Desc) (x : Index) (es : List Nat) (k n : Nat) (t : State × Desc) (h : t.1.Kept) :
    PairKept (State.fillContexts d x es k n t) := by
  induction n generalizing t with
  | zero => exact ⟨h⟩
  | succ n ih =>
    unfold State.fillContexts
    dsimp only
    split
    · exact ⟨h⟩
    · split
      · exact ⟨h⟩
      · exact ih _ h

theorem State.moreContexts_kept (s : State) (d : Desc) (x : Index) (k : Nat) (h_s : s.Kept) : PairKept (State.moreContexts s d x k) := by
  unfold State.moreContexts
  split
  rename_i r s1 heq
  have h1 : s1.Kept := SndKept.elim heq (State.takeNat_kept _ h_s)
  extract_lets es
  split
  rename_i s2 d2 heq2
  have h2 : s2.Kept := PairKept.elim heq2 (State.fillContexts_kept _ _ _ _ _ _ h1)
  refine PairKept.pair ?_
  simp only [↓kept_mk]
  exact h2.parts

theorem State.countQuery_kept (s : State) (d : Desc) (f : Found) (h_s : s.Kept) : (State.countQuery s d f).Kept := by
  unfold State.countQuery
  repeat' (first | with_reducible assumption | with_reducible apply State.addSatAt_kept | with_reducible apply State.obs_kept | with_reducible apply State.addWrap_kept | with_reducible apply forL_kept | (simp only [↓kept_mk]; first | with_reducible apply State.Kept.parts | with_reducible apply keptParts.mem | with_reducible apply keptParts.regs) | dsimp only | split | (intro))

theorem State.queryRun_kept (s : State) (d : Desc) (pin : Pin) (x : Index) (lists : List (Nat × Nat)) (n : Nat) (h_s : s.Kept) :
    AllOk (fun y => EffKept y.1) (State.queryRun s d pin x lists n) := by
  unfold State.queryRun
  split
  · exact AllOk.ok h_s
  · exact AllOk.error
  · rename_i a f _
    extract_lets t
    have ht : t.Kept := State.countQuery_kept _ _ _ h_s
    split
    · exact AllOk.ok ht
    · exact AllOk.error
    · rename_i e c heq
      refine AllOk.ok (?_ : EffKept e)
      refine AllOk.elim (p := fun y : Eff × Nat => EffKept y.1) heq ?_
      have hw (cs : List (Nat × Num)) := Eff.writeIn_kept ({ s := t, out := [] } : Eff) d a.u (d.at 40 8) (d.at 58 1 * d.resStride)
        (d.at 40 8 + n * d.resStride) (resultBlock d n f cs) n ht
      split
      · exact AllOk.bind (fun cs _ => AllOk.map (fun e1 h1 => AllOk.elim (p := EffKept) h1 (AllOk.phased (hw cs))))
      · exact AllOk.bind (fun cs _ => AllOk.map (fun e1 h1 => AllOk.elim (p := EffKept) h1 (AllOk.phased (hw cs))))

theorem Eff.blockDone_kept (e : Eff) (d : Desc) (h : EffKept e) : EffKept (e.blockDone d).1 := by
  unfold Eff.blockDone
  split
  · exact State.setDesc_kept _ _ (State.addWrap_kept _ _ _ h)
  · exact State.setDesc_kept _ _ h

theorem State.queries_kept (pin : Pin) (x : Index) (lists : List (Nat × Nat)) :
    ∀ m k e d, EffKept e → DoneKept (State.queries pin x lists m k e d) := by
  intro m
  induction m with
  | zero =>
    intro k e d he
    unfold State.queries
    dsimp only
    split
    · exact he
    · split <;> exact he
  | succ m ih =>
    intro k e d he
    have hp : PairKept (if d.asys = [] then e.s.moreContexts d x k else (e.s, d)) := by
      split
      · exact State.moreContexts_kept _ _ _ _ he
      · exact PairKept.pair he
    unfold State.queries
    dsimp only
    generalize (if d.asys = [] then e.s.moreContexts d x k else (e.s, d)) = q at hp ⊢
    obtain ⟨s1, d1⟩ := q
    have h1 : s1.Kept := hp.all
    have hq := State.queryRun_kept s1 d1 pin x lists k h1
    dsimp only
    split
    · exact he
    · split
      · exact he
      · split
        · rename_i e1 c heq1
          have h2 : EffKept e1 := AllOk.elim (p := fun y : Eff × Except Fail Nat => EffKept y.1) heq1 hq
          exact ih _ _ _ (Eff.blockDone_kept _ _ (State.noteTouches_kept _ _ _ h2))
        · rename_i e1 f heq1
          exact AllOk.elim (p := fun y : Eff × Except Fail Nat => EffKept y.1) heq1 hq
        · exact h1
        · exact h1

theorem State.blockWritten_kept (s : State) (d : Desc) (h_s : s.Kept) : PairKept (State.blockWritten s d) := by
  unfold State.blockWritten
  repeat' (first | with_reducible assumption | with_reducible apply State.setDesc_kept | with_reducible apply State.addWrap_kept | with_reducible apply PairKept.fst | with_reducible refine PairKept.elim (by with_reducible assumption) ?_ | (simp only [↓kept_mk]; first | with_reducible apply State.Kept.parts | with_reducible apply keptParts.mem | with_reducible apply keptParts.regs) | dsimp only | split | with_reducible apply PairKept.pair | (intro))

theorem State.searchGo_kept (s : State) (d : Desc) (pin : Pin) (x : Index) (h_s : s.Kept) : (State.searchGo s d pin x).Kept := by
  unfold State.searchGo
  split
  · exact h_s
  · split
    rename_i s1 d1 heq
    have h1 : s1.Kept := PairKept.elim heq (State.blockWritten_kept _ _ h_s)
    exact State.attempt_kept _ _ _ _ h1 (AllOk.ok (State.queries_kept _ _ _ _ _ _ _ h1))

theorem State.searchStep_kept (s : State) (d : Desc) (h_s : s.Kept) : (State.searchStep s d).Kept := by
  unfold State.searchStep
  repeat' (first | with_reducible assumption | with_reducible apply State.attempt_kept | with_reducible apply State.incSat_kept | with_reducible apply State.noteTouches_kept | with_reducible apply State.setDesc_kept | with_reducible apply State.searchGo_kept | with_reducible exact AllOk.error | with_reducible apply AllOk.ok | simp only [↓doneKept_mk] | simp only [↓effKept_mk] | (simp only [↓kept_mk]; first | with_reducible apply State.Kept.parts | with_reducible apply keptParts.mem | with_reducible apply keptParts.regs) | dsimp only | split | (intro))

end Sys2Proof.Machine
end

