-- ==== Sys2Proof/Laws/KeptGleaner.lean ====
section
/-! SUPPORT. The functions of Gleaner keep the canonical form of the state. -/

set_option linter.unusedTactic false
set_option linter.unreachableTactic false
set_option simprocs false

namespace Sys2Proof.Machine

theorem State.recordReject_kept (s : State) (f : Fail) (h_s : s.Kept) : DoneKept (State.recordReject s f) := State.incSat_kept _ _ h_s

theorem State.keep_kept (s : State) (k : DKey) (i : Nat) (bs : List Byte) (h_s : s.Kept) : (State.keep s k i bs).Kept := by
  unfold State.keep
  repeat' (first | with_reducible assumption | (simp only [↓kept_mk]; first | with_reducible apply State.Kept.parts | with_reducible apply keptParts.mem | with_reducible apply keptParts.regs) | dsimp only | split | (intro))

theorem State.setWork_kept (s : State) (k : DKey) (n : Nat) (h_s : s.Kept) : (State.setWork s k n).Kept := by
  unfold State.setWork
  repeat' (first | with_reducible assumption | (simp only [↓kept_mk]; first | with_reducible apply State.Kept.parts | with_reducible apply keptParts.mem | with_reducible apply keptParts.regs) | dsimp only | split | (intro))

theorem State.gatherRun_kept (s : State) (d : Desc) (w : Rows) (h_s : s.Kept) : DoneKept (State.gatherRun s d w) := by
  have h := runFrom_kept (fun i e => phased 3 (do
    let bs ← w.read i e.s
    e.writeIn d (uGln (d.engine - 0x20)) (d.at 40 8) (d.at 48 4 * w.bytes) (d.at 40 8 + i * w.bytes) bs i))
    (fun i => w.from_ i ++ [⟨uGln (d.engine - 0x20), d.at 40 8 + i * w.bytes, w.bytes, false⟩]) d.key.slice false
    (fun k e he => AllOk.phased (AllOk.bind (fun bs _ => Eff.writeIn_kept _ _ _ _ _ _ _ _ he)))
    (d.at 48 4 - d.progress) d.progress { s := s, out := [] } h_s
  unfold State.gatherRun
  extract_lets n u out step o count good t src o1
  have ht : t.Kept := State.obs_kept _ _ _ _ _ _ (State.addSatAt_kept _ _ _ _ (State.addWrap_kept _ _ _ h))
  have h1 : DoneKept o1 := ht
  split
  · exact h1
  · split
    · exact h1
    · exact h1

theorem State.keepIndices_kept (s : State) (d : Desc) (h_s : s.Kept) : ResKept (State.keepIndices s d) := by
  unfold State.keepIndices
  repeat' (first | with_reducible assumption | with_reducible apply State.noteTouches_kept | with_reducible apply State.keep_kept | with_reducible exact ResKept.error | with_reducible exact ResKept.fail | with_reducible apply ResKept.ok | with_reducible apply ResKept.bind | with_reducible apply ResKept.map | with_reducible apply ResKept.foldlM | with_reducible refine ResKept.elim (by with_reducible assumption) ?_ | (simp only [↓kept_mk]; first | with_reducible apply State.Kept.parts | with_reducible apply keptParts.mem | with_reducible apply keptParts.regs) | dsimp only | split | (intro))

theorem State.holdPins_kept (s : State) (k : DKey) (ps : List Pin) (h_s : s.Kept) : (State.holdPins s k ps).Kept := by
  unfold State.holdPins
  repeat' (first | with_reducible assumption | (simp only [↓kept_mk]; first | with_reducible apply State.Kept.parts | with_reducible apply keptParts.mem | with_reducible apply keptParts.regs) | dsimp only | split | (intro))

theorem State.gatherStep_kept (s : State) (d : Desc) (h_s : s.Kept) : PairKept (State.gatherStep s d) := by
  unfold State.gatherStep
  extract_lets ends root idx todo1 got1 s11 todo2 got2 s12
  have he (r : Res Done) (hr : AllOk DoneKept r) : PairKept (ends r) := PairKept.pair (State.attempt_kept _ _ _ _ h_s hr)
  have hi (n : Nat) : PairKept (idx n) := by
    dsimp only [idx]
    split
    · rename_i t ht
      exact PairKept.pair (State.setWork_kept _ _ _ ((State.keepIndices_kept s d h_s).all _ ht))
    · exact PairKept.pair (State.attempt_kept _ _ _ _ h_s AllOk.error)
  split
  · split
    · exact hi _
    · exact he _ (AllOk.ok (State.gatherRun_kept _ _ _ h_s))
  · split
    · split
      · exact he _ AllOk.error
      · exact he _ (AllOk.ok (State.recordReject_kept _ _ h_s))
      · exact PairKept.pair (State.setWork_kept _ _ _ (State.keep_kept _ _ _ _ h_s))
    · split
      · exact he _ AllOk.error
      · exact he _ (AllOk.ok (State.recordReject_kept _ _ h_s))
      · exact PairKept.pair (State.setWork_kept _ _ _ (State.keep_kept _ _ _ _ h_s))
    · exact hi _
    · have h1 : s11.Kept := by
        refine forL_kept _ _ _ h_s (fun x t ht => ?_)
        split
        · exact State.keep_kept _ _ _ _ ht
        · exact ht
      split
      · exact PairKept.pair (State.attempt_kept _ _ _ _ h1 AllOk.error)
      · split
        · exact PairKept.pair (State.attempt_kept _ _ _ _ h1 (AllOk.ok (State.recordReject_kept _ _ h1)))
        · exact PairKept.pair (State.setWork_kept _ _ _ h1)
    · have h1 : s12.Kept := by
        refine forL_kept _ _ _ h_s (fun x t ht => ?_)
        split
        · exact State.keep_kept _ _ _ _ (State.holdPins_kept _ _ _ ht)
        · exact ht
      split
      · exact PairKept.pair (State.attempt_kept _ _ _ _ h1 AllOk.error)
      · exact PairKept.pair (State.setWork_kept _ _ _ h1)
    · exact he _ (AllOk.ok (State.gatherRun_kept _ _ _ h_s))

theorem State.gatherLoop_kept (n : Nat) (s : State) (k : DKey) (h_s : s.Kept) : (State.gatherLoop n s k).Kept := by
  induction n generalizing s with
  | zero => exact h_s
  | succ n ih =>
    unfold State.gatherLoop
    split
    · exact h_s
    · rename_i d _
      have h := State.gatherStep_kept s d h_s
      split
      · rename_i e
        exact ih _ (PairKept.elim e h)
      · rename_i e
        exact PairKept.elim e h

theorem State.updateRow_kept (s : State) (d : Desc) (p : Plan) (r : Nat) (cs : List (Part × List Byte)) (h_s : s.Kept) : ResKept (State.updateRow s d p r cs) := by
  unfold State.updateRow
  repeat' (first | with_reducible assumption | with_reducible apply State.rgnPut_kept | with_reducible exact ResKept.error | with_reducible exact ResKept.fail | with_reducible apply ResKept.ok | with_reducible apply ResKept.bind | with_reducible apply ResKept.map | with_reducible apply ResKept.foldlM | with_reducible refine ResKept.elim (by with_reducible assumption) ?_ | (simp only [↓kept_mk]; first | with_reducible apply State.Kept.parts | with_reducible apply keptParts.mem | with_reducible apply keptParts.regs) | dsimp only | split | (intro))

theorem State.addElem_kept (s : State) (d : Desc) (p : Plan) (x : Part) (bs : List Byte) (j : Nat) (h_s : s.Kept) : ResKept (State.addElem s d p x bs j) := by
  unfold State.addElem
  repeat' (first | with_reducible assumption | with_reducible apply State.homeAtomic_kept | with_reducible refine PairKept.elim (by with_reducible assumption) ?_ | with_reducible exact ResKept.error | with_reducible exact ResKept.fail | with_reducible apply ResKept.ok | with_reducible apply ResKept.bind | with_reducible apply ResKept.map | with_reducible apply ResKept.foldlM | with_reducible refine ResKept.elim (by with_reducible assumption) ?_ | with_reducible exact PairResKept.error | with_reducible exact PairResKept.fail | with_reducible apply PairResKept.ok | with_reducible apply PairResKept.okPair | with_reducible apply PairResKept.bind | with_reducible apply PairResKept.map | with_reducible refine PairResKept.elim (by with_reducible assumption) ?_ | with_reducible refine PairResKept.elimFst (by with_reducible assumption) ?_ | (simp only [↓kept_mk]; first | with_reducible apply State.Kept.parts | with_reducible apply keptParts.mem | with_reducible apply keptParts.regs) | dsimp only | split | with_reducible apply PairKept.pair | (intro))

theorem State.freeRow_kept (s t : State) (d : Desc) (p : Plan) (r : Nat) (h_s : s.Kept) (h_t : t.Kept) : ResKept (State.freeRow s t d p r) := by
  unfold State.freeRow
  repeat' (first | with_reducible assumption | with_reducible apply State.rgnPut_kept | with_reducible exact ResKept.error | with_reducible exact ResKept.fail | with_reducible apply ResKept.ok | with_reducible apply ResKept.bind | with_reducible apply ResKept.map | with_reducible apply ResKept.foldlM | with_reducible refine ResKept.elim (by with_reducible assumption) ?_ | (simp only [↓kept_mk]; first | with_reducible apply State.Kept.parts | with_reducible apply keptParts.mem | with_reducible apply keptParts.regs) | dsimp only | split | (intro))

theorem State.addEntry_kept (s : State) (d : Desc) (p : Plan) (x : Part) (bs : List Byte) (h_s : s.Kept) : ResKept (State.addEntry s d p x bs) := by
  unfold State.addEntry
  refine ResKept.bind (fun _ _ => ?_)
  exact (AllOk.bindAll (ResKept.foldlM _ _ _ h_s (fun t j ht => State.addElem_kept _ _ _ _ _ _ ht)).allOk
    (fun t ht => (State.freeRow_kept _ _ _ _ _ h_s ht).allOk)).res

theorem scatterUnit_kept (d : Desc) (p : Plan) (us : List (Nat × List Part)) (k : Nat) (e : Eff) (h : EffKept e) :
    AllOk EffKept (scatterUnit d p us k e) := by
  unfold scatterUnit
  refine AllOk.phased ?_
  split
  · exact AllOk.ok h
  · rename_i r ps _
    refine AllOk.bind (fun cs _ => ?_)
    extract_lets jp
    have hj (t : State) (ht : t.Kept) : AllOk EffKept (jp t) := AllOk.ok ht
    split
    · refine AllOk.bindAll (q := State.Kept) ?_ hj
      split
      · exact (State.addEntry_kept _ _ _ _ _ h).allOk
      · exact AllOk.ok h
    · exact AllOk.bindAll (State.updateRow_kept _ _ _ _ _ h).allOk hj

theorem State.freeAdds_kept (s : State) (d : Desc) (p : Plan) (xs : List Part) (h_s : s.Kept) : ResKept (State.freeAdds s d p xs) := by
  unfold State.freeAdds
  refine ResKept.bind (fun cs _ => ?_)
  extract_lets adds
  refine (AllOk.bindAll (q := State.Kept) (ResKept.foldlM _ _ _ ?_ (fun t a ht => State.addElem_kept _ _ _ _ _ _ ht)).allOk (fun t ht => ?_)).res
  · exact h_s
  · exact (ResKept.foldlM _ _ _ ht (fun u r hu => State.freeRow_kept _ _ _ _ _ h_s hu)).allOk

theorem State.scatterUnits_kept (s : State) (d : Desc) (p : Plan) (us : List (Nat × List Part)) (h_s : s.Kept) :
    AllOk RunKept (State.scatterUnits s d p us) := by
  unfold State.scatterUnits
  refine AllOk.bindAll (q := RunKept) (runUnits_kept _ (fun k e he => scatterUnit_kept _ _ _ _ _ he) _ _ _ h_s) (fun x hx => ?_)
  extract_lets issued
  split
  · exact AllOk.map (fun t ht => AllOk.elim (p := State.Kept) ht (State.freeAdds_kept _ _ _ _ h_s).allOk)
  · exact AllOk.ok hx

theorem State.scatterRun_kept (s : State) (d : Desc) (p : Plan) (h_s : s.Kept) : AllOk DoneKept (State.scatterRun s d p) := by
  unfold State.scatterRun
  refine AllOk.bind (fun x _ => ?_)
  obtain ⟨xs, bad⟩ := x
  dsimp only
  split
  · exact AllOk.error
  · refine AllOk.bindAll (q := RunKept) (State.scatterUnits_kept _ _ _ _ h_s) (fun y hy => ?_)
    obtain ⟨e, k, f⟩ := y
    have h1 : (((e.s.addWrap f_GLN_APPLIED_APPLIED k).addSatAt f_GLN_ERR_BAD_ROWS 0 bad).obs 4 (d.engine - 0x20) 1 d.key.slice k).Kept :=
      State.obs_kept _ _ _ _ _ _ (State.addSatAt_kept _ _ _ _ (State.addWrap_kept _ _ _ hy))
    dsimp only
    split
    · exact AllOk.ok (State.noteTouches_kept _ _ _ h1)
    · exact AllOk.ok (State.noteTouches_kept _ _ _ h1)

theorem State.planFail_kept (s : State) (d : Desc) (ts : List Touch) (f : Fail) (h_s : s.Kept) : (State.planFail s d ts f).Kept :=
  State.attempt_kept _ _ _ _ h_s (AllOk.ok h_s)

theorem State.scatterApply_kept (s : State) (d : Desc) (h_s : s.Kept) : (State.scatterApply s d).Kept := by
  unfold State.scatterApply
  repeat' (first | with_reducible assumption | with_reducible apply State.attempt_kept | with_reducible apply State.scatterRun_kept | with_reducible exact AllOk.error | with_reducible apply AllOk.ok | simp only [↓doneKept_mk] | simp only [↓effKept_mk] | (simp only [↓kept_mk]; first | with_reducible apply State.Kept.parts | with_reducible apply keptParts.mem | with_reducible apply keptParts.regs) | dsimp only | split | (intro))

theorem State.scatterStart_kept (s : State) (d : Desc) (ts : List Touch) (kept : List (Nat × List Byte)) (h_s : s.Kept) : (State.scatterStart s d ts kept).Kept := by
  unfold State.scatterStart
  repeat' (first | with_reducible assumption | with_reducible apply State.noteTouches_kept | with_reducible apply State.setDesc_kept | (simp only [↓kept_mk]; first | with_reducible apply State.Kept.parts | with_reducible apply keptParts.mem | with_reducible apply keptParts.regs) | dsimp only | split | (intro))

theorem State.scatterPlan_kept (s : State) (d : Desc) (h_s : s.Kept) : (State.scatterPlan s d).Kept := by
  unfold State.scatterPlan
  repeat' (first | with_reducible assumption | with_reducible apply State.record_kept | with_reducible apply State.planFail_kept | with_reducible apply State.scatterStart_kept | with_reducible apply State.attempt_kept | with_reducible apply State.recordReject_kept | with_reducible apply State.incSat_kept | with_reducible apply State.endDesc_kept | with_reducible apply State.setDesc_kept | with_reducible exact AllOk.error | with_reducible apply AllOk.ok | simp only [↓doneKept_mk] | simp only [↓effKept_mk] | (simp only [↓kept_mk]; first | with_reducible apply State.Kept.parts | with_reducible apply keptParts.mem | with_reducible apply keptParts.regs) | dsimp only | split | (intro))

end Sys2Proof.Machine
end

