-- ==== Sys2Proof/Laws/KeptInvalidate.lean ====
section
/-! SUPPORT. The functions of Invalidate keep the canonical form of the state. -/

set_option linter.unusedTactic false
set_option linter.unreachableTactic false
set_option simprocs false

namespace Sys2Proof.Machine

theorem State.startInval_kept (s : State) (slice base len : Nat) (all abort : Bool) (key : Option DKey) (h_s : s.Kept) : (State.startInval s slice base len all abort key).Kept := by
  unfold State.startInval
  repeat' (first | with_reducible assumption | with_reducible apply State.dropXlate_kept | with_reducible apply State.setFld_kept | with_reducible apply State.reapInvals_kept | (simp only [↓kept_mk]; first | with_reducible apply State.Kept.parts | with_reducible apply keptParts.mem | with_reducible apply keptParts.regs) | dsimp only | split | (intro))

theorem State.rootWrite_kept (s : State) (slice : Nat) (w : Word) (h_s : s.Kept) : (State.rootWrite s slice w).Kept := by
  unfold State.rootWrite
  repeat' (first | with_reducible assumption | with_reducible apply State.setFldAt_kept | with_reducible apply State.incSat_kept | with_reducible apply State.startInval_kept | (simp only [↓kept_mk]; first | with_reducible apply State.Kept.parts | with_reducible apply keptParts.mem | with_reducible apply keptParts.regs) | dsimp only | split | (intro))

theorem State.migRingWrite_kept (s : State) (w : Word) (h_s : s.Kept) : (State.migRingWrite s w).Kept := by
  unfold State.migRingWrite
  repeat' (first | with_reducible assumption | with_reducible apply State.setFld_kept | with_reducible apply State.plainWrite_kept | (simp only [↓kept_mk]; first | with_reducible apply State.Kept.parts | with_reducible apply keptParts.mem | with_reducible apply keptParts.regs) | dsimp only | split | (intro))

theorem State.migIdxWrite_kept (s : State) (w : Word) (h_s : s.Kept) : (State.migIdxWrite s w).Kept := by
  unfold State.migIdxWrite
  repeat' (first | with_reducible assumption | with_reducible apply State.setFld_kept | (simp only [↓kept_mk]; first | with_reducible apply State.Kept.parts | with_reducible apply keptParts.mem | with_reducible apply keptParts.regs) | dsimp only | split | (intro))

end Sys2Proof.Machine
end

