-- ==== Sys2Proof/Laws/KeptContain.lean ====
section
/-! SUPPORT. The functions of Contain keep the canonical form of the state. -/

set_option linter.unusedTactic false
set_option linter.unreachableTactic false
set_option simprocs false

namespace Sys2Proof.Machine

theorem State.stopSlice_kept (s : State) (slice : Nat) (f : Fail) (h_s : s.Kept) : (State.stopSlice s slice f).Kept := by
  unfold State.stopSlice
  repeat' (first | with_reducible assumption | with_reducible apply State.stopDesc_kept | with_reducible apply forL_kept | (simp only [↓kept_mk]; first | with_reducible apply State.Kept.parts | with_reducible apply keptParts.mem | with_reducible apply keptParts.regs) | dsimp only | split | (intro))

theorem State.abortSlice_kept (s : State) (job origin trigger slice : Nat) (h_s : s.Kept) : (State.abortSlice s job origin trigger slice).Kept := by
  unfold State.abortSlice
  repeat' (first | with_reducible assumption | with_reducible apply State.stopSlice_kept | with_reducible apply State.reapStop_kept | with_reducible apply State.setFldAt_kept | (simp only [↓kept_mk]; first | with_reducible apply State.Kept.parts | with_reducible apply keptParts.mem | with_reducible apply keptParts.regs) | dsimp only | split | (intro))

theorem State.takeAbort_kept (s : State) (job origin trigger id : Nat) (h_s : s.Kept) : (State.takeAbort s job origin trigger id).Kept := by
  unfold State.takeAbort
  repeat' (first | with_reducible assumption | with_reducible apply State.reapStop_kept | with_reducible apply State.setFldAt_kept | with_reducible apply State.incSat_kept | with_reducible apply State.stopSlice_kept | with_reducible apply State.abortSlice_kept | with_reducible apply forL_kept | (simp only [↓kept_mk]; first | with_reducible apply State.Kept.parts | with_reducible apply keptParts.mem | with_reducible apply keptParts.regs) | dsimp only | split | (intro))

theorem State.originAbort_kept (s : State) (job trigger detail : Nat) (h_s : s.Kept) : (State.originAbort s job trigger detail).Kept := by
  unfold State.originAbort
  repeat' (first | with_reducible assumption | with_reducible apply State.sendQf_kept | with_reducible apply State.setFld_kept | with_reducible apply State.takeAbort_kept | with_reducible apply forL_kept | (simp only [↓kept_mk]; first | with_reducible apply State.Kept.parts | with_reducible apply keptParts.mem | with_reducible apply keptParts.regs) | dsimp only | split | (intro))

theorem State.sliceQuiet_kept (s : State) (slice : Nat) (h_s : s.Kept) : (State.sliceQuiet s slice).Kept := by
  unfold State.sliceQuiet
  repeat' (first | with_reducible assumption | with_reducible apply State.setFldAt_kept | with_reducible apply State.abortSlice_kept | with_reducible apply forL_kept | (simp only [↓kept_mk]; first | with_reducible apply State.Kept.parts | with_reducible apply keptParts.mem | with_reducible apply keptParts.regs) | dsimp only | split | (intro))

theorem State.jobAbortWrite_kept (s : State) (w : Word) (h_s : s.Kept) : (State.jobAbortWrite s w).Kept := by
  unfold State.jobAbortWrite
  repeat' (first | with_reducible assumption | with_reducible apply State.incSat_kept | with_reducible apply State.originAbort_kept | (simp only [↓kept_mk]; first | with_reducible apply State.Kept.parts | with_reducible apply keptParts.mem | with_reducible apply keptParts.regs) | dsimp only | split | (intro))

theorem State.tellLeader_kept (s : State) (r : Report) (h_s : s.Kept) : (State.tellLeader s r).Kept := by
  unfold State.tellLeader
  repeat' (first | with_reducible assumption | with_reducible apply State.sendMap_kept | (simp only [↓kept_mk]; first | with_reducible apply State.Kept.parts | with_reducible apply keptParts.mem | with_reducible apply keptParts.regs) | dsimp only | split | (intro))

theorem State.tellPorts_kept (s old : State) (h_s : s.Kept) (h_old : old.Kept) : (State.tellPorts s old).Kept := by
  unfold State.tellPorts
  repeat' (first | with_reducible assumption | with_reducible apply State.tellLeader_kept | (simp only [↓kept_mk]; first | with_reducible apply State.Kept.parts | with_reducible apply keptParts.mem | with_reducible apply keptParts.regs) | dsimp only | split | (intro))

theorem State.dropClientWork_kept (s : State) (k : Nat) (h_s : s.Kept) : (State.dropClientWork s k).Kept := by
  unfold State.dropClientWork
  repeat' (first | with_reducible assumption | with_reducible apply State.access_kept | (simp only [↓kept_mk]; first | with_reducible apply State.Kept.parts | with_reducible apply keptParts.mem | with_reducible apply keptParts.regs) | dsimp only | split | (intro))

theorem State.answerOwed_kept (s : State) (k : Nat) (h_s : s.Kept) : (State.answerOwed s k).Kept := by
  unfold State.answerOwed
  repeat' (first | with_reducible assumption | with_reducible apply State.finishHomes_kept | with_reducible apply State.respond_kept | with_reducible apply State.answered_kept | with_reducible apply State.reapSweeps_kept | with_reducible apply State.pumpAsks_kept | with_reducible apply forL_kept | (simp only [↓kept_mk]; first | with_reducible apply State.Kept.parts | with_reducible apply keptParts.mem | with_reducible apply keptParts.regs) | dsimp only | split | (intro))

theorem State.faultRingsOf_kept (s : State) (k : Nat) (h_s : s.Kept) : (State.faultRingsOf s k).Kept := by
  unfold State.faultRingsOf
  repeat' (first | with_reducible assumption | with_reducible apply State.ringAnswered_kept | with_reducible apply State.stopDesc_kept | with_reducible apply State.faultRing_kept | with_reducible apply forL_kept | (simp only [↓kept_mk]; first | with_reducible apply State.Kept.parts | with_reducible apply keptParts.mem | with_reducible apply keptParts.regs) | dsimp only | split | (intro))

theorem State.cutClient_kept (s : State) (k cause : Nat) (h_s : s.Kept) : (State.cutClient s k cause).Kept := by
  unfold State.cutClient
  repeat' (first | with_reducible assumption | with_reducible apply Eff.write_kept | with_reducible apply State.lose_kept | with_reducible apply State.incSatAt_kept | with_reducible apply State.answerOwed_kept | with_reducible apply State.retryFills_kept | with_reducible apply State.dropClientWork_kept | with_reducible apply State.setFldAt_kept | with_reducible apply State.faultRingsOf_kept | with_reducible apply State.raise_kept | with_reducible apply State.writebackFailed_kept | with_reducible apply State.reapInvals_kept | with_reducible apply State.tellLeader_kept | with_reducible apply State.tellPorts_kept | with_reducible apply forL_kept | (simp only [↓kept_mk]; first | with_reducible apply State.Kept.parts | with_reducible apply keptParts.mem | with_reducible apply keptParts.regs) | dsimp only | split | (intro))

theorem State.killPort_kept (s : State) (k cause : Nat) (h_s : s.Kept) : (State.killPort s k cause).Kept := by
  unfold State.killPort
  repeat' (first | with_reducible assumption | with_reducible apply State.originAbort_kept | with_reducible apply State.cutClient_kept | (simp only [↓kept_mk]; first | with_reducible apply State.Kept.parts | with_reducible apply keptParts.mem | with_reducible apply keptParts.regs) | dsimp only | split | (intro))

theorem State.killWrite_kept (s : State) (k : Nat) (h_s : s.Kept) : (State.killWrite s k).Kept := by
  unfold State.killWrite
  repeat' (first | with_reducible assumption | with_reducible apply State.setFldAt_kept | with_reducible apply State.killPort_kept | with_reducible apply State.incSatAt_kept | (simp only [↓kept_mk]; first | with_reducible apply State.Kept.parts | with_reducible apply keptParts.mem | with_reducible apply keptParts.regs) | dsimp only | split | (intro))

theorem State.unmatched_kept (s : State) (k : Nat) (h_s : s.Kept) : (State.unmatched s k).Kept := by
  unfold State.unmatched
  repeat' (first | with_reducible assumption | with_reducible apply State.killPort_kept | (simp only [↓kept_mk]; first | with_reducible apply State.Kept.parts | with_reducible apply keptParts.mem | with_reducible apply keptParts.regs) | dsimp only | split | (intro))

theorem State.fenceSelf_kept (s : State) (epoch : Nat) (h_s : s.Kept) : (State.fenceSelf s epoch).Kept := by
  unfold State.fenceSelf
  repeat' (first | with_reducible assumption | with_reducible apply State.cutClient_kept | with_reducible apply State.stopDesc_kept | with_reducible apply State.setFld_kept | with_reducible apply State.raise_kept | with_reducible apply State.originAbort_kept | with_reducible apply forN_kept | with_reducible apply forL_kept | (simp only [↓kept_mk]; first | with_reducible apply State.Kept.parts | with_reducible apply keptParts.mem | with_reducible apply keptParts.regs) | dsimp only | split | (intro))

end Sys2Proof.Machine
end

