-- ==== Sys2Proof/Laws/KeptLinks.lean ====
section
/-! SUPPORT. The functions of Links keep the canonical form of the state. -/

set_option linter.unusedTactic false
set_option linter.unreachableTactic false
set_option simprocs false

namespace Sys2Proof.Machine

theorem State.mirrorPkt_kept (s : State) (port dir : Nat) (p : Pkt) (h_s : s.Kept) : (State.mirrorPkt s port dir p).Kept := by
  unfold State.mirrorPkt
  repeat' (first | with_reducible assumption | with_reducible apply State.addWrap_kept | with_reducible apply State.incSat_kept | with_reducible apply State.take_kept | (simp only [↓kept_mk]; first | with_reducible apply State.Kept.parts | with_reducible apply keptParts.mem | with_reducible apply keptParts.regs) | dsimp only | split | (intro))

theorem State.qfLost_kept (s : State) (q lanes : Nat) (h_s : s.Kept) : (State.qfLost s q lanes).Kept := by
  unfold State.qfLost
  repeat' (first | with_reducible assumption | with_reducible apply State.setFldAt_kept | with_reducible apply State.freeQueued_kept | with_reducible apply State.raise_kept | with_reducible apply State.incSatAt_kept | with_reducible apply forL_kept | (simp only [↓kept_mk]; first | with_reducible apply State.Kept.parts | with_reducible apply keptParts.mem | with_reducible apply keptParts.regs) | dsimp only | split | (intro))

theorem State.qfDown_kept (s : State) (q lanes : Nat) (h_s : s.Kept) : (State.qfDown s q lanes).Kept := by
  unfold State.qfDown
  repeat' (first | with_reducible assumption | with_reducible apply State.qfLost_kept | with_reducible apply State.tellLeader_kept | (simp only [↓kept_mk]; first | with_reducible apply State.Kept.parts | with_reducible apply keptParts.mem | with_reducible apply keptParts.regs) | dsimp only | split | (intro))

theorem State.klDown_kept (s : State) (k : Nat) (h_s : s.Kept) : (State.klDown s k).Kept := by
  unfold State.klDown
  repeat' (first | with_reducible assumption | with_reducible apply State.answerOwed_kept | with_reducible apply State.setFldAt_kept | with_reducible apply State.dropClientWork_kept | with_reducible apply State.raise_kept | with_reducible apply State.tellPorts_kept | (simp only [↓kept_mk]; first | with_reducible apply State.Kept.parts | with_reducible apply keptParts.mem | with_reducible apply keptParts.regs) | dsimp only | split | (intro))

theorem State.linkDown_kept (s : State) (port lanes : Nat) (h_s : s.Kept) : (State.linkDown s port lanes).Kept := by
  unfold State.linkDown
  repeat' (first | with_reducible assumption | with_reducible apply State.klDown_kept | with_reducible apply State.qfDown_kept | (simp only [↓kept_mk]; first | with_reducible apply State.Kept.parts | with_reducible apply keptParts.mem | with_reducible apply keptParts.regs) | dsimp only | split | (intro))

theorem State.pktIn_kept (s : State) (port : Nat) (p : Pkt) (h_s : s.Kept) : (State.pktIn s port p).Kept := by
  unfold State.pktIn
  repeat' (first | with_reducible assumption | with_reducible apply State.mirrorPkt_kept | with_reducible apply State.obs_kept | (simp only [↓kept_mk]; first | with_reducible apply State.Kept.parts | with_reducible apply keptParts.mem | with_reducible apply keptParts.regs) | dsimp only | split | (intro))

theorem State.blockIn_kept (s : State) (port : Nat) (l : Link) (b : LinkBlock) (h_s : s.Kept) : (State.blockIn s port l b).Kept := by
  unfold State.blockIn
  repeat' (first | with_reducible assumption | with_reducible apply State.pktIn_kept | with_reducible apply State.linkDown_kept | with_reducible apply State.ask_kept | with_reducible apply State.obs_kept | with_reducible apply State.setLink_kept | with_reducible apply State.incSatAt_kept | with_reducible apply forL_kept | with_reducible apply foldl_kept | with_reducible refine PairKept.elim (by with_reducible assumption) ?_ | with_reducible apply foldl_pairKept | (simp only [↓kept_mk]; first | with_reducible apply State.Kept.parts | with_reducible apply keptParts.mem | with_reducible apply keptParts.regs) | dsimp only | split | with_reducible apply PairKept.pair | (intro))

theorem State.countOut_kept (s : State) (port : Nat) (q : Queued) (below : Bool) (h_s : s.Kept) : (State.countOut s port q below).Kept := by
  unfold State.countOut
  repeat' (first | with_reducible assumption | with_reducible apply State.serve_kept | with_reducible apply State.setShare_kept | (simp only [↓kept_mk]; first | with_reducible apply State.Kept.parts | with_reducible apply keptParts.mem | with_reducible apply keptParts.regs) | dsimp only | split | (intro))

theorem State.fillBlock_kept (s : State) (port : Nat) (h_s : s.Kept) : ∀ y0 y1 y2, PairKept (State.fillBlock s port y0 y1 y2) := by
  intro fuel
  induction fuel generalizing s with
  | zero => intro used acc; exact PairKept.pair h_s
  | succ fuel ih =>
    intro used acc
    unfold State.fillBlock
    split
    · exact PairKept.pair h_s
    · split
      · exact PairKept.pair h_s
      · split
        · exact PairKept.pair h_s
        · extract_lets l1 s0 s1 s2
          have h2 : s2.Kept := by
            refine State.obs_kept _ _ _ _ _ _ (State.mirrorPkt_kept _ _ _ _ (State.freeQueued_kept _ _ ?_))
            simp only [s1, s0, ↓kept_mk]
            exact State.Kept.parts (State.setLink_kept _ _ (State.countOut_kept _ _ _ _ h_s))
          split
          · split
            · exact PairKept.pair (State.setLink_kept _ _ h2)
            · exact PairKept.pair h2
          · exact ih _ h2 _ _

theorem State.newBlock_kept (s : State) (port : Nat) (l : Link) (h_s : s.Kept) : (State.newBlock s port l).Kept := by
  unfold State.newBlock
  extract_lets l0
  split
  split
  rename_i s1 pkts heq
  have h1 : s1.Kept := PairKept.elim heq (State.fillBlock_kept _ _ (State.setLink_kept _ _ h_s) _ _ _)
  split
  · exact h1
  · exact State.setLink_kept _ _ h1

theorem State.killBlock_kept (s : State) (port : Nat) (l : Link) (h_s : s.Kept) : (State.killBlock s port l).Kept := by
  unfold State.killBlock
  repeat' (first | with_reducible assumption | with_reducible apply State.setLink_kept | (simp only [↓kept_mk]; first | with_reducible apply State.Kept.parts | with_reducible apply keptParts.mem | with_reducible apply keptParts.regs) | dsimp only | split | (intro))

theorem State.refuseQf_kept (s : State) (q cause : Nat) (h_s : s.Kept) : (State.refuseQf s q cause).Kept := by
  unfold State.refuseQf
  repeat' (first | with_reducible assumption | with_reducible apply State.setFldAt_kept | with_reducible apply State.raise_kept | (simp only [↓kept_mk]; first | with_reducible apply State.Kept.parts | with_reducible apply keptParts.mem | with_reducible apply keptParts.regs) | dsimp only | split | (intro))

theorem State.tellUp_kept (s : State) (m : FMap) (port dev peerPort : Nat) (h_s : s.Kept) : (State.tellUp s m port dev peerPort).Kept := by
  unfold State.tellUp
  repeat' (first | with_reducible assumption | with_reducible apply State.tellLeader_kept | (simp only [↓kept_mk]; first | with_reducible apply State.Kept.parts | with_reducible apply keptParts.mem | with_reducible apply keptParts.regs) | dsimp only | split | (intro))

end Sys2Proof.Machine
end

