-- ==== Sys2Proof/Laws/KeptFabric.lean ====
section
/-! SUPPORT. The functions of Fabric keep the canonical form of the state. -/

set_option linter.unusedTactic false
set_option linter.unreachableTactic false
set_option simprocs false

namespace Sys2Proof.Machine

theorem State.arrive_kept (s0 : State) (p : QPkt) (bad : Option Nat) (run : State → State) (h_s0 : s0.Kept) (h_run : ∀ x0, x0.Kept → (run x0).Kept) : (State.arrive s0 p bad run).Kept := by
  unfold State.arrive
  repeat' (first | with_reducible assumption | with_reducible apply State.incSat_kept | with_reducible apply State.takeRx_kept | with_reducible apply State.respondErr_kept | with_reducible apply h_run | (simp only [↓kept_mk]; first | with_reducible apply State.Kept.parts | with_reducible apply keptParts.mem | with_reducible apply keptParts.regs) | dsimp only | split | (intro))

theorem State.letGo_kept (s : State) (p : QPkt) (h_s : s.Kept) : (State.letGo s p).Kept := by
  unfold State.letGo
  repeat' (first | with_reducible assumption | with_reducible apply State.reapRegions_kept | with_reducible apply State.gc_kept | with_reducible apply PairKept.fst | with_reducible refine PairKept.elim (by with_reducible assumption) ?_ | (simp only [↓kept_mk]; first | with_reducible apply State.Kept.parts | with_reducible apply keptParts.mem | with_reducible apply keptParts.regs) | dsimp only | split | with_reducible apply PairKept.pair | (intro))

theorem State.bulkRef_kept (s : State) (p : QPkt) (r : Nat × Nat × Nat) (keep : State) (h_s : s.Kept) (h_keep : keep.Kept) : (State.bulkRef s p r keep).Kept := by
  unfold State.bulkRef
  repeat' (first | with_reducible assumption | with_reducible apply State.respond_kept | with_reducible apply State.startNeeds_kept | with_reducible apply State.respondErr_kept | with_reducible apply State.keep_kept | with_reducible apply State.letGo_kept | (simp only [↓kept_mk]; first | with_reducible apply State.Kept.parts | with_reducible apply keptParts.mem | with_reducible apply keptParts.regs) | dsimp only | split | (intro))

theorem State.forwardQf_kept (s : State) (input : Nat) (p : QPkt) (h_s : s.Kept) : (State.forwardQf s input p).Kept := by
  unfold State.forwardQf
  repeat' (first | with_reducible assumption | with_reducible apply State.freeCells_kept | with_reducible apply State.incSat_kept | with_reducible apply State.raise_kept | with_reducible apply State.respondErr_kept | (simp only [↓kept_mk]; first | with_reducible apply State.Kept.parts | with_reducible apply keptParts.mem | with_reducible apply keptParts.regs) | dsimp only | split | (intro))

theorem State.forwardMap_kept (s : State) (input src dest epoch : Nat) (m : MapMsg) (hops dl tag : Nat) (h_s : s.Kept) : (State.forwardMap s input src dest epoch m hops dl tag).Kept := by
  unfold State.forwardMap
  repeat' (first | with_reducible assumption | with_reducible apply State.freeCells_kept | with_reducible apply State.incSat_kept | with_reducible apply State.raise_kept | (simp only [↓kept_mk]; first | with_reducible apply State.Kept.parts | with_reducible apply keptParts.mem | with_reducible apply keptParts.regs) | dsimp only | split | (intro))

theorem State.dropReq_kept (s : State) (o : OutReq) (h_s : s.Kept) : (State.dropReq s o).Kept := by
  unfold State.dropReq
  repeat' (first | with_reducible assumption | with_reducible apply State.pumpStale_kept | with_reducible apply State.pumpRsp_kept | (simp only [↓kept_mk]; first | with_reducible apply State.Kept.parts | with_reducible apply keptParts.mem | with_reducible apply keptParts.regs) | dsimp only | split | (intro))

theorem State.answerSample_kept (s : State) (o : OutReq) (status : Nat) (h_s : s.Kept) : (State.answerSample s o status).Kept := by
  unfold State.answerSample
  repeat' (first | with_reducible assumption | with_reducible apply State.scriv_kept | (simp only [↓kept_mk]; first | with_reducible apply State.Kept.parts | with_reducible apply keptParts.mem | with_reducible apply keptParts.regs) | dsimp only | split | (intro))

theorem State.failUnit_kept (s : State) (k : DKey) (unit : Nat) (f : Fail) (h_s : s.Kept) : (State.failUnit s k unit f).Kept := by
  unfold State.failUnit
  repeat' (first | with_reducible assumption | with_reducible apply State.endDesc_kept | with_reducible apply State.setDesc_kept | (simp only [↓kept_mk]; first | with_reducible apply State.Kept.parts | with_reducible apply keptParts.mem | with_reducible apply keptParts.regs) | dsimp only | split | (intro))

theorem State.homeAnswer_kept (s : State) (k : DKey) (f : Fail) (progress : Nat) (h_s : s.Kept) : (State.homeAnswer s k f progress).Kept := by
  unfold State.homeAnswer
  repeat' (first | with_reducible assumption | with_reducible apply State.endDesc_kept | (simp only [↓kept_mk]; first | with_reducible apply State.Kept.parts | with_reducible apply keptParts.mem | with_reducible apply keptParts.regs) | dsimp only | split | (intro))

theorem State.deliver_kept (s : State) (o : OutReq) (r : Except Fail (List Byte × Bool)) (h_s : s.Kept) : (State.deliver s o r).Kept := by
  unfold State.deliver
  repeat' (first | with_reducible assumption | with_reducible apply State.partDone_kept | with_reducible apply State.ringAnswered_kept | with_reducible apply State.failUnit_kept | with_reducible apply State.answerErr_kept | with_reducible apply State.homeAnswer_kept | with_reducible apply State.reapInvals_kept | with_reducible apply State.answer_kept | with_reducible apply State.faultRing_kept | (simp only [↓kept_mk]; first | with_reducible apply State.Kept.parts | with_reducible apply keptParts.mem | with_reducible apply keptParts.regs) | dsimp only | split | (intro))

theorem State.response_kept (s0 : State) (p : QPkt) (fits : OutReq → Bool) (give : State → OutReq → State) (h_s0 : s0.Kept) (h_give : ∀ x0 x1, x0.Kept → (give x0 x1).Kept) : (State.response s0 p fits give).Kept := by
  unfold State.response
  repeat' (first | with_reducible assumption | with_reducible apply State.incSat_kept | with_reducible apply State.answerSample_kept | with_reducible apply State.takeRx_kept | with_reducible apply State.dropReq_kept | with_reducible apply h_give | (simp only [↓kept_mk]; first | with_reducible apply State.Kept.parts | with_reducible apply keptParts.mem | with_reducible apply keptParts.regs) | dsimp only | split | (intro))

theorem State.resend_kept (s : State) (o : OutReq) (h_s : s.Kept) : (State.resend s o).Kept := by
  unfold State.resend
  repeat' (first | with_reducible assumption | with_reducible apply State.pumpStale_kept | with_reducible apply State.deliver_kept | with_reducible apply State.dropReq_kept | (simp only [↓kept_mk]; first | with_reducible apply State.Kept.parts | with_reducible apply keptParts.mem | with_reducible apply keptParts.regs) | dsimp only | split | (intro))

theorem State.endRefused_kept (s : State) (h_s : s.Kept) : (State.endRefused s).Kept := by
  unfold State.endRefused
  repeat' (first | with_reducible assumption | with_reducible apply State.deliver_kept | with_reducible apply State.dropReq_kept | with_reducible apply forL_kept | (simp only [↓kept_mk]; first | with_reducible apply State.Kept.parts | with_reducible apply keptParts.mem | with_reducible apply keptParts.regs) | dsimp only | split | (intro))

end Sys2Proof.Machine
end

