-- ==== Sys2Proof/Laws/KeptKeepers.lean ====
section
/-! SUPPORT. The functions of Keepers keep the canonical form of the state. -/

set_option linter.unusedTactic false
set_option linter.unreachableTactic false
set_option simprocs false

namespace Sys2Proof.Machine

theorem State.relay_kept (s : State) (src : Nat) (m : MapMsg) (h_s : s.Kept) : (State.relay s src m).Kept := by
  unfold State.relay
  repeat' (first | with_reducible assumption | with_reducible apply State.floodAs_kept | (simp only [↓kept_mk]; first | with_reducible apply State.Kept.parts | with_reducible apply keptParts.mem | with_reducible apply keptParts.regs) | dsimp only | split | (intro))

theorem State.toKeepers_kept (s : State) (m : MapMsg) (h_s : s.Kept) : (State.toKeepers s m).Kept := by
  unfold State.toKeepers
  repeat' (first | with_reducible assumption | with_reducible apply State.relay_kept | with_reducible apply State.sendMap_kept | with_reducible apply forL_kept | (simp only [↓kept_mk]; first | with_reducible apply State.Kept.parts | with_reducible apply keptParts.mem | with_reducible apply keptParts.regs) | dsimp only | split | (intro))

theorem State.toKeeper_kept (s : State) (place : Nat) (m : MapMsg) (h_s : s.Kept) : (State.toKeeper s place m).Kept := by
  unfold State.toKeeper
  repeat' (first | with_reducible assumption | with_reducible apply State.relay_kept | with_reducible apply State.sendMap_kept | (simp only [↓kept_mk]; first | with_reducible apply State.Kept.parts | with_reducible apply keptParts.mem | with_reducible apply keptParts.regs) | dsimp only | split | (intro))

theorem State.flood_kept (s : State) (m : Option FMap) (root : Nat) (msg : MapMsg) (h_s : s.Kept) : (State.flood s m root msg).Kept := by
  unfold State.flood
  repeat' (first | with_reducible assumption | with_reducible apply State.enqueue_kept | with_reducible apply State.floodMap_kept | with_reducible apply forL_kept | (simp only [↓kept_mk]; first | with_reducible apply State.Kept.parts | with_reducible apply keptParts.mem | with_reducible apply keptParts.regs) | dsimp only | split | (intro))

theorem State.learnNode_kept (s : State) (m : FMap) (h_s : s.Kept) : (State.learnNode s m).Kept := by
  unfold State.learnNode
  repeat' (first | with_reducible assumption | with_reducible apply State.setFld_kept | (simp only [↓kept_mk]; first | with_reducible apply State.Kept.parts | with_reducible apply keptParts.mem | with_reducible apply keptParts.regs) | dsimp only | split | (intro))

theorem State.showMap_kept (s : State) (m : FMap) (h_s : s.Kept) : (State.showMap s m).Kept := by
  unfold State.showMap
  repeat' (first | with_reducible assumption | with_reducible apply State.setFldAt_kept | with_reducible apply State.setFld_kept | with_reducible apply forN_kept | (simp only [↓kept_mk]; first | with_reducible apply State.Kept.parts | with_reducible apply keptParts.mem | with_reducible apply keptParts.regs) | dsimp only | split | (intro))

theorem State.lostHolders_kept (s : State) (m : FMap) (h_s : s.Kept) : (State.lostHolders s m).Kept := by
  unfold State.lostHolders
  repeat' (first | with_reducible assumption | with_reducible apply State.finishHomes_kept | with_reducible apply State.answered_kept | with_reducible apply State.reapSweeps_kept | with_reducible apply State.pumpAsks_kept | with_reducible apply forL_kept | (simp only [↓kept_mk]; first | with_reducible apply State.Kept.parts | with_reducible apply keptParts.mem | with_reducible apply keptParts.regs) | dsimp only | split | (intro))

theorem State.lostLookups_kept (s : State) (m : FMap) (h_s : s.Kept) : (State.lostLookups s m).Kept := by
  unfold State.lostLookups
  repeat' (first | with_reducible assumption | with_reducible apply State.reapRegions_kept | with_reducible apply State.gc_kept | with_reducible apply PairKept.fst | with_reducible refine PairKept.elim (by with_reducible assumption) ?_ | (simp only [↓kept_mk]; first | with_reducible apply State.Kept.parts | with_reducible apply keptParts.mem | with_reducible apply keptParts.regs) | dsimp only | split | with_reducible apply PairKept.pair | (intro))

theorem State.reapRevoked_kept (s : State) (m : FMap) (h_s : s.Kept) : (State.reapRevoked s m).Kept := by
  unfold State.reapRevoked
  repeat' (first | with_reducible assumption | with_reducible apply State.setFld_kept | (simp only [↓kept_mk]; first | with_reducible apply State.Kept.parts | with_reducible apply keptParts.mem | with_reducible apply keptParts.regs) | dsimp only | split | (intro))

theorem State.endCompose_kept (s : State) (status node : Nat) (h_s : s.Kept) : (State.endCompose s status node).Kept := by
  unfold State.endCompose
  repeat' (first | with_reducible assumption | with_reducible apply State.setFld_kept | (simp only [↓kept_mk]; first | with_reducible apply State.Kept.parts | with_reducible apply keptParts.mem | with_reducible apply keptParts.regs) | dsimp only | split | (intro))

theorem State.endGranted_kept (s : State) (h_s : s.Kept) : (State.endGranted s).Kept := by
  unfold State.endGranted
  repeat' (first | with_reducible assumption | with_reducible apply State.endCompose_kept | with_reducible apply State.setFld_kept | (simp only [↓kept_mk]; first | with_reducible apply State.Kept.parts | with_reducible apply keptParts.mem | with_reducible apply keptParts.regs) | dsimp only | split | (intro))

theorem State.tellNewLinks_kept (s : State) (m : FMap) (h_s : s.Kept) : (State.tellNewLinks s m).Kept := by
  unfold State.tellNewLinks
  repeat' (first | with_reducible assumption | with_reducible apply State.tellUp_kept | with_reducible apply forN_kept | (simp only [↓kept_mk]; first | with_reducible apply State.Kept.parts | with_reducible apply keptParts.mem | with_reducible apply keptParts.regs) | dsimp only | split | (intro))

theorem State.applyMap_kept (s0 : State) (m : FMap) (h_s0 : s0.Kept) : (State.applyMap s0 m).Kept := by
  unfold State.applyMap
  repeat' (first | with_reducible assumption | with_reducible apply State.tellNewLinks_kept | with_reducible apply State.killPort_kept | with_reducible apply State.endRefused_kept | with_reducible apply State.lostLookups_kept | with_reducible apply State.endGranted_kept | with_reducible apply State.showMap_kept | with_reducible apply State.stopSlice_kept | with_reducible apply State.learnNode_kept | with_reducible apply State.lostHolders_kept | with_reducible apply State.fenceSelf_kept | with_reducible apply State.reapRevoked_kept | with_reducible apply forL_kept | with_reducible apply foldl_kept | with_reducible refine PairKept.elim (by with_reducible assumption) ?_ | with_reducible apply foldl_pairKept | (simp only [↓kept_mk]; first | with_reducible apply State.Kept.parts | with_reducible apply keptParts.mem | with_reducible apply keptParts.regs) | dsimp only | split | with_reducible apply PairKept.pair | (intro))

theorem State.refuseCompose_kept (s : State) (node status at_ : Nat) (h_s : s.Kept) : (State.refuseCompose s node status at_).Kept := by
  unfold State.refuseCompose
  repeat' (first | with_reducible assumption | with_reducible apply State.endCompose_kept | with_reducible apply State.sendMap_kept | (simp only [↓kept_mk]; first | with_reducible apply State.Kept.parts | with_reducible apply keptParts.mem | with_reducible apply keptParts.regs) | dsimp only | split | (intro))

theorem State.acceptCompose_kept (s : State) (node epoch job : Nat) (h_s : s.Kept) : (State.acceptCompose s node epoch job).Kept := by
  unfold State.acceptCompose
  repeat' (first | with_reducible assumption | with_reducible apply State.sendMap_kept | (simp only [↓kept_mk]; first | with_reducible apply State.Kept.parts | with_reducible apply keptParts.mem | with_reducible apply keptParts.regs) | dsimp only | split | (intro))

theorem State.leaderCommit_kept (s : State) (m : FMap) (h_s : s.Kept) : (State.leaderCommit s m).Kept := by
  unfold State.leaderCommit
  repeat' (first | with_reducible assumption | with_reducible apply State.flood_kept | with_reducible apply State.applyMap_kept | (simp only [↓kept_mk]; first | with_reducible apply State.Kept.parts | with_reducible apply keptParts.mem | with_reducible apply keptParts.regs) | dsimp only | split | (intro))

theorem State.drain_kept (s : State) (e : Nat) (h_s : s.Kept) : (State.drain s e).Kept := by
  unfold State.drain
  repeat' (first | with_reducible assumption | with_reducible apply State.response_kept | with_reducible apply State.freeCells_kept | with_reducible apply State.resend_kept | with_reducible apply State.incSat_kept | with_reducible apply State.forwardQf_kept | with_reducible apply State.freeQueued_kept | with_reducible apply State.respondErr_kept | with_reducible apply forL_kept | (simp only [↓kept_mk]; first | with_reducible apply State.Kept.parts | with_reducible apply keptParts.mem | with_reducible apply keptParts.regs) | dsimp only | split | (intro))

theorem State.drainOld_kept (s : State) (h_s : s.Kept) : (State.drainOld s).Kept := by
  unfold State.drainOld
  repeat' (first | with_reducible assumption | with_reducible apply State.drain_kept | (simp only [↓kept_mk]; first | with_reducible apply State.Kept.parts | with_reducible apply keptParts.mem | with_reducible apply keptParts.regs) | dsimp only | split | (intro))

theorem State.leaderPrepare_kept (s0 : State) (m : FMap) (h_s0 : s0.Kept) : (State.leaderPrepare s0 m).Kept := by
  unfold State.leaderPrepare
  repeat' (first | with_reducible assumption | with_reducible apply State.flood_kept | with_reducible apply State.drainOld_kept | with_reducible apply State.leaderCommit_kept | (simp only [↓kept_mk]; first | with_reducible apply State.Kept.parts | with_reducible apply keptParts.mem | with_reducible apply keptParts.regs) | dsimp only | split | (intro))

theorem State.leaderReplicate_kept (s : State) (m : FMap) (h_s : s.Kept) : (State.leaderReplicate s m).Kept := by
  unfold State.leaderReplicate
  repeat' (first | with_reducible assumption | with_reducible apply State.toKeepers_kept | with_reducible apply State.leaderPrepare_kept | (simp only [↓kept_mk]; first | with_reducible apply State.Kept.parts | with_reducible apply keptParts.mem | with_reducible apply keptParts.regs) | dsimp only | split | (intro))

theorem State.abortCut_kept (s : State) (m n : FMap) (c : Change) (h_s : s.Kept) : (State.abortCut s m n c).Kept := by
  unfold State.abortCut
  repeat' (first | with_reducible assumption | with_reducible apply State.originAbort_kept | with_reducible apply forL_kept | (simp only [↓kept_mk]; first | with_reducible apply State.Kept.parts | with_reducible apply keptParts.mem | with_reducible apply keptParts.regs) | dsimp only | split | (intro))

theorem State.startChange_kept (s : State) (c : Change) (h_s : s.Kept) : (State.startChange s c).Kept := by
  unfold State.startChange
  repeat' (first | with_reducible assumption | with_reducible apply State.abortCut_kept | with_reducible apply State.leaderReplicate_kept | (simp only [↓kept_mk]; first | with_reducible apply State.Kept.parts | with_reducible apply keptParts.mem | with_reducible apply keptParts.regs) | dsimp only | split | (intro))

theorem State.pumpFrom_kept (s : State) (l : List Change) (h_s : s.Kept) : (s.pumpFrom l).Kept := by
  induction l generalizing s with
  | nil =>
    unfold State.pumpFrom
    simp only [↓kept_mk]
    exact h_s.parts
  | cons c cs ih =>
    unfold State.pumpFrom
    extract_lets asked k s1 k2 s2
    have h1 : s1.Kept := by
      show s1.Kept
      simp only [s1, ↓kept_mk]
      exact h_s.parts
    have h2 : s2.Kept := by
      show s2.Kept
      simp only [s2, ↓kept_mk]
      exact h1.parts
    split
    · exact ih _ h1
    · split
      · exact ih _ (forL_kept _ _ _ h1 (fun r t ht => State.refuseCompose_kept _ _ _ _ ht))
      · exact State.startChange_kept _ _ (forL_kept _ _ _ h2 (fun r t ht => State.acceptCompose_kept _ _ _ _ ht))

theorem State.pump_kept (s : State) (h_s : s.Kept) : (State.pump s).Kept := by
  unfold State.pump
  repeat' (first | with_reducible assumption | with_reducible apply State.pumpFrom_kept | (simp only [↓kept_mk]; first | with_reducible apply State.Kept.parts | with_reducible apply keptParts.mem | with_reducible apply keptParts.regs) | dsimp only | split | (intro))

theorem State.addChange_kept (s : State) (c : Change) (h_s : s.Kept) : (State.addChange s c).Kept := by
  unfold State.addChange
  repeat' (first | with_reducible assumption | with_reducible apply State.pump_kept | (simp only [↓kept_mk]; first | with_reducible apply State.Kept.parts | with_reducible apply keptParts.mem | with_reducible apply keptParts.regs) | dsimp only | split | (intro))

theorem State.freshDomain_kept (s : State) (h_s : s.Kept) : (State.freshDomain s).Kept := by
  unfold State.freshDomain
  repeat' (first | with_reducible assumption | with_reducible apply State.setWord_kept | with_reducible apply State.alarmAdd_kept | with_reducible apply forN_kept | with_reducible apply forL_kept | (simp only [↓kept_mk]; first | with_reducible apply State.Kept.parts | with_reducible apply keptParts.mem | with_reducible apply keptParts.regs) | dsimp only | split | (intro))

theorem State.tryForm_kept (s : State) (h_s : s.Kept) : (State.tryForm s).Kept := by
  unfold State.tryForm
  repeat' (first | with_reducible assumption | with_reducible apply State.freshDomain_kept | with_reducible apply State.setFld_kept | with_reducible apply State.addChange_kept | (simp only [↓kept_mk]; first | with_reducible apply State.Kept.parts | with_reducible apply keptParts.mem | with_reducible apply keptParts.regs) | dsimp only | split | (intro))

theorem State.resendAlarms_kept (s : State) (h_s : s.Kept) : (State.resendAlarms s).Kept := by
  unfold State.resendAlarms
  repeat' (first | with_reducible assumption | with_reducible apply State.setWord_kept | with_reducible apply forL_kept | (simp only [↓kept_mk]; first | with_reducible apply State.Kept.parts | with_reducible apply keptParts.mem | with_reducible apply keptParts.regs) | dsimp only | split | (intro))

theorem State.retell_kept (s : State) (h_s : s.Kept) : (State.retell s).Kept := by
  unfold State.retell
  repeat' (first | with_reducible assumption | with_reducible apply State.resendAlarms_kept | with_reducible apply State.tellLeader_kept | with_reducible apply forL_kept | (simp only [↓kept_mk]; first | with_reducible apply State.Kept.parts | with_reducible apply keptParts.mem | with_reducible apply keptParts.regs) | dsimp only | split | (intro))

theorem State.becomeLeader_kept (s : State) (h_s : s.Kept) : (State.becomeLeader s).Kept := by
  unfold State.becomeLeader
  repeat' (first | with_reducible assumption | with_reducible apply State.freshDomain_kept | with_reducible apply State.setFld_kept | with_reducible apply State.leaderReplicate_kept | with_reducible apply State.tryForm_kept | with_reducible apply State.retell_kept | (simp only [↓kept_mk]; first | with_reducible apply State.Kept.parts | with_reducible apply keptParts.mem | with_reducible apply keptParts.regs) | dsimp only | split | (intro))

theorem State.seeTerm_kept (s : State) (term : Nat) (h_s : s.Kept) : (State.seeTerm s term).Kept := by
  unfold State.seeTerm
  repeat' (first | with_reducible assumption | with_reducible apply State.setFld_kept | (simp only [↓kept_mk]; first | with_reducible apply State.Kept.parts | with_reducible apply keptParts.mem | with_reducible apply keptParts.regs) | dsimp only | split | (intro))

theorem State.upTree_kept (s : State) (m : MapMsg) (h_s : s.Kept) : (State.upTree s m).Kept := by
  unfold State.upTree
  repeat' (first | with_reducible assumption | with_reducible apply State.enqueue_kept | with_reducible apply State.floodMap_kept | (simp only [↓kept_mk]; first | with_reducible apply State.Kept.parts | with_reducible apply keptParts.mem | with_reducible apply keptParts.regs) | dsimp only | split | (intro))

theorem State.ackUp_kept (s : State) (m : FMap) (h_s : s.Kept) : (State.ackUp s m).Kept := by
  unfold State.ackUp
  repeat' (first | with_reducible assumption | with_reducible apply State.enqueue_kept | (simp only [↓kept_mk]; first | with_reducible apply State.Kept.parts | with_reducible apply keptParts.mem | with_reducible apply keptParts.regs) | dsimp only | split | (intro))

theorem State.verdict_kept (s : State) (n : Nat) (c : Change) (h_s : s.Kept) : (State.verdict s n c).Kept := by
  unfold State.verdict
  repeat' (first | with_reducible assumption | with_reducible apply State.originAbort_kept | with_reducible apply State.addChange_kept | with_reducible apply forL_kept | (simp only [↓kept_mk]; first | with_reducible apply State.Kept.parts | with_reducible apply keptParts.mem | with_reducible apply keptParts.regs) | dsimp only | split | (intro))

theorem State.judgeCompose_kept (s : State) (node op mode job : Nat) (es : List JobSlice) (rsvdOk : Bool) (h_s : s.Kept) : (State.judgeCompose s node op mode job es rsvdOk).Kept := by
  unfold State.judgeCompose
  repeat' (first | with_reducible assumption | with_reducible apply State.refuseCompose_kept | with_reducible apply State.originAbort_kept | with_reducible apply State.addChange_kept | (simp only [↓kept_mk]; first | with_reducible apply State.Kept.parts | with_reducible apply keptParts.mem | with_reducible apply keptParts.regs) | dsimp only | split | (intro))

theorem State.admitDevice_kept (s : State) (m : FMap) (dev : Nat) (l : LinkEnt) (h_s : s.Kept) : (State.admitDevice s m dev l).Kept := by
  unfold State.admitDevice
  repeat' (first | with_reducible assumption | with_reducible apply State.addChange_kept | (simp only [↓kept_mk]; first | with_reducible apply State.Kept.parts | with_reducible apply keptParts.mem | with_reducible apply keptParts.regs) | dsimp only | split | (intro))

theorem State.takeReport_kept (s : State) (src : Nat) (r : Report) (h_s : s.Kept) : (State.takeReport s src r).Kept := by
  unfold State.takeReport
  repeat' (first | with_reducible assumption | with_reducible apply State.judgeCompose_kept | with_reducible apply State.addChange_kept | with_reducible apply State.sendMap_kept | with_reducible apply State.originAbort_kept | with_reducible apply State.admitDevice_kept | (simp only [↓kept_mk]; first | with_reducible apply State.Kept.parts | with_reducible apply keptParts.mem | with_reducible apply keptParts.regs) | dsimp only | split | (intro))

end Sys2Proof.Machine
end

