-- ==== Sys2Proof/Laws/KeptStore.lean ====
section
/-! SUPPORT. The functions of Store keep the canonical form of the state. -/

set_option linter.unusedTactic false
set_option linter.unreachableTactic false
set_option simprocs false

namespace Sys2Proof.Machine

theorem State.layStore_kept (s : State) (h_s : s.Kept) : (State.layStore s).Kept := by
  unfold State.layStore
  repeat' (first | with_reducible assumption | with_reducible apply State.setWord_kept | with_reducible apply State.setFld_kept | with_reducible apply State.raise_kept | with_reducible apply forN_kept | (simp only [↓kept_mk]; first | with_reducible apply State.Kept.parts | with_reducible apply keptParts.mem | with_reducible apply keptParts.regs) | dsimp only | split | (intro))

theorem State.loseCell_kept (s : State) (cell : Nat) (o : CellOwner) (h_s : s.Kept) : (State.loseCell s cell o).Kept := by
  unfold State.loseCell
  repeat' (first | with_reducible assumption | with_reducible apply State.setFldAt_kept | with_reducible apply State.incSat_kept | with_reducible apply State.setFld_kept | with_reducible apply State.raise_kept | (simp only [↓kept_mk]; first | with_reducible apply State.Kept.parts | with_reducible apply keptParts.mem | with_reducible apply keptParts.regs) | dsimp only | split | (intro))

theorem State.markCell_kept (s : State) (c : CellSeen) (m : CellMark) (h_s : s.Kept) : (State.markCell s c m).Kept := by
  unfold State.markCell
  repeat' (first | with_reducible assumption | (simp only [↓kept_mk]; first | with_reducible apply State.Kept.parts | with_reducible apply keptParts.mem | with_reducible apply keptParts.regs) | dsimp only | split | (intro))

theorem State.auditCell_kept (s : State) (c : CellSeen) (h_s : s.Kept) : (State.auditCell s c).Kept := by
  unfold State.auditCell
  repeat' (first | with_reducible assumption | with_reducible apply State.incSat_kept | with_reducible apply State.raise_kept | with_reducible apply State.markCell_kept | with_reducible apply State.loseCell_kept | (simp only [↓kept_mk]; first | with_reducible apply State.Kept.parts | with_reducible apply keptParts.mem | with_reducible apply keptParts.regs) | dsimp only | split | (intro))

theorem State.auditPass_kept (s : State) (found : List CellSeen) (diffs : List (Nat × Int)) (h_s : s.Kept) : (State.auditPass s found diffs).Kept := by
  unfold State.auditPass
  repeat' (first | with_reducible assumption | with_reducible apply State.incSat_kept | with_reducible apply State.takeNat_kept | with_reducible apply State.auditCell_kept | with_reducible apply State.raise_kept | with_reducible apply forL_kept | with_reducible apply SndKept.snd | with_reducible refine SndKept.elim (by with_reducible assumption) ?_ | (simp only [↓kept_mk]; first | with_reducible apply State.Kept.parts | with_reducible apply keptParts.mem | with_reducible apply keptParts.regs) | dsimp only | split | with_reducible apply SndKept.pair | (intro))

theorem State.mirrorWrite_kept (s : State) (port : Nat) (w : Word) (h_s : s.Kept) : (State.mirrorWrite s port w).Kept := by
  unfold State.mirrorWrite
  repeat' (first | with_reducible assumption | with_reducible apply State.plainWrite_kept | (simp only [↓kept_mk]; first | with_reducible apply State.Kept.parts | with_reducible apply keptParts.mem | with_reducible apply keptParts.regs) | dsimp only | split | (intro))

end Sys2Proof.Machine
end

