-- ==== Sys2Proof/Laws/KeptSlices.lean ====
section
/-! SUPPORT. The functions of Slices keep the canonical form of the state. -/

set_option linter.unusedTactic false
set_option linter.unreachableTactic false
set_option simprocs false

namespace Sys2Proof.Machine

theorem State.releaseGrants_kept (s : State) (slice : Nat) (h_s : s.Kept) : (State.releaseGrants s slice).Kept := by
  unfold State.releaseGrants
  repeat' (first | with_reducible assumption | with_reducible apply State.setWord_kept | (simp only [↓kept_mk]; first | with_reducible apply State.Kept.parts | with_reducible apply keptParts.mem | with_reducible apply keptParts.regs) | dsimp only | split | (intro))

theorem State.sliceWrite_kept (s : State) (off slice : Nat) (w : Word) (h_s : s.Kept) : (State.sliceWrite s off slice w).Kept := by
  unfold State.sliceWrite
  repeat' (first | with_reducible assumption | with_reducible apply State.setFldAt_kept | with_reducible apply State.releaseGrants_kept | with_reducible apply State.plainWrite_kept | with_reducible apply State.tellLeader_kept | (simp only [↓kept_mk]; first | with_reducible apply State.Kept.parts | with_reducible apply keptParts.mem | with_reducible apply keptParts.regs) | dsimp only | split | (intro))

theorem State.globalWrite_kept (s : State) (w : Word) (h_s : s.Kept) : (State.globalWrite s w).Kept := by
  unfold State.globalWrite
  repeat' (first | with_reducible assumption | with_reducible apply State.plainWrite_kept | (simp only [↓kept_mk]; first | with_reducible apply State.Kept.parts | with_reducible apply keptParts.mem | with_reducible apply keptParts.regs) | dsimp only | split | (intro))

theorem State.haltDesc_kept (s : State) (d : Desc) (status cause : Nat) (h_s : s.Kept) : (State.haltDesc s d status cause).Kept := by
  unfold State.haltDesc
  repeat' (first | with_reducible assumption | with_reducible apply State.endDesc_kept | (simp only [↓kept_mk]; first | with_reducible apply State.Kept.parts | with_reducible apply keptParts.mem | with_reducible apply keptParts.regs) | dsimp only | split | (intro))

theorem State.abortReset_kept (s : State) (slice : Nat) (h_s : s.Kept) : (State.abortReset s slice).Kept := by
  unfold State.abortReset
  repeat' (first | with_reducible assumption | with_reducible apply State.haltDesc_kept | with_reducible apply forL_kept | (simp only [↓kept_mk]; first | with_reducible apply State.Kept.parts | with_reducible apply keptParts.mem | with_reducible apply keptParts.regs) | dsimp only | split | (intro))

theorem State.stopRings_kept (s : State) (slice : Nat) (quiet : Bool) (h_s : s.Kept) : (State.stopRings s slice quiet).Kept := by
  unfold State.stopRings
  repeat' (first | with_reducible assumption | with_reducible apply State.ringState_kept | with_reducible apply State.setRing_kept | with_reducible apply forL_kept | (simp only [↓kept_mk]; first | with_reducible apply State.Kept.parts | with_reducible apply keptParts.mem | with_reducible apply keptParts.regs) | dsimp only | split | (intro))

theorem State.sliceReset_kept (s : State) (w : Word) (h_s : s.Kept) : (State.sliceReset s w).Kept := by
  unfold State.sliceReset
  repeat' (first | with_reducible assumption | with_reducible apply State.setFldAt_kept | with_reducible apply State.abortReset_kept | with_reducible apply State.stopRings_kept | (simp only [↓kept_mk]; first | with_reducible apply State.Kept.parts | with_reducible apply keptParts.mem | with_reducible apply keptParts.regs) | dsimp only | split | (intro))

theorem State.countRevoked_kept (s : State) (h_s : s.Kept) : (State.countRevoked s).Kept := by
  unfold State.countRevoked
  repeat' (first | with_reducible assumption | with_reducible apply State.setFld_kept | (simp only [↓kept_mk]; first | with_reducible apply State.Kept.parts | with_reducible apply keptParts.mem | with_reducible apply keptParts.regs) | dsimp only | split | (intro))

theorem State.resetFinish_kept (s : State) (slice : Nat) (h_s : s.Kept) : (State.resetFinish s slice).Kept := by
  unfold State.resetFinish
  repeat' (first | with_reducible assumption | with_reducible apply State.setFldAt_kept | with_reducible apply State.countRevoked_kept | with_reducible apply State.destroyDone_kept | with_reducible apply State.dropXlate_kept | with_reducible apply forN_kept | with_reducible apply forL_kept | (simp only [↓kept_mk]; first | with_reducible apply State.Kept.parts | with_reducible apply keptParts.mem | with_reducible apply keptParts.regs) | exact reset_kept | dsimp only | split | (intro))

theorem State.composeBytes_kept (s : State) (a n : Nat) (h_s : s.Kept) : ErrKept (State.composeBytes s a n) := by
  unfold State.composeBytes
  repeat' (first | with_reducible assumption | with_reducible apply State.endCompose_kept | with_reducible apply State.startNeeds_kept | with_reducible apply State.setFld_kept | with_reducible exact ErrKept.ok | with_reducible apply ErrKept.error | with_reducible refine ErrKept.elim (by with_reducible assumption) ?_ | (simp only [↓kept_mk]; first | with_reducible apply State.Kept.parts | with_reducible apply keptParts.mem | with_reducible apply keptParts.regs) | dsimp only | split | (intro))

theorem State.composeRead_kept (s : State) (a : Nat) (h_s : s.Kept) : (State.composeRead s a).Kept := by
  unfold State.composeRead
  repeat' (first | with_reducible assumption | with_reducible apply State.setFld_kept | with_reducible apply State.take_kept | with_reducible apply State.composeBytes_kept | with_reducible apply State.tellLeader_kept | with_reducible exact ErrKept.ok | with_reducible apply ErrKept.error | with_reducible refine ErrKept.elim (by with_reducible assumption) ?_ | (simp only [↓kept_mk]; first | with_reducible apply State.Kept.parts | with_reducible apply keptParts.mem | with_reducible apply keptParts.regs) | dsimp only | split | (intro))

theorem State.composeWrite_kept (s : State) (w : Word) (h_s : s.Kept) : (State.composeWrite s w).Kept := by
  unfold State.composeWrite
  repeat' (first | with_reducible assumption | with_reducible apply State.composeRead_kept | (simp only [↓kept_mk]; first | with_reducible apply State.Kept.parts | with_reducible apply keptParts.mem | with_reducible apply keptParts.regs) | dsimp only | split | (intro))

theorem State.retryCompose_kept (s : State) (h_s : s.Kept) : (State.retryCompose s).Kept := by
  unfold State.retryCompose
  repeat' (first | with_reducible assumption | with_reducible apply State.composeRead_kept | (simp only [↓kept_mk]; first | with_reducible apply State.Kept.parts | with_reducible apply keptParts.mem | with_reducible apply keptParts.regs) | dsimp only | split | (intro))

theorem State.changeOwner_kept (s : State) (r : Revoked) (old new : Nat) (h_s : s.Kept) : (State.changeOwner s r old new).Kept := by
  unfold State.changeOwner
  repeat' (first | with_reducible assumption | with_reducible apply State.quse_kept | with_reducible apply State.setFrame_kept | with_reducible apply forL_kept | (simp only [↓kept_mk]; first | with_reducible apply State.Kept.parts | with_reducible apply keptParts.mem | with_reducible apply keptParts.regs) | dsimp only | split | (intro))

theorem State.revokeLines_kept (s : State) (r : Revoked) (h_s : s.Kept) : (State.revokeLines s r).Kept := by
  unfold State.revokeLines
  repeat' (first | with_reducible assumption | with_reducible apply State.setEntry_kept | with_reducible apply State.evictLine_kept | with_reducible apply forL_kept | (simp only [↓kept_mk]; first | with_reducible apply State.Kept.parts | with_reducible apply keptParts.mem | with_reducible apply keptParts.regs) | dsimp only | split | (intro))

theorem State.reapRevoke_kept (s : State) (h_s : s.Kept) : (State.reapRevoke s).Kept := by
  unfold State.reapRevoke
  repeat' (first | with_reducible assumption | with_reducible apply State.revokeLines_kept | with_reducible apply State.setFld_kept | (simp only [↓kept_mk]; first | with_reducible apply State.Kept.parts | with_reducible apply keptParts.mem | with_reducible apply keptParts.regs) | dsimp only | split | (intro))

theorem State.revokeWrite_kept (s : State) (w : Word) (h_s : s.Kept) : (State.revokeWrite s w).Kept := by
  unfold State.revokeWrite
  repeat' (first | with_reducible assumption | with_reducible apply State.reapRevoke_kept | with_reducible apply State.countRevoked_kept | with_reducible apply State.haltDesc_kept | with_reducible apply State.changeOwner_kept | with_reducible apply State.setFld_kept | with_reducible apply State.finishHome_kept | with_reducible apply State.finish_kept | with_reducible apply forL_kept | (simp only [↓kept_mk]; first | with_reducible apply State.Kept.parts | with_reducible apply keptParts.mem | with_reducible apply keptParts.regs) | dsimp only | split | (intro))

theorem State.vectorWrite_kept (s : State) (off : Nat) (w : Word) (h_s : s.Kept) : (State.vectorWrite s off w).Kept := by
  unfold State.vectorWrite
  repeat' (first | with_reducible assumption | with_reducible apply State.setFldAt_kept | with_reducible apply State.message_kept | with_reducible apply State.plainWrite_kept | (simp only [↓kept_mk]; first | with_reducible apply State.Kept.parts | with_reducible apply keptParts.mem | with_reducible apply keptParts.regs) | dsimp only | split | (intro))

theorem State.arrDisable_kept (s : State) (w : Word) (h_s : s.Kept) : (State.arrDisable s w).Kept := by
  unfold State.arrDisable
  repeat' (first | with_reducible assumption | with_reducible apply State.setFld_kept | with_reducible apply State.plainWrite_kept | (simp only [↓kept_mk]; first | with_reducible apply State.Kept.parts | with_reducible apply keptParts.mem | with_reducible apply keptParts.regs) | dsimp only | split | (intro))

theorem State.auditCtl_kept (s : State) (w : Word) (h_s : s.Kept) : (State.auditCtl s w).Kept := by
  unfold State.auditCtl
  repeat' (first | with_reducible assumption | with_reducible apply State.plainWrite_kept | (simp only [↓kept_mk]; first | with_reducible apply State.Kept.parts | with_reducible apply keptParts.mem | with_reducible apply keptParts.regs) | dsimp only | split | (intro))

end Sys2Proof.Machine
end

