-- ==== Sys2Proof/Laws/KeptFaults.lean ====
section
/-! SUPPORT. The functions of Faults keep the canonical form of the state. -/

set_option linter.unusedTactic false
set_option linter.unreachableTactic false
set_option simprocs false

namespace Sys2Proof.Machine

theorem State.alarmSend_kept (s : State) (entry : Nat) (h_s : s.Kept) : (State.alarmSend s entry).Kept := by
  unfold State.alarmSend
  repeat' (first | with_reducible assumption | with_reducible apply State.setFldAt_kept | with_reducible apply State.sendQf_kept | (simp only [↓kept_mk]; first | with_reducible apply State.Kept.parts | with_reducible apply keptParts.mem | with_reducible apply keptParts.regs) | dsimp only | split | (intro))

theorem State.logRingWrite_kept (s : State) (w : Word) (h_s : s.Kept) : (State.logRingWrite s w).Kept := by
  unfold State.logRingWrite
  repeat' (first | with_reducible assumption | with_reducible apply State.setFld_kept | with_reducible apply State.plainWrite_kept | (simp only [↓kept_mk]; first | with_reducible apply State.Kept.parts | with_reducible apply keptParts.mem | with_reducible apply keptParts.regs) | dsimp only | split | (intro))

theorem State.logIdxWrite_kept (s : State) (w : Word) (h_s : s.Kept) : (State.logIdxWrite s w).Kept := by
  unfold State.logIdxWrite
  repeat' (first | with_reducible assumption | with_reducible apply State.setFld_kept | (simp only [↓kept_mk]; first | with_reducible apply State.Kept.parts | with_reducible apply keptParts.mem | with_reducible apply keptParts.regs) | dsimp only | split | (intro))

theorem State.alarmClear_kept (s : State) (domain : Bool) (entry : Nat) (h_s : s.Kept) : (State.alarmClear s domain entry).Kept := by
  unfold State.alarmClear
  repeat' (first | with_reducible assumption | with_reducible apply State.setWord_kept | with_reducible apply State.setFld_kept | (simp only [↓kept_mk]; first | with_reducible apply State.Kept.parts | with_reducible apply keptParts.mem | with_reducible apply keptParts.regs) | dsimp only | split | (intro))

end Sys2Proof.Machine
end

