-- ==== Sys2Proof/Laws/KeptObserve.lean ====
section
/-! SUPPORT. The functions of Observe keep the canonical form of the state. -/

set_option linter.unusedTactic false
set_option linter.unreachableTactic false
set_option simprocs false

namespace Sys2Proof.Machine

theorem State.selWrite_kept (s : State) (ctr : Nat) (w : Word) (h_s : s.Kept) : (State.selWrite s ctr w).Kept := by
  unfold State.selWrite
  repeat' (first | with_reducible assumption | with_reducible apply State.setFldAt_kept | with_reducible apply State.incSat_kept | with_reducible apply State.plainWrite_kept | (simp only [↓kept_mk]; first | with_reducible apply State.Kept.parts | with_reducible apply keptParts.mem | with_reducible apply keptParts.regs) | dsimp only | split | (intro))

theorem State.dumpCtl_kept (s : State) (w : Word) (h_s : s.Kept) : (State.dumpCtl s w).Kept := by
  unfold State.dumpCtl
  repeat' (first | with_reducible assumption | with_reducible apply State.plainWrite_kept | (simp only [↓kept_mk]; first | with_reducible apply State.Kept.parts | with_reducible apply keptParts.mem | with_reducible apply keptParts.regs) | dsimp only | split | (intro))

theorem State.dumpRing_kept (s : State) (w : Word) (h_s : s.Kept) : (State.dumpRing s w).Kept := by
  unfold State.dumpRing
  repeat' (first | with_reducible assumption | with_reducible apply State.setFld_kept | with_reducible apply State.plainWrite_kept | (simp only [↓kept_mk]; first | with_reducible apply State.Kept.parts | with_reducible apply keptParts.mem | with_reducible apply keptParts.regs) | dsimp only | split | (intro))

theorem State.consWrite_kept (s : State) (cons prod : Fld) (w : Word) (h_s : s.Kept) : (State.consWrite s cons prod w).Kept := by
  unfold State.consWrite
  repeat' (first | with_reducible assumption | with_reducible apply State.setFld_kept | (simp only [↓kept_mk]; first | with_reducible apply State.Kept.parts | with_reducible apply keptParts.mem | with_reducible apply keptParts.regs) | dsimp only | split | (intro))

theorem State.dump_kept (s : State) (h_s : s.Kept) : (State.dump s).Kept := by
  unfold State.dump
  repeat' (first | with_reducible assumption | with_reducible apply State.recordWrite_kept | with_reducible apply State.incSat_kept | with_reducible apply State.setFld_kept | (simp only [↓kept_mk]; first | with_reducible apply State.Kept.parts | with_reducible apply keptParts.mem | with_reducible apply keptParts.regs) | dsimp only | split | (intro))

theorem State.scrCtl_kept (s : State) (w : Word) (h_s : s.Kept) : (State.scrCtl s w).Kept := by
  unfold State.scrCtl
  repeat' (first | with_reducible assumption | with_reducible apply State.scrStart_kept | with_reducible apply State.plainWrite_kept | (simp only [↓kept_mk]; first | with_reducible apply State.Kept.parts | with_reducible apply keptParts.mem | with_reducible apply keptParts.regs) | dsimp only | split | (intro))

theorem State.scrRing_kept (s : State) (w : Word) (h_s : s.Kept) : (State.scrRing s w).Kept := by
  unfold State.scrRing
  repeat' (first | with_reducible assumption | with_reducible apply State.setFld_kept | with_reducible apply State.plainWrite_kept | (simp only [↓kept_mk]; first | with_reducible apply State.Kept.parts | with_reducible apply keptParts.mem | with_reducible apply keptParts.regs) | dsimp only | split | (intro))

theorem State.frzCtl_kept (s : State) (w : Word) (h_s : s.Kept) : (State.frzCtl s w).Kept := by
  unfold State.frzCtl
  repeat' (first | with_reducible assumption | with_reducible apply State.freeze_kept | with_reducible apply State.plainWrite_kept | (simp only [↓kept_mk]; first | with_reducible apply State.Kept.parts | with_reducible apply keptParts.mem | with_reducible apply keptParts.regs) | dsimp only | split | (intro))

end Sys2Proof.Machine
end

