-- ==== Sys2Proof/Laws/KeptPower.lean ====
section
/-! SUPPORT. The functions of Power keep the canonical form of the state. -/

set_option linter.unusedTactic false
set_option linter.unreachableTactic false
set_option simprocs false

namespace Sys2Proof.Machine

theorem State.hardReset_kept (s : State) (h_s : s.Kept) : (State.hardReset s).Kept := by
  unfold State.hardReset
  repeat' (first | with_reducible assumption | with_reducible apply State.setFld_kept | (simp only [↓kept_mk]; first | with_reducible apply State.Kept.parts | with_reducible apply keptParts.mem | with_reducible apply keptParts.regs) | exact reset_kept | dsimp only | split | (intro))

theorem State.warmReset_kept (s : State) (h_s : s.Kept) : (State.warmReset s).Kept := by
  unfold State.warmReset
  repeat' (first | with_reducible assumption | with_reducible apply State.hardReset_kept | with_reducible apply State.killPort_kept | with_reducible apply forN_kept | (simp only [↓kept_mk]; first | with_reducible apply State.Kept.parts | with_reducible apply keptParts.mem | with_reducible apply keptParts.regs) | dsimp only | split | (intro))

theorem State.powerFall_kept (s : State) (h_s : s.Kept) : (State.powerFall s).Kept := by
  unfold State.powerFall
  repeat' (first | with_reducible assumption | with_reducible apply State.warmReset_kept | (simp only [↓kept_mk]; first | with_reducible apply State.Kept.parts | with_reducible apply keptParts.mem | with_reducible apply keptParts.regs) | dsimp only | split | (intro))

theorem State.setLimit_kept (s : State) (n : Nat) (on : Bool) (h_s : s.Kept) : (State.setLimit s n on).Kept := by
  unfold State.setLimit
  repeat' (first | with_reducible assumption | with_reducible apply State.incSat_kept | with_reducible apply State.setFld_kept | with_reducible apply State.raise_kept | (simp only [↓kept_mk]; first | with_reducible apply State.Kept.parts | with_reducible apply keptParts.mem | with_reducible apply keptParts.regs) | dsimp only | split | (intro))

theorem State.setRail_kept (s : State) (rail : Nat) (bad : Bool) (h_s : s.Kept) : (State.setRail s rail bad).Kept := by
  unfold State.setRail
  repeat' (first | with_reducible assumption | with_reducible apply State.setLimit_kept | (simp only [↓kept_mk]; first | with_reducible apply State.Kept.parts | with_reducible apply keptParts.mem | with_reducible apply keptParts.regs) | dsimp only | split | (intro))

theorem State.trip_kept (s : State) (h_s : s.Kept) : (State.trip s).Kept := by
  unfold State.trip
  repeat' (first | with_reducible assumption | with_reducible apply State.warmReset_kept | (simp only [↓kept_mk]; first | with_reducible apply State.Kept.parts | with_reducible apply keptParts.mem | with_reducible apply keptParts.regs) | dsimp only | split | (intro))

theorem State.sensorReading_kept (s : State) (r : Sensors) (h_s : s.Kept) : (State.sensorReading s r).Kept := by
  unfold State.sensorReading
  repeat' (first | with_reducible assumption | with_reducible apply State.setRail_kept | with_reducible apply State.trip_kept | with_reducible apply State.setFld_kept | with_reducible apply State.setLimit_kept | (simp only [↓kept_mk]; first | with_reducible apply State.Kept.parts | with_reducible apply keptParts.mem | with_reducible apply keptParts.regs) | dsimp only | split | (intro))

theorem State.powerWindow_kept (s : State) (e : PowerEst) (h_s : s.Kept) : (State.powerWindow s e).Kept := by
  unfold State.powerWindow
  repeat' (first | with_reducible assumption | with_reducible apply State.setFldAt_kept | with_reducible apply State.obsEdge_kept | with_reducible apply State.setFld_kept | with_reducible apply State.setLimit_kept | with_reducible apply State.take_kept | with_reducible apply forN_kept | (simp only [↓kept_mk]; first | with_reducible apply State.Kept.parts | with_reducible apply keptParts.mem | with_reducible apply keptParts.regs) | dsimp only | split | (intro))

theorem State.dillWrite_kept (s : State) (w : Word) (h_s : s.Kept) : (State.dillWrite s w).Kept := by
  unfold State.dillWrite
  repeat' (first | with_reducible assumption | with_reducible apply State.setFldAt_kept | with_reducible apply State.setFld_kept | with_reducible apply State.plainWrite_kept | with_reducible apply forL_kept | (simp only [↓kept_mk]; first | with_reducible apply State.Kept.parts | with_reducible apply keptParts.mem | with_reducible apply keptParts.regs) | dsimp only | split | (intro))

end Sys2Proof.Machine
end

