-- ==== Sys2Proof/Laws/KeptCarter.lean ====
section
/-! SUPPORT. The functions of Carter keep the canonical form of the state. -/

set_option linter.unusedTactic false
set_option linter.unreachableTactic false
set_option simprocs false

namespace Sys2Proof.Machine

theorem State.carWrite_kept (s : State) (c off : Nat) (w : Word) (h_s : s.Kept) : (State.carWrite s c off w).Kept := by
  unfold State.carWrite
  repeat' (first | with_reducible assumption | with_reducible apply State.plainWrite_kept | with_reducible apply State.incSat_kept | (simp only [↓kept_mk]; first | with_reducible apply State.Kept.parts | with_reducible apply keptParts.mem | with_reducible apply keptParts.regs) | dsimp only | split | (intro))

theorem State.carEnd_kept (s : State) (c status : Nat) (h_s : s.Kept) : (State.carEnd s c status).Kept := by
  unfold State.carEnd
  repeat' (first | with_reducible assumption | with_reducible apply State.setFldAt_kept | (simp only [↓kept_mk]; first | with_reducible apply State.Kept.parts | with_reducible apply keptParts.mem | with_reducible apply keptParts.regs) | dsimp only | split | (intro))

theorem State.carStart_kept (s : State) (c : Nat) (w : Word) (h_s : s.Kept) : (State.carStart s c w).Kept := by
  unfold State.carStart
  repeat' (first | with_reducible assumption | with_reducible apply State.setFldAt_kept | with_reducible apply State.incSat_kept | with_reducible apply State.carEnd_kept | (simp only [↓kept_mk]; first | with_reducible apply State.Kept.parts | with_reducible apply keptParts.mem | with_reducible apply keptParts.regs) | dsimp only | split | (intro))

theorem State.carMove_kept (s : State) (c : Nat) (h_s : s.Kept) : (State.carMove s c).Kept := by
  unfold State.carMove
  repeat' (first | with_reducible assumption | with_reducible apply State.setFldAt_kept | with_reducible apply State.startNeeds_kept | with_reducible apply State.carEnd_kept | with_reducible apply State.feWrite_kept | with_reducible exact ResKept.error | with_reducible exact ResKept.fail | with_reducible apply ResKept.ok | with_reducible apply ResKept.bind | with_reducible apply ResKept.map | with_reducible apply ResKept.foldlM | with_reducible refine ResKept.elim (by with_reducible assumption) ?_ | (simp only [↓kept_mk]; first | with_reducible apply State.Kept.parts | with_reducible apply keptParts.mem | with_reducible apply keptParts.regs) | dsimp only | split | (intro))

theorem State.carDone_kept (s : State) (c : Nat) (h_s : s.Kept) : (State.carDone s c).Kept := by
  unfold State.carDone
  repeat' (first | with_reducible assumption | with_reducible apply State.startNeeds_kept | with_reducible apply State.carEnd_kept | (simp only [↓kept_mk]; first | with_reducible apply State.Kept.parts | with_reducible apply keptParts.mem | with_reducible apply keptParts.regs) | dsimp only | split | (intro))

end Sys2Proof.Machine
end

