-- ==== Sys2Proof/Laws/KeptRegisters.lean ====
section
/-! SUPPORT. The functions of Registers keep the canonical form of the state. -/

set_option linter.unusedTactic false
set_option linter.unreachableTactic false
set_option simprocs false

namespace Sys2Proof.Machine

theorem State.ringCmd_kept (s : State) (w : Word) (h_s : s.Kept) : (State.ringCmd s w).Kept := by
  unfold State.ringCmd
  repeat' (first | with_reducible assumption | with_reducible apply State.incSat_kept | with_reducible apply State.ringCreate_kept | with_reducible apply State.ringDestroy_kept | with_reducible apply State.cmdStatus_kept | (simp only [↓kept_mk]; first | with_reducible apply State.Kept.parts | with_reducible apply keptParts.mem | with_reducible apply keptParts.regs) | dsimp only | split | (intro))

theorem State.doorbell_kept (s : State) (off : Nat) (w : Word) (h_s : s.Kept) : (State.doorbell s off w).Kept := by
  unfold State.doorbell
  repeat' (first | with_reducible assumption | with_reducible apply State.dbNowhere_kept | with_reducible apply State.sqDoorbell_kept | with_reducible apply State.cqDoorbell_kept | (simp only [↓kept_mk]; first | with_reducible apply State.Kept.parts | with_reducible apply keptParts.mem | with_reducible apply keptParts.regs) | dsimp only | split | (intro))

theorem State.simpleWrite_kept (s : State) (reg : String) (i off : Nat) (w : Word) (h_s : s.Kept) : (State.simpleWrite s reg i off w).Kept := by
  unfold State.simpleWrite
  repeat' (first | with_reducible assumption | with_reducible apply State.killWrite_kept | with_reducible apply State.setFld_kept | with_reducible apply State.plainWrite_kept | (simp only [↓kept_mk]; first | with_reducible apply State.Kept.parts | with_reducible apply keptParts.mem | with_reducible apply keptParts.regs) | dsimp only | split | (intro))

theorem State.namedWrite_kept (s : State) (reg : String) (i off : Nat) (w : Word) (h_s : s.Kept) : (State.namedWrite s reg i off w).Kept := by
  unfold State.namedWrite
  repeat' (first | with_reducible assumption | with_reducible apply State.mirrorWrite_kept | with_reducible apply State.logIdxWrite_kept | with_reducible apply State.scrRing_kept | with_reducible apply State.borageWrite_kept | with_reducible apply State.vectorWrite_kept | with_reducible apply State.sliceReset_kept | with_reducible apply State.frzCtl_kept | with_reducible apply State.composeWrite_kept | with_reducible apply State.dillWrite_kept | with_reducible apply State.tierRetire_kept | with_reducible apply State.sliceWrite_kept | with_reducible apply State.consWrite_kept | with_reducible apply State.jobAbortWrite_kept | with_reducible apply State.carStart_kept | with_reducible apply State.arrDisable_kept | with_reducible apply State.revokeWrite_kept | with_reducible apply State.migIdxWrite_kept | with_reducible apply State.alarmClear_kept | with_reducible apply State.carWrite_kept | with_reducible apply State.rootWrite_kept | with_reducible apply State.ringCmd_kept | with_reducible apply State.simpleWrite_kept | with_reducible apply State.globalWrite_kept | with_reducible apply State.scrCtl_kept | with_reducible apply State.logRingWrite_kept | with_reducible apply State.selWrite_kept | with_reducible apply State.auditCtl_kept | with_reducible apply State.migRingWrite_kept | with_reducible apply State.dumpRing_kept | with_reducible apply State.dumpCtl_kept | (simp only [↓kept_mk]; first | with_reducible apply State.Kept.parts | with_reducible apply keptParts.mem | with_reducible apply keptParts.regs) | dsimp only | split | (intro))

theorem State.regWrite_kept (s : State) (off : Nat) (w : Word) (h_s : s.Kept) : (State.regWrite s off w).Kept := by
  unfold State.regWrite
  repeat' (first | with_reducible assumption | with_reducible apply State.raise_kept | with_reducible apply State.namedWrite_kept | with_reducible apply State.doorbell_kept | (simp only [↓kept_mk]; first | with_reducible apply State.Kept.parts | with_reducible apply keptParts.mem | with_reducible apply keptParts.regs) | dsimp only | split | (intro))

theorem State.mgmtWrite_kept (s : State) (a : Nat) (w : Word) (h_s : s.Kept) : ResKept (State.mgmtWrite s a w) := by
  unfold State.mgmtWrite
  repeat' (first | with_reducible assumption | with_reducible apply State.regWrite_kept | with_reducible exact ResKept.error | with_reducible exact ResKept.fail | with_reducible apply ResKept.ok | with_reducible apply ResKept.bind | with_reducible apply ResKept.map | with_reducible apply ResKept.foldlM | with_reducible refine ResKept.elim (by with_reducible assumption) ?_ | (simp only [↓kept_mk]; first | with_reducible apply State.Kept.parts | with_reducible apply keptParts.mem | with_reducible apply keptParts.regs) | dsimp only | split | (intro))

end Sys2Proof.Machine
end

