-- ==== Sys2Proof/Laws/KeptTap.lean ====
section
/-! SUPPORT. The functions of Tap keep the canonical form of the state. -/

set_option linter.unusedTactic false
set_option linter.unreachableTactic false
set_option simprocs false

namespace Sys2Proof.Machine

theorem State.tapScan_kept (s : State) (ir dr : Nat) (h_s : s.Kept) : (State.tapScan s ir dr).Kept := by
  unfold State.tapScan
  repeat' (first | with_reducible assumption | (simp only [↓kept_mk]; first | with_reducible apply State.Kept.parts | with_reducible apply keptParts.mem | with_reducible apply keptParts.regs) | dsimp only | split | (intro))

end Sys2Proof.Machine
end

