-- ==== Sys2Proof/Laws/KeptBoot.lean ====
section
/-! SUPPORT. The functions of Boot keep the canonical form of the state. -/

set_option linter.unusedTactic false
set_option linter.unreachableTactic false
set_option simprocs false

namespace Sys2Proof.Machine

theorem State.stageEnd_kept (s : State) (k : Nat) (h_s : s.Kept) : (State.stageEnd s k).Kept := by
  unfold State.stageEnd
  repeat' (first | with_reducible assumption | with_reducible apply State.setFld_kept | (simp only [↓kept_mk]; first | with_reducible apply State.Kept.parts | with_reducible apply keptParts.mem | with_reducible apply keptParts.regs) | dsimp only | split | (intro))

theorem State.stageFail_kept (s : State) (k code info : Nat) (h_s : s.Kept) : (State.stageFail s k code info).Kept := by
  unfold State.stageFail
  repeat' (first | with_reducible assumption | with_reducible apply State.setFld_kept | (simp only [↓kept_mk]; first | with_reducible apply State.Kept.parts | with_reducible apply keptParts.mem | with_reducible apply keptParts.regs) | dsimp only | split | (intro))

theorem State.identDone_kept (s : State) (i : Ident) (h_s : s.Kept) : (State.identDone s i).Kept := by
  unfold State.identDone
  repeat' (first | with_reducible assumption | with_reducible apply State.setFld_kept | with_reducible apply State.stageEnd_kept | (simp only [↓kept_mk]; first | with_reducible apply State.Kept.parts | with_reducible apply keptParts.mem | with_reducible apply keptParts.regs) | dsimp only | split | (intro))

theorem State.stage3_kept (s : State) (puf : List Byte) (h_s : s.Kept) : (State.stage3 s puf).Kept := by
  unfold State.stage3
  repeat' (first | with_reducible assumption | with_reducible apply Eff.write_kept | with_reducible apply State.stageFail_kept | with_reducible apply State.take_kept | with_reducible apply State.identDone_kept | (simp only [↓kept_mk]; first | with_reducible apply State.Kept.parts | with_reducible apply keptParts.mem | with_reducible apply keptParts.regs) | dsimp only | split | (intro))

theorem State.stage4_kept (s : State) (h_s : s.Kept) : (State.stage4 s).Kept := by
  unfold State.stage4
  repeat' (first | with_reducible assumption | with_reducible apply State.setFld_kept | with_reducible apply State.stageFail_kept | with_reducible apply State.stageEnd_kept | (simp only [↓kept_mk]; first | with_reducible apply State.Kept.parts | with_reducible apply keptParts.mem | with_reducible apply keptParts.regs) | dsimp only | split | (intro))

theorem State.measure_kept (s : State) (m : Meas) (h_s : s.Kept) : (State.measure s m).Kept := by
  unfold State.measure
  repeat' (first | with_reducible assumption | with_reducible apply State.setFldAt_kept | with_reducible apply State.setFld_kept | with_reducible apply forN_kept | (simp only [↓kept_mk]; first | with_reducible apply State.Kept.parts | with_reducible apply keptParts.mem | with_reducible apply keptParts.regs) | dsimp only | split | (intro))

theorem State.measureBoot_kept (s : State) (h_s : s.Kept) : (State.measureBoot s).Kept := by
  unfold State.measureBoot
  repeat' (first | with_reducible assumption | with_reducible apply State.measure_kept | with_reducible apply forL_kept | (simp only [↓kept_mk]; first | with_reducible apply State.Kept.parts | with_reducible apply keptParts.mem | with_reducible apply keptParts.regs) | dsimp only | split | (intro))

theorem State.applyReg_kept (s : State) (e : Entry) (h_s : s.Kept) : (State.applyReg s e).Kept := by
  unfold State.applyReg
  repeat' (first | with_reducible assumption | with_reducible apply State.incSat_kept | with_reducible apply State.setFld_kept | with_reducible apply State.regWrite_kept | (simp only [↓kept_mk]; first | with_reducible apply State.Kept.parts | with_reducible apply keptParts.mem | with_reducible apply keptParts.regs) | dsimp only | split | (intro))

theorem State.copyExtent_kept (s : State) (i : Nat) (r : List Byte) (h_s : s.Kept) : (State.copyExtent s i r).Kept := by
  unfold State.copyExtent
  repeat' (first | with_reducible assumption | with_reducible apply State.incSat_kept | with_reducible apply State.raise_kept | (simp only [↓kept_mk]; first | with_reducible apply State.Kept.parts | with_reducible apply keptParts.mem | with_reducible apply keptParts.regs) | dsimp only | split | (intro))

theorem State.copyExtents_kept (s : State) (h_s : s.Kept) : (State.copyExtents s).Kept := by
  unfold State.copyExtents
  repeat' (first | with_reducible assumption | with_reducible apply State.copyExtent_kept | with_reducible apply forN_kept | (simp only [↓kept_mk]; first | with_reducible apply State.Kept.parts | with_reducible apply keptParts.mem | with_reducible apply keptParts.regs) | dsimp only | split | (intro))

theorem State.stage8_kept (s : State) (present : Nat) (h_s : s.Kept) : (State.stage8 s present).Kept := by
  unfold State.stage8
  repeat' (first | with_reducible assumption | with_reducible apply State.layStore_kept | with_reducible apply State.copyExtents_kept | with_reducible apply State.measure_kept | with_reducible apply State.memWrite_kept | with_reducible apply State.setFld_kept | with_reducible apply State.stageEnd_kept | with_reducible apply forL_kept | (simp only [↓kept_mk]; first | with_reducible apply State.Kept.parts | with_reducible apply keptParts.mem | with_reducible apply keptParts.regs) | dsimp only | split | (intro))

end Sys2Proof.Machine
end

