-- ==== Sys2Proof/Laws/KeptMctp.lean ====
section
/-! SUPPORT. The functions of Mctp keep the canonical form of the state. -/

set_option linter.unusedTactic false
set_option linter.unreachableTactic false
set_option simprocs false

namespace Sys2Proof.Machine

theorem State.reply_kept (s : State) (typ command status : Nat) (body : List Byte) (h_s : s.Kept) : (State.reply s typ command status body).Kept := by
  unfold State.reply
  repeat' (first | with_reducible assumption | (simp only [↓kept_mk]; first | with_reducible apply State.Kept.parts | with_reducible apply keptParts.mem | with_reducible apply keptParts.regs) | dsimp only | split | (intro))

theorem State.control_kept (s : State) (command code : Nat) (body : List Byte) (h_s : s.Kept) : (State.control s command code body).Kept := by
  unfold State.control
  repeat' (first | with_reducible assumption | with_reducible apply State.reply_kept | (simp only [↓kept_mk]; first | with_reducible apply State.Kept.parts | with_reducible apply keptParts.mem | with_reducible apply keptParts.regs) | dsimp only | split | (intro))

theorem State.answerM_kept (s : State) (r : MReq) (status : Nat) (body : List Byte) (h_s : s.Kept) : (State.answerM s r status body).Kept := by
  unfold State.answerM
  repeat' (first | with_reducible assumption | with_reducible apply State.reply_kept | (simp only [↓kept_mk]; first | with_reducible apply State.Kept.parts | with_reducible apply keptParts.mem | with_reducible apply keptParts.regs) | dsimp only | split | (intro))

theorem State.startFlash_kept (s : State) (h_s : s.Kept) : (State.startFlash s).Kept := by
  unfold State.startFlash
  repeat' (first | with_reducible assumption | (simp only [↓kept_mk]; first | with_reducible apply State.Kept.parts | with_reducible apply keptParts.mem | with_reducible apply keptParts.regs) | dsimp only | split | (intro))

theorem State.mctpServe_kept (s : State) (h_s : s.Kept) : (State.mctpServe s).Kept := by
  unfold State.mctpServe
  repeat' (first | with_reducible assumption | with_reducible apply State.startFlash_kept | with_reducible apply State.warmReset_kept | with_reducible apply State.mgmtWrite_kept | with_reducible apply State.regWrite_kept | with_reducible apply State.answerM_kept | with_reducible exact ResKept.error | with_reducible exact ResKept.fail | with_reducible apply ResKept.ok | with_reducible apply ResKept.bind | with_reducible apply ResKept.map | with_reducible apply ResKept.foldlM | with_reducible refine ResKept.elim (by with_reducible assumption) ?_ | (simp only [↓kept_mk]; first | with_reducible apply State.Kept.parts | with_reducible apply keptParts.mem | with_reducible apply keptParts.regs) | dsimp only | split | (intro))

theorem State.mctpIn_kept (s : State) (r : MReq) (h_s : s.Kept) : (State.mctpIn s r).Kept := by
  unfold State.mctpIn
  repeat' (first | with_reducible assumption | with_reducible apply State.mctpServe_kept | with_reducible apply State.incSat_kept | (simp only [↓kept_mk]; first | with_reducible apply State.Kept.parts | with_reducible apply keptParts.mem | with_reducible apply keptParts.regs) | dsimp only | split | (intro))

theorem State.program_kept (s : State) (a : Nat) (bs : List Byte) (h_s : s.Kept) : (State.program s a bs).Kept := by
  unfold State.program
  repeat' (first | with_reducible assumption | with_reducible apply Eff.write_kept | (simp only [↓kept_mk]; first | with_reducible apply State.Kept.parts | with_reducible apply keptParts.mem | with_reducible apply keptParts.regs) | dsimp only | split | (intro))

theorem State.flashDone_kept (s : State) (h_s : s.Kept) : (State.flashDone s).Kept := by
  unfold State.flashDone
  repeat' (first | with_reducible assumption | with_reducible apply State.program_kept | with_reducible apply State.answerM_kept | (simp only [↓kept_mk]; first | with_reducible apply State.Kept.parts | with_reducible apply keptParts.mem | with_reducible apply keptParts.regs) | dsimp only | split | (intro))

end Sys2Proof.Machine
end

