-- ==== Sys2Proof/Laws/KeptClients.lean ====
section
/-! SUPPORT. The functions of Clients keep the canonical form of the state. -/

set_option linter.unusedTactic false
set_option linter.unreachableTactic false
set_option simprocs false

namespace Sys2Proof.Machine

theorem State.clientFail_kept (s : State) (port : Nat) (p : KPkt) (f : Fail) (h_s : s.Kept) : (State.clientFail s port p f).Kept := by
  unfold State.clientFail
  repeat' (first | with_reducible assumption | with_reducible apply State.noteFailed_kept | with_reducible apply State.klRespond_kept | (simp only [↓kept_mk]; first | with_reducible apply State.Kept.parts | with_reducible apply keptParts.mem | with_reducible apply keptParts.regs) | dsimp only | split | (intro))

theorem State.setupAccess_kept (s : State) (node slice a n : Nat) (op : AccOp) (h_s : s.Kept) : PairResKept (State.setupAccess s node slice a n op) := by
  unfold State.setupAccess
  repeat' (first | with_reducible assumption | with_reducible apply Eff.write_kept | with_reducible apply State.mgmtWrite_kept | with_reducible apply State.regWrite_kept | with_reducible refine PairKept.elim (by with_reducible assumption) ?_ | with_reducible exact ResKept.error | with_reducible exact ResKept.fail | with_reducible apply ResKept.ok | with_reducible apply ResKept.bind | with_reducible apply ResKept.map | with_reducible apply ResKept.foldlM | with_reducible refine ResKept.elim (by with_reducible assumption) ?_ | with_reducible exact PairResKept.error | with_reducible exact PairResKept.fail | with_reducible apply PairResKept.ok | with_reducible apply PairResKept.okPair | with_reducible apply PairResKept.bind | with_reducible apply PairResKept.map | with_reducible refine PairResKept.elim (by with_reducible assumption) ?_ | with_reducible refine PairResKept.elimFst (by with_reducible assumption) ?_ | (simp only [↓kept_mk]; first | with_reducible apply State.Kept.parts | with_reducible apply keptParts.mem | with_reducible apply keptParts.regs) | dsimp only | split | with_reducible apply PairKept.pair | (intro))

theorem State.sendPart_kept (s : State) (id slice : Nat) (t : CTxn) (x : Piece) (h_s : s.Kept) : (State.sendPart s id slice t x).Kept := by
  unfold State.sendPart
  repeat' (first | with_reducible assumption | with_reducible apply State.partDone_kept | with_reducible apply Eff.write_kept | with_reducible apply State.access_kept | with_reducible apply State.setupAccess_kept | with_reducible apply State.sendReq_kept | with_reducible refine PairKept.elim (by with_reducible assumption) ?_ | with_reducible exact PairResKept.error | with_reducible exact PairResKept.fail | with_reducible apply PairResKept.ok | with_reducible apply PairResKept.okPair | with_reducible apply PairResKept.bind | with_reducible apply PairResKept.map | with_reducible refine PairResKept.elim (by with_reducible assumption) ?_ | with_reducible refine PairResKept.elimFst (by with_reducible assumption) ?_ | (simp only [↓kept_mk]; first | with_reducible apply State.Kept.parts | with_reducible apply keptParts.mem | with_reducible apply keptParts.regs) | dsimp only | split | with_reducible apply PairKept.pair | (intro))

theorem State.hold_kept (s : State) (port slice : Nat) (p : KPkt) (h_s : s.Kept) : (State.hold s port slice p).Kept := by
  unfold State.hold
  repeat' (first | with_reducible assumption | (simp only [↓kept_mk]; first | with_reducible apply State.Kept.parts | with_reducible apply keptParts.mem | with_reducible apply keptParts.regs) | dsimp only | split | (intro))

theorem State.failTurn_kept (s : State) (port : Nat) (p : KPkt) (f : Fail) (h_s : s.Kept) : (State.failTurn s port p f).Kept := by
  unfold State.failTurn
  repeat' (first | with_reducible assumption | with_reducible apply State.clientFail_kept | (simp only [↓kept_mk]; first | with_reducible apply State.Kept.parts | with_reducible apply keptParts.mem | with_reducible apply keptParts.regs) | dsimp only | split | (intro))

theorem State.translateAndMake_kept (s : State) (port slice : Nat) (p : KPkt) (right n : Nat) (h_s : s.Kept) : (State.translateAndMake s port slice p right n).Kept := by
  unfold State.translateAndMake
  repeat' (first | with_reducible assumption | with_reducible apply State.noteAccess_kept | with_reducible apply State.klRespond_kept | with_reducible apply State.sendPart_kept | with_reducible apply State.noteTry_kept | with_reducible apply State.clientFail_kept | with_reducible apply State.noteFailed_kept | with_reducible apply State.hold_kept | with_reducible apply forL_kept | (simp only [↓kept_mk]; first | with_reducible apply State.Kept.parts | with_reducible apply keptParts.mem | with_reducible apply keptParts.regs) | dsimp only | split | (intro))

theorem State.syncDone_kept (s : State) (port : Nat) (p : KPkt) (h_s : s.Kept) : (State.syncDone s port p).Kept := by
  unfold State.syncDone
  repeat' (first | with_reducible assumption | with_reducible apply State.setThread_kept | with_reducible apply State.klRespond_kept | (simp only [↓kept_mk]; first | with_reducible apply State.Kept.parts | with_reducible apply keptParts.mem | with_reducible apply keptParts.regs) | dsimp only | split | (intro))

theorem State.serve_kept (s : State) (port slice : Nat) (p : KPkt) (h_s : s.Kept) : (State.serve s port slice p).Kept := by
  unfold State.serve
  repeat' (first | with_reducible assumption | with_reducible apply State.translateAndMake_kept | with_reducible apply State.syncDone_kept | with_reducible apply State.clientFail_kept | with_reducible apply State.incSatAt_kept | with_reducible apply State.hold_kept | (simp only [↓kept_mk]; first | with_reducible apply State.Kept.parts | with_reducible apply keptParts.mem | with_reducible apply keptParts.regs) | dsimp only | split | (intro))

theorem State.pumpHeld_kept (s : State) (h_s : s.Kept) : (State.pumpHeld s).Kept := by
  unfold State.pumpHeld
  repeat' (first | with_reducible assumption | with_reducible apply State.serve_kept | with_reducible apply State.failTurn_kept | with_reducible apply forL_kept | (simp only [↓kept_mk]; first | with_reducible apply State.Kept.parts | with_reducible apply keptParts.mem | with_reducible apply keptParts.regs) | dsimp only | split | (intro))

theorem State.fromClient_kept (s0 : State) (port : Nat) (p : KPkt) (refuse : State → Fail → State) (run : State → Nat → State) (h_s0 : s0.Kept) (h_refuse : ∀ x0 x1, x0.Kept → (refuse x0 x1).Kept) (h_run : ∀ x0 x1, x0.Kept → (run x0 x1).Kept) : (State.fromClient s0 port p refuse run).Kept := by
  unfold State.fromClient
  repeat' (first | with_reducible assumption | with_reducible apply State.takeRx_kept | with_reducible apply State.pumpHeld_kept | with_reducible apply State.incSatAt_kept | with_reducible apply h_refuse | with_reducible apply h_run | (simp only [↓kept_mk]; first | with_reducible apply State.Kept.parts | with_reducible apply keptParts.mem | with_reducible apply keptParts.regs) | dsimp only | split | (intro))

theorem State.clientRequest_kept (s : State) (port : Nat) (p : KPkt) (h_s : s.Kept) : (State.clientRequest s port p).Kept := by
  unfold State.clientRequest
  repeat' (first | with_reducible assumption | with_reducible apply State.failTurn_kept | with_reducible apply State.fromClient_kept | with_reducible apply State.serve_kept | (simp only [↓kept_mk]; first | with_reducible apply State.Kept.parts | with_reducible apply keptParts.mem | with_reducible apply keptParts.regs) | dsimp only | split | (intro))

theorem State.atomicOf_kept (s : State) (r : Req) (h_s : s.Kept) : (State.atomicOf s r).Kept := by
  unfold State.atomicOf
  repeat' (first | with_reducible assumption | with_reducible apply State.access_kept | with_reducible apply State.clientRequest_kept | with_reducible apply State.arrive_kept | (simp only [↓kept_mk]; first | with_reducible apply State.Kept.parts | with_reducible apply keptParts.mem | with_reducible apply keptParts.regs) | dsimp only | split | (intro))

theorem State.peerAccess_kept (s : State) (p : QPkt) (op : AccOp) (h_s : s.Kept) : (State.peerAccess s p op).Kept := by
  unfold State.peerAccess
  repeat' (first | with_reducible assumption | with_reducible apply State.access_kept | with_reducible apply State.respond_kept | with_reducible apply State.setupAccess_kept | with_reducible apply State.respondErr_kept | with_reducible refine PairKept.elim (by with_reducible assumption) ?_ | with_reducible exact PairResKept.error | with_reducible exact PairResKept.fail | with_reducible apply PairResKept.ok | with_reducible apply PairResKept.okPair | with_reducible apply PairResKept.bind | with_reducible apply PairResKept.map | with_reducible refine PairResKept.elim (by with_reducible assumption) ?_ | with_reducible refine PairResKept.elimFst (by with_reducible assumption) ?_ | (simp only [↓kept_mk]; first | with_reducible apply State.Kept.parts | with_reducible apply keptParts.mem | with_reducible apply keptParts.regs) | dsimp only | split | with_reducible apply PairKept.pair | (intro))

theorem State.dropOut_kept (s : State) (o : KlOut) (h_s : s.Kept) : (State.dropOut s o).Kept := by
  unfold State.dropOut
  repeat' (first | with_reducible assumption | (simp only [↓kept_mk]; first | with_reducible apply State.Kept.parts | with_reducible apply keptParts.mem | with_reducible apply keptParts.regs) | dsimp only | split | (intro))

theorem State.klFailed_kept (s : State) (o : KlOut) (h_s : s.Kept) : (State.klFailed s o).Kept := by
  unfold State.klFailed
  repeat' (first | with_reducible assumption | with_reducible apply State.record_kept | with_reducible apply State.dropOut_kept | with_reducible apply State.ringAnswered_kept | with_reducible apply State.endFills_kept | with_reducible apply State.incSatAt_kept | with_reducible apply State.endWrites_kept | with_reducible apply State.writebackFailed_kept | with_reducible apply State.faultRing_kept | with_reducible apply State.logDue_kept | (simp only [↓kept_mk]; first | with_reducible apply State.Kept.parts | with_reducible apply keptParts.mem | with_reducible apply keptParts.regs) | dsimp only | split | (intro))

theorem State.thFill_kept (s : State) (id : Nat) (again : Bool) (bytes : List Byte) (bad : List Nat) (h_s : s.Kept) : (State.thFill s id again bytes bad).Kept := by
  unfold State.thFill
  repeat' (first | with_reducible assumption | with_reducible apply State.fillDone_kept | with_reducible apply State.incSat_kept | with_reducible apply State.startFill_kept | with_reducible apply State.setFrame_kept | with_reducible apply State.tagLost_kept | with_reducible apply State.retryFills_kept | (simp only [↓kept_mk]; first | with_reducible apply State.Kept.parts | with_reducible apply keptParts.mem | with_reducible apply keptParts.regs) | dsimp only | split | (intro))

theorem State.klBytes_kept (s : State) (o : KlOut) (h_s : s.Kept) : (State.klBytes s o).Kept := by
  unfold State.klBytes
  repeat' (first | with_reducible assumption | with_reducible apply State.dropOut_kept | with_reducible apply State.take_kept | with_reducible apply State.setRing_kept | with_reducible apply State.thFill_kept | (simp only [↓kept_mk]; first | with_reducible apply State.Kept.parts | with_reducible apply keptParts.mem | with_reducible apply keptParts.regs) | dsimp only | split | (intro))

theorem State.klWritten_kept (s : State) (o : KlOut) (h_s : s.Kept) : (State.klWritten s o).Kept := by
  unfold State.klWritten
  repeat' (first | with_reducible assumption | with_reducible apply State.dropOut_kept | with_reducible apply State.wroteBack_kept | with_reducible apply State.ringAnswered_kept | with_reducible apply State.setFrame_kept | (simp only [↓kept_mk]; first | with_reducible apply State.Kept.parts | with_reducible apply keptParts.mem | with_reducible apply keptParts.regs) | dsimp only | split | (intro))

end Sys2Proof.Machine
end

