-- ==== Sys2Proof/Laws/KeptCoh.lean ====
section
/-! SUPPORT. The functions of Coh keep the canonical form of the state. -/

set_option linter.unusedTactic false
set_option linter.unreachableTactic false
set_option simprocs false

namespace Sys2Proof.Machine

theorem State.tryServe_kept (s : State) (r : Req) (line typ : Nat) (h_s : s.Kept) : PairKept (State.tryServe s r line typ) := by
  unfold State.tryServe
  repeat' (first | with_reducible assumption | with_reducible apply State.serveCoh_kept | with_reducible apply State.startNeeds_kept | with_reducible apply State.answerErr_kept | with_reducible apply PairKept.fst | with_reducible refine PairKept.elim (by with_reducible assumption) ?_ | (simp only [↓kept_mk]; first | with_reducible apply State.Kept.parts | with_reducible apply keptParts.mem | with_reducible apply keptParts.regs) | dsimp only | split | with_reducible apply PairKept.pair | (intro))

theorem State.cohServe_kept (s : State) (r : Req) (line typ credit : Nat) (blocked : Bool) (h_s : s.Kept) : (State.cohServe s r line typ credit blocked).Kept := by
  unfold State.cohServe
  repeat' (first | with_reducible assumption | with_reducible apply State.retry_kept | with_reducible apply State.incSat_kept | with_reducible apply State.tryServe_kept | with_reducible apply State.serve_kept | with_reducible apply State.advanceServe_kept | with_reducible apply State.ticket_kept | with_reducible apply PairKept.fst | with_reducible refine PairKept.elim (by with_reducible assumption) ?_ | (simp only [↓kept_mk]; first | with_reducible apply State.Kept.parts | with_reducible apply keptParts.mem | with_reducible apply keptParts.regs) | dsimp only | split | with_reducible apply PairKept.pair | (intro))

theorem State.homeCoh_kept (s0 : State) (r : Req) (node slice line typ credit : Nat) (h_s0 : s0.Kept) : (State.homeCoh s0 r node slice line typ credit).Kept := by
  unfold State.homeCoh
  repeat' (first | with_reducible assumption | with_reducible apply State.incSat_kept | with_reducible apply State.cohServe_kept | with_reducible apply State.freshen_kept | with_reducible apply State.answerErr_kept | with_reducible apply State.cohSample_kept | with_reducible apply State.answered_kept | (simp only [↓kept_mk]; first | with_reducible apply State.Kept.parts | with_reducible apply keptParts.mem | with_reducible apply keptParts.regs) | dsimp only | split | (intro))

theorem State.clientCoh_kept (s : State) (port slice : Nat) (p : KPkt) (h_s : s.Kept) : (State.clientCoh s port slice p).Kept := by
  unfold State.clientCoh
  extract_lets
  split
  · exact State.answerErr_kept _ _ _ h_s
  · split
    · exact State.answerErr_kept _ _ _ (State.noteTry_kept _ _ _ _ _ h_s)
    · exact h_s
    · split
      · exact h_s
      · split
        · exact State.answerErr_kept _ _ _ (State.noteAccess_kept _ _ _ _ _ _ h_s)
        · split
          · split
            · exact State.answerErr_kept _ _ _ (State.noteAccess_kept _ _ _ _ _ _ h_s)
            · split
              · exact State.homeCoh_kept _ _ _ _ _ _ _ (State.noteAccess_kept _ _ _ _ _ _ h_s)
              · split
                · simp only [↓kept_mk]; exact h_s.parts
                · exact State.access_kept _ _ (State.noteAccess_kept _ _ _ _ _ _ h_s)
          · split
            · exact State.answerErr_kept _ _ _ (State.noteAccess_kept _ _ _ _ _ _ h_s)
            · exact State.sendReq_kept _ _ _ _ (State.noteAccess_kept _ _ _ _ _ _ h_s)

theorem State.cohRequest_kept (s : State) (typ : Nat) (r : Req) (h_s : s.Kept) : (State.cohRequest s typ r).Kept := by
  unfold State.cohRequest
  repeat' (first | with_reducible assumption | with_reducible apply State.clientCoh_kept | with_reducible apply State.access_kept | with_reducible apply State.fromClient_kept | with_reducible apply State.answerErr_kept | with_reducible apply State.arrive_kept | with_reducible apply State.homeCoh_kept | (simp only [↓kept_mk]; first | with_reducible apply State.Kept.parts | with_reducible apply keptParts.mem | with_reducible apply keptParts.regs) | dsimp only | split | (intro))

theorem State.holderAnswer_kept (s : State) (line : Nat) (h : Nat × Nat) (typ : Nat) (data : List Byte) (poison : Bool) (h_s : s.Kept) : OptKept (State.holderAnswer s line h typ data poison) := by
  unfold State.holderAnswer
  repeat' (first | with_reducible assumption | with_reducible apply State.noteTrip_kept | with_reducible apply State.reapRevoke_kept | with_reducible apply State.finishHomes_kept | with_reducible apply State.sweepAnswer_kept | with_reducible apply State.answered_kept | with_reducible apply State.reapSweeps_kept | with_reducible exact OptKept.none | with_reducible apply OptKept.some | with_reducible apply OptKept.map | with_reducible apply OptKept.bind | with_reducible apply OptKept.findSome | with_reducible apply OptKept.getD | with_reducible refine OptKept.elim (by with_reducible assumption) ?_ | (simp only [↓kept_mk]; first | with_reducible apply State.Kept.parts | with_reducible apply keptParts.mem | with_reducible apply keptParts.regs) | dsimp only | split | (intro))

theorem State.cohAnswer_kept (s0 : State) (typ : Nat) (r : Req) (h_s0 : s0.Kept) : (State.cohAnswer s0 typ r).Kept := by
  unfold State.cohAnswer
  repeat' (first | with_reducible assumption | with_reducible apply State.incSat_kept | with_reducible apply State.takeRx_kept | with_reducible apply State.sendQf_kept | with_reducible apply State.unmatched_kept | with_reducible apply State.holderAnswer_kept | with_reducible exact OptKept.none | with_reducible apply OptKept.some | with_reducible apply OptKept.map | with_reducible apply OptKept.bind | with_reducible apply OptKept.findSome | with_reducible apply OptKept.getD | with_reducible refine OptKept.elim (by with_reducible assumption) ?_ | (simp only [↓kept_mk]; first | with_reducible apply State.Kept.parts | with_reducible apply keptParts.mem | with_reducible apply keptParts.regs) | dsimp only | split | (intro))

theorem State.homeWb_kept (s0 : State) (r : Req) (line : Nat) (data : Option (List Byte × Bool)) (h_s0 : s0.Kept) : (State.homeWb s0 r line data).Kept := by
  unfold State.homeWb
  repeat' (first | with_reducible assumption | with_reducible apply State.incSat_kept | with_reducible apply State.reapRevoke_kept | with_reducible apply State.freshen_kept | with_reducible apply State.finishHomes_kept | with_reducible apply State.storeLine_kept | with_reducible apply State.answer_kept | with_reducible apply State.reapSweeps_kept | with_reducible apply State.dropEntry_kept | (simp only [↓kept_mk]; first | with_reducible apply State.Kept.parts | with_reducible apply keptParts.mem | with_reducible apply keptParts.regs) | dsimp only | split | (intro))

theorem State.clientWb_kept (s : State) (port slice : Nat) (p : KPkt) (data : Option (List Byte × Bool)) (h_s : s.Kept) :
    (State.clientWb s port slice p data).Kept := by
  unfold State.clientWb
  extract_lets
  split
  · exact State.answerErr_kept _ _ _ (State.noteTry_kept _ _ _ _ _ h_s)
  · exact h_s
  · split
    · exact h_s
    · split
      · exact State.answerErr_kept _ _ _ (State.noteAccess_kept _ _ _ _ _ _ h_s)
      · split
        · exact State.homeWb_kept _ _ _ _ (State.noteAccess_kept _ _ _ _ _ _ h_s)
        · split
          · exact State.answerErr_kept _ _ _ (State.noteAccess_kept _ _ _ _ _ _ h_s)
          · exact State.sendReq_kept _ _ _ _ (State.noteAccess_kept _ _ _ _ _ _ h_s)

theorem State.giveUp_kept (s : State) (typ : Nat) (r : Req) (h_s : s.Kept) : (State.giveUp s typ r).Kept := by
  unfold State.giveUp
  repeat' (first | with_reducible assumption | with_reducible apply State.fromClient_kept | with_reducible apply State.homeWb_kept | with_reducible apply State.answerErr_kept | with_reducible apply State.clientWb_kept | with_reducible apply State.arrive_kept | (simp only [↓kept_mk]; first | with_reducible apply State.Kept.parts | with_reducible apply keptParts.mem | with_reducible apply keptParts.regs) | dsimp only | split | (intro))

theorem State.endHold_kept (s : State) (e : DirEntry) (h_s : s.Kept) : (State.endHold s e).Kept := by
  unfold State.endHold
  repeat' (first | with_reducible assumption | with_reducible apply State.setEntry_kept | with_reducible apply State.finishHomes_kept | with_reducible apply State.reapSweeps_kept | with_reducible apply State.sweepLine_kept | with_reducible apply State.reapRevoke_kept | (simp only [↓kept_mk]; first | with_reducible apply State.Kept.parts | with_reducible apply keptParts.mem | with_reducible apply keptParts.regs) | dsimp only | split | (intro))

theorem State.passAsk_kept (s : State) (port : Nat) (p : QPkt) (h_s : s.Kept) : (State.passAsk s port p).Kept := by
  unfold State.passAsk
  repeat' (first | with_reducible assumption | with_reducible apply State.sendKl_kept | with_reducible apply State.respond_kept | (simp only [↓kept_mk]; first | with_reducible apply State.Kept.parts | with_reducible apply keptParts.mem | with_reducible apply keptParts.regs) | dsimp only | split | (intro))

end Sys2Proof.Machine
end

