-- ==== Sys2Proof/Laws/KeptHomeOps.lean ====
section
/-! SUPPORT. The functions of HomeOps keep the canonical form of the state. -/

set_option linter.unusedTactic false
set_option linter.unreachableTactic false
set_option simprocs false

namespace Sys2Proof.Machine

theorem State.homeStart_kept (s : State) (p : QPkt) (h_s : s.Kept) : (State.homeStart s p).Kept := by
  unfold State.homeStart
  repeat' (first | with_reducible assumption | with_reducible apply State.respondErr_kept | (simp only [↓kept_mk]; first | with_reducible apply State.Kept.parts | with_reducible apply keptParts.mem | with_reducible apply keptParts.regs) | dsimp only | split | (intro))

end Sys2Proof.Machine
end

