-- ==== Sys2Proof/Laws/KeptConsume.lean ====
section
/-! SUPPORT. The functions of Consume keep the canonical form of the state. -/

set_option linter.unusedTactic false
set_option linter.unreachableTactic false
set_option simprocs false

namespace Sys2Proof.Machine

theorem State.readAhead_kept (s : State) (r : Ring) (h_s : s.Kept) : (State.readAhead s r).Kept := by
  unfold State.readAhead
  repeat' (first | with_reducible assumption | with_reducible apply State.sendKl_kept | with_reducible apply State.faultRing_kept | (simp only [↓kept_mk]; first | with_reducible apply State.Kept.parts | with_reducible apply keptParts.mem | with_reducible apply keptParts.regs) | dsimp only | split | (intro))

theorem State.noteOperands_kept (s : State) (d : Desc) (h_s : s.Kept) : (State.noteOperands s d).Kept := by
  unfold State.noteOperands
  extract_lets block
  refine PairKept.fst (foldl_pairKept (s.operands d) (s, true) _ (PairKept.pair h_s) (fun t o ht => ?_))
  beta_reduce
  split
  · exact ht
  · split
    · exact PairKept.pair ht.fst
    · exact PairKept.pair (State.noteWalks_kept _ _ _ _ ht.fst)

theorem State.countReject_kept (s : State) (d : Desc) (f : Fail) (h_s : s.Kept) : (State.countReject s d f).Kept := by
  unfold State.countReject
  repeat' (first | with_reducible assumption | with_reducible apply State.incSat_kept | (simp only [↓kept_mk]; first | with_reducible apply State.Kept.parts | with_reducible apply keptParts.mem | with_reducible apply keptParts.regs) | dsimp only | split | (intro))

theorem State.newRound_kept (s : State) (r : Ring) (h_s : s.Kept) : (State.newRound s r).Kept := by
  unfold State.newRound
  repeat' (first | with_reducible assumption | (simp only [↓kept_mk]; first | with_reducible apply State.Kept.parts | with_reducible apply keptParts.mem | with_reducible apply keptParts.regs) | dsimp only | split | (intro))

theorem State.take_kept (s : State) (r : Ring) (n : Nat) (d : Desc) (h_s : s.Kept) : (State.take s r n d).Kept := by
  unfold State.take
  repeat' (first | with_reducible assumption | with_reducible apply State.obs_kept | with_reducible apply State.writeStatus_kept | with_reducible apply State.serve_kept | with_reducible apply State.newRound_kept | with_reducible apply State.setShare_kept | with_reducible apply State.touchRing_kept | (simp only [↓kept_mk]; first | with_reducible apply State.Kept.parts | with_reducible apply keptParts.mem | with_reducible apply keptParts.regs) | dsimp only | split | (intro))

theorem State.judgeWaits_kept (s : State) (r : Ring) (ns : List Need) (h_s : s.Kept) : (State.judgeWaits s r ns).Kept := by
  unfold State.judgeWaits
  repeat' (first | with_reducible assumption | with_reducible apply State.startNeeds_kept | (simp only [↓kept_mk]; first | with_reducible apply State.Kept.parts | with_reducible apply keptParts.mem | with_reducible apply keptParts.regs) | dsimp only | split | (intro))

theorem State.holdRing_kept (s : State) (slice num idx : Nat) (h_s : s.Kept) : (State.holdRing s slice num idx).Kept := by
  unfold State.holdRing
  repeat' (first | with_reducible assumption | (simp only [↓kept_mk]; first | with_reducible apply State.Kept.parts | with_reducible apply keptParts.mem | with_reducible apply keptParts.regs) | dsimp only | split | (intro))

theorem State.consumeDesc_kept (s : State) (r : Ring) (n : Nat) (d : Desc) (h_s : s.Kept) : (State.consumeDesc s r n d).Kept := by
  unfold State.consumeDesc
  have h1 := State.take_kept _ r n d (State.noteOperands_kept s d h_s)
  generalize s.judged r d = j
  cases j with
  | error e =>
    cases e with
    | err f => exact State.countReject_kept _ _ _ (State.take_kept _ _ _ _ (ite_kept (State.noteOperands_kept s d h_s) h_s))
    | wait ns => exact State.judgeWaits_kept _ _ _ h_s
  | ok u => exact ite_kept (State.holdRing_kept _ _ _ _ h1) h1

theorem State.consumeNext_kept (s : State) (r : Ring) (x : Next) (h_s : s.Kept) : (State.consumeNext s r x).Kept := by
  unfold State.consumeNext
  cases x with
  | later ns =>
    show (if r.loc = 1 then (s.startNeeds ns).readAhead r else s.startNeeds ns).Kept
    split
    · exact State.readAhead_kept _ _ (State.startNeeds_kept _ _ h_s)
    · exact State.startNeeds_kept _ _ h_s
  | skip n a => exact State.raise_kept _ _ (State.take_kept _ _ _ _ h_s)
  | desc n raw => exact State.consumeDesc_kept _ _ _ _ h_s

theorem State.consume_kept (s : State) (r : Ring) (h_s : s.Kept) : (State.consume s r).Kept := by
  unfold State.consume
  exact ite_kept (State.consumeNext_kept _ _ _ h_s) h_s

theorem State.runOn_kept (s : State) (d : Desc) (engine : Nat) (f : Desc → Desc) (h_s : s.Kept) : (State.runOn s d engine f).Kept := by
  unfold State.runOn
  repeat' (first | with_reducible assumption | with_reducible apply State.setDesc_kept | (simp only [↓kept_mk]; first | with_reducible apply State.Kept.parts | with_reducible apply keptParts.mem | with_reducible apply keptParts.regs) | dsimp only | split | (intro))

theorem State.endStart_kept (s : State) (d : Desc) (f : Fail) (h_s : s.Kept) : (State.endStart s d f).Kept := by
  unfold State.endStart
  repeat' (first | with_reducible assumption | with_reducible apply State.runOn_kept | with_reducible apply State.endDesc_kept | (simp only [↓kept_mk]; first | with_reducible apply State.Kept.parts | with_reducible apply keptParts.mem | with_reducible apply keptParts.regs) | dsimp only | split | (intro))

theorem State.startWaits_kept (s : State) (d : Desc) (ns : List Need) (h_s : s.Kept) : (State.startWaits s d ns).Kept := by
  unfold State.startWaits
  repeat' (first | with_reducible assumption | with_reducible apply State.startNeeds_kept | (simp only [↓kept_mk]; first | with_reducible apply State.Kept.parts | with_reducible apply keptParts.mem | with_reducible apply keptParts.regs) | dsimp only | split | (intro))

theorem State.startAttention_kept (s : State) (d : Desc) (h_s : s.Kept) : (State.startAttention s d).Kept := by
  unfold State.startAttention
  repeat' (first | with_reducible assumption | with_reducible apply State.incSat_kept | with_reducible apply State.endStart_kept | with_reducible apply State.runOn_kept | with_reducible apply State.startWaits_kept | (simp only [↓kept_mk]; first | with_reducible apply State.Kept.parts | with_reducible apply keptParts.mem | with_reducible apply keptParts.regs) | dsimp only | split | (intro))

theorem State.startSearch_kept (s : State) (d : Desc) (h_s : s.Kept) : (State.startSearch s d).Kept := by
  unfold State.startSearch
  repeat' (first | with_reducible assumption | with_reducible apply State.incSat_kept | with_reducible apply State.endStart_kept | with_reducible apply State.runOn_kept | with_reducible apply State.moreContexts_kept | with_reducible apply State.startWaits_kept | with_reducible apply PairKept.fst | with_reducible refine PairKept.elim (by with_reducible assumption) ?_ | (simp only [↓kept_mk]; first | with_reducible apply State.Kept.parts | with_reducible apply keptParts.mem | with_reducible apply keptParts.regs) | dsimp only | split | with_reducible apply PairKept.pair | (intro))

theorem State.startGleaner_kept (s : State) (d : Desc) (h_s : s.Kept) : (State.startGleaner s d).Kept := by
  unfold State.startGleaner
  repeat' (first | with_reducible assumption | with_reducible apply State.runOn_kept | (simp only [↓kept_mk]; first | with_reducible apply State.Kept.parts | with_reducible apply keptParts.mem | with_reducible apply keptParts.regs) | dsimp only | split | (intro))

theorem State.startMove_kept (s : State) (d : Desc) (h_s : s.Kept) : (State.startMove s d).Kept := by
  unfold State.startMove
  repeat' (first | with_reducible assumption | with_reducible apply State.runOn_kept | (simp only [↓kept_mk]; first | with_reducible apply State.Kept.parts | with_reducible apply keptParts.mem | with_reducible apply keptParts.regs) | dsimp only | split | (intro))

theorem State.homeFrom_kept (s : State) (d : Desc) (h_s : s.Kept) : (State.homeFrom s d).Kept := by
  unfold State.homeFrom
  repeat' (first | with_reducible assumption | with_reducible apply State.runOn_kept | with_reducible apply State.takeNat_kept | with_reducible apply State.take_kept | with_reducible apply State.homeAnswer_kept | with_reducible apply State.sendReq_kept | with_reducible apply SndKept.snd | with_reducible refine SndKept.elim (by with_reducible assumption) ?_ | (simp only [↓kept_mk]; first | with_reducible apply State.Kept.parts | with_reducible apply keptParts.mem | with_reducible apply keptParts.regs) | dsimp only | split | with_reducible apply SndKept.pair | (intro))

theorem State.startHome_kept (s : State) (d : Desc) (h_s : s.Kept) : (State.startHome s d).Kept := by
  unfold State.startHome
  repeat' (first | with_reducible assumption | with_reducible apply State.homeFrom_kept | (simp only [↓kept_mk]; first | with_reducible apply State.Kept.parts | with_reducible apply keptParts.mem | with_reducible apply keptParts.regs) | dsimp only | split | (intro))

theorem State.startDesc_kept (s : State) (d : Desc) (h_s : s.Kept) : (State.startDesc s d).Kept := by
  unfold State.startDesc
  repeat' (first | with_reducible assumption | with_reducible apply State.startHome_kept | with_reducible apply State.startAttention_kept | with_reducible apply State.startMove_kept | with_reducible apply State.runOn_kept | with_reducible apply State.startSearch_kept | with_reducible apply State.startGleaner_kept | (simp only [↓kept_mk]; first | with_reducible apply State.Kept.parts | with_reducible apply keptParts.mem | with_reducible apply keptParts.regs) | dsimp only | split | (intro))

end Sys2Proof.Machine
end

