-- ==== Sys2Proof/Laws/KeptTick.lean ====
section
/-! SUPPORT. The functions of Tick keep the canonical form of the state. -/

set_option linter.unusedTactic false
set_option linter.unreachableTactic false
set_option simprocs false

namespace Sys2Proof.Machine

theorem State.tick_kept (s : State) (h_s : s.Kept) : (State.tick s).Kept := by
  unfold State.tick
  repeat' (first | with_reducible assumption | with_reducible apply State.reapRevoke_kept | with_reducible apply State.retryCompose_kept | with_reducible apply State.pumpHeld_kept | with_reducible apply State.endRefused_kept | with_reducible apply State.pumpRsp_kept | with_reducible apply State.setFld_kept | with_reducible apply State.obsCycle_kept | with_reducible apply State.retryFills_kept | with_reducible apply State.retryRingCmd_kept | with_reducible apply State.pumpAsks_kept | (simp only [↓kept_mk]; first | with_reducible apply State.Kept.parts | with_reducible apply keptParts.mem | with_reducible apply keptParts.regs) | dsimp only | split | (intro))

end Sys2Proof.Machine
end

