-- ==== Sys2Proof/Laws/Registers.lean ====
section
/-! SUPPORT. What a plain write of a register does, field by field (R10 to R12). -/

namespace Sys2Proof.Machine

set_option maxRecDepth 100000 in
/-- The fields of every register lie within the word and do not overlap. -/
theorem regTable_fields : regTable.all (fun r => decide (r.fields.Pairwise (fun f g => f.lo + f.width ≤ g.lo ∨ g.lo + g.width ≤ f.lo)) && r.fields.all (fun f => decide (f.lo + f.width ≤ 64))) = true := by
  decide +kernel

theorem findReg_mem {off i : Nat} {r : RegSpec} (h : findReg off = some (r, i)) : r ∈ regTable := by
  unfold findReg at h
  obtain ⟨x, hx, h2⟩ := List.exists_of_findSome?_eq_some h
  split at h2
  · simp at h2; rw [← h2.1]; exact hx
  · cases h2

theorem FSpec.after_lt (f : FSpec) (l ok : Bool) (o w : Nat) : f.after l ok o w < 2 ^ f.width := by
  have h1 : bits o f.lo f.width < 2 ^ f.width := Nat.mod_lt _ (Nat.two_pow_pos _)
  have h2 : bits w f.lo f.width < 2 ^ f.width := Nat.mod_lt _ (Nat.two_pow_pos _)
  unfold FSpec.after; dsimp only; split <;> try split
  all_goals first | assumption | omega

/-- Setting fields that do not overlap, one after the other. -/
theorem fold_fields (off : Nat) (F : FSpec → Nat) (l : List FSpec) (x : Word)
    (hp : l.Pairwise (fun f g => f.lo + f.width ≤ g.lo ∨ g.lo + g.width ≤ f.lo)) (hw : ∀ f ∈ l, f.lo + f.width ≤ 64) :
    (∀ f ∈ l, bits (l.foldl (fun (x : Word) f => (Fld.mk off 8 f.lo f.width).set x (F f)) x).toNat f.lo f.width = F f % 2 ^ f.width) ∧
    (∀ g : FSpec, (∀ f ∈ l, f.lo + f.width ≤ g.lo ∨ g.lo + g.width ≤ f.lo) → bits (l.foldl (fun (x : Word) f => (Fld.mk off 8 f.lo f.width).set x (F f)) x).toNat g.lo g.width = bits x.toNat g.lo g.width) := by
  induction l generalizing x with
  | nil => simp
  | cons a l ih =>
    rw [List.pairwise_cons] at hp
    have ih' := ih ((Fld.mk off 8 a.lo a.width).set x (F a)) hp.2 (fun f hf => hw f (List.mem_cons_of_mem _ hf))
    have ha := hw a List.mem_cons_self
    refine ⟨?_, ?_⟩
    · intro f hf
      rcases List.mem_cons.mp hf with rfl | hf
      · rw [List.foldl_cons, ih'.2 f (fun g hg => (hp.1 g hg).symm)]
        exact Fld.get_set ⟨off, 8, f.lo, f.width⟩ x _ ha
      · exact ih'.1 f hf
    · intro g hg
      rw [List.foldl_cons, ih'.2 g (fun f hf => hg f (List.mem_cons_of_mem _ hf))]
      exact Fld.get_set_ne ⟨off, 8, a.lo, a.width⟩ ⟨off, 8, g.lo, g.width⟩ x _ ha (hg a List.mem_cons_self).symm

/-- A plain write leaves each field at what `FSpec.after` gives, and changes no other register. -/
theorem State.plainWrite_fields (s : State) (off i : Nat) (w : Word) (ok : String → Nat → Bool) (r : RegSpec) (h : findReg off = some (r, i)) :
    (∀ f ∈ r.fields, bits ((s.plainWrite off w ok).word off).toNat f.lo f.width = f.after s.locked (ok f.name (bits w.toNat f.lo f.width)) (s.word off).toNat w.toNat) ∧
    (∀ o, o ≠ off → (s.plainWrite off w ok).word o = s.word o) ∧ s.plainWrite off w ok = { s with regs := (s.plainWrite off w ok).regs } := by
  have hr := List.all_eq_true.mp regTable_fields r (findReg_mem h)
  simp only [Bool.and_eq_true, decide_eq_true_eq, List.all_eq_true] at hr
  unfold State.plainWrite
  rw [h]
  refine ⟨?_, ?_, rfl⟩
  · intro f hf
    dsimp only
    rw [State.word_setWord_same]
    refine ((fold_fields off (fun f => f.after s.locked (ok f.name (bits w.toNat f.lo f.width)) (s.word off).toNat w.toNat) r.fields (s.word off) hr.1 hr.2).1 f hf).trans ?_
    exact Nat.mod_eq_of_lt (FSpec.after_lt ..)
  · intro o ho
    exact State.word_setWord_ne _ _ _ _ ho

end Sys2Proof.Machine
end

