-- ==== Sys2Proof/Laws/State.lean ====
section
/-! SUPPORT. What each named update of the state leaves unchanged, field by field. -/

namespace Sys2Proof.Machine

/-! ### `State.setWord`: a register word stored -/

@[simp] theorem State.setWord_pending (s : State) (off : Nat) (w : Word) : (s.setWord off w).pending = s.pending := rfl
@[simp] theorem State.setWord_fresh (s : State) (off : Nat) (w : Word) : (s.setWord off w).fresh = s.fresh := rfl
@[simp] theorem State.setWord_code432 (s : State) (off : Nat) (w : Word) : (s.setWord off w).code432 = s.code432 := rfl
@[simp] theorem State.setWord_mem (s : State) (off : Nat) (w : Word) : (s.setWord off w).mem = s.mem := rfl
@[simp] theorem State.setWord_poison (s : State) (off : Nat) (w : Word) : (s.setWord off w).poison = s.poison := rfl
@[simp] theorem State.setWord_rings (s : State) (off : Nat) (w : Word) : (s.setWord off w).rings = s.rings := rfl
@[simp] theorem State.setWord_ringReq (s : State) (off : Nat) (w : Word) : (s.setWord off w).ringReq = s.ringReq := rfl
@[simp] theorem State.setWord_descs (s : State) (off : Nat) (w : Word) : (s.setWord off w).descs = s.descs := rfl
@[simp] theorem State.setWord_queues (s : State) (off : Nat) (w : Word) : (s.setWord off w).queues = s.queues := rfl
@[simp] theorem State.setWord_passes (s : State) (off : Nat) (w : Word) : (s.setWord off w).passes = s.passes := rfl
@[simp] theorem State.setWord_arrSlice (s : State) (off : Nat) (w : Word) : (s.setWord off w).arrSlice = s.arrSlice := rfl
@[simp] theorem State.setWord_arrMem (s : State) (off : Nat) (w : Word) : (s.setWord off w).arrMem = s.arrMem := rfl
@[simp] theorem State.setWord_regions (s : State) (off : Nat) (w : Word) : (s.setWord off w).regions = s.regions := rfl
@[simp] theorem State.setWord_extents (s : State) (off : Nat) (w : Word) : (s.setWord off w).extents = s.extents := rfl
@[simp] theorem State.setWord_frames (s : State) (off : Nat) (w : Word) : (s.setWord off w).frames = s.frames := rfl
@[simp] theorem State.setWord_nextFrame (s : State) (off : Nat) (w : Word) : (s.setWord off w).nextFrame = s.nextFrame := rfl
@[simp] theorem State.setWord_zeroed (s : State) (off : Nat) (w : Word) : (s.setWord off w).zeroed = s.zeroed := rfl
@[simp] theorem State.setWord_mediaWait (s : State) (off : Nat) (w : Word) : (s.setWord off w).mediaWait = s.mediaWait := rfl
@[simp] theorem State.setWord_borage (s : State) (off : Nat) (w : Word) : (s.setWord off w).borage = s.borage := rfl
@[simp] theorem State.setWord_retired (s : State) (off : Nat) (w : Word) : (s.setWord off w).retired = s.retired := rfl
@[simp] theorem State.setWord_drives (s : State) (off : Nat) (w : Word) : (s.setWord off w).drives = s.drives := rfl
@[simp] theorem State.setWord_nvme (s : State) (off : Nat) (w : Word) : (s.setWord off w).nvme = s.nvme := rfl
@[simp] theorem State.setWord_nextCmd (s : State) (off : Nat) (w : Word) : (s.setWord off w).nextCmd = s.nextCmd := rfl
@[simp] theorem State.setWord_nextDrive (s : State) (off : Nat) (w : Word) : (s.setWord off w).nextDrive = s.nextDrive := rfl
@[simp] theorem State.setWord_background (s : State) (off : Nat) (w : Word) : (s.setWord off w).background = s.background := rfl
@[simp] theorem State.setWord_xlCache (s : State) (off : Nat) (w : Word) : (s.setWord off w).xlCache = s.xlCache := rfl
@[simp] theorem State.setWord_xlCounts (s : State) (off : Nat) (w : Word) : (s.setWord off w).xlCounts = s.xlCounts := rfl
@[simp] theorem State.setWord_invals (s : State) (off : Nat) (w : Word) : (s.setWord off w).invals = s.invals := rfl
@[simp] theorem State.setWord_dir (s : State) (off : Nat) (w : Word) : (s.setWord off w).dir = s.dir := rfl
@[simp] theorem State.setWord_slots (s : State) (off : Nat) (w : Word) : (s.setWord off w).slots = s.slots := rfl
@[simp] theorem State.setWord_slotGens (s : State) (off : Nat) (w : Word) : (s.setWord off w).slotGens = s.slotGens := rfl
@[simp] theorem State.setWord_recalls (s : State) (off : Nat) (w : Word) : (s.setWord off w).recalls = s.recalls := rfl
@[simp] theorem State.setWord_trips (s : State) (off : Nat) (w : Word) : (s.setWord off w).trips = s.trips := rfl
@[simp] theorem State.setWord_sweeps (s : State) (off : Nat) (w : Word) : (s.setWord off w).sweeps = s.sweeps := rfl
@[simp] theorem State.setWord_bankQ (s : State) (off : Nat) (w : Word) : (s.setWord off w).bankQ = s.bankQ := rfl
@[simp] theorem State.setWord_fillQ (s : State) (off : Nat) (w : Word) : (s.setWord off w).fillQ = s.fillQ := rfl
@[simp] theorem State.setWord_mapPrev (s : State) (off : Nat) (w : Word) : (s.setWord off w).mapPrev = s.mapPrev := rfl
@[simp] theorem State.setWord_mapCur (s : State) (off : Nat) (w : Word) : (s.setWord off w).mapCur = s.mapCur := rfl
@[simp] theorem State.setWord_mapPrep (s : State) (off : Nat) (w : Word) : (s.setWord off w).mapPrep = s.mapPrep := rfl
@[simp] theorem State.setWord_grace (s : State) (off : Nat) (w : Word) : (s.setWord off w).grace = s.grace := rfl
@[simp] theorem State.setWord_keeper (s : State) (off : Nat) (w : Word) : (s.setWord off w).keeper = s.keeper := rfl
@[simp] theorem State.setWord_fenceEpoch (s : State) (off : Nat) (w : Word) : (s.setWord off w).fenceEpoch = s.fenceEpoch := rfl
@[simp] theorem State.setWord_links (s : State) (off : Nat) (w : Word) : (s.setWord off w).links = s.links := rfl
@[simp] theorem State.setWord_cohOwed (s : State) (off : Nat) (w : Word) : (s.setWord off w).cohOwed = s.cohOwed := rfl
@[simp] theorem State.setWord_outReqs (s : State) (off : Nat) (w : Word) : (s.setWord off w).outReqs = s.outReqs := rfl
@[simp] theorem State.setWord_asks (s : State) (off : Nat) (w : Word) : (s.setWord off w).asks = s.asks := rfl
@[simp] theorem State.setWord_nextTag (s : State) (off : Nat) (w : Word) : (s.setWord off w).nextTag = s.nextTag := rfl
@[simp] theorem State.setWord_txns (s : State) (off : Nat) (w : Word) : (s.setWord off w).txns = s.txns := rfl
@[simp] theorem State.setWord_nextTxn (s : State) (off : Nat) (w : Word) : (s.setWord off w).nextTxn = s.nextTxn := rfl
@[simp] theorem State.setWord_threads (s : State) (off : Nat) (w : Word) : (s.setWord off w).threads = s.threads := rfl
@[simp] theorem State.setWord_held (s : State) (off : Nat) (w : Word) : (s.setWord off w).held = s.held := rfl
@[simp] theorem State.setWord_queue (s : State) (off : Nat) (w : Word) : (s.setWord off w).queue = s.queue := rfl
@[simp] theorem State.setWord_shares (s : State) (off : Nat) (w : Word) : (s.setWord off w).shares = s.shares := rfl
@[simp] theorem State.setWord_turns (s : State) (off : Nat) (w : Word) : (s.setWord off w).turns = s.turns := rfl
@[simp] theorem State.setWord_rx (s : State) (off : Nat) (w : Word) : (s.setWord off w).rx = s.rx := rfl
@[simp] theorem State.setWord_klClients (s : State) (off : Nat) (w : Word) : (s.setWord off w).klClients = s.klClients := rfl
@[simp] theorem State.setWord_klOuts (s : State) (off : Nat) (w : Word) : (s.setWord off w).klOuts = s.klOuts := rfl
@[simp] theorem State.setWord_klUnmatched (s : State) (off : Nat) (w : Word) : (s.setWord off w).klUnmatched = s.klUnmatched := rfl
@[simp] theorem State.setWord_klMayTrain (s : State) (off : Nat) (w : Word) : (s.setWord off w).klMayTrain = s.klMayTrain := rfl
@[simp] theorem State.setWord_dill (s : State) (off : Nat) (w : Word) : (s.setWord off w).dill = s.dill := rfl
@[simp] theorem State.setWord_killed (s : State) (off : Nat) (w : Word) : (s.setWord off w).killed = s.killed := rfl
@[simp] theorem State.setWord_cells (s : State) (off : Nat) (w : Word) : (s.setWord off w).cells = s.cells := rfl
@[simp] theorem State.setWord_auditDiff (s : State) (off : Nat) (w : Word) : (s.setWord off w).auditDiff = s.auditDiff := rfl
@[simp] theorem State.setWord_mirrorCnt (s : State) (off : Nat) (w : Word) : (s.setWord off w).mirrorCnt = s.mirrorCnt := rfl
@[simp] theorem State.setWord_mirror (s : State) (off : Nat) (w : Word) : (s.setWord off w).mirror = s.mirror := rfl
@[simp] theorem State.setWord_resets (s : State) (off : Nat) (w : Word) : (s.setWord off w).resets = s.resets := rfl
@[simp] theorem State.setWord_revoked (s : State) (off : Nat) (w : Word) : (s.setWord off w).revoked = s.revoked := rfl
@[simp] theorem State.setWord_revoking (s : State) (off : Nat) (w : Word) : (s.setWord off w).revoking = s.revoking := rfl
@[simp] theorem State.setWord_lent (s : State) (off : Nat) (w : Word) : (s.setWord off w).lent = s.lent := rfl
@[simp] theorem State.setWord_composing (s : State) (off : Nat) (w : Word) : (s.setWord off w).composing = s.composing := rfl
@[simp] theorem State.setWord_granted (s : State) (off : Nat) (w : Word) : (s.setWord off w).granted = s.granted := rfl
@[simp] theorem State.setWord_composeAt (s : State) (off : Nat) (w : Word) : (s.setWord off w).composeAt = s.composeAt := rfl
@[simp] theorem State.setWord_abortIds (s : State) (off : Nat) (w : Word) : (s.setWord off w).abortIds = s.abortIds := rfl
@[simp] theorem State.setWord_abandoned (s : State) (off : Nat) (w : Word) : (s.setWord off w).abandoned = s.abandoned := rfl
@[simp] theorem State.setWord_mergedAborts (s : State) (off : Nat) (w : Word) : (s.setWord off w).mergedAborts = s.mergedAborts := rfl
@[simp] theorem State.setWord_alarmExtra (s : State) (off : Nat) (w : Word) : (s.setWord off w).alarmExtra = s.alarmExtra := rfl
@[simp] theorem State.setWord_alarmSent (s : State) (off : Nat) (w : Word) : (s.setWord off w).alarmSent = s.alarmSent := rfl
@[simp] theorem State.setWord_dumpSeq (s : State) (off : Nat) (w : Word) : (s.setWord off w).dumpSeq = s.dumpSeq := rfl
@[simp] theorem State.setWord_dumpChanged (s : State) (off : Nat) (w : Word) : (s.setWord off w).dumpChanged = s.dumpChanged := rfl
@[simp] theorem State.setWord_dumpFrom (s : State) (off : Nat) (w : Word) : (s.setWord off w).dumpFrom = s.dumpFrom := rfl
@[simp] theorem State.setWord_scrCount (s : State) (off : Nat) (w : Word) : (s.setWord off w).scrCount = s.scrCount := rfl
@[simp] theorem State.setWord_scrSeq (s : State) (off : Nat) (w : Word) : (s.setWord off w).scrSeq = s.scrSeq := rfl
@[simp] theorem State.setWord_scrLfsr (s : State) (off : Nat) (w : Word) : (s.setWord off w).scrLfsr = s.scrLfsr := rfl
@[simp] theorem State.setWord_scrNext (s : State) (off : Nat) (w : Word) : (s.setWord off w).scrNext = s.scrNext := rfl
@[simp] theorem State.setWord_scrLast (s : State) (off : Nat) (w : Word) : (s.setWord off w).scrLast = s.scrLast := rfl
@[simp] theorem State.setWord_flash (s : State) (off : Nat) (w : Word) : (s.setWord off w).flash = s.flash := rfl
@[simp] theorem State.setWord_cfg (s : State) (off : Nat) (w : Word) : (s.setWord off w).cfg = s.cfg := rfl
@[simp] theorem State.setWord_fw (s : State) (off : Nat) (w : Word) : (s.setWord off w).fw = s.fw := rfl
@[simp] theorem State.setWord_ident (s : State) (off : Nat) (w : Word) : (s.setWord off w).ident = s.ident := rfl
@[simp] theorem State.setWord_meas (s : State) (off : Nat) (w : Word) : (s.setWord off w).meas = s.meas := rfl
@[simp] theorem State.setWord_mctp (s : State) (off : Nat) (w : Word) : (s.setWord off w).mctp = s.mctp := rfl
@[simp] theorem State.setWord_mctpOut (s : State) (off : Nat) (w : Word) : (s.setWord off w).mctpOut = s.mctpOut := rfl
@[simp] theorem State.setWord_carter (s : State) (off : Nat) (w : Word) : (s.setWord off w).carter = s.carter := rfl
@[simp] theorem State.setWord_carterLast (s : State) (off : Nat) (w : Word) : (s.setWord off w).carterLast = s.carterLast := rfl
@[simp] theorem State.setWord_logIntDue (s : State) (off : Nat) (w : Word) : (s.setWord off w).logIntDue = s.logIntDue := rfl
@[simp] theorem State.setWord_pwrok (s : State) (off : Nat) (w : Word) : (s.setWord off w).pwrok = s.pwrok := rfl
@[simp] theorem State.setWord_porHeld (s : State) (off : Nat) (w : Word) : (s.setWord off w).porHeld = s.porHeld := rfl
@[simp] theorem State.setWord_resetHeld (s : State) (off : Nat) (w : Word) : (s.setWord off w).resetHeld = s.resetHeld := rfl
@[simp] theorem State.setWord_straps (s : State) (off : Nat) (w : Word) : (s.setWord off w).straps = s.straps := rfl
@[simp] theorem State.setWord_railsBad (s : State) (off : Nat) (w : Word) : (s.setWord off w).railsBad = s.railsBad := rfl
@[simp] theorem State.setWord_tripped (s : State) (off : Nat) (w : Word) : (s.setWord off w).tripped = s.tripped := rfl
@[simp] theorem State.setWord_tStacks (s : State) (off : Nat) (w : Word) : (s.setWord off w).tStacks = s.tStacks := rfl
@[simp] theorem State.setWord_pkgHist (s : State) (off : Nat) (w : Word) : (s.setWord off w).pkgHist = s.pkgHist := rfl
@[simp] theorem State.setWord_admitted (s : State) (off : Nat) (w : Word) : (s.setWord off w).admitted = s.admitted := rfl
@[simp] theorem State.setWord_tapIr (s : State) (off : Nat) (w : Word) : (s.setWord off w).tapIr = s.tapIr := rfl
@[simp] theorem State.setWord_tapAddr (s : State) (off : Nat) (w : Word) : (s.setWord off w).tapAddr = s.tapAddr := rfl
@[simp] theorem State.setWord_tapDr (s : State) (off : Nat) (w : Word) : (s.setWord off w).tapDr = s.tapDr := rfl
@[simp] theorem State.setWord_tapRun (s : State) (off : Nat) (w : Word) : (s.setWord off w).tapRun = s.tapRun := rfl
@[simp] theorem State.setWord_dbgTx (s : State) (off : Nat) (w : Word) : (s.setWord off w).dbgTx = s.dbgTx := rfl
@[simp] theorem State.setWord_freezeDeferred (s : State) (off : Nat) (w : Word) : (s.setWord off w).freezeDeferred = s.freezeDeferred := rfl
@[simp] theorem State.setWord_aon (s : State) (off : Nat) (w : Word) : (s.setWord off w).aon = s.aon := rfl
@[simp] theorem State.setWord_stuck (s : State) (off : Nat) (w : Word) : (s.setWord off w).stuck = s.stuck := rfl

/-! ### `State.setFldAt`: a field of a register set -/

@[simp] theorem State.setFldAt_pending (s : State) (f : Fld) (i v : Nat) : (s.setFldAt f i v).pending = s.pending := rfl
@[simp] theorem State.setFldAt_fresh (s : State) (f : Fld) (i v : Nat) : (s.setFldAt f i v).fresh = s.fresh := rfl
@[simp] theorem State.setFldAt_code432 (s : State) (f : Fld) (i v : Nat) : (s.setFldAt f i v).code432 = s.code432 := rfl
@[simp] theorem State.setFldAt_mem (s : State) (f : Fld) (i v : Nat) : (s.setFldAt f i v).mem = s.mem := rfl
@[simp] theorem State.setFldAt_poison (s : State) (f : Fld) (i v : Nat) : (s.setFldAt f i v).poison = s.poison := rfl
@[simp] theorem State.setFldAt_rings (s : State) (f : Fld) (i v : Nat) : (s.setFldAt f i v).rings = s.rings := rfl
@[simp] theorem State.setFldAt_ringReq (s : State) (f : Fld) (i v : Nat) : (s.setFldAt f i v).ringReq = s.ringReq := rfl
@[simp] theorem State.setFldAt_descs (s : State) (f : Fld) (i v : Nat) : (s.setFldAt f i v).descs = s.descs := rfl
@[simp] theorem State.setFldAt_queues (s : State) (f : Fld) (i v : Nat) : (s.setFldAt f i v).queues = s.queues := rfl
@[simp] theorem State.setFldAt_passes (s : State) (f : Fld) (i v : Nat) : (s.setFldAt f i v).passes = s.passes := rfl
@[simp] theorem State.setFldAt_arrSlice (s : State) (f : Fld) (i v : Nat) : (s.setFldAt f i v).arrSlice = s.arrSlice := rfl
@[simp] theorem State.setFldAt_arrMem (s : State) (f : Fld) (i v : Nat) : (s.setFldAt f i v).arrMem = s.arrMem := rfl
@[simp] theorem State.setFldAt_regions (s : State) (f : Fld) (i v : Nat) : (s.setFldAt f i v).regions = s.regions := rfl
@[simp] theorem State.setFldAt_extents (s : State) (f : Fld) (i v : Nat) : (s.setFldAt f i v).extents = s.extents := rfl
@[simp] theorem State.setFldAt_frames (s : State) (f : Fld) (i v : Nat) : (s.setFldAt f i v).frames = s.frames := rfl
@[simp] theorem State.setFldAt_nextFrame (s : State) (f : Fld) (i v : Nat) : (s.setFldAt f i v).nextFrame = s.nextFrame := rfl
@[simp] theorem State.setFldAt_zeroed (s : State) (f : Fld) (i v : Nat) : (s.setFldAt f i v).zeroed = s.zeroed := rfl
@[simp] theorem State.setFldAt_mediaWait (s : State) (f : Fld) (i v : Nat) : (s.setFldAt f i v).mediaWait = s.mediaWait := rfl
@[simp] theorem State.setFldAt_borage (s : State) (f : Fld) (i v : Nat) : (s.setFldAt f i v).borage = s.borage := rfl
@[simp] theorem State.setFldAt_retired (s : State) (f : Fld) (i v : Nat) : (s.setFldAt f i v).retired = s.retired := rfl
@[simp] theorem State.setFldAt_drives (s : State) (f : Fld) (i v : Nat) : (s.setFldAt f i v).drives = s.drives := rfl
@[simp] theorem State.setFldAt_nvme (s : State) (f : Fld) (i v : Nat) : (s.setFldAt f i v).nvme = s.nvme := rfl
@[simp] theorem State.setFldAt_nextCmd (s : State) (f : Fld) (i v : Nat) : (s.setFldAt f i v).nextCmd = s.nextCmd := rfl
@[simp] theorem State.setFldAt_nextDrive (s : State) (f : Fld) (i v : Nat) : (s.setFldAt f i v).nextDrive = s.nextDrive := rfl
@[simp] theorem State.setFldAt_background (s : State) (f : Fld) (i v : Nat) : (s.setFldAt f i v).background = s.background := rfl
@[simp] theorem State.setFldAt_xlCache (s : State) (f : Fld) (i v : Nat) : (s.setFldAt f i v).xlCache = s.xlCache := rfl
@[simp] theorem State.setFldAt_xlCounts (s : State) (f : Fld) (i v : Nat) : (s.setFldAt f i v).xlCounts = s.xlCounts := rfl
@[simp] theorem State.setFldAt_invals (s : State) (f : Fld) (i v : Nat) : (s.setFldAt f i v).invals = s.invals := rfl
@[simp] theorem State.setFldAt_dir (s : State) (f : Fld) (i v : Nat) : (s.setFldAt f i v).dir = s.dir := rfl
@[simp] theorem State.setFldAt_slots (s : State) (f : Fld) (i v : Nat) : (s.setFldAt f i v).slots = s.slots := rfl
@[simp] theorem State.setFldAt_slotGens (s : State) (f : Fld) (i v : Nat) : (s.setFldAt f i v).slotGens = s.slotGens := rfl
@[simp] theorem State.setFldAt_recalls (s : State) (f : Fld) (i v : Nat) : (s.setFldAt f i v).recalls = s.recalls := rfl
@[simp] theorem State.setFldAt_trips (s : State) (f : Fld) (i v : Nat) : (s.setFldAt f i v).trips = s.trips := rfl
@[simp] theorem State.setFldAt_sweeps (s : State) (f : Fld) (i v : Nat) : (s.setFldAt f i v).sweeps = s.sweeps := rfl
@[simp] theorem State.setFldAt_bankQ (s : State) (f : Fld) (i v : Nat) : (s.setFldAt f i v).bankQ = s.bankQ := rfl
@[simp] theorem State.setFldAt_fillQ (s : State) (f : Fld) (i v : Nat) : (s.setFldAt f i v).fillQ = s.fillQ := rfl
@[simp] theorem State.setFldAt_mapPrev (s : State) (f : Fld) (i v : Nat) : (s.setFldAt f i v).mapPrev = s.mapPrev := rfl
@[simp] theorem State.setFldAt_mapCur (s : State) (f : Fld) (i v : Nat) : (s.setFldAt f i v).mapCur = s.mapCur := rfl
@[simp] theorem State.setFldAt_mapPrep (s : State) (f : Fld) (i v : Nat) : (s.setFldAt f i v).mapPrep = s.mapPrep := rfl
@[simp] theorem State.setFldAt_grace (s : State) (f : Fld) (i v : Nat) : (s.setFldAt f i v).grace = s.grace := rfl
@[simp] theorem State.setFldAt_keeper (s : State) (f : Fld) (i v : Nat) : (s.setFldAt f i v).keeper = s.keeper := rfl
@[simp] theorem State.setFldAt_fenceEpoch (s : State) (f : Fld) (i v : Nat) : (s.setFldAt f i v).fenceEpoch = s.fenceEpoch := rfl
@[simp] theorem State.setFldAt_links (s : State) (f : Fld) (i v : Nat) : (s.setFldAt f i v).links = s.links := rfl
@[simp] theorem State.setFldAt_cohOwed (s : State) (f : Fld) (i v : Nat) : (s.setFldAt f i v).cohOwed = s.cohOwed := rfl
@[simp] theorem State.setFldAt_outReqs (s : State) (f : Fld) (i v : Nat) : (s.setFldAt f i v).outReqs = s.outReqs := rfl
@[simp] theorem State.setFldAt_asks (s : State) (f : Fld) (i v : Nat) : (s.setFldAt f i v).asks = s.asks := rfl
@[simp] theorem State.setFldAt_nextTag (s : State) (f : Fld) (i v : Nat) : (s.setFldAt f i v).nextTag = s.nextTag := rfl
@[simp] theorem State.setFldAt_txns (s : State) (f : Fld) (i v : Nat) : (s.setFldAt f i v).txns = s.txns := rfl
@[simp] theorem State.setFldAt_nextTxn (s : State) (f : Fld) (i v : Nat) : (s.setFldAt f i v).nextTxn = s.nextTxn := rfl
@[simp] theorem State.setFldAt_threads (s : State) (f : Fld) (i v : Nat) : (s.setFldAt f i v).threads = s.threads := rfl
@[simp] theorem State.setFldAt_held (s : State) (f : Fld) (i v : Nat) : (s.setFldAt f i v).held = s.held := rfl
@[simp] theorem State.setFldAt_queue (s : State) (f : Fld) (i v : Nat) : (s.setFldAt f i v).queue = s.queue := rfl
@[simp] theorem State.setFldAt_shares (s : State) (f : Fld) (i v : Nat) : (s.setFldAt f i v).shares = s.shares := rfl
@[simp] theorem State.setFldAt_turns (s : State) (f : Fld) (i v : Nat) : (s.setFldAt f i v).turns = s.turns := rfl
@[simp] theorem State.setFldAt_rx (s : State) (f : Fld) (i v : Nat) : (s.setFldAt f i v).rx = s.rx := rfl
@[simp] theorem State.setFldAt_klClients (s : State) (f : Fld) (i v : Nat) : (s.setFldAt f i v).klClients = s.klClients := rfl
@[simp] theorem State.setFldAt_klOuts (s : State) (f : Fld) (i v : Nat) : (s.setFldAt f i v).klOuts = s.klOuts := rfl
@[simp] theorem State.setFldAt_klUnmatched (s : State) (f : Fld) (i v : Nat) : (s.setFldAt f i v).klUnmatched = s.klUnmatched := rfl
@[simp] theorem State.setFldAt_klMayTrain (s : State) (f : Fld) (i v : Nat) : (s.setFldAt f i v).klMayTrain = s.klMayTrain := rfl
@[simp] theorem State.setFldAt_dill (s : State) (f : Fld) (i v : Nat) : (s.setFldAt f i v).dill = s.dill := rfl
@[simp] theorem State.setFldAt_killed (s : State) (f : Fld) (i v : Nat) : (s.setFldAt f i v).killed = s.killed := rfl
@[simp] theorem State.setFldAt_cells (s : State) (f : Fld) (i v : Nat) : (s.setFldAt f i v).cells = s.cells := rfl
@[simp] theorem State.setFldAt_auditDiff (s : State) (f : Fld) (i v : Nat) : (s.setFldAt f i v).auditDiff = s.auditDiff := rfl
@[simp] theorem State.setFldAt_mirrorCnt (s : State) (f : Fld) (i v : Nat) : (s.setFldAt f i v).mirrorCnt = s.mirrorCnt := rfl
@[simp] theorem State.setFldAt_mirror (s : State) (f : Fld) (i v : Nat) : (s.setFldAt f i v).mirror = s.mirror := rfl
@[simp] theorem State.setFldAt_resets (s : State) (f : Fld) (i v : Nat) : (s.setFldAt f i v).resets = s.resets := rfl
@[simp] theorem State.setFldAt_revoked (s : State) (f : Fld) (i v : Nat) : (s.setFldAt f i v).revoked = s.revoked := rfl
@[simp] theorem State.setFldAt_revoking (s : State) (f : Fld) (i v : Nat) : (s.setFldAt f i v).revoking = s.revoking := rfl
@[simp] theorem State.setFldAt_lent (s : State) (f : Fld) (i v : Nat) : (s.setFldAt f i v).lent = s.lent := rfl
@[simp] theorem State.setFldAt_composing (s : State) (f : Fld) (i v : Nat) : (s.setFldAt f i v).composing = s.composing := rfl
@[simp] theorem State.setFldAt_granted (s : State) (f : Fld) (i v : Nat) : (s.setFldAt f i v).granted = s.granted := rfl
@[simp] theorem State.setFldAt_composeAt (s : State) (f : Fld) (i v : Nat) : (s.setFldAt f i v).composeAt = s.composeAt := rfl
@[simp] theorem State.setFldAt_abortIds (s : State) (f : Fld) (i v : Nat) : (s.setFldAt f i v).abortIds = s.abortIds := rfl
@[simp] theorem State.setFldAt_abandoned (s : State) (f : Fld) (i v : Nat) : (s.setFldAt f i v).abandoned = s.abandoned := rfl
@[simp] theorem State.setFldAt_mergedAborts (s : State) (f : Fld) (i v : Nat) : (s.setFldAt f i v).mergedAborts = s.mergedAborts := rfl
@[simp] theorem State.setFldAt_alarmExtra (s : State) (f : Fld) (i v : Nat) : (s.setFldAt f i v).alarmExtra = s.alarmExtra := rfl
@[simp] theorem State.setFldAt_alarmSent (s : State) (f : Fld) (i v : Nat) : (s.setFldAt f i v).alarmSent = s.alarmSent := rfl
@[simp] theorem State.setFldAt_dumpSeq (s : State) (f : Fld) (i v : Nat) : (s.setFldAt f i v).dumpSeq = s.dumpSeq := rfl
@[simp] theorem State.setFldAt_dumpChanged (s : State) (f : Fld) (i v : Nat) : (s.setFldAt f i v).dumpChanged = s.dumpChanged := rfl
@[simp] theorem State.setFldAt_dumpFrom (s : State) (f : Fld) (i v : Nat) : (s.setFldAt f i v).dumpFrom = s.dumpFrom := rfl
@[simp] theorem State.setFldAt_scrCount (s : State) (f : Fld) (i v : Nat) : (s.setFldAt f i v).scrCount = s.scrCount := rfl
@[simp] theorem State.setFldAt_scrSeq (s : State) (f : Fld) (i v : Nat) : (s.setFldAt f i v).scrSeq = s.scrSeq := rfl
@[simp] theorem State.setFldAt_scrLfsr (s : State) (f : Fld) (i v : Nat) : (s.setFldAt f i v).scrLfsr = s.scrLfsr := rfl
@[simp] theorem State.setFldAt_scrNext (s : State) (f : Fld) (i v : Nat) : (s.setFldAt f i v).scrNext = s.scrNext := rfl
@[simp] theorem State.setFldAt_scrLast (s : State) (f : Fld) (i v : Nat) : (s.setFldAt f i v).scrLast = s.scrLast := rfl
@[simp] theorem State.setFldAt_flash (s : State) (f : Fld) (i v : Nat) : (s.setFldAt f i v).flash = s.flash := rfl
@[simp] theorem State.setFldAt_cfg (s : State) (f : Fld) (i v : Nat) : (s.setFldAt f i v).cfg = s.cfg := rfl
@[simp] theorem State.setFldAt_fw (s : State) (f : Fld) (i v : Nat) : (s.setFldAt f i v).fw = s.fw := rfl
@[simp] theorem State.setFldAt_ident (s : State) (f : Fld) (i v : Nat) : (s.setFldAt f i v).ident = s.ident := rfl
@[simp] theorem State.setFldAt_meas (s : State) (f : Fld) (i v : Nat) : (s.setFldAt f i v).meas = s.meas := rfl
@[simp] theorem State.setFldAt_mctp (s : State) (f : Fld) (i v : Nat) : (s.setFldAt f i v).mctp = s.mctp := rfl
@[simp] theorem State.setFldAt_mctpOut (s : State) (f : Fld) (i v : Nat) : (s.setFldAt f i v).mctpOut = s.mctpOut := rfl
@[simp] theorem State.setFldAt_carter (s : State) (f : Fld) (i v : Nat) : (s.setFldAt f i v).carter = s.carter := rfl
@[simp] theorem State.setFldAt_carterLast (s : State) (f : Fld) (i v : Nat) : (s.setFldAt f i v).carterLast = s.carterLast := rfl
@[simp] theorem State.setFldAt_logIntDue (s : State) (f : Fld) (i v : Nat) : (s.setFldAt f i v).logIntDue = s.logIntDue := rfl
@[simp] theorem State.setFldAt_pwrok (s : State) (f : Fld) (i v : Nat) : (s.setFldAt f i v).pwrok = s.pwrok := rfl
@[simp] theorem State.setFldAt_porHeld (s : State) (f : Fld) (i v : Nat) : (s.setFldAt f i v).porHeld = s.porHeld := rfl
@[simp] theorem State.setFldAt_resetHeld (s : State) (f : Fld) (i v : Nat) : (s.setFldAt f i v).resetHeld = s.resetHeld := rfl
@[simp] theorem State.setFldAt_straps (s : State) (f : Fld) (i v : Nat) : (s.setFldAt f i v).straps = s.straps := rfl
@[simp] theorem State.setFldAt_railsBad (s : State) (f : Fld) (i v : Nat) : (s.setFldAt f i v).railsBad = s.railsBad := rfl
@[simp] theorem State.setFldAt_tripped (s : State) (f : Fld) (i v : Nat) : (s.setFldAt f i v).tripped = s.tripped := rfl
@[simp] theorem State.setFldAt_tStacks (s : State) (f : Fld) (i v : Nat) : (s.setFldAt f i v).tStacks = s.tStacks := rfl
@[simp] theorem State.setFldAt_pkgHist (s : State) (f : Fld) (i v : Nat) : (s.setFldAt f i v).pkgHist = s.pkgHist := rfl
@[simp] theorem State.setFldAt_admitted (s : State) (f : Fld) (i v : Nat) : (s.setFldAt f i v).admitted = s.admitted := rfl
@[simp] theorem State.setFldAt_tapIr (s : State) (f : Fld) (i v : Nat) : (s.setFldAt f i v).tapIr = s.tapIr := rfl
@[simp] theorem State.setFldAt_tapAddr (s : State) (f : Fld) (i v : Nat) : (s.setFldAt f i v).tapAddr = s.tapAddr := rfl
@[simp] theorem State.setFldAt_tapDr (s : State) (f : Fld) (i v : Nat) : (s.setFldAt f i v).tapDr = s.tapDr := rfl
@[simp] theorem State.setFldAt_tapRun (s : State) (f : Fld) (i v : Nat) : (s.setFldAt f i v).tapRun = s.tapRun := rfl
@[simp] theorem State.setFldAt_dbgTx (s : State) (f : Fld) (i v : Nat) : (s.setFldAt f i v).dbgTx = s.dbgTx := rfl
@[simp] theorem State.setFldAt_freezeDeferred (s : State) (f : Fld) (i v : Nat) : (s.setFldAt f i v).freezeDeferred = s.freezeDeferred := rfl
@[simp] theorem State.setFldAt_aon (s : State) (f : Fld) (i v : Nat) : (s.setFldAt f i v).aon = s.aon := rfl
@[simp] theorem State.setFldAt_stuck (s : State) (f : Fld) (i v : Nat) : (s.setFldAt f i v).stuck = s.stuck := rfl

/-! ### `State.setFld`: a field set -/

@[simp] theorem State.setFld_pending (s : State) (f : Fld) (v : Nat) : (s.setFld f v).pending = s.pending := rfl
@[simp] theorem State.setFld_fresh (s : State) (f : Fld) (v : Nat) : (s.setFld f v).fresh = s.fresh := rfl
@[simp] theorem State.setFld_code432 (s : State) (f : Fld) (v : Nat) : (s.setFld f v).code432 = s.code432 := rfl
@[simp] theorem State.setFld_mem (s : State) (f : Fld) (v : Nat) : (s.setFld f v).mem = s.mem := rfl
@[simp] theorem State.setFld_poison (s : State) (f : Fld) (v : Nat) : (s.setFld f v).poison = s.poison := rfl
@[simp] theorem State.setFld_rings (s : State) (f : Fld) (v : Nat) : (s.setFld f v).rings = s.rings := rfl
@[simp] theorem State.setFld_ringReq (s : State) (f : Fld) (v : Nat) : (s.setFld f v).ringReq = s.ringReq := rfl
@[simp] theorem State.setFld_descs (s : State) (f : Fld) (v : Nat) : (s.setFld f v).descs = s.descs := rfl
@[simp] theorem State.setFld_queues (s : State) (f : Fld) (v : Nat) : (s.setFld f v).queues = s.queues := rfl
@[simp] theorem State.setFld_passes (s : State) (f : Fld) (v : Nat) : (s.setFld f v).passes = s.passes := rfl
@[simp] theorem State.setFld_arrSlice (s : State) (f : Fld) (v : Nat) : (s.setFld f v).arrSlice = s.arrSlice := rfl
@[simp] theorem State.setFld_arrMem (s : State) (f : Fld) (v : Nat) : (s.setFld f v).arrMem = s.arrMem := rfl
@[simp] theorem State.setFld_regions (s : State) (f : Fld) (v : Nat) : (s.setFld f v).regions = s.regions := rfl
@[simp] theorem State.setFld_extents (s : State) (f : Fld) (v : Nat) : (s.setFld f v).extents = s.extents := rfl
@[simp] theorem State.setFld_frames (s : State) (f : Fld) (v : Nat) : (s.setFld f v).frames = s.frames := rfl
@[simp] theorem State.setFld_nextFrame (s : State) (f : Fld) (v : Nat) : (s.setFld f v).nextFrame = s.nextFrame := rfl
@[simp] theorem State.setFld_zeroed (s : State) (f : Fld) (v : Nat) : (s.setFld f v).zeroed = s.zeroed := rfl
@[simp] theorem State.setFld_mediaWait (s : State) (f : Fld) (v : Nat) : (s.setFld f v).mediaWait = s.mediaWait := rfl
@[simp] theorem State.setFld_borage (s : State) (f : Fld) (v : Nat) : (s.setFld f v).borage = s.borage := rfl
@[simp] theorem State.setFld_retired (s : State) (f : Fld) (v : Nat) : (s.setFld f v).retired = s.retired := rfl
@[simp] theorem State.setFld_drives (s : State) (f : Fld) (v : Nat) : (s.setFld f v).drives = s.drives := rfl
@[simp] theorem State.setFld_nvme (s : State) (f : Fld) (v : Nat) : (s.setFld f v).nvme = s.nvme := rfl
@[simp] theorem State.setFld_nextCmd (s : State) (f : Fld) (v : Nat) : (s.setFld f v).nextCmd = s.nextCmd := rfl
@[simp] theorem State.setFld_nextDrive (s : State) (f : Fld) (v : Nat) : (s.setFld f v).nextDrive = s.nextDrive := rfl
@[simp] theorem State.setFld_background (s : State) (f : Fld) (v : Nat) : (s.setFld f v).background = s.background := rfl
@[simp] theorem State.setFld_xlCache (s : State) (f : Fld) (v : Nat) : (s.setFld f v).xlCache = s.xlCache := rfl
@[simp] theorem State.setFld_xlCounts (s : State) (f : Fld) (v : Nat) : (s.setFld f v).xlCounts = s.xlCounts := rfl
@[simp] theorem State.setFld_invals (s : State) (f : Fld) (v : Nat) : (s.setFld f v).invals = s.invals := rfl
@[simp] theorem State.setFld_dir (s : State) (f : Fld) (v : Nat) : (s.setFld f v).dir = s.dir := rfl
@[simp] theorem State.setFld_slots (s : State) (f : Fld) (v : Nat) : (s.setFld f v).slots = s.slots := rfl
@[simp] theorem State.setFld_slotGens (s : State) (f : Fld) (v : Nat) : (s.setFld f v).slotGens = s.slotGens := rfl
@[simp] theorem State.setFld_recalls (s : State) (f : Fld) (v : Nat) : (s.setFld f v).recalls = s.recalls := rfl
@[simp] theorem State.setFld_trips (s : State) (f : Fld) (v : Nat) : (s.setFld f v).trips = s.trips := rfl
@[simp] theorem State.setFld_sweeps (s : State) (f : Fld) (v : Nat) : (s.setFld f v).sweeps = s.sweeps := rfl
@[simp] theorem State.setFld_bankQ (s : State) (f : Fld) (v : Nat) : (s.setFld f v).bankQ = s.bankQ := rfl
@[simp] theorem State.setFld_fillQ (s : State) (f : Fld) (v : Nat) : (s.setFld f v).fillQ = s.fillQ := rfl
@[simp] theorem State.setFld_mapPrev (s : State) (f : Fld) (v : Nat) : (s.setFld f v).mapPrev = s.mapPrev := rfl
@[simp] theorem State.setFld_mapCur (s : State) (f : Fld) (v : Nat) : (s.setFld f v).mapCur = s.mapCur := rfl
@[simp] theorem State.setFld_mapPrep (s : State) (f : Fld) (v : Nat) : (s.setFld f v).mapPrep = s.mapPrep := rfl
@[simp] theorem State.setFld_grace (s : State) (f : Fld) (v : Nat) : (s.setFld f v).grace = s.grace := rfl
@[simp] theorem State.setFld_keeper (s : State) (f : Fld) (v : Nat) : (s.setFld f v).keeper = s.keeper := rfl
@[simp] theorem State.setFld_fenceEpoch (s : State) (f : Fld) (v : Nat) : (s.setFld f v).fenceEpoch = s.fenceEpoch := rfl
@[simp] theorem State.setFld_links (s : State) (f : Fld) (v : Nat) : (s.setFld f v).links = s.links := rfl
@[simp] theorem State.setFld_cohOwed (s : State) (f : Fld) (v : Nat) : (s.setFld f v).cohOwed = s.cohOwed := rfl
@[simp] theorem State.setFld_outReqs (s : State) (f : Fld) (v : Nat) : (s.setFld f v).outReqs = s.outReqs := rfl
@[simp] theorem State.setFld_asks (s : State) (f : Fld) (v : Nat) : (s.setFld f v).asks = s.asks := rfl
@[simp] theorem State.setFld_nextTag (s : State) (f : Fld) (v : Nat) : (s.setFld f v).nextTag = s.nextTag := rfl
@[simp] theorem State.setFld_txns (s : State) (f : Fld) (v : Nat) : (s.setFld f v).txns = s.txns := rfl
@[simp] theorem State.setFld_nextTxn (s : State) (f : Fld) (v : Nat) : (s.setFld f v).nextTxn = s.nextTxn := rfl
@[simp] theorem State.setFld_threads (s : State) (f : Fld) (v : Nat) : (s.setFld f v).threads = s.threads := rfl
@[simp] theorem State.setFld_held (s : State) (f : Fld) (v : Nat) : (s.setFld f v).held = s.held := rfl
@[simp] theorem State.setFld_queue (s : State) (f : Fld) (v : Nat) : (s.setFld f v).queue = s.queue := rfl
@[simp] theorem State.setFld_shares (s : State) (f : Fld) (v : Nat) : (s.setFld f v).shares = s.shares := rfl
@[simp] theorem State.setFld_turns (s : State) (f : Fld) (v : Nat) : (s.setFld f v).turns = s.turns := rfl
@[simp] theorem State.setFld_rx (s : State) (f : Fld) (v : Nat) : (s.setFld f v).rx = s.rx := rfl
@[simp] theorem State.setFld_klClients (s : State) (f : Fld) (v : Nat) : (s.setFld f v).klClients = s.klClients := rfl
@[simp] theorem State.setFld_klOuts (s : State) (f : Fld) (v : Nat) : (s.setFld f v).klOuts = s.klOuts := rfl
@[simp] theorem State.setFld_klUnmatched (s : State) (f : Fld) (v : Nat) : (s.setFld f v).klUnmatched = s.klUnmatched := rfl
@[simp] theorem State.setFld_klMayTrain (s : State) (f : Fld) (v : Nat) : (s.setFld f v).klMayTrain = s.klMayTrain := rfl
@[simp] theorem State.setFld_dill (s : State) (f : Fld) (v : Nat) : (s.setFld f v).dill = s.dill := rfl
@[simp] theorem State.setFld_killed (s : State) (f : Fld) (v : Nat) : (s.setFld f v).killed = s.killed := rfl
@[simp] theorem State.setFld_cells (s : State) (f : Fld) (v : Nat) : (s.setFld f v).cells = s.cells := rfl
@[simp] theorem State.setFld_auditDiff (s : State) (f : Fld) (v : Nat) : (s.setFld f v).auditDiff = s.auditDiff := rfl
@[simp] theorem State.setFld_mirrorCnt (s : State) (f : Fld) (v : Nat) : (s.setFld f v).mirrorCnt = s.mirrorCnt := rfl
@[simp] theorem State.setFld_mirror (s : State) (f : Fld) (v : Nat) : (s.setFld f v).mirror = s.mirror := rfl
@[simp] theorem State.setFld_resets (s : State) (f : Fld) (v : Nat) : (s.setFld f v).resets = s.resets := rfl
@[simp] theorem State.setFld_revoked (s : State) (f : Fld) (v : Nat) : (s.setFld f v).revoked = s.revoked := rfl
@[simp] theorem State.setFld_revoking (s : State) (f : Fld) (v : Nat) : (s.setFld f v).revoking = s.revoking := rfl
@[simp] theorem State.setFld_lent (s : State) (f : Fld) (v : Nat) : (s.setFld f v).lent = s.lent := rfl
@[simp] theorem State.setFld_composing (s : State) (f : Fld) (v : Nat) : (s.setFld f v).composing = s.composing := rfl
@[simp] theorem State.setFld_granted (s : State) (f : Fld) (v : Nat) : (s.setFld f v).granted = s.granted := rfl
@[simp] theorem State.setFld_composeAt (s : State) (f : Fld) (v : Nat) : (s.setFld f v).composeAt = s.composeAt := rfl
@[simp] theorem State.setFld_abortIds (s : State) (f : Fld) (v : Nat) : (s.setFld f v).abortIds = s.abortIds := rfl
@[simp] theorem State.setFld_abandoned (s : State) (f : Fld) (v : Nat) : (s.setFld f v).abandoned = s.abandoned := rfl
@[simp] theorem State.setFld_mergedAborts (s : State) (f : Fld) (v : Nat) : (s.setFld f v).mergedAborts = s.mergedAborts := rfl
@[simp] theorem State.setFld_alarmExtra (s : State) (f : Fld) (v : Nat) : (s.setFld f v).alarmExtra = s.alarmExtra := rfl
@[simp] theorem State.setFld_alarmSent (s : State) (f : Fld) (v : Nat) : (s.setFld f v).alarmSent = s.alarmSent := rfl
@[simp] theorem State.setFld_dumpSeq (s : State) (f : Fld) (v : Nat) : (s.setFld f v).dumpSeq = s.dumpSeq := rfl
@[simp] theorem State.setFld_dumpChanged (s : State) (f : Fld) (v : Nat) : (s.setFld f v).dumpChanged = s.dumpChanged := rfl
@[simp] theorem State.setFld_dumpFrom (s : State) (f : Fld) (v : Nat) : (s.setFld f v).dumpFrom = s.dumpFrom := rfl
@[simp] theorem State.setFld_scrCount (s : State) (f : Fld) (v : Nat) : (s.setFld f v).scrCount = s.scrCount := rfl
@[simp] theorem State.setFld_scrSeq (s : State) (f : Fld) (v : Nat) : (s.setFld f v).scrSeq = s.scrSeq := rfl
@[simp] theorem State.setFld_scrLfsr (s : State) (f : Fld) (v : Nat) : (s.setFld f v).scrLfsr = s.scrLfsr := rfl
@[simp] theorem State.setFld_scrNext (s : State) (f : Fld) (v : Nat) : (s.setFld f v).scrNext = s.scrNext := rfl
@[simp] theorem State.setFld_scrLast (s : State) (f : Fld) (v : Nat) : (s.setFld f v).scrLast = s.scrLast := rfl
@[simp] theorem State.setFld_flash (s : State) (f : Fld) (v : Nat) : (s.setFld f v).flash = s.flash := rfl
@[simp] theorem State.setFld_cfg (s : State) (f : Fld) (v : Nat) : (s.setFld f v).cfg = s.cfg := rfl
@[simp] theorem State.setFld_fw (s : State) (f : Fld) (v : Nat) : (s.setFld f v).fw = s.fw := rfl
@[simp] theorem State.setFld_ident (s : State) (f : Fld) (v : Nat) : (s.setFld f v).ident = s.ident := rfl
@[simp] theorem State.setFld_meas (s : State) (f : Fld) (v : Nat) : (s.setFld f v).meas = s.meas := rfl
@[simp] theorem State.setFld_mctp (s : State) (f : Fld) (v : Nat) : (s.setFld f v).mctp = s.mctp := rfl
@[simp] theorem State.setFld_mctpOut (s : State) (f : Fld) (v : Nat) : (s.setFld f v).mctpOut = s.mctpOut := rfl
@[simp] theorem State.setFld_carter (s : State) (f : Fld) (v : Nat) : (s.setFld f v).carter = s.carter := rfl
@[simp] theorem State.setFld_carterLast (s : State) (f : Fld) (v : Nat) : (s.setFld f v).carterLast = s.carterLast := rfl
@[simp] theorem State.setFld_logIntDue (s : State) (f : Fld) (v : Nat) : (s.setFld f v).logIntDue = s.logIntDue := rfl
@[simp] theorem State.setFld_pwrok (s : State) (f : Fld) (v : Nat) : (s.setFld f v).pwrok = s.pwrok := rfl
@[simp] theorem State.setFld_porHeld (s : State) (f : Fld) (v : Nat) : (s.setFld f v).porHeld = s.porHeld := rfl
@[simp] theorem State.setFld_resetHeld (s : State) (f : Fld) (v : Nat) : (s.setFld f v).resetHeld = s.resetHeld := rfl
@[simp] theorem State.setFld_straps (s : State) (f : Fld) (v : Nat) : (s.setFld f v).straps = s.straps := rfl
@[simp] theorem State.setFld_railsBad (s : State) (f : Fld) (v : Nat) : (s.setFld f v).railsBad = s.railsBad := rfl
@[simp] theorem State.setFld_tripped (s : State) (f : Fld) (v : Nat) : (s.setFld f v).tripped = s.tripped := rfl
@[simp] theorem State.setFld_tStacks (s : State) (f : Fld) (v : Nat) : (s.setFld f v).tStacks = s.tStacks := rfl
@[simp] theorem State.setFld_pkgHist (s : State) (f : Fld) (v : Nat) : (s.setFld f v).pkgHist = s.pkgHist := rfl
@[simp] theorem State.setFld_admitted (s : State) (f : Fld) (v : Nat) : (s.setFld f v).admitted = s.admitted := rfl
@[simp] theorem State.setFld_tapIr (s : State) (f : Fld) (v : Nat) : (s.setFld f v).tapIr = s.tapIr := rfl
@[simp] theorem State.setFld_tapAddr (s : State) (f : Fld) (v : Nat) : (s.setFld f v).tapAddr = s.tapAddr := rfl
@[simp] theorem State.setFld_tapDr (s : State) (f : Fld) (v : Nat) : (s.setFld f v).tapDr = s.tapDr := rfl
@[simp] theorem State.setFld_tapRun (s : State) (f : Fld) (v : Nat) : (s.setFld f v).tapRun = s.tapRun := rfl
@[simp] theorem State.setFld_dbgTx (s : State) (f : Fld) (v : Nat) : (s.setFld f v).dbgTx = s.dbgTx := rfl
@[simp] theorem State.setFld_freezeDeferred (s : State) (f : Fld) (v : Nat) : (s.setFld f v).freezeDeferred = s.freezeDeferred := rfl
@[simp] theorem State.setFld_aon (s : State) (f : Fld) (v : Nat) : (s.setFld f v).aon = s.aon := rfl
@[simp] theorem State.setFld_stuck (s : State) (f : Fld) (v : Nat) : (s.setFld f v).stuck = s.stuck := rfl

/-! ### `State.addSatAt`: a saturating count raised -/

@[simp] theorem State.addSatAt_pending (s : State) (f : Fld) (i n : Nat) : (s.addSatAt f i n).pending = s.pending := rfl
@[simp] theorem State.addSatAt_fresh (s : State) (f : Fld) (i n : Nat) : (s.addSatAt f i n).fresh = s.fresh := rfl
@[simp] theorem State.addSatAt_code432 (s : State) (f : Fld) (i n : Nat) : (s.addSatAt f i n).code432 = s.code432 := rfl
@[simp] theorem State.addSatAt_mem (s : State) (f : Fld) (i n : Nat) : (s.addSatAt f i n).mem = s.mem := rfl
@[simp] theorem State.addSatAt_poison (s : State) (f : Fld) (i n : Nat) : (s.addSatAt f i n).poison = s.poison := rfl
@[simp] theorem State.addSatAt_rings (s : State) (f : Fld) (i n : Nat) : (s.addSatAt f i n).rings = s.rings := rfl
@[simp] theorem State.addSatAt_ringReq (s : State) (f : Fld) (i n : Nat) : (s.addSatAt f i n).ringReq = s.ringReq := rfl
@[simp] theorem State.addSatAt_descs (s : State) (f : Fld) (i n : Nat) : (s.addSatAt f i n).descs = s.descs := rfl
@[simp] theorem State.addSatAt_queues (s : State) (f : Fld) (i n : Nat) : (s.addSatAt f i n).queues = s.queues := rfl
@[simp] theorem State.addSatAt_passes (s : State) (f : Fld) (i n : Nat) : (s.addSatAt f i n).passes = s.passes := rfl
@[simp] theorem State.addSatAt_arrSlice (s : State) (f : Fld) (i n : Nat) : (s.addSatAt f i n).arrSlice = s.arrSlice := rfl
@[simp] theorem State.addSatAt_arrMem (s : State) (f : Fld) (i n : Nat) : (s.addSatAt f i n).arrMem = s.arrMem := rfl
@[simp] theorem State.addSatAt_regions (s : State) (f : Fld) (i n : Nat) : (s.addSatAt f i n).regions = s.regions := rfl
@[simp] theorem State.addSatAt_extents (s : State) (f : Fld) (i n : Nat) : (s.addSatAt f i n).extents = s.extents := rfl
@[simp] theorem State.addSatAt_frames (s : State) (f : Fld) (i n : Nat) : (s.addSatAt f i n).frames = s.frames := rfl
@[simp] theorem State.addSatAt_nextFrame (s : State) (f : Fld) (i n : Nat) : (s.addSatAt f i n).nextFrame = s.nextFrame := rfl
@[simp] theorem State.addSatAt_zeroed (s : State) (f : Fld) (i n : Nat) : (s.addSatAt f i n).zeroed = s.zeroed := rfl
@[simp] theorem State.addSatAt_mediaWait (s : State) (f : Fld) (i n : Nat) : (s.addSatAt f i n).mediaWait = s.mediaWait := rfl
@[simp] theorem State.addSatAt_borage (s : State) (f : Fld) (i n : Nat) : (s.addSatAt f i n).borage = s.borage := rfl
@[simp] theorem State.addSatAt_retired (s : State) (f : Fld) (i n : Nat) : (s.addSatAt f i n).retired = s.retired := rfl
@[simp] theorem State.addSatAt_drives (s : State) (f : Fld) (i n : Nat) : (s.addSatAt f i n).drives = s.drives := rfl
@[simp] theorem State.addSatAt_nvme (s : State) (f : Fld) (i n : Nat) : (s.addSatAt f i n).nvme = s.nvme := rfl
@[simp] theorem State.addSatAt_nextCmd (s : State) (f : Fld) (i n : Nat) : (s.addSatAt f i n).nextCmd = s.nextCmd := rfl
@[simp] theorem State.addSatAt_nextDrive (s : State) (f : Fld) (i n : Nat) : (s.addSatAt f i n).nextDrive = s.nextDrive := rfl
@[simp] theorem State.addSatAt_background (s : State) (f : Fld) (i n : Nat) : (s.addSatAt f i n).background = s.background := rfl
@[simp] theorem State.addSatAt_xlCache (s : State) (f : Fld) (i n : Nat) : (s.addSatAt f i n).xlCache = s.xlCache := rfl
@[simp] theorem State.addSatAt_xlCounts (s : State) (f : Fld) (i n : Nat) : (s.addSatAt f i n).xlCounts = s.xlCounts := rfl
@[simp] theorem State.addSatAt_invals (s : State) (f : Fld) (i n : Nat) : (s.addSatAt f i n).invals = s.invals := rfl
@[simp] theorem State.addSatAt_dir (s : State) (f : Fld) (i n : Nat) : (s.addSatAt f i n).dir = s.dir := rfl
@[simp] theorem State.addSatAt_slots (s : State) (f : Fld) (i n : Nat) : (s.addSatAt f i n).slots = s.slots := rfl
@[simp] theorem State.addSatAt_slotGens (s : State) (f : Fld) (i n : Nat) : (s.addSatAt f i n).slotGens = s.slotGens := rfl
@[simp] theorem State.addSatAt_recalls (s : State) (f : Fld) (i n : Nat) : (s.addSatAt f i n).recalls = s.recalls := rfl
@[simp] theorem State.addSatAt_trips (s : State) (f : Fld) (i n : Nat) : (s.addSatAt f i n).trips = s.trips := rfl
@[simp] theorem State.addSatAt_sweeps (s : State) (f : Fld) (i n : Nat) : (s.addSatAt f i n).sweeps = s.sweeps := rfl
@[simp] theorem State.addSatAt_bankQ (s : State) (f : Fld) (i n : Nat) : (s.addSatAt f i n).bankQ = s.bankQ := rfl
@[simp] theorem State.addSatAt_fillQ (s : State) (f : Fld) (i n : Nat) : (s.addSatAt f i n).fillQ = s.fillQ := rfl
@[simp] theorem State.addSatAt_mapPrev (s : State) (f : Fld) (i n : Nat) : (s.addSatAt f i n).mapPrev = s.mapPrev := rfl
@[simp] theorem State.addSatAt_mapCur (s : State) (f : Fld) (i n : Nat) : (s.addSatAt f i n).mapCur = s.mapCur := rfl
@[simp] theorem State.addSatAt_mapPrep (s : State) (f : Fld) (i n : Nat) : (s.addSatAt f i n).mapPrep = s.mapPrep := rfl
@[simp] theorem State.addSatAt_grace (s : State) (f : Fld) (i n : Nat) : (s.addSatAt f i n).grace = s.grace := rfl
@[simp] theorem State.addSatAt_keeper (s : State) (f : Fld) (i n : Nat) : (s.addSatAt f i n).keeper = s.keeper := rfl
@[simp] theorem State.addSatAt_fenceEpoch (s : State) (f : Fld) (i n : Nat) : (s.addSatAt f i n).fenceEpoch = s.fenceEpoch := rfl
@[simp] theorem State.addSatAt_links (s : State) (f : Fld) (i n : Nat) : (s.addSatAt f i n).links = s.links := rfl
@[simp] theorem State.addSatAt_cohOwed (s : State) (f : Fld) (i n : Nat) : (s.addSatAt f i n).cohOwed = s.cohOwed := rfl
@[simp] theorem State.addSatAt_outReqs (s : State) (f : Fld) (i n : Nat) : (s.addSatAt f i n).outReqs = s.outReqs := rfl
@[simp] theorem State.addSatAt_asks (s : State) (f : Fld) (i n : Nat) : (s.addSatAt f i n).asks = s.asks := rfl
@[simp] theorem State.addSatAt_nextTag (s : State) (f : Fld) (i n : Nat) : (s.addSatAt f i n).nextTag = s.nextTag := rfl
@[simp] theorem State.addSatAt_txns (s : State) (f : Fld) (i n : Nat) : (s.addSatAt f i n).txns = s.txns := rfl
@[simp] theorem State.addSatAt_nextTxn (s : State) (f : Fld) (i n : Nat) : (s.addSatAt f i n).nextTxn = s.nextTxn := rfl
@[simp] theorem State.addSatAt_threads (s : State) (f : Fld) (i n : Nat) : (s.addSatAt f i n).threads = s.threads := rfl
@[simp] theorem State.addSatAt_held (s : State) (f : Fld) (i n : Nat) : (s.addSatAt f i n).held = s.held := rfl
@[simp] theorem State.addSatAt_queue (s : State) (f : Fld) (i n : Nat) : (s.addSatAt f i n).queue = s.queue := rfl
@[simp] theorem State.addSatAt_shares (s : State) (f : Fld) (i n : Nat) : (s.addSatAt f i n).shares = s.shares := rfl
@[simp] theorem State.addSatAt_turns (s : State) (f : Fld) (i n : Nat) : (s.addSatAt f i n).turns = s.turns := rfl
@[simp] theorem State.addSatAt_rx (s : State) (f : Fld) (i n : Nat) : (s.addSatAt f i n).rx = s.rx := rfl
@[simp] theorem State.addSatAt_klClients (s : State) (f : Fld) (i n : Nat) : (s.addSatAt f i n).klClients = s.klClients := rfl
@[simp] theorem State.addSatAt_klOuts (s : State) (f : Fld) (i n : Nat) : (s.addSatAt f i n).klOuts = s.klOuts := rfl
@[simp] theorem State.addSatAt_klUnmatched (s : State) (f : Fld) (i n : Nat) : (s.addSatAt f i n).klUnmatched = s.klUnmatched := rfl
@[simp] theorem State.addSatAt_klMayTrain (s : State) (f : Fld) (i n : Nat) : (s.addSatAt f i n).klMayTrain = s.klMayTrain := rfl
@[simp] theorem State.addSatAt_dill (s : State) (f : Fld) (i n : Nat) : (s.addSatAt f i n).dill = s.dill := rfl
@[simp] theorem State.addSatAt_killed (s : State) (f : Fld) (i n : Nat) : (s.addSatAt f i n).killed = s.killed := rfl
@[simp] theorem State.addSatAt_cells (s : State) (f : Fld) (i n : Nat) : (s.addSatAt f i n).cells = s.cells := rfl
@[simp] theorem State.addSatAt_auditDiff (s : State) (f : Fld) (i n : Nat) : (s.addSatAt f i n).auditDiff = s.auditDiff := rfl
@[simp] theorem State.addSatAt_mirrorCnt (s : State) (f : Fld) (i n : Nat) : (s.addSatAt f i n).mirrorCnt = s.mirrorCnt := rfl
@[simp] theorem State.addSatAt_mirror (s : State) (f : Fld) (i n : Nat) : (s.addSatAt f i n).mirror = s.mirror := rfl
@[simp] theorem State.addSatAt_resets (s : State) (f : Fld) (i n : Nat) : (s.addSatAt f i n).resets = s.resets := rfl
@[simp] theorem State.addSatAt_revoked (s : State) (f : Fld) (i n : Nat) : (s.addSatAt f i n).revoked = s.revoked := rfl
@[simp] theorem State.addSatAt_revoking (s : State) (f : Fld) (i n : Nat) : (s.addSatAt f i n).revoking = s.revoking := rfl
@[simp] theorem State.addSatAt_lent (s : State) (f : Fld) (i n : Nat) : (s.addSatAt f i n).lent = s.lent := rfl
@[simp] theorem State.addSatAt_composing (s : State) (f : Fld) (i n : Nat) : (s.addSatAt f i n).composing = s.composing := rfl
@[simp] theorem State.addSatAt_granted (s : State) (f : Fld) (i n : Nat) : (s.addSatAt f i n).granted = s.granted := rfl
@[simp] theorem State.addSatAt_composeAt (s : State) (f : Fld) (i n : Nat) : (s.addSatAt f i n).composeAt = s.composeAt := rfl
@[simp] theorem State.addSatAt_abortIds (s : State) (f : Fld) (i n : Nat) : (s.addSatAt f i n).abortIds = s.abortIds := rfl
@[simp] theorem State.addSatAt_abandoned (s : State) (f : Fld) (i n : Nat) : (s.addSatAt f i n).abandoned = s.abandoned := rfl
@[simp] theorem State.addSatAt_mergedAborts (s : State) (f : Fld) (i n : Nat) : (s.addSatAt f i n).mergedAborts = s.mergedAborts := rfl
@[simp] theorem State.addSatAt_alarmExtra (s : State) (f : Fld) (i n : Nat) : (s.addSatAt f i n).alarmExtra = s.alarmExtra := rfl
@[simp] theorem State.addSatAt_alarmSent (s : State) (f : Fld) (i n : Nat) : (s.addSatAt f i n).alarmSent = s.alarmSent := rfl
@[simp] theorem State.addSatAt_dumpSeq (s : State) (f : Fld) (i n : Nat) : (s.addSatAt f i n).dumpSeq = s.dumpSeq := rfl
@[simp] theorem State.addSatAt_dumpChanged (s : State) (f : Fld) (i n : Nat) : (s.addSatAt f i n).dumpChanged = s.dumpChanged := rfl
@[simp] theorem State.addSatAt_dumpFrom (s : State) (f : Fld) (i n : Nat) : (s.addSatAt f i n).dumpFrom = s.dumpFrom := rfl
@[simp] theorem State.addSatAt_scrCount (s : State) (f : Fld) (i n : Nat) : (s.addSatAt f i n).scrCount = s.scrCount := rfl
@[simp] theorem State.addSatAt_scrSeq (s : State) (f : Fld) (i n : Nat) : (s.addSatAt f i n).scrSeq = s.scrSeq := rfl
@[simp] theorem State.addSatAt_scrLfsr (s : State) (f : Fld) (i n : Nat) : (s.addSatAt f i n).scrLfsr = s.scrLfsr := rfl
@[simp] theorem State.addSatAt_scrNext (s : State) (f : Fld) (i n : Nat) : (s.addSatAt f i n).scrNext = s.scrNext := rfl
@[simp] theorem State.addSatAt_scrLast (s : State) (f : Fld) (i n : Nat) : (s.addSatAt f i n).scrLast = s.scrLast := rfl
@[simp] theorem State.addSatAt_flash (s : State) (f : Fld) (i n : Nat) : (s.addSatAt f i n).flash = s.flash := rfl
@[simp] theorem State.addSatAt_cfg (s : State) (f : Fld) (i n : Nat) : (s.addSatAt f i n).cfg = s.cfg := rfl
@[simp] theorem State.addSatAt_fw (s : State) (f : Fld) (i n : Nat) : (s.addSatAt f i n).fw = s.fw := rfl
@[simp] theorem State.addSatAt_ident (s : State) (f : Fld) (i n : Nat) : (s.addSatAt f i n).ident = s.ident := rfl
@[simp] theorem State.addSatAt_meas (s : State) (f : Fld) (i n : Nat) : (s.addSatAt f i n).meas = s.meas := rfl
@[simp] theorem State.addSatAt_mctp (s : State) (f : Fld) (i n : Nat) : (s.addSatAt f i n).mctp = s.mctp := rfl
@[simp] theorem State.addSatAt_mctpOut (s : State) (f : Fld) (i n : Nat) : (s.addSatAt f i n).mctpOut = s.mctpOut := rfl
@[simp] theorem State.addSatAt_carter (s : State) (f : Fld) (i n : Nat) : (s.addSatAt f i n).carter = s.carter := rfl
@[simp] theorem State.addSatAt_carterLast (s : State) (f : Fld) (i n : Nat) : (s.addSatAt f i n).carterLast = s.carterLast := rfl
@[simp] theorem State.addSatAt_logIntDue (s : State) (f : Fld) (i n : Nat) : (s.addSatAt f i n).logIntDue = s.logIntDue := rfl
@[simp] theorem State.addSatAt_pwrok (s : State) (f : Fld) (i n : Nat) : (s.addSatAt f i n).pwrok = s.pwrok := rfl
@[simp] theorem State.addSatAt_porHeld (s : State) (f : Fld) (i n : Nat) : (s.addSatAt f i n).porHeld = s.porHeld := rfl
@[simp] theorem State.addSatAt_resetHeld (s : State) (f : Fld) (i n : Nat) : (s.addSatAt f i n).resetHeld = s.resetHeld := rfl
@[simp] theorem State.addSatAt_straps (s : State) (f : Fld) (i n : Nat) : (s.addSatAt f i n).straps = s.straps := rfl
@[simp] theorem State.addSatAt_railsBad (s : State) (f : Fld) (i n : Nat) : (s.addSatAt f i n).railsBad = s.railsBad := rfl
@[simp] theorem State.addSatAt_tripped (s : State) (f : Fld) (i n : Nat) : (s.addSatAt f i n).tripped = s.tripped := rfl
@[simp] theorem State.addSatAt_tStacks (s : State) (f : Fld) (i n : Nat) : (s.addSatAt f i n).tStacks = s.tStacks := rfl
@[simp] theorem State.addSatAt_pkgHist (s : State) (f : Fld) (i n : Nat) : (s.addSatAt f i n).pkgHist = s.pkgHist := rfl
@[simp] theorem State.addSatAt_admitted (s : State) (f : Fld) (i n : Nat) : (s.addSatAt f i n).admitted = s.admitted := rfl
@[simp] theorem State.addSatAt_tapIr (s : State) (f : Fld) (i n : Nat) : (s.addSatAt f i n).tapIr = s.tapIr := rfl
@[simp] theorem State.addSatAt_tapAddr (s : State) (f : Fld) (i n : Nat) : (s.addSatAt f i n).tapAddr = s.tapAddr := rfl
@[simp] theorem State.addSatAt_tapDr (s : State) (f : Fld) (i n : Nat) : (s.addSatAt f i n).tapDr = s.tapDr := rfl
@[simp] theorem State.addSatAt_tapRun (s : State) (f : Fld) (i n : Nat) : (s.addSatAt f i n).tapRun = s.tapRun := rfl
@[simp] theorem State.addSatAt_dbgTx (s : State) (f : Fld) (i n : Nat) : (s.addSatAt f i n).dbgTx = s.dbgTx := rfl
@[simp] theorem State.addSatAt_freezeDeferred (s : State) (f : Fld) (i n : Nat) : (s.addSatAt f i n).freezeDeferred = s.freezeDeferred := rfl
@[simp] theorem State.addSatAt_aon (s : State) (f : Fld) (i n : Nat) : (s.addSatAt f i n).aon = s.aon := rfl
@[simp] theorem State.addSatAt_stuck (s : State) (f : Fld) (i n : Nat) : (s.addSatAt f i n).stuck = s.stuck := rfl

/-! ### `State.incSatAt`: a saturating count raised by one -/

@[simp] theorem State.incSatAt_pending (s : State) (f : Fld) (i : Nat) : (s.incSatAt f i).pending = s.pending := rfl
@[simp] theorem State.incSatAt_fresh (s : State) (f : Fld) (i : Nat) : (s.incSatAt f i).fresh = s.fresh := rfl
@[simp] theorem State.incSatAt_code432 (s : State) (f : Fld) (i : Nat) : (s.incSatAt f i).code432 = s.code432 := rfl
@[simp] theorem State.incSatAt_mem (s : State) (f : Fld) (i : Nat) : (s.incSatAt f i).mem = s.mem := rfl
@[simp] theorem State.incSatAt_poison (s : State) (f : Fld) (i : Nat) : (s.incSatAt f i).poison = s.poison := rfl
@[simp] theorem State.incSatAt_rings (s : State) (f : Fld) (i : Nat) : (s.incSatAt f i).rings = s.rings := rfl
@[simp] theorem State.incSatAt_ringReq (s : State) (f : Fld) (i : Nat) : (s.incSatAt f i).ringReq = s.ringReq := rfl
@[simp] theorem State.incSatAt_descs (s : State) (f : Fld) (i : Nat) : (s.incSatAt f i).descs = s.descs := rfl
@[simp] theorem State.incSatAt_queues (s : State) (f : Fld) (i : Nat) : (s.incSatAt f i).queues = s.queues := rfl
@[simp] theorem State.incSatAt_passes (s : State) (f : Fld) (i : Nat) : (s.incSatAt f i).passes = s.passes := rfl
@[simp] theorem State.incSatAt_arrSlice (s : State) (f : Fld) (i : Nat) : (s.incSatAt f i).arrSlice = s.arrSlice := rfl
@[simp] theorem State.incSatAt_arrMem (s : State) (f : Fld) (i : Nat) : (s.incSatAt f i).arrMem = s.arrMem := rfl
@[simp] theorem State.incSatAt_regions (s : State) (f : Fld) (i : Nat) : (s.incSatAt f i).regions = s.regions := rfl
@[simp] theorem State.incSatAt_extents (s : State) (f : Fld) (i : Nat) : (s.incSatAt f i).extents = s.extents := rfl
@[simp] theorem State.incSatAt_frames (s : State) (f : Fld) (i : Nat) : (s.incSatAt f i).frames = s.frames := rfl
@[simp] theorem State.incSatAt_nextFrame (s : State) (f : Fld) (i : Nat) : (s.incSatAt f i).nextFrame = s.nextFrame := rfl
@[simp] theorem State.incSatAt_zeroed (s : State) (f : Fld) (i : Nat) : (s.incSatAt f i).zeroed = s.zeroed := rfl
@[simp] theorem State.incSatAt_mediaWait (s : State) (f : Fld) (i : Nat) : (s.incSatAt f i).mediaWait = s.mediaWait := rfl
@[simp] theorem State.incSatAt_borage (s : State) (f : Fld) (i : Nat) : (s.incSatAt f i).borage = s.borage := rfl
@[simp] theorem State.incSatAt_retired (s : State) (f : Fld) (i : Nat) : (s.incSatAt f i).retired = s.retired := rfl
@[simp] theorem State.incSatAt_drives (s : State) (f : Fld) (i : Nat) : (s.incSatAt f i).drives = s.drives := rfl
@[simp] theorem State.incSatAt_nvme (s : State) (f : Fld) (i : Nat) : (s.incSatAt f i).nvme = s.nvme := rfl
@[simp] theorem State.incSatAt_nextCmd (s : State) (f : Fld) (i : Nat) : (s.incSatAt f i).nextCmd = s.nextCmd := rfl
@[simp] theorem State.incSatAt_nextDrive (s : State) (f : Fld) (i : Nat) : (s.incSatAt f i).nextDrive = s.nextDrive := rfl
@[simp] theorem State.incSatAt_background (s : State) (f : Fld) (i : Nat) : (s.incSatAt f i).background = s.background := rfl
@[simp] theorem State.incSatAt_xlCache (s : State) (f : Fld) (i : Nat) : (s.incSatAt f i).xlCache = s.xlCache := rfl
@[simp] theorem State.incSatAt_xlCounts (s : State) (f : Fld) (i : Nat) : (s.incSatAt f i).xlCounts = s.xlCounts := rfl
@[simp] theorem State.incSatAt_invals (s : State) (f : Fld) (i : Nat) : (s.incSatAt f i).invals = s.invals := rfl
@[simp] theorem State.incSatAt_dir (s : State) (f : Fld) (i : Nat) : (s.incSatAt f i).dir = s.dir := rfl
@[simp] theorem State.incSatAt_slots (s : State) (f : Fld) (i : Nat) : (s.incSatAt f i).slots = s.slots := rfl
@[simp] theorem State.incSatAt_slotGens (s : State) (f : Fld) (i : Nat) : (s.incSatAt f i).slotGens = s.slotGens := rfl
@[simp] theorem State.incSatAt_recalls (s : State) (f : Fld) (i : Nat) : (s.incSatAt f i).recalls = s.recalls := rfl
@[simp] theorem State.incSatAt_trips (s : State) (f : Fld) (i : Nat) : (s.incSatAt f i).trips = s.trips := rfl
@[simp] theorem State.incSatAt_sweeps (s : State) (f : Fld) (i : Nat) : (s.incSatAt f i).sweeps = s.sweeps := rfl
@[simp] theorem State.incSatAt_bankQ (s : State) (f : Fld) (i : Nat) : (s.incSatAt f i).bankQ = s.bankQ := rfl
@[simp] theorem State.incSatAt_fillQ (s : State) (f : Fld) (i : Nat) : (s.incSatAt f i).fillQ = s.fillQ := rfl
@[simp] theorem State.incSatAt_mapPrev (s : State) (f : Fld) (i : Nat) : (s.incSatAt f i).mapPrev = s.mapPrev := rfl
@[simp] theorem State.incSatAt_mapCur (s : State) (f : Fld) (i : Nat) : (s.incSatAt f i).mapCur = s.mapCur := rfl
@[simp] theorem State.incSatAt_mapPrep (s : State) (f : Fld) (i : Nat) : (s.incSatAt f i).mapPrep = s.mapPrep := rfl
@[simp] theorem State.incSatAt_grace (s : State) (f : Fld) (i : Nat) : (s.incSatAt f i).grace = s.grace := rfl
@[simp] theorem State.incSatAt_keeper (s : State) (f : Fld) (i : Nat) : (s.incSatAt f i).keeper = s.keeper := rfl
@[simp] theorem State.incSatAt_fenceEpoch (s : State) (f : Fld) (i : Nat) : (s.incSatAt f i).fenceEpoch = s.fenceEpoch := rfl
@[simp] theorem State.incSatAt_links (s : State) (f : Fld) (i : Nat) : (s.incSatAt f i).links = s.links := rfl
@[simp] theorem State.incSatAt_cohOwed (s : State) (f : Fld) (i : Nat) : (s.incSatAt f i).cohOwed = s.cohOwed := rfl
@[simp] theorem State.incSatAt_outReqs (s : State) (f : Fld) (i : Nat) : (s.incSatAt f i).outReqs = s.outReqs := rfl
@[simp] theorem State.incSatAt_asks (s : State) (f : Fld) (i : Nat) : (s.incSatAt f i).asks = s.asks := rfl
@[simp] theorem State.incSatAt_nextTag (s : State) (f : Fld) (i : Nat) : (s.incSatAt f i).nextTag = s.nextTag := rfl
@[simp] theorem State.incSatAt_txns (s : State) (f : Fld) (i : Nat) : (s.incSatAt f i).txns = s.txns := rfl
@[simp] theorem State.incSatAt_nextTxn (s : State) (f : Fld) (i : Nat) : (s.incSatAt f i).nextTxn = s.nextTxn := rfl
@[simp] theorem State.incSatAt_threads (s : State) (f : Fld) (i : Nat) : (s.incSatAt f i).threads = s.threads := rfl
@[simp] theorem State.incSatAt_held (s : State) (f : Fld) (i : Nat) : (s.incSatAt f i).held = s.held := rfl
@[simp] theorem State.incSatAt_queue (s : State) (f : Fld) (i : Nat) : (s.incSatAt f i).queue = s.queue := rfl
@[simp] theorem State.incSatAt_shares (s : State) (f : Fld) (i : Nat) : (s.incSatAt f i).shares = s.shares := rfl
@[simp] theorem State.incSatAt_turns (s : State) (f : Fld) (i : Nat) : (s.incSatAt f i).turns = s.turns := rfl
@[simp] theorem State.incSatAt_rx (s : State) (f : Fld) (i : Nat) : (s.incSatAt f i).rx = s.rx := rfl
@[simp] theorem State.incSatAt_klClients (s : State) (f : Fld) (i : Nat) : (s.incSatAt f i).klClients = s.klClients := rfl
@[simp] theorem State.incSatAt_klOuts (s : State) (f : Fld) (i : Nat) : (s.incSatAt f i).klOuts = s.klOuts := rfl
@[simp] theorem State.incSatAt_klUnmatched (s : State) (f : Fld) (i : Nat) : (s.incSatAt f i).klUnmatched = s.klUnmatched := rfl
@[simp] theorem State.incSatAt_klMayTrain (s : State) (f : Fld) (i : Nat) : (s.incSatAt f i).klMayTrain = s.klMayTrain := rfl
@[simp] theorem State.incSatAt_dill (s : State) (f : Fld) (i : Nat) : (s.incSatAt f i).dill = s.dill := rfl
@[simp] theorem State.incSatAt_killed (s : State) (f : Fld) (i : Nat) : (s.incSatAt f i).killed = s.killed := rfl
@[simp] theorem State.incSatAt_cells (s : State) (f : Fld) (i : Nat) : (s.incSatAt f i).cells = s.cells := rfl
@[simp] theorem State.incSatAt_auditDiff (s : State) (f : Fld) (i : Nat) : (s.incSatAt f i).auditDiff = s.auditDiff := rfl
@[simp] theorem State.incSatAt_mirrorCnt (s : State) (f : Fld) (i : Nat) : (s.incSatAt f i).mirrorCnt = s.mirrorCnt := rfl
@[simp] theorem State.incSatAt_mirror (s : State) (f : Fld) (i : Nat) : (s.incSatAt f i).mirror = s.mirror := rfl
@[simp] theorem State.incSatAt_resets (s : State) (f : Fld) (i : Nat) : (s.incSatAt f i).resets = s.resets := rfl
@[simp] theorem State.incSatAt_revoked (s : State) (f : Fld) (i : Nat) : (s.incSatAt f i).revoked = s.revoked := rfl
@[simp] theorem State.incSatAt_revoking (s : State) (f : Fld) (i : Nat) : (s.incSatAt f i).revoking = s.revoking := rfl
@[simp] theorem State.incSatAt_lent (s : State) (f : Fld) (i : Nat) : (s.incSatAt f i).lent = s.lent := rfl
@[simp] theorem State.incSatAt_composing (s : State) (f : Fld) (i : Nat) : (s.incSatAt f i).composing = s.composing := rfl
@[simp] theorem State.incSatAt_granted (s : State) (f : Fld) (i : Nat) : (s.incSatAt f i).granted = s.granted := rfl
@[simp] theorem State.incSatAt_composeAt (s : State) (f : Fld) (i : Nat) : (s.incSatAt f i).composeAt = s.composeAt := rfl
@[simp] theorem State.incSatAt_abortIds (s : State) (f : Fld) (i : Nat) : (s.incSatAt f i).abortIds = s.abortIds := rfl
@[simp] theorem State.incSatAt_abandoned (s : State) (f : Fld) (i : Nat) : (s.incSatAt f i).abandoned = s.abandoned := rfl
@[simp] theorem State.incSatAt_mergedAborts (s : State) (f : Fld) (i : Nat) : (s.incSatAt f i).mergedAborts = s.mergedAborts := rfl
@[simp] theorem State.incSatAt_alarmExtra (s : State) (f : Fld) (i : Nat) : (s.incSatAt f i).alarmExtra = s.alarmExtra := rfl
@[simp] theorem State.incSatAt_alarmSent (s : State) (f : Fld) (i : Nat) : (s.incSatAt f i).alarmSent = s.alarmSent := rfl
@[simp] theorem State.incSatAt_dumpSeq (s : State) (f : Fld) (i : Nat) : (s.incSatAt f i).dumpSeq = s.dumpSeq := rfl
@[simp] theorem State.incSatAt_dumpChanged (s : State) (f : Fld) (i : Nat) : (s.incSatAt f i).dumpChanged = s.dumpChanged := rfl
@[simp] theorem State.incSatAt_dumpFrom (s : State) (f : Fld) (i : Nat) : (s.incSatAt f i).dumpFrom = s.dumpFrom := rfl
@[simp] theorem State.incSatAt_scrCount (s : State) (f : Fld) (i : Nat) : (s.incSatAt f i).scrCount = s.scrCount := rfl
@[simp] theorem State.incSatAt_scrSeq (s : State) (f : Fld) (i : Nat) : (s.incSatAt f i).scrSeq = s.scrSeq := rfl
@[simp] theorem State.incSatAt_scrLfsr (s : State) (f : Fld) (i : Nat) : (s.incSatAt f i).scrLfsr = s.scrLfsr := rfl
@[simp] theorem State.incSatAt_scrNext (s : State) (f : Fld) (i : Nat) : (s.incSatAt f i).scrNext = s.scrNext := rfl
@[simp] theorem State.incSatAt_scrLast (s : State) (f : Fld) (i : Nat) : (s.incSatAt f i).scrLast = s.scrLast := rfl
@[simp] theorem State.incSatAt_flash (s : State) (f : Fld) (i : Nat) : (s.incSatAt f i).flash = s.flash := rfl
@[simp] theorem State.incSatAt_cfg (s : State) (f : Fld) (i : Nat) : (s.incSatAt f i).cfg = s.cfg := rfl
@[simp] theorem State.incSatAt_fw (s : State) (f : Fld) (i : Nat) : (s.incSatAt f i).fw = s.fw := rfl
@[simp] theorem State.incSatAt_ident (s : State) (f : Fld) (i : Nat) : (s.incSatAt f i).ident = s.ident := rfl
@[simp] theorem State.incSatAt_meas (s : State) (f : Fld) (i : Nat) : (s.incSatAt f i).meas = s.meas := rfl
@[simp] theorem State.incSatAt_mctp (s : State) (f : Fld) (i : Nat) : (s.incSatAt f i).mctp = s.mctp := rfl
@[simp] theorem State.incSatAt_mctpOut (s : State) (f : Fld) (i : Nat) : (s.incSatAt f i).mctpOut = s.mctpOut := rfl
@[simp] theorem State.incSatAt_carter (s : State) (f : Fld) (i : Nat) : (s.incSatAt f i).carter = s.carter := rfl
@[simp] theorem State.incSatAt_carterLast (s : State) (f : Fld) (i : Nat) : (s.incSatAt f i).carterLast = s.carterLast := rfl
@[simp] theorem State.incSatAt_logIntDue (s : State) (f : Fld) (i : Nat) : (s.incSatAt f i).logIntDue = s.logIntDue := rfl
@[simp] theorem State.incSatAt_pwrok (s : State) (f : Fld) (i : Nat) : (s.incSatAt f i).pwrok = s.pwrok := rfl
@[simp] theorem State.incSatAt_porHeld (s : State) (f : Fld) (i : Nat) : (s.incSatAt f i).porHeld = s.porHeld := rfl
@[simp] theorem State.incSatAt_resetHeld (s : State) (f : Fld) (i : Nat) : (s.incSatAt f i).resetHeld = s.resetHeld := rfl
@[simp] theorem State.incSatAt_straps (s : State) (f : Fld) (i : Nat) : (s.incSatAt f i).straps = s.straps := rfl
@[simp] theorem State.incSatAt_railsBad (s : State) (f : Fld) (i : Nat) : (s.incSatAt f i).railsBad = s.railsBad := rfl
@[simp] theorem State.incSatAt_tripped (s : State) (f : Fld) (i : Nat) : (s.incSatAt f i).tripped = s.tripped := rfl
@[simp] theorem State.incSatAt_tStacks (s : State) (f : Fld) (i : Nat) : (s.incSatAt f i).tStacks = s.tStacks := rfl
@[simp] theorem State.incSatAt_pkgHist (s : State) (f : Fld) (i : Nat) : (s.incSatAt f i).pkgHist = s.pkgHist := rfl
@[simp] theorem State.incSatAt_admitted (s : State) (f : Fld) (i : Nat) : (s.incSatAt f i).admitted = s.admitted := rfl
@[simp] theorem State.incSatAt_tapIr (s : State) (f : Fld) (i : Nat) : (s.incSatAt f i).tapIr = s.tapIr := rfl
@[simp] theorem State.incSatAt_tapAddr (s : State) (f : Fld) (i : Nat) : (s.incSatAt f i).tapAddr = s.tapAddr := rfl
@[simp] theorem State.incSatAt_tapDr (s : State) (f : Fld) (i : Nat) : (s.incSatAt f i).tapDr = s.tapDr := rfl
@[simp] theorem State.incSatAt_tapRun (s : State) (f : Fld) (i : Nat) : (s.incSatAt f i).tapRun = s.tapRun := rfl
@[simp] theorem State.incSatAt_dbgTx (s : State) (f : Fld) (i : Nat) : (s.incSatAt f i).dbgTx = s.dbgTx := rfl
@[simp] theorem State.incSatAt_freezeDeferred (s : State) (f : Fld) (i : Nat) : (s.incSatAt f i).freezeDeferred = s.freezeDeferred := rfl
@[simp] theorem State.incSatAt_aon (s : State) (f : Fld) (i : Nat) : (s.incSatAt f i).aon = s.aon := rfl
@[simp] theorem State.incSatAt_stuck (s : State) (f : Fld) (i : Nat) : (s.incSatAt f i).stuck = s.stuck := rfl

/-! ### `State.incSat`: a saturating count raised by one -/

@[simp] theorem State.incSat_pending (s : State) (f : Fld) : (s.incSat f).pending = s.pending := rfl
@[simp] theorem State.incSat_fresh (s : State) (f : Fld) : (s.incSat f).fresh = s.fresh := rfl
@[simp] theorem State.incSat_code432 (s : State) (f : Fld) : (s.incSat f).code432 = s.code432 := rfl
@[simp] theorem State.incSat_mem (s : State) (f : Fld) : (s.incSat f).mem = s.mem := rfl
@[simp] theorem State.incSat_poison (s : State) (f : Fld) : (s.incSat f).poison = s.poison := rfl
@[simp] theorem State.incSat_rings (s : State) (f : Fld) : (s.incSat f).rings = s.rings := rfl
@[simp] theorem State.incSat_ringReq (s : State) (f : Fld) : (s.incSat f).ringReq = s.ringReq := rfl
@[simp] theorem State.incSat_descs (s : State) (f : Fld) : (s.incSat f).descs = s.descs := rfl
@[simp] theorem State.incSat_queues (s : State) (f : Fld) : (s.incSat f).queues = s.queues := rfl
@[simp] theorem State.incSat_passes (s : State) (f : Fld) : (s.incSat f).passes = s.passes := rfl
@[simp] theorem State.incSat_arrSlice (s : State) (f : Fld) : (s.incSat f).arrSlice = s.arrSlice := rfl
@[simp] theorem State.incSat_arrMem (s : State) (f : Fld) : (s.incSat f).arrMem = s.arrMem := rfl
@[simp] theorem State.incSat_regions (s : State) (f : Fld) : (s.incSat f).regions = s.regions := rfl
@[simp] theorem State.incSat_extents (s : State) (f : Fld) : (s.incSat f).extents = s.extents := rfl
@[simp] theorem State.incSat_frames (s : State) (f : Fld) : (s.incSat f).frames = s.frames := rfl
@[simp] theorem State.incSat_nextFrame (s : State) (f : Fld) : (s.incSat f).nextFrame = s.nextFrame := rfl
@[simp] theorem State.incSat_zeroed (s : State) (f : Fld) : (s.incSat f).zeroed = s.zeroed := rfl
@[simp] theorem State.incSat_mediaWait (s : State) (f : Fld) : (s.incSat f).mediaWait = s.mediaWait := rfl
@[simp] theorem State.incSat_borage (s : State) (f : Fld) : (s.incSat f).borage = s.borage := rfl
@[simp] theorem State.incSat_retired (s : State) (f : Fld) : (s.incSat f).retired = s.retired := rfl
@[simp] theorem State.incSat_drives (s : State) (f : Fld) : (s.incSat f).drives = s.drives := rfl
@[simp] theorem State.incSat_nvme (s : State) (f : Fld) : (s.incSat f).nvme = s.nvme := rfl
@[simp] theorem State.incSat_nextCmd (s : State) (f : Fld) : (s.incSat f).nextCmd = s.nextCmd := rfl
@[simp] theorem State.incSat_nextDrive (s : State) (f : Fld) : (s.incSat f).nextDrive = s.nextDrive := rfl
@[simp] theorem State.incSat_background (s : State) (f : Fld) : (s.incSat f).background = s.background := rfl
@[simp] theorem State.incSat_xlCache (s : State) (f : Fld) : (s.incSat f).xlCache = s.xlCache := rfl
@[simp] theorem State.incSat_xlCounts (s : State) (f : Fld) : (s.incSat f).xlCounts = s.xlCounts := rfl
@[simp] theorem State.incSat_invals (s : State) (f : Fld) : (s.incSat f).invals = s.invals := rfl
@[simp] theorem State.incSat_dir (s : State) (f : Fld) : (s.incSat f).dir = s.dir := rfl
@[simp] theorem State.incSat_slots (s : State) (f : Fld) : (s.incSat f).slots = s.slots := rfl
@[simp] theorem State.incSat_slotGens (s : State) (f : Fld) : (s.incSat f).slotGens = s.slotGens := rfl
@[simp] theorem State.incSat_recalls (s : State) (f : Fld) : (s.incSat f).recalls = s.recalls := rfl
@[simp] theorem State.incSat_trips (s : State) (f : Fld) : (s.incSat f).trips = s.trips := rfl
@[simp] theorem State.incSat_sweeps (s : State) (f : Fld) : (s.incSat f).sweeps = s.sweeps := rfl
@[simp] theorem State.incSat_bankQ (s : State) (f : Fld) : (s.incSat f).bankQ = s.bankQ := rfl
@[simp] theorem State.incSat_fillQ (s : State) (f : Fld) : (s.incSat f).fillQ = s.fillQ := rfl
@[simp] theorem State.incSat_mapPrev (s : State) (f : Fld) : (s.incSat f).mapPrev = s.mapPrev := rfl
@[simp] theorem State.incSat_mapCur (s : State) (f : Fld) : (s.incSat f).mapCur = s.mapCur := rfl
@[simp] theorem State.incSat_mapPrep (s : State) (f : Fld) : (s.incSat f).mapPrep = s.mapPrep := rfl
@[simp] theorem State.incSat_grace (s : State) (f : Fld) : (s.incSat f).grace = s.grace := rfl
@[simp] theorem State.incSat_keeper (s : State) (f : Fld) : (s.incSat f).keeper = s.keeper := rfl
@[simp] theorem State.incSat_fenceEpoch (s : State) (f : Fld) : (s.incSat f).fenceEpoch = s.fenceEpoch := rfl
@[simp] theorem State.incSat_links (s : State) (f : Fld) : (s.incSat f).links = s.links := rfl
@[simp] theorem State.incSat_cohOwed (s : State) (f : Fld) : (s.incSat f).cohOwed = s.cohOwed := rfl
@[simp] theorem State.incSat_outReqs (s : State) (f : Fld) : (s.incSat f).outReqs = s.outReqs := rfl
@[simp] theorem State.incSat_asks (s : State) (f : Fld) : (s.incSat f).asks = s.asks := rfl
@[simp] theorem State.incSat_nextTag (s : State) (f : Fld) : (s.incSat f).nextTag = s.nextTag := rfl
@[simp] theorem State.incSat_txns (s : State) (f : Fld) : (s.incSat f).txns = s.txns := rfl
@[simp] theorem State.incSat_nextTxn (s : State) (f : Fld) : (s.incSat f).nextTxn = s.nextTxn := rfl
@[simp] theorem State.incSat_threads (s : State) (f : Fld) : (s.incSat f).threads = s.threads := rfl
@[simp] theorem State.incSat_held (s : State) (f : Fld) : (s.incSat f).held = s.held := rfl
@[simp] theorem State.incSat_queue (s : State) (f : Fld) : (s.incSat f).queue = s.queue := rfl
@[simp] theorem State.incSat_shares (s : State) (f : Fld) : (s.incSat f).shares = s.shares := rfl
@[simp] theorem State.incSat_turns (s : State) (f : Fld) : (s.incSat f).turns = s.turns := rfl
@[simp] theorem State.incSat_rx (s : State) (f : Fld) : (s.incSat f).rx = s.rx := rfl
@[simp] theorem State.incSat_klClients (s : State) (f : Fld) : (s.incSat f).klClients = s.klClients := rfl
@[simp] theorem State.incSat_klOuts (s : State) (f : Fld) : (s.incSat f).klOuts = s.klOuts := rfl
@[simp] theorem State.incSat_klUnmatched (s : State) (f : Fld) : (s.incSat f).klUnmatched = s.klUnmatched := rfl
@[simp] theorem State.incSat_klMayTrain (s : State) (f : Fld) : (s.incSat f).klMayTrain = s.klMayTrain := rfl
@[simp] theorem State.incSat_dill (s : State) (f : Fld) : (s.incSat f).dill = s.dill := rfl
@[simp] theorem State.incSat_killed (s : State) (f : Fld) : (s.incSat f).killed = s.killed := rfl
@[simp] theorem State.incSat_cells (s : State) (f : Fld) : (s.incSat f).cells = s.cells := rfl
@[simp] theorem State.incSat_auditDiff (s : State) (f : Fld) : (s.incSat f).auditDiff = s.auditDiff := rfl
@[simp] theorem State.incSat_mirrorCnt (s : State) (f : Fld) : (s.incSat f).mirrorCnt = s.mirrorCnt := rfl
@[simp] theorem State.incSat_mirror (s : State) (f : Fld) : (s.incSat f).mirror = s.mirror := rfl
@[simp] theorem State.incSat_resets (s : State) (f : Fld) : (s.incSat f).resets = s.resets := rfl
@[simp] theorem State.incSat_revoked (s : State) (f : Fld) : (s.incSat f).revoked = s.revoked := rfl
@[simp] theorem State.incSat_revoking (s : State) (f : Fld) : (s.incSat f).revoking = s.revoking := rfl
@[simp] theorem State.incSat_lent (s : State) (f : Fld) : (s.incSat f).lent = s.lent := rfl
@[simp] theorem State.incSat_composing (s : State) (f : Fld) : (s.incSat f).composing = s.composing := rfl
@[simp] theorem State.incSat_granted (s : State) (f : Fld) : (s.incSat f).granted = s.granted := rfl
@[simp] theorem State.incSat_composeAt (s : State) (f : Fld) : (s.incSat f).composeAt = s.composeAt := rfl
@[simp] theorem State.incSat_abortIds (s : State) (f : Fld) : (s.incSat f).abortIds = s.abortIds := rfl
@[simp] theorem State.incSat_abandoned (s : State) (f : Fld) : (s.incSat f).abandoned = s.abandoned := rfl
@[simp] theorem State.incSat_mergedAborts (s : State) (f : Fld) : (s.incSat f).mergedAborts = s.mergedAborts := rfl
@[simp] theorem State.incSat_alarmExtra (s : State) (f : Fld) : (s.incSat f).alarmExtra = s.alarmExtra := rfl
@[simp] theorem State.incSat_alarmSent (s : State) (f : Fld) : (s.incSat f).alarmSent = s.alarmSent := rfl
@[simp] theorem State.incSat_dumpSeq (s : State) (f : Fld) : (s.incSat f).dumpSeq = s.dumpSeq := rfl
@[simp] theorem State.incSat_dumpChanged (s : State) (f : Fld) : (s.incSat f).dumpChanged = s.dumpChanged := rfl
@[simp] theorem State.incSat_dumpFrom (s : State) (f : Fld) : (s.incSat f).dumpFrom = s.dumpFrom := rfl
@[simp] theorem State.incSat_scrCount (s : State) (f : Fld) : (s.incSat f).scrCount = s.scrCount := rfl
@[simp] theorem State.incSat_scrSeq (s : State) (f : Fld) : (s.incSat f).scrSeq = s.scrSeq := rfl
@[simp] theorem State.incSat_scrLfsr (s : State) (f : Fld) : (s.incSat f).scrLfsr = s.scrLfsr := rfl
@[simp] theorem State.incSat_scrNext (s : State) (f : Fld) : (s.incSat f).scrNext = s.scrNext := rfl
@[simp] theorem State.incSat_scrLast (s : State) (f : Fld) : (s.incSat f).scrLast = s.scrLast := rfl
@[simp] theorem State.incSat_flash (s : State) (f : Fld) : (s.incSat f).flash = s.flash := rfl
@[simp] theorem State.incSat_cfg (s : State) (f : Fld) : (s.incSat f).cfg = s.cfg := rfl
@[simp] theorem State.incSat_fw (s : State) (f : Fld) : (s.incSat f).fw = s.fw := rfl
@[simp] theorem State.incSat_ident (s : State) (f : Fld) : (s.incSat f).ident = s.ident := rfl
@[simp] theorem State.incSat_meas (s : State) (f : Fld) : (s.incSat f).meas = s.meas := rfl
@[simp] theorem State.incSat_mctp (s : State) (f : Fld) : (s.incSat f).mctp = s.mctp := rfl
@[simp] theorem State.incSat_mctpOut (s : State) (f : Fld) : (s.incSat f).mctpOut = s.mctpOut := rfl
@[simp] theorem State.incSat_carter (s : State) (f : Fld) : (s.incSat f).carter = s.carter := rfl
@[simp] theorem State.incSat_carterLast (s : State) (f : Fld) : (s.incSat f).carterLast = s.carterLast := rfl
@[simp] theorem State.incSat_logIntDue (s : State) (f : Fld) : (s.incSat f).logIntDue = s.logIntDue := rfl
@[simp] theorem State.incSat_pwrok (s : State) (f : Fld) : (s.incSat f).pwrok = s.pwrok := rfl
@[simp] theorem State.incSat_porHeld (s : State) (f : Fld) : (s.incSat f).porHeld = s.porHeld := rfl
@[simp] theorem State.incSat_resetHeld (s : State) (f : Fld) : (s.incSat f).resetHeld = s.resetHeld := rfl
@[simp] theorem State.incSat_straps (s : State) (f : Fld) : (s.incSat f).straps = s.straps := rfl
@[simp] theorem State.incSat_railsBad (s : State) (f : Fld) : (s.incSat f).railsBad = s.railsBad := rfl
@[simp] theorem State.incSat_tripped (s : State) (f : Fld) : (s.incSat f).tripped = s.tripped := rfl
@[simp] theorem State.incSat_tStacks (s : State) (f : Fld) : (s.incSat f).tStacks = s.tStacks := rfl
@[simp] theorem State.incSat_pkgHist (s : State) (f : Fld) : (s.incSat f).pkgHist = s.pkgHist := rfl
@[simp] theorem State.incSat_admitted (s : State) (f : Fld) : (s.incSat f).admitted = s.admitted := rfl
@[simp] theorem State.incSat_tapIr (s : State) (f : Fld) : (s.incSat f).tapIr = s.tapIr := rfl
@[simp] theorem State.incSat_tapAddr (s : State) (f : Fld) : (s.incSat f).tapAddr = s.tapAddr := rfl
@[simp] theorem State.incSat_tapDr (s : State) (f : Fld) : (s.incSat f).tapDr = s.tapDr := rfl
@[simp] theorem State.incSat_tapRun (s : State) (f : Fld) : (s.incSat f).tapRun = s.tapRun := rfl
@[simp] theorem State.incSat_dbgTx (s : State) (f : Fld) : (s.incSat f).dbgTx = s.dbgTx := rfl
@[simp] theorem State.incSat_freezeDeferred (s : State) (f : Fld) : (s.incSat f).freezeDeferred = s.freezeDeferred := rfl
@[simp] theorem State.incSat_aon (s : State) (f : Fld) : (s.incSat f).aon = s.aon := rfl
@[simp] theorem State.incSat_stuck (s : State) (f : Fld) : (s.incSat f).stuck = s.stuck := rfl

/-! ### `State.addWrap`: a wrapping count raised -/

@[simp] theorem State.addWrap_pending (s : State) (f : Fld) (n : Nat) : (s.addWrap f n).pending = s.pending := rfl
@[simp] theorem State.addWrap_fresh (s : State) (f : Fld) (n : Nat) : (s.addWrap f n).fresh = s.fresh := rfl
@[simp] theorem State.addWrap_code432 (s : State) (f : Fld) (n : Nat) : (s.addWrap f n).code432 = s.code432 := rfl
@[simp] theorem State.addWrap_mem (s : State) (f : Fld) (n : Nat) : (s.addWrap f n).mem = s.mem := rfl
@[simp] theorem State.addWrap_poison (s : State) (f : Fld) (n : Nat) : (s.addWrap f n).poison = s.poison := rfl
@[simp] theorem State.addWrap_rings (s : State) (f : Fld) (n : Nat) : (s.addWrap f n).rings = s.rings := rfl
@[simp] theorem State.addWrap_ringReq (s : State) (f : Fld) (n : Nat) : (s.addWrap f n).ringReq = s.ringReq := rfl
@[simp] theorem State.addWrap_descs (s : State) (f : Fld) (n : Nat) : (s.addWrap f n).descs = s.descs := rfl
@[simp] theorem State.addWrap_queues (s : State) (f : Fld) (n : Nat) : (s.addWrap f n).queues = s.queues := rfl
@[simp] theorem State.addWrap_passes (s : State) (f : Fld) (n : Nat) : (s.addWrap f n).passes = s.passes := rfl
@[simp] theorem State.addWrap_arrSlice (s : State) (f : Fld) (n : Nat) : (s.addWrap f n).arrSlice = s.arrSlice := rfl
@[simp] theorem State.addWrap_arrMem (s : State) (f : Fld) (n : Nat) : (s.addWrap f n).arrMem = s.arrMem := rfl
@[simp] theorem State.addWrap_regions (s : State) (f : Fld) (n : Nat) : (s.addWrap f n).regions = s.regions := rfl
@[simp] theorem State.addWrap_extents (s : State) (f : Fld) (n : Nat) : (s.addWrap f n).extents = s.extents := rfl
@[simp] theorem State.addWrap_frames (s : State) (f : Fld) (n : Nat) : (s.addWrap f n).frames = s.frames := rfl
@[simp] theorem State.addWrap_nextFrame (s : State) (f : Fld) (n : Nat) : (s.addWrap f n).nextFrame = s.nextFrame := rfl
@[simp] theorem State.addWrap_zeroed (s : State) (f : Fld) (n : Nat) : (s.addWrap f n).zeroed = s.zeroed := rfl
@[simp] theorem State.addWrap_mediaWait (s : State) (f : Fld) (n : Nat) : (s.addWrap f n).mediaWait = s.mediaWait := rfl
@[simp] theorem State.addWrap_borage (s : State) (f : Fld) (n : Nat) : (s.addWrap f n).borage = s.borage := rfl
@[simp] theorem State.addWrap_retired (s : State) (f : Fld) (n : Nat) : (s.addWrap f n).retired = s.retired := rfl
@[simp] theorem State.addWrap_drives (s : State) (f : Fld) (n : Nat) : (s.addWrap f n).drives = s.drives := rfl
@[simp] theorem State.addWrap_nvme (s : State) (f : Fld) (n : Nat) : (s.addWrap f n).nvme = s.nvme := rfl
@[simp] theorem State.addWrap_nextCmd (s : State) (f : Fld) (n : Nat) : (s.addWrap f n).nextCmd = s.nextCmd := rfl
@[simp] theorem State.addWrap_nextDrive (s : State) (f : Fld) (n : Nat) : (s.addWrap f n).nextDrive = s.nextDrive := rfl
@[simp] theorem State.addWrap_background (s : State) (f : Fld) (n : Nat) : (s.addWrap f n).background = s.background := rfl
@[simp] theorem State.addWrap_xlCache (s : State) (f : Fld) (n : Nat) : (s.addWrap f n).xlCache = s.xlCache := rfl
@[simp] theorem State.addWrap_xlCounts (s : State) (f : Fld) (n : Nat) : (s.addWrap f n).xlCounts = s.xlCounts := rfl
@[simp] theorem State.addWrap_invals (s : State) (f : Fld) (n : Nat) : (s.addWrap f n).invals = s.invals := rfl
@[simp] theorem State.addWrap_dir (s : State) (f : Fld) (n : Nat) : (s.addWrap f n).dir = s.dir := rfl
@[simp] theorem State.addWrap_slots (s : State) (f : Fld) (n : Nat) : (s.addWrap f n).slots = s.slots := rfl
@[simp] theorem State.addWrap_slotGens (s : State) (f : Fld) (n : Nat) : (s.addWrap f n).slotGens = s.slotGens := rfl
@[simp] theorem State.addWrap_recalls (s : State) (f : Fld) (n : Nat) : (s.addWrap f n).recalls = s.recalls := rfl
@[simp] theorem State.addWrap_trips (s : State) (f : Fld) (n : Nat) : (s.addWrap f n).trips = s.trips := rfl
@[simp] theorem State.addWrap_sweeps (s : State) (f : Fld) (n : Nat) : (s.addWrap f n).sweeps = s.sweeps := rfl
@[simp] theorem State.addWrap_bankQ (s : State) (f : Fld) (n : Nat) : (s.addWrap f n).bankQ = s.bankQ := rfl
@[simp] theorem State.addWrap_fillQ (s : State) (f : Fld) (n : Nat) : (s.addWrap f n).fillQ = s.fillQ := rfl
@[simp] theorem State.addWrap_mapPrev (s : State) (f : Fld) (n : Nat) : (s.addWrap f n).mapPrev = s.mapPrev := rfl
@[simp] theorem State.addWrap_mapCur (s : State) (f : Fld) (n : Nat) : (s.addWrap f n).mapCur = s.mapCur := rfl
@[simp] theorem State.addWrap_mapPrep (s : State) (f : Fld) (n : Nat) : (s.addWrap f n).mapPrep = s.mapPrep := rfl
@[simp] theorem State.addWrap_grace (s : State) (f : Fld) (n : Nat) : (s.addWrap f n).grace = s.grace := rfl
@[simp] theorem State.addWrap_keeper (s : State) (f : Fld) (n : Nat) : (s.addWrap f n).keeper = s.keeper := rfl
@[simp] theorem State.addWrap_fenceEpoch (s : State) (f : Fld) (n : Nat) : (s.addWrap f n).fenceEpoch = s.fenceEpoch := rfl
@[simp] theorem State.addWrap_links (s : State) (f : Fld) (n : Nat) : (s.addWrap f n).links = s.links := rfl
@[simp] theorem State.addWrap_cohOwed (s : State) (f : Fld) (n : Nat) : (s.addWrap f n).cohOwed = s.cohOwed := rfl
@[simp] theorem State.addWrap_outReqs (s : State) (f : Fld) (n : Nat) : (s.addWrap f n).outReqs = s.outReqs := rfl
@[simp] theorem State.addWrap_asks (s : State) (f : Fld) (n : Nat) : (s.addWrap f n).asks = s.asks := rfl
@[simp] theorem State.addWrap_nextTag (s : State) (f : Fld) (n : Nat) : (s.addWrap f n).nextTag = s.nextTag := rfl
@[simp] theorem State.addWrap_txns (s : State) (f : Fld) (n : Nat) : (s.addWrap f n).txns = s.txns := rfl
@[simp] theorem State.addWrap_nextTxn (s : State) (f : Fld) (n : Nat) : (s.addWrap f n).nextTxn = s.nextTxn := rfl
@[simp] theorem State.addWrap_threads (s : State) (f : Fld) (n : Nat) : (s.addWrap f n).threads = s.threads := rfl
@[simp] theorem State.addWrap_held (s : State) (f : Fld) (n : Nat) : (s.addWrap f n).held = s.held := rfl
@[simp] theorem State.addWrap_queue (s : State) (f : Fld) (n : Nat) : (s.addWrap f n).queue = s.queue := rfl
@[simp] theorem State.addWrap_shares (s : State) (f : Fld) (n : Nat) : (s.addWrap f n).shares = s.shares := rfl
@[simp] theorem State.addWrap_turns (s : State) (f : Fld) (n : Nat) : (s.addWrap f n).turns = s.turns := rfl
@[simp] theorem State.addWrap_rx (s : State) (f : Fld) (n : Nat) : (s.addWrap f n).rx = s.rx := rfl
@[simp] theorem State.addWrap_klClients (s : State) (f : Fld) (n : Nat) : (s.addWrap f n).klClients = s.klClients := rfl
@[simp] theorem State.addWrap_klOuts (s : State) (f : Fld) (n : Nat) : (s.addWrap f n).klOuts = s.klOuts := rfl
@[simp] theorem State.addWrap_klUnmatched (s : State) (f : Fld) (n : Nat) : (s.addWrap f n).klUnmatched = s.klUnmatched := rfl
@[simp] theorem State.addWrap_klMayTrain (s : State) (f : Fld) (n : Nat) : (s.addWrap f n).klMayTrain = s.klMayTrain := rfl
@[simp] theorem State.addWrap_dill (s : State) (f : Fld) (n : Nat) : (s.addWrap f n).dill = s.dill := rfl
@[simp] theorem State.addWrap_killed (s : State) (f : Fld) (n : Nat) : (s.addWrap f n).killed = s.killed := rfl
@[simp] theorem State.addWrap_cells (s : State) (f : Fld) (n : Nat) : (s.addWrap f n).cells = s.cells := rfl
@[simp] theorem State.addWrap_auditDiff (s : State) (f : Fld) (n : Nat) : (s.addWrap f n).auditDiff = s.auditDiff := rfl
@[simp] theorem State.addWrap_mirrorCnt (s : State) (f : Fld) (n : Nat) : (s.addWrap f n).mirrorCnt = s.mirrorCnt := rfl
@[simp] theorem State.addWrap_mirror (s : State) (f : Fld) (n : Nat) : (s.addWrap f n).mirror = s.mirror := rfl
@[simp] theorem State.addWrap_resets (s : State) (f : Fld) (n : Nat) : (s.addWrap f n).resets = s.resets := rfl
@[simp] theorem State.addWrap_revoked (s : State) (f : Fld) (n : Nat) : (s.addWrap f n).revoked = s.revoked := rfl
@[simp] theorem State.addWrap_revoking (s : State) (f : Fld) (n : Nat) : (s.addWrap f n).revoking = s.revoking := rfl
@[simp] theorem State.addWrap_lent (s : State) (f : Fld) (n : Nat) : (s.addWrap f n).lent = s.lent := rfl
@[simp] theorem State.addWrap_composing (s : State) (f : Fld) (n : Nat) : (s.addWrap f n).composing = s.composing := rfl
@[simp] theorem State.addWrap_granted (s : State) (f : Fld) (n : Nat) : (s.addWrap f n).granted = s.granted := rfl
@[simp] theorem State.addWrap_composeAt (s : State) (f : Fld) (n : Nat) : (s.addWrap f n).composeAt = s.composeAt := rfl
@[simp] theorem State.addWrap_abortIds (s : State) (f : Fld) (n : Nat) : (s.addWrap f n).abortIds = s.abortIds := rfl
@[simp] theorem State.addWrap_abandoned (s : State) (f : Fld) (n : Nat) : (s.addWrap f n).abandoned = s.abandoned := rfl
@[simp] theorem State.addWrap_mergedAborts (s : State) (f : Fld) (n : Nat) : (s.addWrap f n).mergedAborts = s.mergedAborts := rfl
@[simp] theorem State.addWrap_alarmExtra (s : State) (f : Fld) (n : Nat) : (s.addWrap f n).alarmExtra = s.alarmExtra := rfl
@[simp] theorem State.addWrap_alarmSent (s : State) (f : Fld) (n : Nat) : (s.addWrap f n).alarmSent = s.alarmSent := rfl
@[simp] theorem State.addWrap_dumpSeq (s : State) (f : Fld) (n : Nat) : (s.addWrap f n).dumpSeq = s.dumpSeq := rfl
@[simp] theorem State.addWrap_dumpChanged (s : State) (f : Fld) (n : Nat) : (s.addWrap f n).dumpChanged = s.dumpChanged := rfl
@[simp] theorem State.addWrap_dumpFrom (s : State) (f : Fld) (n : Nat) : (s.addWrap f n).dumpFrom = s.dumpFrom := rfl
@[simp] theorem State.addWrap_scrCount (s : State) (f : Fld) (n : Nat) : (s.addWrap f n).scrCount = s.scrCount := rfl
@[simp] theorem State.addWrap_scrSeq (s : State) (f : Fld) (n : Nat) : (s.addWrap f n).scrSeq = s.scrSeq := rfl
@[simp] theorem State.addWrap_scrLfsr (s : State) (f : Fld) (n : Nat) : (s.addWrap f n).scrLfsr = s.scrLfsr := rfl
@[simp] theorem State.addWrap_scrNext (s : State) (f : Fld) (n : Nat) : (s.addWrap f n).scrNext = s.scrNext := rfl
@[simp] theorem State.addWrap_scrLast (s : State) (f : Fld) (n : Nat) : (s.addWrap f n).scrLast = s.scrLast := rfl
@[simp] theorem State.addWrap_flash (s : State) (f : Fld) (n : Nat) : (s.addWrap f n).flash = s.flash := rfl
@[simp] theorem State.addWrap_cfg (s : State) (f : Fld) (n : Nat) : (s.addWrap f n).cfg = s.cfg := rfl
@[simp] theorem State.addWrap_fw (s : State) (f : Fld) (n : Nat) : (s.addWrap f n).fw = s.fw := rfl
@[simp] theorem State.addWrap_ident (s : State) (f : Fld) (n : Nat) : (s.addWrap f n).ident = s.ident := rfl
@[simp] theorem State.addWrap_meas (s : State) (f : Fld) (n : Nat) : (s.addWrap f n).meas = s.meas := rfl
@[simp] theorem State.addWrap_mctp (s : State) (f : Fld) (n : Nat) : (s.addWrap f n).mctp = s.mctp := rfl
@[simp] theorem State.addWrap_mctpOut (s : State) (f : Fld) (n : Nat) : (s.addWrap f n).mctpOut = s.mctpOut := rfl
@[simp] theorem State.addWrap_carter (s : State) (f : Fld) (n : Nat) : (s.addWrap f n).carter = s.carter := rfl
@[simp] theorem State.addWrap_carterLast (s : State) (f : Fld) (n : Nat) : (s.addWrap f n).carterLast = s.carterLast := rfl
@[simp] theorem State.addWrap_logIntDue (s : State) (f : Fld) (n : Nat) : (s.addWrap f n).logIntDue = s.logIntDue := rfl
@[simp] theorem State.addWrap_pwrok (s : State) (f : Fld) (n : Nat) : (s.addWrap f n).pwrok = s.pwrok := rfl
@[simp] theorem State.addWrap_porHeld (s : State) (f : Fld) (n : Nat) : (s.addWrap f n).porHeld = s.porHeld := rfl
@[simp] theorem State.addWrap_resetHeld (s : State) (f : Fld) (n : Nat) : (s.addWrap f n).resetHeld = s.resetHeld := rfl
@[simp] theorem State.addWrap_straps (s : State) (f : Fld) (n : Nat) : (s.addWrap f n).straps = s.straps := rfl
@[simp] theorem State.addWrap_railsBad (s : State) (f : Fld) (n : Nat) : (s.addWrap f n).railsBad = s.railsBad := rfl
@[simp] theorem State.addWrap_tripped (s : State) (f : Fld) (n : Nat) : (s.addWrap f n).tripped = s.tripped := rfl
@[simp] theorem State.addWrap_tStacks (s : State) (f : Fld) (n : Nat) : (s.addWrap f n).tStacks = s.tStacks := rfl
@[simp] theorem State.addWrap_pkgHist (s : State) (f : Fld) (n : Nat) : (s.addWrap f n).pkgHist = s.pkgHist := rfl
@[simp] theorem State.addWrap_admitted (s : State) (f : Fld) (n : Nat) : (s.addWrap f n).admitted = s.admitted := rfl
@[simp] theorem State.addWrap_tapIr (s : State) (f : Fld) (n : Nat) : (s.addWrap f n).tapIr = s.tapIr := rfl
@[simp] theorem State.addWrap_tapAddr (s : State) (f : Fld) (n : Nat) : (s.addWrap f n).tapAddr = s.tapAddr := rfl
@[simp] theorem State.addWrap_tapDr (s : State) (f : Fld) (n : Nat) : (s.addWrap f n).tapDr = s.tapDr := rfl
@[simp] theorem State.addWrap_tapRun (s : State) (f : Fld) (n : Nat) : (s.addWrap f n).tapRun = s.tapRun := rfl
@[simp] theorem State.addWrap_dbgTx (s : State) (f : Fld) (n : Nat) : (s.addWrap f n).dbgTx = s.dbgTx := rfl
@[simp] theorem State.addWrap_freezeDeferred (s : State) (f : Fld) (n : Nat) : (s.addWrap f n).freezeDeferred = s.freezeDeferred := rfl
@[simp] theorem State.addWrap_aon (s : State) (f : Fld) (n : Nat) : (s.addWrap f n).aon = s.aon := rfl
@[simp] theorem State.addWrap_stuck (s : State) (f : Fld) (n : Nat) : (s.addWrap f n).stuck = s.stuck := rfl

/-! ### `State.memWrite`: bytes written to plain memory -/

@[simp] theorem State.memWrite_pending (s : State) (a : Nat) (bs : List Byte) : (s.memWrite a bs).pending = s.pending := rfl
@[simp] theorem State.memWrite_fresh (s : State) (a : Nat) (bs : List Byte) : (s.memWrite a bs).fresh = s.fresh := rfl
@[simp] theorem State.memWrite_code432 (s : State) (a : Nat) (bs : List Byte) : (s.memWrite a bs).code432 = s.code432 := rfl
@[simp] theorem State.memWrite_regs (s : State) (a : Nat) (bs : List Byte) : (s.memWrite a bs).regs = s.regs := rfl
@[simp] theorem State.memWrite_rings (s : State) (a : Nat) (bs : List Byte) : (s.memWrite a bs).rings = s.rings := rfl
@[simp] theorem State.memWrite_ringReq (s : State) (a : Nat) (bs : List Byte) : (s.memWrite a bs).ringReq = s.ringReq := rfl
@[simp] theorem State.memWrite_descs (s : State) (a : Nat) (bs : List Byte) : (s.memWrite a bs).descs = s.descs := rfl
@[simp] theorem State.memWrite_queues (s : State) (a : Nat) (bs : List Byte) : (s.memWrite a bs).queues = s.queues := rfl
@[simp] theorem State.memWrite_passes (s : State) (a : Nat) (bs : List Byte) : (s.memWrite a bs).passes = s.passes := rfl
@[simp] theorem State.memWrite_arrSlice (s : State) (a : Nat) (bs : List Byte) : (s.memWrite a bs).arrSlice = s.arrSlice := rfl
@[simp] theorem State.memWrite_arrMem (s : State) (a : Nat) (bs : List Byte) : (s.memWrite a bs).arrMem = s.arrMem := rfl
@[simp] theorem State.memWrite_regions (s : State) (a : Nat) (bs : List Byte) : (s.memWrite a bs).regions = s.regions := rfl
@[simp] theorem State.memWrite_extents (s : State) (a : Nat) (bs : List Byte) : (s.memWrite a bs).extents = s.extents := rfl
@[simp] theorem State.memWrite_frames (s : State) (a : Nat) (bs : List Byte) : (s.memWrite a bs).frames = s.frames := rfl
@[simp] theorem State.memWrite_nextFrame (s : State) (a : Nat) (bs : List Byte) : (s.memWrite a bs).nextFrame = s.nextFrame := rfl
@[simp] theorem State.memWrite_zeroed (s : State) (a : Nat) (bs : List Byte) : (s.memWrite a bs).zeroed = s.zeroed := rfl
@[simp] theorem State.memWrite_mediaWait (s : State) (a : Nat) (bs : List Byte) : (s.memWrite a bs).mediaWait = s.mediaWait := rfl
@[simp] theorem State.memWrite_borage (s : State) (a : Nat) (bs : List Byte) : (s.memWrite a bs).borage = s.borage := rfl
@[simp] theorem State.memWrite_retired (s : State) (a : Nat) (bs : List Byte) : (s.memWrite a bs).retired = s.retired := rfl
@[simp] theorem State.memWrite_drives (s : State) (a : Nat) (bs : List Byte) : (s.memWrite a bs).drives = s.drives := rfl
@[simp] theorem State.memWrite_nvme (s : State) (a : Nat) (bs : List Byte) : (s.memWrite a bs).nvme = s.nvme := rfl
@[simp] theorem State.memWrite_nextCmd (s : State) (a : Nat) (bs : List Byte) : (s.memWrite a bs).nextCmd = s.nextCmd := rfl
@[simp] theorem State.memWrite_nextDrive (s : State) (a : Nat) (bs : List Byte) : (s.memWrite a bs).nextDrive = s.nextDrive := rfl
@[simp] theorem State.memWrite_background (s : State) (a : Nat) (bs : List Byte) : (s.memWrite a bs).background = s.background := rfl
@[simp] theorem State.memWrite_xlCache (s : State) (a : Nat) (bs : List Byte) : (s.memWrite a bs).xlCache = s.xlCache := rfl
@[simp] theorem State.memWrite_xlCounts (s : State) (a : Nat) (bs : List Byte) : (s.memWrite a bs).xlCounts = s.xlCounts := rfl
@[simp] theorem State.memWrite_invals (s : State) (a : Nat) (bs : List Byte) : (s.memWrite a bs).invals = s.invals := rfl
@[simp] theorem State.memWrite_dir (s : State) (a : Nat) (bs : List Byte) : (s.memWrite a bs).dir = s.dir := rfl
@[simp] theorem State.memWrite_slots (s : State) (a : Nat) (bs : List Byte) : (s.memWrite a bs).slots = s.slots := rfl
@[simp] theorem State.memWrite_slotGens (s : State) (a : Nat) (bs : List Byte) : (s.memWrite a bs).slotGens = s.slotGens := rfl
@[simp] theorem State.memWrite_recalls (s : State) (a : Nat) (bs : List Byte) : (s.memWrite a bs).recalls = s.recalls := rfl
@[simp] theorem State.memWrite_trips (s : State) (a : Nat) (bs : List Byte) : (s.memWrite a bs).trips = s.trips := rfl
@[simp] theorem State.memWrite_sweeps (s : State) (a : Nat) (bs : List Byte) : (s.memWrite a bs).sweeps = s.sweeps := rfl
@[simp] theorem State.memWrite_bankQ (s : State) (a : Nat) (bs : List Byte) : (s.memWrite a bs).bankQ = s.bankQ := rfl
@[simp] theorem State.memWrite_fillQ (s : State) (a : Nat) (bs : List Byte) : (s.memWrite a bs).fillQ = s.fillQ := rfl
@[simp] theorem State.memWrite_mapPrev (s : State) (a : Nat) (bs : List Byte) : (s.memWrite a bs).mapPrev = s.mapPrev := rfl
@[simp] theorem State.memWrite_mapCur (s : State) (a : Nat) (bs : List Byte) : (s.memWrite a bs).mapCur = s.mapCur := rfl
@[simp] theorem State.memWrite_mapPrep (s : State) (a : Nat) (bs : List Byte) : (s.memWrite a bs).mapPrep = s.mapPrep := rfl
@[simp] theorem State.memWrite_grace (s : State) (a : Nat) (bs : List Byte) : (s.memWrite a bs).grace = s.grace := rfl
@[simp] theorem State.memWrite_keeper (s : State) (a : Nat) (bs : List Byte) : (s.memWrite a bs).keeper = s.keeper := rfl
@[simp] theorem State.memWrite_fenceEpoch (s : State) (a : Nat) (bs : List Byte) : (s.memWrite a bs).fenceEpoch = s.fenceEpoch := rfl
@[simp] theorem State.memWrite_links (s : State) (a : Nat) (bs : List Byte) : (s.memWrite a bs).links = s.links := rfl
@[simp] theorem State.memWrite_cohOwed (s : State) (a : Nat) (bs : List Byte) : (s.memWrite a bs).cohOwed = s.cohOwed := rfl
@[simp] theorem State.memWrite_outReqs (s : State) (a : Nat) (bs : List Byte) : (s.memWrite a bs).outReqs = s.outReqs := rfl
@[simp] theorem State.memWrite_asks (s : State) (a : Nat) (bs : List Byte) : (s.memWrite a bs).asks = s.asks := rfl
@[simp] theorem State.memWrite_nextTag (s : State) (a : Nat) (bs : List Byte) : (s.memWrite a bs).nextTag = s.nextTag := rfl
@[simp] theorem State.memWrite_txns (s : State) (a : Nat) (bs : List Byte) : (s.memWrite a bs).txns = s.txns := rfl
@[simp] theorem State.memWrite_nextTxn (s : State) (a : Nat) (bs : List Byte) : (s.memWrite a bs).nextTxn = s.nextTxn := rfl
@[simp] theorem State.memWrite_threads (s : State) (a : Nat) (bs : List Byte) : (s.memWrite a bs).threads = s.threads := rfl
@[simp] theorem State.memWrite_held (s : State) (a : Nat) (bs : List Byte) : (s.memWrite a bs).held = s.held := rfl
@[simp] theorem State.memWrite_queue (s : State) (a : Nat) (bs : List Byte) : (s.memWrite a bs).queue = s.queue := rfl
@[simp] theorem State.memWrite_shares (s : State) (a : Nat) (bs : List Byte) : (s.memWrite a bs).shares = s.shares := rfl
@[simp] theorem State.memWrite_turns (s : State) (a : Nat) (bs : List Byte) : (s.memWrite a bs).turns = s.turns := rfl
@[simp] theorem State.memWrite_rx (s : State) (a : Nat) (bs : List Byte) : (s.memWrite a bs).rx = s.rx := rfl
@[simp] theorem State.memWrite_klClients (s : State) (a : Nat) (bs : List Byte) : (s.memWrite a bs).klClients = s.klClients := rfl
@[simp] theorem State.memWrite_klOuts (s : State) (a : Nat) (bs : List Byte) : (s.memWrite a bs).klOuts = s.klOuts := rfl
@[simp] theorem State.memWrite_klUnmatched (s : State) (a : Nat) (bs : List Byte) : (s.memWrite a bs).klUnmatched = s.klUnmatched := rfl
@[simp] theorem State.memWrite_klMayTrain (s : State) (a : Nat) (bs : List Byte) : (s.memWrite a bs).klMayTrain = s.klMayTrain := rfl
@[simp] theorem State.memWrite_dill (s : State) (a : Nat) (bs : List Byte) : (s.memWrite a bs).dill = s.dill := rfl
@[simp] theorem State.memWrite_killed (s : State) (a : Nat) (bs : List Byte) : (s.memWrite a bs).killed = s.killed := rfl
@[simp] theorem State.memWrite_cells (s : State) (a : Nat) (bs : List Byte) : (s.memWrite a bs).cells = s.cells := rfl
@[simp] theorem State.memWrite_auditDiff (s : State) (a : Nat) (bs : List Byte) : (s.memWrite a bs).auditDiff = s.auditDiff := rfl
@[simp] theorem State.memWrite_mirrorCnt (s : State) (a : Nat) (bs : List Byte) : (s.memWrite a bs).mirrorCnt = s.mirrorCnt := rfl
@[simp] theorem State.memWrite_mirror (s : State) (a : Nat) (bs : List Byte) : (s.memWrite a bs).mirror = s.mirror := rfl
@[simp] theorem State.memWrite_resets (s : State) (a : Nat) (bs : List Byte) : (s.memWrite a bs).resets = s.resets := rfl
@[simp] theorem State.memWrite_revoked (s : State) (a : Nat) (bs : List Byte) : (s.memWrite a bs).revoked = s.revoked := rfl
@[simp] theorem State.memWrite_revoking (s : State) (a : Nat) (bs : List Byte) : (s.memWrite a bs).revoking = s.revoking := rfl
@[simp] theorem State.memWrite_lent (s : State) (a : Nat) (bs : List Byte) : (s.memWrite a bs).lent = s.lent := rfl
@[simp] theorem State.memWrite_composing (s : State) (a : Nat) (bs : List Byte) : (s.memWrite a bs).composing = s.composing := rfl
@[simp] theorem State.memWrite_granted (s : State) (a : Nat) (bs : List Byte) : (s.memWrite a bs).granted = s.granted := rfl
@[simp] theorem State.memWrite_composeAt (s : State) (a : Nat) (bs : List Byte) : (s.memWrite a bs).composeAt = s.composeAt := rfl
@[simp] theorem State.memWrite_abortIds (s : State) (a : Nat) (bs : List Byte) : (s.memWrite a bs).abortIds = s.abortIds := rfl
@[simp] theorem State.memWrite_abandoned (s : State) (a : Nat) (bs : List Byte) : (s.memWrite a bs).abandoned = s.abandoned := rfl
@[simp] theorem State.memWrite_mergedAborts (s : State) (a : Nat) (bs : List Byte) : (s.memWrite a bs).mergedAborts = s.mergedAborts := rfl
@[simp] theorem State.memWrite_alarmExtra (s : State) (a : Nat) (bs : List Byte) : (s.memWrite a bs).alarmExtra = s.alarmExtra := rfl
@[simp] theorem State.memWrite_alarmSent (s : State) (a : Nat) (bs : List Byte) : (s.memWrite a bs).alarmSent = s.alarmSent := rfl
@[simp] theorem State.memWrite_dumpSeq (s : State) (a : Nat) (bs : List Byte) : (s.memWrite a bs).dumpSeq = s.dumpSeq := rfl
@[simp] theorem State.memWrite_dumpChanged (s : State) (a : Nat) (bs : List Byte) : (s.memWrite a bs).dumpChanged = s.dumpChanged := rfl
@[simp] theorem State.memWrite_dumpFrom (s : State) (a : Nat) (bs : List Byte) : (s.memWrite a bs).dumpFrom = s.dumpFrom := rfl
@[simp] theorem State.memWrite_scrCount (s : State) (a : Nat) (bs : List Byte) : (s.memWrite a bs).scrCount = s.scrCount := rfl
@[simp] theorem State.memWrite_scrSeq (s : State) (a : Nat) (bs : List Byte) : (s.memWrite a bs).scrSeq = s.scrSeq := rfl
@[simp] theorem State.memWrite_scrLfsr (s : State) (a : Nat) (bs : List Byte) : (s.memWrite a bs).scrLfsr = s.scrLfsr := rfl
@[simp] theorem State.memWrite_scrNext (s : State) (a : Nat) (bs : List Byte) : (s.memWrite a bs).scrNext = s.scrNext := rfl
@[simp] theorem State.memWrite_scrLast (s : State) (a : Nat) (bs : List Byte) : (s.memWrite a bs).scrLast = s.scrLast := rfl
@[simp] theorem State.memWrite_flash (s : State) (a : Nat) (bs : List Byte) : (s.memWrite a bs).flash = s.flash := rfl
@[simp] theorem State.memWrite_cfg (s : State) (a : Nat) (bs : List Byte) : (s.memWrite a bs).cfg = s.cfg := rfl
@[simp] theorem State.memWrite_fw (s : State) (a : Nat) (bs : List Byte) : (s.memWrite a bs).fw = s.fw := rfl
@[simp] theorem State.memWrite_ident (s : State) (a : Nat) (bs : List Byte) : (s.memWrite a bs).ident = s.ident := rfl
@[simp] theorem State.memWrite_meas (s : State) (a : Nat) (bs : List Byte) : (s.memWrite a bs).meas = s.meas := rfl
@[simp] theorem State.memWrite_mctp (s : State) (a : Nat) (bs : List Byte) : (s.memWrite a bs).mctp = s.mctp := rfl
@[simp] theorem State.memWrite_mctpOut (s : State) (a : Nat) (bs : List Byte) : (s.memWrite a bs).mctpOut = s.mctpOut := rfl
@[simp] theorem State.memWrite_carter (s : State) (a : Nat) (bs : List Byte) : (s.memWrite a bs).carter = s.carter := rfl
@[simp] theorem State.memWrite_carterLast (s : State) (a : Nat) (bs : List Byte) : (s.memWrite a bs).carterLast = s.carterLast := rfl
@[simp] theorem State.memWrite_logIntDue (s : State) (a : Nat) (bs : List Byte) : (s.memWrite a bs).logIntDue = s.logIntDue := rfl
@[simp] theorem State.memWrite_pwrok (s : State) (a : Nat) (bs : List Byte) : (s.memWrite a bs).pwrok = s.pwrok := rfl
@[simp] theorem State.memWrite_porHeld (s : State) (a : Nat) (bs : List Byte) : (s.memWrite a bs).porHeld = s.porHeld := rfl
@[simp] theorem State.memWrite_resetHeld (s : State) (a : Nat) (bs : List Byte) : (s.memWrite a bs).resetHeld = s.resetHeld := rfl
@[simp] theorem State.memWrite_straps (s : State) (a : Nat) (bs : List Byte) : (s.memWrite a bs).straps = s.straps := rfl
@[simp] theorem State.memWrite_railsBad (s : State) (a : Nat) (bs : List Byte) : (s.memWrite a bs).railsBad = s.railsBad := rfl
@[simp] theorem State.memWrite_tripped (s : State) (a : Nat) (bs : List Byte) : (s.memWrite a bs).tripped = s.tripped := rfl
@[simp] theorem State.memWrite_tStacks (s : State) (a : Nat) (bs : List Byte) : (s.memWrite a bs).tStacks = s.tStacks := rfl
@[simp] theorem State.memWrite_pkgHist (s : State) (a : Nat) (bs : List Byte) : (s.memWrite a bs).pkgHist = s.pkgHist := rfl
@[simp] theorem State.memWrite_admitted (s : State) (a : Nat) (bs : List Byte) : (s.memWrite a bs).admitted = s.admitted := rfl
@[simp] theorem State.memWrite_tapIr (s : State) (a : Nat) (bs : List Byte) : (s.memWrite a bs).tapIr = s.tapIr := rfl
@[simp] theorem State.memWrite_tapAddr (s : State) (a : Nat) (bs : List Byte) : (s.memWrite a bs).tapAddr = s.tapAddr := rfl
@[simp] theorem State.memWrite_tapDr (s : State) (a : Nat) (bs : List Byte) : (s.memWrite a bs).tapDr = s.tapDr := rfl
@[simp] theorem State.memWrite_tapRun (s : State) (a : Nat) (bs : List Byte) : (s.memWrite a bs).tapRun = s.tapRun := rfl
@[simp] theorem State.memWrite_dbgTx (s : State) (a : Nat) (bs : List Byte) : (s.memWrite a bs).dbgTx = s.dbgTx := rfl
@[simp] theorem State.memWrite_freezeDeferred (s : State) (a : Nat) (bs : List Byte) : (s.memWrite a bs).freezeDeferred = s.freezeDeferred := rfl
@[simp] theorem State.memWrite_aon (s : State) (a : Nat) (bs : List Byte) : (s.memWrite a bs).aon = s.aon := rfl
@[simp] theorem State.memWrite_stuck (s : State) (a : Nat) (bs : List Byte) : (s.memWrite a bs).stuck = s.stuck := rfl

/-! ### `State.takeNat`: a free number taken -/

@[simp] theorem State.takeNat_fresh (s : State) : s.takeNat.2.fresh = s.fresh + 1 := rfl
@[simp] theorem State.takeNat_regs (s : State) : s.takeNat.2.regs = s.regs := rfl
@[simp] theorem State.takeNat_mem (s : State) : s.takeNat.2.mem = s.mem := rfl

end Sys2Proof.Machine
end

