-- ==== Sys2Proof/WellFormed.lean ====
section
/-! DEFINITION. Which commands are well formed: every operand in the range of the field, port, slice or ring it names. `exec` is
total and meets an ill-formed command too; what it then does says nothing about the hardware. -/

namespace Sys2Proof.Machine

/-- A slice and one of its ring pairs (R63). -/
def ringOk (slice ring : Nat) : Bool := decide (slice < 64 ∧ ring < 16)

/-- A descriptor: slice, ring and `SQ_INDEX`, a 32-bit producer count (R70, R89). -/
def keyOk (slice ring idx : Nat) : Bool := ringOk slice ring && decide (idx < 2 ^ 32)

/-- A value of an 8-byte field. -/
def word64 (v : Nat) : Bool := decide (v < 2 ^ 64)

/-- The offset of a word of the setup space (R9, R36). -/
def regOffset (off : Nat) : Bool := decide (off < 0x10000000 ∧ off % 8 = 0)

/-- Every header field of a Quaril packet fits its width, and the payload its limit (R408). -/
def QPkt.wf (p : QPkt) : Bool :=
  decide (p.dest < 65536 ∧ p.src < 65536 ∧ p.epoch < 2 ^ 32 ∧ p.hops < 1024) && decide (p.tc < 8 ∧ p.dl < 2 ∧ p.stream < 65536 ∧ p.typ < 256) &&
  decide (p.ord < 4 ∧ p.scope < 4 ∧ p.addr < 2 ^ 50 ∧ p.slice < 64) && decide (p.tag < 2 ^ 32 ∧ p.aux < 2 ^ 32 ∧ p.rsvd < 32 ∧ p.payload.length ≤ 1024)

/-- Every header field of a Kellija packet fits its width, and the payload its limit (R455). -/
def KPkt.wf (p : KPkt) : Bool :=
  decide (p.typ < 256 ∧ p.ord < 4 ∧ p.scope < 4 ∧ p.sync < 4) && decide (p.stream < 256 ∧ p.tc < 8 ∧ p.tag < 2 ^ 32 ∧ p.addr < 2 ^ 64) &&
  decide (p.status < 256 ∧ p.detailKind < 16 ∧ p.aux < 2 ^ 32 ∧ p.detail < 2 ^ 64) && p.rsvd.all (fun o => decide (o < 32)) &&
  decide (p.payload.length ≤ 1024)

def Req.wf : Req → Bool
  | .client port p => decide (port < 4) && p.wf
  | .peer p => p.wf

def Pkt.wf : Pkt → Bool
  | .kl p => p.wf
  | .qf p => p.wf
  | .map src dest epoch _ hops dl tag => decide (src < 65536 ∧ dest < 65536 ∧ epoch < 2 ^ 32) && decide (hops < 1024 ∧ dl < 2 ∧ tag < 2 ^ 32)

/-- At most seven packets end in a link block's flits, and the block's numbers fit (R405). -/
def LinkBlock.wf (b : LinkBlock) : Bool := decide (b.fec ≤ 2 ∧ b.pkts.length ≤ 7) && b.pkts.all Pkt.wf

/-- An error of memory names a local address and a pseudo-channel or store slice (R305, R473). -/
def MemErr.wf (e : MemErr) : Bool := decide (e.addr < 2 ^ 50 ∧ e.unit < 384)

/-- An error of a pass names one of the 64 arrays (R106). -/
def ArrErr.wf (e : ArrErr) : Bool := decide (e.array < 64)

/-- Zones are numbered once (R299). -/
def NvmeNs.wf (n : NvmeNs) : Bool := decide ((n.zones.map (·.1)).Nodup) && n.zones.all (fun z => decide (z.2.2 < 3))

/-- A queue of a drive is the admin one or one of 16 (R298). -/
def DmaArea.wf : DmaArea → Bool
  | .sq p | .cq p => decide (p ≤ 16)
  | _ => true

/-- One temperature for each of the six stacks (R627). -/
def Sensors.wf (r : Sensors) : Bool := r.tStacks.length == 6

/-- One estimate for each of the 14 capped groups and stacks (R630). -/
def PowerEst.wf (e : PowerEst) : Bool := e.watts.length == 14

end Sys2Proof.Machine

namespace Sys2Proof

open Sys2Proof.Machine

/-- The command's operands are in range. -/
def Instr.wf : Instr → Bool
  | .nop slice ring idx => keyOk slice ring idx
  | .fence slice ring idx => keyOk slice ring idx
  | .move slice ring idx tags => keyOk slice ring idx && tags.all (fun k => decide (k < 2 ^ 32))
  | .kvAppend slice ring idx => keyOk slice ring idx
  | .kvAppendExecute slice ring idx => keyOk slice ring idx
  | .attend slice ring idx errs => keyOk slice ring idx && errs.all ArrErr.wf
  | .attendMax slice ring idx errs => keyOk slice ring idx && errs.all ArrErr.wf
  | .attendSum slice ring idx errs => keyOk slice ring idx && errs.all ArrErr.wf
  | .merge slice ring idx => keyOk slice ring idx
  | .search slice ring idx => keyOk slice ring idx
  | .gather slice ring idx => keyOk slice ring idx
  | .scatterUpdate slice ring idx => keyOk slice ring idx
  | .tablePublish slice ring idx => keyOk slice ring idx
  | .cut slice ring idx => keyOk slice ring idx
  | .rollback slice ring idx => keyOk slice ring idx
  | .release slice ring idx => keyOk slice ring idx
  | .regionPublish slice ring idx => keyOk slice ring idx
  | .placeCreate slice ring idx => keyOk slice ring idx
  | .placeDelete slice ring idx => keyOk slice ring idx
  | .moveTier slice ring idx tags => keyOk slice ring idx && tags.all (fun k => decide (k < 2 ^ 32))
  | .writeback slice ring idx tags => keyOk slice ring idx && tags.all (fun k => decide (k < 2 ^ 32))
  | .inval slice ring idx => keyOk slice ring idx
  | .homeOp p => p.wf
  | .descriptorConsume slice ring errs => ringOk slice ring && errs.all MemErr.wf
  | .descriptorStart slice ring idx => keyOk slice ring idx
  | .descriptorComplete slice ring idx => keyOk slice ring idx
  | .ringStatusBlockWrite slice ring => ringOk slice ring
  | .coalesceTimerExpiry slice ring => ringOk slice ring
  | .sqDoorbell slice ring _ => ringOk slice ring
  | .sqDoorbellResume slice ring _ => ringOk slice ring
  | .cqDoorbell slice ring _ => ringOk slice ring
  | .ringCreate addr => word64 addr
  | .destroyDrain addr => word64 addr
  | .destroyDrainDone slice ring => ringOk slice ring
  | .destroyAbort addr => word64 addr
  | .clientRead port p errs => decide (port < 4) && p.wf && errs.all MemErr.wf
  | .clientWrite port p errs => decide (port < 4) && p.wf && errs.all MemErr.wf
  | .atomicAdd r => r.wf
  | .atomicMin r => r.wf
  | .atomicMax r => r.wf
  | .atomicCas r => r.wf
  | .syncAcquire port p => decide (port < 4) && p.wf
  | .syncRelease port p => decide (port < 4) && p.wf
  | .syncFull port p => decide (port < 4) && p.wf
  | .rdS r => r.wf
  | .rdX r => r.wf
  | .upg r => r.wf
  | .invAck r => r.wf
  | .recallAck r => r.wf
  | .recallData r => r.wf
  | .wb r => r.wf
  | .put r => r.wf
  | .holdExpiry _ => true
  | .directorySetVisit bank _ => decide (bank < 48)
  | .retryTicketExpiry bank _ => decide (bank < 48)
  | .recallTimeout _ node port => decide (node < 65536 ∧ port < 4)
  | .queuedAccessApply bank => decide (bank < 48)
  | .qfRead p errs => p.wf && errs.all MemErr.wf
  | .qfWrite p => p.wf
  | .bulkRead p errs => p.wf && errs.all MemErr.wf
  | .bulkWrite p => p.wf
  | .readRsp p => p.wf
  | .writeAck p => p.wf
  | .atomicRsp p => p.wf
  | .homeRsp p => p.wf
  | .errResponse p => p.wf
  | .packetForward port p => decide (port < 12) && p.wf
  | .requestTimerExpiry _ => true
  | .linkBlockReceived port b => decide (port < 12) && b.wf
  | .laneLockLoss port => decide (port < 12)
  | .linkIdleTimeout port => decide (port < 12)
  | .qfPortTrain port _ => decide (port < 8)
  | .portTrainRetry port => decide (port < 12)
  | .heartbeatSend => true
  | .heartbeat port => decide (port < 12)
  | .heartbeatMiss port => decide (port < 8)
  | .electionTimeout => true
  | .voteReq _ _ _ => true
  | .vote _ _ _ _ => true
  | .beatSend => true
  | .beat _ _ _ => true
  | .selfFenceTimeout => true
  | .replicate _ _ => true
  | .replAck _ _ => true
  | .prepare _ _ => true
  | .prepareAck _ _ _ => true
  | .prepareAckTimeout => true
  | .commit _ _ => true
  | .epochGraceExpiry => true
  | .report _ _ => true
  | .probe _ _ => true
  | .probeTimeout _ => true
  | .fetch port _ _ => decide (port < 8)
  | .mapData _ => true
  | .topo _ _ => true
  | .neighbourExchange port _ => decide (port < 8)
  | .abort p => p.wf
  | .sliceQuiet slice => decide (slice < 64)
  | .alarm p => p.wf
  | .diag p => p.wf
  | .alarmSend entry => decide (entry < 4096)
  | .logInterruptTimer => true
  | .linkUpRecord port _ => decide (port < 4)
  | .klPortTrain port _ => decide (port < 4)
  | .cReadRsp port p => decide (port < 4) && p.wf
  | .cWriteAck port p => decide (port < 4) && p.wf
  | .klRequestTimeout port _ => decide (port < 4)
  | .klHeartbeatMiss port => decide (port < 4)
  | .klPortKill port => decide (port < 4)
  | .klRetrainTimer port => decide (port < 4)
  | .nvmeReadComplete _ _ _ _ => true
  | .zoneAppendComplete _ _ _ => true
  | .backgroundWriteback tags => decide (tags ≤ 2)
  | .zoneReclaim port => decide (port < 8)
  | .nvmeCommandTimeout _ => true
  | .nvmeAbortTimeout _ => true
  | .controllerResetTimeout port => decide (port < 8)
  | .driveLinkDown port => decide (port < 8)
  | .controllerFatalStatus port => decide (port < 8)
  | .driveRemoved port => decide (port < 8)
  | .aerMessage port => decide (port < 8)
  | .driveDmaRequest port area _ _ => decide (port < 8) && area.wf
  | .mediaBringup port _ spaces => decide (port < 8) && spaces.all NvmeNs.wf
  | .patrolScrub _ pc _ => decide (pc < 384)
  | .tierRetire _ => true
  | .borageStart _ => true
  | .borageDone _ _ => true
  | .xlRootWrite slice _ => decide (slice < 64)
  | .counterDecay => true
  | .xlMigRingWrite _ => true
  | .xlMigIdxWrite _ => true
  | .arrDisableWrite _ => true
  | .arrAuditCtlWrite _ => true
  | .storeAuditPass _ _ => true
  | .storeMirrorWrite port _ => decide (port < 12)
  | .slcCfgWrite slice _ => decide (slice < 64)
  | .slcMoversWrite slice _ => decide (slice < 64)
  | .slcShareWrite slice _ => decide (slice < 64)
  | .slcQosWrite slice _ => decide (slice < 64)
  | .slcGlobalWrite _ => true
  | .sliceResetDrain _ => true
  | .sliceResetAbort _ => true
  | .drainTimeout slice => decide (slice < 64)
  | .sliceResetFinish slice => decide (slice < 64)
  | .slcComposeWrite _ => true
  | .compose _ _ _ => true
  | .extend _ _ _ => true
  | .shrink _ _ _ => true
  | .teardown _ _ => true
  | .composeTimeout => true
  | .revokeDrain _ => true
  | .revokeAbort _ => true
  | .vectorEntryWrite off _ => regOffset off
  | .jobAbort _ => true
  | .fltLogRingWrite _ => true
  | .fltLogIdxWrite _ => true
  | .alarmEntryClear _ entry => decide (entry < 4096)
  | .registerWrite off _ => regOffset off
  | .resetNAssert => true
  | .resetNDeassert => true
  | .pwrokRise => true
  | .powerOnResetRelease straps => decide (straps < 4)
  | .pwrokFall => true
  | .railOutOfTolerance rail => decide (rail < 10)
  | .railToleranceTimer rail => decide (rail < 10)
  | .bootStage1 => true
  | .bootStage2 => true
  | .bootStage3 _ => true
  | .bootStage4 => true
  | .bootStage5 _ => true
  | .bootStage6 => true
  | .bootStage7 _ => true
  | .bootStage8 present => decide (present < 256)
  | .bootStageTimeout stage => decide (1 ≤ stage ∧ stage ≤ 8)
  | .flashOpTimeout => true
  | .setEndpointId eid => decide (eid < 256)
  | .getEndpointId => true
  | .getMctpVersionSupport => true
  | .getMessageTypeSupport => true
  | .getEndpointUuid => true
  | .unsupportedControlCommand code => decide (code < 256)
  | .getBootStatus => true
  | .getIdentity => true
  | .getReport nonce => nonce.length == 32
  | .regRead addr => word64 addr
  | .regWrite addr _ => word64 addr
  | .flashWrite _ _ _ _ _ => true
  | .endorseWrite _ _ _ _ _ => true
  | .reset => true
  | .mctpDeferredAnswer => true
  | .carStart chan _ => decide (chan < 8)
  | .carterChannelRun chan => decide (chan < 8)
  | .carterChannelDone chan => decide (chan < 8)
  | .obsSelWrite ctr _ => decide (ctr < 64)
  | .obsDumpCtlWrite _ => true
  | .obsDumpRingWrite _ => true
  | .dumpBoundary => true
  | .scrCtlWrite _ => true
  | .scrRingWrite _ => true
  | .freezeNAssert => true
  | .frzCtlFreeze _ => true
  | .tapReset => true
  | .idcode => true
  | .tapFreeze _ => true
  | .fstatus => true
  | .raddr addr => word64 addr
  | .rdata => true
  | .stream start len run => word64 start && decide (len < 2 ^ 40 ∧ run < 65536)
  | .bypass => true
  | .streamFrameSend => true
  | .dillStart _ => true
  | .dillDone _ => true
  | .sensorReading r => r.wf
  | .powerWindow e => e.wf
  | .stepUp => true
  | .stepDown => true
  | .linkBlockSend port => decide (port < 12)
  | .pinTimeout slice ring idx => keyOk slice ring idx
  | .nvmeCommandComplete _ _ _ => true
  | .mediaLinkUp port _ _ => decide (port < 8)
  | .flashOperationComplete => true
  | .coherenceMessageToClient port p => decide (port < 4) && p.wf

end Sys2Proof
end

