-- ==== Sys2Proof/Tests/Slice0.lean ====
section
/-! SUPPORT. Tests of the model. First what the checks of a command's operands refuse; then, statement by statement, a state and
operands that meet the hypotheses of each clause together with what one step leaves there. Expected values are those of the rule
cited, by hand. -/

namespace Sys2Proof.Tests

set_option Elab.async false

open Sys2Proof Sys2Proof.Machine

/-! ### States to test on -/

/-- A ZV9 out of reset, nothing set up. -/
def on : State := { State.reset with resetHeld := false, porHeld := false, pwrok := true }

/-- Fields of registers set to values. -/
def poke (s : State) (xs : List (Fld × Nat × Nat)) : State := xs.foldl (fun t x => t.setFldAt x.1 x.2.1 x.2.2) s

/-- The state that a command leaves. -/
def after (c : Instr) (s : State) : State := match exec c s with
  | .next t => t
  | _ => s

/-- A word with one field set. -/
def w1 (f : Fld) (v : Nat) : Word := f.set 0#64 v

def qp : QPkt := {
  dest := 0, src := 1, epoch := 0, hops := 1, tc := 0, dl := 0, stream := 0x80F8, typ := 0, ord := 0, scope := 0, poison := false, addr := 0,
  slice := 1, tag := 7, aux := 0, rsvd := 0, rref := none, payload := [] }

def kp : KPkt := {
  typ := 0x01, ord := 0, scope := 0, sync := 0, poison := false, stream := 0, tc := 2, tag := 9, addr := 0, status := 0, detailKind := 0, aux := 0,
  detail := 0, rsvd := none, payload := [] }

/-- A ring of slice 1 in the memory of the client of port 0. -/
def ring1 : Ring := {
  slice := 1, num := 2, log2sq := 4, log2cq := 4, fmt := 3, vector := 0xFFFF, sqAddr := 0x10000, cqAddr := 0x20000, stAddr := 0x30000, loc := 1, port := 0,
  coalCount := 0, coalNs := 0, weight := 1, cqNode := 0, sqCons := 5, sqProd := 8, cqProd := 5, cqCons := 5, state := .running, dbRejects := 0,
  uncovered := 0, windowErr := false, stopFence := none, destroying := 0, stDirty := false, stCons := 5, pre := [] }

def desc1 (raw : List Byte) : Desc := {
  key := ⟨1, 2, 5⟩, units := 1, raw := raw, epoch := 0, phase := .running, status := 0, kind := 0, detail := 0, progress := 0, started := true,
  engine := 0xF0, det := 0, pins := [], fetched := [], pages := [], stop := none, work := 0, moving := [], buf := 0, ctx := [], fills := [],
  origin := none, since := 0 }

/-- 64 bytes of a descriptor whose opcode is given, with further bytes at offsets. -/
def raw64 (op : Nat) (xs : List (Nat × List Byte)) : List Byte :=
  xs.foldl (fun bs x => bs.take x.1 ++ x.2 ++ bs.drop (x.1 + x.2.length)) (byte op :: List.replicate 63 0#8)

def node (n dev : Nat) (st : NodeSt) : NodeEnt := { node := n, dev := dev, state := st, since := 0, caching := 0, keeper := false }

/-- Two nodes, 0 and 1, joined by their ports 0. -/
def map2 : FMap := {
  epoch := 1, term := 1, leader := 0, keepers := [0], domain := 5, baseUs := 10, hopUs := 1, nodes := [node 0 100 .live, node 1 101 .live],
  links := [⟨0, 0, 1, 0⟩], jobs := [] }

/-- Node 0 of that map, port 0 up. -/
def fab : State :=
  { poke on [(f_QF_PORT_STATE, 0, 2), (f_QF_STATE_FORMED, 0, 1), (f_QF_STATE_EPOCH, 0, 1), (f_AS_NODE_VALID, 0, 1)] with mapCur := some map2 }

/-- A client on Kellija port 0, bound to slice 1. -/
def cli : State :=
  { poke on [(f_KL_PORT_STATE, 0, 2), (f_KL_PORT_BOUND_SLICE, 0, 1), (f_KL_PORT_STREAMS, 0, 4)] with
    klClients := [⟨0, 77, 0, 0, 0, 0x100000000, ⟨0, 0, 0, 0, 0, 0⟩⟩] }

def lnk (port : Nat) : Link := freshLink port 101

/-- Boot stages complete, one bit each. -/
def stages (m : Nat) : State := poke on [(f_BOOT_STATUS_STAGES_DONE, 0, m)]

/-- A boot that is complete, with its scratchpad window and 4 GiB of the direct part. -/
def ready : State := poke on [(f_BOOT_STATUS_STAGES_DONE, 0, 0xFF), (f_BOOT_STATUS_STORE_READY, 0, 1), (f_BOOT_STATUS_LOCK, 0, 1),
  (f_AS_SCRATCH_LIMIT_LEN, 0, 0x100000), (f_AS_DIRECT_LIMIT_LEN, 0, 0x100000000)]

/-- A result that is one, and is as said. -/
def okWith {α : Type} (r : Res α) (p : α → Bool) : Bool := match r with
  | .ok x => p x
  | .error _ => false

/-- Slice 1 of a ready ZV9 with a ring and consumed descriptors; port 0 is up and bound to the slice. -/
def rig (r : Ring) (ds : List Desc) : State :=
  { poke ready [(f_KL_PORT_STATE, 0, 2), (f_KL_PORT_BOUND_SLICE, 0, 1), (f_KL_PORT_STREAMS, 0, 4), (f_SLC_CFG_ENABLE, 1, 1), (f_SLC_CFG_GROUPS, 1, 1),
      (f_SLC_MOVERS_MOVERS, 1, 2 ^ 31), (f_STORE_CARVE_DESC_CELLS, 0, 0x1000)] with
    klClients := [⟨0, 77, 0, 0, 0, 0x100000000, ⟨0, 0, 0, 0, 0, 0⟩⟩], rings := [r], descs := ds }

def dAt (idx : Nat) (raw : List Byte) (ph : DPhase) : Desc := { desc1 raw with key := ⟨1, 2, idx⟩, phase := ph }

/-- What a consumed descriptor holds that waits to start. -/
def dWait (idx : Nat) (raw : List Byte) : Desc := { dAt idx raw .waiting with started := false, engine := 0xFF }

def failsWith {α : Type} (r : Res α) (f : Fail) : Bool := match r with
  | .error (.err g) => g == f
  | _ => false
/-! ### Operands out of range are refused -/

theorem test_wf_descriptor : (Instr.nop 63 15 0xFFFFFFFF).wf = true ∧ (Instr.nop 64 0 0).wf = false ∧ (Instr.fence 0 16 0).wf = false ∧
    (Instr.move 0 0 (2 ^ 32) []).wf = false := by decide +kernel
theorem test_wf_ring : (Instr.descriptorConsume 63 15 []).wf = true ∧ (Instr.descriptorConsume 64 0 []).wf = false ∧ (Instr.sqDoorbell 0 16 0).wf = false := by
  decide +kernel
theorem test_wf_word : (Instr.ringCreate (2 ^ 64 - 1)).wf = true ∧ (Instr.ringCreate (2 ^ 64)).wf = false := by decide +kernel
theorem test_wf_offset : (Instr.registerWrite 0xFFFFFF8 0).wf = true ∧ (Instr.registerWrite 0x10000000 0).wf = false ∧
    (Instr.registerWrite 4 0).wf = false := by decide +kernel
theorem test_wf_quaril : (Instr.qfRead qp []).wf = true ∧ (Instr.qfRead { qp with dest := 65536 } []).wf = false ∧ (Instr.qfRead { qp with tc := 8 } []).wf = false ∧
    (Instr.qfRead { qp with addr := 2 ^ 50 } []).wf = false ∧ (Instr.qfRead { qp with payload := List.replicate 1025 0#8 } []).wf = false := by decide +kernel
theorem test_wf_kellija : (Instr.clientRead 3 kp []).wf = true ∧ (Instr.clientRead 4 kp []).wf = false ∧ (Instr.clientRead 0 { kp with typ := 256 } []).wf = false ∧
    (Instr.clientRead 0 { kp with stream := 256 } []).wf = false ∧ (Instr.clientRead 0 { kp with status := 256 } []).wf = false ∧
    (Instr.clientRead 0 { kp with rsvd := some 32 } []).wf = false ∧ (Instr.clientRead 0 { kp with payload := List.replicate 1025 0#8 } []).wf = false := by
  decide +kernel
theorem test_wf_request : (Instr.rdS (.client 3 kp)).wf = true ∧ (Instr.rdS (.client 4 kp)).wf = false ∧ (Instr.rdS (.peer { qp with src := 65536 })).wf = false := by
  decide +kernel
theorem test_wf_ports : (Instr.laneLockLoss 12).wf = false ∧ (Instr.qfPortTrain 8 ⟨0, 0, 0, 0, 0, 0, 0⟩).wf = false ∧ (Instr.klPortKill 4).wf = false ∧
    (Instr.fetch 8 0 0).wf = false ∧ (Instr.driveRemoved 8).wf = false ∧ (Instr.storeMirrorWrite 12 0).wf = false := by decide +kernel
theorem test_wf_numbers : (Instr.directorySetVisit 48 0).wf = false ∧ (Instr.recallTimeout 0 0 4).wf = false ∧ (Instr.patrolScrub 0 384 .none).wf = false ∧
    (Instr.alarmSend 4096).wf = false ∧ (Instr.slcCfgWrite 64 0).wf = false ∧ (Instr.obsSelWrite 64 0).wf = false ∧ (Instr.carStart 8 0).wf = false := by
  decide +kernel
theorem test_wf_power : (Instr.railOutOfTolerance 10).wf = false ∧ (Instr.powerOnResetRelease 4).wf = false ∧ (Instr.bootStageTimeout 9).wf = false ∧
    (Instr.sensorReading ⟨0, [], 0⟩).wf = false ∧ (Instr.powerWindow ⟨[], 0⟩).wf = false := by decide +kernel
theorem test_wf_management : (Instr.setEndpointId 256).wf = false ∧ (Instr.unsupportedControlCommand 256).wf = false ∧ (Instr.getReport []).wf = false ∧
    (Instr.regRead (2 ^ 64)).wf = false ∧ (Instr.stream 0 (2 ^ 40) 0).wf = false := by decide +kernel
theorem test_wf_blocks : (Instr.linkBlockReceived 0 ⟨0, 0, 3, true, [], [], none⟩).wf = false ∧
    (Instr.packetForward 4 (.map 65536 0 0 .probe)).wf = false ∧ (Instr.packetForward 4 (.kl { kp with tc := 8 })).wf = false := by decide +kernel

/-! ### The step, the queue, freeze and reset -/

theorem test_step_front : step { on with pending := [.freezeNAssert, .tapReset] } = exec .freezeNAssert { on with pending := [.tapReset] } := by rfl

/-- The idle tick: hypotheses of EmptyQueueTicks. -/
theorem test_tick : let s := poke on [(f_BOOT_STATUS_STAGES_DONE, 0, 3)]
    s.pending = [] ∧ s.alive = true ∧ s.stageDone 2 = true ∧ s.held = [] ∧ s.revoking = none ∧ s.composeAt = none ∧
    (match step s with | .next t => t.now == 1 && t.aon == 1 | _ => false) = true := by decide +kernel

/-- R589, R590: what counters 0 to 3 add in a cycle: STORE cycles, cycles with no cap (inverted), retry slots in use, an edge. -/
theorem test_tick_counts : let s : State := { poke on [(f_BOOT_STATUS_STAGES_DONE, 0, 3), (f_OBS_SEL_ENABLE, 0, 1), (f_OBS_SEL_EVENT, 0, 1),
      (f_OBS_SEL_SLICE, 0, 0xFF), (f_OBS_SEL_MODE, 0, 1), (f_OBS_SEL_ENABLE, 1, 1), (f_OBS_SEL_EVENT, 1, 2), (f_OBS_SEL_SLICE, 1, 0xFF),
      (f_OBS_SEL_MODE, 1, 1), (f_OBS_SEL_INVERT, 1, 1), (f_OBS_SEL_ENABLE, 2, 1), (f_OBS_SEL_KIND, 2, 6), (f_OBS_SEL_EVENT, 2, 4),
      (f_OBS_SEL_INSTANCE, 2, 0xFFF), (f_OBS_SEL_SLICE, 2, 0xFF), (f_OBS_SEL_MODE, 2, 2), (f_OBS_SEL_ENABLE, 3, 1), (f_OBS_SEL_EVENT, 3, 1),
      (f_OBS_SEL_SLICE, 3, 0xFF)] with slots := [⟨3, 0, 9, 1, 1, 0⟩, ⟨4, 2, 10, 1, 1, 0⟩] }
    (match step s with | .next t => (List.range 4).map (t.fldAt f_OBS_CTR_COUNT) | _ => []) = [1, 1, 2, 0] := by decide +kernel

theorem test_kept_reset : State.reset.Kept := by
  unfold State.Kept keptParts; decide +kernel

theorem test_stopped : alwaysOn (.klPortKill 0) = false ∧ State.reset.alive = false ∧ exec (.klPortKill 0) State.reset = .next State.reset := ⟨rfl, rfl, rfl⟩

theorem test_frozen : let s := poke on [(f_FRZ_STATUS_FROZEN, 0, 1)]
    s.frozen = true ∧ s.pending.all (fun c => !endsFreeze c) = true := by decide +kernel
/-! ### Registers (RegisterWrites, RecordRingsAndObservation, SliceRegisters, ArraysMirrorsTranslation, Interrupts) -/

theorem test_write_plain : let off := 0x70018; let w : Word := 0x5A14
    on.alive = true ∧ inDoorbells off = false ∧ (findReg off).any (fun x => plainReg x.1.name && x.2 == 0) = true ∧
    (on.locked && on.lockedWrite off w) = false ∧ (after (.registerWrite off w) on).fld f_TIER_CACHE_DIRTY_HIGH = 0x5A ∧
    (after (.registerWrite off w) on).fld f_TIER_CACHE_DIRTY_LOW = 0x14 := by decide +kernel

theorem test_write_locked : let s := poke on [(f_BOOT_STATUS_LOCK, 0, 1)]; let off := 0xA0010; let w : Word := 0x7
    s.locked = true ∧ s.flag f_FLT_CTL_INT_EN = false ∧ (after (.registerWrite 0x70010 w) s).word 0x70010 = s.word 0x70010 ∧
    (findReg 0x70010).any (fun x => plainReg x.1.name) = true ∧ s.lockedWrite 0x70010 w = true ∧ inDoorbells off = false ∧
    (after (.registerWrite 0x70010 w) s).fld f_FLT_SEQ_SEQ = 1 := by decide +kernel

theorem test_record_rings : let w : Word := w1 f_FLT_LOG_RING_LOG2 6
    (after (.fltLogRingWrite w) on).fld f_FLT_LOG_RING_LOG2 = 6 ∧ (after (.fltLogRingWrite (w1 f_FLT_LOG_RING_LOG2 5)) on).fld f_FLT_LOG_RING_LOG2 = 0 ∧
    on.fld f_XL_MIG_CTL_ENABLE ≠ 1 ∧ (after (.xlMigRingWrite (w1 f_XL_MIG_RING_LOG2 16)) on).fld f_XL_MIG_RING_LOG2 = 16 ∧
    on.fld f_OBS_DUMP_CTL_ENABLE ≠ 1 ∧ (after (.obsDumpRingWrite (w1 f_OBS_DUMP_RING_LOG2 4)) on).fld f_OBS_DUMP_RING_LOG2 = 4 ∧
    on.fld f_SCR_CTL_ENABLE ≠ 1 ∧ (after (.scrRingWrite (w1 f_SCR_RING_LOG2 6)) on).fld f_SCR_RING_LOG2 = 6 := by decide +kernel

theorem test_record_rings_busy : (poke on [(f_XL_MIG_CTL_ENABLE, 0, 1)]).fld f_XL_MIG_CTL_ENABLE = 1 ∧
    (poke on [(f_OBS_DUMP_CTL_ENABLE, 0, 1)]).fld f_OBS_DUMP_CTL_ENABLE = 1 ∧ (poke on [(f_SCR_CTL_ENABLE, 0, 1)]).fld f_SCR_CTL_ENABLE = 1 ∧
    (after (.scrRingWrite (w1 f_SCR_RING_LOG2 9)) (poke on [(f_SCR_CTL_ENABLE, 0, 1)])).fld f_SCR_RING_LOG2 = on.fld f_SCR_RING_LOG2 := by decide +kernel

/-- The consumer count wraps at 2^32. -/
theorem test_consumer : let s := poke on [(f_XL_MIG_IDX_CONS, 0, 0xFFFFFFFE), (f_XL_MIG_IDX_PROD, 0, 1)]
    (after (.xlMigIdxWrite (w1 f_XL_MIG_IDX_CONS 1)) s).fld f_XL_MIG_IDX_CONS = 1 ∧
    (after (.xlMigIdxWrite (w1 f_XL_MIG_IDX_CONS 2)) s).fld f_XL_MIG_IDX_CONS = 0xFFFFFFFE ∧
    (after (.fltLogIdxWrite (w1 f_FLT_LOG_IDX_CONS 1)) on).fld f_FLT_LOG_IDX_CONS = 0 := by decide +kernel

theorem test_observation : let good := f_OBS_SEL_KIND.set (w1 f_OBS_SEL_EVENT 1) 9
    selOk good = true ∧ selOk 0 = false ∧ (after (.obsSelWrite 63 good) (poke on [(f_OBS_CTR_COUNT, 63, 5)])).fldAt f_OBS_CTR_COUNT 63 = 0 ∧
    (after (.obsSelWrite 0 0) on).fld f_OBS_STAT_SEL_REJECTS = 1 ∧ on.fld f_OBS_DUMP_CTL_ENABLE = 0 ∧
    f_OBS_DUMP_CTL_ENABLE.get (w1 f_OBS_DUMP_CTL_ENABLE 1) = 1 ∧ (after (.scrCtlWrite (w1 f_SCR_CTL_ENABLE 1)) on).fld f_SCR_CTL_ENABLE = 1 := by
  decide +kernel

/-- Slice 63 configured with no grant beside what is free; the reject when its ring stands. -/
theorem test_slice_write : let w := w1 f_SLC_QOS_LINK_WT 3
    on.jobNum 63 = 0 ∧ (∀ r ∈ on.rings, r.slice ≠ 63) ∧ on.fldAt f_SLC_STATUS_BUSY 63 = 0 ∧
    (on.plainWrite (0xD0600 + 8 * 63) w (fun _ _ => true)).capacityOk = true ∧ (after (.slcQosWrite 63 w) on).fldAt f_SLC_QOS_LINK_WT 63 = 3 ∧
    (after (.slcShareWrite 1 0) { on with rings := [ring1] }).fldAt f_SLC_STATUS_CFG_REJECT 1 = 1 := by decide +kernel

theorem test_slice_disable : let s := poke on [(f_SLC_CFG_ENABLE, 5, 1), (f_SLC_SHARE_DESC_MIN, 5, 4)]
    s.configured 5 = true ∧ f_SLC_CFG_ENABLE.get 0 = 0 ∧ s.jobNum 5 = 0 ∧ (∀ r ∈ s.rings, r.slice ≠ 5) ∧ s.fldAt f_SLC_STATUS_BUSY 5 = 0 ∧
    ((s.plainWrite (0xD0000 + 8 * 5) 0 (fun _ _ => true)).releaseGrants 5).capacityOk = true := by decide +kernel

theorem test_global : let w := w1 f_SLC_GLOBAL_TRANSIT_WT 2
    f_SLC_GLOBAL_TRANSIT_WT.get w ≠ 0 ∧ (on.plainWrite 0xD0A30 w (fun _ _ => true)).minsOk = true ∧
    (after (.slcGlobalWrite w) on).fld f_SLC_GLOBAL_TRANSIT_WT = 2 ∧ (after (.slcGlobalWrite 0) on).word 0xD0A30 = on.word 0xD0A30 := by decide +kernel

theorem test_arrays : let s := poke on [(f_SLC_CFG_GROUPS, 1, 1)]
    bits (255 : Nat) 0 8 = 255 ∧ bit (s.fldAt f_SLC_CFG_GROUPS 1) 0 = true ∧
    (after (.arrDisableWrite 0xFF) s).fld f_ARR_AUDIT_STATUS_DISABLE_REJECT = 1 ∧ (after (.arrDisableWrite 0x7F) s).word 0x30018 = 0x7F ∧
    (after (.arrAuditCtlWrite (w1 f_ARR_AUDIT_CTL_ENABLE 1)) { on with passes := [(0, 3)] }).passes = [] ∧
    (after (.storeMirrorWrite 11 1) { on with mirrorCnt := [(22, (5, 1)), (1, (2, 2))] }).mirrorCnt = [(22, (0, 1)), (1, (2, 2))] := by decide +kernel

theorem test_root : let s := poke on [(f_XL_PT_LEN_LEN, 0, 1)]; let w := w1 f_XL_ROOT_VALID 1
    s.fldAt f_XL_ROOT_BUSY 63 = 0 ∧ s.fldAt f_XL_ROOT_VALID 63 = 0 ∧ f_XL_ROOT_VALID.get w = 1 ∧
    s.withinPt (f_XL_ROOT_ROOT.get w * 2 ^ 14) (xlTable 4) = true ∧ (after (.xlRootWrite 63 w) s).fldAt f_XL_ROOT_VALID 63 = 1 ∧
    (poke on [(f_XL_ROOT_BUSY, 63, 1)]).fldAt f_XL_ROOT_BUSY 63 = 1 ∧
    (after (.xlRootWrite 63 w) (poke on [(f_XL_ROOT_BUSY, 63, 1)])).fld f_XL_ERR_ROOT_REJECTS = 1 ∧
    (after .counterDecay { poke on [(f_XL_MIG_CTL_ENABLE, 0, 1)] with xlCounts := [⟨1, 2, 7, 5⟩] }).xlCounts = [⟨1, 2, 3, 2⟩] := by decide +kernel

/-- A ring with records not yet told, on vector 255 of slice 1: off, masked, and open to the client of port 0. -/
def coal : State := { cli with rings := [{ ring1 with vector := 255, uncovered := 1 }] }

theorem test_interrupts : let i := 256 * 1 + 255
    let open_ := poke coal [(f_SLV_HI_ENABLE, i, 1)]
    coal.alive = true ∧ coal.ring 1 2 = some { ring1 with vector := 255, uncovered := 1 } ∧ coal.fldAt f_SLV_HI_ENABLE i = 0 ∧
    (after (.coalesceTimerExpiry 1 2) coal).fldAt f_SLC_STATUS_INT_OFF_DROPS 1 = 1 ∧
    (after (.coalesceTimerExpiry 1 2) (poke open_ [(f_SLV_HI_MASK, i, 1)])).fldAt f_SLV_HI_PENDING i = 1 ∧
    open_.fldAt f_SLV_HI_PORT i = 0 ∧ open_.bound 0 = some 1 ∧ open_.klUp 0 = true ∧ open_.inWindow 0 0 4 = true ∧
    (after (.coalesceTimerExpiry 1 2) open_).queue.length = 1 := by decide +kernel

theorem test_vectors : let i := 256 * 1 + 0; let s := poke cli [(f_SLV_HI_MASK, i, 1), (f_SLV_HI_PENDING, i, 1)]
    let w := w1 f_SLV_HI_ENABLE 1; let off := 0x100000 + 16 * i + 8
    s.fldAt f_SLV_HI_MASK i = 1 ∧ s.fldAt f_SLV_HI_PENDING i = 1 ∧ f_SLV_HI_MASK.get w = 0 ∧ f_SLV_HI_ENABLE.get w = 1 ∧ f_SLV_HI_PORT.get w = 0 ∧
    (after (.vectorEntryWrite off w) s).fldAt f_SLV_HI_PENDING i = 0 ∧ (after (.vectorEntryWrite off w) s).queue.length = 1 ∧
    cli.fldAt f_SLV_HI_PENDING i = 0 ∧ (after (.vectorEntryWrite off w) cli).fldAt f_SLV_HI_ENABLE i = 1 := by decide +kernel

/-- A record of ring 2 that the client has not acknowledged; its ring's port is 0, the vector's 3. -/
theorem test_interrupt_owed : let i := 256 * 1 + 255
    let s := poke { coal with klOuts := [⟨0, 1, .ringStruct 1 2, 32, [], []⟩] } [(f_SLV_HI_PORT, i, 3), (f_SLV_HI_ENABLE, i, 1)]
    coal.ringOwes 1 2 = false ∧ s.ringOwes 1 2 = true ∧ s.fldAt f_SLV_HI_PORT i ≠ 0 ∧ ((after (.coalesceTimerExpiry 1 2) s).rings.map (·.intDue)) = [true] ∧
    (after (.coalesceTimerExpiry 1 2) s).queue = [] := by decide +kernel

/-- A page-table area of 2 MiB at 0: root 0 lies inside it, root 128 begins at its end. -/
theorem test_root_rejected : let s := poke on [(f_XL_PT_LEN_LEN, 0, 1)]; let v := poke s [(f_XL_ROOT_VALID, 5, 1)]; let w := w1 f_XL_ROOT_VALID 1
    s.withinPt (f_XL_ROOT_ROOT.get (f_XL_ROOT_ROOT.set w 128) * 2 ^ 14) (xlTable 4) = false ∧
    (after (.xlRootWrite 5 (f_XL_ROOT_ROOT.set w 128)) s).fld f_XL_ERR_ROOT_REJECTS = 1 ∧ v.fldAt f_XL_ROOT_VALID 5 = 1 ∧
    (after (.xlRootWrite 5 (f_XL_ROOT_ROOT.set w 1)) v).fld f_XL_ERR_ROOT_REJECTS = 1 ∧ v.fldAt f_XL_ROOT_BUSY 5 = 0 ∧ v.invals = [] ∧ v.outReqs = [] ∧ v.txns = [] ∧
    v.fillQ = [] ∧ v.bankQ = [] ∧ v.descs = [] ∧ (after (.xlRootWrite 5 (w1 f_XL_ROOT_ROOT 3)) v).fldAt f_XL_ROOT_VALID 5 = 0 ∧
    (after (.xlRootWrite 5 (w1 f_XL_ROOT_ROOT 3)) v).fldAt f_XL_ROOT_ROOT 5 = 3 := by decide +kernel

/-- 64 entries of 32 bytes at 2,048; at 6 KiB for 128 entries the address is not aligned. -/
theorem test_mig_base : let w := f_XL_MIG_RING_BASE.set (w1 f_XL_MIG_RING_LOG2 6) 1; let n := f_XL_MIG_RING_BASE.set (w1 f_XL_MIG_RING_LOG2 7) 3
    on.migRingOk (f_XL_MIG_RING_BASE.get w * 2048) (on.migLog (f_XL_MIG_RING_LOG2.get w)) = true ∧ (after (.xlMigRingWrite w) on).fld f_XL_MIG_RING_BASE = 1 ∧
    on.migRingOk (f_XL_MIG_RING_BASE.get n * 2048) (on.migLog (f_XL_MIG_RING_LOG2.get n)) = false ∧ (after (.xlMigRingWrite n) on).fld f_XL_MIG_RING_BASE = 0 ∧
    (after (.xlMigRingWrite n) on).fld f_XL_MIG_RING_LOG2 = 7 := by decide +kernel

/-! ### Reset, freeze, test access, power (ResetAndPower, FreezeTriggers, TestAccessPort, PowerManagement) -/

theorem test_reset_pins : let s := { poke on [(f_BOOT_STATUS_LOCK, 0, 1)] with rings := [ring1], mem := [(5, 1#8)], railsBad := [9] }
    s.resetHeld = false ∧ s.porHeld = false ∧ s.pwrok = true ∧ 9 ∈ s.railsBad ∧ (after .resetNAssert s).resetHeld = true ∧
    (after .resetNAssert s).rings = [] ∧ (after .resetNAssert s).locked = false ∧ (after .pwrokFall s).mem = [] ∧
    (after .pwrokFall s).pwrok = false ∧ (after (.railToleranceTimer 9) s).porHeld = true := by decide +kernel

theorem test_power_on : let s := { State.reset with pwrok := true }
    s.porHeld = true ∧ State.reset.porHeld = true ∧ State.reset.pwrok = false ∧ (after .pwrokRise State.reset).pwrok = true ∧
    (after (.powerOnResetRelease 3) s).fld f_BOOT_MCTP_SMB_ADDR = 0x33 ∧ (after (.powerOnResetRelease 3) s).porHeld = false ∧
    ({ on with resetHeld := true } : State).resetHeld = true ∧ (after .resetNDeassert { on with resetHeld := true }).resetHeld = false := by decide +kernel

theorem test_freeze : let p := poke on [(f_FRZ_CTL_PIN_EN, 0, 1), (f_BOOT_STATUS_STAGES_DONE, 0, 3)]; let w := w1 f_FRZ_CTL_FREEZE 1
    p.alive = true ∧ p.fld f_FRZ_CTL_PIN_EN = 1 ∧ p.stageDone 2 = true ∧ (after .freezeNAssert p).frozen = true ∧
    (after .freezeNAssert p).fld f_FRZ_STATUS_PIN = 1 ∧ f_FRZ_CTL_FREEZE.get w = 1 ∧ (after (.frzCtlFreeze w) on).fld f_FRZ_STATUS_REG = 1 ∧
    bit 1 0 = true ∧ bit ((after (.tapFreeze 1) on).fld f_FRZ_DOMAINS_STOPPED) 23 = true ∧
    bit ((after (.tapFreeze 1) on).fld f_FRZ_DOMAINS_STOPPED) 24 = false := by decide +kernel

/-- R604: a second trigger is recorded in the AON cycle of the first, and ignored after it. -/
theorem test_freeze_twice : let p := poke on [(f_FRZ_CTL_PIN_EN, 0, 1), (f_BOOT_STATUS_STAGES_DONE, 0, 3)]; let t := after .freezeNAssert p
    (after (.tapFreeze 1) t).fld f_FRZ_STATUS_REG = 1 ∧ (after (.tapFreeze 1) { t with aon := t.aon + 18 }).fld f_FRZ_STATUS_REG = 0 ∧
    (after .freezeNAssert (after (.tapFreeze 1) on)).fld f_FRZ_STATUS_PIN = 1 := by decide +kernel

theorem test_freeze_deferred : let s := poke on [(f_FRZ_CTL_PIN_EN, 0, 1), (f_BOOT_STATUS_STAGES_DONE, 0, 1)]
    s.fld f_FRZ_CTL_PIN_EN = 1 ∧ s.stageDone 2 = false ∧ (after .freezeNAssert s).freezeDeferred = true ∧
    (after .bootStage2 (after .freezeNAssert s)).frozen = true ∧ (poke on [(f_FRZ_CTL_PIN_EN, 0, 0)]).fld f_FRZ_CTL_PIN_EN = 0 := by decide +kernel

def iced : State := { poke on [(f_FRZ_STATUS_FROZEN, 0, 1), (f_AS_SCRATCH_LIMIT_LEN, 0, 0x10)] with tapAddr := 2 ^ 56 + 8, mem := [(8, 0x11#8), (15, 0x22#8)] }

/-- Readout of the first word of the store with the ZV9 frozen, and refused while it runs. -/
theorem test_tap : let s := iced
    s.frozen = true ∧ s.tapAddr / 2 ^ 56 = 1 ∧ s.tapAddr % 8 = 0 ∧ s.tapAddr % 2 ^ 56 + 8 ≤ s.scratchLen ∧ s.scratchLen ≤ storeBytes ∧
    s.memPoisoned (s.tapAddr % 2 ^ 56) 8 = false ∧ (after .rdata s).tapDr = 0x2200000000000011 ∧ (after .rdata s).tapAddr = 2 ^ 56 + 16 ∧
    on.frozen = false ∧ (after .rdata on).tapDr = 3 * 2 ^ 64 ∧ regAt 0x1B0018 = true ∧
    (after .rdata { s with tapAddr := 0x1B0018 }).tapDr = (s.liveWord 0x1B0018).toNat ∧ bit 0 0 = false := by decide +kernel

theorem test_stream : let r : TapRun := ⟨16, 1032, 5, 1⟩; let s := { on with tapRun := some r }
    on.tapBusy = false ∧ 8 ≤ 2 ^ 40 - 8 ∧ (2 ^ 40 - 8) % 8 = 0 ∧ (after (.stream 16 (2 ^ 40 - 8) 5) on).tapBusy = true ∧ s.tapBusy = true ∧
    (after (.stream 0 8 6) s).tapRun = some r ∧ r.sent ≤ (r.len + 1023) / 1024 ∧
    ((after .streamFrameSend s).dbgTx.map (fun f => (f.length, leAt f 0 1, leAt f 2 2, leAt f 4 4, leAt f 8 8))) = [(1064, 1, 8, 1, 1040)] ∧
    (after .streamFrameSend { s with tapRun := some { r with sent := 2 } }).tapBusy = false := by decide +kernel

theorem test_sensors : let r : Sensors := ⟨105, [60, 104], 750⟩
    on.alive = true ∧ on.tripped = false ∧ r.tLogic < 115 ∧ (∀ x ∈ r.tStacks, x < 105 ∧ -128 ≤ x) ∧ (after (.sensorReading r) on).inForce 2 = true ∧
    (after (.sensorReading r) on).fld f_PWR_STAT_STEP = 16 ∧ (after (.sensorReading r) on).fld f_PWR_SENSE_STACK = 1 ∧
    115 ≤ (⟨115, [], 750⟩ : Sensors).tLogic ∧ (after (.sensorReading ⟨115, [], 750⟩) on).tripped = true ∧
    (after (.sensorReading ⟨0, [105], 750⟩) on).resetHeld = true := by decide +kernel

theorem test_steps : let hot := poke on [(f_PWR_STAT_IN_FORCE, 0, 1), (f_PWR_STAT_STEP, 0, 16)]; let cool := poke on [(f_PWR_STAT_STEP, 0, 3)]
    hot.fld f_PWR_STAT_STEP ≤ 16 ∧ (hot.inForce 1 || hot.inForce 7) = true ∧ (after .stepUp hot).fld f_PWR_STAT_STEP = 16 ∧
    (cool.inForce 1 || cool.inForce 2 || cool.inForce 7) = false ∧ (hot.inForce 1 || hot.inForce 2 || hot.inForce 7) = true ∧
    signed8 (cool.fld f_PWR_SENSE_T_LOGIC) ≤ (cool.fld f_PWR_LIMITS_LOGIC_C : Int) - 5 ∧ (after .stepDown cool).fld f_PWR_STAT_STEP = 2 := by
  decide +kernel

theorem test_windows : let s := poke on [(f_PWR_CAP_WATTS, 13, 10)]; let e : PowerEst := ⟨List.replicate 13 0 ++ [20], 300⟩
    s.fldAt f_PWR_CAP_WATTS 13 ≠ 0 ∧ s.fldAt f_PWR_CAP_WATTS 13 < e.watts.getD 13 0 ∧ (after (.powerWindow e) s).admitted = [(13, 32)] ∧
    (after (.powerWindow e) s).pkgHist = [300] ∧ on.pwrok = true ∧ (after (.railOutOfTolerance 9) on).railsBad = [9] ∧
    (after (.railOutOfTolerance 9) on).inForce 8 = true ∧ State.reset.pwrok = false := by decide +kernel

/-! ### Boot (BootStages, IdentityAndImages) -/

theorem test_boot_stages : (stages 0).stageRuns 1 = true ∧ (stages 1).stageRuns 2 = true ∧ (stages 3).stageRuns 5 = true ∧ (stages 0x13).stageRuns 6 = true ∧
    (stages 0x0F).stageRuns 7 = true ∧ (stages 0x0F).cfgEntries.filter (fun e => e.type == 1) = [] ∧ (stages 0x13).failCode = 0 ∧
    (after (.bootStage5 none) (stages 3)).fld f_BOOT_STATUS_STAGES_DONE = 0x13 ∧ (after .bootStage6 (stages 0x13)).stageDone 6 = true ∧
    (after (.bootStage7 none) (stages 0x0F)).meas.length = 5 := by decide +kernel

theorem test_boot_fail : 5 < 2 ^ f_BOOT_STATUS_FAIL_INFO.width ∧ (after (.bootStage5 (some 5)) (stages 3)).fld f_BOOT_STATUS_FAIL = 5 ∧
    (after (.bootStage7 (some 1)) (stages 0x0F)).fld f_BOOT_STATUS_FAIL = 6 ∧ (stages 1).flash.busy = false ∧ (stages 1).stageRuns 3 = true ∧
    (after (.bootStageTimeout 3) (stages 1)).fld f_BOOT_STATUS_FAIL_INFO = 3 := by decide +kernel

theorem test_boot_ready : let s := { stages 0x7F with aon := 18 * 100 * 7 }
    s.stageRuns 8 = true ∧ s.cfgEntries.filter (fun e => e.type == 5) = [] ∧ s.fld f_TIER_EXT_COUNT = 0 ∧ s.layoutOk = true ∧ s.limitsOk = true ∧
    (after (.bootStage8 5) s).meas.length = 1 ∧ (after (.bootStage8 5) s).mediaWait = [0, 2] := by decide +kernel

theorem test_enrol_begins : let s := { stages 3 with flash := { State.reset.flash with failStep := 0 } }
    s.stageRuns 3 = true ∧ s.flashFound = true ∧ s.flash.busy = false ∧ (s.flash.read recordBase 16384).all (fun b => b == 0xFF#8) = true ∧
    (after (.bootStage3 []) s).flash.busy = true := by decide +kernel

/-- A record that matches the key which its helper data rebuild. -/
def enrolled (puf : List Byte) : State :=
  { stages 3 with flash := on.flash.write recordBase (recordOf (identOf (Config.pufRebuild puf [7#8])) [7#8]) }

theorem test_identity (puf : List Byte) : let s := enrolled puf
    s.stageRuns 3 = true ∧ s.flashFound = true ∧ s.flash.busy = false ∧
    (let r := s.flash.read recordBase 16384
     let i := identOf (Config.pufRebuild puf ((r.drop 128).take (leAt r 112 4)))
     r.all (fun b => b == 0xFF#8) = false ∧ recordOk r = true ∧ (r.drop 80).take 32 = i.check ∧ (r.drop 16).take 64 = i.pk ∧ leAt r 8 8 = i.devId) := by
  intro s
  have hl : (recordOf (identOf (Config.pufRebuild puf [7#8])) [7#8]).length = 129 := by
    rw [recordOf, List.length_append, recordHead_length _ (identOf_pk_length _)]; rfl
  have hr : s.flash.read recordBase 16384 = recordOf (identOf (Config.pufRebuild puf [7#8])) [7#8] ++ List.replicate 16255 0xFF#8 := by
    have h := Flash.read_write_erased on.flash recordBase 16255 (recordOf (identOf (Config.pufRebuild puf [7#8])) [7#8]) rfl
    rw [hl] at h
    exact h
  obtain ⟨h1, h2, h3, h4, h5⟩ := recordOf_ok (identOf (Config.pufRebuild puf [7#8])) (identOf_pk_length _) [7#8] (List.replicate 16255 0xFF#8)
    (by decide) (by decide)
  refine ⟨?_, ?_, rfl, ?_⟩
  · show (stages 3).stageRuns 3 = true
    decide +kernel
  · show (stages 3).flashFound = true
    decide +kernel
  · rw [hr]
    simp only [h5]
    refine ⟨?_, h1, h4, h3, h2⟩
    by_contra hc
    rw [Bool.not_eq_false] at hc
    have h7 : (7#8 : Byte) ∈ recordOf (identOf (Config.pufRebuild puf [7#8])) [7#8] ++ List.replicate 16255 0xFF#8 := by
      rw [recordOf, List.mem_append, List.mem_append]
      exact Or.inl (Or.inr (List.mem_singleton.2 rfl))
    exact absurd (List.all_eq_true.1 hc _ h7) (by decide)

theorem test_images : let s := stages 7
    s.stageRuns 4 = true ∧ s.flash.busy = false ∧ s.flash.failStep = 0 ∧ s.cfgs = [] ∧ s.failCode = 0 ∧ (after .bootStage4 s).fld f_BOOT_STATUS_FAIL = 2 ∧
    (after .bootStage4 { s with flash := { s.flash with failStep := 3 } }).fld f_BOOT_STATUS_FAIL_INFO = 3 := by decide +kernel

/-! ### Management (ControlCommands, LanigalRequests, FlashOperations) -/

def known : State := { stages 7 with ident := some ⟨[], []⟩ }

theorem test_control : let s := known
    s.mctpOn = true ∧ (0 < 1 ∧ 1 < 0xFF) ∧ 0xFE < 0xFF ∧ (after (.setEndpointId 0xFE) s).fld f_BOOT_MCTP_EID = 0xFE ∧
    (after (.setEndpointId 0xFF) s).mctpOut = [⟨0, 1, 2, []⟩] ∧ (after .getEndpointId (after (.setEndpointId 9) s)).mctpOut.getLast? = some ⟨0, 2, 0, [9, 0, 0]⟩ ∧
    (after .getMctpVersionSupport s).mctpOut = [⟨0, 4, 0, [1, 0xF1, 0xF3, 0xFF, 0]⟩] ∧ (after .getMessageTypeSupport s).mctpOut = [⟨0, 5, 0, [2, 0, 0x7F]⟩] ∧
    s.ident = some ⟨[], []⟩ ∧ s.stageDone 3 = true ∧ (after .getEndpointUuid s).mctpOut.length = 1 ∧
    (after (.unsupportedControlCommand 6) s).mctpOut = [⟨0, 6, 5, []⟩] := by decide +kernel

theorem test_lanigal_reads : let s := known
    s.alive = true ∧ s.mctp = [] ∧ (s.flash.busy && s.flash.forMctp) = false ∧ s.stageDone 1 = true ∧ s.stageDone 2 = true ∧
    (after .getBootStatus s).mctpOut = [⟨0x7F, 1, 0, leBytes 8 (s.word 0xF0000).toNat⟩] ∧ (after .getIdentity s).mctpOut.length = 1 ∧
    ((after (.getReport []) s).mctpOut.map (·.command)) = [3] ∧ 0xF0000 % 8 = 0 ∧ (findReg 0xF0000).isSome = true ∧
    (after (.regRead 0x4000F0000) s).mctpOut = (after .getBootStatus s).mctpOut.map (fun m => { m with command := 4 }) ∧
    ((after (.regRead 0x3FFFFFFF8) s).mctpOut.map (·.status)) = [eRange] ∧ ((after (.regRead 0x410000000) s).mctpOut.map (·.status)) = [eRange] ∧
    ((after (.regRead 0x400000004) s).mctpOut.map (·.status)) = [eAlign] := by decide +kernel

theorem test_lanigal_writes : let s := known; let a := 0x1B0008
    s.flash.busy = false ∧ a % 8 = 0 ∧ a < 0x8000000 ∧ regAt a = true ∧ (after (.regWrite (0x400000000 + a) 5) s).fld f_FRZ_ALARM_CAUSES = 5 ∧
    (after (.regWrite (0x400000000 + a) 5) s).mctpOut = [⟨0x7F, 5, stOk, []⟩] ∧ s.flashFound = true ∧ s.flashRefuse 3 0xFFFF00 1 0 [1] = none ∧
    (after (.flashWrite 3 0xFFFF00 1 0 [1]) s).flash.busy = true ∧ s.endorseRefuse 0 1 49152 0 [1] = none ∧
    (after (.endorseWrite 0 1 49152 0 [1]) s).mctp.length = 1 ∧ s.klClients = [] ∧ (after .reset s).mctpOut = [⟨0x7F, 8, stOk, []⟩] := by decide +kernel

theorem test_lanigal_held : let one := { known with mctp := [.bootStatus] }; let full := { known with mctp := List.replicate 8 .identity }
    one.mctp = .bootStatus :: [] ∧ one.stageDone 1 = true ∧ (one.flash.busy && one.flash.forMctp) = false ∧ (after .mctpDeferredAnswer one).mctp = [] ∧
    8 ≤ full.mctp.length ∧ (after .getIdentity full).fld f_BOOT_MCTP_DROPS = 1 ∧ one.mctp ≠ [] ∧ one.mctp.length < 8 ∧
    (after .getIdentity one).mctp = [.bootStatus, .identity] := by decide +kernel

theorem test_flash : let s := { known with mctp := [.flashWrite 2 0x10000 2 0 [1, 2]], flash := { on.flash with busy := true, forMctp := true, data := [(0x410005, 9#8)] } }
    s.alive = true ∧ s.flash.busy = true ∧ s.flash.forMctp = true ∧ 0x10000 % 65536 = 0 ∧ ([1, 2] : List Byte).length ≤ 1024 ∧
    (after .flashOperationComplete s).flash.data = [(0x410000, 1#8), (0x410001, 2#8)] ∧ (after .flashOpTimeout s).flash.data = [(0x410005, 9#8)] ∧
    (after .flashOpTimeout s).mctpOut = [⟨0x7F, 6, eTimeout, []⟩] := by decide +kernel

theorem test_flash_enrol : let s := { stages 3 with ident := some ⟨[], []⟩, flash := { on.flash with busy := true } }
    s.flash.forMctp = false ∧ s.ident = some ⟨[], []⟩ ∧ (after .flashOperationComplete s).flash.busy = false ∧ s.failCode = 0 ∧
    (after .flashOpTimeout s).fld f_BOOT_STATUS_FAIL = 4 := by decide +kernel

/-! ### Carter -/

def carter (n k : Nat) : State := { poke ready [(f_CAR_SRC_ADDR, 7, 0x1000), (f_CAR_DST_ADDR, 7, 0x2000), (f_CAR_COUNT_BYTES, 7, n),
  (f_CAR_STATUS_DONE_BYTES, 7, k)] with mem := [(0x1040, 0xAB#8)] }

theorem test_carter_start : let s := carter 128 0; let w := w1 f_CAR_CTL_START 1
    s.alive = true ∧ 7 < 8 ∧ f_CAR_CTL_START.get w = 1 ∧ s.carActive 7 = false ∧ s.fldAt f_CAR_SRC_ADDR 7 % 64 = 0 ∧ s.fldAt f_CAR_DST_ADDR 7 % 64 = 0 ∧
    s.plainRange 0x1000 128 = true ∧ s.plainRange 0x2000 128 = true ∧ (after (.carStart 7 w) s).carter = [7] ∧ (carter 100 0).fldAt f_CAR_COUNT_BYTES 7 % 64 ≠ 0 ∧
    (after (.carStart 7 w) (carter 100 0)).fldAt f_CAR_STATUS_STATUS 7 = eAlign ∧ (poke s [(f_CAR_STATUS_BUSY, 7, 1)]).carActive 7 = true ∧
    (after (.carStart 7 w) (poke s [(f_CAR_STATUS_BUSY, 7, 1)])).fld f_CAR_ERR_START_REJECTS = 1 := by decide +kernel

theorem test_carter_moves : let s := { carter 128 64 with carter := [7] }; let s1 := (s.setFldAt f_CAR_STATUS_QUEUED 7 0).setFldAt f_CAR_STATUS_BUSY 7 1
    s.carter.head? = some 7 ∧ 64 + 64 ≤ s.fldAt f_CAR_COUNT_BYTES 7 ∧
    okWith (s1.carRead 0x1040) (fun g => g.poison.isNone && okWith (s1.feWrite 0x2040 g.bytes) (fun u => u.mem.length == 2)) = true ∧
    overlap 0x1000 128 0x2040 64 = false ∧ (after (.carterChannelRun 7) s).mem = [(0x1040, 0xAB#8), (0x2040, 0xAB#8)] ∧
    (after (.carterChannelRun 7) s).fldAt f_CAR_STATUS_DONE_BYTES 7 = 128 := by decide +kernel

theorem test_carter_done : let s := { carter 64 64 with carter := [7], carterLast := List.replicate 64 0#8 }; let b := poke s [(f_CAR_STATUS_BUSY, 7, 1)]
    b.fldAt f_CAR_STATUS_BUSY 7 = 1 ∧ b.carter.head? = some 7 ∧ b.fldAt f_CAR_COUNT_BYTES 7 ≤ b.fldAt f_CAR_STATUS_DONE_BYTES 7 ∧
    okWith (b.feRead (0x2000 + 64 - 64) 64) (fun g => g.bytes == b.carterLast && g.poison.isNone) = true ∧
    (after (.carterChannelDone 7) b).carter = [] ∧ (after (.carterChannelDone 7) b).fldAt f_CAR_STATUS_STATUS 7 = stOk := by decide +kernel

/-! ### Rings and descriptors (NopAndFence, WaitHoldsStart, DescriptorStarts, Consumption, Records, doorbells, RingsComeAndGo) -/

theorem none_before (s : State) (r : Ring) (idx : Nat)
    (h : s.descs.all (fun e => !decide (e.key.slice = r.slice ∧ e.key.ring = r.num ∧ sub32 r.sqCons idx < sub32 r.sqCons e.key.idx)) = true) :
    ∀ e, ¬ s.Before r idx e := by
  rintro e ⟨h1, h2, h3, h4⟩
  simpa [h2, h3, h4] using List.all_eq_true.1 h e h1

/-- `NOP` alone, and a `FENCE` behind it: first with the `NOP`'s record owed, then alone with an error in its window. -/
theorem test_fence : let n := dAt 4 (raw64 0 []) .running; let f := dAt 5 (raw64 1 [(16, [1])]) .running; let r := { ring1 with sqCons := 6, windowErr := true }
    let s := rig r [n, f]; let a := rig r [f]
    s.alive = true ∧ s.ring 1 2 = some r ∧ s.desc ⟨1, 2, 4⟩ = some n ∧ n.phase = .running ∧ n.op = 0 ∧ n.stop = none ∧
    s.desc ⟨1, 2, 5⟩ = some f ∧ f.op = 1 ∧ f.stop = none ∧ (n ∈ s.descs ∧ sub32 6 5 < sub32 6 4) ∧ (after (.fence 1 2 5) s).descs = s.descs ∧
    ((after (.nop 1 2 4) s).descs.map (·.phase)) = [.ended, .running] ∧ leAt f.raw 16 1 % 2 = 1 ∧
    ((after (.fence 1 2 5) a).descs.map (fun d => (d.status, d.detail))) = [(eAborted, 4)] ∧
    ((after (.fence 1 2 5) (rig { r with windowErr := false } [f])).descs.map (·.status)) = [stOk] := by decide +kernel

theorem test_fence_alone : ∀ e, ¬ (rig { ring1 with sqCons := 6 } [dAt 5 (raw64 1 []) .running]).Before { ring1 with sqCons := 6 } 5 e :=
  none_before _ _ _ (by decide +kernel)

/-- Byte 1 bit 0 is `INTR`, bit 1 `WAIT`. -/
theorem test_wait : let n := dAt 4 (raw64 0 []) .running; let d := dWait 5 (raw64 0 [(1, [2])]); let r := { ring1 with sqCons := 6 }
    (rig r [n, d]).ring 1 2 = some r ∧ (rig r [n, d]).desc ⟨1, 2, 5⟩ = some d ∧ d.phase = .waiting ∧ d.waits = true ∧ n ∈ (rig r [n, d]).descs ∧
    (after (.descriptorStart 1 2 5) (rig r [n, d])).descs = [n, d] ∧
    ((after (.descriptorStart 1 2 5) (rig r [d])).descs.map (fun e => (e.phase, e.engine))) = [(.running, 0xF0)] ∧ (dWait 5 (raw64 0 [])).waits = false ∧
    ((after (.descriptorStart 1 2 5) (rig r [n, dWait 5 (raw64 0 [])])).descs.map (·.phase)) = [.running, .running] := by decide +kernel

theorem test_wait_alone : ∀ e, ¬ (rig ring1 [dWait 5 (raw64 0 [(1, [2])])]).Before ring1 5 e := none_before _ _ _ (by decide +kernel)

/-- A descriptor with its slice's group 0 and mover 31. -/
theorem test_starts : let r := { ring1 with sqCons := 6 }; let go := fun op => (after (.descriptorStart 1 2 5) (rig r [dWait 5 (raw64 op [])])).descs.map (·.engine)
    (∃ g ∈ (rig r []).groups 1, (rig r []).enabledArrays g ≠ []) ∧ (rig r []).fldAt f_SLC_MOVERS_MOVERS 1 ≠ 0 ∧ leAt (raw64 0x39 []) (homeNodeOff 0x39) 2 = (rig r []).me ∧
    (dWait 5 []).key.slice = 1 ∧ go 0x3A = [0xF0] ∧ go 0x39 = [0xF0] ∧ go 0x14 = [0] ∧ (go 0x02).length = 1 ∧
    (let n := dAt 4 (raw64 1 []) .running; n.op = 1 ∧ n.raw ≠ [] ∧
      (after (.descriptorStart 1 2 5) (rig r [n, dWait 5 (raw64 0 [])])).descs = [n, dWait 5 (raw64 0 [])]) := by decide +kernel

/-- A ring of this ZV9's memory with a `NOP` in its slot 5. -/
def own (op flags : Nat) : State :=
  let r := { ring1 with loc := 0 }
  { rig r [] with mem := cellsWrite [] (0x10000 + 64 * 5) (raw64 op [(1, [byte flags])]) }

def nextIs (n : Next) (u : Nat) (raw : List Byte) : Bool := match n with
  | .desc v bs => v == u && bs == raw
  | _ => false

theorem test_consume : let s := own 0 0; let r := { ring1 with loc := 0 }
    s.alive = true ∧ s.ring 1 2 = some r ∧ s.mayConsume r = true ∧ nextIs (s.nextDesc r) 1 (raw64 0 []) = true ∧
    okWith (s.judgeDesc r (dWait 5 (raw64 0 []))) (fun _ => true) = true ∧ ((after (.descriptorConsume 1 2 []) s).descs.map (fun d => (d.phase, d.units))) = [(.waiting, 1)] ∧
    ((after (.descriptorConsume 1 2 []) s).rings.map (·.sqCons)) = [6] ∧ opRow 0xEE = none ∧
    failsWith ((own 0xEE 0).judgeDesc r (dWait 5 (raw64 0xEE []))) ⟨eFormat, 3, 0⟩ = true ∧
    ((after (.descriptorConsume 1 2 []) (own 0 4)).descs.map (fun d => (d.status, d.detail))) = [(eFormat, 1)] := by decide +kernel

/-- No room: the completion queue is covered at its last slot; the pool is empty. -/
theorem test_consume_none : let r := { ring1 with loc := 0, cqProd := 4, cqCons := 4, log2cq := 0 }; let d := dAt 4 (raw64 0 []) .running
    2 ^ r.log2cq ≤ ((rig r [d]).descs.filter (fun d => d.key.slice == 1 && d.key.ring == 2)).length + sub32 r.cqProd r.cqCons ∧
    (after (.descriptorConsume 1 2 []) { own 0 0 with rings := [r], descs := [d] }).descs = [d] ∧
    (poke (own 0 0) [(f_STORE_CARVE_DESC_CELLS, 0, 0)]).fld f_STORE_CARVE_DESC_CELLS ≤ 0 ∧
    (after (.descriptorConsume 1 2 []) (poke (own 0 0) [(f_STORE_CARVE_DESC_CELLS, 0, 0)])).descs = [] ∧
    (poke (own 0 0) [(f_SLC_STATUS_BUSY, 1, 1)]).fldAt f_SLC_STATUS_BUSY 1 = 1 := by decide +kernel

theorem test_consume_poison : let s := { own 0 0 with poison := [0x10140] }; let r := { ring1 with loc := 0 }
    s.mayConsume r = true ∧ sub32 r.sqProd r.sqCons ≠ 0 ∧ okWith (s.feRead (r.sqAddr + 64 * (r.sqCons % 2 ^ r.log2sq)) 64) (fun g => g.poison.isSome) = true ∧
    ((after (.descriptorConsume 1 2 []) s).descs.map (fun d => (d.status, d.detail, d.units))) = [(ePoison, 0x10140, 1)] := by decide +kernel

/-- The record of a `NOP` with tag 0x11223344 at `CQ_PROD` 16 of 16 slots: phase 0. -/
theorem test_record : let d := { dAt 5 (raw64 0 [(4, [0x44, 0x33, 0x22, 0x11])]) .ended with det := 2, kind := 9, detail := 7 }
    let r := { ring1 with cqProd := 16 }
    d.raw ≠ [] ∧ d.det < 4 ∧ d.kind < 16 ∧ ((rig r []).record32 r d).take 16 = [0x44, 0x33, 0x22, 0x11, 0, 0, 0x9C, 0xF0, 5, 0, 0, 0, 0, 0, 0, 0] := by decide +kernel

theorem test_record_written : let d := dAt 5 (raw64 0 []) .ended; let s := rig ring1 [d]; let o := { ring1 with loc := 0 }; let m := rig o [d]
    s.ring 1 2 = some ring1 ∧ s.desc ⟨1, 2, 5⟩ = some d ∧ d.phase = .ended ∧ s.outReqs = [] ∧ s.sweeps = [] ∧ d.op ≠ 1 ∧ ring1.state ≠ .faulted ∧
    ring1.destroying = 0 ∧ ring1.vector = 0xFFFF ∧ s.fldAt f_FLT_SLICE_JOB_STATE 1 ≠ 1 ∧ s.fld f_SCR_CTL_ENABLE = 0 ∧ s.frames = [] ∧
    (ring1.loc = 1 ∧ s.klUp 0 = true ∧ s.bound 0 = some 1) ∧ ((after (.descriptorComplete 1 2 5) s).queue.map (·.out)) = [0] ∧
    ((after (.descriptorComplete 1 2 5) s).rings.map (·.cqProd)) = [6] ∧ o.loc = 0 ∧
    okWith (m.feWrite (0x20000 + 32 * 5) (m.record32 o d)) (fun u => u.rings == m.rings && u.descs == m.descs && u.regs == m.regs && u.frames == m.frames) = true ∧
    (after (.descriptorComplete 1 2 5) m).memRead 0x200A6 2 = [0x09, 0xF0] := by decide +kernel

theorem test_record_lost : let d := dAt 5 (raw64 0 []) .ended; let s := { poke (rig ring1 [d]) [(f_KL_PORT_STATE, 0, 0)] with rings := [ring1] }
    ring1.loc = 1 ∧ s.klUp 0 = false ∧ s.flag f_FLT_CTL_INT_EN = false ∧ ((after (.descriptorComplete 1 2 5) s).rings.map (·.state)) = [.faulted] := by decide +kernel

theorem test_status_block : let r := { ring1 with stDirty := true }; let s := rig r []; let o := { r with loc := 0 }
    s.ring 1 2 = some r ∧ r.state ≠ .faulted ∧ (r.loc = 1 ∧ s.klUp r.port = true ∧ s.bound r.port = some r.slice) ∧
    (s.statusBlock r).take 18 = [5, 0, 0, 0, 8, 0, 0, 0, 5, 0, 0, 0, 5, 0, 0, 0, 1, 3] ∧ (after (.ringStatusBlockWrite 1 2) s).queue.length = 1 ∧
    okWith ((rig o []).feWrite 0x30000 ((rig o []).statusBlock o)) (fun u => u.rings == [o]) = true ∧
    (after (.ringStatusBlockWrite 1 2) (rig o [])).memRead 0x30010 2 = [1, 3] ∧ ring1.stDirty = false ∧
    (after (.ringStatusBlockWrite 1 2) (rig ring1 [])).queue = [] := by decide +kernel

/-- The ring of 16 units at consumer 0xFFFFFFF8 takes 8 (16 covered) and refuses 9; `RESUME` wakes a halted one. -/
theorem test_sq_doorbell : let r := { ring1 with sqCons := 0xFFFFFFF8, sqProd := 0xFFFFFFFF }; let s := rig r []; let w : Word := 8
    s.ring 1 2 = some r ∧ s.fldAt f_SLC_STATUS_BUSY 1 = 0 ∧ w.getLsbD 63 = false ∧ sub32 8 r.sqCons ≤ 2 ^ r.log2sq ∧ sub32 8 r.sqProd < 2 ^ 31 ∧
    ((after (.sqDoorbell 1 2 w) s).rings.map (·.sqProd)) = [8] ∧ ¬ sub32 9 r.sqCons ≤ 2 ^ r.log2sq ∧ s.flag f_FLT_CTL_INT_EN = false ∧
    ((after (.sqDoorbell 1 2 9) s).rings.map (fun x => (x.sqProd, x.dbRejects))) = [(0xFFFFFFFF, 1)] ∧ (0x8000000000000008 : Word).getLsbD 63 = true ∧
    ((after (.sqDoorbellResume 1 2 0x8000000000000008) (rig { r with state := .halted } [])).rings.map (·.state)) = [.running] ∧
    s.ring 1 3 = none ∧ (after (.sqDoorbell 1 3 0) s).fld f_RING_ERR_DB_REJECTS = 1 ∧ (after (.cqDoorbell 1 3 0) s).fld f_RING_ERR_DB_REJECTS = 1 := by
  decide +kernel

/-- `CQ_CONS` 0xFFFFFFFE, `CQ_PROD` 2: 2 is the last value taken, 3 none. -/
theorem test_cq_doorbell : let r := { ring1 with cqCons := 0xFFFFFFFE, cqProd := 2 }; let s := rig r []
    s.ring 1 2 = some r ∧ s.fldAt f_SLC_STATUS_BUSY 1 = 0 ∧ ((2 : Word).toNat < 2 ^ 32 ∧ sub32 2 r.cqCons ≤ sub32 r.cqProd r.cqCons) ∧
    ((after (.cqDoorbell 1 2 2) s).rings.map (·.cqCons)) = [2] ∧ ¬ sub32 3 r.cqCons ≤ sub32 r.cqProd r.cqCons ∧
    ((after (.cqDoorbell 1 2 3) s).rings.map (·.cqCons)) = [0xFFFFFFFE] ∧ ((after (.cqDoorbell 1 2 0x100000002) s).rings.map (·.cqCons)) = [0xFFFFFFFE] := by
  decide +kernel

/-- The request of ring 3 of slice 1 at address 0x4000: in client memory through port 0, formats 1 to 5. -/
def request (loc port : Nat) : State := { rig ring1 [] with mem := cellsWrite [] 0x4000 (raw64 1 [(1, [3, 6, 6, 1, 5, 0xFF, 0xFF] ++ leBytes 8 0x10000 ++ leBytes 8 0x20000 ++
  leBytes 8 0x30000 ++ [byte loc, byte port, 1, 0]), (40, [1])]) }

theorem test_ring_create : let s := request 1 0; let t := after (.ringCreate 0x100) s
    s.alive = true ∧ s.flag f_RING_CMD_STATUS_BUSY = false ∧ s.plainRange 0x4000 64 = true ∧
    okWith (s.feRead 0x4000 64) (fun g => g.poison.isNone && ((s.ringChecks g.bytes).find? (fun c => !c.1)).isNone && leAt g.bytes 32 1 == 1) = true ∧
    (t.rings.map (fun r => (r.num, r.fmt, r.sqCons, r.state))) = [(2, 3, 5, .running), (3, 3, 0, .running)] ∧ t.fld f_RING_CMD_STATUS_FORMAT = 3 ∧
    (after (.ringCreate 0x100) (poke s [(f_RING_CMD_STATUS_BUSY, 0, 1)])).fld f_RING_ERR_CMD_COLLISIONS = 1 := by decide +kernel

theorem test_ring_refused : let s := request 0 1; let t := after (.ringCreate 0x100) s
    okWith (s.feRead 0x4000 64) (fun g => leAt g.bytes 32 1 != 1 && leAt g.bytes 33 1 != 0 && (s.ringChecks g.bytes).find? (fun c => !c.1) == some (false, eFormat, 33)) = true ∧
    (t.fld f_RING_CMD_STATUS_STATUS, t.fld f_RING_CMD_STATUS_FIELD) = (eFormat, 33) ∧ s.plainRange (64 * 0xFFFFFFFF) 64 = false ∧
    (after (.ringCreate 0xFFFFFFFF) s).fld f_RING_CMD_STATUS_FIELD = 0xFF := by decide +kernel

/-- The request that names ring 2 of slice 1. -/
def ending (r : Ring) (ds : List Desc) : State := { rig r ds with mem := cellsWrite [] 0x4000 [1, 2] }

theorem test_destroy : let d := dAt 5 (raw64 0 []) .running; let s := ending ring1 [d]
    s.ring 1 2 = some ring1 ∧ (ring1.loc = 1 ∧ s.klUp 0 = true ∧ s.bound 0 = some 1) ∧ ring1.state = .running ∧ s.configured 1 = true ∧
    s.flag f_RING_CMD_STATUS_BUSY = false ∧ s.plainRange 0x4000 64 = true ∧ s.fldAt f_SLC_STATUS_BUSY 1 = 0 ∧ s.outReqs = [] ∧
    okWith (s.feRead 0x4000 64) (fun g => g.poison.isNone && leAt g.bytes 0 1 == 1 && leAt g.bytes 1 1 == 2 && zeros g.bytes 2 62) = true ∧
    ((after (.destroyDrain 0x100) s).rings.map (fun r => (r.state, r.destroying))) = [(.stopping, 2)] ∧ (after (.destroyDrain 0x100) s).descs = [d] ∧
    ((after (.destroyAbort 0x100) s).descs.map (fun e => (e.phase, e.status, e.detail))) = [(.ended, eAborted, 3)] ∧
    (let z := rig { ring1 with state := .stopping, destroying := 2 } []
     z.ring 1 2 = some { ring1 with state := .stopping, destroying := 2 } ∧ z.klOuts = [] ∧ (after (.destroyDrainDone 1 2) z).rings = []) := by decide +kernel

theorem test_starts_alone : ∀ e, ¬ (rig { ring1 with sqCons := 6 } [dWait 5 (raw64 0x2A [])]).Before { ring1 with sqCons := 6 } 5 e :=
  none_before _ _ _ (by decide +kernel)

/-- A slice with the Gleaner 0x21 and one context in it, free and held by another descriptor. -/
theorem test_start_publish : let r := { ring1 with sqCons := 6 }; let d := dWait 5 (raw64 0x2A [])
    let s := fun ds => poke (rig r ds) [(f_SLC_CFG_GLEANERS, 1, 2), (f_SLC_CFG_GLN_CTX, 1, 1)]
    let held := { dAt 7 (raw64 0x28 []) .running with ctx := [0x21], engine := 0x21 }
    leAt d.raw (homeNodeOff d.op) 2 = (s [d]).me ∧ (s [d]).gleanerCodes 1 = [0x21] ∧ (s [d]).ctxUsed 1 0x21 < (s [d]).ctxMost 1 0x21 ∧
    ((after (.descriptorStart 1 2 5) (s [d])).descs.map (fun e => (e.phase, e.engine, e.ctx))) = [(.running, 0xF0, [0x21])] ∧
    ¬ (s [held, d]).ctxUsed 1 0x21 < (s [held, d]).ctxMost 1 0x21 ∧ (after (.descriptorStart 1 2 5) (s [held, d])).descs = [held, d] := by decide +kernel

/-- The only ready ring has its turn; beside one of its slice that has consumed a round less, both of `WEIGHT` 1, it has none. -/
theorem test_share : let r := { ring1 with loc := 0 }; let m := { r with num := 3, used := 1 }; let z := { r with used := 2 }
    let s := fun rs => { own 0 0 with rings := rs }
    (s [r]).hasShare r = true ∧ (s [z, m]).hasShare z = false ∧
    (s [z, m]).mayConsume z = true ∧
    ((after (.descriptorConsume 1 2 []) (s [z, m])).rings.map (·.sqCons)) = [5, 5] := by decide +kernel

/-- 64 units since the last block. -/
theorem test_consume_block : let r := { ring1 with stCons := 2 ^ 32 - 58, pre := [(raw64 0 [], false)] }; let s := rig r []
    64 ≤ sub32 6 (2 ^ 32 - 58) ∧ ((after (.descriptorConsume 1 2 []) s).rings.map (fun q => (q.sqCons, q.stDirty, q.stCons))) = [(6, false, 6)] ∧
    ((after (.descriptorConsume 1 2 []) s).queue.map (·.out)) = [0] := by decide +kernel

/-- Of the parties 2, 5 and 9: below its minimum is 5; none; the party 9 goes on while its weight of 4 lasts. -/
theorem test_pick : let x : Share := { served := [(2, 50), (5, 1), (9, 50)], pos := 9, used := 3 }
    x.pick [2, 5, 9] (fun _ => 4) (fun p => if p = 5 then 10 else 0) 100 = some (5, true) ∧ x.pick [2, 5, 9] (fun _ => 4) (fun _ => 0) 100 = some (9, false) ∧
    { x with used := 4 }.pick [2, 5, 9] (fun _ => 4) (fun _ => 0) 100 = some (2, false) := by decide +kernel

/-- A faulted ring has a block too; one whose stopping `FENCE` is another descriptor's takes the record. -/
theorem test_status_faulted : let r := { ring1 with state := .faulted, stDirty := true }; let h := { ring1 with stopFence := some 9 }; let d := dAt 5 (raw64 0 []) .ended
    ((rig r []).statusBlock r).getD 16 0 = 4 ∧ (after (.ringStatusBlockWrite 1 2) (rig r [])).queue.length = 1 ∧ h.stopFence ≠ some 5 ∧
    ((after (.descriptorComplete 1 2 5) (rig h [d])).rings.map (fun q => (q.cqProd, q.stopFence))) = [(6, some 9)] := by decide +kernel

/-- `RESUME` drops what was read ahead. -/
theorem test_resume_reads_again : let r := { ring1 with state := .halted, pre := [(raw64 0 [], false)] }
    ((after (.sqDoorbellResume 1 2 0x8000000000000008) (rig r [])).rings.map (fun q => (q.state, q.pre))) = [(.running, [])] := by decide +kernel

/-! ### Numbers and attention's positions (SuperaccumulatorOrder, NumberFormats, EnginesEndDescriptors) -/

theorem test_numbers : [f32 0x3F800000, f32 0xBF800000].Perm [f32 0xBF800000, f32 0x3F800000] ∧ leAt (List.replicate 22 0#8 ++ [16]) 22 1 = 16 ∧
    SAcc.ofBytes (List.replicate 22 0#8 ++ [16]) = none ∧ fE4M3.dec 0x7E ≠ .nan ∧ 0x7E < 2 ^ (1 + fE4M3.eb + fE4M3.mb) ∧ fE4M3.enc (fE4M3.dec 0x7E) = 0x7E ∧
    fFP16.dec 0x8001 ≠ .nan ∧ fFP16.enc (fFP16.dec 0x8001) = 0x8001 ∧ max32 (f32 0) (f32 0x80000000) = max32 (f32 0x80000000) (f32 0) := by decide +kernel

/-- Row 1 of two tokens at position 10: window 4, recent 2, sink [0, 1), excluded [9, 10), causal. -/
def att1 : Att :=
  let raw := (raw64 0x11 []) ++ ((List.replicate 13 0#8 ++ [1] ++ leBytes 2 0 ++ [0#8, 0#8, 0#8, 0#8] ++ [1, 1, 0, 0]) ++ leBytes 8 9 ++ leBytes 4 4 ++ leBytes 4 2 ++ leBytes 8 0 ++ leBytes 8 1 ++
    leBytes 8 0) ++ leBytes 8 9 ++ leBytes 8 10
  { d := desc1 raw, pin := ⟨3, none, []⟩, t := streamAt (List.replicate 256 0#8) 0, fill := 0, tiles := [], q := [] }

theorem test_positions : att1.d.qpos 1 = 10 ∧ att1.d.at 85 1 = 1 ∧ bit (att1.d.at 84 1) 0 = true ∧ att1.d.at 96 4 = 4 ∧ att1.d.at 100 4 = 2 ∧
    (bits (att1.d.at 128 8) 0 48 ≤ 9 ∧ 9 < bits (att1.d.at 136 8) 0 48) ∧ att1.attends (.tiles [(0, true)]) 1 0 9 = false ∧ 10 < 11 ∧
    att1.attends (.tiles [(0, true)]) 1 0 11 = false ∧ att1.attends (.tiles []) 1 0 10 = true ∧ att1.attends (.tiles []) 1 0 0 = true ∧ 6 + att1.d.at 96 4 ≤ 10 ∧
    att1.attends (.tiles [(0, true)]) 1 0 6 = false ∧ att1.attends (.tiles [(0, true)]) 1 0 7 = true := by decide +kernel

/-! ### Engines (EnginesEndDescriptors, MoveCopies, AppendsAndUpdates) -/

/-- Region 3 of slice 1: two tiles in frames 1 and 2 of the pool, the first with the bytes given. -/
def region3 : Region := {
  num := 3, deleting := false, owner := 1, writeLost := false, size := 2, base := directBase + gib, published := 0, lastCut := 7, stamp := 0
  working := [(0, 1), (1, 2)], retained := [], target := (1, 0), targets := [] }

def frameOf (id : Nat) (data : Cells) : Frame := {
  id := id, tier := 1, num := id, port := 0, owner := 1, data := data, poison := [], slot := none, stored := false, tag := 0, lost := none, cache := none }

/-- An engine's descriptor; virtual addresses 0 to 2 MiB of slice 1 are the direct part from its first byte. -/
def eng (d : Desc) (tile : Cells) (mem : Cells) : State :=
  { poke (rig { ring1 with sqCons := 6 } [d]) [(f_TIER_POOL_BASE_GIB, 0, 1), (f_TIER_POOL_LEN_GIB, 0, 1), (f_SLC_SHARE_ATW_64K, 1, 4), (f_AS_RGN_SIZE_LOG2_ENTRIES, 0, 4),
      (f_TIER_QLIMIT_LIMIT, 5, 64)] with
    xlCache := [⟨69, 1, 0, .leaf ⟨0, directBase, 15, 2, false⟩⟩], regions := [region3], frames := [frameOf 1 tile, frameOf 2 []], nextFrame := 9, mem := mem }

def dEng (raw : List Byte) (e : Nat) : Desc := { dAt 5 raw .running with engine := e }

/-- The reference to region 3 at an offset. -/
def ref3 (off : Nat) : List Byte := leBytes 6 off ++ leBytes 2 0 ++ leBytes 4 3 ++ leBytes 4 0

/-- The only descriptor has ended so. -/
def ends (t : State) (status progress : Nat) : Bool := t.descs.map (fun d => (d.phase, d.status, d.progress)) == [(.ended, status, progress)]

/-- The run is one with this status, whose writes all lie here. -/
def ranD (o : Done) (s : State) (status : Nat) : Bool := o.status == status && o.more == none && o.eff.out == [] && o.eff.s.descs == s.descs

def ran (r : Res Done) (s : State) (status : Nat) : Bool := okWith r (fun o => ranD o s status)

/-- A stream of BF16 keys of 64 elements with one tile and nothing in it; one query row. -/
def attending (op : Nat) : State :=
  let stream := cellsWrite [] 0 ([1, 0, 64, 0, 0, 0, 0, 0, 1, 0, 0, 0] ++ List.replicate 20 0#8 ++ leBytes 8 65536 ++ leBytes 8 0 ++ leBytes 8 256)
  let raw := raw64 op [(16, ref3 0), (40, leBytes 8 0x1000)] ++ leBytes 4 0 ++ leBytes 4 1 ++ leBytes 4 0x3F800000 ++ [1, 1, 1, 0] ++ List.replicate 40 0#8 ++ leBytes 8 0
  eng { dEng raw 0 with pins := [⟨3, none, []⟩], work := 1, startRecord := cellsRead stream 0 256 } stream []

theorem test_attend : let s := attending 0x11; let k : DKey := ⟨1, 2, 5⟩
    s.alive = true ∧ (s.desc k).any (fun d => d.phase == .running && d.op == 0x11 && d.stop == none && ran ((s.attRun d (s.passErrs d.engine [])).map (·.1)) s stOk && d.at 79 1 == 0) = true ∧
    s.enabledArrays 0 ≠ [] ∧ ends (after (.attend 1 2 5 []) s) stOk 1 = true ∧ cellsRead (after (.attend 1 2 5 []) s).mem (directBase + 0x1000) 4 = leBytes 4 0xFF800000 ∧
    ends (after (.attendMax 1 2 5 []) (attending 0x12)) stOk 1 = true ∧ ends (after (.attendSum 1 2 5 []) (attending 0x13)) stOk 1 = true ∧
    (poke s [(f_ARR_DISABLE_ARRAY, 0, 255)]).enabledArrays 0 = [] ∧ ends (after (.attend 1 2 5 []) (poke s [(f_ARR_DISABLE_ARRAY, 0, 255)])) stOk 1 = false := by decide +kernel

/-- The same with `SEL_MODE` 2, in a slice with no context. -/
theorem test_attend_waits : let s := attending 0x11; let raw := (s.descs.headD (desc1 [])).raw; let u := { s with descs := s.descs.map (fun d => { d with raw := raw.take 79 ++ [2] ++ raw.drop 80 }) }
    u.descs.all (fun d => d.at 79 1 == 2 && d.picked.isNone && (u.takeContexts d).isNone) = true ∧ (after (.attend 1 2 5 []) u).descs = u.descs ∧
    (⟨0, 3, .corrected⟩ : ArrErr) ∈ s.passErrs 0 [⟨0, 3, .corrected⟩, ⟨0, 9, .corrected⟩] := by decide +kernel

theorem test_attend_fails : let s := { attending 0x11 with xlCache := [] }
    s.descs.all (fun d => failsWith ((s.attRun d []).map (·.1)) ⟨eXlate, 2, 0⟩ || failsWith ((s.attRun d []).map (·.1)) ⟨eXlate, 7, 0⟩ || match s.attRun d [] with
      | .error (.err f) => f.status == eXlate
      | _ => false) = true ∧ ends (after (.attend 1 2 5 []) s) eXlate 0 = true := by decide +kernel

/-- One block of maxima with one row at 0x2000, written out at 0x1000. -/
def merging : State :=
  let raw := raw64 0x14 [(24, [1, 0, 1, 1, 64, 0, 0, 0]), (32, leBytes 8 0x1000)] ++ leBytes 8 0x2000 ++ List.replicate 56 0#8
  eng (dEng raw 0) [] (cellsWrite [] (directBase + 0x2000) (leBytes 4 0x40000000 ++ leBytes 10 0 ++ [0, 1]))

theorem test_merge : let s := merging
    s.descs.all (fun d => d.op == 0x14 && d.phase == .running && d.work != 1 && !s.owesWrites d.key && okWith (s.mergePlan d) (fun x => match x with
      | .ok rows => let d1 := { d with work := 1, plan := rows }; let u := (s.setDesc d1).noteTouches 1 (s.mergeTouches d); ranD (u.mergeRows d1) u stOk
      | .error _ => false)) = true ∧ ends (after (.merge 1 2 5) s) stOk 1 = true ∧
    cellsRead (after (.merge 1 2 5) s).mem (directBase + 0x1000) 4 = leBytes 4 0x40000000 := by decide +kernel

/-- A second phase: with no write owed, and with one; a first phase whose block has another `ROW`, and one with no translation. -/
theorem test_merge_phases : let s := merging; let two := { s with descs := s.descs.map (fun d => { d with work := 1, plan := [(0x1000, leBytes 4 5)] }) }
    let owing := { two with outReqs := [⟨{ qp with dest := 1, typ := 0x03, tc := 4 }, .desc ⟨1, 2, 5⟩ 0, 1, 0, [], false⟩] }
    let bad := { s with mem := cellsWrite s.mem (directBase + 0x2000 + 14) [1] }
    two.descs.all (fun d => d.work == 1 && !two.owesWrites d.key && ranD (two.mergeRows d) two stOk) = true ∧ ends (after (.merge 1 2 5) two) stOk 1 = true ∧
    owing.descs.all (fun d => owing.owesWrites d.key) = true ∧ (after (.merge 1 2 5) owing).descs = owing.descs ∧
    bad.descs.all (fun d => okWith (bad.mergePlan d) (fun x => match x with | .error a => a == 0x2000 | .ok _ => false)) = true ∧
    ends (after (.merge 1 2 5) bad) eRange 0 = true ∧ ends (after (.merge 1 2 5) { s with xlCache := [] }) eXlate 0 = true := by decide +kernel

/-- An index of one empty list: 4-bit codes, 16 elements, one query, one probe, one result. -/
def searching : State :=
  let index := cellsWrite [] 0 ([0, 4, 16, 0, 1, 0, 0, 0, 1, 0, 0, 0, 1, 0, 0, 0] ++ leBytes 8 4096 ++ leBytes 8 512)
  let raw := raw64 0x20 [(16, ref3 0), (40, leBytes 8 0x1000 ++ leBytes 8 0x2000 ++ leBytes 2 1 ++ [1, 0] ++ leBytes 4 1)]
  eng { dEng raw 0x10 with pins := [⟨3, none, []⟩], ctx := [0x10], startRecord := cellsRead index 0 256 } index []

theorem test_search : let s := searching
    s.descs.all (fun d => d.op == 0x20 && d.phase == .running && d.sMode == 0 && d.plan == [] && !s.owesWrites d.key && d.pins.all (fun pin =>
      let x := indexAt d.startRecord (rrefAt d.raw 16).offset
      okWith (phased 1 (s.probes d pin x)) (fun r => match r with
        | .ok ls =>
          let e := { d with plan := ls.map (fun l => (l.1, leBytes 4 l.2)) }
          let u := ((s.setDesc e).noteTouches 1 [⟨uAsy (d.partAsy 0), d.at 48 8, 4 * d.at 60 4, true⟩]).blockWritten e
          let o := State.queries pin x (u.2.plan.map (fun l => (l.1, leNat l.2))) (u.2.at 58 1 - u.2.progress) u.2.progress { s := u.1, out := [] } u.2
          o.status == stOkShort && o.more == none && o.eff.out == [] && o.eff.s.descs.map (·.key) == [d.key]
        | .error _ => false))) = true ∧ ends (after (.search 1 2 5) s) stOkShort 1 = true ∧
    cellsRead (after (.search 1 2 5) s).mem (directBase + 0x1000 + 16) 4 = leBytes 4 0xFFFFFFFF := by decide +kernel

/-- A probe list that names no list of the index, one with no translation, and a block whose write at another home is owed. -/
theorem test_search_stops : let s := searching; let bad := { s with mem := cellsWrite s.mem (directBase + 0x2000) [7] }
    let owing := { s with descs := s.descs.map (fun d => { d with plan := [(0, leBytes 4 0)], owed := true }), outReqs := [⟨{ qp with dest := 1, typ := 0x03, tc := 4 }, .desc ⟨1, 2, 5⟩ 0, 1, 0, [], false⟩] }
    ends (after (.search 1 2 5) bad) eRange 0 = true ∧ (after (.search 1 2 5) bad).fld f_ASY_ERR_PROBE_REJECTS = 1 ∧
    ends (after (.search 1 2 5) { s with xlCache := [] }) eXlate 0 = true ∧ owing.descs.all (fun d => owing.owesWrites d.key) = true ∧
    (after (.search 1 2 5) owing).descs = owing.descs ∧ (after (.search 1 2 5) { owing with outReqs := [] }).fld f_ASY_QUERIES_QUERIES = 1 ∧
    ends (after (.search 1 2 5) { owing with outReqs := [] }) stOkShort 1 = true := by decide +kernel

/-- 64 bytes from 0 to 0x1000, on mover 3. -/
def moving (n : Nat) : State :=
  poke (eng (dEng (raw64 0x02 [(24, leBytes 8 0x1000 ++ leBytes 8 n)]) 0x43) [] (cellsWrite [] (directBase + 63) [0xAA])) [(f_SLC_MOVERS_MOVERS, 1, 8)]

theorem test_move : let s := moving 64; let s1 := { s with fresh := s.fresh + 64 }
    s.descs.all (fun d => d.op == 0x02 && d.phase == .running && bits (d.at 32 8) 0 40 == 64 && s.mover d 0 == 3 &&
      (s.srcPieces (uMov (d.engine - 0x40)) 1 0 64).all (fun p => decide (p.loc + p.len ≤ directBase + 0x1000)) &&
      okWith (s.xlate (uMov 3) 1 0 64 rRead) (· == [⟨0, s.me, directBase, 64⟩]) && okWith (s.xlate (uMov 3) 1 0x1000 64 rWrite) (· == [⟨0x1000, s.me, directBase + 0x1000, 64⟩]) &&
      okWith (s1.xlate (uMov 3) 1 0x1000 64 rWrite) (· == [⟨0x1000, s.me, directBase + 0x1000, 64⟩]) &&
      okWith (s.homeRead (d.by s) directBase 64) (fun g => g.poison.isNone && g.bytes.length == 64 && okWith (s1.homeWrite (d.by s1) (directBase + 0x1000) g.bytes false) (fun w =>
        w.descs == s.descs && w.fld f_XL_MIG_CTL_ENABLE == 0 && w.fld f_SCR_CTL_ENABLE == 0))) = true ∧
    directBase + 64 ≤ directBase + 0x1000 ∧ ends (after (.move 1 2 5 []) s) stOk 1 = true ∧
    (after (.move 1 2 5 []) s).mem = [(directBase + 63, 0xAA#8), (directBase + 0x103F, 0xAA#8)] ∧ s.fld f_FLT_LOG_RING_LOG2 = 0 ∧
    ends (after (.move 1 2 5 [0, 0]) s) eIntegrity 0 = true ∧ (after (.move 1 2 5 [0, 0]) s).mem = s.mem := by decide +kernel

/-- `GATHER` of one row by address 0: zeros. -/
def gathering : State := eng (dEng (raw64 0x28 [(32, leBytes 8 0 ++ leBytes 8 0x1000 ++ leBytes 4 1 ++ [2, 8] ++ leBytes 2 8 ++ leBytes 4 16)]) 0x20) [] (cellsWrite [] (directBase + 0x1000) [1])

theorem test_gather_address : let s := gathering
    let u := { s with descs := s.descs.map (fun d => { d with work := 5, plan := [(keepIdx, leBytes 8 0)] }) }
    u.descs.all (fun d => d.op == 0x28 && d.gMode == 2 && ranD (u.gatherRun d d.addrRows) u stOkShort) = true ∧ ends (after (.gather 1 2 5) u) stOkShort 1 = true ∧
    ends (after (.gather 1 2 5) s) stOkShort 1 = true ∧ (after (.gather 1 2 5) s).mem = [] := by decide +kernel

/-- A table at the start of region 3: one row of four FP32 elements, version 5, one shard, the region itself; the row at offset 1024. -/
def table3 : Cells := cellsWrite (cellsWrite (cellsWrite (cellsWrite [] 0 ([0, 0, 4, 0, 0, 0, 0, 0] ++ leBytes 8 1 ++ leBytes 8 1024 ++ leBytes 8 0 ++ leBytes 4 16 ++ leBytes 12 0 ++
  leBytes 4 5 ++ leBytes 4 0 ++ leBytes 8 512)) 512 ([0, 0, 1, 0, 0, 0, 0, 0] ++ leBytes 8 1)) 576 ([0, 0, 0, 0, 3, 0, 0, 0])) 1024 (leBytes 4 0x3F800000)

def lookup (mode work : Nat) : State :=
  eng { dEng (raw64 0x28 [(16, ref3 0), (40, leBytes 8 0x1000 ++ leBytes 4 1 ++ [byte mode, 8] ++ leBytes 2 8)]) 0x20 with work := work } table3 []

/-- What a lookup of its row has read: root, vector, index, entry. -/
def looked : State := let s := lookup 1 5; { s with descs := s.descs.map (fun d => { d with
  pins := [⟨3, none, []⟩]
  plan := [(keepRoot, cellsRead table3 0 256), (keepVec, cellsRead table3 512 64), (keepIdx, leBytes 8 0), (keepShard 0, cellsRead table3 576 16)] }) }

theorem test_gather_table : let s := looked; let p := lookup 0 1; let bad := { lookup 1 0 with frames := [frameOf 1 (cellsWrite table3 0 [9]), frameOf 2 []] }
    s.descs.all (fun d => d.gMode != 2 && d.work == 5 && ranD (s.gatherRun d d.tableRows) s stOk) = true ∧ ends (after (.gather 1 2 5) s) stOk 1 = true ∧
    ends (after (.gather 1 2 5) (lookup 1 0)) stOk 1 = true ∧ cellsRead (after (.gather 1 2 5) (lookup 1 0)).mem (directBase + 0x1000) 4 = leBytes 4 0x3F800000 ∧
    bad.descs.all (fun d => okWith (bad.glnRoot d) (fun x => match x with | .error f => f == ⟨eRange, 2, 0⟩ | .ok _ => false)) = true ∧
    ends (after (.gather 1 2 5) bad) eRange 0 = true ∧ p.descs.all (fun d => d.gMode == 0 && d.work == 1) = true ∧
    ends (after (.pinTimeout 1 2 5) p) eTimeout 0 = true ∧ (after (.pinTimeout 1 2 5) p).fld f_GLN_ERR_PIN_TIMEOUTS = 1 := by decide +kernel

/-- An update of that row by one block at 0x2000: entry 0 is row 0 with the FP32 element 2. -/
def updating (off work : Nat) : State :=
  let raw := raw64 0x29 [(16, ref3 off), (40, [1, 0, 0, 0, 0, 0])] ++ leBytes 8 0 ++ leBytes 8 0x2000 ++ List.replicate 48 0#8
  let s := eng { dEng raw 0x20 with work := work, units := 2 } table3 (cellsWrite (cellsWrite [] (directBase + 0x2000) (leBytes 8 1 ++ leBytes 4 0 ++ leBytes 4 1 ++ [4, 0, 0, 8]))
    (directBase + 0x2080) (leBytes 4 0x40000000))
  { s with queues := if work = 0 then [] else [⟨shardQueue 3, ⟨1, 2, 5⟩⟩] }

/-- The first phase passes; `p` holds of the descriptor with what it keeps. -/
def planned (s : State) (p : Desc → Bool) : Bool := s.descs.all (fun d => okWith (s.blockAddrs d) (fun x => match x with
  | .ok as => okWith (s.scatterTable d) (fun e => match e with
    | .go table => okWith (s.scatterBlocks d as table) (fun y => match y with
      | .go kept => p { d with plan := kept, work := 1 }
      | _ => false)
    | _ => false)
  | .error _ => false))

/-- The same update past its first phase. -/
def updating1 : State := let s := updating 0 1; { s with descs := s.descs.map (fun d => { d with
  plan := [(0, cellsRead table3 0 256), (1, cellsRead table3 512 64), (2, cellsRead table3 576 16), (0x2000, cellsRead s.mem (directBase + 0x2000) 64)] }) }

theorem test_scatter : let s := updating 0 0; let u := updating1
    planned s (fun d => decide (s.bufUsed 1 + d.planOf.buf ≤ s.atwBytes 1) && d.planOf.region == 3 && !d.unordered) = true ∧
    ((after (.scatterUpdate 1 2 5) s).queues, (after (.scatterUpdate 1 2 5) s).descs.map (fun d => (d.work, d.buf))) = ([⟨shardQueue 3, ⟨1, 2, 5⟩⟩], [(1, 65552)]) ∧
    planned (poke s [(f_SLC_SHARE_ATW_64K, 1, 2)]) (fun d => decide ((poke { s with descs := s.descs.map (fun d => { d with buf := 131072 }) } []).bufUsed 1 + d.planOf.buf > 131072)) = true ∧
    u.descs.all (fun d => d.work != 0 && ran (u.scatterRun d d.planOf) u stOk) = true ∧ ends (after (.scatterUpdate 1 2 5) u) stOk 1 = true ∧
    (after (.scatterUpdate 1 2 5) u).queues = [] ∧
    (((after (.scatterUpdate 1 2 5) u).frame 1).map (fun f => cellsRead f.data 1024 4)) = some (leBytes 4 0x40000000) := by decide +kernel

theorem test_scatter_record : let s := updating 256 0
    s.descs.all (fun d => okWith (s.scatterTable d) (fun e => match e with
      | .record f => f == ⟨eRange, 2, 256⟩
      | _ => false)) = true ∧ ends (after (.scatterUpdate 1 2 5) s) eRange 0 = true := by decide +kernel

/-- A block at an address that is not aligned, and one whose row number is none of the table. -/
theorem test_scatter_blocks : let s := updating 0 0; let a := { s with
      descs := s.descs.map (fun d => { d with raw := d.raw.take 32 ++ leBytes 8 0x3000 ++ d.raw.drop 40 }), mem := cellsWrite s.mem (directBase + 0x3000) (leBytes 8 0x2020) }
    let b := { s with mem := cellsWrite s.mem (directBase + 0x2010) [5] }
    a.descs.all (fun d => d.work == 0 && okWith (a.blockAddrs d) (fun x => match x with | .error p => p == 0x3000 | .ok _ => false)) = true ∧ ends (after (.scatterUpdate 1 2 5) a) eAlign 0 = true ∧
    (after (.scatterUpdate 1 2 5) a).descs.map (fun d => (d.started, d.engine)) = [(false, 0xF0)] ∧
    b.descs.all (fun d => okWith (b.scatterTable d) (fun e => match e with
      | .go table => okWith (b.scatterBlocks d [0x2000] table) (fun y => match y with | .block f => f.status == eRange | _ => false)
      | _ => false)) = true ∧ ends (after (.scatterUpdate 1 2 5) b) eRange 0 = true ∧ (after (.scatterUpdate 1 2 5) b).fld f_GLN_ERR_BLOCK_REJECTS = 1 := by decide +kernel

/-- An append of one FP32 position to one head of 64 elements in BF16. -/
def appending (cap : Nat) (q : List Queue) : State :=
  let stream := cellsWrite [] 0 ([1, 0, 64, 0, 0, 0, 0, 0, byte cap, 0, 0, 0] ++ List.replicate 20 0#8 ++ leBytes 8 65536 ++ leBytes 8 0 ++ leBytes 8 256)
  { eng (dEng (raw64 0x10 [(16, ref3 0), (40, [1, 1, 1, 0])]) 0) stream (cellsWrite [] (directBase + 127) [0x3F]) with queues := q }

theorem test_append : let k : DKey := ⟨1, 2, 5⟩; let s := appending 1 [⟨3, k⟩]
    (appending 1 []).queues.any (fun x => x.key == k) = false ∧ (after (.kvAppend 1 2 5) (appending 1 [])).queues = [⟨3, k⟩] ∧
    s.queues.any (fun x => x.key == k) = true ∧ (appending 1 [⟨3, ⟨1, 2, 4⟩⟩, ⟨3, k⟩]).queues.find? (fun x => x.what == 3) = some ⟨3, ⟨1, 2, 4⟩⟩ ∧
    s.descs.all (fun d => d.work == 0 && okWith (s.refPin (rrefAt d.raw 16)) (fun p => okWith (s.appendChecks d p) (fun ts =>
      okWith (gather (ts.map (fun t => (s.verRead p t.off 256).map (fun raw => (t.off, raw))))) (fun raws =>
        let e := { d with work := 1, plan := raws }; ranD ((s.setDesc e).appendRun e p e.appendTo) (s.setDesc e) stOk)))) = true := by decide +kernel

theorem test_append_runs : let k : DKey := ⟨1, 2, 5⟩; let t := after (.kvAppendExecute 1 2 5) (appending 1 [⟨3, k⟩])
    ends t stOk 1 = true ∧ t.queues = [] ∧ ((t.frame 1).map (fun f => leAt (cellsRead f.data 16 8) 0 8)) = some 1 := by decide +kernel

theorem test_append_refused : let k : DKey := ⟨1, 2, 5⟩; let s := appending 0 [⟨3, k⟩]
    s.descs.all (fun d => okWith (s.refPin (rrefAt d.raw 16)) (fun p => failsWith (s.appendChecks d p) ⟨eRange, 2, 0⟩)) = true ∧
    ends (after (.kvAppendExecute 1 2 5) s) eRange 0 = true ∧ (after (.kvAppendExecute 1 2 5) s).queues = [] ∧
    (after (.kvAppendExecute 1 2 5) s).descs.map (·.started) = [false] := by decide +kernel

/-- An append that has judged its records appends by them. -/
theorem test_append_goes_on : let k : DKey := ⟨1, 2, 5⟩; let s := appending 1 [⟨3, k⟩]
    let u := { s with descs := s.descs.map (fun d => { d with work := 1, plan := [(0, cellsRead ((s.frame 1).map (·.data)).get! 0 256)] }) }
    u.descs.all (fun d => d.work != 0 && okWith (u.refPin (rrefAt d.raw 16)) (fun p => ranD (u.appendRun d p d.appendTo) u stOk)) = true ∧
    ends (after (.kvAppendExecute 1 2 5) u) stOk 1 = true := by decide +kernel

/-! ### Home operations (VersionOperations, PlaceOperations, PublishAndInvalidate) -/

/-- A home operation of slice 1 on region 3, with the retained versions given. -/
def homing (raw : List Byte) (f : Region → Region) : State := { eng (dEng raw 0xF8) table3 [] with regions := [f region3] }

def v5 : Version := ⟨5, [(1, 2)]⟩

/-- What a version operation of this ZV9 asks of the state. -/
def acts (s : State) (op : Nat) : Bool := s.alive && s.descs.all (fun d => d.op == op && d.phase == .running && d.stop.isNone && d.origin.isNone &&
  d.at (homeNodeOff op) 2 == s.me && okWith (checks (homeForm d.raw ++ s.homeEpoch d)) (fun _ => true) && okWith (checks (s.regionChecks d 3)) (fun _ => true))

def snap (o v : Nat) : List Byte := raw64 0x30 [(20, leBytes 4 3 ++ [byte o, 0, 0, 0] ++ leBytes 4 v)]

theorem test_cut : let s := homing (snap 0 0) id; let q := homing (snap 0 0) (fun r => { r with retained := List.replicate 16 v5 })
    let w := homing (snap 0 0) (fun r => { r with writeLost := true })
    let late := { s with bankQ := [⟨{ org := .txn 0 0, op := .write [1] false, addr := region3.base, slice := 1, node := 0 }, 0⟩] }
    late.writeQueued region3.base (region3.size * 65536) = true ∧ (after (.cut 1 2 5) late).descs = s.descs ∧ s.writeQueued region3.base (region3.size * 65536) = false ∧
    acts s 0x30 = true ∧ s.region 3 = some region3 ∧ region3.retained.length < 16 ∧ region3.lastCut < 2 ^ 32 - 1 ∧ region3.writeLost = false ∧
    ends (after (.cut 1 2 5) s) stOk 1 = true ∧ ((after (.cut 1 2 5) s).region 3).map (fun r => (r.lastCut, r.retained)) = some (8, [⟨8, [(0, 1), (1, 2)]⟩]) ∧
    acts q 0x30 = true ∧ ends (after (.cut 1 2 5) q) eQuota 0 = true ∧ acts w 0x30 = true ∧ ends (after (.cut 1 2 5) w) eIntegrity 0 = true := by decide +kernel

theorem test_versions : let keep := fun r : Region => { r with retained := [v5], published := 4 }; let b := homing (snap 1 5) keep; let e := homing (snap 2 5) keep
    let p := homing (snap 2 5) (fun r => { r with retained := [v5], published := 5 })
    acts b 0x30 = true ∧ (keep region3).version 5 = some v5 ∧ b.dir = [] ∧ b.sweeps = [] ∧
    ((after (.rollback 1 2 5) b).region 3).map (·.working) = some [(1, 2)] ∧ ((after (.rollback 1 2 5) b).frames.map (·.id)) = [2] ∧
    acts e 0x30 = true ∧ (keep region3).published ≠ 5 ∧ ends (after (.release 1 2 5) e) stOk 1 = true ∧ ((after (.release 1 2 5) e).region 3).map (·.retained) = some [] ∧
    acts p 0x30 = true ∧ ends (after (.release 1 2 5) p) ePerm 0 = true := by decide +kernel

theorem test_publish : let raw := raw64 0x31 [(20, leBytes 4 3 ++ leBytes 4 4 ++ leBytes 4 5)]; let s := homing raw (fun r => { r with retained := [v5], published := 4 })
    let x := homing raw (fun r => { r with retained := [v5], published := 3 })
    acts s 0x31 = true ∧ s.descs.all (fun d => d.at 24 4 == 4 && d.at 28 4 == 5) = true ∧ ends (after (.regionPublish 1 2 5) s) stOk 1 = true ∧
    ((after (.regionPublish 1 2 5) s).region 3).map (·.published) = some 5 ∧ acts x 0x31 = true ∧ ends (after (.regionPublish 1 2 5) x) eVersion 0 = true := by decide +kernel

def place (o tier num : Nat) (xs : List (Nat × List Byte)) : List Byte := raw64 0x38 ([(18, [byte o, byte tier]), (20, leBytes 4 num)] ++ xs)

theorem test_place_create : let base := directBase + gib + 131072
    let s := homing (place 0 1 4 [(24, leBytes 8 base ++ leBytes 4 2), (44, [1])]) id
    s.revoked = [] ∧ s.permitted s.me 1 1 = true ∧ s.fld f_AS_RGN_SIZE_LOG2_ENTRIES ≠ 0 ∧ 4 < 2 ^ s.fld f_AS_RGN_SIZE_LOG2_ENTRIES ∧ (∀ x ∈ s.regions, x.num ≠ 4) ∧
    s.configured 1 = true ∧ base % 65536 = 0 ∧ s.regionRange base 131072 = true ∧
    (∀ x ∈ s.regions, x.deleting = false → base + 131072 ≤ x.base ∨ x.base + x.size * 65536 ≤ base) ∧
    s.descs.all (fun d => d.op == 0x38 && d.at 18 1 == 0 && d.at 19 1 != 3 && okWith (checks (homeForm d.raw ++ s.homeEpoch d)) (fun _ => true)) = true ∧
    ends (after (.placeCreate 1 2 5) s) stOk 0 = true ∧ ((after (.placeCreate 1 2 5) s).regions.map (·.num)) = [3, 4] ∧
    (after (.placeCreate 1 2 5) s).fld f_AS_RGN_STATUS_LIVE = 2 := by decide +kernel

/-- Home operations with a reserved byte, and of an epoch that has gone. -/
theorem test_home_refused : let s := homing (raw64 0x30 [(20, leBytes 4 3 ++ [0, 0, 0, 0] ++ leBytes 4 0), (18, [1])]) id; let u := poke (homing (snap 0 0) id) [(f_QF_STATE_EPOCH, 0, 9)]
    s.descs.all (fun d => failsWith (checks (homeForm d.raw ++ s.homeEpoch d)) ⟨eFormat, 3, 18⟩) = true ∧ ends (after (.cut 1 2 5) s) eFormat 0 = true ∧
    u.descs.all (fun d => okWith (checks (homeForm d.raw)) (fun _ => true) && d.epoch != u.epoch && !u.grace && failsWith (checks (homeForm d.raw ++ u.homeEpoch d)) ⟨eStaleEpoch, 6, 9⟩) = true ∧
    u.fenced = false ∧ ends (after (.cut 1 2 5) u) eStaleEpoch 0 = true := by decide +kernel

theorem test_place_delete : let s := homing (place 1 0 3 []) id
    acts s 0x38 = true ∧ s.dir = [] ∧ s.sweeps = [] ∧ (after (.placeDelete 1 2 5) s).regions = [] ∧ (after (.placeDelete 1 2 5) s).frames = [] ∧
    ((after (.placeDelete 1 2 5) s).descs.map (fun d => (d.phase, d.status))) = [(.ended, stOk)] := by decide +kernel

/-- Tile 1 of an empty region 3 goes to tier 2. -/
theorem test_move_tier : let s := { homing (place 2 2 3 [(36, leBytes 4 1 ++ leBytes 4 1)]) (fun r => { r with working := [] }) with frames := [] }; let r := { region3 with working := [] }
    acts s 0x38 = true ∧ s.region 3 = some r ∧ s.descs.all (fun d => d.work == 0 && d.progress == 0 && d.moving == []) = true ∧ 1 + 1 ≤ r.size ∧
    s.mediaWait = [] ∧ (after (.moveTier 1 2 5 []) { s with mediaWait := [6] }).descs = s.descs ∧ s.mayAlloc 1 2 0 0 = true ∧ r.tileFrames 1 false = [] ∧ ends (after (.moveTier 1 2 5 []) s) stOk 1 = true ∧
    ((after (.moveTier 1 2 5 []) s).region 3).map (fun r => (look r.target r.targets 0, look r.target r.targets 1)) = some ((1, 0), (2, 0)) := by decide +kernel

theorem test_writeback : let s := homing (raw64 0x39 [(20, leBytes 4 3 ++ leBytes 4 0 ++ leBytes 4 2)]) id
    acts s 0x39 = true ∧ s.descs.all (fun d => d.work == 0 && d.progress == 0 && d.moving == [] && !bit (d.at 18 1) 0 && !bit (d.at 18 1) 1) = true ∧
    (∀ i < 2, ∀ f ∈ s.tileFrame (.rgn 3 i), f.slow = false) ∧ ends (after (.writeback 1 2 5 []) s) stOk 2 = true := by decide +kernel

/-- The table of region 3 goes from version 5 to 6, with the same vector. -/
def publishing (old : Nat) : State := homing (raw64 0x2A [(16, leBytes 6 0 ++ leBytes 2 0 ++ leBytes 4 3 ++ leBytes 4 0 ++ leBytes 4 old ++ leBytes 4 6 ++ leBytes 8 512)]) id

theorem test_table_publish : let s := publishing 5; let s0 := s.bankEngine ⟨1, 2, 5⟩ region3.base; let x := publishing 4
    s.descs.all (fun d => d.op == 0x2A && d.at 22 2 == s.me && okWith (checks (homeForm d.raw ++ s.homeEpoch d)) (fun _ => true) && d.at 32 4 == 5 && d.at 36 4 == 6) = true ∧
    s.region 3 = some region3 ∧ s.revoked = [] ∧ s.permitted s.me 1 1 = true ∧
    okWith (s0.publishRecords region3 0 512) (fun x => match x with
      | .ok r => r.version == 5
      | .error _ => false) = true ∧
    okWith (s0.rgnWrite 3 48 (leBytes 4 6)) (fun a => okWith (a.rgnWrite 3 56 (leBytes 8 512)) (fun b => okWith (b.rgnWrite 3 64 (leBytes 8 s.now)) (fun u => u.descs == s0.descs))) = true ∧
    ends (after (.tablePublish 1 2 5) s) stOk 1 = true ∧ (((after (.tablePublish 1 2 5) s).frame 1).map (fun f => cellsRead f.data 48 4)) = some (leBytes 4 6) ∧
    ends (after (.tablePublish 1 2 5) x) eVersion 0 = true := by decide +kernel

/-- An `INVAL` of one page of slice 1 takes the leaf that covers it and leaves slice 2's. -/
theorem test_inval : let s := { eng (dEng (raw64 0x3A [(16, leBytes 8 0x1000 ++ leBytes 8 0x1000 ++ [1])]) 0xF0) [] [] with
      xlCache := [⟨69, 1, 0, .leaf ⟨0, directBase, 15, 2, false⟩⟩, ⟨69, 2, 0, .leaf ⟨0, directBase, 15, 2, false⟩⟩, ⟨3, 1, 0x2000, .leaf ⟨0, directBase, 15, 0, false⟩⟩] }
    s.descs.all (fun d => d.op == 0x3A && d.stop.isNone && d.at 33 1 == 0 && d.at 32 1 == 1) = true ∧ s.invals = [] ∧ s.outReqs = [] ∧ s.txns = [] ∧
    ends (after (.inval 1 2 5) s) stOk 1 = true ∧ ((after (.inval 1 2 5) s).xlCache.map (fun e => (e.unit, e.slice))) = [(69, 2), (3, 1)] ∧
    (after (.inval 1 2 5) s).fld f_XL_INVAL_STAT_DONE = 1 := by decide +kernel

/-! ### Memory and requests of the fabric (PlainMemory, FabricRequests, PacketsOnTheWay, FabricAnswers) -/

/-- Node 0 of the map, boot complete, four bytes in the direct part; the leaf of slice 1's addresses 0 to 2 MiB caches. -/
def home : State :=
  { poke ready [(f_QF_PORT_STATE, 0, 2), (f_QF_STATE_FORMED, 0, 1), (f_QF_STATE_EPOCH, 0, 1), (f_AS_NODE_VALID, 0, 1), (f_REEVE_CFG_SETS_LOG2, 0, 10),
      (f_REEVE_CFG_HOLD_NS, 0, 640), (f_KL_PORT_STATE, 0, 2), (f_KL_PORT_BOUND_SLICE, 0, 1), (f_KL_PORT_STREAMS, 0, 4), (f_KL_PORT_CLASS, 0, 1)] with
    mapCur := some { map2 with nodes := [node 0 100 .live, { node 1 101 .live with caching := 1 }] }, mem := cellsWrite [] directBase [1, 2, 3, 4], klClients := [⟨0, 77, 0, 0, 0, 0x100000000, ⟨0, 0, 0, 0, 0, 0⟩⟩]
    xlCache := [⟨64, 1, 0, .leaf ⟨0, directBase, 15, 2, false⟩⟩] }

def opens (s : State) (a n : Nat) : Bool := Memory.wf s.mem && canon resetWord s.regs && !inSetup a && s.revoked == [] && s.dir == [] && s.fillQ == [] &&
  s.bankQ == [] && !s.inPtArea a n && (List.range n).all (fun i => s.placeOf (a + i) == .scratch || s.placeOf (a + i) == .direct)

def pk (typ tc addr aux : Nat) (payload : List Byte) : QPkt := { qp with typ := typ, tc := tc, epoch := 1, addr := addr, aux := aux, payload := payload }

/-- What `admits` asks. -/
def lets (s : State) (p : QPkt) (tc : Nat) : Bool := p.dest == s.me && p.rsvd == 0 && p.tc == tc && s.member p.src && s.fencedSrc p.src == none && s.epochOk p.epoch

/-- The packet that a command puts last on the output queues. -/
def sent (t : State) : Option QPkt := t.queue.getLast?.bind (fun q => match q.pkt with
  | .qf p => some p
  | _ => none)

def sentKl (t : State) : Option KPkt := t.queue.getLast?.bind (fun q => match q.pkt with
  | .kl p => some p
  | _ => none)

def shows (t : State) (typ : Nat) (payload : List Byte) : Bool := (sent t).any (fun q => q.typ == typ && q.payload == payload && q.dest == 1 && q.tag == 7)

theorem test_plain : let b : By := ⟨0, 1, false⟩; let a := directBase
    opens home a 4 = true ∧ home.poison = [] ∧ okWith (home.homeRead b a 4) (fun g => g.bytes == [1, 2, 3, 4]) = true ∧
    okWith (home.homeWrite b (a + 2) [9] false) (fun t => cellsRead t.mem a 4 == [1, 2, 9, 4]) = true ∧ tallyWidth 0 0 = some 4 ∧
    okWith (home.homeAtomic b 0 0 a [255, 0, 0, 0]) (fun x => x.2 == [1, 2, 3, 4] && cellsRead x.1.mem a 4 == [0, 3, 3, 4] && x.1.fld f_TALLY_OPS_OPS == 1) = true := by
  decide +kernel

theorem test_fabric_data : let s := home; let a := directBase; let r := pk 0x01 2 a 4 []; let w := pk 0x03 4 a 0 [7]; let br := { pk 0x07 5 a 4 [] with rref := none }
    let bw := pk 0x08 5 a 0 [7]
    s.alive = true ∧ s.inputWaits r = false ∧ inSetup a = false ∧ lets (s.takeRx (.qf r)) r 2 = true ∧ shows (after (.qfRead r []) s) 0x02 [1, 2, 3, 4] = true ∧
    shows (after (.qfWrite w) s) 0x04 [] = true ∧ cellsRead (after (.qfWrite w) s).mem a 2 = [7, 2] ∧ shows (after (.bulkRead br []) s) 0x02 [1, 2, 3, 4] = true ∧
    shows (after (.bulkWrite bw) s) 0x04 [] = true ∧ cellsRead (after (.bulkWrite bw) s).mem a 2 = [7, 2] := by decide +kernel

theorem test_fabric_atomics : let s := home; let a := directBase; let at_ := fun (c : Req → Instr) aux bs => after (c (.peer (pk 0x05 4 a aux bs))) s
    s.bankFull a = false ∧ shows (at_ .atomicAdd 0 [1, 0, 0, 0]) 0x06 [1, 2, 3, 4] = true ∧ cellsRead (at_ .atomicAdd 0 [1, 0, 0, 0]).mem a 4 = [2, 2, 3, 4] ∧
    cellsRead (at_ .atomicMin 1 [1, 0, 0, 0]).mem a 4 = [1, 0, 0, 0] ∧ cellsRead (at_ .atomicMax 2 [0, 0, 0, 5]).mem a 4 = [0, 0, 0, 5] ∧
    cellsRead (at_ .atomicCas 0x53 [1, 2, 3, 4, 0, 0, 0, 0, 8, 8, 8, 8, 0, 0, 0, 0]).mem a 4 = [8, 8, 8, 8] := by decide +kernel

theorem test_fabric_judged : let s := home; let r := pk 0x01 2 directBase 4 []; let m := { map2 with nodes := [node 0 100 .live, { node 1 101 .fenced with since := 1 }] }
    (after (.qfRead { r with rsvd := 5 } []) s).fld f_QF_CNT_MALFORMED = 1 ∧ shows (after (.qfRead { r with rsvd := 5 } []) s) 0x0F (leBytes 8 5) = true ∧
    shows (after (.qfRead { r with tc := 3 } []) s) 0x0F (leBytes 8 9) = true ∧ ({ s with mapCur := some m }).fencedSrc 1 = some 1 ∧
    (s.takeRx (.qf { r with src := 9 })).member 9 = false ∧ (after (.qfRead { r with src := 9 } []) s).queue = s.queue ∧
    (after (.qfRead r []) { s with mapCur := some m }).fld f_QF_ERR_FENCED_REJECTS = 1 ∧ s.epochOk 2 = false ∧
    (after (.qfRead { r with epoch := 2 } []) s).fld f_QF_ERR_STALE_REJECTS = 1 ∧ shows (after (.qfRead { r with epoch := 2 } []) s) 0x0F (leBytes 8 1) = true := by
  decide +kernel

theorem test_forward : let m := { map2 with nodes := map2.nodes ++ [node 2 102 .live], links := [⟨0, 0, 1, 0⟩, ⟨0, 1, 2, 0⟩] }
    let s := { poke home [(f_QF_PORT_STATE, 1, 2)] with mapCur := some m }; let p := { pk 0x01 2 0 4 [] with dest := 2 }; let x := { p with dest := 9 }
    let rx := fun (k : Pkt) => ({ s with rx := [(4, k)] } : State); let a : Pkt := .map 1 2 1 .probe 1 0 5
    s.fenced = false ∧ s.outPort 1 1 0 = some (0, true) ∧ s.outPort 1 2 0 = some (1, true) ∧ (rx (.qf p)).firstIn 4 (.qf p) = true ∧
    (after (.packetForward 4 (.qf p)) (rx (.qf p))).queue = [⟨4, 5, .qf { p with hops := 2, dl := 1 }, some 2⟩] ∧ (after (.packetForward 4 (.qf p)) (rx (.qf p))).rx = [] ∧
    s.outPort 1 9 0 = none ∧ x.isResponse = false ∧ (s.mapOf 1).isSome = true ∧ shows (after (.packetForward 4 (.qf x)) (rx (.qf x))) 0x0F (leBytes 8 9) = true ∧
    (sent (after (.packetForward 4 (.qf x)) (rx (.qf x)))).map (fun q => q.aux % 256) = some eDeadTarget ∧
    (after (.packetForward 4 a) (rx a)).queue = [⟨4, 5, .map 1 2 1 .probe 2 1 5, some 2⟩] ∧
    (rx (.qf x)).firstIn 4 (.qf p) = false ∧ after (.packetForward 4 (.qf p)) (rx (.qf x)) = rx (.qf x) := by decide +kernel

theorem test_home_op : let raw := raw64 0x30 [(20, leBytes 4 3 ++ [byte 0, 0, 0, 0])]; let p := pk 0x09 4 0 0x30 raw
    lets (home.takeRx (.qf p)) p 4 = true ∧ isHomeOp 0x30 = true ∧ leAt raw (homeNodeOff 0x30) 2 = 0 ∧ home.desc ⟨65, 1, 7⟩ = none ∧
    (after (.homeOp p) home).descs.map (fun d => (d.key, d.phase, d.origin.isSome)) = [(⟨65, 1, 7⟩, .running, true)] := by decide +kernel

/-- A request of a running descriptor is outstanding at node 1. -/
def asking (typ tc aux : Nat) : State := { home with
  descs := [dAt 5 (raw64 0x02 []) .running], outReqs := [⟨{ pk typ tc 0 aux [] with dest := 1, src := 0, tag := 7 }, .desc ⟨1, 2, 5⟩ 0, 1, 0, [], false⟩] }

theorem test_answers : let r := pk 0x02 3 0 0 [1, 2]; let w := pk 0x04 3 0 0 []; let a := pk 0x06 3 0 0 [1, 2, 3, 4]; let e := pk 0x0F 3 0 0x210 (leBytes 8 77)
    let st := pk 0x0F 3 0 (eStaleEpoch + 6 * 256) (leBytes 8 1); let s := asking 0x01 2 2
    s.invals = [] ∧ s.outReqs.all (fun o => o.sends != 0) = true ∧ s.descs.all (fun d => d.stop == none) = true ∧ s.fld f_SCR_CTL_ENABLE = 0 ∧
    ((s.takeRx (.qf r)).outReq 7 1).isSome = true ∧ (after (.readRsp r) s).descs.map (fun d => d.fetched.map (·.bytes)) = [[[1, 2]]] ∧
    (after (.readRsp r) s).outReqs = [] ∧ (after (.writeAck w) (asking 0x03 4 0)).outReqs = [] ∧ (after (.atomicRsp a) (asking 0x05 4 0)).outReqs = [] ∧
    rspClass 0x01 = 3 ∧ (after (.errResponse e) s).descs.map (fun d => d.fetched.map (fun g => (g.status, g.kind, g.detail))) = [[(0x10, 2, 77)]] ∧
    (s.takeRx (.qf st)).refuseTo 1 0 = none ∧ (after (.errResponse st) s).outReqs.map (·.sends) = [2] ∧ (after (.readRsp r) home).fld f_QF_ERR_LATE_RSP = 1 ∧
    (after (.requestTimerExpiry 7) s).fld f_QF_CNT_EXPIRIES = 1 ∧ (after (.requestTimerExpiry 7) s).descs.map (fun d => d.fetched.map (·.status)) = [[eDeadTarget]] := by
  decide +kernel

theorem test_home_answer : let s := asking 0x09 4 0x30; let ok := pk 0x0A 3 0 0 (leBytes 4 6 ++ List.replicate 12 0#8); let no := pk 0x0A 3 0 eQuota (List.replicate 16 0#8)
    ends (after (.homeRsp ok) s) stOk 6 = true ∧ ends (after (.homeRsp { no with aux := 0x10 }) s) 0x10 0 = true ∧ ends (after (.homeRsp no) s) eQuota 0 = true := by
  decide +kernel

/-! ### Clients and coherence (ClientRequests, ReeveRequests, ReeveAnswers, ReeveTimers) -/

def ck (typ tc aux addr : Nat) (payload : List Byte) : KPkt := { kp with typ := typ, tc := tc, aux := aux, addr := addr, payload := payload }

/-- The response of a client's request: type, status and payload. -/
def answers (t : State) (typ st : Nat) (bs : List Byte) : Bool := (sentKl t).any (fun q => q.typ == typ && q.tag == 9 && q.status == st && q.payload == bs)

theorem test_client : let s := { home with xlCache := [⟨64, 1, 0, .leaf ⟨0, directBase, 15, 2, false⟩⟩] }; let l := ck 0x01 2 4 0 []; let w := ck 0x03 4 0 2 [9]
    let a := ck 0x05 4 0 0 [1, 0, 0, 0]; let y := { ck 0x07 4 0 0 [] with sync := 1 }
    s.alive = true ∧ s.klUp 0 = true ∧ s.held = [] ∧ l.badByte 4 = none ∧ w.badByte 4 = none ∧ a.badByte 4 = none ∧ y.badByte 4 = none ∧ s.bound 0 = some 1 ∧
    s.fldAt f_SLC_STATUS_BUSY 1 = 0 ∧ s.mine 0 0 = [] ∧ answers (after (.clientRead 0 l []) s) 0x02 stOk [1, 2, 3, 4] = true ∧
    answers (after (.clientWrite 0 w []) s) 0x04 stOk [] = true ∧ cellsRead (after (.clientWrite 0 w []) s).mem directBase 4 = [1, 2, 9, 4] ∧
    answers (after (.atomicAdd (.client 0 a)) s) 0x06 stOk [1, 2, 3, 4] = true ∧ answers (after (.syncAcquire 0 y) s) 0x08 stOk [] = true ∧
    answers (after (.syncRelease 0 { y with sync := 2 }) s) 0x08 stOk [] = true ∧ answers (after (.syncFull 0 { y with sync := 3 }) s) 0x08 stOk [] = true := by
  decide +kernel

theorem test_client_atomics : let a := fun aux bs => ck 0x05 4 aux 0 bs; let m := fun (c : Instr) => cellsRead (after c home).mem directBase 4
    m (.atomicMin (.client 0 (a 1 [1, 0, 0, 0]))) = [1, 0, 0, 0] ∧ m (.atomicMax (.client 0 (a 2 [0, 0, 0, 5]))) = [0, 0, 0, 5] ∧
    m (.atomicCas (.client 0 (a 0x53 [1, 2, 3, 4, 0, 0, 0, 0, 8, 8, 8, 8, 0, 0, 0, 0]))) = [8, 8, 8, 8] := by decide +kernel

theorem test_client_judged : let l := ck 0x01 2 4 0 []; let s := { home with xlCache := [⟨64, 1, 0, .leaf ⟨0, directBase, 0, 2, false⟩⟩] }
    ({ l with tc := 3 }).badByte 4 = some 3 ∧ answers (after (.clientRead 0 { l with tc := 3 } []) home) 0x02 eFormat [255, 255, 255, 255] = true ∧
    (after (.clientRead 0 { l with tc := 3 } []) home).fldAt f_KL_PORT_ERR_MALFORMED 0 = 1 ∧ (poke home [(f_KL_PORT_BOUND_SLICE, 0, 0xFF)]).bound 0 = none ∧
    answers (after (.clientRead 0 l []) (poke home [(f_KL_PORT_BOUND_SLICE, 0, 0xFF)])) 0x02 ePerm [255, 255, 255, 255] = true ∧
    failsWith (s.xlate 64 1 0 4 rRead) ⟨ePerm, 2, 0⟩ = true ∧ answers (after (.clientRead 0 l []) s) 0x02 ePerm [255, 255, 255, 255] = true := by decide +kernel

/-- Line 2^34 of the direct part, the first of slice 1. -/
def line0 : Nat := directBase / 64

/-- A directory entry of that line. -/
def ent (st : DState) (hs : List (Nat × Nat)) (hold asked : Nat) (aw : List (Nat × Nat)) (c : DCause) : DirEntry :=
  { line := line0, way := 0, state := st, coarse := false, ptrs := hs, groups := 0, holdUntil := hold, nru := false, awaiting := aw, asked := asked, cause := c }

def held (e : DirEntry) : State := { home with dir := [e] }

def st0 (t : State) : Option (DState × List (Nat × Nat)) := (t.entry line0).map (fun e => (e.state, e.ptrs))

def rs (typ : Nat) : QPkt := pk typ 0 directBase 0xFFFFFFFF []

theorem test_coherent_grants : let s := home
    lets (s.takeRx (.qf (rs 0x10))) (rs 0x10) 0 = true ∧ s.dirSets = 1024 ∧ s.entry line0 = none ∧ s.takeWay line0 = some 0 ∧ s.sweeps = [] ∧ s.revoking = none ∧
    s.slots = [] ∧ s.bankQ = [] ∧ okWith (s.judge ⟨1, 1, true⟩ directBase 64 true) (fun _ => true) = true ∧ okWith (s.rawPiece directBase 64) (fun g => g.bytes.take 4 == [1, 2, 3, 4]) = true ∧
    st0 (after (.rdS (.peer (rs 0x10))) s) = some (.sHeld, [(1, 0)]) ∧ st0 (after (.rdX (.peer (rs 0x11))) s) = some (.xHeld, [(1, 0)]) ∧
    (after (.rdX (.peer (rs 0x11))) s).fld f_REEVE_GRANTS_GRANTS = 1 ∧ (sent (after (.rdX (.peer (rs 0x11))) s)).map (fun q => q.typ) = some 0x19 := by decide +kernel

theorem test_coherent_shared : let s := held (ent .s [(0, 1)] 0 0 [] .none); let u := held (ent .s [(1, 0)] 0 0 [] .none); let x := held (ent .x [(0, 0)] 0 0 [] .none)
    let h := held (ent .xHeld [(0, 0)] 64 0 [] .none)
    (after (.rdS (.peer (rs 0x10))) s).dir.map (fun e => (e.state, e.ptrs.length)) = [(.sHeld, 2)] ∧ st0 (after (.upg (.peer (rs 0x12))) u) = some (.xHeld, [(1, 0)]) ∧
    x.klUp 0 = true ∧ (after (.rdX (.peer (rs 0x11))) x).dir.map (fun e => (e.state, e.awaiting, e.asked)) = [(.recallWait, [(0, 0)], 0x15)] ∧
    h.now < 64 ∧ (ent .xHeld [(0, 0)] 64 0 [] .none).owner ≠ some (1, 0) ∧ (after (.rdX (.peer (rs 0x11))) h).dir = h.dir ∧
    (after (.rdX (.peer (rs 0x11))) h).slots.map (fun x => (x.bank, x.line, x.serve, x.next)) = [(bank directBase, line0, 0, 1)] := by decide +kernel

theorem test_coherent_client : let s := home; let p := ck 0x10 0 0xFFFFFFFF 5 []
    p.badByte 4 = none ∧ s.fldAt f_KL_PORT_CLASS 0 = 1 ∧ s.leafCaches 64 1 0 = true ∧ okWith (s.xlate 64 1 0 64 rRead) (fun ps => ps == [⟨0, 0, directBase, 64⟩]) = true ∧
    okWith (s.xlate 64 1 0 64 rWrite) (fun ps => ps == [⟨0, 0, directBase, 64⟩]) = true ∧
    st0 (after (.rdS (.client 0 p)) s) = some (.sHeld, [(0, 0)]) ∧ (sentKl (after (.rdS (.client 0 p)) s)).map (fun q => (q.typ, q.tag, q.payload.length)) = some (0x18, 9, 64) := by
  decide +kernel

def pc (typ : Nat) (bs : List Byte) : QPkt := pk typ 1 directBase 0 bs

theorem test_coherent_answers : let rq : Req := .client 0 (ck 0x11 0 0xFFFFFFFF 0 []); let c := DCause.req rq 0 0 false false
    let i := held (ent .invWait [(1, 0)] 0 0x13 [(1, 0)] c); let x := held (ent .recallWait [(1, 0)] 0 0x15 [(1, 0)] c)
    let sh := held (ent .recallWait [(1, 0)] 0 0x14 [(1, 0)] (.req rq 0 0 false true)); let nine := List.replicate 64 9#8
    i.who (.peer (pc 0x1D [])) = (1, 0) ∧ st0 (after (.invAck (.peer (pc 0x1D []))) i) = some (.xHeld, [(0, 0)]) ∧
    st0 (after (.recallAck (.peer (pc 0x1E []))) x) = some (.xHeld, [(0, 0)]) ∧ st0 (after (.recallData (.peer (pc 0x1F nine))) x) = some (.xHeld, [(0, 0)]) ∧
    cellsRead (after (.recallData (.peer (pc 0x1F nine))) x).mem directBase 64 = nine ∧
    (after (.recallData (.peer (pc 0x1F nine))) sh).dir.map (fun e => (e.state, e.ptrs.length)) = [(.sHeld, 2)] := by decide +kernel

theorem test_coherent_write_back : let x := held (ent .x [(1, 0)] 0 0 [] .none); let nine := List.replicate 64 9#8; let w := after (.wb (.peer (pc 0x20 nine))) x
    let z := held (ent .invWait [(0, 0)] 0 0x13 [(0, 0)] (.req (.peer (rs 0x11)) 1 0 false false))
    lets (x.takeRx (.qf (pc 0x20 nine))) (pc 0x20 nine) 1 = true ∧ w.dir = [] ∧ cellsRead w.mem directBase 64 = nine ∧ (after (.put (.peer (pc 0x21 []))) x).dir = [] ∧
    home.entry line0 = none ∧ (after (.wb (.peer (pc 0x20 nine))) home).fld f_REEVE_ERR_STALE_WB = 1 ∧
    st0 (after (.invAck (.client 0 (ck 0x1D 1 0 directBase []))) z) = some (.xHeld, [(1, 0)]) := by decide +kernel

theorem test_holds : let s := held (ent .xHeld [(0, 0)] 0 0 [] .none); let set := s.setOf line0; let e := ent .evictWait [(1, 0)] 0 0x15 [(1, 0)] .evict
    let q : RetrySlot := ⟨bank directBase, 3, line0, 0, 2, 0⟩; let t := { home with slots := [q] }
    set % 48 = bank directBase ∧ st0 (after (.holdExpiry line0) s) = some (.x, [(0, 0)]) ∧ st0 (after (.directorySetVisit (bank directBase) set) s) = some (.x, [(0, 0)]) ∧
    stableLine (t.examine line0) = true ∧ (after (.retryTicketExpiry (bank directBase) 3) t).slots.map (·.serve) = [1] ∧ home.placeOf directBase = .direct ∧
    home.flag f_FLT_CTL_INT_EN = false ∧ (after (.recallTimeout line0 1 0) (held e)).dir = [] ∧ (after (.recallTimeout line0 1 0) (held e)).poison = [directBase] ∧
    (after (.recallTimeout line0 1 0) (held e)).fld f_REEVE_ERR_RECALL_TIMEOUTS = 1 := by decide +kernel

theorem test_queued : let w : Waiting := ⟨(pk 0x03 4 directBase 0 [7]).acc (.write [7] false), bank directBase⟩; let s := { home with bankQ := [w] }
    okWith (({ s with bankQ := [], revoked := [] } : State).perform w.acc) (fun _ => true) = true ∧ (after (.queuedAccessApply (bank directBase)) s).bankQ = [] ∧
    shows (after (.queuedAccessApply (bank directBase)) s) 0x04 [] = true := by decide +kernel

theorem test_coherence_messages : let ask := { pk 0x13 0 0x40 0 [] with stream := 0 }; let n := poke home [(f_KL_PORT_CLASS, 0, 0)]; let c := ck 0x10 0 0 5 []
    let o := { home with outReqs := [⟨{ pk 0x10 0 0 0 [] with dest := 1, src := 0 }, .coh 0 c, 1, 0, [], false⟩] }; let g := { pk 0x18 1 0 0 (List.replicate 64 9#8) with stream := 0 }
    lets (home.takeRx (.qf ask)) ask 0 = true ∧ (after (.coherenceMessageToClient 0 ask) home).cohOwed = [(0, ask)] ∧
    (sentKl (after (.coherenceMessageToClient 0 ask) home)).map (fun q => (q.typ, q.tag, q.addr)) = some (0x13, 1, 2 ^ 50 + 0x40) ∧
    (sent (after (.coherenceMessageToClient 0 ask) n)).map (fun q => (q.typ, q.dest, q.addr)) = some (0x1D, 1, 0x40) ∧ cohLen 0x18 = 64 ∧
    (after (.coherenceMessageToClient 0 g) o).outReqs = [] ∧ (sentKl (after (.coherenceMessageToClient 0 g) o)).map (fun q => (q.typ, q.tag, q.addr, q.payload)) =
      some (0x18, 9, 5, List.replicate 64 9#8) := by decide +kernel

/-- An entry of the directory as readout shows it (R375): line, state, end of the hold, owner and count. -/
theorem test_dir_readout : let s := { poke home [(f_FRZ_STATUS_FROZEN, 0, 1)] with dir := [ent .xHeld [(1, 2)] 0x1C0 0 [] .none] }
    let a := 256 * s.setOf line0
    s.readWord (2 ^ 56 + s.dirBase + a) = (line0 + 4 * 2 ^ 44 + 7 * 2 ^ 48, 0) ∧ s.dirWord (a + 8) 0 = 0x20001 + 2 ^ 54 ∧
    s.dirWord (a + 16) (7 * 2 ^ 44 + 5) = 5 := by decide +kernel

/-! ### Links and ports (LinkBlocks, PortsGoDown, PortTraining, HeartbeatsAndClientAnswers) -/

/-- Device 100, one of the keepers 100 and 101 of domain 5, node 0 of the map; Quaril port 0 is up. -/
def mem0 : State :=
  { poke fab [(f_BOOT_DEVID_DEVICE_ID, 0, 100), (f_BOOT_STATUS_STORE_READY, 0, 1)] with
    cfg := some ⟨5, [100, 101], [], 0, 0, 0, 0, 0, [], [], []⟩, links := [freshLink 4 101] }

def blk (seq fec : Nat) (pkts : List Pkt) : LinkBlock := { seq := seq, ack := 0, fec := fec, crcOk := true, pkts := pkts, credits := [(2, 0, 5)] }

def big : Queued := ⟨0, 4, .qf (pk 0x02 3 0 0 (List.replicate 512 0#8)), none⟩

theorem test_block_received : let s := mem0; let r := after (.linkBlockReceived 4 (blk 0 0 [.qf qp])) s; let bad := { s with links := [{ freshLink 4 101 with fails := 8 }] }
    s.alive = true ∧ s.link 4 = some (freshLink 4 101) ∧ s.portUp 4 = true ∧ s.fldAt f_STORE_MIRROR_IN 4 = 0 ∧ s.fldAt f_STORE_MIRROR_OUT 4 = 0 ∧
    r.rx = [(4, .qf qp)] ∧ (r.link 4).map (fun l => (l.rxSeq, l.fails, l.credits)) = some (1, 0, [(2, 0, 5)]) ∧
    (after (.linkBlockReceived 4 (blk 3 0 [.qf qp])) s).rx = [] ∧ ((after (.linkBlockReceived 4 (blk 0 2 [])) s).link 4).map (·.fails) = some 1 ∧
    (after (.linkBlockReceived 4 (blk 0 2 [])) bad).link 4 = none ∧ (after (.linkBlockReceived 4 (blk 0 2 [])) bad).fldAt f_QF_PORT_STATE 0 = 4 := by decide +kernel

theorem test_block_sent : let s := mem0; let l := { freshLink 4 101 with credits := [(3, big.pkt.vl, 9)] }; let c := { s with links := [l], queue := [big] }
    s.eligible 4 (freshLink 4 101) = [] ∧ ((after (.linkBlockSend 4) s).link 4).map (fun l => (l.txSeq, l.replay)) = some (1, [(0, [])]) ∧ c.eligible 4 l = [big] ∧
    7 ≤ big.pkt.flits := by decide +kernel

theorem test_replay_full : let l := { freshLink 4 101 with replay := List.replicate 2048 (0, []) }; ({ mem0 with links := [l] }).link 4 = some l ∧ 2048 ≤ l.replay.length := by
  refine ⟨?_, ?_⟩
  · rfl
  · exact Nat.le_of_eq List.length_replicate.symm

/-- Quaril port 0 has gone down. -/
def fell (t : State) : Bool := t.fldAt f_QF_PORT_STATE 0 == 4 && t.link 4 == none && t.queue == [] && t.fldAt f_QF_PORT_ERR_DOWNS 0 == 1

theorem test_port_down : let s := { mem0 with queue := [⟨12, 4, .qf qp, none⟩] }
    s.qfUp 0 = true ∧ fell (after (.linkIdleTimeout 4) s) = true ∧ fell (after (.heartbeatMiss 0) s) = true ∧
    (after (.heartbeatMiss 0) s).fldAt f_QF_PORT_LANE_FAIL 0 = 0 ∧ on.portUp 4 = false ∧ after (.laneLockLoss 4) on = on := by decide +kernel

theorem test_client_link_lost : let s := { cli with links := [lnk 0], queue := [⟨12, 0, .kl kp, none⟩] }
    s.klUp 0 = true ∧ s.dir = [] ∧ s.fillQ = [] ∧ s.invals = [] ∧ s.descs = [] ∧ (after (.linkIdleTimeout 0) s).klUp 0 = false ∧ (after (.laneLockLoss 0) s).klUp 0 = false ∧
    (after (.linkIdleTimeout 0) s).queue = [] ∧ (after (.linkIdleTimeout 0) s).link 0 = none := by decide +kernel

def tr0 : Training := ⟨0, 0, 0x14, 0x21, 5, 101, 3⟩

theorem test_qf_training : let s := poke mem0 [(f_QF_PORT_STATE, 0, 1)]; let st := fun (t : Training) => (after (.qfPortTrain 0 t) s).fldAt f_QF_PORT_STATE 0
    let why := fun (t : Training) => (after (.qfPortTrain 0 t) s).fldAt f_QF_PORT_REFUSE 0
    st { tr0 with lanes := 1 } = 4 ∧ (st { tr0 with verMax := 0x13, verMin := 0x10 }, why { tr0 with verMax := 0x13, verMin := 0x10 }) = (3, 1) ∧
    (st { tr0 with domain := 6 }, why { tr0 with domain := 6 }) = (3, 2) ∧ (st { tr0 with peerDev := 100 }, why { tr0 with peerDev := 100 }) = (3, 3) ∧ st tr0 = 2 ∧
    (after (.qfPortTrain 0 tr0) s).fldAt f_QF_PORT_VER_MAJOR 0 = 2 ∧ (after (.qfPortTrain 0 tr0) s).fldAt f_QF_PORT_VER_MINOR 0 = 1 ∧
    ((after (.qfPortTrain 0 tr0) s).link 4).map (·.peerDev) = some 101 ∧ (after (.portTrainRetry 4) (poke mem0 [(f_QF_PORT_STATE, 0, 4)])).fldAt f_QF_PORT_STATE 0 = 1 := by
  decide +kernel

/-- A link-up record: kind 1, class 0, versions 2.0 to 3.2, four streams, device 7. -/
def record0 : List Byte := [1, 0, 0x20, 0x32] ++ leBytes 2 4 ++ leBytes 2 0 ++ leBytes 8 7 ++ List.replicate 48 0#8

theorem test_kl_training : let s := mem0; let u := { poke mem0 [(f_KL_PORT_STATE, 1, 1)] with links := [lnk 1] }
    s.klMay 1 = true ∧ (after (.klPortTrain 1 { tr0 with failStep := 2 }) s).fldAt f_KL_PORT_STATE 1 = 0 ∧ (after (.klPortTrain 1 tr0) s).fldAt f_KL_PORT_STATE 1 = 1 ∧
    ((after (.klPortTrain 1 tr0) s).link 1).isSome = true ∧ (after (.portTrainRetry 1) s).fldAt f_KL_PORT_STATE 1 = 1 ∧ u.recordRefuse 1 record0 = 0 ∧
    (after (.linkUpRecord 1 record0) u).fldAt f_KL_PORT_STATE 1 = 2 ∧ (after (.linkUpRecord 1 record0) u).fldAt f_KL_PORT_STREAMS 1 = 4 ∧
    (after (.linkUpRecord 1 record0) u).klClient 1 = some ⟨1, 7, 0, 0, 0, 0, ⟨u.me, 1, 0x32, u.epoch, u.devId, u.bindingOf 1⟩⟩ ∧ (after (.linkUpRecord 1 (record0.drop 1)) u).fldAt f_KL_PORT_STATE 1 = 3 := by decide +kernel

theorem test_dill : let w := f_QF_DILL_CTL_PORTS.set (w1 f_QF_DILL_CTL_START 1) 2; let u := after (.dillStart w) mem0; let e := f_QF_DILL_CTL_PORTS.set (w1 f_QF_DILL_CTL_START 1) 1
    u.flag f_QF_DILL_STAT_BUSY = true ∧ u.fldAt f_QF_PORT_STATE 1 = 1 ∧ u.fldAt f_QF_PORT_STATE 0 = 2 ∧ (after (.dillStart e) mem0).fld f_QF_DILL_STAT_REJECT = 1 ∧
    u.dill = [1] ∧ after (.qfPortTrain 1 tr0) u = u ∧ (after (.dillDone [(9, 3), (17, 4)]) u).fld f_QF_DILL_STAT_ERRORS = 3 ∧
    (after (.dillDone [(9, 3)]) u).flag f_QF_DILL_STAT_BUSY = false := by decide +kernel

theorem test_heartbeats : let s := { poke mem0 [(f_KL_PORT_STATE, 2, 2)] with rx := [(4, .qf { pk 0x30 6 0 0 [] with dest := 0 })], links := [{ freshLink 4 101 with misses := 3 }] }
    (after .heartbeatSend s).queue.map (fun q => q.out) = [2, 4] ∧ (after (.heartbeat 4) s).links.map (·.misses) = [0] ∧ (after (.heartbeat 4) s).rx = [] := by decide +kernel

def out0 (why : KlWhy) (left : Nat) : KlOut := ⟨0, 9, why, left, [], []⟩

theorem test_client_answers : let r := ck 0x41 3 0 0 (List.replicate 64 5#8); let a := ck 0x43 3 0 0 []; let s := fun o => { cli with klOuts := [o], rings := [ring1], frames := [frameOf 4 []] }
    (s (out0 (.sqRead 1 2) 64)).klOut 0 9 = some (out0 (.sqRead 1 2) 64) ∧
    (after (.cReadRsp 0 r) (s (out0 (.sqRead 1 2) 64))).rings.map (fun r => r.pre) = [[(List.replicate 64 5#8, false)]] ∧
    (after (.cReadRsp 0 { r with payload := List.replicate 1024 5#8 }) (s (out0 (.sqRead 1 2) 2048))).klOuts.map (fun o => (o.left, o.got.length)) = [(1024, 1024)] ∧
    (after (.cWriteAck 0 a) (s (out0 (.interrupt 1 2) 0))).klOuts = [] ∧ (after (.cWriteAck 0 a) (s (out0 (.writeback 4 0 6) 0))).frames.map (fun f => (f.stored, f.tag)) = [(true, 6)] ∧
    cli.klOut 0 9 = none ∧ (after (.cWriteAck 0 a) cli).klUnmatched = [(0, cli.now)] ∧ (after (.cReadRsp 0 r) cli).klUnmatched = [(0, cli.now)] ∧
    (after (.klRequestTimeout 0 9) (s (out0 .late 0))).fldAt f_KL_PORT_ERR_TIMEOUTS 0 = 1 ∧
    (after (.klRequestTimeout 0 9) (s (out0 (.sqRead 1 2) 64))).rings.map (·.state) = [.faulted] := by decide +kernel

/-! ### The map (Elections, MapChanges, LeaderChanges) -/

/-- This ZV9 leads in term 1. -/
def lead : State := { poke mem0 [(f_QF_STATE_LEADER, 0, 1)] with keeper := { mem0.keeper with term := 1 } }

theorem test_elections : let s := mem0; let c := { s with keeper := { s.keeper with term := 3, candidate := true, votes := [0] } }
    s.fenced = false ∧ s.keeperPos = some 0 ∧ s.leader = false ∧ s.quorum = 2 ∧ (after .electionTimeout s).keeper = { s.keeper with term := 1, voted := 1, votes := [0], candidate := true } ∧
    s.newest = 1 ∧ (after (.voteReq 1 4 1) s).keeper.voted = 4 ∧ (after (.voteReq 1 4 0) s).keeper.voted = 0 ∧ (after (.vote 1 3 true) c).leader = true ∧
    (after (.vote 0 3 true) c).leader = false ∧ (after (.vote 1 3 false) c).leader = false ∧ (after (.beat 1 4 1) s).keeper.term = 4 ∧
    (after (.beat 1 4 1) s).fld f_QF_STATE_LEADER_NODE = 1 ∧ after (.beat 1 2 1) c = c ∧ after .beatSend s = s := by decide +kernel

theorem test_beat_and_topology : let s := lead; let n := { mem0 with mapCur := none }
    s.keeper.reports = [] ∧ s.keeper.changes = [] ∧ 1 ∈ map2.floodKids 0 0 ∧ (map2.ports 0).find? (fun p => p.2.1 == 1 && s.qfUp p.1) = some (0, 1, 0) ∧
    (after .beatSend s).queue = [⟨12, 4, .map 0 1 1 (.beat 1 1), none⟩] ∧ (after (.topo 9 []) n).keeper.topo = [(9, [])] ∧
    (after (.topo 9 []) n).queue = [⟨12, 4, .map 0 0xFFFF 1 (.topo 9 []), none⟩] ∧ (after (.neighbourExchange 0 55) n).links.map (·.peerDev) = [55] ∧
    (after (.neighbourExchange 0 55) n).flag f_QF_STATE_KEEPER = true := by decide +kernel

/-- The map of the next epoch, led by a node. -/
def map3 (by_ : Nat) : FMap := { map2 with epoch := 2, term := 1, leader := by_ }

/-- What `current` says of the map itself. -/
def now2 (t : State) (m : FMap) : Bool := t.mapCur == some m && t.mapPrev == some map2 && t.mapPrep == none && t.grace && t.epoch == 2 && t.flag f_QF_STATE_FORMED

/-- What `ready` asks, for a state that nothing is cached or stopped in. -/
def rdy (s : State) (m : FMap) : Bool := s.dir == [] && s.cohOwed == [] && s.sweeps == [] && s.fillQ == [] && s.invals == [] && s.descs == [] &&
  (List.range 4).all (fun k => !s.klUp k) && s.flag f_AS_NODE_VALID && (m.ent s.me).any (fun e => e.state == .live)

theorem test_map_change : let l := lead; let r := { l with keeper := { l.keeper with stage := 1, replicated := some (map3 0), acks := [0] } }
    let p := { l with mapPrep := some (map3 0), keeper := { l.keeper with stage := 2, prepAcks := 1 } }; let f := { mem0 with mapPrep := some (map3 1) }
    (after (.replicate 1 (map3 1)) mem0).keeper.replicated = some (map3 1) ∧ (after (.replAck 1 2) r).mapPrep = some (map3 0) ∧ (after (.replAck 1 2) r).keeper.stage = 2 ∧
    (after (.replAck 0 2) r).keeper.stage = 1 ∧ (after (.prepare 1 (map3 1)) mem0).mapPrep = some (map3 1) ∧
    (after (.prepare 1 (map3 1)) mem0).queue = [⟨12, 4, .map 0 1 1 (.prepareAck 2 1), none⟩] ∧ 1 ∈ (map3 0).floodKids 0 0 ∧ rdy p (map3 0) = true ∧
    now2 (after (.prepareAck 1 2 1) p) (map3 0) = true ∧ (after (.prepareAck 1 2 1) p).keeper.stage = 0 ∧ rdy f (map3 1) = true ∧ now2 (after (.commit 1 2) f) (map3 1) = true ∧
    now2 (after (.mapData (map3 1)) mem0) (map3 1) = true ∧ (after (.commit 1 2) mem0).queue = [⟨12, 4, .map 0 1 1 (.fetch 2) 1 1, none⟩] ∧
    (after (.fetch 0 1 1) mem0).queue = [⟨12, 4, .map 0 1 1 (.mapData map2), none⟩] ∧ (after .epochGraceExpiry { mem0 with grace := true }).grace = false := by decide +kernel

theorem test_prepare_timeout : let p := { lead with mapPrep := some (map3 0), keeper := { lead.keeper with stage := 2, prepAcks := 1 } }
    let q := { p with keeper := { p.keeper with prepNodes := [1] } }
    ((map3 0).floodKids 0 0).flatMap (fun n => (map3 0).behind 0 n) = [1] ∧ now2 (after .prepareAckTimeout p) (map3 0) = true ∧ (after .prepareAckTimeout p).keeper.stage = 1 ∧
    ((after .prepareAckTimeout p).keeper.replicated.map (fun m => (m.epoch, m.liveNodes))) = some (3, [0]) ∧ now2 (after .prepareAckTimeout q) (map3 0) = true ∧
    (after .prepareAckTimeout q).keeper.stage = 0 := by decide +kernel

def ent2 : JobSlice := ⟨1, 3, false, 0⟩

theorem test_leader_reports : let s := { lead with keeper := { lead.keeper with probes := [(1, 0)] } }; let r := fun x => ((after (.report 1 x) lead).keeper.replicated.map (fun m => (m.epoch, m.nodes.length, m.links.length)))
    lead.keeper.stage = 0 ∧ r (.portUp ⟨0, 5, 1, 5⟩) = some (2, 2, 2) ∧ r (.portDown ⟨0, 0, 1, 0⟩) = some (2, 2, 0) ∧ r (.newDevice 300 ⟨0, 6, 2, 6⟩) = some (2, 3, 2) ∧
    ((after (.probeTimeout 1) s).keeper.replicated.map (·.liveNodes)) = some [0] ∧ (after (.probe 1 false) s).queue = [⟨12, 4, .map 0 1 1 .probeAnswer 1 1, none⟩] ∧
    map2.links.find? (fun l => (l.a == 1 && l.b == 0) || (l.a == 0 && l.b == 1)) = some ⟨0, 0, 1, 0⟩ ∧
    ((after (.probe 1 true) s).keeper.replicated.map (fun m => (m.links, m.liveNodes.length))).isSome = true := by decide +kernel

theorem test_composition : let s := { lead with keeper := { lead.keeper with reported := [(1, 8)] }, mapCur := some { map2 with jobs := [⟨4, 0, [ent2]⟩] } }
    let e := { lead with keeper := { lead.keeper with reported := [(1, 8)] } }; let js := fun t : State => t.keeper.replicated.map (fun m => m.jobs)
    e.composeChecks map2 1 0 0 [ent2] = none ∧ js (after (.compose 1 0 [ent2]) e) = some [⟨1, 0, [ent2]⟩] ∧ js (after (.teardown 1 4) s) = some [] ∧
    (js (after (.extend 1 4 [{ ent2 with slice := 5 }]) { s with keeper := { s.keeper with reported := [(1, 40)] } })).map (fun x => x.map (·.slices.length)) = some [2] ∧
    (js (after (.shrink 1 4 [ent2]) { s with mapCur := some { map2 with jobs := [⟨4, 0, [ent2, { ent2 with slice := 6 }]⟩] } })).map (fun x => x.map (·.slices.length)) = some [1] ∧
    ((after (.compose 0 0 [{ ent2 with node := 7 }]) { e with composing := some (.compose 0 []) }).fld f_SLC_COMPOSE_STAT_STATUS) = eDeadTarget ∧
    (after .composeTimeout { e with composing := some (.compose 0 []) }).fld f_SLC_COMPOSE_STAT_STATUS = eTimeout := by decide +kernel

/-- A slice that is in a job by the time its change starts, a request that another ZV9 made and the leader refuses, and that answer's arrival. -/
theorem test_composition_refused : let e := { lead with keeper := { lead.keeper with reported := [(1, 8)], passed := [(1, .compose 0 [ent2])] }, mapCur := some { map2 with jobs := [⟨4, 0, [ent2]⟩] } }
    let t := e.addChange (.compose 0 [ent2]); let no := .refused eDeadTarget 7
    (e.changeRefused { map2 with jobs := [⟨4, 0, [ent2]⟩] } (.compose 0 [ent2])).isSome = true ∧ e.changeRefused { map2 with jobs := [⟨4, 0, [ent2]⟩] } (.dead 1) = none ∧
    t.keeper.stage = 0 ∧ t.keeper.changes = [] ∧ t.keeper.passed = [] ∧ t.keeper.replicated = none ∧ t.mapCur = e.mapCur ∧
    (after (.compose 1 0 [{ ent2 with node := 7 }]) lead).queue = [⟨12, 4, .map 0 1 1 (.report no) 1 1, none⟩] ∧
    (after (.report 1 no) { mem0 with composing := some (.compose 0 []) }).fld f_SLC_COMPOSE_STAT_NODE = 7 := by decide +kernel

theorem test_compose_write : let w := f_SLC_COMPOSE_ADDR.set 0#64 4; let s := { ready with mem := cellsWrite [] 256 (([1, 0] ++ leBytes 2 1 ++ List.replicate 12 0#8) ++ [1, 0, 3, 0, 0, 0, 0, 0]) }
    s.plainRange 256 24 = true ∧ okWith (s.feRead 256 24) (fun g => g.poison.isNone) = true ∧ (after (.slcComposeWrite w) s).composing = some (.compose 0 [ent2]) ∧
    (after (.slcComposeWrite w) s).fld f_SLC_COMPOSE_STAT_BUSY = 1 ∧ (after (.slcComposeWrite (f_SLC_COMPOSE_ADDR.set 0#64 0x10000000)) s).fld f_SLC_COMPOSE_STAT_STATUS = eRange := by
  decide +kernel

/-- A composition request whose line a client holds is read once the client has given it back; until then the request is busy. -/
theorem test_compose_waits : let w := f_SLC_COMPOSE_ADDR.set 0#64 4; let s := { home with dir := [{ ent .x [(0, 0)] 0 0 [] .none with line := 4 }] }
    let t := after (.slcComposeWrite w) s
    t.composeAt = some 256 ∧ t.fld f_SLC_COMPOSE_STAT_BUSY = 1 ∧ t.composing = none ∧ t.dir.map (·.state) = [.recallWait] ∧
    (after .composeTimeout t).composeAt = none ∧ (after .composeTimeout t).fld f_SLC_COMPOSE_STAT_STATUS = eTimeout := by decide +kernel

/-! ### Containment, slices, faults (Containment, SliceResetsAndRevokes, AlarmsAndAudits) -/

/-- Job 4 has slice 1 of this ZV9 and slice 3 of node 1; a descriptor of slice 1 runs. -/
def inJob : State :=
  { poke mem0 [(f_FLT_SLICE_JOB_STATE, 1, 0), (f_SLC_CFG_ENABLE, 1, 1)] with
    mapCur := some { map2 with jobs := [⟨4, 0, [⟨0, 1, false, 0⟩, ent2]⟩] }, rings := [{ ring1 with sqCons := 6 }], descs := [dAt 5 (raw64 0x02 []) .running] }

theorem test_job_abort : let s := inJob; let w := f_FLT_JOB_ABORT_JOB.set (w1 f_FLT_JOB_ABORT_START 1) 4; let t := after (.jobAbort w) s
    s.fenced = false ∧ s.mySlices 4 = [1] ∧ s.abortIds = [] ∧ (s.mapCur.bind (fun m => m.job 4)).any (fun j => j.nodes == [0, 1]) = true ∧
    s.fldAt f_FLT_SLICE_JOB_STATE 1 = 0 ∧ (t.fldAt f_FLT_SLICE_JOB_STATE 1, t.fldAt f_FLT_SLICE_JOB_JOB 1, t.fldAt f_FLT_SLICE_JOB_TRIGGER 1) = (1, 4, 3) ∧
    t.descs.map (fun d => (d.phase, d.status)) = [(.ended, eAborted)] ∧ t.fld f_FLT_ABORT_STAT_STARTED = 1 ∧ (sent t).map (fun q => (q.typ, q.dest, leAt q.payload 0 4)) = some (0x33, 1, 4) ∧
    (after (.jobAbort w) mem0).fld f_FLT_ABORT_STAT_IGNORED = 1 ∧ after (.jobAbort 0) s = s := by decide +kernel

theorem test_abort_packet : let p := { pk 0x33 6 0 0 (leBytes 4 4 ++ leBytes 2 1 ++ [3, 0] ++ List.replicate 24 0#8) with dest := 0 }; let t := after (.abort p) inJob
    (t.fldAt f_FLT_SLICE_JOB_STATE 1, t.fldAt f_FLT_SLICE_JOB_ORIGIN 1) = (1, 1) ∧ t.descs.map (·.phase) = [.ended] := by decide +kernel

theorem test_slice_quiet : let s := poke inJob [(f_FLT_SLICE_JOB_STATE, 1, 2)]; let o : OutReq := ⟨{ pk 0x03 4 0 0 [1] with dest := 1, src := 0, tag := 7 }, .none, 1, 0, [], false⟩
    s.abandoned = [] ∧ s.mergedAborts = [] ∧ (after (.sliceQuiet 1) s).fldAt f_FLT_SLICE_JOB_STATE 1 = 3 ∧
    (after (.sliceQuiet 1) { s with abandoned := [⟨1, 7⟩], outReqs := [o] }).fldAt f_FLT_SLICE_JOB_STATE 1 = 2 := by decide +kernel

theorem test_port_kill : let t := after (.klPortKill 0) cli; let u := after (.klHeartbeatMiss 0) cli; let d := poke on [(f_KL_PORT_STATE, 0, 4)]
    cli.klUp 0 = true ∧ (cli.klClient 0).isSome = true ∧ cli.rings = [] ∧ cli.frames = [] ∧ (t.fldAt f_KL_PORT_STATE 0, t.fldAt f_KL_PORT_KILL_CAUSE 0) = (4, 3) ∧
    (u.fldAt f_KL_PORT_STATE 0, u.fldAt f_KL_PORT_KILL_CAUSE 0, u.klClients) = (4, 5, []) ∧ on.klUp 0 = false ∧ (after (.klPortKill 0) on).fldAt f_KL_PORT_STATE 0 = 4 ∧
    d.klMayTrain = [] ∧ (after (.klRetrainTimer 0) d).klMayTrain = [0] := by decide +kernel

theorem test_self_fence : let s := inJob; let t := after .selfFenceTimeout s
    s.flag f_QF_STATE_FORMED = true ∧ s.klClients = [] ∧ t.fenced = true ∧ t.fenceEpoch = 1 ∧ t.descs.map (·.phase) = [.ended] ∧ after .selfFenceTimeout on = on := by decide +kernel

def rst (mode : Nat) : Word := f_SLC_RESET_DRAIN_MS.set (f_SLC_RESET_MODE.set (f_SLC_RESET_SLICE.set (w1 f_SLC_RESET_START 1) 1) mode) 5

theorem test_slice_reset : let s := inJob; let t := after (.sliceResetDrain (rst 0)) s; let u := after (.sliceResetAbort (rst 1)) s
    s.configured 1 = true ∧ s.fldAt f_SLC_STATUS_BUSY 1 = 0 ∧ t.fldAt f_SLC_STATUS_BUSY 1 = 1 ∧ t.resets = [⟨1, false, false⟩] ∧ t.rings.all (fun r => r.state == .stopping || r.state == .faulted) = true ∧
    u.resets = [⟨1, true, false⟩] ∧ u.descs.map (·.phase) = [.ended] ∧ (after (.drainTimeout 1) t).resets = [⟨1, true, false⟩] ∧ (after (.drainTimeout 1) t).descs.map (·.phase) = [.ended] ∧
    (after (.sliceResetDrain (f_SLC_RESET_SLICE.set (w1 f_SLC_RESET_START 1) 9)) s).fldAt f_SLC_STATUS_CFG_REJECT 9 = 1 ∧ after (.sliceResetAbort (f_SLC_RESET_MODE.set 0#64 1)) s = s := by
  decide +kernel

theorem test_slice_reset_finish : let r := { ring1 with sqCons := 8, sqProd := 8, cqProd := 8, cqCons := 8, state := .stopping }
    let s := { poke on [(f_SLC_CFG_ENABLE, 1, 1), (f_SLC_STATUS_BUSY, 1, 1)] with resets := [⟨1, true, false⟩], rings := [r, { r with slice := 2 }], xlCache := [⟨64, 1, 0, .leaf ⟨0, 0, 0, 0, false⟩⟩] }
    (s.resetOf 1).isSome = true ∧ s.descs = [] ∧ s.resetQuiet 1 = true ∧
    (after (.sliceResetFinish 1) s).rings.map (·.slice) = [2] := by decide +kernel

theorem test_revoke : let s := { poke on [(f_SLC_CFG_ENABLE, 2, 1)] with regions := [region3], frames := [frameOf 1 [], frameOf 2 []] }
    let w := fun m => f_SLC_REVOKE_NEW_OWNER.set (f_SLC_REVOKE_REGION.set (w1 f_SLC_REVOKE_MODE m) 3) 2; let t := after (.revokeDrain (w 0)) s
    s.revokee false 3 = some (region3.base, 131072, 1) ∧ s.configured 2 = true ∧ s.revoked = [] ∧ s.dir = [] ∧ s.bankQ = [] ∧ s.fillQ = [] ∧ s.descs = [] ∧
    s.jobNum 1 = 0 ∧ t.regions.map (·.owner) = [2] ∧ t.revoked = [⟨false, 3, region3.base, 131072, none, 1⟩] ∧ t.fld f_SLC_REVOKE_STAT_LIVE = 1 ∧
    (after (.revokeAbort (w 1)) s).regions.map (·.owner) = [2] ∧ (after (.revokeDrain (f_SLC_REVOKE_REGION.set 0#64 9)) s).fld f_SLC_REVOKE_STAT_STATUS = eRange := by decide +kernel

/-- Entry 256 of the alarm table is valid and waits to be sent; node 1 leads. -/
def alarmed : State := { poke mem0 [(f_FLA_0_VALID, 256, 1), (f_FLA_0_PENDING, 256, 1), (f_FLA_1_COUNT, 256, 3), (f_FLT_ALARM_CTL_RATE, 0, 4)] with mapCur := some { map2 with leader := 1 } }

theorem test_alarm_send : let s := alarmed; let t := after (.alarmSend 256) s; let q := poke s [(f_FLA_0_PENDING, 256, 0)]
    s.alarmDue 256 = true ∧ s.otherLeader = some 1 ∧ (sent t).map (fun q => (q.typ, q.dest, q.payload)) = some (0x32, 1, s.alarmPayload 256) ∧ leAt (s.alarmPayload 256) 4 4 = 3 ∧
    t.fldAt f_FLA_0_PENDING 256 = 0 ∧ t.fldAt f_FLA_1_SENT 256 = 3 ∧ t.alarmSent = [(256, s.now)] ∧ after (.alarmSend 256) q = q ∧
    (after (.alarmEntryClear false 256) q).word 0x142000 = 0 ∧ after (.alarmEntryClear false 256) s = s := by decide +kernel

theorem test_alarm_received : let p := { pk 0x32 6 0 0 (leBytes 2 0x6001 ++ [0x0F, 0] ++ leBytes 4 5 ++ List.replicate 40 0#8) with dest := 0 }
    let d := { pk 0x39 6 0 0 (List.replicate 64 1#8) with dest := 0 }; let s := poke lead [(f_FLT_LOG_RING_LOG2, 0, 4), (f_FLT_LOG_RING_BASE, 0, 3)]
    s.leader = true ∧ (s.alarmSlot 0x160000 1 0x6001 0x0F).1 = 256 ∧ bits ((after (.alarm p) s).word 0x162008).toNat 0 32 = 5 ∧ (after (.diag d) s).fld f_FLT_LOG_IDX_PROD = 1 ∧
    cellsRead (after (.diag d) s).mem 12288 64 = List.replicate 21 1#8 ++ [9] ++ List.replicate 42 1#8 ∧ (after (.diag d) lead).fld f_FLT_LOG_STAT_UNLOGGED = 1 := by decide +kernel

theorem test_log_interrupt : let s := { poke cli [(f_FLT_CTL_INT_EN, 0, 1), (f_FLT_CTL_VECTOR, 0, 9), (f_SLV_HI_ENABLE, 9, 1), (f_KL_PORT_BOUND_SLICE, 0, 0), (f_SLV_HI_DATA, 9, 77)] with logIntDue := true }
    let m := poke s [(f_SLV_HI_MASK, 9, 1)]
    s.bound 0 = some 0 ∧ s.inWindow 0 0 4 = true ∧ (sentKl (after .logInterruptTimer s)).map (fun q => (q.typ, q.aux, q.payload)) = some (0x44, 2304, leBytes 4 77) ∧
    (after .logInterruptTimer s).logIntDue = false ∧ (after .logInterruptTimer m).fldAt f_SLV_HI_PENDING 9 = 1 ∧ (after .logInterruptTimer m).queue = [] ∧
    after .logInterruptTimer cli = cli := by decide +kernel

/-- A message for an alarm covers the records before it (R528); without a log none is sent. -/
theorem test_alarm_message : let s := { poke cli [(f_FLT_CTL_INT_EN, 0, 1), (f_SLV_HI_ENABLE, 0, 1), (f_SLV_HI_MASK, 0, 1), (f_FLT_LOG_RING_LOG2, 0, 6)] with logIntDue := true }
    let t := s.raise (ev 0x0C 0 0); let u := (poke s [(f_FLT_LOG_RING_LOG2, 0, 0)]).raise (ev 0x0C 0 0)
    t.logIntDue = false ∧ t.fldAt f_SLV_HI_PENDING 0 = 1 ∧ (({ s with logIntDue := false }).raise (ev 0x0E 0 0)).logIntDue = true ∧
    u.fldAt f_SLV_HI_PENDING 0 = 0 := by decide +kernel

/-- A keeper that comes to lead enters its own counts into an empty domain table (R531). -/
theorem test_fresh_domain : let s := poke alarmed [(f_FLA_0_SOURCE, 256, 0x6001), (f_FLA_0_CAUSE, 256, 0x0F), (f_FLD_0_VALID, 300, 1), (f_FLD_0_NODE, 300, 1)]
    bits (s.freshDomain.word 0x162008).toNat 0 32 = 3 ∧ s.freshDomain.word 0x162000 = BitVec.ofNat 64 (0x6001 * 2 ^ 32 + 0x0F * 2 ^ 24 + 1) ∧
    s.freshDomain.word 0x162580 = 0 := by decide +kernel

def dumping : State := poke ready [(f_OBS_DUMP_CTL_ENABLE, 0, 1), (f_OBS_DUMP_CTL_PERIOD_US, 0, 1), (f_OBS_DUMP_RING_LOG2, 0, 4), (f_OBS_DUMP_RING_BASE, 0, 3), (f_OBS_NOW_NOW, 0, 4000)]

theorem test_dump : let s := dumping
    s.now / 1800 * 1800 = 3600 ∧ s.dumpFrom < 3600 ∧ (after .dumpBoundary s).dumpFrom = 3600 ∧ (after .dumpBoundary s).dumpSeq = 1 ∧ (after .dumpBoundary s).fld f_OBS_DUMP_IDX_PROD = 1 ∧
    after .dumpBoundary ready = ready := by decide +kernel

theorem test_audit : let s := poke on [(f_STORE_AUDIT_ENABLE, 0, 1), (f_STORE_CARVE_STAT_SPARE, 0, 6)]; let c : CellSeen := ⟨70, .spare, 2, false, false⟩
    let t := after (.storeAuditPass [c] []) s; let u := after (.storeAuditPass [c] []) { s with cells := [⟨70, .spare, 2, .suspect⟩] }
    t.cells = [⟨70, .spare, 2, .suspect⟩] ∧ u.cells = [⟨70, .spare, 2, .quarantined⟩] ∧ u.fld f_STORE_AUDIT_STAT_LEAKED = 1 ∧ u.fld f_STORE_CARVE_STAT_SPARE = 5 ∧
    (after (.storeAuditPass [{ c with free := true, held := true }] []) s).cells = [⟨70, .spare, 2, .dual⟩] ∧ (poke s [(f_STORE_AUDIT_ENABLE, 0, 0)]).cells = (after (.storeAuditPass [c] []) (poke s [(f_STORE_AUDIT_ENABLE, 0, 0)])).cells := by decide +kernel

/-! ### Drives and DRAM (DriveCommands, DriveAndDramUpkeep) -/

/-- A tile of tier 2 with a cache frame. -/
def slowFrame (valid dirty : BitVec 16) : Frame := { frameOf 4 [] with tier := 2, cache := some ⟨[], valid, dirty, []⟩ }

def drive0 (zs : List Zone) : Drive := ⟨0, zs, none, none, 4, true, true⟩

/-- Drive 0 is in use and has a command outstanding. -/
def driving (op : NvmeOp) (f : Frame) : State :=
  { poke ready [(f_MEDIA_PORT_STATE, 0, 1)] with
    nvme := [⟨5, 0, op, false, false, false⟩], nextCmd := 6, frames := [f], drives := [drive0 [⟨3, 64, 0, .opened⟩]] }

theorem test_read_complete (data : List Byte) (h : data = List.replicate tileBytes 0#8) : let f := { slowFrame 0 0 with tag := crc32c data }; let s := driving (.read 4) f
    s.nvmeCmd 5 = some ⟨5, 0, .read 4, false, false, false⟩ ∧ s.frame 4 = some f ∧ s.fillQ = [] ∧ f.lost = none ∧ data.length = tileBytes ∧ crc32c data = f.tag ∧
    crc32c data ≠ { f with tag := crc32c data + 1 }.tag := by
  refine ⟨rfl, rfl, rfl, rfl, ?_, rfl, Nat.ne_of_lt (Nat.lt_succ_self _)⟩
  rw [h]; exact List.length_replicate

theorem test_read_fails : let s := driving (.read 4) (slowFrame 0 0); let r := { s with nvme := [⟨5, 0, .read 4, true, false, false⟩] }
    (after (.nvmeReadComplete 5 1 []) s).nvme = [⟨5, 0, .read 4, true, false, false⟩] ∧ (after (.nvmeReadComplete 5 1 []) r).frames.map (·.lost) = [some ePoison] := by decide +kernel

theorem test_append_complete : let s := driving (.append 4 false 3 [] 1 77) (slowFrame 0xFFFF 0); let n := { poke s [(f_MEDIA_PORT_STATE, 0, 2)] with drives := [] }
    (after (.zoneAppendComplete 5 0 9) s).frames.map (fun f => (f.slot, f.tag)) = [(some ⟨0, 3, 9⟩, 77)] ∧ (after (.zoneAppendComplete 5 0 9) s).nvme = [] ∧
    n.liveDrives = [] ∧ (after (.zoneAppendComplete 5 1 9) n).frames.map (fun f => f.cache.map (·.dirty)) = [some 1] ∧
    (s.drive 0).any (fun d => (d.zone 3).any (fun z => z.state == .opened)) = true ∧ (after (.zoneAppendComplete 5 1 9) s).nvme.map (·.op) = [.finish 3] ∧
    (after (.zoneAppendComplete 5 1 9) s).drives.map (fun d => d.zones.map (·.state)) = [[.full]] := by decide +kernel

/-- The tags of a reclamation copy differ twice: nothing is written. -/
theorem test_copy_differs (data : List Byte) (h : data = List.replicate tileBytes 0#8) : let f := { slowFrame 0 0 with tag := crc32c data }; let s := driving (.readRc 4) f
    s.nvmeCmd 5 = some ⟨5, 0, .readRc 4, false, false, false⟩ ∧ s.frame 4 = some f ∧ data.length = tileBytes ∧ crc32c data = f.tag := by
  refine ⟨rfl, rfl, ?_, rfl⟩
  rw [h]; exact List.length_replicate

/-- A `WRITEBACK` that waits for the append counts its tile. -/
theorem test_append_counts : let d := { dEng (raw64 0x39 []) 0x80 with moving := [(4, 4)], work := 1 }; let s := { driving (.append 4 false 3 [] 1 77) (slowFrame 0xFFFF 0) with descs := [d] }
    d.op = 0x39 ∧ d.phase = .running ∧ (after (.zoneAppendComplete 5 0 9) s).descs = [{ d with work := 2, progress := 1, moving := [] }] := by decide +kernel

theorem test_zone_commands : let z := fun op => (after (.nvmeCommandComplete 5 0 []) (driving op (slowFrame 0 0))).drives.map (fun d => d.zones.map (fun z => (z.state, z.written)))
    (driving (.finish 3) (slowFrame 0 0)).drive 0 = some (drive0 [⟨3, 64, 0, .opened⟩]) ∧ z (.finish 3) = [[(.opened, 0)]] ∧ z (.reset 3) = [[(.opened, 0)]] ∧
    (after (.nvmeCommandComplete 5 0 []) { driving (.reset 3) (slowFrame 0 0) with drives := [drive0 [⟨3, 64, 9, .excluded⟩]] }).drives = [drive0 [⟨3, 64, 9, .excluded⟩]] ∧
    (after (.nvmeCommandComplete 5 0 []) (driving (.setup 0x7A 0) (slowFrame 0 0))).nvme = [] ∧
    (after (.nvmeCommandComplete 5 0 []) { driving .controllerReset (slowFrame 0 0) with mediaWait := [0] }).nvme.map (·.op) = setupCmds.map (fun x => .setup x.1 x.2) ∧
    (after (.nvmeCommandComplete 5 0 []) (driving (.abort 8) (slowFrame 0 0))).nvme = [] ∧
    (after (.nvmeCommandComplete 5 0 []) (driving .controllerReset (slowFrame 0 0))).nvme = [⟨6, 0, .admin 0x0C, false, false, false⟩] ∧
    (after (.nvmeCommandComplete 5 0 []) (driving (.admin 0x0C) (slowFrame 0 0))).nvme.map (·.op) = [.admin 0x0C, .admin 0x02] := by
  decide +kernel

theorem test_command_timeouts : let t := after (.nvmeCommandTimeout 5) (driving (.reset 3) (slowFrame 0 0)); let a := after (.nvmeAbortTimeout 5) (driving (.abort 8) (slowFrame 0 0))
    t.nvme = [⟨5, 0, .reset 3, false, false, true⟩, ⟨6, 0, .abort 5, false, false, false⟩] ∧ a.nvme = [⟨6, 0, .controllerReset, false, false, false⟩] := by decide +kernel

theorem test_drive_fails : let g := { slowFrame 0xFFFF 0 with slot := some ⟨0, 3, 9⟩ }; let s := { driving .controllerReset g with frames := [g, { g with id := 7, cache := none }] }
    let ok := fun c : Instr => (after c s).fldAt f_MEDIA_PORT_STATE 0 == 2 && (after c s).nvme.all (fun x => x.port != 0) && (after c s).frames.map (fun f => (f.slot, f.lost)) == [(none, none), (some ⟨0, 3, 9⟩, some ePoison)]
    s.frames.map (·.id) = [4, 7] ∧ ok (.driveLinkDown 0) = true ∧ ok (.controllerFatalStatus 0) = true ∧ ok (.driveRemoved 0) = true ∧ ok (.controllerResetTimeout 0) = true ∧
    after (.driveRemoved 1) s = s := by decide +kernel

/-- What a drive answers: one namespace of zones with two open at once, and one with other blocks before it. -/
def nvme0 : NvmeId := ⟨(2, 0), (1, 1), none, none, 4, 3, 4⟩

def spaces0 (lba : Nat) : List NvmeNs := [⟨9, true, true, lba, 0, false, some 2, some 2, [(3, 1024, 1), (4, 1024, 0), (5, 1024, 2)]⟩, ⟨2, true, false, 512, 0, false, none, none, []⟩]

theorem test_media : let s := { poke ready [(f_MEDIA_PORT_RATE, 0, 2), (f_TIER_SPLIT_CACHE_GIB, 0, 4)] with mediaWait := [0] }; let ns := spaces0 4096; let t := after (.mediaBringup 0 nvme0 ns) s
    (nvmeSpace ns).map (·.id) = some 9 ∧ (nvmeSpace ns).any nvme0.meets = true ∧ (nvmeSpace (spaces0 512)).any nvme0.meets = false ∧ s.fillQ = [] ∧
    t.fldAt f_MEDIA_PORT_STATE 0 = 1 ∧ t.mediaWait = [] ∧ t.drives.map (fun d => (d.zones, d.queues)) = [([⟨3, 64, 0, .full⟩, ⟨4, 64, 0, .opened⟩], 3)] ∧
    t.nvme.map (·.op) = [.reset 3, .admin 12] ∧ (after (.mediaBringup 0 nvme0 (spaces0 512)) s).fldAt f_MEDIA_PORT_STATE 0 = 3 ∧ after (.mediaBringup 1 nvme0 ns) s = s := by decide +kernel

theorem test_media_link : let s := { poke ready [(f_MEDIA_PORT_RATE, 0, 2)] with mediaWait := [0] }; let d := driving (.read 4) (slowFrame 0 0); let a := driving (.admin 0x02) (slowFrame 0 0)
    let n := fun (t : State) area w off len => (after (.driveDmaRequest 0 area w (off, len)) t).fldAt f_MEDIA_PORT_DMA_REJECTS 0
    (after (.mediaLinkUp 0 3 4) s).fldAt f_MEDIA_PORT_WIDTH 0 = 4 ∧ (after (.mediaLinkUp 0 3 4) s).nvme = [] ∧
    (after (.mediaLinkUp 0 3 4) (poke s [(f_MEDIA_PORT_RATE, 0, 0)])).nvme.map (·.op) = setupCmds.map (fun x => .setup x.1 x.2) ∧
    s.dmaQueues 0 = some 1 ∧ n { s with nvme := [⟨5, 0, .setup 0x06 1, false, false, false⟩] } (.buffer 5) true 0 4096 = 0 ∧ n s (.sq 1) false 0 64 = 0 ∧ n s (.sq 2) false 0 64 = 1 ∧
    s.drive 0 = none ∧ after (.mediaLinkUp 0 3 8) s = s ∧ after (.mediaLinkUp 1 3 4) s = s ∧
    (after (.aerMessage 0) s).fld f_FLT_SEQ_SEQ = s.fld f_FLT_SEQ_SEQ + 1 ∧ n s (.buffer 5) true 0 64 = 1 ∧ n d (.buffer 5) true 0 65536 = 0 ∧ n d (.buffer 5) true 1 65536 = 1 ∧
    n d (.buffer 5) false 0 64 = 1 ∧ n a (.buffer 5) true 0 4096 = 0 ∧ n a (.buffer 5) true 0 4097 = 1 ∧ n d (.sq 0) false 0 4096 = 0 ∧ n d (.sq 0) false 0 4097 = 1 ∧
    n d (.sq 4) false 0 65536 = 0 ∧ n d (.sq 5) false 0 64 = 1 ∧ n d (.cq 4) true 0 16384 = 0 ∧ n d (.cq 4) true 0 16385 = 1 ∧ n d (.cq 1) false 0 16 = 1 ∧ n d .other true 0 1 = 1 ∧
    n (driving (.append 4 false 3 [] 1 77) (slowFrame 0 0)) (.buffer 5) false 0 65536 = 0 := by decide +kernel

def dirtied (f : Frame) : State := { poke ready [(f_TIER_CACHE_DIRTY_HIGH, 0, 50), (f_MEDIA_PORT_STATE, 0, 1)] with frames := [f], drives := [drive0 [⟨3, 64, 0, .opened⟩, ⟨4, 64, 0, .empty⟩]] }

theorem test_background : let s := dirtied (slowFrame 1 1); let f := slowFrame 0xFFFF 1; let p := { slowFrame 1 1 with cache := some ⟨[], 1, 1, [0]⟩ }
    let u := { dirtied f with drives := [] }; let x := { slowFrame 1 1 with slot := some ⟨0, 3, 9⟩ }
    s.dirtyAbove 50 = true ∧ (s.dirtyFrames.find? (fun f => !s.writingBack f.id && f.lost.isNone && (s.cachePoison f).isNone)) = some (slowFrame 1 1) ∧
    (after (.backgroundWriteback 0) s).frames.map (fun f => f.cache.map (·.valid)) = [some 0xFFFF] ∧ (after (.backgroundWriteback 0) ready).background = false ∧
    after (.backgroundWriteback 0) (dirtied p) = { dirtied p with background := true } ∧ x.located = true ∧ (after (.backgroundWriteback 0) (dirtied x)).nvme.map (·.op) = [.read 4] ∧
    u.liveDrives = [] ∧ (after (.backgroundWriteback 0) u).frames = u.frames ∧ (after (.backgroundWriteback 2) u).fld f_TIER_ERR_TAG_MISMATCHES = 2 := by decide +kernel

/-- A whole dirty tile goes to the drive that is next, or to the client. -/
theorem test_background_writes : let s := { dirtied (slowFrame 0xFFFF 1) with drives := [{ drive0 [⟨3, 64, 0, .opened⟩] with openWb := some 3 }] }; let t := after (.backgroundWriteback 1) s
    let c := { dirtied { slowFrame 0xFFFF 1 with tier := 3 } with klClients := [⟨0, 77, 0, 0x100000, 0, 0, ⟨0, 0, 0, 0, 0, 0⟩⟩] }; let v := after (.backgroundWriteback 0) (poke c [(f_KL_PORT_STATE, 0, 2)])
    s.driveOrder = [0] ∧ (s.drive 0).any (fun d => (d.openZone 0 false none).any (fun x => x.2.num == 3)) = true ∧ s.appendsIn 0 3 = 0 ∧
    t.frames.map (fun f => f.cache.map (·.dirty)) = [some 0] ∧ t.nextDrive = 1 ∧
    t.nvme.map (fun c => match c.op with | .append f rc z _ d _ => (c.port, f, rc, z, d) | _ => (9, 9, true, 9, 9)) = [(0, 4, false, 3, 1)] ∧
    v.frames.map (fun f => f.cache.map (·.dirty)) = [some 0] ∧ v.klOuts.map (·.tag) = (List.range 64).map (fun k => c.nextTag + k) := by decide +kernel

theorem test_reclaim : let d := drive0 [⟨3, 64, 64, .full⟩]; let s := { poke ready [(f_MEDIA_CTL_RECLAIM_LOW, 0, 2), (f_MEDIA_PORT_STATE, 0, 1)] with drives := [d] }
    let u := { s with frames := [{ slowFrame 0xFFFF 0 with slot := some ⟨0, 3, 9⟩, cache := none }] }
    s.victimZone d = some ⟨3, 64, 64, .full⟩ ∧ s.zoneLive 0 3 = [] ∧ (after (.zoneReclaim 0) s).nvme.map (·.op) = [.reset 3] ∧ (after (.zoneReclaim 0) u).nvme.map (·.op) = [.readRc 4] ∧
    (let v := { u with nvme := [⟨5, 0, .read 8, false, false, false⟩] }
     v.reclaimRoom 0 = false ∧ after (.zoneReclaim 0) v = v ∧ (poke v [(f_MEDIA_CTL_RECLAIM_SHARE, 0, 50)]).reclaimRoom 0 = true) ∧
    (after (.zoneReclaim 0) { s with drives := [drive0 []] }).nvme = [] ∧ after (.zoneReclaim 1) s = s ∧
    (after (.zoneReclaim 0) { s with nvme := [⟨5, 0, .reset 3, false, false, false⟩] }).nvme.length = 1 := by decide +kernel

theorem test_scrub : let s := poke ready [(f_TIER_SCRUB_ENABLE, 0, 1)]
    (after (.patrolScrub directBase 9 .corrected) s).fldAt f_TIER_PC_ERR_CORRECTED 9 = 1 ∧ s.placeOf directBase = .direct ∧
    (after (.patrolScrub directBase 9 .uncorrectable) s).poison = [directBase] ∧ after (.patrolScrub directBase 9 .none) s = s ∧ (after (.patrolScrub 0 9 .corrected) (poke s [(f_TIER_SCRUB_ENABLE, 0, 0)])).fldAt f_TIER_PC_ERR_CORRECTED 9 = 0 := by
  decide +kernel

theorem test_retire_and_test : let s := poke ready [(f_TIER_POOL_BASE_GIB, 0, 1), (f_TIER_POOL_LEN_GIB, 0, 1)]; let w := f_TIER_RETIRE_ADDR.set 0#64 ((directBase + gib) / 65536 + 2)
    let b := f_BORAGE_CTL_STACKS.set (w1 f_BORAGE_CTL_START 1) 3; let t := after (.borageStart b) s
    s.inPool (directBase + gib + 131072) = true ∧ (after (.tierRetire w) s).retired = [2] ∧ (after (.tierRetire w) s).fld f_TIER_ERR_RETIRED = 1 ∧ t.fld f_BORAGE_STATUS_BUSY = 1 ∧ t.borage = (3, 0) ∧
    (after (.borageDone 4 9) (poke s [(f_BORAGE_STATUS_BUSY, 0, 1)])).fld f_BORAGE_STATUS_FAILS = 4 ∧ (after (.borageStart b) (poke s [(f_SLC_SHARE_DRAM_PCS, 5, 8)])).fld f_BORAGE_STATUS_REJECT = 1 ∧
    (after (.borageStart b) (poke s [(f_SLC_SHARE_DRAM_PCS, 5, 8)])).fld f_BORAGE_CTL_STACKS = 0 ∧ (after (.borageStart b) (poke s [(f_BORAGE_STATUS_BUSY, 0, 1)])).fld f_BORAGE_CTL_STACKS = 3 ∧
    after (.borageDone 4 9) s = s := by decide +kernel

/-! ### Errors of the hardware (HardwareErrors), and values that the manual leaves undefined (R147, R190, R259, R262) -/

theorem test_wf_errors : (Instr.bulkRead qp [⟨0, 383, .none, false⟩]).wf = true ∧ (Instr.bulkRead qp [⟨0, 384, .none, false⟩]).wf = false ∧
    (Instr.clientWrite 0 kp [⟨2 ^ 50, 0, .none, false⟩]).wf = false ∧ (Instr.attendMax 0 0 0 [⟨0, 63, .differs⟩]).wf = true ∧
    (Instr.attendMax 0 0 0 [⟨0, 64, .differs⟩]).wf = false := by decide +kernel

/-- R473: address 0x10000 is in line 0x100, hence in slice (0x100 ^ 1) & 0xFF = 1. -/
theorem test_store_slice : storeSlice 0x10000 = 1 ∧ storeSlice 0x1FF = 1 ∧ storeSlice 0x1000000 = 1 := by decide +kernel

theorem test_memory_errors : let s := { own 0 0 with rings := [{ ring1 with loc := 0 }], descs := [] }
    let bad : MemErr := ⟨0x10144, 0, .uncorrectable, false⟩; let ok : MemErr := ⟨0x10144, 0, .corrected, false⟩
    s.alive = true ∧ s.inScratch 0x10144 = true ∧ s.fld f_FLT_LOG_RING_LOG2 = 0 ∧ (s.memErr bad).poison = [0x10140] ∧ (s.memErr bad).fld f_STORE_ECC_UNCORRECTED = 1 ∧
    (s.memErr bad).alive = true ∧ (s.memErr ok).fld f_STORE_ECC_CORRECTED = 1 ∧ (s.memErr ok).poison = [] ∧
    ((after (.descriptorConsume 1 2 [bad]) s).descs.map (fun d => (d.status, d.detail))) = [(ePoison, 0x10140)] ∧
    ((poke s [(f_FRZ_ALARM_CAUSES, 0, 128)]).memErr bad).alive = false ∧ s.inScratch 0x100044 = false ∧ (s.memErr { bad with addr := 0x100044, store := true }).poison = [0x100040] ∧
    (s.memErr { ok with addr := 0x100044, store := true }).fld f_STORE_ECC_CORRECTED = 1 ∧ s.memErr { bad with addr := 6 * gib, store := true } = s := by decide +kernel

theorem test_array_errors : let s := poke (attending 0x11) [(f_ARR_AUDIT_CTL_ENABLE, 0, 1), (f_ARR_AUDIT_CTL_LOG2_N, 0, 0), (f_ARR_AUDIT_CTL_FAIL_ON_MISMATCH, 0, 1), (f_ARR_DISABLE_ARRAY, 0, 2)]
    let d := desc1 (raw64 0x11 []); let e := { d with engine := 0 }; let row := fun _ : Nat => ([] : List Byte)
    let out := fun es => okWith (s.attFinish e es [100, 200] (fun _ _ => true) [] 0 row) (fun x => x.1.status == ePoison && x.1.detail == 200 && x.2 == [100, 200])
    let mis := fun es => okWith (s.attFinish e es [100, 200] (fun _ _ => true) [] 0 row) (fun x => x.1.status == eIntegrity && x.1.detail == 100)
    out [⟨1, 3, .uncorrectable⟩] = true ∧ s.mismatch 0 ⟨0, 0, .differs⟩ = some 2 ∧ mis [⟨0, 0, .differs⟩] = true ∧ s.mismatch 0 ⟨0, 1, .differs⟩ = none ∧
    (s.arrErrs s e [100] [⟨0, 0, .differs⟩]).fld f_ARR_MISMATCH_ARRAY = 5 ∧ (s.arrErrs s e [100] [⟨0, 0, .differs⟩]).fld f_ARR_AUDIT_STATUS_MISMATCHES = 1 ∧
    (s.arrErrs s e [100] [⟨0, 9, .uncorrectable⟩]).fld f_ARR_ECC_UNCORRECTED = 1 ∧ (s.arrErrs s e [100] [⟨0, 9, .corrected⟩]).fld f_ARR_ECC_CORRECTED = 1 ∧
    s.passErrs 0 [⟨0, 9, .corrected⟩, ⟨0, 1, .corrected⟩] = [] ∧
    ((after (.attend 1 2 5 [⟨0, 9, .uncorrectable⟩]) s).descs.map (·.status)) = ((after (.attend 1 2 5 []) s).descs.map (·.status)) := by
  decide +kernel

theorem test_torn : let a := { dEng (raw64 0x11 [(16, ref3 0)]) 0 with key := ⟨1, 2, 4⟩ }
    let b := homing (snap 1 5) (fun r => { r with retained := [v5] }); let s := { b with descs := b.descs ++ [a] }
    ((after (.rollback 1 2 5) s).descs.map (·.torn)) = [false, true] := by decide +kernel

theorem test_row_mixed : let u := updating1; let other := u.descs.map (fun d => { d with key := ⟨1, 2, 4⟩, raw := d.raw.take 44 ++ [1] ++ d.raw.drop 45 })
    u.descs.all (fun d => !u.rowMixed d d.planOf 0 && (poke { u with descs := u.descs ++ other } []).rowMixed d d.planOf 0) = true := by decide +kernel

theorem test_areas : let t := streamAt ([1, 0, 64, 0, 0, 0, 0, 0, 1, 0, 0, 0] ++ List.replicate 20 0#8 ++ leBytes 8 65536 ++ leBytes 8 0 ++ leBytes 8 256 ++ List.replicate 200 0#8) 0
    areasOverlap [t] = false ∧ areasOverlap [{ t with sum := 128 }] = true ∧ areasOverlap [t, { t with off := 512, kv := 131072 }] = true := by decide +kernel

/-! ### More forms: what statements of the parts above say of waiting, lost and replayed work -/

/-- The write that unmasks vector 255 finds ring 2's record unacknowledged on another port: its interrupt is owed. -/
theorem test_unmask_owed : let i := 256 * 1 + 255; let w := f_SLV_HI_PORT.set (w1 f_SLV_HI_ENABLE 1) 3
    let s := poke { coal with klOuts := [⟨0, 1, .ringStruct 1 2, 32, [], []⟩] } [(f_SLV_HI_MASK, i, 1), (f_SLV_HI_PENDING, i, 1)]; let t := after (.vectorEntryWrite (0x100000 + 16 * i + 8) w) s
    s.ringOwes 1 2 = true ∧ f_SLV_HI_MASK.get w = 0 ∧ f_SLV_HI_PORT.get w = 3 ∧ t.fldAt f_SLV_HI_PENDING i = 0 ∧ t.queue = [] ∧ t.rings.map (·.intDue) = [true] := by decide +kernel

/-- A type that the table does not have; a read of region 3's version 5 by reference, one that borrows it for a lookup, and the end of that lookup. -/
theorem test_fabric_references : let x := pk 0x3F 2 0 0 []; let r := { pk 0x07 5 0 4 [] with rref := some (3, 2, 5), look := (2, 5) }
    let b := { r with aux := 0 }; let e := { b with rref := some (3, 3, 0) }; let l : Lent := ⟨1, 1, (2, 5), ⟨3, some 5, [(0, 2)]⟩⟩
    let s := { poke home [(f_TIER_POOL_BASE_GIB, 0, 1), (f_TIER_POOL_LEN_GIB, 0, 1), (f_AS_RGN_SIZE_LOG2_ENTRIES, 0, 4)] with
      mapCur := some { map2 with jobs := [⟨4, 0, [⟨0, 1, false, 0⟩, ⟨1, 1, false, 0⟩]⟩] }, regions := [{ region3 with retained := [⟨5, [(0, 2)]⟩] }], frames := [frameOf 2 (cellsWrite [] 0 [8, 7, 6, 5])] }
    qpktKnown 0x3F = false ∧ (after (.qfRead x []) s).fld f_QF_CNT_MALFORMED = 1 ∧ shows (after (.qfRead x []) s) 0x0F (leBytes 8 12) = true ∧
    shows (after (.bulkRead r []) s) 0x02 [8, 7, 6, 5] = true ∧ (after (.bulkRead b []) s).lent = [l] ∧
    shows (after (.bulkRead b []) s) 0x02 [] = true ∧ (after (.bulkRead e []) { s with lent := [l] }).lent = [] := by decide +kernel

/-- A request rejected for its epoch behind an earlier one of its thread that went out under another; a `CUT` that its region refuses by a torn
version, and a `PUBLISH` that ends with the same status. -/
theorem test_answers_wait : let o := asking 0x01 2 2; let st := pk 0x0F 3 0 (eStaleEpoch + 6 * 256) (leBytes 8 1)
    let s := { o with outReqs := o.outReqs.map (fun x => { x with pkt := { x.pkt with tag := 6, epoch := 9 } }) ++ o.outReqs }
    let no := pk 0x0A 3 0 eIntegrity (List.replicate 16 0#8); let h := fun (i : Nat) => { asking 0x09 4 0x30 with descs := [dAt 5 (raw64 0x30 [(24, [byte i])]) .running] }
    (after (.errResponse st) s).outReqs.map (fun x => (x.pkt.tag, x.sends, x.stale)) = [(6, 1, false), (7, 1, true)] ∧ (after (.errResponse st) s).queue = [] ∧
    (after (.homeRsp no) (h 0)).descs.map (fun d => (d.status, d.started)) = [(eIntegrity, false)] ∧
    (after (.homeRsp no) (h 3)).descs.map (fun d => (d.status, d.started)) = [(eIntegrity, true)] := by decide +kernel

/-- A port that the map lists with no caching client is given no copy; a line whose owner's node is dead is poisoned and granted anew; a client's
request waits behind an acquire of its stream that is outstanding. -/
theorem test_coherent_waits : let n := { home with mapCur := some map2 }; let t := after (.rdS (.peer (rs 0x10))) n; let dead := { map2 with nodes := [node 0 100 .live, node 1 101 .live, node 2 102 .dead] }
    let s := { held (ent .x [(2, 0)] 0 0 [] .none) with mapCur := some dead }; let p := ck 0x10 0 0xFFFFFFFF 5 []; let u := after (.rdX (.client 0 (ck 0x11 0 0xFFFFFFFF 5 []))) s
    n.cachesAt 1 0 = false ∧ t.dir = [] ∧ (sent t).map (fun q => q.typ) = some 0x1A ∧ s.lostHolder (2, 0) = true ∧
    u.dir.map (fun e => (e.state, e.ptrs)) = [(.xHeld, [(0, 0)])] ∧ u.poison = [directBase] ∧ home.cohWaits 0 p = false := by decide +kernel

/-- The place of an engine's access at the head of its bank, while the descriptor runs and after; a visit of a set with a line of a dead node. -/
theorem test_bank_place : let k : DKey := ⟨1, 2, 5⟩; let w : Waiting := ⟨{ org := .desc k, op := .read 4, addr := directBase, slice := 1, node := 0 }, bank directBase⟩
    let s := { home with bankQ := [w] }; let r := { s with descs := [dAt 5 (raw64 0x02 []) .running] }; let dead := { map2 with nodes := [node 0 100 .live, node 1 101 .live, node 2 102 .dead] }
    let v := { held (ent .x [(2, 0)] 0 0 [] .none) with mapCur := some dead }; let sh := { held (ent .s [(2, 0), (1, 0)] 0 0 [] .none) with mapCur := some dead }; let set := v.setOf line0
    after (.queuedAccessApply (bank directBase)) r = r ∧ (after (.queuedAccessApply (bank directBase)) s).bankQ = [] ∧ (v.waysOf set).length = 1 ∧
    (after (.directorySetVisit (bank directBase) set) v).dir = [] ∧ (after (.directorySetVisit (bank directBase) set) v).poison = [directBase] ∧
    (after (.directorySetVisit (bank directBase) set) sh).dir.map (·.ptrs) = [[(1, 0)]] := by decide +kernel

/-- Port 4's link is as given. -/
def linked (l : Link) : State := { mem0 with links := [l] }

def kill0 : Pkt := .kl (mkKl 0x34 6 0 0 3 [])

/-- A link that sends `KILL`; one in the middle of a packet, and one that repeats its blocks. -/
theorem test_link_sends : let l := freshLink 4 101; let put := fun x => (after (.linkBlockSend 4) (linked x)).link 4
    (after (.linkBlockSend 4) (linked { l with kills := 1, killPkt := some kill0 })).link 4 = none ∧
    ((after (.linkBlockSend 4) (linked { l with kills := 2, killPkt := some kill0 })).link 4).map (fun x => (x.kills, x.replay)) = some (1, [(0, [kill0])]) ∧
    put { l with txSeq := 4, again := some 2 } = some { l with txSeq := 4, again := some 3 } ∧ put { l with txSeq := 4, again := some 3 } = some { l with txSeq := 4 } ∧
    put { l with txPart := some (9, kill0) } = some { l with txSeq := 1, replay := [(0, [])], txPart := some (2, kill0) } ∧
    put { l with txPart := some (7, kill0) } = some { l with txSeq := 1, replay := [(0, [kill0])] } := by decide +kernel

/-- A link that is asked for a replay, the eighth failed one of which ends it; an input with no free cells. -/
theorem test_link_replays : let l := { freshLink 4 101 with txSeq := 4 }; let got := fun x => after (.linkBlockReceived 4 { blk 0 0 [] with replay := some 2 }) (linked x)
    let b : Pkt := .qf { qp with payload := List.replicate 512 0#8 }; let full := poke mem0 [(limitFld 0, 4, 1)]
    ((got l).link 4).map (fun x => (x.again, x.againSeq, x.againCount)) = some (some 2, some 2, 0) ∧
    ((got { l with againSeq := some 2, againCount := 6 }).link 4).map (·.againCount) = some 7 ∧ (got { l with againSeq := some 2, againCount := 7 }).link 4 = none ∧
    full.fitsIn 4 b = false ∧ (after (.linkBlockReceived 4 (blk 0 0 [b])) full).rx = [] ∧ (after (.linkBlockReceived 4 (blk 0 0 [b])) mem0).rx = [(4, b)] := by decide +kernel

/-- Before a map stands: a keeper's messages are passed on once, by keepers and by the others; one that has a map passes nothing on. -/
theorem test_relays : let n := { mem0 with mapCur := none }; let o := { n with cfg := n.cfg.map (fun c => { c with keepers := [101, 102] }) }
    let f := fun (t : State) => t.queue.map (fun q => match q.pkt with | .map a b _ _ _ _ _ => (a, b) | _ => (9, 9))
    o.keeperPos = none ∧ f (after (.voteReq 1 4 0) o) = [(1, 0xFFFF)] ∧ f (after (.voteReq 1 4 0) (after (.voteReq 1 4 0) o)) = [(1, 0xFFFF)] ∧
    f (after (.voteReq 1 4 1) n) = [(1, 0xFFFF), (0, 0xFFFF)] ∧ f (after (.vote 1 4 true (some 1)) n) = [(1, 0xFFFF)] ∧ f (after (.vote 1 4 true (some 1)) mem0) = [] ∧
    f (after (.replicate 1 (map3 1)) n) = [(1, 0xFFFF), (0, 0xFFFF)] ∧ f (after (.replicate 1 (map3 1)) o) = [(0, 0xFFFF)] ∧ f (after (.replAck 1 2) n) = [(1, 0xFFFF)] ∧
    f (after (.topo 9 []) { n with keeper := { n.keeper with up := some 4 } }) = [(0, 0xFFFF)] := by decide +kernel

/-- The leader accepts another's request: it ends once the map of its epoch is current; a device that is in the map already brings a link. -/
theorem test_granted : let c := { mem0 with composing := some (.compose 0 []) }; let t := after (.report 1 (.accepted 2 4)) c; let u := after (.report 1 (.accepted 1 4)) c
    t.granted = some (2, 4) ∧ t.composing.isSome = true ∧ u.composing = none ∧ (u.fld f_SLC_COMPOSE_RES_JOB, u.fld f_SLC_COMPOSE_RES_EPOCH) = (4, 1) ∧
    u.fld f_SLC_COMPOSE_STAT_STATUS = stOk ∧ map2.nodeOfDev 101 = some 1 ∧
    ((after (.report 0 (.newDevice 101 ⟨0, 6, 9, 6⟩)) lead).keeper.replicated.map (fun m => (m.nodes.length, m.links.length))) = some (2, 2) ∧
    map2.idle (.dropClient 1 0) = true ∧ (lead.addChange (.dropClient 1 0)).keeper.stage = 0 := by decide +kernel

/-- A killed client's port sends `KILL` in its next 64 blocks; a reset slice's arrays lose their words, in another slice's group they keep them. -/
theorem test_kill_and_arrays : let s := { cli with links := [lnk 0] }; let t := after (.klPortKill 0) s
    let r := { poke on [(f_SLC_CFG_ENABLE, 1, 1), (f_SLC_CFG_GROUPS, 1, 1), (f_SLC_STATUS_BUSY, 1, 1)] with
      resets := [⟨1, true, false⟩], arrMem := [(0, 5), (9, 6)], arrSlice := [(0, 2), (9, 1)] }
    (t.link 0).map (fun l => (l.kills, l.killPkt.map (fun p => match p with | .kl k => (k.typ, k.aux) | _ => (0, 0)))) = some (64, some (0x34, 3)) ∧
    r.resetQuiet 1 = true ∧ (after (.sliceResetFinish 1) r).arrMem = [(9, 6)] := by decide +kernel

/-- A log record whose line a client holds waits at its bank. -/
theorem test_record_waits : let d := { pk 0x39 6 0 0 (List.replicate 64 1#8) with dest := 0 }
    let s := { poke lead [(f_FLT_LOG_RING_LOG2, 0, 4), (f_FLT_LOG_RING_BASE, 0, 3)] with dir := [{ ent .x [(0, 0)] 0 0 [] .none with line := 192 }] }
    s.recordWaits 12288 64 = true ∧ (after (.diag d) s).mem = s.mem ∧ (after (.diag d) s).bankQ.map (fun w => w.acc.addr) = [12288] := by decide +kernel

/-- Ports: a lane test while one runs starts nothing; a client that is lost leaves what was asked of it. -/
theorem test_port_forms : let w := f_QF_DILL_CTL_PORTS.set (w1 f_QF_DILL_CTL_START 1) 2; let b := poke mem0 [(f_QF_DILL_STAT_BUSY, 0, 1)]
    let s := { cli with links := [lnk 0], klOuts := [⟨0, 1, .ringStruct 1 2, 32, [], []⟩] }
    (after (.dillStart w) b).dill = [] ∧ (after (.dillStart w) b).fld f_QF_DILL_CTL_PORTS = 2 ∧ (after (.linkIdleTimeout 0) s).klOuts = s.klOuts := by decide +kernel

/-- A client's coherent request waits at its port behind an acquire of its stream. -/
theorem test_client_waits : let p := ck 0x10 0 0xFFFFFFFF 5 []; let s := { home with txns := [⟨1, 0, { ck 0x01 2 4 (2 ^ 20) [] with ord := 1 }, 1, 4, [], 0, 0, 0, false, []⟩] }
    s.cohWaits 0 p = true ∧ after (.rdS (.client 0 p)) s = s := by decide +kernel

end Sys2Proof.Tests
end

/-! Register writes by field (R10, R11), and which register words an event leaves as they were (R523 to R531). -/

namespace Sys2Proof.Machine

/-! ### Where a register's words stand -/

theorem findReg_offset {off i : Nat} {r : RegSpec} (h : findReg off = some (r, i)) : off = r.off + r.stride * i ∧ i < r.count := by
  unfold findReg at h
  obtain ⟨x, -, hx⟩ := List.exists_of_findSome?_eq_some h
  split at hx
  · rename_i hc
    obtain ⟨hle, hmod, hlt⟩ := hc
    cases hx
    have hdiv := Nat.div_add_mod (off - r.off) r.stride
    exact ⟨by omega, hlt⟩
  · cases hx

/-- Every register with a locked field stands below the fault registers. -/
theorem regTable_locked_below :
    regTable.all (fun r => !r.fields.any (fun f => f.acc == .rwl) || decide (r.off + r.stride * r.count ≤ 0xE0000)) = true := by
  decide +kernel

theorem State.lockedWrite_offset_le {s : State} {off : Nat} {w : Word} (h : s.lockedWrite off w = true) : off ≤ 0xE0000 := by
  unfold State.lockedWrite at h
  split at h
  · cases h
  · rename_i r i hr
    have hlocked : r.fields.any (fun f => f.acc == .rwl) = true := by
      obtain ⟨f, hf, hc⟩ := List.any_eq_true.mp h
      exact List.any_eq_true.mpr ⟨f, hf, (Bool.and_eq_true_iff.mp hc).1⟩
    have hbound : r.off + r.stride * r.count ≤ 0xE0000 := by
      simpa [hlocked] using List.all_eq_true.mp regTable_locked_below r (findReg_mem hr)
    obtain ⟨hoff, hi⟩ := findReg_offset hr
    have := Nat.mul_le_mul_left r.stride hi.le
    omega

/-! ### Writes of plain registers -/

/-- None of the writes with effects of their own is that of a plain register. -/
theorem State.namedWrite_plain (s : State) (reg : String) (i off : Nat) (w : Word) (h : plainReg reg = true) :
    s.namedWrite reg i off w = s.plainWrite off w (s.takes reg i) := by
  have hs : s.simpleWrite reg i off w = s.plainWrite off w (s.takes reg i) := by
    unfold State.simpleWrite
    extract_lets s1
    split
    case h_5 => rfl
    all_goals exact absurd h (by decide)
  unfold State.namedWrite
  split
  case h_38 => exact hs
  all_goals exact absurd h (by decide)

/-- A write of a plain register: its fields, then the setup-lock alarm when a locked field would change. -/
theorem State.regWrite_plain {s : State} {off i : Nat} {r : RegSpec} (w : Word) (hd : inDoorbells off = false)
    (hr : findReg off = some (r, i)) (hp : plainReg r.name = true) :
    s.regWrite off w = if s.locked && s.lockedWrite off w
      then (s.plainWrite off w (s.takes r.name i)).raise (ev 0x01 0 (setupBase + off))
      else s.plainWrite off w (s.takes r.name i) := by
  simp only [State.regWrite, hd, hr, Bool.false_eq_true, if_false, State.namedWrite_plain s r.name i off w hp]

theorem exec_registerWrite_alive {s : State} (off : Nat) (w : Word) (h : s.alive = true) :
    exec (.registerWrite off w) s = .next (s.regWrite off w) := by
  change execRegisterWrite off w s = _
  simp only [execRegisterWrite, State.whenAlive, h, if_true]

/-- After the setup lock a locked field stays (R10). -/
theorem FSpec.after_locked {f : FSpec} (ok : Bool) (old w : Nat) (h : f.acc = .rwl) : f.after true ok old w = bits old f.lo f.width := by
  simp [FSpec.after, h]

/-! ### Register words that a named update leaves -/

theorem State.word_of_regs {s t : State} (h : t.regs = s.regs) (o : Nat) : t.word o = s.word o := by
  unfold State.word
  rw [h]

theorem State.word_setFldAt_ne (s : State) (f : Fld) (i v : Nat) {o : Nat} (h : o ≠ f.addr i) : (s.setFldAt f i v).word o = s.word o :=
  State.word_setWord_ne _ _ _ _ h

theorem State.word_setFld_ne (s : State) (f : Fld) (v : Nat) {o : Nat} (h : o ≠ f.addr 0) : (s.setFld f v).word o = s.word o :=
  State.word_setFldAt_ne s f 0 v h

theorem State.word_incSat_ne (s : State) (f : Fld) {o : Nat} (h : o ≠ f.addr 0) : (s.incSat f).word o = s.word o :=
  State.word_setFldAt_ne s f 0 _ h

theorem State.word_addWrap_ne (s : State) (f : Fld) (n : Nat) {o : Nat} (h : o ≠ f.addr 0) : (s.addWrap f n).word o = s.word o :=
  State.word_setFld_ne s f _ h

/-! ### Register words that an event leaves -/

@[simp] theorem State.recordWrite_regs (s : State) (a : Nat) (bs : List Byte) : (s.recordWrite a bs).regs = s.regs := by
  unfold State.recordWrite
  split <;> rfl

@[simp] theorem State.sendQf_regs (s : State) (p : QPkt) : (s.sendQf p).regs = s.regs := by
  unfold State.sendQf
  split
  · rfl
  · split <;> rfl

/-- A log record touches no register but the log's counts and its statistics. -/
theorem State.logWrite_word (s : State) (rec64 : List Byte) {o : Nat} (hidx : o ≠ 0xE0008) (hstat : o ≠ 0xE0010) :
    (s.logWrite rec64).word o = s.word o := by
  unfold State.logWrite
  dsimp only
  split
  · exact State.word_incSat_ne s f_FLT_LOG_STAT_UNLOGGED hstat
  · rw [State.word_setFld_ne _ f_FLT_LOG_IDX_PROD _ hidx, State.word_of_regs (State.recordWrite_regs ..)]
    split
    · rw [State.word_incSat_ne _ f_FLT_LOG_STAT_OVERWRITTEN hstat, State.word_setFld_ne _ f_FLT_LOG_IDX_CONS _ hidx]
    · rfl

theorem State.alarmAdd_word (s : State) (base i node source cause n first last : Nat) {o : Nat} (h : o < base) :
    (s.alarmAdd base i node source cause n first last).word o = s.word o := by
  unfold State.alarmAdd
  dsimp only
  rw [State.word_setWord_ne _ _ _ _ (by omega)]
  split
  · rw [State.word_setWord_ne _ _ _ _ (by omega), State.word_setWord_ne _ _ _ _ (by omega), State.word_setWord_ne _ _ _ _ (by omega)]
  · rw [State.word_setWord_ne _ _ _ _ (by omega), State.word_setWord_ne _ _ _ _ (by omega)]

/-- Counting an alarm touches no register below the alarm tables but the alarm statistics. -/
theorem State.countAlarm_word (s : State) (source cause detail : Nat) {o : Nat} (hlow : o < 0x140000) (hstat : o ≠ 0xE0030) :
    (s.countAlarm source cause detail).word o = s.word o := by
  unfold State.countAlarm
  split
  extract_lets s1 s2 s3 n s4 s5
  have h1 : s1.word o = s.word o := State.alarmAdd_word _ _ _ _ _ _ _ _ _ hlow
  have h2 : s2.word o = s1.word o := State.word_addWrap_ne _ f_FLT_ALARM_STAT_ALARMS 1 hstat
  have h3 : s3.word o = s2.word o := by
    unfold s3
    split
    · exact State.word_incSat_ne _ f_FLT_ALARM_STAT_AGGREGATED hstat
    · rfl
  have h4 : s4.word o = s3.word o := State.word_setFld_ne _ f_FLT_ALARM_STAT_ENTRIES n hstat
  have h5 : s5.word o = s.word o := (State.word_of_regs rfl o).trans (h4.trans (h3.trans (h2.trans h1)))
  split
  · split
    exact (State.alarmAdd_word _ _ _ _ _ _ _ _ _ (by omega)).trans h5
  · exact h5

/-- A freeze touches only the freeze registers. -/
theorem State.freeze_word (s : State) (trigger : Fld) (source cause : Nat) {o : Nat} (ht : 0x1B0000 ≤ trigger.off) (h : o < 0x1B0000) :
    (s.freeze trigger source cause).word o = s.word o := by
  have hset : ∀ (t : State) (f : Fld) (v : Nat), 0x1B0000 ≤ f.off → (t.setFld f v).word o = t.word o := fun t f v hf =>
    State.word_setFld_ne t f v (by unfold Fld.addr; omega)
  unfold State.freeze
  split
  · rfl
  · split
    · split
      · exact hset _ _ _ ht
      · rfl
    · rw [hset _ f_FRZ_DOMAINS_STOPPED _ (by decide), hset _ f_FRZ_AON_AON _ (by decide), hset _ f_FRZ_STAMP_STAMP _ (by decide),
        hset _ f_FRZ_STATUS_FROZEN _ (by decide), hset _ f_FRZ_STATUS_ALARM_CAUSE _ (by decide),
        hset _ f_FRZ_STATUS_ALARM_SOURCE _ (by decide), hset _ trigger _ ht]

/-- Of the registers below the alarm tables, the record of an event touches `FLT_SEQ`, the log's counts, and the statistics of log and alarms. -/
theorem State.record_word (s : State) (e : Event) {o : Nat} (hlow : o < 0x140000) (hidx : o ≠ 0xE0008) (hlog : o ≠ 0xE0010) (halarm : o ≠ 0xE0030) :
    (s.record e).word o = (s.setFld f_FLT_SEQ_SEQ (s.fld f_FLT_SEQ_SEQ + 1)).word o := by
  unfold State.record
  extract_lets seq r s1 s2 s3 s4
  have h1 : s1.word o = (s.setFld f_FLT_SEQ_SEQ seq).word o := State.logWrite_word _ r hidx hlog
  have h2 : s2.word o = s1.word o := by
    unfold s2
    split
    · exact State.countAlarm_word _ _ _ _ hlow halarm
    · rfl
  have h4 : s4.word o = s3.word o := by
    unfold s4
    split
    · split
      · exact State.word_of_regs (State.sendQf_regs ..) o
      · rfl
    · rfl
  have h : s4.word o = (s.setFld f_FLT_SEQ_SEQ seq).word o := h4.trans ((State.word_of_regs rfl o).trans (h2.trans h1))
  split
  · exact (State.freeze_word _ _ _ _ (by decide) (by omega)).trans h
  · exact h

/-- The record of an event takes the next number (R523). -/
theorem State.record_seq (s : State) (e : Event) : (s.record e).fld f_FLT_SEQ_SEQ = (s.fld f_FLT_SEQ_SEQ + 1) % 2 ^ 64 :=
  (congrArg f_FLT_SEQ_SEQ.get (State.record_word s e (by decide) (by decide) (by decide) (by decide))).trans
    (State.fld_setFld s f_FLT_SEQ_SEQ _ (by decide))

/-- Registers below the log's counts read the same after the record of an event. -/
theorem State.record_word_below (s : State) (e : Event) {o : Nat} (h : o < 0xE0008) : (s.record e).word o = s.word o :=
  (State.record_word s e (by omega) (by omega) (by omega) (by omega)).trans
    (State.word_setFld_ne s f_FLT_SEQ_SEQ _ (by change o ≠ 0xE0018; omega))

/-- With `FLT_CTL.INT_EN` 0 an event is its record: no message is sent or due (R528). -/
theorem State.raise_silent (s : State) (e : Event) (h : s.flag f_FLT_CTL_INT_EN = false) : s.raise e = s.record e := by
  have hctl : (s.record e).flag f_FLT_CTL_INT_EN = false := by
    rw [← h]
    have hword : (s.record e).word 0xE0020 = s.word 0xE0020 :=
      (State.record_word s e (by decide) (by decide) (by decide) (by decide)).trans (State.word_setFld_ne s f_FLT_SEQ_SEQ _ (by decide))
    exact congrArg (fun w => f_FLT_CTL_INT_EN.get w == 1) hword
  have htells : (s.record e).logTells = false := by simp only [State.logTells, hctl, Bool.false_and]
  simp only [State.raise, State.logTell, State.logDue, htells, Bool.false_and, Bool.false_eq_true, if_false]

/-! ### The statement -/

/-- Settles O9: a plain write is `State.plainWrite`; the record of the setup-lock alarm changes only registers above every locked one. -/
theorem registerWrites : Obligations.RegisterWrites := by
  unfold Obligations.RegisterWrites
  refine ⟨fun s off i w r halive hd hr hp hopen => ?_, fun s off i w r halive hd hr hp hlock hlw hint => ?_⟩
  · obtain ⟨hfields, hothers, honly⟩ := State.plainWrite_fields s off i w (s.takes r.name i) r hr
    refine ⟨s.plainWrite off w (s.takes r.name i), ?_, ⟨honly, fun o ho => hothers o (by simpa using ho)⟩, hfields⟩
    simp only [exec_registerWrite_alive off w halive, State.regWrite_plain w hd hr hp, hopen, Bool.false_eq_true, if_false]
  · obtain ⟨hfields, hothers, -⟩ := State.plainWrite_fields s off i w (s.takes r.name i) r hr
    have hexec : exec (.registerWrite off w) s =
        .next ((s.plainWrite off w (s.takes r.name i)).raise (ev 0x01 0 (setupBase + off))) := by
      simp only [exec_registerWrite_alive off w halive, State.regWrite_plain w hd hr hp, hlock, hlw, Bool.and_self, if_true]
    generalize s.plainWrite off w (s.takes r.name i) = u at hfields hothers hexec
    have hoff := State.lockedWrite_offset_le hlw
    have hseq : u.fld f_FLT_SEQ_SEQ = s.fld f_FLT_SEQ_SEQ := congrArg f_FLT_SEQ_SEQ.get (hothers 0xE0018 (by omega))
    have hsilent : u.flag f_FLT_CTL_INT_EN = false :=
      (congrArg (fun v => f_FLT_CTL_INT_EN.get v == 1) (hothers 0xE0020 (by omega))).trans hint
    rw [State.raise_silent _ _ hsilent] at hexec
    refine ⟨_, hexec, ?_, fun f hf hacc => ?_⟩
    · rw [State.record_seq, hseq]
    · unfold State.specField
      rw [State.record_word_below _ _ (by omega), hfields f hf, hlock, FSpec.after_locked _ _ _ hacc]

end Sys2Proof.Machine

/-! How a home judges a request packet and answers it (R17, R409 to R411, R424, R426), and reads of a region by reference (R49, R58, R243). -/

namespace Sys2Proof.Machine

/-! ### A ZV9 that runs -/

theorem State.whenAlive_alive {s : State} (h : s.alive = true) (t : State) : s.whenAlive t = t := by
  simp [State.whenAlive, h]

/-- A command that finds no errors of memory is its body. -/
theorem State.readErrs_nil {s : State} (h : s.alive = true) (body : State → State) : s.readErrs [] body = body s :=
  State.whenAlive_alive h (body s)

/-! ### The header's form (R411) -/

/-- The offset of the first wrong byte: reserved bits come before the class (log 54). -/
theorem QPkt.bad_header {p : QPkt} {tc : Nat} (h : p.rsvd ≠ 0 ∨ p.tc ≠ tc) (len aux : Bool) :
    p.bad tc len aux = some (if p.rsvd ≠ 0 then p.rsvd else 9) := by
  unfold QPkt.bad
  by_cases hr : p.rsvd = 0
  · simp [hr, h.resolve_left (not_not_intro hr)]
  · simp [hr]

theorem QPkt.bad_none {p : QPkt} {tc : Nat} (hr : p.rsvd = 0) (htc : p.tc = tc) : p.bad tc true true = none := by
  simp [QPkt.bad, hr, htc]

/-! ### A packet at its home, in the order of its judgement (R17, R411, R424, R426) -/

section Arrival
variable {s : State} {p : QPkt} {run : State → State}

/-- A wrong byte of the header is counted, and answered when the source is a node of the current map (R411). -/
theorem State.arrive_malformed (o : Nat) (hdest : p.dest = s.me) (hcur : (s.takeRx (.qf p)).mapCur.any (fun m => (m.ent p.src).isSome) = true) :
    s.arrive p (some o) run = ((s.takeRx (.qf p)).incSat f_QF_CNT_MALFORMED).respondErr p ⟨eFormat, 3, o⟩ := by
  simp [State.arrive, hdest, hcur]

/-- A packet of a source that is no node of the domain is discarded (R17). -/
theorem State.arrive_stranger (hdest : p.dest = s.me) (hsrc : (s.takeRx (.qf p)).member p.src = false) :
    s.arrive p none run = s.takeRx (.qf p) := by
  simp [State.arrive, hdest, hsrc]

/-- A fenced source is told the epoch that fenced it (R426). -/
theorem State.arrive_fenced {e : Nat} (hdest : p.dest = s.me) (hsrc : (s.takeRx (.qf p)).member p.src = true)
    (hfence : (s.takeRx (.qf p)).fencedSrc p.src = some e) :
    s.arrive p none run = ((s.takeRx (.qf p)).incSat f_QF_ERR_FENCED_REJECTS).respondErr p ⟨eFenced, 6, e⟩ := by
  simp [State.arrive, hdest, hsrc, hfence]

/-- An epoch that the home does not take is answered with the current one (R424). -/
theorem State.arrive_stale (hdest : p.dest = s.me) (hsrc : (s.takeRx (.qf p)).member p.src = true)
    (hfence : (s.takeRx (.qf p)).fencedSrc p.src = none) (hepoch : (s.takeRx (.qf p)).epochOk p.epoch = false) :
    s.arrive p none run =
      ((s.takeRx (.qf p)).incSat f_QF_ERR_STALE_REJECTS).respondErr p ⟨eStaleEpoch, 6, (s.takeRx (.qf p)).epoch⟩ := by
  simp [State.arrive, hdest, hsrc, hfence, hepoch]

/-- Any other request is made. -/
theorem State.arrive_admitted {tc : Nat} (hdest : p.dest = s.me) (h : (s.takeRx (.qf p)).admits p tc) :
    s.arrive p (p.bad tc true true) run = run (s.takeRx (.qf p)) := by
  obtain ⟨-, hrsvd, htc, hsrc, hfence, hepoch⟩ := h
  simp [State.arrive, hdest, QPkt.bad_none hrsvd htc, hsrc, hfence, hepoch]

end Arrival

/-! ### What a packet's access gives (R409, R410) -/

/-- Type of the response to an access (R410). -/
def AccOp.rspTyp : AccOp → Nat
  | .read _ => 0x02
  | .write _ _ => 0x04
  | .atomic _ _ _ => 0x06

/-- A write that is made gives no bytes. -/
theorem State.perform_write {s t : State} {x : Acc} {data bs : List Byte} {poison po : Bool} (hop : x.op = .write data poison)
    (h : s.perform x = .ok (t, bs, po)) : bs = [] ∧ po = false := by
  unfold State.perform at h
  split at h
  · cases h
  · extract_lets client b at h
    simp only [hop] at h
    split at h
    · cases h
      exact ⟨rfl, rfl⟩
    · split at h
      · cases h
        exact ⟨rfl, rfl⟩
      · cases h
    · cases h

/-- A packet's access that is made is answered at once with the response of its type. -/
theorem State.access_peer {s t : State} {p : QPkt} {op : AccOp} {bs : List Byte} {po : Bool}
    (h : s.perform (p.acc op) = .ok (t, bs, po)) : s.access (p.acc op) = t.respond p op.rspTyp 3 0 bs po := by
  simp only [State.access, h]
  cases op with
  | read n => rfl
  | write data poison =>
    obtain ⟨rfl, rfl⟩ := State.perform_write rfl h
    rfl
  | atomic op typ operand => rfl

/-! ### Request packets of right form -/

/-- A request packet for an access, its lengths right, reaches its home: it is judged, then the access is made. -/
def State.request (s : State) (p : QPkt) (tc : Nat) (op : AccOp) : State :=
  s.arrive p (p.bad tc true true) (fun t => t.access (p.acc op))

theorem State.request_made {s t : State} {p : QPkt} {tc : Nat} {op : AccOp} {bs : List Byte} {po : Bool} (hdest : p.dest = s.me)
    (hadm : (s.takeRx (.qf p)).admits p tc) (h : (s.takeRx (.qf p)).perform (p.acc op) = .ok (t, bs, po)) :
    s.request p tc op = t.respond p op.rspTyp 3 0 bs po := by
  rw [State.request, State.arrive_admitted hdest hadm, State.access_peer h]

theorem goodLen_of_le {n : Nat} (h1 : 1 ≤ n) (h2 : n ≤ 1024) : goodLen n = true := by
  simp [goodLen, h1, h2]

/-- Only loads and stores of a client reach the setup registers from the fabric; any other is an access to memory (R355). -/
theorem State.peerAccess_plain (s : State) {p : QPkt} (h : inSetup p.addr = false ∨ 0x8000 ≤ p.stream) (op : AccOp) :
    s.peerAccess p op = s.access (p.acc op) := by
  have hno : ¬ (inSetup p.addr ∧ p.stream < 0x8000) := by
    rintro ⟨hin, hlt⟩
    rcases h with h | h
    · simp [h] at hin
    · omega
  simp only [State.peerAccess, hno, if_false]

/-- An atomic packet whose payload is as its operation and type ask (R423). -/
theorem State.atomicOf_request {s : State} {p : QPkt} {w : Nat} (hbank : s.bankFull p.addr = false) (haux : p.aux < 256)
    (hw : tallyWidth (bits p.aux 0 4) (bits p.aux 4 4) = some w)
    (hlen : p.payload.length = if bits p.aux 0 4 = 3 then 2 * w else w) :
    s.atomicOf (.peer p) = s.request p 4 (.atomic (bits p.aux 0 4) (bits p.aux 4 4) p.payload) := by
  simp [State.atomicOf, State.request, hbank, haux, hw, hlen]

section Commands
variable {s : State} {p : QPkt} (halive : s.alive = true)
include halive

/-- A packet of no type of the table is refused at its `TYPE` (R410, R411). -/
theorem exec_qfRead_unknown (htyp : qpktKnown p.typ = false) : exec (.qfRead p []) s = .next (s.arrive p (some 12) id) := by
  change execQfRead p [] s = _
  simp [execQfRead, State.whenAlive_alive halive, State.readErrs_nil halive, htyp]

theorem exec_qfRead_request (htyp : p.typ = 0x01) (hwait : s.inputWaits p = false) (haddr : inSetup p.addr = false ∨ 0x8000 ≤ p.stream)
    (h1 : 1 ≤ p.aux) (h2 : p.aux ≤ 1024) (hpay : p.payload = []) :
    exec (.qfRead p []) s = .next (s.request p 2 (.read p.aux)) := by
  change execQfRead p [] s = _
  have hknown : qpktKnown 0x01 = true := by decide
  simp [execQfRead, State.request, State.whenAlive_alive halive, State.readErrs_nil halive, htyp, hknown, hwait, hpay, goodLen_of_le h1 h2,
    State.peerAccess_plain _ haddr]

theorem exec_qfWrite_request (htyp : p.typ = 0x03) (hwait : s.inputWaits p = false) (haddr : inSetup p.addr = false ∨ 0x8000 ≤ p.stream)
    (h1 : 1 ≤ p.payload.length) (h2 : p.payload.length ≤ 1024) (haux : p.aux = 0) :
    exec (.qfWrite p) s = .next (s.request p 4 (.write p.payload p.poison)) := by
  change execQfWrite p s = _
  simp [execQfWrite, State.request, State.whenAlive_alive halive, htyp, hwait, haux, goodLen_of_le h1 h2, State.peerAccess_plain _ haddr]

theorem exec_bulkRead_request (htyp : p.typ = 0x07) (hbank : s.bankFull p.addr = false) (href : p.rref = none)
    (h1 : 1 ≤ p.aux) (h2 : p.aux ≤ 1024) (hpay : p.payload = []) :
    exec (.bulkRead p []) s = .next (s.request p 5 (.read p.aux)) := by
  change execBulkRead p [] s = _
  simp [execBulkRead, State.request, State.whenAlive_alive halive, State.readErrs_nil halive, htyp, hbank, href, hpay, goodLen_of_le h1 h2]

/-- A read of a region by reference names no address, so no bank's queue holds it back; it may name no bytes (R49, R243). -/
theorem exec_bulkRead_reference {r : Nat × Nat × Nat} (htyp : p.typ = 0x07) (href : p.rref = some r) (haux : p.aux ≤ 1024)
    (hpay : p.payload = []) :
    exec (.bulkRead p []) s = .next (s.arrive p (p.bad 5 true true) (fun t => t.bulkRef p r s)) := by
  change execBulkRead p [] s = _
  have hlen : (goodLen p.aux || p.aux == 0) = true := by
    rcases Nat.eq_zero_or_pos p.aux with h | h
    · simp [h]
    · simp [goodLen_of_le h haux]
  simp [execBulkRead, State.whenAlive_alive halive, State.readErrs_nil halive, htyp, href, hpay, hlen]

theorem exec_bulkWrite_request (htyp : p.typ = 0x08) (hbank : s.bankFull p.addr = false)
    (h1 : 1 ≤ p.payload.length) (h2 : p.payload.length ≤ 1024) (haux : p.aux = 0) :
    exec (.bulkWrite p) s = .next (s.request p 5 (.write p.payload p.poison)) := by
  change execBulkWrite p s = _
  simp [execBulkWrite, State.request, State.whenAlive_alive halive, htyp, hbank, haux, goodLen_of_le h1 h2]

/-- Each atomic's command takes the packets of its own `OP`. -/
theorem exec_atomic_peer {c : Instr} (htyp : p.typ = 0x05)
    (hc : c = .atomicAdd (.peer p) ∧ bits p.aux 0 4 = 0 ∨ c = .atomicMin (.peer p) ∧ bits p.aux 0 4 = 1 ∨
      c = .atomicMax (.peer p) ∧ bits p.aux 0 4 = 2 ∨ c = .atomicCas (.peer p) ∧ bits p.aux 0 4 = 3) :
    exec c s = .next (s.atomicOf (.peer p)) := by
  rcases hc with ⟨rfl, hop⟩ | ⟨rfl, hop⟩ | ⟨rfl, hop⟩ | ⟨rfl, hop⟩
  · change execAtomicAdd (.peer p) s = _
    simp [execAtomicAdd, State.whenAlive_alive halive, Req.typ, Req.tallyOp, htyp, hop]
  · change execAtomicMin (.peer p) s = _
    simp [execAtomicMin, State.whenAlive_alive halive, Req.typ, Req.tallyOp, htyp, hop]
  · change execAtomicMax (.peer p) s = _
    simp [execAtomicMax, State.whenAlive_alive halive, Req.typ, Req.tallyOp, htyp, hop]
  · change execAtomicCas (.peer p) s = _
    simp [execAtomicCas, State.whenAlive_alive halive, Req.typ, Req.tallyOp, htyp, hop]

end Commands

/-! ### Reads of a region by reference (R49, R58, R243) -/

section References
variable {s : State} {p : QPkt} {r : Nat × Nat × Nat} {pin : Pin} {bs : List Byte}

/-- The lookup says that it is over. -/
theorem State.bulkRef_over (keep : State) (hsel : r.2.1 = 3) : s.bulkRef p r keep = (s.letGo p).respond p 0x02 3 0 [] false := by
  simp only [State.bulkRef, hsel, if_true]

theorem State.bulkRef_bytes (keep : State) (hsel : r.2.1 ≠ 3) (haux : 1 ≤ p.aux) (h : s.refRead p r = .ok (pin, bs)) :
    s.bulkRef p r keep = s.respond p 0x02 3 0 bs false := by
  have hno : p.aux ≠ 0 := by omega
  simp [State.bulkRef, hsel, h, hno]

/-- A read of no bytes lends the version that it resolves to. -/
theorem State.bulkRef_lends (keep : State) (hsel : r.2.1 = 2) (haux : p.aux = 0) (h : s.refRead p r = .ok (pin, bs))
    (hnew : (⟨p.src, p.slice, p.look, pin⟩ : Lent) ∉ s.lent) :
    s.bulkRef p r keep = { s with lent := s.lent ++ [(⟨p.src, p.slice, p.look, pin⟩ : Lent)] }.respond p 0x02 3 0 bs false := by
  simp [State.bulkRef, hsel, h, haux, hnew]

end References

/-! ### The statement -/

/-- Settles O41: each command hands a packet of right form to `State.request`, which judges it before its access is made; a read by reference is
judged the same way. -/
theorem fabricRequests : Obligations.FabricRequests := by
  unfold Obligations.FabricRequests
  refine ⟨fun s p halive hdest => ⟨fun htyp hcur => ?_, fun r pin bs htyp href hpay haux hadm => ?_⟩,
    fun s t p c op tc reply bs po halive hdest hform => ?_⟩
  · rw [exec_qfRead_unknown halive htyp, State.arrive_malformed 12 hdest hcur]
  · rw [exec_bulkRead_reference halive htyp href haux hpay, State.arrive_admitted hdest hadm]
    exact ⟨fun hsel => by rw [State.bulkRef_over s hsel], fun hsel h1 hok => by rw [State.bulkRef_bytes s hsel h1 hok],
      fun hsel h0 hok hnew => by rw [State.bulkRef_lends s hsel h0 hok hnew]⟩
  · have hrun : exec c s = .next (s.request p tc op) ∧ reply = op.rspTyp := by
      rcases hform with ⟨rfl, htyp, rfl, ⟨hwait, haddr⟩, ⟨h1, h2, hpay⟩, rfl, rfl⟩ | ⟨rfl, htyp, rfl, ⟨hwait, haddr⟩, ⟨h1, h2, haux⟩, rfl, rfl⟩ |
        ⟨rfl, htyp, rfl, hbank, href, ⟨h1, h2, hpay⟩, rfl, rfl⟩ | ⟨rfl, htyp, rfl, hbank, ⟨h1, h2, haux⟩, rfl, rfl⟩ |
        ⟨hc, htyp, rfl, hbank, haux, ⟨w, hw, hlen⟩, rfl, rfl⟩
      · exact ⟨exec_qfRead_request halive htyp hwait haddr h1 h2 hpay, rfl⟩
      · exact ⟨exec_qfWrite_request halive htyp hwait haddr h1 h2 haux, rfl⟩
      · exact ⟨exec_bulkRead_request halive htyp hbank href h1 h2 hpay, rfl⟩
      · exact ⟨exec_bulkWrite_request halive htyp hbank h1 h2 haux, rfl⟩
      · exact ⟨by rw [exec_atomic_peer halive htyp hc, State.atomicOf_request hbank haux hw hlen], rfl⟩
    obtain ⟨hexec, rfl⟩ := hrun
    rw [hexec]
    refine ⟨fun hbad hcur => ?_, fun hrsvd htc hsrc => ?_, fun e hrsvd htc hsrc hfence => ?_, fun hrsvd htc hsrc hfence hepoch => ?_,
      fun hadm hok => ?_⟩
    · rw [State.request, QPkt.bad_header hbad, State.arrive_malformed _ hdest hcur]
    · rw [State.request, QPkt.bad_none hrsvd htc, State.arrive_stranger hdest hsrc]
    · rw [State.request, QPkt.bad_none hrsvd htc, State.arrive_fenced hdest hsrc hfence]
    · rw [State.request, QPkt.bad_none hrsvd htc, State.arrive_stale hdest hsrc hfence hepoch]
    · rw [State.request_made hdest hadm hok]

end Sys2Proof.Machine

/-! Every step keeps memory and the register file canonical (R10, R35): a lemma for each command that branches, then the dispatch, then the step.
The operations that commands are made of keep the form by the lemmas of the files `Laws/Kept…`. -/

namespace Sys2Proof.Machine

/-! ### Outcomes -/

/-- The next state that an outcome names, if it names one, is in canonical form. -/
structure NextKept (o : Host.Outcome State Fault Refusal) : Prop where
  all : ∀ t, o = .next t → t.Kept

theorem NextKept.next {t : State} (h : t.Kept) : NextKept (.next t) := by
  constructor
  intro u e
  cases e
  exact h

theorem NextKept.whenAlive {s t : State} (h : s.Kept) (ht : t.Kept) : NextKept (.next (s.whenAlive t)) := .next (whenAlive_kept _ _ h ht)

/-! ### Commands of Rings -/

theorem execFence_kept {slice ring idx : Nat} {s : State} (h : s.Kept) : NextKept (execFence slice ring idx s) := by
  refine .whenAlive h (State.onRunning_kept _ _ _ _ h (fun _ _ ht => ?_))
  split
  · exact ht
  · exact ite_kept ht (ite_kept (State.endDesc_kept _ _ _ _ _ _ ht) (State.endDesc_kept _ _ _ _ _ _ ht))

theorem execRingStatusBlockWrite_kept {slice ring : Nat} {s : State} (h : s.Kept) : NextKept (execRingStatusBlockWrite slice ring s) := by
  refine .whenAlive h ?_
  split
  · exact ite_kept (State.writeStatus_kept _ _ _ h) h
  · exact h

theorem execDestroyDrainDone_kept {slice ring : Nat} {s : State} (h : s.Kept) : NextKept (execDestroyDrainDone slice ring s) := by
  refine .whenAlive h ?_
  split
  · exact ite_kept (State.destroyDone_kept _ _ _ h) h
  · exact h

/-! ### Commands of Regions -/

theorem execCut_kept {slice ring idx : Nat} {s : State} (h : s.Kept) : NextKept (execCut slice ring idx s) :=
  .whenAlive h (State.homeRun_kept _ _ _ _ _ h (fun _ _ ht => State.onRegion_kept _ _ _ _ ht
      (fun _ _ ht1 => ite_kept ht (State.okHome_kept _ _ _ _ (State.setRegion_kept _ _ ht1)))))

theorem execRollback_kept {slice ring idx : Nat} {s : State} (h : s.Kept) : NextKept (execRollback slice ring idx s) := by
  refine .whenAlive h (State.homeRun_kept _ _ _ _ _ h (fun _ _ ht => State.onRegion_kept _ _ _ _ ht (fun t1 _ ht1 => ?_)))
  split
  · exact ht1
  · extract_lets +onlyGivenNames t0 t1
    have ht0 : t0.Kept := (State.gc_kept _ (State.setRegion_kept _ _ ht1)).fst
    have ht1 : t1.Kept := ht0.parts
    exact State.okHome_kept _ _ _ _ (State.reapSweeps_kept _ (State.startSweep_kept _ _ _ _ ht1))

theorem execRelease_kept {slice ring idx : Nat} {s : State} (h : s.Kept) : NextKept (execRelease slice ring idx s) :=
  .whenAlive h (State.homeRun_kept _ _ _ _ _ h (fun _ _ ht => State.onRegion_kept _ _ _ _ ht
      (fun t _ ht1 => State.okHome_kept _ _ _ _ (State.gc_kept _ (State.setRegion_kept t _ ht1)).fst)))

theorem execRegionPublish_kept {slice ring idx : Nat} {s : State} (h : s.Kept) : NextKept (execRegionPublish slice ring idx s) :=
  .whenAlive h (State.homeRun_kept _ _ _ _ _ h (fun _ _ ht => State.onRegion_kept _ _ _ _ ht
      (fun _ _ ht1 => State.endHome_kept _ _ _ _ _ (State.setRegion_kept _ _ ht1))))

theorem execPlaceCreate_kept {slice ring idx : Nat} {s : State} (h : s.Kept) : NextKept (execPlaceCreate slice ring idx s) := by
  refine .whenAlive h (State.homeRun_kept _ _ _ _ _ h (fun _ _ ht => ?_))
  extract_lets +onlyGivenNames num owner base size l2
  split
  · split
    · exact State.endHome_kept _ _ _ _ _ ht
    · extract_lets +onlyGivenNames r t1
      have ht1 : t1.Kept := State.bankEngine_kept _ _ _ ht
      exact State.endHome_kept _ _ _ _ _ (State.countLive_kept _ ht1.parts)

theorem execPlaceDelete_kept {slice ring idx : Nat} {s : State} (h : s.Kept) : NextKept (execPlaceDelete slice ring idx s) := by
  refine .whenAlive h (State.homeRun_kept _ _ _ _ _ h (fun _ _ ht => State.onRegion_kept _ _ _ _ ht (fun t _ ht1 => ?_)))
  extract_lets t1
  split
  rename_i t2 n heq
  have ht2 : t2.Kept := PairKept.elim heq (State.gc_kept _ (State.setRegion_kept t1 _ ht1.parts))
  exact State.okHome_kept _ _ _ _ (State.countLive_kept _ (State.reapRegions_kept _ (State.reapSweeps_kept _ (State.startSweep_kept _ _ _ _ ht2))))

/-! ### Commands of Streams -/

theorem execKvAppendExecute_kept {slice ring idx : Nat} {s : State} (h : s.Kept) : NextKept (execKvAppendExecute slice ring idx s) := by
  refine .whenAlive h (State.onRunning_kept _ _ _ _ h (fun _ _ ht => ?_))
  split
  · exact ht
  · refine ite_kept ht ?_
    extract_lets +onlyGivenNames u
    have hu : u.Kept := ite_kept (State.kvStart_kept _ _ ht) (State.kvOn_kept _ _ ht)
    split
    · exact ite_kept hu.parts hu
    · exact hu

/-! ### Commands of Media -/

theorem execMoveTier_kept {slice ring idx : Nat} {s : State} {tags : List Nat} (h : s.Kept) : NextKept (execMoveTier slice ring idx s tags) := by
  refine .whenAlive h (State.homeRun_kept _ _ _ _ _ h (fun t d ht => ?_))
  extract_lets tier port all first count loop
  have hloop (t : State) (r : Region) (ht : t.Kept) : (loop t r).Kept := State.moveTiles_kept _ _ _ _ _ _ _ _ ht _
  refine ite_kept ht (ite_kept ?_ (State.onRegion_kept _ _ _ _ ht (fun t1 r ht1 => hloop _ r ht1.parts)))
  split
  · exact hloop _ _ ht
  · exact State.endHome_kept _ _ _ _ _ ht

theorem execWriteback_kept {slice ring idx : Nat} {s : State} {tags : List Nat} (h : s.Kept) : NextKept (execWriteback slice ring idx s tags) := by
  refine .whenAlive h (State.homeRun_kept _ _ _ _ _ h (fun t d ht => ?_))
  extract_lets num first n ext evict begin_
  have hbegin (t : State) (mk : Nat → TRef) (ht : t.Kept) : (begin_ t mk).Kept := by
    dsimp only [begin_]
    refine State.writebackTiles_kept _ _ _ _ _ _ _ ?_ _
    exact ite_kept ht ht.parts
  refine ite_kept ?_ (ite_kept ?_ (State.onRegion_kept _ _ _ _ ht (fun t1 _ ht1 => hbegin t1 _ ht1)))
  · split
    · exact ite_kept (State.endHome_kept _ _ _ _ _ ht) (State.endHome_kept _ _ _ _ _ ht)
    · refine ite_kept (hbegin _ _ ht) ?_
      split
      · exact State.endHome_kept _ _ _ _ _ ht
      · exact hbegin _ _ (State.bankEngine_kept _ _ _ ht)
  · split
    · exact State.endHome_kept _ _ _ _ _ ht
    · exact hbegin _ _ ht

theorem execMove_kept {slice ring idx : Nat} {s : State} {tags : List Nat} (h : s.Kept) : NextKept (execMove slice ring idx s tags) :=
  .whenAlive h (State.onRunning_kept _ _ _ _ h (fun _ _ ht => State.attempt_kept _ _ _ _ ht (AllOk.ok (State.moveRun_kept _ _ _ ht))))

theorem execNvmeReadComplete_kept {id status : Nat} {data : List Byte} {s : State} {tags : Nat} (h : s.Kept) :
    NextKept (execNvmeReadComplete id status data s tags) := by
  refine .whenAlive h ?_
  split
  · exact h
  · extract_lets +onlyGivenNames _ go
    have hgo (f : Nat) (rc : Bool) : (go f rc).Kept := by
      have hdrop := State.nvmeDrop_kept s id h
      have hmiss := State.incSat_kept s f_TIER_ERR_TAG_MISMATCHES h
      refine ite_kept h (ite_kept (ite_kept (State.loseTile_kept _ _ _ hdrop) (State.nvmeMark_kept _ _ h))
        (ite_kept (ite_kept (State.tagLost_kept _ _ (State.nvmeDrop_kept _ _ hmiss)) (State.nvmeMark_kept _ _ hmiss)) ?_))
      extract_lets s1
      have hs1 : s1.Kept := State.obs_kept _ _ _ _ _ _ hdrop
      refine ite_kept ?_ (State.retryFills_kept _ (State.fillDone_kept _ _ _ hs1))
      split <;> rename_i s2 heq
      · have hs2 : s2.Kept := PairKept.elim heq (State.tagCheck_kept _ _ _ _ hs1)
        exact OptKept.getD (State.appendOn_kept _ _ _ _ _ _ _ _ hs2) hs2
      · exact PairKept.elim heq (State.tagCheck_kept _ _ _ _ hs1)
    split
    · exact hgo _ _
    · exact hgo _ _
    · exact h

theorem execZoneAppendComplete_kept {id status slot : Nat} {s : State} (h : s.Kept) : NextKept (execZoneAppendComplete id status slot s) := by
  refine .whenAlive h ?_
  split
  · exact h
  · split
    · refine ite_kept h (ite_kept ?_ ?_)
      · extract_lets +onlyGivenNames s1
        have hs1 : s1.Kept := State.finishZone_kept _ _ _ (State.nvmeDrop_kept _ _ h)
        exact ite_kept (OptKept.getD (State.appendOn_kept _ _ _ _ _ _ _ _ hs1) hs1)
            (OptKept.getD (State.appendAny_kept _ _ _ _ _ _ hs1) (State.writebackFailed_kept _ _ _ hs1))
      · extract_lets +onlyGivenNames s2
        have hs2 : s2.Kept := State.obs_kept _ _ _ _ _ _ (State.nvmeDrop_kept _ _ h)
        exact ite_kept hs2 (State.located_kept _ _ _ _ hs2)
    · exact h

theorem execNvmeCommandComplete_kept {id status : Nat} {offline : List Nat} {s : State} (h : s.Kept) :
    NextKept (execNvmeCommandComplete id status offline s) := by
  refine .whenAlive h ?_
  split
  · exact h
  · extract_lets zone
    have hzone (z : Nat) (g : Zone → Zone) (t : State) (ht : t.Kept) : (zone z g t).Kept := by
      dsimp only [zone]
      split
      · exact State.setDrive_kept _ _ ht
      · exact ht
    have hdrop := State.nvmeDrop_kept s id h
    split
    · exact hdrop
    · refine ite_kept ?_ hdrop
      extract_lets s1
      have hs1 : s1.Kept := hzone _ _ _ hdrop
      split
      · exact State.setDrive_kept _ _ hs1
      · exact hs1
    · exact State.nvmeDrop_kept _ _ hdrop
    · exact ite_kept (State.sendSetup_kept _ _ hdrop) (State.nvmeSend_kept _ _ _ hdrop)
    · exact hdrop
    · extract_lets s1
      have hs1 : s1.Kept := ite_kept (State.nvmeSend_kept _ _ _ (State.nvmeSend_kept _ _ _ hdrop)) hdrop
      exact State.retryFills_kept _ (State.loseSlots_kept _ _ (forL_kept _ _ _ hs1 (fun _ t ht => hzone _ _ t ht)))
    · exact h

theorem execNvmeCommandTimeout_kept {id : Nat} {s : State} (h : s.Kept) : NextKept (execNvmeCommandTimeout id s) := by
  refine .whenAlive h ?_
  split
  · exact h
  · refine ite_kept h ?_
    split
    · exact h
    · exact h
    · exact State.endCommand_kept _ _ (State.mediaEvent_kept _ _ _ (State.nvmeSend_kept _ _ _ (State.nvmeMark_kept _ _ h)))

theorem execNvmeAbortTimeout_kept {id : Nat} {s : State} (h : s.Kept) : NextKept (execNvmeAbortTimeout id s) := by
  refine .whenAlive h ?_
  split
  · exact h
  · split
    · exact State.nvmeSend_kept _ _ _ (forL_kept _ _ _ h.parts (fun _ _ ht => State.endCommand_kept _ _ ht))
    · exact h

theorem execMediaBringup_kept {port : Nat} {drive : NvmeId} {spaces : List NvmeNs} {s : State} (h : s.Kept) :
    NextKept (execMediaBringup port drive spaces s) := by
  refine .whenAlive h (ite_kept h ?_)
  extract_lets +onlyGivenNames s1
  have hs1 : s1.Kept := h.parts
  split
  · exact State.retryFills_kept _ (State.useDrive_kept _ _ _ _ hs1)
  · exact State.retryFills_kept _ (State.raise_kept _ _ (State.setFldAt_kept _ _ _ _ hs1))

theorem execMediaLinkUp_kept {port rate width : Nat} {s : State} (h : s.Kept) : NextKept (execMediaLinkUp port rate width s) := by
  refine .whenAlive h (ite_kept h ?_)
  extract_lets +onlyGivenNames s1
  have hs1 : s1.Kept := State.setFldAt_kept _ _ _ _ (State.setFldAt_kept _ _ _ _ h)
  exact ite_kept (State.sendSetup_kept _ _ hs1) hs1

theorem execBackgroundWriteback_kept {s : State} {tags : Nat} (h : s.Kept) : NextKept (execBackgroundWriteback s tags) := by
  unfold execBackgroundWriteback
  extract_lets +onlyGivenNames on s1
  have hs1 : s1.Kept := h.parts
  refine .whenAlive h (ite_kept hs1 ?_)
  split
  · exact hs1
  · refine ite_kept ?_ (ite_kept (State.startFill_kept _ _ hs1) (State.setFrame_kept _ _ hs1))
    split
    · exact OptKept.getD (State.startWriteback_kept _ _ (PairKept.elim (by assumption) (State.tagCheck_kept _ _ _ _ hs1))) hs1
    · exact PairKept.elim (by assumption) (State.tagCheck_kept _ _ _ _ hs1)

theorem execZoneReclaim_kept {port : Nat} {s : State} (h : s.Kept) : NextKept (execZoneReclaim port s) := by
  refine .whenAlive h ?_
  split
  · exact h
  · refine ite_kept h ?_
    split
    · exact h
    · split
      · exact ite_kept h (State.nvmeSend_kept _ _ _ h)
      · exact forL_kept _ _ _ h (fun _ _ ht => ite_kept ht (ite_kept (State.nvmeSend_kept _ _ _ ht) ht))

/-- Borage writes over the directly addressed part of memory alone. -/
theorem execBorageDone_kept {fails first : Nat} {s : State} (h : s.Kept) : NextKept (execBorageDone fails first s) := by
  refine .whenAlive h (ite_kept h (State.setFld_kept _ _ _ (State.setFld_kept _ _ _
      (State.setFld_kept _ _ _ (State.borageRegions_kept _ _ ⟨?_, h.file⟩)))))
  have hhigh : Memory.wf ((s.mem.filter (fun e => decide (directBase ≤ e.1))).map (fun e => (e.1 - directBase, e.2))) = true :=
    wf_map (wf_filter h.wf _) (· - directBase) fun a ha b _ hab => by
      have hbase : directBase ≤ a.1 := by simpa using (List.mem_filter.mp ha).2
      omega
  refine wf_append (wf_filter h.wf _) (wf_map (borageCells_kept _ _ _ _ _ hhigh) (directBase + ·) fun a _ b _ hab => by omega) fun a ha b hb => ?_
  have hlow : a.1 < directBase := by simpa using (List.mem_filter.mp ha).2
  obtain ⟨c, -, rfl⟩ := List.mem_map.mp hb
  exact lt_of_lt_of_le hlow (Nat.le_add_right _ _)

/-! ### Commands of Gleaner -/

theorem execPinTimeout_kept {slice ring idx : Nat} {s : State} (h : s.Kept) : NextKept (execPinTimeout slice ring idx s) :=
  .whenAlive h (State.onRunning_kept _ _ _ _ h (fun _ _ ht => ite_kept (State.incSat_kept _ _ (State.stopDesc_kept _ _ _ ht)) ht))

theorem execScatterUpdate_kept {slice ring idx : Nat} {s : State} (h : s.Kept) : NextKept (execScatterUpdate slice ring idx s) := by
  refine .whenAlive h (State.onRunning_kept _ _ _ _ h (fun _ _ ht => ite_kept (ite_kept (State.scatterApply_kept _ _ ht) ?_)
      (State.scatterPlan_kept _ _ ht)))
  split
  · exact ite_kept (State.scatterApply_kept _ _ ht) ht
  · exact ht

theorem execTablePublish_kept {slice ring idx : Nat} {s : State} (h : s.Kept) : NextKept (execTablePublish slice ring idx s) := by
  refine .whenAlive h (State.homeRun_kept _ _ _ _ _ h (fun t d ht => ?_))
  extract_lets ref
  split
  rename_i n sl _
  split
  · exact State.endHome_kept _ _ _ _ _ ht
  · rename_i g _
    extract_lets t0 put1
    have ht0 : t0.Kept := State.bankEngine_kept _ _ _ ht
    have hput (u : State) (hu : u.Kept) (o v w : Nat) : ResKept (put1 u o v w) := State.rgnWrite_kept _ _ _ _ hu
    split
    · exact State.endHome_kept _ _ _ _ _ ht0
    · split
      · exact State.attempt_kept _ _ _ _ ht0 AllOk.error
      · exact State.endHome_kept _ _ _ _ _ ht0
      · exact State.endHome_kept _ _ _ _ _ (State.incSat_kept _ _ ht0)
      · split
        · exact State.endHome_kept _ _ _ _ _ ht0
        · split
          · rename_i u heq
            refine State.endHome_kept _ _ _ _ _ (ResKept.elim heq ?_)
            refine ResKept.bind fun a ha => ResKept.bind fun b hb => hput _ ?_ _ _ _
            exact ResKept.elim hb (hput _ (ResKept.elim ha (hput _ ht0 _ _ _)) _ _ _)
          · exact State.attempt_kept _ _ _ _ ht0 AllOk.error
          · exact State.endHome_kept _ _ _ _ _ ht0

/-! ### Commands of Invalidate -/

theorem execInval_kept {slice ring idx : Nat} {s : State} (h : s.Kept) : NextKept (execInval slice ring idx s) :=
  .whenAlive h (State.onRunning_kept _ _ _ _ h (fun _ _ ht => ite_kept (State.reapInvals_kept _ ht) (State.startInval_kept _ _ _ _ _ _ _ ht)))

/-! ### Commands of Links -/

theorem execLinkBlockReceived_kept {port : Nat} {b : LinkBlock} {s : State} (h : s.Kept) : NextKept (execLinkBlockReceived port b s) := by
  refine .whenAlive h ?_
  split
  · exact ite_kept (State.blockIn_kept _ _ _ _ h) h
  · exact h

theorem execLinkBlockSend_kept {port : Nat} {s : State} (h : s.Kept) : NextKept (execLinkBlockSend port s) := by
  refine .whenAlive h ?_
  split
  · exact h
  · refine ite_kept (State.killBlock_kept _ _ _ h) (ite_kept h ?_)
    split
    · exact State.setLink_kept _ _ h
    · exact ite_kept h (State.newBlock_kept _ _ _ h)

theorem execHeartbeatSend_kept {s : State} (h : s.Kept) : NextKept (execHeartbeatSend s) :=
  .whenAlive h (forN_kept _ _ _ (forN_kept _ _ _ h (fun _ _ ht => State.sendKl_kept _ _ _ ht))
      (fun _ _ ht => ite_kept (State.enqueue_kept _ _ _ ht) ht))

theorem execHeartbeat_kept {port : Nat} {s : State} (h : s.Kept) : NextKept (execHeartbeat port s) := by
  refine .whenAlive h ?_
  split
  · exact State.freeCells_kept _ _ _ h.parts
  · exact h.parts

theorem execHeartbeatMiss_kept {port : Nat} {s : State} (h : s.Kept) : NextKept (execHeartbeatMiss port s) :=
  .whenAlive h (ite_kept h (ite_kept (State.qfLost_kept _ _ _ (State.tellLeader_kept _ _ h.parts)) (State.qfDown_kept _ _ _ h)))

theorem execQfPortTrain_kept {port : Nat} {t : Training} {s : State} (h : s.Kept) : NextKept (execQfPortTrain port t s) := by
  refine .whenAlive h (ite_kept h (ite_kept (State.setFldAt_kept _ _ _ _ h) ?_))
  split
  · exact State.refuseQf_kept _ _ _ h
  · refine ite_kept (State.refuseQf_kept _ _ _ h) (ite_kept (State.refuseQf_kept _ _ _ h) ?_)
    extract_lets +onlyGivenNames s1 _ s2
    have hs1 : s1.Kept := State.setFldAt_kept _ _ _ _ (State.setFldAt_kept _ _ _ _ (State.setFldAt_kept _ _ _ _ (State.setFldAt_kept _ _ _ _ h)))
    have hs2 : s2.Kept := hs1.parts
    split
    · exact hs2
    · exact State.tellUp_kept _ _ _ _ _ (State.setFldAt_kept _ _ _ _ hs2)

theorem execKlPortTrain_kept {port : Nat} {t : Training} {s : State} (h : s.Kept) : NextKept (execKlPortTrain port t s) := by
  refine .whenAlive h (ite_kept h (ite_kept (State.setFldAt_kept _ _ _ _ h) ?_))
  extract_lets +onlyGivenNames s1
  have hs1 : s1.Kept := State.setFldAt_kept _ _ _ _ h
  exact hs1.parts

theorem execLinkUpRecord_kept {port : Nat} {bytes : List Byte} {s : State} (h : s.Kept) : NextKept (execLinkUpRecord port bytes s) := by
  refine .whenAlive h (ite_kept h (ite_kept ?_ ?_))
  · extract_lets +onlyGivenNames s1
    have hs1 : s1.Kept := State.setFldAt_kept _ _ _ _ (State.setFldAt_kept _ _ _ _ h)
    exact State.raise_kept _ _ hs1.parts
  · extract_lets +onlyGivenNames f v cl s1 s2 s3
    have hs1 : s1.Kept := h.parts
    have hs2 : s2.Kept := State.setFldAt_kept _ _ _ _ (State.setFldAt_kept _ _ _ _ (State.setFldAt_kept _ _ _ _ (State.setFldAt_kept _ _ _ _ hs1)))
    have hs3 : s3.Kept := State.setFldAt_kept _ _ _ _ (State.setFldAt_kept _ _ _ _ (State.setFldAt_kept _ _ _ _ hs2))
    exact State.tellPorts_kept _ _ (State.setFldAt_kept _ _ _ _ hs3) h

/-! ### Commands of Fabric -/

theorem execBulkRead_kept {p : QPkt} {errs : List MemErr} {s : State} (h : s.Kept) : NextKept (execBulkRead p errs s) := by
  refine .whenAlive h (State.readErrs_kept _ _ _ h (fun _ ht => ite_kept (State.arrive_kept _ _ _ _ ht (fun _ ht1 => ?_)) ht))
  split
  · exact State.bulkRef_kept _ _ _ _ ht1 ht
  · exact State.access_kept _ _ ht1

theorem execPacketForward_kept {port : Nat} {p : Pkt} {s : State} (h : s.Kept) : NextKept (execPacketForward port p s) := by
  unfold execPacketForward
  extract_lets +onlyGivenNames s1
  have hs1 : s1.Kept := h.parts
  refine .whenAlive h (ite_kept h ?_)
  split
  · exact h
  · exact ite_kept h (State.forwardQf_kept _ _ _ hs1)
  · exact ite_kept h (State.forwardMap_kept _ _ _ _ _ _ _ _ _ hs1)

theorem execHomeRsp_kept {p : QPkt} {s : State} (h : s.Kept) : NextKept (execHomeRsp p s) := by
  refine .whenAlive h (ite_kept (State.response_kept _ _ _ _ h (fun _ _ ht => ?_)) h)
  split
  · exact State.reapInvals_kept _ (State.homeAnswer_kept _ _ _ _ ht)
  · exact State.reapInvals_kept _ ht

theorem execErrResponse_kept {p : QPkt} {s0 : State} (h : s0.Kept) : NextKept (execErrResponse p s0) := by
  refine .whenAlive h (ite_kept h ?_)
  extract_lets +onlyGivenNames s
  have hs : s.Kept := State.takeRx_kept _ _ h
  split
  · exact State.incSat_kept _ _ hs
  · exact ite_kept (State.incSat_kept _ _ hs) (ite_kept (State.resend_kept _ _ hs)
        (State.deliver_kept _ _ _ (State.answerSample_kept _ _ _ (State.dropReq_kept _ _ (ite_kept (State.fenceSelf_kept _ _ hs) hs)))))

theorem execRequestTimerExpiry_kept {tag : Nat} {s : State} (h : s.Kept) : NextKept (execRequestTimerExpiry tag s) := by
  refine .whenAlive h ?_
  split
  · exact h
  · extract_lets +onlyGivenNames n s1 job s2
    have hs1 : s1.Kept := State.raise_kept _ _ (State.incSat_kept _ _ (State.dropReq_kept _ _ h))
    have hs2 : s2.Kept := ite_kept (State.tellLeader_kept _ _ hs1) hs1
    exact State.deliver_kept _ _ _ hs2

/-! ### Commands of Keepers -/

theorem execElectionTimeout_kept {s : State} (h : s.Kept) : NextKept (execElectionTimeout s) := by
  refine .whenAlive h ?_
  split
  · exact h
  · refine ite_kept h ?_
    extract_lets +onlyGivenNames term _ _ s1
    have hs1 : s1.Kept := (State.setFld_kept _ _ _ h).parts
    exact ite_kept (State.becomeLeader_kept _ hs1) (State.toKeepers_kept _ _ hs1)

theorem execVoteReq_kept {src term newest : Nat} {s0 : State} (h : s0.Kept) : NextKept (execVoteReq src term newest s0) := by
  unfold execVoteReq
  extract_lets +onlyGivenNames s
  have hs : s.Kept := State.takeMap_kept _ _ h
  refine .whenAlive h (ite_kept hs (ite_kept (State.relay_kept _ _ _ hs) ?_))
  extract_lets +onlyGivenNames s1 ok _ s2
  have hs1 : s1.Kept := State.seeTerm_kept _ _ (State.relay_kept _ _ _ hs)
  have hs2 : s2.Kept := ite_kept hs1.parts hs1
  exact State.toKeeper_kept _ _ _ hs2

theorem execVote_kept {src term : Nat} {granted : Bool} {s0 : State} {cand : Option Nat} (h : s0.Kept) :
    NextKept (execVote src term granted s0 cand) := by
  unfold execVote
  extract_lets +onlyGivenNames place s
  have hs : s.Kept := State.takeMap_kept _ _ h
  refine .whenAlive h (ite_kept (ite_kept hs (State.relay_kept _ _ _ hs)) (ite_kept hs ?_))
  extract_lets +onlyGivenNames votes _ s1
  have hs1 : s1.Kept := hs.parts
  exact ite_kept (State.becomeLeader_kept _ hs1) hs1

theorem execNeighbourExchange_kept {port dev : Nat} {s : State} (h : s.Kept) : NextKept (execNeighbourExchange port dev s) := by
  refine .whenAlive h (ite_kept h ?_)
  extract_lets +onlyGivenNames s1
  have hs1 : s1.Kept := h.parts
  exact ite_kept (State.setFld_kept _ _ _ hs1) hs1

theorem execBeat_kept {src term epoch : Nat} {s0 : State} (h : s0.Kept) : NextKept (execBeat src term epoch s0) := by
  unfold execBeat
  extract_lets +onlyGivenNames from_ s
  have hs : s.Kept := State.takeMap_kept _ _ h
  refine .whenAlive h (ite_kept hs ?_)
  extract_lets +onlyGivenNames new s1 s2 s3
  have hs1 : s1.Kept := State.setFld_kept _ _ _ (State.seeTerm_kept _ _ hs)
  have hs3 : s3.Kept := ite_kept (State.retell_kept _ hs1.parts) hs1.parts
  split
  · extract_lets s4
    have hs4 : s4.Kept := State.flood_kept _ _ _ _ hs3
    exact ite_kept (State.sendMap_kept _ _ _ _ hs4) hs4
  · clear_value from_
    refine ite_kept ?_ (ite_kept (State.upTree_kept _ _ (State.floodMap_kept _ _ hs3.parts)) hs3)
    split
    · exact ite_kept (State.enqueue_kept _ _ _ hs3) hs3
    · exact hs3

theorem execTopo_kept {dev : Nat} {links : List (Nat × Nat × Nat)} {s0 : State} (h : s0.Kept) : NextKept (execTopo dev links s0) := by
  unfold execTopo
  extract_lets +onlyGivenNames s
  have hs : s.Kept := State.takeMap_kept _ _ h
  refine .whenAlive h (ite_kept hs ?_)
  extract_lets +onlyGivenNames _ s1
  have hs1 : s1.Kept := hs.parts
  exact ite_kept (State.tryForm_kept _ hs1) (State.upTree_kept _ _ hs1)

theorem execReplicate_kept {src : Nat} {m : FMap} {s0 : State} (h : s0.Kept) : NextKept (execReplicate src m s0) := by
  unfold execReplicate
  extract_lets +onlyGivenNames s
  have hs : s.Kept := State.takeMap_kept _ _ h
  refine .whenAlive h (ite_kept hs ?_)
  extract_lets +onlyGivenNames s0
  have hs0 : s0.Kept := State.relay_kept _ _ _ hs
  refine ite_kept hs0 ?_
  extract_lets +onlyGivenNames s1 _ s2
  have hs1 : s1.Kept := State.seeTerm_kept _ _ hs0
  have hs2 : s2.Kept := hs1.parts
  exact ite_kept (State.toKeepers_kept _ _ hs2) (State.sendMap_kept _ _ _ _ hs2)

theorem execReplAck_kept {src epoch : Nat} {s0 : State} (h : s0.Kept) : NextKept (execReplAck src epoch s0) := by
  unfold execReplAck
  extract_lets +onlyGivenNames s1 s
  have hs1 : s1.Kept := State.takeMap_kept _ _ h
  have hs : s.Kept := ite_kept hs1 (State.relay_kept _ _ _ hs1)
  refine .whenAlive h ?_
  split
  · refine ite_kept hs ?_
    extract_lets +onlyGivenNames acks _ s1
    have hs1 : s1.Kept := hs.parts
    exact ite_kept (State.leaderPrepare_kept _ _ hs1) hs1
  · exact hs

theorem execPrepare_kept {src : Nat} {m : FMap} {s0 : State} (h : s0.Kept) : NextKept (execPrepare src m s0) := by
  unfold execPrepare
  extract_lets +onlyGivenNames s
  have hs : s.Kept := State.takeMap_kept _ _ h
  refine .whenAlive h (ite_kept hs ?_)
  extract_lets +onlyGivenNames s0 s1 _ s2
  have hs0 : s0.Kept := State.drainOld_kept _ (State.seeTerm_kept _ _ hs)
  have hs1 : s1.Kept := ite_kept (State.setFld_kept _ _ _ hs0) hs0
  have hs2 : s2.Kept := hs1.parts
  exact State.ackUp_kept _ _ (State.flood_kept _ _ _ _ hs2)

theorem execPrepareAck_kept {src epoch count : Nat} {s0 : State} (h : s0.Kept) : NextKept (execPrepareAck src epoch count s0) := by
  unfold execPrepareAck
  extract_lets +onlyGivenNames s
  have hs : s.Kept := State.takeMap_kept _ _ h
  refine .whenAlive h ?_
  split
  · exact hs
  · refine ite_kept hs ?_
    extract_lets +onlyGivenNames _ s1
    have hs1 : s1.Kept := hs.parts
    exact ite_kept (ite_kept (State.pump_kept _ (State.leaderCommit_kept _ _ hs1)) hs1) (State.ackUp_kept _ _ hs1)

theorem execPrepareAckTimeout_kept {s : State} (h : s.Kept) : NextKept (execPrepareAckTimeout s) := by
  refine .whenAlive h ?_
  split
  · exact h
  · exact ite_kept h (State.pump_kept _ (forL_kept _ _ _ (forL_kept _ _ _ (State.leaderCommit_kept _ _ h)
        (fun _ _ ht => State.originAbort_kept _ _ _ _ ht)) (fun _ _ ht => ht.parts)))

theorem execCommit_kept {src epoch : Nat} {s0 : State} (h : s0.Kept) : NextKept (execCommit src epoch s0) := by
  unfold execCommit
  extract_lets +onlyGivenNames s
  have hs : s.Kept := State.takeMap_kept _ _ h
  refine .whenAlive h ?_
  split
  · exact ite_kept (State.applyMap_kept _ _ (State.flood_kept _ _ _ _ hs)) hs
  · exact ite_kept hs (State.sendMap_kept _ _ _ _ hs)

theorem execFetch_kept {port src epoch : Nat} {s0 : State} (h : s0.Kept) : NextKept (execFetch port src epoch s0) := by
  unfold execFetch
  extract_lets +onlyGivenNames tag s
  have hs : s.Kept := State.takeMap_kept _ _ h
  refine .whenAlive h (ite_kept hs ?_)
  split
  · exact State.enqueue_kept _ _ _ hs
  · exact hs

theorem execMapData_kept {m : FMap} {s0 : State} (h : s0.Kept) : NextKept (execMapData m s0) := by
  unfold execMapData
  extract_lets +onlyGivenNames s
  have hs : s.Kept := State.takeMap_kept _ _ h
  exact NextKept.whenAlive h (ite_kept hs (State.applyMap_kept _ _ hs))

theorem execProbe_kept {src : Nat} {answer : Bool} {s0 : State} (h : s0.Kept) : NextKept (execProbe src answer s0) := by
  unfold execProbe
  extract_lets +onlyGivenNames tag s
  have hs : s.Kept := State.takeMap_kept _ _ h
  refine .whenAlive h (ite_kept (State.sendMap_kept _ _ _ _ hs) (forL_kept _ _ _ hs.parts (fun _ _ ht => ?_)))
  split
  · exact State.addChange_kept _ _ ht
  · exact ht

theorem execReport_kept {src : Nat} {r : Report} {s0 : State} (h : s0.Kept) : NextKept (execReport src r s0) := by
  unfold execReport
  extract_lets +onlyGivenNames s
  have hs : s.Kept := State.takeMap_kept _ _ h
  refine .whenAlive h (ite_kept (State.takeReport_kept _ _ _ hs) ?_)
  split
  · exact ite_kept (State.endCompose_kept _ _ _ hs) hs
  · exact ite_kept (State.endGranted_kept _ hs.parts) hs
  · exact hs

theorem execBeatSend_kept {s : State} (h : s.Kept) : NextKept (execBeatSend s) :=
  .whenAlive h (ite_kept h (State.pump_kept _ (forL_kept _ _ _ (State.flood_kept _ _ _ _ h.parts) (fun _ _ ht => State.takeReport_kept _ _ _ ht))))

/-! ### Commands of Slices -/

theorem execSliceResetFinish_kept {slice : Nat} {s : State} (h : s.Kept) : NextKept (execSliceResetFinish slice s) := by
  refine .whenAlive h ?_
  split
  · extract_lets +onlyGivenNames t
    have ht : t.Kept := State.endStopped_kept _ h
    exact ite_kept (State.resetFinish_kept _ _ ht) ht
  · exact h

/-! ### Commands of Faults -/

theorem execAlarm_kept {p : QPkt} {s : State} (h : s.Kept) : NextKept (execAlarm p s) := by
  unfold execAlarm
  extract_lets +onlyGivenNames t
  have ht : t.Kept := ite_kept (State.takeRx_kept _ _ h) h
  exact NextKept.whenAlive h (ite_kept (ite_kept (State.incSat_kept _ _ (State.alarmAdd_kept _ _ _ _ _ _ _ _ _ ht))
      (State.alarmAdd_kept _ _ _ _ _ _ _ _ _ ht)) ht)

theorem execDiag_kept {p : QPkt} {s : State} (h : s.Kept) : NextKept (execDiag p s) := by
  unfold execDiag
  extract_lets +onlyGivenNames t
  have ht : t.Kept := ite_kept (State.takeRx_kept _ _ h) h
  exact NextKept.whenAlive h (ite_kept (State.logTell_kept _ _ (State.logWrite_kept _ _ ht)) ht)

theorem execAbort_kept {p : QPkt} {s : State} (h : s.Kept) : NextKept (execAbort p s) := by
  unfold execAbort
  extract_lets +onlyGivenNames t
  have ht : t.Kept := ite_kept (State.takeRx_kept _ _ h) h
  exact NextKept.whenAlive h (ite_kept (State.takeAbort_kept _ _ _ _ _ ht) ht)

/-! ### Commands of Power -/

theorem execDillDone_kept {errs : List (Nat × Nat)} {s : State} (h : s.Kept) : NextKept (execDillDone errs s) := by
  refine .whenAlive h (ite_kept h ?_)
  extract_lets +onlyGivenNames ports mine worst s1
  have hs1 : s1.Kept := State.setFld_kept _ _ _ (State.setFld_kept _ _ _ (State.setFld_kept _ _ _ (State.setFld_kept _ _ _ h)))
  exact forL_kept _ _ _ hs1.parts (fun _ _ ht => State.setFldAt_kept _ _ _ _ ht)

/-! ### Commands of Tap -/

theorem execTapFreeze_kept {dr : Nat} {s : State} (h : s.Kept) : NextKept (execTapFreeze dr s) := by
  unfold execTapFreeze
  extract_lets +onlyGivenNames t
  have ht : t.Kept := State.tapScan_kept _ _ _ h
  exact NextKept.next (ite_kept (State.freeze_kept _ _ _ _ ht) ht)

theorem execStream_kept {start len run : Nat} {s : State} (h : s.Kept) : NextKept (execStream start len run s) := by
  unfold execStream
  extract_lets +onlyGivenNames sent t
  have ht : t.Kept := State.tapScan_kept _ _ _ h
  exact NextKept.next (ite_kept ht ht.parts)

theorem execStreamFrameSend_kept {s : State} (h : s.Kept) : NextKept (execStreamFrameSend s) := by
  refine .next ?_
  split
  · exact h
  · exact ite_kept h.parts h

/-! ### Commands of Boot -/

theorem execBootStage2_kept {s : State} (h : s.Kept) : NextKept (execBootStage2 s) := by
  refine .whenAlive h (ite_kept ?_ h)
  extract_lets +onlyGivenNames t
  have ht : t.Kept := State.stageEnd_kept _ _ h
  exact ite_kept (State.freeze_kept _ _ _ _ ht.parts) ht

theorem execBootStage5_kept {failed : Option Nat} {s : State} (h : s.Kept) : NextKept (execBootStage5 failed s) := by
  refine .whenAlive h (ite_kept ?_ h)
  split
  · exact State.stageFail_kept _ _ _ _ h
  · exact State.stageEnd_kept _ _ h

theorem execBootStage7_kept {failed : Option Nat} {s : State} (h : s.Kept) : NextKept (execBootStage7 failed s) := by
  refine .whenAlive h (ite_kept ?_ h)
  split
  · exact State.stageFail_kept _ _ _ _ h
  · exact State.stageEnd_kept _ _ (forL_kept _ _ _ (State.measureBoot_kept _ h) (fun _ _ ht => State.applyReg_kept _ _ ht))

/-! ### Commands of Mctp -/

theorem execSetEndpointId_kept {eid : Nat} {s : State} (h : s.Kept) : NextKept (execSetEndpointId eid s) :=
  .whenAlive h (ite_kept h (ite_kept (State.control_kept _ _ _ _ h) (State.control_kept _ _ _ _ (State.setFld_kept _ _ _ h))))

theorem execGetEndpointUuid_kept {s : State} (h : s.Kept) : NextKept (execGetEndpointUuid s) := by
  refine .whenAlive h ?_
  split
  · exact ite_kept (State.control_kept _ _ _ _ h) (State.control_kept _ _ _ _ h)
  · exact State.control_kept _ _ _ _ h

theorem execFlashOperationComplete_kept {s : State} (h : s.Kept) : NextKept (execFlashOperationComplete s) := by
  refine .whenAlive h (ite_kept h ?_)
  extract_lets +onlyGivenNames _ t
  have ht : t.Kept := h.parts
  refine ite_kept (State.flashDone_kept _ ht) ?_
  split
  · exact State.identDone_kept _ _ (State.setFld_kept _ _ _ ht)
  · exact ht

theorem execFlashOpTimeout_kept {s : State} (h : s.Kept) : NextKept (execFlashOpTimeout s) := by
  refine .whenAlive h (ite_kept h (ite_kept ?_ (State.stageFail_kept _ _ _ _ h.parts)))
  split
  · exact State.answerM_kept _ _ _ _ h.parts
  · exact h

/-! ### Commands of Clients -/

theorem execQfRead_kept {p : QPkt} {errs : List MemErr} {s : State} (h : s.Kept) : NextKept (execQfRead p errs s) :=
  .whenAlive h (State.readErrs_kept _ _ _ h (fun _ ht => ite_kept (State.arrive_kept _ _ _ _ ht (fun _ ht1 => ht1))
      (ite_kept ht (State.arrive_kept _ _ _ _ ht (fun _ ht1 => State.peerAccess_kept _ _ _ ht1)))))

theorem execCReadRsp_kept {port : Nat} {p : KPkt} {s0 : State} (h : s0.Kept) : NextKept (execCReadRsp port p s0) := by
  refine .whenAlive h (ite_kept h ?_)
  extract_lets +onlyGivenNames s
  have hs : s.Kept := State.takeRx_kept _ _ h
  refine ite_kept hs ?_
  split
  · exact State.unmatched_kept _ _ hs
  · exact ite_kept (State.unmatched_kept _ _ hs) (ite_kept (State.klFailed_kept _ _ hs) (ite_kept hs (ite_kept (State.klBytes_kept _ _ hs) hs.parts)))

theorem execCWriteAck_kept {port : Nat} {p : KPkt} {s0 : State} (h : s0.Kept) : NextKept (execCWriteAck port p s0) := by
  refine .whenAlive h (ite_kept h ?_)
  extract_lets +onlyGivenNames s
  have hs : s.Kept := State.takeRx_kept _ _ h
  refine ite_kept hs ?_
  split
  · exact State.unmatched_kept _ _ hs
  · exact ite_kept (State.unmatched_kept _ _ hs) (ite_kept (State.klFailed_kept _ _ hs) (State.klWritten_kept _ _ hs))

theorem execKlRequestTimeout_kept {port tag : Nat} {s : State} (h : s.Kept) : NextKept (execKlRequestTimeout port tag s) := by
  refine .whenAlive h ?_
  split
  · exact State.klFailed_kept _ _ h
  · exact h

/-! ### Commands of Coh -/

theorem execHoldExpiry_kept {line : Nat} {s : State} (h : s.Kept) : NextKept (execHoldExpiry line s) := by
  refine .whenAlive h ?_
  split
  · exact ite_kept (State.endHold_kept _ _ h) h
  · exact h

theorem execDirectorySetVisit_kept {bank set : Nat} {s0 : State} (h : s0.Kept) : NextKept (execDirectorySetVisit bank set s0) := by
  unfold execDirectorySetVisit
  extract_lets +onlyGivenNames s
  have hs : s.Kept := forL_kept _ _ _ h (fun _ _ ht => State.freshen_kept _ _ ht)
  exact NextKept.whenAlive h (ite_kept h (forL_kept _ _ _ hs (fun _ _ ht => State.endHold_kept _ _ ht)))

theorem execRetryTicketExpiry_kept {bank slot : Nat} {s : State} (h : s.Kept) : NextKept (execRetryTicketExpiry bank slot s) := by
  refine .whenAlive h ?_
  split
  · exact ite_kept (State.advanceServe_kept _ _ h) h
  · exact h

theorem execRecallTimeout_kept {line node port : Nat} {s : State} (h : s.Kept) : NextKept (execRecallTimeout line node port s) := by
  refine .whenAlive h (ite_kept h ?_)
  extract_lets +onlyGivenNames s1
  have hs1 : s1.Kept := State.tellLeader_kept _ _ (State.raise_kept _ _ (State.incSat_kept _ _ h))
  exact ite_kept (State.finishHomes_kept _ (State.reapSweeps_kept _ (State.sweepAnswer_kept _ _ _ hs1)))
      (State.reapRevoke_kept _ (State.answered_kept _ _ _ _ _ _ hs1))

theorem execQueuedAccessApply_kept {bank : Nat} {s : State} (h : s.Kept) : NextKept (execQueuedAccessApply bank s) := by
  refine .whenAlive h (State.pumpHeld_kept _ (State.reapRevoke_kept _ (foldl_pairKept _ _ _ (PairKept.pair h) (fun _ _ a => ?_)).fst))
  split
  · exact a
  · split
    · exact PairKept.pair a.fst
    · extract_lets +onlyGivenNames u
      have hu : u.Kept := State.retryWaiting_kept _ _ _ _ _ a.fst
      exact PairKept.pair hu

theorem execCoherenceMessageToClient_kept {port : Nat} {p : QPkt} {s : State} (h : s.Kept) : NextKept (execCoherenceMessageToClient port p s) := by
  refine .whenAlive h (ite_kept h (ite_kept (State.arrive_kept _ _ _ _ h (fun _ ht => State.passAsk_kept _ _ _ ht))
      (ite_kept (State.response_kept _ _ _ _ h (fun _ _ ht => State.reapInvals_kept _ ?_)) h)))
  split
  · exact State.answer_kept _ _ _ _ _ _ ht
  · exact ht

/-! ### Commands of HomeOps -/

theorem execHomeOp_kept {p : QPkt} {s : State} (h : s.Kept) : NextKept (execHomeOp p s) :=
  .whenAlive h (ite_kept h (ite_kept (State.homeStart_kept _ _ (State.takeRx_kept _ _ h))
      (State.arrive_kept _ _ _ _ h (fun _ ht => State.homeStart_kept _ _ ht))))

/-! ### Commands of Consume -/

theorem execDescriptorConsume_kept {slice ring : Nat} {errs : List MemErr} {s : State} (h : s.Kept) :
    NextKept (execDescriptorConsume slice ring errs s) := by
  refine .whenAlive h (State.readErrs_kept _ _ _ h (fun _ ht => ?_))
  split
  · exact ite_kept (State.consume_kept _ _ ht) ht
  · exact ht

theorem execDescriptorStart_kept {slice ring idx : Nat} {s : State} (h : s.Kept) : NextKept (execDescriptorStart slice ring idx s) := by
  refine .whenAlive h ?_
  split
  · exact ite_kept (State.startDesc_kept _ _ h) h
  · exact h
/-! ### The whole dispatch -/

/-- A command keeps the canonical form: each arm of `exec` hands the state through operations that keep it. -/
theorem exec_kept {s : State} (h : s.Kept) (c : Instr) : NextKept (exec c s) := by
  cases c with
  | nop _ _ _ => exact .whenAlive h (State.onRunning_kept _ _ _ _ h (fun _ _ ht => State.endDesc_kept _ _ _ _ _ _ ht))
  | fence _ _ _ => exact execFence_kept h
  | move _ _ _ _ => exact execMove_kept h
  | kvAppend _ _ _ => exact .whenAlive h (State.onRunning_kept _ _ _ _ h (fun _ _ ht => ite_kept ht ht.parts))
  | kvAppendExecute _ _ _ => exact execKvAppendExecute_kept h
  | attend _ _ _ _ => exact .whenAlive h (State.onRunning_kept _ _ _ _ h (fun _ _ ht => State.attStep_kept _ _ _ ht))
  | attendMax _ _ _ _ => exact .whenAlive h (State.onRunning_kept _ _ _ _ h (fun _ _ ht => State.attStep_kept _ _ _ ht))
  | attendSum _ _ _ _ => exact .whenAlive h (State.onRunning_kept _ _ _ _ h (fun _ _ ht => State.attStep_kept _ _ _ ht))
  | merge _ _ _ => exact .whenAlive h (State.onRunning_kept _ _ _ _ h (fun _ _ ht => State.mergeStep_kept _ _ ht))
  | search _ _ _ => exact .whenAlive h (State.onRunning_kept _ _ _ _ h (fun _ _ ht => State.searchStep_kept _ _ ht))
  | gather _ _ _ => exact .whenAlive h (State.onRunning_kept _ _ _ _ h (fun _ _ ht => State.gatherLoop_kept _ _ _ ht))
  | scatterUpdate _ _ _ => exact execScatterUpdate_kept h
  | tablePublish _ _ _ => exact execTablePublish_kept h
  | cut _ _ _ => exact execCut_kept h
  | rollback _ _ _ => exact execRollback_kept h
  | release _ _ _ => exact execRelease_kept h
  | regionPublish _ _ _ => exact execRegionPublish_kept h
  | placeCreate _ _ _ => exact execPlaceCreate_kept h
  | placeDelete _ _ _ => exact execPlaceDelete_kept h
  | moveTier _ _ _ _ => exact execMoveTier_kept h
  | writeback _ _ _ _ => exact execWriteback_kept h
  | inval _ _ _ => exact execInval_kept h
  | homeOp _ => exact execHomeOp_kept h
  | descriptorConsume _ _ _ => exact execDescriptorConsume_kept h
  | descriptorStart _ _ _ => exact execDescriptorStart_kept h
  | descriptorComplete _ _ _ => exact .whenAlive h (State.complete_kept _ _ h)
  | ringStatusBlockWrite _ _ => exact execRingStatusBlockWrite_kept h
  | coalesceTimerExpiry _ _ => exact .whenAlive h (State.ringInterrupt_kept _ _ _ h)
  | sqDoorbell _ _ _ => exact .whenAlive h (ite_kept h (State.sqDoorbell_kept _ _ _ _ h))
  | sqDoorbellResume _ _ _ => exact .whenAlive h (ite_kept (State.sqDoorbell_kept _ _ _ _ h) h)
  | cqDoorbell _ _ _ => exact .whenAlive h (State.cqDoorbell_kept _ _ _ _ h)
  | ringCreate _ => exact .whenAlive h (State.ringCreate_kept _ _ h)
  | destroyDrain _ => exact .whenAlive h (State.ringDestroy_kept _ _ _ h)
  | destroyDrainDone _ _ => exact execDestroyDrainDone_kept h
  | destroyAbort _ => exact .whenAlive h (State.ringDestroy_kept _ _ _ h)
  | clientRead _ _ _ => exact .whenAlive h (State.readErrs_kept _ _ _ h (fun _ ht => ite_kept (State.clientRequest_kept _ _ _ ht) ht))
  | clientWrite _ _ _ => exact .whenAlive h (State.readErrs_kept _ _ _ h (fun _ ht => ite_kept (State.clientRequest_kept _ _ _ ht) ht))
  | atomicAdd _ => exact .whenAlive h (ite_kept (State.atomicOf_kept _ _ h) h)
  | atomicMin _ => exact .whenAlive h (ite_kept (State.atomicOf_kept _ _ h) h)
  | atomicMax _ => exact .whenAlive h (ite_kept (State.atomicOf_kept _ _ h) h)
  | atomicCas _ => exact .whenAlive h (ite_kept (State.atomicOf_kept _ _ h) h)
  | syncAcquire _ _ => exact .whenAlive h (ite_kept (State.clientRequest_kept _ _ _ h) h)
  | syncRelease _ _ => exact .whenAlive h (ite_kept (State.clientRequest_kept _ _ _ h) h)
  | syncFull _ _ => exact .whenAlive h (ite_kept (State.clientRequest_kept _ _ _ h) h)
  | rdS _ => exact .whenAlive h (State.cohRequest_kept _ _ _ h)
  | rdX _ => exact .whenAlive h (State.cohRequest_kept _ _ _ h)
  | upg _ => exact .whenAlive h (State.cohRequest_kept _ _ _ h)
  | invAck _ => exact .whenAlive h (State.cohAnswer_kept _ _ _ h)
  | recallAck _ => exact .whenAlive h (State.cohAnswer_kept _ _ _ h)
  | recallData _ => exact .whenAlive h (State.cohAnswer_kept _ _ _ h)
  | wb _ => exact .whenAlive h (State.giveUp_kept _ _ _ h)
  | put _ => exact .whenAlive h (State.giveUp_kept _ _ _ h)
  | holdExpiry _ => exact execHoldExpiry_kept h
  | directorySetVisit _ _ => exact execDirectorySetVisit_kept h
  | retryTicketExpiry _ _ => exact execRetryTicketExpiry_kept h
  | recallTimeout _ _ _ => exact execRecallTimeout_kept h
  | queuedAccessApply _ => exact execQueuedAccessApply_kept h
  | qfRead _ _ => exact execQfRead_kept h
  | qfWrite _ => exact .whenAlive h (ite_kept h (State.arrive_kept _ _ _ _ h (fun _ ht => State.peerAccess_kept _ _ _ ht)))
  | bulkRead _ _ => exact execBulkRead_kept h
  | bulkWrite _ => exact .whenAlive h (ite_kept (State.arrive_kept _ _ _ _ h (fun _ ht => State.access_kept _ _ ht)) h)
  | readRsp _ => exact .whenAlive h (ite_kept (State.response_kept _ _ _ _ h (fun _ _ ht => State.deliver_kept _ _ _ ht)) h)
  | writeAck _ => exact .whenAlive h (ite_kept (State.response_kept _ _ _ _ h (fun _ _ ht => State.deliver_kept _ _ _ ht)) h)
  | atomicRsp _ => exact .whenAlive h (ite_kept (State.response_kept _ _ _ _ h (fun _ _ ht => State.deliver_kept _ _ _ ht)) h)
  | homeRsp _ => exact execHomeRsp_kept h
  | errResponse _ => exact execErrResponse_kept h
  | packetForward _ _ => exact execPacketForward_kept h
  | requestTimerExpiry _ => exact execRequestTimerExpiry_kept h
  | linkBlockReceived _ _ => exact execLinkBlockReceived_kept h
  | laneLockLoss _ => exact .whenAlive h (ite_kept (State.linkDown_kept _ _ _ h.parts) h)
  | linkIdleTimeout _ => exact .whenAlive h (State.linkDown_kept _ _ _ h)
  | qfPortTrain _ _ => exact execQfPortTrain_kept h
  | portTrainRetry _ => exact .whenAlive h (ite_kept (ite_kept (State.setFldAt_kept _ _ _ _ h) h) (ite_kept (State.setFldAt_kept _ _ _ _ h) h))
  | heartbeatSend => exact execHeartbeatSend_kept h
  | heartbeat _ => exact execHeartbeat_kept h
  | heartbeatMiss _ => exact execHeartbeatMiss_kept h
  | electionTimeout => exact execElectionTimeout_kept h
  | voteReq _ _ _ => exact execVoteReq_kept h
  | vote _ _ _ _ => exact execVote_kept h
  | beatSend => exact execBeatSend_kept h
  | beat _ _ _ => exact execBeat_kept h
  | selfFenceTimeout => exact .whenAlive h (ite_kept (State.fenceSelf_kept _ _ h) h)
  | replicate _ _ => exact execReplicate_kept h
  | replAck _ _ => exact execReplAck_kept h
  | prepare _ _ => exact execPrepare_kept h
  | prepareAck _ _ _ => exact execPrepareAck_kept h
  | prepareAckTimeout => exact execPrepareAckTimeout_kept h
  | commit _ _ => exact execCommit_kept h
  | epochGraceExpiry => exact .whenAlive h h.parts
  | report _ _ => exact execReport_kept h
  | probe _ _ => exact execProbe_kept h
  | probeTimeout _ => exact .whenAlive h (ite_kept h (State.verdict_kept _ _ _ h.parts))
  | fetch _ _ _ => exact execFetch_kept h
  | mapData _ => exact execMapData_kept h
  | topo _ _ => exact execTopo_kept h
  | neighbourExchange _ _ => exact execNeighbourExchange_kept h
  | abort _ => exact execAbort_kept h
  | sliceQuiet _ => exact .whenAlive h (State.sliceQuiet_kept _ _ h)
  | alarm _ => exact execAlarm_kept h
  | diag _ => exact execDiag_kept h
  | alarmSend _ => exact .whenAlive h (State.alarmSend_kept _ _ h)
  | logInterruptTimer => exact .whenAlive h (ite_kept (State.message_kept _ _ _ h.parts) h)
  | linkUpRecord _ _ => exact execLinkUpRecord_kept h
  | klPortTrain _ _ => exact execKlPortTrain_kept h
  | cReadRsp _ _ => exact execCReadRsp_kept h
  | cWriteAck _ _ => exact execCWriteAck_kept h
  | klRequestTimeout _ _ => exact execKlRequestTimeout_kept h
  | klHeartbeatMiss _ => exact .whenAlive h (State.killPort_kept _ _ _ h)
  | klPortKill _ => exact .whenAlive h (State.killWrite_kept _ _ h)
  | klRetrainTimer _ => exact .whenAlive h (ite_kept h h.parts)
  | nvmeReadComplete _ _ _ _ => exact execNvmeReadComplete_kept h
  | zoneAppendComplete _ _ _ => exact execZoneAppendComplete_kept h
  | backgroundWriteback _ => exact execBackgroundWriteback_kept h
  | zoneReclaim _ => exact execZoneReclaim_kept h
  | nvmeCommandTimeout _ => exact execNvmeCommandTimeout_kept h
  | nvmeAbortTimeout _ => exact execNvmeAbortTimeout_kept h
  | controllerResetTimeout _ => exact .whenAlive h (ite_kept (State.failDrive_kept _ _ h) h)
  | driveLinkDown _ => exact .whenAlive h (State.failDrive_kept _ _ h)
  | controllerFatalStatus _ => exact .whenAlive h (State.failDrive_kept _ _ h)
  | driveRemoved _ => exact .whenAlive h (ite_kept (State.failDrive_kept _ _ h) h)
  | aerMessage _ => exact .whenAlive h (ite_kept h (State.mediaEvent_kept _ _ _ h))
  | driveDmaRequest _ _ _ _ => exact .whenAlive h (ite_kept h (ite_kept h (State.mediaEvent_kept _ _ _ (State.incSatAt_kept _ _ _ h))))
  | mediaBringup _ _ _ => exact execMediaBringup_kept h
  | patrolScrub _ _ _ => exact .whenAlive h (ite_kept h (State.dramErr_kept _ _ _ _ h))
  | tierRetire _ => exact .whenAlive h (State.tierRetire_kept _ _ h)
  | borageStart _ => exact .whenAlive h (State.borageWrite_kept _ _ h)
  | borageDone _ _ => exact execBorageDone_kept h
  | xlRootWrite _ _ => exact .whenAlive h (State.rootWrite_kept _ _ _ h)
  | counterDecay => exact .whenAlive h h.parts
  | xlMigRingWrite _ => exact .whenAlive h (State.migRingWrite_kept _ _ h)
  | xlMigIdxWrite _ => exact .whenAlive h (State.migIdxWrite_kept _ _ h)
  | arrDisableWrite _ => exact .whenAlive h (State.arrDisable_kept _ _ h)
  | arrAuditCtlWrite _ => exact .whenAlive h (State.auditCtl_kept _ _ h)
  | storeAuditPass _ _ => exact .whenAlive h (ite_kept (State.auditPass_kept _ _ _ h) h)
  | storeMirrorWrite _ _ => exact .whenAlive h (State.mirrorWrite_kept _ _ _ h)
  | slcCfgWrite _ _ => exact .whenAlive h (State.sliceWrite_kept _ _ _ _ h)
  | slcMoversWrite _ _ => exact .whenAlive h (State.sliceWrite_kept _ _ _ _ h)
  | slcShareWrite _ _ => exact .whenAlive h (State.sliceWrite_kept _ _ _ _ h)
  | slcQosWrite _ _ => exact .whenAlive h (State.sliceWrite_kept _ _ _ _ h)
  | slcGlobalWrite _ => exact .whenAlive h (State.globalWrite_kept _ _ h)
  | sliceResetDrain _ => exact .whenAlive h (ite_kept (State.sliceReset_kept _ _ h) h)
  | sliceResetAbort _ => exact .whenAlive h (ite_kept (State.sliceReset_kept _ _ h) h)
  | drainTimeout _ => exact .whenAlive h (ite_kept (State.abortReset_kept _ _ h) h)
  | sliceResetFinish _ => exact execSliceResetFinish_kept h
  | slcComposeWrite _ => exact .whenAlive h (State.composeWrite_kept _ _ h)
  | compose _ _ _ => exact .whenAlive h (State.judgeCompose_kept _ _ _ _ _ _ _ h)
  | extend _ _ _ => exact .whenAlive h (State.judgeCompose_kept _ _ _ _ _ _ _ h)
  | shrink _ _ _ => exact .whenAlive h (State.judgeCompose_kept _ _ _ _ _ _ _ h)
  | teardown _ _ => exact .whenAlive h (State.judgeCompose_kept _ _ _ _ _ _ _ h)
  | composeTimeout => exact .whenAlive h (ite_kept (State.endCompose_kept _ _ _ h).parts h)
  | revokeDrain _ => exact .whenAlive h (ite_kept (State.revokeWrite_kept _ _ h) h)
  | revokeAbort _ => exact .whenAlive h (ite_kept (State.revokeWrite_kept _ _ h) h)
  | vectorEntryWrite _ _ => exact .whenAlive h (State.vectorWrite_kept _ _ _ h)
  | jobAbort _ => exact .whenAlive h (State.jobAbortWrite_kept _ _ h)
  | fltLogRingWrite _ => exact .whenAlive h (State.logRingWrite_kept _ _ h)
  | fltLogIdxWrite _ => exact .whenAlive h (State.logIdxWrite_kept _ _ h)
  | alarmEntryClear _ _ => exact .whenAlive h (State.alarmClear_kept _ _ _ h)
  | registerWrite _ _ => exact .whenAlive h (State.regWrite_kept _ _ _ h)
  | resetNAssert => exact .next (ite_kept h (ite_kept h.parts (State.warmReset_kept _ h).parts))
  | resetNDeassert => exact .next (ite_kept h.parts h)
  | pwrokRise => exact .next (ite_kept h.parts h)
  | powerOnResetRelease _ => exact .next (ite_kept (State.setFld_kept _ _ _ h.parts) h)
  | pwrokFall => exact .next (State.powerFall_kept _ h)
  | railOutOfTolerance _ => exact .next (ite_kept h (ite_kept (State.setRail_kept _ _ _ h) h.parts))
  | railToleranceTimer _ => exact .next (ite_kept (State.powerFall_kept _ h) h)
  | bootStage1 => exact .whenAlive h (ite_kept (State.stageEnd_kept _ _ h) h)
  | bootStage2 => exact execBootStage2_kept h
  | bootStage3 _ => exact .whenAlive h (ite_kept (State.stage3_kept _ _ h) h)
  | bootStage4 => exact .whenAlive h (ite_kept (State.stage4_kept _ h) h)
  | bootStage5 _ => exact execBootStage5_kept h
  | bootStage6 => exact .whenAlive h (ite_kept (State.stageEnd_kept _ _ ⟨wf_filter h.wf _, h.file⟩) h)
  | bootStage7 _ => exact execBootStage7_kept h
  | bootStage8 _ => exact .whenAlive h (ite_kept (State.stage8_kept _ _ h) h)
  | bootStageTimeout _ => exact .whenAlive h (ite_kept (State.stageFail_kept _ _ _ _ h) h)
  | flashOpTimeout => exact execFlashOpTimeout_kept h
  | setEndpointId _ => exact execSetEndpointId_kept h
  | getEndpointId => exact .whenAlive h (State.control_kept _ _ _ _ h)
  | getMctpVersionSupport => exact .whenAlive h (State.control_kept _ _ _ _ h)
  | getMessageTypeSupport => exact .whenAlive h (State.control_kept _ _ _ _ h)
  | getEndpointUuid => exact execGetEndpointUuid_kept h
  | unsupportedControlCommand _ => exact .whenAlive h (State.control_kept _ _ _ _ h)
  | getBootStatus => exact .whenAlive h (State.mctpIn_kept _ _ h)
  | getIdentity => exact .whenAlive h (State.mctpIn_kept _ _ h)
  | getReport _ => exact .whenAlive h (State.mctpIn_kept _ _ h)
  | regRead _ => exact .whenAlive h (State.mctpIn_kept _ _ h)
  | regWrite _ _ => exact .whenAlive h (State.mctpIn_kept _ _ h)
  | flashWrite _ _ _ _ _ => exact .whenAlive h (State.mctpIn_kept _ _ h)
  | endorseWrite _ _ _ _ _ => exact .whenAlive h (State.mctpIn_kept _ _ h)
  | reset => exact .whenAlive h (State.mctpIn_kept _ _ h)
  | mctpDeferredAnswer => exact .whenAlive h (ite_kept (State.mctpServe_kept _ h) h)
  | carStart _ _ => exact .whenAlive h (State.carStart_kept _ _ _ h)
  | carterChannelRun _ => exact .whenAlive h (ite_kept (State.carMove_kept _ _ (State.setFldAt_kept _ _ _ _ (State.setFldAt_kept _ _ _ _ h))) h)
  | carterChannelDone _ => exact .whenAlive h (State.carDone_kept _ _ h)
  | obsSelWrite _ _ => exact .whenAlive h (State.selWrite_kept _ _ _ h)
  | obsDumpCtlWrite _ => exact .whenAlive h (State.dumpCtl_kept _ _ h)
  | obsDumpRingWrite _ => exact .whenAlive h (State.dumpRing_kept _ _ h)
  | dumpBoundary => exact .whenAlive h (State.dump_kept _ h)
  | scrCtlWrite _ => exact .whenAlive h (State.scrCtl_kept _ _ h)
  | scrRingWrite _ => exact .whenAlive h (State.scrRing_kept _ _ h)
  | freezeNAssert => exact .next (ite_kept h (ite_kept (State.freeze_kept _ _ _ _ h) h.parts))
  | frzCtlFreeze _ => exact .whenAlive h (State.frzCtl_kept _ _ h)
  | tapReset => exact .next h.parts
  | idcode => exact .next (State.tapScan_kept _ _ _ h)
  | tapFreeze _ => exact execTapFreeze_kept h
  | fstatus => exact .next (State.tapScan_kept _ _ _ h)
  | raddr _ => exact .next (State.tapScan_kept s 0x12 s.tapAddr h).parts
  | rdata => exact .next (State.tapScan_kept s 0x13 ((s.readWord s.tapAddr).1 + (s.readWord s.tapAddr).2 * 2 ^ 64) h).parts
  | stream _ _ _ => exact execStream_kept h
  | bypass => exact .next (State.tapScan_kept _ _ _ h)
  | streamFrameSend => exact execStreamFrameSend_kept h
  | dillStart _ => exact .whenAlive h (State.dillWrite_kept _ _ h)
  | dillDone _ => exact execDillDone_kept h
  | sensorReading _ => exact .whenAlive h (State.sensorReading_kept _ _ h)
  | powerWindow _ => exact .whenAlive h (State.powerWindow_kept _ _ h)
  | stepUp => exact .whenAlive h (ite_kept (State.setFld_kept _ _ _ h) h)
  | stepDown => exact .whenAlive h (ite_kept h (State.setFld_kept _ _ _ h))
  | linkBlockSend _ => exact execLinkBlockSend_kept h
  | pinTimeout _ _ _ => exact execPinTimeout_kept h
  | nvmeCommandComplete _ _ _ => exact execNvmeCommandComplete_kept h
  | mediaLinkUp _ _ _ => exact execMediaLinkUp_kept h
  | flashOperationComplete => exact execFlashOperationComplete_kept h
  | coherenceMessageToClient _ _ => exact execCoherenceMessageToClient_kept h
/-! ### The statements -/

/-- A step is a tick or a command. -/
theorem step_kept {s : State} (h : s.Kept) : NextKept (step s) := by
  unfold step
  split
  · exact .next (State.tick_kept _ h)
  · rename_i c rest _
    exact exec_kept (s := { s with pending := rest }) h.parts c

/-- Settles O3: both sparse maps are empty at reset. -/
theorem resetKept : Obligations.ResetKept := reset_kept

/-- Settles O4: a step is a tick or a command, and each keeps the canonical form. -/
theorem stepKeepsCanonicalForm : Obligations.StepKeepsCanonicalForm := fun _ t h hstep => (step_kept h).all t hstep

end Sys2Proof.Machine

/-! Plain memory at its home (R52, R304, R391 to R393): reads, writes and atomics of a range with nothing of the directory in the way. -/

namespace Sys2Proof.Machine

/-! ### Ranges cut into pieces -/

/-- Where piece `k` of `n` bytes from `a` begins, when they are cut at multiples of `g`; the last piece ends where the next would begin. -/
def cutEdge (g a n k : Nat) : Nat := max a (min (a + n) ((a / g + k) * g))

theorem cutEdge_bounds (g a n k : Nat) : a ≤ cutEdge g a n k ∧ cutEdge g a n k ≤ a + n := by
  unfold cutEdge
  omega

theorem cutEdge_mono (g a n k : Nat) : cutEdge g a n k ≤ cutEdge g a n (k + 1) := by
  have hstep : (a / g + k) * g ≤ (a / g + (k + 1)) * g := Nat.mul_le_mul_right g (by omega)
  unfold cutEdge
  omega

theorem cutEdge_first (g a n : Nat) : cutEdge g a n 0 = a := by
  have hle : a / g * g ≤ a := Nat.div_mul_le_self a g
  simp only [cutEdge, Nat.add_zero]
  omega

/-- The multiple of `g` before piece `k` begins, in terms of the offset of `a` in its own piece. -/
theorem cutEdge_multiple (g a k : Nat) : (a / g + k) * g + a % g = a + k * g := by
  have := Nat.div_add_mod' a g
  rw [Nat.add_mul]
  omega

theorem cutEdge_last {g : Nat} (hg : 0 < g) (a n : Nat) : cutEdge g a n ((a % g + n + g - 1) / g) = a + n := by
  have hmul := cutEdge_multiple g a ((a % g + n + g - 1) / g)
  have hround : a % g + n ≤ (a % g + n + g - 1) / g * g := by
    have := Nat.div_add_mod' (a % g + n + g - 1) g
    have := Nat.mod_lt (a % g + n + g - 1) hg
    omega
  unfold cutEdge
  omega

/-- A piece before the last begins inside the range. -/
theorem cutEdge_lt {g : Nat} (a n : Nat) {k : Nat} (hk : k < (a % g + n + g - 1) / g) : (a / g + k) * g < a + n := by
  have hg : 0 < g := Nat.pos_of_ne_zero fun h => by simp [h] at hk
  have hmul := cutEdge_multiple g a k
  have hin : (k + 1) * g ≤ a % g + n + g - 1 := (Nat.le_div_iff_mul_le hg).mp hk
  rw [Nat.add_mul] at hin
  omega

theorem cut_eq_edges (g a n : Nat) :
    cut g a n = (List.range ((a % g + n + g - 1) / g)).map (fun k => (cutEdge g a n k, cutEdge g a n (k + 1) - cutEdge g a n k)) := by
  refine List.map_congr_left fun k hk => ?_
  have hlt := cutEdge_lt a n (List.mem_range.mp hk)
  have hbegin : max a ((a / g + k) * g) = cutEdge g a n k := by
    unfold cutEdge
    omega
  have hg : 0 < g := Nat.pos_of_ne_zero fun h => by simp [h] at hk
  have hend : min (a + n) ((a / g + k + 1) * g) = cutEdge g a n (k + 1) := by
    have hmod := Nat.mod_lt a hg
    have hmul := cutEdge_multiple g a (k + 1)
    have hnext : (k + 1) * g = k * g + g := by rw [Nat.add_mul, Nat.one_mul]
    unfold cutEdge
    rw [Nat.add_assoc]
    omega
  simp only [hbegin, hend]

theorem mem_cut {g a n : Nat} {p : Nat × Nat} (hn : 0 < n) (h : p ∈ cut g a n) : a ≤ p.1 ∧ p.1 < a + n := by
  rw [cut_eq_edges] at h
  obtain ⟨k, hk, rfl⟩ := List.mem_map.mp h
  have hlt := cutEdge_lt a n (List.mem_range.mp hk)
  unfold cutEdge
  dsimp only
  omega

/-- Runs of consecutive numbers, each beginning where the one before it ends, are one run. -/
theorem flatMap_runs {β : Type} (F : Nat → β) (edge : Nat → Nat) (hmono : ∀ k, edge k ≤ edge (k + 1)) (N : Nat) :
    edge 0 ≤ edge N ∧ (List.range N).flatMap (fun k => (List.range (edge (k + 1) - edge k)).map (fun i => F (edge k + i))) =
      (List.range (edge N - edge 0)).map (fun i => F (edge 0 + i)) := by
  induction N with
  | zero => simp
  | succ N ih =>
    obtain ⟨hle, hrun⟩ := ih
    have hstep := hmono N
    refine ⟨hle.trans hstep, ?_⟩
    have hlen : edge (N + 1) - edge 0 = (edge N - edge 0) + (edge (N + 1) - edge N) := by omega
    rw [List.range_succ, List.flatMap_append, hrun, hlen, List.range_add]
    simp only [List.flatMap_cons, List.flatMap_nil, List.append_nil, List.map_append, List.map_map]
    congr 1
    refine List.map_congr_left fun i _ => ?_
    have hpos : edge 0 + (edge N - edge 0 + i) = edge N + i := by omega
    simp only [Function.comp_apply, hpos]

/-- What stands at each place of a range, piece after piece, is what stands in the range. -/
theorem cut_flatMap {β : Type} (F : Nat → β) {g : Nat} (hg : 0 < g) (a n : Nat) :
    (cut g a n).flatMap (fun p => (List.range p.2).map (fun i => F (p.1 + i))) = (List.range n).map (fun i => F (a + i)) := by
  rw [cut_eq_edges, List.flatMap_map]
  have hruns := (flatMap_runs F (cutEdge g a n) (cutEdge_mono g a n) ((a % g + n + g - 1) / g)).2
  rw [cutEdge_first, cutEdge_last hg, Nat.add_sub_cancel_left] at hruns
  exact hruns

/-! ### Sparse memory byte by byte -/

theorem look_cons {α : Type} (d : α) (e : Nat × α) (m : List (Nat × α)) (k : Nat) : look d (e :: m) k = if e.1 = k then e.2 else look d m k := by
  unfold look
  by_cases h : e.1 = k <;> simp [h]

theorem walk_eq_look {α : Type} (d : α) (n k : Nat) (m : List (Nat × α)) (hrise : m.Pairwise (fun a b => a.1 < b.1)) (hlow : ∀ e ∈ m, k ≤ e.1) :
    walk d n k m = (List.range n).map (fun i => look d m (k + i)) := by
  induction n generalizing k m with
  | zero => cases m <;> rfl
  | succ n ih =>
    have hsplit (f : Nat → α) : (List.range (n + 1)).map (fun i => f (k + i)) = f k :: (List.range n).map (fun i => f (k + 1 + i)) := by
      rw [List.range_succ_eq_map, List.map_cons, List.map_map]
      refine congrArg _ (List.map_congr_left fun i _ => ?_)
      rw [Function.comp_apply, Nat.succ_eq_add_one, Nat.add_assoc, Nat.add_comm i]
    rw [hsplit (look d m)]
    cases m with
    | nil =>
      rw [walk, ih (k + 1) [] hrise (by simp)]
      rfl
    | cons e es =>
      obtain ⟨hes, hrest⟩ := List.pairwise_cons.mp hrise
      have hk := hlow e List.mem_cons_self
      rw [look_cons, walk]
      by_cases he : e.1 = k
      · rw [if_pos he, if_pos he, ih (k + 1) es hrest fun x hx => by have := hes x hx; omega]
        refine congrArg _ (List.map_congr_left fun i _ => ?_)
        rw [look_cons, if_neg (by omega)]
      · have hnone : look d es k = d := by
          unfold look
          rw [List.find?_eq_none.mpr fun x hx => ?_]
          have := hes x hx
          simp only [beq_iff_eq]
          omega
        rw [if_neg he, if_neg he, hnone, ih (k + 1) (e :: es) hrise fun x hx => ?_]
        rcases List.mem_cons.mp hx with rfl | hx
        · omega
        · have := hes x hx
          omega

theorem cellsRead_eq_cellByte {m : Cells} (h : Memory.wf m = true) (a n : Nat) :
    cellsRead m a n = (List.range n).map (fun i => cellByte m (a + i)) := by
  have hrise := ((canon_iff _ _).mp (wf_filter h (fun e => decide (a ≤ e.1)))).1
  refine (walk_eq_look _ _ _ _ hrise fun e he => by simpa using (List.mem_filter.mp he).2).trans ?_
  exact List.map_congr_left fun i _ => look_filter _ _ _ _ fun v => by simp

/-! ### One piece -/

theorem poisonIn_nil (off n : Nat) : poisonIn [] off n = none := by simp [poisonIn]

/-- A place of plain memory: the scratchpad, or the direct part outside the frame map. -/
def Place.plain (p : Place) : Prop := p = .scratch ∨ p = .direct

theorem State.rawPiece_plain {s : State} {a : Nat} (n : Nat) (hpoison : s.poison = []) (h : (s.placeOf a).plain) :
    s.rawPiece a n = .ok ⟨s.memRead a n, none⟩ := by
  rcases h with h | h <;> simp [State.rawPiece, h, hpoison, poisonIn_nil]

/-- A write of plain memory, where no line is poisoned. -/
theorem State.rawWrite_plain {s : State} {a : Nat} (bs : List Byte) (hpoison : s.poison = []) (h : (s.placeOf a).plain) :
    s.rawWrite a bs false = .ok { s with mem := cellsWrite s.mem a bs } := by
  have hclear : clearLines s.poison a bs.length = s.poison := by simp [hpoison, clearLines]
  rcases h with h | h <;> simp [State.rawWrite, h, State.memWrite, hclear]

theorem State.placeOf_mem (s : State) (m : Cells) (a : Nat) : ({ s with mem := m } : State).placeOf a = s.placeOf a := rfl

/-! ### The way to a range -/

section Open
variable {s : State} {b : By} {a n : Nat} (hopen : s.openRange b a n)
include hopen

theorem State.openRange.plain {p : Nat × Nat} (hp : p ∈ cut tileBytes a n) : (s.placeOf p.1).plain := by
  obtain ⟨hn, -, -, -, -, -, -, hplace⟩ := hopen
  obtain ⟨hlo, hhi⟩ := mem_cut hn hp
  have h := hplace (p.1 - a) (by omega)
  rwa [Nat.add_sub_cancel' hlo] at h

theorem State.openRange.first : (s.placeOf a).plain := by
  obtain ⟨hn, -, -, -, -, -, -, hplace⟩ := hopen
  exact hplace 0 hn

theorem State.openRange.form : setupForm a n = .ok () := by
  obtain ⟨-, hsetup, -⟩ := hopen
  have hout : ¬(setupBase ≤ a ∧ a < setupTop) := by simpa [inSetup] using hsetup
  simp [setupForm, hout]

theorem State.openRange.judge (write : Bool) : s.judge b a n write = .ok () := by
  have hplain {p : Nat × Nat} (hp : p ∈ cut tileBytes a n) := hopen.plain hp
  obtain ⟨-, -, hrevoked, -, -, -, hpt, -⟩ := hopen
  have hplace : (cut tileBytes a n).find? (fun p => s.placeOf p.1 == .none || s.placeOf p.1 == .setup) = none :=
    List.find?_eq_none.mpr fun p hp => by rcases hplain hp with h | h <;> simp [h]
  have htable : (cut tileBytes a n).find? (fun p => s.placeOf p.1 == .table && (write || !b.mgmt)) = none :=
    List.find?_eq_none.mpr fun p hp => by rcases hplain hp with h | h <;> simp [h]
  have hright : (write && !b.mgmt && s.inPtArea a n) = false := by rcases hpt with h | h <;> simp [h]
  have hkeep : s.revokedFor b.node b.slice a n = false := by simp [State.revokedFor, hrevoked]
  rw [State.judge, if_neg (by simp [hkeep])]
  dsimp only
  rw [hplace, htable]
  exact if_neg (by simp [hright])

theorem State.openRange.way (own : Bool) : s.clearWay a n own = .ok () := by
  obtain ⟨-, -, -, hdir, hfill, hbank, -⟩ := hopen
  simp [State.clearWay, State.busyLines, State.queuedOver, hdir, hfill, hbank]

end Open

/-! ### Reads (R304, R391) -/

theorem res_ok_bind {α β : Type} (a : α) (f : α → Res β) : (.ok a >>= f : Res β) = f a := rfl

theorem gather_ok {α β : Type} (f : α → β) (l : List α) : gather (l.map (fun x => (.ok (f x) : Res β))) = .ok (l.map f) := by
  unfold gather
  split
  · rename_i e he
    obtain ⟨r, hr, hre⟩ := List.exists_of_findSome?_eq_some he
    obtain ⟨x, -, rfl⟩ := List.mem_map.mp hr
    cases hre
  · split
    · simp [List.filterMap_map]
    · rename_i hwait
      exact absurd (by simp) hwait

theorem joinGot_plain (l : List (Nat × Nat)) (f : Nat × Nat → List Byte) (a : Nat) :
    joinGot (l.zip (l.map (fun p => (⟨f p, none⟩ : Got)))) a = ⟨l.flatMap f, none⟩ := by
  have hzip : l.zip (l.map (fun p => (⟨f p, none⟩ : Got))) = l.map (fun p => (p, (⟨f p, none⟩ : Got))) := by
    induction l with
    | nil => rfl
    | cons p ps ih => simp [ih]
  simp [joinGot, hzip, List.flatMap_map, List.findSome?_map]

theorem State.homeRead_open {s : State} {b : By} {a n : Nat} (hkept : s.Kept) (hpoison : s.poison = []) (hopen : s.openRange b a n) :
    s.homeRead b a n = .ok ⟨(List.range n).map (fun i => cellByte s.mem (a + i)), none⟩ := by
  have hpieces : (cut tileBytes a n).map (fun p => s.rawPiece p.1 p.2) = (cut tileBytes a n).map (fun p => .ok ⟨s.memRead p.1 p.2, none⟩) :=
    List.map_congr_left fun p hp => State.rawPiece_plain p.2 hpoison (hopen.plain hp)
  have hbytes : (cut tileBytes a n).flatMap (fun p => s.memRead p.1 p.2) = (List.range n).map (fun i => cellByte s.mem (a + i)) := by
    simp only [State.memRead, cellsRead_eq_cellByte hkept.wf]
    exact cut_flatMap (cellByte s.mem) (by decide) a n
  rw [State.homeRead, hopen.form, res_ok_bind, hopen.judge false, res_ok_bind, hopen.way false, res_ok_bind]
  dsimp only
  rw [hpieces, gather_ok (fun p : Nat × Nat => (⟨s.memRead p.1 p.2, none⟩ : Got)), res_ok_bind, joinGot_plain _ (fun p => s.memRead p.1 p.2), hbytes]

/-! ### Writes (R391, R392) -/

/-- `bs` stands from `a` on, and every other byte is that of `m`. -/
def StoredOver (m m' : Cells) (a : Nat) (bs : List Byte) : Prop :=
  ∀ x, cellByte m' x = if a ≤ x ∧ x < a + bs.length then bs.getD (x - a) 0#8 else cellByte m x

/-- Writing the next bytes of a list behind those that already stand. -/
theorem StoredOver.extend {m m' : Cells} {a i j : Nat} {bs : List Byte} (h : StoredOver m m' a (bs.take i)) (hij : i ≤ j) (hj : j ≤ bs.length) :
    StoredOver m (cellsWrite m' (a + i) ((bs.drop i).take (j - i))) a (bs.take j) := by
  intro x
  have hlen : ((bs.drop i).take (j - i)).length = j - i := by simp; omega
  rw [cellByte_cellsWrite, h x, hlen, List.length_take_of_le (hij.trans hj), List.length_take_of_le hj]
  by_cases hnew : a + i ≤ x ∧ x < a + i + (j - i)
  · have hidx : i + (x - (a + i)) = x - a := by omega
    rw [if_pos hnew, if_pos (by omega), List.getD_eq_getElem?_getD, List.getD_eq_getElem?_getD, List.getElem?_take_of_lt (by omega),
      List.getElem?_drop, hidx, List.getElem?_take_of_lt (by omega)]
  · rw [if_neg hnew]
    by_cases hold : a ≤ x ∧ x < a + i
    · rw [if_pos hold, if_pos (by omega), List.getD_eq_getElem?_getD, List.getD_eq_getElem?_getD, List.getElem?_take_of_lt (by omega),
        List.getElem?_take_of_lt (by omega)]
    · rw [if_neg hold, if_neg (by omega)]

/-- The pieces of a write, one after the other: after the first `k` of them the bytes up to the next edge stand. -/
theorem State.rawWrites_pieces {s : State} {a : Nat} {bs : List Byte} (hpoison : s.poison = [])
    (hplain : ∀ p ∈ cut tileBytes a bs.length, (s.placeOf p.1).plain) (k : Nat) (hk : k ≤ (a % tileBytes + bs.length + tileBytes - 1) / tileBytes) :
    ∃ m, ((List.range k).map (fun i => (cutEdge tileBytes a bs.length i, cutEdge tileBytes a bs.length (i + 1) - cutEdge tileBytes a bs.length i))).foldlM
        (fun t p => State.rawWrite t p.1 ((bs.drop (p.1 - a)).take p.2) false) s = .ok { s with mem := m } ∧
      StoredOver s.mem m a (bs.take (cutEdge tileBytes a bs.length k - a)) := by
  induction k with
  | zero =>
    refine ⟨s.mem, rfl, fun x => ?_⟩
    rw [cutEdge_first, Nat.sub_self, List.take_zero, if_neg (by simp)]
  | succ k ih =>
    obtain ⟨m, hrun, hstored⟩ := ih (by omega)
    have hplace : (s.placeOf (cutEdge tileBytes a bs.length k)).plain := hplain (_, _) (by
      rw [cut_eq_edges]
      exact List.mem_map.mpr ⟨k, List.mem_range.mpr (by omega), rfl⟩)
    obtain ⟨hlo, -⟩ := cutEdge_bounds tileBytes a bs.length k
    obtain ⟨-, hhi⟩ := cutEdge_bounds tileBytes a bs.length (k + 1)
    have hmono := cutEdge_mono tileBytes a bs.length k
    clear ih
    generalize hedge : cutEdge tileBytes a bs.length k = lo at *
    generalize hnext : cutEdge tileBytes a bs.length (k + 1) = hi at *
    have hwrite : ({ s with mem := m } : State).rawWrite lo ((bs.drop (lo - a)).take (hi - lo)) false =
        .ok { s with mem := cellsWrite m lo ((bs.drop (lo - a)).take (hi - lo)) } := State.rawWrite_plain _ hpoison hplace
    refine ⟨cellsWrite m lo ((bs.drop (lo - a)).take (hi - lo)), ?_, ?_⟩
    · rw [List.range_succ, List.map_append, List.foldlM_append, hrun]
      simp only [List.map_cons, List.map_nil, List.foldlM_cons, List.foldlM_nil, hedge, hnext, bind, Except.bind, hwrite]
      rfl
    · have hpos : a + (lo - a) = lo := by omega
      have hlen : hi - a - (lo - a) = hi - lo := by omega
      have hext := hstored.extend (j := hi - a) (by omega) (by omega)
      rwa [hpos, hlen] at hext

theorem State.rawWrites_open {s : State} {b : By} {a : Nat} {bs : List Byte} (hpoison : s.poison = []) (hopen : s.openRange b a bs.length) :
    ∃ m, s.rawWrites a bs false = .ok { s with mem := m } ∧ StoredOver s.mem m a bs := by
  obtain ⟨m, hrun, hstored⟩ := State.rawWrites_pieces hpoison (fun p hp => hopen.plain hp) _ le_rfl
  rw [cutEdge_last (by decide), Nat.add_sub_cancel_left, List.take_length] at hstored
  exact ⟨m, by rw [State.rawWrites, cut_eq_edges]; exact hrun, hstored⟩

theorem State.homeWrite_open {s : State} {b : By} {a : Nat} {bs : List Byte} (hpoison : s.poison = []) (hopen : s.openRange b a bs.length) :
    ∃ m, s.homeWrite b a bs false = .ok { s with mem := m } ∧ StoredOver s.mem m a bs := by
  rw [State.homeWrite, hopen.form, res_ok_bind, hopen.judge true, res_ok_bind, hopen.way true, res_ok_bind]
  exact State.rawWrites_open hpoison hopen

/-! ### Atomics (R52, R393) -/

/-- What holds of a state, and is kept by every step, holds after the steps. -/
theorem forL_induct {α : Type} {P : State → Prop} (l : List α) (f : α → State → State) {s : State} (h : P s) (hf : ∀ x ∈ l, ∀ t, P t → P (f x t)) :
    P (forL l s f) := by
  unfold forL
  induction l generalizing s with
  | nil => exact h
  | cons x xs ih => exact ih (hf x List.mem_cons_self s h) fun y hy => hf y (List.mem_cons_of_mem _ hy)

/-- An event counted by the observation counters changes no other register, and nothing else. -/
theorem State.obs_onlyWords (s : State) (kind inst event slice v : Nat) :
    s.OnlyWords (s.obs kind inst event slice v) ((List.range 64).map f_OBS_CTR_COUNT.addr) := by
  have hstart : s.OnlyWords s ((List.range 64).map f_OBS_CTR_COUNT.addr) := ⟨rfl, fun _ _ => rfl⟩
  unfold State.obs
  split
  · exact hstart
  · refine forL_induct (P := fun t => s.OnlyWords t ((List.range 64).map f_OBS_CTR_COUNT.addr)) (List.range 64) _ hstart fun i hi t ht => ?_
    split
    · obtain ⟨honly, hwords⟩ := ht
      refine ⟨?_, fun o ho => ?_⟩
      · have hset (v : Nat) : t.setFldAt f_OBS_CTR_COUNT i v = { t with regs := (t.setFldAt f_OBS_CTR_COUNT i v).regs } := rfl
        unfold State.OnlyRegs at honly ⊢
        rw [hset, honly]
      · rw [State.word_setFldAt_ne _ _ _ _ fun he => ho (List.mem_map.mpr ⟨i, hi, he.symm⟩)]
        exact hwords o ho
    · exact ht

theorem State.scriv_off {s : State} (h : s.fld f_SCR_CTL_ENABLE = 0) (point slice source since addr a b : Nat) :
    s.scriv point slice source since addr a b = s := by
  simp [State.scriv, h]

/-- An atomic that ends is counted: `TALLY_OPS` rises by one, and nothing but registers changes. -/
theorem State.tallied {s : State} (h : s.fld f_SCR_CTL_ENABLE = 0) (inst event sl v point slice source since addr a b : Nat) :
    ∃ t, ((s.addWrap f_TALLY_OPS_OPS 1).obs 6 inst event sl v).scriv point slice source since addr a b = t ∧ s.OnlyRegs t ∧
      t.fld f_TALLY_OPS_OPS = (s.fld f_TALLY_OPS_OPS + 1) % 2 ^ f_TALLY_OPS_OPS.width := by
  obtain ⟨honly, hwords⟩ := State.obs_onlyWords (s.addWrap f_TALLY_OPS_OPS 1) 6 inst event sl v
  have hfar {o : Nat} (ho : o < 0x190300 ∨ 0x190500 ≤ o) : o ∉ (List.range 64).map f_OBS_CTR_COUNT.addr := fun hmem => by
    obtain ⟨i, hi, rfl⟩ := List.mem_map.mp hmem
    have := List.mem_range.mp hi
    simp only [Fld.addr, f_OBS_CTR_COUNT] at ho
    omega
  have hscr : ((s.addWrap f_TALLY_OPS_OPS 1).obs 6 inst event sl v).fld f_SCR_CTL_ENABLE = 0 := by
    have hword := hwords (f_SCR_CTL_ENABLE.addr 0) (hfar (by decide))
    rw [State.word_addWrap_ne _ _ _ (by decide)] at hword
    rw [← h, State.fld, State.fld, State.fldAt, State.fldAt, hword]
  refine ⟨_, State.scriv_off hscr .., ?_, ?_⟩
  · exact honly
  · rw [State.fld, State.fldAt, hwords (f_TALLY_OPS_OPS.addr 0) (hfar (by decide))]
    exact State.fld_setFld s f_TALLY_OPS_OPS _ (by decide)

theorem State.homeAtomic_open {s : State} {b : By} {op typ w a : Nat} {operand : List Byte} (hkept : s.Kept) (hpoison : s.poison = [])
    (hopen : s.openRange b a w) (hwidth : tallyWidth op typ = some w) (hlen : operand.length = if op = 3 then 2 * w else w) (halign : a % w = 0)
    (hunord : op = 0 ∧ typ = 4 → s.unord b.node b.slice = true) (hscr : s.fld f_SCR_CTL_ENABLE = 0) :
    let old := (List.range w).map (fun i => cellByte s.mem (a + i))
    ∃ t, s.homeAtomic b op typ a operand = .ok (t, old) ∧ t = { s with mem := t.mem, regs := t.regs } ∧
      StoredOver s.mem t.mem a (leBytes w (tallyResult op typ w (leNat old) (leNat operand))) ∧
      t.fld f_TALLY_OPS_OPS = (s.fld f_TALLY_OPS_OPS + 1) % 2 ^ f_TALLY_OPS_OPS.width := by
  intro old
  have hread : s.rawPiece a w = .ok ⟨old, none⟩ := by
    rw [State.rawPiece_plain w hpoison hopen.first, State.memRead, cellsRead_eq_cellByte hkept.wf]
  obtain ⟨m, hwrite, hstored⟩ := State.rawWrites_open (bs := leBytes w (tallyResult op typ w (leNat old) (leNat operand))) hpoison
    (by rwa [leBytes_length])
  obtain ⟨t, ht, honly, hcount⟩ := State.tallied (s := { s with mem := m }) hscr (bank a) 1 b.slice 1 4 b.slice (6 * 4096 + bank a) s.now a
    (op + 16 * typ) 0
  have hform : check (operand.length == (if op = 3 then 2 * w else w)) eFormat 3 (if b.client then 16 else 14) = .ok () := by simp [check, hlen]
  have hnat : check (a % w == 0) eAlign 2 a = .ok () := by simp [check, halign]
  have hright : check (!(op == 0 && typ == 4) || s.unord b.node b.slice) ePerm 2 a = .ok () := by
    by_cases hadd : op = 0 ∧ typ = 4
    · simp [check, hunord hadd]
    · have hno : (op == 0 && typ == 4) = false := by simpa using hadd
      simp [check, hno]
  refine ⟨t, ?_, ?_, ?_, hcount⟩
  · have hclean : check (⟨old, none⟩ : Got).poison.isNone ePoison 2 a = .ok () := rfl
    rw [← ht, State.homeAtomic, hwidth]
    dsimp only
    rw [hform, res_ok_bind, hnat, res_ok_bind, hopen.judge true, res_ok_bind, hright, res_ok_bind, hopen.way true, res_ok_bind, hread, res_ok_bind,
      hclean, res_ok_bind, hwrite, res_ok_bind]
  · rw [honly]
  · rw [honly]
    exact hstored

/-! ### The statement -/

/-- Settles O40: the range's way is clear, so each access is the one of plain memory, piece by piece. -/
theorem plainMemory : Obligations.PlainMemory := by
  unfold Obligations.PlainMemory
  intro s b a hkept hpoison
  refine ⟨fun n hopen => State.homeRead_open hkept hpoison hopen, fun bs hopen => ?_,
    fun op typ w operand hopen hwidth hlen halign hunord hscr => State.homeAtomic_open hkept hpoison hopen hwidth hlen halign hunord hscr⟩
  obtain ⟨m, hwrite, hstored⟩ := State.homeWrite_open hpoison hopen
  exact ⟨_, hwrite, rfl, hstored⟩

end Sys2Proof.Machine

/-! Home operations (R41, R60, R92, R248, R641): how one begins under its checks and ends, and what the parts of the version and placement operations
leave as it was. -/

namespace Sys2Proof.Machine

/-! ### Lists of records -/

/-- A search that an update does not turn aside finds the record it would have found, updated. -/
theorem find?_upd {α : Type} (l : List α) (p q : α → Bool) (g : α → α) (h : ∀ x, p (if q x then g x else x) = p x) :
    (upd l q g).find? p = (l.find? p).map (fun x => if q x then g x else x) := by
  have hcomp : p ∘ (fun x => if q x then g x else x) = p := funext h
  rw [upd, List.find?_map, hcomp]

/-! ### Descriptors -/

theorem State.desc_key {s : State} {k : DKey} {d : Desc} (h : s.desc k = some d) : d.key = k := by
  simpa using List.find?_some h

theorem State.desc_congr {s t : State} (h : t.descs = s.descs) (k : DKey) : t.desc k = s.desc k := by
  rw [State.desc, State.desc, h]

section DescUpd
variable {s t : State} {k : DKey} {g : Desc → Desc} (hdescs : t.descs = upd s.descs (fun x => x.key == k) g) (hkey : ∀ x, (g x).key = x.key)
include hdescs hkey

theorem State.desc_upd (i : DKey) : t.desc i = (s.desc i).map (fun x => if x.key == k then g x else x) := by
  rw [State.desc, hdescs]
  refine find?_upd _ _ _ _ fun x => ?_
  split <;> simp [hkey]

theorem State.desc_upd_same {d : Desc} (h : s.desc k = some d) : t.desc k = some (g d) := by
  rw [State.desc_upd hdescs hkey, h, Option.map_some, State.desc_key h, beq_self_eq_true, if_pos rfl]

theorem State.desc_upd_other : s.OtherDescs t k := fun i hi => by
  rw [State.desc_upd hdescs hkey]
  cases hd : s.desc i with
  | none => rfl
  | some d =>
    have hne : (d.key == k) = false := by simpa [State.desc_key hd] using hi
    rw [Option.map_some, hne, if_neg (by simp)]

end DescUpd

theorem State.OtherDescs.trans {s t u : State} {k : DKey} (h : s.OtherDescs t k) (h' : t.OtherDescs u k) : s.OtherDescs u k :=
  fun i hi => (h' i hi).trans (h i hi)

theorem State.otherDescs_of_eq {s t : State} (h : t.descs = s.descs) (k : DKey) : s.OtherDescs t k := fun i _ => State.desc_congr h i

/-! ### Regions -/

theorem State.region_congr {s t : State} (h : t.regions = s.regions) (n : Nat) : t.region n = s.region n := by
  rw [State.region, State.region, h]

theorem State.region_num {s : State} {n : Nat} {r : Region} (h : s.region n = some r) : r.num = n ∧ r.deleting = false := by
  simpa using List.find?_some h

/-- The live region of a number is replaced by one that is live too. -/
theorem State.region_setRegion_same {s : State} {n : Nat} {r q : Region} (h : s.region n = some r) (hnum : q.num = n) (hlive : q.deleting = false) :
    (s.setRegion q).region n = some q := by
  obtain ⟨hrn, -⟩ := State.region_num h
  have hfound : ((s.regions.map (fun x => if x.num == q.num then q else x)).find? (fun x => x.num == n && !x.deleting)).isSome := by
    rw [List.find?_isSome]
    exact ⟨q, List.mem_map.mpr ⟨r, List.mem_of_find?_eq_some h, by rw [hrn, hnum]; simp⟩, by simp [hnum, hlive]⟩
  obtain ⟨x, hx⟩ := Option.isSome_iff_exists.mp hfound
  have hnumx := List.find?_some hx
  obtain ⟨y, -, hy⟩ := List.mem_map.mp (List.mem_of_find?_eq_some hx)
  have hxq : x = q := by
    split at hy
    · exact hy.symm
    · rename_i hne
      subst hy
      simp [hnum] at hne hnumx
      exact absurd hnumx.1 hne
  rw [← hxq]
  rw [hxq] at hx ⊢
  exact hx

theorem State.region_setRegion_ne (s : State) (q : Region) {n : Nat} (hn : n ≠ q.num) : (s.setRegion q).region n = s.region n := by
  have hsearch : (s.setRegion q).region n = (s.region n).map (fun x => if x.num == q.num then q else x) :=
    find?_upd s.regions _ _ _ fun x => by
      by_cases hx : x.num = q.num
      · have hqn : (q.num == n) = false := beq_eq_false_iff_ne.mpr hn.symm
        simp [hx, hqn]
      · simp [hx]
  rw [hsearch]
  cases hr : s.region n with
  | none => rfl
  | some x =>
    have hx : ¬x.num = q.num := by rwa [(State.region_num hr).1]
    simp [hx]

/-! ### Running and ending (R87, R641) -/

theorem State.onRunning_runs {s : State} {k : DKey} {op : Nat} {d : Desc} (h : s.Runs k op d) (f : State → Desc → State) : s.onRunning k op f = f s d := by
  obtain ⟨hd, hphase, hop, hstop, hlent, hbank⟩ := h
  have hown : s.bankQ.any (fun w => w.acc.org == .desc k) = false := List.any_eq_false.mpr fun w hw => by simpa using hbank w hw
  simp [State.onRunning, hd, hphase, hop, hstop, State.inTurn, hown, State.lending, hlent]

/-- The mark of a home operation that ends: whether it had started, and the engine, which a rejection names as none (R641). -/
def Desc.begun (d : Desc) (started : Bool) : Desc := { d with started := started, engine := if started then d.engine else 0xF0 }

/-- The frames of a tile that a `MOVE_TIER` had under way are freed when it ends (R294). -/
def Desc.leavesFrames (d : Desc) : Bool := d.op == 0x38 && d.at 18 1 == 2 && !d.moving.isEmpty

/-- A descriptor whose end concerns nothing else: another ZV9 waits for no answer, no append is cut short, and no frames are left. -/
def Desc.EndsAlone (d : Desc) : Prop := d.origin = none ∧ d.op ≠ 0x10 ∧ d.leavesFrames = false

theorem Desc.endsAlone_of_op {d : Desc} (horigin : d.origin = none) (happend : d.op ≠ 0x10) (hplace : d.op ≠ 0x38) : d.EndsAlone :=
  ⟨horigin, happend, by simp [Desc.leavesFrames, hplace]⟩

/-- Such a descriptor only takes its outcome. -/
theorem State.endHome_onlyEnds {s : State} {d e : Desc} (h : s.desc d.key = some e) (halone : e.EndsAlone) (f : Fail) (progress : Nat) (started : Bool) :
    s.OnlyEnds (s.endHome d f progress started) d.key (e.begun started) f.status f.kind f.detail progress := by
  obtain ⟨horigin, hop, hmoving⟩ := halone
  set s1 : State := { s with descs := upd s.descs (fun x => x.key == d.key) (fun x => x.begun started) } with hs1
  have h1 : s1.desc d.key = some (e.begun started) := State.desc_upd_same (s := s) (g := fun x => x.begun started) rfl (fun _ => rfl) h
  set s2 : State := { s1 with descs := upd s1.descs (fun x => x.key == d.key) (fun x => x.endedWith f.status f.kind f.detail progress) } with hs2
  have h2 : s2.desc d.key = some ((e.begun started).endedWith f.status f.kind f.detail progress) :=
    State.desc_upd_same (s := s1) (g := fun x => x.endedWith f.status f.kind f.detail progress) rfl (fun _ => rfl) h1
  have hcut : (s1.desc d.key).any (fun x => x.op == 0x10 && x.phase == .running && x.started && decide (0x10 ≤ f.status)) = false := by
    have hb : (e.begun started).op ≠ 0x10 := hop
    simp [h1, hb]
  have hgc : (s1.desc d.key).any Desc.leavesFrames = false := by
    rw [h1]
    exact hmoving
  have hend : s1.endDesc d.key f.status f.kind f.detail progress = s2 := by
    rw [State.endDesc, hcut]
    exact if_neg (Bool.eq_false_iff.mp hgc)
  have hfinish : s2.finishHome d.key = s2 := by
    have ho : ((e.begun started).endedWith f.status f.kind f.detail progress).origin = none := horigin
    simp only [State.finishHome, h2, ho]
  have hall : s.endHome d f progress started = s2 := (congrArg (State.finishHome · d.key) hend).trans hfinish
  rw [hall]
  refine ⟨rfl, ?_, h2⟩
  exact State.OtherDescs.trans (State.desc_upd_other (s := s) (t := s1) (g := fun x => x.begun started) rfl fun _ => rfl)
    (State.desc_upd_other (s := s1) (g := fun x => x.endedWith f.status f.kind f.detail progress) rfl fun _ => rfl)

theorem State.endHome_self {s : State} {k : DKey} {d : Desc} (h : s.desc k = some d) (halone : d.EndsAlone) (f : Fail) (progress : Nat)
    (started : Bool) : s.OnlyEnds (s.endHome d f progress started) k (d.begun started) f.status f.kind f.detail progress := by
  obtain rfl := State.desc_key h
  exact State.endHome_onlyEnds h halone f progress started

/-! ### The home's checks (R60, R87, R248) -/

section HomeRun
variable {s : State} {k : DKey} {op : Nat} {d : Desc} {mode : Desc → Bool} (hruns : s.Runs k op d) (hnode : d.at (homeNodeOff op) 2 = s.me)
  (hmode : mode d = true) (run : State → Desc → State)
include hruns hnode hmode

theorem State.homeRun_begun (hpass : d.work ≠ 0 ∨ checks (homeForm d.raw ++ s.homeEpoch d) = .ok ()) : s.homeRun k op mode run = run s d := by
  rw [State.homeRun, State.onRunning_runs hruns, if_neg (by simp [hnode, hmode])]
  by_cases hwork : d.work = 0
  · rw [if_neg (by simp [hwork]), hpass.resolve_left (by simp [hwork])]
  · rw [if_pos hwork]

theorem State.homeRun_rejected {f : Fail} (hwork : d.work = 0) (hfail : checks (homeForm d.raw ++ s.homeEpoch d) = .error (.err f)) :
    s.homeRun k op mode run = s.endHome d f 0 false := by
  rw [State.homeRun, State.onRunning_runs hruns, if_neg (by simp [hnode, hmode]), if_neg (by simp [hwork]), hfail]

end HomeRun

section OnRegion
variable {s : State} {d : Desc} {r : Region} {more : Region → List (Bool × Fail)} {run : State → Region → State}
  (hregion : s.region (bits (d.at 20 4) 0 20) = some r) (hchecks : checks (s.regionChecks d (bits (d.at 20 4) 0 20)) = .ok ())
include hregion hchecks

theorem State.onRegion_runs (hmore : checks (more r) = .ok ()) : s.onRegion d more run = run (s.bankEngine d.key r.base) r := by
  rw [State.onRegion]
  dsimp only
  rw [hchecks, hregion]
  dsimp only
  rw [hmore]

theorem State.onRegion_refused {f : Fail} (hmore : checks (more r) = .error (.err f)) :
    s.onRegion d more run = (s.bankEngine d.key r.base).endHome d f 0 false := by
  rw [State.onRegion]
  dsimp only
  rw [hchecks, hregion]
  dsimp only
  rw [hmore]

end OnRegion

/-- The engine of the region's home bank is named (R41, R92). -/
theorem State.bankEngine_desc {s : State} {k : DKey} {d : Desc} (h : s.desc k = some d) (base : Nat) :
    (s.bankEngine k base).desc k = some { d with engine := 0x80 + bank base } :=
  State.desc_upd_same (s := s) (g := fun x => { x with engine := 0x80 + bank base }) rfl (fun _ => rfl) h

theorem State.bankEngine_other (s : State) (k : DKey) (base : Nat) : s.OtherDescs (s.bankEngine k base) k :=
  State.desc_upd_other (s := s) (g := fun x => { x with engine := 0x80 + bank base }) rfl fun _ => rfl

/-! ### The two ends of an operation on a region -/

section Ends
variable {s : State} {k : DKey} {d : Desc} (hd : s.desc k = some d) (halone : d.EndsAlone)
  (base : Nat) (f : Fail)
include hd halone

/-- An operation that has begun at the region's home bank takes its outcome; nothing else changes with it. -/
theorem State.endHome_started {u : State} (hu : u.descs = (s.bankEngine k base).descs) (progress : Nat) :
    u.endHome d f progress true = { u with descs := (u.endHome d f progress true).descs } ∧
      (u.endHome d f progress true).desc k =
        some ({ d with engine := 0x80 + bank base, started := true }.endedWith f.status f.kind f.detail progress) ∧
      s.OtherDescs (u.endHome d f progress true) k := by
  obtain rfl := State.desc_key hd
  have hud : u.desc d.key = some { d with engine := 0x80 + bank base } := (State.desc_congr hu _).trans (State.bankEngine_desc hd base)
  obtain ⟨honly, hother, hend⟩ := State.endHome_onlyEnds hud halone f progress true
  exact ⟨honly, hend, ((State.bankEngine_other s d.key base).trans (State.otherDescs_of_eq hu _)).trans hother⟩

/-- An operation that a check at the region refuses ends as not started, and nothing else changes (R641). -/
theorem State.endHome_refused : (s.bankEngine k base).endHome d f 0 false =
      { s with descs := ((s.bankEngine k base).endHome d f 0 false).descs } ∧
    ((s.bankEngine k base).endHome d f 0 false).desc k = some ({ d with engine := 0xF0, started := false }.endedWith f.status f.kind f.detail 0) := by
  obtain rfl := State.desc_key hd
  obtain ⟨honly, -, hend⟩ := State.endHome_onlyEnds (State.bankEngine_desc hd base) halone f 0 false
  exact ⟨honly, hend⟩

end Ends

/-! ### An operation of this ZV9 on a live region of its own -/

section HomeRegion
variable {s : State} {d : Desc} {r : Region} {k : DKey} {op : Nat} {mode : Desc → Bool} (halive : s.alive = true) (hruns : s.Runs k op d)
  (hop : homeNodeOff op = 16) (hnode : d.at 16 2 = s.me) (hmode : mode d = true) (hhome : checks (homeForm d.raw ++ s.homeEpoch d) = .ok ())
  (hregion : s.region (bits (d.at 20 4) 0 20) = some r) (hchecks : checks (s.regionChecks d (bits (d.at 20 4) 0 20)) = .ok ())
  {more : Desc → Region → List (Bool × Fail)} {run : State → Desc → State → Region → State}
include halive hruns hop hnode hmode hhome hregion hchecks

theorem State.homeRegion_begun (hmore : checks (more d r) = .ok ()) :
    s.whenAlive (s.homeRun k op mode (fun t e => t.onRegion e (more e) (run t e))) = run s d (s.bankEngine k r.base) r := by
  obtain ⟨hd, -⟩ := id hruns
  rw [State.whenAlive_alive halive, State.homeRun_begun hruns (by rwa [hop]) hmode _ (.inr hhome), State.onRegion_runs hregion hchecks hmore,
    State.desc_key hd]

theorem State.homeRegion_refused {f : Fail} (hmore : checks (more d r) = .error (.err f)) :
    s.whenAlive (s.homeRun k op mode (fun t e => t.onRegion e (more e) (run t e))) = (s.bankEngine k r.base).endHome d f 0 false := by
  obtain ⟨hd, -⟩ := id hruns
  rw [State.whenAlive_alive halive, State.homeRun_begun hruns (by rwa [hop]) hmode _ (.inr hhome), State.onRegion_refused hregion hchecks hmore,
    State.desc_key hd]

end HomeRegion

/-! ### Frames that no map names (R51, R287) -/

/-- Freeing frames changes the frames, the charge of their owners and the marks of zeroed tiles. -/
theorem State.gc_only (s : State) : s.gc.1 = { s with regs := s.gc.1.regs, frames := s.gc.1.frames, zeroed := s.gc.1.zeroed } :=
  forL_induct (P := fun t => t = { s with regs := t.regs, frames := t.frames, zeroed := t.zeroed }) _ _ rfl fun f _ t ht => by
    rw [ht]
    rfl

theorem State.gc_frames (s : State) : s.gc.1.frames = s.frames.filter (fun f => s.refs.contains f.id) :=
  forL_induct (P := fun t => t.frames = s.frames.filter (fun f => s.refs.contains f.id)) _ _ rfl fun _ _ _ ht => ht

/-- It answers how many frames it freed. -/
theorem State.gc_count (s : State) : s.gc.1.frames.length + s.gc.2 = s.frames.length := by
  rw [State.gc_frames]
  exact (List.length_eq_length_filter_add (fun f : Frame => s.refs.contains f.id)).symm

/-! ### Sweeps (R390) -/

/-- With no line in the directory a sweep is over at once. -/
theorem State.sweep_nothing {s : State} (hdir : s.dir = []) (hsweeps : s.sweeps = []) (base len : Nat) (who : Org) :
    (s.startSweep base len who).reapSweeps = s := by
  have hclean {sweeps : List Sweep} (h : sweeps = s.sweeps) : ({ s with sweeps := sweeps } : State) = s := by rw [h]
  by_cases hsets : s.dirSets = 0
  · rw [State.startSweep, if_pos hsets]
    exact hclean (by simp [hsweeps, del])
  · have hstart : s.startSweep base len who = { s with sweeps := s.sweeps ++ [{ base := base, len := len, awaiting := [], who := who }] } := by
      rw [State.startSweep, if_neg hsets, hdir]
      rfl
    rw [hstart]
    exact hclean (by simp [hsweeps, del, State.sweepDone, hdir])

end Sys2Proof.Machine

/-! Versions of a region (R55 to R60, R190): the version operations of a slice on a region of this ZV9. -/

namespace Sys2Proof.Machine

section Versions
variable {s : State} {slice ring idx : Nat} {d : Desc} {r : Region} {v : Version} (halive : s.alive = true)
  (hnode : d.at 16 2 = s.me) (hhome : checks (homeForm d.raw ++ s.homeEpoch d) = .ok ()) (hregion : s.region (bits (d.at 20 4) 0 20) = some r)
  (hchecks : checks (s.regionChecks d (bits (d.at 20 4) 0 20)) = .ok ())
include halive hnode hhome hregion hchecks

/-! ### What each command does to the region -/

/-- `CUT` waits for the writes that reached the region's bank before it (R56), and retains the working version (R55). -/
theorem exec_cut_begun (hruns : s.Runs ⟨slice, ring, idx⟩ 0x30 d) (hmode : d.at 24 1 = 0) (hfew : r.retained.length < 16)
    (hnext : r.lastCut < 2 ^ 32 - 1) (hlost : r.writeLost = false) :
    exec (.cut slice ring idx) s = .next (if s.writeQueued r.base (r.size * 65536) then s else
      ((s.bankEngine ⟨slice, ring, idx⟩ r.base).setRegion
        { r with lastCut := r.lastCut + 1, stamp := s.now, retained := r.retained ++ [{ num := r.lastCut + 1, map := r.working }] }).okHome
          d (r.lastCut + 1) 1) := by
  have hroom : r.lastCut < two32 - 1 := hnext
  exact congrArg Host.Outcome.next
    (State.homeRegion_begun halive hruns rfl hnode (by simp [hmode]) hhome hregion hchecks (by simp [checks, hfew, hroom, hlost]))

theorem exec_cut_refused (hruns : s.Runs ⟨slice, ring, idx⟩ 0x30 d) (hmode : d.at 24 1 = 0) {f : Fail}
    (hfail : checks [(decide (r.retained.length < 16) && decide (r.lastCut < two32 - 1), ⟨eQuota, 0, 0⟩), (!r.writeLost, ⟨eIntegrity, 0, 0⟩)] =
      .error (.err f)) :
    exec (.cut slice ring idx) s = .next ((s.bankEngine ⟨slice, ring, idx⟩ r.base).endHome d f 0 false) :=
  congrArg Host.Outcome.next (State.homeRegion_refused halive hruns rfl hnode (by simp [hmode]) hhome hregion hchecks hfail)

/-- `ROLLBACK` of a region with no line in the directory (R57, R190, R390). -/
theorem exec_rollback_begun (hruns : s.Runs ⟨slice, ring, idx⟩ 0x30 d) (hmode : d.at 24 1 = 1) (hversion : r.version (d.at 28 4) = some v)
    (hdir : s.dir = []) (hsweeps : s.sweeps = []) :
    let u := (((s.bankEngine ⟨slice, ring, idx⟩ r.base).setRegion { r with working := v.map, writeLost := false }).gc).1
    exec (.rollback slice ring idx) s = .next (({ u with descs := u.descs.map (fun x => x.tornBy r.num) } : State).okHome d v.num 1) := by
  intro u
  have hu := State.gc_only ((s.bankEngine ⟨slice, ring, idx⟩ r.base).setRegion { r with working := v.map, writeLost := false })
  have hudir : u.dir = [] := (congrArg State.dir hu).trans hdir
  have husweeps : u.sweeps = [] := (congrArg State.sweeps hu).trans hsweeps
  refine congrArg Host.Outcome.next
    ((State.homeRegion_begun halive hruns rfl hnode (by simp [hmode]) hhome hregion hchecks (by simp [checks, hversion])).trans ?_)
  rw [hversion]
  dsimp only
  rw [State.sweep_nothing (by exact hudir) (by exact husweeps)]

/-- `RELEASE` of a version that is not published (R58). -/
theorem exec_release_begun (hruns : s.Runs ⟨slice, ring, idx⟩ 0x30 d) (hmode : d.at 24 1 = 2) (hversion : r.version (d.at 28 4) = some v)
    (hunpublished : r.published ≠ d.at 28 4) :
    let w := ((s.bankEngine ⟨slice, ring, idx⟩ r.base).setRegion { r with retained := r.retained.filter (fun x => x.num != d.at 28 4) }).gc
    exec (.release slice ring idx) s = .next (w.1.okHome d w.2 1) := by
  intro w
  exact congrArg Host.Outcome.next
    (State.homeRegion_begun halive hruns rfl hnode (by simp [hmode]) hhome hregion hchecks (by simp [checks, hversion, hunpublished]))

theorem exec_release_published (hruns : s.Runs ⟨slice, ring, idx⟩ 0x30 d) (hmode : d.at 24 1 = 2) (hversion : r.version (d.at 28 4) = some v)
    (hpublished : r.published = d.at 28 4) :
    exec (.release slice ring idx) s = .next ((s.bankEngine ⟨slice, ring, idx⟩ r.base).endHome d (f3 ePerm 28) 0 false) := by
  exact congrArg Host.Outcome.next
    (State.homeRegion_refused halive hruns rfl hnode (by simp [hmode]) hhome hregion hchecks (by simp [checks, hversion, hpublished]))

/-- `REGION_PUBLISH` of a later version over the expected one (R60). -/
theorem exec_regionPublish_begun (hruns : s.Runs ⟨slice, ring, idx⟩ 0x31 d) (hversion : r.version (d.at 28 4) = some v)
    (hexpected : r.published = d.at 24 4) (hlater : d.at 24 4 < d.at 28 4) :
    exec (.regionPublish slice ring idx) s =
      .next (((s.bankEngine ⟨slice, ring, idx⟩ r.base).setRegion { r with published := d.at 28 4 }).endHome d ⟨stOk, 0, 0⟩ 1 true) := by
  exact congrArg Host.Outcome.next
    (State.homeRegion_begun halive hruns rfl hnode rfl hhome hregion hchecks (by simp [checks, hversion, hexpected, hlater]))

theorem exec_regionPublish_refused (hruns : s.Runs ⟨slice, ring, idx⟩ 0x31 d) (hversion : r.version (d.at 28 4) = some v)
    (hlate : r.published ≠ d.at 24 4 ∨ d.at 28 4 ≤ d.at 24 4) :
    exec (.regionPublish slice ring idx) s =
      .next ((s.bankEngine ⟨slice, ring, idx⟩ r.base).endHome d ⟨eVersion, 5, r.published⟩ 0 false) := by
  refine congrArg Host.Outcome.next (State.homeRegion_refused (f := ⟨eVersion, 5, r.published⟩) halive hruns rfl hnode rfl hhome hregion hchecks ?_)
  by_cases hexpected : r.published = d.at 24 4
  · have hle : d.at 28 4 ≤ d.at 24 4 := hlate.resolve_left (by simp [hexpected])
    simp [checks, hversion, hexpected, hle]
  · simp [checks, hversion, hexpected]

end Versions

/-! ### What a `ROLLBACK` tears (R190) -/

theorem Desc.tornBy_key (x : Desc) (region : Nat) : (x.tornBy region).key = x.key := by
  unfold Desc.tornBy
  extract_lets
  split <;> rfl

theorem Desc.tornBy_of_op {x : Desc} (h : ¬(0x10 ≤ x.op ∧ x.op ≤ 0x13)) (region : Nat) : x.tornBy region = x := by
  simp [Desc.tornBy, h]

theorem State.desc_tornBy {s t : State} {region : Nat} (h : t.descs = s.descs.map (fun x => x.tornBy region)) (i : DKey) :
    t.desc i = (s.desc i).map (fun x => x.tornBy region) := by
  have hkey : (fun x : Desc => x.key == i) ∘ (fun x : Desc => x.tornBy region) = fun x => x.key == i := funext fun x => by
    rw [Function.comp_apply, Desc.tornBy_key]
  rw [State.desc, h, List.find?_map, hkey, State.desc]

/-- A `ROLLBACK` takes its outcome; the descriptors beside it are torn where they name the region. -/
theorem State.endHome_torn {s u : State} {k : DKey} {d : Desc} (hd : s.desc k = some d) (horigin : d.origin = none) (hop : d.op = 0x30)
    (base region : Nat) (f : Fail) (hu : u.descs = (s.bankEngine k base).descs.map (fun x => x.tornBy region)) (progress : Nat) :
    u.endHome d f progress true = { u with descs := (u.endHome d f progress true).descs } ∧
      (u.endHome d f progress true).desc k = some ({ d with engine := 0x80 + bank base, started := true }.endedWith f.status f.kind f.detail progress) ∧
      ∀ i, i ≠ k → (u.endHome d f progress true).desc i = (s.desc i).map (fun x => x.tornBy region) := by
  obtain rfl := State.desc_key hd
  have hop' : ({ d with engine := 0x80 + bank base } : Desc).op = 0x30 := hop
  have hown : u.desc d.key = some { d with engine := 0x80 + bank base } := by
    rw [State.desc_tornBy hu, State.bankEngine_desc hd, Option.map_some, Desc.tornBy_of_op (by rw [hop']; decide)]
  obtain ⟨honly, hother, hend⟩ := State.endHome_onlyEnds hown (Desc.endsAlone_of_op horigin (by rw [hop']; decide) (by rw [hop']; decide)) f progress true
  exact ⟨honly, hend, fun i hi => (hother i hi).trans ((State.desc_tornBy hu i).trans (congrArg _ (State.bankEngine_other s d.key base i hi)))⟩

/-! ### The statement -/

/-- Settles O37: each operation is one change of the region, between the naming of its engine and its end. -/
theorem versionOperations : Obligations.VersionOperations := by
  unfold Obligations.VersionOperations
  intro s slice ring idx d r v halive horigin hnode hhome hregion hchecks k a here refused
  obtain ⟨hnum, hlive⟩ := State.region_num hregion
  have hregion' : (s.bankEngine k r.base).region r.num = some r := hnum ▸ hregion
  have hsame {q : Region} {t : State} (hq : q.num = r.num) (hqlive : q.deleting = false)
      (ht : t.regions = ((s.bankEngine k r.base).setRegion q).regions) : t.region r.num = some q :=
    (State.region_congr ht _).trans (State.region_setRegion_same hregion' hq hqlive)
  have hothers {q : Region} {t : State} (ht : t.regions = ((s.bankEngine k r.base).setRegion q).regions) (hq : q.num = r.num) (n : Nat)
      (hn : n ≠ r.num) : t.region n = s.region n :=
    (State.region_congr ht n).trans (State.region_setRegion_ne _ q (hq ▸ hn))
  refine ⟨fun hruns hmode => ?_, fun hruns hmode hversion hdir hsweeps => ?_, fun hruns hmode hversion => ?_, fun hruns hversion => ?_⟩
  · obtain ⟨hd, -, hop, -⟩ := id hruns
    have hstarted := State.endHome_started hd (Desc.endsAlone_of_op horigin (by simp [hop]) (by simp [hop])) r.base
    have hrefused := State.endHome_refused hd (Desc.endsAlone_of_op horigin (by simp [hop]) (by simp [hop])) r.base
    have hcut := exec_cut_begun halive hnode hhome hregion hchecks hruns hmode
    refine ⟨fun hfew hnext hlost hqueued => ?_, fun hfew hnext hlost hqueued => ?_, fun hfull => ?_, fun hfew hnext hlost => ?_⟩
    · rw [hcut hfew hnext hlost, if_pos hqueued]
    · rw [hcut hfew hnext hlost, if_neg (by simp [hqueued])]
      obtain ⟨honly, hend, hother⟩ := hstarted ⟨stOk, 1, r.lastCut + 1⟩ (u := (s.bankEngine k r.base).setRegion
        { r with lastCut := r.lastCut + 1, stamp := s.now, retained := r.retained ++ [{ num := r.lastCut + 1, map := r.working }] }) rfl 1
      exact ⟨_, rfl, hsame rfl hlive (congrArg State.regions honly :), hothers (congrArg State.regions honly :) rfl, hend, hother,
        (congrArg State.mem honly :), (congrArg State.frames honly :),
        (congrArg State.regs honly :)⟩
    · obtain ⟨honly, hend⟩ := hrefused ⟨eQuota, 0, 0⟩
      exact ⟨_, exec_cut_refused halive hnode hhome hregion hchecks hruns hmode (by simp [checks, hfull]), hend, honly⟩
    · obtain ⟨honly, hend⟩ := hrefused ⟨eIntegrity, 0, 0⟩
      have hroom : r.lastCut < two32 - 1 := hnext
      exact ⟨_, exec_cut_refused halive hnode hhome hregion hchecks hruns hmode (by simp [checks, hfew, hroom, hlost]), hend, honly⟩
  · obtain ⟨hd, -, hop, -⟩ := id hruns
    have hrun := exec_rollback_begun halive hnode hhome hregion hchecks hruns hmode hversion hdir hsweeps
    extract_lets u at hrun
    have hgc := State.gc_only ((s.bankEngine k r.base).setRegion { r with working := v.map, writeLost := false })
    obtain ⟨honly, hend, hother⟩ := State.endHome_torn hd horigin hop r.base r.num ⟨stOk, 1, v.num⟩
      (u := { u with descs := u.descs.map (fun x => x.tornBy r.num) }) (congrArg (fun x => x.descs.map (fun x => x.tornBy r.num)) hgc :) 1
    have hregions := (congrArg State.regions honly :).trans (congrArg State.regions hgc :)
    exact ⟨_, hrun, hsame rfl hlive hregions, hothers hregions rfl, hend, hother, (congrArg State.mem honly :).trans (congrArg State.mem hgc :)⟩
  · obtain ⟨hd, -, hop, -⟩ := id hruns
    refine ⟨fun hunpublished => ?_, fun hpublished => ?_⟩
    · have hw := exec_release_begun halive hnode hhome hregion hchecks hruns hmode hversion hunpublished
      extract_lets w at hw
      have hgc := State.gc_only ((s.bankEngine k r.base).setRegion { r with retained := r.retained.filter (fun x => x.num != a) })
      obtain ⟨honly, hend, hother⟩ := State.endHome_started hd (Desc.endsAlone_of_op horigin (by simp [hop]) (by simp [hop])) r.base
        ⟨stOk, 1, w.2⟩ (u := w.1) (congrArg State.descs hgc :) 1
      exact ⟨_, w.2, hw, hsame rfl hlive ((congrArg State.regions honly :).trans (congrArg State.regions hgc :)),
        (congrArg (fun x => x.frames.length + w.2) honly).trans (State.gc_count _), hend, hother,
        (congrArg State.mem honly :).trans (congrArg State.mem hgc :)⟩
    · obtain ⟨honly, hend⟩ := State.endHome_refused hd (Desc.endsAlone_of_op horigin (by simp [hop]) (by simp [hop])) r.base (f3 ePerm 28)
      exact ⟨_, exec_release_published halive hnode hhome hregion hchecks hruns hmode hversion hpublished, hend, honly⟩
  · obtain ⟨hd, -, hop, -⟩ := id hruns
    refine ⟨fun hexpected hlater => ?_, fun hlate => ?_⟩
    · obtain ⟨honly, hend, hother⟩ := State.endHome_started hd (Desc.endsAlone_of_op horigin (by simp [hop]) (by simp [hop])) r.base ⟨stOk, 0, 0⟩
        (u := (s.bankEngine k r.base).setRegion { r with published := a }) rfl 1
      exact ⟨_, exec_regionPublish_begun halive hnode hhome hregion hchecks hruns hversion hexpected hlater,
        hsame rfl hlive (congrArg State.regions honly :), hend, hother, (congrArg State.mem honly :), (congrArg State.frames honly :),
        (congrArg State.regs honly :)⟩
    · obtain ⟨honly, hend⟩ := State.endHome_refused hd (Desc.endsAlone_of_op horigin (by simp [hop]) (by simp [hop])) r.base
        ⟨eVersion, 5, r.published⟩
      exact ⟨_, exec_regionPublish_refused halive hnode hhome hregion hchecks hruns hversion hlate, hend, honly⟩

end Sys2Proof.Machine

/-! Placement of regions (R284, R291 to R293, R557) and the failure of a home operation at its home (R60, R248, R641). -/

namespace Sys2Proof.Machine

/-! ### Checks -/

theorem checks_append {l : List (Bool × Fail)} (h : checks l = .ok ()) (m : List (Bool × Fail)) : checks (l ++ m) = checks m := by
  induction l with
  | nil => rfl
  | cons c l ih =>
    obtain ⟨ok, f⟩ := c
    cases ok with
    | false => exact absurd h (by simp [checks])
    | true => exact ih h

theorem checks_ok {l : List (Bool × Fail)} (h : ∀ c ∈ l, c.1 = true) : checks l = .ok () := by
  induction l with
  | nil => rfl
  | cons c l ih =>
    obtain ⟨hc, hl⟩ := List.forall_mem_cons.mp h
    rw [checks, if_pos hc, ih hl]

theorem Desc.endsAlone_of_moving {d : Desc} (horigin : d.origin = none) (happend : d.op ≠ 0x10) (hmoving : d.moving = []) : d.EndsAlone :=
  ⟨horigin, happend, by simp [Desc.leavesFrames, hmoving]⟩

/-! ### Live regions (R47, R293) -/

theorem State.countLive_live {s t : State} (hregs : t.regs = s.countLive.regs) (hregions : t.regions = s.regions) :
    t.fld f_AS_RGN_STATUS_LIVE = (t.regions.filter (fun x => !x.deleting)).length % 2 ^ f_AS_RGN_STATUS_LIVE.width := by
  rw [hregions, ← State.fld_setFld s f_AS_RGN_STATUS_LIVE _ (by decide), State.fld, State.fld, State.fldAt, State.fldAt, State.word_of_regs hregs]
  rfl

/-- Regions that are freed were not live. -/
theorem State.region_reapRegions (s : State) (n : Nat) : s.reapRegions.region n = s.region n := by
  rw [State.region, State.reapRegions, del, List.find?_filter, State.region]
  congr 1
  funext x
  cases x.deleting with
  | true => simp
  | false => simp [beq_eq_decide]

/-- A region that is being deleted is not live. -/
theorem State.region_setRegion_deleting (s : State) {q : Region} (h : q.deleting = true) : (s.setRegion q).region q.num = none := by
  refine List.find?_eq_none.mpr fun x hx => ?_
  obtain ⟨y, -, rfl⟩ := List.mem_map.mp hx
  by_cases hy : y.num = q.num <;> simp [hy, h]

/-! ### `CREATE` (R292, R293) -/

/-- The region that a `CREATE` adds: empty, of version 0. -/
def Desc.newRegion (d : Desc) (now : Nat) : Region := {
  num := bits (d.at 20 4) 0 20, deleting := false, owner := d.at 44 1, writeLost := false, size := d.at 32 4, base := d.at 24 8, published := 0,
  lastCut := 0, stamp := now, working := [], retained := [{ num := 0, map := [] }], target := (d.at 19 1, d.at 46 1), targets := [] }

/-- The checks of a `CREATE` after its form and epoch (R292). -/
structure State.mayCreate (s : State) (slice : Nat) (d : Desc) : Prop where
  unrevoked : s.revoked = []
  permitted : s.permitted s.me slice (d.at 44 1) = true
  table : s.fld f_AS_RGN_SIZE_LOG2_ENTRIES ≠ 0
  numbered : bits (d.at 20 4) 0 20 < 2 ^ s.fld f_AS_RGN_SIZE_LOG2_ENTRIES
  fresh : ∀ x ∈ s.regions, x.num ≠ bits (d.at 20 4) 0 20
  configured : s.configured (d.at 44 1) = true
  aligned : d.at 24 8 % 65536 = 0
  sized : 1 ≤ d.at 32 4
  placed : s.regionRange (d.at 24 8) (d.at 32 4 * 65536) = true
  apart : ∀ x ∈ s.regions, x.deleting = false → d.at 24 8 + d.at 32 4 * 65536 ≤ x.base ∨ x.base + x.size * 65536 ≤ d.at 24 8
  tier : d.at 19 1 ≠ 3

theorem exec_placeCreate_made {s : State} {slice ring idx : Nat} {d : Desc} (halive : s.alive = true) (horigin : d.origin = none)
    (hnode : d.at 16 2 = s.me) (hhome : checks (homeForm d.raw ++ s.homeEpoch d) = .ok ()) (hruns : s.Runs ⟨slice, ring, idx⟩ 0x38 d)
    (hmode : d.at 18 1 = 0) (hmay : s.mayCreate slice d) :
    let u := s.bankEngine ⟨slice, ring, idx⟩ (d.at 24 8)
    exec (.placeCreate slice ring idx) s =
      .next (({ u with regions := u.regions ++ [d.newRegion s.now] } : State).countLive.endHome d ⟨stOk, 0, 0⟩ 0 true) := by
  intro u
  obtain ⟨hd, -⟩ := id hruns
  have hissuer : s.issuer d = (s.me, slice) := by rw [State.issuer, horigin, State.desc_key hd]
  have hunrevoked : s.revokedFor s.me slice (d.at 24 8) (d.at 32 4 * tileBytes) = false := by simp [State.revokedFor, hmay.unrevoked]
  have hfresh : s.regions.any (fun r => r.num == bits (d.at 20 4) 0 20) = false := List.any_eq_false.mpr fun x hx => by simpa using hmay.fresh x hx
  have hapart : s.regions.any (fun r => !r.deleting && overlap (d.at 24 8) (d.at 32 4 * tileBytes) r.base (r.size * tileBytes)) = false :=
    List.any_eq_false.mpr fun x hx => by
      cases hdel : x.deleting with
      | true => simp
      | false =>
        have := hmay.apart x hx hdel
        rw [Bool.not_false, Bool.true_and, overlap, decide_eq_true_iff, tileBytes]
        omega
  have hplaced : s.regionRange (d.at 24 8) (d.at 32 4 * tileBytes) = true := hmay.placed
  have haligned : d.at 24 8 % tileBytes = 0 := hmay.aligned
  refine congrArg Host.Outcome.next ((State.whenAlive_alive halive _).trans
    ((State.homeRun_begun hruns hnode (by simp [hmode]) _ (.inr hhome)).trans ?_))
  dsimp only
  rw [hissuer]
  dsimp only
  rw [checks_ok, State.desc_key hd]
  · rfl
  · simp [hunrevoked, hmay.permitted, hmay.table, hmay.numbered, hfresh, hmay.configured, haligned, hmay.sized, hplaced, hapart, hmay.tier]

/-! ### `DELETE` (R293) -/

/-- The pins of a region's working version keep the map that they pinned. -/
def Desc.keepsMap (x : Desc) (r : Region) : Desc :=
  { x with pins := x.pins.map (fun p => if p.region = r.num ∧ p.version = none then { p with map := r.working } else p) }

/-- A region under deletion: it holds no frames any more. -/
def Region.deleted (r : Region) : Region := { r with deleting := true, working := [], retained := [], targets := [] }

/-- The frames that a deleted region alone names are freed. -/
def State.deleteRegion (s : State) (r : Region) : State × Nat :=
  (({ s with descs := s.descs.map (fun x => x.keepsMap r) } : State).setRegion r.deleted).gc

theorem State.deleteRegion_only (s : State) (r : Region) :
    (s.deleteRegion r).1 = { s with
      descs := s.descs.map (fun x => x.keepsMap r), regions := (s.setRegion r.deleted).regions, regs := (s.deleteRegion r).1.regs
      frames := (s.deleteRegion r).1.frames, zeroed := (s.deleteRegion r).1.zeroed } :=
  State.gc_only _

theorem State.desc_keepsMap {s t : State} {r : Region} (h : t.descs = s.descs.map (fun x => x.keepsMap r)) (i : DKey) :
    t.desc i = (s.desc i).map (fun x => x.keepsMap r) := by
  have hkey : (fun x : Desc => x.key == i) ∘ (fun x : Desc => x.keepsMap r) = fun x => x.key == i := rfl
  rw [State.desc, h, List.find?_map, hkey, State.desc]

/-- The number is free again, and every other region stands. -/
theorem State.region_deleteRegion (s : State) (r : Region) (n : Nat) : (s.deleteRegion r).1.region n = if n = r.num then none else s.region n := by
  rw [State.region_congr (t := (s.deleteRegion r).1) (s := s.setRegion r.deleted) (congrArg State.regions (State.deleteRegion_only s r) :)]
  split
  · next h => exact h ▸ State.region_setRegion_deleting s rfl
  · next h => exact State.region_setRegion_ne s r.deleted h

theorem exec_placeDelete_made {s : State} {slice ring idx : Nat} {d : Desc} {r : Region} (halive : s.alive = true) (hnode : d.at 16 2 = s.me)
    (hhome : checks (homeForm d.raw ++ s.homeEpoch d) = .ok ()) (hregion : s.region (bits (d.at 20 4) 0 20) = some r)
    (hchecks : checks (s.regionChecks d (bits (d.at 20 4) 0 20)) = .ok ()) (hruns : s.Runs ⟨slice, ring, idx⟩ 0x38 d) (hmode : d.at 18 1 = 1)
    (hdir : s.dir = []) (hsweeps : s.sweeps = []) :
    let w := (s.bankEngine ⟨slice, ring, idx⟩ r.base).deleteRegion r
    exec (.placeDelete slice ring idx) s = .next (w.1.reapRegions.countLive.okHome d w.2 0) := by
  intro w
  have hw := State.deleteRegion_only (s.bankEngine ⟨slice, ring, idx⟩ r.base) r
  have hwdir : w.1.dir = [] := (congrArg State.dir hw).trans hdir
  have hwsweeps : w.1.sweeps = [] := (congrArg State.sweeps hw).trans hsweeps
  refine congrArg Host.Outcome.next ((State.homeRegion_begun halive hruns rfl hnode (by simp [hmode]) hhome hregion hchecks rfl).trans ?_)
  dsimp only
  rw [State.sweep_nothing (by exact hwdir) (by exact hwsweeps)]
  rfl

/-- A deleted region's descriptor ends as started. -/
theorem State.endHome_deleted {s u : State} {k : DKey} {d : Desc} {r : Region} (hd : s.desc k = some d) (horigin : d.origin = none) (hop : d.op = 0x38)
    (hmode : d.at 18 1 = 1) (f : Fail) (hu : u.descs = (s.bankEngine k r.base).descs.map (fun x => x.keepsMap r)) (progress : Nat) :
    u.endHome d f progress true = { u with descs := (u.endHome d f progress true).descs } ∧
      ∃ e, (u.endHome d f progress true).desc k = some e ∧ e.phase = .ended ∧ e.status = f.status ∧ e.started = true := by
  obtain rfl := State.desc_key hd
  have hown : u.desc d.key = some (({ d with engine := 0x80 + bank r.base } : Desc).keepsMap r) := by
    rw [State.desc_keepsMap hu, State.bankEngine_desc hd, Option.map_some]
  have hop' : (({ d with engine := 0x80 + bank r.base } : Desc).keepsMap r).op = 0x38 := hop
  have hmode' : (({ d with engine := 0x80 + bank r.base } : Desc).keepsMap r).at 18 1 = 1 := hmode
  obtain ⟨honly, -, hend⟩ := State.endHome_onlyEnds hown ⟨horigin, by rw [hop']; decide, by simp [Desc.leavesFrames, hmode']⟩ f progress true
  exact ⟨honly, _, hend, rfl, rfl, rfl⟩

/-! ### `MOVE_TIER` of tiles without frames (R293, R294) -/

theorem look_absent {α : Type} {x : α} {m : List (Nat × α)} {k : Nat} (h : ∀ e ∈ m, ¬e.1 = k) : look x m k = x := by
  have hnone : m.find? (fun e => e.1 == k) = none := List.find?_eq_none.mpr fun e he => by simpa using h e he
  rw [look, hnone]

/-- The target of one tile is set. -/
def Region.setTarget (r : Region) (tile : Nat) (x : Nat × Nat) : Region :=
  { r with targets := r.targets.filter (fun e => decide (e.1 < tile)) ++ (tile, x) :: r.targets.filter (fun e => decide (tile < e.1)) }

theorem Region.look_setTarget (r : Region) (tile : Nat) (x : Nat × Nat) (j : Nat) :
    look r.target (r.setTarget tile x).targets j = if j = tile then x else look r.target r.targets j := by
  have habove (h : ¬tile < j) : look r.target (r.targets.filter (fun e => decide (tile < e.1))) j = r.target :=
    look_filter_out _ _ _ _ fun _ => by simpa using h
  have hbelow (h : ¬j < tile) : (r.targets.filter (fun e => decide (e.1 < tile))).any (fun e => e.1 == j) = false :=
    List.any_eq_false.mpr fun e he hj => h (by
      have hlow := (List.mem_filter.mp he).2
      simp at hlow hj
      omega)
  rw [Region.setTarget, look_append, look_cons]
  rcases Nat.lt_trichotomy j tile with hlt | heq | hgt
  · have hkept : look r.target (r.targets.filter (fun e => decide (e.1 < tile))) j = look r.target r.targets j :=
      look_filter _ _ _ _ fun _ => by simpa using hlt
    rw [if_neg (by omega : ¬tile = j), if_neg (by omega : ¬j = tile), habove (by omega), hkept]
    split
    · rfl
    · next hnone => rw [← hkept, look_absent fun e he hj => hnone (List.any_eq_true.mpr ⟨e, he, by simp [hj]⟩)]
  · rw [hbelow (by omega), if_neg (by simp), if_pos heq.symm, if_pos heq]
  · rw [hbelow (by omega), if_neg (by simp), if_neg (by omega : ¬tile = j), if_neg (by omega : ¬j = tile)]
    exact look_filter _ _ _ _ fun _ => by simpa using hgt

/-- A tile without frames has nothing to move. -/
theorem State.moveTile_done {s : State} {k : DKey} {d : Desc} {r : Region} {tile : Nat} {all : Bool} (hd : s.desc k = some d)
    (hmoving : d.moving = []) (hframes : r.tileFrames tile all = []) (tier port n : Nat) : s.moveTile k r tile all tier port n = .done s := by
  simp [State.moveTile, State.toMove, hframes, hd, hmoving]

/-- What a `MOVE_TIER` of tiles without frames leaves once `i` tiles have their target. -/
structure State.Retargeted (s t : State) (k : DKey) (d : Desc) (r : Region) (first : Nat) (x : Nat × Nat) (i : Nat) : Prop where
  only : t = { s with descs := t.descs, regions := t.regions }
  desc : t.desc k = some { d with progress := i }
  region : ∃ q, t.region r.num = some q ∧ q.working = r.working ∧ q.retained = r.retained ∧
    ∀ j, look q.target q.targets j = if first ≤ j ∧ j < first + i then x else look r.target r.targets j

section MoveTiles
variable {s t : State} {k : DKey} {d : Desc} {r : Region} {first tier port i : Nat}

/-- One more tile has its target. -/
theorem State.Retargeted.next (h : s.Retargeted t k d r first (tier, port) i) :
    s.Retargeted (({ t with
      regions := upd t.regions (fun x => x.num == r.num) (fun x => x.setTarget (first + i) (tier, port)) } : State).setProgress k (i + 1))
      k d r first (tier, port) (i + 1) := by
  obtain ⟨q, hq, hworking, hretained, hlook⟩ := h.region
  refine ⟨?_, ?_, q.setTarget (first + i) (tier, port), ?_, hworking, hretained, fun j => ?_⟩
  · rw [h.only]
    rfl
  · exact State.desc_upd_same (s := t) (d := { d with progress := i }) (g := fun x => { x with progress := i + 1 }) rfl (fun _ => rfl) h.desc
  · have hsearch := find?_upd t.regions (fun x => x.num == r.num && !x.deleting) (fun x => x.num == r.num) (fun x => x.setTarget (first + i) (tier, port))
      fun x => by split <;> rfl
    refine hsearch.trans ?_
    rw [show t.regions.find? _ = some q from hq, Option.map_some, (State.region_num hq).1, beq_self_eq_true, if_pos rfl]
  · rw [show (q.setTarget (first + i) (tier, port)).target = q.target from rfl, Region.look_setTarget, hlook]
    by_cases hj : j = first + i
    · rw [if_pos hj, if_pos (by omega)]
    · have hrange : (first ≤ j ∧ j < first + (i + 1)) ↔ (first ≤ j ∧ j < first + i) := by omega
      simp only [if_neg hj, hrange]

/-- Tile by tile, each named tile takes its target, and the operation ends with all of them done. -/
theorem State.Retargeted.moveTiles {all : Bool} {tags : List Nat} (halone : d.EndsAlone) (hmoving : d.moving = [])
    (hframes : ∀ i < d.at 40 4, r.tileFrames (first + i) all = []) (fuel : Nat) (h : s.Retargeted t k d r first (tier, port) i)
    (hi : i ≤ d.at 40 4) (hfuel : d.at 40 4 < i + fuel) :
    let u := t.moveTiles k r.num first all tier port tags fuel
    ∃ v, s.Retargeted v k d r first (tier, port) (d.at 40 4) ∧ u = { v with descs := u.descs } ∧
      u.desc k = some (({ d with progress := d.at 40 4 } : Desc).begun true |>.endedWith stOk 0 0 (d.at 40 4)) := by
  induction fuel generalizing t i with
  | zero => omega
  | succ fuel ih =>
    obtain ⟨q, hq, hworking, hretained, hlook⟩ := h.region
    intro u
    by_cases hdone : i = d.at 40 4
    · subst hdone
      have hstep : u = t.endHome { d with progress := d.at 40 4 } ⟨stOk, 0, 0⟩ (d.at 40 4) true := by
        rw [show u = t.moveTiles k r.num first all tier port tags (fuel + 1) from rfl, State.moveTiles, h.desc, hq]
        exact if_pos (le_refl (d.at 40 4))
      obtain ⟨honly, -, hend⟩ := State.endHome_self (d := { d with progress := d.at 40 4 }) h.desc halone ⟨stOk, 0, 0⟩ (d.at 40 4) true
      rw [hstep]
      exact ⟨t, h, honly, hend⟩
    · have hlt : i < d.at 40 4 := by omega
      have htile : q.tileFrames (first + i) all = [] := by
        rw [Region.tileFrames, hworking, hretained]
        exact hframes i hlt
      have hstep : u = (({ t with
          regions := upd t.regions (fun x => x.num == r.num) (fun x => x.setTarget (first + i) (tier, port)) } : State).setProgress k (i + 1)).moveTiles
            k r.num first all tier port tags fuel := by
        rw [show u = t.moveTiles k r.num first all tier port tags (fuel + 1) from rfl, State.moveTiles, h.desc, hq]
        refine (if_neg (by exact Nat.not_le.mpr hlt)).trans ?_
        dsimp only
        rw [State.moveTile_done h.desc hmoving htile]
        rfl
      rw [hstep]
      exact ih h.next (by omega) (by omega)

end MoveTiles

theorem exec_moveTier_waits {s : State} {slice ring idx : Nat} {d : Desc} {tags : List Nat} (halive : s.alive = true)
    (hnode : d.at 16 2 = s.me) (hhome : checks (homeForm d.raw ++ s.homeEpoch d) = .ok ()) (hruns : s.Runs ⟨slice, ring, idx⟩ 0x38 d)
    (hmode : d.at 18 1 = 2) (htier : d.at 19 1 = 2) (hwait : s.mediaWait ≠ []) : exec (.moveTier slice ring idx tags) s = .next s := by
  refine congrArg Host.Outcome.next ((State.whenAlive_alive halive _).trans
    ((State.homeRun_begun hruns hnode (by simp [hmode]) _ (.inr hhome)).trans ?_))
  exact if_pos (by simp [htier, hwait])

/-- A home operation that has begun (R60): it is started, at the engine of its region's home bank, with its first step done. -/
def Desc.atWork (d : Desc) (base : Nat) : Desc := { d with engine := 0x80 + bank base, work := 1, started := true }

/-- The state in which an operation goes from tile to tile. -/
def State.atWork (s : State) (k : DKey) (base : Nat) : State :=
  { s with descs := upd (s.bankEngine k base).descs (fun x => x.key == k) (fun x => { x with work := 1, started := true }) }

theorem State.desc_atWork {s : State} {k : DKey} {d : Desc} (h : s.desc k = some d) (base : Nat) : (s.atWork k base).desc k = some (d.atWork base) :=
  State.desc_upd_same (s := s.bankEngine k base) (g := fun x => { x with work := 1, started := true }) rfl (fun _ => rfl) (State.bankEngine_desc h base)

theorem exec_moveTier_begun {s : State} {slice ring idx : Nat} {d : Desc} {r : Region} {tags : List Nat} (halive : s.alive = true)
    (hnode : d.at 16 2 = s.me) (hhome : checks (homeForm d.raw ++ s.homeEpoch d) = .ok ()) (hregion : s.region (bits (d.at 20 4) 0 20) = some r)
    (hchecks : checks (s.regionChecks d (bits (d.at 20 4) 0 20)) = .ok ()) (hruns : s.Runs ⟨slice, ring, idx⟩ 0x38 d) (hmode : d.at 18 1 = 2)
    (hwork : d.work = 0) (hmedia : d.at 19 1 = 2 → s.mediaWait = []) (hcount : 1 ≤ d.at 40 4) (hrange : d.at 36 4 + d.at 40 4 ≤ r.size)
    (hport : d.at 19 1 = 3 → s.thPortOk (d.at 46 1) r.owner = true) (hroom : s.mayAlloc r.owner (d.at 19 1) (d.at 46 1) 0 = true)
    (hframes : ∀ i < d.at 40 4, r.tileFrames (d.at 36 4 + i) (bit (d.at 45 1) 0) = []) :
    exec (.moveTier slice ring idx tags) s = .next ((s.atWork ⟨slice, ring, idx⟩ r.base).moveTiles ⟨slice, ring, idx⟩ r.num (d.at 36 4)
      (bit (d.at 45 1) 0) (d.at 19 1) (d.at 46 1) tags (d.at 40 4 * (2 * r.retained.length + 5) + 2)) := by
  obtain ⟨hd, -⟩ := id hruns
  have hnone : (List.range (d.at 40 4)).flatMap (fun i => r.tileFrames (d.at 36 4 + i) (bit (d.at 45 1) 0)) = [] :=
    List.flatMap_eq_nil_iff.mpr fun i hi => hframes i (List.mem_range.mp hi)
  refine congrArg Host.Outcome.next ((State.whenAlive_alive halive _).trans
    ((State.homeRun_begun hruns hnode (by simp [hmode]) _ (.inr hhome)).trans ?_))
  refine (if_neg (by simpa using hmedia)).trans ((if_neg (by simp [hwork])).trans ((State.onRegion_runs hregion hchecks ?_).trans ?_))
  · have hportok : (d.at 19 1 != 3 || s.thPortOk (d.at 46 1) r.owner) = true := by
      by_cases hth : d.at 19 1 = 3
      · simp [hport hth]
      · simp [hth]
    simp [checks, hnone, hcount, hrange, hportok, hroom]
  · rw [State.desc_key hd]
    rfl

/-! ### `WRITEBACK` of tiles with no dirty byte (R284) -/

/-- A tile whose frame has nothing to write back. -/
def State.cleanTile (s : State) (x : TRef) : Prop :=
  ∀ f, s.tileFrame x = some f → f.slow = false ∨ f.cache = none ∨ ∃ c, f.cache = some c ∧ c.dirty = 0

section Writeback
variable {s t : State} {k : DKey} {d : Desc}

theorem State.writebackTile_clean {x : TRef} (hd : s.desc k = some d) (hmoving : d.moving = []) (hclean : s.cleanTile x) (n : Nat) :
    ∃ t, s.writebackTile k x n = .done t ∧ t = { s with descs := t.descs } ∧ t.desc k = some d := by
  have hsame : (s.setMoving k []).desc k = some d := by
    have h : d = { d with moving := [] } := by rw [← hmoving]
    rw [h]
    exact State.desc_upd_same (s := s) (g := fun x => { x with moving := [] }) rfl (fun _ => rfl) hd
  rw [State.writebackTile]
  cases hf : s.tileFrame x with
  | none => exact ⟨s, rfl, rfl, hd⟩
  | some f =>
    have hown : ((s.desc k).any (fun e => e.moving == [(f.id, f.id)]) && s.writingBack f.id) = false := by simp [hd, hmoving]
    refine ⟨s.setMoving k [], (if_neg (by simp [hown])).trans ?_, rfl, hsame⟩
    rcases hclean f hf with hfast | hnone | ⟨c, hc, hdirty⟩
    · simp [hfast]
    · simp [hnone]
    · cases hslow : f.slow with
      | false => simp
      | true => simp [hc, hdirty]

theorem State.setProgress_only (i : Nat) : t.setProgress k i = { t with descs := (t.setProgress k i).descs } := rfl

/-- Tile by tile, nothing is written, and the operation ends with all of them done. -/
theorem State.writebackTiles_clean {mk : Nat → TRef} {first n i : Nat} {tags : List Nat} (halone : d.EndsAlone) (hmoving : d.moving = [])
    (hclean : ∀ i < n, s.cleanTile (mk (first + i))) (fuel : Nat) (honly : t = { s with descs := t.descs })
    (hd : t.desc k = some { d with progress := i }) (hi : i ≤ n) (hfuel : n < i + fuel) :
    let u := t.writebackTiles k mk first n false tags fuel
    u = { s with descs := u.descs } ∧ u.desc k = some (({ d with progress := n } : Desc).begun true |>.endedWith stOk 1 (d.work - 1) n) := by
  induction fuel generalizing t i with
  | zero => omega
  | succ fuel ih =>
    intro u
    have hu : u = t.writebackTiles k mk first n false tags (fuel + 1) := rfl
    by_cases hdone : i = n
    · subst hdone
      have hstep : u = t.endHome { d with progress := i } ⟨stOk, 1, d.work - 1⟩ i true := by
        rw [hu, State.writebackTiles, hd]
        exact if_pos (le_refl i)
      obtain ⟨hend, -, hdesc⟩ := State.endHome_self (d := { d with progress := i }) hd halone ⟨stOk, 1, d.work - 1⟩ i true
      rw [hstep]
      refine ⟨hend.trans ?_, hdesc⟩
      rw [honly]
    · have hlt : i < n := by omega
      have hcleant : t.cleanTile (mk (first + i)) := by
        rw [honly]
        exact hclean i hlt
      obtain ⟨v, hv, hvonly, hvd⟩ := State.writebackTile_clean hd hmoving hcleant (tags.count (first + i))
      have hevict : v.evictDone (mk (first + i)) false = v := by
        unfold State.evictDone
        split <;> rfl
      have hstep : u = (v.setProgress k (i + 1)).writebackTiles k mk first n false tags fuel := by
        rw [hu, State.writebackTiles, hd]
        refine (if_neg (by exact Nat.not_le.mpr hlt)).trans ?_
        dsimp only
        rw [hv]
        dsimp only
        rw [hevict]
      rw [hstep]
      refine ih (i := i + 1) ?_ ?_ (by omega) (by omega)
      · rw [State.setProgress_only, hvonly, honly]
      · exact State.desc_upd_same (s := v) (d := { d with progress := i }) (g := fun x => { x with progress := i + 1 }) rfl (fun _ => rfl) hvd

end Writeback

theorem exec_writeback_begun {s : State} {slice ring idx : Nat} {d : Desc} {r : Region} {tags : List Nat} (halive : s.alive = true)
    (hnode : d.at 16 2 = s.me) (hhome : checks (homeForm d.raw ++ s.homeEpoch d) = .ok ()) (hregion : s.region (bits (d.at 20 4) 0 20) = some r)
    (hchecks : checks (s.regionChecks d (bits (d.at 20 4) 0 20)) = .ok ()) (hruns : s.Runs ⟨slice, ring, idx⟩ 0x39 d)
    (hwork : d.work = 0) (hkeep : bit (d.at 18 1) 0 = false) (hrgn : bit (d.at 18 1) 1 = false) (hcount : 1 ≤ d.at 28 4)
    (hrange : d.at 24 4 + d.at 28 4 ≤ r.size) :
    exec (.writeback slice ring idx tags) s = .next ((s.atWork ⟨slice, ring, idx⟩ r.base).writebackTiles ⟨slice, ring, idx⟩
      (.rgn (bits (d.at 20 4) 0 20)) (d.at 24 4) (d.at 28 4) false tags (2 * d.at 28 4 + 2)) := by
  obtain ⟨hd, -⟩ := id hruns
  refine congrArg Host.Outcome.next ((State.whenAlive_alive halive _).trans ((State.homeRun_begun hruns hnode rfl _ (.inr hhome)).trans ?_))
  dsimp only
  rw [if_neg (by simp [hrgn]), if_neg (by simp [hwork]), State.onRegion_runs hregion hchecks (by simp [checks, hcount, hrange]),
    if_neg (by simp [hwork]), hkeep, State.desc_key hd]
  rfl

/-! ### The ways through the tiles -/

theorem State.desc_atWork_first {s : State} {k : DKey} {d : Desc} (hd : s.desc k = some d) (hprogress : d.progress = 0) (base : Nat) :
    (s.atWork k base).desc k = some { d.atWork base with progress := 0 } := by
  have hsame : ({ d.atWork base with progress := 0 } : Desc) = d.atWork base := by
    rw [← hprogress]
    rfl
  rw [hsame]
  exact State.desc_atWork hd base

section Tiles
variable {s : State} {k : DKey} {d : Desc} {r : Region} {tags : List Nat} (hd : s.desc k = some d) (horigin : d.origin = none)
  (happend : d.op ≠ 0x10) (hprogress : d.progress = 0) (hmoving : d.moving = [])
include hd horigin happend hprogress hmoving

theorem State.moveTiles_atWork {first tier port : Nat} {all : Bool} (hregion : s.region r.num = some r)
    (hframes : ∀ i < d.at 40 4, r.tileFrames (first + i) all = []) {fuel : Nat} (hfuel : d.at 40 4 < fuel) :
    let u := (s.atWork k r.base).moveTiles k r.num first all tier port tags fuel
    ∃ v, s.Retargeted v k (d.atWork r.base) r first (tier, port) (d.at 40 4) ∧ u = { v with descs := u.descs } ∧
      u.desc k = some ({ d.atWork r.base with progress := d.at 40 4 }.endedWith stOk 0 0 (d.at 40 4)) := by
  have hstart : s.Retargeted (s.atWork k r.base) k (d.atWork r.base) r first (tier, port) 0 :=
    ⟨rfl, State.desc_atWork_first hd hprogress r.base, r, hregion, rfl, rfl, fun j => (if_neg (by omega)).symm⟩
  exact hstart.moveTiles (Desc.endsAlone_of_moving (d := d.atWork r.base) horigin happend hmoving) hmoving hframes fuel (Nat.zero_le _)
    (by rwa [Nat.zero_add])

theorem State.writebackTiles_atWork {mk : Nat → TRef} {first n fuel : Nat} (hclean : ∀ i < n, s.cleanTile (mk (first + i))) (hfuel : n < fuel) :
    let u := (s.atWork k r.base).writebackTiles k mk first n false tags fuel
    u = { s with descs := u.descs } ∧ u.desc k = some ({ d.atWork r.base with progress := n }.endedWith stOk 1 0 n) :=
  State.writebackTiles_clean (d := d.atWork r.base) (Desc.endsAlone_of_moving (d := d.atWork r.base) horigin happend hmoving) hmoving hclean fuel rfl
    (State.desc_atWork_first hd hprogress r.base) (Nat.zero_le _) (by rwa [Nat.zero_add])

end Tiles

/-! ### Rejections at the home (R60, R248, R641) -/

/-- The commands of the home operations, each with its opcode and, where it has several, its operation. -/
def homeCommand (slice ring idx : Nat) (tags : List Nat) (d : Desc) (op : Nat) (c : Instr) : Prop :=
  op = 0x30 ∧ (c = .cut slice ring idx ∧ d.at 24 1 = 0 ∨ c = .rollback slice ring idx ∧ d.at 24 1 = 1 ∨ c = .release slice ring idx ∧ d.at 24 1 = 2) ∨
    op = 0x31 ∧ c = .regionPublish slice ring idx ∨ op = 0x2A ∧ c = .tablePublish slice ring idx ∨
    op = 0x38 ∧ (c = .placeCreate slice ring idx ∧ d.at 18 1 = 0 ∨ c = .placeDelete slice ring idx ∧ d.at 18 1 = 1) ∨
    op = 0x38 ∧ c = .moveTier slice ring idx tags ∧ d.at 18 1 = 2 ∨ op = 0x39 ∧ c = .writeback slice ring idx tags

theorem homeCommand_op_ne {slice ring idx : Nat} {tags : List Nat} {d : Desc} {op : Nat} {c : Instr} (h : homeCommand slice ring idx tags d op c) :
    op ≠ 0x10 := by
  rcases h with ⟨rfl, -⟩ | ⟨rfl, -⟩ | ⟨rfl, -⟩ | ⟨rfl, -⟩ | ⟨rfl, -⟩ | ⟨rfl, -⟩ <;> decide

theorem exec_home_rejected {s : State} {slice ring idx : Nat} {tags : List Nat} {d : Desc} {op : Nat} {c : Instr} {f : Fail}
    (hcommand : homeCommand slice ring idx tags d op c) (halive : s.alive = true) (hruns : s.Runs ⟨slice, ring, idx⟩ op d)
    (hnode : d.at (homeNodeOff op) 2 = s.me) (hwork : d.work = 0) (hfail : checks (homeForm d.raw ++ s.homeEpoch d) = .error (.err f)) :
    exec c s = .next (s.endHome d f 0 false) := by
  have hend {mode : Desc → Bool} {run : State → Desc → State} (hmode : mode d = true) :
      Host.Outcome.next (s.whenAlive (s.homeRun ⟨slice, ring, idx⟩ op mode run)) = (.next (s.endHome d f 0 false) : Host.Outcome State Fault Refusal) :=
    congrArg Host.Outcome.next ((State.whenAlive_alive halive _).trans (State.homeRun_rejected hruns hnode hmode run hwork hfail))
  rcases hcommand with ⟨rfl, ⟨rfl, hmode⟩ | ⟨rfl, hmode⟩ | ⟨rfl, hmode⟩⟩ | ⟨rfl, rfl⟩ | ⟨rfl, rfl⟩ | ⟨rfl, ⟨rfl, hmode⟩ | ⟨rfl, hmode⟩⟩ |
    ⟨rfl, rfl, hmode⟩ | ⟨rfl, rfl⟩
  · exact hend (mode := fun d => d.at 24 1 == 0) (by simp [hmode])
  · exact hend (mode := fun d => d.at 24 1 == 1) (by simp [hmode])
  · exact hend (mode := fun d => d.at 24 1 == 2) (by simp [hmode])
  · exact hend (mode := fun _ => true) rfl
  · exact hend (mode := fun _ => true) rfl
  · exact hend (mode := fun d => d.at 18 1 == 0) (by simp [hmode])
  · exact hend (mode := fun d => d.at 18 1 == 1) (by simp [hmode])
  · exact hend (mode := fun d => d.at 18 1 == 2) (by simp [hmode])
  · exact hend (mode := fun _ => true) rfl

/-- The epoch of a descriptor that is no longer current fails at its home, after its form (R60, R88). -/
theorem State.homeEpoch_stale {s : State} {d : Desc} (horigin : d.origin = none) (hform : checks (homeForm d.raw) = .ok ()) (hfence : s.fenced = false)
    (hepoch : d.epoch ≠ s.epoch) (hprev : s.grace = false ∨ isPrevEpoch d.epoch s.epoch = false) :
    checks (homeForm d.raw ++ s.homeEpoch d) = .error (.err ⟨eStaleEpoch, 6, s.epoch⟩) := by
  have hlate : (d.epoch == s.epoch || (s.grace && isPrevEpoch d.epoch s.epoch)) = false := by
    rcases hprev with h | h <;> simp [hepoch, h]
  rw [checks_append hform, State.homeEpoch, horigin]
  simp only [checks, hfence, hlate, Bool.not_false, if_true, Bool.false_eq_true, if_false]

/-! ### The statement -/

/-- Settles O38: each operation is a chain of the lemmas above, from the checks it passes to the descriptor's end. -/
theorem placeOperations : Obligations.PlaceOperations := by
  unfold Obligations.PlaceOperations
  refine ⟨?_, ?_⟩
  · intro s slice ring idx d r tags halive horigin hnode hhome k num owner base size live here r0
    refine ⟨?_, fun hregion hchecks => ⟨?_, ?_, ?_⟩⟩
    · intro hruns hmode hunrevoked hpermitted htable hnumbered hfresh hconfigured haligned hsized hplaced hapart htier
      obtain ⟨hd, -, hop, -⟩ := id hruns
      have halone : d.EndsAlone := ⟨horigin, by simp [hop], by simp [Desc.leavesFrames, hmode]⟩
      have hrun := exec_placeCreate_made halive horigin hnode hhome hruns hmode
        ⟨hunrevoked, hpermitted, htable, hnumbered, hfresh, hconfigured, haligned, hsized, hplaced, hapart, htier⟩
      extract_lets u at hrun
      obtain ⟨honly, hend, hother⟩ := State.endHome_started hd halone base ⟨stOk, 0, 0⟩
        (u := ({ u with regions := u.regions ++ [d.newRegion s.now] } : State).countLive) rfl 0
      exact ⟨_, hrun, State.countLive_live (s := { u with regions := u.regions ++ [d.newRegion s.now] }) (congrArg State.regs honly :)
        (congrArg State.regions honly :), (congrArg State.frames honly :), (congrArg State.mem honly :), (congrArg State.regions honly :), hend, hother⟩
    · intro hruns hmode hdir hsweeps
      obtain ⟨hnum, -⟩ := State.region_num hregion
      obtain ⟨hd, -, hop, -⟩ := id hruns
      have hrun := exec_placeDelete_made halive hnode hhome hregion hchecks hruns hmode hdir hsweeps
      extract_lets w at hrun
      have hw := State.deleteRegion_only (s.bankEngine k r.base) r
      obtain ⟨honly, e, hend, hphase, hstatus, hstarted⟩ := State.endHome_deleted hd horigin hop hmode ⟨stOk, 1, w.2⟩
        (u := w.1.reapRegions.countLive) (congrArg State.descs hw :) 0
      have hregions (n : Nat) : (w.1.reapRegions.countLive.okHome d w.2 0).region n = if n = r.num then none else s.region n :=
        (State.region_congr (congrArg State.regions honly :) n).trans ((State.region_reapRegions w.1 n).trans (State.region_deleteRegion _ r n))
      refine ⟨_, e, hrun, State.countLive_live (s := w.1.reapRegions) (congrArg State.regs honly :) (congrArg State.regions honly :), ?_,
        fun n hn => ?_, hend, hphase, hstatus, hstarted, (congrArg State.mem honly :).trans (congrArg State.mem hw :)⟩
      · rw [hregions, if_pos hnum.symm]
      · rw [hregions, if_neg (by rwa [hnum])]
    · intro hruns hmode hwork hprogress hmoving first count tier port
      obtain ⟨hnum, -⟩ := State.region_num hregion
      obtain ⟨hd, -, hop, -⟩ := id hruns
      refine ⟨fun htier hwait => exec_moveTier_waits halive hnode hhome hruns hmode htier hwait,
        fun hmedia hcount hrange hport hroom hframes => ?_⟩
      have hrun := exec_moveTier_begun (tags := tags) halive hnode hhome hregion hchecks hruns hmode hwork hmedia hcount hrange hport hroom hframes
      have hfuel : count < count * (2 * r.retained.length + 5) + 2 := by
        have := Nat.le_mul_of_pos_right count (show 0 < 2 * r.retained.length + 5 by omega)
        omega
      obtain ⟨v, hv, honly, hend⟩ := State.moveTiles_atWork (tags := tags) (tier := tier) (port := port) hd horigin (by simp [hop]) hprogress hmoving
        (hnum ▸ hregion) hframes hfuel
      obtain ⟨q, hq, hworking, hretained, hlook⟩ := hv.region
      refine ⟨_, q, hrun, ?_, (congrArg State.frames honly :).trans (congrArg State.frames hv.only :),
        (congrArg State.mem honly :).trans (congrArg State.mem hv.only :), fun i hi => ?_, fun j hj => ?_, hworking, hretained, hend⟩
      · rw [← hnum]
        exact (State.region_congr (congrArg State.regions honly :) _).trans hq
      · rw [hlook, if_pos (by omega)]
      · rw [hlook, if_neg (by omega)]
    · intro hruns hwork hprogress hmoving hkeep hrgn hcount hrange hclean
      obtain ⟨hd, -, hop, -⟩ := id hruns
      have hrun := exec_writeback_begun (tags := tags) halive hnode hhome hregion hchecks hruns hwork hkeep hrgn hcount hrange
      obtain ⟨honly, hend⟩ := State.writebackTiles_atWork (r := r) (tags := tags) hd horigin (by simp [hop]) hprogress hmoving
        (mk := .rgn (bits (d.at 20 4) 0 20)) hclean (fuel := 2 * d.at 28 4 + 2) (by omega)
      exact ⟨_, hrun, (congrArg State.frames honly :), (congrArg State.mem honly :), (congrArg State.nvme honly :), hend⟩
  · intro s slice ring idx tags d op c f halive horigin hruns hnode hwork hmoving hcommand
    obtain ⟨hd, -, hop, -⟩ := id hruns
    refine ⟨fun hfail => ?_, fun hform hfence hepoch hprev => State.homeEpoch_stale horigin hform hfence hepoch hprev⟩
    have hne : d.op ≠ 0x10 := hop ▸ homeCommand_op_ne hcommand
    obtain ⟨honly, hother, hend⟩ := State.endHome_self hd (Desc.endsAlone_of_moving horigin hne hmoving) f 0 false
    exact ⟨_, exec_home_rejected hcommand halive hruns hnode hwork hfail, honly, hother, hend⟩

end Sys2Proof.Machine

/-! Ring pairs (R62 to R84): a ring found by its slice and number, and when `NOP` and `FENCE` end and a descriptor starts. -/

namespace Sys2Proof.Machine

/-! ### Rings by slice and number -/

theorem State.ring_key {s : State} {x n : Nat} {r : Ring} (h : s.ring x n = some r) : r.slice = x ∧ r.num = n := by
  simpa using List.find?_some h

theorem State.ring_congr {s t : State} (h : t.rings = s.rings) (x n : Nat) : t.ring x n = s.ring x n := by
  rw [State.ring, State.ring, h]

/-- An update of rings that keeps their keys is seen by each search. -/
theorem State.ring_upd {s t : State} {p : Ring → Bool} {g : Ring → Ring} (hrings : t.rings = upd s.rings p g)
    (hkey : ∀ r, (g r).slice = r.slice ∧ (g r).num = r.num) (x n : Nat) : t.ring x n = (s.ring x n).map (fun r => if p r then g r else r) := by
  rw [State.ring, hrings]
  refine find?_upd _ _ _ _ fun r => ?_
  split
  · rw [(hkey r).1, (hkey r).2]
  · rfl

/-- A record that takes the place of those that a search names is found by it. -/
theorem find?_upd_const {α : Type} (l : List α) {p : α → Bool} {q : α} (hq : p q = true) :
    (upd l p (fun _ => q)).find? p = (l.find? p).map (fun _ => q) := by
  rw [find?_upd l p p _ fun x => by by_cases hx : p x = true <;> simp [hx, hq]]
  cases h : l.find? p with
  | none => rfl
  | some x => simp [List.find?_some h]

/-- A search for other records finds what it found. -/
theorem find?_upd_const_other {α : Type} (l : List α) {p p' : α → Bool} {q : α} (hq : p' q = false) (hother : ∀ x, p x = true → p' x = false) :
    (upd l p (fun _ => q)).find? p' = l.find? p' := by
  rw [find?_upd l p' p _ fun x => by by_cases hx : p x = true <;> simp [hx, hq, hother x]]
  cases h : l.find? p' with
  | none => rfl
  | some x =>
    have hx : p x = false := Bool.eq_false_iff.mpr fun hc => by simpa [hother x hc] using List.find?_some h
    simp [hx]

/-- The ring of a key is replaced. -/
theorem State.ring_setRing_same {s : State} {x n : Nat} {r q : Ring} (h : s.ring x n = some r) (hslice : q.slice = x) (hnum : q.num = n) :
    (s.setRing q).ring x n = some q := by
  subst hslice hnum
  have hfound := find?_upd_const s.rings (p := fun y => y.slice == q.slice && y.num == q.num) (q := q) (by simp)
  rw [State.ring] at h
  rw [State.ring, State.setRing, hfound, h, Option.map_some]

/-- Every other ring stands. -/
theorem State.ring_setRing_other (s : State) (q : Ring) : s.OtherRings (s.setRing q) q.slice q.num := by
  intro x n hne
  have hno {y : Ring} (hy : (y.slice == q.slice && y.num == q.num) = true) : (y.slice == x && y.num == n) = false := by
    obtain ⟨h1, h2⟩ : y.slice = q.slice ∧ y.num = q.num := by simpa using hy
    rw [h1, h2, Bool.eq_false_iff]
    intro hc
    obtain ⟨hx, hn⟩ := Bool.and_eq_true_iff.mp hc
    exact hne (Prod.ext (beq_iff_eq.mp hx).symm (beq_iff_eq.mp hn).symm)
  exact find?_upd_const_other s.rings (hno (by simp)) fun y hy => hno hy

theorem State.touchRing_of_ring {s : State} {x n : Nat} {r : Ring} (h : s.ring x n = some r) (f : Ring → Ring) :
    s.touchRing x n f = s.setRing { f r with stDirty := true } := by
  rw [State.touchRing, h]

/-! ### Earlier descriptors of a ring (R82, R83) -/

theorem State.mem_earlier {s : State} {r : Ring} {idx : Nat} {e : Desc} : e ∈ s.earlier r idx ↔ s.Before r idx e := by
  simp only [State.earlier, State.inFlight, State.Before, List.mem_filter, Bool.and_eq_true, beq_iff_eq, decide_eq_true_eq, and_assoc]

theorem State.earlier_nil {s : State} {r : Ring} {idx : Nat} : s.earlier r idx = [] ↔ ∀ e, ¬ s.Before r idx e := by
  rw [List.eq_nil_iff_forall_not_mem]
  exact forall_congr' fun e => not_congr State.mem_earlier

/-! ### `NOP` and `FENCE` (R80, R83, R84) -/

/-- A descriptor of an opcode without frames or appends only takes its outcome (R91). -/
theorem State.endDesc_onlyEnds {s : State} {k : DKey} {d : Desc} (h : s.desc k = some d) (happend : d.op ≠ 0x10) (hplace : d.op ≠ 0x38)
    (status kind detail progress : Nat) : s.OnlyEnds (s.endDesc k status kind detail progress) k d status kind detail progress := by
  have hend : s.endDesc k status kind detail progress =
      { s with descs := upd s.descs (fun x => x.key == k) (fun x => x.endedWith status kind detail progress) } := by
    simp [State.endDesc, h, happend, hplace, Desc.endedWith]
  rw [hend]
  exact ⟨rfl, State.desc_upd_other rfl fun _ => rfl,
    State.desc_upd_same (g := fun x => x.endedWith status kind detail progress) rfl (fun _ => rfl) h⟩

section NopFence
variable {s : State} {slice ring idx : Nat} {d : Desc} (halive : s.alive = true)
include halive

theorem exec_nop_runs (hruns : s.Runs ⟨slice, ring, idx⟩ 0x00 d) :
    exec (.nop slice ring idx) s = .next (s.endDesc ⟨slice, ring, idx⟩ stOk 0 0 0) := by
  change execNop slice ring idx s = _
  rw [execNop, State.whenAlive_alive halive, State.onRunning_runs hruns, State.desc_key hruns.1]

variable {r : Ring} (hruns : s.Runs ⟨slice, ring, idx⟩ 0x01 d) (hring : s.ring slice ring = some r)
include hruns hring

theorem exec_fence_waits (h : ∃ e, s.Before r idx e) : exec (.fence slice ring idx) s = .next s := by
  change execFence slice ring idx s = _
  have hsome : s.earlier r idx ≠ [] := fun hc => not_exists.mpr (State.earlier_nil.mp hc) h
  simp [execFence, State.whenAlive_alive halive, State.onRunning_runs hruns, hring, hsome]

/-- A `FENCE` behind which nothing is left ends by its window when it has `STOP_ON_ERROR`. -/
theorem exec_fence_ends (h : ∀ e, ¬ s.Before r idx e) : exec (.fence slice ring idx) s =
    .next (if bit (d.at 16 1) 0 && r.windowErr then s.endDesc ⟨slice, ring, idx⟩ eAborted 8 4 0 else s.endDesc ⟨slice, ring, idx⟩ stOk 0 0 0) := by
  change execFence slice ring idx s = _
  simp [execFence, State.whenAlive_alive halive, State.onRunning_runs hruns, hring, State.earlier_nil.mpr h, State.desc_key hruns.1]

end NopFence

theorem bit_zero (v : Nat) : bit v 0 = decide (v % 2 = 1) := by
  simp [bit, bits, Nat.div_one, beq_eq_decide]

/-- Settles O24: each is one end of a descriptor, and a `FENCE` waits while an earlier descriptor of its ring is left. -/
theorem nopAndFence : Obligations.NopAndFence := by
  unfold Obligations.NopAndFence
  refine fun s slice ring idx d r halive => ⟨fun hruns => ?_, fun hruns hring => ⟨fun hbefore => ?_, fun hnone hok => ?_, fun hnone hstop herr => ?_⟩⟩
  · obtain ⟨hd, -, hop, -⟩ := id hruns
    exact ⟨_, exec_nop_runs halive hruns, State.endDesc_onlyEnds hd (by simp [hop]) (by simp [hop]) _ _ _ _⟩
  · exact exec_fence_waits halive hruns hring hbefore
  all_goals
    obtain ⟨hd, -, hop, -⟩ := id hruns
    refine ⟨_, exec_fence_ends halive hruns hring hnone, ?_⟩
  · have hgo : (bit (d.at 16 1) 0 && r.windowErr) = false := by
      rcases hok with h | h
      · simp [bit_zero, Desc.at, h]
      · simp [h]
    rw [hgo]
    exact State.endDesc_onlyEnds hd (by simp [hop]) (by simp [hop]) _ _ _ _
  · have hgo : (bit (d.at 16 1) 0 && r.windowErr) = true := by simp [bit_zero, Desc.at, hstop, herr]
    rw [hgo]
    exact State.endDesc_onlyEnds hd (by simp [hop]) (by simp [hop]) _ _ _ _

/-! ### The start of a descriptor (R82, R83, R86) -/

/-- A descriptor that runs on an engine since its start. -/
def Desc.onEngine (d : Desc) (engine : Nat) : Desc := { d with phase := .running, started := true, engine := engine, fills := [] }

theorem State.runOn_eq (s : State) (d : Desc) (engine : Nat) (f : Desc → Desc) : s.runOn d engine f = s.setDesc (f (d.onEngine engine)) := rfl

/-- The descriptor of a key is replaced, and every other stands. -/
theorem State.setDesc_desc {s : State} {k : DKey} {e q : Desc} (h : s.desc k = some e) (hkey : q.key = k) :
    (s.setDesc q).desc k = some q ∧ s.OtherDescs (s.setDesc q) k := by
  subst hkey
  refine ⟨?_, fun j hj => ?_⟩
  · have hfound := find?_upd_const s.descs (p := fun x => x.key == q.key) (q := q) (by simp)
    rw [State.desc] at h
    rw [State.desc, State.setDesc, hfound, h, Option.map_some]
  · have hno {y : Desc} (hy : (y.key == q.key) = true) : (y.key == j) = false := by
      rw [beq_iff_eq.mp hy]
      exact beq_eq_false_iff_ne.mpr hj.symm
    exact find?_upd_const_other s.descs (hno (by simp)) fun y hy => hno hy

section Start
variable {s : State} {slice ring idx : Nat} {d : Desc} {r : Ring} (halive : s.alive = true) (hring : s.ring slice ring = some r)
  (hd : s.desc ⟨slice, ring, idx⟩ = some d) (hphase : d.phase = .waiting)
include halive hring hd hphase

theorem exec_descriptorStart : exec (.descriptorStart slice ring idx) s = .next (if s.turn r d then s.startDesc d else s) := by
  change execDescriptorStart slice ring idx s = _
  simp [execDescriptorStart, State.whenAlive_alive halive, hring, hd, hphase]

theorem exec_descriptorStart_waits (h : ∃ e, s.Before r idx e ∧ (d.waits = true ∨ e.phase = .waiting ∨ e.op = 0x01 ∧ e.raw ≠ [])) :
    exec (.descriptorStart slice ring idx) s = .next s := by
  obtain ⟨e, he, hcause⟩ := h
  have hmem : e ∈ s.earlier r d.key.idx := State.mem_earlier.mpr (by rw [State.desc_key hd]; exact he)
  have hturn : s.turn r d = false := by
    rw [Bool.eq_false_iff]
    intro hc
    obtain ⟨hall, hlast⟩ := Bool.and_eq_true_iff.mp hc
    have hthis := List.all_eq_true.mp hall e hmem
    rcases hcause with h | h | ⟨h1, h2⟩
    · have hempty : s.earlier r d.key.idx = [] := by simpa [h] using hlast
      rw [hempty] at hmem
      exact absurd hmem (by simp)
    · simp [h] at hthis
    · simp [h1, h2] at hthis
  rw [exec_descriptorStart halive hring hd hphase, hturn, if_neg (by simp)]

theorem exec_descriptorStart_starts (h : ∀ e, s.Before r idx e → d.waits = false ∧ e.phase ≠ .waiting ∧ e.op ≠ 0x01) :
    exec (.descriptorStart slice ring idx) s = .next (s.startDesc d) := by
  have hall : ∀ e ∈ s.earlier r d.key.idx, d.waits = false ∧ e.phase ≠ .waiting ∧ e.op ≠ 0x01 := fun e he =>
    h e (by rw [State.desc_key hd] at he; exact State.mem_earlier.mp he)
  have hturn : s.turn r d = true := by
    refine Bool.and_eq_true_iff.mpr ⟨List.all_eq_true.mpr fun e he => ?_, ?_⟩
    · simp [hall e he]
    · cases hes : s.earlier r d.key.idx with
      | nil => simp
      | cons e es => simp [(hall e (by rw [hes]; exact List.mem_cons_self)).1]
  rw [exec_descriptorStart halive hring hd hphase, hturn, if_pos rfl]

end Start

theorem State.startDesc_front {s : State} {d : Desc} (h : d.op ∈ [0x00, 0x01, 0x3A]) : s.startDesc d = s.runOn d 0xF0 id := by
  simp only [List.mem_cons, List.not_mem_nil, or_false] at h
  rcases h with h | h | h <;> simp only [State.startDesc, h]

/-- Settles O25: `WAIT` adds to the turn of a descriptor that nothing before it is left. -/
theorem waitHoldsStart : Obligations.WaitHoldsStart := by
  unfold Obligations.WaitHoldsStart
  intro s slice ring idx d r halive hring hd hphase
  have hkey := State.desc_key hd
  refine ⟨fun hwait hbefore => ?_, fun _ hop hnone => ?_, fun hwait hop hstarted => ?_⟩
  · obtain ⟨e, he⟩ := hbefore
    exact exec_descriptorStart_waits halive hring hd hphase ⟨e, he, .inl hwait⟩
  · refine ⟨_, exec_descriptorStart_starts halive hring hd hphase fun e he => absurd he (hnone e), ?_⟩
    rw [State.startDesc_front (by simp [hop])]
    exact (State.setDesc_desc (q := d.onEngine 0xF0) hd hkey).1
  · refine ⟨_, exec_descriptorStart_starts halive hring hd hphase fun e he => ⟨hwait, hstarted e he⟩, ?_⟩
    rw [State.startDesc_front (by simp [hop])]
    exact (State.setDesc_desc (q := d.onEngine 0xF0) hd hkey).1

end Sys2Proof.Machine

/-! Where a descriptor starts (R86, R92, R144, R235, R288): the least loaded engine, a mover of the slice, and the front end. -/

namespace Sys2Proof.Machine

/-! ### The least loaded engine (R144, R234) -/

/-- The engine that a search for the least loaded one has in hand. -/
def State.lessLoaded (s : State) (b : Option Nat) (e : Nat) : Option Nat :=
  match b with
  | none => some e
  | some x => if s.loadOf e < s.loadOf x then some e else b

theorem State.leastLoaded_eq (s : State) (es : List Nat) : s.leastLoaded es = es.foldl s.lessLoaded none := rfl

/-- A search that has an engine in hand ends with one that is loaded no more than it and than any that follows. -/
theorem State.lessLoaded_foldl (s : State) (es : List Nat) (x : Nat) :
    ∃ e, es.foldl s.lessLoaded (some x) = some e ∧ (e = x ∨ e ∈ es) ∧ s.loadOf e ≤ s.loadOf x ∧ ∀ h ∈ es, s.loadOf e ≤ s.loadOf h := by
  induction es generalizing x with
  | nil => exact ⟨x, rfl, .inl rfl, le_rfl, by simp⟩
  | cons y ys ih =>
    have hnext : s.lessLoaded (some x) y = some (if s.loadOf y < s.loadOf x then y else x) := by
      rw [State.lessLoaded]
      split <;> rfl
    obtain ⟨e, he, hin, hle, hall⟩ := ih (if s.loadOf y < s.loadOf x then y else x)
    refine ⟨e, by rw [List.foldl_cons, hnext, he], ?_, ?_, List.forall_mem_cons.mpr ⟨?_, hall⟩⟩
    · split at hin <;> simp only [List.mem_cons] <;> tauto
    all_goals split at hle <;> omega

theorem State.leastLoaded_none {s : State} {es : List Nat} (h : es = []) : s.leastLoaded es = none := by rw [h]; rfl

theorem State.leastLoaded_some {s : State} {es : List Nat} (h : es ≠ []) :
    ∃ e, s.leastLoaded es = some e ∧ e ∈ es ∧ ∀ x ∈ es, s.loadOf e ≤ s.loadOf x := by
  cases es with
  | nil => exact absurd rfl h
  | cons x xs =>
    obtain ⟨e, he, hin, hle, hall⟩ := s.lessLoaded_foldl xs x
    exact ⟨e, he, by simpa using hin, List.forall_mem_cons.mpr ⟨hle, hall⟩⟩

/-! ### The units of a slice -/

theorem State.mem_freeGleaners {s : State} {slice e : Nat} :
    e ∈ s.freeGleaners slice ↔ e ∈ s.gleanerCodes slice ∧ s.ctxUsed slice e < s.ctxMost slice e := by
  simp [State.freeGleaners]

/-- A number of `n` bits that is not zero has a bit set. -/
theorem exists_bit {n v : Nat} (hlt : v < 2 ^ n) (hne : v ≠ 0) : ∃ m < n, bit v m = true := by
  obtain ⟨m, hm⟩ := Nat.exists_testBit_of_ne_zero hne
  refine ⟨m, ?_, ?_⟩
  · by_contra hge
    exact absurd hm (by rw [Nat.testBit_lt_two_pow (lt_of_lt_of_le hlt (Nat.pow_le_pow_right (by omega) (by omega)))]; simp)
  · rw [Nat.testBit_eq_decide_div_mod_eq] at hm
    simpa [bit, bits] using hm

theorem State.mem_movers {s : State} {slice m : Nat} : m ∈ s.movers slice ↔ m < 32 ∧ bit (s.fldAt f_SLC_MOVERS_MOVERS slice) m = true := by
  simp [State.movers]

theorem State.movers_ne_nil {s : State} {slice : Nat} (h : s.fldAt f_SLC_MOVERS_MOVERS slice ≠ 0) : s.movers slice ≠ [] := by
  obtain ⟨m, hm⟩ := exists_bit (Fld.get_lt f_SLC_MOVERS_MOVERS _) h
  exact List.ne_nil_of_mem (State.mem_movers.mpr hm)

/-- The mover that takes a unit is one of the slice's. -/
theorem State.mover_mem {s : State} {d : Desc} (h : s.movers d.key.slice ≠ []) (k : Nat) : s.mover d k ∈ s.movers d.key.slice := by
  unfold State.mover
  split
  · rename_i m hm
    simp [hm]
  · have hpos : 0 < (s.movers d.key.slice).length := List.length_pos_of_ne_nil h
    rw [List.getD_eq_getElem _ _ (Nat.mod_lt _ hpos)]
    exact List.getElem_mem _

/-! ### The starts -/

theorem State.homeFrom_here {s : State} {d : Desc} (h : d.at (homeNodeOff d.op) 2 = s.me) : s.homeFrom d = s.runOn d 0xF0 id := by
  rw [State.homeFrom, if_pos h]

/-- A `TABLE_PUBLISH` waits while no Gleaner has a free context. -/
theorem State.startDesc_publish_waits {s : State} {d : Desc} (hop : d.op = 0x2A) (hfull : s.leastLoaded (s.freeGleaners d.key.slice) = none) :
    s.startDesc d = s := by
  simp [State.startDesc, hop, State.startHome, hfull]

theorem State.startDesc_publish {s : State} {d : Desc} {e : Nat} (hop : d.op = 0x2A) (hnode : d.at (homeNodeOff d.op) 2 = s.me)
    (hfree : s.leastLoaded (s.freeGleaners d.key.slice) = some e) : s.startDesc d = s.runOn { d with ctx := [e] } 0xF0 id := by
  rw [← State.homeFrom_here (d := { d with ctx := [e] }) hnode]
  simp [State.startDesc, hop, State.startHome, hfree]

theorem State.startDesc_home {s : State} {d : Desc} (hop : d.op ∈ [0x30, 0x31, 0x38, 0x39]) (hnode : d.at (homeNodeOff d.op) 2 = s.me) :
    s.startDesc d = s.runOn d 0xF0 id := by
  rw [← State.homeFrom_here hnode]
  simp only [List.mem_cons, List.not_mem_nil, or_false] at hop
  rcases hop with h | h | h | h <;> simp [State.startDesc, State.startHome, h]

theorem State.startDesc_group {s : State} {d : Desc} {g : Nat} (hop : d.op ∈ [0x10, 0x14])
    (hg : s.leastLoaded ((s.groups d.key.slice).filter (fun g => s.enabledArrays g != [])) = some g) : s.startDesc d = s.runOn d g id := by
  simp only [List.mem_cons, List.not_mem_nil, or_false] at hop
  rcases hop with h | h <;> simp [State.startDesc, h, hg]

theorem State.startDesc_move {s : State} {d : Desc} (hop : d.op = 0x02) (h : s.movers d.key.slice ≠ []) :
    s.startDesc d = ({ s with fresh := s.fresh + ceilDiv (bits (d.at 32 8) 0 40) tileBytes } : State).runOn { d with work := s.fresh }
      (0x40 + s.mover { d with work := s.fresh } 0) id := by
  simp [State.startDesc, hop, State.startMove, h]

/-- Settles O26: each opcode's start is one running of the descriptor on its unit. -/
theorem descriptorStarts : Obligations.DescriptorStarts := by
  unfold Obligations.DescriptorStarts
  intro s slice ring idx d r halive hring hd hphase _
  have hkey := State.desc_key hd
  refine ⟨fun hfence => ?_, fun hnone => ?_⟩
  · obtain ⟨e, hbefore, hop⟩ := hfence
    exact exec_descriptorStart_waits halive hring hd hphase ⟨e, hbefore, .inr (.inr hop)⟩
  have hstart : exec (.descriptorStart slice ring idx) s = .next (s.startDesc d) :=
    exec_descriptorStart_starts halive hring hd hphase fun e he => absurd he (hnone e)
  rw [hstart]
  refine ⟨fun hop => ?_, fun hop hnode hslice => ?_, fun hop hnode => ?_, fun hop hslice harray => ?_, fun hop hslice hmovers => ?_⟩
  · rw [State.startDesc_front hop]
    obtain ⟨hsame, hother⟩ := State.setDesc_desc (q := d.onEngine 0xF0) hd hkey
    exact ⟨_, rfl, rfl, hother, hsame⟩
  · refine ⟨fun hfull => ?_, fun hfree => ?_⟩
    · have hnil : s.freeGleaners slice = [] := List.eq_nil_iff_forall_not_mem.mpr fun e he => hfull e (State.mem_freeGleaners.mp he)
      rw [State.startDesc_publish_waits hop (by rw [hslice]; exact State.leastLoaded_none hnil)]
    · obtain ⟨e, he⟩ := hfree
      obtain ⟨g, hg, hmem, hleast⟩ := State.leastLoaded_some (s := s) (List.ne_nil_of_mem (State.mem_freeGleaners.mpr he))
      rw [State.startDesc_publish hop hnode (by rw [hslice]; exact hg)]
      exact ⟨_, g, rfl, State.mem_freeGleaners.mp hmem, fun h hh => hleast h (State.mem_freeGleaners.mpr hh),
        (State.setDesc_desc (q := ({ d with ctx := [g] } : Desc).onEngine 0xF0) hd hkey).1⟩
  · rw [State.startDesc_home hop hnode]
    exact ⟨_, rfl, (State.setDesc_desc (q := d.onEngine 0xF0) hd hkey).1⟩
  · have hmem {g : Nat} : g ∈ (s.groups d.key.slice).filter (fun g => s.enabledArrays g != []) ↔ g ∈ s.groups slice ∧ s.enabledArrays g ≠ [] := by
      simp [hslice]
    obtain ⟨g0, hg0⟩ := harray
    obtain ⟨g, hg, hin, hleast⟩ := State.leastLoaded_some (s := s) (List.ne_nil_of_mem (hmem.mpr hg0))
    rw [State.startDesc_group hop hg]
    exact ⟨_, g, rfl, (State.setDesc_desc (q := d.onEngine g) hd hkey).1, (hmem.mp hin).1, (hmem.mp hin).2,
      fun h h1 h2 => hleast h (hmem.mpr ⟨h1, h2⟩)⟩
  · have hne : s.movers d.key.slice ≠ [] := by rw [hslice]; exact State.movers_ne_nil hmovers
    have hmover := State.mover_mem (d := { d with work := s.fresh }) hne 0
    rw [State.mem_movers] at hmover
    rw [State.startDesc_move hop hne]
    refine ⟨_, s.mover { d with work := s.fresh } 0, rfl, hmover.1, ?_, ?_, rfl⟩
    · rw [← hslice]; exact hmover.2
    · exact (State.setDesc_desc (s := { s with fresh := _ }) (q := ({ d with work := s.fresh } : Desc).onEngine _) hd hkey).1

end Sys2Proof.Machine

/-! Doorbells (R69 to R72, R84): what an event leaves of rings and descriptors, bytes sent to the client of a ring, and which stores are accepted. -/

namespace Sys2Proof.Machine

/-! ### What events leave of the work at hand -/

/-- Rings, descriptors, clients and frames stand as they were. -/
structure State.WorkStands (s t : State) : Prop where
  rings : t.rings = s.rings
  descs : t.descs = s.descs
  clients : t.klClients = s.klClients
  frames : t.frames = s.frames

theorem State.WorkStands.refl (s : State) : s.WorkStands s := ⟨rfl, rfl, rfl, rfl⟩

theorem State.WorkStands.trans {s t u : State} (h : s.WorkStands t) (h' : t.WorkStands u) : s.WorkStands u :=
  ⟨h'.rings.trans h.rings, h'.descs.trans h.descs, h'.clients.trans h.clients, h'.frames.trans h.frames⟩

section Registers
variable {s t : State} (h : s.WorkStands t) (f : Fld)
include h

theorem State.WorkStands.setWord (off : Nat) (w : Word) : s.WorkStands (t.setWord off w) := ⟨h.rings, h.descs, h.clients, h.frames⟩
theorem State.WorkStands.setFldAt (i v : Nat) : s.WorkStands (t.setFldAt f i v) := h.setWord _ _
theorem State.WorkStands.setFld (v : Nat) : s.WorkStands (t.setFld f v) := h.setFldAt f 0 v
theorem State.WorkStands.incSatAt (i : Nat) : s.WorkStands (t.incSatAt f i) := h.setFldAt f i _
theorem State.WorkStands.incSat : s.WorkStands (t.incSat f) := h.setFldAt f 0 _
theorem State.WorkStands.addWrap (n : Nat) : s.WorkStands (t.addWrap f n) := h.setFld f _

end Registers

theorem State.WorkStands.ite {s t u : State} {c : Prop} [Decidable c] (ht : s.WorkStands t) (hu : s.WorkStands u) :
    s.WorkStands (if c then t else u) := by
  split
  · exact ht
  · exact hu

theorem State.recordWrite_stands (s : State) (a : Nat) (bs : List Byte) : s.WorkStands (s.recordWrite a bs) := .ite ⟨rfl, rfl, rfl, rfl⟩ ⟨rfl, rfl, rfl, rfl⟩

theorem State.logWrite_stands (s : State) (rec64 : List Byte) : s.WorkStands (s.logWrite rec64) := by
  have hfull : s.WorkStands s := .refl s
  unfold State.logWrite
  extract_lets l2 n cons s1 a
  have h1 : s.WorkStands s1 := .ite ((hfull.setFld _ _).incSat _) hfull
  exact .ite (hfull.incSat _) ((h1.trans (State.recordWrite_stands ..)).setFld _ _)

theorem State.alarmAdd_stands (s : State) (base i node source cause n first last : Nat) :
    s.WorkStands (s.alarmAdd base i node source cause n first last) := by
  unfold State.alarmAdd
  extract_lets a w0 w1 fresh count sent key pend s1
  have h1 : s.WorkStands s1 := ((State.WorkStands.refl s).setWord _ _).setWord _ _
  exact (State.WorkStands.ite (h1.setWord _ _) h1).setWord _ _

theorem State.countAlarm_stands (s : State) (source cause detail : Nat) : s.WorkStands (s.countAlarm source cause detail) := by
  unfold State.countAlarm
  split
  extract_lets s1 s2 s3 n s4 s5
  have h2 : s.WorkStands s2 := (State.alarmAdd_stands ..).addWrap _ _
  have h3 : s.WorkStands s3 := .ite (h2.incSat _) h2
  have h4 : s.WorkStands s4 := h3.setFld _ _
  have h5 : s.WorkStands s5 := h4.trans ⟨rfl, rfl, rfl, rfl⟩
  split
  · split
    exact h5.trans (State.alarmAdd_stands ..)
  · exact h5

theorem State.enqueue_stands (s : State) (out : Nat) (p : Pkt) : s.WorkStands (s.enqueue out p) := ⟨rfl, rfl, rfl, rfl⟩

theorem State.sendQf_stands (s : State) (p : QPkt) : s.WorkStands (s.sendQf p) := by
  unfold State.sendQf
  split
  · exact .refl _
  · split
    · exact .refl _
    · exact State.enqueue_stands ..

theorem State.freeze_stands (s : State) (trigger : Fld) (source cause : Nat) : s.WorkStands (s.freeze trigger source cause) := by
  have h := State.WorkStands.refl s
  exact .ite h (.ite (.ite (h.setFld _ _) h) (((((((h.setFld _ _).setFld _ _).setFld _ _).setFld _ _).setFld _ _).setFld _ _).setFld _ _))

theorem State.record_stands (s : State) (e : Event) : s.WorkStands (s.record e) := by
  unfold State.record
  extract_lets seq r s1 s2 s3 s4
  have h1 : s.WorkStands s1 := ((State.WorkStands.refl s).setFld _ _).trans (State.logWrite_stands ..)
  have h2 : s.WorkStands s2 := .ite (h1.trans (State.countAlarm_stands ..)) h1
  have h3 : s.WorkStands s3 := h2.trans ⟨rfl, rfl, rfl, rfl⟩
  have h4 : s.WorkStands s4 := by
    unfold s4
    split
    · exact .ite (h3.trans (State.sendQf_stands ..)) h3
    · exact h3
  exact .ite (h4.trans (State.freeze_stands ..)) h4

theorem State.logDue_stands (s : State) : s.WorkStands s.logDue := .ite ⟨rfl, rfl, rfl, rfl⟩ (.refl s)

theorem State.sendKl_stands (s : State) (k : Nat) (p : KPkt) : s.WorkStands (s.sendKl k p) := .ite (State.enqueue_stands ..) (.refl s)

theorem State.message_stands (s : State) (x v : Nat) : s.WorkStands (s.message x v) := by
  have h := State.WorkStands.refl s
  unfold State.message
  extract_lets i k a p s1
  refine .ite (h.incSatAt _ _) (.ite (h.setFldAt _ _ _) (.ite ?_ ?_))
  · exact ((h.incSatAt _ _).trans (State.record_stands ..)).trans (State.logDue_stands _)
  · exact (State.sendKl_stands ..).trans ⟨rfl, rfl, rfl, rfl⟩

theorem State.raise_stands (s : State) (e : Event) : s.WorkStands (s.raise e) := by
  refine (State.record_stands s e).trans ?_
  have htold (t : State) : t.WorkStands { t with logIntDue := false } := ⟨rfl, rfl, rfl, rfl⟩
  exact .ite ((htold _).trans (State.message_stands ..)) (State.logDue_stands _)

/-! ### Doorbell values that are not accepted (R69, R72) -/

theorem State.word_setRing (s : State) (r : Ring) (o : Nat) : (s.setRing r).word o = s.word o := rfl

section Reject
variable {s : State} {slice ring : Nat} {r : Ring} (hring : s.ring slice ring = some r) (w : Word)
include hring

/-- It is counted in the ring's status block, which is due. -/
theorem State.dbReject_ring : (s.dbReject r w).ring slice ring = some { r with dbRejects := min (r.dbRejects + 1) (2 ^ 32 - 1), stDirty := true } := by
  obtain ⟨rfl, rfl⟩ := State.ring_key hring
  unfold State.dbReject
  rw [State.touchRing_of_ring hring, State.ring_congr (State.raise_stands ..).rings]
  exact State.ring_setRing_same hring rfl rfl

theorem State.dbReject_descs : (s.dbReject r w).descs = s.descs := by
  obtain ⟨rfl, rfl⟩ := State.ring_key hring
  unfold State.dbReject
  rw [State.touchRing_of_ring hring, (State.raise_stands ..).descs]
  rfl

/-- It raises an event (R523). -/
theorem State.dbReject_seq (hint : s.flag f_FLT_CTL_INT_EN = false) :
    (s.dbReject r w).fld f_FLT_SEQ_SEQ = (s.fld f_FLT_SEQ_SEQ + 1) % 2 ^ 64 := by
  obtain ⟨rfl, rfl⟩ := State.ring_key hring
  unfold State.dbReject
  rw [State.touchRing_of_ring hring]
  set t := (s.setRing { r with dbRejects := min (r.dbRejects + 1) (two32 - 1), stDirty := true }).incSat f_RING_ERR_DB_REJECTS with ht
  have hword {o : Nat} (ho : o ≠ f_RING_ERR_DB_REJECTS.addr 0) : t.word o = s.word o := by rw [ht, State.word_incSat_ne _ _ ho, State.word_setRing]
  have hsilent : t.flag f_FLT_CTL_INT_EN = false :=
    (congrArg (fun v => f_FLT_CTL_INT_EN.get v == 1) (hword (o := f_FLT_CTL_INT_EN.addr 0) (by decide))).trans hint
  rw [State.raise_silent _ _ hsilent, State.record_seq]
  exact congrArg (fun v => (f_FLT_SEQ_SEQ.get v + 1) % 2 ^ 64) (hword (o := f_FLT_SEQ_SEQ.addr 0) (by decide))

end Reject

/-- A saturating count is raised by one, and no other register changes. -/
theorem State.incSat_onlyWords (s : State) (f : Fld) (hf : f.lo + f.width ≤ 64) :
    s.OnlyWords (s.incSat f) [f.addr 0] ∧ (s.incSat f).fld f = min (s.fld f + 1) (2 ^ f.width - 1) := by
  have hpos := Nat.two_pow_pos f.width
  refine ⟨⟨rfl, fun o ho => State.word_incSat_ne s f (by simpa using ho)⟩, ?_⟩
  exact (State.fldAt_setFldAt s f 0 _ hf).trans (Nat.mod_eq_of_lt (by omega))

/-! ### Bytes for the client of a ring (R90, R453, R456) -/

/-- Bytes of a ring's structures leave for its client, which is to acknowledge them. -/
def State.toClient (s : State) (r : Ring) (addr : Nat) (bs : List Byte) : State :=
  { s with
    queue := s.queue ++ [⟨12, r.port, .kl (mkKl 0x42 4 s.nextTag addr 0 bs), none⟩]
    nextTag := s.nextTag + 1
    klOuts := s.klOuts ++ [{ port := r.port, tag := s.nextTag, why := .ringStruct r.slice r.num, left := 0, got := [], bad := [] }] }

theorem State.toClient_stands (s : State) (r : Ring) (addr : Nat) (bs : List Byte) : s.WorkStands (s.toClient r addr bs) := ⟨rfl, rfl, rfl, rfl⟩

theorem State.ringSend_toClient {s : State} {r : Ring} {addr : Nat} {bs : List Byte} (hloc : r.loc = 1) (hup : s.klUp r.port = true)
    (hbound : s.bound r.port = some r.slice) (hwindow : s.inWindow r.port addr bs.length = true) :
    s.ringSend r addr bs = .sent (s.toClient r addr bs) := by
  simp [State.ringSend, hloc, hup, hbound, hwindow, State.sendKl, State.enqueue, State.toClient]

/-- A ring in client memory that is not reached (R98). -/
theorem State.ringSend_unreached {s : State} {r : Ring} (addr : Nat) (bs : List Byte) (hloc : r.loc = 1) (hdown : s.klUp r.port = false) :
    s.ringSend r addr bs = .undeliverable := by
  simp [State.ringSend, hloc, hdown]

theorem State.statusBlock_length (s : State) (r : Ring) : (s.statusBlock r).length = 64 := by
  simp [State.statusBlock]

/-- A status block that has been sent, of a ring whose client is reached (R74). -/
def State.statusToClient (s : State) (r : Ring) : State :=
  (s.toClient r r.stAddr (s.statusBlock r)).setRing { r with stDirty := false, stCons := r.sqCons }

theorem State.writeStatus_toClient {s : State} {slice ring : Nat} {r : Ring} (hring : s.ring slice ring = some r) (hclient : s.clientRing r) :
    s.writeStatus slice ring = s.statusToClient r := by
  obtain ⟨hloc, hup, hbound, hwindow, -⟩ := hclient
  have hsend := State.ringSend_toClient (bs := s.statusBlock r) hloc hup hbound (by rw [State.statusBlock_length]; exact hwindow)
  have hsent : (s.toClient r r.stAddr (s.statusBlock r)).ring slice ring = some r := hring
  simp only [State.writeStatus, hring, State.ringWrite, hsend, State.statusSent, hsent, State.statusToClient]

theorem State.statusToClient_ring {s : State} {slice ring : Nat} {r : Ring} (hring : s.ring slice ring = some r) :
    (s.statusToClient r).ring slice ring = some { r with stDirty := false, stCons := r.sqCons } := by
  obtain ⟨rfl, rfl⟩ := State.ring_key hring
  exact State.ring_setRing_same (s := s.toClient r r.stAddr (s.statusBlock r)) hring rfl rfl

/-- `STATE` changes with a status block to the client (R74). -/
theorem State.ringState_toClient {s : State} {slice ring : Nat} {r : Ring} {st : RingSt} (hring : s.ring slice ring = some r) (hclient : s.clientRing r)
    (hst : r.state ≠ st) : s.ringState slice ring st = (s.setRing { r with state := st }).statusToClient { r with state := st } := by
  have hset : (s.setRing { r with state := st }).ring slice ring = some { r with state := st } := by
    obtain ⟨rfl, rfl⟩ := State.ring_key hring
    exact State.ring_setRing_same hring rfl rfl
  have hne : (r.state == st) = false := beq_eq_false_iff_ne.mpr hst
  simp only [State.ringState, hring, hne, Bool.false_eq_true, if_false]
  exact State.writeStatus_toClient hset hclient

/-! ### Doorbell values that are accepted (R70, R71, R84) -/

/-- A change of a ring with its status block due touches no other ring and nothing else. -/
theorem State.touchRing_only {s : State} {slice ring : Nat} {r : Ring} (hring : s.ring slice ring = some r) {f : Ring → Ring}
    (hkey : (f r).slice = r.slice ∧ (f r).num = r.num) : s.OnlyRings (s.touchRing slice ring f) ∧ s.OtherRings (s.touchRing slice ring f) slice ring ∧
      (s.touchRing slice ring f).ring slice ring = some { f r with stDirty := true } := by
  obtain ⟨hslice, hnum⟩ := State.ring_key hring
  rw [State.touchRing_of_ring hring]
  refine ⟨rfl, ?_, State.ring_setRing_same hring (hkey.1.trans hslice) (hkey.2.trans hnum)⟩
  have hother := State.ring_setRing_other s { f r with stDirty := true }
  rw [hkey.1, hkey.2, hslice, hnum] at hother
  exact hother

theorem State.dropAhead_ring (s : State) (slice ring : Nat) : (s.dropAhead slice ring).ring slice ring =
    (s.ring slice ring).map (fun r => { r with pre := [] }) := by
  have hrings : (s.dropAhead slice ring).rings = upd s.rings (fun r => r.slice == slice && r.num == ring) (fun r => { r with pre := [] }) := rfl
  rw [State.ring_upd hrings fun _ => ⟨rfl, rfl⟩]
  cases hr : s.ring slice ring with
  | none => rfl
  | some r => simp [State.ring_key hr]

/-- The word is of right form, and its producer value one that the ring takes. -/
def Ring.takesWord (r : Ring) (w : Word) : Prop :=
  w.toNat / 2 ^ 32 % 2 ^ 31 = 0 ∧ sub32 (w.toNat % 2 ^ 32) r.sqCons ≤ 2 ^ r.log2sq ∧ sub32 (w.toNat % 2 ^ 32) r.sqProd < 2 ^ 31

section SqDoorbell
variable {s : State} {slice ring : Nat} {r : Ring} {w : Word} (hring : s.ring slice ring = some r)
include hring

theorem State.sqDoorbell_rejected (h : ¬ r.takesWord w) : s.sqDoorbell slice ring w = s.dbReject r w := by
  have hbad : bits w.toNat 32 31 ≠ 0 ∨ (!r.takesProducer (bits w.toNat 0 32)) = true ∨ s.fldAt f_SLC_STATUS_BUSY slice = 1 := by
    by_contra hc
    simp only [not_or, Ring.takesProducer, bits, pow_zero, Nat.div_one, Bool.not_eq_true', Bool.not_eq_false, Bool.and_eq_true,
      decide_eq_true_eq, not_not] at hc
    exact h ⟨hc.1, hc.2.1.1, hc.2.1.2⟩
  simp only [State.sqDoorbell, hring, if_pos hbad]

theorem State.sqDoorbell_taken (hbusy : s.fldAt f_SLC_STATUS_BUSY slice = 0) (h : r.takesWord w) : s.sqDoorbell slice ring w =
    if bit w.toNat 63 && r.state == .halted
    then ((s.touchRing slice ring (fun r => { r with sqProd := w.toNat % 2 ^ 32 })).dropAhead slice ring).ringState slice ring .running
    else s.touchRing slice ring (fun r => { r with sqProd := w.toNat % 2 ^ 32 }) := by
  obtain ⟨hzero, hroom, hback⟩ := h
  have hgood : ¬ (bits w.toNat 32 31 ≠ 0 ∨ (!r.takesProducer (bits w.toNat 0 32)) = true ∨ s.fldAt f_SLC_STATUS_BUSY slice = 1) := by
    simp only [Ring.takesProducer, bits, pow_zero, Nat.div_one, hbusy, hzero, hroom, hback]
    decide
  simp only [State.sqDoorbell, hring, if_neg hgood]
  simp [bits]

end SqDoorbell

theorem bit_getLsbD (w : Word) (i : Nat) : bit w.toNat i = w.getLsbD i := by
  rw [bit, bits, BitVec.getLsbD, Nat.testBit_eq_decide_div_mod_eq]
  simp [beq_eq_decide]

section Exec
variable {s : State} (halive : s.alive = true) (slice ring : Nat) (w : Word)
include halive

/-- A store to the SQ doorbell comes as the command of its `RESUME` bit. -/
theorem exec_sqDoorbell_either :
    exec (if w.getLsbD 63 then Instr.sqDoorbellResume slice ring w else Instr.sqDoorbell slice ring w) s = .next (s.sqDoorbell slice ring w) := by
  split
  · rename_i h
    change execSqDoorbellResume slice ring w s = _
    rw [execSqDoorbellResume, State.whenAlive_alive halive, if_pos h]
  · rename_i h
    change execSqDoorbell slice ring w s = _
    rw [execSqDoorbell, State.whenAlive_alive halive, if_neg h]

theorem exec_cqDoorbell_alive : exec (.cqDoorbell slice ring w) s = .next (s.cqDoorbell slice ring w) := by
  change execCqDoorbell slice ring w s = _
  rw [execCqDoorbell, State.whenAlive_alive halive]

end Exec

/-- Settles O29: an accepted word is one change of its ring, with `RESUME` one more of `STATE`; any other is counted. -/
theorem sqDoorbells : Obligations.SqDoorbells := by
  unfold Obligations.SqDoorbells
  refine ⟨fun s slice ring r w halive hring hbusy => ?_, fun s slice ring w halive hnone => ?_⟩
  · have hexec := exec_sqDoorbell_either halive slice ring w
    dsimp only
    rw [hexec]
    refine ⟨fun hgood hplain => ?_, fun hgood hresume hhalted hclient => ?_, fun hbad hint => ?_⟩
    · have hno : (bit w.toNat 63 && r.state == .halted) = false := by
        rw [bit_getLsbD]
        rcases hplain with h | h
        · rw [h, Bool.false_and]
        · rw [beq_eq_false_iff_ne.mpr h, Bool.and_false]
      rw [State.sqDoorbell_taken hring hbusy hgood, hno, if_neg (by simp)]
      obtain ⟨honly, hother, hsame⟩ := State.touchRing_only hring (f := fun r => { r with sqProd := w.toNat % 2 ^ 32 }) ⟨rfl, rfl⟩
      exact ⟨_, rfl, honly, hother, hsame⟩
    · rw [State.sqDoorbell_taken hring hbusy hgood, bit_getLsbD, hresume, hhalted, if_pos (by decide)]
      obtain ⟨honly, -, hsame⟩ := State.touchRing_only hring (f := fun r => { r with sqProd := w.toNat % 2 ^ 32 }) ⟨rfl, rfl⟩
      set u := (s.touchRing slice ring (fun r => { r with sqProd := w.toNat % 2 ^ 32 })) with hu
      have hdropped := State.dropAhead_ring u slice ring
      rw [hsame, Option.map_some] at hdropped
      have hclient' : (u.dropAhead slice ring).clientRing r := by rw [honly]; exact hclient
      rw [State.ringState_toClient hdropped hclient' (by simp [hhalted])]
      refine ⟨_, _, rfl, State.statusToClient_ring (State.ring_setRing_same hdropped (State.ring_key hring).1 (State.ring_key hring).2),
        rfl, rfl, rfl, rfl, ?_, ?_⟩
      · change u.descs = s.descs
        rw [honly]
      · change u.mem = s.mem
        rw [honly]
    · rw [State.sqDoorbell_rejected hring hbad]
      exact ⟨_, rfl, State.dbReject_ring hring w, State.dbReject_descs hring w, State.dbReject_seq hring w hint⟩
  · have hsq : s.sqDoorbell slice ring w = s.cqDoorbell slice ring w := by simp only [State.sqDoorbell, State.cqDoorbell, hnone]
    have heither := exec_sqDoorbell_either halive slice ring w
    rw [hsq, ← exec_cqDoorbell_alive halive] at heither
    refine ⟨⟨s.dbNowhere, ?_, s.incSat_onlyWords f_RING_ERR_DB_REJECTS (by decide)⟩, fun h => ?_, fun h => ?_⟩
    · rw [exec_cqDoorbell_alive halive, State.cqDoorbell, hnone]
    · rwa [h, if_neg (by simp)] at heither
    · rwa [h, if_pos rfl] at heither

/-- Settles O30: an accepted value is one change of its ring, and a value that is not leaves both counts. -/
theorem cqDoorbellWrites : Obligations.CqDoorbellWrites := by
  unfold Obligations.CqDoorbellWrites
  intro s slice ring r w halive hring hbusy c good
  rw [exec_cqDoorbell_alive halive]
  have hform : good ↔ ¬ (bits w.toNat 32 32 ≠ 0 ∨ (!decide (sub32 c r.cqCons ≤ sub32 r.cqProd r.cqCons)) = true ∨ s.fldAt f_SLC_STATUS_BUSY slice = 1) := by
    have hword := w.isLt
    have hhigh : bits w.toNat 32 32 = 0 ↔ w.toNat < 2 ^ 32 := by
      rw [bits]
      omega
    have hmod : two32 = 2 ^ 32 := rfl
    simp [good, sub32, hbusy, hhigh, hmod]
  refine ⟨fun hgood => ?_, fun hbad => ?_⟩
  · have hc : bits w.toNat 0 32 = c := by simp [bits, c]
    simp only [State.cqDoorbell, hring, hc, if_neg (hform.mp hgood)]
    obtain ⟨honly, hother, hsame⟩ := State.touchRing_only hring (f := fun r => { r with cqCons := c }) ⟨rfl, rfl⟩
    exact ⟨_, rfl, honly, hother, hsame⟩
  · have hc : bits w.toNat 0 32 = c := by simp [bits, c]
    simp only [State.cqDoorbell, hring, hc, if_pos (not_not.mp (mt hform.mpr hbad))]
    exact ⟨_, _, rfl, State.dbReject_ring hring w, rfl, rfl⟩

end Sys2Proof.Machine

/-! Interrupt messages (R99, R100, R508): the coalescing timer of a ring, and writes of the vector table. -/

namespace Sys2Proof.Machine

/-! ### A message on a vector (R462, R508) -/

/-- An interrupt message leaves for the client of a port, which is to acknowledge it. -/
def State.interruptTo (s : State) (k x v : Nat) : State :=
  { s with
    queue := s.queue ++ [⟨12, k, .kl (mkKl 0x44 4 s.nextTag (s.fldAt f_SLV_LO_ADDR (256 * x + v) * 4) (x + 256 * v)
      (leBytes 4 (s.fldAt f_SLV_HI_DATA (256 * x + v)))), none⟩]
    nextTag := s.nextTag + 1
    klOuts := s.klOuts ++ [{ port := k, tag := s.nextTag, why := .interrupt x v, left := 0, got := [], bad := [] }] }

section Message
variable {s : State} {x v k : Nat}

theorem State.message_off (h : s.fldAt f_SLV_HI_ENABLE (256 * x + v) = 0) : s.message x v = s.incSatAt f_SLC_STATUS_INT_OFF_DROPS x := by
  rw [State.message]
  exact if_pos h

variable (hon : s.fldAt f_SLV_HI_ENABLE (256 * x + v) = 1)
include hon

theorem State.message_masked (h : s.fldAt f_SLV_HI_MASK (256 * x + v) = 1) : s.message x v = s.setFldAt f_SLV_HI_PENDING (256 * x + v) 1 := by
  simp only [State.message, hon, h, one_ne_zero, if_false, if_true]

theorem State.message_sent (hmask : s.fldAt f_SLV_HI_MASK (256 * x + v) = 0) (hport : s.fldAt f_SLV_HI_PORT (256 * x + v) = k)
    (hbound : s.bound k = some x) (hup : s.klUp k = true) (hwindow : s.inWindow k (s.fldAt f_SLV_LO_ADDR (256 * x + v) * 4) 4 = true) :
    s.message x v = s.interruptTo k x v := by
  simp [State.message, hon, hmask, hport, hbound, hup, hwindow, State.sendKl, State.enqueue, State.interruptTo]

end Message

/-! ### The timer of a ring (R99, R100) -/

section Timer
variable {s : State} {x n : Nat} {r : Ring} (halive : s.alive = true) (hring : s.ring x n = some r) (hv : r.vector < 256)
  (hopen : r.uncovered ≠ 0)
include halive hring hv hopen

theorem exec_coalesceTimer : exec (.coalesceTimerExpiry x n) s = .next
    (if s.ringOwes x n && s.fldAt f_SLV_HI_PORT (256 * x + r.vector) != r.port then s.setRing { r with intDue := true }
     else (s.setRing { r with uncovered := 0, intDue := false }).message x r.vector) := by
  have hsome : r.vector ≠ 0xFFFF := by omega
  change execCoalesceTimerExpiry x n s = _
  simp only [execCoalesceTimerExpiry, State.whenAlive_alive halive, State.ringInterrupt, hring, hopen, hsome, false_and, or_false, if_false]

end Timer

/-! ### Writes of the vector table (R507, R508) -/

/-- The upper word of an entry of the vector table. -/
def slvHi : RegSpec := { name := "SLV_HI", off := 0x100008, stride := 0x10, count := 16384, fields := [
  ⟨"DATA", 32, 32, .rw, 0⟩, ⟨"PORT", 16, 2, .rw, 0⟩, ⟨"PENDING", 2, 1, .ro, 0⟩, ⟨"MASK", 1, 1, .rw, 0⟩, ⟨"ENABLE", 0, 1, .rw, 0⟩] }

theorem slvHi_mem : slvHi ∈ regTable := by decide +kernel

/-- No other register stands at the upper words of the vector table. -/
theorem regTable_beside_slvHi :
    regTable.all (fun r => r == slvHi || decide (r.off + r.stride * r.count ≤ 0x100000) || decide (0x140000 ≤ r.off) ||
      decide (r.off = 0x100000 ∧ r.stride = 0x10)) = true := by
  decide +kernel

theorem findReg_slvHi {i : Nat} (hi : i < 16384) : findReg (0x100000 + 16 * i + 8) = some (slvHi, i) := by
  have hfound : (findReg (0x100000 + 16 * i + 8)).isSome = true := by
    rw [findReg, List.findSome?_isSome_iff]
    refine ⟨slvHi, slvHi_mem, ?_⟩
    rw [if_pos (by simp only [slvHi]; omega)]
    rfl
  obtain ⟨⟨r, j⟩, hrj⟩ := Option.isSome_iff_exists.mp hfound
  obtain ⟨hoff, hj⟩ := findReg_offset hrj
  have hbeside := List.all_eq_true.mp regTable_beside_slvHi r (findReg_mem hrj)
  simp only [Bool.or_eq_true, beq_iff_eq, decide_eq_true_eq] at hbeside
  rcases hbeside with ((rfl | hlow) | hhigh) | ⟨hlo, hstride⟩
  · rw [hrj]
    simp only [slvHi] at hoff
    rw [show j = i by omega]
  · have := Nat.mul_le_mul_left r.stride hj.le
    omega
  · omega
  · rw [hlo, hstride] at hoff
    omega

/-- What a write of an upper word leaves in its fields; the word alone changes. -/
theorem State.vectorPlain (s : State) {i : Nat} (hi : i < 16384) (w : Word) :
    ∃ t, s.plainWrite (0x100000 + 16 * i + 8) w (fun _ _ => true) = t ∧ s.OnlyWords t [0x100000 + 16 * i + 8] ∧
      t.fldAt f_SLV_HI_DATA i = f_SLV_HI_DATA.get w ∧ t.fldAt f_SLV_HI_PORT i = f_SLV_HI_PORT.get w ∧
      t.fldAt f_SLV_HI_PENDING i = s.fldAt f_SLV_HI_PENDING i ∧ t.fldAt f_SLV_HI_MASK i = f_SLV_HI_MASK.get w ∧
      t.fldAt f_SLV_HI_ENABLE i = f_SLV_HI_ENABLE.get w := by
  obtain ⟨hfields, hothers, honly⟩ := State.plainWrite_fields s _ i w (fun _ _ => true) slvHi (findReg_slvHi hi)
  have haddr : 0x100000 + 16 * i + 8 = 0x100008 + 0x10 * i := by omega
  rw [haddr] at hfields hothers honly ⊢
  simp only [slvHi, List.forall_mem_cons] at hfields
  obtain ⟨hdata, hport, hpending, hmask, henable, -⟩ := hfields
  exact ⟨_, rfl, ⟨honly, fun o ho => hothers o (by simpa using ho)⟩, hdata, hport, hpending, hmask, henable⟩

/-- A ring of the vector whose records in client memory are unacknowledged, while its message names another port (R100). -/
def State.owingOn (s : State) (x v k : Nat) (r : Ring) : Bool := r.slice == x && r.vector == v && s.ringOwes r.slice r.num && k != r.port

/-- A held message is judged again: it is owed while records that it covers are unacknowledged (R100, R508). -/
def State.released (s : State) (x v k : Nat) : State :=
  if s.rings.any (s.owingOn x v k) then { s with rings := upd s.rings (s.owingOn x v k) (fun r => { r with intDue := true }) } else s.message x v

section VectorWrite
variable {s : State} (halive : s.alive = true) {x v : Nat} (hx : x < 64) (hv : v < 256) (w : Word)
include halive hx hv

/-- A write of an upper word: its fields, then the held message when its mask is cleared. -/
theorem exec_vectorEntryWrite {t : State} (ht : s.plainWrite (0x100000 + 16 * (256 * x + v) + 8) w (fun _ _ => true) = t) :
    exec (.vectorEntryWrite (0x100000 + 16 * (256 * x + v) + 8) w) s = .next
      (if s.fldAt f_SLV_HI_MASK (256 * x + v) = 1 ∧ f_SLV_HI_MASK.get w = 0 ∧ s.fldAt f_SLV_HI_PENDING (256 * x + v) = 1
       then (t.setFldAt f_SLV_HI_PENDING (256 * x + v) 0).released x v (f_SLV_HI_PORT.get w) else t) := by
  obtain ⟨t, ht', -, -, hport, hpending, hmask, -⟩ := s.vectorPlain (i := 256 * x + v) (by omega) w
  obtain rfl := ht'.symm.trans ht
  have hin : ¬ (0x100000 + 16 * (256 * x + v) + 8 < 0x100000 ∨ 0x140000 ≤ 0x100000 + 16 * (256 * x + v) + 8 ∨
      (0x100000 + 16 * (256 * x + v) + 8) % 8 ≠ 0) := by omega
  have hi : (0x100000 + 16 * (256 * x + v) + 8 - 0x100000) / 16 = 256 * x + v := by omega
  have hhi : (0x100000 + 16 * (256 * x + v) + 8) % 16 = 8 := by omega
  have hport' : (t.setFldAt f_SLV_HI_PENDING (256 * x + v) 0).fldAt f_SLV_HI_PORT (256 * x + v) = f_SLV_HI_PORT.get w := by
    rw [State.fldAt_setFldAt_ne _ _ _ _ _ _ (by decide) (.inr (.inr (by decide))), hport]
  have hslice : (256 * x + v) / 256 = x := by omega
  have hvec : (256 * x + v) % 256 = v := by omega
  change execVectorEntryWrite _ w s = _
  rw [execVectorEntryWrite, State.whenAlive_alive halive, State.vectorWrite, if_neg hin, ht]
  simp only [hi, hhi, true_and, hmask, hpending, hport', hslice, hvec]
  rfl

end VectorWrite

/-- Settles O13: the timer's message and the write's go by the entry's fields, unless the interrupt is owed. -/
theorem interrupts : Obligations.Interrupts := by
  unfold Obligations.Interrupts
  refine ⟨fun s x n v k r halive hx hv hring hvector hopen => ?_, fun s x v k w halive hx hv => ?_⟩
  · subst hvector
    obtain ⟨hslice, -⟩ := State.ring_key hring
    intro i free
    rw [exec_coalesceTimer halive hring hv hopen]
    have howed : (s.ringOwes x n && s.fldAt f_SLV_HI_PORT i != r.port) = true ↔ ¬ free := by simp [free]
    refine ⟨fun hno => by rw [if_pos (howed.mpr hno)], fun hfree hoff => ?_, fun hfree hon hmask => ?_, fun hfree hon hmask hport hbound hup hwindow => ?_⟩
    all_goals rw [if_neg (fun hc => howed.mp hc hfree)]
    · rw [State.message_off (s := s.setRing _) hoff]
      refine ⟨_, rfl, ?_, rfl⟩
      exact (State.fldAt_setFldAt _ f_SLC_STATUS_INT_OFF_DROPS x _ (by decide)).trans
        (Nat.mod_eq_of_lt (by simp only [f_SLC_STATUS_INT_OFF_DROPS]; omega))
    · rw [State.message_masked (s := s.setRing _) hon hmask]
      exact ⟨_, rfl, State.fldAt_setFldAt _ f_SLV_HI_PENDING i 1 (by decide), rfl⟩
    · rw [State.message_sent (s := s.setRing _) hon hmask hport hbound hup hwindow]
      exact ⟨_, rfl, rfl⟩
  · intro i off owing
    obtain ⟨t, ht, ⟨honly, hwords⟩, hdata, hport', hpending, hmask, henable⟩ := s.vectorPlain (i := i) (by omega) w
    rw [exec_vectorEntryWrite halive hx hv w ht]
    set u := t.setFldAt f_SLV_HI_PENDING i 0 with hu
    have howing (r : Ring) : u.owingOn x v k r = true ↔ owing r := by
      have houts : u.klOuts = s.klOuts := by rw [hu, State.setFldAt_klOuts, honly]
      simp [State.owingOn, State.ringOwes, houts, owing, and_assoc]
    have hrings : u.rings = s.rings := by rw [hu, State.setFldAt_rings, honly]
    have hcleared : u.fldAt f_SLV_HI_PENDING i = 0 := State.fldAt_setFldAt _ f_SLV_HI_PENDING i 0 (by decide)
    have hfield (f : Fld) (hf : f = f_SLV_HI_DATA ∨ f = f_SLV_HI_PORT ∨ f = f_SLV_HI_MASK ∨ f = f_SLV_HI_ENABLE) : u.fldAt f i = t.fldAt f i := by
      rcases hf with rfl | rfl | rfl | rfl <;> exact State.fldAt_setFldAt_ne _ f_SLV_HI_PENDING _ i i 0 (by decide) (.inr (by decide))
    refine ⟨fun hnone hm hp hw hon hk hbound hup hwindow => ?_, fun hsome hm hp hw hk => ?_, fun hnot => ?_⟩
    · have hk4 : k < 4 := hk ▸ Fld.get_lt f_SLV_HI_PORT w
      have hword {o : Nat} (ho : o < 0x100008 + 0x10 * i) : u.word o = s.word o := by
        rw [hu, State.word_setFldAt_ne _ _ _ _ (by simp only [Fld.addr, f_SLV_HI_PENDING]; omega), hwords o (by simp only [List.mem_singleton]; omega)]
      have hport : u.word (0xB0000 + 0x8 * k) = s.word (0xB0000 + 0x8 * k) := hword (by omega)
      have haddr : u.fldAt f_SLV_LO_ADDR i = s.fldAt f_SLV_LO_ADDR i := congrArg f_SLV_LO_ADDR.get (hword (by simp only [Fld.addr, f_SLV_LO_ADDR]; omega))
      have hup' : u.klUp k = true := (congrArg (fun y => f_KL_PORT_STATE.get y == 2) hport).trans hup
      have hbound' : u.bound k = some x :=
        (congrArg (fun y => if f_KL_PORT_BOUND_SLICE.get y < 64 then some (f_KL_PORT_BOUND_SLICE.get y) else none) hport).trans hbound
      have hclients : u.klClients = s.klClients := by rw [hu, State.setFldAt_klClients, honly]
      have hwindow' : u.inWindow k (u.fldAt f_SLV_LO_ADDR i * 4) 4 = true := by
        rw [haddr, State.inWindow, State.klClient, hclients]
        exact hwindow
      have hquiet : ¬ u.rings.any (u.owingOn x v (f_SLV_HI_PORT.get w)) = true := by
        simp only [List.any_eq_true, hk, howing, hrings, not_exists, not_and]
        exact hnone
      have hmask' : u.fldAt f_SLV_HI_MASK i = 0 := by rw [hfield _ (by simp), hmask, hw]
      rw [if_pos ⟨hm, hw, hp⟩, State.released, if_neg hquiet, State.message_sent (k := k) (by rw [hfield _ (by simp), henable, hon]) hmask'
        (by rw [hfield _ (by simp), hport', hk]) hbound' hup' hwindow']
      refine ⟨_, rfl, hcleared, hmask', ?_⟩
      have htag : u.nextTag = s.nextTag := by rw [hu, State.setFldAt_nextTag, honly]
      have hqueue : u.queue = s.queue := by rw [hu, State.setFldAt_queue, honly]
      have hdata' : u.fldAt f_SLV_HI_DATA i = f_SLV_HI_DATA.get w := by rw [hfield _ (by simp), hdata]
      simp only [State.interruptTo, hqueue, htag, ← hdata', ← haddr]
      rfl
    · obtain ⟨r, hr, how⟩ := hsome
      have hany : u.rings.any (u.owingOn x v (f_SLV_HI_PORT.get w)) = true :=
        List.any_eq_true.mpr ⟨r, by rw [hrings]; exact hr, by rw [hk]; exact (howing r).mpr how⟩
      rw [if_pos ⟨hm, hw, hp⟩, State.released, if_pos hany, hk]
      refine ⟨_, rfl, hcleared, ?_, ?_, fun j hj => ?_⟩
      · change u.queue = s.queue
        rw [hu, State.setFldAt_queue, honly]
      · simp [upd, hrings]
      · refine ⟨if u.owingOn x v k s.rings[j] then { s.rings[j] with intDue := true } else s.rings[j], ?_, fun how => ?_, fun hno => ?_⟩
        · simp only [upd, hrings, List.getElem?_map, List.getElem?_eq_getElem hj, Option.map_some]
        · rw [if_pos ((howing _).mpr how)]
        · rw [if_neg (mt (howing _).mp hno)]
    · rw [if_neg (fun ⟨_, _, hp⟩ => absurd (hnot.symm.trans hp) (by decide))]
      exact ⟨t, rfl, ⟨honly, hwords⟩, hmask, henable, hport', hdata⟩

end Sys2Proof.Machine

/-! Ring commands (R64 to R68): what a request answers, the ring that `CREATE` makes, and the two destructions. -/

namespace Sys2Proof.Machine

/-! ### The answer of a ring command (R66, R68) -/

theorem State.cmdStatus_onlyWords (s : State) (status field : Nat) : s.OnlyWords (s.cmdStatus status field) [f_RING_CMD_STATUS_STATUS.addr 0] := by
  refine ⟨rfl, fun o ho => ?_⟩
  have ho' : o ≠ f_RING_CMD_STATUS_STATUS.addr 0 := by simpa using ho
  rw [State.cmdStatus, State.word_setFld_ne _ f_RING_CMD_STATUS_FIELD _ ho', State.word_setFld_ne _ _ _ ho']

theorem State.cmdStatus_status (s : State) (status field : Nat) : (s.cmdStatus status field).fld f_RING_CMD_STATUS_STATUS = status % 256 := by
  rw [State.cmdStatus, State.fld_setFld_ne _ f_RING_CMD_STATUS_FIELD _ _ (by decide) (.inr (by decide))]
  exact State.fld_setFld s f_RING_CMD_STATUS_STATUS status (by decide)

theorem State.cmdStatus_field (s : State) (status field : Nat) :
    (s.cmdStatus status field).fld f_RING_CMD_STATUS_FIELD = (if status = stOk then 0 else field) % 256 :=
  State.fld_setFld _ f_RING_CMD_STATUS_FIELD _ (by decide)

theorem State.cmdStatus_busy (s : State) (status field : Nat) :
    (s.cmdStatus status field).fld f_RING_CMD_STATUS_BUSY = s.fld f_RING_CMD_STATUS_BUSY := by
  rw [State.cmdStatus, State.fld_setFld_ne _ f_RING_CMD_STATUS_FIELD _ _ (by decide) (.inr (by decide)),
    State.fld_setFld_ne _ f_RING_CMD_STATUS_STATUS _ _ (by decide) (.inr (by decide))]

theorem State.cmdStatus_stands (s : State) (status field : Nat) : s.WorkStands (s.cmdStatus status field) :=
  ((State.WorkStands.refl s).setFld _ _).setFld _ _

/-- No register of a port is a register of the ring commands. -/
theorem portState_ne_ringCmd (port : Nat) : f_KL_PORT_STATE.addr port ≠ f_RING_CMD_STATUS_STATUS.addr 0 := by
  simp only [Fld.addr, f_KL_PORT_STATE, f_RING_CMD_STATUS_STATUS]
  omega

section Request
variable {s : State} {cmd addr : Nat}

theorem State.ringRequest_busy (h : s.flag f_RING_CMD_STATUS_BUSY = true) :
    s.ringRequest cmd addr = .error (s.incSat f_RING_ERR_CMD_COLLISIONS) := by
  simp only [State.ringRequest, h, if_true]

variable (hidle : s.flag f_RING_CMD_STATUS_BUSY = false)
include hidle

theorem State.ringRequest_outside (h : s.plainRange (64 * addr) 64 = false) : s.ringRequest cmd addr = .error (s.cmdStatus eRange 0xFF) := by
  rw [Nat.mul_comm] at h
  simp [State.ringRequest, hidle, h]

theorem State.ringRequest_read {g : Got} (h : s.plainRange (64 * addr) 64 = true) (hread : s.feRead (64 * addr) 64 = .ok g)
    (hclean : g.poison = none) : s.ringRequest cmd addr = .ok g.bytes := by
  rw [Nat.mul_comm] at h hread
  simp [State.ringRequest, hidle, h, hread, hclean]

end Request

/-! ### `CREATE` (R64 to R67) -/

theorem exec_ringCreate_alive {s : State} (halive : s.alive = true) (addr : Nat) : exec (.ringCreate addr) s = .next (s.ringCreate addr) := by
  change execRingCreate addr s = _
  rw [execRingCreate, State.whenAlive_alive halive]

theorem State.ringCreate_ended {s t : State} {addr : Nat} (h : s.ringRequest 1 addr = .error t) : s.ringCreate addr = t := by
  rw [State.ringCreate, h]

theorem State.ringCreate_refused {s : State} {addr : Nat} {q : List Byte} (h : s.ringRequest 1 addr = .ok q) {c : Bool × Nat × Nat}
    (hc : (s.ringChecks q).find? (fun c => !c.1) = some c) : s.ringCreate addr = s.cmdStatus c.2.1 c.2.2 := by
  simp only [State.ringCreate, h, hc]

/-- The ring that a request makes. -/
def ringOf (q : List Byte) : Ring := {
  slice := leAt q 0 1, num := leAt q 1 1, log2sq := leAt q 2 1, log2cq := leAt q 3 1, fmt := min (leAt q 5 1) 3, vector := leAt q 6 2,
  sqAddr := leAt q 8 8, cqAddr := leAt q 16 8, stAddr := leAt q 24 8, loc := leAt q 32 1, port := leAt q 33 1, coalCount := leAt q 34 2,
  coalNs := leAt q 36 4, weight := leAt q 40 1, cqNode := leAt q 42 2, sqCons := 0, sqProd := 0, cqProd := 0, cqCons := 0, state := .running,
  dbRejects := 0, uncovered := 0, windowErr := false, stopFence := none, destroying := 0, stDirty := false, stCons := 0, pre := [] }

/-- The state with that ring, before its status block is written. -/
def State.withRing (s : State) (q : List Byte) : State :=
  { (s.cmdStatus stOk 0).setFld f_RING_CMD_STATUS_FORMAT (ringOf q).fmt with rings := s.rings ++ [ringOf q] }

theorem State.ringCreate_made {s : State} {addr : Nat} {q : List Byte} (h : s.ringRequest 1 addr = .ok q)
    (hc : (s.ringChecks q).find? (fun c => !c.1) = none) :
    s.ringCreate addr = (s.withRing q).writeStatus (ringOf q).slice (ringOf q).num := by
  simp only [State.ringCreate, h, hc]
  rfl

/-- A client that is reached stays reached while its port and window stand. -/
theorem State.clientRing.congr {s t : State} {r : Ring} (h : s.clientRing r) (hclients : t.klClients = s.klClients)
    (hword : t.word (f_KL_PORT_STATE.addr r.port) = s.word (f_KL_PORT_STATE.addr r.port)) : t.clientRing r := by
  have hwindow (a n : Nat) : t.inWindow r.port a n = s.inWindow r.port a n := by simp only [State.inWindow, State.klClient, hclients]
  obtain ⟨hloc, hup, hbound, hstatus, hqueue⟩ := h
  refine ⟨hloc, ?_, ?_, ?_, fun i => ?_⟩
  · exact (congrArg (fun y => f_KL_PORT_STATE.get y == 2) hword).trans hup
  · exact (congrArg (fun y => if f_KL_PORT_BOUND_SLICE.get y < 64 then some (f_KL_PORT_BOUND_SLICE.get y) else none) hword).trans hbound
  · rw [hwindow]; exact hstatus
  · rw [hwindow]; exact hqueue i

/-- A ring of the same place at the same client is reached too. -/
theorem State.clientRing.setRing {s : State} {r : Ring} (h : s.clientRing r) (q : Ring) : (s.setRing q).clientRing r := h

/-- Each place of a range in a client's window lies in it too. -/
theorem State.inWindow_part {s : State} {k a n b m : Nat} (h : s.inWindow k a n = true) (hlo : a ≤ b) (hhi : b + m ≤ a + n) : s.inWindow k b m = true := by
  unfold State.inWindow at h ⊢
  split at h
  · simp only [decide_eq_true_eq] at h ⊢
    omega
  · cases h

section Made
variable {s : State} {q : List Byte} (hc : (s.ringChecks q).find? (fun c => !c.1) = none)
include hc

theorem State.ringChecks_passed {c : Bool × Nat × Nat} (hm : c ∈ s.ringChecks q) : c.1 = true := by
  simpa using List.find?_eq_none.mp hc c hm

theorem State.ringChecks_unused : s.ring (leAt q 0 1) (leAt q 1 1) = none := by
  have h := State.ringChecks_passed hc (c := (decide (leAt q 1 1 < 16) && (s.ring (leAt q 0 1) (leAt q 1 1)).isNone, eRange, 1))
    (by simp [State.ringChecks])
  simpa using (Bool.and_eq_true_iff.mp h).2

/-- A request for a ring in client memory that passes names a client that is reached (R66, R453). -/
theorem State.ringChecks_client (hloc : leAt q 32 1 = 1) : s.clientRing (ringOf q) := by
  have hattached := State.ringChecks_passed hc (c := (leAt q 32 1 != 1 ||
    (decide (leAt q 33 1 < 4) && s.klUp (leAt q 33 1) && s.bound (leAt q 33 1) == some (leAt q 0 1)), ePerm, 33)) (by simp [State.ringChecks])
  simp only [hloc, bne_self_eq_false, Bool.false_or, Bool.and_eq_true, beq_iff_eq] at hattached
  obtain ⟨⟨hport, hup⟩, hbound⟩ := hattached
  have hrecords := State.ringChecks_passed hc (c := (leAt q 32 1 != 1 || !(decide (leAt q 33 1 < 4) && s.klUp (leAt q 33 1)) ||
    s.inWindow (leAt q 33 1) (leAt q 16 8) (32 * 2 ^ leAt q 3 1), eRange, 16)) (by simp [State.ringChecks])
  have hstatus := State.ringChecks_passed hc (c := (leAt q 32 1 != 1 || !(decide (leAt q 33 1 < 4) && s.klUp (leAt q 33 1)) ||
    s.inWindow (leAt q 33 1) (leAt q 24 8) 64, eRange, 24)) (by simp [State.ringChecks])
  simp only [hloc, bne_self_eq_false, hport, hup, Bool.and_self, Bool.not_true, Bool.or_self, Bool.false_or] at hrecords hstatus
  refine ⟨hloc, hup, hbound, hstatus, fun i => State.inWindow_part hrecords (Nat.le_add_right _ _) ?_⟩
  have hslot := Nat.mod_lt i (Nat.two_pow_pos (leAt q 3 1))
  change leAt q 16 8 + 32 * (i % 2 ^ leAt q 3 1) + 32 ≤ leAt q 16 8 + 32 * 2 ^ leAt q 3 1
  omega

/-- The ring stands in the state that holds it. -/
theorem State.withRing_ring : (s.withRing q).ring (ringOf q).slice (ringOf q).num = some (ringOf q) := by
  have hnone : s.rings.find? (fun r => r.slice == (ringOf q).slice && r.num == (ringOf q).num) = none := State.ringChecks_unused hc
  simp [State.ring, State.withRing, List.find?_append, hnone]

/-- Its first status block leaves the new ring as it was made. -/
theorem State.withRing_rings : ((s.withRing q).statusToClient (ringOf q)).rings = s.rings ++ [ringOf q] := by
  have hnone := List.find?_eq_none.mp (State.ringChecks_unused hc)
  have hold : upd s.rings (fun r => r.slice == (ringOf q).slice && r.num == (ringOf q).num) (fun _ => ringOf q) = s.rings :=
    (List.map_congr_left fun r hr => if_neg (hnone r hr)).trans (List.map_id' _)
  change upd (s.rings ++ [ringOf q]) (fun r => r.slice == (ringOf q).slice && r.num == (ringOf q).num) (fun _ => ringOf q) = _
  rw [upd, List.map_append, ← upd, hold]
  simp

variable (hloc : leAt q 32 1 = 1)
include hloc

theorem State.writeStatus_withRing : (s.withRing q).writeStatus (ringOf q).slice (ringOf q).num = (s.withRing q).statusToClient (ringOf q) := by
  refine State.writeStatus_toClient (State.withRing_ring hc) ((State.ringChecks_client hc hloc).congr rfl ?_)
  have hfar := portState_ne_ringCmd (ringOf q).port
  exact (State.word_setFld_ne _ f_RING_CMD_STATUS_FORMAT _ hfar).trans ((s.cmdStatus_onlyWords stOk 0).2 _ (by simpa using hfar))

end Made

/-- A ring in client memory that is made: its answer, and what stands. -/
theorem State.withRing_format (s : State) (q : List Byte) (r : Ring) :
    ((s.withRing q).statusToClient r).fld f_RING_CMD_STATUS_STATUS = stOk ∧
      ((s.withRing q).statusToClient r).fld f_RING_CMD_STATUS_FORMAT = (ringOf q).fmt := by
  have hregs : ((s.withRing q).statusToClient r).regs = ((s.cmdStatus stOk 0).setFld f_RING_CMD_STATUS_FORMAT (ringOf q).fmt).regs := rfl
  have hword := State.word_of_regs hregs
  have hfmt : (ringOf q).fmt < 256 := by
    change min (leAt q 5 1) 3 < 256
    omega
  constructor
  · rw [State.fld, State.fldAt, hword]
    exact (State.fld_setFld_ne (s.cmdStatus stOk 0) f_RING_CMD_STATUS_FORMAT f_RING_CMD_STATUS_STATUS _ (by decide) (.inr (by decide))).trans
      (State.cmdStatus_status ..)
  · rw [State.fld, State.fldAt, hword]
    exact (State.fld_setFld _ f_RING_CMD_STATUS_FORMAT _ (by decide)).trans (Nat.mod_eq_of_lt hfmt)

/-! ### `DESTROY_DRAIN` and `DESTROY_ABORT` (R67) -/

/-- Bytes inside a range of zeros are zeros. -/
theorem zeros_part {bs : List Byte} {o n a m : Nat} (h : zeros bs o n = true) (hlo : o ≤ a) (hhi : a + m ≤ o + n) : zeros bs a m = true := by
  refine List.all_eq_true.mpr fun b hb => List.all_eq_true.mp h b ?_
  have hpart : (bs.drop a).take m = (((bs.drop o).take n).drop (a - o)).take m := by
    rw [List.drop_take, List.take_take, List.drop_drop, Nat.min_eq_left (by omega), Nat.add_sub_cancel' hlo]
  rw [hpart] at hb
  exact List.mem_of_mem_drop (List.mem_of_mem_take hb)

theorem destroyZero_none {q : List Byte} (h : zeros q 2 62 = true) : destroyZero.find? (fun x => !zeros q x.1 x.2) = none := by
  have hin : destroyZero.all (fun x => decide (2 ≤ x.1) && decide (x.1 + x.2 ≤ 64)) = true := by decide
  refine List.find?_eq_none.mpr fun x hx => ?_
  have hbounds := List.all_eq_true.mp hin x hx
  simp only [Bool.and_eq_true, decide_eq_true_eq] at hbounds
  simp [zeros_part h hbounds.1 hbounds.2]

/-- The ring that a destruction has stopped (R67). -/
def Ring.beingDestroyed (r : Ring) (mode : Nat) : Ring := { r with destroying := mode, stopFence := none, state := .stopping }

/-- The command of a destruction is busy, with `OK` (log 82). -/
def State.destroyBusy (s : State) : State :=
  ((s.setFld f_RING_CMD_STATUS_BUSY 1).setFld f_RING_CMD_STATUS_STATUS stOk).setFld f_RING_CMD_STATUS_FIELD 0

theorem State.destroyBusy_onlyWords (s : State) : s.OnlyWords s.destroyBusy [f_RING_CMD_STATUS_STATUS.addr 0] := by
  refine ⟨rfl, fun o ho => ?_⟩
  have ho' : o ≠ f_RING_CMD_STATUS_STATUS.addr 0 := by simpa using ho
  rw [State.destroyBusy, State.word_setFld_ne _ f_RING_CMD_STATUS_FIELD _ ho', State.word_setFld_ne _ _ _ ho',
    State.word_setFld_ne _ f_RING_CMD_STATUS_BUSY _ ho']

theorem State.destroyBusy_busy (s : State) : s.destroyBusy.fld f_RING_CMD_STATUS_BUSY = 1 := by
  rw [State.destroyBusy, State.fld_setFld_ne _ f_RING_CMD_STATUS_FIELD _ _ (by decide) (.inr (by decide)),
    State.fld_setFld_ne _ f_RING_CMD_STATUS_STATUS _ _ (by decide) (.inr (by decide))]
  exact State.fld_setFld s f_RING_CMD_STATUS_BUSY 1 (by decide)

/-- A destruction stops the consumption of a ring in client memory: the command is busy, and the status block says so. -/
def State.destroyStops (s : State) (r : Ring) (mode : Nat) : State :=
  ((s.destroyBusy.setRing { r with destroying := mode, stopFence := none }).setRing (r.beingDestroyed mode)).statusToClient
    (r.beingDestroyed mode)

theorem State.destroyStops_busy (s : State) (r : Ring) (mode : Nat) : (s.destroyStops r mode).fld f_RING_CMD_STATUS_BUSY = 1 := by
  have hregs : (s.destroyStops r mode).regs = s.destroyBusy.regs := rfl
  rw [State.fld, State.fldAt, State.word_of_regs hregs]
  exact s.destroyBusy_busy

theorem State.destroyStops_stands (s : State) (r : Ring) (mode : Nat) : (s.destroyStops r mode).descs = s.descs ∧
    (s.destroyStops r mode).mem = s.mem ∧ (s.destroyStops r mode).outReqs = s.outReqs := ⟨rfl, rfl, rfl⟩

section Destroy
variable {s : State} {addr slice ring mode : Nat} {q : List Byte} {r : Ring} (hring : s.ring slice ring = some r)
include hring

theorem State.destroyStops_ring : (s.destroyStops r mode).ring slice ring =
    some { r.beingDestroyed mode with stDirty := false, stCons := r.sqCons } := by
  obtain ⟨hslice, hnum⟩ := State.ring_key hring
  refine State.statusToClient_ring (State.ring_setRing_same (r := { r with destroying := mode, stopFence := none }) ?_ hslice hnum)
  exact State.ring_setRing_same (State.ring_congr (s := s) rfl slice ring |>.trans hring) hslice hnum

/-- The ring stops with a status block to its client. -/
theorem State.destroyStops_ringState (hclient : s.clientRing r) (hrun : r.state = .running) :
    (s.destroyBusy.setRing { r with destroying := mode, stopFence := none }).ringState slice ring .stopping = s.destroyStops r mode := by
  obtain ⟨hslice, hnum⟩ := State.ring_key hring
  have hset := State.ring_setRing_same (s := s.destroyBusy) (q := { r with destroying := mode, stopFence := none })
    ((State.ring_congr rfl slice ring).trans hring) hslice hnum
  have hbusy : s.destroyBusy.clientRing { r with destroying := mode, stopFence := none } :=
    State.clientRing.congr (r := { r with destroying := mode, stopFence := none }) hclient rfl
      (s.destroyBusy_onlyWords.2 _ (by simpa using portState_ne_ringCmd r.port))
  exact State.ringState_toClient hset (hbusy.setRing _) (by simp [hrun])

variable (hclient : s.clientRing r) (hrun : r.state = .running) (hreq : s.ringRequest mode addr = .ok q) (hslice : leAt q 0 1 = slice)
  (hnum : leAt q 1 1 = ring) (hzero : zeros q 2 62 = true) (hcfg : s.configured slice = true) (hbusy : s.fldAt f_SLC_STATUS_BUSY slice = 0)
include hclient hrun hreq hslice hnum hzero hcfg hbusy

/-- The destruction runs on the state whose ring has stopped; an abort first ends the ring's descriptors, and may be over with that. -/
theorem State.ringDestroy_taken {t : State} (ht : (if mode = 3 then
      forL ((s.destroyStops r mode).inFlight r) (s.destroyStops r mode) (fun d u => u.stopDesc d (abortFail 3)) else s.destroyStops r mode) = t) :
    s.ringDestroy addr mode = t ∨ mode = 3 ∧ s.ringDestroy addr mode = t.destroyDone slice ring := by
  have hstop := State.destroyStops_ringState (mode := mode) hring hclient hrun
  have hrunning : (r.state == .faulted) = false := by rw [hrun]; rfl
  rw [State.destroyBusy] at hstop
  simp only [State.ringDestroy, hreq, destroyZero_none hzero, hslice, hnum, hcfg, hbusy, beq_self_eq_true, Bool.and_self, Bool.not_true,
    Bool.false_eq_true, if_false, hring, hrunning, hstop, ht]
  split
  · split
    · next hquiet => exact .inr ⟨of_decide_eq_true (Bool.and_eq_true_iff.mp hquiet).1, rfl⟩
    · exact .inl rfl
  · exact .inl rfl

end Destroy

theorem exec_destroyDrain_alive {s : State} (halive : s.alive = true) (addr : Nat) : exec (.destroyDrain addr) s = .next (s.ringDestroy addr 2) := by
  change execDestroyDrain addr s = _
  rw [execDestroyDrain, State.whenAlive_alive halive]

theorem exec_destroyAbort_alive {s : State} (halive : s.alive = true) (addr : Nat) : exec (.destroyAbort addr) s = .next (s.ringDestroy addr 3) := by
  change execDestroyAbort addr s = _
  rw [execDestroyAbort, State.whenAlive_alive halive]

/-! ### The descriptors that an abort ends (R67) -/

/-- Ending a descriptor gives its outcome to the records of its key, writes no memory and asks for nothing. -/
theorem State.endDesc_only (s : State) (k : DKey) (status kind detail progress : Nat) :
    (s.endDesc k status kind detail progress).descs = upd s.descs (fun x => x.key == k) (fun x => x.endedWith status kind detail progress) ∧
      (s.endDesc k status kind detail progress).mem = s.mem ∧ (s.endDesc k status kind detail progress).outReqs = s.outReqs := by
  unfold State.endDesc
  dsimp only
  split
  · rw [State.gc_only]
    split <;> exact ⟨rfl, rfl, rfl⟩
  · split <;> exact ⟨rfl, rfl, rfl⟩

section Stop
variable {s : State} {d : Desc} {f : Fail} (hout : s.outReqs = [])
include hout

theorem State.stopDesc_ended (h : d.phase = .ended) : s.stopDesc d f = s := by
  simp [State.stopDesc, h, State.outstanding, hout]

theorem State.stopDesc_running (h : d.phase ≠ .ended) :
    (s.stopDesc d f).descs = upd s.descs (fun x => x.key == d.key) (fun x => x.endedWith f.status f.kind f.detail d.progress) ∧
      (s.stopDesc d f).mem = s.mem ∧ (s.stopDesc d f).outReqs = [] := by
  have hphase : (d.phase == .ended) = false := beq_eq_false_iff_ne.mpr h
  simp only [State.stopDesc, hphase, Bool.false_and, Bool.false_eq_true, if_false, State.doneUnits, hout, List.filter_nil, List.map_nil,
    List.filterMap_nil, List.foldl_nil, List.append_nil]
  exact State.endDesc_only ..

end Stop

/-- The outcome of an abort by a destruction. -/
def Desc.Aborted (e : Desc) : Prop := e.phase = .ended ∧ e.status = eAborted ∧ e.kind = 8 ∧ e.detail = 3

/-- What stopping the descriptors `l`, all of one ring, does to each descriptor. -/
structure AbortMap (slice ring : Nat) (l : List Desc) (h : Desc → Desc) : Prop where
  key (x : Desc) : (h x).key = x.key
  raw (x : Desc) : (h x).raw = x.raw
  other (x : Desc) : (x.key.slice ≠ slice ∨ x.key.ring ≠ ring) → h x = x
  outcome (x : Desc) : h x = x ∨ (h x).Aborted
  named (d : Desc) : d ∈ l → d.phase ≠ .ended → (h d).Aborted

theorem AbortMap.nil (slice ring : Nat) : AbortMap slice ring [] id where
  key _ := rfl
  raw _ := rfl
  other _ _ := rfl
  outcome _ := .inl rfl
  named _ h := nomatch h

/-- An ended descriptor in front is passed over. -/
theorem AbortMap.passed {slice ring : Nat} {d : Desc} {l : List Desc} {h : Desc → Desc} (hl : AbortMap slice ring l h) (hd : d.phase = .ended) :
    AbortMap slice ring (d :: l) h :=
  { hl with named := fun e he hrun => hl.named e ((List.mem_cons.mp he).resolve_left fun hc => hrun (hc ▸ hd)) hrun }

/-- Another in front takes the outcome of the abort first. -/
theorem AbortMap.stopped {slice ring : Nat} {d : Desc} {l : List Desc} {h : Desc → Desc} (hl : AbortMap slice ring l h)
    (hkey : d.key.slice = slice ∧ d.key.ring = ring) (p : Nat) :
    AbortMap slice ring (d :: l) (fun x => h (if x.key == d.key then x.endedWith eAborted 8 3 p else x)) := by
  have hkept (x : Desc) (hx : (h x).Aborted ∨ x.Aborted) : (h x).Aborted := by
    rcases hl.outcome x with heq | habort
    · exact hx.elim id fun hx => by rwa [heq]
    · exact habort
  constructor
  case key => intro x; rw [hl.key]; split <;> rfl
  case raw => intro x; rw [hl.raw]; split <;> rfl
  case other =>
    intro x hx
    have hne : (x.key == d.key) = false := by
      refine beq_eq_false_iff_ne.mpr fun hc => ?_
      rw [hc, hkey.1, hkey.2] at hx
      simp at hx
    simp only [hne, Bool.false_eq_true, if_false]
    exact hl.other x hx
  case outcome =>
    intro x
    split
    · exact .inr (hkept _ (.inr ⟨rfl, rfl, rfl, rfl⟩))
    · exact hl.outcome x
  case named =>
    intro e he hrun
    split
    · exact hkept _ (.inr ⟨rfl, rfl, rfl, rfl⟩)
    · next hne =>
      refine hl.named e ((List.mem_cons.mp he).resolve_left fun hc => hne ?_) hrun
      rw [hc, beq_self_eq_true]

/-- The loop over a ring's descriptors maps every descriptor, and writes no memory. -/
theorem State.abort_descs {slice ring : Nat} (l : List Desc) {s : State} (hout : s.outReqs = [])
    (hl : ∀ d ∈ l, d.key.slice = slice ∧ d.key.ring = ring) :
    (∃ h, AbortMap slice ring l h ∧ (forL l s (fun d t => t.stopDesc d (abortFail 3))).descs = s.descs.map h) ∧
      (forL l s (fun d t => t.stopDesc d (abortFail 3))).mem = s.mem := by
  induction l generalizing s with
  | nil => exact ⟨⟨id, .nil .., (List.map_id _).symm⟩, rfl⟩
  | cons d l ih =>
    have hd := hl d List.mem_cons_self
    have hrest := fun e he => hl e (List.mem_cons_of_mem _ he)
    change (∃ h, _ ∧ (forL l (s.stopDesc d (abortFail 3)) _).descs = _) ∧ (forL l (s.stopDesc d (abortFail 3)) _).mem = _
    by_cases hended : d.phase = .ended
    · rw [State.stopDesc_ended hout hended]
      obtain ⟨⟨h, hmap, hdescs⟩, hmem⟩ := ih hout hrest
      exact ⟨⟨h, hmap.passed hended, hdescs⟩, hmem⟩
    · obtain ⟨hfirst, hstill, hnone⟩ := State.stopDesc_running (f := abortFail 3) hout hended
      obtain ⟨⟨h, hmap, hdescs⟩, hmem⟩ := ih hnone hrest
      refine ⟨⟨_, hmap.stopped hd d.progress, ?_⟩, hmem.trans hstill⟩
      rw [hdescs, hfirst, upd, List.map_map]
      rfl

/-- A search for a key finds the image of what it found. -/
theorem State.desc_map {s t : State} {h : Desc → Desc} (hkey : ∀ x, (h x).key = x.key) (hdescs : t.descs = s.descs.map h) (k : DKey) :
    t.desc k = (s.desc k).map h := by
  rw [State.desc, hdescs, List.find?_map, State.desc]
  simp only [Function.comp_def, hkey]

/-! ### The end of a draining destruction (R67) -/

theorem find?_del_same {α : Type} (l : List α) (p : α → Bool) : (del l p).find? p = none :=
  List.find?_eq_none.mpr fun x hx hp => by simp [del, hp] at hx

theorem find?_del_other {α : Type} (l : List α) {p p' : α → Bool} (h : ∀ x, p' x = true → p x = false) : (del l p).find? p' = l.find? p' := by
  rw [del, List.find?_filter]
  congr 1
  funext x
  by_cases hx : p' x = true
  · simp [hx, h x hx]
  · simp [hx]

theorem State.destroyDone_ring (s : State) (slice ring : Nat) :
    (s.destroyDone slice ring).ring slice ring = none ∧ s.OtherRings (s.destroyDone slice ring) slice ring := by
  refine ⟨find?_del_same s.rings _, fun x n hne => find?_del_other s.rings fun r hr => ?_⟩
  obtain ⟨rfl, rfl⟩ : r.slice = x ∧ r.num = n := by simpa using hr
  simpa [Prod.ext_iff] using hne

theorem State.destroyDone_stands (s : State) (slice ring : Nat) :
    (s.destroyDone slice ring).descs = s.descs ∧ (s.destroyDone slice ring).mem = s.mem := ⟨rfl, rfl⟩

theorem State.destroyDone_answer (s : State) (slice ring : Nat) :
    (s.destroyDone slice ring).fld f_RING_CMD_STATUS_BUSY = 0 ∧ (s.destroyDone slice ring).fld f_RING_CMD_STATUS_STATUS = stOk := by
  constructor
  · exact (State.cmdStatus_busy ..).trans (State.fld_setFld _ f_RING_CMD_STATUS_BUSY 0 (by decide))
  · exact State.cmdStatus_status ..

theorem exec_destroyDrainDone_quiet {s : State} {slice ring : Nat} {r : Ring} (halive : s.alive = true) (hring : s.ring slice ring = some r)
    (hmode : r.destroying = 2) (hquiet : s.ringQuiet r = true) : exec (.destroyDrainDone slice ring) s = .next (s.destroyDone slice ring) := by
  change execDestroyDrainDone slice ring s = _
  simp [execDestroyDrainDone, State.whenAlive_alive halive, hring, hmode, hquiet]

/-- A ring is quiet when none of its descriptors is left and no record is unanswered. -/
theorem State.ringQuiet_empty {s : State} {r : Ring} (hdescs : ∀ d ∈ s.descs, d.key.slice = r.slice → d.key.ring ≠ r.num) (hkl : s.klOuts = [])
    (hout : s.outReqs = []) : s.ringQuiet r = true := by
  have hnone : s.inFlight r = [] := List.filter_eq_nil_iff.mpr fun d hd => by simpa using hdescs d hd
  simp [State.ringQuiet, hnone, hkl, hout]

/-! ### The commands (R64 to R68) -/

section Commands
variable {s : State} {addr : Nat} (halive : s.alive = true)
include halive

/-- A `CREATE` that ends with a status changes the command's word alone. -/
theorem exec_ringCreate_status {status field : Nat} (h : s.ringCreate addr = s.cmdStatus status field) :
    ∃ t, exec (.ringCreate addr) s = .next t ∧ s.OnlyWords t [f_RING_CMD_STATUS_STATUS.addr 0] ∧
      t.fld f_RING_CMD_STATUS_STATUS = status % 256 ∧ (status ≠ stOk → t.fld f_RING_CMD_STATUS_FIELD = field % 256) := by
  refine ⟨_, exec_ringCreate_alive halive addr, ?_⟩
  rw [h]
  refine ⟨s.cmdStatus_onlyWords .., s.cmdStatus_status .., fun hne => ?_⟩
  rw [State.cmdStatus_field, if_neg hne]

variable {slice ring : Nat} {r : Ring} {q : List Byte} (hring : s.ring slice ring = some r) (hclient : s.clientRing r) (hrun : r.state = .running)
  (hslice : leAt q 0 1 = slice) (hnum : leAt q 1 1 = ring) (hzero : zeros q 2 62 = true) (hcfg : s.configured slice = true)
  (hbusy : s.fldAt f_SLC_STATUS_BUSY slice = 0)
include hring hclient hrun hslice hnum hzero hcfg hbusy

theorem exec_destroyDrain_taken (hreq : s.ringRequest 2 addr = .ok q) : exec (.destroyDrain addr) s = .next (s.destroyStops r 2) := by
  rw [exec_destroyDrain_alive halive, (State.ringDestroy_taken hring hclient hrun hreq hslice hnum hzero hcfg hbusy (if_neg (by decide))).resolve_right
    fun h => absurd h.1 (by decide)]

/-- An abort leaves each descriptor as the loop over the ring's descriptors does. -/
theorem exec_destroyAbort_taken (hreq : s.ringRequest 3 addr = .ok q) (hout : s.outReqs = []) :
    ∃ t h, exec (.destroyAbort addr) s = .next t ∧ AbortMap slice ring (s.inFlight r) h ∧ t.descs = s.descs.map h ∧ t.mem = s.mem := by
  obtain ⟨hkslice, hknum⟩ := State.ring_key hring
  obtain ⟨hstill, hmemory, hnone⟩ := s.destroyStops_stands r 3
  have hflight : (s.destroyStops r 3).inFlight r = s.inFlight r := by rw [State.inFlight, hstill, State.inFlight]
  obtain ⟨⟨h, hmap, hdescs⟩, hmem⟩ := State.abort_descs (slice := slice) (ring := ring) (s.inFlight r) (hnone.trans hout)
    fun d hd => by simpa [State.inFlight, hkslice, hknum] using (List.mem_filter.mp hd).2
  refine ⟨_, h, exec_destroyAbort_alive halive addr, hmap, ?_⟩
  rw [hstill] at hdescs
  rw [hmemory] at hmem
  rcases State.ringDestroy_taken hring hclient hrun hreq hslice hnum hzero hcfg hbusy (if_pos rfl) with heq | ⟨-, heq⟩
  · rw [heq, hflight]
    exact ⟨hdescs, hmem⟩
  · rw [heq, hflight, (State.destroyDone_stands ..).1, (State.destroyDone_stands ..).2]
    exact ⟨hdescs, hmem⟩

end Commands

/-- Settles O31: a request is answered by its first failing check, a ring in client memory is made with its first status block, a destruction stops its
ring, and an abort is a map over the descriptors. -/
theorem ringsComeAndGo : Obligations.RingsComeAndGo := by
  unfold Obligations.RingsComeAndGo
  refine ⟨fun s addr g halive => ⟨fun hbusy => ?_, fun hidle hout => ?_, fun hidle hplain hread hclean => ?_⟩,
    fun s addr slice ring g r halive hring hclient hrun hidle hplain hread hclean hcfg hbusy hslice hnum hzero =>
      ⟨?_, fun hout => ?_, fun s1 halive1 hring1 hdescs1 hkl1 hout1 => ?_⟩⟩
  · refine ⟨_, exec_ringCreate_alive halive addr, ?_⟩
    rw [State.ringCreate_ended (State.ringRequest_busy hbusy)]
    exact s.incSat_onlyWords f_RING_ERR_CMD_COLLISIONS (by decide)
  · obtain ⟨t, hexec, honly, hstatus, hfield⟩ := exec_ringCreate_status halive
      (State.ringCreate_ended (State.ringRequest_outside hidle hout))
    exact ⟨t, hexec, honly, hstatus, hfield (by decide)⟩
  · have hreq := State.ringRequest_read (cmd := 1) hidle hplain hread hclean
    refine ⟨fun c hc => exec_ringCreate_status halive (State.ringCreate_refused hreq hc), fun hloc hreserved => ?_, fun hc hloc => ?_⟩
    · simp [State.ringChecks, hloc, hreserved]
    · have hmade := State.ringCreate_made hreq hc
      rw [State.writeStatus_withRing hc hloc] at hmade
      obtain ⟨hstatus, hformat⟩ := State.withRing_format s g.bytes (ringOf g.bytes)
      refine ⟨_, ringOf g.bytes, exec_ringCreate_alive halive addr, ?_⟩
      rw [hmade]
      exact ⟨State.withRing_rings hc, rfl, rfl, rfl, rfl, rfl, rfl, rfl, rfl, rfl, rfl, rfl, rfl, rfl, rfl, hstatus, hformat, rfl, rfl⟩
  · exact ⟨_, _, exec_destroyDrain_taken halive hring hclient hrun hslice hnum hzero hcfg hbusy (State.ringRequest_read hidle hplain hread hclean),
      State.destroyStops_ring hring, rfl, rfl, rfl, State.destroyStops_busy .., rfl⟩
  · obtain ⟨t, h, hexec, hmap, hdescs, hmem⟩ := exec_destroyAbort_taken halive hring hclient hrun hslice hnum hzero hcfg hbusy
      (State.ringRequest_read hidle hplain hread hclean) hout
    obtain ⟨rfl, rfl⟩ := State.ring_key hring
    have hmine {d : Desc} (hd : d ∈ s.descs) (hs : d.key.slice = r.slice) (hr : d.key.ring = r.num) (hlive : d.phase ≠ .ended) : (h d).Aborted :=
      hmap.named d (List.mem_filter.mpr ⟨hd, by simp [hs, hr]⟩) hlive
    refine ⟨t, hexec, fun d hd hs hr => ?_, fun k d hs hr hd hlive => ?_, fun k hk => ?_, hmem⟩
    · rw [hdescs] at hd
      obtain ⟨x, hx, rfl⟩ := List.mem_map.mp hd
      rw [hmap.key] at hs hr
      by_cases hlive : x.phase = .ended
      · exact (hmap.outcome x).elim (fun heq => heq.symm ▸ hlive) (·.1)
      · exact (hmine hx hs hr hlive).1
    · have hk := State.desc_key hd
      obtain ⟨h1, h2, h3, h4⟩ := hmine (List.mem_of_find?_eq_some hd) (hk ▸ hs) (hk ▸ hr) hlive
      exact ⟨h d, by rw [State.desc_map hmap.key hdescs, hd, Option.map_some], h1, h2, h3, h4, hmap.raw d⟩
    · rw [State.desc_map hmap.key hdescs]
      cases hd : s.desc k with
      | none => rfl
      | some d => exact congrArg some (hmap.other d (State.desc_key hd ▸ hk))
  · obtain ⟨hkslice, hknum⟩ := State.ring_key hring
    have hquiet : s1.ringQuiet { r with state := .stopping, destroying := 2 } = true :=
      State.ringQuiet_empty (by rw [← hkslice, ← hknum] at hdescs1; exact hdescs1) hkl1 hout1
    obtain ⟨hgone, hothers⟩ := s1.destroyDone_ring slice ring
    obtain ⟨hidle1, hok⟩ := s1.destroyDone_answer slice ring
    exact ⟨_, exec_destroyDrainDone_quiet halive1 hring1 rfl hquiet, hgone, hothers, hidle1, hok, rfl, rfl⟩

end Sys2Proof.Machine

/-! Records and status blocks (R74, R89 to R91, R98): their bytes, and what follows a record. -/

namespace Sys2Proof.Machine

/-! ### The fields of a structure in memory -/

theorem leAt_leBytes_skip {n o : Nat} (h : n ≤ o) (v : Nat) (bs : List Byte) (w : Nat) : leAt (leBytes n v ++ bs) o w = leAt bs (o - n) w := by
  rw [leAt, List.drop_append, List.drop_eq_nil_of_le (by simpa using h), List.nil_append, leBytes_length, leAt]

theorem leAt_leBytes_head (n v : Nat) (bs : List Byte) : leAt (leBytes n v ++ bs) 0 n = v % 256 ^ n := leAt_at (pre := []) rfl rfl

theorem leAt_leBytes (n v : Nat) : leAt (leBytes n v) 0 n = v % 256 ^ n := by
  simpa using leAt_leBytes_head n v []

theorem leAt_lt (bs : List Byte) (o w : Nat) : leAt bs o w < 256 ^ w :=
  (leNat_lt _).trans_le (Nat.pow_le_pow_right (by decide) (by simp))

/-- A record as a row of fields (R89). -/
theorem State.record32_fields (s : State) (r : Ring) {d : Desc} (h : d.raw ≠ []) : s.record32 r d = leBytes 4 d.tag ++ (leBytes 1 d.status ++
    (leBytes 1 d.op ++ (leBytes 1 ((if bit r.cqProd r.log2cq then 0 else 1) + 2 * d.det + (if d.started then 8 else 0) + 16 * d.kind) ++
      (leBytes 1 d.engine ++ (leBytes 4 d.key.idx ++ (leBytes 4 d.progress ++ (leBytes 8 d.detail ++ leBytes 8 s.now))))))) := by
  have hraw : d.raw.isEmpty = false := by simpa using h
  simp [State.record32, hraw, leBytes, byte]

/-- A status block as a row of fields (R74). -/
theorem State.statusBlock_fields (s : State) (r : Ring) : s.statusBlock r = leBytes 4 r.sqCons ++ (leBytes 4 r.sqProd ++ (leBytes 4 r.cqProd ++
    (leBytes 4 r.cqCons ++ (leBytes 1 r.state.code ++ (leBytes 1 r.fmt ++ (leBytes 2 0 ++ (leBytes 4 r.dbRejects ++
      (leBytes 4 (s.inFlight r).length ++ (leBytes 4 0 ++ (leBytes 8 s.now ++ leBytes 24 0)))))))))) := by
  simp [State.statusBlock, leBytes, byte, List.replicate]

theorem State.now_lt (s : State) : s.now < 2 ^ 64 := Fld.get_lt ..

/-- The flags byte of a record gives back what it was made of. -/
theorem recordFlags_reads {phase det kind : Nat} (hphase : phase < 2) (hdet : det < 4) (hkind : kind < 16) (started : Bool) :
    let v := (phase + 2 * det + (if started then 8 else 0) + 16 * kind) % 256
    v % 2 = phase ∧ v / 2 % 4 = det ∧ bit v 3 = started ∧ v / 16 = kind := by
  intro v
  rw [bit, bits]
  cases started <;> simp only [v, if_true, Bool.false_eq_true, if_false, beq_iff_eq, beq_eq_false_iff_ne] <;> omega

/-- The 32 bytes of a record (R89, R90). -/
theorem State.record32_reads (s : State) (r : Ring) {d : Desc} (hraw : d.raw ≠ []) (hdet : d.det < 4) (hkind : d.kind < 16) :
    let b := s.record32 r d
    b.length = 32 ∧ leAt b 0 4 = d.tag ∧ leAt b 4 1 = d.status % 256 ∧ leAt b 5 1 = d.op ∧ leAt b 6 1 % 2 = (if r.cqProd / 2 ^ r.log2cq % 2 = 0 then 1 else 0) ∧
    leAt b 6 1 / 2 % 4 = d.det ∧ bit (leAt b 6 1) 3 = d.started ∧ leAt b 6 1 / 16 = d.kind ∧ leAt b 7 1 = d.engine % 256 ∧
    leAt b 8 4 = d.key.idx % 2 ^ 32 ∧ leAt b 12 4 = d.progress % 2 ^ 32 ∧ leAt b 16 8 = d.detail % 2 ^ 64 ∧ leAt b 24 8 = s.now := by
  have htag : d.tag < 2 ^ 32 := leAt_lt d.raw 4 4
  have hop : d.op < 2 ^ 8 := leAt_lt d.raw 0 1
  have hnow := s.now_lt
  have hphase : (if bit r.cqProd r.log2cq then 0 else 1) = if r.cqProd / 2 ^ r.log2cq % 2 = 0 then 1 else 0 := by
    simp only [bit, bits, pow_one, beq_iff_eq]
    split <;> split <;> omega
  have hbit : (if r.cqProd / 2 ^ r.log2cq % 2 = 0 then 1 else 0) < 2 := by split <;> decide
  obtain ⟨hflag, hdets, hstarted, hkinds⟩ := recordFlags_reads hbit hdet hkind d.started
  simp only [State.record32_fields s r hraw, hphase]
  simp only [List.length_append, leBytes_length, leAt_leBytes_head, leAt_leBytes_skip, leAt_leBytes, Nat.reduceLeDiff, Nat.reduceSub, Nat.le_refl,
    Nat.sub_self, Nat.reduceAdd, Nat.reducePow, true_and]
  exact ⟨Nat.mod_eq_of_lt htag, Nat.mod_eq_of_lt hop, hflag, hdets, hstarted, hkinds, Nat.mod_eq_of_lt hnow⟩

/-- The 64 bytes of a status block (R74). -/
theorem State.statusBlock_reads (s : State) (r : Ring) :
    let b := s.statusBlock r
    b.length = 64 ∧ leAt b 0 4 = r.sqCons % 2 ^ 32 ∧ leAt b 4 4 = r.sqProd % 2 ^ 32 ∧ leAt b 8 4 = r.cqProd % 2 ^ 32 ∧
    leAt b 12 4 = r.cqCons % 2 ^ 32 ∧ leAt b 16 1 = r.state.code ∧ leAt b 17 1 = r.fmt % 256 ∧ leAt b 20 4 = r.dbRejects % 2 ^ 32 ∧
    leAt b 24 4 = (s.inFlight r).length % 2 ^ 32 ∧ leAt b 32 8 = s.now ∧ zeros b 40 24 = true := by
  have hnow := s.now_lt
  have hcode : r.state.code < 256 := by cases r.state <;> decide
  have hrest : zeros (s.statusBlock r) 40 24 = true := by
    rw [State.statusBlock, zeros, List.drop_left' (by simp)]
    decide
  refine ⟨s.statusBlock_length r, ?_, ?_, ?_, ?_, ?_, ?_, ?_, ?_, ?_, hrest⟩ <;> rw [State.statusBlock_fields] <;>
    simp only [leAt_leBytes_head, leAt_leBytes_skip, Nat.reduceLeDiff, Nat.reduceSub, Nat.le_refl, Nat.sub_self, Nat.reducePow]
  · exact Nat.mod_eq_of_lt hcode
  · exact Nat.mod_eq_of_lt hnow

/-! ### What follows a record (R58, R91, R197) -/

/-- Rings, descriptors, memory and frames stand, the queue only grows, and the registers from `KL_PORT` on read as before. -/
structure State.RecordStands (s t : State) : Prop where
  rings : t.rings = s.rings
  descs : t.descs = s.descs
  mem : t.mem = s.mem
  frames : t.frames = s.frames
  queue : ∃ ends, t.queue = s.queue ++ ends
  word : ∀ o, 0xB0000 ≤ o → t.word o = s.word o

theorem State.RecordStands.refl (s : State) : s.RecordStands s := ⟨rfl, rfl, rfl, rfl, ⟨[], (List.append_nil _).symm⟩, fun _ _ => rfl⟩

theorem State.RecordStands.trans {s t u : State} (h : s.RecordStands t) (h' : t.RecordStands u) : s.RecordStands u := by
  obtain ⟨xs, hx⟩ := h.queue
  obtain ⟨ys, hy⟩ := h'.queue
  exact ⟨h'.rings.trans h.rings, h'.descs.trans h.descs, h'.mem.trans h.mem, h'.frames.trans h.frames,
    ⟨xs ++ ys, by rw [hy, hx, List.append_assoc]⟩, fun o ho => (h'.word o ho).trans (h.word o ho)⟩

/-- Requests on their way are not among these. -/
theorem State.RecordStands.outReqs {s t : State} (h : s.RecordStands t) (l : List OutReq) (n : Nat) :
    s.RecordStands { t with nextTag := n, outReqs := l } := ⟨h.rings, h.descs, h.mem, h.frames, h.queue, h.word⟩

theorem State.sendQf_recordStands (s : State) (p : QPkt) : s.RecordStands (s.sendQf p) := by
  unfold State.sendQf
  split
  · exact .refl _
  · split
    · exact .refl _
    · exact ⟨rfl, rfl, rfl, rfl, ⟨_, rfl⟩, fun _ _ => rfl⟩

theorem State.incSat_recordStands (s : State) (f : Fld) (hf : f.addr 0 < 0xB0000) : s.RecordStands (s.incSat f) :=
  ⟨rfl, rfl, rfl, rfl, ⟨[], (List.append_nil _).symm⟩, fun o ho => State.word_incSat_ne s f (by omega)⟩

theorem State.issueReq_recordStands (s : State) (o : OutReq) : s.RecordStands (s.issueReq o) := by
  have hout (l : List OutReq) : s.RecordStands { s with outReqs := l } := (State.RecordStands.refl s).outReqs l s.nextTag
  unfold State.issueReq
  split
  · split
    · exact (hout _).trans (State.sendQf_recordStands ..)
    · exact ((hout _).trans (State.incSat_recordStands _ _ (by decide))).trans (State.sendQf_recordStands ..)
  · exact .refl s

theorem State.sayOver_recordStands (s : State) (d : Desc) : s.RecordStands (s.sayOver d) :=
  forL_induct (P := s.RecordStands) _ _ (.refl s) fun n _ t ht => by
    split
    · exact ht
    · exact (ht.outReqs _ _).trans (State.issueReq_recordStands ..)

/-- A descriptor without lookups at other ZV9s has nothing to say. -/
theorem State.sayOver_nothing (s : State) {d : Desc} (h : d.lenders = []) : s.sayOver d = s := by
  rw [State.sayOver, h]
  rfl

theorem State.countDone_recordStands (s : State) (d : Desc) : s.RecordStands (s.countDone d) ∧ (s.countDone d).queue = s.queue := by
  unfold State.countDone
  split
  · exact ⟨⟨rfl, rfl, rfl, rfl, ⟨[], (List.append_nil _).symm⟩,
      fun o ho => State.word_addWrap_ne s f_ATT_DONE_DONE 1 (by change o ≠ 0x40010; omega)⟩, rfl⟩
  · exact ⟨.refl s, rfl⟩

/-- Freed frames are charged back in registers of the tiers. -/
theorem State.gc_word (s : State) (hframes : ∀ f ∈ s.frames, f.owner < 64 ∧ f.tier < 4) {o : Nat} (ho : 0xB0000 ≤ o) : s.gc.1.word o = s.word o :=
  forL_induct (P := fun t : State => t.word o = s.word o) _ _ rfl fun f hf t ht => by
    obtain ⟨howner, htier⟩ := hframes f (List.mem_of_mem_filter hf)
    refine (State.word_setFldAt_ne t f_TIER_QUSED_USED _ _ ?_).trans ht
    simp only [Fld.addr, f_TIER_QUSED_USED]
    omega

/-- The descriptor leaves. -/
theorem State.forget_only (s : State) (k : DKey) : (s.forget k).rings = s.rings ∧ (s.forget k).mem = s.mem ∧ (s.forget k).queue = s.queue ∧
    (s.forget k).descs = del s.descs (fun d => d.key == k) := by
  unfold State.forget
  rw [State.gc_only]
  exact ⟨rfl, rfl, rfl, rfl⟩

theorem State.forget_word (s : State) (k : DKey) (hframes : ∀ f ∈ s.frames, f.owner < 64 ∧ f.tier < 4) {o : Nat} (ho : 0xB0000 ≤ o) :
    (s.forget k).word o = s.word o :=
  State.gc_word { s with descs := del s.descs (fun d => d.key == k), queues := del s.queues (fun q => q.key == k) } hframes ho

/-- What a descriptor does as it leaves with its record. -/
def State.leave (s : State) (k : DKey) (d : Desc) : State := ((s.sayOver d).countDone d).forget k

section Leave
variable (s : State) (k : DKey) (d : Desc)

theorem State.leave_only : (s.leave k d).rings = s.rings ∧ (s.leave k d).mem = s.mem ∧ (s.leave k d).descs = del s.descs (fun x => x.key == k) := by
  have hsaid := (s.sayOver_recordStands d).trans ((s.sayOver d).countDone_recordStands d).1
  obtain ⟨hrings, hmem, -, hdescs⟩ := ((s.sayOver d).countDone d).forget_only k
  exact ⟨hrings.trans hsaid.rings, hmem.trans hsaid.mem, hdescs.trans (congrArg (del · _) hsaid.descs)⟩

theorem State.leave_queue : ∃ ends, (s.leave k d).queue = s.queue ++ ends ∧ (d.lenders = [] → ends = []) := by
  have hqueue : (s.leave k d).queue = (s.sayOver d).queue :=
    (State.forget_only ..).2.2.1.trans ((s.sayOver d).countDone_recordStands d).2
  by_cases hnone : d.lenders = []
  · exact ⟨[], by rw [hqueue, State.sayOver_nothing s hnone, List.append_nil], fun _ => rfl⟩
  · obtain ⟨ends, h⟩ := (s.sayOver_recordStands d).queue
    exact ⟨ends, hqueue.trans h, fun hc => absurd hc hnone⟩

theorem State.leave_word (hframes : ∀ f ∈ s.frames, f.owner < 64 ∧ f.tier < 4) {o : Nat} (ho : 0xB0000 ≤ o) : (s.leave k d).word o = s.word o := by
  have hsaid := (s.sayOver_recordStands d).trans ((s.sayOver d).countDone_recordStands d).1
  exact (State.forget_word _ k (by rwa [hsaid.frames]) ho).trans (hsaid.word o ho)

theorem State.leave_desc : (s.leave k d).desc k = none ∧ s.OtherDescs (s.leave k d) k := by
  have hdescs := (s.leave_only k d).2.2
  refine ⟨?_, fun j hj => ?_⟩
  · rw [State.desc, hdescs]
    exact find?_del_same ..
  · rw [State.desc, hdescs]
    refine find?_del_other _ fun x hx => ?_
    rw [beq_iff_eq.mp hx]
    exact beq_eq_false_iff_ne.mpr hj

end Leave

/-! ### A record that is written (R89, R91) -/

theorem State.OnlyWords.trans {s t u : State} {offs : List Nat} (h : s.OnlyWords t offs) (h' : t.OnlyWords u offs) : s.OnlyWords u offs := by
  obtain ⟨honly, hwords⟩ := h
  obtain ⟨honly', hwords'⟩ := h'
  refine ⟨?_, fun o ho => (hwords' o ho).trans (hwords o ho)⟩
  unfold State.OnlyRegs at honly honly' ⊢
  rw [honly', honly]

section OnlyRegs
variable {s t : State} (h : s.OnlyRegs t)
include h

theorem State.OnlyRegs.rings : t.rings = s.rings := by rw [h]
theorem State.OnlyRegs.descs : t.descs = s.descs := by rw [h]
theorem State.OnlyRegs.mem : t.mem = s.mem := by rw [h]
theorem State.OnlyRegs.queue : t.queue = s.queue := by rw [h]

end OnlyRegs

/-- The registers of the observation counters. -/
def obsWords : List Nat := (List.range 64).map f_OBS_CTR_COUNT.addr

theorem not_mem_obsWords {o : Nat} (ho : o < 0x190300 ∨ 0x190500 ≤ o) : o ∉ obsWords := fun hmem => by
  obtain ⟨i, hi, rfl⟩ := List.mem_map.mp hmem
  have := List.mem_range.mp hi
  simp only [Fld.addr, f_OBS_CTR_COUNT] at ho
  omega

/-- The ring once the record of a descriptor is in its queue, when it has no interrupts. -/
def Ring.recorded (r : Ring) (d : Desc) : Ring :=
  { r with cqProd := (r.cqProd + 1) % two32, uncovered := 0, windowErr := r.windowErr || Machine.windowErr d, stDirty := true }

theorem windowErr_plain {d : Desc} (h : d.op ≠ 0x01) : windowErr d = decide (0x10 ≤ d.status) := by
  rw [windowErr, beq_eq_false_iff_ne.mpr h, Bool.false_and, Bool.not_false, Bool.and_true]

/-- After a record the ring has it; but for that, observation counters count. -/
theorem State.afterRecord_only {t : State} {r : Ring} {d : Desc} (hring : t.ring r.slice r.num = some r) (hfence : r.stopFence ≠ some d.key.idx)
    (hvector : r.vector = 0xFFFF) (hscr : t.fld f_SCR_CTL_ENABLE = 0) : (t.setRing (r.recorded d)).OnlyWords (t.afterRecord r d) obsWords := by
  have hstops : (r.stopFence == some d.key.idx) = false := beq_eq_false_iff_ne.mpr hfence
  have hobs := State.obs_onlyWords (t.setRing (r.recorded d)) 11 (16 * r.slice + r.num) 2 r.slice 1
  have hscr1 : ((t.setRing (r.recorded d)).obs 11 (16 * r.slice + r.num) 2 r.slice 1).fld f_SCR_CTL_ENABLE = 0 := by
    have hword := hobs.2 (f_SCR_CTL_ENABLE.addr 0) (not_mem_obsWords (by decide))
    rw [← hscr, State.fld, State.fldAt, hword, State.word_setRing]
    rfl
  have hafter : t.afterRecord r d = if d.engine < 8
      then ((t.setRing (r.recorded d)).obs 11 (16 * r.slice + r.num) 2 r.slice 1).obs 2 d.engine 1 r.slice 1
      else (t.setRing (r.recorded d)).obs 11 (16 * r.slice + r.num) 2 r.slice 1 := by
    rw [Ring.recorded] at hscr1 ⊢
    simp only [State.afterRecord, hring, hstops, eq_true hvector, Bool.false_eq_true, if_false, if_true, State.scriv_off hscr1, Bool.false_and, ne_eq,
      not_true_eq_false, false_and]
  rw [hafter]
  split
  · exact hobs.trans (State.obs_onlyWords ..)
  · exact hobs

/-- A slice that is not stopping is not reaped, and a ring that is not being destroyed goes on. -/
theorem State.reaped {t : State} {slice ring : Nat} {q : Ring} (hjob : 64 ≤ slice ∨ t.fldAt f_FLT_SLICE_JOB_STATE slice ≠ 1)
    (hring : t.ring slice ring = some q) (hkeep : q.destroying = 0) : (t.reapStop slice).abortRingDone slice ring = t := by
  have hreap : t.reapStop slice = t := if_pos (hjob.imp_right .inl)
  simp [hreap, State.abortRingDone, hring, hkeep]

/-! ### A record that is not delivered (R98, R523) -/

/-- Bytes for a ring in client memory leave for the client, or are not delivered. -/
theorem State.ringSend_client (s : State) {r : Ring} (hloc : r.loc = 1) (addr : Nat) (bs : List Byte) :
    s.ringSend r addr bs = .sent (s.toClient r addr bs) ∨ s.ringSend r addr bs = .undeliverable := by
  by_cases h : (s.klUp r.port && s.bound r.port == some r.slice && s.inWindow r.port addr bs.length) = true
  · simp only [Bool.and_eq_true, beq_iff_eq] at h
    exact .inl (State.ringSend_toClient hloc h.1.1 h.1.2 h.2)
  · simp [State.ringSend, hloc, h]

/-- A ring that has faulted. -/
def Ring.faulty (r : Ring) : Ring := { r with state := .faulted, stDirty := true }

/-- The event of a fault of a ring. -/
def State.faultEvent (s : State) (r : Ring) : State :=
  ((s.setRing r.faulty).incSat f_RING_ERR_CQ_FAULTS).raise { ev 0x03 r.source (16 * r.slice + r.num) with slice := r.slice }

section Fault
variable {s : State} {slice ring : Nat} {r : Ring} (hring : s.ring slice ring = some r)

section Send
variable (hstate : r.state ≠ .faulted)
include hring hstate

theorem State.faultRing_sent {t : State}
    (hsend : (s.faultEvent r).ringSend r.faulty r.stAddr ((s.faultEvent r).statusBlock r.faulty) = .sent t) :
    s.faultRing slice ring = t.statusSent slice ring := by
  obtain ⟨rfl, rfl⟩ := State.ring_key hring
  have hrunning : (r.state == .faulted) = false := beq_eq_false_iff_ne.mpr hstate
  rw [State.faultEvent, Ring.faulty] at hsend
  simp only [State.faultRing, hring, hrunning, Bool.false_eq_true, if_false, hsend]

theorem State.faultRing_unsent
    (hsend : (s.faultEvent r).ringSend r.faulty r.stAddr ((s.faultEvent r).statusBlock r.faulty) = .undeliverable) :
    s.faultRing slice ring = s.faultEvent r := by
  obtain ⟨rfl, rfl⟩ := State.ring_key hring
  have hrunning : (r.state == .faulted) = false := beq_eq_false_iff_ne.mpr hstate
  rw [State.faultEvent, Ring.faulty] at hsend ⊢
  simp only [State.faultRing, hring, hrunning, Bool.false_eq_true, if_false, hsend]

end Send

include hring

theorem State.faultEvent_ring : (s.faultEvent r).ring slice ring = some r.faulty := by
  obtain ⟨hslice, hnum⟩ := State.ring_key hring
  exact (State.ring_congr (State.raise_stands ..).rings slice ring).trans (State.ring_setRing_same hring hslice hnum)

/-- A ring that faults is so afterwards, and the event is the only one. -/
theorem State.faultRing_event (hstate : r.state ≠ .faulted) (hloc : r.loc = 1) : ∃ q, (s.faultRing slice ring).ring slice ring = some q ∧
    q.state = .faulted ∧ q.destroying = r.destroying ∧ (s.faultRing slice ring).descs = (s.faultEvent r).descs ∧
    (s.faultRing slice ring).frames = (s.faultEvent r).frames ∧ (s.faultRing slice ring).regs = (s.faultEvent r).regs := by
  obtain ⟨hslice, hnum⟩ := State.ring_key hring
  have hset := State.faultEvent_ring hring
  rcases State.ringSend_client (s.faultEvent r) (r := r.faulty) hloc r.stAddr ((s.faultEvent r).statusBlock r.faulty) with hsent | hnone
  · have hkeep : ((s.faultEvent r).toClient r.faulty r.stAddr ((s.faultEvent r).statusBlock r.faulty)).ring slice ring = some r.faulty := hset
    rw [State.faultRing_sent hring hstate hsent, State.statusSent, hkeep]
    exact ⟨_, State.ring_setRing_same hkeep hslice hnum, rfl, rfl, rfl, rfl, rfl⟩
  · rw [State.faultRing_unsent hring hstate hnone]
    exact ⟨_, hset, rfl, rfl, rfl, rfl, rfl⟩

end Fault

theorem State.faultEvent_stands (s : State) (r : Ring) : (s.faultEvent r).descs = s.descs ∧ (s.faultEvent r).frames = s.frames :=
  ⟨(State.raise_stands ..).descs, (State.raise_stands ..).frames⟩

/-- A fault raises one event, silent while `FLT_CTL.INT_EN` is 0. -/
theorem State.faultEvent_words {s : State} (r : Ring) (hint : s.flag f_FLT_CTL_INT_EN = false) :
    (s.faultEvent r).fld f_FLT_SEQ_SEQ = (s.fld f_FLT_SEQ_SEQ + 1) % 2 ^ 64 ∧ ∀ o, 0xE0100 ≤ o → o < 0x140000 → (s.faultEvent r).word o = s.word o := by
  unfold State.faultEvent
  set t := (s.setRing r.faulty).incSat f_RING_ERR_CQ_FAULTS with ht
  have hword {o : Nat} (ho : o ≠ f_RING_ERR_CQ_FAULTS.addr 0) : t.word o = s.word o := by rw [ht, State.word_incSat_ne _ _ ho, State.word_setRing]
  have hsilent : t.flag f_FLT_CTL_INT_EN = false :=
    (congrArg (fun v => f_FLT_CTL_INT_EN.get v == 1) (hword (o := f_FLT_CTL_INT_EN.addr 0) (by decide))).trans hint
  rw [State.raise_silent _ _ hsilent, State.record_seq]
  refine ⟨congrArg (fun v => (f_FLT_SEQ_SEQ.get v + 1) % 2 ^ 64) (hword (o := f_FLT_SEQ_SEQ.addr 0) (by decide)), fun o hlo hhi => ?_⟩
  rw [State.record_word _ _ hhi (by omega) (by omega) (by omega), State.word_setFld_ne _ f_FLT_SEQ_SEQ _ (by change o ≠ 0xE0018; omega)]
  exact hword (by change o ≠ 0x20010; omega)

section Complete
variable {s u : State} {slice ring idx : Nat} {r : Ring} {d : Desc} (hring : s.ring slice ring = some r) (hdesc : s.desc ⟨slice, ring, idx⟩ = some d)
  (hended : d.phase = .ended) (hout : s.outReqs = []) (hsweeps : s.sweeps = []) (hop : d.op ≠ 0x01) (hstate : r.state ≠ .faulted)
  (hwrite : s.ringWrite r (r.cqAddr + 32 * (r.cqProd % 2 ^ r.log2cq)) (s.record32 r d) = some u)
include hring hdesc hended hout hsweeps hop hstate hwrite

theorem State.complete_written : s.complete ⟨slice, ring, idx⟩ =
    ((if ((u.leave ⟨slice, ring, idx⟩ d).ring slice ring).any (fun x => x.state == .faulted) then (u.leave ⟨slice, ring, idx⟩ d).touchRing slice ring id
      else (u.leave ⟨slice, ring, idx⟩ d).afterRecord r d).reapStop slice).abortRingDone slice ring := by
  have hfaulted : (r.state == .faulted) = false := beq_eq_false_iff_ne.mpr hstate
  have hready : (d.phase != .ended || s.outstanding ⟨slice, ring, idx⟩ || s.sweepsFor ⟨slice, ring, idx⟩ || s.fenceWaits r d) = false := by
    simp [hended, State.outstanding, hout, State.sweepsFor, hsweeps, State.fenceWaits, hop]
  simp only [State.complete, hdesc, hring, hready, hfaulted, Bool.false_eq_true, if_false, hwrite]
  rfl

variable (hframes : ∀ f ∈ s.frames, f.owner < 64 ∧ f.tier < 4) (hkeep : r.destroying = 0)
include hframes hkeep

/-- A record that is delivered: the descriptor leaves, and its ring has the record. -/
theorem State.complete_recorded (hurings : u.rings = s.rings) (hudescs : u.descs = s.descs) (huregs : u.regs = s.regs) (huframes : u.frames = s.frames)
    (hfence : r.stopFence ≠ some idx) (hvector : r.vector = 0xFFFF) (hjob : s.fldAt f_FLT_SLICE_JOB_STATE slice ≠ 1)
    (hscr : s.fld f_SCR_CTL_ENABLE = 0) :
    ∃ t, s.complete ⟨slice, ring, idx⟩ = t ∧ t.desc ⟨slice, ring, idx⟩ = none ∧ s.OtherDescs t ⟨slice, ring, idx⟩ ∧ t.mem = u.mem ∧
      (∃ ends, t.queue = u.queue ++ ends ∧ (d.lenders = [] → ends = [])) ∧ t.ring slice ring = some (r.recorded d) := by
  obtain ⟨hslice, hnum⟩ := State.ring_key hring
  have hkey := State.desc_key hdesc
  set v := u.leave ⟨slice, ring, idx⟩ d with hv
  obtain ⟨hrings, hmem, -⟩ := u.leave_only ⟨slice, ring, idx⟩ d
  obtain ⟨hgone, hothers⟩ := u.leave_desc ⟨slice, ring, idx⟩ d
  have hword {o : Nat} (ho : 0xB0000 ≤ o) : v.word o = s.word o :=
    (u.leave_word ⟨slice, ring, idx⟩ d (by rwa [huframes]) ho).trans (State.word_of_regs huregs o)
  have hvring : v.ring slice ring = some r := (State.ring_congr (hrings.trans hurings) slice ring).trans hring
  have hafter := State.afterRecord_only (t := v) (d := d) (by rwa [hslice, hnum]) (by rwa [hkey]) hvector
    ((congrArg f_SCR_CTL_ENABLE.get (hword (o := f_SCR_CTL_ENABLE.addr 0) (by decide))).trans hscr)
  have hdone : (v.afterRecord r d).ring slice ring = some (r.recorded d) :=
    (State.ring_congr (s := v.setRing (r.recorded d)) hafter.1.rings slice ring).trans
      (State.ring_setRing_same hvring hslice hnum)
  have hstopping : 64 ≤ slice ∨ (v.afterRecord r d).fldAt f_FLT_SLICE_JOB_STATE slice ≠ 1 := by
    refine (Nat.lt_or_ge slice 64).symm.imp_right fun hlt => ?_
    have hplace : f_FLT_SLICE_JOB_STATE.addr slice < 0x190300 := by
      simp only [Fld.addr, f_FLT_SLICE_JOB_STATE]
      omega
    have hsame := (hafter.2 _ (not_mem_obsWords (.inl hplace))).trans (hword (o := f_FLT_SLICE_JOB_STATE.addr slice) (by
      simp only [Fld.addr, f_FLT_SLICE_JOB_STATE]
      omega))
    rwa [State.fldAt, hsame]
  have hrunning : ((v.ring slice ring).any fun x => x.state == .faulted) = false := by
    rw [hvring]
    exact beq_eq_false_iff_ne.mpr hstate
  refine ⟨v.afterRecord r d, ?_, ?_, fun j hj => ?_, hafter.1.mem.trans hmem, ?_, hdone⟩
  · rw [State.complete_written hring hdesc hended hout hsweeps hop hstate hwrite, ← hv, hrunning, if_neg (by decide)]
    exact State.reaped hstopping hdone hkeep
  · rw [State.desc, hafter.1.descs]
    exact hgone
  · rw [State.desc, hafter.1.descs]
    refine (hothers j hj).trans ?_
    rw [State.desc, hudescs, State.desc]
  · rw [hafter.1.queue]
    exact u.leave_queue ⟨slice, ring, idx⟩ d

/-- A record whose delivery has faulted the ring: the descriptor leaves all the same. -/
theorem State.complete_faulted {q : Ring} (huring : u.ring slice ring = some q) (hfault : q.state = .faulted) (hq : q.destroying = r.destroying)
    (huframes : u.frames = s.frames) (hjob : 64 ≤ slice ∨ u.fldAt f_FLT_SLICE_JOB_STATE slice ≠ 1) :
    ∃ t, s.complete ⟨slice, ring, idx⟩ = t ∧ t.desc ⟨slice, ring, idx⟩ = none ∧ (∃ q, t.ring slice ring = some q ∧ q.state = .faulted) ∧
      t.fld f_FLT_SEQ_SEQ = u.fld f_FLT_SEQ_SEQ := by
  obtain ⟨hslice, hnum⟩ := State.ring_key huring
  set v := u.leave ⟨slice, ring, idx⟩ d with hv
  have hvring : v.ring slice ring = some q := (State.ring_congr (u.leave_only ⟨slice, ring, idx⟩ d).1 slice ring).trans huring
  have hword {o : Nat} (ho : 0xB0000 ≤ o) : v.word o = u.word o := u.leave_word ⟨slice, ring, idx⟩ d (by rwa [huframes]) ho
  have hstopped : ((v.ring slice ring).any fun x => x.state == .faulted) = true := by
    rw [hvring]
    exact beq_iff_eq.mpr hfault
  have hset : (v.setRing { q with stDirty := true }).ring slice ring = some { q with stDirty := true } :=
    State.ring_setRing_same hvring hslice hnum
  have hstopping : 64 ≤ slice ∨ (v.setRing { q with stDirty := true }).fldAt f_FLT_SLICE_JOB_STATE slice ≠ 1 := by
    refine hjob.imp_right fun hne => ?_
    rwa [State.fldAt, State.word_setRing, hword (by
      simp only [Fld.addr, f_FLT_SLICE_JOB_STATE]
      omega)]
  refine ⟨v.setRing { q with stDirty := true }, ?_, (u.leave_desc ⟨slice, ring, idx⟩ d).1, ⟨_, hset, hfault⟩, ?_⟩
  · rw [State.complete_written hring hdesc hended hout hsweeps hop hstate hwrite, ← hv, hstopped, if_pos rfl, State.touchRing_of_ring hvring]
    exact State.reaped hstopping hset (hq.trans hkeep)
  · exact congrArg f_FLT_SEQ_SEQ.get (hword (o := f_FLT_SEQ_SEQ.addr 0) (by decide))

end Complete

/-! ### The commands (R74, R89) -/

theorem exec_descriptorComplete_alive {s : State} (halive : s.alive = true) (slice ring idx : Nat) :
    exec (.descriptorComplete slice ring idx) s = .next (s.complete ⟨slice, ring, idx⟩) := by
  change execDescriptorComplete slice ring idx s = _
  rw [execDescriptorComplete, State.whenAlive_alive halive]

theorem exec_ringStatusBlockWrite_alive {s : State} (halive : s.alive = true) {slice ring : Nat} {r : Ring} (hring : s.ring slice ring = some r) :
    exec (.ringStatusBlockWrite slice ring) s = .next (if r.stDirty then s.writeStatus slice ring else s) := by
  change execRingStatusBlockWrite slice ring s = _
  rw [execRingStatusBlockWrite, State.whenAlive_alive halive, hring]

/-- A status block in this ZV9's memory is one write. -/
theorem State.writeStatus_memory {s u : State} {slice ring : Nat} {r : Ring} (hring : s.ring slice ring = some r) (hloc : r.loc = 0)
    (hwrite : s.feWrite r.stAddr (s.statusBlock r) = .ok u) (hrings : u.rings = s.rings) :
    s.writeStatus slice ring = u.setRing { r with stDirty := false, stCons := r.sqCons } := by
  have hkeep : u.ring slice ring = some r := (State.ring_congr hrings slice ring).trans hring
  simp only [State.writeStatus, hring, State.ringWrite, State.ringSend, hloc, hwrite, State.statusSent, hkeep]

/-- Settles O28: a record and a status block are rows of fields; a record that is delivered is followed by its descriptor's leave. -/
theorem records : Obligations.Records := by
  unfold Obligations.Records
  refine ⟨fun s r d hraw hdet hkind => s.record32_reads r hraw hdet hkind, ?_, ?_⟩
  · intro s slice ring idx r d halive hring hdesc hended hout hsweeps hop hfence hstate hkeep hvector hjob hscr hframes a
    rw [exec_descriptorComplete_alive halive]
    refine ⟨fun hclient => ?_, fun u hloc hwrite hrings hdescs hregs huframes => ?_, fun hloc hdown hint => ?_⟩
    · obtain ⟨hloc, hup, hbound, -, hwindow⟩ := hclient
      have hlength : (s.record32 r d).length = 32 := by simp [State.record32]
      have hsend := State.ringSend_toClient (bs := s.record32 r d) hloc hup hbound (by rw [hlength]; exact hwindow r.cqProd)
      have hwrite : s.ringWrite r a (s.record32 r d) = some (s.toClient r a (s.record32 r d)) := by rw [State.ringWrite, hsend]
      obtain ⟨t, ht, hgone, hothers, hmem, ⟨ends, hqueue, hnone⟩, hdone⟩ := State.complete_recorded hring hdesc hended hout hsweeps hop hstate
        hwrite hframes hkeep rfl rfl rfl rfl hfence hvector hjob hscr
      refine ⟨t, by rw [ht], hgone, ⟨ends, ?_, hnone⟩, hmem, hothers, _, hdone, rfl, rfl, ?_⟩
      · rw [hqueue, State.toClient, List.append_assoc, List.singleton_append]
      · rw [Ring.recorded, windowErr_plain hop]
    · have hsend : s.ringWrite r a (s.record32 r d) = some u := by simp only [State.ringWrite, State.ringSend, hloc, hwrite]
      obtain ⟨t, ht, hgone, -, hmem, -, hdone⟩ := State.complete_recorded hring hdesc hended hout hsweeps hop hstate hsend hframes hkeep
        hrings hdescs hregs huframes hfence hvector hjob hscr
      exact ⟨t, by rw [ht], hgone, hmem, _, hdone, rfl⟩
    · obtain ⟨hslice, hnum⟩ := State.ring_key hring
      have hsend : s.ringWrite r a (s.record32 r d) = some (s.faultRing slice ring) := by
        rw [State.ringWrite, State.ringSend_unreached _ _ hloc hdown, hslice, hnum]
      obtain ⟨q, hfaulted, hq, hdestroying, hdescs, huframes, huregs⟩ := State.faultRing_event hring hstate hloc
      obtain ⟨hseq, hwords⟩ := State.faultEvent_words r hint
      have hstopping : 64 ≤ slice ∨ (s.faultRing slice ring).fldAt f_FLT_SLICE_JOB_STATE slice ≠ 1 := by
        refine (Nat.lt_or_ge slice 64).symm.imp_right fun hlt => ?_
        have hsame := hwords (f_FLT_SLICE_JOB_STATE.addr slice) (Nat.le_add_right _ _) (by
          simp only [Fld.addr, f_FLT_SLICE_JOB_STATE]
          omega)
        rwa [State.fldAt, State.word_of_regs huregs, hsame]
      obtain ⟨t, ht, hgone, hring', hfld⟩ := State.complete_faulted hring hdesc hended hout hsweeps hop hstate hsend hframes hkeep hfaulted hq
        hdestroying (huframes.trans (s.faultEvent_stands r).2) hstopping
      refine ⟨t, by rw [ht], hgone, hring', hfld.trans ?_⟩
      rw [State.fld, State.fldAt, State.word_of_regs huregs]
      exact hseq
  · intro s slice ring r halive hring
    obtain ⟨hslice, hnum⟩ := State.ring_key hring
    rw [exec_ringStatusBlockWrite_alive halive hring]
    refine ⟨?_, fun hclean => ?_, fun hdue hclient => ?_, fun u hdue hloc hwrite hrings => ?_⟩
    · have hreads := s.statusBlock_reads r
      rw [State.inFlight, hslice, hnum] at hreads
      cases hr : r.state <;> simpa [hr, RingSt.code] using hreads
    · rw [hclean, if_neg (by decide)]
    · rw [hdue, if_pos rfl, State.writeStatus_toClient hring hclient]
      exact ⟨_, rfl, rfl, State.statusToClient_ring hring, rfl, rfl, rfl⟩
    · rw [hdue, if_pos rfl, State.writeStatus_memory hring hloc hwrite hrings]
      exact ⟨_, rfl, rfl, State.ring_setRing_same ((State.ring_congr hrings slice ring).trans hring) hslice hnum⟩

end Sys2Proof.Machine

/-! Consumption (R74): a ring at a port whose register is an observation counter, which consumption itself brings down. -/

namespace Sys2Proof.Machine

theorem exec_descriptorConsume_ready {s : State} {slice ring : Nat} {r : Ring} (halive : s.alive = true) (hring : s.ring slice ring = some r)
    (hmay : s.mayConsume r = true) : exec (.descriptorConsume slice ring []) s = .next (s.consume r) := by
  change execDescriptorConsume slice ring [] s = _
  simp only [execDescriptorConsume, State.whenAlive_alive halive, State.readErrs_nil halive, hring, hmay, if_true]

/-- A `NOP` is judged by its bytes and its units while nothing is revoked. -/
theorem State.judgeDesc_nop {s : State} (r : Ring) {d e : Desc} (hrevoked : s.revoked = []) (hop : e.op = 0x00) (hraw : d.raw = e.raw)
    (hunits : d.units = e.units) : s.judgeDesc r d = s.judgeDesc r e := by
  have hat (o w : Nat) : d.at o w = e.at o w := by rw [Desc.at, hraw, Desc.at]
  have hflags : d.flags = e.flags := by rw [Desc.flags, hraw, Desc.flags]
  have hdop : d.op = 0x00 := by rw [← hop, Desc.op, hraw, Desc.op]
  simp only [State.judgeDesc, State.allChecks, State.genericChecks, State.opChecks, hrevoked, hop, hdop, hat, hflags, hunits, hraw, List.isEmpty_nil, if_true]

/-- The one unit of a `NOP` with tag 0. -/
def nopUnit : List Byte := List.replicate 64 0#8

/-- A ring with one `NOP` left, 64 units after its last status block, at a port whose `KL_PORT` would lie where counter 0 lies. -/
def strayRing : Ring := {
  slice := 1, num := 2, log2sq := 4, log2cq := 4, fmt := 1, vector := 0xFFFF, sqAddr := 0x10000, cqAddr := 0x20000, stAddr := 0x30000, loc := 1,
  port := 0x1C060, coalCount := 0, coalNs := 0, weight := 1, cqNode := 0, sqCons := 63, sqProd := 64, cqProd := 0, cqCons := 0, state := .running,
  dbRejects := 0, uncovered := 0, windowErr := false, stopFence := none, destroying := 0, stDirty := false, stCons := 0,
  pre := [(nopUnit, false)] }

/-- Slice 1 with that ring and a client at that port; counter 0, which counts units consumed, reads as a port that is up and bound to slice 1. -/
def strayState : State :=
  let s := { State.reset with
    resetHeld := false, porHeld := false, pwrok := true, klClients := [⟨0x1C060, 77, 0, 0, 0, 0x100000000, ⟨0, 0, 0, 0, 0, 0⟩⟩], rings := [strayRing] }
  (((((((s.setFld f_STORE_CARVE_DESC_CELLS 0x1000).setFldAt f_KL_PORT_STATE 0x1C060 2).setFldAt f_KL_PORT_BOUND_SLICE 0x1C060 1).setFld
    f_OBS_SEL_ENABLE 1).setFld f_OBS_SEL_KIND 11).setFld f_OBS_SEL_EVENT 1).setFld f_OBS_SEL_SLICE 0xFF).setFld f_OBS_SEL_INSTANCE 0xFFF

theorem strayState_ready : strayState.alive = true ∧ strayState.ring 1 2 = some strayRing ∧ strayState.mayConsume strayRing = true ∧
    strayState.hasShare strayRing = true := by decide +kernel

/-- The `NOP` has been read ahead. -/
theorem strayRing_next (s : State) : s.nextDesc strayRing = .desc 1 nopUnit := by
  simp [State.nextDesc, State.unitAt, strayRing, sub32, two32]

theorem strayState_client : strayState.clientRing strayRing := by
  have hqueue : strayState.inWindow 0x1C060 0x20000 512 = true := by decide +kernel
  refine ⟨rfl, by decide +kernel, by decide +kernel, by decide +kernel, fun i => State.inWindow_part hqueue (Nat.le_add_right _ _) ?_⟩
  change 0x20000 + 32 * (i % 16) + 32 ≤ 0x20000 + 512
  omega

/-- What the front end makes of the `NOP`. -/
def strayNop : Desc := mkDesc ⟨1, 2, 63⟩ 1 nopUnit 0 0 .waiting

theorem strayState_judges : strayState.judgeDesc strayRing strayNop = .ok () := by rfl

/-- Counting the unit has made the port read as down: the status block is not delivered, and the ring faults. -/
theorem strayState_faults : ((strayState.consume strayRing).ring 1 2).map (fun q => q.state) = some .faulted := by decide +kernel

/-- Refutes O27: nothing bounds the port of the ring, and for a port with `KL_PORT` at 0x190300 the counter that counts the units consumed brings the
port down, so the status block that is due faults the ring. Of a ring that `CREATE` makes the port is below 4. -/
theorem not_consumption : ¬ Obligations.Consumption := by
  unfold Obligations.Consumption
  intro h
  obtain ⟨-, hconsume, -, -⟩ := h
  obtain ⟨halive, hring, hmay, hshare⟩ := strayState_ready
  obtain ⟨-, hnext⟩ := hconsume strayState 1 2 1 strayRing _ halive hring hmay (strayRing_next _)
  obtain ⟨d, -, hunits, hraw, -, -, -, -, hleaves, -⟩ := hnext hshare
  obtain ⟨hpasses, -⟩ := hleaves (.inr strayState_client)
  have hjudge : strayState.judgeDesc strayRing d = .ok () :=
    (State.judgeDesc_nop strayRing (e := strayNop) rfl (by decide) hraw hunits).trans strayState_judges
  obtain ⟨t, q, hexec, -, hq, -, -, -, hrunning, -⟩ := hpasses hjudge
  rw [exec_descriptorConsume_ready halive hring hmay] at hexec
  have hfaults := strayState_faults
  rw [Host.Outcome.next.inj hexec, hq, Option.map_some, hrunning] at hfaults
  exact absurd hfaults (by decide)

end Sys2Proof.Machine

/-! The superaccumulator (R124 to R127): the sum of its addends in one closed form, and its 32 bytes. -/

namespace Sys2Proof.Machine

/-! ### Values of 176 bits (R124) -/

theorem wrap176_emod (v : Int) : wrap176 v % two176 = v % two176 := by
  unfold wrap176 two176
  dsimp only
  split <;> omega

theorem wrap176_congr {u v : Int} (h : u % two176 = v % two176) : wrap176 u = wrap176 v := by
  unfold wrap176
  rw [h]

/-- Values add up modulo 2^176, whichever of them were brought into range before. -/
theorem wrap176_add (u v : Int) : wrap176 (wrap176 u + wrap176 v) = wrap176 (u + v) :=
  wrap176_congr (by rw [Int.add_emod, wrap176_emod, wrap176_emod, ← Int.add_emod])

theorem wrap176_add_left (u v : Int) : wrap176 (wrap176 u + v) = wrap176 (u + v) :=
  wrap176_congr (by rw [Int.add_emod, wrap176_emod, ← Int.add_emod])

theorem wrap176_wrap176 (v : Int) : wrap176 (wrap176 v) = wrap176 v := wrap176_congr (wrap176_emod v)

/-! ### What an addend brings (R125) -/

/-- An addend that is infinite, or too great for the grid, is counted as an infinity of its sign. -/
def Num.tops (neg : Bool) : Num → Bool
  | .nan => false
  | .inf s => s == neg
  | .fin s m e => s == neg && geq47 m e

/-- What an addend adds to the value. -/
def Num.grid : Num → Int
  | .fin s m e => if geq47 m e then 0 else gridVal s m e
  | _ => 0

/-- The sum of addends: a superaccumulator to which nothing but them was added. -/
def SAcc.total (xs : List Num) : SAcc := {
  value := wrap176 (xs.map Num.grid).sum, nan := xs.any (· == .nan), posInf := xs.any (Num.tops false), negInf := xs.any (Num.tops true),
  cntOvf := decide (4294967296 < xs.length), count := xs.length }

/-- An addend adds to each part, whichever kind it is. -/
theorem SAcc.add_parts {a : SAcc} (hvalue : wrap176 a.value = a.value) (x : Num) : a.add x = {
    value := wrap176 (a.value + x.grid), nan := a.nan || x == .nan, posInf := a.posInf || x.tops false, negInf := a.negInf || x.tops true,
    cntOvf := a.cntOvf || decide (4294967296 < a.count + 1), count := a.count + 1 } := by
  cases x with
  | nan => simp [SAcc.add, Num.grid, Num.tops, hvalue]
  | inf s => cases s <;> simp [SAcc.add, Num.grid, Num.tops, hvalue]
  | fin s m e =>
    cases hbig : geq47 m e
    · simp [SAcc.add, Num.grid, Num.tops, hbig]
    · cases s <;> simp [SAcc.add, Num.grid, Num.tops, hbig, hvalue]

/-- A count that is over stays over. -/
theorem decide_lt_or_add (l m n : Nat) : (decide (l < m) || decide (l < m + n)) = decide (l < m + n) := by
  rw [← Bool.decide_or, decide_eq_decide]
  omega

theorem SAcc.total_concat (xs : List Num) (x : Num) : (SAcc.total xs).add x = SAcc.total (xs ++ [x]) := by
  rw [SAcc.add_parts (wrap176_wrap176 _), SAcc.total, SAcc.total, SAcc.mk.injEq]
  refine ⟨?_, by simp, by simp, by simp, ?_, by simp⟩
  · simp [wrap176_add_left]
  · rw [List.length_append]
    exact decide_lt_or_add ..

theorem SAcc.foldl_add (xs : List Num) : xs.foldl SAcc.add SAcc.zero = SAcc.total xs := by
  induction xs using List.reverseRecOn with
  | nil => rfl
  | append_singleton xs x ih => rw [List.foldl_concat, ih, SAcc.total_concat]

theorem SAcc.total_append (xs ys : List Num) : (SAcc.total xs).comb (SAcc.total ys) = SAcc.total (xs ++ ys) := by
  rw [SAcc.comb, SAcc.total, SAcc.total, SAcc.total, SAcc.mk.injEq]
  refine ⟨?_, by simp, by simp, by simp, ?_, by simp⟩
  · rw [wrap176_add, List.map_append, List.sum_append]
  · rw [Bool.or_assoc, Nat.add_comm, decide_lt_or_add, Nat.add_comm, decide_lt_or_add, List.length_append]

theorem SAcc.total_perm {xs ys : List Num} (h : xs.Perm ys) : SAcc.total xs = SAcc.total ys := by
  simp only [SAcc.total, (h.map Num.grid).sum_eq, h.any_eq, h.length_eq]

/-! ### The 32 bytes (R126) -/

/-- The flag byte. -/
def SAcc.flags (a : SAcc) : Nat :=
  (if a.nan then 1 else 0) + (if a.posInf then 2 else 0) + (if a.negInf then 4 else 0) + (if a.cntOvf then 8 else 0)

theorem SAcc.flags_bits (a : SAcc) : a.flags < 16 ∧ bit a.flags 0 = a.nan ∧ bit a.flags 1 = a.posInf ∧ bit a.flags 2 = a.negInf ∧
    bit a.flags 3 = a.cntOvf := by
  rw [SAcc.flags]
  generalize a.nan = nan
  generalize a.posInf = pos
  generalize a.negInf = neg
  generalize a.cntOvf = ovf
  revert nan pos neg ovf
  decide

theorem SAcc.bytes_fields (a : SAcc) :
    a.bytes = leBytes 22 (a.value % two176).toNat ++ (leBytes 1 a.flags ++ (leBytes 1 0 ++ leBytes 8 a.count)) := by
  rw [SAcc.bytes, List.append_assoc]
  rfl

/-- The bytes read back, of a value in range and a count of 64 bits. -/
theorem SAcc.ofBytes_bytes {a : SAcc} (hvalue : wrap176 a.value = a.value) (hcount : a.count < 2 ^ 64) : SAcc.ofBytes a.bytes = some a := by
  obtain ⟨hflags, hnan, hpos, hneg, hovf⟩ := a.flags_bits
  have hbytes := a.bytes_fields
  have hval : leAt a.bytes 0 22 = (a.value % two176).toNat := by
    rw [hbytes, leAt_leBytes_head]
    exact Nat.mod_eq_of_lt ((Int.toNat_lt (Int.emod_nonneg _ (by decide))).mpr (Int.emod_lt_of_pos _ (by decide)))
  have hflag : leAt a.bytes 22 1 = a.flags := by
    rw [hbytes, leAt_leBytes_skip (by decide), leAt_leBytes_head]
    exact Nat.mod_eq_of_lt (by omega)
  have hres : leAt a.bytes 23 1 = 0 := by
    rw [hbytes, leAt_leBytes_skip (by decide), leAt_leBytes_skip (by decide), leAt_leBytes_head, Nat.zero_mod]
  have hcnt : leAt a.bytes 24 8 = a.count := by
    rw [hbytes, leAt_leBytes_skip (by decide), leAt_leBytes_skip (by decide), leAt_leBytes_skip (by decide), leAt_leBytes]
    exact Nat.mod_eq_of_lt hcount
  have hback : wrap176 ((a.value % two176).toNat : Nat) = a.value := by
    rw [Int.toNat_of_nonneg (Int.emod_nonneg _ (by decide)), wrap176_congr (Int.emod_emod_of_dvd _ (dvd_refl _)), hvalue]
  have hok : ¬ (leAt a.bytes 23 1 ≠ 0 ∨ 16 ≤ leAt a.bytes 22 1) := by omega
  rw [SAcc.ofBytes, if_neg hok, hval, hback, hflag, hcnt, hnan, hpos, hneg, hovf]

/-- Settles O32: adding up and combining both give `SAcc.total`, a function of the addends whatever their order. -/
theorem superaccumulatorOrder : Obligations.SuperaccumulatorOrder := by
  refine ⟨fun xs ys zs hperm => ?_, fun xs hlen => ?_, fun bs hreserved => if_pos hreserved⟩
  · rw [SAcc.foldl_add, SAcc.foldl_add, SAcc.foldl_add, SAcc.total_append, SAcc.total_perm hperm]
  · rw [SAcc.foldl_add]
    exact ⟨by simp [SAcc.bytes], SAcc.ofBytes_bytes (wrap176_wrap176 _) hlen⟩

end Sys2Proof.Machine

/-! Number formats (R113, R116, R118): an encoding is what its value encodes to, and the order of values by a rank. -/

namespace Sys2Proof.Machine

/-! ### Encodings (R113) -/

/-- The exponent of a format's subnormal numbers. -/
def Flt.low (f : Flt) : Int := 1 - (f.bias : Int) - f.mb

theorem bits_lt (v lo w : Nat) : bits v lo w < 2 ^ w := Nat.mod_lt _ (Nat.two_pow_pos w)

/-- Sign, exponent and mantissa make up the encoding. -/
theorem Flt.fields (f : Flt) {v : Nat} (hv : v < 2 ^ (1 + f.eb + f.mb)) :
    f.sgn (bit v (f.mb + f.eb)) + (bits v f.mb f.eb * 2 ^ f.mb + bits v 0 f.mb) = v := by
  have hsign : f.sgn (bit v (f.mb + f.eb)) = 2 ^ (f.mb + f.eb) * (v / 2 ^ (f.mb + f.eb)) := by
    have htop : v / 2 ^ (f.mb + f.eb) < 2 := Nat.div_lt_of_lt_mul (by rwa [← Nat.pow_succ, show (f.mb + f.eb).succ = 1 + f.eb + f.mb by omega])
    rw [Flt.sgn, bit, bits, pow_one, Nat.mod_eq_of_lt htop]
    generalize v / 2 ^ (f.mb + f.eb) = q at htop ⊢
    interval_cases q <;> simp
  have hrest : bits v f.mb f.eb * 2 ^ f.mb + bits v 0 f.mb = v % 2 ^ (f.mb + f.eb) := by
    rw [bits, bits, Nat.pow_zero, Nat.div_one, Nat.pow_add, Nat.mod_mul]
    ring
  rw [hsign, hrest, Nat.div_add_mod]

/-- Finite encodings stay below `Flt.maxFin`. -/
theorem Flt.code_le_maxFin {f : Flt} {e m : Nat} (hspecial : f.special ∈ [0, 1, 2]) (he : e < 2 ^ f.eb) (hm : m < 2 ^ f.mb)
    (hfin : f.special = 0 → e ≠ 2 ^ f.eb - 1) (hnan : f.special = 1 → ¬ (e = 2 ^ f.eb - 1 ∧ m = 2 ^ f.mb - 1)) : e * 2 ^ f.mb + m ≤ f.maxFin := by
  have hnext {top : Nat} (h : e < top) : e * 2 ^ f.mb + m < top * 2 ^ f.mb :=
    calc e * 2 ^ f.mb + m < (e + 1) * 2 ^ f.mb := by rw [Nat.succ_mul]; omega
      _ ≤ top * 2 ^ f.mb := Nat.mul_le_mul_right _ h
  have hall := hnext he
  simp only [List.mem_cons, List.not_mem_nil, or_false] at hspecial
  rcases hspecial with h | h | h
  · have := hnext (top := 2 ^ f.eb - 1) (by have := hfin h; omega)
    simp only [Flt.maxFin, h]
    omega
  · have htop : (2 ^ f.eb - 1) * 2 ^ f.mb + 2 ^ f.mb = 2 ^ f.eb * 2 ^ f.mb := by
      rw [← Nat.succ_mul, Nat.succ_eq_add_one, Nat.sub_add_cancel Nat.one_le_two_pow]
    simp only [Flt.maxFin, h, Nat.pow_add]
    rcases Nat.lt_or_ge e (2 ^ f.eb - 1) with hlt | hge
    · have := hnext hlt
      omega
    · have he' : e = 2 ^ f.eb - 1 := by omega
      have := hnan h
      subst he'
      omega
  · simp only [Flt.maxFin, h, Nat.pow_add]
    omega

/-- What an encoding can mean. -/
theorem Flt.dec_cases (f : Flt) (v : Nat) : f.dec v = .nan ∨
    (f.special = 0 ∧ bits v f.mb f.eb = 2 ^ f.eb - 1 ∧ bits v 0 f.mb = 0 ∧ f.dec v = .inf (bit v (f.mb + f.eb))) ∨
    ((f.special = 0 → bits v f.mb f.eb ≠ 2 ^ f.eb - 1) ∧ (f.special = 1 → ¬ (bits v f.mb f.eb = 2 ^ f.eb - 1 ∧ bits v 0 f.mb = 2 ^ f.mb - 1)) ∧
      ((bits v f.mb f.eb = 0 ∧ f.dec v = .fin (bit v (f.mb + f.eb)) (bits v 0 f.mb) f.low) ∨
        (bits v f.mb f.eb ≠ 0 ∧ f.dec v = .fin (bit v (f.mb + f.eb)) (bits v 0 f.mb + 2 ^ f.mb) (f.low + (bits v f.mb f.eb - 1 : Nat))))) := by
  have hexp (h : bits v f.mb f.eb ≠ 0) : (bits v f.mb f.eb : Int) - f.bias - f.mb = f.low + (bits v f.mb f.eb - 1 : Nat) := by
    rw [Flt.low]
    omega
  unfold Flt.dec
  dsimp only
  split
  next h =>
    split
    · exact .inr (.inl ⟨h.1, h.2, ‹_›, rfl⟩)
    · exact .inl rfl
  next hinf =>
    split
    · exact .inl rfl
    next hnan =>
      refine .inr (.inr ⟨fun h he => hinf ⟨h, he⟩, fun h he => hnan ⟨h, he⟩, ?_⟩)
      split
      · exact .inl ⟨‹_›, rfl⟩
      next h => exact .inr ⟨h, by rw [hexp h]⟩

/-- A number whose mantissa needs no rounding at its exponent is encoded as it is. -/
theorem Flt.enc_fin (f : Flt) (s : Bool) {m k : Nat} (hm : m ≠ 0) (hown : (m.log2 ≤ f.mb ∧ k = 0) ∨ m.log2 = f.mb)
    (hcode : k * 2 ^ f.mb + m ≤ f.maxFin) : f.enc (.fin s m (f.low + k)) = f.sgn s + (k * 2 ^ f.mb + m) := by
  have hexp : max (1 - (f.bias : Int) - f.mb) (f.low + k + m.log2 - f.mb) = f.low + k := by
    rw [Flt.low]
    omega
  have hsteps : (f.low + k - (1 - (f.bias : Int) - f.mb)).toNat = k := by
    rw [Flt.low]
    omega
  simp only [Flt.enc, hm, if_false, hexp, hsteps, rneShift, sub_self, le_refl, if_true, Int.toNat_zero, pow_zero, mul_one, hcode]

/-- R113, R116: the value of an encoding encodes to it, but for a NaN. -/
theorem Flt.enc_dec {f : Flt} (hspecial : f.special ∈ [0, 1, 2]) {v : Nat} (hv : v < 2 ^ (1 + f.eb + f.mb)) (hnan : f.dec v ≠ .nan) :
    f.enc (f.dec v) = v := by
  have hm := bits_lt v 0 f.mb
  have he := bits_lt v f.mb f.eb
  have hfields := f.fields hv
  obtain h | ⟨hs, htop, hzero, h⟩ | ⟨hfin, hnotNan, hkind⟩ := f.dec_cases v
  · exact absurd h hnan
  · rw [h]
    simp only [Flt.enc, hs]
    rw [← htop, ← Nat.add_zero (_ * _), ← hzero]
    exact hfields
  · have hcode := Flt.code_le_maxFin hspecial he hm hfin hnotNan
    obtain ⟨hzero, h⟩ | ⟨hnormal, h⟩ := hkind
    · rw [hzero, Nat.zero_mul, Nat.zero_add] at hcode hfields
      rw [h]
      by_cases hm0 : bits v 0 f.mb = 0
      · rw [hm0, Nat.add_zero] at hfields
        rw [hm0, Flt.enc, if_pos rfl, hfields]
      · have := f.enc_fin (bit v (f.mb + f.eb)) (k := 0) hm0 (.inl ⟨((Nat.log2_lt hm0).mpr hm).le, rfl⟩) (by rwa [Nat.zero_mul, Nat.zero_add])
        rwa [Nat.zero_mul, Nat.zero_add, hfields, Nat.cast_zero, add_zero] at this
    · have hpos := Nat.two_pow_pos f.mb
      have hlog : (bits v 0 f.mb + 2 ^ f.mb).log2 = f.mb := (Nat.log2_eq_iff (by omega)).mpr ⟨by omega, by rw [Nat.pow_succ]; omega⟩
      have hstep : (bits v f.mb f.eb - 1) * 2 ^ f.mb + (bits v 0 f.mb + 2 ^ f.mb) = bits v f.mb f.eb * 2 ^ f.mb + bits v 0 f.mb := by
        obtain ⟨k, hk⟩ := Nat.exists_eq_succ_of_ne_zero hnormal
        rw [hk, Nat.succ_sub_one, Nat.succ_mul]
        omega
      rw [h, f.enc_fin _ (by omega) (.inr hlog) (hstep ▸ hcode), hstep, hfields]

/-! ### The order of values (R118) -/

/-- The place of a number: its kind and sign, then its value. -/
def Num.rank : Num → ℕ ×ₗ ℚ
  | .inf true => toLex (0, 0)
  | .fin true m e => toLex (1, -(m * 2 ^ e))
  | .fin false m e => toLex (2, m * 2 ^ e)
  | .inf false => toLex (3, 0)
  | .nan => toLex (4, 0)

/-- Two finite magnitudes are compared at the lesser of their exponents. -/
theorem aligned_le_iff (m n : Nat) (e f : Int) :
    m * 2 ^ (e - min e f).toNat ≤ n * 2 ^ (f - min e f).toNat ↔ (m : ℚ) * 2 ^ e ≤ n * 2 ^ f := by
  have hscale (k : Nat) {i : Int} (hi : min e f ≤ i) : (k : ℚ) * 2 ^ i = (k * 2 ^ (i - min e f).toNat : Nat) * 2 ^ min e f := by
    rw [Nat.cast_mul, Nat.cast_pow, Nat.cast_two, mul_assoc, ← zpow_natCast, ← zpow_add₀ two_ne_zero, Int.toNat_of_nonneg (sub_nonneg.mpr hi),
      sub_add_cancel]
  rw [hscale m (min_le_left e f), hscale n (min_le_right e f), mul_le_mul_iff_left₀ (zpow_pos two_pos _), Nat.cast_le]

theorem Num.le_iff_rank {x y : Num} (hx : x ≠ .nan) (hy : y ≠ .nan) : x.le y = true ↔ x.rank ≤ y.rank := by
  cases x with
  | nan => exact absurd rfl hx
  | inf a => cases y with
    | nan => exact absurd rfl hy
    | inf b => cases a <;> cases b <;> simp [Num.le, Num.rank, Prod.Lex.toLex_le_toLex]
    | fin b n f => cases a <;> cases b <;> simp [Num.le, Num.rank, Prod.Lex.toLex_le_toLex]
  | fin a m e => cases y with
    | nan => exact absurd rfl hy
    | inf b => cases a <;> cases b <;> simp [Num.le, Num.rank, Prod.Lex.toLex_le_toLex]
    | fin b n f =>
      have hswap := aligned_le_iff n m f e
      rw [min_comm] at hswap
      cases a <;> cases b <;> simp [Num.le, Num.rank, Prod.Lex.toLex_le_toLex, aligned_le_iff, hswap]

theorem Num.rank_le_nan (x : Num) : x.rank ≤ Num.nan.rank := by
  cases x with
  | nan => exact le_rfl
  | inf s => cases s <;> simp [Num.rank, Prod.Lex.toLex_le_toLex]
  | fin s m e => cases s <;> simp [Num.rank, Prod.Lex.toLex_le_toLex]

theorem rank_max32 (x y : Num) : (max32 x y).rank = max x.rank y.rank := by
  unfold max32
  split
  next h =>
    rcases h with rfl | rfl
    · exact (max_eq_left (Num.rank_le_nan y)).symm
    · exact (max_eq_right (Num.rank_le_nan x)).symm
  next h =>
    rw [max_def, apply_ite Num.rank]
    exact if_congr (Num.le_iff_rank (fun hx => h (.inl hx)) fun hy => h (.inr hy)) rfl rfl

theorem max32_or (x y : Num) : max32 x y = x ∨ max32 x y = y := by
  unfold max32
  split
  next h => exact h.imp Eq.symm Eq.symm
  next => split <;> simp

/-- A finite number of a format: its mantissa has the format's bits, and the first of them is set unless it is subnormal. -/
def Flt.Holds (f : Flt) : Num → Prop
  | .fin _ m e => m < 2 ^ (f.mb + 1) ∧ f.low ≤ e ∧ (e = f.low ∨ 2 ^ f.mb ≤ m)
  | _ => True

theorem Flt.holds_dec (f : Flt) (v : Nat) : f.Holds (f.dec v) := by
  have hm := bits_lt v 0 f.mb
  obtain h | ⟨-, -, -, h⟩ | ⟨-, -, ⟨-, h⟩ | ⟨-, h⟩⟩ := f.dec_cases v <;> rw [h]
  · trivial
  · trivial
  · exact ⟨by rw [Nat.pow_succ]; omega, le_rfl, .inl rfl⟩
  · exact ⟨by rw [Nat.pow_succ]; omega, by omega, .inr (Nat.le_add_left _ _)⟩

theorem Flt.holds_max32 {f : Flt} {x y : Num} (hx : f.Holds x) (hy : f.Holds y) : f.Holds (max32 x y) := by
  rcases max32_or x y with h | h <;> rwa [h]

/-- Of equal magnitudes of a format neither has the greater exponent. -/
theorem Flt.exp_le_of_eq {f : Flt} {s t : Bool} {m n : Nat} {e k : Int} (hx : f.Holds (.fin s m e)) (hy : f.Holds (.fin t n k))
    (h : (m : ℚ) * 2 ^ e = n * 2 ^ k) : k ≤ e := by
  by_contra hlt
  obtain ⟨hm, hlow, -⟩ := hx
  obtain ⟨-, -, hn⟩ := hy
  have hlead : 2 ^ f.mb ≤ n := hn.resolve_left (by omega)
  obtain ⟨d, rfl⟩ : ∃ d : Nat, k = e + 1 + d := ⟨(k - e - 1).toNat, by omega⟩
  have heq : (m : ℚ) = (n * 2 ^ (d + 1) : Nat) := by
    have hpos : (2 : ℚ) ^ e ≠ 0 := zpow_ne_zero e two_ne_zero
    rw [add_assoc, zpow_add₀ two_ne_zero, mul_comm ((2 : ℚ) ^ e), ← mul_assoc] at h
    rw [mul_right_cancel₀ hpos h, Nat.cast_mul, Nat.cast_pow, Nat.cast_two, add_comm (1 : Int), ← zpow_natCast, Nat.cast_add, Nat.cast_one]
  have hm' : m = n * 2 ^ d * 2 := by rw [Nat.cast_injective heq, Nat.pow_succ, mul_assoc]
  have := Nat.le_mul_of_pos_right n (Nat.two_pow_pos d)
  rw [Nat.pow_succ] at hm
  omega

theorem Flt.mantissa_eq {f : Flt} {s t : Bool} {m n : Nat} {e k : Int} (hx : f.Holds (.fin s m e)) (hy : f.Holds (.fin t n k))
    (h : (m : ℚ) * 2 ^ e = n * 2 ^ k) : m = n ∧ e = k := by
  obtain rfl : e = k := le_antisymm (Flt.exp_le_of_eq hy hx h.symm) (Flt.exp_le_of_eq hx hy h)
  exact ⟨Nat.cast_injective (mul_right_cancel₀ (zpow_ne_zero e two_ne_zero) h), rfl⟩

/-- Numbers of one format differ in their places. -/
theorem Flt.rank_injective {f : Flt} {x y : Num} (hx : f.Holds x) (hy : f.Holds y) (h : x.rank = y.rank) : x = y := by
  cases x with
  | nan => cases y with
    | nan => rfl
    | inf t => cases t <;> simp [Num.rank] at h
    | fin t n k => cases t <;> simp [Num.rank] at h
  | inf s => cases y with
    | nan => cases s <;> simp [Num.rank] at h
    | inf t => cases s <;> cases t <;> simp [Num.rank] at h ⊢
    | fin t n k => cases s <;> cases t <;> simp [Num.rank] at h
  | fin s m e => cases y with
    | nan => cases s <;> simp [Num.rank] at h
    | inf t => cases s <;> cases t <;> simp [Num.rank] at h
    | fin t n k =>
      obtain rfl : s = t := by cases s <;> cases t <;> simp [Num.rank] at h ⊢
      obtain ⟨rfl, rfl⟩ := Flt.mantissa_eq hx hy (by cases s <;> simpa [Num.rank] using h)
      rfl

/-- Settles O33: an encoding is put together again from its fields, and numbers of one format are ordered by their ranks. -/
theorem numberFormats : Obligations.NumberFormats := by
  refine ⟨fun f hf v hv hnan => ?_, fun a b c => ?_⟩
  · have hspecial : ∀ f ∈ [fFP32, fBF16, fFP16, fE4M3, fE5M2, fE3M2, fE2M3, fE2M1], f.special ∈ [0, 1, 2] := by decide
    exact Flt.enc_dec (hspecial f hf) hv hnan
  · have hholds (v : Nat) : fFP32.Holds (f32 v) := fFP32.holds_dec v
    have hab := Flt.holds_max32 (hholds a) (hholds b)
    have hbc := Flt.holds_max32 (hholds b) (hholds c)
    refine ⟨Flt.rank_injective hab (Flt.holds_max32 (hholds b) (hholds a)) ?_,
      Flt.rank_injective (Flt.holds_max32 hab (hholds c)) (Flt.holds_max32 (hholds a) hbc) ?_⟩
    · rw [rank_max32, rank_max32, max_comm]
    · simp only [rank_max32, max_assoc]

end Sys2Proof.Machine

/-! Writes of array, mirror and translation registers (R109, R135, R335, R336, R346, R486). -/

namespace Sys2Proof.Machine

/-! ### Registers of fields that are taken in a range (R12) -/

/-- `ARR_AUDIT_CTL`. -/
def arrAuditCtl : RegSpec := { name := "ARR_AUDIT_CTL", off := 0x30000, stride := 0x8, count := 1, fields := [
  ⟨"LOG2_N", 8, 5, .rw, 0xa⟩, ⟨"FAIL_ON_MISMATCH", 1, 1, .rw, 0⟩, ⟨"ENABLE", 0, 1, .rw, 0⟩] }

/-- `ARR_DISABLE`. -/
def arrDisableReg : RegSpec := { name := "ARR_DISABLE", off := 0x30018, stride := 0x8, count := 1, fields := [⟨"ARRAY", 0, 64, .rw, 0⟩] }

/-- `STORE_MIRROR`, one for each port. -/
def storeMirror : RegSpec := { name := "STORE_MIRROR", off := 0xC0100, stride := 0x8, count := 12, fields := [
  ⟨"CLASS_MASK", 16, 8, .rw, 0xff⟩, ⟨"LOG2_N", 8, 5, .rw, 0x14⟩, ⟨"OUT", 1, 1, .rw, 0⟩, ⟨"IN", 0, 1, .rw, 0⟩] }

theorem findReg_arrAuditCtl : findReg 0x30000 = some (arrAuditCtl, 0) := by decide +kernel

theorem findReg_arrDisable : findReg 0x30018 = some (arrDisableReg, 0) := by decide +kernel

theorem findReg_storeMirror : ∀ p < 12, findReg (0xC0100 + 8 * p) = some (storeMirror, p) := by decide +kernel

theorem State.plainWrite_onlyWords {s : State} {off i : Nat} {r : RegSpec} (h : findReg off = some (r, i)) (w : Word) (ok : String → Nat → Bool) :
    s.OnlyWords (s.plainWrite off w ok) [off] := by
  obtain ⟨-, hothers, honly⟩ := State.plainWrite_fields s off i w ok r h
  exact ⟨honly, fun o ho => hothers o (by simpa using ho)⟩

/-- A field that software writes takes a value in its range. -/
theorem FSpec.after_rw {f : FSpec} (h : f.acc = .rw) (locked ok : Bool) (old w : Nat) :
    f.after locked ok old w = if ok then bits w f.lo f.width else bits old f.lo f.width := by
  simp only [FSpec.after, h]

/-! ### Array and mirror registers (R109, R135, R486) -/

/-- A word would disable every array of a group that a slice other than 0 has. -/
def State.emptiesGroup (s : State) (w : Word) : Prop :=
  ∃ g < 8, bits w.toNat (8 * g) 8 = 255 ∧ ∃ x, 1 ≤ x ∧ x < 64 ∧ bit (s.fldAt f_SLC_CFG_GROUPS x) g = true

theorem State.emptiesGroup_iff (s : State) (w : Word) : s.emptiesGroup w ↔ ((List.range 8).any fun g => bits w.toNat (8 * g) 8 == 255 &&
    (List.range 63).any fun x => bit (s.fldAt f_SLC_CFG_GROUPS (x + 1)) g) = true := by
  have hslices (g : Nat) : (∃ x, 1 ≤ x ∧ x < 64 ∧ bit (s.fldAt f_SLC_CFG_GROUPS x) g = true) ↔
      ∃ x, x < 63 ∧ bit (s.fldAt f_SLC_CFG_GROUPS (x + 1)) g = true := by
    constructor
    · rintro ⟨x, hlo, hhi, hx⟩
      exact ⟨x - 1, by omega, by rwa [Nat.sub_add_cancel hlo]⟩
    · rintro ⟨x, hlt, hx⟩
      exact ⟨x + 1, by omega, by omega, hx⟩
  simp only [State.emptiesGroup, hslices, List.any_eq_true, List.mem_range, Bool.and_eq_true, beq_iff_eq]

theorem State.arrDisable_empties {s : State} {w : Word} (h : s.emptiesGroup w) : s.arrDisable w = s.setFld f_ARR_AUDIT_STATUS_DISABLE_REJECT 1 :=
  if_pos ((s.emptiesGroup_iff w).mp h)

theorem State.arrDisable_whole {s : State} {w : Word} (h : ¬ s.emptiesGroup w) :
    s.OnlyWords (s.arrDisable w) [0x30018] ∧ (s.arrDisable w).word 0x30018 = w := by
  have hwrite : s.arrDisable w = s.plainWrite 0x30018 w (fun _ _ => true) := if_neg (mt (s.emptiesGroup_iff w).mpr h)
  have hword (x : Word) : bits x.toNat 0 64 = x.toNat := by rw [bits, Nat.pow_zero, Nat.div_one, Nat.mod_eq_of_lt x.isLt]
  rw [hwrite]
  obtain ⟨hfields, -⟩ := State.plainWrite_fields s _ 0 w (fun _ _ => true) arrDisableReg findReg_arrDisable
  have harray := hfields ⟨"ARRAY", 0, 64, .rw, 0⟩ (by simp [arrDisableReg])
  rw [FSpec.after_rw rfl, if_pos rfl, hword, hword] at harray
  exact ⟨State.plainWrite_onlyWords findReg_arrDisable .., BitVec.eq_of_toNat_eq harray⟩

/-- `LOG2_N` of a register is taken up to 20. -/
def log2Ok (n : String) (v : Nat) : Bool := n != "LOG2_N" || decide (v ≤ 20)

theorem State.auditCtl_fields (s : State) (w : Word) (t : State) (ht : s.plainWrite 0x30000 w log2Ok = t) :
    s.OnlyWords t [0x30000] ∧ t.fld f_ARR_AUDIT_CTL_ENABLE = f_ARR_AUDIT_CTL_ENABLE.get w ∧
      t.fld f_ARR_AUDIT_CTL_FAIL_ON_MISMATCH = f_ARR_AUDIT_CTL_FAIL_ON_MISMATCH.get w ∧
      t.fld f_ARR_AUDIT_CTL_LOG2_N = (if f_ARR_AUDIT_CTL_LOG2_N.get w ≤ 20 then f_ARR_AUDIT_CTL_LOG2_N.get w else s.fld f_ARR_AUDIT_CTL_LOG2_N) := by
  subst ht
  obtain ⟨hfields, -⟩ := State.plainWrite_fields s _ 0 w log2Ok arrAuditCtl findReg_arrAuditCtl
  simp only [arrAuditCtl, List.forall_mem_cons, FSpec.after_rw, log2Ok, bne_self_eq_false, Bool.false_or, decide_eq_true_eq] at hfields
  obtain ⟨hlog, hfail, henable, -⟩ := hfields
  exact ⟨State.plainWrite_onlyWords findReg_arrAuditCtl .., henable, hfail, hlog⟩

theorem State.mirrorWrite_fields (s : State) {p : Nat} (hp : p < 12) (w : Word) (t : State) (ht : s.plainWrite (0xC0100 + 8 * p) w log2Ok = t) :
    s.OnlyWords t [0xC0100 + 8 * p] ∧ t.fldAt f_STORE_MIRROR_IN p = f_STORE_MIRROR_IN.get w ∧
      t.fldAt f_STORE_MIRROR_OUT p = f_STORE_MIRROR_OUT.get w ∧ t.fldAt f_STORE_MIRROR_CLASS_MASK p = f_STORE_MIRROR_CLASS_MASK.get w ∧
      t.fldAt f_STORE_MIRROR_LOG2_N p =
        (if f_STORE_MIRROR_LOG2_N.get w ≤ 20 then f_STORE_MIRROR_LOG2_N.get w else s.fldAt f_STORE_MIRROR_LOG2_N p) := by
  subst ht
  obtain ⟨hfields, -⟩ := State.plainWrite_fields s _ p w log2Ok storeMirror (findReg_storeMirror p hp)
  simp only [storeMirror, List.forall_mem_cons, FSpec.after_rw, log2Ok, bne_self_eq_false, Bool.false_or, decide_eq_true_eq] at hfields
  obtain ⟨hmask, hlog, hout, hin, -⟩ := hfields
  exact ⟨State.plainWrite_onlyWords (findReg_storeMirror p hp) .., hin, hout, hmask, hlog⟩

/-! ### `XL_ROOT` (R335, R346) -/

/-- The root and its `VALID` as a write leaves them. -/
def State.rootSet (s : State) (x : Nat) (w : Word) : State :=
  (s.setFldAt f_XL_ROOT_ROOT x (f_XL_ROOT_ROOT.get w)).setFldAt f_XL_ROOT_VALID x (f_XL_ROOT_VALID.get w)

theorem State.rootSet_fields (s : State) (x : Nat) (w : Word) : s.OnlyWords (s.rootSet x w) [f_XL_ROOT_ROOT.addr x] ∧
    (s.rootSet x w).fldAt f_XL_ROOT_VALID x = f_XL_ROOT_VALID.get w ∧ (s.rootSet x w).fldAt f_XL_ROOT_ROOT x = f_XL_ROOT_ROOT.get w ∧
    (s.rootSet x w).fldAt f_XL_ROOT_BUSY x = s.fldAt f_XL_ROOT_BUSY x := by
  refine ⟨⟨rfl, fun o ho => ?_⟩, ?_, ?_, ?_⟩
  · have ho' : o ≠ f_XL_ROOT_ROOT.addr x := by simpa using ho
    rw [State.rootSet, State.word_setFldAt_ne _ f_XL_ROOT_VALID _ _ ho', State.word_setFldAt_ne _ _ _ _ ho']
  · exact (State.fldAt_setFldAt _ f_XL_ROOT_VALID _ _ (by decide)).trans (Nat.mod_eq_of_lt (Fld.get_lt ..))
  · rw [State.rootSet, State.fldAt_setFldAt_ne _ _ _ _ _ _ (by decide) (.inr (.inr (by decide))), State.fldAt_setFldAt _ _ _ _ (by decide)]
    exact Nat.mod_eq_of_lt (Fld.get_lt ..)
  · rw [State.rootSet, State.fldAt_setFldAt_ne _ _ _ _ _ _ (by decide) (.inr (.inr (by decide))),
      State.fldAt_setFldAt_ne _ _ _ _ _ _ (by decide) (.inr (.inl (by decide)))]

/-- A write of `XL_ROOT` is rejected: while `BUSY`, of a valid root outside the page-table area, and of another root while one is valid. -/
def State.rootRefused (s : State) (x : Nat) (w : Word) : Prop :=
  s.fldAt f_XL_ROOT_BUSY x = 1 ∨ (f_XL_ROOT_VALID.get w = 1 ∧ ¬ s.withinPt (f_XL_ROOT_ROOT.get w * 2 ^ 14) (xlTable 4) = true) ∨
    (s.fldAt f_XL_ROOT_VALID x = 1 ∧ f_XL_ROOT_VALID.get w = 1 ∧ f_XL_ROOT_ROOT.get w ≠ s.fldAt f_XL_ROOT_ROOT x)

section Root
variable {s : State} {x : Nat} (hx : x < 64) {w : Word}
include hx

theorem State.rootWrite_refused (h : s.rootRefused x w) : s.rootWrite x w = s.incSat f_XL_ERR_ROOT_REJECTS := by
  rw [State.rootWrite, if_neg (by omega), if_pos (by simpa [State.rootRefused] using h)]

/-- A write that is taken sets the root, and begins to withdraw the translations when it clears `VALID`. -/
theorem State.rootWrite_taken (h : ¬ s.rootRefused x w) : s.rootWrite x w = if s.fldAt f_XL_ROOT_VALID x = 1 ∧ f_XL_ROOT_VALID.get w = 0
    then ((s.rootSet x w).setFldAt f_XL_ROOT_BUSY x 1).startInval x 0 0 true true none else s.rootSet x w := by
  rw [State.rootWrite, if_neg (by omega), if_neg (by simpa [State.rootRefused] using h)]
  rfl

end Root

/-- The translations of a slice withdrawn, by an invalidation that was counted for as long as it ran. -/
def State.withdrawn (s : State) (x : Nat) : State :=
  (({ s with xlCache := s.xlCache.filter (fun e => e.slice != x) }.setFld f_XL_INVAL_STAT_IN_FLIGHT 1).setFldAt f_XL_ROOT_BUSY x 0).setFld
    f_XL_INVAL_STAT_IN_FLIGHT 0

theorem invalStat_ne_root (x : Nat) : f_XL_ROOT_BUSY.addr x ≠ f_XL_INVAL_STAT_IN_FLIGHT.addr 0 := by
  simp only [Fld.addr, f_XL_ROOT_BUSY, f_XL_INVAL_STAT_IN_FLIGHT]
  omega

theorem State.withdrawn_regsKept (s : State) (x : Nat) :
    s.RegsKept (s.withdrawn x) [f_XL_ROOT_ROOT.addr x, f_XL_INVAL_STAT_IN_FLIGHT.addr 0] := fun o ho => by
  obtain ⟨hroot, hstat⟩ : o ≠ f_XL_ROOT_ROOT.addr x ∧ o ≠ f_XL_INVAL_STAT_IN_FLIGHT.addr 0 := by simpa using ho
  rw [State.withdrawn, State.word_setFld_ne _ _ _ hstat, State.word_setFldAt_ne _ f_XL_ROOT_BUSY _ _ hroot, State.word_setFld_ne _ _ _ hstat]
  rfl

theorem State.withdrawn_busy (s : State) (x : Nat) : (s.withdrawn x).fldAt f_XL_ROOT_BUSY x = 0 := by
  rw [State.withdrawn, State.setFld, State.fldAt_setFldAt_ne _ _ _ _ _ _ (by decide) (.inl (invalStat_ne_root x))]
  exact State.fldAt_setFldAt _ _ _ _ (by decide)

/-- The other fields of the root stand. -/
theorem State.withdrawn_root (s : State) (x : Nat) {g : Fld} (haddr : g.addr x = f_XL_ROOT_BUSY.addr x) (hbits : g.lo + g.width ≤ 1 ∨ 2 ≤ g.lo) :
    (s.withdrawn x).fldAt g x = s.fldAt g x := by
  have hstat : g.addr x ≠ f_XL_INVAL_STAT_IN_FLIGHT.addr 0 := haddr ▸ invalStat_ne_root x
  rw [State.withdrawn, State.setFld, State.setFld, State.fldAt_setFldAt_ne _ _ _ _ _ _ (by decide) (.inl hstat),
    State.fldAt_setFldAt_ne _ _ _ _ _ _ (by decide) (.inr hbits), State.fldAt_setFldAt_ne _ _ _ _ _ _ (by decide) (.inl hstat)]
  rfl

/-- The invalidation that withdraws the translations of a slice, when no access is outstanding. -/
def quietInval (x : Nat) : Inval :=
  { slice := x, abort := true, key := none, ended := 0, victims := [], tags := [], txns := [], accs := [], waits := [], cohs := [] }

section Withdraw
variable {s : State} (hreqs : s.outReqs = []) (htxns : s.txns = []) (hfill : s.fillQ = []) (hbank : s.bankQ = []) (hcoh : s.cohWaiting = [])
  (hidle : ∀ d ∈ s.descs, d.phase ≠ .running)
include hreqs htxns hfill hbank hcoh hidle

/-- An invalidation ends at once when nothing is outstanding. -/
theorem State.reapInvals_quiet {x : Nat} (hinvals : s.invals = [quietInval x]) :
    s.reapInvals = ({ s with invals := [] }.setFldAt f_XL_ROOT_BUSY x 0).setFld f_XL_INVAL_STAT_IN_FLIGHT 0 := by
  have hrunning : s.descs.filter (fun d => d.phase == .running && d.stop.isSome) = [] := by
    refine List.filter_eq_nil_iff.mpr fun d hd => ?_
    simp [hidle d hd]
  have hend : s.endStopped = s := by rw [State.endStopped, hrunning, forL, List.foldl_nil]
  have hquiet : s.invalQuiet (quietInval x) = true := by simp [State.invalQuiet, hreqs, htxns, hfill, hbank, hcoh, quietInval]
  simp only [State.reapInvals, hend, hinvals, hquiet, List.filter_cons, List.filter_nil, if_true, Bool.not_true, Bool.false_eq_true, if_false, forL,
    List.foldl_cons, List.foldl_nil, List.isEmpty_cons]
  rfl

/-- With nothing outstanding the translations of the slice are withdrawn, and no descriptor is stopped. -/
theorem State.startInval_quiet (hinvals : s.invals = []) (x : Nat) : s.startInval x 0 0 true true none = s.withdrawn x := by
  have hrunning (p : Desc → Bool) (q : Desc → Bool) : (s.descs.filter p).filter (fun d => d.phase == .running && q d) = [] := by
    refine List.filter_eq_nil_iff.mpr fun d hd => ?_
    simp [hidle d (List.mem_of_mem_filter hd)]
  have hcache : del s.xlCache (fun e => e.slice == x && (true || overlap e.va e.hold.bytes 0 0)) = s.xlCache.filter (fun e => e.slice != x) := by
    simp [del, bne]
  simp only [State.withdrawn, State.startInval, State.dropXlate, hreqs, htxns, hfill, hbank, hcoh, hinvals, hrunning, hcache, List.filter_nil,
    List.map_nil, List.any_nil, List.append_nil, List.nil_append, Bool.and_false, List.filter_false, List.contains_nil,
    Bool.false_eq_true, if_false, if_true, List.map_id']
  rw [State.reapInvals_quiet (x := x) rfl rfl rfl rfl (by exact hcoh) (by exact hidle) rfl]
  rfl

end Withdraw

/-! ### The commands -/

section Commands
variable {s : State} (halive : s.alive = true) (w : Word)
include halive

theorem exec_arrDisableWrite_alive : exec (.arrDisableWrite w) s = .next (s.arrDisable w) :=
  congrArg Host.Outcome.next (State.whenAlive_alive halive _)

theorem exec_arrAuditCtlWrite_alive : exec (.arrAuditCtlWrite w) s = .next (s.auditCtl w) :=
  congrArg Host.Outcome.next (State.whenAlive_alive halive _)

theorem exec_storeMirrorWrite_alive (p : Nat) : exec (.storeMirrorWrite p w) s = .next (s.mirrorWrite p w) :=
  congrArg Host.Outcome.next (State.whenAlive_alive halive _)

theorem exec_xlRootWrite_alive (x : Nat) : exec (.xlRootWrite x w) s = .next (s.rootWrite x w) :=
  congrArg Host.Outcome.next (State.whenAlive_alive halive _)

end Commands

/-- Setting `ARR_AUDIT_CTL.ENABLE` restarts every pass count. -/
theorem State.auditCtl_restarts (s : State) (w : Word) : s.auditCtl w = { s.plainWrite 0x30000 w log2Ok with
    passes := if f_ARR_AUDIT_CTL_ENABLE.get w = 1 then [] else s.passes } := by
  have honly := (State.plainWrite_onlyWords (s := s) findReg_arrAuditCtl w log2Ok).1
  change (if f_ARR_AUDIT_CTL_ENABLE.get w = 1 then { s.plainWrite 0x30000 w log2Ok with passes := [] } else s.plainWrite 0x30000 w log2Ok) = _
  split
  · rfl
  · rw [honly]

theorem State.mirrorWrite_zeroes (s : State) {p : Nat} (hp : p < 12) (w : Word) : s.mirrorWrite p w = { s.plainWrite (0xC0100 + 8 * p) w log2Ok with
    mirrorCnt := s.mirrorCnt.map (fun c => if c.1 / 2 = p then (c.1, (0, c.2.2)) else c) } := by
  have honly := (State.plainWrite_onlyWords (s := s) (findReg_storeMirror p hp) w log2Ok).1
  have hcounts : upd s.mirrorCnt (fun c => c.1 / 2 == p) (fun c => (c.1, (0, c.2.2))) =
      s.mirrorCnt.map (fun c => if c.1 / 2 = p then (c.1, (0, c.2.2)) else c) := by simp only [upd, beq_iff_eq]
  have hsame : (s.plainWrite (0xC0100 + 8 * p) w log2Ok).mirrorCnt = s.mirrorCnt := by rw [honly]
  rw [State.mirrorWrite, if_neg (by omega), ← hcounts, ← hsame]
  rfl

/-- Of a state whose registers alone changed, registers and cached translations differ. -/
theorem State.OnlyRegs.withdrawn {s u : State} (h : s.OnlyRegs u) (x : Nat) :
    u.withdrawn x = { s with regs := (u.withdrawn x).regs, xlCache := s.xlCache.filter (fun e => e.slice != x) } := by
  unfold State.OnlyRegs at h
  have honly : u.withdrawn x = { u with regs := (u.withdrawn x).regs, xlCache := u.xlCache.filter (fun e => e.slice != x) } := rfl
  rw [honly, h]

/-! ### The statement -/

/-- Settles O12: a plain write takes each field in its range, and clearing `VALID` starts an invalidation that ends at once. -/
theorem arraysMirrorsTranslation : Obligations.ArraysMirrorsTranslation := by
  unfold Obligations.ArraysMirrorsTranslation
  refine ⟨fun s w halive => ⟨fun hempties => ?_, fun hfull => ?_, ?_, fun p hp => ?_⟩, fun s x w halive hx => ?_, fun s halive => ?_⟩
  · rw [exec_arrDisableWrite_alive halive, State.arrDisable_empties hempties]
    exact ⟨_, rfl, ⟨rfl, fun o ho => State.word_setFld_ne _ _ _ (by simpa using ho)⟩, State.fld_setFld _ _ _ (by decide),
      State.fld_setFld_ne _ _ _ _ (by decide) (.inr (by decide)), State.fld_setFld_ne _ _ _ _ (by decide) (.inr (by decide))⟩
  · rw [exec_arrDisableWrite_alive halive]
    exact ⟨_, rfl, State.arrDisable_whole hfull⟩
  · obtain ⟨⟨honly, hothers⟩, henable, hfail, hlog⟩ := s.auditCtl_fields w _ rfl
    rw [exec_arrAuditCtlWrite_alive halive, State.auditCtl_restarts]
    generalize s.plainWrite 0x30000 w log2Ok = u at honly hothers henable hfail hlog ⊢
    exact ⟨_, rfl, by rw [honly], hothers, rfl, henable, hfail, hlog⟩
  · obtain ⟨⟨honly, hothers⟩, hin, hout, hmask, hlog⟩ := s.mirrorWrite_fields hp w _ rfl
    rw [exec_storeMirrorWrite_alive halive, State.mirrorWrite_zeroes s hp]
    generalize s.plainWrite (0xC0100 + 8 * p) w log2Ok = u at honly hothers hin hout hmask hlog ⊢
    exact ⟨_, rfl, by rw [honly], hothers, rfl, hin, hout, hmask, hlog⟩
  · have hrejected (h : s.rootRefused x w) : ∃ t, exec (.xlRootWrite x w) s = .next t ∧
        s.OnlyWords t [f_XL_ERR_ROOT_REJECTS.addr 0] ∧
        t.fld f_XL_ERR_ROOT_REJECTS = min (s.fld f_XL_ERR_ROOT_REJECTS + 1) (2 ^ f_XL_ERR_ROOT_REJECTS.width - 1) :=
      ⟨_, (exec_xlRootWrite_alive halive w x).trans (congrArg _ (State.rootWrite_refused hx h)), State.incSat_onlyWords s _ (by decide)⟩
    obtain ⟨hset, hvalid, hroot, hbusy'⟩ := s.rootSet_fields x w
    refine ⟨fun hbusy => hrejected (.inl hbusy), fun hv hout => hrejected (.inr (.inl ⟨hv, hout⟩)),
      fun hv hwas hdiff => hrejected (.inr (.inr ⟨hwas, hv, hdiff⟩)), fun hbusy hwas hin => ?_,
      fun hbusy hwas hv hinvals hreqs htxns hfill hbank hcoh hidle => ?_⟩
    · have htaken : ¬ s.rootRefused x w := by
        rintro (h | ⟨hv, hout⟩ | ⟨h, -⟩)
        · omega
        · exact hout (hin hv)
        · omega
      rw [exec_xlRootWrite_alive halive, State.rootWrite_taken hx htaken, if_neg (by omega)]
      exact ⟨_, rfl, hset, hvalid, hroot, hbusy'.trans hbusy⟩
    · have htaken : ¬ s.rootRefused x w := by rintro (h | ⟨h, -⟩ | ⟨-, h, -⟩) <;> omega
      rw [exec_xlRootWrite_alive halive, State.rootWrite_taken hx htaken, if_pos ⟨hwas, hv⟩, State.startInval_quiet (by exact hreqs) (by exact htxns)
        (by exact hfill) (by exact hbank) (by exact hcoh) (by exact hidle) (by exact hinvals)]
      generalize s.rootSet x w = u at hset hvalid hroot
      obtain ⟨honly, hothers⟩ := hset
      have hbusySet : s.OnlyRegs (u.setFldAt f_XL_ROOT_BUSY x 1) := by rw [honly]; rfl
      have hdone := hbusySet.withdrawn x
      refine ⟨_, rfl, hdone.trans ?_, fun o ho => ?_, by rw [hdone], ?_, ?_, State.withdrawn_busy _ x⟩
      · rw [hdone]
      · have hne : o ≠ f_XL_ROOT_ROOT.addr x := fun h => ho (by simp [h])
        rw [State.withdrawn_regsKept _ x o ho, State.word_setFldAt_ne _ f_XL_ROOT_BUSY _ _ hne, hothers o (by simpa using hne)]
      · rw [State.withdrawn_root _ x (g := f_XL_ROOT_VALID) rfl (.inl (by decide)), State.fldAt_setFldAt_ne _ _ _ _ _ _ (by decide) (.inr (.inl (by decide))),
          hvalid, hv]
      · rw [State.withdrawn_root _ x (g := f_XL_ROOT_ROOT) rfl (.inr (by decide)), State.fldAt_setFldAt_ne _ _ _ _ _ _ (by decide) (.inr (.inr (by decide))),
          hroot]
  · exact congrArg Host.Outcome.next (State.whenAlive_alive halive _)

end Sys2Proof.Machine

/-! What errors of the store and of an array leave (R106, R107, R109, R136, R304, R474). -/

namespace Sys2Proof.Machine

/-! ### Register words that an event with its message leaves (R508, R528) -/

/-- A message touches only the drop counts of its port and slice, its entry of the vector table, and what the record of its drop touches. -/
theorem State.message_word (s : State) (x v : Nat) {o : Nat} (ho : o < 0xD0800) (hport : o < 0xB0040 ∨ 0xB0060 ≤ o) :
    (s.message x v).word o = s.word o := by
  unfold State.message
  extract_lets i k a p s1
  have hk : k < 4 := Fld.get_lt f_SLV_HI_PORT _
  split
  · refine State.word_setFldAt_ne s f_SLC_STATUS_INT_OFF_DROPS x _ ?_
    simp only [Fld.addr, f_SLC_STATUS_INT_OFF_DROPS]
    omega
  · split
    · refine State.word_setFldAt_ne s f_SLV_HI_PENDING i 1 ?_
      simp only [Fld.addr, f_SLV_HI_PENDING]
      omega
    · split
      · have hdrop : o ≠ f_KL_PORT_ERR_INT_DROPS.addr k := by
          simp only [Fld.addr, f_KL_PORT_ERR_INT_DROPS]
          omega
        have hdue (t : State) : t.logDue.word o = t.word o := by
          unfold State.logDue
          split <;> rfl
        rw [hdue, State.record_word_below _ _ (by omega)]
        exact State.word_setFldAt_ne s f_KL_PORT_ERR_INT_DROPS k _ hdrop
      · refine State.word_of_regs (s := s) (t := s1) ?_ o
        simp only [s1, State.sendKl]
        split <;> rfl

/-- Registers below those of slices, but for the drop counts of Kellija ports, read the same after an event. -/
theorem State.raise_word (s : State) (e : Event) {o : Nat} (ho : o < 0xD0800) (hport : o < 0xB0040 ∨ 0xB0060 ≤ o) :
    (s.raise e).word o = s.word o := by
  refine Eq.trans ?_ (State.record_word_below s e (by omega))
  unfold State.raise State.logTell State.logDue
  split
  · exact State.message_word _ _ _ ho hport
  · split <;> rfl

/-! ### Plain memory while no log ring is set (R527) -/

/-- Plain memory and its poisoned lines stand as they were. -/
structure State.CellsStand (s t : State) : Prop where
  mem : t.mem = s.mem
  poison : t.poison = s.poison

theorem State.CellsStand.refl (s : State) : s.CellsStand s := ⟨rfl, rfl⟩

theorem State.CellsStand.trans {s t u : State} (h : s.CellsStand t) (h' : t.CellsStand u) : s.CellsStand u :=
  ⟨h'.mem.trans h.mem, h'.poison.trans h.poison⟩

theorem State.CellsStand.ite {s t u : State} {c : Prop} [Decidable c] (ht : s.CellsStand t) (hu : s.CellsStand u) :
    s.CellsStand (if c then t else u) := by
  split
  · exact ht
  · exact hu

theorem State.CellsStand.setWord {s t : State} (h : s.CellsStand t) (off : Nat) (w : Word) : s.CellsStand (t.setWord off w) := ⟨h.mem, h.poison⟩

theorem State.CellsStand.setFld {s t : State} (h : s.CellsStand t) (f : Fld) (v : Nat) : s.CellsStand (t.setFld f v) := h.setWord _ _

theorem State.setFldAt_cellsStand (s : State) (f : Fld) (i v : Nat) : s.CellsStand (s.setFldAt f i v) := (State.CellsStand.refl s).setWord _ _

theorem State.alarmAdd_cellsStand (s : State) (base i node source cause n first last : Nat) :
    s.CellsStand (s.alarmAdd base i node source cause n first last) := by
  unfold State.alarmAdd
  extract_lets a w0 w1 fresh count sent key pend s1
  have h1 : s.CellsStand s1 := ((State.CellsStand.refl s).setWord _ _).setWord _ _
  exact (State.CellsStand.ite (h1.setWord _ _) h1).setWord _ _

theorem State.countAlarm_cellsStand (s : State) (source cause detail : Nat) : s.CellsStand (s.countAlarm source cause detail) := by
  unfold State.countAlarm
  split
  extract_lets s1 s2 s3 n s4 s5
  have h2 : s.CellsStand s2 := (State.alarmAdd_cellsStand ..).trans (State.setFldAt_cellsStand ..)
  have h3 : s.CellsStand s3 := .ite (h2.trans (State.setFldAt_cellsStand ..)) h2
  have h4 : s.CellsStand s4 := h3.trans (State.setFldAt_cellsStand ..)
  have h5 : s.CellsStand s5 := h4.trans ⟨rfl, rfl⟩
  split
  · split
    exact h5.trans (State.alarmAdd_cellsStand ..)
  · exact h5

theorem State.sendQf_cellsStand (s : State) (p : QPkt) : s.CellsStand (s.sendQf p) := by
  unfold State.sendQf
  split
  · exact .refl s
  · split
    · exact .refl s
    · exact ⟨rfl, rfl⟩

theorem State.freeze_cellsStand (s : State) (trigger : Fld) (source cause : Nat) : s.CellsStand (s.freeze trigger source cause) := by
  have h := State.CellsStand.refl s
  exact .ite h (.ite (.ite (h.setFld _ _) h) (((((((h.setFld _ _).setFld _ _).setFld _ _).setFld _ _).setFld _ _).setFld _ _).setFld _ _))

theorem State.logDue_cellsStand (s : State) : s.CellsStand s.logDue := .ite ⟨rfl, rfl⟩ (.refl s)

section Unlogged
variable {s : State} (hlog : s.fld f_FLT_LOG_RING_LOG2 = 0)
include hlog

/-- With `FLT_LOG_RING.LOG2` 0 no record is written to memory. -/
theorem State.record_cellsStand (e : Event) : s.CellsStand (s.record e) := by
  have hseq : (s.setFld f_FLT_SEQ_SEQ (s.fld f_FLT_SEQ_SEQ + 1)).fld f_FLT_LOG_RING_LOG2 = 0 :=
    (State.fld_setFld_ne _ _ _ _ (by decide) (.inl (by decide))).trans hlog
  unfold State.record
  extract_lets seq r s1 s2 s3 s4
  have h1 : s.CellsStand s1 := by
    unfold s1 State.logWrite
    rw [if_pos hseq]
    exact (State.setFldAt_cellsStand ..).trans (State.setFldAt_cellsStand ..)
  have h2 : s.CellsStand s2 := .ite (h1.trans (State.countAlarm_cellsStand ..)) h1
  have h3 : s.CellsStand s3 := h2.trans ⟨rfl, rfl⟩
  have h4 : s.CellsStand s4 := by
    unfold s4
    split
    · exact .ite (h3.trans (State.sendQf_cellsStand ..)) h3
    · exact h3
  exact .ite (h4.trans (State.freeze_cellsStand ..)) h4

theorem State.message_cellsStand (x v : Nat) : s.CellsStand (s.message x v) := by
  unfold State.message
  extract_lets i k a p s1
  have hk : k < 4 := Fld.get_lt f_SLV_HI_PORT _
  have hdrops : (s.incSatAt f_KL_PORT_ERR_INT_DROPS k).fld f_FLT_LOG_RING_LOG2 = 0 := by
    refine (State.fldAt_setFldAt_ne _ _ _ _ _ _ (by decide) (.inl ?_)).trans hlog
    simp only [Fld.addr, f_FLT_LOG_RING_LOG2, f_KL_PORT_ERR_INT_DROPS]
    omega
  have hsent : s.CellsStand s1 := .ite ⟨rfl, rfl⟩ (.refl s)
  refine .ite (State.setFldAt_cellsStand ..) (.ite (State.setFldAt_cellsStand ..) (.ite ?_ (hsent.trans ⟨rfl, rfl⟩)))
  exact ((State.setFldAt_cellsStand ..).trans (State.record_cellsStand hdrops _)).trans (State.logDue_cellsStand _)

theorem State.raise_cellsStand (e : Event) : s.CellsStand (s.raise e) := by
  have hrecord : (s.record e).fld f_FLT_LOG_RING_LOG2 = 0 :=
    (congrArg f_FLT_LOG_RING_LOG2.get (State.record_word_below s e (by decide))).trans hlog
  have htold : (s.record e).CellsStand { s.record e with logIntDue := false } := ⟨rfl, rfl⟩
  exact (State.record_cellsStand hlog e).trans
    (.ite (htold.trans (State.message_cellsStand (by exact hrecord) 0 _)) (State.logDue_cellsStand _))

end Unlogged

/-! ### Errors of the store (R304, R474) -/

theorem State.poisonAt_regs (s : State) (a : Nat) : (s.poisonAt a).regs = s.regs := by
  unfold State.poisonAt
  extract_lets l add
  split
  · split
    · rfl
    · split <;> rfl
  all_goals rfl

theorem State.poisonLineAt_regs (s : State) (l : Nat) (staged : Option (Frame × Nat)) : (s.poisonLineAt l staged).regs = s.regs := by
  unfold State.poisonLineAt
  split
  · rfl
  · split <;> rfl

theorem State.poisonStore_regs (s : State) (a : Nat) : (s.poisonStore a).regs = s.regs := by
  rw [State.poisonStore, State.poisonLineAt_regs]

/-- A line of the scratchpad window is poisoned as it stands. -/
theorem State.poisonAt_scratch {s : State} {a : Nat} (h : s.inScratch a = true) : a / 64 * 64 ∈ (s.poisonAt a).poison ∧ (s.poisonAt a).mem = s.mem := by
  have hline : s.placeOf (a / 64 * 64) = .scratch := by
    rw [State.placeOf, if_pos]
    simp only [State.inScratch, decide_eq_true_eq] at h ⊢
    omega
  unfold State.poisonAt
  simp only [hline, and_true]
  split
  next hmem => simpa using hmem
  next => simp

section StoreErr
variable (s : State) (a slice : Nat) (e : DramErr) {f : State → State} {u : State} (hf : f s = u) (hregs : u.regs = s.regs)
include hf hregs

/-- What an error of the store counts: a corrected one changes nothing else, an uncorrectable one poisons a line, which is `u`. -/
theorem State.storeErr_counts : (e = .corrected → s.OnlyWords (s.storeErr a slice e f) [0xC0028] ∧
      (s.storeErr a slice e f).fld f_STORE_ECC_CORRECTED = min (s.fld f_STORE_ECC_CORRECTED + 1) (2 ^ 32 - 1)) ∧
    (e = .uncorrectable →
      (s.storeErr a slice e f).fld f_STORE_ECC_UNCORRECTED = min (s.fld f_STORE_ECC_UNCORRECTED + 1) (2 ^ 32 - 1)) := by
  constructor <;> rintro rfl
  · exact State.incSat_onlyWords s f_STORE_ECC_CORRECTED (by decide)
  · have hsame : u.fld f_STORE_ECC_UNCORRECTED = s.fld f_STORE_ECC_UNCORRECTED := congrArg f_STORE_ECC_UNCORRECTED.get (State.word_of_regs hregs _)
    rw [State.storeErr, hf, ← hsame]
    exact (congrArg f_STORE_ECC_UNCORRECTED.get (State.raise_word _ _ (by decide) (by decide))).trans
      (State.incSat_onlyWords u f_STORE_ECC_UNCORRECTED (by decide)).2

/-- Beside the poisoned line memory stands while no log ring is set. -/
theorem State.storeErr_cellsStand (hlog : s.fld f_FLT_LOG_RING_LOG2 = 0) : u.CellsStand (s.storeErr a slice .uncorrectable f) := by
  have hlog' : (u.incSat f_STORE_ECC_UNCORRECTED).fld f_FLT_LOG_RING_LOG2 = 0 :=
    (State.fld_setFld_ne _ _ _ _ (by decide) (.inl (by decide))).trans ((congrArg f_FLT_LOG_RING_LOG2.get (State.word_of_regs hregs _)).trans hlog)
  rw [State.storeErr, hf]
  exact (State.setFldAt_cellsStand ..).trans (State.raise_cellsStand hlog' _)

end StoreErr

theorem State.memErr_scratch {s : State} {e : MemErr} (hin : s.inScratch e.addr = true) :
    s.memErr e = s.storeErr e.addr (storeSlice e.addr) e.err (fun t => t.poisonAt e.addr) := if_pos hin

/-- An address of store space beside the scratchpad window names a line of the store below its top alone. -/
theorem State.memErr_store {s : State} {e : MemErr} (hout : s.inScratch e.addr = false) (hstore : e.store = true) : s.memErr e =
    if e.addr < 6 * gib then s.storeErr e.addr (storeSlice e.addr) e.err (fun t => t.poisonStore e.addr) else s := by
  rw [State.memErr, if_neg (by rw [hout]; decide), if_pos hstore]

/-- A command whose reads may find errors is a body that runs after them. -/
def readsFirst (c : List MemErr → Instr) : Prop := ∃ body, ∀ es s, exec (c es) s = .next (s.whenAlive (s.readErrs es body))

theorem descriptorConsume_readsFirst (slice ring : Nat) : readsFirst (.descriptorConsume slice ring) := ⟨_, fun _ _ => rfl⟩
theorem clientRead_readsFirst (port : Nat) (p : KPkt) : readsFirst (.clientRead port p) := ⟨_, fun _ _ => rfl⟩
theorem clientWrite_readsFirst (port : Nat) (p : KPkt) : readsFirst (.clientWrite port p) := ⟨_, fun _ _ => rfl⟩
theorem qfRead_readsFirst (p : QPkt) : readsFirst (.qfRead p) := ⟨_, fun _ _ => rfl⟩
theorem bulkRead_readsFirst (p : QPkt) : readsFirst (.bulkRead p) := ⟨_, fun _ _ => rfl⟩

/-- The errors act first, and a freeze that one of them triggers ends the command there. -/
theorem exec_readsFirst {c : List MemErr → Instr} (hc : readsFirst c) {s : State} (halive : s.alive = true) (es : List MemErr) :
    let t := forL es s (fun e t => t.memErr e)
    (t.alive = true → exec (c es) s = exec (c []) t) ∧ (t.alive = false → exec (c es) s = .next t) := by
  intro t
  obtain ⟨body, hbody⟩ := hc
  rw [hbody, hbody, State.whenAlive_alive halive]
  refine ⟨fun ht => ?_, fun ht => ?_⟩
  · rw [State.whenAlive_alive ht, State.readErrs_nil ht]
    exact congrArg _ (State.whenAlive_alive ht _)
  · exact congrArg _ (if_neg (by rw [ht]; decide))

/-! ### Passes with errors (R106, R107, R109, R136) -/

theorem firstErr_eq_none_iff {errs : List ArrErr} {n : Nat} {p : ArrErr → Bool} :
    firstErr errs n p = none ↔ ∀ x ∈ errs, x.pass < n → p x = false := by
  rw [firstErr, List.find?_eq_none]
  constructor
  · intro h x hx hn
    by_contra hp
    exact h x.pass (List.mem_range.mpr hn) (List.any_eq_true.mpr ⟨x, hx, by simpa using hp⟩)
  · intro h i hi hany
    obtain ⟨x, hx, hc⟩ := List.any_eq_true.mp hany
    obtain ⟨hpass, hp⟩ := Bool.and_eq_true_iff.mp hc
    rw [h x hx (beq_iff_eq.mp hpass ▸ List.mem_range.mp hi)] at hp
    exact absurd hp (by decide)

/-- Some pass is the first with an error when one has it. -/
theorem firstErr_exists {errs : List ArrErr} {n : Nat} {p : ArrErr → Bool} (h : ∃ x ∈ errs, x.pass < n ∧ p x = true) :
    ∃ i < n, firstErr errs n p = some i := by
  obtain ⟨x, hx, hn, hp⟩ := h
  cases hfirst : firstErr errs n p with
  | none => exact absurd hp (by rw [firstErr_eq_none_iff.mp hfirst x hx hn]; decide)
  | some i => exact ⟨i, List.mem_range.mp (List.mem_of_find?_eq_some hfirst), rfl⟩

theorem getD_mem {l : List Nat} {i : Nat} (h : i < l.length) : l.getD i 0 ∈ l := by
  rw [List.getD_eq_getElem _ _ h]
  exact List.getElem_mem h

section Finish
variable (s : State) (d : Desc) {errs : List ArrErr} (tiles : List Nat) (rowsOf : Nat → Nat → Bool) (list : List Byte) (stride : Nat)
  (row : Nat → List Byte)

/-- A run that an error of a pass ends: it names a tile that was read, and nothing is written. -/
def State.endsByPass (status : Nat) (res : Res (Done × List Nat)) : Prop :=
  ∃ o ts, res = .ok (o, ts) ∧ o.status = status ∧ o.kind = 2 ∧ o.detail ∈ tiles ∧ o.progress = 0 ∧ o.eff.s = s ∧ o.eff.out = []

theorem State.attFinish_poison (h : ∃ x ∈ errs, x.pass < tiles.length ∧ x.fault = .uncorrectable) :
    s.endsByPass tiles ePoison (s.attFinish d errs tiles rowsOf list stride row) := by
  obtain ⟨i, hi, hfirst⟩ := firstErr_exists (p := fun x => x.fault == .uncorrectable) (by simpa using h)
  simp only [State.attFinish, hfirst]
  exact ⟨_, _, rfl, rfl, rfl, getD_mem hi, rfl, rfl, rfl⟩

theorem State.attFinish_mismatch (hclean : ¬ ∃ x ∈ errs, x.pass < tiles.length ∧ x.fault = .uncorrectable)
    (h : ∃ x ∈ errs, x.pass < tiles.length ∧ (s.mismatch d.engine x).isSome = true) (hfail : s.flag f_ARR_AUDIT_CTL_FAIL_ON_MISMATCH = true) :
    s.endsByPass tiles eIntegrity (s.attFinish d errs tiles rowsOf list stride row) := by
  have hnone : firstErr errs tiles.length (fun x => x.fault == .uncorrectable) = none :=
    firstErr_eq_none_iff.mpr fun x hx hn => beq_eq_false_iff_ne.mpr fun hf => hclean ⟨x, hx, hn, hf⟩
  obtain ⟨i, hi, hfirst⟩ := firstErr_exists h
  simp only [State.attFinish, hnone, hfail, hfirst]
  exact ⟨_, _, rfl, rfl, rfl, getD_mem hi, rfl, rfl, rfl⟩

/-- Corrected errors change no result. -/
theorem State.attFinish_corrected (h : ∀ x ∈ errs, x.fault = .corrected) :
    s.attFinish d errs tiles rowsOf list stride row = s.attFinish d [] tiles rowsOf list stride row := by
  have hfaults (es : List ArrErr) (hes : ∀ x ∈ es, x.fault = .corrected) :
      firstErr es tiles.length (fun x => x.fault == .uncorrectable) = none ∧
      firstErr es tiles.length (fun x => (s.mismatch d.engine x).isSome) = none ∧
      ∀ r, es.any (fun x => decide (x.pass < tiles.length) && x.fault == .differs && rowsOf x.pass r) = false := by
    refine ⟨firstErr_eq_none_iff.mpr fun x hx _ => ?_, firstErr_eq_none_iff.mpr fun x hx _ => ?_, fun r => List.any_eq_false.mpr fun x hx => ?_⟩
    · rw [hes x hx]
      rfl
    · simp [State.mismatch, hes x hx]
    · simp [hes x hx]
  obtain ⟨hpoison, hmismatch, hloose⟩ := hfaults errs h
  obtain ⟨hpoison', hmismatch', hloose'⟩ := hfaults [] (by simp)
  simp only [State.attFinish, hpoison, hpoison', hmismatch, hmismatch', hloose, hloose']

end Finish

/-- Errors of arrays that run no pass are not the descriptor's. -/
theorem State.attPass_idle (s : State) (d : Desc) {errs : List ArrErr}
    (h : ∀ x ∈ errs, x.array / 8 = d.engine → bit (s.fld f_ARR_DISABLE_ARRAY) x.array = true) : s.attPass d errs = s.attPass d [] := by
  have hnone : s.passErrs d.engine errs = s.passErrs d.engine [] := by
    refine List.filter_eq_nil_iff.mpr fun x hx hany => ?_
    obtain ⟨i, hi, hx'⟩ := List.any_eq_true.mp hany
    obtain ⟨hrange, hon⟩ := List.mem_filter.mp hi
    have hlt := List.mem_range.mp hrange
    have harray : 8 * d.engine + i = x.array := beq_iff_eq.mp hx'
    rw [harray, h x hx (by omega)] at hon
    exact absurd hon (by decide)
  rw [State.attPass, State.attPass, hnone]

/-! ### What an error of a pass leaves (R107, R136) -/

/-- The partner of an array is another enabled one of its group. -/
theorem State.partner_some {s : State} {a b : Nat} (h : s.partner a = some b) :
    b / 8 = a / 8 ∧ b ≠ a ∧ bit (s.fld f_ARR_DISABLE_ARRAY) b = false := by
  obtain ⟨k, hk, hb⟩ := List.mem_map.mp (List.mem_of_find?_eq_some h)
  have hlt := List.mem_range.mp hk
  exact ⟨by omega, by omega, by simpa using List.find?_some h⟩

theorem State.mismatch_some {s : State} {g b : Nat} {x : ArrErr} (h : s.mismatch g x = some b) : s.partner x.array = some b := by
  unfold State.mismatch at h
  split at h
  · exact h
  · exact absurd h (by simp)

theorem bit_eq_testBit (v i : Nat) : bit v i = v.testBit i := by
  rw [Nat.testBit_eq_decide_div_mod_eq]
  rfl

section ArrErrs
variable (s u : State) (d : Desc) {tiles : List Nat} {x : ArrErr} (hpass : x.pass < tiles.length)
include hpass

theorem State.arrErrs_corrected (hfault : x.fault = .corrected) : s.arrErrs u d tiles [x] = s.incSat f_ARR_ECC_CORRECTED := by
  simp [State.arrErrs, forL, hpass, hfault]

theorem State.arrErrs_uncorrectable (hfault : x.fault = .uncorrectable) :
    ∃ e, s.arrErrs u d tiles [x] = (s.incSat f_ARR_ECC_UNCORRECTED).raise e := by
  simp only [State.arrErrs, forL, hpass, hfault, decide_true, List.filter_cons, List.filter_nil, if_true, List.foldl_cons, List.foldl_nil]
  exact ⟨_, rfl⟩

theorem State.arrErrs_same (hfault : x.fault = .differs) (h : u.mismatch d.engine x = none) : s.arrErrs u d tiles [x] = s := by
  simp [State.arrErrs, forL, hpass, hfault, h]

theorem State.arrErrs_differs (hfault : x.fault = .differs) {b : Nat} (h : u.mismatch d.engine x = some b) : ∃ e, s.arrErrs u d tiles [x] =
    ((s.setFld f_ARR_MISMATCH_ARRAY (s.fld f_ARR_MISMATCH_ARRAY ||| 2 ^ x.array ||| 2 ^ b)).incSat f_ARR_AUDIT_STATUS_MISMATCHES).raise e := by
  simp only [State.arrErrs, forL, hpass, hfault, h, decide_true, List.filter_cons, List.filter_nil, if_true, List.foldl_cons, List.foldl_nil]
  exact ⟨_, rfl⟩

/-- A mismatch marks both arrays and is counted. -/
theorem State.arrErrs_marks (hfault : x.fault = .differs) {b : Nat} (h : u.mismatch d.engine x = some b) (harray : x.array < 64) (hb : b < 64) :
    bit ((s.arrErrs u d tiles [x]).fld f_ARR_MISMATCH_ARRAY) x.array = true ∧ bit ((s.arrErrs u d tiles [x]).fld f_ARR_MISMATCH_ARRAY) b = true ∧
      (s.arrErrs u d tiles [x]).fld f_ARR_AUDIT_STATUS_MISMATCHES = min (s.fld f_ARR_AUDIT_STATUS_MISMATCHES + 1) (2 ^ 32 - 1) := by
  obtain ⟨e, ht⟩ := State.arrErrs_differs s u d hpass hfault h
  set marked := s.setFld f_ARR_MISMATCH_ARRAY (s.fld f_ARR_MISMATCH_ARRAY ||| 2 ^ x.array ||| 2 ^ b)
  have hmark : (s.arrErrs u d tiles [x]).fld f_ARR_MISMATCH_ARRAY = (s.fld f_ARR_MISMATCH_ARRAY ||| 2 ^ x.array ||| 2 ^ b) % 2 ^ 64 := by
    rw [ht]
    refine (congrArg f_ARR_MISMATCH_ARRAY.get (State.raise_word _ _ (by decide) (by decide))).trans ?_
    exact (State.fld_setFld_ne _ _ _ _ (by decide) (.inl (by decide))).trans (State.fld_setFld _ _ _ (by decide))
  have hcount : (s.arrErrs u d tiles [x]).fld f_ARR_AUDIT_STATUS_MISMATCHES = min (s.fld f_ARR_AUDIT_STATUS_MISMATCHES + 1) (2 ^ 32 - 1) := by
    have hsame : marked.fld f_ARR_AUDIT_STATUS_MISMATCHES = s.fld f_ARR_AUDIT_STATUS_MISMATCHES :=
      State.fld_setFld_ne _ _ _ _ (by decide) (.inl (by decide))
    rw [ht, ← hsame]
    exact (congrArg f_ARR_AUDIT_STATUS_MISMATCHES.get (State.raise_word _ _ (by decide) (by decide))).trans
      (State.incSat_onlyWords marked f_ARR_AUDIT_STATUS_MISMATCHES (by decide)).2
  rw [hmark, bit_eq_testBit, bit_eq_testBit, Nat.testBit_mod_two_pow, Nat.testBit_mod_two_pow]
  exact ⟨by simp [harray], by simp [hb], hcount⟩

end ArrErrs

/-! ### The statement -/

/-- Settles O60: each error is one count and, when it is uncorrectable or a mismatch, one event, which leaves the counts as they are. -/
theorem hardwareErrors : Obligations.HardwareErrors := by
  unfold Obligations.HardwareErrors
  refine ⟨fun s c es halive hc => ?_, fun s e hin => ?_, fun s e hout hstore => ⟨fun hhigh => ?_, fun hlow => ?_⟩,
    fun s d errs tiles rowsOf list stride row => ⟨State.attFinish_poison s d tiles rowsOf list stride row,
      State.attFinish_mismatch s d tiles rowsOf list stride row, State.attFinish_corrected s d tiles rowsOf list stride row, s.attPass_idle d⟩,
    fun s u d tiles x hpass => ⟨fun hfault => ?_, fun hfault => ?_, fun b hfault hmis harray => ?_, State.arrErrs_same s u d hpass⟩⟩
  · refine exec_readsFirst ?_ halive es
    rcases hc with ⟨sl, r, rfl⟩ | ⟨port, p, rfl | rfl⟩ | ⟨p, rfl | rfl⟩
    · exact descriptorConsume_readsFirst sl r
    · exact clientRead_readsFirst port p
    · exact clientWrite_readsFirst port p
    · exact qfRead_readsFirst p
    · exact bulkRead_readsFirst p
  · have hregs := s.poisonAt_regs e.addr
    rw [State.memErr_scratch hin]
    obtain ⟨hcorrected, huncorrectable⟩ := s.storeErr_counts e.addr (storeSlice e.addr) e.err (f := fun t => t.poisonAt e.addr) rfl hregs
    refine ⟨hcorrected, fun herr => ⟨huncorrectable herr, fun hlog => ?_⟩⟩
    obtain ⟨hmem, hpoison⟩ := s.storeErr_cellsStand e.addr (storeSlice e.addr) (f := fun t => t.poisonAt e.addr) rfl hregs hlog
    rw [herr, hmem, hpoison]
    exact State.poisonAt_scratch hin
  · rw [State.memErr_store hout hstore, if_neg (Nat.not_lt.mpr hhigh)]
  · rw [State.memErr_store hout hstore, if_pos hlow]
    exact s.storeErr_counts e.addr _ e.err rfl (s.poisonStore_regs e.addr)
  · rw [State.arrErrs_corrected s u d hpass hfault]
    exact State.incSat_onlyWords s f_ARR_ECC_CORRECTED (by decide)
  · obtain ⟨e, ht⟩ := State.arrErrs_uncorrectable s u d hpass hfault
    rw [ht]
    exact (congrArg f_ARR_ECC_UNCORRECTED.get (State.raise_word _ _ (by decide) (by decide))).trans
      (State.incSat_onlyWords s f_ARR_ECC_UNCORRECTED (by decide)).2
  · obtain ⟨hgroup, hother, hon⟩ := State.partner_some (State.mismatch_some hmis)
    exact ⟨hgroup, hother, hon, State.arrErrs_marks s u d hpass hfault hmis harray (by omega)⟩

end Sys2Proof.Machine

/-! Publishing a table and withdrawing translations (R248, R331, R332): `TABLE_PUBLISH` of a slice on a table of this ZV9, and an `INVAL` that
finds no access outstanding. -/

namespace Sys2Proof.Machine

/-! ### `TABLE_PUBLISH` (R248) -/

/-- The descriptors have no part in what a table's records say. -/
theorem State.publishRecords_bankEngine (s : State) (k : DKey) (base : Nat) (g : Region) (off vec : Nat) :
    (s.bankEngine k base).publishRecords g off vec = s.publishRecords g off vec := rfl

/-- The three fields of the root that a publication writes (R248). -/
def State.putRoot (s : State) (num off ver vec stamp : Nat) : Res State := do
  let a ← s.rgnWrite num (off + 48) (leBytes 4 ver)
  let b ← a.rgnWrite num (off + 56) (leBytes 8 vec)
  b.rgnWrite num (off + 64) (leBytes 8 stamp)

theorem State.putRoot_ok {s a b u : State} {num off ver vec stamp : Nat} (ha : s.rgnWrite num (off + 48) (leBytes 4 ver) = .ok a)
    (hb : a.rgnWrite num (off + 56) (leBytes 8 vec) = .ok b) (hu : b.rgnWrite num (off + 64) (leBytes 8 stamp) = .ok u) :
    s.putRoot num off ver vec stamp = .ok u := by
  rw [State.putRoot, ha, res_ok_bind, hb, res_ok_bind, hu]

section Publish
variable {s : State} {slice ring idx : Nat} {d : Desc} {g : Region} {root : Root} (halive : s.alive = true)
  (hruns : s.Runs ⟨slice, ring, idx⟩ 0x2A d) (horigin : d.origin = none) (hnode : d.at 22 2 = s.me)
  (hhome : checks (homeForm d.raw ++ s.homeEpoch d) = .ok ()) (hregion : s.region (rrefAt d.raw 16).region = some g) (hrevoked : s.revoked = [])
  (hpermitted : s.permitted s.me slice g.owner = true)
  (hrecords : (s.bankEngine ⟨slice, ring, idx⟩ g.base).publishRecords g (rrefAt d.raw 16).offset (d.at 40 8) = .ok (.ok root))
include halive hruns horigin hnode hhome hregion hrevoked hpermitted hrecords

/-- Once the records of the table pass, the version that its root holds decides (R248). -/
theorem exec_tablePublish_judged : exec (.tablePublish slice ring idx) s =
    let s0 := s.bankEngine ⟨slice, ring, idx⟩ g.base
    .next (match checks [(root.version == d.at 32 4, ⟨eVersion, 5, root.version⟩), (decide (d.at 32 4 < d.at 36 4), ⟨eVersion, 5, root.version⟩)] with
      | .error (.err f) => s0.endHome d f 0 false
      | _ => match s0.putRoot g.num (rrefAt d.raw 16).offset (d.at 36 4) (d.at 40 8) s.now with
        | .ok u => u.endHome d ⟨stOk, 0, 0⟩ 1 true
        | .error (.wait ns) => s0.attempt d [] (.error (.wait ns))
        | .error (.err f) => s0.endHome d f 0 true) := by
  obtain ⟨hd, -⟩ := id hruns
  have hissuer : s.issuer d = (s.me, slice) := by rw [State.issuer, horigin, State.desc_key hd]
  have hunrevoked : s.revokedNamed s.me slice false g.num = false := by simp [State.revokedNamed, hrevoked]
  rw [State.publishRecords_bankEngine] at hrecords
  refine congrArg Host.Outcome.next ((State.whenAlive_alive halive _).trans ((State.homeRun_begun hruns hnode rfl _ (.inr hhome)).trans ?_))
  dsimp only
  rw [hissuer, hregion]
  dsimp only
  rw [checks_ok (by simp [hunrevoked, hpermitted])]
  dsimp only
  rw [hrecords, State.desc_key hd]
  rfl

theorem exec_tablePublish_published (hversion : root.version = d.at 32 4) (hnew : d.at 32 4 < d.at 36 4) {u : State}
    (hput : (s.bankEngine ⟨slice, ring, idx⟩ g.base).putRoot g.num (rrefAt d.raw 16).offset (d.at 36 4) (d.at 40 8) s.now = .ok u) :
    exec (.tablePublish slice ring idx) s = .next (u.endHome d ⟨stOk, 0, 0⟩ 1 true) := by
  rw [exec_tablePublish_judged halive hruns horigin hnode hhome hregion hrevoked hpermitted hrecords]
  dsimp only
  rw [checks_ok (by simp [hversion, hnew]), hput]

theorem exec_tablePublish_refused (hversion : root.version ≠ d.at 32 4) : exec (.tablePublish slice ring idx) s =
    .next ((s.bankEngine ⟨slice, ring, idx⟩ g.base).endHome d ⟨eVersion, 5, root.version⟩ 0 false) := by
  have hfail : (root.version == d.at 32 4) = false := beq_eq_false_iff_ne.mpr hversion
  rw [exec_tablePublish_judged halive hruns horigin hnode hhome hregion hrevoked hpermitted hrecords, hfail]
  rfl

end Publish

/-! ### `INVAL` with nothing outstanding (R331, R332) -/

/-- The invalidation of an `INVAL` without `ABORT` that finds no access made through an entry it withdraws. -/
def calmInval (x : Nat) (k : DKey) : Inval := { slice := x, abort := false, key := some k, ended := 0, victims := [], tags := [], txns := [] }

/-- Such an `INVAL` has begun: the entries of its range and slice are withdrawn, and it counts as under way. -/
def State.invalBegun (s : State) (k : DKey) (x base len : Nat) (all : Bool) : State :=
  { s.dropXlate x base len all with invals := [calmInval x k] }.setFld f_XL_INVAL_STAT_IN_FLIGHT 1

/-- What an `INVAL` leaves when it ends: its descriptor has `OK`, and it counts as done and no longer as under way. -/
def State.invalDone (s : State) (k : DKey) : State :=
  (({ s with invals := [] }.endDesc k stOk 0 0 1).addWrap f_XL_INVAL_STAT_DONE 1).setFld f_XL_INVAL_STAT_IN_FLIGHT 0

theorem State.Runs.mem {s : State} {k : DKey} {op : Nat} {d : Desc} (h : s.Runs k op d) : d ∈ s.descs ∧ d.key = k ∧ d.phase = .running := by
  obtain ⟨hd, hphase, -⟩ := h
  exact ⟨List.mem_of_find?_eq_some hd, State.desc_key hd, hphase⟩

/-- No descriptor ends while none is stopped. -/
theorem State.endStopped_unstopped {s : State} (hstop : ∀ x ∈ s.descs, x.stop = none) : s.endStopped = s := by
  have hnone : s.descs.filter (fun x => x.phase == .running && x.stop.isSome) = [] :=
    List.filter_eq_nil_iff.mpr fun x hx => by simp [hstop x hx]
  rw [State.endStopped, hnone, forL, List.foldl_nil]

section Invalidate
variable {s : State} {k : DKey} {op : Nat} {d : Desc} (hreqs : s.outReqs = []) (htxns : s.txns = []) (hfill : s.fillQ = [])
  (hbank : s.bankQ = []) (hcoh : s.cohWaiting = []) (hstop : ∀ x ∈ s.descs, x.stop = none) (hruns : s.Runs k op d) (happend : d.op ≠ 0x10)
  (hplace : d.op ≠ 0x38)
include hreqs htxns hfill hbank hcoh hstop hruns happend hplace

/-- Such an invalidation ends at once, and its descriptor with it. -/
theorem State.reapInvals_calm {x : Nat} (hinvals : s.invals = [calmInval x k]) : s.reapInvals = s.invalDone k := by
  obtain ⟨hmem, hkey, hphase⟩ := hruns.mem
  have hrunning : s.descs.any (fun e => e.key == k && e.phase == .running) = true := List.any_eq_true.mpr ⟨d, hmem, by simp [hkey, hphase]⟩
  have hquiet : s.invalQuiet (calmInval x k) = true := by simp [State.invalQuiet, hreqs, htxns, hfill, hbank, hcoh, calmInval]
  obtain ⟨hends, -⟩ := State.endDesc_onlyEnds (s := { s with invals := [] }) hruns.1 happend hplace stOk 0 0 1
  have hleft : ({ s with invals := [] }.endDesc k stOk 0 0 1).invals = [] := congrArg State.invals hends
  simp only [State.reapInvals, State.endStopped_unstopped hstop, hinvals, List.filter_cons, hquiet, List.filter_nil, if_true, Bool.not_true,
    Bool.false_eq_true, if_false, forL, List.foldl_cons, List.foldl_nil, List.isEmpty_cons]
  simp [calmInval, hrunning, hleft, State.invalDone]

/-- It withdraws the entries of its range and slice, and no access holds it up. -/
theorem State.startInval_calm (hinvals : s.invals = []) (hpages : ∀ x ∈ s.descs, x.key ≠ k → x.pages = []) (x base len : Nat) (all : Bool) :
    s.startInval x base len all false (some k) = (s.invalBegun k x base len all).invalDone k := by
  have hwaits : ((s.descs.filter (fun e => e.key.slice == x && some k != some e.key && e.stop.isNone)).filter (fun e =>
      e.phase == .running && e.pages.any (fun p => all || overlap p.1 p.2 base len))) = [] := by
    refine List.filter_eq_nil_iff.mpr fun e he => ?_
    obtain ⟨hmem, hother⟩ := List.mem_filter.mp he
    have hkey : e.key ≠ k := fun h => by simp [h] at hother
    simp [hpages e hmem hkey]
  rw [← State.reapInvals_calm (s := s.invalBegun k x base len all)
    hreqs htxns hfill hbank hcoh hstop hruns happend hplace rfl]
  simp only [State.startInval, hreqs, htxns, hfill, hbank, hcoh, hwaits, hinvals, List.filter_nil, List.map_nil, List.any_nil, List.append_nil,
    List.nil_append, Bool.false_and, Bool.false_eq_true, if_false, List.map_id', State.dropXlate, State.invalBegun]
  rfl

end Invalidate

/-- The end of an `INVAL` concerns its descriptor, the invalidations under way and their counts. -/
theorem State.invalDone_ends {s : State} {k : DKey} {d : Desc} (h : s.desc k = some d) (happend : d.op ≠ 0x10) (hplace : d.op ≠ 0x38) :
    s.invalDone k = { s with invals := [], descs := (s.invalDone k).descs, regs := (s.invalDone k).regs } ∧
      (s.invalDone k).desc k = some (d.endedWith stOk 0 0 1) ∧ s.OtherDescs (s.invalDone k) k ∧
      (s.invalDone k).fld f_XL_INVAL_STAT_IN_FLIGHT = 0 ∧
      (s.invalDone k).fld f_XL_INVAL_STAT_DONE = (s.fld f_XL_INVAL_STAT_DONE + 1) % 2 ^ f_XL_INVAL_STAT_DONE.width := by
  obtain ⟨honly, hother, hend⟩ := State.endDesc_onlyEnds (s := { s with invals := [] }) h happend hplace stOk 0 0 1
  rw [State.invalDone]
  generalize State.endDesc _ k stOk 0 0 1 = u at honly hother hend
  have hregs : u.regs = s.regs := (congrArg State.regs honly :)
  have hsame : u.fld f_XL_INVAL_STAT_DONE = s.fld f_XL_INVAL_STAT_DONE := congrArg f_XL_INVAL_STAT_DONE.get (State.word_of_regs hregs _)
  set v := (u.addWrap f_XL_INVAL_STAT_DONE 1).setFld f_XL_INVAL_STAT_IN_FLIGHT 0 with hv
  have hcounts : v = { u with regs := v.regs } := rfl
  have hdescs : v.descs = u.descs := rfl
  refine ⟨?_, (State.desc_congr hdescs k).trans hend, State.OtherDescs.trans hother (State.otherDescs_of_eq hdescs k),
    State.fld_setFld _ _ _ (by decide), ?_⟩
  · rw [hdescs]
    have honlyRegs := congrArg (fun x : State => { x with regs := v.regs }) honly
    exact hcounts.trans honlyRegs
  · rw [hv, State.fld_setFld_ne _ _ _ _ (by decide) (.inr (by decide)), State.addWrap, State.fld_setFld _ _ _ (by decide), hsame]

/-- An `INVAL` that is not under way starts, without `ABORT` when its bit is clear (R331). -/
theorem exec_inval_starts {s : State} {slice ring idx : Nat} {d : Desc} (halive : s.alive = true) (hruns : s.Runs ⟨slice, ring, idx⟩ 0x3A d)
    (hinvals : s.invals = []) (habort : d.at 33 1 = 0) : exec (.inval slice ring idx) s =
      .next (s.startInval (d.at 32 1) (d.at 16 8) (d.at 24 8) (bit (d.at 34 1) 0) false (some ⟨slice, ring, idx⟩)) := by
  refine congrArg Host.Outcome.next ((State.whenAlive_alive halive _).trans ((State.onRunning_runs hruns _).trans ?_))
  simp only [hinvals, List.any_nil, Bool.false_eq_true, if_false, habort, State.desc_key hruns.1]
  rfl

/-! ### The statement -/

/-- Settles O39: the version that the root holds decides a publication, and an `INVAL` that no access holds up ends in the step that starts it. -/
theorem publishAndInvalidate : Obligations.PublishAndInvalidate := by
  unfold Obligations.PublishAndInvalidate
  intro s slice ring idx d halive k
  constructor
  · intro g root hruns horigin hnode hhome ref s0 hregion hrevoked hpermitted hrecords
    obtain ⟨hd, -, hop, -⟩ := id hruns
    have halone : d.EndsAlone := Desc.endsAlone_of_op horigin (by rw [hop]; decide) (by rw [hop]; decide)
    refine ⟨fun a b u hversion hnew ha hb hu hsame => ?_, fun hversion => ?_⟩
    · obtain ⟨honly, hend, hother⟩ := State.endHome_started hd halone g.base ⟨stOk, 0, 0⟩ hsame 1
      exact ⟨_, exec_tablePublish_published halive hruns horigin hnode hhome hregion hrevoked hpermitted hrecords hversion hnew
        (State.putRoot_ok ha hb hu), by rw [honly], by rw [honly], hother, hend⟩
    · exact ⟨_, exec_tablePublish_refused halive hruns horigin hnode hhome hregion hrevoked hpermitted hrecords hversion,
        State.endHome_refused hd halone g.base ⟨eVersion, 5, root.version⟩⟩
  · intro hruns hinvals hreqs htxns hfill hbank hcoh hdescs habort hit
    obtain ⟨hd, -, hop, -⟩ := id hruns
    have happend : d.op ≠ 0x10 := by rw [hop]; decide
    have hplace : d.op ≠ 0x38 := by rw [hop]; decide
    rw [exec_inval_starts halive hruns hinvals habort, State.startInval_calm hreqs htxns hfill hbank hcoh (fun x hx => (hdescs x hx).1) hruns
      happend hplace hinvals fun x hx => (hdescs x hx).2]
    set u := s.invalBegun k (d.at 32 1) (d.at 16 8) (d.at 24 8) (bit (d.at 34 1) 0)
    obtain ⟨honly, hend, hother, hflight, hdone⟩ := State.invalDone_ends (s := u) hd happend hplace
    have hcount : u.fld f_XL_INVAL_STAT_DONE = s.fld f_XL_INVAL_STAT_DONE := State.fld_setFld_ne _ _ _ _ (by decide) (.inr (by decide))
    exact ⟨_, rfl, by rw [honly]; rfl, by rw [honly], hend, hother, by rw [honly]; rfl, hflight, hcount ▸ hdone⟩

end Sys2Proof.Machine

/-! Values at reset that the manual gives (R315, R342, R444, R492, R549 to R551, R581, R610, R614, R615, R633). -/

namespace Sys2Proof.Machine

/-- At reset the register file lists no word, so a field reads as its register's table gives it (R635). -/
theorem State.reset_fld (f : Fld) : State.reset.fld f = f.get (resetWord (f.addr 0)) := rfl

/-- Settles O8: each value is the one that the register table gives. -/
theorem resetValues : Obligations.ResetValues := by
  unfold Obligations.ResetValues State.locked State.epoch State.fenced State.frozen State.flag
  simp only [State.reset_fld]
  decide +kernel

end Sys2Proof.Machine

/-! `MOVE` (R277, R289): a copy over the page table that a translation cache names turns the source's address to another page. -/

namespace Sys2Proof.Machine

/-- One attempt at a `MOVE` that runs (R289). -/
theorem exec_move_runs {s : State} {slice ring idx : Nat} {d : Desc} (halive : s.alive = true) (hruns : s.Runs ⟨slice, ring, idx⟩ 0x02 d)
    (tags : List Nat) : exec (.move slice ring idx tags) s =
      .next (s.attempt { d with engine := 0x40 + s.mover d (s.moveRun d tags).progress } [] (.ok (s.moveRun d tags))) :=
  congrArg Host.Outcome.next ((State.whenAlive_alive halive _).trans (State.onRunning_runs hruns _))

/-- A leaf entry of a 4 KiB page of node 0 (R321). -/
def pageEntry (loc perm : Nat) : List Byte := leBytes 8 loc ++ [0#8, 0#8, 2#8, byte perm, 0#8, 0#8, 0#8, 0#8]

/-- A `MOVE` of 16 bytes from the first page of the address space to the second. -/
def turningMove : Desc := {
  mkDesc ⟨1, 2, 3⟩ 1 ([2#8] ++ List.replicate 23 0#8 ++ leBytes 8 0x1000 ++ leBytes 8 16 ++ List.replicate 24 0#8) 0 0 .running with engine := 0x40 }

/-- The mover's cache names a table in the scratchpad, outside the page-table area. Of its two pages the first, at 0x20000, holds an entry for a tile;
the second is the table itself. The tile has a frame without bytes of its own. -/
def turningState : State :=
  { State.reset.setFld f_AS_SCRATCH_LIMIT_LEN 0x100000 with
    resetHeld := false, porHeld := false, pwrok := true, descs := [turningMove], xlCache := [⟨uMov 0, 1, 0, .table 0 0x10000⟩]
    mem := cellsWrite (cellsWrite [] 0x10000 (pageEntry 0x20000 rRead ++ pageEntry 0x10000 rWrite)) 0x20000 (pageEntry mediaBase rRead)
    frames := [⟨4, 2, 0, 0, 1, [], [], none, false, 0, none, some noCache⟩]
    regions := [⟨9, false, 1, false, 1, mediaBase, 0, 0, 0, [(0, 4)], [], (2, 0), []⟩] }

/-- What the write of the `MOVE` leaves: the first page is now the tile's. -/
def turnedState : State := { turningState with fresh := turningState.fresh + 16 }.memWrite 0x10000 (pageEntry mediaBase rRead)

theorem turningState_runs : turningState.alive = true ∧ turningState.Runs ⟨1, 2, 3⟩ 0x02 turningMove :=
  ⟨by decide +kernel, by decide +kernel, rfl, by decide, rfl, rfl, fun _ hw => absurd hw List.not_mem_nil⟩

theorem turningState_source : turningState.srcPieces (uMov 0) 1 0 16 = [⟨0, 0, 0x20000, 16⟩] ∧
    turningState.xlate (uMov 0) 1 0 16 rRead = .ok [⟨0, 0, 0x20000, 16⟩] ∧
    turningState.homeRead (turningMove.by turningState) 0x20000 16 = .ok ⟨pageEntry mediaBase rRead, none⟩ := by
  refine ⟨by decide +kernel, ?_, ?_⟩
  · rfl
  · rfl

theorem turningState_target : turningState.xlate (uMov 0) 1 0x1000 16 rWrite = .ok [⟨0x1000, 0, 0x10000, 16⟩] ∧
    { turningState with fresh := turningState.fresh + 16 }.xlate (uMov 0) 1 0x1000 16 rWrite = .ok [⟨0x1000, 0, 0x10000, 16⟩] ∧
    { turningState with fresh := turningState.fresh + 16 }.homeWrite (turningMove.by turningState) 0x10000 (pageEntry mediaBase rRead) false =
      .ok turnedState := by
  refine ⟨?_, ?_, ?_⟩
  · rfl
  · rfl
  · rfl

/-- Noting the source's touch reads the tile: its cache frame holds zeros in every sector (R279). -/
theorem turningState_reads_tile :
    (turningState.attempt { turningMove with engine := 0x40 + turningState.mover turningMove (turningState.moveRun turningMove []).progress } []
      (.ok (turningState.moveRun turningMove []))).frames.map (fun f => f.cache.map (·.valid)) = [some (BitVec.allOnes 16)] := by decide +kernel

/-- Refutes O35: nothing keeps the tables that a translation cache names inside the page-table area, which is where a `MOVE` may not write. Here the
`MOVE` writes the entry of its own source's page, and noting the source as read then takes a tile as zeros: the frames do not stay as the write left
them. -/
theorem not_moveCopies : ¬ Obligations.MoveCopies := by
  unfold Obligations.MoveCopies
  intro h
  obtain ⟨halive, hruns⟩ := turningState_runs
  obtain ⟨hpieces, hsource, hread⟩ := turningState_source
  obtain ⟨htarget, htarget', hwrite⟩ := turningState_target
  have hapart : ∀ p ∈ turningState.srcPieces (uMov 0) 1 0 16, p.node ≠ turningState.me ∨ p.loc + p.len ≤ 0x10000 ∨ 0x10000 + 16 ≤ p.loc := by
    rw [hpieces]
    decide +kernel
  obtain ⟨hcopies, -⟩ := h turningState turnedState 1 2 3 0x20000 0x10000 [] turningMove ⟨pageEntry mediaBase rRead, none⟩ halive hruns
    (by decide) (by decide) rfl (by decide +kernel)
    hapart hsource htarget htarget' hread rfl rfl
  obtain ⟨t, hexec, -, -, hframes, -⟩ := hcopies (by decide) hwrite rfl (by decide +kernel) (by decide +kernel)
  have hplain : ∀ i < 16, turnedState.placeOf (0x20000 + i) = .scratch := by decide +kernel
  have hkept : t.frames = turningState.frames := hframes fun i hi x => by rw [hplain i hi]; exact Place.noConfusion
  have htile := turningState_reads_tile
  rw [exec_move_runs halive hruns] at hexec
  rw [Host.Outcome.next.inj hexec, hkept] at htile
  exact absurd htile (by decide)

end Sys2Proof.Machine

/-! Background write-back (R277, R282, R528): tags that differ twice raise an alarm, and the message for it is a request to a client. -/

namespace Sys2Proof.Machine

/-- The tile that the background takes next: dirty, not on its way already, and with data to write (R282, R304). -/
def State.nextDirty (s : State) : Option Frame :=
  s.dirtyFrames.find? (fun f => !s.writingBack f.id && f.lost.isNone && (s.cachePoison f).isNone)

/-- A whole tile whose tags differ twice on its way stays as it is (R277). -/
theorem exec_backgroundWriteback_differs {s : State} {n : Nat} {f : Frame} {c : CacheFrame} (halive : s.alive = true)
    (hon : s.dirtyAbove (s.fld f_TIER_CACHE_DIRTY_HIGH) = true) (hnext : s.nextDirty = some f) (hcache : f.cache = some c)
    (hwhole : c.valid = BitVec.allOnes 16) (hn : 2 ≤ n) : exec (.backgroundWriteback n) s =
      .next ({ s with background := true }.tagCheck n f.tier (s.frameAddr f.id)).1 := by
  change execBackgroundWriteback s n = _
  unfold execBackgroundWriteback
  extract_lets on s1
  have hon' : on = true := by simp only [on, hon, Bool.true_or]
  have hs1 : s1 = { s with background := true } := by simp only [s1, hon']
  clear_value s1
  have hnext1 : s1.nextDirty = some f := by rw [hs1]; exact hnext
  have haddr : s1.frameAddr f.id = s.frameAddr f.id := by rw [hs1]; rfl
  have hdiffers : s1.tagCheck n f.tier (s1.frameAddr f.id) = ((s1.tagCheck n f.tier (s1.frameAddr f.id)).1, false) := by
    rw [State.tagCheck, if_neg (by omega)]
  rw [State.nextDirty] at hnext1
  rw [State.whenAlive_alive halive, hon', hnext1, ← hs1, ← haddr]
  simp only [Bool.not_true, Bool.false_eq_true, if_false, hcache, Option.getD_some, hwhole, if_true]
  rw [hdiffers]

/-- A tile of tier 2 whose cache frame is whole and dirty. -/
def dirtyTile : Frame := ⟨4, 2, 0, 0, 1, [], [], none, false, 0, none, some { noCache with valid := BitVec.allOnes 16, dirty := 1 }⟩

/-- A fault log with interrupts on vector 0 of slice 0, whose client is up, and one dirty tile in a cache part without room. -/
def tellingState : State :=
  let s := { State.reset with
    resetHeld := false, porHeld := false, pwrok := true, frames := [dirtyTile]
    klClients := [⟨0, 77, 0, 0, 0, 0x100000000, ⟨0, 0, 0, 0, 0, 0⟩⟩] }
  ((((s.setFld f_FLT_CTL_INT_EN 1).setFld f_FLT_LOG_RING_LOG2 6).setFldAt f_SLV_HI_ENABLE 0 1).setFldAt f_KL_PORT_STATE 0 2).setFldAt
    f_KL_PORT_BOUND_SLICE 0 0

theorem tellingState_next : tellingState.alive = true ∧ tellingState.dirtyAbove (tellingState.fld f_TIER_CACHE_DIRTY_HIGH) = true ∧
    tellingState.nextDirty = some dirtyTile ∧ tellingState.frame dirtyTile.id = some dirtyTile := by decide +kernel

theorem tellingState_tells : ({ tellingState with background := true }.tagCheck 2 dirtyTile.tier (tellingState.frameAddr dirtyTile.id)).1.klOuts =
    [{ port := 0, tag := 0, why := .interrupt 0 0, left := 0, got := [], bad := [] }] := by decide +kernel

/-- Refutes O59: the alarm of the second mismatch is told by an interrupt message, which is one more request of this ZV9 to a client, so `klOuts` does
not stay. -/
theorem not_driveAndDramUpkeep : ¬ Obligations.DriveAndDramUpkeep := by
  unfold Obligations.DriveAndDramUpkeep
  intro h
  obtain ⟨hdrives, -⟩ := h
  obtain ⟨halive, hon, hnext, hframe⟩ := tellingState_next
  obtain ⟨-, -, -, -, hbackground, -⟩ := hdrives tellingState 0 halive (by decide)
  obtain ⟨-, -, htakes⟩ := hbackground 2
  obtain ⟨-, -, hdiffers, -⟩ := htakes dirtyTile _ (.inl hon) hnext hframe rfl
  obtain ⟨t, hexec, -, -, hstays, -⟩ := hdiffers rfl (Nat.le_refl 2)
  rw [exec_backgroundWriteback_differs halive hon hnext rfl rfl (Nat.le_refl 2)] at hexec
  have htells := tellingState_tells
  rw [Host.Outcome.next.inj hexec, hstays] at htells
  exact absurd htells (by decide)

end Sys2Proof.Machine

/-! What an event leaves of the drives and their commands, and the frames that a tile's loss or a write-back touches (R281, R282, R290, R523). -/

namespace Sys2Proof.Machine

/-! ### Commands and drives while other parts change -/

/-- The drives, their outstanding commands, the accesses that wait for a fill, and the descriptors stand as they were. -/
structure State.MediaStands (s t : State) : Prop where
  nvme : t.nvme = s.nvme
  nextCmd : t.nextCmd = s.nextCmd
  drives : t.drives = s.drives
  mediaWait : t.mediaWait = s.mediaWait
  fillQ : t.fillQ = s.fillQ
  descs : t.descs = s.descs

theorem State.MediaStands.refl (s : State) : s.MediaStands s := ⟨rfl, rfl, rfl, rfl, rfl, rfl⟩

theorem State.MediaStands.trans {s t u : State} (h : s.MediaStands t) (h' : t.MediaStands u) : s.MediaStands u :=
  ⟨h'.nvme.trans h.nvme, h'.nextCmd.trans h.nextCmd, h'.drives.trans h.drives, h'.mediaWait.trans h.mediaWait, h'.fillQ.trans h.fillQ,
    h'.descs.trans h.descs⟩

theorem State.MediaStands.ite {s t u : State} {c : Prop} [Decidable c] (ht : s.MediaStands t) (hu : s.MediaStands u) :
    s.MediaStands (if c then t else u) := by
  split
  · exact ht
  · exact hu

/-- A register word is none of these. -/
theorem State.MediaStands.setWord {s t : State} (h : s.MediaStands t) (off : Nat) (w : Word) : s.MediaStands (t.setWord off w) :=
  ⟨h.nvme, h.nextCmd, h.drives, h.mediaWait, h.fillQ, h.descs⟩

theorem State.MediaStands.setFldAt {s t : State} (h : s.MediaStands t) (f : Fld) (i v : Nat) : s.MediaStands (t.setFldAt f i v) := h.setWord _ _

theorem State.MediaStands.setFld {s t : State} (h : s.MediaStands t) (f : Fld) (v : Nat) : s.MediaStands (t.setFld f v) := h.setWord _ _

theorem State.recordWrite_media (s : State) (a : Nat) (bs : List Byte) : s.MediaStands (s.recordWrite a bs) :=
  .ite ⟨rfl, rfl, rfl, rfl, rfl, rfl⟩ ⟨rfl, rfl, rfl, rfl, rfl, rfl⟩

theorem State.logWrite_media (s : State) (rec64 : List Byte) : s.MediaStands (s.logWrite rec64) := by
  have hs : s.MediaStands s := .refl s
  unfold State.logWrite
  extract_lets l2 n cons s1 a
  have h1 : s.MediaStands s1 := .ite ((hs.setFld _ _).setFldAt _ _ _) hs
  exact .ite (hs.setFldAt _ _ _) ((h1.trans (State.recordWrite_media ..)).setFld _ _)

theorem State.alarmAdd_media (s : State) (base i node source cause n first last : Nat) :
    s.MediaStands (s.alarmAdd base i node source cause n first last) := by
  unfold State.alarmAdd
  extract_lets a w0 w1 fresh count sent key pend s1
  have h1 : s.MediaStands s1 := ((State.MediaStands.refl s).setWord _ _).setWord _ _
  exact (State.MediaStands.ite (h1.setWord _ _) h1).setWord _ _

theorem State.countAlarm_media (s : State) (source cause detail : Nat) : s.MediaStands (s.countAlarm source cause detail) := by
  unfold State.countAlarm
  split
  extract_lets s1 s2 s3 n s4 s5
  have h2 : s.MediaStands s2 := (State.alarmAdd_media ..).setFld _ _
  have h4 : s.MediaStands s4 := (State.MediaStands.ite (h2.setFldAt _ _ _) h2).setFld _ _
  have h5 : s.MediaStands s5 := h4.trans ⟨rfl, rfl, rfl, rfl, rfl, rfl⟩
  split
  · split
    exact h5.trans (State.alarmAdd_media ..)
  · exact h5

theorem State.sendQf_media (s : State) (p : QPkt) : s.MediaStands (s.sendQf p) := by
  unfold State.sendQf
  split
  · exact .refl s
  · split
    · exact .refl s
    · exact ⟨rfl, rfl, rfl, rfl, rfl, rfl⟩

theorem State.freeze_media (s : State) (trigger : Fld) (source cause : Nat) : s.MediaStands (s.freeze trigger source cause) := by
  have h := State.MediaStands.refl s
  exact .ite h (.ite (.ite (h.setFld _ _) h) (((((((h.setFld _ _).setFld _ _).setFld _ _).setFld _ _).setFld _ _).setFld _ _).setFld _ _))

theorem State.record_media (s : State) (e : Event) : s.MediaStands (s.record e) := by
  unfold State.record
  extract_lets seq r s1 s2 s3 s4
  have h1 : s.MediaStands s1 := ((State.MediaStands.refl s).setFld _ _).trans (State.logWrite_media ..)
  have h2 : s.MediaStands s2 := .ite (h1.trans (State.countAlarm_media ..)) h1
  have h3 : s.MediaStands s3 := h2.trans ⟨rfl, rfl, rfl, rfl, rfl, rfl⟩
  have h4 : s.MediaStands s4 := by
    unfold s4
    split
    · exact .ite (h3.trans (State.sendQf_media ..)) h3
    · exact h3
  exact .ite (h4.trans (State.freeze_media ..)) h4

theorem State.logDue_media (s : State) : s.MediaStands s.logDue := .ite ⟨rfl, rfl, rfl, rfl, rfl, rfl⟩ (.refl s)

theorem State.message_media (s : State) (x v : Nat) : s.MediaStands (s.message x v) := by
  have h := State.MediaStands.refl s
  unfold State.message
  extract_lets i k a p s1
  have hsent : s.MediaStands s1 := .ite ⟨rfl, rfl, rfl, rfl, rfl, rfl⟩ h
  refine .ite (h.setFldAt _ _ _) (.ite (h.setFldAt _ _ _) (.ite ?_ (hsent.trans ⟨rfl, rfl, rfl, rfl, rfl, rfl⟩)))
  exact ((h.setFldAt _ _ _).trans (State.record_media ..)).trans (State.logDue_media _)

/-- An event is about none of these. -/
theorem State.raise_media (s : State) (e : Event) : s.MediaStands (s.raise e) := by
  have htold (t : State) : t.MediaStands { t with logIntDue := false } := ⟨rfl, rfl, rfl, rfl, rfl, rfl⟩
  exact (State.record_media s e).trans (.ite ((htold _).trans (State.message_media ..)) (State.logDue_media _))

/-- An event that is no alarm takes one number, and no other event follows it (R523, R528). -/
theorem State.raise_seq_quiet (s : State) {e : Event} (h : isAlarm e.cause = false) :
    (s.raise e).fld f_FLT_SEQ_SEQ = (s.fld f_FLT_SEQ_SEQ + 1) % 2 ^ 64 := by
  refine Eq.trans ?_ (State.record_seq s e)
  unfold State.raise State.logTell State.logDue
  rw [h, Bool.and_false, if_neg Bool.false_ne_true]
  split <;> rfl

/-- The counters of an event touch no register below theirs. -/
theorem State.obs_word_below (s : State) (kind inst event slice v : Nat) {o : Nat} (h : o < 0x190300) :
    (s.obs kind inst event slice v).word o = s.word o := by
  refine (State.obs_onlyWords s kind inst event slice v).2 o fun hmem => ?_
  obtain ⟨i, -, rfl⟩ := List.mem_map.mp hmem
  simp only [Fld.addr, f_OBS_CTR_COUNT] at h
  omega

/-- Only registers change when an event is counted. -/
theorem State.obs_only (s : State) (kind inst event slice v : Nat) :
    s.obs kind inst event slice v = { s with regs := (s.obs kind inst event slice v).regs } :=
  (State.obs_onlyWords s kind inst event slice v).1

/-- No access waits for a fill, so none is tried again. -/
theorem State.retryFills_nil {s : State} (h : s.fillQ = []) : s.retryFills = s := by
  rw [State.retryFills, h]
  rfl

/-! ### Frames -/

theorem State.frame_congr {s t : State} (h : t.frames = s.frames) (id : Nat) : t.frame id = s.frame id := by
  rw [State.frame, State.frame, h]

theorem State.frame_id {s : State} {id : Nat} {f : Frame} (h : s.frame id = some f) : f.id = id := by
  simpa using List.find?_some h

theorem State.frame_setFrame (s : State) (g : Frame) (id : Nat) :
    (s.setFrame g).frame id = (s.frame id).map (fun x => if x.id == g.id then g else x) :=
  find?_upd s.frames _ _ _ fun x => by
    split
    · rename_i hx
      rw [beq_iff_eq.mp hx]
    · rfl

theorem State.frame_setFrame_same {s : State} {f g : Frame} (h : s.frame g.id = some f) : (s.setFrame g).frame g.id = some g := by
  rw [State.frame_setFrame, h, Option.map_some, State.frame_id h, beq_self_eq_true, if_pos rfl]

theorem State.frame_setFrame_ne (s : State) {g : Frame} {id : Nat} (h : id ≠ g.id) : (s.setFrame g).frame id = s.frame id := by
  rw [State.frame_setFrame]
  cases hf : s.frame id with
  | none => rfl
  | some f =>
    have hne : (f.id == g.id) = false := by simpa [State.frame_id hf] using h
    rw [Option.map_some, hne, if_neg Bool.false_ne_true]

/-- Of frames with names of their own, each is found under its name. -/
theorem State.frame_of_mem {s : State} (hnodup : (s.frames.map (·.id)).Nodup) {f : Frame} (h : f ∈ s.frames) : s.frame f.id = some f := by
  cases hg : s.frame f.id with
  | none => exact absurd (beq_self_eq_true f.id) (List.find?_eq_none.mp hg f h)
  | some g => exact congrArg some (List.inj_on_of_nodup_map hnodup (List.mem_of_find?_eq_some hg) h (State.frame_id hg))

theorem State.setFrame_media (s : State) (g : Frame) : s.MediaStands (s.setFrame g) := ⟨rfl, rfl, rfl, rfl, rfl, rfl⟩

/-! ### Lost tiles and write-backs that fail (R282, R290) -/

section Lose
variable (s : State) (id status : Nat)

theorem State.lose_media : s.MediaStands (s.lose id status) := by
  unfold State.lose
  split
  · exact .refl s
  · exact .ite (.refl s) (((State.setFrame_media s _).setFldAt _ _ _).trans (State.raise_media ..))

theorem State.lose_word {o : Nat} (ho : o < 0xB0040) (herr : o ≠ f_TIER_ERR_LOST_TILES.addr 0) : (s.lose id status).word o = s.word o := by
  unfold State.lose
  split
  · rfl
  · split
    · rfl
    · rw [State.raise_word _ _ (by omega) (.inl ho), State.word_incSat_ne _ _ herr]
      rfl

variable {s id}

/-- A tile that is not lost yet is lost with the status; every other frame stands. -/
theorem State.lose_frames {f : Frame} (hf : s.frame id = some f) (hlost : f.lost = none) :
    (s.lose id status).frames = (s.setFrame { f with lost := some status }).frames := by
  simp only [State.lose, hf, hlost, Option.isSome_none, Bool.false_eq_true, if_false]
  exact (State.raise_stands _ _).frames

theorem State.lose_frame_same {f : Frame} (hf : s.frame id = some f) (hlost : f.lost = none) :
    (s.lose id status).frame id = some { f with lost := some status } := by
  obtain rfl := State.frame_id hf
  exact (State.frame_congr (State.lose_frames status hf hlost) _).trans (State.frame_setFrame_same (g := { f with lost := some status }) hf)

theorem State.lose_frame_ne {j : Nat} (h : j ≠ id) : (s.lose id status).frame j = s.frame j := by
  unfold State.lose
  split
  · rfl
  · rename_i f hf
    split
    · rfl
    · obtain rfl := State.frame_id hf
      exact (State.frame_congr (State.raise_stands _ _).frames j).trans (State.frame_setFrame_ne s (g := { f with lost := some status }) h)

end Lose

/-- A write-back that fails changes one frame. -/
theorem State.writebackFailed_media (s : State) (id : Nat) (dirty : BitVec 16) :
    s.MediaStands (s.writebackFailed id dirty) ∧ (s.writebackFailed id dirty).regs = s.regs := by
  unfold State.writebackFailed
  split
  · exact ⟨State.setFrame_media s _, rfl⟩
  · exact ⟨.refl s, rfl⟩

end Sys2Proof.Machine

/-! Commands of drives (R278, R281, R297 to R303): what an answer, a timeout, and the failure of a drive leave. -/

namespace Sys2Proof.Machine

/-! ### Outstanding commands -/

/-- A command is marked where it stands. -/
theorem State.nvmeMark_eq (s : State) (c : NvmeCmd) : s.nvmeMark c = { s with nvme := s.nvme.map (fun x => if x.id = c.id then c else x) } := by
  simp only [State.nvmeMark, upd, beq_iff_eq]

/-- A command that is sent is outstanding under the next name. -/
theorem State.nvmeSend_eq (s : State) (port : Nat) (op : NvmeOp) : s.nvmeSend port op =
    { s with nvme := s.nvme ++ [⟨s.nextCmd, port, op, false, false, false⟩], nextCmd := s.nextCmd + 1 } := rfl

/-- The tiles of no place are lost. -/
theorem State.loseSlots_none {t : State} {p : Slot → Bool} (h : ∀ x, p x = false) : t.loseSlots p = t := by
  have hnone : t.frames.filter (fun f => f.slot.any p) = [] := by
    refine List.filter_eq_nil_iff.mpr fun f _ => ?_
    cases f.slot <;> simp [h]
  rw [State.loseSlots, hnone]
  rfl

/-! ### A drive in use (R299) -/

theorem State.drive_eq (s : State) (port : Nat) :
    s.drive port = s.drives.find? (fun d => s.fldAt f_MEDIA_PORT_STATE d.port == 1 && d.port == port) :=
  List.find?_filter.trans (congrArg (s.drives.find? ·) (funext fun d => by rw [Bool.decide_and, Bool.decide_eq_true, Bool.decide_eq_true]))

theorem State.drive_port {s : State} {port : Nat} {d : Drive} (h : s.drive port = some d) : d.port = port := by
  simpa using List.find?_some h

/-- A drive in use that changes is found as it is now. -/
theorem State.drive_setDrive {s : State} {port : Nat} {d e : Drive} (h : s.drive port = some d) (hport : e.port = port) :
    (s.setDrive e).drive port = some e := by
  subst hport
  have hfind := find?_upd s.drives (fun x => s.fldAt f_MEDIA_PORT_STATE x.port == 1 && x.port == e.port) (fun x => x.port == e.port)
    (fun _ => e) fun x => by
      split
      · rename_i hx
        rw [beq_iff_eq.mp hx]
      · rfl
  have hport : (d.port == e.port) = true := beq_iff_eq.mpr (State.drive_port h)
  rw [State.drive_eq] at h ⊢
  exact hfind.trans (by rw [h, Option.map_some, if_pos hport])

theorem Drive.openZone_port {d e : Drive} {low : Nat} {rc : Bool} {avoid : Option Nat} {z : Zone} (h : d.openZone low rc avoid = some (e, z)) :
    e.port = d.port := by
  unfold Drive.openZone at h
  dsimp only at h
  split at h
  · cases h
    rfl
  · split at h
    · cases h
    · obtain ⟨x, -, hx⟩ := Option.map_eq_some_iff.mp h
      cases hx
      split <;> rfl

/-- Opening zones leaves a drive at its port. -/
theorem Drive.keepOpen_port (d : Drive) (low : Nat) : (d.keepOpen low).port = d.port := by
  have hstep (x : Drive) (rc : Bool) : (((x.openZone low rc none).map (·.1)).getD x).port = x.port := by
    cases h : x.openZone low rc none with
    | none => rfl
    | some y => exact Drive.openZone_port h
  exact (hstep _ true).trans (hstep _ false)

/-! ### The end of a command without data (R301) -/

theorem State.respondErr_quiet (s : State) (p : QPkt) (f : Fail) : s.MediaStands (s.respondErr p f) ∧ (s.respondErr p f).regs = s.regs :=
  ⟨State.sendQf_media .., State.sendQf_regs ..⟩

theorem State.freeCells_quiet (s : State) (input : Nat) (p : Pkt) : s.MediaStands (s.freeCells input p) ∧ (s.freeCells input p).regs = s.regs := by
  unfold State.freeCells State.oweCells
  split
  · exact ⟨⟨rfl, rfl, rfl, rfl, rfl, rfl⟩, rfl⟩
  · exact ⟨.refl s, rfl⟩

section Quiet
variable {s : State} (hdescs : s.descs = []) (hfill : s.fillQ = [])
include hdescs hfill

/-- With no descriptor and no access that waits, the reads of other ZV9s that wait for a fill are answered, and nothing else ends. -/
theorem State.endFills_quiet (id : Nat) (f : Fail) : s.MediaStands (s.endFills id f) ∧ (s.endFills id f).regs = s.regs := by
  unfold State.endFills
  extract_lets waits s0 g s0' s1
  have hs0 : s0 = s := by
    unfold s0 waits
    rw [hdescs]
    rfl
  have hrx : s.MediaStands s0' ∧ s0'.regs = s.regs :=
    forL_induct (P := fun t => s.MediaStands t ∧ t.regs = s.regs) _ _ ⟨hs0 ▸ .refl s, by rw [hs0]⟩ fun x _ t ht => by
      obtain ⟨hmedia, hregs⟩ := ht
      split
      · have herased : t.MediaStands { t with rx := t.rx.erase x } := ⟨rfl, rfl, rfl, rfl, rfl, rfl⟩
        obtain ⟨hfree, hfregs⟩ := State.freeCells_quiet { t with rx := t.rx.erase x } x.1 x.2
        obtain ⟨hrsp, hrregs⟩ := State.respondErr_quiet ({ t with rx := t.rx.erase x }.freeCells x.1 x.2) _ g
        exact ⟨((hmedia.trans herased).trans hfree).trans hrsp, (hrregs.trans hfregs).trans hregs⟩
      · exact ⟨hmedia, hregs⟩
  obtain ⟨hmedia, hregs⟩ := hrx
  have hs1 : s.MediaStands s1 := hmedia.trans ⟨rfl, rfl, rfl, rfl, rfl, rfl⟩
  have hnone : s1.fillQ = [] := hs1.fillQ.trans hfill
  have hend : s1.failFills id (f.phased 0) = { s1 with fillQ := [] } := by
    rw [State.failFills, hnone]
    rfl
  rw [hend]
  exact ⟨⟨hs1.nvme, hs1.nextCmd, hs1.drives, hs1.mediaWait, hfill.symm, hs1.descs⟩, hregs⟩

theorem State.endCommand_quiet (c : NvmeCmd) : s.MediaStands (s.endCommand c) ∧ (s.endCommand c).regs = s.regs := by
  unfold State.endCommand
  extract_lets f
  split
  · exact State.endFills_quiet hdescs hfill _ _
  · rename_i id zone bytes dirty tag _
    obtain ⟨hfailed, hregs⟩ := State.writebackFailed_media s id dirty
    have hnone : (s.writebackFailed id dirty).endWrites id f = s.writebackFailed id dirty := by
      rw [State.endWrites, hfailed.descs, hdescs]
      rfl
    rw [hnone]
    exact ⟨hfailed, hregs⟩
  · exact ⟨.refl s, rfl⟩

theorem State.endCommands_quiet (cs : List NvmeCmd) : s.MediaStands (forL cs s (fun c t => t.endCommand c)) :=
  forL_induct (P := s.MediaStands) cs _ (.refl s) fun c _ _ ht =>
    ht.trans (State.endCommand_quiet (ht.descs.trans hdescs) (ht.fillQ.trans hfill) c).1

end Quiet

section Answers
variable {s : State} {c : NvmeCmd} (halive : s.alive = true) (hcmd : s.nvmeCmd c.id = some c)
include halive hcmd

/-! ### Reads (R278, R302) -/

section Read
variable {id : Nat} {data : List Byte} (habort : c.aborting = false)
include habort

theorem exec_nvmeReadComplete_retries (hop : c.op = .read id) {st : Nat} (hst : st ≠ 0) (hretried : c.retried = false) :
    exec (.nvmeReadComplete c.id st data) s = .next (s.nvmeMark { c with retried := true }) := by
  refine congrArg Host.Outcome.next ((State.whenAlive_alive halive _).trans ?_)
  simp [hcmd, hop, habort, hst, hretried]

theorem exec_nvmeReadComplete_loses (hop : c.op = .read id) {st : Nat} (hst : st ≠ 0) (hretried : c.retried = true) :
    exec (.nvmeReadComplete c.id st data) s = .next ((s.nvmeDrop c.id).loseTile id ePoison) := by
  refine congrArg Host.Outcome.next ((State.whenAlive_alive halive _).trans ?_)
  simp [hcmd, hop, habort, hst, hretried]

variable {f : Frame} (hlen : data.length = tileBytes) (hframe : s.frame id = some f)
include hlen hframe

theorem exec_nvmeReadComplete_retags (hop : c.op = .read id) (htag : crc32c data ≠ f.tag) (hretagged : c.retagged = false) :
    exec (.nvmeReadComplete c.id 0 data) s = .next ((s.incSat f_TIER_ERR_TAG_MISMATCHES).nvmeMark { c with retagged := true }) := by
  refine congrArg Host.Outcome.next ((State.whenAlive_alive halive _).trans ?_)
  simp [hcmd, hop, habort, hlen, hframe, htag, hretagged]

theorem exec_nvmeReadComplete_fills (hop : c.op = .read id) (htag : crc32c data = f.tag) : exec (.nvmeReadComplete c.id 0 data) s =
    .next ((((s.nvmeDrop c.id).obs 10 c.port 1 f.owner 1).fillDone id data).retryFills) := by
  refine congrArg Host.Outcome.next ((State.whenAlive_alive halive _).trans ?_)
  simp [hcmd, hop, habort, hlen, hframe, htag]

theorem exec_nvmeReadComplete_copy_differs (hop : c.op = .readRc id) (htag : crc32c data = f.tag) {n : Nat} (hn : 2 ≤ n) :
    exec (.nvmeReadComplete c.id 0 data n) s = .next (((s.nvmeDrop c.id).obs 10 c.port 1 f.owner 1).tagCheck n 2
      (((s.nvmeDrop c.id).obs 10 c.port 1 f.owner 1).frameAddr id)).1 := by
  set t := (s.nvmeDrop c.id).obs 10 c.port 1 f.owner 1 with ht
  obtain ⟨u, hu⟩ : ∃ u, t.tagCheck n 2 (t.frameAddr id) = (u, false) := ⟨_, by rw [State.tagCheck, if_neg (by omega)]⟩
  refine congrArg Host.Outcome.next ((State.whenAlive_alive halive _).trans ?_)
  simp [hcmd, hop, habort, hlen, hframe, htag, ← ht, hu]

end Read

/-! ### Appends (R281, R302) -/

section Append
variable {id zone : Nat} {bytes : Cells} {dirty : BitVec 16} {tag : Nat} (hop : c.op = .append id false zone bytes dirty tag)
  (habort : c.aborting = false)
include hop habort

theorem exec_zoneAppendComplete_locates {f : Frame} (hframe : s.frame id = some f) (slot : Nat) : exec (.zoneAppendComplete c.id 0 slot) s =
    .next (((s.nvmeDrop c.id).obs 10 c.port 2 f.owner 1).located id ⟨c.port, zone, slot⟩ tag) := by
  refine congrArg Host.Outcome.next ((State.whenAlive_alive halive _).trans ?_)
  simp [hcmd, hop, habort, hframe]

theorem exec_zoneAppendComplete_refused (slot : Nat) : exec (.zoneAppendComplete c.id 1 slot) s =
    .next ((((s.nvmeDrop c.id).finishZone c.port zone).appendAny id bytes dirty tag (some (c.port, zone))).getD
      (((s.nvmeDrop c.id).finishZone c.port zone).writebackFailed id dirty)) := by
  refine congrArg Host.Outcome.next ((State.whenAlive_alive halive _).trans ?_)
  simp [hcmd, hop, habort]

end Append

/-! ### Zone commands, admin commands and aborts (R297, R299, R301) -/

theorem exec_nvmeCommandComplete_drops (hop : (∃ z, c.op = .finish z) ∨ ∃ op x, c.op = .setup op x) :
    exec (.nvmeCommandComplete c.id 0 []) s = .next (s.nvmeDrop c.id) := by
  refine congrArg Host.Outcome.next ((State.whenAlive_alive halive _).trans ?_)
  obtain ⟨z, hop⟩ | ⟨op, x, hop⟩ := hop <;> simp [hcmd, hop]

theorem exec_nvmeCommandComplete_abort {cmd : Nat} (hop : c.op = .abort cmd) :
    exec (.nvmeCommandComplete c.id 0 []) s = .next ((s.nvmeDrop c.id).nvmeDrop cmd) := by
  refine congrArg Host.Outcome.next ((State.whenAlive_alive halive _).trans ?_)
  simp [hcmd, hop]

theorem exec_nvmeCommandComplete_controllerReset (hop : c.op = .controllerReset) : exec (.nvmeCommandComplete c.id 0 []) s =
    .next (if c.port ∈ s.mediaWait then (s.nvmeDrop c.id).sendSetup c.port else (s.nvmeDrop c.id).nvmeSend c.port (.admin 0x0C)) := by
  refine congrArg Host.Outcome.next ((State.whenAlive_alive halive _).trans ?_)
  simp [hcmd, hop]

theorem exec_nvmeCommandComplete_event (hop : c.op = .admin 0x0C) (hfill : s.fillQ = []) : exec (.nvmeCommandComplete c.id 0 []) s =
    .next (((s.nvmeDrop c.id).nvmeSend c.port (.admin 0x0C)).nvmeSend c.port (.admin 0x02)) := by
  refine congrArg Host.Outcome.next ((State.whenAlive_alive halive _).trans ?_)
  have hkept (t : State) (ht : t.fillQ = []) : (t.loseSlots (fun x => x.drive == c.port && ([] : List Nat).contains x.zone)).retryFills = t := by
    rw [State.loseSlots_none (p := fun x => x.drive == c.port && ([] : List Nat).contains x.zone) fun x => Bool.and_false _, State.retryFills_nil ht]
  simp only [hcmd, hop, if_true]
  exact hkept _ hfill

/-- A zone's Reset on a drive in use. -/
def Drive.zoneReset (d : Drive) (z : Nat) : Drive :=
  { d with zones := d.zones.map (fun x => if x.num = z ∧ x.state ≠ .excluded then { x with state := .empty, written := 0 } else x) }

theorem exec_nvmeCommandComplete_reset {d : Drive} {z : Nat} (hop : c.op = .reset z) (hdrive : s.drive c.port = some d) :
    exec (.nvmeCommandComplete c.id 0 []) s = .next (((s.nvmeDrop c.id).setDrive (d.zoneReset z)).setDrive
      ((d.zoneReset z).keepOpen (s.fld f_MEDIA_CTL_RECLAIM_LOW))) := by
  have hport : (d.zoneReset z).port = c.port := State.drive_port (d := d) hdrive
  refine congrArg Host.Outcome.next ((State.whenAlive_alive halive _).trans ?_)
  have hdrop : (s.nvmeDrop c.id).drive c.port = some d := hdrive
  have hzones : { d with zones := upd d.zones (fun x => x.num == z) (fun x => if x.state == .excluded then x else { x with state := .empty, written := 0 }) } =
      d.zoneReset z := by
    refine congrArg (fun l => { d with zones := l }) (List.map_congr_left fun x _ => ?_)
    by_cases hx : x.num = z
    · simp [hx]
    · simp [hx]
  have hset : ((s.nvmeDrop c.id).setDrive (d.zoneReset z)).drive c.port = some (d.zoneReset z) :=
    State.drive_setDrive hdrop hport
  simp only [hcmd, hop, if_true, hdrop, hzones, hset]

/-! ### Timeouts (R301) -/

theorem exec_nvmeCommandTimeout_aborts (habort : c.aborting = false) (hop : ∀ x, c.op ≠ .abort x) (hreset : c.op ≠ .controllerReset) :
    exec (.nvmeCommandTimeout c.id) s =
      .next ((((s.nvmeMark { c with aborting := true }).nvmeSend c.port (.abort c.id)).mediaEvent c.port 0).endCommand c) := by
  refine congrArg Host.Outcome.next ((State.whenAlive_alive halive _).trans ?_)
  rw [hcmd]
  dsimp only
  rw [habort, if_neg Bool.false_ne_true]
  split
  · exact absurd ‹_› (hop _)
  · exact absurd ‹_› hreset
  · rfl

theorem exec_nvmeAbortTimeout_resets {x : Nat} (hop : c.op = .abort x) : exec (.nvmeAbortTimeout c.id) s =
    .next ((forL (s.nvme.filter (fun y : NvmeCmd => y.port == c.port && !y.aborting)) { s with nvme := s.nvme.filter (fun y => !(y.port == c.port)) }
      (fun y t => t.endCommand y)).nvmeSend c.port .controllerReset) := by
  refine congrArg Host.Outcome.next ((State.whenAlive_alive halive _).trans ?_)
  rw [hcmd]
  dsimp only
  rw [hop]
  rfl

end Answers

/-! ### Appends that are refused (R299, R302) -/

/-- The zone that an append was refused in is not opened for its repetition. -/
theorem Drive.openZone_avoids {d e : Drive} {low n : Nat} {rc : Bool} {z : Zone} (h : d.openZone low rc (some n) = some (e, z)) : z.num ≠ n := by
  unfold Drive.openZone at h
  dsimp only at h
  split at h
  · rename_i y hy
    cases h
    simpa using (Bool.and_eq_true_iff.mp (Option.filter_eq_some_iff.mp hy).2).2
  · split at h
    · cases h
    · obtain ⟨x, hx, he⟩ := Option.map_eq_some_iff.mp h
      cases he
      simpa using List.find?_some hx

/-- An append is sent to an open zone, and the zone that it fills is finished. -/
theorem State.appendOn_sends {s t : State} {p id : Nat} {rc : Bool} {bytes : Cells} {dirty : BitVec 16} {tag : Nat} {avoid : Option Nat}
    (h : s.appendOn p id rc bytes dirty tag avoid = some t) :
    ∃ (d e : Drive) (z : Zone), d.openZone (s.fld f_MEDIA_CTL_RECLAIM_LOW) rc avoid = some (e, z) ∧ ∃ more, t.nvme =
      s.nvme ++ (⟨s.nextCmd, p, .append id rc z.num bytes dirty tag, false, false, false⟩ :: more) ∧ ∀ x ∈ more, x.op = .finish z.num := by
  unfold State.appendOn at h
  dsimp only at h
  split at h
  · cases h
  · rename_i e z hopen
    obtain ⟨d, -, hz⟩ := Option.bind_eq_some_iff.mp hopen
    refine ⟨d, e, z, hz, ?_⟩
    split at h
    · cases h
    · cases h
      split
      · exact ⟨[], rfl, fun x hx => absurd hx List.not_mem_nil⟩
      · exact ⟨[_], List.append_assoc .., fun x hx => by rw [List.mem_singleton.mp hx]⟩

/-- A repeated append goes to another zone than the one that refused it. -/
theorem State.appendAny_avoids {s t : State} {id port zone : Nat} {bytes : Cells} {dirty : BitVec 16} {tag : Nat}
    (h : s.appendAny id bytes dirty tag (some (port, zone)) = some t) :
    ∃ new, t.nvme = s.nvme ++ new ∧ ∀ x ∈ new, x.port = port → x.op ≠ .append id false zone bytes dirty tag := by
  obtain ⟨p, -, hp⟩ := List.exists_of_findSome?_eq_some h
  obtain ⟨u, hu, rfl⟩ := Option.map_eq_some_iff.mp hp
  obtain ⟨d, e, z, hopen, more, hnvme, hmore⟩ := State.appendOn_sends hu
  refine ⟨_, hnvme, fun x hx hport => ?_⟩
  rcases List.mem_cons.mp hx with rfl | hx
  · have hp : port = p := hport.symm
    have hz : z.num ≠ zone := Drive.openZone_avoids (n := zone) (by rw [← hopen, hp, Option.bind_some, if_pos rfl])
    simpa using fun he => absurd he hz
  · rw [hmore x hx]
    exact NvmeOp.noConfusion

/-- A refused append has its zone finished, and is itself over. -/
theorem State.append_refused {s : State} {c : NvmeCmd} {d : Drive} {z : Zone} {id zone : Nat} {bytes : Cells} {dirty : BitVec 16} {tag : Nat}
    (hop : c.op = .append id false zone bytes dirty tag) (hdrive : s.drive c.port = some d) (hzone : d.zone zone = some z)
    (hstate : z.state = .opened) :
    let u := (s.nvmeDrop c.id).finishZone c.port zone
    let t := (u.appendAny id bytes dirty tag (some (c.port, zone))).getD (u.writebackFailed id dirty)
    c ∉ t.nvme ∧ ∃ x ∈ t.nvme, x.port = c.port ∧ x.op = .finish zone := by
  intro u t
  have hu : u.nvme = s.nvme.filter (fun x => !(x.id == c.id)) ++ [⟨s.nextCmd, c.port, .finish zone, false, false, false⟩] := by
    have hdrop : (s.nvmeDrop c.id).drive c.port = some d := hdrive
    have hopened : (z.state == .opened) = true := beq_iff_eq.mpr hstate
    simp only [u, State.finishZone, hdrop, hzone, Option.bind_some, Option.map_some, hopened, if_true]
    rfl
  obtain ⟨new, hnvme, hnew⟩ : ∃ new, t.nvme = u.nvme ++ new ∧ ∀ x ∈ new, x.port = c.port → x.op ≠ .append id false zone bytes dirty tag := by
    cases h : u.appendAny id bytes dirty tag (some (c.port, zone)) with
    | none =>
      have ht : t = u.writebackFailed id dirty := by simp only [t, h, Option.getD_none]
      exact ⟨[], by rw [ht, (State.writebackFailed_media u id dirty).1.nvme, List.append_nil], fun x hx => absurd hx List.not_mem_nil⟩
    | some v =>
      have ht : t = v := by simp only [t, h, Option.getD_some]
      exact ht ▸ State.appendAny_avoids h
  rw [hnvme, hu]
  refine ⟨fun hmem => ?_, _, List.mem_append_left _ (List.mem_append_right _ (List.mem_singleton_self _)), rfl, rfl⟩
  rcases List.mem_append.mp hmem with hold | hc
  · rcases List.mem_append.mp hold with hc | hc
    · simpa using (List.mem_filter.mp hc).2
    · have hfinish := congrArg NvmeCmd.op (List.mem_singleton.mp hc)
      rw [hop] at hfinish
      exact absurd hfinish NvmeOp.noConfusion
  · exact hnew c hc rfl hop

/-! ### Write-backs that wait (R281, R284) -/

/-- No `WRITEBACK` waits for the frame, so none counts it. -/
theorem State.wroteBack_unawaited {s : State} {id : Nat} (h : ∀ e ∈ s.descs, e.moving ≠ [(id, id)]) : s.wroteBack id = s := by
  have hnone : s.descs.filter (fun d => d.op == 0x39 && d.phase == .running && d.moving == [(id, id)]) = [] :=
    List.filter_eq_nil_iff.mpr fun e he => by simp [h e he]
  rw [State.wroteBack, hnone]
  rfl

/-- The one descriptor that waits for it counts it. -/
theorem State.wroteBack_awaited {s : State} {id : Nat} {e : Desc} (hdescs : s.descs = [e]) (hop : e.op = 0x39) (hphase : e.phase = .running)
    (hmoving : e.moving = [(id, id)]) : (s.wroteBack id).descs = [{ e with work := e.work + 1, progress := e.progress + 1, moving := [] }] := by
  have hone : s.descs.filter (fun d => d.op == 0x39 && d.phase == .running && d.moving == [(id, id)]) = [e] := by
    simp [hdescs, hop, hphase, hmoving]
  have hupd : upd s.descs (fun x => x.key == e.key) (fun x => { x with work := x.work + 1, progress := x.progress + 1, moving := [] }) =
      [{ e with work := e.work + 1, progress := e.progress + 1, moving := [] }] := by
    simp [upd, hdescs]
  rw [State.wroteBack, hone, ← hupd]
  simp only [forL, List.foldl_cons, List.foldl_nil]
  split
  · split <;> rfl
  · rfl

theorem State.wroteBack_leaves (s : State) (id : Nat) : (s.wroteBack id).nvme = s.nvme ∧ (s.wroteBack id).mem = s.mem := by
  unfold State.wroteBack
  refine forL_induct (P := fun t => t.nvme = s.nvme ∧ t.mem = s.mem) _ _ ⟨rfl, rfl⟩ fun d _ t ht => ?_
  dsimp only
  split
  · split <;> exact ht
  · exact ht

/-! ### What the parts leave -/

section Parts
variable {s : State} {c : NvmeCmd}

/-- Two comparisons of tags that differ are counted one by one (R277). -/
theorem State.tagCheck_differs (s : State) {n : Nat} (hn : 2 ≤ n) (tier addr : Nat) :
    s.MediaStands (s.tagCheck n tier addr).1 ∧ (s.tagCheck n tier addr).1.frames = s.frames ∧
      (s.tagCheck n tier addr).1.fld f_TIER_ERR_TAG_MISMATCHES = min (s.fld f_TIER_ERR_TAG_MISMATCHES + 2) (2 ^ 32 - 1) := by
  set u := (s.incSat f_TIER_ERR_TAG_MISMATCHES).incSat f_TIER_ERR_TAG_MISMATCHES
  obtain ⟨e, he⟩ : ∃ e, (s.tagCheck n tier addr).1 = u.raise e := by
    rw [State.tagCheck, if_neg (by omega), Nat.min_eq_right hn]
    exact ⟨_, rfl⟩
  have hu : s.MediaStands u := ((State.MediaStands.refl s).setFldAt _ _ _).setFldAt _ _ _
  have hword : (u.raise e).word (f_TIER_ERR_TAG_MISMATCHES.addr 0) = u.word (f_TIER_ERR_TAG_MISMATCHES.addr 0) :=
    State.raise_word u e (by decide) (.inl (by decide))
  have hlt : s.fld f_TIER_ERR_TAG_MISMATCHES < 2 ^ 32 := Fld.get_lt f_TIER_ERR_TAG_MISMATCHES _
  have h1 := (State.incSat_onlyWords s f_TIER_ERR_TAG_MISMATCHES (by decide)).2
  have h2 := (State.incSat_onlyWords (s.incSat f_TIER_ERR_TAG_MISMATCHES) f_TIER_ERR_TAG_MISMATCHES (by decide)).2
  rw [he]
  refine ⟨hu.trans (State.raise_media u e), (State.raise_stands u e).frames, (congrArg f_TIER_ERR_TAG_MISMATCHES.get hword).trans (h2.trans ?_)⟩
  rw [h1]
  change min (min (s.fld f_TIER_ERR_TAG_MISMATCHES + 1) (2 ^ 32 - 1) + 1) (2 ^ 32 - 1) = _
  omega

/-- The bytes of a fill reach the cache frame. -/
theorem State.fillDone_frame {id : Nat} {f : Frame} {cf : CacheFrame} (hframe : s.frame id = some f) (hcache : f.cache = some cf)
    (hlost : f.lost = none)
    (bytes : List Byte) : s.fillDone id bytes = s.setFrame { f with cache := some (cf.fill bytes) } := by
  simp [State.fillDone, hframe, hcache, hlost]

/-- A second failure of a read ends it, and its tile is lost (R302). -/
theorem State.loseTile_leaves {id status : Nat} {f : Frame} (hfill : s.fillQ = []) (hframe : s.frame id = some f) (hlost : f.lost = none) :
    (s.loseTile id status).nvme = s.nvme ∧ (s.loseTile id status).frame id = some { f with lost := some status } := by
  have hmedia := State.lose_media s id status
  rw [State.loseTile, State.retryFills_nil (hmedia.fillQ.trans hfill)]
  exact ⟨hmedia.nvme, State.lose_frame_same status hframe hlost⟩

/-- An append that has succeeded gives the tile its place and tag, and a `WRITEBACK` that waits for it counts the tile. -/
theorem State.located_leaves {f : Frame} (hframe : s.frame f.id = some f) (sl : Slot) (tag : Nat) :
    (s.located f.id sl tag).nvme = s.nvme ∧ (s.located f.id sl tag).mem = s.mem ∧
      ((∀ e ∈ s.descs, e.moving ≠ [(f.id, f.id)]) → (s.located f.id sl tag).descs = s.descs ∧
        (s.located f.id sl tag).frame f.id = some { f with slot := some sl, tag := tag }) ∧
      (∀ e, s.descs = [e] → e.op = 0x39 → e.phase = .running → e.moving = [(f.id, f.id)] →
        (s.located f.id sl tag).descs = [{ e with work := e.work + 1, progress := e.progress + 1, moving := [] }]) := by
  have hlocated : s.located f.id sl tag = (s.setFrame { f with slot := some sl, tag := tag }).wroteBack f.id := by
    rw [State.located, hframe]
  rw [hlocated]
  obtain ⟨hnvme, hmem⟩ := State.wroteBack_leaves (s.setFrame { f with slot := some sl, tag := tag }) f.id
  refine ⟨hnvme, hmem, fun hnone => ?_, fun e hdescs => State.wroteBack_awaited (s := s.setFrame _) hdescs⟩
  rw [State.wroteBack_unawaited (s := s.setFrame _) hnone]
  exact ⟨rfl, State.frame_setFrame_same (g := { f with slot := some sl, tag := tag }) hframe⟩

/-- With no drive in use a refused append fails its write-back. -/
theorem State.append_undelivered {f : Frame} (hframe : s.frame f.id = some f) (hdrives : s.liveDrives = []) (port zone : Nat) (bytes : Cells)
    (dirty : BitVec 16) (tag : Nat) :
    ((s.finishZone port zone).appendAny f.id bytes dirty tag (some (port, zone))).getD ((s.finishZone port zone).writebackFailed f.id dirty) =
      s.setFrame { f with cache := f.cache.map (fun x => { x with dirty := x.dirty ||| (dirty &&& x.valid) }) } := by
  have hzone : s.finishZone port zone = s := by simp [State.finishZone, State.drive, hdrives]
  have hnone : s.appendAny f.id bytes dirty tag (some (port, zone)) = none := by simp [State.appendAny, State.driveOrder, hdrives, sortBy]
  rw [hzone, hnone, Option.getD_none, State.writebackFailed, hframe]

/-- Commands that are sent one by one are outstanding with those before them, and nothing else changes. -/
theorem State.sendAll_leaves (port : Nat) (cs : List (Nat × Nat)) (s : State) :
    let t := forL cs s (fun c t => t.nvmeSend port (.setup c.1 c.2))
    t = { s with nvme := t.nvme, nextCmd := t.nextCmd } ∧ (∀ y ∈ s.nvme, y ∈ t.nvme) ∧
      ∀ x ∈ cs, ∃ y ∈ t.nvme, y.port = port ∧ y.op = .setup x.1 x.2 := by
  induction cs generalizing s with
  | nil => exact ⟨rfl, fun y hy => hy, fun x hx => absurd hx List.not_mem_nil⟩
  | cons c cs ih =>
    obtain ⟨honly, hold, hnew⟩ := ih (s.nvmeSend port (.setup c.1 c.2))
    intro t
    refine ⟨honly, fun y hy => hold y (List.mem_append_left _ hy), fun x hx => ?_⟩
    rcases List.mem_cons.mp hx with rfl | hx
    · exact ⟨_, hold _ (List.mem_append_right _ (List.mem_singleton_self _)), rfl, rfl⟩
    · exact hnew x hx

section Answered
variable (halive : s.alive = true) (hcmd : s.nvmeCmd c.id = some c)
include halive hcmd

/-- A command that gives no data in time is aborted, and the event is the only one. -/
theorem exec_nvmeCommandTimeout_leaves (hfill : s.fillQ = []) (hdescs : s.descs = []) (habort : c.aborting = false) (hop : ∀ x, c.op ≠ .abort x)
    (hreset : c.op ≠ .controllerReset) : ∃ t, exec (.nvmeCommandTimeout c.id) s = .next t ∧
      t.nvme = s.nvme.map (fun x => if x.id = c.id then { c with aborting := true } else x) ++ [⟨s.nextCmd, c.port, .abort c.id, false, false, false⟩] ∧
      t.fld f_FLT_SEQ_SEQ = (s.fld f_FLT_SEQ_SEQ + 1) % 2 ^ 64 := by
  set u := (s.nvmeMark { c with aborting := true }).nvmeSend c.port (.abort c.id) with hu
  have hraise := State.raise_media u (ev 0x0D (10 * 4096 + c.port) (c.port + 65536 * 0))
  obtain ⟨hend, hregs⟩ := State.endCommand_quiet (hraise.descs.trans hdescs) (hraise.fillQ.trans hfill) c
  refine ⟨_, exec_nvmeCommandTimeout_aborts halive hcmd habort hop hreset, (hend.nvme.trans hraise.nvme).trans ?_, ?_⟩
  · rw [hu, State.nvmeMark_eq]
    rfl
  · exact (congrArg f_FLT_SEQ_SEQ.get (State.word_of_regs hregs _)).trans (State.raise_seq_quiet u rfl)

/-- An Abort that does not end leaves the drive one command, the reset of its controller. -/
theorem exec_nvmeAbortTimeout_leaves (hfill : s.fillQ = []) (hdescs : s.descs = []) {x : Nat} (hop : c.op = .abort x) :
    ∃ t, exec (.nvmeAbortTimeout c.id) s = .next t ∧
      t.nvme = s.nvme.filter (fun x => !(x.port == c.port)) ++ [⟨s.nextCmd, c.port, .controllerReset, false, false, false⟩] := by
  refine ⟨_, exec_nvmeAbortTimeout_resets halive hcmd hop, ?_⟩
  have hquiet := State.endCommands_quiet (s := { s with nvme := s.nvme.filter (fun y : NvmeCmd => !(y.port == c.port)) }) hdescs hfill
    (s.nvme.filter (fun y : NvmeCmd => y.port == c.port && !y.aborting))
  rw [State.nvmeSend_eq]
  dsimp only
  rw [hquiet.nvme, hquiet.nextCmd]

end Answered

end Parts

end Sys2Proof.Machine

/-! The failure of a drive (R303): its commands are gone, and its tiles are written again from whole copies, or lost. -/

namespace Sys2Proof.Machine

/-! ### Tiles of a failed drive -/

/-- The cached copy of a tile has every sector. -/
def Frame.whole (f : Frame) : Bool := f.cache.any (fun c => c.valid == BitVec.allOnes 16)

/-- What becomes of a tile whose place is gone. -/
def Frame.displaced (f : Frame) : Frame := if f.whole then f.rewrite else { f with lost := some ePoison }

/-- A frame but for which of its sectors are dirty. -/
def Frame.clean (f : Frame) : Frame := { f with cache := f.cache.map (fun c => { c with dirty := 0 }) }

theorem Frame.clean_whole (f : Frame) : f.clean.whole = f.whole := by
  unfold Frame.whole Frame.clean
  cases f.cache <;> rfl

theorem Frame.clean_rewrite (f : Frame) : f.clean.rewrite = f.rewrite := by
  unfold Frame.rewrite Frame.clean
  cases f.cache <;> rfl

/-- The place of one tile is gone (R302, R303). -/
def State.displace (s : State) (f : Frame) : State := if f.whole then s.setFrame f.rewrite else s.lose f.id ePoison

theorem State.loseSlots_eq (s : State) (p : Slot → Bool) :
    s.loseSlots p = forL (s.frames.filter (fun f => f.slot.any p)) s (fun f t => t.displace f) := rfl

theorem State.displace_media (s : State) (f : Frame) : s.MediaStands (s.displace f) := .ite (State.setFrame_media ..) (State.lose_media ..)

theorem State.displace_word (s : State) (f : Frame) {o : Nat} (ho : o < 0xB0040) (herr : o ≠ f_TIER_ERR_LOST_TILES.addr 0) :
    (s.displace f).word o = s.word o := by
  unfold State.displace
  split
  · rfl
  · exact State.lose_word _ _ _ ho herr

theorem State.displace_frame_ne (s : State) {f : Frame} {j : Nat} (h : j ≠ f.id) : (s.displace f).frame j = s.frame j := by
  unfold State.displace
  split
  · exact State.frame_setFrame_ne s (g := f.rewrite) h
  · exact State.lose_frame_ne _ h

theorem State.displace_frame_same {s : State} {f : Frame} (hf : s.frame f.id = some f) (hlost : f.lost = none) :
    (s.displace f).frame f.id = some f.displaced := by
  unfold State.displace Frame.displaced
  split
  · exact State.frame_setFrame_same (g := f.rewrite) hf
  · exact State.lose_frame_same _ hf hlost

theorem State.displaceAll_frame_ne {j : Nat} (fs : List Frame) (h : ∀ f ∈ fs, j ≠ f.id) (s : State) :
    (forL fs s (fun f t => t.displace f)).frame j = s.frame j :=
  forL_induct (P := fun t => t.frame j = s.frame j) fs _ rfl fun f hf t ht => (State.displace_frame_ne t (h f hf)).trans ht

/-- Of tiles with names of their own each is displaced once. -/
theorem State.displaceAll_frame {f : Frame} (hlost : f.lost = none) (fs : List Frame) (hnodup : (fs.map (·.id)).Nodup) (hmem : f ∈ fs) (s : State)
    (hf : s.frame f.id = some f) : (forL fs s (fun g t => t.displace g)).frame f.id = some f.displaced := by
  induction fs generalizing s with
  | nil => cases hmem
  | cons g gs ih =>
    obtain ⟨hfresh, hnodup'⟩ := List.nodup_cons.mp hnodup
    have hother (x : Frame) (hx : x ∈ gs) : g.id ≠ x.id := fun he => hfresh (List.mem_map.mpr ⟨x, hx, he.symm⟩)
    rcases List.mem_cons.mp hmem with rfl | hmem'
    · exact (State.displaceAll_frame_ne gs hother _).trans (State.displace_frame_same hf hlost)
    · exact ih hnodup' hmem' (s.displace g) ((State.displace_frame_ne s (hother f hmem').symm).trans hf)

/-! ### What the drive was writing (R282) -/

/-- A write-back that fails makes sectors dirty, and changes nothing else of any frame. -/
theorem State.writebackFailed_clean {s : State} (hnodup : (s.frames.map (·.id)).Nodup) (id : Nat) (dirty : BitVec 16) :
    (s.writebackFailed id dirty).frames.map Frame.clean = s.frames.map Frame.clean := by
  unfold State.writebackFailed
  split
  · rename_i f hf
    refine List.map_map.trans (List.map_congr_left fun x hx => ?_)
    simp only [Function.comp_apply, beq_iff_eq]
    split
    · rename_i he
      obtain rfl : x = f := List.inj_on_of_nodup_map hnodup hx (List.mem_of_find?_eq_some hf) he
      unfold Frame.clean
      cases x.cache <;> rfl
    · rfl
  · rfl

theorem frames_nodup_of_clean {l m : List Frame} (h : l.map Frame.clean = m.map Frame.clean) (hm : (m.map (·.id)).Nodup) :
    (l.map (·.id)).Nodup := by
  have hids (k : List Frame) : k.map (·.id) = (k.map Frame.clean).map (·.id) := by
    rw [List.map_map]
    rfl
  rwa [hids, h, ← hids]

/-- A drive that has failed: it is marked, its commands are gone, the sectors that it was writing are dirty again, and the event is raised. -/
def State.driveGone (s : State) (port : Nat) (dirties : List (Nat × BitVec 16)) : State :=
  (forL dirties { (s.setFldAt f_MEDIA_PORT_STATE port 2) with
      nvme := del s.nvme (fun c => c.port == port), mediaWait := s.mediaWait.filter (fun p => p != port) }
    (fun x t => t.writebackFailed x.1 x.2)).raise (ev 0x0C (10 * 4096 + port) port)

/-- A drive that is neither in use nor awaited has nothing to lose. -/
theorem State.failDrive_idle {s : State} {port : Nat} (hstate : s.fldAt f_MEDIA_PORT_STATE port ≠ 1) (hwait : port ∉ s.mediaWait) :
    s.failDrive port = s := by
  rw [State.failDrive, if_pos (by simp [hstate, hwait])]

section Failure
variable {s : State} {port : Nat} (hport : port < 8)
include hport

theorem State.failDrive_inUse (hstate : s.fldAt f_MEDIA_PORT_STATE port = 1) :
    ∃ dirties, s.failDrive port = ((s.driveGone port dirties).loseSlots (fun x => x.drive == port)).retryFills := by
  rw [State.failDrive, if_neg (by omega)]
  exact ⟨_, rfl⟩

/-- The word of `MEDIA_PORT` lies below the registers that an event touches, and is not that of `TIER_ERR`. -/
theorem mediaPort_addr : f_MEDIA_PORT_STATE.addr port < 0xB0040 ∧ f_MEDIA_PORT_STATE.addr port ≠ f_TIER_ERR_LOST_TILES.addr 0 := by
  simp only [Fld.addr, f_MEDIA_PORT_STATE, f_TIER_ERR_LOST_TILES]
  omega

theorem State.driveGone_leaves (hnodup : (s.frames.map (·.id)).Nodup) (dirties : List (Nat × BitVec 16)) :
    let t := s.driveGone port dirties
    t.fldAt f_MEDIA_PORT_STATE port = 2 ∧ t.nvme = del s.nvme (fun c => c.port == port) ∧ t.fillQ = s.fillQ ∧
      t.frames.map Frame.clean = s.frames.map Frame.clean := by
  unfold State.driveGone
  set s1 : State := { (s.setFldAt f_MEDIA_PORT_STATE port 2) with
    nvme := del s.nvme (fun c => c.port == port), mediaWait := s.mediaWait.filter (fun p => p != port) }
  obtain ⟨hmedia, hregs, hclean⟩ : s1.MediaStands (forL dirties s1 (fun x t => t.writebackFailed x.1 x.2)) ∧
      (forL dirties s1 (fun x t => t.writebackFailed x.1 x.2)).regs = s1.regs ∧
      (forL dirties s1 (fun x t => t.writebackFailed x.1 x.2)).frames.map Frame.clean = s.frames.map Frame.clean :=
    forL_induct (P := fun t => s1.MediaStands t ∧ t.regs = s1.regs ∧ t.frames.map Frame.clean = s.frames.map Frame.clean) _ _ ⟨.refl s1, rfl, rfl⟩
      fun x _ t ht => by
        obtain ⟨hmedia, hregs, hclean⟩ := ht
        obtain ⟨hstep, hsregs⟩ := State.writebackFailed_media t x.1 x.2
        exact ⟨hmedia.trans hstep, hsregs.trans hregs, (State.writebackFailed_clean (frames_nodup_of_clean hclean hnodup) _ _).trans hclean⟩
  set s2 := forL dirties s1 (fun x t => t.writebackFailed x.1 x.2)
  have hraise := State.raise_media s2 (ev 0x0C (10 * 4096 + port) port)
  obtain ⟨hlow, -⟩ := mediaPort_addr hport
  refine ⟨?_, hraise.nvme.trans hmedia.nvme, hraise.fillQ.trans hmedia.fillQ, ?_⟩
  · have hword := (State.raise_word s2 (ev 0x0C (10 * 4096 + port) port) (o := f_MEDIA_PORT_STATE.addr port) (by omega) (.inl hlow)).trans
      (State.word_of_regs hregs _)
    exact (congrArg f_MEDIA_PORT_STATE.get hword).trans (State.fldAt_setFldAt s f_MEDIA_PORT_STATE port 2 (by decide))
  · rw [(State.raise_stands s2 _).frames]
    exact hclean

theorem State.failDrive_leaves (hstate : s.fldAt f_MEDIA_PORT_STATE port = 1) (hfill : s.fillQ = []) (hnodup : (s.frames.map (·.id)).Nodup) :
    (s.failDrive port).fldAt f_MEDIA_PORT_STATE port = 2 ∧ (∀ x ∈ (s.failDrive port).nvme, x.port ≠ port) ∧
      ∀ g ∈ s.frames, g.slot.any (fun x => x.drive == port) = true → g.lost = none →
        ∃ h : Frame, h.clean = g.clean ∧ (s.failDrive port).frame g.id = some h.displaced := by
  obtain ⟨dirties, hfail⟩ := State.failDrive_inUse hport hstate
  obtain ⟨hgone, hnvme, hgfill, hclean⟩ := State.driveGone_leaves hport hnodup dirties
  set u := s.driveGone port dirties
  have hunodup := frames_nodup_of_clean hclean hnodup
  set fs := u.frames.filter (fun f => f.slot.any (fun x => x.drive == port))
  obtain ⟨hlow, herr⟩ := mediaPort_addr hport
  obtain ⟨hmedia, hword⟩ : u.MediaStands (forL fs u (fun f t => t.displace f)) ∧
      (forL fs u (fun f t => t.displace f)).word (f_MEDIA_PORT_STATE.addr port) = u.word (f_MEDIA_PORT_STATE.addr port) :=
    forL_induct (P := fun t => u.MediaStands t ∧ t.word (f_MEDIA_PORT_STATE.addr port) = u.word (f_MEDIA_PORT_STATE.addr port)) fs _ ⟨.refl u, rfl⟩
      fun f _ t ht => ⟨ht.1.trans (State.displace_media t f), (State.displace_word t f hlow herr).trans ht.2⟩
  rw [hfail, State.loseSlots_eq, State.retryFills_nil (hmedia.fillQ.trans (hgfill.trans hfill))]
  refine ⟨(congrArg f_MEDIA_PORT_STATE.get hword).trans hgone, fun x hx => ?_, fun g hg hslot hlost => ?_⟩
  · rw [hmedia.nvme, hnvme] at hx
    simpa using (List.mem_filter.mp hx).2
  · obtain ⟨h, hmem, he⟩ := List.mem_map.mp (hclean ▸ List.mem_map_of_mem hg : g.clean ∈ u.frames.map Frame.clean)
    have hid : h.id = g.id := (congrArg Frame.id he : h.clean.id = g.clean.id)
    have hslot' : h.slot = g.slot := (congrArg Frame.slot he : h.clean.slot = g.clean.slot)
    have hlost' : h.lost = none := (congrArg Frame.lost he : h.clean.lost = g.clean.lost).trans hlost
    have hin : h ∈ fs := List.mem_filter.mpr ⟨hmem, by rw [hslot']; exact hslot⟩
    exact ⟨h, he, hid ▸ State.displaceAll_frame hlost' fs (hunodup.sublist (List.filter_sublist.map _)) hin u (State.frame_of_mem hunodup hmem)⟩

end Failure

/-- A tile that differs in its dirty sectors alone is displaced like the tile itself. -/
theorem Frame.displaced_of_clean {g h : Frame} (he : h.clean = g.clean) :
    (g.whole = true → h.displaced = g.rewrite) ∧ (g.whole = false → h.displaced.lost = some ePoison) := by
  have hwhole : h.whole = g.whole := by rw [← h.clean_whole, he, g.clean_whole]
  have hrewrite : h.rewrite = g.rewrite := by rw [← h.clean_rewrite, he, g.clean_rewrite]
  unfold Frame.displaced
  refine ⟨fun hg => ?_, fun hg => ?_⟩
  · rw [if_pos (hwhole.trans hg), hrewrite]
  · rw [if_neg (by simp [hwhole, hg])]

/-- A drive in use fails by a lost link, a fatal status, its removal, or a reset of its controller that does not end (R301, R303). -/
theorem exec_driveFails {s : State} {c : NvmeCmd} {port : Nat} {i : Instr} (halive : s.alive = true) (hcmd : s.nvmeCmd c.id = some c)
    (hstate : s.fldAt f_MEDIA_PORT_STATE port = 1)
    (hi : i = .driveLinkDown port ∨ i = .controllerFatalStatus port ∨ i = .driveRemoved port ∨
      (c.port = port ∧ c.op = .controllerReset ∧ i = .controllerResetTimeout port)) : exec i s = .next (s.failDrive port) := by
  obtain rfl | rfl | rfl | ⟨hport, hop, rfl⟩ := hi
  · exact congrArg Host.Outcome.next (State.whenAlive_alive halive _)
  · exact congrArg Host.Outcome.next (State.whenAlive_alive halive _)
  · exact congrArg Host.Outcome.next ((State.whenAlive_alive halive _).trans (if_pos hstate))
  · refine congrArg Host.Outcome.next ((State.whenAlive_alive halive _).trans (if_pos ?_))
    exact List.any_eq_true.mpr ⟨c, List.mem_of_find?_eq_some hcmd, by simp [hport, hop]⟩

/-! ### The statement -/

/-- Settles O58: each answer and timeout is one case of its command, and the failure of a drive displaces its tiles one by one. -/
theorem driveCommands : Obligations.DriveCommands := by
  unfold Obligations.DriveCommands
  intro s c d f data halive hcmd hfill gone
  refine ⟨fun hop hframe habort hlen => ⟨fun cf hcache hlost htag => ?_, fun htag hretagged => ?_, fun st hst hretried => ?_,
      fun st hst hretried hlost => ?_⟩, fun zone bytes dirty tag slot hop hframe habort => ⟨?_, fun hdrives => ?_⟩,
    fun zone bytes dirty tag slot z hop habort hdrive hzone hstate => ?_, fun n hop hframe habort hlen htag hn => ?_, fun z op x hop => ?_,
    fun hdrive z hop => ?_, fun cmd hop => ?_, fun hop => ⟨fun hwait => ?_, fun hwait => ?_⟩, fun hop => ?_,
    fun hdescs => ⟨fun habort hnoabort hnoreset => ?_, fun x hop => ?_⟩, fun port i hport hstate hnodup hi => ?_, fun port i hstate hi => ?_⟩
  · refine ⟨_, exec_nvmeReadComplete_fills halive hcmd habort hlen hframe hop htag, ?_⟩
    have honly := State.obs_only (s.nvmeDrop c.id) 10 c.port 1 f.owner 1
    set u := (s.nvmeDrop c.id).obs 10 c.port 1 f.owner 1
    have hu : u.frame f.id = some f := (State.frame_congr (by rw [honly]; rfl) f.id).trans hframe
    rw [State.fillDone_frame hu hcache hlost, State.retryFills_nil (by rw [honly]; exact hfill)]
    exact ⟨by rw [honly]; rfl, State.frame_setFrame_same (g := { f with cache := some (cf.fill data) }) hu, by rw [honly]; rfl⟩
  · refine ⟨_, exec_nvmeReadComplete_retags halive hcmd habort hlen hframe hop htag hretagged, rfl,
      (State.incSat_onlyWords s f_TIER_ERR_TAG_MISMATCHES (by decide)).2, ?_⟩
    rw [State.nvmeMark_eq]
    rfl
  · rw [exec_nvmeReadComplete_retries halive hcmd habort hop hst hretried, State.nvmeMark_eq]
  · exact ⟨_, exec_nvmeReadComplete_loses halive hcmd habort hop hst hretried, State.loseTile_leaves (s := s.nvmeDrop c.id) hfill hframe hlost⟩
  · refine ⟨_, exec_zoneAppendComplete_locates halive hcmd hop habort hframe slot, ?_⟩
    have honly := State.obs_only (s.nvmeDrop c.id) 10 c.port 2 f.owner 1
    set u := (s.nvmeDrop c.id).obs 10 c.port 2 f.owner 1
    have hu : u.frame f.id = some f := (State.frame_congr (by rw [honly]; rfl) f.id).trans hframe
    have hdescs : u.descs = s.descs := by rw [honly]; rfl
    obtain ⟨hnvme, hmem, halone, hwaits⟩ := State.located_leaves hu ⟨c.port, zone, slot⟩ tag
    rw [hdescs] at halone hwaits
    exact ⟨hnvme.trans (by rw [honly]; rfl), hmem.trans (by rw [honly]; rfl), halone, hwaits⟩
  · refine ⟨_, exec_zoneAppendComplete_refused halive hcmd hop habort slot, ?_⟩
    rw [State.append_undelivered (s := s.nvmeDrop c.id) hframe hdrives]
    exact ⟨rfl, State.frame_setFrame_same (s := s.nvmeDrop c.id) (g := { f with cache := _ }) hframe⟩
  · exact ⟨_, exec_zoneAppendComplete_refused halive hcmd hop habort slot, State.append_refused hop hdrive hzone hstate⟩
  · refine ⟨_, exec_nvmeReadComplete_copy_differs halive hcmd habort hlen hframe hop htag hn, ?_⟩
    have honly := State.obs_only (s.nvmeDrop c.id) 10 c.port 1 f.owner 1
    have hword : ((s.nvmeDrop c.id).obs 10 c.port 1 f.owner 1).fld f_TIER_ERR_TAG_MISMATCHES = s.fld f_TIER_ERR_TAG_MISMATCHES :=
      congrArg f_TIER_ERR_TAG_MISMATCHES.get (State.obs_word_below _ _ _ _ _ _ (by decide))
    set u := (s.nvmeDrop c.id).obs 10 c.port 1 f.owner 1
    obtain ⟨hmedia, hframes, hcount⟩ := State.tagCheck_differs u hn 2 (u.frameAddr f.id)
    exact ⟨hmedia.nvme.trans (by rw [honly]; rfl), hframes.trans (by rw [honly]; rfl), hcount.trans (by rw [hword])⟩
  · exact exec_nvmeCommandComplete_drops halive hcmd (hop.imp (fun h => ⟨z, h⟩) (fun h => ⟨op, x, h⟩))
  · refine ⟨_, exec_nvmeCommandComplete_reset halive hcmd hop hdrive, rfl, ?_⟩
    have hport : (d.zoneReset z).port = c.port := State.drive_port (d := d) hdrive
    exact State.drive_setDrive (State.drive_setDrive (s := s.nvmeDrop c.id) hdrive hport) ((Drive.keepOpen_port _ _).trans hport)
  · exact exec_nvmeCommandComplete_abort halive hcmd hop
  · rw [exec_nvmeCommandComplete_controllerReset halive hcmd hop, if_neg hwait]
    rfl
  · obtain ⟨honly, -, hsetup⟩ := State.sendAll_leaves c.port setupCmds (s.nvmeDrop c.id)
    refine ⟨_, (exec_nvmeCommandComplete_controllerReset halive hcmd hop).trans (congrArg _ (if_pos hwait)), honly, hsetup⟩
  · rw [exec_nvmeCommandComplete_event halive hcmd hop hfill]
    simp only [State.nvmeSend_eq, List.append_assoc]
    rfl
  · exact exec_nvmeCommandTimeout_leaves halive hcmd hfill hdescs habort hnoabort hnoreset
  · exact exec_nvmeAbortTimeout_leaves halive hcmd hfill hdescs hop
  · obtain ⟨hgone, hnvme, htiles⟩ := State.failDrive_leaves hport hstate hfill hnodup
    refine ⟨_, exec_driveFails halive hcmd hstate hi, hgone, hnvme, fun g hg hslot hlost => ?_⟩
    obtain ⟨h, he, hframe⟩ := htiles g hg hslot hlost
    obtain ⟨hrewrite, hlose⟩ := Frame.displaced_of_clean he
    exact ⟨fun hwhole => hframe.trans (congrArg some (hrewrite hwhole)), fun hpart => by rw [hframe, Option.map_some, hlose hpart]⟩
  · obtain ⟨hwait, rfl | rfl⟩ | rfl := hi
    · exact congrArg Host.Outcome.next ((State.whenAlive_alive halive _).trans (State.failDrive_idle hstate hwait))
    · exact congrArg Host.Outcome.next ((State.whenAlive_alive halive _).trans (State.failDrive_idle hstate hwait))
    · exact congrArg Host.Outcome.next ((State.whenAlive_alive halive _).trans (if_neg hstate))

end Sys2Proof.Machine

/-! Writes of rings of records, of their consumer counts, and of the observation registers (R338, R343, R549, R591, R592, R596, R611, R614). -/

namespace Sys2Proof.Machine

/-! ### Rings of records (R343, R549, R611, R614) -/

/-- A register that places a ring of records. -/
def recordRing (name : String) (off lo width : Nat) : RegSpec := { name := name, off := off, stride := 0x8, count := 1, fields := [
  ⟨"BASE", lo, width, .rw, 0⟩, ⟨"LOG2", 0, 5, .rw, 0⟩] }

/-- The count of records produced, in the index register of a ring. -/
def ringProd (idx : Nat) : Fld := ⟨idx, 0x8, 0, 32⟩

/-- The count of records consumed, in the index register of a ring. -/
def ringCons (idx : Nat) : Fld := ⟨idx, 0x8, 32, 32⟩

theorem findReg_migRing : findReg 0x80028 = some (recordRing "XL_MIG_RING" 0x80028 11 39, 0) := by decide +kernel

theorem findReg_logRing : findReg 0xE0000 = some (recordRing "FLT_LOG_RING" 0xE0000 12 38, 0) := by decide +kernel

theorem findReg_dumpRing : findReg 0x190010 = some (recordRing "OBS_DUMP_RING" 0x190010 12 38, 0) := by decide +kernel

theorem findReg_scrRing : findReg 0x1A0008 = some (recordRing "SCR_RING" 0x1A0008 12 38, 0) := by decide +kernel

/-- What the fields of a ring's register take (R12). -/
def ringFieldOk (logOk baseOk : Nat → Bool) (n : String) (v : Nat) : Bool := if n = "LOG2" then logOk v else baseOk v

/-- A ring as a write of its register sets it: `LOG2` and `BASE` where each is in its range, and no record in it. -/
def State.ringSet (s : State) (off : Nat) (w : Word) (logOk baseOk : Nat → Bool) : State :=
  ((s.plainWrite off w (ringFieldOk logOk baseOk)).setFld (ringProd (off + 8)) 0).setFld (ringCons (off + 8)) 0

section RingSet
variable {s : State} {name : String} {off lo width : Nat} (hreg : findReg off = some (recordRing name off lo width, 0)) (w : Word)
  (logOk baseOk : Nat → Bool)

/-- The counts stand in a register of their own. -/
theorem State.ringSet_word {o : Nat} (ho : o ≠ off + 8) :
    (s.ringSet off w logOk baseOk).word o = (s.plainWrite off w (ringFieldOk logOk baseOk)).word o := by
  rw [State.ringSet, State.word_setFld_ne _ _ _ (by simpa [Fld.addr, ringCons] using ho),
    State.word_setFld_ne _ _ _ (by simpa [Fld.addr, ringProd] using ho)]

theorem State.ringSet_prod : (s.ringSet off w logOk baseOk).fld (ringProd (off + 8)) = 0 := by
  rw [State.ringSet, State.fld_setFld_ne _ _ _ _ (by decide : 32 + 32 ≤ 64) (.inr (.inl le_rfl))]
  exact State.fld_setFld _ (ringProd _) _ (by decide : 0 + 32 ≤ 64)

theorem State.ringSet_cons : (s.ringSet off w logOk baseOk).fld (ringCons (off + 8)) = 0 :=
  State.fld_setFld _ (ringCons _) _ (by decide : 32 + 32 ≤ 64)

include hreg

theorem State.ringSet_onlyWords : s.OnlyWords (s.ringSet off w logOk baseOk) [off, off + 8] := by
  obtain ⟨honly, hothers⟩ := State.plainWrite_onlyWords (s := s) hreg w (ringFieldOk logOk baseOk)
  refine ⟨?_, fun o ho => ?_⟩
  · unfold State.OnlyRegs State.ringSet at *
    rw [honly]
    rfl
  · obtain ⟨hring, hidx⟩ : o ≠ off ∧ o ≠ off + 8 := by simpa using ho
    rw [State.ringSet_word _ _ _ hidx, hothers o (by simpa using hring)]

/-- `LOG2` is taken in its range `P`, and `BASE` where the ring fits with `LOG2` as it then reads. -/
theorem State.ringSet_fields {P : Prop} [Decidable P] (hP : logOk (bits w.toNat 0 5) = true ↔ P) (fits : Nat → Bool)
    (hfits : baseOk (bits w.toNat lo width) = fits (if P then bits w.toNat 0 5 else s.fld ⟨off, 8, 0, 5⟩)) :
    s.OnlyWords (s.ringSet off w logOk baseOk) [off, off + 8] ∧
      (s.ringSet off w logOk baseOk).fld (ringProd (off + 8)) = 0 ∧ (s.ringSet off w logOk baseOk).fld (ringCons (off + 8)) = 0 ∧
      (s.ringSet off w logOk baseOk).fld ⟨off, 8, 0, 5⟩ = (if P then bits w.toNat 0 5 else s.fld ⟨off, 8, 0, 5⟩) ∧
      (fits ((s.ringSet off w logOk baseOk).fld ⟨off, 8, 0, 5⟩) = true →
        (s.ringSet off w logOk baseOk).fld ⟨off, 8, lo, width⟩ = bits w.toNat lo width) := by
  obtain ⟨hfields, -⟩ := State.plainWrite_fields s off 0 w (ringFieldOk logOk baseOk) _ hreg
  simp only [recordRing, List.forall_mem_cons, FSpec.after_rw, ringFieldOk, if_true, if_neg (by decide : ¬ "BASE" = "LOG2")] at hfields
  obtain ⟨hbase, hlog, -⟩ := hfields
  have hword := State.ringSet_word (s := s) w logOk baseOk (by omega : off ≠ off + 8)
  rw [← hword] at hbase hlog
  have hlog2 := hlog.trans (if_congr hP rfl rfl)
  refine ⟨State.ringSet_onlyWords hreg .., State.ringSet_prod .., State.ringSet_cons .., hlog2, fun hok => hbase.trans (if_pos ?_)⟩
  exact hfits.trans ((congrArg fits hlog2).symm.trans hok)

end RingSet

/-! ### The four rings -/

section Rings
variable {s : State} (w : Word)

theorem State.migRingWrite_off (h : s.fld f_XL_MIG_CTL_ENABLE ≠ 1) : s.migRingWrite w = s.ringSet 0x80028 w (fun v => decide (6 ≤ v ∧ v ≤ 16))
    (fun v => s.migRingOk (v * 2048) (s.migLog (f_XL_MIG_RING_LOG2.get w))) :=
  if_neg h

theorem logLog2Ok_iff (v : Nat) : logLog2Ok v = true ↔ v = 0 ∨ (6 ≤ v ∧ v ≤ 16) := by
  simp [logLog2Ok]

theorem State.logRingWrite_eq : s.logRingWrite w = s.ringSet 0xE0000 w logLog2Ok (fun v => s.ringFits (v * 4096)
    (64 * 2 ^ if f_FLT_LOG_RING_LOG2.get w = 0 ∨ (6 ≤ f_FLT_LOG_RING_LOG2.get w ∧ f_FLT_LOG_RING_LOG2.get w ≤ 16) then f_FLT_LOG_RING_LOG2.get w
      else s.fld f_FLT_LOG_RING_LOG2)) := by
  simp only [← logLog2Ok_iff]
  rfl

theorem State.dumpRing_off (h : s.fld f_OBS_DUMP_CTL_ENABLE ≠ 1) : s.dumpRing w = s.ringSet 0x190010 w (fun v => decide (4 ≤ v ∧ v ≤ 16))
    (fun v => s.ringFits (v * 4096) (576 * 2 ^ if 4 ≤ f_OBS_DUMP_RING_LOG2.get w ∧ f_OBS_DUMP_RING_LOG2.get w ≤ 16 then f_OBS_DUMP_RING_LOG2.get w
      else s.fld f_OBS_DUMP_RING_LOG2)) :=
  if_neg h

theorem State.scrRing_off (h : s.fld f_SCR_CTL_ENABLE ≠ 1) : s.scrRing w = s.ringSet 0x1A0008 w (fun v => decide (6 ≤ v ∧ v ≤ 16))
    (fun v => s.ringFits (v * 4096) (64 * 2 ^ if 6 ≤ f_SCR_RING_LOG2.get w ∧ f_SCR_RING_LOG2.get w ≤ 16 then f_SCR_RING_LOG2.get w
      else s.fld f_SCR_RING_LOG2)) :=
  if_neg h

end Rings

/-! ### Consumer counts (R338, R549) -/

theorem consOk_iff {old new prod : Nat} (hold : old < 2 ^ 32) :
    consOk old new prod = true ↔ (new + 2 ^ 32 - old) % 2 ^ 32 ≤ (prod + 2 ^ 32 - old) % 2 ^ 32 := by
  rw [consOk, decide_eq_true_eq, sub32, sub32, show two32 = 2 ^ 32 from rfl, Nat.mod_eq_of_lt hold]

theorem State.ringCons_lt (s : State) (idx : Nat) : s.fld (ringCons idx) < 2 ^ 32 := Fld.get_lt ..

section Consumer
variable {s : State} {idx : Nat} {w : Word}

/-- A count that is taken stands, the producer count with it. -/
theorem State.consWrite_taken (h : ((ringCons idx).get w + 2 ^ 32 - s.fld (ringCons idx)) % 2 ^ 32 ≤
      (s.fld (ringProd idx) + 2 ^ 32 - s.fld (ringCons idx)) % 2 ^ 32) {t : State} (ht : s.consWrite (ringCons idx) (ringProd idx) w = t) :
    s.OnlyWords t [idx] ∧ t.fld (ringCons idx) = (ringCons idx).get w ∧ t.fld (ringProd idx) = s.fld (ringProd idx) := by
  subst ht
  rw [State.consWrite, if_pos ((consOk_iff (s.ringCons_lt idx)).mpr h)]
  refine ⟨⟨rfl, fun o ho => State.word_setFld_ne _ _ _ (by simpa [Fld.addr, ringCons] using ho)⟩, ?_, ?_⟩
  · exact (State.fld_setFld _ (ringCons idx) _ (by decide : 32 + 32 ≤ 64)).trans (Nat.mod_eq_of_lt (Fld.get_lt ..))
  · exact State.fld_setFld_ne _ _ _ _ (by decide : 32 + 32 ≤ 64) (.inr (.inl le_rfl))

theorem State.consWrite_ignored (h : (s.fld (ringProd idx) + 2 ^ 32 - s.fld (ringCons idx)) % 2 ^ 32 <
      ((ringCons idx).get w + 2 ^ 32 - s.fld (ringCons idx)) % 2 ^ 32) : s.consWrite (ringCons idx) (ringProd idx) w = s :=
  if_neg fun hok => absurd ((consOk_iff (s.ringCons_lt idx)).mp hok) (Nat.not_le.mpr h)

end Consumer

/-! ### Selections (R591) -/

/-- `OBS_SEL`, one for each counter. -/
def obsSel : RegSpec := { name := "OBS_SEL", off := 0x190100, stride := 0x8, count := 64, fields := [
  ⟨"ENABLE", 63, 1, .rw, 0⟩, ⟨"MODE", 61, 2, .rw, 0⟩, ⟨"INVERT", 60, 1, .rw, 0⟩, ⟨"SLICE", 48, 8, .rw, 0xff⟩, ⟨"KIND", 44, 4, .rw, 0⟩,
  ⟨"INSTANCE", 32, 12, .rw, 0⟩, ⟨"EVENT", 0, 8, .rw, 0⟩] }

theorem findReg_obsSel : ∀ c < 64, findReg (0x190100 + 8 * c) = some (obsSel, c) := by decide +kernel

section Select
variable {s : State} {c : Nat} (hc : c < 64) {w : Word}
include hc

theorem State.selWrite_missing (h : selOk w = false) : s.selWrite c w = s.incSat f_OBS_STAT_SEL_REJECTS := by
  rw [State.selWrite, if_neg (by omega), h]
  rfl

/-- A selection that exists is taken as written and its counter is zeroed; no other register changes. -/
theorem State.selWrite_exists (h : selOk w = true) {t : State} (ht : s.selWrite c w = t) : t.fldAt f_OBS_CTR_COUNT c = 0 ∧
    t.fldAt f_OBS_SEL_EVENT c = f_OBS_SEL_EVENT.get w ∧ t.fldAt f_OBS_SEL_KIND c = f_OBS_SEL_KIND.get w ∧
    t.fldAt f_OBS_SEL_INSTANCE c = f_OBS_SEL_INSTANCE.get w ∧ t.fldAt f_OBS_SEL_MODE c = f_OBS_SEL_MODE.get w ∧
    t.fldAt f_OBS_SEL_ENABLE c = f_OBS_SEL_ENABLE.get w ∧ s.RegsKept t [0x190100 + 8 * c, f_OBS_CTR_COUNT.addr c] := by
  obtain ⟨hfields, hothers, -⟩ := State.plainWrite_fields s _ c w (fun _ _ => true) obsSel (findReg_obsSel c hc)
  have hset : t.regs = ((s.plainWrite (0x190100 + 8 * c) w (fun _ _ => true)).setFldAt f_OBS_CTR_COUNT c 0).regs := by
    rw [← ht, State.selWrite, if_neg (by omega), h]
    rfl
  have hword {o : Nat} (ho : o ≠ f_OBS_CTR_COUNT.addr c) : t.word o = (s.plainWrite (0x190100 + 8 * c) w (fun _ _ => true)).word o :=
    (State.word_of_regs hset o).trans (State.word_setFldAt_ne _ _ _ _ ho)
  have hbeside : 0x190100 + 8 * c ≠ f_OBS_CTR_COUNT.addr c := by
    simp only [Fld.addr, f_OBS_CTR_COUNT]
    omega
  rw [← hword hbeside] at hfields
  simp only [obsSel, List.forall_mem_cons, FSpec.after_rw, if_true] at hfields
  obtain ⟨henable, hmode, -, -, hkind, hinstance, hevent, -⟩ := hfields
  refine ⟨?_, hevent, hkind, hinstance, hmode, henable, fun o ho => ?_⟩
  · exact (congrArg f_OBS_CTR_COUNT.get (State.word_of_regs hset _)).trans (State.fldAt_setFldAt _ f_OBS_CTR_COUNT c 0 (by decide))
  · obtain ⟨hsel, hctr⟩ : o ≠ 0x190100 + 8 * c ∧ o ≠ f_OBS_CTR_COUNT.addr c := by simpa using ho
    exact (hword hctr).trans (hothers o hsel)

end Select

/-! ### Dumps (R592) -/

/-- `OBS_DUMP_CTL`. -/
def obsDumpCtl : RegSpec := { name := "OBS_DUMP_CTL", off := 0x190008, stride := 0x8, count := 1, fields := [
  ⟨"PERIOD_US", 32, 20, .rw, 0x3e8⟩, ⟨"ENABLE", 0, 1, .rw, 0⟩] }

theorem findReg_obsDumpCtl : findReg 0x190008 = some (obsDumpCtl, 0) := by decide +kernel

/-- What the fields of `OBS_DUMP_CTL` take (R610). -/
def dumpCtlOk (n : String) (v : Nat) : Bool := n != "PERIOD_US" || decide (10 ≤ v ∧ v ≤ 1000000)

/-- `OBS_DUMP_CTL` as a write leaves it. -/
def State.dumpCtlSet (s : State) (w : Word) : State := s.plainWrite 0x190008 w dumpCtlOk

theorem State.dumpCtlSet_enable (s : State) (w : Word) : (s.dumpCtlSet w).fld f_OBS_DUMP_CTL_ENABLE = f_OBS_DUMP_CTL_ENABLE.get w := by
  obtain ⟨hfields, -⟩ := State.plainWrite_fields s _ 0 w dumpCtlOk obsDumpCtl findReg_obsDumpCtl
  exact hfields ⟨"ENABLE", 0, 1, .rw, 0⟩ (by simp [obsDumpCtl])

theorem State.dumpCtl_regs (s : State) (w : Word) : (s.dumpCtl w).regs = (s.dumpCtlSet w).regs := by
  unfold State.dumpCtl
  extract_lets s1 set
  split
  · rfl
  · split <;> rfl

/-- Setting `ENABLE` starts the dumps at this count. -/
theorem State.dumpCtl_starts {s : State} {w : Word} (hoff : s.fld f_OBS_DUMP_CTL_ENABLE = 0) (hset : f_OBS_DUMP_CTL_ENABLE.get w = 1) :
    s.dumpCtl w = { s.dumpCtlSet w with dumpSeq := 0, dumpFrom := s.now } :=
  if_pos ⟨hoff, (s.dumpCtlSet_enable w).trans hset⟩

/-! ### Scrivener (R596, R614) -/

/-- `SCR_CTL`. -/
def scrCtlReg : RegSpec := { name := "SCR_CTL", off := 0x1A0000, stride := 0x8, count := 1, fields := [
  ⟨"SEED", 48, 16, .rw, 1⟩, ⟨"POINT", 40, 3, .rw, 0⟩, ⟨"SLICE", 32, 8, .rw, 0xff⟩, ⟨"LOG2_N", 8, 5, .rw, 0xa⟩, ⟨"JITTER", 1, 1, .rw, 0⟩,
  ⟨"ENABLE", 0, 1, .rw, 0⟩] }

theorem findReg_scrCtl : findReg 0x1A0000 = some (scrCtlReg, 0) := by decide +kernel

/-- What the fields of `SCR_CTL` take (R614). -/
def scrCtlOk (n : String) (v : Nat) : Bool := if n = "POINT" then decide (v ≤ 5) else n != "LOG2_N" || decide (v ≤ 20)

/-- `SCR_CTL` as a write leaves it. -/
def State.scrCtlSet (s : State) (w : Word) : State := s.plainWrite 0x1A0000 w scrCtlOk

theorem State.scrCtlSet_enable (s : State) (w : Word) : (s.scrCtlSet w).fld f_SCR_CTL_ENABLE = f_SCR_CTL_ENABLE.get w := by
  obtain ⟨hfields, -⟩ := State.plainWrite_fields s _ 0 w scrCtlOk scrCtlReg findReg_scrCtl
  exact hfields ⟨"ENABLE", 0, 1, .rw, 0⟩ (by simp [scrCtlReg])

theorem State.scrCtl_set {s : State} {w : Word} (hoff : s.fld f_SCR_CTL_ENABLE = 0) (hset : f_SCR_CTL_ENABLE.get w = 1) :
    s.scrCtl w = (s.scrCtlSet w).scrStart :=
  if_pos ⟨hoff, (s.scrCtlSet_enable w).trans hset⟩

theorem State.scrCtl_goesOn {s : State} {w : Word} (h : s.fld f_SCR_CTL_ENABLE = 1 ∨ f_SCR_CTL_ENABLE.get w = 0) :
    s.scrCtl w = s.scrCtlSet w := by
  refine if_neg fun ⟨hoff, hset⟩ => ?_
  have hset' := (s.scrCtlSet_enable w).symm.trans hset
  omega

/-- The first gap to a sample may step the LFSR, and touches nothing else. -/
theorem State.scrGap_onlyLfsr (s : State) : s.scrGap.1 = { s with scrLfsr := s.scrGap.1.scrLfsr } := by
  unfold State.scrGap
  extract_lets n x
  split <;> rfl

theorem State.scrStart_zeroes (s : State) : s.scrStart.regs = s.regs ∧ s.scrStart.scrCount = 0 ∧ s.scrStart.scrSeq = 0 := by
  unfold State.scrStart
  extract_lets seed s1
  change s1.scrGap.1.regs = _ ∧ s1.scrGap.1.scrCount = 0 ∧ s1.scrGap.1.scrSeq = 0
  rw [State.scrGap_onlyLfsr]
  exact ⟨rfl, rfl, rfl⟩

theorem State.scrCtl_regs (s : State) (w : Word) : (s.scrCtl w).regs = (s.scrCtlSet w).regs := by
  unfold State.scrCtl
  extract_lets s1
  split
  · exact (State.scrStart_zeroes s1).1
  · rfl

/-! ### The commands -/

section Commands
variable {s : State} (halive : s.alive = true) (w : Word)
include halive

theorem exec_xlMigRingWrite_alive : exec (.xlMigRingWrite w) s = .next (s.migRingWrite w) :=
  congrArg Host.Outcome.next (State.whenAlive_alive halive _)

theorem exec_fltLogRingWrite_alive : exec (.fltLogRingWrite w) s = .next (s.logRingWrite w) :=
  congrArg Host.Outcome.next (State.whenAlive_alive halive _)

theorem exec_obsDumpRingWrite_alive : exec (.obsDumpRingWrite w) s = .next (s.dumpRing w) :=
  congrArg Host.Outcome.next (State.whenAlive_alive halive _)

theorem exec_scrRingWrite_alive : exec (.scrRingWrite w) s = .next (s.scrRing w) :=
  congrArg Host.Outcome.next (State.whenAlive_alive halive _)

theorem exec_xlMigIdxWrite_alive : exec (.xlMigIdxWrite w) s = .next (s.consWrite f_XL_MIG_IDX_CONS f_XL_MIG_IDX_PROD w) :=
  congrArg Host.Outcome.next (State.whenAlive_alive halive _)

theorem exec_fltLogIdxWrite_alive : exec (.fltLogIdxWrite w) s = .next (s.consWrite f_FLT_LOG_IDX_CONS f_FLT_LOG_IDX_PROD w) :=
  congrArg Host.Outcome.next (State.whenAlive_alive halive _)

theorem exec_obsSelWrite_alive (c : Nat) : exec (.obsSelWrite c w) s = .next (s.selWrite c w) :=
  congrArg Host.Outcome.next (State.whenAlive_alive halive _)

theorem exec_obsDumpCtlWrite_alive : exec (.obsDumpCtlWrite w) s = .next (s.dumpCtl w) :=
  congrArg Host.Outcome.next (State.whenAlive_alive halive _)

theorem exec_scrCtlWrite_alive : exec (.scrCtlWrite w) s = .next (s.scrCtl w) :=
  congrArg Host.Outcome.next (State.whenAlive_alive halive _)

end Commands

/-! ### The statement -/

/-- Settles O10: each ring is set by one shared write, judged by its own ranges; consumer counts share one write too. -/
theorem recordRingsAndObservation : Obligations.RecordRingsAndObservation := by
  unfold Obligations.RecordRingsAndObservation
  refine ⟨fun s w halive => ⟨fun hoff => ?_, fun hon => ?_, ?_, fun hoff => ?_, fun hon => ?_, fun hoff => ?_, fun hon => ?_⟩,
    fun s w halive => ⟨⟨fun htaken => ?_, fun hbeyond => ?_⟩, ⟨fun htaken => ?_, fun hbeyond => ?_⟩⟩,
    fun s w halive => ⟨fun c hc hsel => ?_, fun c hc hsel => ?_, ?_, ?_⟩⟩
  · exact ⟨_, (exec_xlMigRingWrite_alive halive w).trans (congrArg _ (State.migRingWrite_off w hoff)),
      State.ringSet_fields findReg_migRing w _ _ decide_eq_true_iff
        (fun _ => s.migRingOk (f_XL_MIG_RING_BASE.get w * 2048) (s.migLog (f_XL_MIG_RING_LOG2.get w))) rfl⟩
  · exact (exec_xlMigRingWrite_alive halive w).trans (congrArg _ (if_pos hon))
  · exact ⟨_, (exec_fltLogRingWrite_alive halive w).trans (congrArg _ (State.logRingWrite_eq w)),
      State.ringSet_fields findReg_logRing w _ _ (logLog2Ok_iff _) (fun n => s.ringFits (f_FLT_LOG_RING_BASE.get w * 4096) (64 * 2 ^ n)) rfl⟩
  · exact ⟨_, (exec_obsDumpRingWrite_alive halive w).trans (congrArg _ (State.dumpRing_off w hoff)),
      State.ringSet_fields findReg_dumpRing w _ _ decide_eq_true_iff (fun n => s.ringFits (f_OBS_DUMP_RING_BASE.get w * 4096) (576 * 2 ^ n)) rfl⟩
  · exact (exec_obsDumpRingWrite_alive halive w).trans (congrArg _ (if_pos hon))
  · exact ⟨_, (exec_scrRingWrite_alive halive w).trans (congrArg _ (State.scrRing_off w hoff)),
      State.ringSet_fields findReg_scrRing w _ _ decide_eq_true_iff (fun n => s.ringFits (f_SCR_RING_BASE.get w * 4096) (64 * 2 ^ n)) rfl⟩
  · exact (exec_scrRingWrite_alive halive w).trans (congrArg _ (if_pos hon))
  · exact ⟨_, exec_xlMigIdxWrite_alive halive w, State.consWrite_taken (idx := 0x80030) htaken rfl⟩
  · exact (exec_xlMigIdxWrite_alive halive w).trans (congrArg _ (State.consWrite_ignored (idx := 0x80030) hbeyond))
  · exact ⟨_, exec_fltLogIdxWrite_alive halive w, State.consWrite_taken (idx := 0xE0008) htaken rfl⟩
  · exact (exec_fltLogIdxWrite_alive halive w).trans (congrArg _ (State.consWrite_ignored (idx := 0xE0008) hbeyond))
  · exact ⟨_, exec_obsSelWrite_alive halive w c, State.selWrite_exists hc hsel rfl⟩
  · exact ⟨_, (exec_obsSelWrite_alive halive w c).trans (congrArg _ (State.selWrite_missing hc hsel)), State.incSat_onlyWords s _ (by decide)⟩
  · have hword := State.word_of_regs (s.dumpCtl_regs w)
    refine ⟨_, exec_obsDumpCtlWrite_alive halive w, ?_, fun o ho => ?_, fun hoff hset => ?_⟩
    · exact (congrArg f_OBS_DUMP_CTL_ENABLE.get (hword _)).trans (s.dumpCtlSet_enable w)
    · exact (hword o).trans ((State.plainWrite_onlyWords findReg_obsDumpCtl ..).2 o ho)
    · rw [State.dumpCtl_starts hoff hset]
      exact ⟨rfl, rfl⟩
  · have hword := State.word_of_regs (s.scrCtl_regs w)
    obtain ⟨honly, hothers⟩ := State.plainWrite_onlyWords (s := s) findReg_scrCtl w scrCtlOk
    refine ⟨_, exec_scrCtlWrite_alive halive w, ?_, fun o ho => (hword o).trans (hothers o ho), fun hoff hset => ?_, fun h => ?_⟩
    · exact (congrArg f_SCR_CTL_ENABLE.get (hword _)).trans (s.scrCtlSet_enable w)
    · rw [State.scrCtl_set hoff hset]
      exact (State.scrStart_zeroes _).2
    · rw [State.scrCtl_goesOn h, State.scrCtlSet, honly]
      exact ⟨rfl, rfl⟩

end Sys2Proof.Machine

/-! What many commands leave as it was: a packet taken from its input (R479), packets sent, and an event with its record, counts and message (R523 to
R531). -/

namespace Sys2Proof.Machine

/-! ### Packets taken and sent (R479, R484) -/

/-- A packet that leaves its input changes only the packets that have come and what the links owe. -/
theorem State.takeRx_only (s : State) (p : Pkt) : ∃ rx links, s.takeRx p = { s with rx := rx, links := links } := by
  unfold State.takeRx State.freeCells State.oweCells
  split
  · split
    · exact ⟨_, _, rfl⟩
    · exact ⟨_, s.links, rfl⟩
  · exact ⟨s.rx, s.links, rfl⟩

theorem State.sendQf_only (s : State) (p : QPkt) : s.sendQf p = { s with queue := (s.sendQf p).queue } := by
  unfold State.sendQf
  split
  · rfl
  · split <;> rfl

theorem State.sendKl_only (s : State) (k : Nat) (p : KPkt) : s.sendKl k p = { s with queue := (s.sendKl k p).queue } := by
  unfold State.sendKl
  split <;> rfl

theorem State.sendKl_up {s : State} {k : Nat} (h : s.klUp k = true) (p : KPkt) :
    s.sendKl k p = { s with queue := s.queue ++ [⟨12, k, .kl p, none⟩] } := by
  rw [State.sendKl, if_pos h]
  rfl

/-! ### What an event leaves (R523 to R531) -/

/-- A part of the state that an event does not reach: it is none of the registers, memory, the accesses that wait at the banks, the packets on their way
out, and what the ZV9 keeps of alarms, interrupts and free values. -/
structure EventBlind {α : Type} (f : State → α) : Prop where
  regs : ∀ (s : State) r, f { s with regs := r } = f s
  memory : ∀ (s : State) m p, f { s with mem := m, poison := p } = f s
  bankQ : ∀ (s : State) q, f { s with bankQ := q } = f s
  queue : ∀ (s : State) q, f { s with queue := q } = f s
  fresh : ∀ (s : State) n, f { s with fresh := n } = f s
  alarmExtra : ∀ (s : State) x, f { s with alarmExtra := x } = f s
  message : ∀ (s : State) n o, f { s with nextTag := n, klOuts := o } = f s
  logIntDue : ∀ (s : State) b, f { s with logIntDue := b } = f s

theorem outReqs_eventBlind : EventBlind State.outReqs := ⟨fun _ _ => rfl, fun _ _ _ => rfl, fun _ _ => rfl, fun _ _ => rfl, fun _ _ => rfl, fun _ _ => rfl,
  fun _ _ _ => rfl, fun _ _ => rfl⟩

theorem descs_eventBlind : EventBlind State.descs := ⟨fun _ _ => rfl, fun _ _ _ => rfl, fun _ _ => rfl, fun _ _ => rfl, fun _ _ => rfl, fun _ _ => rfl,
  fun _ _ _ => rfl, fun _ _ => rfl⟩

theorem invals_eventBlind : EventBlind State.invals := ⟨fun _ _ => rfl, fun _ _ _ => rfl, fun _ _ => rfl, fun _ _ => rfl, fun _ _ => rfl, fun _ _ => rfl,
  fun _ _ _ => rfl, fun _ _ => rfl⟩

theorem cells_eventBlind : EventBlind State.cells := ⟨fun _ _ => rfl, fun _ _ _ => rfl, fun _ _ => rfl, fun _ _ => rfl, fun _ _ => rfl, fun _ _ => rfl,
  fun _ _ _ => rfl, fun _ _ => rfl⟩

section Blind
variable {α : Type} {f : State → α} (hf : EventBlind f)
include hf

theorem EventBlind.setWord (s : State) (off : Nat) (w : Word) : f (s.setWord off w) = f s := hf.regs _ _

theorem EventBlind.setFldAt (s : State) (g : Fld) (i v : Nat) : f (s.setFldAt g i v) = f s := hf.setWord ..

theorem EventBlind.setFld (s : State) (g : Fld) (v : Nat) : f (s.setFld g v) = f s := hf.setWord ..

theorem EventBlind.incSat (s : State) (g : Fld) : f (s.incSat g) = f s := hf.setWord ..

theorem EventBlind.recordWrite (s : State) (a : Nat) (bs : List Byte) : f (s.recordWrite a bs) = f s := by
  unfold State.recordWrite
  split
  · exact hf.bankQ ..
  · exact hf.memory ..

theorem EventBlind.logWrite (s : State) (rec64 : List Byte) : f (s.logWrite rec64) = f s := by
  unfold State.logWrite
  dsimp only
  split
  · exact hf.incSat ..
  · rw [hf.setFld, hf.recordWrite]
    split
    · rw [hf.incSat, hf.setFld]
    · rfl

theorem EventBlind.alarmAdd (s : State) (base i node source cause n first last : Nat) :
    f (s.alarmAdd base i node source cause n first last) = f s := by
  unfold State.alarmAdd
  dsimp only
  rw [hf.setWord]
  split
  · rw [hf.setWord, hf.setWord, hf.setWord]
  · rw [hf.setWord, hf.setWord]

theorem EventBlind.countAlarm (s : State) (source cause detail : Nat) : f (s.countAlarm source cause detail) = f s := by
  unfold State.countAlarm
  split
  extract_lets s1 s2 s3 n s4 s5
  have h2 : f s2 = f s := (hf.setFld ..).trans (hf.alarmAdd ..)
  have h3 : f s3 = f s := by
    unfold s3
    split
    · exact (hf.incSat ..).trans h2
    · exact h2
  have h5 : f s5 = f s := (hf.alarmExtra ..).trans ((hf.setFld ..).trans h3)
  split
  · split
    exact (hf.alarmAdd ..).trans h5
  · exact h5

theorem EventBlind.sendQf (s : State) (p : QPkt) : f (s.sendQf p) = f s := by
  rw [State.sendQf_only]
  exact hf.queue ..

theorem EventBlind.sendKl (s : State) (k : Nat) (p : KPkt) : f (s.sendKl k p) = f s := by
  rw [State.sendKl_only]
  exact hf.queue ..

theorem EventBlind.freeze (s : State) (trigger : Fld) (source cause : Nat) : f (s.freeze trigger source cause) = f s := by
  unfold State.freeze
  split
  · rfl
  · split
    · split
      · exact hf.setFld ..
      · rfl
    · simp only [hf.setFld]

theorem EventBlind.record (s : State) (e : Event) : f (s.record e) = f s := by
  unfold State.record
  extract_lets seq r s1 s2 s3 s4
  have h1 : f s1 = f s := (hf.logWrite ..).trans (hf.setFld ..)
  have h2 : f s2 = f s := by
    unfold s2
    split
    · exact (hf.countAlarm ..).trans h1
    · exact h1
  have h3 : f s3 = f s := (hf.fresh ..).trans h2
  have h4 : f s4 = f s := by
    unfold s4
    split
    · split
      · exact (hf.sendQf ..).trans h3
      · exact h3
    · exact h3
  split
  · exact (hf.freeze ..).trans h4
  · exact h4

theorem EventBlind.logDue (s : State) : f s.logDue = f s := by
  unfold State.logDue
  split
  · exact hf.logIntDue ..
  · rfl

theorem EventBlind.sendMessage (s : State) (x v : Nat) : f (s.message x v) = f s := by
  unfold State.message
  extract_lets i k a p s1
  split
  · exact hf.setFldAt ..
  · split
    · exact hf.setFldAt ..
    · split
      · rw [hf.logDue, hf.record]
        exact hf.setFldAt ..
      · exact (hf.message s1 _ _).trans (hf.sendKl ..)

theorem EventBlind.raise (s : State) (e : Event) : f (s.raise e) = f s := by
  unfold State.raise State.logTell
  split
  · rw [hf.sendMessage, hf.logIntDue, hf.record]
  · rw [hf.logDue, hf.record]

end Blind

end Sys2Proof.Machine

/-! What an answer ends (R365, R409 to R411, R421, R423, R425, R429, R641): the request leaves, and what it brought reaches its descriptor. -/

namespace Sys2Proof.Machine

/-! ### A request that leaves -/

/-- Nothing is sent again while no request was rejected. -/
theorem State.pumpStale_sent {s : State} (h : s.allSent) : s.pumpStale = s := by
  have hnone : s.outReqs.filter (·.stale) = [] := List.filter_eq_nil_iff.mpr fun o ho => by simp [(h o ho).2]
  rw [State.pumpStale, hnone, forL, List.foldl_nil]

/-- Nothing waits for the space that an answer frees. -/
theorem State.pumpRsp_sent {s : State} (h : s.allSent) : s.pumpRsp = s := by
  have hnone : s.outReqs.filter (fun o => o.sends == 0) = [] := List.filter_eq_nil_iff.mpr fun o ho => by simp [(h o ho).1]
  rw [State.pumpRsp, hnone, forL, List.foldl_nil]

theorem State.dropReq_sent {s : State} (h : s.allSent) (o : OutReq) : s.dropReq o = { s with outReqs := s.outReqs.erase o } := by
  have herase : ({ s with outReqs := s.outReqs.erase o } : State).allSent := fun x hx => h x (List.mem_of_mem_erase hx)
  rw [State.dropReq, State.pumpStale_sent herase, State.pumpRsp_sent herase]

/-- With no invalidation under way and no descriptor stopped nothing else ends. -/
theorem State.reapInvals_idle {s : State} (h : s.noAborts) : s.reapInvals = s := by
  obtain ⟨hinvals, hstop⟩ := h
  have hclean {l : List Inval} (hl : l = s.invals) : ({ s with invals := l } : State) = s := by rw [hl]
  simp only [State.reapInvals, State.endStopped_unstopped hstop, hinvals, List.filter_nil, forL, List.foldl_nil, List.isEmpty_nil, if_true]
  exact hclean hinvals.symm

/-! ### What reaches the descriptor -/

/-- An answer of another home is kept at its descriptor. -/
def Desc.take (d : Desc) (g : Fetched) : Desc := { d with fetched := d.fetched ++ [g] }

/-- What a read brought: bytes, or the status that ended it. -/
def OutReq.got (o : OutReq) (bs : List Byte) (po : Bool) (f : Fail) : Fetched :=
  ⟨o.pkt.dest, o.pkt.rref, o.pkt.addr, o.pkt.aux, bs, po, f.status, f.kind, f.detail⟩

/-- Descriptor `k` keeps an answer. -/
def State.give (s : State) (k : DKey) (g : Fetched) : State := { s with descs := upd s.descs (fun d => d.key == k) (fun d => d.take g) }

theorem State.give_desc {s : State} {k : DKey} {d : Desc} (h : s.desc k = some d) (g : Fetched) :
    (s.give k g).desc k = some (d.take g) ∧ s.OtherDescs (s.give k g) k :=
  ⟨State.desc_upd_same (g := fun d => d.take g) rfl (fun _ => rfl) h, State.desc_upd_other (g := fun d => d.take g) rfl fun _ => rfl⟩

theorem mem_upd {α : Type} {l : List α} {p : α → Bool} {g : α → α} {x : α} (h : x ∈ upd l p g) : ∃ y ∈ l, x = if p y then g y else y := by
  obtain ⟨y, hy, rfl⟩ := List.mem_map.mp h
  exact ⟨y, hy, rfl⟩

/-- Changes of descriptors that leave each stopped or not stop none. -/
theorem State.noAborts.upd {s t : State} (h : s.noAborts) (hinvals : t.invals = s.invals) {p : Desc → Bool} {g : Desc → Desc}
    (hdescs : t.descs = Machine.upd s.descs p g) (hstop : ∀ d, (g d).stop = d.stop) : t.noAborts := by
  refine ⟨hinvals.trans h.1, fun d hd => ?_⟩
  obtain ⟨e, he, rfl⟩ := mem_upd (hdescs ▸ hd)
  split
  · exact (hstop e).trans (h.2 e he)
  · exact h.2 e he

theorem State.noAborts.congr {s t : State} (h : s.noAborts) (hinvals : t.invals = s.invals) (hdescs : t.descs = s.descs) : t.noAborts :=
  ⟨hinvals.trans h.1, hdescs ▸ h.2⟩

section Deliver
variable {s : State} {o : OutReq} {k : DKey} {unit : Nat} (hwho : o.who = .desc k unit) (hcalm : s.noAborts)
include hwho hcalm

theorem State.deliver_bytes (hbulk : o.pkt.typ = 0x01 ∨ o.pkt.typ = 0x07) (bs : List Byte) (po : Bool) :
    s.deliver o (.ok (bs, po)) = s.give k (o.got bs po okFail) := by
  have hkeep : (s.give k (o.got bs po okFail)).noAborts := hcalm.upd (g := fun d => d.take _) rfl rfl fun _ => rfl
  rw [← State.reapInvals_idle hkeep]
  rcases hbulk with h | h <;> simp only [State.deliver, hwho, h] <;> rfl

theorem State.deliver_status (hbulk : o.pkt.typ = 0x01 ∨ o.pkt.typ = 0x07) (f : Fail) :
    s.deliver o (.error f) = s.give k (o.got [] false f) := by
  have hkeep : (s.give k (o.got [] false f)).noAborts := hcalm.upd (g := fun d => d.take _) rfl rfl fun _ => rfl
  rw [← State.reapInvals_idle hkeep]
  rcases hbulk with h | h <;> simp only [State.deliver, hwho, h] <;> rfl

/-- A write or an atomic that was made leaves its descriptor. -/
theorem State.deliver_done (htyp : o.pkt.typ ∈ [0x03, 0x05, 0x08]) (bs : List Byte) (po : Bool) : s.deliver o (.ok (bs, po)) = s := by
  have hidle : s.deliver o (.ok (bs, po)) = s.reapInvals := by
    simp only [List.mem_cons, List.not_mem_nil, or_false] at htyp
    rcases htyp with h | h | h <;> simp only [State.deliver, hwho, h]
  rw [hidle, State.reapInvals_idle hcalm]

end Deliver

/-- Ending a descriptor starts no invalidation. -/
theorem State.endDesc_invals (s : State) (k : DKey) (status kind detail progress : Nat) : (s.endDesc k status kind detail progress).invals = s.invals := by
  unfold State.endDesc
  dsimp only
  split
  · rw [State.gc_only]
    split <;> rfl
  · split <;> rfl

/-! ### The end of a home operation (R641) -/

/-- A status by which its home refused a home operation: those of the checks there, and the `E_INTEGRITY` of a `CUT`, with nothing done. -/
def Desc.refusedBy (d : Desc) (st n : Nat) : Prop :=
  n = 0 ∧ (0x10 ≤ st ∧ st ≤ 0x18 ∨ st = eFenced ∨ st = eIntegrity ∧ d.op = 0x30 ∧ d.at 24 1 = 0)

/-- Descriptor `k` is marked started, or as one that no unit took. -/
def State.markBegun (s : State) (k : DKey) (started : Bool) : State :=
  { s with descs := upd s.descs (fun x => x.key == k) (fun x => x.begun started) }

section HomeAnswer
variable {s : State} {k : DKey} {d : Desc} (hd : s.desc k = some d) (hcalm : s.noAborts) {f : Fail} {n : Nat} {started : Bool}
include hd hcalm

theorem State.homeAnswer_running (hphase : d.phase = .running) (hstarted : started = false ↔ d.refusedBy f.status n) :
    s.homeAnswer k f n = (s.markBegun k started).endDesc k f.status f.kind f.detail n := by
  have hstop : d.stop = none := hcalm.2 d (List.mem_of_find?_eq_some hd)
  have hrejected : ((decide (0x10 ≤ f.status ∧ f.status ≤ 0x18) || f.status == eFenced ||
      (f.status == eIntegrity && d.op == 0x30 && d.at 24 1 == 0)) && n == 0) = !started := by
    rw [Bool.eq_iff_iff, Bool.not_eq_true', hstarted, Desc.refusedBy]
    simp only [Bool.and_eq_true, Bool.or_eq_true, decide_eq_true_eq, beq_iff_eq]
    tauto
  simp only [State.homeAnswer, hd, hphase, hstop, hrejected, Bool.not_not]
  cases started <;> rfl

/-- The descriptor of a home operation takes the outcome that its home answers; one that was refused there has not started. -/
theorem State.homeAnswer_ends (hphase : d.phase = .running) (hstarted : started = false ↔ d.refusedBy f.status n) :
    ∃ t, (s.homeAnswer k f n).reapInvals = t ∧ t.outReqs = s.outReqs ∧ s.OtherDescs t k ∧
      t.desc k = some ((d.begun started).endedWith f.status f.kind f.detail n) := by
  obtain ⟨hdescs, -, hreqs⟩ := State.endDesc_only (s.markBegun k started) k f.status f.kind f.detail n
  have hbegun : (s.markBegun k started).desc k = some (d.begun started) := State.desc_upd_same (g := fun x => x.begun started) rfl (fun _ => rfl) hd
  have hother : s.OtherDescs (s.markBegun k started) k := State.desc_upd_other (g := fun x => x.begun started) rfl fun _ => rfl
  have hidle : ((s.markBegun k started).endDesc k f.status f.kind f.detail n).noAborts :=
    (hcalm.upd (t := s.markBegun k started) (g := fun x => x.begun started) rfl rfl fun _ => rfl).upd (State.endDesc_invals ..) hdescs fun _ => rfl
  refine ⟨_, rfl, ?_⟩
  rw [State.homeAnswer_running hd hcalm hphase hstarted, State.reapInvals_idle hidle]
  exact ⟨hreqs, hother.trans (State.desc_upd_other hdescs fun _ => rfl),
    State.desc_upd_same (g := fun x => x.endedWith f.status f.kind f.detail n) hdescs (fun _ => rfl) hbegun⟩

end HomeAnswer

/-! ### A request that is sent again (R365, R425) -/

/-- The request is marked as rejected for its epoch. -/
def OutReq.rejected (o : OutReq) : OutReq := { o with stale := true }

/-- The packet of a request that is sent again: with an epoch, and as one that has not travelled yet. -/
def OutReq.again (o : OutReq) (epoch : Nat) : QPkt := { o.pkt with epoch := epoch, hops := 0, dl := 0 }

/-- A list of requests in which `o` is changed. -/
def changeReq (l : List OutReq) (o : OutReq) (g : OutReq → OutReq) : List OutReq := l.map (fun x => if x = o then g x else x)

/-- The state in which `o` is rejected and not sent again yet. -/
def State.rejects (s : State) (o : OutReq) : State := { s with outReqs := changeReq s.outReqs o OutReq.rejected }

/-- A rejected request is sent again if it may be. -/
def State.tryResend (s : State) (o : OutReq) : State :=
  if s.mayResend o then
    { s with outReqs := changeReq s.outReqs o (fun x => { x with pkt := o.again s.epoch, sends := x.sends + 1, stale := false }) }.sendQf (o.again s.epoch)
  else s

theorem State.pumpStale_eq (s : State) : s.pumpStale = forL (s.outReqs.filter (·.stale)) s (fun o t => t.tryResend o) := rfl

theorem State.tryResend_waits {s : State} {o : OutReq} (h : s.mayResend o = false) : s.tryResend o = s := by
  rw [State.tryResend, h, if_neg Bool.false_ne_true]

theorem State.tryResend_only (s : State) (o : OutReq) : (s.tryResend o).descs = s.descs ∧ (s.mayResend o = true → (s.tryResend o).outReqs =
    changeReq s.outReqs o (fun x => { x with pkt := o.again s.epoch, sends := x.sends + 1, stale := false })) := by
  unfold State.tryResend
  split
  · exact ⟨descs_eventBlind.sendQf .., fun _ => outReqs_eventBlind.sendQf ..⟩
  · exact ⟨rfl, fun h => absurd h ‹_›⟩

/-- An earlier request of the thread to the same home is unanswered under another epoch. -/
def State.behindOf (s : State) (o : OutReq) : Prop :=
  ∃ x ∈ s.outReqs.takeWhile (fun x => x != o), x.sameThread o = true ∧ x.pkt.dest = o.pkt.dest ∧ x.pkt.epoch ≠ s.epoch

/-- The requests before `o` are those before its mark. -/
theorem takeWhile_rejected {l : List OutReq} (hl : ∀ x ∈ l, x.stale = false) (o : OutReq) :
    (changeReq l o OutReq.rejected).takeWhile (fun x => x != o.rejected) = l.takeWhile (fun x => x != o) := by
  induction l with
  | nil => rfl
  | cons x xs ih =>
    have hx : x ≠ o.rejected := fun h => by simpa [h, OutReq.rejected] using hl x List.mem_cons_self
    have hxs := ih fun y hy => hl y (List.mem_cons_of_mem _ hy)
    by_cases ho : x = o
    · simp [changeReq, ho]
    · simpa [changeReq, ho, hx] using hxs

theorem changeReq_absent {l : List OutReq} {o : OutReq} (h : o ∉ l) (g : OutReq → OutReq) : changeReq l o g = l := by
  have hid : ∀ x ∈ l, (if x = o then g x else x) = id x := fun x hx => if_neg (ne_of_mem_of_not_mem hx h)
  rw [changeReq, List.map_congr_left hid, List.map_id]

theorem State.resend_rejects {s : State} {o : OutReq} (h : s.refuseTo o.pkt.dest 0 = none) : s.resend o = (s.rejects o).pumpStale := by
  rw [State.resend, h]
  rfl

section Resend
variable {s : State} {o : OutReq} (hsent : s.allSent)
include hsent

/-- Only the mark itself is a request that was rejected. -/
theorem State.allSent.mark_of_stale {x : OutReq} (hx : x ∈ (s.rejects o).outReqs) (hstale : x.stale = true) : x = o.rejected := by
  obtain ⟨y, hy, rfl⟩ := List.mem_map.mp hx
  by_cases h : y = o
  · rw [if_pos h, h]
  · rw [if_neg h, (hsent y hy).2] at hstale
    exact absurd hstale Bool.false_ne_true

/-- A request is sent again in its turn: with the current epoch, and its mark taken away. -/
theorem State.rejects_sendsAgain : changeReq (s.rejects o).outReqs o.rejected
      (fun x => { x with pkt := o.again s.epoch, sends := x.sends + 1, stale := false }) =
    changeReq s.outReqs o (fun x => { x with pkt := o.again s.epoch, sends := x.sends + 1 }) := by
  simp only [changeReq, State.rejects, List.map_map]
  refine List.map_congr_left fun x hx => ?_
  have hfresh := (hsent x hx).2
  by_cases ho : x = o
  · subst ho
    simp [OutReq.rejected, hfresh]
  · have hno : x ≠ o.rejected := fun h => by simp [h, OutReq.rejected] at hfresh
    simp [ho, hno]

variable (hrefuse : s.refuseTo o.pkt.dest 0 = none)
include hrefuse

theorem State.mayResend_rejects : (s.rejects o).mayResend o.rejected = true ↔ ¬ s.behindOf o := by
  have hclear : (s.rejects o).refuseTo o.rejected.pkt.dest 0 = none := hrefuse
  have hbefore : (s.rejects o).outReqs.takeWhile (fun x => x != o.rejected) = s.outReqs.takeWhile (fun x => x != o) :=
    takeWhile_rejected (fun x hx => (hsent x hx).2) o
  have hstale : o.rejected.stale = true := rfl
  rw [State.mayResend, hclear, hbefore, hstale, Option.isNone_none, Bool.true_and, Bool.true_and, Bool.not_eq_true', ← Bool.not_eq_true, List.any_eq_true,
    State.behindOf]
  refine not_congr (exists_congr fun x => and_congr_right fun hx => ?_)
  obtain ⟨hsends, hfresh⟩ := hsent x ((List.takeWhile_prefix _).subset hx)
  have hthread : x.sameThread o.rejected = x.sameThread o := rfl
  have hdest : o.rejected.pkt.dest = o.pkt.dest := rfl
  have hepoch : (s.rejects o).epoch = s.epoch := rfl
  simp [hthread, hdest, hepoch, hsends, hfresh, and_assoc]

/-- One that stands behind another keeps its mark and waits. -/
theorem State.resend_behind (h : s.behindOf o) : s.resend o = s.rejects o := by
  have hwaits : (s.rejects o).mayResend o.rejected = false :=
    Bool.eq_false_iff.mpr fun hc => (State.mayResend_rejects hsent hrefuse).mp hc h
  rw [State.resend_rejects hrefuse, State.pumpStale_eq]
  refine forL_induct (P := fun t => t = s.rejects o) _ _ rfl fun x hx t ht => ?_
  obtain ⟨hmem, hstale⟩ := List.mem_filter.mp hx
  rw [ht, hsent.mark_of_stale hmem hstale, State.tryResend_waits hwaits]

/-- Any other goes at once, with the current epoch. -/
theorem State.resend_first (h : ¬ s.behindOf o) (hmem : o ∈ s.outReqs) :
    (s.resend o).outReqs = changeReq s.outReqs o (fun x => { x with pkt := o.again s.epoch, sends := x.sends + 1 }) ∧ (s.resend o).descs = s.descs := by
  set l := changeReq s.outReqs o (fun x => { x with pkt := o.again s.epoch, sends := x.sends + 1 }) with hl
  have hgoes := (State.mayResend_rejects hsent hrefuse).mpr h
  have hgone : o.rejected ∉ l := fun hc => by
    obtain ⟨x, hx, he⟩ := List.mem_map.mp hc
    have hstale : (if x = o then ({ x with pkt := o.again s.epoch, sends := x.sends + 1 } : OutReq) else x).stale = false := by
      split <;> exact (hsent x hx).2
    rw [he] at hstale
    exact Bool.noConfusion hstale
  have hmark : o.rejected ∈ (s.rejects o).outReqs.filter (·.stale) := List.mem_filter.mpr ⟨List.mem_map.mpr ⟨o, hmem, if_pos rfl⟩, rfl⟩
  have hall : ∀ x ∈ (s.rejects o).outReqs.filter (·.stale), x = o.rejected := fun x hx => by
    obtain ⟨hmem, hstale⟩ := List.mem_filter.mp hx
    exact hsent.mark_of_stale hmem hstale
  rw [State.resend_rejects hrefuse, State.pumpStale_eq]
  generalize (s.rejects o).outReqs.filter (·.stale) = marks at hmark hall
  obtain ⟨x, xs, rfl⟩ := List.exists_cons_of_ne_nil (List.ne_nil_of_mem hmark)
  obtain rfl := hall x List.mem_cons_self
  refine forL_induct (P := fun t => t.outReqs = l ∧ t.descs = s.descs) xs _ ?_ fun x hx t ht => ?_
  · obtain ⟨hdescs, hreqs⟩ := State.tryResend_only (s.rejects o) o.rejected
    exact ⟨(hreqs hgoes).trans (State.rejects_sendsAgain hsent), hdescs⟩
  · obtain ⟨hreqs, hdescs⟩ := ht
    rw [hall x (List.mem_cons_of_mem _ hx)]
    obtain ⟨hkeep, hsend⟩ := State.tryResend_only t o.rejected
    refine ⟨?_, hkeep.trans hdescs⟩
    by_cases hagain : t.mayResend o.rejected = true
    · rw [hsend hagain, changeReq_absent (hreqs ▸ hgone), hreqs]
    · rw [State.tryResend_waits (Bool.eq_false_iff.mpr hagain), hreqs]

end Resend

/-! ### The commands (R409 to R411, R429) -/

/-- The answer `p` has come and request `o` has left. -/
def State.without (s : State) (p : QPkt) (o : OutReq) : State := { s.takeRx (.qf p) with outReqs := s.outReqs.erase o }

theorem State.without_only (s : State) (p : QPkt) (o : OutReq) :
    ∃ rx links, s.without p o = { s with rx := rx, links := links, outReqs := s.outReqs.erase o } := by
  obtain ⟨rx, links, h⟩ := s.takeRx_only (.qf p)
  exact ⟨rx, links, by rw [State.without, h]⟩

/-- A response without a request is counted and does nothing else. -/
theorem exec_response_late {s : State} {p : QPkt} {c : Instr} (halive : s.alive = true) (hdest : p.dest = s.me)
    (hnone : (s.takeRx (.qf p)).outReq p.tag p.src = none)
    (hc : c = .readRsp p ∧ p.typ = 0x02 ∨ c = .writeAck p ∧ p.typ = 0x04 ∨ c = .atomicRsp p ∧ p.typ = 0x06 ∨ c = .homeRsp p ∧ p.typ = 0x0A ∨
      c = .errResponse p ∧ p.typ = 0x0F) : exec c s = .next ((s.takeRx (.qf p)).incSat f_QF_ERR_LATE_RSP) := by
  have hlate (fits : OutReq → Bool) (give : State → OutReq → State) :
      s.response p fits give = (s.takeRx (.qf p)).incSat f_QF_ERR_LATE_RSP := by
    simp [State.response, hdest, hnone]
  rcases hc with ⟨rfl, htyp⟩ | ⟨rfl, htyp⟩ | ⟨rfl, htyp⟩ | ⟨rfl, htyp⟩ | ⟨rfl, htyp⟩
  · change execReadRsp p s = _
    rw [execReadRsp, State.whenAlive_alive halive, if_pos htyp, hlate]
  · change execWriteAck p s = _
    rw [execWriteAck, State.whenAlive_alive halive, if_pos htyp, hlate]
  · change execAtomicRsp p s = _
    rw [execAtomicRsp, State.whenAlive_alive halive, if_pos htyp, hlate]
  · change execHomeRsp p s = _
    rw [execHomeRsp, State.whenAlive_alive halive, if_pos htyp, hlate]
  · change execErrResponse p s = _
    simp [execErrResponse, State.whenAlive_alive halive, htyp, hdest, hnone]

section Response
variable {s : State} {p : QPkt} {o : OutReq} (hscr : s.fld f_SCR_CTL_ENABLE = 0) (hsent : s.allSent) (hdest : p.dest = s.me)
  (hreq : (s.takeRx (.qf p)).outReq p.tag p.src = some o)
include hscr hsent

/-- The request leaves, and no sample is taken of its answer. -/
theorem State.dropReq_answered (status : Nat) : ((s.takeRx (.qf p)).dropReq o).answerSample o status = s.without p o := by
  obtain ⟨rx, links, h⟩ := s.takeRx_only (.qf p)
  have hdrop : (s.takeRx (.qf p)).dropReq o = s.without p o := by
    rw [State.without, h]
    exact State.dropReq_sent (s := { s with rx := rx, links := links }) hsent o
  rw [hdrop, State.answerSample]
  refine State.scriv_off ?_ ..
  rw [State.without, h]
  exact hscr

include hdest hreq

/-- A response that fits its request is given to the one who asked. -/
theorem State.response_fits (hrsvd : p.rsvd = 0) {fits : OutReq → Bool} (hfits : fits o = true) (give : State → OutReq → State) :
    s.response p fits give = give (s.without p o) o := by
  simp [State.response, hdest, hreq, hrsvd, hfits, State.dropReq_answered hscr hsent]

end Response

section Answers
variable {s : State} {p : QPkt} {o : OutReq} {k : DKey} {unit : Nat} (halive : s.alive = true) (hscr : s.fld f_SCR_CTL_ENABLE = 0)
  (hcalm : s.noAborts) (hsent : s.allSent) (hwho : o.who = .desc k unit) (hdest : p.dest = s.me) (hrsvd : p.rsvd = 0)
  (hreq : (s.takeRx (.qf p)).outReq p.tag p.src = some o)

include hcalm in
theorem State.noAborts.without : (s.without p o).noAborts := by
  obtain ⟨rx, links, h⟩ := s.without_only p o
  rw [h]
  exact hcalm

include halive hscr hcalm hsent hwho hdest hrsvd hreq

/-- A read's bytes reach the descriptor that asked. -/
theorem exec_readRsp_gives (htyp : p.typ = 0x02) (htc : p.tc = 3) (haux : p.aux = 0) (hbulk : o.pkt.typ = 0x01 ∨ o.pkt.typ = 0x07)
    (hlen : p.payload.length = o.pkt.aux) : exec (.readRsp p) s = .next ((s.without p o).give k (o.got p.payload p.poison okFail)) := by
  have hfits : (p.tc == 3 && p.aux == 0 && (o.pkt.typ == 0x01 || o.pkt.typ == 0x07) && p.payload.length == o.pkt.aux) = true := by
    simp [htc, haux, hbulk, hlen]
  change execReadRsp p s = _
  rw [execReadRsp, State.whenAlive_alive halive, if_pos htyp, State.response_fits hscr hsent hdest hreq hrsvd hfits,
    State.deliver_bytes hwho hcalm.without hbulk]

theorem exec_writeAck_done (htyp : p.typ = 0x04) (htc : p.tc = 3) (haux : p.aux = 0) (hwrite : o.pkt.typ = 0x03 ∨ o.pkt.typ = 0x08)
    (hlen : p.payload = []) : exec (.writeAck p) s = .next (s.without p o) := by
  have hfits : (p.tc == 3 && p.aux == 0 && (o.pkt.typ == 0x03 || o.pkt.typ == 0x08) && p.payload.isEmpty) = true := by
    simp [htc, haux, hwrite, hlen]
  have hmem : o.pkt.typ ∈ [0x03, 0x05, 0x08] := by
    rcases hwrite with h | h <;> simp [h]
  change execWriteAck p s = _
  rw [execWriteAck, State.whenAlive_alive halive, if_pos htyp, State.response_fits hscr hsent hdest hreq hrsvd hfits,
    State.deliver_done hwho hcalm.without hmem]

theorem exec_atomicRsp_done (htyp : p.typ = 0x06) (htc : p.tc = 3) (haux : p.aux = 0) (hatomic : o.pkt.typ = 0x05)
    (hlen : some p.payload.length = tallyWidth (bits o.pkt.aux 0 4) (bits o.pkt.aux 4 4)) : exec (.atomicRsp p) s = .next (s.without p o) := by
  have hfits : (p.tc == 3 && p.aux == 0 && o.pkt.typ == 0x05 &&
      some p.payload.length == tallyWidth (bits o.pkt.aux 0 4) (bits o.pkt.aux 4 4)) = true := by
    simp [htc, haux, hatomic, hlen]
  change execAtomicRsp p s = _
  rw [execAtomicRsp, State.whenAlive_alive halive, if_pos htyp, State.response_fits hscr hsent hdest hreq hrsvd hfits,
    State.deliver_done hwho hcalm.without (by simp [hatomic])]

/-- A home operation ends with what its home says. -/
theorem exec_homeRsp_ends {d : Desc} (hd : s.desc k = some d) (htyp : p.typ = 0x0A) (htc : p.tc = 3) (haux : p.aux < 256) (hhome : o.pkt.typ = 0x09)
    (hlen : p.payload.length = 16) (hzeros : zeros p.payload 13 3 = true) (hphase : d.phase = .running) {started : Bool}
    (hstarted : started = false ↔ d.refusedBy p.aux (leAt p.payload 0 4)) :
    ∃ t, exec (.homeRsp p) s = .next t ∧ t.outReqs = s.outReqs.erase o ∧ s.OtherDescs t k ∧
      t.desc k = some ((d.begun started).endedWith p.aux (leAt p.payload 12 1) (leAt p.payload 4 8) (leAt p.payload 0 4)) := by
  have hfits : (p.tc == 3 && decide (p.aux < 256) && o.pkt.typ == 0x09 && p.payload.length == 16 && zeros p.payload 13 3) = true := by
    simp [htc, haux, hhome, hlen, hzeros]
  obtain ⟨rx, links, hu⟩ := s.without_only p o
  have hdu : (s.without p o).desc k = some d := by rw [hu]; exact hd
  obtain ⟨t, ht, hreqs, hother, hk⟩ := State.homeAnswer_ends hdu hcalm.without (f := ⟨p.aux, leAt p.payload 12 1, leAt p.payload 4 8⟩) hphase hstarted
  refine ⟨t, ?_, by rw [hreqs, hu], fun j hj => (hother j hj).trans (by rw [hu]; rfl), hk⟩
  change execHomeRsp p s = _
  rw [execHomeRsp, State.whenAlive_alive halive, if_pos htyp, State.response_fits hscr hsent hdest hreq hrsvd hfits]
  simp only [hwho, Nat.mod_eq_of_lt haux, ht]

/-- The status that ended a read reaches the descriptor that asked. -/
theorem exec_errResponse_gives {f : Fail} (hf : f = ⟨bits p.aux 0 8, bits p.aux 8 4, leNat p.payload⟩) (htyp : p.typ = 0x0F) (hlen : p.payload.length = 8)
    (haux : p.aux < 4096) (htc : p.tc = rspClass o.pkt.typ) (hbulk : o.pkt.typ = 0x01 ∨ o.pkt.typ = 0x07) (hstale : f.status ≠ eStaleEpoch)
    (hfenced : f.status ≠ eFenced) : exec (.errResponse p) s = .next ((s.without p o).give k (o.got [] false f)) := by
  have hform : ¬ (p.rsvd ≠ 0 ∨ p.payload.length ≠ 8 ∨ p.tc ≠ rspClass o.pkt.typ ∨ 4096 ≤ p.aux) := by
    simp [hrsvd, hlen, htc, haux]
  have hno : ¬ (f.status = eStaleEpoch ∧ o.sends < 5) := fun h => hstale h.1
  change execErrResponse p s = _
  subst hf
  simp only [execErrResponse, State.whenAlive_alive halive, htyp, hdest, hreq, hform, hno, hfenced, if_false, State.dropReq_answered hscr hsent,
    State.deliver_status hwho hcalm.without hbulk, ne_eq, not_true_eq_false, or_self]

omit hscr hcalm hsent hwho in
/-- A request rejected for its epoch is sent again. -/
theorem exec_errResponse_resends (hstale : bits p.aux 0 8 = eStaleEpoch) (htyp : p.typ = 0x0F) (hlen : p.payload.length = 8)
    (haux : p.aux < 4096) (htc : p.tc = rspClass o.pkt.typ) (hsends : o.sends < 5) :
    exec (.errResponse p) s = .next ((s.takeRx (.qf p)).resend o) := by
  have hform : ¬ (p.rsvd ≠ 0 ∨ p.payload.length ≠ 8 ∨ p.tc ≠ rspClass o.pkt.typ ∨ 4096 ≤ p.aux) := by
    simp [hrsvd, hlen, htc, haux]
  change execErrResponse p s = _
  simp only [execErrResponse, State.whenAlive_alive halive, htyp, hdest, hreq, hform, hstale, hsends, and_self, if_true, if_false, ne_eq,
    not_true_eq_false, or_self]

end Answers

/-! ### The timer (R429, R432) -/

theorem State.sendMap_only (s : State) (dest : Nat) (m : MapMsg) (tag : Nat) :
    s.sendMap dest m tag = { s with queue := (s.sendMap dest m tag).queue } := by
  unfold State.sendMap
  split
  · rfl
  · split <;> rfl

/-- A report waits at the leader, or is on its way there. -/
theorem State.tellLeader_only (s : State) (r : Report) : ∃ keeper queue, s.tellLeader r = { s with keeper := keeper, queue := queue } := by
  unfold State.tellLeader
  split
  · exact ⟨_, s.queue, rfl⟩
  · split
    · exact ⟨s.keeper, _, State.sendMap_only ..⟩
    · exact ⟨s.keeper, s.queue, rfl⟩

/-- An expired timer of a request is counted and raises an event, which a job that aborts on it tells the leader (R432). -/
def State.expired (s : State) (o : OutReq) : State :=
  let s1 := ({ s with outReqs := s.outReqs.erase o }.incSat f_QF_CNT_EXPIRIES).raise
    { cause := 0x0E, status := eDeadTarget, source := 0, slice := o.pkt.slice, addr := some o.pkt.addr, detail := o.pkt.dest }
  if s.mapCur.any (fun m => (m.job (s.jobNum o.pkt.slice)).any (fun j => j.mode == 1)) then s1.tellLeader (.expiry (s.jobNum o.pkt.slice)) else s1

theorem State.expired_leaves (s : State) (o : OutReq) : (s.expired o).outReqs = s.outReqs.erase o ∧ (s.expired o).descs = s.descs ∧
    (s.expired o).invals = s.invals ∧ (s.expired o).fld f_QF_CNT_EXPIRIES = min (s.fld f_QF_CNT_EXPIRIES + 1) (2 ^ f_QF_CNT_EXPIRIES.width - 1) := by
  unfold State.expired
  extract_lets s1
  set u := { s with outReqs := s.outReqs.erase o }.incSat f_QF_CNT_EXPIRIES with hu
  have hcount : s1.fld f_QF_CNT_EXPIRIES = min (s.fld f_QF_CNT_EXPIRIES + 1) (2 ^ f_QF_CNT_EXPIRIES.width - 1) :=
    (congrArg f_QF_CNT_EXPIRIES.get (State.raise_word u _ (by decide) (by decide))).trans (State.incSat_onlyWords _ f_QF_CNT_EXPIRIES (by decide)).2
  have h1 : s1.outReqs = s.outReqs.erase o ∧ s1.descs = s.descs ∧ s1.invals = s.invals :=
    ⟨outReqs_eventBlind.raise .., descs_eventBlind.raise .., invals_eventBlind.raise ..⟩
  obtain ⟨hreqs, hdescs, hinvals⟩ := h1
  split
  · obtain ⟨keeper, queue, ht⟩ := s1.tellLeader_only (.expiry (s.jobNum o.pkt.slice))
    rw [ht]
    exact ⟨hreqs, hdescs, hinvals, hcount⟩
  · exact ⟨hreqs, hdescs, hinvals, hcount⟩

/-- A read whose timer expires ends with `E_DEAD_TARGET`. -/
theorem exec_requestTimerExpiry_gives {s : State} {o : OutReq} {k : DKey} {unit : Nat} (halive : s.alive = true) (hcalm : s.noAborts) (hsent : s.allSent)
    (hwho : o.who = .desc k unit) (hbulk : o.pkt.typ = 0x01 ∨ o.pkt.typ = 0x07) (hfind : s.outReqs.find? (fun x => x.pkt.tag == o.pkt.tag) = some o) :
    exec (.requestTimerExpiry o.pkt.tag) s = .next ((s.expired o).give k (o.got [] false (deadFail o.pkt.dest 0))) := by
  have hfound : s.outReqs.find? (fun x => x.pkt.tag == o.pkt.tag && x.sends != 0) = some o := by
    rw [← hfind]
    exact List.find?_congr fun x hx => by simp [(hsent x hx).1]
  obtain ⟨-, hdescs, hinvals, -⟩ := s.expired_leaves o
  have hbody : exec (.requestTimerExpiry o.pkt.tag) s = .next ((s.expired o).deliver o (.error (deadFail o.pkt.dest 0))) := by
    change execRequestTimerExpiry o.pkt.tag s = _
    rw [execRequestTimerExpiry, State.whenAlive_alive halive, hfound]
    dsimp only
    rw [State.dropReq_sent hsent]
    rfl
  rw [hbody, State.deliver_status hwho (hcalm.congr hinvals hdescs) hbulk]

/-! ### The statement -/

theorem State.give_answers {s t : State} {k : DKey} {d : Desc} (hd : s.desc k = some d) (hdescs : t.descs = s.descs) (g : Fetched) :
    s.OtherDescs (t.give k g) k ∧ (t.give k g).desc k = some { d with fetched := d.fetched ++ [g] } := by
  obtain ⟨hk, hother⟩ := State.give_desc ((State.desc_congr hdescs k).trans hd) g
  exact ⟨(State.otherDescs_of_eq hdescs k).trans hother, hk⟩

/-- Settles O43: a response that fits its request takes it out and is given to the descriptor that asked; a rejected request is marked, and goes again
unless an earlier one of its thread stands before it. -/
theorem fabricAnswers : Obligations.FabricAnswers := by
  unfold Obligations.FabricAnswers
  intro s p o k unit d halive hscr hcalm hsent s1 got left bulk
  obtain ⟨rx, links, hu⟩ := s.without_only p o
  have hwithout : (s.without p o).outReqs = s.outReqs.erase o ∧ (s.without p o).descs = s.descs ∧ (s.without p o).mem = s.mem := by
    rw [hu]
    exact ⟨rfl, rfl, rfl⟩
  obtain ⟨hreqs, hdescs, hmem⟩ := hwithout
  refine ⟨fun c hdest hnone hc => exec_response_late halive hdest hnone hc, fun hd hwho => ⟨fun hdest hrsvd hreq => ⟨?_, ?_, ?_, ?_, ?_⟩, ?_⟩⟩
  · intro htyp htc haux hbulk hlen
    obtain ⟨hother, hk⟩ := State.give_answers hd hdescs (got p.payload p.poison okFail)
    exact ⟨_, exec_readRsp_gives halive hscr hcalm hsent hwho hdest hrsvd hreq htyp htc haux hbulk hlen, hreqs, hother, hmem, hk⟩
  · intro htyp htc haux hwrite hlen
    exact ⟨_, exec_writeAck_done halive hscr hcalm hsent hwho hdest hrsvd hreq htyp htc haux hwrite hlen, hreqs, hdescs, hmem⟩
  · intro htyp htc haux hatomic hlen
    exact ⟨_, exec_atomicRsp_done halive hscr hcalm hsent hwho hdest hrsvd hreq htyp htc haux hatomic hlen, hreqs, hdescs, hmem⟩
  · intro htyp htc haux hhome hlen hzeros hphase st n rejected
    have hends (started : Bool) (hstarted : started = false ↔ d.refusedBy p.aux (leAt p.payload 0 4)) :=
      exec_homeRsp_ends halive hscr hcalm hsent hwho hdest hrsvd hreq hd htyp htc haux hhome hlen hzeros hphase hstarted
    exact ⟨fun h => hends false (iff_of_true rfl h), fun h => hends true ⟨fun hc => Bool.noConfusion hc, fun hr => absurd hr h⟩⟩
  · intro htyp hlen haux htc behind f
    obtain ⟨rx1, links1, h1⟩ := s.takeRx_only (.qf p)
    have hsent1 : (s.takeRx (.qf p)).allSent := by rw [h1]; exact hsent
    have hbehind1 : (s.takeRx (.qf p)).behindOf o ↔ behind := by rw [h1]; exact Iff.rfl
    refine ⟨fun hbulk hstale hfenced => ?_, fun hstale hsends hrefuse hbehind => ?_, fun hstale hsends hrefuse hfirst => ?_⟩
    · obtain ⟨hother, hk⟩ := State.give_answers hd hdescs (got [] false f)
      exact ⟨_, exec_errResponse_gives halive hscr hcalm hsent hwho hdest hrsvd hreq rfl htyp hlen haux htc hbulk hstale hfenced, hreqs, hother, hmem, hk⟩
    · refine ⟨_, exec_errResponse_resends halive hdest hrsvd hreq hstale htyp hlen haux htc hsends, ?_⟩
      rw [State.resend_behind hsent1 hrefuse (hbehind1.mpr hbehind), h1]
      exact ⟨rfl, rfl, rfl⟩
    · refine ⟨_, exec_errResponse_resends halive hdest hrsvd hreq hstale htyp hlen haux htc hsends, ?_⟩
      have hmem1 : o ∈ (s.takeRx (.qf p)).outReqs := List.mem_of_find?_eq_some hreq
      obtain ⟨hagain, hkeep⟩ := State.resend_first hsent1 hrefuse (fun h => hfirst (hbehind1.mp h)) hmem1
      rw [hagain, hkeep, h1]
      exact ⟨rfl, rfl⟩
  · intro hbulk hfind
    obtain ⟨hreqs, hdescs, -, hcount⟩ := s.expired_leaves o
    obtain ⟨hother, hk⟩ := State.give_answers hd hdescs (got [] false (deadFail o.pkt.dest 0))
    exact ⟨_, exec_requestTimerExpiry_gives halive hcalm hsent hwho hbulk hfind, hreqs, hother, hk, hcount⟩

end Sys2Proof.Machine

/-! Alarms, forwarded records, dumps and the store's audit (R348, R391, R488 to R490, R527 to R531, R549, R554, R592 to R594). -/

namespace Sys2Proof.Machine

/-! ### Register words that are written -/

theorem State.RegsKept.refl (s : State) (offs : List Nat) : s.RegsKept s offs := fun _ _ => rfl

theorem State.RegsKept.setWord {s t : State} {offs : List Nat} (h : s.RegsKept t offs) {off : Nat} (hoff : off ∈ offs) (w : Word) :
    s.RegsKept (t.setWord off w) offs :=
  fun o ho => (State.word_setWord_ne _ _ _ _ (ne_of_mem_of_not_mem hoff ho).symm).trans (h o ho)

theorem State.incSat_fld (s : State) (f : Fld) (hf : f.lo + f.width ≤ 64) : (s.incSat f).fld f = min (s.fld f + 1) (2 ^ f.width - 1) :=
  (State.incSat_onlyWords s f hf).2

/-- A count of another register, or at other bits of the same one, is not touched by a count. -/
theorem State.incSat_fld_ne (s : State) (f g : Fld) (hf : f.lo + f.width ≤ 64)
    (hd : g.addr 0 ≠ f.addr 0 ∨ g.lo + g.width ≤ f.lo ∨ f.lo + f.width ≤ g.lo) : (s.incSat f).fld g = s.fld g :=
  State.fldAt_setFldAt_ne s f g 0 0 _ hf hd

/-- Counts of the store's audit and carving read the same after an event. -/
theorem State.raise_fld (s : State) (e : Event) {f : Fld} (ho : f.addr 0 < 0xD0800) (hport : f.addr 0 < 0xB0040 ∨ 0xB0060 ≤ f.addr 0) :
    (s.raise e).fld f = s.fld f :=
  congrArg f.get (State.raise_word s e ho hport)

/-! ### Records of a unit (R348, R391) -/

theorem cellsRead_cellsWrite {m : Cells} {a : Nat} {bs : List Byte} (h : Memory.wf (cellsWrite m a bs) = true) :
    cellsRead (cellsWrite m a bs) a bs.length = bs := by
  rw [cellsRead_eq_cellByte h]
  refine List.ext_getElem (by simp) fun i h1 h2 => ?_
  simp [cellByte_cellsWrite, h2]

/-- A record is written at once, or waits at its bank; the registers have no say in it. -/
theorem State.recordWrite_recorded {s u t : State} {a : Nat} {bs : List Byte} (hkept : s.Kept) (hu : s.OnlyRegs u)
    (hmem : t.mem = (u.recordWrite a bs).mem) (hbank : t.bankQ = (u.recordWrite a bs).bankQ) : s.recorded t a bs := by
  have hwaits : u.recordWaits a bs.length = s.recordWaits a bs.length := by rw [hu]; rfl
  have humem : u.mem = s.mem := hu.mem
  have hubank : u.bankQ = s.bankQ := by rw [hu]
  refine ⟨fun h => ?_, fun h => ?_⟩ <;> rw [State.recordWrite, hwaits, h] at hmem hbank
  · rw [if_neg Bool.false_ne_true] at hmem hbank
    refine ⟨?_, hbank.trans hubank⟩
    rw [hmem, State.memWrite, humem]
    exact cellsRead_cellsWrite (State.memWrite_kept s a bs hkept).wf
  · rw [if_pos rfl] at hmem hbank
    exact ⟨hmem.trans humem, _, hbank.trans (by rw [hubank]), rfl, rfl⟩

/-! ### Alarms to the leader (R530, R531) -/

theorem State.sendQf_out {s : State} {p : QPkt} {o : Nat} {sd : Bool} (hopen : s.fenced = false) (hroute : s.outPort p.epoch p.dest p.dl = some (o, sd)) :
    s.sendQf p = s.enqueue (4 + o) (.qf { p with hops := p.hops + 1, dl := if sd then 1 else p.dl }) := by
  simp only [State.sendQf, hopen, Bool.false_and, Bool.false_eq_true, if_false, hroute]

/-- The packet that tells the leader of an entry, as it leaves. -/
def State.alarmPkt (s : State) (e l : Nat) (sd : Bool) : QPkt := { s.mkQ l 0x32 6 (s.alarmPayload e) with hops := 1, dl := if sd then 1 else 0 }

/-- The entry has been told: nothing of its count is unsent. -/
def State.alarmSaid (s : State) (e count : Nat) : State := (s.setFldAt f_FLA_1_SENT e count).setFldAt f_FLA_0_PENDING e 0

/-- The leader has been told of an entry through output `o`. -/
def State.alarmTold (s : State) (e l o : Nat) (sd : Bool) : State :=
  { (s.enqueue (4 + o) (.qf (s.alarmPkt e l sd))).alarmSaid e (s.fldAt f_FLA_1_COUNT e) with
    alarmSent := s.alarmSent.filter (fun x => x.1 != e && decide (s.now < x.2 + 60000 * perMs)) ++ [(e, s.now)] }

theorem State.alarmSaid_words (s : State) (e count : Nat) :
    (s.alarmSaid e count).fldAt f_FLA_0_PENDING e = 0 ∧ (s.alarmSaid e count).fldAt f_FLA_1_SENT e = count % 2 ^ 32 ∧
      s.RegsKept (s.alarmSaid e count) [0x140000 + 0x20 * e, 0x140000 + 0x20 * e + 8] := by
  have hother : f_FLA_1_SENT.addr e ≠ f_FLA_0_PENDING.addr e := by
    simp only [Fld.addr, f_FLA_1_SENT, f_FLA_0_PENDING]
    omega
  have hsent : f_FLA_1_SENT.addr e ∈ [0x140000 + 0x20 * e, 0x140000 + 0x20 * e + 8] := by
    simp only [Fld.addr, f_FLA_1_SENT, List.mem_cons, List.not_mem_nil, or_false]
    omega
  have hpending : f_FLA_0_PENDING.addr e ∈ [0x140000 + 0x20 * e, 0x140000 + 0x20 * e + 8] := by
    simp only [Fld.addr, f_FLA_0_PENDING, List.mem_cons, true_or]
  refine ⟨State.fldAt_setFldAt _ f_FLA_0_PENDING e 0 (by decide), ?_, ((State.RegsKept.refl s _).setWord hsent _).setWord hpending _⟩
  exact (State.fldAt_setFldAt_ne _ _ _ _ _ _ (by decide) (.inl hother)).trans (State.fldAt_setFldAt _ f_FLA_1_SENT e count (by decide))

theorem State.alarmTold_regs (s : State) (e l o : Nat) (sd : Bool) : (s.alarmTold e l o sd).regs = (s.alarmSaid e (s.fldAt f_FLA_1_COUNT e)).regs := rfl

theorem State.alarmTold_leaves (s : State) (e l o : Nat) (sd : Bool) :
    (s.alarmTold e l o sd).queue = s.queue ++ [⟨12, 4 + o, .qf (s.alarmPkt e l sd), none⟩] ∧ (e, s.now) ∈ (s.alarmTold e l o sd).alarmSent :=
  ⟨rfl, List.mem_append_right _ (List.mem_singleton_self _)⟩

theorem exec_alarmSend_due {s : State} {e l o : Nat} {sd : Bool} (halive : s.alive = true) (hopen : s.fenced = false) (he : e < 4096)
    (hvalid : s.fldAt f_FLA_0_VALID e = 1) (hpending : s.fldAt f_FLA_0_PENDING e = 1) (hdue : s.alarmDue e = true) (hleader : s.otherLeader = some l)
    (hroute : s.outPort s.epoch l 0 = some (o, sd)) : exec (.alarmSend e) s = .next (s.alarmTold e l o sd) := by
  have hsend : s.sendQf (s.mkQ l 0x32 6 (s.alarmPayload e)) = s.enqueue (4 + o) (.qf (s.alarmPkt e l sd)) := State.sendQf_out hopen hroute
  change execAlarmSend e s = _
  rw [execAlarmSend, State.whenAlive_alive halive, State.alarmSend]
  simp only [hopen, hvalid, hpending, hdue, hleader, hroute, hsend, Nat.not_le.mpr he, Bool.false_eq_true, one_ne_zero, Bool.not_true, Option.isNone_some,
    or_self, if_false]
  rfl

theorem exec_alarmSend_waits {s : State} {e : Nat} (halive : s.alive = true) (h : s.fldAt f_FLA_0_PENDING e = 0 ∨ s.alarmDue e = false) :
    exec (.alarmSend e) s = .next s := by
  have hno : s.fenced ∨ 4096 ≤ e ∨ s.fldAt f_FLA_0_VALID e = 0 ∨ s.fldAt f_FLA_0_PENDING e = 0 ∨ !s.alarmDue e :=
    .inr (.inr (.inr (h.imp id fun hd => by rw [hd]; rfl)))
  change execAlarmSend e s = _
  rw [execAlarmSend, State.whenAlive_alive halive, State.alarmSend, if_pos hno]

/-- An alarm table has 4,096 entries, and the one of an alarm is among them. -/
theorem State.alarmSlot_lt (s : State) {base node source cause : Nat} (hcause : cause < 256) : (s.alarmSlot base node source cause).1 < 4096 := by
  unfold State.alarmSlot
  extract_lets es key
  split
  case h_1 e he =>
    obtain ⟨r, hr, rfl⟩ := List.mem_map.mp (List.mem_of_find?_eq_some he)
    have hr := (List.mem_filter.mp hr).2
    simp only [Bool.and_eq_true, decide_eq_true_eq] at hr
    show (r.1 - base) / 0x20 < 4096
    omega
  case h_2 =>
    split
    case h_1 i hi =>
      obtain ⟨j, hj, rfl⟩ := List.mem_map.mp (List.mem_of_find?_eq_some hi)
      have := List.mem_range.mp hj
      show j + 256 < 4096
      omega
    case h_2 => exact hcause.trans (by decide)

/-- The registers alone tell which entry counts an alarm. -/
theorem State.alarmSlot_congr {s t : State} (h : t.regs = s.regs) (base node source cause : Nat) :
    t.alarmSlot base node source cause = s.alarmSlot base node source cause := by
  rw [State.alarmSlot, State.alarmSlot, State.alarmEntries, State.alarmEntries, h]

/-- The count of an entry grows and saturates. -/
theorem State.alarmAdd_count (s : State) (base i node source cause n first last : Nat) :
    bits ((s.alarmAdd base i node source cause n first last).word (base + 0x20 * i + 8)).toNat 0 32 =
      min (bits (s.word (base + 0x20 * i + 8)).toNat 0 32 + n) 0xFFFFFFFF := by
  unfold State.alarmAdd
  extract_lets a w0 w1 fresh count sent key pend s1
  have h1 : s1.word (a + 8) = BitVec.ofNat 64 (sent * 2 ^ 32 + count) := State.word_setWord_same ..
  have hadded : ((if fresh then s1.setWord (a + 16) (BitVec.ofNat 64 first) else s1).setWord (a + 24) (BitVec.ofNat 64 last)).word (a + 8) =
      BitVec.ofNat 64 (sent * 2 ^ 32 + count) := by
    rw [State.word_setWord_ne _ _ _ _ (by omega)]
    split
    · rw [State.word_setWord_ne _ _ _ _ (by omega), h1]
    · exact h1
  have hsent : sent < 2 ^ 32 := bits_lt ..
  have hcount : count ≤ 0xFFFFFFFF := Nat.min_le_right ..
  show bits (State.word _ (a + 8)).toNat 0 32 = count
  rw [hadded, BitVec.toNat_ofNat, bits]
  omega

theorem State.leads_alarm {s : State} {p : QPkt} {typ len : Nat} (hopen : s.fenced = false) (hdest : p.dest = s.me) (htyp : p.typ = typ)
    (hleader : s.leader = true) (hlen : p.payload.length = len) (hrsvd : p.rsvd = 0) : s.leads p typ len = true := by
  simp [State.leads, hopen, hdest, htyp, hleader, hlen, hrsvd]

/-- The leader adds an alarm of another ZV9 to its domain table. -/
theorem exec_alarm_adds {s : State} {p : QPkt} (halive : s.alive = true) (hopen : s.fenced = false) (hdest : p.dest = s.me) (htyp : p.typ = 0x32)
    (hleader : s.leader = true) (hlen : p.payload.length = 48) (hrsvd : p.rsvd = 0) :
    ∃ t, exec (.alarm p) s = .next t ∧
      let i := (s.alarmSlot 0x160000 p.src (leAt p.payload 0 2) (leAt p.payload 2 1)).1
      i < 4096 ∧ t.mem = s.mem ∧ bits (t.word (0x160000 + 0x20 * i + 8)).toNat 0 32 =
        min (bits (s.word (0x160000 + 0x20 * i + 8)).toNat 0 32 + leAt p.payload 4 4) 0xFFFFFFFF := by
  obtain ⟨rx, links, htake⟩ := s.takeRx_only (.qf p)
  set s1 := s.takeRx (.qf p) with hs1
  have hleads : s1.leads p 0x32 48 = true := by
    rw [htake]
    exact State.leads_alarm (s := { s with rx := rx, links := links }) hopen hdest htyp hleader hlen hrsvd
  have hslot : s1.alarmSlot 0x160000 p.src (leAt p.payload 0 2) (leAt p.payload 2 1) =
      s.alarmSlot 0x160000 p.src (leAt p.payload 0 2) (leAt p.payload 2 1) := State.alarmSlot_congr (by rw [htake]) ..
  set i := (s.alarmSlot 0x160000 p.src (leAt p.payload 0 2) (leAt p.payload 2 1)).1 with hi
  set agg := (s.alarmSlot 0x160000 p.src (leAt p.payload 0 2) (leAt p.payload 2 1)).2 with hagg
  set u := s1.alarmAdd 0x160000 i p.src (leAt p.payload 0 2) (leAt p.payload 2 1) (leAt p.payload 4 4) (leAt p.payload 8 8) (leAt p.payload 8 8) with hu
  have hbody : exec (.alarm p) s = .next (if agg then u.incSat f_FLT_ALARM_STAT_AGGREGATED else u) := by
    change execAlarm p s = _
    rw [execAlarm, if_pos hdest, State.whenAlive_alive halive, ← hs1, if_pos hleads]
    dsimp only
    rw [hslot]
  have hmem : u.mem = s.mem := (State.alarmAdd_cellsStand ..).mem.trans (by rw [htake])
  have hcount := s1.alarmAdd_count 0x160000 i p.src (leAt p.payload 0 2) (leAt p.payload 2 1) (leAt p.payload 4 4) (leAt p.payload 8 8) (leAt p.payload 8 8)
  rw [← hu, State.word_of_regs (s := s) (t := s1) (by rw [htake])] at hcount
  refine ⟨_, hbody, s.alarmSlot_lt (leAt_lt _ _ 1), ?_⟩
  split
  · refine ⟨hmem, ?_⟩
    rw [State.word_incSat_ne _ _ (by simp only [Fld.addr, f_FLT_ALARM_STAT_AGGREGATED]; omega)]
    exact hcount
  · exact ⟨hmem, hcount⟩

/-! ### Forwarded records (R527, R528) -/

/-- A record of another ZV9 as the leader logs it: marked remote. -/
def QPkt.remoteRecord (p : QPkt) : List Byte := p.payload.take 21 ++ [p.payload.getD 21 0#8 ||| 8#8] ++ p.payload.drop 22

theorem exec_diag_logs {s : State} {p : QPkt} (halive : s.alive = true) (hopen : s.fenced = false) (hdest : p.dest = s.me) (htyp : p.typ = 0x39)
    (hleader : s.leader = true) (hlen : p.payload.length = 64) (hrsvd : p.rsvd = 0) :
    exec (.diag p) s = .next (((s.takeRx (.qf p)).logWrite p.remoteRecord).logTell (bit (leAt p.payload 21 1) 0)) := by
  obtain ⟨rx, links, htake⟩ := s.takeRx_only (.qf p)
  have hleads : (s.takeRx (.qf p)).leads p 0x39 64 = true := by
    rw [htake]
    exact State.leads_alarm (s := { s with rx := rx, links := links }) hopen hdest htyp hleader hlen hrsvd
  change execDiag p s = _
  rw [execDiag, if_pos hdest, State.whenAlive_alive halive, if_pos hleads, QPkt.remoteRecord]

theorem State.logTell_quiet {s : State} {alarm : Bool} (h : s.logTells = false ∨ alarm = false) :
    s.logTell alarm = { s with logIntDue := s.logIntDue || s.logTells } := by
  have hno : (s.logTells && alarm) = false := by rcases h with h | h <;> simp [h]
  rw [State.logTell, hno, if_neg Bool.false_ne_true, State.logDue]
  cases s.logTells
  · rw [if_neg Bool.false_ne_true, Bool.or_false]
  · rw [if_pos rfl, Bool.or_true]

theorem State.logWrite_unset {s : State} (h : s.fld f_FLT_LOG_RING_LOG2 = 0) (bs : List Byte) : s.logWrite bs = s.incSat f_FLT_LOG_STAT_UNLOGGED := by
  rw [State.logWrite]
  exact if_pos h

theorem State.recordWrite_logIntDue (s : State) (a : Nat) (bs : List Byte) : (s.recordWrite a bs).logIntDue = s.logIntDue := by
  unfold State.recordWrite
  split <;> rfl

/-- A record in the log: written at its place, the producer one on, and only the words of the log's indices and counts change. -/
theorem State.logWrite_set {s : State} (hlog : s.fld f_FLT_LOG_RING_LOG2 ≠ 0) (bs : List Byte) :
    ∃ u, s.OnlyRegs u ∧ s.RegsKept (s.logWrite bs) [0xE0008, 0xE0010] ∧ s.logWrite bs =
      (u.recordWrite (s.fld f_FLT_LOG_RING_BASE * 4096 + 64 * (s.fld f_FLT_LOG_IDX_PROD % 2 ^ s.fld f_FLT_LOG_RING_LOG2)) bs).setFld f_FLT_LOG_IDX_PROD
        (s.fld f_FLT_LOG_IDX_PROD + 1) := by
  rw [State.logWrite]
  extract_lets n cons s1 a
  have h1 : s.OnlyRegs s1 ∧ s.RegsKept s1 [0xE0008, 0xE0010] := by
    unfold s1
    split
    · exact ⟨rfl, ((State.RegsKept.refl s _).setWord (by decide) _).setWord (by decide) _⟩
    · exact ⟨rfl, .refl s _⟩
  obtain ⟨honly, hkept⟩ := h1
  have hrecord : s.RegsKept (s1.recordWrite a bs) [0xE0008, 0xE0010] := fun o ho => (State.word_of_regs (s1.recordWrite_regs a bs) o).trans (hkept o ho)
  rw [if_neg hlog]
  exact ⟨s1, honly, hrecord.setWord (by decide) _, rfl⟩

theorem State.logTells_kept {s t : State} {offs : List Nat} (h : s.RegsKept t offs) (hctl : 0xE0020 ∉ offs) (hring : 0xE0000 ∉ offs) :
    t.logTells = s.logTells := by
  have hen : t.fld f_FLT_CTL_INT_EN = s.fld f_FLT_CTL_INT_EN := congrArg f_FLT_CTL_INT_EN.get (h _ hctl)
  have hlog : t.fld f_FLT_LOG_RING_LOG2 = s.fld f_FLT_LOG_RING_LOG2 := congrArg f_FLT_LOG_RING_LOG2.get (h _ hring)
  rw [State.logTells, State.logTells, State.flag, State.flag, hen, hlog]

/-- With no ring set a record is only counted. -/
theorem State.diag_unset {s : State} (h : s.fld f_FLT_LOG_RING_LOG2 = 0) (bs : List Byte) (alarm : Bool) :
    ((s.logWrite bs).logTell alarm).mem = s.mem ∧ ((s.logWrite bs).logTell alarm).logIntDue = s.logIntDue ∧
      ((s.logWrite bs).logTell alarm).fld f_FLT_LOG_STAT_UNLOGGED = min (s.fld f_FLT_LOG_STAT_UNLOGGED + 1) (2 ^ f_FLT_LOG_STAT_UNLOGGED.width - 1) := by
  have hring : (s.incSat f_FLT_LOG_STAT_UNLOGGED).fld f_FLT_LOG_RING_LOG2 = 0 := (State.incSat_fld_ne _ _ _ (by decide) (.inl (by decide))).trans h
  have hsilent : (s.incSat f_FLT_LOG_STAT_UNLOGGED).logTells = false := by
    rw [State.logTells, hring, bne_self_eq_false, Bool.and_false]
  have hcount := s.incSat_fld f_FLT_LOG_STAT_UNLOGGED (by decide)
  rw [State.logWrite_unset h, State.logTell_quiet (.inl hsilent), hsilent, Bool.or_false]
  exact ⟨rfl, rfl, hcount⟩

/-- A record of another ZV9 that is logged without a message at once. -/
theorem State.diag_set {s : State} (hlog : s.fld f_FLT_LOG_RING_LOG2 ≠ 0) {alarm : Bool} (hquiet : s.flag f_FLT_CTL_INT_EN = false ∨ alarm = false)
    (hkept : s.Kept) (bs : List Byte) :
    ((s.logWrite bs).logTell alarm).logIntDue = (s.logIntDue || s.flag f_FLT_CTL_INT_EN) ∧
      ((s.logWrite bs).logTell alarm).fld f_FLT_LOG_IDX_PROD = (s.fld f_FLT_LOG_IDX_PROD + 1) % 2 ^ 32 ∧
      s.recorded ((s.logWrite bs).logTell alarm)
        (s.fld f_FLT_LOG_RING_BASE * 4096 + 64 * (s.fld f_FLT_LOG_IDX_PROD % 2 ^ s.fld f_FLT_LOG_RING_LOG2)) bs := by
  obtain ⟨u, hu, hwords, hwrite⟩ := State.logWrite_set hlog bs
  set v := s.logWrite bs with hv
  have htells : v.logTells = s.flag f_FLT_CTL_INT_EN := by
    rw [State.logTells_kept hwords (by decide) (by decide), State.logTells, bne_iff_ne.mpr hlog, Bool.and_true]
  have hdue : v.logIntDue = s.logIntDue := by
    rw [hwrite]
    exact (u.recordWrite_logIntDue _ _).trans (by rw [hu])
  have hprod : v.fld f_FLT_LOG_IDX_PROD = (s.fld f_FLT_LOG_IDX_PROD + 1) % 2 ^ 32 := by
    rw [hwrite]
    exact State.fld_setFld _ f_FLT_LOG_IDX_PROD _ (by decide)
  have hrecorded := State.recordWrite_recorded (t := v) hkept hu (by rw [hwrite]; rfl) (by rw [hwrite]; rfl)
  rw [State.logTell_quiet (by rwa [htells]), hdue, htells]
  exact ⟨rfl, hprod, hrecorded⟩

/-! ### A message that is due (R528) -/

theorem exec_logInterruptTimer_due {s : State} (halive : s.alive = true) (hdue : s.logIntDue = true) (hen : s.flag f_FLT_CTL_INT_EN = true) :
    exec .logInterruptTimer s = .next (({ s with logIntDue := false } : State).message 0 (s.fld f_FLT_CTL_VECTOR)) := by
  change execLogInterruptTimer s = _
  rw [execLogInterruptTimer, State.whenAlive_alive halive, hdue, hen]
  rfl

theorem exec_logInterruptTimer_idle {s : State} (halive : s.alive = true) (h : s.logIntDue = false ∨ s.flag f_FLT_CTL_INT_EN = false) :
    exec .logInterruptTimer s = .next s := by
  have hno : (s.logIntDue && s.flag f_FLT_CTL_INT_EN) = false := by rcases h with h | h <;> simp [h]
  change execLogInterruptTimer s = _
  rw [execLogInterruptTimer, State.whenAlive_alive halive, hno, if_neg Bool.false_ne_true]

/-! ### An entry that is cleared (R554) -/

/-- Word 0 of an entry of the alarm table, or of the domain table. -/
def alarmAt (dom : Bool) (e : Nat) : Nat := (if dom then 0x160000 else 0x140000) + 0x20 * e

/-- The four words of an entry are zero. -/
def State.wordsCleared (s : State) (a : Nat) : State := (((s.setWord a 0).setWord (a + 8) 0).setWord (a + 16) 0).setWord (a + 24) 0

theorem State.wordsCleared_words (s : State) (a : Nat) :
    (∀ n < 4, (s.wordsCleared a).word (a + 8 * n) = 0) ∧ s.RegsKept (s.wordsCleared a) [a, a + 8, a + 16, a + 24, f_FLT_ALARM_STAT_ENTRIES.addr 0] := by
  refine ⟨fun n hn => ?_, ((((State.RegsKept.refl s _).setWord (by simp) _).setWord (by simp) _).setWord (by simp) _).setWord (by simp) _⟩
  unfold State.wordsCleared
  interval_cases n
  · rw [State.word_setWord_ne _ _ _ _ (by omega), State.word_setWord_ne _ _ _ _ (by omega), State.word_setWord_ne _ _ _ _ (by omega)]
    exact State.word_setWord_same ..
  · rw [State.word_setWord_ne _ _ _ _ (by omega), State.word_setWord_ne _ _ _ _ (by omega)]
    exact State.word_setWord_same ..
  · rw [State.word_setWord_ne _ _ _ _ (by omega)]
    exact State.word_setWord_same ..
  · exact State.word_setWord_same ..

theorem exec_alarmEntryClear_clears {s : State} {dom : Bool} {e : Nat} (halive : s.alive = true) (he : e < 4096)
    (hvalid : bit (s.word (alarmAt dom e)).toNat 0 = true) (hsent : bit (s.word (alarmAt dom e)).toNat 1 = false) :
    ∃ t, exec (.alarmEntryClear dom e) s = .next t ∧ (∀ n < 4, t.word (alarmAt dom e + 8 * n) = 0) ∧
      s.RegsKept t [alarmAt dom e, alarmAt dom e + 8, alarmAt dom e + 16, alarmAt dom e + 24, f_FLT_ALARM_STAT_ENTRIES.addr 0] ∧ t.mem = s.mem := by
  have hno : ¬ (4096 ≤ e ∨ bit (s.word (alarmAt dom e)).toNat 0 = false ∨ bit (s.word (alarmAt dom e)).toNat 1 = true) := by simp [he, hvalid, hsent]
  obtain ⟨hzero, hkept⟩ := s.wordsCleared_words (alarmAt dom e)
  have hbody : exec (.alarmEntryClear dom e) s = .next (s.alarmClear dom e) := congrArg Host.Outcome.next (State.whenAlive_alive halive _)
  refine ⟨_, hbody, ?_⟩
  cases dom with
  | true =>
    have hclear : s.alarmClear true e = s.wordsCleared (alarmAt true e) := by
      rw [State.alarmClear]
      exact if_neg hno
    rw [hclear]
    exact ⟨hzero, hkept, rfl⟩
  | false =>
    obtain ⟨n, hclear⟩ : ∃ n, s.alarmClear false e = { (s.wordsCleared (alarmAt false e)).setFld f_FLT_ALARM_STAT_ENTRIES n with
        alarmExtra := del s.alarmExtra (fun x => x.entry == e) } := by
      refine ⟨(((s.wordsCleared (alarmAt false e)).alarmEntries 0x140000).filter (fun x => decide (256 ≤ x.1))).length, ?_⟩
      rw [State.alarmClear, ← alarmAt, if_neg hno]
      rfl
    rw [hclear]
    have hword (o : Nat) := State.word_of_regs (s := (s.wordsCleared (alarmAt false e)).setFld f_FLT_ALARM_STAT_ENTRIES n)
      (t := { (s.wordsCleared (alarmAt false e)).setFld f_FLT_ALARM_STAT_ENTRIES n with alarmExtra := del s.alarmExtra (fun x => x.entry == e) }) rfl o
    have hkept' := hkept.setWord (off := f_FLT_ALARM_STAT_ENTRIES.addr 0) (by simp)
    refine ⟨fun i hi => (hword _).trans ((State.word_setFldAt_ne _ _ _ _ ?_).trans (hzero i hi)), fun o ho => (hword o).trans (hkept' _ o ho), rfl⟩
    simp only [alarmAt, Fld.addr, f_FLT_ALARM_STAT_ENTRIES, Bool.false_eq_true, if_false]
    omega

theorem exec_alarmEntryClear_keeps {s : State} {dom : Bool} {e : Nat} (halive : s.alive = true)
    (h : bit (s.word (alarmAt dom e)).toNat 0 = false ∨ bit (s.word (alarmAt dom e)).toNat 1 = true) : exec (.alarmEntryClear dom e) s = .next s := by
  have hclear : s.alarmClear dom e = s := by
    rw [State.alarmClear]
    exact if_pos (.inr h)
  change execAlarmEntryClear dom e s = _
  rw [execAlarmEntryClear, State.whenAlive_alive halive, hclear]

/-! ### Dumps (R592 to R594) -/

/-- The window boundary that the local cycle counter has reached. -/
def State.boundary (s : State) : Nat := s.now / (s.fld f_OBS_DUMP_CTL_PERIOD_US * 1800) * (s.fld f_OBS_DUMP_CTL_PERIOD_US * 1800)

theorem exec_dumpBoundary_idle {s : State} (halive : s.alive = true) (h : s.fld f_OBS_DUMP_CTL_ENABLE = 0 ∨ s.boundary ≤ s.dumpFrom) :
    exec .dumpBoundary s = .next s := by
  have hdump : s.dump = s := by
    rw [State.dump]
    exact if_pos h
  change execDumpBoundary s = _
  rw [execDumpBoundary, State.whenAlive_alive halive, hdump]

/-- A window's end writes its record at its place, moves the producer on and starts the next window. -/
theorem State.dump_due {s : State} (h : ¬ (s.fld f_OBS_DUMP_CTL_ENABLE = 0 ∨ s.boundary ≤ s.dumpFrom)) :
    ∃ u v, s.OnlyRegs u ∧ v = (u.recordWrite (s.fld f_OBS_DUMP_RING_BASE * 4096 +
        576 * (s.fld f_OBS_DUMP_IDX_PROD % 2 ^ s.fld f_OBS_DUMP_RING_LOG2)) (s.dumpRecord (s.dumpSeq + 1) s.boundary)).setFld
          f_OBS_DUMP_IDX_PROD (s.fld f_OBS_DUMP_IDX_PROD + 1) ∧
      s.dump = { v with dumpSeq := s.dumpSeq + 1, dumpChanged := 0, dumpFrom := s.boundary, fresh := v.fresh + 4 } := by
  unfold State.boundary at h ⊢
  rw [State.dump]
  extract_lets seq l2 n cons s1 s2
  have h1 : s.OnlyRegs s1 := by
    unfold s1
    split <;> rfl
  rw [if_neg h]
  exact ⟨s1, s2, h1, rfl, rfl⟩

theorem exec_dumpBoundary_dumps {s : State} (halive : s.alive = true) (hkept : s.Kept) (hen : s.fld f_OBS_DUMP_CTL_ENABLE = 1)
    (hdue : s.dumpFrom < s.boundary) :
    ∃ t, exec .dumpBoundary s = .next t ∧ t.dumpSeq = s.dumpSeq + 1 ∧ t.dumpFrom = s.boundary ∧ t.dumpChanged = 0 ∧
      t.fld f_OBS_DUMP_IDX_PROD = (s.fld f_OBS_DUMP_IDX_PROD + 1) % 2 ^ 32 ∧
      s.recorded t (s.fld f_OBS_DUMP_RING_BASE * 4096 + 576 * (s.fld f_OBS_DUMP_IDX_PROD % 2 ^ s.fld f_OBS_DUMP_RING_LOG2))
        (s.dumpRecord (s.dumpSeq + 1) s.boundary) := by
  have hno : ¬ (s.fld f_OBS_DUMP_CTL_ENABLE = 0 ∨ s.boundary ≤ s.dumpFrom) := by
    rw [hen]
    omega
  obtain ⟨u, v, hu, hv, hdump⟩ := State.dump_due hno
  have hprod : v.fld f_OBS_DUMP_IDX_PROD = (s.fld f_OBS_DUMP_IDX_PROD + 1) % 2 ^ 32 := by
    rw [hv]
    exact State.fld_setFld _ f_OBS_DUMP_IDX_PROD _ (by decide)
  have hrecorded := State.recordWrite_recorded (t := v) hkept hu (by rw [hv]; rfl) (by rw [hv]; rfl)
  refine ⟨s.dump, congrArg Host.Outcome.next (State.whenAlive_alive halive _), ?_⟩
  rw [hdump]
  exact ⟨rfl, rfl, rfl, hprod, hrecorded⟩

/-! ### The store's audit (R488 to R490) -/

/-- A pass of the audit over one cell that is out of order. -/
theorem exec_storeAuditPass_one {s : State} (halive : s.alive = true) (hon : s.flag f_STORE_AUDIT_ENABLE = true) (c : CellSeen) :
    exec (.storeAuditPass [c] []) s = .next { ({ s with cells := s.cells.filter (fun x => x.mark != CellMark.suspect || c.cell == x.cell) } : State).auditCell c
      with auditDiff := [] } := by
  change execStoreAuditPass [c] [] s = _
  rw [execStoreAuditPass, State.whenAlive_alive halive, if_pos hon]
  simp [State.auditPass, forL]

/-- What the pass keeps of a cell's marks is what it finds of the cell. -/
theorem find?_audited (l : List CellRec) (n : Nat) :
    (l.filter (fun x => x.mark != CellMark.suspect || n == x.cell)).find? (fun x => x.cell == n) = l.find? (fun x => x.cell == n) := by
  rw [List.find?_filter]
  refine List.find?_congr fun x _ => ?_
  rw [Bool.eq_iff_iff]
  simp only [decide_eq_true_eq, Bool.or_eq_true, beq_iff_eq]
  exact ⟨fun h => h.2, fun h => ⟨.inr h.symm, h⟩⟩

theorem State.markCell_mem (s : State) (c : CellSeen) (m : CellMark) : ⟨c.cell, c.owner, c.gen, m⟩ ∈ (s.markCell c m).cells :=
  List.mem_append_right _ (List.mem_singleton_self _)

/-- A cell that is lost comes from the spare ones while there are any. -/
theorem State.loseCell_spare {s : State} (h : s.fld f_STORE_CARVE_STAT_SPARE ≠ 0) (cell : Nat) (o : CellOwner) :
    s.loseCell cell o = (s.incSat f_STORE_AUDIT_STAT_QUARANTINED).setFld f_STORE_CARVE_STAT_SPARE (s.fld f_STORE_CARVE_STAT_SPARE - 1) := by
  have hspare : (s.incSat f_STORE_AUDIT_STAT_QUARANTINED).fld f_STORE_CARVE_STAT_SPARE = s.fld f_STORE_CARVE_STAT_SPARE :=
    State.incSat_fld_ne _ _ _ (by decide) (.inl (by decide))
  simp only [State.loseCell, hspare, h, ne_eq, not_false_eq_true, if_true]

section AuditCell
variable {s : State} {c : CellSeen}

/-- A cell neither free nor held is suspected at first sight. -/
theorem State.auditCell_first (hheld : c.held = false) (hfree : c.free = false) (hnone : s.cells.find? (fun x => x.cell == c.cell) = none) :
    s.auditCell c = s.markCell c .suspect := by
  simp [State.auditCell, hnone, hheld, hfree]

/-- A cell both free and held is marked at once, and counted. -/
theorem State.auditCell_twice (hheld : c.held = true) (hfree : c.free = true) (hnone : s.cells.find? (fun x => x.cell == c.cell) = none) :
    ⟨c.cell, c.owner, c.gen, .dual⟩ ∈ (s.auditCell c).cells ∧
      (s.auditCell c).fld f_STORE_AUDIT_STAT_DUALS = min (s.fld f_STORE_AUDIT_STAT_DUALS + 1) (2 ^ 16 - 1) := by
  have hdual : s.auditCell c = ((s.markCell c .dual).incSat f_STORE_AUDIT_STAT_DUALS).raise (ev 0x14 0 (c.cell % 2 ^ 20 + 2 * 2 ^ 20)) := by
    simp [State.auditCell, hnone, hheld, hfree]
  rw [hdual]
  refine ⟨?_, (State.raise_fld _ _ (by decide) (by decide)).trans (State.incSat_fld (s.markCell c .dual) _ (by decide))⟩
  rw [cells_eventBlind.raise, cells_eventBlind.incSat]
  exact s.markCell_mem c _

/-- A cell that leaked, out of use and counted. -/
def State.leaked (s : State) (c : CellSeen) : State :=
  ((s.markCell c .quarantined).incSat f_STORE_AUDIT_STAT_LEAKED).raise (ev 0x14 0 (c.cell % 2 ^ 20 + 2 ^ 20))

theorem State.auditCell_second {o : CellOwner} (hheld : c.held = false) (hfree : c.free = false)
    (hsuspect : s.cells.find? (fun x => x.cell == c.cell) = some ⟨c.cell, o, c.gen, .suspect⟩) :
    s.auditCell c = (s.leaked c).loseCell c.cell c.owner := by
  simp [State.auditCell, hsuspect, hheld, hfree, State.leaked]

theorem State.leaked_fld {f : Fld} (ho : f.addr 0 < 0xD0800) (hport : f.addr 0 < 0xB0040 ∨ 0xB0060 ≤ f.addr 0)
    (hd : f.addr 0 ≠ f_STORE_AUDIT_STAT_LEAKED.addr 0 ∨ f.lo + f.width ≤ 48) : (s.leaked c).fld f = s.fld f :=
  (State.raise_fld _ _ ho hport).trans (State.incSat_fld_ne (s.markCell c .quarantined) _ _ (by decide) (hd.imp_right .inl))

theorem State.leaked_count : (s.leaked c).fld f_STORE_AUDIT_STAT_LEAKED = min (s.fld f_STORE_AUDIT_STAT_LEAKED + 1) (2 ^ 16 - 1) :=
  (State.raise_fld _ _ (by decide) (by decide)).trans (State.incSat_fld (s.markCell c .quarantined) _ (by decide))

theorem State.leaked_mem : ⟨c.cell, c.owner, c.gen, .quarantined⟩ ∈ (s.leaked c).cells := by
  rw [State.leaked, cells_eventBlind.raise, cells_eventBlind.incSat]
  exact s.markCell_mem c _

/-- A suspected cell is taken out of use at the second sight, in place of a spare one. -/
theorem State.auditCell_lost {o : CellOwner} (hheld : c.held = false) (hfree : c.free = false)
    (hsuspect : s.cells.find? (fun x => x.cell == c.cell) = some ⟨c.cell, o, c.gen, .suspect⟩) (hspare : s.fld f_STORE_CARVE_STAT_SPARE ≠ 0) :
    ⟨c.cell, c.owner, c.gen, .quarantined⟩ ∈ (s.auditCell c).cells ∧
      (s.auditCell c).fld f_STORE_AUDIT_STAT_LEAKED = min (s.fld f_STORE_AUDIT_STAT_LEAKED + 1) (2 ^ 16 - 1) ∧
      (s.auditCell c).fld f_STORE_AUDIT_STAT_QUARANTINED = min (s.fld f_STORE_AUDIT_STAT_QUARANTINED + 1) (2 ^ 16 - 1) ∧
      (s.auditCell c).fld f_STORE_CARVE_STAT_SPARE = s.fld f_STORE_CARVE_STAT_SPARE - 1 := by
  have hkeep : (s.leaked c).fld f_STORE_CARVE_STAT_SPARE = s.fld f_STORE_CARVE_STAT_SPARE := State.leaked_fld (by decide) (by decide) (by decide)
  have hquar : (s.leaked c).fld f_STORE_AUDIT_STAT_QUARANTINED = s.fld f_STORE_AUDIT_STAT_QUARANTINED :=
    State.leaked_fld (by decide) (by decide) (by decide)
  have hlt : s.fld f_STORE_CARVE_STAT_SPARE < 2 ^ 20 := Fld.get_lt f_STORE_CARVE_STAT_SPARE _
  rw [State.auditCell_second hheld hfree hsuspect, State.loseCell_spare (hkeep ▸ hspare), hkeep]
  refine ⟨State.leaked_mem, ?_, ?_, ?_⟩
  · rw [State.fld_setFld_ne _ _ _ _ (by decide) (by decide), State.incSat_fld_ne _ _ _ (by decide) (by decide), State.leaked_count]
  · rw [State.fld_setFld_ne _ _ _ _ (by decide) (by decide), State.incSat_fld _ _ (by decide), hquar]
    rfl
  · rw [State.fld_setFld _ _ _ (by decide)]
    exact Nat.mod_eq_of_lt (lt_of_le_of_lt (Nat.sub_le ..) hlt)

end AuditCell

/-- Settles O57: each command is its one effect, read field by field. -/
theorem alarmsAndAudits : Obligations.AlarmsAndAudits := by
  unfold Obligations.AlarmsAndAudits
  intro s p e dom c halive hopen a fla
  refine ⟨?_, exec_alarmSend_waits halive, exec_alarm_adds halive hopen, ?_, exec_logInterruptTimer_idle halive, ?_,
    exec_alarmEntryClear_clears halive, exec_alarmEntryClear_keeps halive, ⟨exec_dumpBoundary_idle halive, fun hen hdue hkept =>
      exec_dumpBoundary_dumps halive hkept hen hdue⟩, ?_, ?_, ?_⟩
  · intro l o sd he hvalid hpending hdue hleader hroute
    obtain ⟨hsaid, hsent, hkept⟩ := s.alarmSaid_words e (s.fldAt f_FLA_1_COUNT e)
    obtain ⟨hqueue, hstamp⟩ := s.alarmTold_leaves e l o sd
    have hword := State.word_of_regs (s.alarmTold_regs e l o sd)
    have hcount : s.fldAt f_FLA_1_COUNT e < 2 ^ 32 := Fld.get_lt f_FLA_1_COUNT _
    exact ⟨_, s.alarmPkt e l sd, exec_alarmSend_due halive hopen he hvalid hpending hdue hleader hroute, hqueue, rfl, rfl, rfl,
      (congrArg f_FLA_0_PENDING.get (hword _)).trans hsaid, (congrArg f_FLA_1_SENT.get (hword _)).trans (hsent.trans (Nat.mod_eq_of_lt hcount)),
      fun w hw => (hword w).trans (hkept w hw), hstamp⟩
  · intro hdest htyp hleader hlen hrsvd l2 n
    obtain ⟨rx, links, htake⟩ := s.takeRx_only (.qf p)
    rw [exec_diag_logs halive hopen hdest htyp hleader hlen hrsvd, htake]
    refine ⟨fun hunset => ?_, fun hset hquiet hkept => ?_⟩
    · exact ⟨_, rfl, State.diag_unset (s := { s with rx := rx, links := links }) hunset _ _⟩
    · exact ⟨_, rfl, State.diag_set (s := { s with rx := rx, links := links }) hset hquiet hkept _⟩
  · intro hdue hen i
    rw [exec_logInterruptTimer_due halive hdue hen]
    have hzero : 256 * 0 + i = i := by omega
    refine ⟨fun hon hmask => ?_, fun k hon hmask hport hbound hup hwindow => ?_⟩
    · refine ⟨_, rfl, ?_⟩
      rw [State.message_masked (s := { s with logIntDue := false }) (x := 0) (by rw [hzero]; exact hon) (by rw [hzero]; exact hmask), hzero]
      exact ⟨State.fldAt_setFldAt _ f_SLV_HI_PENDING i 1 (by decide), rfl, rfl⟩
    · refine ⟨_, rfl, ?_⟩
      rw [State.message_sent (s := { s with logIntDue := false }) (x := 0) (k := k) (by rw [hzero]; exact hon) (by rw [hzero]; exact hmask)
        (by rw [hzero]; exact hport) hbound hup (by rw [hzero]; exact hwindow), State.interruptTo, hzero, Nat.zero_add]
      exact ⟨rfl, rfl⟩
  · intro hoff
    change execStoreAuditPass [c] [] s = _
    rw [execStoreAuditPass, State.whenAlive_alive halive, hoff, if_neg Bool.false_ne_true]
  · intro hon hheld hfree
    rw [exec_storeAuditPass_one halive hon]
    refine ⟨fun hnone => ⟨_, rfl, ?_⟩, fun o hsuspect hspare => ⟨_, rfl, ?_⟩⟩
    · rw [State.auditCell_first hheld hfree ((find?_audited ..).trans hnone)]
      exact ⟨rfl, State.markCell_mem _ c .suspect⟩
    · exact State.auditCell_lost (s := { s with cells := s.cells.filter (fun x => x.mark != CellMark.suspect || c.cell == x.cell) }) hheld hfree
        ((find?_audited ..).trans hsuspect) hspare
  · intro n hon hn hheld hfree hnone
    rw [exec_storeAuditPass_one halive hon]
    obtain ⟨hmem, hcount⟩ := State.auditCell_twice (s := { s with cells := s.cells.filter (fun x => x.mark != CellMark.suspect || c.cell == x.cell) })
      hheld hfree ((find?_audited ..).trans hnone)
    exact ⟨_, rfl, hmem, by rw [hn]; exact hcount⟩

end Sys2Proof.Machine

/-! Requests of a client (R347, R359, R363, R392, R393, R454, R457): their form, their port's binding, and the one piece that is made at its home. -/

namespace Sys2Proof.Machine

/-! ### What counting an access leaves (R357, R365) -/

/-- The number of this ZV9 and what its threads have failed stand as they were. -/
structure State.NodeStands (s t : State) : Prop where
  node : t.word (f_AS_NODE_NODE.addr 0) = s.word (f_AS_NODE_NODE.addr 0)
  threads : t.threads = s.threads

theorem State.NodeStands.refl (s : State) : s.NodeStands s := ⟨rfl, rfl⟩

theorem State.NodeStands.trans {s t u : State} (h : s.NodeStands t) (h' : t.NodeStands u) : s.NodeStands u :=
  ⟨h'.node.trans h.node, h'.threads.trans h.threads⟩

theorem State.NodeStands.me {s t : State} (h : s.NodeStands t) : t.me = s.me := congrArg f_AS_NODE_NODE.get h.node

/-- A field of another register is written. -/
theorem State.NodeStands.setFld {s t : State} (h : s.NodeStands t) (f : Fld) (v : Nat) (hf : f_AS_NODE_NODE.addr 0 ≠ f.addr 0) :
    s.NodeStands (t.setFld f v) :=
  ⟨(State.word_setFldAt_ne t f 0 v hf).trans h.node, h.threads⟩

theorem State.NodeStands.incSat {s t : State} (h : s.NodeStands t) (f : Fld) (hf : f_AS_NODE_NODE.addr 0 ≠ f.addr 0) : s.NodeStands (t.incSat f) :=
  h.setFld f _ hf

theorem State.NodeStands.ite {s t u : State} {c : Prop} [Decidable c] (ht : s.NodeStands t) (hu : s.NodeStands u) : s.NodeStands (if c then t else u) := by
  split
  · exact ht
  · exact hu

theorem State.NodeStands.recordWrite {s t : State} (h : s.NodeStands t) (a : Nat) (bs : List Byte) : s.NodeStands (t.recordWrite a bs) := by
  refine ⟨(State.word_of_regs (t.recordWrite_regs a bs) _).trans h.node, ?_⟩
  unfold State.recordWrite
  split <;> exact h.threads

theorem State.NodeStands.forL {α : Type} {s t : State} (h : s.NodeStands t) (l : List α) (f : α → State → State)
    (hf : ∀ x (u : State), u.NodeStands (f x u)) : s.NodeStands (Machine.forL l t f) :=
  forL_induct (P := fun u => s.NodeStands u) l f h fun x _ u hu => hu.trans (hf x u)

theorem State.scrGap_nodeStands (s : State) : s.NodeStands s.scrGap.1 := by
  unfold State.scrGap
  dsimp only
  split <;> exact ⟨rfl, rfl⟩

theorem State.scriv_nodeStands (s : State) (point slice source since addr a b : Nat) : s.NodeStands (s.scriv point slice source since addr a b) := by
  unfold State.scriv
  extract_lets c s1 jit n
  have h1 : s.NodeStands s1 := ⟨rfl, rfl⟩
  have hgap : s.NodeStands (if jit then s1.scrGap else (s1, n)).1 := by
    split
    · exact h1.trans s1.scrGap_nodeStands
    · exact h1
  generalize (if jit then s1.scrGap else (s1, n)) = g at hgap ⊢
  have h4 {next seq last} : s.NodeStands { g.1 with scrNext := next, scrSeq := seq, scrLast := last } := hgap.trans ⟨rfl, rfl⟩
  exact .ite (.refl s) (.ite h1 (.ite (h4.incSat _ (by decide)) (.ite (h4.incSat _ (by decide)) ((h4.recordWrite _ _).setFld _ _ (by decide)))))

theorem State.cacheEntry_nodeStands (s : State) (unit slice va : Nat) (h : XlHold) : s.NodeStands (s.cacheEntry unit slice va h) := ⟨rfl, rfl⟩

theorem State.cacheWalk_nodeStands (s : State) (unit slice va : Nat) (w : Walked) : s.NodeStands (s.cacheWalk unit slice va w) :=
  (State.NodeStands.refl s).forL _ _ fun _ _ => (State.cacheEntry_nodeStands ..).trans (State.cacheEntry_nodeStands ..)

theorem State.notePage_nodeStands (s : State) (unit slice va : Nat) : s.NodeStands (s.notePage unit slice va) := by
  unfold State.notePage
  split
  · exact .refl s
  · exact State.cacheEntry_nodeStands ..
  · split
    · exact .refl s
    · extract_lets w mapped s1
      have hwalk : s.NodeStands (s.addWrap f_XL_WALKS_WALKS 1) := (State.NodeStands.refl s).setFld _ _ (by decide)
      have h1 : s.NodeStands s1 := (hwalk.trans (State.scriv_nodeStands ..)).setFld f_XL_ERR_BAD_ENTRIES _ (by decide)
      refine State.NodeStands.trans ?_ (State.cacheWalk_nodeStands ..)
      split
      · exact h1.incSat _ (by decide)
      · exact h1

theorem State.noteWalks_nodeStands (s : State) (unit slice : Nat) (l : List (Nat × Nat)) : s.NodeStands (s.noteWalks unit slice l) := by
  induction l generalizing s with
  | nil => exact .refl s
  | cons p ps ih =>
    rw [State.noteWalks]
    split
    · exact (State.notePage_nodeStands ..).trans (ih _)
    · exact State.notePage_nodeStands ..

theorem State.migRecord_nodeStands (s : State) (slice page loc node flag host dev : Nat) :
    s.NodeStands (s.migRecord slice page loc node flag host dev) := by
  unfold State.migRecord
  dsimp only
  split
  · exact (State.NodeStands.refl s).incSat _ (by decide)
  · exact ((State.NodeStands.refl s).recordWrite _ _).setFld _ _ (by decide)

theorem State.countPage_nodeStands (s : State) (slice page : Nat) (leaf : Leaf) (loc : Nat) (host : Bool) (fuel n : Nat) :
    s.NodeStands (s.countPage slice page leaf loc host fuel n) := by
  induction fuel generalizing s n with
  | zero => exact .refl s
  | succ fuel ih =>
    rw [State.countPage]
    extract_lets old present rest counted
    have hroom : s.NodeStands (if !present && decide (65536 ≤ rest.length) then (rest.dropLast, s.incSat f_XL_MIG_STAT_EVICTIONS) else (rest, s)).2 := by
      split
      · exact (State.NodeStands.refl s).incSat _ (by decide)
      · exact .refl s
    generalize (if !present && decide (65536 ≤ rest.length) then (rest.dropLast, s.incSat f_XL_MIG_STAT_EVICTIONS) else (rest, s)) = g at hroom ⊢
    obtain ⟨kept, u⟩ := g
    have hcounts {v : State} (hv : s.NodeStands v) (counts : List XlCount) (m : Nat) :
        s.NodeStands (State.countPage { v with xlCounts := counts } slice page leaf loc host fuel m) :=
      State.NodeStands.trans (t := { v with xlCounts := counts }) ⟨hv.node, hv.threads⟩ (ih _ m)
    exact .ite (.refl s) (.ite (hcounts (hroom.trans (State.migRecord_nodeStands ..)) _ _) (hcounts hroom _ _))

theorem State.countAccess_nodeStands (s : State) (unit slice va n : Nat) (host : Bool) : s.NodeStands (s.countAccess unit slice va n host) := by
  unfold State.countAccess
  split
  · exact .refl s
  · split
    · refine (State.NodeStands.refl s).forL _ _ fun p u => ?_
      split
      · exact State.countPage_nodeStands ..
      · exact .refl u
    · refine (State.NodeStands.refl s).forL _ _ fun p u => ?_
      split
      · exact State.countPage_nodeStands ..
      · exact .refl u

theorem State.noteAccess_nodeStands (s : State) (unit slice va n : Nat) (host : Bool) : s.NodeStands (s.noteAccess unit slice va n host) := by
  unfold State.noteAccess
  split
  · exact .refl s
  · exact (State.noteWalks_nodeStands ..).trans (State.countAccess_nodeStands ..)

/-! ### Which requests are these -/

/-- A load, store, atomic or `SYNC` of a client, with the command that takes it. -/
def clientAsks (c : Instr) (port : Nat) (p : KPkt) : Prop :=
  (c = .clientRead port p [] ∧ p.typ = 0x01) ∨ (c = .clientWrite port p [] ∧ p.typ = 0x03) ∨
  (p.typ = 0x05 ∧ (c = .atomicAdd (.client port p) ∧ bits p.aux 0 4 = 0 ∨ c = .atomicMin (.client port p) ∧ bits p.aux 0 4 = 1 ∨
    c = .atomicMax (.client port p) ∧ bits p.aux 0 4 = 2 ∨ c = .atomicCas (.client port p) ∧ 3 ≤ bits p.aux 0 4)) ∨
  (p.typ = 0x07 ∧ (c = .syncAcquire port p ∧ p.sync = 1 ∨ c = .syncRelease port p ∧ p.sync = 2 ∨ c = .syncFull port p ∧ p.sync = 3))

theorem exec_clientAsks {s : State} {c : Instr} {port : Nat} {p : KPkt} (halive : s.alive = true) (h : clientAsks c port p) :
    exec c s = .next (s.clientRequest port p) := by
  rcases h with ⟨rfl, htyp⟩ | ⟨rfl, htyp⟩ | ⟨htyp, h⟩ | ⟨htyp, h⟩
  · change execClientRead port p [] s = _
    rw [execClientRead, State.readErrs_nil halive, State.whenAlive_alive halive, if_pos (.inl htyp)]
  · change execClientWrite port p [] s = _
    rw [execClientWrite, State.readErrs_nil halive, State.whenAlive_alive halive, if_pos htyp]
  · rcases h with ⟨rfl, hop⟩ | ⟨rfl, hop⟩ | ⟨rfl, hop⟩ | ⟨rfl, hop⟩
    · change execAtomicAdd (.client port p) s = _
      rw [execAtomicAdd, State.whenAlive_alive halive, if_pos ⟨htyp, hop⟩]
      rfl
    · change execAtomicMin (.client port p) s = _
      rw [execAtomicMin, State.whenAlive_alive halive, if_pos ⟨htyp, hop⟩]
      rfl
    · change execAtomicMax (.client port p) s = _
      rw [execAtomicMax, State.whenAlive_alive halive, if_pos ⟨htyp, hop⟩]
      rfl
    · change execAtomicCas (.client port p) s = _
      rw [execAtomicCas, State.whenAlive_alive halive, if_pos ⟨htyp, hop⟩]
      rfl
  · rcases h with ⟨rfl, hsync⟩ | ⟨rfl, hsync⟩ | ⟨rfl, hsync⟩
    · change execSyncAcquire port p s = _
      rw [execSyncAcquire, State.whenAlive_alive halive, if_pos ⟨htyp, hsync.le⟩]
    · change execSyncRelease port p s = _
      rw [execSyncRelease, State.whenAlive_alive halive, if_pos ⟨htyp, hsync⟩]
    · change execSyncFull port p s = _
      rw [execSyncFull, State.whenAlive_alive halive, if_pos ⟨htyp, hsync⟩]

/-! ### Form and binding (R454, R457) -/

/-- Nothing waits that a packet's leave could let pass. -/
theorem State.pumpHeld_none {s : State} (h : s.held = []) : s.pumpHeld = s := by
  have hsame : ({ s with held := [] } : State) = s := by rw [← h]
  rw [State.pumpHeld, h, hsame]
  rfl

/-- While nothing waits, a failed request is answered at once. -/
theorem State.failTurn_none {s : State} (h : s.held = []) (port : Nat) (p : KPkt) (f : Fail) : s.failTurn port p f = s.clientFail port p f := by
  rw [State.failTurn, h, List.any_nil, Bool.and_false, if_neg Bool.false_ne_true]

section FromClient
variable {s : State} {port : Nat} {p : KPkt} (hport : port < 4) (hup : s.klUp port = true) (hheld : s.held = []) (refuse : State → Fail → State)
  (run : State → Nat → State)
include hport hup hheld

theorem State.fromClient_malformed {o : Nat} (hform : p.badByte (s.fldAt f_KL_PORT_STREAMS port) = some o) :
    s.fromClient port p refuse run = refuse ((s.takeRx (.kl p)).incSatAt f_KL_PORT_ERR_MALFORMED port) ⟨eFormat, 3, o⟩ := by
  obtain ⟨rx, links, htake⟩ := s.takeRx_only (.kl p)
  have hpump : (s.takeRx (.kl p)).pumpHeld = s.takeRx (.kl p) := State.pumpHeld_none (by rw [htake]; exact hheld)
  have hform1 : p.badByte ((s.takeRx (.kl p)).fldAt f_KL_PORT_STREAMS port) = some o := by rw [htake]; exact hform
  have hopen : ¬ (4 ≤ port ∨ !s.klUp port) := by simp [hport, hup]
  simp only [State.fromClient, if_neg hopen, hpump, hform1]

/-- A request of good form is judged by the binding of its port. -/
theorem State.fromClient_formed (hform : p.badByte (s.fldAt f_KL_PORT_STREAMS port) = none) :
    (s.bound port = none → s.fromClient port p refuse run = refuse (s.takeRx (.kl p)) ⟨ePerm, 2, p.addr⟩) ∧
      ∀ sl, s.bound port = some sl → s.fromClient port p refuse run = run (s.takeRx (.kl p)) sl := by
  obtain ⟨rx, links, htake⟩ := s.takeRx_only (.kl p)
  have hpump : (s.takeRx (.kl p)).pumpHeld = s.takeRx (.kl p) := State.pumpHeld_none (by rw [htake]; exact hheld)
  have hform1 : p.badByte ((s.takeRx (.kl p)).fldAt f_KL_PORT_STREAMS port) = none := by rw [htake]; exact hform
  have hbound : (s.takeRx (.kl p)).bound port = s.bound port := by rw [htake]; rfl
  have hopen : ¬ (4 ≤ port ∨ !s.klUp port) := by simp [hport, hup]
  refine ⟨fun h => ?_, fun sl h => ?_⟩
  · simp only [State.fromClient, if_neg hopen, hpump, hform1, hbound, h]
  · simp only [State.fromClient, if_neg hopen, hpump, hform1, hbound, h]

end FromClient

/-! ### A request that need not wait (R359, R363, R392, R393) -/

/-- Nothing of the thread is outstanding, and nothing of it has failed. -/
def State.threadClear (s : State) (port stream : Nat) : Prop :=
  s.mine port stream = [] ∧ (s.thread port stream).failed = [] ∧ (s.thread port stream).syncFail = none

section Serve
variable {s : State} {port sl : Nat} {p : KPkt} (hheld : s.held = []) (hbusy : s.fldAt f_SLC_STATUS_BUSY sl = 0) (hclear : s.threadClear port p.stream)
include hheld hclear

theorem State.mustHold_clear : s.mustHold port sl p = false := by
  obtain ⟨hmine, -, -⟩ := hclear
  simp only [State.mustHold, hheld, hmine, List.any_nil, Bool.and_false, Bool.or_false, Bool.false_or]
  split <;> rfl

omit hheld in
theorem State.releaseFail_clear : s.releaseFail port p = none := by
  obtain ⟨-, hfailed, hsync⟩ := hclear
  simp [State.releaseFail, hfailed, hsync]

include hbusy

/-- A `SYNC` with nothing of its thread outstanding. -/
theorem State.serve_sync (htyp : p.typ = 0x07) : s.serve port sl p = s.klRespond port p 0x08 okFail [] false := by
  obtain ⟨-, hfailed, -⟩ := id hclear
  have hdone : s.syncDone port p = s.klRespond port p 0x08 okFail [] false := by
    simp only [State.syncDone, hfailed, List.find?_nil, Option.map_none, ite_self, Option.getD_none]
    rfl
  simp only [State.serve, State.mustHold_clear hheld hclear, hbusy, State.releaseFail_clear hclear, htyp, hdone, Bool.false_eq_true, zero_ne_one, if_false]

/-- A load, store or atomic, with the right it needs and the bytes it covers. -/
def KPkt.needs (p : KPkt) (right n : Nat) : Prop :=
  (p.typ = 0x01 ∧ right = rRead ∧ n = p.aux) ∨ (p.typ = 0x03 ∧ right = rWrite ∧ n = p.payload.length) ∨
    (p.typ = 0x05 ∧ right = rAtomic ∧ p.atomicForm = .ok n)

theorem State.serve_access {right n : Nat} (h : p.needs right n) : s.serve port sl p = s.translateAndMake port sl p right n := by
  have hnow := State.mustHold_clear (sl := sl) hheld hclear
  have hfree := State.releaseFail_clear hclear
  rcases h with ⟨htyp, rfl, rfl⟩ | ⟨htyp, rfl, rfl⟩ | ⟨htyp, rfl, hform⟩
  · simp only [State.serve, hnow, hbusy, hfree, htyp, Bool.false_eq_true, zero_ne_one, if_false]
  · simp only [State.serve, hnow, hbusy, hfree, htyp, Bool.false_eq_true, zero_ne_one, if_false]
  · simp only [State.serve, hnow, hbusy, hfree, htyp, hform, Bool.false_eq_true, zero_ne_one, if_false]

end Serve

theorem State.translateAndMake_fails {s : State} {port sl right n : Nat} {p : KPkt} {f : Fail}
    (h : s.xlate (uPort port) sl p.addr n right = .error (.err f)) :
    s.translateAndMake port sl p right n = (s.noteTry (uPort port) sl p.addr n).clientFail port p f := by
  rw [State.translateAndMake, h]

/-- The transaction of a request that is one piece. -/
def State.txnOf (s : State) (port sl : Nat) (p : KPkt) (n : Nat) : CTxn :=
  ⟨s.nextTxn, port, p, sl, 1, [], stOk, 0, 0, false, s.leafRanges (uPort port) sl p.addr n⟩

/-- A request whose access is counted and whose transaction is open. -/
def State.opened (s : State) (port sl : Nat) (p : KPkt) (n : Nat) : State :=
  let t := s.noteAccess (uPort port) sl p.addr n true
  { t with txns := t.txns ++ [s.txnOf port sl p n], nextTxn := t.nextTxn + 1 }

section OnePiece
variable {s : State} {port sl right n la : Nat} {p : KPkt} (hclear : s.threadClear port p.stream) (hnode : s.me < 0x8000) (hsetup : inSetup la = false)
include hnode hsetup hclear

/-- The one piece is made at its home, which is this ZV9. -/
theorem State.sendPart_home {u : State} (hu : s.NodeStands u) {t : CTxn} (hport : t.port = port) (hreq : t.req = p) (id : Nat) :
    u.sendPart id sl t ⟨p.addr, s.me, la, n⟩ = u.access { org := .txn id 0, op := p.part 0 n, addr := la, slice := sl, node := s.me } := by
  have hhome : u.homeFail port p s.me = none := by
    have hthread : u.thread port p.stream = s.thread port p.stream := by rw [State.thread, State.thread, hu.threads]
    obtain ⟨-, hfailed, -⟩ := hclear
    simp [State.homeFail, hthread, hfailed]
  subst hport hreq
  simp only [State.sendPart, hhome, Nat.not_le.mpr hnode, hu.me, hsetup, Nat.sub_self, if_true, if_false, Bool.false_eq_true]

theorem State.translateAndMake_made (hroom : s.bankFull la = false) (hx : s.xlate (uPort port) sl p.addr n right = .ok [⟨p.addr, s.me, la, n⟩]) :
    s.translateAndMake port sl p right n =
      (s.opened port sl p n).access { org := .txn s.nextTxn 0, op := p.part 0 n, addr := la, slice := sl, node := s.me } := by
  have hfree : ¬ ([⟨p.addr, s.me, la, n⟩] : List Piece).any (s.holdPart port p) = true := by
    simp [State.holdPart, hsetup, hroom]
  have hpart : s.partFail sl p [⟨p.addr, s.me, la, n⟩] = none := by simp [State.partFail]
  have hstands : s.NodeStands (s.opened port sl p n) := (s.noteAccess_nodeStands (uPort port) sl p.addr n true).trans ⟨rfl, rfl⟩
  have hsend := State.sendPart_home (sl := sl) (n := n) hclear hnode hsetup hstands (t := s.txnOf port sl p n) rfl rfl s.nextTxn
  rw [State.translateAndMake, hx]
  simp only [hpart, if_neg hfree]
  exact hsend

end OnePiece

/-- An access that is made ends its piece. -/
theorem State.access_txn {s u : State} {id off sl la node : Nat} {op : AccOp} {bs : List Byte} {po : Bool}
    (h : s.perform { org := .txn id off, op := op, addr := la, slice := sl, node := node } = .ok (u, bs, po)) :
    s.access { org := .txn id off, op := op, addr := la, slice := sl, node := node } = u.partDone id off u.me (.ok (bs, po)) := by
  rw [State.access, h]
  rfl

/-! ### The last piece (R347, R454) -/

/-- A transaction that one piece more was made of. -/
def CTxn.took (t : CTxn) (off : Nat) (bs : List Byte) (po : Bool) : CTxn :=
  { t with left := t.left - 1, got := t.got ++ [(off, bs)], poison := t.poison || po }

theorem State.partDone_last {s : State} {x : CTxn} (hx : s.txn x.id = some x) (hleft : x.left = 1) (off home : Nat) (bs : List Byte) (po : Bool) :
    s.partDone x.id off home (.ok (bs, po)) =
      ({ s with txns := upd s.txns (fun t => t.id == x.id) (fun _ => x.took off bs po) } : State).closeTxn (x.took off bs po) := by
  simp only [State.partDone, CTxn.took, hx, hleft, Nat.sub_self, if_true]

/-- The response to a request whose pieces were all made. -/
def CTxn.response (t : CTxn) (bytes : List Byte) : KPkt :=
  { mkKl (klRspType t.req.typ) 3 t.req.tag t.req.addr 0 bytes with
    stream := t.req.stream, status := stOk, detailKind := t.kind, detail := if t.kind = 2 then t.req.addr else t.detail, poison := t.poison }

theorem State.closeTxn_ok {s : State} {t : CTxn} {off : Nat} {bs : List Byte} (hstatus : t.status = stOk) (hup : s.klUp t.port = true)
    (hcalm : s.noAborts) (hgot : t.got = [(off, bs)]) :
    s.closeTxn t = { s with
      txns := del s.txns (fun x => x.id == t.id)
      queue := s.queue ++ [⟨12, t.port, .kl (t.response (if t.req.typ = 0x03 then [] else bs)), none⟩] } := by
  have hbytes : (sortBy (fun a b => decide (a.1 ≤ b.1)) t.got).flatMap (·.2) = bs := by
    rw [hgot]
    simp [sortBy, insertBy]
  have hsend := State.sendKl_up (s := { s with txns := del s.txns (fun x => x.id == t.id) }) hup (t.response (if t.req.typ = 0x03 then [] else bs))
  have hidle : ({ s with
      txns := del s.txns (fun x => x.id == t.id)
      queue := s.queue ++ [⟨12, t.port, .kl (t.response (if t.req.typ = 0x03 then [] else bs)), none⟩] } : State).noAborts := hcalm
  rw [State.closeTxn]
  simp only [hstatus, if_true, hbytes, State.klRespond]
  rw [← State.reapInvals_idle hidle, ← hsend]
  rfl

/-- Settles O44: a request goes through its form and its port's binding; one that need not wait is one access at its home, which ends its transaction. -/
theorem clientRequests : Obligations.ClientRequests := by
  unfold Obligations.ClientRequests
  refine fun s port p c halive hport hup hheld => ⟨fun hasks => ?_, fun x off home bs po hx hleft hgot hstatus hup hcalm => ?_⟩
  · obtain ⟨rx, links, htake⟩ := s.takeRx_only (.kl p)
    have hheld1 : (s.takeRx (.kl p)).held = [] := by rw [htake]; exact hheld
    rw [exec_clientAsks halive hasks, State.clientRequest]
    refine ⟨fun o hbad => ?_, fun hform hbound => ?_, fun sl hform hbound hbusy hmine hfailed hsync => ?_⟩
    · rw [State.fromClient_malformed hport hup hheld _ _ hbad]
      exact congrArg Host.Outcome.next (State.failTurn_none (s := (s.takeRx (.kl p)).incSatAt f_KL_PORT_ERR_MALFORMED port) hheld1 ..)
    · rw [(State.fromClient_formed hport hup hheld _ _ hform).1 hbound]
      exact congrArg Host.Outcome.next (State.failTurn_none hheld1 ..)
    · rw [(State.fromClient_formed hport hup hheld _ _ hform).2 sl hbound]
      have hclear : (s.takeRx (.kl p)).threadClear port p.stream := by rw [htake]; exact ⟨hmine, hfailed, hsync⟩
      have hbusy1 : (s.takeRx (.kl p)).fldAt f_SLC_STATUS_BUSY sl = 0 := by rw [htake]; exact hbusy
      refine ⟨fun hsync => congrArg Host.Outcome.next (State.serve_sync hheld1 hbusy1 hclear hsync.1), fun right n hneeds => ?_⟩
      have hneeds : p.needs right n := by
        rcases hneeds with ⟨⟨-, htyp⟩, h⟩ | ⟨⟨-, htyp⟩, h⟩ | ⟨⟨htyp, -⟩, h⟩
        · exact .inl ⟨htyp, h⟩
        · exact .inr (.inl ⟨htyp, h⟩)
        · exact .inr (.inr ⟨htyp, h⟩)
      dsimp only
      rw [State.serve_access hheld1 hbusy1 hclear hneeds]
      refine ⟨fun f hx => congrArg Host.Outcome.next (State.translateAndMake_fails hx), fun la u bs po hx hnode hsetup hroom hperform => ?_⟩
      have hme : (s.takeRx (.kl p)).me = s.me := by rw [htake]; rfl
      have hnext : (s.takeRx (.kl p)).nextTxn = s.nextTxn := by rw [htake]
      rw [← hme] at hx hnode hperform
      rw [← hnext] at hperform
      have hroom1 : (s.takeRx (.kl p)).bankFull la = false := by rw [htake]; exact hroom
      rw [State.translateAndMake_made hclear hnode hsetup hroom1 hx, ← hnext]
      exact congrArg Host.Outcome.next (State.access_txn hperform)
  · have hgot1 : (x.took off bs po).got = [(off, bs)] := by rw [CTxn.took, hgot]; rfl
    have hclose := State.closeTxn_ok (s := { s with txns := upd s.txns (fun t => t.id == x.id) (fun _ => x.took off bs po) }) (t := x.took off bs po)
      hstatus hup hcalm hgot1
    rw [State.partDone_last hx hleft, hclose]
    exact ⟨_, _, rfl, rfl, rfl, rfl, rfl, rfl, rfl, rfl, rfl, find?_del_same .., rfl, rfl⟩

end Sys2Proof.Machine

/-! Coherent requests (R382, R384): a client at a port whose register is an observation counter, which the grant itself brings down. -/

namespace Sys2Proof.Machine

/-- A client at a port whose `KL_PORT` would lie where counter 0 lies; the counter counts grants and reads as a port that is up. No one holds a line. -/
def countedState : State :=
  let s := { State.reset with resetHeld := false, porHeld := false, pwrok := true }
  ((((((s.setFld f_AS_SCRATCH_LIMIT_LEN 0x10000).setFldAt f_KL_PORT_STATE 0x1C060 2).setFld f_OBS_SEL_ENABLE 1).setFld f_OBS_SEL_KIND 6).setFld
    f_OBS_SEL_EVENT 2).setFld f_OBS_SEL_SLICE 0xFF).setFld f_OBS_SEL_INSTANCE 0xFFF

/-- A request of that client for the line at address 0. -/
def strayRdS : Req := .client 0x1C060 (mkKl 0x10 0 7 0 0 [])

/-- The line's bytes, all zero. -/
def zeroLine : Got := ⟨List.replicate 64 0#8, none⟩

theorem countedState_ready : countedState.alive = true ∧ countedState.fld f_SCR_CTL_ENABLE = 0 ∧ countedState.entry 0 = none ∧
    countedState.takeWay 0 = some 0 ∧ countedState.klUp 0x1C060 = true := by decide +kernel

theorem countedState_calm : countedState.noSweeps := ⟨rfl, rfl, rfl⟩

theorem countedState_reads : countedState.judge { node := 0, slice := 0, client := true } 0 64 false = .ok () ∧
    countedState.rawPiece 0 64 = .ok zeroLine := ⟨rfl, rfl⟩

/-- Counting the grant has made the port read as down: nothing is sent. -/
theorem countedState_unanswered : (countedState.homeCoh strayRdS 0 0 0 0x10 0xFFFFFFFF).queue = [] := by decide +kernel

/-- Refutes O45: nothing bounds the port of the client, and for a port with `KL_PORT` at 0x190300 the counter that counts the grant brings the port down
before the line's bytes leave. A client's request comes from a port below 4. -/
theorem not_reeveRequests : ¬ Obligations.ReeveRequests := by
  unfold Obligations.ReeveRequests
  intro h
  obtain ⟨halive, hscr, hnone, hway, hup⟩ := countedState_ready
  obtain ⟨hjudge, hraw⟩ := countedState_reads
  obtain ⟨-, -, hhome⟩ := h countedState halive
  obtain ⟨hgrant, -, -⟩ := hhome strayRdS 0 0 0 0x10 zeroLine (by decide) hscr countedState_calm rfl rfl hjudge hraw
  obtain ⟨-, -, -, hanswer⟩ := hgrant 0 hnone hway
  have hqueue := hanswer 0x1C060 _ rfl hup
  rw [countedState_unanswered] at hqueue
  exact absurd hqueue.symm (List.append_ne_nil_of_right_ne_nil _ (List.cons_ne_nil _ _))

end Sys2Proof.Machine

/-! Lines and their entries (R373, R376, R382), and what a grant, a sample and an answer leave of the directory. -/

namespace Sys2Proof.Machine

/-! ### Entries of lines -/

theorem State.entry_line {s : State} {line : Nat} {e : DirEntry} (h : s.entry line = some e) : e.line = line := by
  simpa using List.find?_some h

theorem State.entry_congr {s t : State} (h : t.dir = s.dir) (l : Nat) : t.entry l = s.entry l := by
  rw [State.entry, State.entry, h]

theorem State.otherLines_of_eq {s t : State} (h : t.dir = s.dir) (line : Nat) : s.OtherLines t line := fun l _ => State.entry_congr h l

theorem State.OtherLines.trans {s t u : State} {line : Nat} (h : s.OtherLines t line) (h' : t.OtherLines u line) : s.OtherLines u line :=
  fun l hl => (h' l hl).trans (h l hl)

/-- A line that has an entry has the one that is put in its place. -/
theorem State.entry_setEntry {s : State} {e0 e : DirEntry} (h : s.entry e.line = some e0) : (s.setEntry e).entry e.line = some e := by
  have hput := find?_upd_const s.dir (p := fun x => x.line == e.line) (q := e) (by simp)
  rw [State.entry] at h
  rw [h] at hput
  exact hput

theorem State.setEntry_otherLines (s : State) (e : DirEntry) : s.OtherLines (s.setEntry e) e.line := fun l hl =>
  find?_upd_const_other s.dir (by simpa using Ne.symm hl) fun x hx => by
    rw [beq_iff_eq] at hx
    simpa [hx] using Ne.symm hl

theorem State.entry_dropEntry (s : State) (line : Nat) : (s.dropEntry line).entry line = none := find?_del_same ..

theorem State.dropEntry_otherLines (s : State) (line : Nat) : s.OtherLines (s.dropEntry line) line := fun l hl =>
  find?_del_other s.dir fun x hx => by
    rw [beq_iff_eq] at hx
    simpa [hx] using hl

@[simp] theorem DirEntry.addSharer_line (e : DirEntry) (c : Nat × Nat) : (e.addSharer c).line = e.line := by
  unfold DirEntry.addSharer
  split
  · rfl
  · split
    · rfl
    · split <;> rfl

/-- The end of a hold changes the state of an entry alone, and starts or ends no wait. -/
theorem DirEntry.release_keeps (e : DirEntry) : e.release.ptrs = e.ptrs ∧ e.release.transient = e.transient := by
  obtain ⟨line, way, state, coarse, ptrs, groups, hold, nru, awaiting, asked, cause⟩ := e
  cases state <;> exact ⟨rfl, rfl⟩

/-- An entry as its bank finds it is the line's entry, with the holders and the wait of that. -/
theorem State.examine_keeps {s : State} {line : Nat} {e : DirEntry} (h : s.examine line = some e) :
    ∃ e0, s.entry line = some e0 ∧ e.ptrs = e0.ptrs ∧ e.transient = e0.transient := by
  obtain ⟨e0, h0, rfl⟩ := Option.map_eq_some_iff.mp h
  refine ⟨e0, h0, ?_⟩
  split
  · exact e0.release_keeps
  · exact ⟨rfl, rfl⟩

/-! ### What stands of the directory -/

/-- The directory, the messages that wait for answer space, and the revoke under way stand as they were. -/
structure State.DirStands (s t : State) : Prop where
  dir : t.dir = s.dir
  asks : t.asks = s.asks
  revoking : t.revoking = s.revoking

theorem State.DirStands.refl (s : State) : s.DirStands s := ⟨rfl, rfl, rfl⟩

theorem State.DirStands.trans {s t u : State} (h : s.DirStands t) (h' : t.DirStands u) : s.DirStands u :=
  ⟨h'.dir.trans h.dir, h'.asks.trans h.asks, h'.revoking.trans h.revoking⟩

theorem State.DirStands.ite {s t u : State} {c : Prop} [Decidable c] (ht : s.DirStands t) (hu : s.DirStands u) : s.DirStands (if c then t else u) := by
  split
  · exact ht
  · exact hu

theorem State.DirStands.setFld {s t : State} (h : s.DirStands t) (f : Fld) (v : Nat) : s.DirStands (t.setFld f v) := ⟨h.dir, h.asks, h.revoking⟩

theorem State.recordWrite_dirStands (s : State) (a : Nat) (bs : List Byte) : s.DirStands (s.recordWrite a bs) := .ite ⟨rfl, rfl, rfl⟩ ⟨rfl, rfl, rfl⟩

theorem State.scrGap_dirStands (s : State) : s.DirStands s.scrGap.1 := by
  unfold State.scrGap
  dsimp only
  split <;> exact ⟨rfl, rfl, rfl⟩

/-- A sample of Scrivener is a record in memory. -/
theorem State.scriv_dirStands (s : State) (point slice source since addr a b : Nat) : s.DirStands (s.scriv point slice source since addr a b) := by
  unfold State.scriv
  extract_lets c s1 jit n
  have h1 : s.DirStands s1 := ⟨rfl, rfl, rfl⟩
  have hgap : s.DirStands (if jit then s1.scrGap else (s1, n)).1 := by
    split
    · exact h1.trans s1.scrGap_dirStands
    · exact h1
  generalize (if jit then s1.scrGap else (s1, n)) = g at hgap ⊢
  have h4 {next seq last} : s.DirStands { g.1 with scrNext := next, scrSeq := seq, scrLast := last } := hgap.trans ⟨rfl, rfl, rfl⟩
  exact .ite (.refl s) (.ite h1 (.ite (h4.setFld _ _) (.ite (h4.setFld _ _) ((h4.trans (State.recordWrite_dirStands ..)).setFld _ _))))

/-- An answer to a coherent request is a packet on its way. -/
theorem State.answer_only (s : State) (r : Req) (typ aux : Nat) (payload : List Byte) (poison : Bool) :
    ∃ queue, s.answer r typ aux payload poison = { s with queue := queue } := by
  cases r with
  | client port p => exact ⟨_, State.sendKl_only ..⟩
  | peer p => exact ⟨_, State.sendQf_only ..⟩

/-- A grant is counted and answered (R382, R398). -/
theorem State.grant_only (s : State) (r : Req) (line typ : Nat) : ∃ regs queue, s.grant r line typ = { s with regs := regs, queue := queue } ∧
    (s.grant r line typ).fld f_SCR_CTL_ENABLE = s.fld f_SCR_CTL_ENABLE := by
  set s1 := (s.addWrap f_REEVE_GRANTS_GRANTS 1).obs 6 (bank (64 * line)) 2 0xFF 1 with h1
  have hregs : s1 = { s with regs := s1.regs } := by
    rw [h1, State.obs_only]
    rfl
  have hscr : s1.fld f_SCR_CTL_ENABLE = s.fld f_SCR_CTL_ENABLE := by
    have hword : s1.word (f_SCR_CTL_ENABLE.addr 0) = (s.addWrap f_REEVE_GRANTS_GRANTS 1).word (f_SCR_CTL_ENABLE.addr 0) :=
      (State.obs_onlyWords (s.addWrap f_REEVE_GRANTS_GRANTS 1) 6 (bank (64 * line)) 2 0xFF 1).2 _ (by decide)
    exact congrArg f_SCR_CTL_ENABLE.get (hword.trans (State.word_addWrap_ne _ _ _ (by decide)))
  have hanswer (aux : Nat) (payload : List Byte) (poison : Bool) : ∃ regs queue,
      s1.answer r typ aux payload poison = { s with regs := regs, queue := queue } ∧
        (s1.answer r typ aux payload poison).fld f_SCR_CTL_ENABLE = s.fld f_SCR_CTL_ENABLE := by
    obtain ⟨queue, hq⟩ := s1.answer_only r typ aux payload poison
    rw [hq]
    exact ⟨s1.regs, queue, by rw [hregs], hscr⟩
  unfold State.grant
  rw [← h1]
  dsimp only
  split
  · exact hanswer ..
  · split <;> exact hanswer ..

/-- A request that is granted and sampled: no line changes, and memory only by the sample. -/
theorem State.granted_dirStands (s : State) (r : Req) (line typ before : Nat) : s.DirStands ((s.grant r line typ).cohSample r line before) ∧
    (s.fld f_SCR_CTL_ENABLE = 0 → ((s.grant r line typ).cohSample r line before).mem = s.mem) := by
  obtain ⟨regs, queue, hgrant, hscr⟩ := s.grant_only r line typ
  refine ⟨State.DirStands.trans (t := s.grant r line typ) ?_ (State.scriv_dirStands ..), fun h => ?_⟩
  · rw [hgrant]
    exact ⟨rfl, rfl, rfl⟩
  · rw [State.cohSample, State.scriv_off (hscr.trans h), hgrant]

/-- No message waits for answer space, so none is sent. -/
theorem State.pumpAsks_idle {s : State} (h : s.asks = []) : s.pumpAsks = s := by
  have hclean {l : List (Nat × Nat × (Nat × Nat))} (hl : l = s.asks) : ({ s with asks := l } : State) = s := by rw [hl]
  rw [State.pumpAsks, h]
  exact hclean h.symm

theorem State.reapRevoke_idle {s : State} (h : s.revoking = none) : s.reapRevoke = s := by
  rw [State.reapRevoke, h]

end Sys2Proof.Machine

/-! Bytes that are stored while answers are awaited (R382): a write looks at no recall, and changes none. -/

namespace Sys2Proof.Machine

/-- The same state with other recalls, round trips and messages that wait. -/
def State.withAsks (s : State) (recalls : List (Nat × (Nat × Nat) × Nat)) (trips : List (Nat × List Nat))
    (asks : List (Nat × Nat × (Nat × Nat))) : State :=
  { s with recalls := recalls, trips := trips, asks := asks }

/-- A frame that was taken for a tile comes into its map and is written. -/
def State.writeNew (s : State) (t : TRef) (id off : Nat) (bs : List Byte) (po : Bool) : Res State :=
  match (s.setTileFrame t id).frame id with
  | some f => (s.setTileFrame t id).writeFrame f off bs po
  | none => .ok (s.setTileFrame t id)

/-- A frame of a tier is taken for a tile without one. -/
def State.tileNew (s : State) (t : TRef) (tier port : Nat) : State :=
  ({ s with zeroed := s.zeroed.filter (fun x => x != t) }.newFrame (s.tileOwner t) tier port [] []
    (if s.zeroed.contains t then some { noCache with valid := BitVec.allOnes 16 } else none)).1

/-! ### Each step of a write is the same beside other recalls -/

section Unasked
variable (s : State) (rc : List (Nat × (Nat × Nat) × Nat)) (tr : List (Nat × List Nat)) (ak : List (Nat × Nat × (Nat × Nat)))

theorem State.cacheRoom_withAsks : (s.withAsks rc tr ak).cacheRoom = s.cacheRoom.map (·.withAsks rc tr ak) := by
  have hused : (s.withAsks rc tr ak).cacheUsed = s.cacheUsed := rfl
  have hframes : (s.withAsks rc tr ak).cacheFrames = s.cacheFrames := rfl
  have hzeroed : (s.withAsks rc tr ak).zeroed = s.zeroed := rfl
  rw [State.cacheRoom, State.cacheRoom, hused, hframes, hzeroed]
  split
  · rfl
  · cases s.zeroed with
    | nil =>
      simp only [Option.map_map]
      rfl
    | cons x rest => rfl

theorem State.writeFrame_withAsks (f : Frame) (off : Nat) (bs : List Byte) (po : Bool) :
    (s.withAsks rc tr ak).writeFrame f off bs po = (s.writeFrame f off bs po).map (·.withAsks rc tr ak) := by
  have haddr : (s.withAsks rc tr ak).frameAddr f.id = s.frameAddr f.id := rfl
  have hroom : (if f.cache.isSome then some (s.withAsks rc tr ak) else (s.withAsks rc tr ak).cacheRoom) =
      (if f.cache.isSome then some s else s.cacheRoom).map (·.withAsks rc tr ak) := by
    rw [State.cacheRoom_withAsks]
    split <;> rfl
  rw [State.writeFrame, State.writeFrame, haddr, hroom]
  generalize (if f.cache.isSome then some s else s.cacheRoom) = room
  split
  · rfl
  · dsimp only
    split
    · cases room <;> rfl
    · cases f.lost with
      | some st => rfl
      | none =>
        dsimp only
        split
        · rfl
        · cases room <;> rfl

theorem State.copyFrame_withAsks (owner : Nat) (f : Frame) :
    (s.withAsks rc tr ak).copyFrame owner f = (s.copyFrame owner f).map (fun x => (x.1.withAsks rc tr ak, x.2)) := by
  have haddr : (s.withAsks rc tr ak).frameAddr f.id = s.frameAddr f.id := rfl
  have halloc : (s.withAsks rc tr ak).mayAlloc owner f.tier f.port 1 = s.mayAlloc owner f.tier f.port 1 := rfl
  have hlacking : (s.withAsks rc tr ak).lacking owner f.tier f.port 1 = s.lacking owner f.tier f.port 1 := rfl
  rw [State.copyFrame, State.copyFrame, haddr, halloc, hlacking, State.cacheRoom_withAsks]
  split
  · rfl
  · split
    · rfl
    · dsimp only
      split
      · cases s.cacheRoom <;> rfl
      · cases f.lost with
        | some st => rfl
        | none => rfl

theorem State.writeNew_withAsks (t : TRef) (id off : Nat) (bs : List Byte) (po : Bool) :
    (s.withAsks rc tr ak).writeNew t id off bs po = (s.writeNew t id off bs po).map (·.withAsks rc tr ak) := by
  have htile : (s.withAsks rc tr ak).setTileFrame t id = (s.setTileFrame t id).withAsks rc tr ak := by cases t <;> rfl
  have hframe : ((s.setTileFrame t id).withAsks rc tr ak).frame id = (s.setTileFrame t id).frame id := rfl
  rw [State.writeNew, State.writeNew, htile, hframe]
  cases (s.setTileFrame t id).frame id with
  | none => rfl
  | some f => exact State.writeFrame_withAsks ..

theorem State.writeTile_withAsks (t : TRef) (off : Nat) (bs : List Byte) (po : Bool) :
    (s.withAsks rc tr ak).writeTile t off bs po = (s.writeTile t off bs po).map (·.withAsks rc tr ak) := by
  have hframe : (s.withAsks rc tr ak).tileFrame t = s.tileFrame t := rfl
  have htarget : (s.withAsks rc tr ak).tileTarget t = s.tileTarget t := rfl
  have howner : (s.withAsks rc tr ak).tileOwner t = s.tileOwner t := rfl
  rw [State.writeTile, State.writeTile, hframe, htarget, howner]
  cases s.tileFrame t with
  | none =>
    obtain ⟨tier, port⟩ := s.tileTarget t
    have halloc : (s.withAsks rc tr ak).mayAlloc (s.tileOwner t) tier port 1 = s.mayAlloc (s.tileOwner t) tier port 1 := rfl
    have hlacking : (s.withAsks rc tr ak).lacking (s.tileOwner t) tier port 1 = s.lacking (s.tileOwner t) tier port 1 := rfl
    have hwait : (s.withAsks rc tr ak).mediaWait = s.mediaWait := rfl
    dsimp only
    rw [halloc, hlacking, hwait]
    split
    · rfl
    · split
      · rfl
      · exact State.writeNew_withAsks (s.tileNew t tier port) rc tr ak t s.nextFrame off bs po
  | some f =>
    have hdescs : (s.withAsks rc tr ak).descs = s.descs := rfl
    have hshared : (s.withAsks rc tr ak).sharedFrame f.id = s.sharedFrame f.id := rfl
    dsimp only
    rw [hdescs, hshared, State.copyFrame_withAsks]
    split
    · rfl
    · split
      · cases s.copyFrame (s.tileOwner t) f with
        | error e => rfl
        | ok x => exact State.writeNew_withAsks x.1 rc tr ak t x.2 off bs po
      · exact State.writeFrame_withAsks ..

/-- Bytes are written at the home in the same way whatever is asked of holders. -/
theorem State.rawWrite_withAsks (a : Nat) (bs : List Byte) (po : Bool) :
    (s.withAsks rc tr ak).rawWrite a bs po = (s.rawWrite a bs po).map (·.withAsks rc tr ak) := by
  have hplace : (s.withAsks rc tr ak).placeOf a = s.placeOf a := rfl
  rw [State.rawWrite, State.rawWrite, hplace]
  cases s.placeOf a with
  | scratch | direct => cases po <;> rfl
  | tile t => exact State.writeTile_withAsks ..
  | table | setup | none => rfl

end Unasked

end Sys2Proof.Machine

/-! Answers of holders, and lines that owners give up (R380, R382, R390). -/

namespace Sys2Proof.Machine

/-! ### The bytes that an answer brings (R382) -/

/-- The bytes that come with an answer or a `WB` are stored. -/
def State.storeBrought (s : State) (line : Nat) (data : Option (List Byte × Bool)) : State :=
  match data with
  | some (bs, po) => s.storeLine line bs po
  | none => s

/-- The state after the bytes of a packet of type `typ` are written; only `full` carries any. -/
def State.wroteBrought (s u : State) (line typ full : Nat) (bs : List Byte) (po : Bool) : Prop :=
  if typ = full then s.rawWrite (64 * line) bs po = .ok u else u = s

theorem State.storeLine_written {s u : State} {line : Nat} {bs : List Byte} {po : Bool} (h : s.rawWrite (64 * line) bs po = .ok u) :
    s.storeLine line bs po = u := by
  rw [State.storeLine, h]

theorem State.wroteBrought.stored {s u : State} {line typ full : Nat} {bs : List Byte} {po : Bool} (h : s.wroteBrought u line typ full bs po) :
    s.storeBrought line (if typ = full then some (bs, po) else none) = u := by
  unfold State.wroteBrought at h
  split at h
  · rw [if_pos ‹_›]
    exact State.storeLine_written h
  · rw [if_neg ‹_›, h]
    rfl

/-- The write is the same whatever recalls are under way. -/
theorem State.wroteBrought.withAsks {s u : State} {line typ full : Nat} {bs : List Byte} {po : Bool} (h : s.wroteBrought u line typ full bs po)
    (rc : List (Nat × (Nat × Nat) × Nat)) (tr : List (Nat × List Nat)) (ak : List (Nat × Nat × (Nat × Nat))) :
    (s.withAsks rc tr ak).wroteBrought (u.withAsks rc tr ak) line typ full bs po := by
  unfold State.wroteBrought at h ⊢
  split at h
  · rw [if_pos ‹_›, State.rawWrite_withAsks, h]
    rfl
  · rw [if_neg ‹_›, h]

/-! ### The last answer (R382) -/

/-- The entry once its one awaited holder has answered; `RECALL_S` alone leaves that holder its copy. -/
def DirEntry.heard (e : DirEntry) (h : Nat × Nat) : DirEntry :=
  { e with awaiting := [], ptrs := if e.asked = 0x14 then e.ptrs else e.ptrs.filter (fun x => x != h) }

/-- The entry of a line whose request is granted after every answer: the requester is a sharer beside the holders, or its owner. -/
def State.settledEntry (s : State) (line : Nat) (e : DirEntry) (c : Nat × Nat) (shared : Bool) : DirEntry :=
  if shared then ({ e with state := .sHeld, coarse := false, holdUntil := s.now + s.tHold, nru := true, asked := 0, cause := .none } : DirEntry).addSharer c
  else s.ownedEntry line e.way c

theorem State.settledEntry_line (s : State) {line : Nat} {e : DirEntry} (h : e.line = line) (c : Nat × Nat) (shared : Bool) :
    (s.settledEntry line e c shared).line = line := by
  cases shared
  · rfl
  · rw [State.settledEntry, if_pos rfl, DirEntry.addSharer_line]
    exact h

section Settle
variable {s : State} {line n k : Nat} {e : DirEntry} {q : Req} {upg shared : Bool} (hentry : s.entry line = some e) (hdone : e.awaiting = [])
  (hwaits : e.transient = true) (hcause : e.cause = .req q n k upg shared)
include hentry hdone hwaits hcause

/-- A line whose last answer is in is granted to the one that waits for it. -/
theorem State.settle_grants : ∃ typ, s.settle line =
    ((s.setEntry (s.settledEntry line e (n, k) shared)).grant q line typ).cohSample q line e.state.code := by
  have hopen : ¬ (e.awaiting ≠ [] ∨ (!e.transient) = true) := by simp [hdone, hwaits]
  cases shared
  · exact ⟨if upg then 0x1B else 0x19, by simp only [State.settle, hentry, if_neg hopen, hcause, State.settledEntry, Bool.false_eq_true, if_false]⟩
  · exact ⟨0x18, by simp only [State.settle, hentry, if_neg hopen, hcause, State.settledEntry, if_true]⟩

theorem State.settle_granted : (s.settle line).entry line = some (s.settledEntry line e (n, k) shared) ∧ s.OtherLines (s.settle line) line ∧
    (s.settle line).asks = s.asks ∧ (s.settle line).revoking = s.revoking ∧ (s.fld f_SCR_CTL_ENABLE = 0 → (s.settle line).mem = s.mem) := by
  obtain ⟨typ, hsettle⟩ := State.settle_grants hentry hdone hwaits hcause
  have hline := s.settledEntry_line (State.entry_line hentry) (n, k) shared
  obtain ⟨hdir, hmem⟩ := (s.setEntry (s.settledEntry line e (n, k) shared)).granted_dirStands q line typ e.state.code
  rw [← hsettle] at hdir hmem
  refine ⟨?_, ?_, hdir.asks, hdir.revoking, hmem⟩
  · have hput := State.entry_setEntry (e := s.settledEntry line e (n, k) shared) (by rw [hline]; exact hentry)
    rw [hline] at hput
    exact (State.entry_congr hdir.dir line).trans hput
  · have hother := s.setEntry_otherLines (s.settledEntry line e (n, k) shared)
    rw [hline] at hother
    exact hother.trans (State.otherLines_of_eq hdir.dir line)

end Settle

/-- What stands once the one awaited holder has answered and the bytes that it brought are stored in `u`, before the line is settled. -/
def State.heardBy (u : State) (line : Nat) (e : DirEntry) (h : Nat × Nat) : State :=
  { u.setEntry (e.heard h) with recalls := del u.recalls (fun x => x.1 == line && x.2.1 == h) }

section LastAnswer
variable {s : State} {line typ : Nat} {e : DirEntry} {h : Nat × Nat} {bs : List Byte} {po : Bool} (hentry : s.entry line = some e)
  (hawaits : e.awaiting = [h])
include hentry hawaits

/-- The one awaited answer, which is not poisoned, settles the line. -/
theorem State.answered_last (data : Option (List Byte × Bool)) :
    s.answered line h data false (e.asked != 0x14) = (((s.storeBrought line data).heardBy line e h).settle line).pumpAsks := by
  have hcontains : (!e.awaiting.contains h) = false := by simp [hawaits]
  have hheard : ({ e with
      awaiting := e.awaiting.filter (fun x => x != h)
      ptrs := if (e.asked != 0x14) = true then e.ptrs.filter (fun x => x != h) else e.ptrs } : DirEntry) = e.heard h := by
    by_cases hasked : e.asked = 0x14 <;> simp [DirEntry.heard, hawaits, hasked]
  simp only [State.answered, hentry, hcontains, hheard, Bool.false_and, Bool.false_eq_true, if_false]
  cases data <;> rfl

/-- The home takes the answer that it waits for: of the type that it asked for, and a recall's one without poison. -/
theorem State.holderAnswer_last (hsweeps : s.sweeps = []) (hasked : typ = 0x1D ↔ e.asked = 0x13) (hclean : typ = 0x1E → po = false) :
    ∃ rc tr, s.holderAnswer line h typ bs po =
      some ((s.withAsks rc tr s.asks).answered line h (if typ = 0x1F then some (bs, po) else none) false (e.asked != 0x14)).reapRevoke := by
  have hpoison : (typ == 0x1E && po) = false := by
    by_cases htyp : typ = 0x1E <;> simp [htyp, hclean]
  have hfits : (!e.awaiting.contains h || (typ == 0x1D) != (e.asked == 0x13)) = false := by
    have htyp : (typ == 0x1D) = (e.asked == 0x13) := by rw [Bool.eq_iff_iff, beq_iff_eq, beq_iff_eq, hasked]
    simp [hawaits, htyp]
  have htrip : ∃ rc tr, (if typ = 0x1D then s else s.noteTrip line h) = s.withAsks rc tr s.asks := by
    split
    · exact ⟨s.recalls, s.trips, rfl⟩
    · unfold State.noteTrip
      split
      · exact ⟨s.recalls, s.trips, rfl⟩
      · exact ⟨_, _, rfl⟩
  obtain ⟨rc, tr, htrip⟩ := htrip
  refine ⟨rc, tr, ?_⟩
  simp only [State.holderAnswer, htrip, hsweeps, List.any_nil, hentry, hfits, hpoison, Bool.false_eq_true, if_false, Bool.not_false, Bool.and_true]
  rfl

end LastAnswer

/-- The line of a request that waited for one holder goes to the requester; the bytes that the answer brought are stored first. -/
theorem State.holderAnswer_settles {s u : State} {line typ n k : Nat} {e : DirEntry} {h : Nat × Nat} {bs : List Byte} {po : Bool} {q : Req}
    {upg shared : Bool} (hentry : s.entry line = some e) (hawaits : e.awaiting = [h]) (hcalm : s.noSweeps) (hwaits : e.transient = true)
    (hasked : typ = 0x1D ↔ e.asked = 0x13) (hclean : typ = 0x1E → po = false) (hcause : e.cause = .req q n k upg shared)
    (hwrote : s.wroteBrought u line typ 0x1F bs po) (hdir : u.dir = s.dir) (hrevoke : u.revoking = none) :
    ∃ t, s.holderAnswer line h typ bs po = some t ∧ u.OtherLines t line ∧ (u.fld f_SCR_CTL_ENABLE = 0 → t.mem = u.mem) ∧
      t.entry line = some (u.settledEntry line (e.heard h) (n, k) shared) := by
  obtain ⟨hsweeps, -, hasks⟩ := hcalm
  obtain ⟨rc, tr, htaken⟩ := State.holderAnswer_last (bs := bs) hentry hawaits hsweeps hasked hclean
  set s1 := s.withAsks rc tr s.asks
  set u1 := u.withAsks rc tr s.asks
  set x := u1.heardBy line e h with hx
  have hline : (e.heard h).line = line := (State.entry_line hentry : e.line = line)
  have hu1 : u1.entry line = some e := (State.entry_congr hdir line).trans hentry
  have hxentry : x.entry line = some (e.heard h) := by
    have hput := State.entry_setEntry (s := u1) (e := e.heard h) (by rw [hline]; exact hu1)
    rw [hline] at hput
    exact hput
  have hxother : u.OtherLines x line := by
    have hother := u1.setEntry_otherLines (e.heard h)
    rw [hline] at hother
    exact hother
  obtain ⟨hset, hother, htasks, htrevoke, hmem⟩ := State.settle_granted hxentry rfl hwaits hcause
  have hidle : ((x.settle line).pumpAsks).reapRevoke = x.settle line := by
    rw [State.pumpAsks_idle (htasks.trans hasks), State.reapRevoke_idle (htrevoke.trans hrevoke)]
  refine ⟨x.settle line, ?_, hxother.trans hother, hmem, hset⟩
  rw [htaken, State.answered_last (s := s1) hentry hawaits, (hwrote.withAsks rc tr s.asks).stored, ← hx, hidle]

/-! ### Answers of clients and of other ZV9s (R380) -/

/-- The packet of a request or an answer is taken. -/
def State.taken (s : State) : Req → State
  | .peer p => s.takeRx (.qf p)
  | .client _ p => s.takeRx (.kl p)

theorem State.taken_only (s : State) (r : Req) : ∃ rx links, s.taken r = { s with rx := rx, links := links } := by
  cases r <;> exact State.takeRx_only ..

/-- The line of this home that an answer names: another ZV9 names it by its local address, a client by its global one (log 46). -/
def Req.answerLine : Req → Nat
  | .peer p => p.addr / 64
  | .client _ p => p.addr % 2 ^ 50 / 64

/-- An answer of good form of type `typ` for a line of this home, with its bytes. -/
def State.answerForm (s : State) (typ : Nat) (data : List Byte) (po : Bool) : Req → Prop
  | .peer p => p.typ = typ ∧ p.dest = s.me ∧ p.rsvd = 0 ∧ p.tc = 1 ∧ p.payload.length = (if typ = 0x1F ∨ typ = 0x20 then 64 else 0) ∧
      p.payload = data ∧ p.poison = po
  | .client port p => p.typ = typ ∧ port < 4 ∧ s.klUp port = true ∧ p.rsvd = none ∧ p.tc = 1 ∧ p.lenOk = true ∧
      p.payload = data ∧ p.poison = po ∧ p.addr / 2 ^ 50 = s.me

/-- An answer that is awaited does what the home does with it. -/
theorem State.cohAnswer_awaited {s t : State} {r : Req} {typ : Nat} {data : List Byte} {po : Bool} (hform : s.answerForm typ data po r)
    (hkind : typ ≠ 0x20) (h : (s.taken r).holderAnswer r.answerLine (s.who r) typ data po = some t) : s.cohAnswer typ r = t := by
  obtain ⟨rx, links, htaken⟩ := s.taken_only r
  cases r with
  | peer p =>
    obtain ⟨htyp, hdest, hrsvd, htc, hlen, rfl, rfl⟩ := hform
    have hgood : ¬ (p.rsvd ≠ 0 ∨ p.tc ≠ 1 ∨ p.payload.length ≠ (if typ = 0x1F then 64 else 0)) := by simp [hrsvd, htc, hlen, hkind]
    have hhome : (s.takeRx (.qf p)).holderAnswer (p.addr / 64) ((s.takeRx (.qf p)).who (.peer p)) typ p.payload p.poison = some t := h
    have htyp1 : ¬ (Req.peer p).typ ≠ typ := not_not.mpr htyp
    simp only [State.cohAnswer, if_neg htyp1, if_neg (not_not.mpr hdest), if_neg hgood, hhome, Option.getD_some]
  | client port p =>
    obtain ⟨htyp, hport, hup, hrsvd, htc, hlen, rfl, rfl, hnode⟩ := hform
    have hopen : ¬ (4 ≤ port ∨ !s.klUp port) := by simp [hport, hup]
    have hgood : ¬ (p.rsvd.isSome ∨ p.tc ≠ 1 ∨ !p.lenOk) := by simp [hrsvd, htc, hlen]
    have hme : (s.takeRx (.kl p)).me = s.me := by rw [show s.takeRx (.kl p) = _ from htaken]; rfl
    have hhome : (s.takeRx (.kl p)).holderAnswer (p.addr % 2 ^ 50 / 64) (s.me, port) typ p.payload p.poison = some t := h
    have htyp1 : ¬ (Req.client port p).typ ≠ typ := not_not.mpr htyp
    simp only [State.cohAnswer, if_neg htyp1, if_neg hopen, if_neg hgood, hnode, hme, if_true, hhome, Option.getD_some]

/-- Which command takes an answer. -/
theorem exec_cohAnswer {s : State} {c : Instr} {r : Req} {typ : Nat} (halive : s.alive = true)
    (hc : c = .invAck r ∧ typ = 0x1D ∨ c = .recallAck r ∧ typ = 0x1E ∨ c = .recallData r ∧ typ = 0x1F) : exec c s = .next (s.cohAnswer typ r) := by
  rcases hc with ⟨rfl, rfl⟩ | ⟨rfl, rfl⟩ | ⟨rfl, rfl⟩
  · change execInvAck r s = _
    rw [execInvAck, State.whenAlive_alive halive]
  · change execRecallAck r s = _
    rw [execRecallAck, State.whenAlive_alive halive]
  · change execRecallData r s = _
    rw [execRecallData, State.whenAlive_alive halive]

/-! ### Lines that owners give up (R382, R390) -/

/-- A line whose holders are all on live nodes is found as it is (R389). -/
theorem State.freshen_reached {s : State} {line : Nat} (h : ∀ e, s.entry line = some e → e.ptrs.any s.lostHolder = false) : s.freshen line = s := by
  unfold State.freshen
  split
  · rfl
  · rename_i e he
    rw [if_pos (by simp [h e he])]

/-- An owner, as its bank finds it, gives its line up: what it brings is stored, and no one holds the line. -/
theorem State.homeWb_owner {s : State} {r : Req} {line : Nat} {e : DirEntry} (hsweeps : s.sweeps = []) (hfound : s.examine line = some e)
    (howned : e.state = .x ∨ e.state = .xHeld) (hptrs : e.ptrs = [s.who r]) (hlost : s.lostHolder (s.who r) = false)
    (data : Option (List Byte × Bool)) :
    s.homeWb r line data = (((s.storeBrought line data).dropEntry line).answer r 0x22 0 [] false).reapRevoke := by
  obtain ⟨e0, h0, hptrs0, -⟩ := State.examine_keeps hfound
  have hfresh : s.freshen line = s := State.freshen_reached fun e1 h1 => by
    obtain rfl := Option.some.inj (h0.symm.trans h1)
    simp [← hptrs0, hptrs, hlost]
  have hsweeping : s.sweeping line = false := by simp [State.sweeping, hsweeps]
  have howner : (e.owner == some (s.who r)) = true := by
    rcases howned with h | h <;> simp [DirEntry.owner, h, hptrs]
  have hstable : e.transient = false := by
    rcases howned with h | h <;> simp [DirEntry.transient, h]
  simp only [State.homeWb, hfresh, hsweeping, hfound, Option.filter_some, howner, hstable, if_true, Bool.false_eq_true, if_false]
  cases data <;> rfl

/-- A line that no one holds is given up by one that does not own it: that is counted. -/
theorem State.homeWb_stale {s : State} {line : Nat} (hsweeps : s.sweeps = []) (hnone : s.entry line = none) (r : Req)
    (data : Option (List Byte × Bool)) : s.homeWb r line data = (s.incSat f_REEVE_ERR_STALE_WB).answer r 0x22 0 [] false := by
  have hfresh : s.freshen line = s := State.freshen_reached fun e he => by simp [hnone] at he
  have hsweeping : s.sweeping line = false := by simp [State.sweeping, hsweeps]
  simp [State.homeWb, hfresh, hsweeping, State.examine, hnone]

/-- A `WB` or `PUT` of another ZV9 reaches its home. -/
theorem exec_giveUp_admitted {s : State} {c : Instr} {p : QPkt} {typ : Nat} {data : List Byte} {po : Bool} (halive : s.alive = true)
    (hc : c = .wb (.peer p) ∧ typ = 0x20 ∨ c = .put (.peer p) ∧ typ = 0x21) (hform : s.answerForm typ data po (.peer p)) (haux : p.aux = 0)
    (hadmits : (s.takeRx (.qf p)).admits p 1) :
    exec c s = .next ((s.takeRx (.qf p)).homeWb (.peer p) (p.addr / 64) (if typ = 0x20 then some (data, po) else none)) := by
  obtain ⟨htyp, hdest, -, -, hlen, rfl, rfl⟩ := hform
  have hgive : s.giveUp typ (.peer p) =
      (s.takeRx (.qf p)).homeWb (.peer p) (p.addr / 64) (if typ = 0x20 then some (p.payload, p.poison) else none) := by
    have hfits : (p.payload.length == (if typ = 0x20 then 64 else 0)) = true := by
      rcases hc with ⟨-, rfl⟩ | ⟨-, rfl⟩ <;> simpa using hlen
    have hzero : (p.aux == 0) = true := by simp [haux]
    have htyp1 : ¬ (Req.peer p).typ ≠ typ := not_not.mpr htyp
    simp only [State.giveUp, if_neg htyp1, hfits, hzero, State.arrive_admitted hdest hadmits]
  rcases hc with ⟨rfl, rfl⟩ | ⟨rfl, rfl⟩
  · change execWb (.peer p) s = _
    rw [execWb, State.whenAlive_alive halive, hgive]
  · change execPut (.peer p) s = _
    rw [execPut, State.whenAlive_alive halive, hgive]

/-! ### The statement -/

/-- Settles O46: the last answer finds the line settled on the state that holds its bytes; an owner that gives its line up leaves no entry, and a write-back
for a line without one is counted. -/
theorem reeveAnswers : Obligations.ReeveAnswers := by
  unfold Obligations.ReeveAnswers
  intro s r typ data po halive hcalm line h s1 form
  obtain ⟨hsweeps, -, -⟩ := id hcalm
  have hline : line = r.answerLine := by cases r <;> rfl
  have hs1 : s1 = s.taken r := by cases r <;> rfl
  have hform (hf : form) : s.answerForm typ data po r := by cases r <;> exact hf
  obtain ⟨rx, links, htaken⟩ := s.taken_only r
  clear_value line s1 form
  subst hline hs1
  refine ⟨?_, ?_⟩
  · intro c e q n k upg shared u hc hf hentry hawaits hwaits hasked hcause hwrote hdir hrevoke
    have hkind : typ ≠ 0x20 ∧ (typ = 0x1E → po = false) := by
      rcases hc with ⟨-, rfl⟩ | ⟨-, rfl, hpo⟩ | ⟨-, rfl⟩
      · exact ⟨by decide, fun h => absurd h (by decide)⟩
      · exact ⟨by decide, fun _ => hpo⟩
      · exact ⟨by decide, fun h => absurd h (by decide)⟩
    have hcmd : c = .invAck r ∧ typ = 0x1D ∨ c = .recallAck r ∧ typ = 0x1E ∨ c = .recallData r ∧ typ = 0x1F :=
      hc.imp_right (.imp_left fun h => ⟨h.1, h.2.1⟩)
    have hcalm1 : (s.taken r).noSweeps := by rw [htaken]; exact hcalm
    have hdir1 : u.dir = (s.taken r).dir := by rw [htaken]; exact hdir
    have hentry1 : (s.taken r).entry r.answerLine = some e := by rw [htaken]; exact hentry
    obtain ⟨t, ht, hother, hmem, hset⟩ := State.holderAnswer_settles (h := h) hentry1 hawaits hcalm1 hwaits hasked hkind.2 hcause hwrote hdir1 hrevoke
    refine ⟨t, ?_, hother, fun _ => hmem, hset.trans ?_⟩
    · rw [exec_cohAnswer halive hcmd, State.cohAnswer_awaited (hform hf) hkind.1 ht]
    · cases shared <;> rfl
  · intro p c u hr hc hf haux hadmits
    subst hr
    have hsweeps1 : (s.taken (.peer p)).sweeps = [] := by rw [htaken]; exact hsweeps
    have hexec := exec_giveUp_admitted halive hc (hform hf) haux hadmits
    refine ⟨fun e hfound howned hptrs hlost hwrote hdir hrevoke => ?_, fun hnone => ?_⟩
    · have hhome := State.homeWb_owner (r := .peer p) hsweeps1 hfound howned hptrs hlost (if typ = 0x20 then some (data, po) else none)
      have hstored : (s.taken (.peer p)).storeBrought (Req.peer p).answerLine (if typ = 0x20 then some (data, po) else none) = u :=
        State.wroteBrought.stored (full := 0x20) hwrote
      obtain ⟨queue, hanswer⟩ := (u.dropEntry (Req.peer p).answerLine).answer_only (.peer p) 0x22 0 [] false
      refine ⟨_, hexec.trans (congrArg Host.Outcome.next hhome), ?_⟩
      rw [hstored, hanswer, State.reapRevoke_idle (by exact hrevoke)]
      exact ⟨u.dropEntry_otherLines _, u.entry_dropEntry _, rfl⟩
    · have hhome := State.homeWb_stale hsweeps1 hnone (.peer p) (if typ = 0x20 then some (data, po) else none)
      obtain ⟨queue, hanswer⟩ := ((s.taken (.peer p)).incSat f_REEVE_ERR_STALE_WB).answer_only (.peer p) 0x22 0 [] false
      refine ⟨_, hexec.trans (congrArg Host.Outcome.next hhome), ?_⟩
      rw [hanswer, htaken]
      exact ⟨rfl, rfl, (State.incSat_onlyWords _ f_REEVE_ERR_STALE_WB (by decide)).2⟩

end Sys2Proof.Machine

/-! Visits of a directory set (R389): a lost owner's line is poisoned, and the frame that this takes is counted where its region's owner says. -/

namespace Sys2Proof.Machine

/-- What a visit of a set leaves: holders on lost nodes are gone, then the holds that have expired are over (R383, R389). -/
def State.visited (s : State) (set : Nat) : State :=
  let u := forL (s.waysOf set) s (fun e t => t.freshen e.line)
  forL ((u.waysOf set).filter (fun e => e.held && decide (e.holdUntil ≤ u.now))) u (fun e t => t.endHold e)

theorem exec_directorySetVisit_alive {s : State} {b set : Nat} (halive : s.alive = true) (hbank : set % 48 = b) (hset : set < s.dirSets) :
    exec (.directorySetVisit b set) s = .next (s.visited set) := by
  have hopen : ¬ (set % 48 ≠ b ∨ s.dirSets ≤ set) := fun h => h.elim (· hbank) (Nat.not_le.mpr hset)
  change execDirectorySetVisit b set s = _
  rw [execDirectorySetVisit, State.whenAlive_alive halive, if_neg hopen, State.visited]

/-- The line at the foot of the frame pool, owned on node 1, which no map lists. -/
def lostOwned : DirEntry :=
  { line := directBase / 64, way := 0, state := .x, coarse := false, ptrs := [(1, 0)], groups := 0, holdUntil := 0, nru := false, awaiting := []
    asked := 0, cause := .none }

/-- Another line that node 1 owns: in a directory of 2^22 sets it lies in another set, in one of 2^23 sets in the same. -/
def strayOwned : DirEntry := { lostOwned with line := 13176858 }

/-- The set of the first line. -/
def lostSet : Nat := 3342353

/-- A region of one tile without a frame, of T0, at the foot of the pool: an owner of that number would have its `TIER_QUSED` where `REEVE_CFG` lies. -/
def strayRegion : Region :=
  { num := 1, deleting := false, owner := 3904, writeLost := false, size := 1, base := directBase, published := 0, lastCut := 0, stamp := 0
    working := [], retained := [], target := (0, 0), targets := [] }

/-- The directory as reset leaves it, with the two lines in it, and a limit that admits one frame more of the region's owner. -/
def growingState : State :=
  let s := { State.reset with
    resetHeld := false, porHeld := false, pwrok := true, dir := [lostOwned, strayOwned], regions := [strayRegion] }
  ((s.setFld f_TIER_POOL_LEN_GIB 1).setFld f_STORE_CARVE_T0_FRAMES 1).setFldAt f_TIER_QLIMIT_LIMIT (4 * 3904) 0x1000017

theorem growingState_ready : growingState.alive = true ∧ growingState.dirSets = 2 ^ 22 ∧ (growingState.dir.map (·.line)).Nodup ∧
    growingState.lostHolder (1, 0) = true := by decide +kernel

/-- Poisoning the first line takes a frame, and counting it doubles the directory: the other line now lies in the set that was visited. -/
theorem growingState_visited : (growingState.visited lostSet).dirSets = 2 ^ 23 ∧ strayOwned ∈ (growingState.visited lostSet).waysOf lostSet := by
  decide +kernel

/-- Refutes O47: nothing bounds the owner of a region, and for owner 3904 the frame that a poisoned line takes is counted in `REEVE_CFG`. The directory has
twice its sets after the visit, and the visited set shows a line that its lost node still owns. A region's owner is a slice below 64. -/
theorem not_reeveTimers : ¬ Obligations.ReeveTimers := by
  unfold Obligations.ReeveTimers
  intro h
  obtain ⟨halive, hsets, hlines, hlost⟩ := growingState_ready
  obtain ⟨-, hstray⟩ := growingState_visited
  have hset : lostSet < growingState.dirSets := by rw [hsets]; decide
  obtain ⟨-, hvisit, -⟩ := h growingState halive ⟨rfl, rfl, rfl⟩
  obtain ⟨t, ht, -, hleft⟩ := hvisit 17 lostSet (by decide) hset
  rw [exec_directorySetVisit_alive halive (by decide) hset] at ht
  obtain rfl := Host.Outcome.next.inj ht
  have hlive := hleft hlines strayOwned hstray rfl rfl (1, 0) List.mem_cons_self
  rw [hlost] at hlive
  exact Bool.noConfusion hlive

end Sys2Proof.Machine

/-! A Kellija link that is lost (R406, R449, R544): its alarm can be told by an interrupt message, which is a request to another client. -/

namespace Sys2Proof.Machine

theorem exec_linkIdleTimeout {s : State} (port : Nat) (halive : s.alive = true) : exec (.linkIdleTimeout port) s = .next (s.linkDown port 0) := by
  change execLinkIdleTimeout port s = _
  rw [execLinkIdleTimeout, State.whenAlive_alive halive]

/-- `tellingState` with a second client's port up. -/
def twoClientsState : State := tellingState.setFldAt f_KL_PORT_STATE 1 2

theorem twoClientsState_up : twoClientsState.alive = true ∧ twoClientsState.klUp 1 = true := by decide +kernel

theorem twoClientsState_still : twoClientsState.still := by
  refine ⟨?_, ?_, ?_, ?_, ?_, ?_, ?_⟩ <;> decide +kernel

/-- The loss of the second client's link asks the first client for something. -/
theorem twoClientsState_loss_asks : (twoClientsState.linkDown 1 0).klOuts ≠ twoClientsState.klOuts := by decide +kernel

/-- Refutes O49: the alarm of a lost Kellija link is told by an interrupt message to the client of another port, which is one more request of this ZV9
to a client, so `klOuts` does not stay. -/
theorem not_portsGoDown : ¬ Obligations.PortsGoDown := by
  unfold Obligations.PortsGoDown
  intro h
  obtain ⟨halive, hup⟩ := twoClientsState_up
  obtain ⟨-, hkellija, -⟩ := h twoClientsState (.linkIdleTimeout 1) 1 halive
  obtain ⟨t, hexec, -, -, hstays, -⟩ := hkellija (by decide) hup twoClientsState_still (.inr rfl)
  rw [exec_linkIdleTimeout 1 halive] at hexec
  rw [← Host.Outcome.next.inj hexec] at hstays
  exact twoClientsState_loss_asks hstays

end Sys2Proof.Machine

/-! What a link block brings while the counters of the observation unit run (R406, R478, R589): the allotment of a lane that no link has is read at a
counter of packets, which wraps between two packets of one block. -/

namespace Sys2Proof.Machine

theorem exec_linkBlockReceived {s : State} {port : Nat} {l : Link} (b : LinkBlock) (halive : s.alive = true) (hlink : s.link port = some l)
    (hup : s.portUp port = true) : exec (.linkBlockReceived port b) s = .next (s.blockIn port l b) := by
  change execLinkBlockReceived port b s = _
  rw [execLinkBlockReceived, State.whenAlive_alive halive, hlink]
  simp only [hup, if_true]

/-- The lane whose allotment of class 0 at input 4 lies at `OBS_CTR` 0. -/
def counterLane : Nat := 0xCF2C

/-- A packet of one cell in that lane. -/
def counterPkt : Pkt := .qf { State.reset.mkQ 0 0x30 0 [] with epoch := 0, dl := counterLane }

/-- A block with two of them. -/
def twoCounterPkts : LinkBlock := { seq := 0, ack := 0, fec := 0, crcOk := true, pkts := [counterPkt, counterPkt], credits := [] }

/-- Quaril port 0 is up, and counter 0, which counts the packets that links bring (kind 9, event 1), stands at its highest value. -/
def fullCounterState : State :=
  let s := { State.reset with resetHeld := false, porHeld := false, pwrok := true, links := [freshLink 4 101] }
  ((((((s.setFldAt f_QF_PORT_STATE 0 2).setFldAt f_OBS_SEL_ENABLE 0 1).setFldAt f_OBS_SEL_KIND 0 9).setFldAt f_OBS_SEL_EVENT 0 1).setFldAt
    f_OBS_SEL_INSTANCE 0 0xFFF).setFldAt f_OBS_SEL_SLICE 0 0xFF).setFldAt f_OBS_CTR_COUNT 0 (2 ^ 64 - 1)

theorem fullCounterState_link : fullCounterState.alive = true ∧ fullCounterState.link 4 = some (freshLink 4 101) ∧ fullCounterState.portUp 4 = true ∧
    fullCounterState.fldAt f_STORE_MIRROR_IN 4 = 0 ∧ fullCounterState.fldAt f_STORE_MIRROR_OUT 4 = 0 := by decide +kernel

theorem fullCounterState_allotment : fullCounterState.allotment (rowOf 4 counterLane) 0 = 0xFFFF := by decide +kernel

theorem fullCounterState_inputCells (tc vl : Nat) : fullCounterState.inputCells 4 tc vl = 0 := rfl

/-- Before the block comes, its packets' lane has cells for both. -/
theorem fullCounterState_fits (tc vl : Nat) :
    fullCounterState.inputCells 4 tc vl + ((twoCounterPkts.pkts.filter (fun p => p.tc == tc && p.vl == vl)).map (·.cells)).sum ≤
      fullCounterState.allotment (rowOf 4 vl) tc := by
  rw [fullCounterState_inputCells]
  by_cases h : tc = 0 ∧ vl = counterLane
  · obtain ⟨rfl, rfl⟩ := h
    rw [fullCounterState_allotment]
    decide +kernel
  · have hother : (counterPkt.tc == tc && counterPkt.vl == vl) = false := by
      have htc : counterPkt.tc = 0 := rfl
      have hvl : counterPkt.vl = counterLane := by decide
      rw [htc, hvl, Bool.and_eq_false_iff, beq_eq_false_iff_ne, beq_eq_false_iff_ne]
      omega
    simp [twoCounterPkts, hother]

/-- The first packet is counted, the counter wraps to 0, and the second one finds no cell. -/
theorem fullCounterState_takes_one : (fullCounterState.blockIn 4 (freshLink 4 101) twoCounterPkts).rx = [(4, counterPkt)] := by decide +kernel

/-- Refutes O48: a sound block next in order whose packets all have free cells gives only its first packet to the input, when the allotment that the
second one needs is read at a counter which the first one wraps. -/
theorem not_linkBlocks : ¬ Obligations.LinkBlocks := by
  unfold Obligations.LinkBlocks
  intro h
  obtain ⟨halive, hlink, hup, hin, hout⟩ := fullCounterState_link
  obtain ⟨-, -, hopen⟩ := h fullCounterState 4 (freshLink 4 101) twoCounterPkts halive hlink
  obtain ⟨hsound, -⟩ := hopen hup hin hout
  obtain ⟨htaken, -⟩ := hsound (by decide) rfl rfl
  obtain ⟨t, hexec, hrest, -⟩ := htaken (by decide) fullCounterState_fits
  rw [exec_linkBlockReceived twoCounterPkts halive hlink hup] at hexec
  have hboth : t.rx = fullCounterState.rx ++ twoCounterPkts.pkts.map (fun p => (4, p)) := by rw [hrest]
  rw [← Host.Outcome.next.inj hexec, fullCounterState_takes_one] at hboth
  exact absurd (congrArg List.length hboth) (by decide)

end Sys2Proof.Machine

/-! A map that was missed becomes current (R438, R439, R442, R49): a lookup of a node that is gone ends, and the frames that it held are freed, each
counted at the slice that owns it. -/

namespace Sys2Proof.Machine

/-- A map with node 0 alone. -/
def loneMap : FMap :=
  { epoch := 5, term := 0, leader := 0, keepers := [], domain := 0, baseUs := 0, hopUs := 0, nodes := [⟨0, 0, .live, 0, 0, false⟩], links := [], jobs := [] }

/-- A frame that nothing names, whose owner 0x1740 has its `TIER_QUSED` of tier 0 where `QF_STATE` lies. -/
def strayFrame : Frame := ⟨1, 0, 0, 0, 0x1740, [], [], none, false, 0, none, none⟩

/-- A ZV9 with its node, that frame, and a lookup of node 9. -/
def lendingState : State :=
  let s := { State.reset with resetHeld := false, porHeld := false, pwrok := true, frames := [strayFrame], lent := [⟨9, 0, (0, 0), ⟨0, none, []⟩⟩] }
  (s.setFld f_AS_NODE_NODE 0).setFld f_AS_NODE_VALID 1

theorem lendingState_follows : lendingState.alive = true ∧ lendingState.fenced = false ∧ lendingState.leader = false ∧
    laterEpoch loneMap.epoch lendingState.epoch = true := by decide +kernel

theorem lendingState_ready : lendingState.ready loneMap := by
  have hnode : loneMap.ent lendingState.me = some ⟨0, 0, .live, 0, 0, false⟩ := by decide +kernel
  refine ⟨⟨rfl, rfl, rfl, rfl, rfl, rfl, ?_⟩, by decide +kernel, by decide +kernel, _, hnode, rfl⟩
  decide +kernel

theorem exec_mapData {s : State} {m : FMap} (halive : s.alive = true) :
    exec (.mapData m) s = .next (if !laterEpoch m.epoch (s.takeMap (.mapData m)).epoch ∨ (s.takeMap (.mapData m)).leader ∨
      (s.takeMap (.mapData m)).fenced ∨ !(s.takeMap (.mapData m)).inMap m then s.takeMap (.mapData m) else (s.takeMap (.mapData m)).applyMap m) := by
  change execMapData m s = _
  rw [execMapData, State.whenAlive_alive halive]

/-- What the command does here. -/
def lentEnds : State := (lendingState.takeMap (.mapData loneMap)).applyMap loneMap

theorem exec_mapData_lending : exec (.mapData loneMap) lendingState = .next lentEnds := by
  have hclear : ¬ (!laterEpoch loneMap.epoch (lendingState.takeMap (.mapData loneMap)).epoch ∨ (lendingState.takeMap (.mapData loneMap)).leader ∨
      (lendingState.takeMap (.mapData loneMap)).fenced ∨ !(lendingState.takeMap (.mapData loneMap)).inMap loneMap) := by decide +kernel
  rw [exec_mapData lendingState_follows.1, if_neg hclear]
  rfl

theorem lentEnds_epoch : lentEnds.epoch = 4 := by decide +kernel

/-- Refutes O53: a map that was missed becomes current, but the frame freed with a lost lookup is counted off in the word of `QF_STATE`, when its owner
is no slice, so the epoch shown is not the map's. -/
theorem not_mapChanges : ¬ Obligations.MapChanges := by
  unfold Obligations.MapChanges
  intro h
  obtain ⟨halive, hfenced, hleader, hlater⟩ := lendingState_follows
  obtain ⟨-, -, -, -, -, -, -, -, hmissed, -⟩ := h lendingState loneMap 0 0 halive hfenced
  obtain ⟨t, hexec, -, -, -, -, hepoch, -⟩ := hmissed hlater hleader lendingState_ready
  rw [exec_mapData_lending] at hexec
  rw [← Host.Outcome.next.inj hexec, lentEnds_epoch] at hepoch
  exact absurd hepoch (by decide)

end Sys2Proof.Machine

/-! The abort of a job (R294, R534 to R536): a move that it ends frees the frames that it had taken, each counted at the slice that owns it. -/

namespace Sys2Proof.Machine

theorem exec_jobAbort {s : State} (w : Word) (halive : s.alive = true) : exec (.jobAbort w) s = .next (s.jobAbortWrite w) := by
  change execJobAbort w s = _
  rw [execJobAbort, State.whenAlive_alive halive]

/-- Job 7 has slice 1 of node 0. -/
def oneSliceJob : Job := { num := 7, mode := 0, slices := [⟨0, 1, false, 0⟩] }

/-- A map with node 0 alone, and that job. -/
def oneJobMap : FMap :=
  { epoch := 5, term := 0, leader := 0, keepers := [], domain := 0, baseUs := 0, hopUs := 0, nodes := [⟨0, 0, .live, 0, 0, false⟩], links := [],
    jobs := [oneSliceJob] }

/-- The frame that a move has taken; its owner 0x3748 has its `TIER_QUSED` of tier 1 where `FLT_SLICE_JOB` of slice 1 lies. -/
def takenFrame : Frame := ⟨1, 1, 0, 0, 0x3748, [], [], none, false, 0, none, none⟩

/-- A move of tiles (opcode 0x38, operation 2; R294) of slice 1 that has taken that frame. -/
def movingDesc : Desc :=
  { mkDesc ⟨1, 0, 0⟩ 1 (0x38#8 :: List.replicate 17 0#8 ++ 2#8 :: List.replicate 45 0#8) 0 0 .running with moving := [(2, 1)] }

/-- A ZV9 with node 0 and the current map, whose slice 1 runs the move. -/
def movingState : State :=
  let s := { State.reset with
    resetHeld := false, porHeld := false, pwrok := true, mapCur := some oneJobMap, frames := [takenFrame], descs := [movingDesc] }
  (s.setFld f_AS_NODE_NODE 0).setFld f_AS_NODE_VALID 1

/-- A write of `FLT_JOB_ABORT` for job 7. -/
def abortJob7 : Word := BitVec.ofNat 64 (7 * 2 ^ 32 + 1)

theorem abortJob7_starts : f_FLT_JOB_ABORT_START.get abortJob7 = 1 ∧ f_FLT_JOB_ABORT_JOB.get abortJob7 = 7 := by decide +kernel

theorem movingState_serves : movingState.alive = true ∧ movingState.fenced = false := by decide +kernel

theorem movingState_job : movingState.mySlices 7 = [1] ∧ oneJobMap.job 7 = some oneSliceJob := by decide +kernel

theorem movingState_idle : movingState.fldAt f_FLT_SLICE_JOB_STATE 1 = 0 := by decide +kernel

theorem movingState_shows_other_job : (movingState.jobAbortWrite abortJob7).fldAt f_FLT_SLICE_JOB_JOB 1 = 6 := by decide +kernel

/-- Refutes O55: the abort of a job stops a move of its slice, but the frame that the move had taken is counted off in the word of `FLT_SLICE_JOB`, when
its owner is no slice, so the register does not name the aborted job. -/
theorem not_containment : ¬ Obligations.Containment := by
  unfold Obligations.Containment
  intro h
  obtain ⟨halive, hfenced⟩ := movingState_serves
  obtain ⟨hstart, hjob⟩ := abortJob7_starts
  obtain ⟨hmine, hentry⟩ := movingState_job
  obtain ⟨-, -, haborts, -⟩ := h movingState oneJobMap oneSliceJob 7 0 0 abortJob7 (State.reset.mkQ 0 0 0 []) halive hfenced
  have hidle : ∀ y ∈ movingState.mySlices 7,
      y < 64 ∧ (movingState.fldAt f_FLT_SLICE_JOB_STATE y = 0 ∨ movingState.fldAt f_FLT_SLICE_JOB_STATE y = 3) := by
    rw [hmine]
    intro y hy
    rw [List.mem_singleton.mp hy]
    exact ⟨by decide, .inl movingState_idle⟩
  obtain ⟨t, hexec, hhit, -⟩ := haborts hstart hjob (by rw [hmine]; decide) rfl rfl hentry hidle
  obtain ⟨-, hnamed, -⟩ := hhit 1 (by rw [hmine]; decide)
  rw [exec_jobAbort abortJob7 halive] at hexec
  rw [← Host.Outcome.next.inj hexec, movingState_shows_other_job] at hnamed
  exact absurd hnamed (by decide)

end Sys2Proof.Machine

/-! Packets on the way and where responses go (R409, R419, R420, R641). -/

namespace Sys2Proof.Machine

/-! ### Responses (R409) -/

/-- The response to a request as it leaves its home. -/
def State.rspPkt (s : State) (p : QPkt) (typ tc aux : Nat) (payload : List Byte) (poison sd : Bool) : QPkt :=
  { s.mkQ p.src typ tc payload with
    epoch := s.rspEpoch p.epoch, stream := p.stream, tag := p.tag, addr := p.addr, slice := p.slice, aux := aux, poison := poison, hops := 1
    dl := if sd then 1 else 0 }

/-- A response leaves by the port that the routes of its epoch name. -/
theorem State.respond_out {s : State} {p : QPkt} {o : Nat} {sd : Bool} (typ tc aux : Nat) (payload : List Byte) (poison : Bool)
    (hopen : s.fenced = false) (hroute : s.outPort (s.rspEpoch p.epoch) p.src 0 = some (o, sd)) :
    s.respond p typ tc aux payload poison = s.enqueue (4 + o) (.qf (s.rspPkt p typ tc aux payload poison sd)) := by
  rw [State.respond, State.sendQf_out hopen hroute]
  rfl

/-! ### Packets in transit (R419, R420) -/

section Transit
variable {s : State} {port : Nat}

/-- A packet that is not the first of its class and lane stays (R420). -/
theorem exec_packetForward_later {q : Pkt} (halive : s.alive = true) (hlater : s.firstIn port q = false) : exec (.packetForward port q) s = .next s := by
  change execPacketForward port q s = _
  simp only [execPacketForward, State.whenAlive_alive halive, hlater, Bool.not_false, or_true, if_true]

/-- At a Quaril input, of a ZV9 that is not fenced, only a packet that is not the first stays. -/
theorem State.firstIn_leaves {q : Pkt} (hopen : s.fenced = false) (hlow : 4 ≤ port) (hhigh : port < 12) (hfirst : s.firstIn port q = true) :
    ¬ (s.fenced ∨ port < 4 ∨ 12 ≤ port ∨ !s.firstIn port q) := by
  rw [hopen, hfirst]
  rintro (h | h | h | h)
  · exact Bool.noConfusion h
  · omega
  · omega
  · exact Bool.noConfusion h

theorem exec_packetForward_qf {p : QPkt} (halive : s.alive = true) (hopen : s.fenced = false) (hlow : 4 ≤ port) (hhigh : port < 12)
    (hfirst : s.firstIn port (.qf p) = true) (hother : p.dest ≠ s.me) (hbeat : p.typ ≠ 0x30) :
    exec (.packetForward port (.qf p)) s = .next ({ s with rx := s.rx.erase (port, .qf p) }.forwardQf port p) := by
  change execPacketForward port (.qf p) s = _
  simp only [execPacketForward, State.whenAlive_alive halive, if_neg (State.firstIn_leaves hopen hlow hhigh hfirst), if_neg (not_or.mpr ⟨hother, hbeat⟩)]

theorem exec_packetForward_map {src dest epoch hops dl tag : Nat} {m : MapMsg} (halive : s.alive = true) (hopen : s.fenced = false) (hlow : 4 ≤ port)
    (hhigh : port < 12) (hfirst : s.firstIn port (.map src dest epoch m hops dl tag) = true) (hother : dest ≠ s.me) (hall : dest ≠ 0xFFFF) :
    exec (.packetForward port (.map src dest epoch m hops dl tag)) s =
      .next ({ s with rx := s.rx.erase (port, .map src dest epoch m hops dl tag) }.forwardMap port src dest epoch m hops dl tag) := by
  change execPacketForward port (.map src dest epoch m hops dl tag) s = _
  simp only [execPacketForward, State.whenAlive_alive halive, if_neg (State.firstIn_leaves hopen hlow hhigh hfirst), if_neg (not_or.mpr ⟨hother, hall⟩)]

/-- The packet as it travels on from here: a response takes its epoch from this ZV9 (R419). -/
def State.onward (s : State) (p : QPkt) : QPkt := if p.isResponse then { p with epoch := s.rspEpoch p.epoch } else p

theorem State.onward_hops (s : State) (p : QPkt) : (s.onward p).hops = p.hops ∧ (s.onward p).dl = p.dl := by
  unfold State.onward
  split <;> exact ⟨rfl, rfl⟩

theorem State.forwardQf_out {p : QPkt} {o : Nat} {sd : Bool} (hhops : p.hops < 1023)
    (hroute : s.outPort (s.onward p).epoch (s.onward p).dest (s.onward p).dl = some (o, sd)) : s.forwardQf port p =
    { s with queue := s.queue ++ [⟨port, 4 + o, .qf { s.onward p with hops := p.hops + 1, dl := if sd then 1 else p.dl }, some (Pkt.qf p).vl⟩] } := by
  obtain ⟨hsame, hlane⟩ := s.onward_hops p
  unfold State.forwardQf
  extract_lets drop q
  have hroute' : s.outPort q.epoch q.dest q.dl = some (o, sd) := hroute
  rw [if_neg (by omega), hroute', ← hsame, ← hlane]
  rfl

/-- A request that no route leads on is answered here (R419). -/
theorem State.forwardQf_lost {p : QPkt} (hhops : p.hops < 1023) (hroute : s.outPort p.epoch p.dest p.dl = none) (hrequest : p.isResponse = false)
    (htc : p.tc < 6) (hepoch : (s.mapOf p.epoch).isSome = true) :
    s.forwardQf port p = (s.freeCells port (.qf p)).respondErr p (deadFail p.dest 0) := by
  have hknown : (s.mapOf p.epoch).isNone = false := by rw [← Option.not_isSome, hepoch]; rfl
  have hclass : ¬ 6 ≤ p.tc := by omega
  simp only [State.forwardQf, if_neg (show ¬ 1023 ≤ p.hops by omega), hrequest, Bool.false_eq_true, if_false, hroute, hclass, or_self, hknown]

theorem State.forwardMap_out {src dest epoch hops dl tag o : Nat} {m : MapMsg} {sd : Bool} (hhops : hops < 1023)
    (hroute : s.outPort epoch dest dl = some (o, sd)) : s.forwardMap port src dest epoch m hops dl tag =
    { s with queue := s.queue ++
      [⟨port, 4 + o, .map src dest epoch m (hops + 1) (if sd then 1 else dl) tag, some (Pkt.map src dest epoch m hops dl tag).vl⟩] } := by
  rw [State.forwardMap, if_neg (by omega), hroute]

end Transit

/-! ### Home operations (R410, R641) -/

/-- A well-formed `HOME_OP` that its home admits starts, whether or not the operation's own fields pass: that is judged when it runs. -/
theorem exec_homeOp_starts {s : State} {p : QPkt} (halive : s.alive = true) (hdest : p.dest = s.me) (h : (s.takeRx (.qf p)).admits p 4)
    (htyp : p.typ = 0x09) (hlen : p.payload.length = 64) (haux : p.aux = leAt p.payload 0 1) (hop : isHomeOp p.aux = true) :
    exec (.homeOp p) s = .next ((s.takeRx (.qf p)).homeStart p) := by
  have hform : (p.aux == leAt p.payload 0 1 && isHomeOp p.aux) = true := by rw [← haux, hop, beq_self_eq_true]; rfl
  have hwhole : (p.payload.length == 64) = true := by rw [hlen]; rfl
  change execHomeOp p s = _
  simp only [execHomeOp, State.whenAlive_alive halive, hform, hwhole, htyp, ne_eq, not_true_eq_false, if_false,
    State.arrive_admitted hdest h, ite_self]

/-- The operation that a `HOME_OP` starts here. -/
def State.homeDesc (s : State) (p : QPkt) : Desc := { mkDesc p.homeKey 1 p.payload p.epoch s.now .running with started := true, origin := some p }

theorem State.homeStart_starts {s : State} {p : QPkt} (hhere : leAt p.payload (homeNodeOff (leAt p.payload 0 1)) 2 = s.me)
    (hnew : s.desc p.homeKey = none) : s.homeStart p = { s with descs := s.descs ++ [s.homeDesc p] } := by
  have hkept : del s.descs (fun x => x.key == p.homeKey) = s.descs :=
    List.filter_eq_self.mpr fun x hx => by simpa using List.find?_eq_none.mp hnew x hx
  simp only [State.homeStart, ne_eq, hhere, not_true_eq_false, if_false]
  exact congrArg (fun l => { s with descs := l ++ [s.homeDesc p] }) hkept

/-- Settles O42. -/
theorem packetsOnTheWay : Obligations.PacketsOnTheWay := by
  unfold Obligations.PacketsOnTheWay
  intro s p halive hopen
  refine ⟨?_, ?_, ?_, ?_, ?_⟩
  · intro typ tc aux payload poison o sd hroute
    exact ⟨_, State.respond_out typ tc aux payload poison hopen hroute, rfl, rfl, rfl, rfl, rfl, rfl, rfl, rfl, rfl, rfl, rfl, rfl, rfl⟩
  · intro port hlow hhigh hother hbeat hhops hfirst
    rw [exec_packetForward_qf halive hopen hlow hhigh hfirst hother hbeat]
    refine ⟨fun o sd hroute => ?_, fun hroute hrequest htc hepoch => ?_⟩
    · exact congrArg _ (State.forwardQf_out (s := { s with rx := s.rx.erase (port, .qf p) }) hhops hroute)
    · rw [if_neg (by rw [hrequest]; exact Bool.false_ne_true)] at hroute
      exact congrArg _ (State.forwardQf_lost (s := { s with rx := s.rx.erase (port, .qf p) }) hhops hroute hrequest htc hepoch)
  · intro port src dest epoch m hops dl tag o sd hlow hhigh hother hall hhops q hfirst hroute
    rw [exec_packetForward_map halive hopen hlow hhigh hfirst hother hall]
    exact congrArg _ (State.forwardMap_out (s := { s with rx := s.rx.erase (port, q) }) hhops hroute)
  · intro port q hlater
    exact exec_packetForward_later halive hlater
  · intro s1 hdest hadmits htyp hlen haux hop hnode hnew
    obtain ⟨rx, links, htaken⟩ : ∃ rx links, s1 = { s with rx := rx, links := links } := State.takeRx_only s (.qf p)
    have hhere : leAt p.payload (homeNodeOff (leAt p.payload 0 1)) 2 = s1.me := by
      rw [← haux, hnode, htaken]
      rfl
    have hkey : s1.desc p.homeKey = none := by
      rw [htaken]
      exact hnew
    have hdescs : s1.descs = s.descs := by rw [htaken]
    have hmem : s1.mem = s.mem := by rw [htaken]
    have hregs : s1.regs = s.regs := by rw [htaken]
    refine ⟨_, s1.homeDesc p, exec_homeOp_starts halive hdest hadmits htyp hlen haux hop, ?_⟩
    rw [State.homeStart_starts hhere hkey]
    exact ⟨congrArg (· ++ [s1.homeDesc p]) hdescs, rfl, rfl, rfl, rfl, rfl, hmem, hregs⟩

end Sys2Proof.Machine

/-! What a store at the home leaves of the rings (R51, R280): a ring's own record or status block, stored in memory, changes no ring. -/

namespace Sys2Proof.Machine

/-- A store that ends leaves the rings as they were. -/
structure State.StoresBesideRings (s : State) (r : Res State) : Prop where
  rings : ∀ t, r = .ok t → t.rings = s.rings

theorem State.StoresBesideRings.ok {s t : State} (h : t.rings = s.rings) : s.StoresBesideRings (.ok t) := by
  refine ⟨fun u hu => ?_⟩
  cases hu
  exact h

theorem State.StoresBesideRings.error (s : State) (e : Stop) : s.StoresBesideRings (.error e) := ⟨fun t ht => by cases ht⟩

theorem State.StoresBesideRings.of_rings {s u : State} {r : Res State} (h : u.StoresBesideRings r) (hrings : u.rings = s.rings) :
    s.StoresBesideRings r := ⟨fun t ht => (h.rings t ht).trans hrings⟩

theorem State.cacheRoom_rings {s t : State} (h : s.cacheRoom = some t) : t.rings = s.rings := by
  unfold State.cacheRoom at h
  split at h
  · cases h
    rfl
  · split at h
    · cases h
      rfl
    · obtain ⟨f, -, rfl⟩ := Option.map_eq_some_iff.mp h
      rfl

theorem State.writeFrame_rings (s : State) (f : Frame) (off : Nat) (bs : List Byte) (po : Bool) : s.StoresBesideRings (s.writeFrame f off bs po) := by
  unfold State.writeFrame
  extract_lets c part put
  have hput (full : Bool) : s.StoresBesideRings (put full) := by
    simp only [put]
    split
    · exact State.StoresBesideRings.error s _
    · rename_i s1 hroom
      refine State.StoresBesideRings.ok ?_
      split at hroom
      · cases hroom
        rfl
      · exact State.cacheRoom_rings (t := s1) hroom
  split
  · exact State.StoresBesideRings.ok rfl
  · split
    · exact hput false
    · split
      · exact State.StoresBesideRings.error s _
      · split
        · exact State.StoresBesideRings.error s _
        · exact hput true

theorem State.copyFrame_rings {s : State} {owner : Nat} {f : Frame} {x : State × Nat} (h : s.copyFrame owner f = .ok x) : x.1.rings = s.rings := by
  unfold State.copyFrame at h
  split at h
  · cases h
  · split at h
    · cases h
      rfl
    · dsimp only at h
      split at h
      · split at h
        · cases h
        · rename_i s1 hroom
          cases h
          exact State.cacheRoom_rings (t := s1) hroom
      · split at h <;> cases h

theorem State.writeNew_rings (s : State) (t : TRef) (id off : Nat) (bs : List Byte) (po : Bool) : s.StoresBesideRings (s.writeNew t id off bs po) := by
  have htile : (s.setTileFrame t id).rings = s.rings := by cases t <;> rfl
  unfold State.writeNew
  split
  · exact (State.writeFrame_rings ..).of_rings htile
  · exact State.StoresBesideRings.ok htile

theorem State.writeTile_rings (s : State) (t : TRef) (off : Nat) (bs : List Byte) (po : Bool) : s.StoresBesideRings (s.writeTile t off bs po) := by
  unfold State.writeTile
  dsimp only
  split
  · split
    · exact State.StoresBesideRings.error s _
    · split
      · exact State.StoresBesideRings.error s _
      · exact (State.writeNew_rings (s.tileNew t (s.tileTarget t).1 (s.tileTarget t).2) t s.nextFrame off bs po).of_rings rfl
  · split
    · exact State.StoresBesideRings.error s _
    · split
      · split
        · exact State.StoresBesideRings.error s _
        · rename_i s1 id hcopy
          exact (State.writeNew_rings s1 t id off bs po).of_rings (State.copyFrame_rings hcopy)
      · exact State.writeFrame_rings ..

theorem State.rawWrite_rings (s : State) (a : Nat) (bs : List Byte) (po : Bool) : s.StoresBesideRings (s.rawWrite a bs po) := by
  unfold State.rawWrite
  split
  · refine State.StoresBesideRings.ok ?_
    split <;> rfl
  · refine State.StoresBesideRings.ok ?_
    split <;> rfl
  · exact State.writeTile_rings ..
  · exact State.StoresBesideRings.error s _
  · exact State.StoresBesideRings.error s _
  · exact State.StoresBesideRings.error s _

theorem State.rawWrites_rings (s : State) (a : Nat) (bs : List Byte) (po : Bool) : s.StoresBesideRings (s.rawWrites a bs po) := by
  unfold State.rawWrites
  generalize cut tileBytes a bs.length = pieces
  induction pieces generalizing s with
  | nil => exact State.StoresBesideRings.ok rfl
  | cons p ps ih =>
    rw [List.foldlM_cons]
    have hpiece := s.rawWrite_rings p.1 ((bs.drop (p.1 - a)).take p.2) po
    cases hwrite : s.rawWrite p.1 ((bs.drop (p.1 - a)).take p.2) po with
    | error e => exact State.StoresBesideRings.error s e
    | ok u => exact (ih u).of_rings (hpiece.rings u hwrite)

theorem State.feWrite_rings (s : State) (a : Nat) (bs : List Byte) : s.StoresBesideRings (s.feWrite a bs) := by
  unfold State.feWrite
  cases s.clearWay a bs.length true with
  | error e => exact State.StoresBesideRings.error s e
  | ok _ => exact s.rawWrites_rings a bs false

/-- A request to another home is no ring's. -/
theorem State.issueReq_rings (s : State) (o : OutReq) : (s.issueReq o).rings = s.rings := by
  unfold State.issueReq
  split
  · split
    · rw [State.sendQf_only]
    · rw [State.sendQf_only]
      rfl
  · rfl

/-- Bytes of a ring that leave, by whichever way, leave the rings as they were. -/
theorem State.ringSend_rings {s t : State} {r : Ring} {addr : Nat} {bs : List Byte} (h : s.ringSend r addr bs = .sent t) : t.rings = s.rings := by
  unfold State.ringSend at h
  split at h
  · split at h
    · rename_i u hwrite
      cases h
      exact (s.feWrite_rings addr bs).rings _ hwrite
    · cases h
    · cases h
  · split at h
    · cases h
      rw [State.sendKl_only]
    · cases h
  · split at h
    · cases h
    · cases h
      exact State.issueReq_rings ..

end Sys2Proof.Machine

/-! Heartbeats, and what clients answer to the ZV9's own requests (R436, R456, R461, R465). -/

namespace Sys2Proof.Machine

/-! ### Heartbeats (R436, R465) -/

/-- A step that gives packets to the switch core and looks at no packet that waits there, repeated. -/
theorem forL_queue {α : Type} (s : State) (g : α → List Queued) (f : α → State → State)
    (hf : ∀ x q, f x { s with queue := q } = { s with queue := q ++ g x }) (l : List α) :
    forL l s f = { s with queue := s.queue ++ l.flatMap g } := by
  have hgen (q : List Queued) : forL l { s with queue := q } f = { s with queue := q ++ l.flatMap g } := by
    induction l generalizing q with
    | nil => simp [forL]
    | cons x l ih =>
      change forL l (f x { s with queue := q }) f = _
      rw [hf, ih, List.flatMap_cons, List.append_assoc]
  exact hgen s.queue

/-- The same for the numbers below `n`. -/
theorem forN_queue (s : State) (g : Nat → List Queued) (f : Nat → State → State)
    (hf : ∀ i q, f i { s with queue := q } = { s with queue := q ++ g i }) (n : Nat) :
    forN n s f = { s with queue := s.queue ++ (List.range n).flatMap g } := forL_queue s g f hf (List.range n)

theorem flatMap_ite_singleton {α β : Type} (l : List α) (p : α → Bool) (g : α → β) :
    l.flatMap (fun a => if p a then [g a] else []) = (l.filter p).map g := by
  induction l with
  | nil => rfl
  | cons a l ih =>
    rw [List.flatMap_cons, ih, List.filter_cons]
    split <;> rfl

/-- A client's heartbeat as it leaves. -/
def State.beatKl (s : State) (k : Nat) : Queued := ⟨12, k, .kl (mkKl 0x30 6 0 0 0 (leBytes 8 s.now)), none⟩

/-- A neighbour's heartbeat as it leaves. -/
def State.beatQf (s : State) (q : Nat) : Queued :=
  ⟨12, 4 + q, .qf { s.mkQ (s.fldAt f_QF_PORT_PEER_NODE q) 0x30 6 (leBytes 8 s.now) with hops := 1 }, none⟩

theorem exec_heartbeatSend {s : State} (halive : s.alive = true) : exec .heartbeatSend s =
    .next { s with queue := s.queue ++ (((List.range 4).filter s.klUp).map s.beatKl ++ ((List.range 8).filter s.qfUp).map s.beatQf) } := by
  change execHeartbeatSend s = _
  rw [execHeartbeatSend, State.whenAlive_alive halive]
  rw [forN_queue s (fun k => if s.klUp k then [s.beatKl k] else []), flatMap_ite_singleton]
  · rw [forN_queue _ (fun q => if s.qfUp q then [s.beatQf q] else []), flatMap_ite_singleton, List.append_assoc]
    intro q queue
    have hup : State.qfUp { s with queue := queue } q = s.qfUp q := rfl
    rw [hup]
    split
    · rfl
    · rw [List.append_nil]
  · intro k queue
    have hup : State.klUp { s with queue := queue } k = s.klUp k := rfl
    rw [State.sendKl, hup]
    split
    · rfl
    · rw [List.append_nil]

/-- A heartbeat has come at a port: its link has missed none. -/
def State.heard (s : State) (port : Nat) : State :=
  { s with links := upd s.links (fun l => l.port == port) (fun l => { l with misses := 0 }) }

theorem State.heard_misses (s : State) (port : Nat) : ∀ l ∈ (s.heard port).links, l.port = port → l.misses = 0 := by
  intro l hl hport
  obtain ⟨x, -, rfl⟩ := List.mem_map.mp hl
  by_cases hx : (x.port == port) = true
  · rw [if_pos hx]
  · rw [if_neg hx] at hport
    exact absurd (beq_iff_eq.mpr hport) hx

/-- Cells that return to a peer are no heartbeat's business. -/
theorem State.oweCells_misses {s : State} {port : Nat} (h : ∀ l ∈ s.links, l.port = port → l.misses = 0) (input tc vl n : Nat) :
    ∀ l ∈ (s.oweCells input tc vl n).links, l.port = port → l.misses = 0 := by
  unfold State.oweCells
  split
  · rename_i x hx
    intro l hl hport
    obtain ⟨y, hy, rfl⟩ := List.mem_map.mp hl
    by_cases hsame : (y.port == x.port) = true
    · simp only [hsame, if_true] at hport ⊢
      exact h x (List.mem_of_find?_eq_some hx) hport
    · simp only [hsame, Bool.false_eq_true, if_false] at hport ⊢
      exact h y hy hport
  · exact h

theorem State.oweCells_only (s : State) (input tc vl n : Nat) : ∃ links, s.oweCells input tc vl n = { s with links := links } := by
  unfold State.oweCells
  split
  · exact ⟨_, rfl⟩
  · exact ⟨s.links, rfl⟩

theorem exec_heartbeat {s : State} (port : Nat) (halive : s.alive = true) : ∃ t, exec (.heartbeat port) s = .next t ∧
    t = { s with rx := t.rx, links := t.links } ∧ (∀ l ∈ t.links, l.port = port → l.misses = 0) ∧
    ∀ x, s.rx.find? (fun x => x.1 == port && x.2.isHeartbeat) = some x → t.rx = s.rx.erase x := by
  change ∃ t, execHeartbeat port s = _ ∧ _
  rw [execHeartbeat, State.whenAlive_alive halive]
  cases hfound : s.rx.find? (fun x => x.1 == port && x.2.isHeartbeat) with
  | none => exact ⟨s.heard port, rfl, rfl, s.heard_misses port, nofun⟩
  | some x =>
    have hmisses := State.oweCells_misses (s := { s.heard port with rx := s.rx.erase x }) (s.heard_misses port) port x.2.tc x.2.vl x.2.cells
    obtain ⟨links, hlinks⟩ := State.oweCells_only { s.heard port with rx := s.rx.erase x } port x.2.tc x.2.vl x.2.cells
    rw [hlinks] at hmisses
    refine ⟨{ s with rx := s.rx.erase x, links := links }, congrArg Host.Outcome.next hlinks, rfl, hmisses, ?_⟩
    rintro y ⟨⟩
    rfl

/-! ### What a client answers (R456, R461) -/

/-- The requests that stand when one is answered. -/
def State.outsBut (s : State) (o : KlOut) : List KlOut := s.klOuts.filter (fun x => !(x.port == o.port && x.tag == o.tag))

/-- A request with the bytes of one more packet. -/
def KlOut.taking (o : KlOut) (p : KPkt) : KlOut :=
  { o with
    left := o.left - p.payload.length, got := o.got ++ p.payload
    bad := if p.poison then o.bad ++ linesOf o.got.length p.payload.length else o.bad }

section Answers
variable {s : State} {port : Nat} {p : KPkt} {o : KlOut}

theorem State.takeRx_klOut (s : State) (q : Pkt) (k tag : Nat) : (s.takeRx q).klOut k tag = s.klOut k tag := by
  obtain ⟨rx, links, htaken⟩ := State.takeRx_only s q
  rw [htaken]
  rfl

/-- A packet that leaves its input takes no request of this ZV9, and nothing that an answer may reach, with it. -/
theorem State.takeRx_outs (s : State) (q : Pkt) : (s.takeRx q).klOuts = s.klOuts ∧ (s.takeRx q).klUnmatched = s.klUnmatched ∧
    (s.takeRx q).rings = s.rings ∧ (s.takeRx q).frames = s.frames ∧ (s.takeRx q).descs = s.descs ∧ (s.takeRx q).now = s.now := by
  obtain ⟨rx, links, htaken⟩ := State.takeRx_only s q
  rw [htaken]
  exact ⟨rfl, rfl, rfl, rfl, rfl, rfl⟩

/-- An answer to nothing is noted, while few are (R465). -/
theorem State.unmatched_few (hfew : (s.klUnmatched.filter (fun x => x.1 == port)).length < 15) : s.unmatched port =
    { s with klUnmatched := s.klUnmatched.filter (fun x => x.1 != port || decide (s.now < x.2 + 1800000)) ++ [(port, s.now)] } := by
  have hlen : ((s.klUnmatched.filter (fun x => x.1 != port || decide (s.now < x.2 + 1800000))).filter (fun x => x.1 == port)).length ≤
      (s.klUnmatched.filter (fun x => x.1 == port)).length := (List.filter_sublist.filter _).length_le
  have hall : ¬ 16 ≤ ((s.klUnmatched.filter (fun x => x.1 != port || decide (s.now < x.2 + 1800000)) ++ [(port, s.now)]).filter
      (fun x => x.1 == port)).length := by
    rw [List.filter_append, List.length_append]
    have := List.length_filter_le (fun x : Nat × Nat => x.1 == port) [(port, s.now)]
    rw [List.length_singleton] at this
    omega
  exact if_neg hall

section Read
variable (halive : s.alive = true) (hport : port < 4) (hup : s.klUp port = true) (hrsvd : p.rsvd = none) (htc : p.tc = 3)
include halive hport hup hrsvd htc

theorem exec_cReadRsp_unasked (htyp : p.typ = 0x41) (hout : s.klOut port p.tag = none) :
    exec (.cReadRsp port p) s = .next ((s.takeRx (.kl p)).unmatched port) := by
  have hout' := (s.takeRx_klOut (.kl p) port p.tag).trans hout
  change execCReadRsp port p s = _
  simp [execCReadRsp, State.whenAlive_alive halive, htyp, Nat.not_le.mpr hport, hup, hrsvd, htc, hout']

theorem exec_cWriteAck_unasked (htyp : p.typ = 0x43) (hpayload : p.payload = []) (hout : s.klOut port p.tag = none) :
    exec (.cWriteAck port p) s = .next ((s.takeRx (.kl p)).unmatched port) := by
  have hout' := (s.takeRx_klOut (.kl p) port p.tag).trans hout
  change execCWriteAck port p s = _
  simp [execCWriteAck, State.whenAlive_alive halive, htyp, Nat.not_le.mpr hport, hup, hrsvd, htc, hpayload, hout']

variable (hout : s.klOut port p.tag = some o) (hstatus : p.status = 0)
include hout hstatus

/-- The bytes of a packet that is not the last wait for the others. -/
theorem exec_cReadRsp_part (htyp : p.typ = 0x41) (hlen : p.payload.length = min 1024 o.left) (hmore : p.payload.length < o.left) :
    exec (.cReadRsp port p) s = .next { s.takeRx (.kl p) with
      klOuts := upd (s.takeRx (.kl p)).klOuts (fun x => x.port == port && x.tag == o.tag) (fun _ => o.taking p) } := by
  have hout' := (s.takeRx_klOut (.kl p) port p.tag).trans hout
  have hopen : o.left ≠ 0 := by omega
  have hrest : (o.taking p).left ≠ 0 := by
    simp only [KlOut.taking]
    omega
  change execCReadRsp port p s = _
  unfold execCReadRsp
  rw [State.whenAlive_alive halive]
  simp only [htyp, ne_eq, not_true_eq_false, Nat.not_le.mpr hport, hup, Bool.not_true, Bool.false_eq_true, or_self, if_false, hrsvd, Option.isSome_none,
    htc, hout', hopen, hstatus, hlen]
  rw [← hlen]
  exact congrArg Host.Outcome.next (if_neg hrest)

/-- The last packet ends the request. -/
theorem exec_cReadRsp_last (htyp : p.typ = 0x41) (hlen : p.payload.length = o.left) (hopen : 0 < o.left) (hfits : o.left ≤ 1024) :
    exec (.cReadRsp port p) s = .next ((s.takeRx (.kl p)).klBytes (o.taking p)) := by
  have hout' := (s.takeRx_klOut (.kl p) port p.tag).trans hout
  have hwhole : p.payload.length = min 1024 o.left := by omega
  have hrest : (o.taking p).left = 0 := by
    simp only [KlOut.taking]
    omega
  change execCReadRsp port p s = _
  unfold execCReadRsp
  rw [State.whenAlive_alive halive]
  simp only [htyp, ne_eq, not_true_eq_false, Nat.not_le.mpr hport, hup, Bool.not_true, Bool.false_eq_true, or_self, if_false, hrsvd, Option.isSome_none,
    htc, hout', hopen.ne', hstatus, hwhole]
  rw [← hwhole]
  exact congrArg Host.Outcome.next (if_pos hrest)

theorem exec_cWriteAck_written (htyp : p.typ = 0x43) (hpayload : p.payload = []) (hleft : o.left = 0) :
    exec (.cWriteAck port p) s = .next ((s.takeRx (.kl p)).klWritten o) := by
  have hout' := (s.takeRx_klOut (.kl p) port p.tag).trans hout
  change execCWriteAck port p s = _
  simp [execCWriteAck, State.whenAlive_alive halive, htyp, Nat.not_le.mpr hport, hup, hrsvd, htc, hpayload, hout', hleft, hstatus]

end Read

/-- A request that has changed is found by its tag as before. -/
theorem State.klOut_upd {q : KlOut} (hout : s.klOut port p.tag = some o) (hport : q.port = o.port) (htag : q.tag = o.tag) :
    ({ s with klOuts := upd s.klOuts (fun x => x.port == port && x.tag == o.tag) (fun _ => q) } : State).klOut port p.tag = some q := by
  have hfound := List.find?_some hout
  simp only [Bool.and_eq_true, beq_iff_eq] at hfound
  obtain ⟨hoport, hotag⟩ := hfound
  have hsame (x : KlOut) (hx : (x.port == port && x.tag == o.tag) = true) :
      (q.port == port && q.tag % two32 == p.tag % two32) = (x.port == port && x.tag % two32 == p.tag % two32) := by
    simp only [Bool.and_eq_true, beq_iff_eq] at hx
    rw [hport, htag, hx.1, hx.2, hoport]
  have hkeep : (upd s.klOuts (fun x => x.port == port && x.tag == o.tag) (fun _ => q)).find? (fun x => x.port == port && x.tag % two32 == p.tag % two32) =
      (s.klOut port p.tag).map (fun x => if x.port == port && x.tag == o.tag then q else x) := by
    refine find?_upd _ _ _ _ fun x => ?_
    split
    · rename_i hx
      exact hsame x hx
    · rfl
  refine hkeep.trans ?_
  rw [hout, Option.map_some, hoport, beq_self_eq_true, beq_self_eq_true]
  rfl

/-- The last bytes of a ring's read reach the ring. -/
theorem State.klBytes_ring {sl rg : Nat} {r : Ring} (hwhy : o.why = .sqRead sl rg) (hring : s.ring sl rg = some r) : s.klBytes o =
    (s.dropOut o).setRing { r with
      pre := r.pre ++ (List.range (o.got.length / 64)).map (fun k => ((o.got.drop (64 * k)).take 64, o.bad.contains (64 * k))) } := by
  have hring' : (s.dropOut o).ring sl rg = some r := hring
  unfold State.klBytes
  rw [hwhy]
  dsimp only
  rw [hring']

/-- The last acknowledgement of a write-back stores the tile. -/
theorem State.klWritten_writeback {id tag : Nat} {d : BitVec 16} {f : Frame} (hwhy : o.why = .writeback id d tag) (hframe : s.frame id = some f)
    (hdescs : ∀ e ∈ s.descs, e.moving ≠ [(id, id)])
    (hlast : ∀ x ∈ s.klOuts, ∀ d' tag', x.why = .writeback id d' tag' → x.port = o.port ∧ x.tag = o.tag) :
    s.klWritten o = (s.dropOut o).setFrame { f with stored := true, tag := tag } := by
  have hframe' : (s.dropOut o).frame id = some f := hframe
  have hwaits : s.descs.filter (fun d => d.op == 0x39 && d.phase == .running && d.moving == [(id, id)]) = [] := by
    rw [List.filter_eq_nil_iff]
    intro e he hm
    simp only [Bool.and_eq_true, beq_iff_eq] at hm
    exact hdescs e he hm.2
  unfold State.klWritten
  rw [hwhy]
  dsimp only
  rw [if_neg, hframe']
  · unfold State.wroteBack
    change forL (s.descs.filter _) _ _ = _
    rw [hwaits]
    rfl
  · rw [Bool.not_eq_true, List.any_eq_false]
    intro x hx hback
    obtain ⟨hx, hother⟩ := List.mem_filter.mp hx
    dsimp only at hother
    cases hw : x.why with
    | writeback g d' tag' =>
      rw [hw] at hback
      obtain rfl : g = id := beq_iff_eq.mp hback
      obtain ⟨hport, htag⟩ := hlast x hx d' tag' hw
      rw [hport, htag, beq_self_eq_true, beq_self_eq_true] at hother
      exact Bool.noConfusion hother
    | _ =>
      rw [hw] at hback
      exact Bool.noConfusion hback

/-- An interrupt that is acknowledged is over. -/
theorem State.klWritten_interrupt {sl v : Nat} (hwhy : o.why = .interrupt sl v) : s.klWritten o = s.dropOut o := by
  rw [State.klWritten, hwhy]

/-- A request that gets no answer is given up and counted, and its part of the work fails. -/
theorem State.klFailed_late (hwhy : o.why = .late) : s.klFailed o = (s.dropOut o).incSatAt f_KL_PORT_ERR_TIMEOUTS o.port := by
  rw [State.klFailed, hwhy]

theorem State.klFailed_sqRead {sl rg : Nat} (hwhy : o.why = .sqRead sl rg) : s.klFailed o =
    (((s.dropOut o).incSatAt f_KL_PORT_ERR_TIMEOUTS o.port).faultRing sl rg).ringAnswered sl rg := by
  rw [State.klFailed, hwhy]

theorem exec_klRequestTimeout {tag : Nat} (halive : s.alive = true) (hout : s.klOut port tag = some o) :
    exec (.klRequestTimeout port tag) s = .next (s.klFailed o) := by
  change execKlRequestTimeout port tag s = _
  rw [execKlRequestTimeout, State.whenAlive_alive halive, hout]

theorem State.klOut_port {tag : Nat} (hout : s.klOut port tag = some o) : o.port = port := by
  have hfound := List.find?_some hout
  simp only [Bool.and_eq_true, beq_iff_eq] at hfound
  exact hfound.1

end Answers

/-- A count of an instance goes up by one, up to its width. -/
theorem State.incSatAt_fldAt (s : State) (f : Fld) (i : Nat) (hf : f.lo + f.width ≤ 64) :
    (s.incSatAt f i).fldAt f i = min (s.fldAt f i + 1) (2 ^ f.width - 1) := by
  have hpos := Nat.two_pow_pos f.width
  rw [State.incSatAt, State.addSatAt, State.fldAt_setFldAt _ _ _ _ hf, Nat.mod_eq_of_lt (by omega)]

/-! ### A ring that faults, in whichever memory it lies (R98) -/

section Faulted
variable {s : State} {slice ring : Nat} {r : Ring} (hring : s.ring slice ring = some r)
include hring

theorem State.faultRing_waits (hstate : r.state ≠ .faulted)
    (hsend : (s.faultEvent r).ringSend r.faulty r.stAddr ((s.faultEvent r).statusBlock r.faulty) = .waits) :
    s.faultRing slice ring = s.faultEvent r := by
  obtain ⟨rfl, rfl⟩ := State.ring_key hring
  have hrunning : (r.state == .faulted) = false := beq_eq_false_iff_ne.mpr hstate
  rw [State.faultEvent, Ring.faulty] at hsend ⊢
  simp only [State.faultRing, hring, hrunning, Bool.false_eq_true, if_false, hsend]

/-- A ring that faults is the ring it was, faulted, with its status block sent or still to be sent. -/
theorem State.faultRing_ring (hstate : r.state ≠ .faulted) : ∃ q, (s.faultRing slice ring).ring slice ring = some q ∧
    q = { r with state := .faulted, stDirty := q.stDirty, stCons := q.stCons } := by
  obtain ⟨hslice, hnum⟩ := State.ring_key hring
  have hset := State.faultEvent_ring hring
  cases hsend : (s.faultEvent r).ringSend r.faulty r.stAddr ((s.faultEvent r).statusBlock r.faulty) with
  | sent t =>
    have hkeep : t.ring slice ring = some r.faulty := (State.ring_congr (State.ringSend_rings hsend) slice ring).trans hset
    rw [State.faultRing_sent hring hstate hsend, State.statusSent, hkeep]
    exact ⟨_, State.ring_setRing_same hkeep hslice hnum, rfl⟩
  | undeliverable =>
    rw [State.faultRing_unsent hring hstate hsend]
    exact ⟨_, hset, rfl⟩
  | waits =>
    rw [State.faultRing_waits hring hstate hsend]
    exact ⟨_, hset, rfl⟩

/-- An answer that neither an interrupt nor a destruction awaits changes nothing. -/
theorem State.ringAnswered_idle (hint : r.intDue = false) (hdestroy : r.destroying ≠ 3) : s.ringAnswered slice ring = s := by
  simp [State.ringAnswered, State.abortRingDone, hring, hint, hdestroy]

end Faulted

/-- Settles O51. -/
theorem heartbeatsAndClientAnswers : Obligations.HeartbeatsAndClientAnswers := by
  unfold Obligations.HeartbeatsAndClientAnswers
  intro s port p o halive stamp
  refine ⟨exec_heartbeatSend halive, exec_heartbeat port halive, ?_, ?_⟩
  · intro hport hup hrsvd htc s1 read ack
    obtain ⟨houts, hnoted, hrings, hframes, hdescs, hnow⟩ := s.takeRx_outs (.kl p)
    refine ⟨fun hout hstatus => ⟨?_, ?_, ?_, ?_⟩, fun hout hfew => ?_⟩
    · intro htyp hopen hlen hmore
      have hout1 : s1.klOut port p.tag = some o := (s.takeRx_klOut (.kl p) port p.tag).trans hout
      exact ⟨_, exec_cReadRsp_part halive hport hup hrsvd htc hout hstatus htyp hlen hmore, rfl, State.klOut_upd hout1 rfl rfl⟩
    · intro sl rg r htyp hlen hopen hfits hpoison hbad hwhy hring
      have hring1 : s1.ring sl rg = some r := (State.ring_congr hrings sl rg).trans hring
      have hclean : (o.taking p).bad = [] := by simp only [KlOut.taking, hpoison, hbad, Bool.false_eq_true, if_false]
      obtain ⟨hslice, hnum⟩ := State.ring_key hring
      refine ⟨_, { r with pre := _ }, exec_cReadRsp_last halive hport hup hrsvd htc hout hstatus htyp hlen hopen hfits, ?_, rfl, ?_⟩
      · rw [State.klBytes_ring (o := o.taking p) hwhy hring1, hclean]
        exact State.ring_setRing_same (s := s1.dropOut (o.taking p)) hring1 hslice hnum
      · rw [State.klBytes_ring (o := o.taking p) hwhy hring1]
        rintro x hx ⟨hsport, hstag⟩
        obtain ⟨-, hother⟩ := List.mem_filter.mp hx
        simp only [KlOut.taking, hsport, hstag, beq_self_eq_true, Bool.and_self, Bool.not_true, Bool.false_eq_true] at hother
    · intro id d tag f hack hleft hwhy hframe hmoving hlast
      obtain ⟨htyp, hpayload⟩ := hack
      have hframe1 : s1.frame id = some f := by rw [State.frame, hframes]; exact hframe
      refine ⟨_, exec_cWriteAck_written halive hport hup hrsvd htc hout hstatus htyp hpayload hleft, ?_⟩
      rw [State.klWritten_writeback hwhy hframe1 (by rw [hdescs]; exact hmoving) (by rw [houts]; exact hlast)]
      refine ⟨?_, congrArg (fun l : List KlOut => del l (fun x => x.port == o.port && x.tag == o.tag)) houts⟩
      obtain rfl := State.frame_id hframe
      exact State.frame_setFrame_same (s := s1.dropOut o) (g := { f with stored := true, tag := tag }) hframe1
    · intro sl vec hack hleft hwhy
      obtain ⟨htyp, hpayload⟩ := hack
      rw [exec_cWriteAck_written halive hport hup hrsvd htc hout hstatus htyp hpayload hleft, State.klWritten_interrupt hwhy, State.dropOut, houts]
      rfl
    · have hfew1 : (s1.klUnmatched.filter (fun x => x.1 == port)).length < 15 := by rw [hnoted]; exact hfew
      have hnew : (port, s.now) ∈ (s1.unmatched port).klUnmatched := by
        rw [State.unmatched_few hfew1, hnow]
        exact List.mem_append_right _ List.mem_cons_self
      have honly : s1.unmatched port = { s1 with klUnmatched := (s1.unmatched port).klUnmatched } := by rw [State.unmatched_few hfew1]
      exact ⟨fun htyp => ⟨_, exec_cReadRsp_unasked halive hport hup hrsvd htc htyp hout, honly, hnew⟩,
        fun hack => ⟨_, exec_cWriteAck_unasked halive hport hup hrsvd htc hack.1 hack.2 hout, honly, hnew⟩⟩
  · intro tag hport hout
    refine ⟨_, exec_klRequestTimeout halive hout, ?_, ?_⟩
    · intro hwhy
      obtain rfl := State.klOut_port hout
      rw [State.klFailed_late hwhy]
      exact ⟨State.incSatAt_fldAt (s.dropOut o) f_KL_PORT_ERR_TIMEOUTS o.port (by decide), rfl⟩
    · intro sl rg r hwhy hring hstate hdestroy hint
      obtain ⟨q, hfaulted, hq⟩ := State.faultRing_ring (s := (s.dropOut o).incSatAt f_KL_PORT_ERR_TIMEOUTS o.port) hring hstate
      rw [State.klFailed_sqRead hwhy, State.ringAnswered_idle hfaulted (by rw [hq]; exact hint) (by rw [hq]; exact hdestroy)]
      exact ⟨q, hfaulted, hq⟩

end Sys2Proof.Machine

/-! Map-protocol messages on their way (R416, R419, R433, R435, R437, R441): what each way of sending gives to the switch core, and that two ZV9s which
agree on what a message is sent by send the same. -/

namespace Sys2Proof.Machine

/-! ### What is sent -/

/-- A flood as it leaves every port that is up. -/
def State.floodPkts (s : State) (src : Nat) (m : MapMsg) : List Queued :=
  if s.fenced && !(Pkt.map src 0xFFFF s.epoch m).mayLeaveFenced then []
  else ((List.range 8).filter s.qfUp).map (fun q => ⟨12, 4 + q, .map src 0xFFFF s.epoch m, none⟩)

theorem State.floodAs_eq (s : State) (src : Nat) (m : MapMsg) : s.floodAs src m = { s with queue := s.queue ++ s.floodPkts src m } := by
  unfold State.floodAs State.floodPkts
  dsimp only
  split
  · rw [List.append_nil]
  · rw [forN_queue s (fun q => if s.qfUp q then [⟨12, 4 + q, .map src 0xFFFF s.epoch m, none⟩] else []), flatMap_ite_singleton]
    intro q queue
    have hup : State.qfUp { s with queue := queue } q = s.qfUp q := rfl
    rw [hup]
    split
    · rfl
    · rw [List.append_nil]

/-- A message to a node as it leaves. -/
def State.mapPkts (s : State) (dest : Nat) (m : MapMsg) (tag : Nat) : List Queued :=
  if s.fenced && !(Pkt.map s.me dest s.epoch m).mayLeaveFenced then []
  else match s.outPort s.epoch dest 0 with
  | none => []
  | some (port, sd) => [⟨12, 4 + port, .map s.me dest s.epoch m 1 (if sd then 1 else 0) tag, none⟩]

theorem State.sendMap_eq (s : State) (dest : Nat) (m : MapMsg) (tag : Nat) :
    s.sendMap dest m tag = { s with queue := s.queue ++ s.mapPkts dest m tag } := by
  unfold State.sendMap State.mapPkts
  split
  · rw [List.append_nil]
  · cases s.outPort s.epoch dest 0 with
    | none => exact (congrArg (fun l => { s with queue := l }) (List.append_nil s.queue)).symm
    | some x => rfl

/-- What a flood along the tree of a map gives to each neighbour. -/
def State.kidPkts (s : State) (c : FMap) (msg : MapMsg) (n : Nat) : List Queued :=
  match (c.ports s.me).find? (fun p => p.2.1 == n && s.qfUp p.1) with
  | some p => [⟨12, 4 + p.1, .map s.me n s.epoch msg, none⟩]
  | none => []

theorem State.flood_tree {s : State} (hopen : s.fenced = false) (c : FMap) (root : Nat) (msg : MapMsg) :
    s.flood (some c) root msg = { s with queue := s.queue ++ (c.floodKids s.me root).flatMap (s.kidPkts c msg) } := by
  unfold State.flood
  dsimp only
  rw [if_neg (by rw [hopen]; exact Bool.false_ne_true), forL_queue s (s.kidPkts c msg)]
  intro n queue
  have hfind : (c.ports (State.me { s with queue := queue })).find? (fun p => p.2.1 == n && State.qfUp { s with queue := queue } p.1) =
    (c.ports s.me).find? (fun p => p.2.1 == n && s.qfUp p.1) := rfl
  unfold State.kidPkts
  rw [hfind]
  cases (c.ports s.me).find? (fun p => p.2.1 == n && s.qfUp p.1) with
  | none => exact (congrArg (fun l => { s with queue := l }) (List.append_nil queue)).symm
  | some p => rfl

/-! ### Sending changes nothing else -/

/-- Packets are given to the switch core, and nothing else changes. -/
def State.Sends (s t : State) : Prop := ∃ ps, t = { s with queue := s.queue ++ ps }

theorem State.Sends.refl (s : State) : s.Sends s := ⟨[], by rw [List.append_nil]⟩

theorem State.Sends.trans {s t u : State} (h : s.Sends t) (h' : t.Sends u) : s.Sends u := by
  obtain ⟨ps, rfl⟩ := h
  obtain ⟨qs, rfl⟩ := h'
  exact ⟨ps ++ qs, by rw [← List.append_assoc]⟩

theorem State.enqueue_sends (s : State) (out : Nat) (p : Pkt) : s.Sends (s.enqueue out p) := ⟨_, rfl⟩

theorem State.floodAs_sends (s : State) (src : Nat) (m : MapMsg) : s.Sends (s.floodAs src m) := ⟨_, s.floodAs_eq src m⟩

theorem State.sendMap_sends (s : State) (dest : Nat) (m : MapMsg) (tag : Nat) : s.Sends (s.sendMap dest m tag) := ⟨_, s.sendMap_eq dest m tag⟩

theorem State.flood_sends {s : State} (hopen : s.fenced = false) (c : FMap) (root : Nat) (msg : MapMsg) : s.Sends (s.flood (some c) root msg) :=
  ⟨_, State.flood_tree hopen c root msg⟩

theorem State.flood_any_sends {s : State} (hopen : s.fenced = false) (m : Option FMap) (root : Nat) (msg : MapMsg) : s.Sends (s.flood m root msg) := by
  cases m with
  | none => exact s.floodAs_sends _ msg
  | some c => exact State.flood_sends hopen c root msg

theorem State.upTree_sends (s : State) (m : MapMsg) : s.Sends (s.upTree m) := by
  unfold State.upTree
  split
  · split
    · exact s.enqueue_sends _ _
    · exact .refl s
  · exact s.floodAs_sends _ _

/-- What was on its way still is. -/
theorem State.Sends.queued {s t : State} (h : s.Sends t) : ∀ q ∈ s.queue, q ∈ t.queue := by
  obtain ⟨ps, rfl⟩ := h
  exact fun q hq => List.mem_append_left _ hq

theorem State.Sends.only {s t : State} (h : s.Sends t) : t = { s with queue := t.queue } := by
  obtain ⟨ps, rfl⟩ := h
  rfl

/-- A message that is passed on is also noted. -/
theorem State.relay_only (s : State) (src : Nat) (m : MapMsg) : ∃ queue relayed,
    s.relay src m = { s with queue := queue, keeper := { s.keeper with relayed := relayed } } := by
  unfold State.relay
  split
  · exact ⟨s.queue, s.keeper.relayed, rfl⟩
  · rw [State.floodAs_eq]
    exact ⟨_, _, rfl⟩

theorem forL_sends {α : Type} (l : List α) (s : State) (f : α → State → State) (hf : ∀ x (t : State), t.Sends (f x t)) : s.Sends (forL l s f) :=
  forL_induct (P := fun t => s.Sends t) l f (.refl s) fun x _ t ht => ht.trans (hf x t)

theorem State.toKeepers_only (s : State) (m : MapMsg) : ∃ queue relayed,
    s.toKeepers m = { s with queue := queue, keeper := { s.keeper with relayed := relayed } } := by
  unfold State.toKeepers
  split
  · exact s.relay_only _ m
  · exact ⟨_, s.keeper.relayed, (forL_sends _ s _ fun n t => t.sendMap_sends n m 0).only⟩

theorem State.toKeeper_only (s : State) (place : Nat) (m : MapMsg) : ∃ queue relayed,
    s.toKeeper place m = { s with queue := queue, keeper := { s.keeper with relayed := relayed } } := by
  unfold State.toKeeper
  split
  · exact s.relay_only _ m
  · split
    · exact ⟨_, s.keeper.relayed, s.sendMap_eq _ _ _⟩
    · exact ⟨s.queue, s.keeper.relayed, rfl⟩

/-- A map message that leaves its input changes only the packets that have come and what the links owe. -/
theorem State.takeMap_only (s : State) (m : MapMsg) : ∃ rx links, s.takeMap m = { s with rx := rx, links := links } := by
  unfold State.takeMap
  split
  · obtain ⟨links, hlinks⟩ := State.oweCells_only _ _ _ _ _
    exact ⟨_, links, hlinks⟩
  · exact ⟨s.rx, s.links, rfl⟩

/-! ### Two ZV9s that send the same -/

/-- The same packets are on their way, and what a map message is sent by is the same. -/
structure State.SendsAlike (s t : State) : Prop where
  queue : t.queue = s.queue
  fenced : t.fenced = s.fenced
  me : t.me = s.me
  epoch : t.epoch = s.epoch
  qfUp : t.qfUp = s.qfUp
  mapOf : t.mapOf = s.mapOf
  mapCur : t.mapCur = s.mapCur
  keeperDevs : t.keeperDevs = s.keeperDevs
  keeperPos : t.keeperPos = s.keeperPos
  relayed : t.keeper.relayed = s.keeper.relayed

section Alike
variable {s t : State} (h : s.SendsAlike t)
include h

theorem State.SendsAlike.floodAs (src : Nat) (m : MapMsg) : (s.floodAs src m).SendsAlike (t.floodAs src m) := by
  have hsame : t.floodPkts src m = s.floodPkts src m := by rw [State.floodPkts, State.floodPkts, h.fenced, h.epoch, h.qfUp]
  rw [State.floodAs_eq, State.floodAs_eq, h.queue, hsame]
  exact ⟨rfl, h.fenced, h.me, h.epoch, h.qfUp, h.mapOf, h.mapCur, h.keeperDevs, h.keeperPos, h.relayed⟩

theorem State.SendsAlike.sendMap (dest : Nat) (m : MapMsg) (tag : Nat) : (s.sendMap dest m tag).SendsAlike (t.sendMap dest m tag) := by
  have hroute : t.outPort s.epoch dest 0 = s.outPort s.epoch dest 0 := by rw [State.outPort, State.outPort, h.mapOf, h.me, h.qfUp]
  have hsame : t.mapPkts dest m tag = s.mapPkts dest m tag := by rw [State.mapPkts, State.mapPkts, h.fenced, h.epoch, h.me, hroute]
  rw [State.sendMap_eq, State.sendMap_eq, h.queue, hsame]
  exact ⟨rfl, h.fenced, h.me, h.epoch, h.qfUp, h.mapOf, h.mapCur, h.keeperDevs, h.keeperPos, h.relayed⟩

theorem State.SendsAlike.relay (src : Nat) (m : MapMsg) : (s.relay src m).SendsAlike (t.relay src m) := by
  have hpassed : (t.mapCur.isSome || t.keeper.relayed.contains (src, m)) = (s.mapCur.isSome || s.keeper.relayed.contains (src, m)) := by
    rw [h.mapCur, h.relayed]
  unfold State.relay
  rw [hpassed]
  split
  · exact h
  · refine State.SendsAlike.floodAs ?_ src m
    exact ⟨h.queue, h.fenced, h.me, h.epoch, h.qfUp, h.mapOf, h.mapCur, h.keeperDevs, h.keeperPos, congrArg (· ++ [(src, m)]) h.relayed⟩

theorem State.SendsAlike.toKeeper (place : Nat) (m : MapMsg) : (s.toKeeper place m).SendsAlike (t.toKeeper place m) := by
  rw [State.toKeeper, State.toKeeper, h.mapCur, h.keeperDevs, h.keeperPos]
  split
  · exact h.relay _ m
  · split
    · exact h.sendMap _ m 0
    · exact h

end Alike

theorem State.SendsAlike.refl (s : State) : s.SendsAlike s := ⟨rfl, rfl, rfl, rfl, rfl, rfl, rfl, rfl, rfl, rfl⟩

theorem State.SendsAlike.trans {s t u : State} (h : s.SendsAlike t) (h' : t.SendsAlike u) : s.SendsAlike u :=
  ⟨h'.queue.trans h.queue, h'.fenced.trans h.fenced, h'.me.trans h.me, h'.epoch.trans h.epoch, h'.qfUp.trans h.qfUp, h'.mapOf.trans h.mapOf,
    h'.mapCur.trans h.mapCur, h'.keeperDevs.trans h.keeperDevs, h'.keeperPos.trans h.keeperPos, h'.relayed.trans h.relayed⟩

theorem State.takeMap_sendsAlike (s : State) (m : MapMsg) : s.SendsAlike (s.takeMap m) := by
  obtain ⟨rx, links, htaken⟩ := s.takeMap_only m
  rw [htaken]
  exact ⟨rfl, rfl, rfl, rfl, rfl, rfl, rfl, rfl, rfl, rfl⟩

/-- What a keeper stores of terms and votes is not what a message is sent by. -/
theorem State.SendsAlike.withKeeper {s t : State} (h : s.SendsAlike t) {k : Keeper} (hk : k.relayed = t.keeper.relayed) :
    s.SendsAlike { t with keeper := k } :=
  ⟨h.queue, h.fenced, h.me, h.epoch, h.qfUp, h.mapOf, h.mapCur, h.keeperDevs, h.keeperPos, hk.trans h.relayed⟩

/-! ### A newer term (R433) -/

/-- The bits of `QF_STATE` that say who leads are not what a message is sent by. -/
theorem State.SendsAlike.setLeader {s t : State} (h : s.SendsAlike t) (v : Nat) : s.SendsAlike (t.setFld f_QF_STATE_LEADER v) := by
  have hother (f : Fld) (i : Nat) (hf : f.addr i ≠ 0xA0000) : (t.setFld f_QF_STATE_LEADER v).fldAt f i = t.fldAt f i :=
    State.fldAt_setFldAt_ne _ _ _ _ _ _ (by decide) (.inl hf)
  have hbits (f : Fld) (hf : f.lo + f.width ≤ 50 ∨ 51 ≤ f.lo) : (t.setFld f_QF_STATE_LEADER v).fld f = t.fld f :=
    State.fldAt_setFldAt_ne _ _ _ _ _ _ (by decide) (.inr hf)
  have hflag (f : Fld) (hf : f.lo + f.width ≤ 50 ∨ 51 ≤ f.lo) : (t.setFld f_QF_STATE_LEADER v).flag f = t.flag f :=
    congrArg (· == 1) (hbits f hf)
  refine ⟨h.queue, (hflag _ (by decide)).trans h.fenced, (hother _ 0 (by decide)).trans h.me, (hbits _ (by decide)).trans h.epoch, ?_, h.mapOf, h.mapCur,
    h.keeperDevs, ?_, h.relayed⟩
  · refine Eq.trans (funext fun q => congrArg (· == 2) (hother f_QF_PORT_STATE q ?_)) h.qfUp
    simp only [Fld.addr, f_QF_PORT_STATE]
    omega
  · have hdev : (t.setFld f_QF_STATE_LEADER v).devId = t.devId := hother f_BOOT_DEVID_DEVICE_ID 0 (by decide)
    refine Eq.trans ?_ h.keeperPos
    rw [State.keeperPos, State.keeperPos, hdev]
    rfl

theorem State.seeTerm_sendsAlike {s t : State} (h : s.SendsAlike t) (term : Nat) : s.SendsAlike (t.seeTerm term) := by
  unfold State.seeTerm
  split
  · exact (h.setLeader 0).withKeeper rfl
  · exact h

theorem State.seeTerm_term (s : State) (term : Nat) : (s.seeTerm term).keeper.term = max s.keeper.term term ∧
    (s.seeTerm term).keeper.voted = s.keeper.voted ∧ (s.seeTerm term).keeper.replicated = s.keeper.replicated := by
  unfold State.seeTerm
  split
  · exact ⟨(Nat.max_eq_right (Nat.le_of_lt ‹_›)).symm, rfl, rfl⟩
  · exact ⟨(Nat.max_eq_left (Nat.not_lt.mp ‹_›)).symm, rfl, rfl⟩

theorem State.seeTerm_newer {s : State} {term : Nat} (h : s.keeper.term < term) : (s.seeTerm term).leader = false := by
  rw [State.seeTerm, if_pos h]
  exact congrArg (· == 1) (State.fld_setFld s f_QF_STATE_LEADER 0 (by decide))

theorem State.seeTerm_old {s : State} {term : Nat} (h : term ≤ s.keeper.term) : s.seeTerm term = s := if_neg (by omega)

end Sys2Proof.Machine

/-! What a new leader is told again, and a leader's first steps (R431, R433, R436, R531). -/

namespace Sys2Proof.Machine

/-! ### Telling again (R431, R436, R531) -/

/-- Alarm tables, packets on their way, and a leader's own reports may change, and nothing else. -/
structure State.Retold (s t : State) : Prop where
  only : ∃ regs queue reports, t = { s with regs := regs, queue := queue, keeper := { s.keeper with reports := reports } }
  words : ∀ o < 0x140000, t.word o = s.word o
  queued : ∀ q ∈ s.queue, q ∈ t.queue

theorem State.Retold.refl (s : State) : s.Retold s := ⟨⟨s.regs, s.queue, s.keeper.reports, rfl⟩, fun _ _ => rfl, fun _ hq => hq⟩

theorem State.Retold.trans {s t u : State} (h : s.Retold t) (h' : t.Retold u) : s.Retold u := by
  refine ⟨?_, fun o ho => (h'.words o ho).trans (h.words o ho), fun q hq => h'.queued q (h.queued q hq)⟩
  obtain ⟨regs, queue, reports, ht⟩ := h.only
  obtain ⟨regs', queue', reports', hu⟩ := h'.only
  exact ⟨regs', queue', reports', by rw [hu, ht]⟩

theorem State.Retold.setWord {s t : State} (h : s.Retold t) {off : Nat} (hoff : 0x140000 ≤ off) (w : Word) : s.Retold (t.setWord off w) := by
  refine h.trans ⟨⟨_, t.queue, t.keeper.reports, rfl⟩, fun o ho => State.word_setWord_ne _ _ _ _ (by omega), fun _ hq => hq⟩

theorem State.Retold.forL {α : Type} {s t : State} (h : s.Retold t) (l : List α) (f : α → State → State) (hf : ∀ x (u : State), u.Retold (f x u)) :
    s.Retold (Machine.forL l t f) :=
  forL_induct (P := fun u => s.Retold u) l f h fun x _ u hu => hu.trans (hf x u)

theorem State.alarmAdd_retold (s : State) {base : Nat} (hbase : 0x140000 ≤ base) (i node source cause n first last : Nat) :
    s.Retold (s.alarmAdd base i node source cause n first last) := by
  unfold State.alarmAdd
  extract_lets a w0 w1 fresh count sent key pend s1
  have h1 : s.Retold s1 := ((State.Retold.refl s).setWord (by omega) _).setWord (by omega) _
  refine State.Retold.setWord ?_ (by omega) _
  split
  · exact h1.setWord (by omega) _
  · exact h1

theorem State.tellLeader_retold (s : State) (r : Report) : s.Retold (s.tellLeader r) := by
  unfold State.tellLeader
  split
  · exact ⟨⟨s.regs, s.queue, _, rfl⟩, fun _ _ => rfl, fun _ hq => hq⟩
  · split
    · rw [State.sendMap_eq]
      exact ⟨⟨s.regs, _, s.keeper.reports, rfl⟩, fun _ _ => rfl, fun _ hq => List.mem_append_left _ hq⟩
    · exact .refl s

theorem State.resendAlarms_retold (s : State) : s.Retold s.resendAlarms :=
  (State.Retold.refl s).forL _ _ fun x t => ((State.Retold.refl t).setWord (by omega) _).setWord (by omega) _

theorem State.freshDomain_retold (s : State) : s.Retold s.freshDomain := by
  unfold State.freshDomain
  extract_lets s1
  have h1 : s.Retold s1 :=
    (State.Retold.refl s).forL _ _ fun x t => (State.Retold.refl t).forL (List.range 4) _ fun n u => (State.Retold.refl u).setWord (by omega) _
  exact h1.forL _ _ fun x t => t.alarmAdd_retold (by decide) _ _ _ _ _ _ _

theorem State.retell_retold (s : State) : s.Retold s.retell := by
  unfold State.retell
  extract_lets s1
  have h1 : s.Retold s1 := (s.resendAlarms_retold.trans (State.tellLeader_retold _ _)).trans (State.tellLeader_retold _ _)
  split
  · exact h1
  · refine h1.forL _ _ fun p t => ?_
    split
    · exact .refl t
    · split
      · exact t.tellLeader_retold _
      · exact t.tellLeader_retold _

section Told
variable {s t : State} (h : s.Retold t)
include h

theorem State.Retold.keeper : t.keeper = { s.keeper with reports := t.keeper.reports } ∧ t.mapCur = s.mapCur := by
  obtain ⟨regs, queue, reports, ht⟩ := h.only
  rw [ht]
  exact ⟨rfl, rfl⟩

theorem State.Retold.fldAt {f : Fld} {i : Nat} (hf : f.addr i < 0x140000) : t.fldAt f i = s.fldAt f i := congrArg f.get (h.words _ hf)

theorem State.Retold.flag {f : Fld} (hf : f.addr 0 < 0x140000) : t.flag f = s.flag f := congrArg (· == 1) (h.fldAt hf)

end Told

/-! ### A leader (R433) -/

/-- The ZV9 leads by its registers and its map, and nothing waits of an earlier term. -/
def State.asLeader (s : State) : State :=
  let s1 := (s.setFld f_QF_STATE_LEADER 1).setFld f_QF_STATE_LEADER_NODE s.me
  { s1 with
    mapCur := s1.mapCur.map (fun (m : FMap) => { m with leader := s1.me })
    keeper := { s1.keeper with
      candidate := false, stage := 0, changes := [], passed := [], up := none, topo := if s1.mapCur.isNone then [(s1.devId, s1.ownTopo)] else [] } }

theorem State.me_lt (s : State) : s.me < 2 ^ 16 := Fld.get_lt f_AS_NODE_NODE _

/-- A new leader that has a map, and has replicated no change, tells what it knows and does nothing else. -/
theorem State.becomeLeader_settled {s : State} (hmap : s.mapCur.isSome = true) (hnone : s.keeper.replicated = none) :
    s.becomeLeader = s.asLeader.retell.freshDomain := by
  obtain ⟨hkeeper, hcur⟩ := (s.asLeader.retell_retold.trans (State.freshDomain_retold _)).keeper
  have hreplicated : s.asLeader.retell.freshDomain.keeper.replicated = none := by
    rw [hkeeper]
    exact hnone
  have hformed : s.asLeader.retell.freshDomain.mapCur.isNone = false := by
    rw [hcur, Option.isNone_eq_false_iff]
    exact Option.isSome_map.trans hmap
  change (match s.asLeader.retell.freshDomain.keeper.replicated with | some m => _ | none => s.asLeader.retell.freshDomain.tryForm) = _
  rw [hreplicated]
  simp only [State.tryForm, hformed, Bool.and_false, Bool.false_and, Bool.false_eq_true, if_false]

theorem State.asLeader_word (s : State) (o : Nat) :
    s.asLeader.word o = ((s.setFld f_QF_STATE_LEADER 1).setFld f_QF_STATE_LEADER_NODE s.me).word o := by
  refine State.word_of_regs ?_ o
  unfold State.asLeader
  dsimp only

theorem State.asLeader_leader (s : State) : s.asLeader.leader = true := by
  have hbit : s.asLeader.fld f_QF_STATE_LEADER = 1 := by
    rw [State.fld, State.fldAt, State.asLeader_word]
    exact (State.fld_setFld_ne _ _ _ _ (by decide) (.inr (.inr (by decide)))).trans (State.fld_setFld s _ _ (by decide))
  rw [State.leader, State.flag, hbit]
  rfl

theorem State.asLeader_node (s : State) : s.asLeader.fld f_QF_STATE_LEADER_NODE = s.me := by
  rw [State.fld, State.fldAt, State.asLeader_word]
  exact (State.fld_setFld _ _ _ (by decide)).trans (Nat.mod_eq_of_lt s.me_lt)

theorem State.asLeader_mapCur (s : State) : s.asLeader.mapCur = s.mapCur.map (fun m => { m with leader := s.me }) := by
  have hme : ((s.setFld f_QF_STATE_LEADER 1).setFld f_QF_STATE_LEADER_NODE s.me).me = s.me :=
    (State.fldAt_setFldAt_ne _ _ _ _ _ _ (by decide) (.inl (by decide))).trans
      (State.fldAt_setFldAt_ne _ _ _ _ _ _ (by decide) (.inl (by decide)))
  unfold State.asLeader
  dsimp only
  rw [hme]
  rfl

theorem State.becomeLeader_leads {s : State} (hmap : s.mapCur.isSome = true) (hnone : s.keeper.replicated = none) :
    s.becomeLeader.leader = true ∧ s.becomeLeader.fld f_QF_STATE_LEADER_NODE = s.me ∧ s.becomeLeader.keeper.candidate = false ∧
      s.becomeLeader.keeper.stage = 0 ∧ s.becomeLeader.mapCur = s.mapCur.map (fun m => { m with leader := s.me }) := by
  have htold := s.asLeader.retell_retold.trans (State.freshDomain_retold _)
  obtain ⟨hkeeper, hcur⟩ := htold.keeper
  rw [State.becomeLeader_settled hmap hnone]
  refine ⟨(htold.flag (by decide)).trans s.asLeader_leader, (htold.fldAt (by decide)).trans s.asLeader_node, ?_, ?_, hcur.trans s.asLeader_mapCur⟩
  · rw [hkeeper]
    rfl
  · rw [hkeeper]
    rfl

end Sys2Proof.Machine

/-! Elections (R433, R437, R441): standing, voting, following a leader's beat, and gathering the topology. -/

namespace Sys2Proof.Machine

section Electing
variable {s : State} (halive : s.alive = true) (hopen : s.fenced = false)

/-! ### What a message that is taken leaves -/

theorem State.takeMap_keeps (s : State) (m : MapMsg) : (s.takeMap m).keeper = s.keeper ∧ (s.takeMap m).mapCur = s.mapCur ∧
    (s.takeMap m).regs = s.regs ∧ (s.takeMap m).cfg = s.cfg ∧ (s.takeMap m).queue = s.queue := by
  obtain ⟨rx, links, htaken⟩ := s.takeMap_only m
  rw [htaken]
  exact ⟨rfl, rfl, rfl, rfl, rfl⟩

theorem State.takeMap_fldAt (s : State) (m : MapMsg) (f : Fld) (i : Nat) : (s.takeMap m).fldAt f i = s.fldAt f i :=
  congrArg f.get (State.word_of_regs (s.takeMap_keeps m).2.2.1 _)

theorem State.takeMap_leader (s : State) (m : MapMsg) : (s.takeMap m).leader = s.leader :=
  congrArg (· == 1) (s.takeMap_fldAt m f_QF_STATE_LEADER 0)

theorem State.takeMap_quorum (s : State) (m : MapMsg) : (s.takeMap m).quorum = s.quorum := by
  rw [State.quorum, State.quorum, (s.takeMap_sendsAlike m).keeperDevs]

/-! ### Standing (R433) -/

include halive hopen in
theorem exec_electionTimeout {r : Nat} (hpos : s.keeperPos = some r) (hleader : s.leader = false) (hquorum : 1 < s.quorum) :
    exec .electionTimeout s = .next
      (State.toKeepers { s.setFld f_QF_STATE_KEEPER 1 with
        keeper := { s.keeper with term := s.keeper.term + 1, voted := s.keeper.term + 1, votes := [r], candidate := true } }
          (.voteReq (s.keeper.term + 1) (State.newest { s.setFld f_QF_STATE_KEEPER 1 with
            keeper := { s.keeper with term := s.keeper.term + 1, voted := s.keeper.term + 1, votes := [r], candidate := true } }))) := by
  have halone : ¬ State.quorum { s.setFld f_QF_STATE_KEEPER 1 with
      keeper := { s.keeper with term := s.keeper.term + 1, voted := s.keeper.term + 1, votes := [r], candidate := true } } ≤ 1 := Nat.not_le.mpr hquorum
  change execElectionTimeout s = _
  rw [execElectionTimeout, State.whenAlive_alive halive, hpos]
  simp only [hleader, hopen, Bool.false_eq_true, or_self, if_false, if_neg halone]

/-! ### Voting (R433) -/

/-- A keeper grants a vote to a candidate of a term in which it has not voted, that knows as much. -/
def State.grants (s : State) (term newest : Nat) : Bool :=
  decide (s.keeper.term = term ∧ s.keeper.voted < term) && !laterEpoch s.newest newest

/-- A keeper that has seen a request and passed it on. -/
def State.seesRequest (s : State) (src term newest : Nat) : State :=
  ((s.takeMap (.voteReq term newest)).relay src (.voteReq term newest)).seeTerm term

/-- A keeper that has made its decision on a request. -/
def State.decides (s : State) (term newest : Nat) : State :=
  if s.grants term newest then { s with keeper := { s.keeper with voted := term } } else s

section Request
variable {src term newest : Nat} (hsrc : src < s.keeperDevs.length) (hnew : (src, .voteReq term newest) ∉ s.keeper.relayed)

include halive hopen hsrc hnew

theorem exec_voteReq_keeper (hpos : s.keeperPos.isSome = true) : exec (.voteReq src term newest) s = .next
    (((s.seesRequest src term newest).decides term newest).toKeeper src (.vote term ((s.seesRequest src term newest).grants term newest) src)) := by
  have htaken := s.takeMap_sendsAlike (.voteReq term newest)
  have hkeeper : (s.takeMap (.voteReq term newest)).keeperPos.isNone = false := by rw [htaken.keeperPos, Option.isNone_eq_false_iff, hpos]
  have hcond : ¬ ((s.takeMap (.voteReq term newest)).fenced ∨ (s.takeMap (.voteReq term newest)).keeperDevs.length ≤ src ∨
      (s.takeMap (.voteReq term newest)).keeper.relayed.contains (src, .voteReq term newest)) := by
    rw [htaken.fenced, htaken.keeperDevs, htaken.relayed, hopen, List.contains_iff_mem]
    simp only [Bool.false_eq_true, hnew, Nat.not_le.mpr hsrc, or_self, not_false_eq_true]
  change execVoteReq src term newest s = _
  rw [execVoteReq, State.whenAlive_alive halive, if_neg hcond, hkeeper, if_neg Bool.false_ne_true]
  rfl

theorem exec_voteReq_other (hpos : s.keeperPos = none) :
    exec (.voteReq src term newest) s = .next ((s.takeMap (.voteReq term newest)).relay src (.voteReq term newest)) := by
  have htaken := s.takeMap_sendsAlike (.voteReq term newest)
  have hcond : ¬ ((s.takeMap (.voteReq term newest)).fenced ∨ (s.takeMap (.voteReq term newest)).keeperDevs.length ≤ src ∨
      (s.takeMap (.voteReq term newest)).keeper.relayed.contains (src, .voteReq term newest)) := by
    rw [htaken.fenced, htaken.keeperDevs, htaken.relayed, hopen, List.contains_iff_mem]
    simp only [Bool.false_eq_true, hnew, Nat.not_le.mpr hsrc, or_self, not_false_eq_true]
  change execVoteReq src term newest s = _
  rw [execVoteReq, State.whenAlive_alive halive, if_neg hcond, htaken.keeperPos, hpos]
  rfl

end Request

/-- A request that is seen and passed on raises the term, and nothing else that a vote is judged by changes. -/
theorem State.seesRequest_keeper (s : State) (src term newest : Nat) :
    (s.seesRequest src term newest).keeper.term = max s.keeper.term term ∧ (s.seesRequest src term newest).keeper.voted = s.keeper.voted ∧
      (s.seesRequest src term newest).newest = s.newest := by
  obtain ⟨hterm, hvoted, hreplicated⟩ := ((s.takeMap (.voteReq term newest)).relay src (.voteReq term newest)).seeTerm_term term
  have hepoch := (State.seeTerm_sendsAlike (.refl ((s.takeMap (.voteReq term newest)).relay src (.voteReq term newest))) term).epoch
  obtain ⟨queue, relayed, hrelayed⟩ := (s.takeMap (.voteReq term newest)).relay_only src (.voteReq term newest)
  obtain ⟨rx, links, htaken⟩ := s.takeMap_only (.voteReq term newest)
  unfold State.seesRequest
  rw [hrelayed, htaken] at hterm hvoted hreplicated hepoch ⊢
  exact ⟨hterm, hvoted, by rw [State.newest, State.newest, hreplicated, hepoch]; rfl⟩

theorem State.seesRequest_grants (s : State) (src term newest : Nat) : (s.seesRequest src term newest).grants term newest =
    (decide (s.keeper.term ≤ term ∧ s.keeper.voted < term) && !laterEpoch s.newest newest) := by
  obtain ⟨hterm, hvoted, hnewest⟩ := s.seesRequest_keeper src term newest
  have hown : max s.keeper.term term = term ↔ s.keeper.term ≤ term := by omega
  simp only [State.grants, hterm, hvoted, hnewest, hown]

theorem State.decides_keeper (s : State) (term newest : Nat) : (s.decides term newest).keeper.term = s.keeper.term ∧
    (s.decides term newest).keeper.voted = (if s.grants term newest then term else s.keeper.voted) ∧ (s.decides term newest).leader = s.leader := by
  unfold State.decides
  split
  · exact ⟨rfl, rfl, rfl⟩
  · exact ⟨rfl, rfl, rfl⟩

theorem State.decides_sendsAlike {s t : State} (h : s.SendsAlike t) (term newest : Nat) : s.SendsAlike (t.decides term newest) := by
  unfold State.decides
  split
  · exact h.withKeeper rfl
  · exact h

/-- The answer to a request, and how the keeper stands after it. -/
theorem State.answersRequest (s : State) (src term newest : Nat) (granted : Bool) :
    let t := ((s.seesRequest src term newest).decides term newest).toKeeper src (.vote term granted src)
    t.keeper.term = max s.keeper.term term ∧
      t.keeper.voted = (if (s.seesRequest src term newest).grants term newest then term else s.keeper.voted) ∧
      t.queue = ((s.relay src (.voteReq term newest)).toKeeper src (.vote term granted src)).queue ∧ (s.keeper.term < term → t.leader = false) := by
  obtain ⟨hterm, hvoted, -⟩ := s.seesRequest_keeper src term newest
  obtain ⟨hdterm, hdvoted, hdleader⟩ := (s.seesRequest src term newest).decides_keeper term newest
  obtain ⟨queue, relayed, honly⟩ := ((s.seesRequest src term newest).decides term newest).toKeeper_only src (.vote term granted src)
  have hseen : (s.relay src (.voteReq term newest)).SendsAlike (s.seesRequest src term newest) :=
    State.seeTerm_sendsAlike ((State.takeMap_sendsAlike s _).relay src _) term
  have hsent := (State.decides_sendsAlike hseen term newest).toKeeper src (.vote term granted src)
  refine ⟨?_, ?_, hsent.queue, fun hlower => ?_⟩
  · rw [honly]
    exact hdterm.trans hterm
  · rw [honly]
    exact hdvoted.trans (by rw [hvoted])
  · rw [honly]
    refine hdleader.trans (State.seeTerm_newer ?_)
    obtain ⟨queue', relayed', hrelayed⟩ := (s.takeMap (.voteReq term newest)).relay_only src (.voteReq term newest)
    rw [hrelayed, (s.takeMap_keeps (.voteReq term newest)).1]
    exact hlower

/-! ### Votes -/

section Vote
variable {src term place : Nat}

include halive hopen in
/-- A vote for another candidate is passed on (R441). -/
theorem exec_vote_other (granted : Bool) (hother : some place ≠ s.keeperPos) : exec (.vote src term granted (some place)) s =
    .next ((s.takeMap (.vote term granted place)).relay src (.vote term granted place)) := by
  have htaken := s.takeMap_sendsAlike (.vote term granted place)
  have hplace : (some place <|> s.keeperPos).getD 0 = place := rfl
  change execVote src term granted s (some place) = _
  rw [execVote, State.whenAlive_alive halive, hplace]
  dsimp only
  rw [htaken.keeperPos, if_pos hother, htaken.fenced, hopen, if_neg Bool.false_ne_true]

/-- The votes that a candidate has, with one more. -/
def State.votesWith (s : State) (src : Nat) : List Nat := if s.keeper.votes.contains src then s.keeper.votes else s.keeper.votes ++ [src]

/-- A candidate that takes a vote. -/
def State.takesVote (s : State) (src term place : Nat) : State :=
  { s.takeMap (.vote term true place) with keeper := { s.keeper with votes := s.votesWith src } }

include halive

/-- A vote that is not granted is only taken. -/
theorem exec_vote_refused (hpos : s.keeperPos = some place) : exec (.vote src term false) s = .next (s.takeMap (.vote term false place)) := by
  have htaken := s.takeMap_sendsAlike (.vote term false place)
  have hplace : (none <|> some place : Option Nat).getD 0 = place := rfl
  change execVote src term false s none = _
  rw [execVote, State.whenAlive_alive halive, hpos, hplace]
  dsimp only
  rw [htaken.keeperPos, hpos, if_neg (not_not_intro rfl), if_pos (.inr (.inr (.inl rfl)))]

include hopen

theorem exec_vote_granted (hpos : s.keeperPos = some place) (hcandidate : s.keeper.candidate = true) (hterm : s.keeper.term = term)
    (hsrc : src < s.keeperDevs.length) : exec (.vote src term true) s = .next
      (if s.quorum ≤ (s.votesWith src).length then (s.takesVote src term place).becomeLeader else s.takesVote src term place) := by
  have htaken := s.takeMap_sendsAlike (.vote term true place)
  obtain ⟨hkeeper, -⟩ := s.takeMap_keeps (.vote term true place)
  have hquorum := s.takeMap_quorum (.vote term true place)
  have hplace : (none <|> some place : Option Nat).getD 0 = place := rfl
  have hcounts : ¬ (!(s.takeMap (.vote term true place)).keeper.candidate ∨ (s.takeMap (.vote term true place)).keeper.term ≠ term ∨ (!true) = true ∨
      (s.takeMap (.vote term true place)).keeperDevs.length ≤ src ∨ (s.takeMap (.vote term true place)).fenced) := by
    rw [hkeeper, hcandidate, hterm, htaken.keeperDevs, htaken.fenced, hopen]
    simp only [Bool.not_true, Bool.false_eq_true, ne_eq, not_true_eq_false, Nat.not_le.mpr hsrc, or_self, not_false_eq_true]
  change execVote src term true s none = _
  rw [execVote, State.whenAlive_alive halive, hpos, hplace]
  dsimp only
  rw [htaken.keeperPos, hpos, if_neg (not_not_intro rfl), if_neg hcounts, hkeeper]
  change Host.Outcome.next (if (s.takeMap (.vote term true place)).quorum ≤ (s.votesWith src).length then _ else _) = _
  rw [hquorum]
  rfl

end Vote

/-! ### Beats (R437) -/

/-- The leader that a beat names is followed: its term, its place in the registers and in the map. -/
def State.follows (s : State) (src term : Nat) : State :=
  { (s.seeTerm term).setFld f_QF_STATE_LEADER_NODE src with
    mapCur := ((s.seeTerm term).setFld f_QF_STATE_LEADER_NODE src).mapCur.map (fun (m : FMap) => { m with leader := src }) }

/-- A beat says something new: a newer term, or another leader. -/
def State.isNews (s : State) (src term : Nat) : Bool := decide (s.keeper.term < term) || s.fld f_QF_STATE_LEADER_NODE != src

/-- A beat that is followed, with what a new leader is told again. -/
def State.heeds (s : State) (src term : Nat) : State := if s.isNews src term then (s.follows src term).retell else s.follows src term

/-- Where a beat goes on, and what is answered to it (R437, R441). -/
def State.passesBeat (s : State) (src term epoch : Nat) (news : Bool) (from_ : Option Nat) : State :=
  match s.mapCur with
  | some m => if (s.flood (some m) src (.beat term epoch)).epoch ≠ epoch then (s.flood (some m) src (.beat term epoch)).sendMap src (.fetch epoch)
    else s.flood (some m) src (.beat term epoch)
  | none =>
    if epoch ≠ 0 then (match from_ with
      | some p => if 4 ≤ p ∧ s.qfUp (p - 4) then s.enqueue p (.map s.me 0xFFFF s.epoch (.fetch epoch)) else s
      | none => s)
    else if news then ({ s with keeper := { s.keeper with up := from_ } }.floodMap (.beat term epoch)).upTree (.topo s.devId s.ownTopo)
    else s

/-- The input by which a beat came. -/
def State.beatFrom (s : State) (term epoch : Nat) : Option Nat :=
  (s.rx.find? (fun x => match x.2 with | .map _ _ _ y _ _ _ => y == .beat term epoch | _ => false)).map (·.1)

section Beat
variable {src term epoch : Nat}

include halive in
/-- A beat of an earlier term is only taken. -/
theorem exec_beat_stale (hterm : term < s.keeper.term) : exec (.beat src term epoch) s = .next (s.takeMap (.beat term epoch)) := by
  have hstale : term < (s.takeMap (.beat term epoch)).keeper.term := by
    rw [(s.takeMap_keeps (.beat term epoch)).1]
    exact hterm
  change execBeat src term epoch s = _
  rw [execBeat, State.whenAlive_alive halive, if_pos (.inl hstale)]

include halive hopen in
theorem exec_beat_followed (hterm : s.keeper.term ≤ term) (hother : s.leader = true → s.keeper.term < term) : exec (.beat src term epoch) s = .next
    (((s.takeMap (.beat term epoch)).heeds src term).passesBeat src term epoch ((s.takeMap (.beat term epoch)).isNews src term) (s.beatFrom term epoch)) := by
  obtain ⟨hkeeper, -⟩ := s.takeMap_keeps (.beat term epoch)
  have htaken := s.takeMap_sendsAlike (.beat term epoch)
  have hfollows : ¬ (term < (s.takeMap (.beat term epoch)).keeper.term ∨
      ((s.takeMap (.beat term epoch)).leader ∧ term = (s.takeMap (.beat term epoch)).keeper.term) ∨ (s.takeMap (.beat term epoch)).fenced) := by
    rw [hkeeper, s.takeMap_leader, htaken.fenced, hopen]
    rintro (h | ⟨h, hsame⟩ | h)
    · omega
    · have := hother h
      omega
    · exact Bool.noConfusion h
  change execBeat src term epoch s = _
  rw [execBeat, State.whenAlive_alive halive, if_neg hfollows]
  rfl

end Beat

/-- Packets are given to the switch core, and the port toward the leader may be learnt. -/
def State.Heads (s t : State) : Prop := ∃ ps up, t = { s with queue := s.queue ++ ps, keeper := { s.keeper with up := up } }

theorem State.Sends.heads {s t : State} (h : s.Sends t) : s.Heads t := by
  obtain ⟨ps, rfl⟩ := h
  exact ⟨ps, s.keeper.up, rfl⟩

theorem State.passesBeat_heads {s : State} (hopen : s.fenced = false) (src term epoch : Nat) (news : Bool) (from_ : Option Nat) :
    s.Heads (s.passesBeat src term epoch news from_) := by
  unfold State.passesBeat
  split
  · rename_i m _
    have hflood := State.flood_sends hopen m src (.beat term epoch)
    split
    · exact (hflood.trans (State.sendMap_sends ..)).heads
    · exact hflood.heads
  · split
    · split
      · split
        · exact (s.enqueue_sends _ _).heads
        · exact (State.Sends.refl s).heads
      · exact (State.Sends.refl s).heads
    · split
      · obtain ⟨ps, hps⟩ := (State.floodAs_sends { s with keeper := { s.keeper with up := from_ } } _ _).trans (State.upTree_sends _ _)
        exact ⟨ps, from_, hps⟩
      · exact (State.Sends.refl s).heads

/-- The state that follows a leader. -/
theorem State.follows_leader {s : State} (src : Nat) {term : Nat} (hterm : s.keeper.term ≤ term) (hother : s.leader = true → s.keeper.term < term) :
    (s.follows src term).keeper.term = term ∧ (s.follows src term).leader = false ∧ (s.follows src term).fld f_QF_STATE_LEADER_NODE = src % 2 ^ 16 ∧
      (s.follows src term).mapCur = s.mapCur.map (fun m => { m with leader := src }) ∧ (s.follows src term).epoch = s.epoch ∧
      (s.follows src term).queue = s.queue ∧ (s.follows src term).fenced = s.fenced := by
  have hseen := State.seeTerm_sendsAlike (.refl s) term
  have hleader : (s.seeTerm term).leader = false := by
    rcases Nat.lt_or_ge s.keeper.term term with hlower | hsame
    · exact State.seeTerm_newer hlower
    · rw [State.seeTerm_old hsame, Bool.eq_false_iff]
      exact fun h => absurd (hother h) (by omega)
  have hbits (f : Fld) (hf : f.lo + f.width ≤ 32 ∨ 48 ≤ f.lo) :
      ((s.seeTerm term).setFld f_QF_STATE_LEADER_NODE src).fld f = (s.seeTerm term).fld f :=
    State.fld_setFld_ne _ _ _ _ (by decide) (.inr hf)
  obtain ⟨hseenterm, -⟩ := s.seeTerm_term term
  refine ⟨hseenterm.trans (by omega), (congrArg (· == 1) (hbits f_QF_STATE_LEADER (by decide))).trans hleader, State.fld_setFld _ _ _ (by decide), ?_,
    (hbits f_QF_STATE_EPOCH (by decide)).trans hseen.epoch, hseen.queue, (congrArg (· == 1) (hbits f_QF_STATE_FENCED (by decide))).trans hseen.fenced⟩
  exact congrArg (Option.map _) hseen.mapCur

/-- What a beat that is followed leaves: the leader's term, node and map. -/
theorem State.heeds_leader {s : State} (src : Nat) {term : Nat} (hterm : s.keeper.term ≤ term) (hother : s.leader = true → s.keeper.term < term) :
    (s.heeds src term).keeper.term = term ∧ (s.heeds src term).leader = false ∧ (s.heeds src term).fld f_QF_STATE_LEADER_NODE = src % 2 ^ 16 ∧
      (s.heeds src term).mapCur = s.mapCur.map (fun m => { m with leader := src }) ∧ (s.heeds src term).epoch = s.epoch ∧
      (∀ q ∈ s.queue, q ∈ (s.heeds src term).queue) ∧ (s.heeds src term).fenced = s.fenced := by
  obtain ⟨hown, hleader, hnode, hmap, hepoch, hqueue, hfenced⟩ := State.follows_leader src hterm hother
  have htold := (s.follows src term).retell_retold
  obtain ⟨hkeeper, hcur⟩ := htold.keeper
  unfold State.heeds
  split
  · refine ⟨by rw [hkeeper]; exact hown, (htold.flag (by decide)).trans hleader, (htold.fldAt (by decide)).trans hnode, hcur.trans hmap,
      (htold.fldAt (by decide)).trans hepoch, fun q hq => htold.queued q (by rw [hqueue]; exact hq), (htold.flag (by decide)).trans hfenced⟩
  · exact ⟨hown, hleader, hnode, hmap, hepoch, fun q hq => by rw [hqueue]; exact hq, hfenced⟩

/-! ### A leader's beat (R437) -/

theorem State.mem_floodPkts {s : State} (hopen : s.fenced = false) (src : Nat) (m : MapMsg) {q : Nat} (hq : q < 8) (hup : s.qfUp q = true) :
    (⟨12, 4 + q, .map src 0xFFFF s.epoch m, none⟩ : Queued) ∈ s.floodPkts src m := by
  rw [State.floodPkts, hopen, Bool.false_and, if_neg Bool.false_ne_true]
  exact List.mem_map_of_mem (List.mem_filter.mpr ⟨List.mem_range.mpr hq, hup⟩)

include halive hopen in
/-- A leader without reports and without a change to start only sends its beat. -/
theorem exec_beatSend_quiet (hleader : s.leader = true) (hreports : s.keeper.reports = []) (hidle : s.keeper.stage ≠ 0 ∨ s.keeper.changes = []) :
    exec .beatSend s = .next (s.flood s.mapCur s.me (.beat s.keeper.term s.epoch)) := by
  have hnone : ({ s with keeper := { s.keeper with reports := [] } } : State) = s := by rw [← hreports]
  have hsends := State.flood_any_sends hopen s.mapCur s.me (.beat s.keeper.term s.epoch)
  have hpump : (s.flood s.mapCur s.me (.beat s.keeper.term s.epoch)).pump = s.flood s.mapCur s.me (.beat s.keeper.term s.epoch) := by
    refine if_pos (.inr ?_)
    rw [hsends.only]
    exact hidle.imp_right .inr
  change execBeatSend s = _
  rw [execBeatSend, State.whenAlive_alive halive, hnone, hreports]
  simp only [hleader, hopen, Bool.not_true, Bool.false_eq_true, or_self, if_false]
  exact congrArg Host.Outcome.next hpump

include halive in
theorem exec_beatSend_other (hleader : s.leader = false) : exec .beatSend s = .next s := by
  change execBeatSend s = _
  rw [execBeatSend, State.whenAlive_alive halive]
  simp only [hleader, Bool.not_false, true_or, if_true]

/-! ### Gathering the topology (R441) -/

/-- A topology record is kept. -/
def State.gathers (s : State) (dev : Nat) (links : List (Nat × Nat × Nat)) : State :=
  { s.takeMap (.topo dev links) with keeper := { s.keeper with topo := s.keeper.topo ++ [(dev, links)] } }

include halive in
theorem exec_topo_gathers {dev : Nat} {links : List (Nat × Nat × Nat)} (hmap : s.mapCur = none) (hleader : s.leader = false)
    (hnew : s.keeper.topo.any (fun t => t.1 == dev) = false) : exec (.topo dev links) s = .next ((s.gathers dev links).upTree (.topo dev links)) := by
  obtain ⟨hkeeper, hcur, -⟩ := s.takeMap_keeps (.topo dev links)
  have hgathers : ¬ ((s.takeMap (.topo dev links)).mapCur.isSome ∨ (s.takeMap (.topo dev links)).keeper.topo.any (fun t => t.1 == dev)) := by
    rw [hkeeper, hcur, hmap, hnew]
    simp only [Option.isSome_none, Bool.false_eq_true, or_self, not_false_eq_true]
  have hlead : (s.gathers dev links).leader = false := (s.takeMap_leader (.topo dev links)).trans hleader
  change execTopo dev links s = _
  rw [execTopo, State.whenAlive_alive halive, if_neg hgathers, hkeeper]
  exact congrArg Host.Outcome.next (if_neg (by rw [Bool.not_eq_true]; exact hlead))

include halive in
theorem exec_neighbourExchange {q dev : Nat} (hq : q < 8) (hup : s.qfUp q = true) : exec (.neighbourExchange q dev) s =
    .next (if s.keeperPos.isSome then
      { s with links := upd s.links (fun l => l.port == 4 + q) (fun l => { l with peerDev := dev }) }.setFld f_QF_STATE_KEEPER 1
    else { s with links := upd s.links (fun l => l.port == 4 + q) (fun l => { l with peerDev := dev }) }) := by
  change execNeighbourExchange q dev s = _
  rw [execNeighbourExchange, State.whenAlive_alive halive]
  simp only [Nat.not_le.mpr hq, hup, Bool.not_true, Bool.false_eq_true, or_self, if_false]
  rfl

end Electing

/-- Settles O52. -/
theorem elections : Obligations.Elections := by
  unfold Obligations.Elections
  intro s src term x halive hopen
  refine ⟨?_, ?_, ?_, ?_, ?_, ?_, ?_, ?_, ?_, ?_⟩
  · intro r hpos hleader hquorum
    obtain ⟨queue, relayed, honly⟩ := State.toKeepers_only { s.setFld f_QF_STATE_KEEPER 1 with
      keeper := { s.keeper with term := s.keeper.term + 1, voted := s.keeper.term + 1, votes := [r], candidate := true } }
      (.voteReq (s.keeper.term + 1) (State.newest { s.setFld f_QF_STATE_KEEPER 1 with
        keeper := { s.keeper with term := s.keeper.term + 1, voted := s.keeper.term + 1, votes := [r], candidate := true } }))
    refine ⟨_, exec_electionTimeout halive hopen hpos hleader hquorum, ?_⟩
    rw [honly]
    exact ⟨rfl, congrArg (· == 1) (State.fld_setFld s f_QF_STATE_KEEPER 1 (by decide)), rfl⟩
  · intro hsrc hnew u ok
    refine ⟨fun hpos => ?_, exec_voteReq_other halive hopen hsrc hnew⟩
    have hanswers := exec_voteReq_keeper halive hopen hsrc hnew hpos
    obtain ⟨hterm, hvoted, hqueue, hleader⟩ := s.answersRequest src term x ok
    rw [s.seesRequest_grants] at hanswers hvoted
    exact ⟨_, hanswers, hterm, hvoted, hqueue, hleader⟩
  · intro place granted hother
    exact exec_vote_other halive hopen granted hother
  · intro place hpos hcandidate hterm hsrc votes
    have hgranted := exec_vote_granted halive hopen hpos hcandidate hterm hsrc
    refine ⟨fun hfew => ?_, fun hmany hmap hnone => ?_, exec_vote_refused halive hpos⟩
    · exact hgranted.trans (congrArg Host.Outcome.next (if_neg (Nat.not_le.mpr hfew)))
    · obtain ⟨hkeeper, hcur, hregs, -⟩ := s.takeMap_keeps (.vote term true place)
      have hmap' : (s.takesVote src term place).mapCur.isSome = true := by
        rw [← hmap]
        exact congrArg Option.isSome hcur
      obtain ⟨hleads, hnode, hstands, hstage, hleader⟩ := State.becomeLeader_leads hmap' hnone
      have hme : (s.takesVote src term place).me = s.me := (s.takeMap_sendsAlike (.vote term true place)).me
      refine ⟨_, hgranted.trans (congrArg Host.Outcome.next (if_pos hmany)), hleads, hnode.trans hme, hstands, hstage, hleader.trans ?_⟩
      rw [hme]
      exact congrArg (Option.map _) hcur
  · intro hterm hother
    have htaken := s.takeMap_sendsAlike (.beat term x)
    obtain ⟨hkeeper, -⟩ := s.takeMap_keeps (.beat term x)
    obtain ⟨hown, hleader, hnode, hmap, hepoch, hqueue, hfenced⟩ := State.heeds_leader (s := s.takeMap (.beat term x)) (term := term) src
      (by rw [hkeeper]; exact hterm) (by rw [s.takeMap_leader, hkeeper]; exact hother)
    obtain ⟨ps, up, hpasses⟩ := State.passesBeat_heads (hfenced.trans (htaken.fenced.trans hopen)) src term x
      ((s.takeMap (.beat term x)).isNews src term) (s.beatFrom term x)
    refine ⟨_, exec_beat_followed halive hopen hterm hother, ?_⟩
    rw [hpasses]
    exact ⟨hown, hleader, hnode, hmap.trans (by rw [htaken.mapCur]), hepoch.trans htaken.epoch,
      fun q hq => List.mem_append_left _ (hqueue q (by rw [htaken.queue]; exact hq))⟩
  · exact exec_beat_stale halive
  · intro hleader hreports hidle
    have hbeat := exec_beatSend_quiet halive hopen hleader hreports hidle
    have hsends := State.flood_any_sends hopen s.mapCur s.me (.beat s.keeper.term s.epoch)
    refine ⟨_, hbeat, hsends.only, fun hnone q hq hup => ?_, fun m n p hsome hkid hport => ?_⟩
    · rw [hnone]
      change _ ∈ (s.floodAs s.me _).queue
      rw [State.floodAs_eq]
      exact List.mem_append_right _ (State.mem_floodPkts hopen _ _ hq hup)
    · rw [hsome, State.flood_tree hopen]
      refine List.mem_append_right _ (List.mem_flatMap.mpr ⟨n, hkid, ?_⟩)
      rw [State.kidPkts, hport]
      exact List.mem_singleton_self _
  · exact exec_beatSend_other halive
  · intro dev links hmap hleader hnew
    obtain ⟨rx, owed, htaken⟩ := s.takeMap_only (.topo dev links)
    have hsends := (s.gathers dev links).upTree_sends (.topo dev links)
    refine ⟨_, exec_topo_gathers halive hmap hleader hnew, hsends.only, fun hup q hq hport => ?_, fun q hup hport => ?_⟩
    · have hflood : (s.gathers dev links).upTree (.topo dev links) = (s.gathers dev links).floodMap (.topo dev links) := by
        rw [State.upTree, show (s.gathers dev links).keeper.up = none from hup]
      rw [hflood, State.floodMap, State.floodAs_eq]
      refine List.mem_append_right _ ?_
      rw [State.gathers, htaken]
      exact State.mem_floodPkts (s := { s with rx := rx, links := owed, keeper := { s.keeper with topo := s.keeper.topo ++ [(dev, links)] } })
        hopen s.me (.topo dev links) hq hport
    · have hopens : (4 ≤ 4 + q && (s.gathers dev links).qfUp (4 + q - 4) && !(s.gathers dev links).fenced) = true := by
        rw [State.gathers, htaken, Nat.add_sub_cancel_left, decide_eq_true (Nat.le_add_right 4 q)]
        change (true && s.qfUp q && !s.fenced) = true
        rw [hport, hopen]
        rfl
      rw [State.upTree, show (s.gathers dev links).keeper.up = some (4 + q) from hup]
      dsimp only
      rw [if_pos hopens, State.gathers, htaken]
      rfl
  · intro q dev hq hup
    have hlinks : upd s.links (fun l => l.port == 4 + q) (fun l => { l with peerDev := dev }) =
        s.links.map (fun l => if l.port = 4 + q then { l with peerDev := dev } else l) := by simp only [upd, beq_iff_eq]
    refine ⟨_, exec_neighbourExchange halive hq hup, ?_, fun hkeeper => ?_, ?_⟩
    · split <;> rfl
    · rw [hkeeper, if_pos rfl]
      exact congrArg (· == 1) (State.fld_setFld _ f_QF_STATE_KEEPER 1 (by decide))
    · rw [← hlinks]
      split <;> rfl

end Sys2Proof.Machine

/-! Ports and their links (R402, R448, R450, R479): the fields of a port's registers, the link of a port that comes up, and reports to the leader. -/

namespace Sys2Proof.Machine

/-! ### Fields of one register -/

/-- A field at other bits, of whichever register, is not touched. -/
theorem State.fldAt_setFldAt_bits (s : State) {f g : Fld} (hf : f.lo + f.width ≤ 64) (hd : g.lo + g.width ≤ f.lo ∨ f.lo + f.width ≤ g.lo) (i j v : Nat) :
    (s.setFldAt f i v).fldAt g j = s.fldAt g j := State.fldAt_setFldAt_ne s f g i j v hf (.inr hd)

/-- A field of another register is not touched. -/
theorem State.fldAt_setFldAt_addr (s : State) {f g : Fld} {i j : Nat} (v : Nat) (h : g.addr j ≠ f.addr i) :
    (s.setFldAt f i v).fldAt g j = s.fldAt g j := congrArg g.get (State.word_setFldAt_ne s f i v h)

/-- A register of a port is written, and no other. -/
theorem State.setFldAt_onlyWords (s : State) (f : Fld) (i v : Nat) {o : Nat} (ho : f.addr i = o) : s.OnlyWords (s.setFldAt f i v) [o] :=
  ⟨rfl, fun x hx => State.word_setFldAt_ne s f i v (by rw [ho]; exact fun h => hx (List.mem_singleton.mpr h))⟩

theorem State.fldAt_of_regs {s t : State} (h : t.regs = s.regs) (f : Fld) (i : Nat) : t.fldAt f i = s.fldAt f i :=
  congrArg f.get (State.word_of_regs h _)

/-! ### A link that comes up (R479) -/

/-- A list in which the last record takes the place of those that a search names. -/
theorem find?_replaced {α : Type} (l : List α) {p : α → Bool} {x : α} (hx : p x = true) : (del l p ++ [x]).find? p = some x := by
  rw [List.find?_append, find?_del_same, Option.none_or, List.find?_cons_of_pos hx]

/-- The cells that a link advertises are read at `STORE_LIMIT` alone. -/
theorem State.newLink_congr {s t : State} (h : ∀ o, 0xC1000 ≤ o → t.word o = s.word o) (port dev : Nat) : t.newLink port dev = s.newLink port dev := by
  have hallot (row tc : Nat) : t.allotment row tc = s.allotment row tc := by
    refine congrArg (limitFld tc).get (h _ ?_)
    simp only [Fld.addr, limitFld]
    split <;> omega
  simp only [State.newLink, hallot]

/-- The link of a port is replaced by a new one. -/
theorem State.link_replaced (s : State) {port dev : Nat} {t : State}
    (hlinks : t.links = del s.links (fun l => l.port == port) ++ [s.newLink port dev]) : t.link port = some (s.newLink port dev) := by
  rw [State.link, hlinks]
  exact find?_replaced s.links (beq_self_eq_true port)

theorem State.link_removed (s : State) {port : Nat} {t : State} (hlinks : t.links = del s.links (fun l => l.port == port)) : t.link port = none := by
  rw [State.link, hlinks]
  exact find?_del_same ..

theorem links_eventBlind : EventBlind State.links := ⟨fun _ _ => rfl, fun _ _ _ => rfl, fun _ _ => rfl, fun _ _ => rfl, fun _ _ => rfl, fun _ _ => rfl,
  fun _ _ _ => rfl, fun _ _ => rfl⟩

/-! ### Reports (R431, R439) -/

/-- A report changes packets on their way and the leader's own reports alone. -/
theorem State.tellPorts_only (s old : State) : ∃ keeper queue, s.tellPorts old = { s with keeper := keeper, queue := queue } := by
  unfold State.tellPorts
  split
  · exact ⟨s.keeper, s.queue, rfl⟩
  · exact s.tellLeader_only _

theorem State.tellUp_only (s : State) (m : FMap) (port dev peerPort : Nat) :
    ∃ keeper queue, s.tellUp m port dev peerPort = { s with keeper := keeper, queue := queue } := by
  unfold State.tellUp
  split <;> exact s.tellLeader_only _

end Sys2Proof.Machine

/-! How ports come up, are refused, and are tested (R402 to R404, R407, R449 to R454, R467). -/

namespace Sys2Proof.Machine

/-! ### Quaril ports (R402 to R404) -/

section Quaril
variable {s : State} {q : Nat}

/-- The registers of a port that is refused. -/
theorem State.refuseQf_fields (s : State) {q : Nat} (hq : q < 8) {cause : Nat} (hcause : cause < 16) :
    (s.refuseQf q cause).fldAt f_QF_PORT_STATE q = 3 ∧ (s.refuseQf q cause).fldAt f_QF_PORT_REFUSE q = cause := by
  have hword : (s.refuseQf q cause).word (0xA0080 + 8 * q) =
      ((s.setFldAt f_QF_PORT_STATE q 3).setFldAt f_QF_PORT_REFUSE q cause).word (0xA0080 + 8 * q) :=
    State.raise_word _ _ (by omega) (by omega)
  have hfield (f : Fld) (hf : f.addr q = 0xA0080 + 8 * q) : (s.refuseQf q cause).fldAt f q =
      ((s.setFldAt f_QF_PORT_STATE q 3).setFldAt f_QF_PORT_REFUSE q cause).fldAt f q := by rw [State.fldAt, State.fldAt, hf, hword]
  have haddr : f_QF_PORT_STATE.addr q = 0xA0080 + 8 * q := by simp only [Fld.addr, f_QF_PORT_STATE]
  rw [hfield f_QF_PORT_STATE haddr, hfield f_QF_PORT_REFUSE haddr]
  exact ⟨(State.fldAt_setFldAt_bits _ (by decide) (by decide) _ _ _).trans (State.fldAt_setFldAt _ _ _ _ (by decide)),
    (State.fldAt_setFldAt _ _ _ _ (by decide)).trans (Nat.mod_eq_of_lt hcause)⟩

/-- A port that has come up with version `v`. -/
def State.qfComesUp (s : State) (q v : Nat) (tr : Training) : State :=
  let s1 := (((s.setFldAt f_QF_PORT_STATE q 2).setFldAt f_QF_PORT_VER_MAJOR q (v / 16)).setFldAt f_QF_PORT_VER_MINOR q (v % 16)).setFldAt
    f_QF_PORT_PEER_PORT q tr.peerPort
  { s1 with
    links := del s1.links (fun l => l.port == 4 + q) ++ [s1.newLink (4 + q) tr.peerDev]
    keeper := { s1.keeper with suspects := s1.keeper.suspects.filter (· != q) } }

/-- A port that has come up is reported, when there is a map (R431). -/
def State.qfReported (s : State) (q : Nat) (tr : Training) : State :=
  match s.mapCur with
  | none => s
  | some m => (s.setFldAt f_QF_PORT_PEER_NODE q ((m.nodeOfDev tr.peerDev).getD 0)).tellUp m q tr.peerDev tr.peerPort

/-- The report leaves the links, and every field of the port but the peer's node. -/
theorem State.qfReported_keeps (s : State) (q : Nat) (tr : Training) : (s.qfReported q tr).links = s.links ∧
    ∀ f : Fld, f.lo + f.width ≤ 48 → (s.qfReported q tr).fldAt f q = s.fldAt f q := by
  unfold State.qfReported
  split
  · exact ⟨rfl, fun _ _ => rfl⟩
  · rename_i m _
    obtain ⟨keeper, queue, honly⟩ := (s.setFldAt f_QF_PORT_PEER_NODE q ((m.nodeOfDev tr.peerDev).getD 0)).tellUp_only m q tr.peerDev tr.peerPort
    rw [honly]
    exact ⟨rfl, fun f hf => State.fldAt_setFldAt_bits _ (by decide) (.inl hf) _ _ _⟩

/-- The end of a training without failure. -/
def State.qfTrains (s : State) (q : Nat) (tr : Training) : State :=
  match commonVersion 0x14 0x21 tr.verMin tr.verMax with
  | none => s.refuseQf q 1
  | some v =>
    if s.cfg.map (·.domain) ≠ some tr.domain then s.refuseQf q 2
    else if tr.peerDev = s.devId then s.refuseQf q 3
    else (s.qfComesUp q v tr).qfReported q tr

theorem exec_qfPortTrain_dill {tr : Training} (halive : s.alive = true) (hdill : q ∈ s.dill) : exec (.qfPortTrain q tr) s = .next s := by
  change execQfPortTrain q tr s = _
  rw [execQfPortTrain, State.whenAlive_alive halive, if_pos (.inr (.inr (.inl (List.contains_iff_mem.mpr hdill))))]

section Train
variable {tr : Training} (halive : s.alive = true) (hq : q < 8) (hready : s.flag f_BOOT_STATUS_STORE_READY = true)
  (hstate : s.fldAt f_QF_PORT_STATE q ≤ 1) (hdill : q ∉ s.dill)
include hq hready hstate hdill

theorem State.qfMayTrain : ¬ (8 ≤ q ∨ 1 < s.fldAt f_QF_PORT_STATE q ∨ s.dill.contains q ∨ !s.flag f_BOOT_STATUS_STORE_READY) := by
  rw [List.contains_iff_mem, hready]
  rintro (h | h | h | h)
  · omega
  · omega
  · exact hdill h
  · exact Bool.noConfusion h

include halive

theorem exec_qfPortTrain_fails (hfail : tr.failStep ≠ 0 ∨ tr.lanes ≠ 0) : exec (.qfPortTrain q tr) s = .next (s.setFldAt f_QF_PORT_STATE q 4) := by
  change execQfPortTrain q tr s = _
  rw [execQfPortTrain, State.whenAlive_alive halive, if_neg (State.qfMayTrain hq hready hstate hdill), if_pos hfail]

theorem exec_qfPortTrain_trains (hstep : tr.failStep = 0) (hlanes : tr.lanes = 0) : exec (.qfPortTrain q tr) s = .next (s.qfTrains q tr) := by
  change execQfPortTrain q tr s = _
  rw [execQfPortTrain, State.whenAlive_alive halive, if_neg (State.qfMayTrain hq hready hstate hdill),
    if_neg (not_or.mpr ⟨not_not_intro hstep, not_not_intro hlanes⟩)]
  rfl

end Train

/-- The registers and the link of a port that has come up. -/
theorem State.qfComesUp_fields (s : State) {q v : Nat} (hq : q < 8) (hv : v < 256) (tr : Training) :
    ((s.qfComesUp q v tr).qfReported q tr).fldAt f_QF_PORT_STATE q = 2 ∧
      ((s.qfComesUp q v tr).qfReported q tr).fldAt f_QF_PORT_VER_MAJOR q = v / 16 ∧
      ((s.qfComesUp q v tr).qfReported q tr).fldAt f_QF_PORT_VER_MINOR q = v % 16 ∧
      ((s.qfComesUp q v tr).qfReported q tr).fldAt f_QF_PORT_PEER_PORT q = tr.peerPort % 16 ∧
      ((s.qfComesUp q v tr).qfReported q tr).link (4 + q) = some (s.newLink (4 + q) tr.peerDev) := by
  obtain ⟨hlinks, hfields⟩ := (s.qfComesUp q v tr).qfReported_keeps q tr
  have hset (f : Fld) : (s.qfComesUp q v tr).fldAt f q = ((((s.setFldAt f_QF_PORT_STATE q 2).setFldAt f_QF_PORT_VER_MAJOR q (v / 16)).setFldAt
      f_QF_PORT_VER_MINOR q (v % 16)).setFldAt f_QF_PORT_PEER_PORT q tr.peerPort).fldAt f q := by
    refine State.fldAt_of_regs ?_ f q
    unfold State.qfComesUp
    dsimp only
  have hnew : ((((s.setFldAt f_QF_PORT_STATE q 2).setFldAt f_QF_PORT_VER_MAJOR q (v / 16)).setFldAt
      f_QF_PORT_VER_MINOR q (v % 16)).setFldAt f_QF_PORT_PEER_PORT q tr.peerPort).newLink (4 + q) tr.peerDev = s.newLink (4 + q) tr.peerDev := by
    refine State.newLink_congr (fun o ho => ?_) _ _
    have hother (f : Fld) (hf : f.addr q = 0xA0080 + 8 * q) : o ≠ f.addr q := by omega
    have haddr : f_QF_PORT_STATE.addr q = 0xA0080 + 8 * q := by simp only [Fld.addr, f_QF_PORT_STATE]
    rw [State.word_setFldAt_ne _ f_QF_PORT_PEER_PORT _ _ (hother _ haddr), State.word_setFldAt_ne _ f_QF_PORT_VER_MINOR _ _ (hother _ haddr),
      State.word_setFldAt_ne _ f_QF_PORT_VER_MAJOR _ _ (hother _ haddr), State.word_setFldAt_ne _ f_QF_PORT_STATE _ _ (hother _ haddr)]
  rw [hfields _ (by decide), hfields _ (by decide), hfields _ (by decide), hfields _ (by decide), hset, hset, hset, hset]
  refine ⟨?_, ?_, ?_, ?_, ?_⟩
  · simp (disch := decide) only [State.fldAt_setFldAt_bits]
    exact State.fldAt_setFldAt _ _ _ _ (by decide)
  · simp (disch := decide) only [State.fldAt_setFldAt_bits]
    exact (State.fldAt_setFldAt _ _ _ _ (by decide)).trans (Nat.mod_eq_of_lt (by change v / 16 < 16; omega))
  · simp (disch := decide) only [State.fldAt_setFldAt_bits]
    exact (State.fldAt_setFldAt _ _ _ _ (by decide)).trans (Nat.mod_mod_of_dvd v (Nat.dvd_refl 16))
  · exact State.fldAt_setFldAt _ _ _ _ (by decide)
  · refine State.link_replaced s (hlinks.trans ?_)
    rw [← hnew]
    unfold State.qfComesUp
    dsimp only
    rfl

/-- The outcomes of a training: no common version, another domain, the ZV9's own device, or a port that is up (R403, R404). -/
theorem State.qfTrains_outcome (s : State) {q : Nat} (hq : q < 8) (tr : Training) :
    let v := min 0x21 tr.verMax
    let t := s.qfTrains q tr
    (v < max 0x14 tr.verMin → t.fldAt f_QF_PORT_STATE q = 3 ∧ t.fldAt f_QF_PORT_REFUSE q = 1) ∧
    (max 0x14 tr.verMin ≤ v → s.cfg.map (·.domain) ≠ some tr.domain → t.fldAt f_QF_PORT_STATE q = 3 ∧ t.fldAt f_QF_PORT_REFUSE q = 2) ∧
    (max 0x14 tr.verMin ≤ v → s.cfg.map (·.domain) = some tr.domain →
      (tr.peerDev = s.devId → t.fldAt f_QF_PORT_STATE q = 3 ∧ t.fldAt f_QF_PORT_REFUSE q = 3) ∧
      (tr.peerDev ≠ s.devId → t.fldAt f_QF_PORT_STATE q = 2 ∧ t.fldAt f_QF_PORT_VER_MAJOR q = v / 16 ∧ t.fldAt f_QF_PORT_VER_MINOR q = v % 16 ∧
        t.fldAt f_QF_PORT_PEER_PORT q = tr.peerPort % 16 ∧ t.link (4 + q) = some (s.newLink (4 + q) tr.peerDev))) := by
  intro v t
  have hcommon (h : max 0x14 tr.verMin ≤ v) : commonVersion 0x14 0x21 tr.verMin tr.verMax = some v := if_pos h
  refine ⟨fun hless => ?_, fun hv hdomain => ?_, fun hv hdomain => ⟨fun hown => ?_, fun hother => ?_⟩⟩
  · have hnone : commonVersion 0x14 0x21 tr.verMin tr.verMax = none := if_neg (Nat.not_le.mpr hless)
    simp only [t, State.qfTrains, hnone]
    exact s.refuseQf_fields hq (by decide)
  · simp only [t, State.qfTrains, hcommon hv, if_pos hdomain]
    exact s.refuseQf_fields hq (by decide)
  · simp only [t, State.qfTrains, hcommon hv, hdomain, ne_eq, not_true_eq_false, if_false, if_pos hown]
    exact s.refuseQf_fields hq (by decide)
  · simp only [t, State.qfTrains, hcommon hv, hdomain, ne_eq, not_true_eq_false, if_false, if_neg hother]
    exact s.qfComesUp_fields hq (by omega) tr

/-- A port that failed trains again (R402). -/
theorem exec_portTrainRetry_qf (halive : s.alive = true) (hq : q < 8) (hstate : s.fldAt f_QF_PORT_STATE q = 4) :
    exec (.portTrainRetry (4 + q)) s = .next (s.setFldAt f_QF_PORT_STATE q 1) := by
  change execPortTrainRetry (4 + q) s = _
  rw [execPortTrainRetry, State.whenAlive_alive halive, if_neg (by omega), Nat.add_sub_cancel_left, if_pos ⟨by omega, hstate⟩]

end Quaril

/-! ### Kellija ports (R449 to R454, R467) -/

section Kellija
variable {s : State} {k : Nat}

theorem exec_portTrainRetry_kl (halive : s.alive = true) (hk : k < 4) (hstate : s.fldAt f_KL_PORT_STATE k = 0)
    (hformed : s.flag f_QF_STATE_FORMED = true) : exec (.portTrainRetry k) s = .next (s.setFldAt f_KL_PORT_STATE k 1) := by
  change execPortTrainRetry k s = _
  rw [execPortTrainRetry, State.whenAlive_alive halive, if_pos hk, if_pos ⟨hstate, hformed⟩]

/-- A client's port that has trained waits for its link-up record. -/
def State.klTrained (s : State) (k dev : Nat) : State :=
  { s.setFldAt f_KL_PORT_STATE k 1 with
    links := del s.links (fun l => l.port == k) ++ [(s.setFldAt f_KL_PORT_STATE k 1).newLink k dev] }

theorem exec_klPortTrain_may {tr : Training} (halive : s.alive = true) (hmay : s.klMay k = true) : exec (.klPortTrain k tr) s =
    .next (if tr.failStep ≠ 0 ∨ tr.lanes ≠ 0 then s.setFldAt f_KL_PORT_STATE k 0 else s.klTrained k tr.peerDev) := by
  change execKlPortTrain k tr s = _
  rw [execKlPortTrain, State.whenAlive_alive halive, if_neg (by rw [hmay]; exact Bool.false_ne_true)]
  rfl

theorem exec_klPortTrain_mayNot {tr : Training} (halive : s.alive = true) (hmay : s.klMay k = false) : exec (.klPortTrain k tr) s = .next s := by
  change execKlPortTrain k tr s = _
  rw [execKlPortTrain, State.whenAlive_alive halive, if_pos (by rw [hmay]; rfl)]

theorem State.klTrained_link (s : State) {k : Nat} (hk : k < 4) (dev : Nat) : (s.klTrained k dev).fldAt f_KL_PORT_STATE k = 1 ∧
    (s.klTrained k dev).link k = some (s.newLink k dev) := by
  have hnew : (s.setFldAt f_KL_PORT_STATE k 1).newLink k dev = s.newLink k dev :=
    State.newLink_congr (fun o ho => State.word_setFldAt_ne _ _ _ _ (by simp only [Fld.addr, f_KL_PORT_STATE]; omega)) _ _
  refine ⟨State.fldAt_setFldAt s f_KL_PORT_STATE k 1 (by decide), State.link_replaced s ?_⟩
  rw [← hnew]
  rfl

/-! ### Link-up records (R451 to R454) -/

/-- A link-up record is refused with its cause. -/
def State.recordRefused (s : State) (k cause : Nat) : State :=
  { (s.setFldAt f_KL_PORT_STATE k 3).setFldAt f_KL_PORT_REFUSE k cause with links := del s.links (fun l => l.port == k) }.raise
    (ev 0x11 (9 * 4096 + k) (k + 256 * cause))

/-- The version that a client and this ZV9 both have. -/
def recordVersion (bytes : List Byte) : Nat := (commonVersion 0x20 0x32 (leAt bytes 2 1) (leAt bytes 3 1)).getD 0

/-- What the link-up record of a client makes known. -/
def State.recordClient (s : State) (k : Nat) (bytes : List Byte) : KlClient :=
  { port := k, dev := leAt bytes 8 8, thBase := leAt bytes 16 8, thLen := leAt bytes 24 8, winBase := leAt bytes 32 8, winLen := leAt bytes 40 8
    answer := { node := s.me, port := k, version := recordVersion bytes, epoch := s.epoch, dev := s.devId, slice := s.bindingOf k % 256 } }

/-- The registers of a port as its record says, but for its binding. -/
def State.recordShown (s : State) (k : Nat) (bytes : List Byte) : State :=
  ((((((s.setFldAt f_KL_PORT_STATE k 2).setFldAt f_KL_PORT_REFUSE k 0).setFldAt f_KL_PORT_KIND k (leAt bytes 0 1)).setFldAt
    f_KL_PORT_CLASS k (leAt bytes 1 1)).setFldAt f_KL_PORT_STREAMS k (leAt bytes 4 2)).setFldAt f_KL_PORT_VER_MAJOR k (recordVersion bytes / 16)).setFldAt
    f_KL_PORT_VER_MINOR k (recordVersion bytes % 16)

/-- The same state with other clients known, and other killed ports free to train. -/
def State.withRecord (s : State) (clients : List KlClient) (train : List Nat) : State := { s with klClients := clients, klMayTrain := train }

theorem State.setFldAt_withRecord (s : State) (clients : List KlClient) (train : List Nat) (f : Fld) (i v : Nat) :
    (s.withRecord clients train).setFldAt f i v = (s.setFldAt f i v).withRecord clients train := rfl

theorem State.recordShown_withRecord (s : State) (clients : List KlClient) (train : List Nat) (k : Nat) (bytes : List Byte) :
    (s.withRecord clients train).recordShown k bytes = (s.recordShown k bytes).withRecord clients train := by
  unfold State.recordShown
  rw [State.setFldAt_withRecord, State.setFldAt_withRecord, State.setFldAt_withRecord, State.setFldAt_withRecord, State.setFldAt_withRecord,
    State.setFldAt_withRecord, State.setFldAt_withRecord]

/-- A link-up record brings its port up. -/
def State.recordTaken (s : State) (k : Nat) (bytes : List Byte) : State :=
  let s1 := { s with
    klClients := del s.klClients (fun x => x.port == k) ++ [s.recordClient k bytes], klMayTrain := s.klMayTrain.filter (· != k) }
  (s1.recordShown k bytes).setFldAt f_KL_PORT_BOUND_SLICE k ((s1.recordShown k bytes).bindingOf k)

theorem exec_linkUpRecord_waits {bytes : List Byte} (halive : s.alive = true) (hk : k < 4) (hstate : s.fldAt f_KL_PORT_STATE k = 1)
    (hlink : (s.link k).isSome = true) : exec (.linkUpRecord k bytes) s =
      .next (if s.recordRefuse k bytes ≠ 0 then s.recordRefused k (s.recordRefuse k bytes) else (s.recordTaken k bytes).tellPorts s) := by
  have hwaits : ¬ (4 ≤ k ∨ s.fldAt f_KL_PORT_STATE k ≠ 1 ∨ (s.link k).isNone) := by
    rw [hstate, ← Option.not_isSome, hlink]
    rintro (h | h | h)
    · omega
    · exact h rfl
    · exact Bool.noConfusion h
  change execLinkUpRecord k bytes s = _
  rw [execLinkUpRecord, State.whenAlive_alive halive, if_neg hwaits]
  rfl

theorem exec_linkUpRecord_other {bytes : List Byte} (halive : s.alive = true) (hstate : s.fldAt f_KL_PORT_STATE k ≠ 1) :
    exec (.linkUpRecord k bytes) s = .next s := by
  change execLinkUpRecord k bytes s = _
  rw [execLinkUpRecord, State.whenAlive_alive halive, if_pos (.inr (.inl hstate))]

/-- The causes of R453. -/
theorem State.recordRefuse_lt (s : State) (k : Nat) (bytes : List Byte) : s.recordRefuse k bytes < 5 := by
  unfold State.recordRefuse
  dsimp only
  split
  · decide
  · split
    · decide
    · split
      · decide
      · split <;> decide

/-- A record that is not refused has a kind, a class and a number of streams that its register holds (R452). -/
theorem State.recordRefuse_none {s : State} {k : Nat} {bytes : List Byte} (h : s.recordRefuse k bytes = 0) :
    leAt bytes 0 1 ≤ 2 ∧ leAt bytes 1 1 ≤ 1 ∧ leAt bytes 4 2 ≤ 256 := by
  unfold State.recordRefuse at h
  dsimp only at h
  split at h
  · exact absurd h (by decide)
  · split at h
    · exact absurd h (by decide)
    · split at h
      · exact absurd h (by decide)
      · rename_i hform
        simp only [not_or, Bool.not_eq_true, Bool.not_eq_false', Bool.or_eq_true, beq_iff_eq] at hform
        omega

/-- The binding of a port is read at the map, at the node and at the port's control register. -/
theorem State.bindingOf_congr {s t : State} {k : Nat} (hctl : t.fldAt f_KL_PORT_CTL_MGMT k = s.fldAt f_KL_PORT_CTL_MGMT k) (hme : t.me = s.me)
    (hmap : t.mapCur = s.mapCur) : t.bindingOf k = s.bindingOf k := by rw [State.bindingOf, State.bindingOf, hctl, hme, hmap]

theorem State.recordRefused_fields (s : State) {k cause : Nat} (hk : k < 4) (hcause : cause < 16) :
    (s.recordRefused k cause).fldAt f_KL_PORT_STATE k = 3 ∧ (s.recordRefused k cause).fldAt f_KL_PORT_REFUSE k = cause ∧
      (s.recordRefused k cause).link k = none := by
  have hfield (f : Fld) (hf : f.addr k = 0xB0000 + 8 * k) : (s.recordRefused k cause).fldAt f k =
      ((s.setFldAt f_KL_PORT_STATE k 3).setFldAt f_KL_PORT_REFUSE k cause).fldAt f k :=
    congrArg f.get ((State.raise_word _ _ (by omega) (by omega)).trans (State.word_of_regs rfl _))
  have haddr : f_KL_PORT_STATE.addr k = 0xB0000 + 8 * k := by simp only [Fld.addr, f_KL_PORT_STATE]
  rw [hfield f_KL_PORT_STATE haddr, hfield f_KL_PORT_REFUSE haddr]
  exact ⟨(State.fldAt_setFldAt_bits _ (by decide) (by decide) _ _ _).trans (State.fldAt_setFldAt _ _ _ _ (by decide)),
    (State.fldAt_setFldAt _ _ _ _ (by decide)).trans (Nat.mod_eq_of_lt hcause), State.link_removed s (links_eventBlind.raise _ _)⟩

theorem State.recordShown_binding (s : State) {k : Nat} (hk : k < 4) (bytes : List Byte) : (s.recordShown k bytes).bindingOf k = s.bindingOf k := by
  have hkeeps (f : Fld) (i : Nat) (hf : f.addr i < 0xB0000 ∨ 0xB0020 ≤ f.addr i) : (s.recordShown k bytes).fldAt f i = s.fldAt f i := by
    have hother (g : Fld) (hg : g.addr k = 0xB0000 + 8 * k) : f.addr i ≠ g.addr k := by omega
    have haddr : f_KL_PORT_STATE.addr k = 0xB0000 + 8 * k := by simp only [Fld.addr, f_KL_PORT_STATE]
    unfold State.recordShown
    rw [State.fldAt_setFldAt_addr _ _ (hother f_KL_PORT_VER_MINOR haddr), State.fldAt_setFldAt_addr _ _ (hother f_KL_PORT_VER_MAJOR haddr),
      State.fldAt_setFldAt_addr _ _ (hother f_KL_PORT_STREAMS haddr), State.fldAt_setFldAt_addr _ _ (hother f_KL_PORT_CLASS haddr),
      State.fldAt_setFldAt_addr _ _ (hother f_KL_PORT_KIND haddr), State.fldAt_setFldAt_addr _ _ (hother f_KL_PORT_REFUSE haddr),
      State.fldAt_setFldAt_addr _ _ (hother f_KL_PORT_STATE haddr)]
  refine State.bindingOf_congr (hkeeps _ _ (.inr ?_)) (hkeeps _ _ (.inl (by decide))) rfl
  simp only [Fld.addr, f_KL_PORT_CTL_MGMT]
  omega

theorem State.recordTaken_eq (s : State) {k : Nat} (hk : k < 4) (bytes : List Byte) : s.recordTaken k bytes =
    ((s.recordShown k bytes).setFldAt f_KL_PORT_BOUND_SLICE k (s.bindingOf k)).withRecord
      (del s.klClients (fun x => x.port == k) ++ [s.recordClient k bytes]) (s.klMayTrain.filter (· != k)) := by
  have hshown := s.recordShown_withRecord (del s.klClients (fun x => x.port == k) ++ [s.recordClient k bytes]) (s.klMayTrain.filter (· != k)) k bytes
  have hbinding := (s.withRecord (del s.klClients (fun x => x.port == k) ++ [s.recordClient k bytes]) (s.klMayTrain.filter (· != k))).recordShown_binding
    hk bytes
  unfold State.withRecord at hshown hbinding
  unfold State.recordTaken
  dsimp only at hshown hbinding ⊢
  rw [hbinding, hshown]
  exact State.setFldAt_withRecord ..

theorem State.recordTaken_fields {s : State} {k : Nat} (hk : k < 4) {bytes : List Byte} (h : s.recordRefuse k bytes = 0) :
    ((s.recordTaken k bytes).tellPorts s).fldAt f_KL_PORT_STATE k = 2 ∧ ((s.recordTaken k bytes).tellPorts s).fldAt f_KL_PORT_REFUSE k = 0 ∧
      ((s.recordTaken k bytes).tellPorts s).fldAt f_KL_PORT_KIND k = leAt bytes 0 1 ∧
      ((s.recordTaken k bytes).tellPorts s).fldAt f_KL_PORT_CLASS k = leAt bytes 1 1 ∧
      ((s.recordTaken k bytes).tellPorts s).fldAt f_KL_PORT_STREAMS k = leAt bytes 4 2 ∧
      ((s.recordTaken k bytes).tellPorts s).fldAt f_KL_PORT_BOUND_SLICE k = s.bindingOf k % 256 ∧
      ((s.recordTaken k bytes).tellPorts s).klClient k = some (s.recordClient k bytes) := by
  obtain ⟨hkind, hclass, hstreams⟩ := State.recordRefuse_none h
  obtain ⟨keeper, queue, honly⟩ := (s.recordTaken k bytes).tellPorts_only s
  have hfield (f : Fld) : ((s.recordTaken k bytes).tellPorts s).fldAt f k =
      ((s.recordShown k bytes).setFldAt f_KL_PORT_BOUND_SLICE k (s.bindingOf k)).fldAt f k := by
    rw [honly, s.recordTaken_eq hk]
    refine State.fldAt_of_regs ?_ f k
    dsimp only [State.withRecord]
  have hclient : ((s.recordTaken k bytes).tellPorts s).klClient k = some (s.recordClient k bytes) := by
    rw [honly, s.recordTaken_eq hk]
    exact find?_replaced s.klClients (p := fun x => x.port == k) (beq_self_eq_true k)
  rw [hfield, hfield, hfield, hfield, hfield, hfield]
  unfold State.recordShown
  refine ⟨?_, ?_, ?_, ?_, ?_, State.fldAt_setFldAt _ _ _ _ (by decide), hclient⟩
  · simp (disch := decide) only [State.fldAt_setFldAt_bits]
    exact State.fldAt_setFldAt _ _ _ _ (by decide)
  · simp (disch := decide) only [State.fldAt_setFldAt_bits]
    exact State.fldAt_setFldAt _ _ _ _ (by decide)
  · simp (disch := decide) only [State.fldAt_setFldAt_bits]
    exact (State.fldAt_setFldAt _ _ _ _ (by decide)).trans (Nat.mod_eq_of_lt (by change _ < 4; omega))
  · simp (disch := decide) only [State.fldAt_setFldAt_bits]
    exact (State.fldAt_setFldAt _ _ _ _ (by decide)).trans (Nat.mod_eq_of_lt (by change _ < 2; omega))
  · simp (disch := decide) only [State.fldAt_setFldAt_bits]
    exact (State.fldAt_setFldAt _ _ _ _ (by decide)).trans (Nat.mod_eq_of_lt (by change _ < 512; omega))

end Kellija

/-! ### Dill (R407, R447) -/

/-- `QF_DILL_CTL`. -/
def dillCtl : RegSpec :=
  { name := "QF_DILL_CTL", off := 0xA0028, stride := 0x8, count := 1, fields := [
      ⟨"DURATION_MS", 16, 16, .rw, 0x3e8⟩, ⟨"PORTS", 8, 8, .rw, 0⟩, ⟨"START", 0, 1, .wo, 0⟩] }

theorem findReg_dillCtl : findReg 0xA0028 = some (dillCtl, 0) := by decide +kernel

/-- A write of `QF_DILL_CTL` by its fields. -/
def State.dillCtlWrite (s : State) (w : Word) : State := s.plainWrite 0xA0028 w (fun n v => n != "DURATION_MS" || decide (1 ≤ v ∧ v ≤ 60000))

/-- The ports that a write of `QF_DILL_CTL` names. -/
def dillPorts (w : Word) : List Nat := (List.range 8).filter (fun p => bit (f_QF_DILL_CTL_PORTS.get w) p)

theorem mem_dillPorts {w : Word} {p : Nat} (hp : p < 8) : p ∈ dillPorts w ↔ bit (f_QF_DILL_CTL_PORTS.get w) p = true := by
  simp only [dillPorts, List.mem_filter, List.mem_range, hp, true_and]

/-- The ports of a list come to a state. -/
def State.portsTo (s : State) (l : List Nat) (v : Nat) : State := forL l s (fun p t => t.setFldAt f_QF_PORT_STATE p v)

theorem State.portsTo_keeps (s : State) (l : List Nat) (v : Nat) : (s.portsTo l v).dill = s.dill ∧
    ∀ o < 0xA0080, (s.portsTo l v).word o = s.word o := by
  refine forL_induct (P := fun t => t.dill = s.dill ∧ ∀ o < 0xA0080, t.word o = s.word o) l _ ⟨rfl, fun _ _ => rfl⟩ fun p _ t ht => ?_
  obtain ⟨hdill, hwords⟩ := ht
  refine ⟨hdill, fun o ho => (State.word_setFldAt_ne _ _ _ _ ?_).trans (hwords o ho)⟩
  simp only [Fld.addr, f_QF_PORT_STATE]
  omega

theorem State.portsTo_state (s : State) (l : List Nat) (v x : Nat) :
    (s.portsTo l v).fldAt f_QF_PORT_STATE x = if x ∈ l then v % 8 else s.fldAt f_QF_PORT_STATE x := by
  induction l generalizing s with
  | nil => rfl
  | cons p l ih =>
    change ((s.setFldAt f_QF_PORT_STATE p v).portsTo l v).fldAt f_QF_PORT_STATE x = _
    rw [ih]
    by_cases hx : x = p
    · subst hx
      rw [State.fldAt_setFldAt _ _ _ _ (by decide), if_pos List.mem_cons_self]
      exact ite_self _
    · have hother : (s.setFldAt f_QF_PORT_STATE p v).fldAt f_QF_PORT_STATE x = s.fldAt f_QF_PORT_STATE x := by
        refine State.fldAt_setFldAt_addr _ _ ?_
        simp only [Fld.addr, f_QF_PORT_STATE]
        omega
      rw [hother]
      simp only [List.mem_cons, hx, false_or]

section Dill
variable {s : State} {w : Word} (halive : s.alive = true) (hstart : f_QF_DILL_CTL_START.get w = 1)

theorem exec_dillStart (halive : s.alive = true) : exec (.dillStart w) s = .next (s.dillWrite w) := by
  change execDillStart w s = _
  rw [execDillStart, State.whenAlive_alive halive]

include hstart

/-- A test of a port that is up is rejected (R447). -/
theorem State.dillWrite_rejected (hup : (dillPorts w).any (fun p => s.qfUp p) = true) :
    s.dillWrite w = (s.dillCtlWrite w).setFld f_QF_DILL_STAT_REJECT 1 := by
  simp only [State.dillWrite, hstart, Nat.one_ne_zero, if_false]
  exact if_pos hup

theorem State.dillWrite_busy (hdown : (dillPorts w).any (fun p => s.qfUp p) = false) (hbusy : s.flag f_QF_DILL_STAT_BUSY = true) :
    s.dillWrite w = s.dillCtlWrite w := by
  simp only [State.dillWrite, hstart, Nat.one_ne_zero, if_false, hbusy, if_true]
  exact if_neg (by rw [Bool.not_eq_true]; exact hdown)

theorem State.dillWrite_starts (hdown : (dillPorts w).any (fun p => s.qfUp p) = false) (hidle : s.flag f_QF_DILL_STAT_BUSY = false) :
    s.dillWrite w = State.portsTo { (s.dillCtlWrite w).setFld f_QF_DILL_STAT_BUSY 1 with dill := dillPorts w }
      ((dillPorts w).filter (fun p => s.fldAt f_QF_PORT_STATE p != 3)) 1 := by
  simp only [State.dillWrite, hstart, Nat.one_ne_zero, if_false, hidle, Bool.false_eq_true]
  exact if_neg (by rw [Bool.not_eq_true]; exact hdown)

end Dill

/-- The ports of a test that ends: those named that are there. -/
def State.dillTested (s : State) : List Nat := (List.range 8).filter s.dill.contains

/-- The errors of a test that ends, by lane. -/
def State.dillErrs (s : State) (errs : List (Nat × Nat)) : List (Nat × Nat) := errs.filter (fun e => s.dillTested.contains (e.1 / 8))

/-- What a test that ends shows. -/
def State.dillShown (s : State) (errs : List (Nat × Nat)) : State :=
  let worst := (s.dillErrs errs).foldl (fun (acc : Nat × Nat) e => if acc.2 < e.2 then e else acc) (0, 0)
  (((s.setFld f_QF_DILL_STAT_BUSY 0).setFld f_QF_DILL_STAT_ERRORS (min ((s.dillErrs errs).map (·.2)).sum (2 ^ 48 - 1))).setFld
    f_QF_DILL_STAT_WORST_LANE (worst.1 % 8)).setFld f_QF_DILL_STAT_WORST_PORT (worst.1 / 8)

theorem exec_dillDone {s : State} {errs : List (Nat × Nat)} (halive : s.alive = true) (hbusy : s.flag f_QF_DILL_STAT_BUSY = true) :
    exec (.dillDone errs) s = .next (State.portsTo { s.dillShown errs with dill := [] }
      (s.dillTested.filter (fun p => s.fldAt f_QF_PORT_STATE p != 3)) 0) := by
  change execDillDone errs s = _
  rw [execDillDone, State.whenAlive_alive halive, if_neg (by rw [hbusy]; exact Bool.false_ne_true)]
  rfl

/-- The write stores the ports that it names. -/
theorem State.dillCtlWrite_ports (s : State) (w : Word) : (s.dillCtlWrite w).fld f_QF_DILL_CTL_PORTS = f_QF_DILL_CTL_PORTS.get w := by
  obtain ⟨hfields, -⟩ := State.plainWrite_fields s 0xA0028 0 w (fun n v => n != "DURATION_MS" || decide (1 ≤ v ∧ v ≤ 60000)) dillCtl findReg_dillCtl
  exact (hfields ⟨"PORTS", 8, 8, .rw, 0⟩ (by decide)).trans ((FSpec.after_rw rfl ..).trans (if_pos rfl))

theorem State.dillCtlWrite_onlyWords (s : State) (w : Word) : s.OnlyWords (s.dillCtlWrite w) [0xA0028] :=
  State.plainWrite_onlyWords findReg_dillCtl ..

/-- A rejected test writes the two Dill registers (R447). -/
theorem State.dillWrite_rejected_fields (s : State) (w : Word) :
    s.OnlyWords ((s.dillCtlWrite w).setFld f_QF_DILL_STAT_REJECT 1) [0xA0028, 0xA0030] ∧
      ((s.dillCtlWrite w).setFld f_QF_DILL_STAT_REJECT 1).fld f_QF_DILL_STAT_REJECT = 1 ∧
      ((s.dillCtlWrite w).setFld f_QF_DILL_STAT_REJECT 1).fld f_QF_DILL_CTL_PORTS = f_QF_DILL_CTL_PORTS.get w := by
  obtain ⟨honly, hothers⟩ := s.dillCtlWrite_onlyWords w
  obtain ⟨honly', hothers'⟩ := State.setFldAt_onlyWords (s.dillCtlWrite w) f_QF_DILL_STAT_REJECT 0 1 (o := 0xA0030) rfl
  refine ⟨State.OnlyWords.trans (offs := [0xA0028, 0xA0030]) ⟨honly, fun o ho => hothers o ?_⟩ ⟨honly', fun o ho => hothers' o ?_⟩,
    State.fld_setFld _ _ _ (by decide), (State.fld_setFld_ne _ _ _ _ (by decide) (.inl (by decide))).trans (s.dillCtlWrite_ports w)⟩
  · exact fun h => ho (List.mem_cons.mpr (.inl (List.mem_singleton.mp h)))
  · exact fun h => ho (List.mem_cons_of_mem _ h)

/-- A register is written, and nothing changes but it. -/
theorem State.fldAt_of_onlyWords {s t : State} {offs : List Nat} (h : s.OnlyWords t offs) {f : Fld} {i : Nat} (hf : f.addr i ∉ offs) :
    t.fldAt f i = s.fldAt f i := congrArg f.get (h.2 _ hf)

/-- A port's register is not one of the Dill registers. -/
theorem portState_addr (p : Nat) : f_QF_PORT_STATE.addr p = 0xA0080 + 8 * p := by simp only [Fld.addr, f_QF_PORT_STATE]

/-- A test that starts (R407). -/
theorem State.dillWrite_starts_fields (s : State) (w : Word) {t : State} (ht : t = State.portsTo
      { (s.dillCtlWrite w).setFld f_QF_DILL_STAT_BUSY 1 with dill := dillPorts w } ((dillPorts w).filter (fun p => s.fldAt f_QF_PORT_STATE p != 3)) 1) :
    t.flag f_QF_DILL_STAT_BUSY = true ∧ (∀ p < 8, p ∈ t.dill ↔ bit (f_QF_DILL_CTL_PORTS.get w) p = true) ∧
      ∀ p < 8, t.fldAt f_QF_PORT_STATE p =
        if bit (f_QF_DILL_CTL_PORTS.get w) p && s.fldAt f_QF_PORT_STATE p != 3 then 1 else s.fldAt f_QF_PORT_STATE p := by
  obtain ⟨hdill, hwords⟩ := State.portsTo_keeps { (s.dillCtlWrite w).setFld f_QF_DILL_STAT_BUSY 1 with dill := dillPorts w }
    ((dillPorts w).filter (fun p => s.fldAt f_QF_PORT_STATE p != 3)) 1
  have hbusy : t.fld f_QF_DILL_STAT_BUSY = 1 := by
    rw [ht]
    exact (congrArg f_QF_DILL_STAT_BUSY.get (hwords 0xA0030 (by decide))).trans
      ((State.fldAt_of_regs (s := (s.dillCtlWrite w).setFld f_QF_DILL_STAT_BUSY 1) (by dsimp only) f_QF_DILL_STAT_BUSY 0).trans
        (State.fld_setFld (s.dillCtlWrite w) f_QF_DILL_STAT_BUSY 1 (by decide)))
  refine ⟨beq_iff_eq.mpr hbusy, fun p hp => ?_, fun p hp => ?_⟩
  · rw [ht, hdill, mem_dillPorts hp]
  · have hset : ((s.dillCtlWrite w).setFld f_QF_DILL_STAT_BUSY 1).fldAt f_QF_PORT_STATE p = s.fldAt f_QF_PORT_STATE p := by
      refine (State.fldAt_setFldAt_addr _ _ ?_).trans (State.fldAt_of_onlyWords (s.dillCtlWrite_onlyWords w) ?_)
      · rw [portState_addr]
        simp only [Fld.addr, f_QF_DILL_STAT_BUSY]
        omega
      · rw [portState_addr, List.mem_singleton]
        omega
    have hbefore : State.fldAt { (s.dillCtlWrite w).setFld f_QF_DILL_STAT_BUSY 1 with dill := dillPorts w } f_QF_PORT_STATE p =
        s.fldAt f_QF_PORT_STATE p := (State.fldAt_of_regs (by dsimp only) _ _).trans hset
    rw [ht, State.portsTo_state, hbefore]
    simp only [List.mem_filter, mem_dillPorts hp, Bool.and_eq_true, Nat.one_mod]

/-- The errors shown are those of the lanes tested. -/
theorem State.dillErrs_eq (s : State) (errs : List (Nat × Nat)) :
    s.dillErrs errs = errs.filter (fun e => decide (e.1 / 8 < 8) && s.dill.contains (e.1 / 8)) := by
  refine List.filter_congr fun e _ => Bool.eq_iff_iff.mpr ?_
  simp only [State.dillTested, List.contains_iff_mem, List.mem_filter, List.mem_range, Bool.and_eq_true, decide_eq_true_eq]

theorem State.dillShown_onlyWords (s : State) (errs : List (Nat × Nat)) : s.OnlyWords (s.dillShown errs) [0xA0030] :=
  (((s.setFldAt_onlyWords f_QF_DILL_STAT_BUSY 0 _ rfl).trans (State.setFldAt_onlyWords _ f_QF_DILL_STAT_ERRORS 0 _ rfl)).trans
    (State.setFldAt_onlyWords _ f_QF_DILL_STAT_WORST_LANE 0 _ rfl)).trans (State.setFldAt_onlyWords _ f_QF_DILL_STAT_WORST_PORT 0 _ rfl)

theorem State.dillShown_fields (s : State) (errs : List (Nat × Nat)) : (s.dillShown errs).fld f_QF_DILL_STAT_BUSY = 0 ∧
    (s.dillShown errs).fld f_QF_DILL_STAT_ERRORS = min ((s.dillErrs errs).map (·.2)).sum (2 ^ 48 - 1) := by
  unfold State.dillShown
  simp (disch := decide) only [State.fld, State.setFld, State.fldAt_setFldAt_bits]
  exact ⟨State.fldAt_setFldAt _ _ _ _ (by decide), (State.fldAt_setFldAt _ _ _ _ (by decide)).trans (Nat.mod_eq_of_lt (by change _ < 2 ^ 48; omega))⟩

/-- A test that ends (R407). -/
theorem State.dillDone_fields (s : State) (errs : List (Nat × Nat)) {t : State} (ht : t = State.portsTo { s.dillShown errs with dill := [] }
      (s.dillTested.filter (fun p => s.fldAt f_QF_PORT_STATE p != 3)) 0) :
    t.flag f_QF_DILL_STAT_BUSY = false ∧ t.fld f_QF_DILL_STAT_ERRORS =
        min ((errs.filter (fun e => decide (e.1 / 8 < 8) && s.dill.contains (e.1 / 8))).map (·.2)).sum (2 ^ 48 - 1) ∧ t.dill = [] ∧
      ∀ p < 8, t.fldAt f_QF_PORT_STATE p = if s.dill.contains p && s.fldAt f_QF_PORT_STATE p != 3 then 0 else s.fldAt f_QF_PORT_STATE p := by
  obtain ⟨hdill, hwords⟩ := State.portsTo_keeps { s.dillShown errs with dill := [] } (s.dillTested.filter (fun p => s.fldAt f_QF_PORT_STATE p != 3)) 0
  obtain ⟨hbusy, herrors⟩ := s.dillShown_fields errs
  have hstat : t.word 0xA0030 = (s.dillShown errs).word 0xA0030 := by
    rw [ht, hwords _ (by decide)]
    exact State.word_of_regs (by dsimp only) _
  refine ⟨?_, (congrArg f_QF_DILL_STAT_ERRORS.get hstat).trans (by rw [← s.dillErrs_eq]; exact herrors), by rw [ht, hdill], fun p hp => ?_⟩
  · have hzero : t.fld f_QF_DILL_STAT_BUSY = 0 := (congrArg f_QF_DILL_STAT_BUSY.get hstat).trans hbusy
    rw [State.flag, hzero]
    rfl
  · have hbefore : State.fldAt { s.dillShown errs with dill := [] } f_QF_PORT_STATE p = s.fldAt f_QF_PORT_STATE p := by
      refine (State.fldAt_of_regs (by dsimp only) _ _).trans (State.fldAt_of_onlyWords (s.dillShown_onlyWords errs) ?_)
      rw [portState_addr, List.mem_singleton]
      omega
    rw [ht, State.portsTo_state, hbefore]
    simp only [State.dillTested, List.mem_filter, List.mem_range, hp, true_and, Bool.and_eq_true, Nat.zero_mod]

/-! ### Ports that may not train -/

theorem State.klMay_false {s : State} {k : Nat} (h : s.flag f_QF_STATE_FORMED = false ∨ s.fenced = true) : s.klMay k = false := by
  unfold State.klMay
  rcases h with h | h <;> simp only [h, Bool.and_false, Bool.false_and, Bool.not_true]

/-- A client's port that failed its training, or trained (R450). -/
theorem State.klTraining_outcome (s : State) {k : Nat} (hk : k < 4) (tr : Training) :
    let t := if tr.failStep ≠ 0 ∨ tr.lanes ≠ 0 then s.setFldAt f_KL_PORT_STATE k 0 else s.klTrained k tr.peerDev
    (tr.failStep ≠ 0 ∨ tr.lanes ≠ 0 → t.fldAt f_KL_PORT_STATE k = 0 ∧ s.OnlyRegs t) ∧
      (tr.failStep = 0 → tr.lanes = 0 → t.fldAt f_KL_PORT_STATE k = 1 ∧ t.link k = some (s.newLink k tr.peerDev)) := by
  refine ⟨fun hfail => ?_, fun hstep hlanes => ?_⟩
  · rw [if_pos hfail]
    exact ⟨State.fldAt_setFldAt _ _ _ _ (by decide), rfl⟩
  · rw [if_neg (not_or.mpr ⟨not_not_intro hstep, not_not_intro hlanes⟩)]
    exact s.klTrained_link hk tr.peerDev

/-- The outcomes of a link-up record (R451 to R454). -/
theorem State.linkUpRecord_outcome (s : State) {k : Nat} (hk : k < 4) (bytes : List Byte) :
    let t := if s.recordRefuse k bytes ≠ 0 then s.recordRefused k (s.recordRefuse k bytes) else (s.recordTaken k bytes).tellPorts s
    (s.recordRefuse k bytes ≠ 0 → t.fldAt f_KL_PORT_STATE k = 3 ∧ t.fldAt f_KL_PORT_REFUSE k = s.recordRefuse k bytes ∧ t.link k = none) ∧
      (s.recordRefuse k bytes = 0 → t.fldAt f_KL_PORT_STATE k = 2 ∧ t.fldAt f_KL_PORT_REFUSE k = 0 ∧ t.fldAt f_KL_PORT_KIND k = leAt bytes 0 1 ∧
        t.fldAt f_KL_PORT_CLASS k = leAt bytes 1 1 ∧ t.fldAt f_KL_PORT_STREAMS k = leAt bytes 4 2 ∧
        t.fldAt f_KL_PORT_BOUND_SLICE k = s.bindingOf k % 256 ∧ t.klClient k = some (s.recordClient k bytes)) := by
  refine ⟨fun hrefuse => ?_, fun htaken => ?_⟩
  · rw [if_pos hrefuse]
    exact s.recordRefused_fields hk (Nat.lt_trans (s.recordRefuse_lt k bytes) (by decide))
  · rw [if_neg (not_not_intro htaken)]
    exact State.recordTaken_fields hk htaken

/-- No port that a test names is up. -/
theorem State.dillPorts_down {s : State} {w : Word} (h : ∀ p < 8, bit (f_QF_DILL_CTL_PORTS.get w) p = true → s.qfUp p = false) :
    (dillPorts w).any (fun p => s.qfUp p) = false := by
  rw [List.any_eq_false]
  intro p hp
  have hlt : p < 8 := List.mem_range.mp (List.mem_of_mem_filter hp)
  rw [h p hlt ((mem_dillPorts hlt).mp hp)]
  exact Bool.false_ne_true

/-- Settles O50, stage by stage: the outcomes of a training, the second training of a port, a client's port and its record, and the test of lanes. -/
theorem portTraining : Obligations.PortTraining := by
  unfold Obligations.PortTraining
  intro s q k tr bytes w halive hq hk v port named
  have hport : f_QF_PORT_STATE.addr q = port := portState_addr q
  refine ⟨exec_qfPortTrain_dill halive, fun hready hstate hdill => ⟨fun hfail => ?_, fun hstep hlanes => ?_⟩, fun hstate => ?_, fun hstate hformed => ?_,
    fun hmay => ?_, fun h => exec_klPortTrain_mayNot halive (State.klMay_false h), fun hstate hlink => ?_, exec_linkUpRecord_other halive,
    fun hstart => ⟨fun hdown hbusy => ?_, fun hdown hidle => ?_, ?_⟩, fun errs hbusy => ?_⟩
  · exact ⟨_, exec_qfPortTrain_fails halive hq hready hstate hdill hfail, s.setFldAt_onlyWords _ q 4 hport, State.fldAt_setFldAt _ _ _ _ (by decide)⟩
  · exact ⟨_, exec_qfPortTrain_trains halive hq hready hstate hdill hstep hlanes, s.qfTrains_outcome hq tr⟩
  · exact ⟨_, exec_portTrainRetry_qf halive hq hstate, s.setFldAt_onlyWords _ q 1 hport, State.fldAt_setFldAt _ _ _ _ (by decide)⟩
  · exact ⟨_, exec_portTrainRetry_kl halive hk hstate hformed, s.setFldAt_onlyWords _ k 1 (by simp only [Fld.addr, f_KL_PORT_STATE]),
      State.fldAt_setFldAt _ _ _ _ (by decide)⟩
  · exact ⟨_, exec_klPortTrain_may halive hmay, s.klTraining_outcome hk tr⟩
  · exact ⟨_, exec_linkUpRecord_waits halive hk hstate hlink, s.linkUpRecord_outcome hk bytes⟩
  · refine ⟨_, exec_dillStart halive, ?_⟩
    rw [State.dillWrite_busy hstart (State.dillPorts_down hdown) hbusy]
    exact s.dillCtlWrite_onlyWords w
  · exact ⟨_, exec_dillStart halive, State.dillWrite_starts_fields s w (State.dillWrite_starts hstart (State.dillPorts_down hdown) hidle)⟩
  · rintro ⟨p, hp, hnamed, hup⟩
    refine ⟨_, exec_dillStart halive, ?_⟩
    rw [State.dillWrite_rejected hstart (List.any_eq_true.mpr ⟨p, (mem_dillPorts hp).mpr hnamed, hup⟩)]
    exact s.dillWrite_rejected_fields w
  · exact ⟨_, exec_dillDone halive hbusy, s.dillDone_fields errs rfl⟩

end Sys2Proof.Machine

/-! How the leader starts a change (R24, R435, R436, R502): the first change that waits makes the next map, goes to the keepers, is refused, or has nothing to do. -/

namespace Sys2Proof.Machine

/-! ### What the abort of a job leaves (R535, R536) -/

/-- The current map, and the configuration of the domain. -/
def State.domainOf (s : State) : Option FMap × Option Cfg := (s.mapCur, s.cfg)

theorem domainOf_eventBlind : EventBlind State.domainOf := ⟨fun _ _ => rfl, fun _ _ _ => rfl, fun _ _ => rfl, fun _ _ => rfl, fun _ _ => rfl,
  fun _ _ => rfl, fun _ _ _ => rfl, fun _ _ => rfl⟩

theorem State.endDesc_domainOf (s : State) (k : DKey) (status kind detail progress : Nat) :
    (s.endDesc k status kind detail progress).domainOf = s.domainOf := by
  unfold State.endDesc
  dsimp only
  split
  · rw [State.gc_only]
    split <;> rfl
  · split <;> rfl

theorem State.stopDesc_domainOf (s : State) (d : Desc) (f : Fail) : (s.stopDesc d f).domainOf = s.domainOf := by
  unfold State.stopDesc
  split
  · rfl
  · split
    · rfl
    · exact State.endDesc_domainOf ..

theorem State.stopSlice_domainOf (s : State) (slice : Nat) (f : Fail) : (s.stopSlice slice f).domainOf = s.domainOf :=
  forL_induct (P := fun t => t.domainOf = s.domainOf) _ _ rfl fun d _ t ht => (t.stopDesc_domainOf d f).trans ht

theorem State.reapStop_domainOf (s : State) (slice : Nat) : (s.reapStop slice).domainOf = s.domainOf := by
  unfold State.reapStop
  split
  · rfl
  · exact (domainOf_eventBlind.raise _ _).trans (domainOf_eventBlind.setFldAt ..)

theorem State.abortSlice_domainOf (s : State) (job origin trigger slice : Nat) : (s.abortSlice job origin trigger slice).domainOf = s.domainOf := by
  unfold State.abortSlice
  rw [State.reapStop_domainOf, State.stopSlice_domainOf]
  simp only [domainOf_eventBlind.setFldAt]

theorem State.takeAbort_domainOf (s : State) (job origin trigger id : Nat) : (s.takeAbort job origin trigger id).domainOf = s.domainOf := by
  unfold State.takeAbort
  extract_lets a sl others own s1
  split
  · rfl
  · split
    · refine forL_induct (P := fun t => t.domainOf = s.domainOf) _ _ (domainOf_eventBlind.incSat s1 f_FLT_ABORT_STAT_MERGED) fun x _ t ht => ?_
      rw [State.reapStop_domainOf]
      split
      · exact (domainOf_eventBlind.setFldAt ..).trans ((t.stopSlice_domainOf x _).trans ht)
      · exact (t.stopSlice_domainOf x _).trans ht
    · exact forL_induct (P := fun t => t.domainOf = s.domainOf) _ _ rfl fun x _ t ht => (t.abortSlice_domainOf job origin trigger x).trans ht

theorem State.originAbort_domainOf (s : State) (job trigger detail : Nat) : (s.originAbort job trigger detail).domainOf = s.domainOf := by
  unfold State.originAbort
  split
  · rfl
  · extract_lets id s1 dests s2
    have hsent : s2.domainOf = s.domainOf :=
      forL_induct (P := fun t => t.domainOf = s.domainOf) _ _ (domainOf_eventBlind.setFld ..) fun n _ t ht => (domainOf_eventBlind.sendQf t _).trans ht
    exact (State.takeAbort_domainOf ..).trans hsent

/-- The jobs that a change cuts off abort, and the map stays the current one. -/
theorem State.abortCut_domainOf (s : State) (m n : FMap) (c : Change) : (s.abortCut m n c).domainOf = s.domainOf :=
  forL_induct (P := fun t => t.domainOf = s.domainOf) _ _ rfl fun _ _ t ht => (t.originAbort_domainOf ..).trans ht

theorem State.quorum_of_domainOf {s t : State} (h : t.domainOf = s.domainOf) : t.quorum = s.quorum := by
  have hcfg : t.cfg = s.cfg := congrArg Prod.snd h
  rw [State.quorum, State.quorum, State.keeperDevs, State.keeperDevs, hcfg]

/-! ### The map that a change makes (R435, R436) -/

/-- The next map that a change makes of the current one. -/
def State.nextMap (s : State) (m : FMap) (c : Change) : FMap :=
  { s.withClients (s.changed m (nextEpoch m.epoch) c) with
    epoch := nextEpoch m.epoch, term := s.keeper.term, leader := s.me, baseUs := s.fld f_QF_TDEAD_BASE_US, hopUs := s.fld f_QF_TDEAD_HOP_US }

/-- A node is not live in a map. -/
def FMap.gone (m : FMap) (n : Nat) : Prop := ∀ e ∈ m.nodes, e.node = n → e.state ≠ .live

/-- Marking nodes brings none back. -/
theorem FMap.gone_mark {m : FMap} {n : Nat} {ns : List Nat} {st : NodeSt} (hst : st ≠ .live) (e : Nat) (h : m.gone n ∨ n ∈ ns) : (m.mark ns st e).gone n := by
  intro y hy hn
  obtain ⟨x, hx, rfl⟩ := List.mem_map.mp hy
  by_cases hmarked : (ns.contains x.node && x.state == NodeSt.live) = true
  · rw [if_pos hmarked]
    exact hst
  · rw [if_neg hmarked] at hn ⊢
    refine h.elim (fun hgone => hgone x hx hn) fun hmem hlive => hmarked ?_
    rw [hlive, hn, List.contains_iff_mem.mpr hmem]
    rfl

theorem FMap.gone_prune {m : FMap} {n : Nat} (h : m.gone n) (e : Nat) : (m.prune e).gone n := by
  unfold FMap.prune
  dsimp only
  split
  · exact h
  · exact FMap.gone_mark (by decide) e (.inl h)

/-- The masks of caching clients are no part of a node's state. -/
theorem State.gone_withClients {s : State} {m : FMap} {n : Nat} (h : m.gone n) : (s.withClients m).gone n := by
  intro y hy hn
  obtain ⟨x, hx, rfl⟩ := List.mem_map.mp hy
  exact h x hx hn

/-- A node that a change names dead or fenced is not live in the next map. -/
theorem State.nextMap_gone (s : State) (m : FMap) {c : Change} {n : Nat} (hc : c = .dead n ∨ c = .fence n) : (s.nextMap m c).gone n := by
  have hchanged : (s.changed m (nextEpoch m.epoch) c).gone n := by
    rcases hc with rfl | rfl
    · exact FMap.gone_prune (FMap.gone_mark (by decide) _ (.inr List.mem_cons_self)) _
    · exact FMap.gone_prune (FMap.gone_mark (by decide) _ (.inr List.mem_cons_self)) _
  exact State.gone_withClients hchanged

/-! ### A change goes to the keepers (R435 step 1) -/

/-- A leader that needs the acknowledgement of another keeper waits for it. -/
theorem State.leaderReplicate_waits {s : State} (hquorum : 1 < s.quorum) (m : FMap) :
    (s.leaderReplicate m).keeper.replicated = some m ∧ (s.leaderReplicate m).keeper.stage = 1 ∧ (s.leaderReplicate m).mapCur = s.mapCur := by
  obtain ⟨queue, relayed, hsent⟩ := State.toKeepers_only
    { s with keeper := { s.keeper with stage := 1, replicated := some m, acks := s.keeperPos.toList } } (.replicate m)
  have hwaits : ¬ (State.toKeepers { s with keeper := { s.keeper with stage := 1, replicated := some m, acks := s.keeperPos.toList } }
      (.replicate m)).quorum ≤ 1 := by
    rw [hsent]
    exact Nat.not_le.mpr hquorum
  unfold State.leaderReplicate
  rw [if_neg hwaits, hsent]
  exact ⟨rfl, rfl, rfl⟩

theorem State.startChange_map {s : State} {m : FMap} {c : Change} (hmap : s.mapCur = some m) (hform : ∀ f, c ≠ .form f) :
    s.startChange c = (State.abortCut { s with keeper := { s.keeper with lastJob := s.keeper.lastJob + (if c.isCompose then 1 else 0) } }
      m (s.nextMap m c) c).leaderReplicate (s.nextMap m c) := by
  cases c with
  | form f => exact absurd rfl (hform f)
  | admitDev | dead | fence | addLink | dropLink | dropClient | compose | extend | shrink | teardown =>
    simp only [State.startChange, hmap]
    rfl

/-- A change that starts is replicated as the next map, and the map stays the current one until it commits. -/
theorem State.startChange_replicates {s : State} {m : FMap} {c : Change} (hmap : s.mapCur = some m) (hform : ∀ f, c ≠ .form f) (hquorum : 1 < s.quorum) :
    (s.startChange c).keeper.replicated = some (s.nextMap m c) ∧ (s.startChange c).keeper.stage = 1 ∧ (s.startChange c).mapCur = some m := by
  have hdomain := State.abortCut_domainOf { s with keeper := { s.keeper with lastJob := s.keeper.lastJob + (if c.isCompose then 1 else 0) } }
    m (s.nextMap m c) c
  have hcut : 1 < (State.abortCut { s with keeper := { s.keeper with lastJob := s.keeper.lastJob + (if c.isCompose then 1 else 0) } }
      m (s.nextMap m c) c).quorum := by
    rw [State.quorum_of_domainOf hdomain]
    exact hquorum
  obtain ⟨hreplicated, hstage, hcur⟩ := State.leaderReplicate_waits hcut (s.nextMap m c)
  rw [State.startChange_map hmap hform]
  exact ⟨hreplicated, hstage, hcur.trans ((congrArg Prod.fst hdomain).trans hmap)⟩

/-! ### The changes that wait (R24, R502) -/

/-- Requests that passed the checks, without the first that asked for a change. -/
def State.passedBut (s : State) (c : Change) : List (Nat × Change) :=
  match s.keeper.passed.find? (fun r => r.2 == c) with
  | some r => s.keeper.passed.erase r
  | none => s.keeper.passed

/-- The leader has taken a change up: no change waits, and its request is no longer noted. -/
def State.takenUp (s : State) (c : Change) : State := { s with keeper := { s.keeper with passed := s.passedBut c, changes := [] } }

/-- The first request that asked for a change. -/
def State.askers (s : State) (c : Change) : List (Nat × Change) := (s.keeper.passed.find? (fun r => r.2 == c)).toList

/-- The leader with other changes that wait. -/
def State.withChanges (s : State) (changes : List Change) : State := { s with keeper := { s.keeper with changes := changes } }

/-- What a composition request is refused by is read in the registers and in what the nodes have reported. -/
theorem State.changeRefused_withChanges (s : State) (changes : List Change) (m : FMap) (c : Change) :
    (s.withChanges changes).changeRefused m c = s.changeRefused m c := by cases c <;> rfl

/-- The leader with a change's request no longer noted. -/
def State.unasked (s : State) (c : Change) : State := { s with keeper := { s.keeper with passed := s.passedBut c } }

/-- The first of the changes that wait is forgotten, refused or started. -/
theorem State.pumpFrom_cons {s : State} {m : FMap} (hmap : s.mapCur = some m) (c : Change) (cs : List Change) : s.pumpFrom (c :: cs) =
    if m.idle c then (s.unasked c).pumpFrom cs
    else match s.changeRefused m c with
      | some (st, n) => (forL (s.askers c) (s.unasked c) (fun r t => t.refuseCompose r.1 st n)).pumpFrom cs
      | none => (forL (s.askers c) ((s.unasked c).withChanges cs)
          (fun r t => t.acceptCompose r.1 (nextEpoch t.epoch) (c.jobNum (t.keeper.lastJob + 1)))).startChange c := by
  have hrest : (s.keeper.passed.find? (fun r => r.2 == c)).toList.foldl (fun ps r => ps.erase r) s.keeper.passed = s.passedBut c := by
    unfold State.passedBut
    cases s.keeper.passed.find? (fun r => r.2 == c) <;> rfl
  have hidle : s.mapCur.any (fun m => m.idle c) = m.idle c := by rw [hmap, Option.any_some]
  have hjudged : s.mapCur.bind (fun m => s.changeRefused m c) = s.changeRefused m c := by rw [hmap, Option.bind_some]
  rw [State.pumpFrom, hidle, hjudged]
  dsimp only
  rw [hrest]
  rfl

theorem State.refuseCompose_only (s : State) (node st n : Nat) : ∃ regs queue composing granted,
    s.refuseCompose node st n = { s with regs := regs, queue := queue, composing := composing, granted := granted } := by
  unfold State.refuseCompose
  split
  · split
    · exact ⟨_, s.queue, none, none, rfl⟩
    · exact ⟨s.regs, s.queue, s.composing, s.granted, rfl⟩
  · exact ⟨s.regs, _, s.composing, s.granted, State.sendMap_eq ..⟩

theorem State.acceptCompose_only (s : State) (node epoch job : Nat) : ∃ queue granted,
    s.acceptCompose node epoch job = { s with queue := queue, granted := granted } := by
  unfold State.acceptCompose
  split
  · split
    · exact ⟨s.queue, _, rfl⟩
    · exact ⟨s.queue, s.granted, rfl⟩
  · exact ⟨_, s.granted, State.sendMap_eq ..⟩

section First
variable {s : State} {m : FMap} {c : Change} (hmap : s.mapCur = some m) (hleader : s.leader = true) (hopen : s.fenced = false)
  (hstage : s.keeper.stage = 0) (hchanges : s.keeper.changes = [])
include hleader hopen hstage hchanges

/-- A leader with nothing under way takes a change up at once. -/
theorem State.addChange_first : s.addChange c = (s.withChanges [c]).pumpFrom [c] := by
  have hone : s.keeper.changes ++ [c] = [c] := by rw [hchanges, List.nil_append]
  have hgo : ¬ (!s.leader ∨ s.keeper.stage ≠ 0 ∨ s.fenced ∨ [c] = []) := by
    rw [hleader, hopen, hstage]
    simp
  unfold State.addChange
  rw [hone]
  exact if_neg hgo

include hmap

/-- The three ends of a change that is taken up. -/
theorem State.addChange_outcome : s.addChange c =
    if m.idle c then s.takenUp c
    else match s.changeRefused m c with
      | some (st, n) => (forL (s.askers c) ((s.unasked c).withChanges [c]) (fun r t => t.refuseCompose r.1 st n)).withChanges []
      | none => (forL (s.askers c) (s.takenUp c) (fun r t => t.acceptCompose r.1 (nextEpoch t.epoch) (c.jobNum (t.keeper.lastJob + 1)))).startChange c := by
  have hcur : (s.withChanges [c]).mapCur = some m := hmap
  rw [State.addChange_first hleader hopen hstage hchanges, State.pumpFrom_cons hcur, State.changeRefused_withChanges]
  rfl

/-- A change that has nothing to do is forgotten. -/
theorem State.addChange_idle (hidle : m.idle c = true) :
    s.addChange c = { s with keeper := { s.keeper with passed := s.passedBut c } } := by
  rw [State.addChange_outcome hmap hleader hopen hstage hchanges, if_pos hidle, State.takenUp, ← hchanges]

/-- A composition that no longer stands is answered, and nothing of it commits. -/
theorem State.addChange_refused {st n : Nat} (hidle : m.idle c = false) (hrefused : s.changeRefused m c = some (st, n)) :
    ∃ regs queue composing granted, s.addChange c = { s with
      regs := regs, queue := queue, composing := composing, granted := granted, keeper := { s.keeper with passed := s.passedBut c } } := by
  obtain ⟨regs, queue, composing, granted, hanswered⟩ := forL_induct
    (P := fun t => ∃ regs queue composing granted,
      t = { (s.unasked c).withChanges [c] with regs := regs, queue := queue, composing := composing, granted := granted })
    (s.askers c) (fun r t => t.refuseCompose r.1 st n) (s := (s.unasked c).withChanges [c])
    ⟨s.regs, s.queue, s.composing, s.granted, rfl⟩ fun r _ t ht => by
      obtain ⟨regs, queue, composing, granted, rfl⟩ := ht
      exact State.refuseCompose_only _ r.1 st n
  refine ⟨regs, queue, composing, granted, ?_⟩
  rw [State.addChange_outcome hmap hleader hopen hstage hchanges, if_neg (by rw [hidle]; exact Bool.false_ne_true), hrefused]
  dsimp only
  rw [hanswered, State.withChanges, ← hchanges]
  rfl

/-- A change that stands is replicated as the next map. -/
theorem State.addChange_starts (hquorum : 1 < s.quorum) (hform : ∀ f, c ≠ .form f) (hidle : m.idle c = false) (hstands : s.changeRefused m c = none) :
    (s.addChange c).keeper.replicated = some (s.nextMap m c) ∧ (s.addChange c).keeper.stage = 1 ∧ (s.addChange c).mapCur = some m := by
  obtain ⟨queue, granted, haccepted⟩ := forL_induct
    (P := fun t => ∃ queue granted, t = { s.takenUp c with queue := queue, granted := granted })
    (s.askers c) (fun r t => t.acceptCompose r.1 (nextEpoch t.epoch) (c.jobNum (t.keeper.lastJob + 1))) (s := s.takenUp c)
    ⟨s.queue, s.granted, rfl⟩ fun r _ t ht => by
      obtain ⟨queue, granted, rfl⟩ := ht
      exact State.acceptCompose_only _ r.1 _ _
  have hnext : State.nextMap { s.takenUp c with queue := queue, granted := granted } m c = s.nextMap m c := by cases c <;> rfl
  rw [State.addChange_outcome hmap hleader hopen hstage hchanges, if_neg (by rw [hidle]; exact Bool.false_ne_true), hstands]
  dsimp only
  rw [haccepted, ← hnext]
  exact State.startChange_replicates hmap hform hquorum

end First

end Sys2Proof.Machine

/-! What the leader makes of what it is told (R435, R436, R439, R500 to R503, R520). -/

namespace Sys2Proof.Machine

/-! ### The end of a composition request (R502, R520) -/

theorem State.endCompose_fields (s : State) (status node : Nat) : (s.endCompose status node).fld f_SLC_COMPOSE_STAT_BUSY = 0 ∧
    (s.endCompose status node).fld f_SLC_COMPOSE_STAT_STATUS = status % 256 ∧
    (s.endCompose status node).fld f_SLC_COMPOSE_STAT_NODE = node % 2 ^ 16 ∧ s.RegsKept (s.endCompose status node) [0xD0A10] := by
  have hwords (o : Nat) : (s.endCompose status node).word o = (((s.setFld f_SLC_COMPOSE_STAT_BUSY 0).setFld f_SLC_COMPOSE_STAT_NODE node).setFld
      f_SLC_COMPOSE_STAT_STATUS status).word o := by
    refine State.word_of_regs ?_ o
    unfold State.endCompose
    dsimp only
  have hfield (f : Fld) : (s.endCompose status node).fld f = (((s.setFld f_SLC_COMPOSE_STAT_BUSY 0).setFld f_SLC_COMPOSE_STAT_NODE node).setFld
      f_SLC_COMPOSE_STAT_STATUS status).fld f := congrArg f.get (hwords _)
  obtain ⟨-, hothers⟩ := ((s.setFldAt_onlyWords f_SLC_COMPOSE_STAT_BUSY 0 0 rfl).trans (State.setFldAt_onlyWords _ f_SLC_COMPOSE_STAT_NODE 0 node rfl)).trans
    (State.setFldAt_onlyWords _ f_SLC_COMPOSE_STAT_STATUS 0 status rfl)
  refine ⟨?_, ?_, ?_, fun o ho => (hwords o).trans (hothers o ho)⟩
  · rw [hfield, State.fld_setFld_ne _ _ _ _ (by decide) (.inr (.inr (by decide))), State.fld_setFld_ne _ _ _ _ (by decide) (.inr (.inr (by decide)))]
    exact State.fld_setFld _ _ _ (by decide)
  · rw [hfield]
    exact State.fld_setFld _ _ _ (by decide)
  · rw [hfield, State.fld_setFld_ne _ _ _ _ (by decide) (.inr (.inr (by decide)))]
    exact State.fld_setFld _ _ _ (by decide)

theorem exec_composeTimeout {s : State} (halive : s.alive = true) (hwaits : s.composing.isSome = true ∨ s.composeAt.isSome = true) :
    exec .composeTimeout s = .next { s.endCompose eTimeout 0 with composeAt := none } := by
  change execComposeTimeout s = _
  rw [execComposeTimeout, State.whenAlive_alive halive, if_pos hwaits]

/-- A request that is not committed in time ends with `E_TIMEOUT` (R502 check 4). -/
theorem State.composeTimedOut_fields (s : State) {t : State} (ht : t = { s.endCompose eTimeout 0 with composeAt := none }) :
    t = { s with regs := t.regs, composing := none, composeAt := none, granted := none } ∧ s.RegsKept t [0xD0A10] ∧
      t.fld f_SLC_COMPOSE_STAT_BUSY = 0 ∧ t.fld f_SLC_COMPOSE_STAT_STATUS = eTimeout ∧ t.fld f_SLC_COMPOSE_STAT_NODE = 0 := by
  obtain ⟨hbusy, hstatus, hnode, hothers⟩ := s.endCompose_fields eTimeout 0
  have hwords (o : Nat) : t.word o = (s.endCompose eTimeout 0).word o := by
    rw [ht]
    exact State.word_of_regs (by dsimp only) o
  have hfield (f : Fld) : t.fld f = (s.endCompose eTimeout 0).fld f := congrArg f.get (hwords _)
  refine ⟨?_, fun o ho => (hwords o).trans (hothers o ho), (hfield _).trans hbusy, (hfield _).trans hstatus, (hfield _).trans hnode⟩
  rw [ht]
  unfold State.endCompose
  rfl

/-! ### Reports (R431, R439) -/

section Reports
variable {s : State} {m : FMap} {src : Nat} (halive : s.alive = true) (hopen : s.fenced = false)

include halive hopen in
theorem exec_report_leader (hleader : s.leader = true) (r : Report) :
    exec (.report src r) s = .next ((s.takeMap (.report r)).takeReport src r) := by
  have hacts : ((s.takeMap (.report r)).leader && !(s.takeMap (.report r)).fenced) = true := by
    rw [State.takeMap_leader, (s.takeMap_sendsAlike _).fenced, hleader, hopen]
    rfl
  change execReport src r s = _
  exact congrArg Host.Outcome.next ((State.whenAlive_alive halive _).trans (if_pos hacts))

include halive in
theorem exec_report_refused {st n : Nat} (hleader : s.leader = false) (hasked : s.composing.isSome = true) :
    exec (.report src (.refused st n)) s = .next ((s.takeMap (.report (.refused st n))).endCompose st n) := by
  obtain ⟨rx, links, htaken⟩ := s.takeMap_only (.report (.refused st n))
  have hacts : ¬ ((s.takeMap (.report (.refused st n))).leader && !(s.takeMap (.report (.refused st n))).fenced) = true := by
    rw [State.takeMap_leader, hleader]
    exact Bool.false_ne_true
  have hwaits : (s.takeMap (.report (.refused st n))).composing.isSome = true := by rw [htaken]; exact hasked
  change execReport src (.refused st n) s = _
  exact congrArg Host.Outcome.next ((State.whenAlive_alive halive _).trans ((if_neg hacts).trans (if_pos hwaits)))

include halive in
theorem exec_report_accepted {e j : Nat} (hleader : s.leader = false) (hasked : s.composing.isSome = true) :
    exec (.report src (.accepted e j)) s = .next (State.endGranted { s.takeMap (.report (.accepted e j)) with granted := some (e, j) }) := by
  obtain ⟨rx, links, htaken⟩ := s.takeMap_only (.report (.accepted e j))
  have hacts : ¬ ((s.takeMap (.report (.accepted e j))).leader && !(s.takeMap (.report (.accepted e j))).fenced) = true := by
    rw [State.takeMap_leader, hleader]
    exact Bool.false_ne_true
  have hwaits : (s.takeMap (.report (.accepted e j))).composing.isSome = true := by rw [htaken]; exact hasked
  change execReport src (.accepted e j) s = _
  exact congrArg Host.Outcome.next ((State.whenAlive_alive halive _).trans ((if_neg hacts).trans (if_pos hwaits)))

section Taken
variable (hmap : s.mapCur = some m)
include hmap

theorem State.takeReport_portUp (l : LinkEnt) : s.takeReport src (.portUp l) = s.addChange (.addLink l) := by
  unfold State.takeReport
  rw [hmap]

theorem State.takeReport_portDown {l : LinkEnt} (hlisted : l ∈ m.links) : s.takeReport src (.portDown l) = s.addChange (.dropLink l) := by
  unfold State.takeReport
  rw [hmap]
  exact if_pos (List.contains_iff_mem.mpr hlisted)

theorem State.takeReport_newDevice (dev : Nat) (l : LinkEnt) : s.takeReport src (.newDevice dev l) = s.admitDevice m dev l := by
  unfold State.takeReport
  rw [hmap]

theorem State.takeReport_killed (n k : Nat) : s.takeReport src (.killed n k) = s.addChange (.dropClient n k) := by
  unfold State.takeReport
  rw [hmap]

theorem State.takeReport_recall (n k : Nat) : s.takeReport src (.recall n k) = s.addChange (.dropClient n k) := by
  unfold State.takeReport
  rw [hmap]

end Taken

theorem State.admitDevice_known {dev n : Nat} (l : LinkEnt) (hnode : m.nodeOfDev dev = some n) :
    s.admitDevice m dev l = s.addChange (.addLink { l with b := n }) := by
  unfold State.admitDevice
  rw [hnode]
  rfl

theorem State.admitDevice_new {dev : Nat} (l : LinkEnt) (hnode : m.nodeOfDev dev = none) (hstage : s.keeper.stage = 0)
    (hfirst : ∀ ls, .admitDev dev ls ∉ s.keeper.changes) : s.admitDevice m dev l = s.addChange (.admitDev dev [l]) := by
  have hnone : ¬ s.keeper.changes.any (fun c => match c with | .admitDev d _ => d == dev | _ => false) = true := by
    intro hany
    obtain ⟨c, hc, hdev⟩ := List.any_eq_true.mp hany
    cases c with
    | admitDev d ls =>
      rw [beq_iff_eq.mp hdev] at hc
      exact hfirst ls hc
    | form | dead | fence | addLink | dropLink | dropClient | compose | extend | shrink | teardown => exact Bool.noConfusion hdev
  unfold State.admitDevice
  rw [hnode, hstage]
  exact if_neg hnone

end Reports

/-! ### Probes (R436) -/

/-- The probes of a suspect are over. -/
def State.unprobed (s : State) (n : Nat) : State := { s with keeper := { s.keeper with probes := del s.keeper.probes (fun p => p.1 == n) } }

section Probes
variable {s : State} {m : FMap} (halive : s.alive = true) (hmap : s.mapCur = some m)
include halive

include hmap in
/-- No answer: the suspect is dead in the next map. -/
theorem exec_probeTimeout {n : Nat} (hleader : s.leader = true) (hprobed : s.keeper.probes.any (fun p => p.1 == n) = true)
    (hjobs : ∀ j ∈ m.jobs, n ∉ j.nodes) : exec (.probeTimeout n) s = .next ((s.unprobed n).addChange (.dead n)) := by
  have hnone : m.jobs.filter (fun j => j.nodes.contains n) = [] :=
    List.filter_eq_nil_iff.mpr fun j hj hcontains => hjobs j hj (List.contains_iff_mem.mp hcontains)
  have hcur : (s.unprobed n).mapCur = some m := hmap
  have hacts : ¬ (!s.leader ∨ !s.keeper.probes.any (fun p => p.1 == n)) := by
    rw [hleader, hprobed]
    simp
  change execProbeTimeout n s = _
  rw [execProbeTimeout, State.whenAlive_alive halive, if_neg hacts]
  change Host.Outcome.next ((s.unprobed n).verdict n (.dead n)) = _
  unfold State.verdict
  rw [hcur]
  dsimp only
  rw [hnone]
  rfl

/-- A probe is answered where it came from. -/
theorem exec_probe_answers {src p : Nat} {sd : Bool} (hopen : s.fenced = false) (hroute : s.outPort s.epoch src 0 = some (p, sd)) :
    exec (.probe src false) s = .next { s.takeMap .probe with
      queue := s.queue ++ [⟨12, 4 + p, .map s.me src s.epoch .probeAnswer 1 (if sd then 1 else 0) (s.mapTag .probe), none⟩] } := by
  have hpkts : s.mapPkts src .probeAnswer (s.mapTag .probe) =
      [⟨12, 4 + p, .map s.me src s.epoch .probeAnswer 1 (if sd then 1 else 0) (s.mapTag .probe), none⟩] := by
    unfold State.mapPkts
    rw [if_neg (by rw [hopen]; exact Bool.false_ne_true), hroute]
  have htaken : (s.takeMap .probe).mapPkts src .probeAnswer (s.mapTag .probe) = s.mapPkts src .probeAnswer (s.mapTag .probe) := by
    obtain ⟨rx, links, htaken⟩ := s.takeMap_only .probe
    rw [htaken]
    rfl
  change execProbe src false s = _
  rw [execProbe, State.whenAlive_alive halive]
  simp only [Bool.not_false, if_true, Bool.false_eq_true, if_false]
  rw [State.sendMap_eq, htaken, hpkts, (s.takeMap_sendsAlike .probe).queue]

include hmap in
/-- A suspect that answers has lost the link on which it was suspected. -/
theorem exec_probe_answered {src by_ port : Nat} {l : LinkEnt} (hprobes : s.keeper.probes.filter (fun p => p.1 == src) = [(src, by_, port)])
    (hlink : m.suspectLink (src, by_, port) = some l) :
    exec (.probe src true) s = .next (((s.takeMap .probeAnswer).unprobed src).addChange (.dropLink l)) := by
  obtain ⟨hkeeper, hcur, -⟩ := s.takeMap_keeps .probeAnswer
  have hdrops : ((s.takeMap .probeAnswer).unprobed src).mapCur.bind (fun m => m.suspectLink (src, by_, port)) = some l := by
    change (s.takeMap .probeAnswer).mapCur.bind (fun m => m.suspectLink (src, by_, port)) = some l
    rw [hcur, hmap]
    exact hlink
  change execProbe src true s = _
  rw [execProbe, State.whenAlive_alive halive]
  simp only [Bool.not_true, Bool.false_eq_true, if_false, if_true]
  rw [hkeeper, hprobes, ← hkeeper]
  change Host.Outcome.next (match ((s.takeMap .probeAnswer).unprobed src).mapCur.bind (fun m => m.suspectLink (src, by_, port)) with
    | some l => ((s.takeMap .probeAnswer).unprobed src).addChange (.dropLink l)
    | none => (s.takeMap .probeAnswer).unprobed src) = _
  rw [hdrops]

end Probes

/-! ### Composition at the leader (R500 to R503) -/

/-- The command by which the leader judges a request. -/
def requestInstr (node op mode job : Nat) (es : List JobSlice) : Instr :=
  if op = 1 then .compose node mode es else if op = 2 then .extend node job es else if op = 3 then .shrink node job es else .teardown node job

/-- A request that the leader judges waits no longer. -/
def State.requestTaken (s : State) (node : Nat) (c : Change) : State :=
  { s with keeper := { s.keeper with requests := s.keeper.requests.filter (fun r => r != (node, c)) } }

/-- A request that passes the checks makes its change; a teardown aborts its job at once. -/
def State.requestPasses (s : State) (node op job : Nat) (c : Change) : State :=
  let s2 := if op = 4 then s.originAbort job 4 0 else s
  State.addChange { s2 with keeper := { s2.keeper with passed := s2.keeper.passed ++ [(node, c)] } } c

section Requests
variable {s : State} {m : FMap} {node op mode job : Nat} {es : List JobSlice} {c : Change}
  (hc : op = 1 ∧ c = .compose mode es ∨ op = 2 ∧ c = .extend job es ∨ op = 3 ∧ c = .shrink job es ∨ op = 4 ∧ c = .teardown job)
include hc

theorem exec_request (halive : s.alive = true) : exec (requestInstr node op mode job es) s =
    .next (s.judgeCompose node op (if op = 1 then mode else 0) (if op = 1 then 0 else job) (if op = 4 then [] else es) true) := by
  obtain ⟨rfl, -⟩ | ⟨rfl, -⟩ | ⟨rfl, -⟩ | ⟨rfl, -⟩ := hc
  · exact congrArg Host.Outcome.next (State.whenAlive_alive halive _)
  · exact congrArg Host.Outcome.next (State.whenAlive_alive halive _)
  · exact congrArg Host.Outcome.next (State.whenAlive_alive halive _)
  · exact congrArg Host.Outcome.next (State.whenAlive_alive halive _)

theorem composeChange_request : composeChange op (if op = 1 then mode else 0) (if op = 1 then 0 else job) (if op = 4 then [] else es) = c := by
  obtain ⟨rfl, rfl⟩ | ⟨rfl, rfl⟩ | ⟨rfl, rfl⟩ | ⟨rfl, rfl⟩ := hc <;> rfl

omit hc
variable (hmap : s.mapCur = some m) (hleader : s.leader = true)
include hmap hleader

/-- A request is refused, or makes its change. -/
theorem State.judgeCompose_outcome (hchange : composeChange op mode job es = c) : s.judgeCompose node op mode job es true =
    match s.composeChecks m op mode job es with
    | some (st, n) => (s.requestTaken node c).refuseCompose node st n
    | none => (s.requestTaken node c).requestPasses node op job c := by
  have hsame : (s.requestTaken node c).composeChecks m op mode job es = s.composeChecks m op mode job es := rfl
  unfold State.judgeCompose
  split
  · rename_i hnone
    exact absurd (hnone.symm.trans hmap) (Option.some_ne_none m).symm
  · rename_i m' hsome
    obtain rfl : m' = m := Option.some.inj (hsome.symm.trans hmap)
    refine (if_neg (by rw [hleader]; exact Bool.false_ne_true)).trans ?_
    rw [hchange, ← hsame]
    rfl

end Requests

/-! ### The composition request of this ZV9 (R501, R502) -/

section Asking
variable {s : State} {w : Word} (halive : s.alive = true)

include halive in
theorem exec_slcComposeWrite : exec (.slcComposeWrite w) s = .next (s.composeWrite w) := by
  change execSlcComposeWrite w s = _
  rw [execSlcComposeWrite, State.whenAlive_alive halive]

theorem State.composeWrite_busy (hbusy : s.flag f_SLC_COMPOSE_STAT_BUSY = true) : s.composeWrite w = s := if_pos hbusy

theorem State.composeWrite_idle (hidle : s.flag f_SLC_COMPOSE_STAT_BUSY = false) :
    s.composeWrite w = s.composeRead (f_SLC_COMPOSE_ADDR.get w * 64) := if_neg (by rw [hidle]; exact Bool.false_ne_true)

theorem State.composeBytes_outside {a n : Nat} (hrange : s.plainRange a n = false) : s.composeBytes a n = .error (s.endCompose eRange 0) := by
  unfold State.composeBytes
  rw [hrange]
  rfl

theorem State.composeBytes_read {a n : Nat} {g : Got} (hrange : s.plainRange a n = true) (hread : s.feRead a n = .ok g) (hclean : g.poison = none) :
    s.composeBytes a n = .ok g.bytes := by
  unfold State.composeBytes
  rw [hrange, hread]
  simp only [Bool.not_true, Bool.false_eq_true, if_false, hclean, Option.isSome_none]

/-- The change that the bytes of a request ask for. -/
def requestAsked (bs : List Byte) (n : Nat) : Change :=
  composeChange (leAt bs 0 1) (leAt bs 1 1) (leAt bs 4 4) ((List.range n).map (fun i => (jobSliceAt ((bs.drop (16 + 8 * i)).take 8)).1))

/-- A request that has been read goes to the leader, and stays busy. -/
theorem State.composeRead_asks {a n : Nat} {h g : List Byte} (hhead : s.composeBytes a 16 = .ok h) (hn : leAt h 2 2 = n) (hmost : n ≤ 4096)
    (hbody : s.composeBytes a (16 + 8 * n) = .ok g) : ∃ keeper queue, s.composeRead a =
      { s.setFld f_SLC_COMPOSE_STAT_BUSY 1 with composing := some (requestAsked g n), keeper := keeper, queue := queue } := by
  unfold State.composeRead
  rw [hhead]
  dsimp only
  rw [hn, if_pos hmost, hbody]
  dsimp only
  rw [if_pos hmost, List.map_map]
  obtain ⟨keeper, queue, htold⟩ := State.tellLeader_only { s.setFld f_SLC_COMPOSE_STAT_BUSY 1 with composing := some (requestAsked g n) }
    (.compose s.me (leAt g 0 1) (leAt g 1 1) (leAt g 4 4) ((List.range n).map (fun i => (jobSliceAt ((g.drop (16 + 8 * i)).take 8)).1))
      (zeros g 8 8 && ((List.range n).map (fun i => jobSliceAt ((g.drop (16 + 8 * i)).take 8))).all (·.2) && decide (n ≤ 4096)))
  exact ⟨keeper, queue, htold⟩

/-- The registers of a request that goes to the leader. -/
theorem State.composeAsked_fields (s : State) (c : Option Change) (keeper : Keeper) (queue : List Queued) {t : State}
    (ht : t = { s.setFld f_SLC_COMPOSE_STAT_BUSY 1 with composing := c, keeper := keeper, queue := queue }) :
    t.fld f_SLC_COMPOSE_STAT_BUSY = 1 ∧ s.RegsKept t [0xD0A10] ∧ t.composing = c := by
  have hwords (o : Nat) : t.word o = (s.setFld f_SLC_COMPOSE_STAT_BUSY 1).word o := by
    rw [ht]
    exact State.word_of_regs (by dsimp only) o
  refine ⟨(congrArg f_SLC_COMPOSE_STAT_BUSY.get (hwords _)).trans (State.fld_setFld s _ _ (by decide)), fun o ho => (hwords o).trans ?_, by rw [ht]⟩
  exact (s.setFldAt_onlyWords f_SLC_COMPOSE_STAT_BUSY 0 1 rfl).2 o ho

end Asking

/-- Settles O54, clause by clause: the ends of a change that is taken up, what the leader is told, probes, and the request of this ZV9. -/
theorem leaderChanges : Obligations.LeaderChanges := by
  unfold Obligations.LeaderChanges
  intro s m src c halive hopen hmap drop rest told
  have hcur (r : Report) : (s.takeMap (.report r)).mapCur = some m := (s.takeMap_keeps _).2.1.trans hmap
  have htold (hleader : s.leader = true) {r : Report} {x : Change} (h : (s.takeMap (.report r)).takeReport src r = (s.takeMap (.report r)).addChange x) :
      told r x := (exec_report_leader halive hopen hleader r).trans (congrArg Host.Outcome.next h)
  refine ⟨fun hleader hstage hchanges hquorum hform hidle hstands => ?_, fun hleader hstage hchanges hidle => ?_,
    fun st n hleader hstage hchanges hidle hrefused => ?_, fun hleader => ⟨fun l => ?_, fun l hl => ?_, fun dev l n hnode => ?_,
      fun dev l hnode hstage hfirst => ?_, fun n k => ⟨?_, ?_⟩, fun n hprobed hjobs => ?_, fun node op mode job es hc => ?_⟩,
    fun p sd hroute => exec_probe_answers halive hopen hroute, fun by_ port l hprobes hlink => ?_,
    fun st n hleader hasked => exec_report_refused halive hleader hasked, fun e j hleader hasked => exec_report_accepted halive hleader hasked,
    fun hwaits => ⟨_, exec_composeTimeout halive hwaits, s.composeTimedOut_fields rfl⟩, fun w => ?_⟩
  · obtain ⟨hreplicated, hstaged, hkept⟩ := State.addChange_starts hmap hleader hopen hstage hchanges hquorum hform hidle hstands
    refine ⟨s.nextMap m c, hreplicated, hstaged, hkept, rfl, rfl, rfl, fun n hn => s.nextMap_gone m hn, fun j hj => ?_, fun mode es hc => ?_⟩
    · rw [hj]
      rfl
    · rw [hc]
      rfl
  · exact State.addChange_idle hmap hleader hopen hstage hchanges hidle
  · obtain ⟨regs, queue, composing, granted, hended⟩ := State.addChange_refused hmap hleader hopen hstage hchanges hidle hrefused
    refine ⟨_, rfl, ?_, ?_⟩
    · rw [hended]
    · rw [hended]
      rfl
  · exact htold hleader (State.takeReport_portUp (hcur _) l)
  · exact htold hleader (State.takeReport_portDown (hcur _) hl)
  · exact htold hleader ((State.takeReport_newDevice (hcur _) dev l).trans (State.admitDevice_known l hnode))
  · have hkeeper := (s.takeMap_keeps (.report (.newDevice dev l))).1
    refine htold hleader ((State.takeReport_newDevice (hcur _) dev l).trans (State.admitDevice_new l hnode ?_ ?_))
    · rw [hkeeper]
      exact hstage
    · rw [hkeeper]
      exact hfirst
  · exact htold hleader (State.takeReport_killed (hcur _) n k)
  · exact htold hleader (State.takeReport_recall (hcur _) n k)
  · exact exec_probeTimeout halive hmap hleader hprobed hjobs
  · intro s1 i mode' job' es'
    have hexec : exec i s = .next (s.judgeCompose node op mode' job' es' true) := exec_request hc halive
    have hchange : composeChange op mode' job' es' = c := composeChange_request hc
    refine ⟨fun hchecks => ⟨_, rfl, ?_⟩, fun st n hchecks hother => ?_, fun st n hchecks hown hasked => ?_⟩
    · have hjob : (if op = 4 then s1.originAbort job' 4 0 else s1) = if op = 4 then s1.originAbort job 4 0 else s1 := by
        split
        · rename_i hop
          rw [show job' = job from if_neg (by omega)]
        · rfl
      rw [hexec, State.judgeCompose_outcome hmap hleader hchange, hchecks, ← hjob]
      rfl
    · rw [hexec, State.judgeCompose_outcome hmap hleader hchange, hchecks]
      exact congrArg Host.Outcome.next (if_neg hother)
    · have hended : (s.requestTaken node c).refuseCompose node st n = (s.requestTaken node c).endCompose st n := (if_pos hown).trans (if_pos hasked)
      obtain ⟨hbusy, hstatus, hnode, hothers⟩ := (s.requestTaken node c).endCompose_fields st n
      refine ⟨(s.requestTaken node c).endCompose st n, ?_, hbusy, hstatus, hnode, rfl, hothers⟩
      rw [hexec, State.judgeCompose_outcome hmap hleader hchange, hchecks, ← hended]
  · have hkeeper := (s.takeMap_keeps .probeAnswer).1
    rw [exec_probe_answered halive hmap hprobes hlink, State.unprobed, hkeeper]
    rfl
  · intro a
    refine ⟨fun hbusy => ?_, fun hidle hrange => ?_, fun h g hidle hrange hread hclean => ?_⟩
    · rw [exec_slcComposeWrite halive, State.composeWrite_busy hbusy]
    · obtain ⟨hbusy, hstatus, -, hothers⟩ := s.endCompose_fields eRange 0
      have hended : s.composeWrite w = s.endCompose eRange 0 := by
        rw [State.composeWrite_idle hidle, State.composeRead, State.composeBytes_outside hrange]
      exact ⟨_, (exec_slcComposeWrite halive).trans (congrArg Host.Outcome.next hended), hstatus, hbusy, hothers⟩
    · intro n hmost hrange' hread' hclean' es
      obtain ⟨keeper, queue, hasks⟩ := State.composeRead_asks (State.composeBytes_read hrange hread hclean) rfl hmost
        (State.composeBytes_read hrange' hread' hclean')
      exact ⟨_, (exec_slcComposeWrite halive).trans (congrArg Host.Outcome.next ((State.composeWrite_idle hidle).trans hasks)),
        s.composeAsked_fields _ keeper queue rfl⟩

end Sys2Proof.Machine
